-- ==== Sys2Proof/Word.lean ====
section
/-! DEFINITION. The word types of the module and their plainest arithmetic: bytes, 32-bit CSR words (R7),
64-bit counters, and the field extraction every layout table uses. -/

namespace Sys2Proof

/-- One byte. -/
abbrev Byte := BitVec 8
/-- A CSR word, a tally counter, an INT32 value (R7, R72). -/
abbrev W32 := BitVec 32
/-- A 64-bit counter, a rack address, a GCNT count (R7, R217, R308). -/
abbrev W64 := BitVec 64
/-- A cairn or a command word (R134, R332). -/
abbrev W128 := BitVec 128

/-- Bits `lo + len - 1 : lo` of a number, as a number. -/
def bits (w : Nat) (lo len : Nat) : Nat := (w >>> lo) % 2 ^ len

/-- Bit `i` of a number. -/
def bit (w : Nat) (i : Nat) : Bool := w.testBit i

/-- The number of a flag. -/
def ofFlag (b : Bool) : Nat := if b then 1 else 0

/-- The signed value of the low `n` bits (two's complement). -/
def signed (n : Nat) (w : Nat) : Int :=
  if w % 2 ^ n < 2 ^ (n - 1) then (w % 2 ^ n : Nat) else (w % 2 ^ n : Nat) - (2 ^ n : Nat)

/-- The low `n` bits of an integer, as a number (two's complement). -/
def unsigned (n : Nat) (i : Int) : Nat := (i % (2 ^ n : Nat)).toNat

/-- The number a little-endian byte string spells. -/
def leNat : List Byte → Nat
  | [] => 0
  | b :: bs => b.toNat + 256 * leNat bs

/-- The low `n` bytes of a number, little-endian. -/
def leBytes : Nat → Nat → List Byte
  | 0, _ => []
  | n + 1, w => BitVec.ofNat 8 w :: leBytes n (w / 256)

/-- The number a big-endian byte string spells. -/
def beNat (bs : List Byte) : Nat := bs.foldl (fun a b => 256 * a + b.toNat) 0

/-- The low `n` bytes of a number, big-endian. -/
def beBytes (n w : Nat) : List Byte := (leBytes n w).reverse

/-- `n` zero bytes. -/
def zeros (n : Nat) : List Byte := List.replicate n 0

/-- `n / d` rounded up. -/
def ceilDiv (n d : Nat) : Nat := (n + d - 1) / d

/-- A multiple of `d` not below `n`. -/
def roundUp (n d : Nat) : Nat := ceilDiv n d * d

/-- Bytes `off .. off + len - 1` of a byte string, missing bytes left out. -/
def slice (bs : List Byte) (off len : Nat) : List Byte := (bs.drop off).take len

/-- The little-endian field of `len` bytes at byte `off`. -/
def fieldAt (bs : List Byte) (off len : Nat) : Nat := leNat (slice bs off len)

/-- Every byte of the range is zero. -/
def zeroAt (bs : List Byte) (off len : Nat) : Bool := (slice bs off len).all (· == 0)

/-- A counter raised by `n`: 64-bit counters wrap at 2^64 (Tables COR-8 to FLT-10). -/
def bump (c : W64) (n : Nat := 1) : W64 := c + BitVec.ofNat 64 n

/-- A vector with one place rewritten by `f`. -/
def upd {α : Type} {n : Nat} (v : Vector α n) (i : Fin n) (f : α → α) : Vector α n :=
  v.set i (f v[i])

end Sys2Proof
end

