-- ==== Sys2Proof/Syntax.lean ====
section
/-! DEFINITION. The commands of the block: one constructor of `Instr` for each row of the operation table, with the
operands that come from outside the module (a packet, a register write, a pin, a sensor reading, the core or field a
step happens in), and the packet and message types those operands are made of. -/

namespace Sys2Proof

/-- Core index 0-255 (R22). -/
abbrev CoreIx := Fin 256
/-- Task context 0-3 of a core (R67). -/
abbrev TaskIx := Fin 4
/-- Field index 0-63 (R21). -/
abbrev FieldIx := Fin 64
/-- Port group 0-13 (R15). -/
abbrev GroupIx := Fin 14
/-- Sublink 0 or 1 of a port group (R344). -/
abbrev SubIx := Fin 2
/-- Switched power domain 0-87 (R404). -/
abbrev DomIx := Fin 88
/-- Module index 0-15 (R12). -/
abbrev ModIx := Fin 16
/-- Gang slot 0-511 of a core (R74). -/
abbrev SlotIx := Fin 512
/-- Image slot 0 or 1 (R180). -/
abbrev ImgIx := Fin 2
/-- Host port: 0 port A, 1 port B. -/
abbrev PortIx := Fin 2
/-- One of a router's eight mesh and express links: N, E, S, W, N2, E2, S2, W2 (Table WAF-5). -/
abbrev DirIx := Fin 8

/-- The four command queues of a task context (R68). -/
inductive Queue where
  | mat | vec | str | ctl
  deriving DecidableEq, Repr

/-- An access path to CSR space (R9): a host port, an open session by number 0-3, the warden. -/
inductive Path where
  | hostA
  | hostB
  | session (i : Fin 4)
  | warden
  deriving DecidableEq, Repr

/-- Where a session's messages travel (R454, Table BOO-5). -/
inductive SessPath where
  | hostA | hostB | mgmt
  deriving DecidableEq, Repr

/-- A packet of the wafer mesh (Table WAF-3). `body` is the data (at most 4,096 bytes); `rlen` the bytes a read
request asks for; `efmt`, `anchored` and `epw` what a reduce-add carries from its issuer (R122). `task`, `cmd`, `slot` and `tag`
name what the packet belongs to at its issuer (task context, command, gang slot, place in the segment's data), so that a
response or acknowledgement finds it (R71); a response keeps the source fields of its request. `last` marks the last
packet of a segment. -/
structure MeshPacket where
  addr     : W64
  srcField : FieldIx
  srcCore  : Fin 4
  region   : Byte
  vc       : Fin 4
  ord      : Bool
  mcast    : Bool
  x0       : Fin 8
  x1       : Fin 8
  y0       : Fin 8
  y1       : Fin 8
  cmask    : BitVec 4
  op       : BitVec 4
  status   : BitVec 4
  ctx      : BitVec 16
  rlen     : Nat
  efmt     : BitVec 8
  anchored : Bool
  epw      : Bool
  task     : Fin 4
  cmd      : Nat
  slot     : Fin 512
  tag      : Nat
  last     : Bool
  body     : List Byte
  deriving DecidableEq, Repr

/-- A control-network message (Table WAF-8). -/
structure CtlMsg where
  typ     : BitVec 4
  dest    : FieldIx
  src     : FieldIx
  bcast   : Bool
  plane   : Bool
  arg     : BitVec 12
  payload : List W32
  deriving DecidableEq, Repr

/-- A packet of the Morkan link (Table LNK-3). `flitVc` is the VC code of the flits that carried it, `resv` whether a
reserved bit of its headers was set, `uhdr` its upper header (64 bytes when UHDR = 1, else none); `last` marks the last
packet of a segment; `efmt`, `anchored` and `epw` are what a reduce-add carries from its issuer (R122). -/
structure LinkPacket where
  typ    : Byte
  vc     : BitVec 3
  ord    : Bool
  resv   : Bool
  flitVc : BitVec 3
  dst    : Byte
  src    : Byte
  pkey   : BitVec 16
  ctx    : BitVec 16
  addr   : W64
  rope   : BitVec 12
  status : BitVec 8
  tag    : W32
  rlen   : W32
  last   : Bool
  efmt   : BitVec 8
  anchored : Bool
  epw    : Bool
  uhdr   : List Byte
  body   : List Byte
  deriving DecidableEq, Repr

/-- A team message (Table PIT-1). -/
structure TeamMsg where
  typ  : Byte
  team : Byte
  src  : Byte
  arg  : Byte
  pnum : W32
  c1   : W64
  c2   : W64
  c3   : W64
  deriving DecidableEq, Repr

/-- The trailer of a received frame (Table LNK-2), and how many of its codewords the FEC corrected (Table LNK-14). -/
structure Frame where
  fseq  : BitVec 12
  ackv  : Bool
  rply  : Bool
  ack   : BitVec 12
  vcmap : List (BitVec 3)
  cred  : Vector (BitVec 10) 6
  corr  : Nat := 0
  deriving DecidableEq, Repr

/-- The CAPS body (Table LNK-6). -/
structure Caps where
  kind    : Byte
  ident   : Byte
  group   : Byte
  rackId  : BitVec 16
  epoch   : BitVec 16
  nextSeq : BitVec 12
  version : BitVec 16
  credits : Vector (BitVec 16) 6
  deriving DecidableEq, Repr

/-- An error that a stored code finds in a granule a command reads: two or more flipped bits (uncorrectable), or one that is
corrected (R239, R240). -/
structure EccErr where
  granule : Nat
  uncorr  : Bool
  deriving DecidableEq, Repr

/-- A fault of a core's adder in collective mode (R132): in which unit, at the addend of which position, on which element and
attempt, by how much the sum and the rounded result come out wrong, in units of the operands' common least significant bit. -/
structure AddErr where
  unit    : Nat
  pos     : Nat
  elem    : Nat
  attempt : Fin 2
  sum     : Int
  round   : Int
  deriving DecidableEq, Repr

/-- A fault event on its way to the log (Tables FLT-2 and FLT-3): class, unit and local code are CODE. -/
structure FaultEv where
  code    : BitVec 16
  srcKind : Byte
  srcId   : Byte
  data    : List Byte
  deriving DecidableEq, Repr

/-- The source of a reset or shutdown. -/
inductive ResetSource where
  | register (p : Path) | pin | warden | eject
  deriving DecidableEq, Repr

/-- The 20 bytes of header a session message carries, with its MAC (Table BOO-5). -/
structure SessHdr where
  path : SessPath
  sid  : W32
  seq  : W64
  mac  : List Byte
  deriving DecidableEq, Repr

/-- What a thermal sensor is on (R423): a core's sensor 0-3, or a field's stack sensor. Readings are in units of
0.25 degrees C. -/
inductive Sensor where
  | core  (c : CoreIx) (k : Fin 4)
  | stack (f : FieldIx)
  deriving DecidableEq, Repr

/-- The commands of the block, one per row of the operation table. An operand and what its event brings with it stand as a pair: what is
read and the errors its read meets (R239, R240); a link's failing bundle and how far back the flit lies (R45); a message with its failing
word and that word's parity bits (R62); a sublink and the codewords of a failing frame that its FEC corrected and could not (Table
LNK-14). -/
inductive Instr where
  -- tile commands: the command at the head of its queue in task context t of core c issues (R70)
  | nop (c : CoreIx) (t : TaskIx)
  | wait (c : CoreIx) (t : TaskIx)
  | clr (c : CoreIx) (t : TaskIx)
  | add (c : CoreIx) (t : TaskIx)
  | bara (c : CoreIx) (t : TaskIx)
  | barw (c : CoreIx) (t : TaskIx)
  | twait (c : CoreIx) (t : TaskIx)
  | drain (c : CoreIx) (t : TaskIx)
  | mark (c : CoreIx) (t : TaskIx)
  | endSlice (c : CoreIx) (t : TaskIx)
  | mset (c : CoreIx) (t : TaskIx)
  | mma (c : CoreIx) (t : TaskIx)
  | smma (c : CoreIx) (t : TaskIx)
  | vop (c : CoreIx) (t : TaskIx)
  | vred (c : CoreIx) (t : TaskIx)
  | vcvt (c : CoreIx) (t : TaskIx)
  | vtopk (c : CoreIx) (t : TaskIx)
  | stream (c : CoreIx) (t : TaskIx)
  | smerge (c : CoreIx) (t : TaskIx)
  | scomp (c : CoreIx) (t : TaskIx)
  | sexpd (c : CoreIx) (t : TaskIx)
  | smask (c : CoreIx) (t : TaskIx)
  | coll (c : CoreIx) (t : TaskIx)
  | cairn (c : CoreIx) (t : TaskIx)
  | cclose (c : CoreIx) (t : TaskIx)
  | sha (c : CoreIx) (t : TaskIx)
  | ledger (c : CoreIx) (t : TaskIx)
  | undefinedOpcode (c : CoreIx) (t : TaskIx)
  -- the core's machinery
  | commandFetch (c : CoreIx) (t : TaskIx × List EccErr)
  | gangSpawn (c : CoreIx)
  | gangRetire (c : CoreIx) (g : SlotIx × List EccErr)
  | commandComplete (c : CoreIx) (t : TaskIx) (q : Queue)
  | descriptorSetup (c : CoreIx) (t : TaskIx × List EccErr)
  | segmentStart (c : CoreIx) (g : SlotIx × List EccErr)
  | sliceBoundary (c : CoreIx)
  | sliceGuardPoint (c : CoreIx)
  | thermalStepDown (f : FieldIx)
  | thermalStepUp (c : CoreIx)
  | floorEscalation (c : CoreIx)
  | clockLevelChange (c : CoreIx)
  | clockLevelChangeEnd (c : CoreIx)
  -- the mesh
  | meshReadRequest (p : MeshPacket) (ecc : List EccErr)
  | meshWrite (p : MeshPacket)
  | meshReadResponse (p : MeshPacket)
  | meshReduceAdd (p : MeshPacket)
  | meshWriteAck (p : MeshPacket)
  | meshErrorResponse (p : MeshPacket)
  | multicastReplicate (f : FieldIx) (p : MeshPacket)
  | multicastLocalDeliver (f : FieldIx) (c : Fin 4) (p : MeshPacket)
  | bundleCrcRetry (f : FieldIx) (d : DirIx) (b : Fin 9 × Fin 17)
  | bundleFail (f : FieldIx) (d : DirIx) (b : Fin 9)
  | bundleSpareResume (f : FieldIx) (d : DirIx)
  | routerFailed (f : FieldIx)
  -- the control network
  | ctlTick (f : FieldIx) (bound : W64)
  | ctlGcntSync (count : W64)
  | ctlHoldRequest (c : CoreIx)
  | ctlHoldGrant (f : FieldIx) (bound : W64)
  | barrierArrival (bar : BitVec 12) (src : FieldIx)
  | barrierRelease (f : FieldIx) (bar : BitVec 12)
  | ctlCreditGrant (c : CoreIx) (ctx : BitVec 16) (count : BitVec 12)
  | ctlFaultEvent (e : FaultEv)
  | ctlConfigWrite (p : Path) (f : FieldIx) (off : BitVec 18) (v : W32)
  | ctlConfigRead (p : Path) (f : FieldIx) (off : BitVec 18)
  | ctlReadResponse (p : Path) (f : FieldIx) (off : BitVec 18) (v : W32)
  | ctlFence (f : FieldIx) (d : DomIx) (raised : Bool)
  | ctlParityFail (f : FieldIx) (d : Fin 4) (m : CtlMsg × W32 × BitVec 2)
  -- registers, slots, resets
  | csrWrite (p : Path) (off : BitVec 26) (v : W32)
  | csrReadLowLatch (p : Path) (off : BitVec 26)
  | arm (p : Path) (slot : ImgIx)
  | armCheckDone (slot : ImgIx)
  | disarm (p : Path) (slot : ImgIx)
  | wardenReset (src : ResetSource)
  | wardenRestartDone
  | wardenWatchdog
  | moduleReset (src : ResetSource)
  | load (p : Path)
  | loadCheckDone
  | swapGo (p : Path)
  | swapCancel (p : Path)
  | configSwap
  -- power
  | domainOnRequest (p : Path) (d : BitVec 7)
  | domainOffRequest (p : Path) (d : BitVec 7)
  | domainSequenceStart
  | domainStage (d : DomIx)
  | domainRegulated (d : DomIx)
  | domainReady (d : DomIx)
  | domainOff (d : DomIx)
  | domainReversal (d : DomIx)
  | fenceRaise (d : DomIx)
  | powerDownStart (d : DomIx)
  | fenceLower (d : DomIx)
  | droopClamp (f : FieldIx) (ns : Nat)
  | clampCeilingRaise (f : FieldIx)
  | phaseFault (z : DomIx)
  | governorTick (avg10ms : Nat) (avg1s : Nat) (demand : FieldIx)
  | sensorRead (x : Sensor) (reading : Int)
  | shutdown (cause : BitVec 2) (source : Byte)
  | inputVoltageFault
  | shutdownIntervalEnd
  -- start-up and pins
  | startupBegin
  | startupDomainGroup
  | startupDomainTimeout (d : DomIx)
  | mrstNAssert (level : Bool)
  | ejectNLow
  | ejectNHigh
  | perstN (port : PortIx)
  | rtcSet (p : Path) (v : W64)
  | rtcHoldupLost
  -- management sessions
  | hello (p : SessPath) (nc : List Byte) (lifetime : W32)
  | proof (p : SessPath) (body : List Byte)
  | sessionRead (h : SessHdr) (off : W32) (n : W32)
  | sessionWrite (h : SessHdr) (off : W32) (ws : List W32)
  | stkWrite (h : SessHdr) (off : W64) (bs : List Byte)
  | nvmProgram (h : SessHdr) (nvmOff : W32) (stkOff : W64) (len : W32)
  | nvmWriteKeySlot (h : SessHdr) (slot : Fin 4) (key : List Byte)
  | nvmRaiseVfloor (h : SessHdr) (v : W32)
  | close (h : SessHdr)
  | sessionExpire (k : Fin 4)
  | sessionLockEnd
  | mboxPost (port : PortIx) (inLen : BitVec 13)
  | mboxOutAck (port : PortIx)
  | mboxOutReady (port : PortIx)
  -- launch, pitches, holds
  | launchGo (p : Path) (slot : ImgIx)
  | launchPropose (g : GroupIx) (m : TeamMsg)
  | reply (g : GroupIx) (m : TeamMsg)
  | launchCommitCount
  | launchCommit (g : GroupIx) (m : TeamMsg)
  | launchCancel (g : GroupIx) (m : TeamMsg)
  | launchDecisionMissing
  | launchPitchStart
  | launchCount
  | pitchBoundary
  | congestionMapClose
  | guardPoint
  | holdReq (g : GroupIx) (m : TeamMsg)
  | holdDecisionCount
  | decision (g : GroupIx) (m : TeamMsg)
  | decisionMissing
  | overrunReceived (g : GroupIx) (m : TeamMsg)
  | abandonCount
  | abandon (p : Path)
  | logClr (p : Path)
  | msixHoldExpire (port : PortIx)
  -- time
  | timeReqSend
  | timeReq (g : GroupIx) (u : SubIx) (m : TeamMsg)
  | timeResp (m : TeamMsg)
  | timeRespTimeout
  | syncInterval
  | holdoverAlignmentLost
  | holdoverMemberLost (m : ModIx)
  | referenceFallback
  | timeRootRtcSet
  | syncSublinkReturn
  | memberLost (m : ModIx)
  | leadLost
  -- the Morkan link
  | dataFrame (g : GroupIx) (u : SubIx) (fr : Frame)
  | nullFrame (g : GroupIx) (u : SubIx) (fr : Frame)
  | frameFail (g : GroupIx) (u : SubIx × Nat × Nat)
  | replyRequest (g : GroupIx) (u : SubIx) (e : BitVec 12)
  | replayTimeout (g : GroupIx) (u : SubIx)
  | warmRetrain (g : GroupIx) (u : SubIx)
  | retrainDone (g : GroupIx) (u : SubIx)
  | trainingDone (g : GroupIx) (u : SubIx)
  | caps (g : GroupIx) (u : SubIx) (b : Caps)
  | linkLoss (g : GroupIx) (u : SubIx)
  | laneFail (g : GroupIx) (u : SubIx) (lane : Fin 34)
  | laneSwap (g : GroupIx) (u : SubIx) (failed : Fin 34) (spare : Fin 34) (commit : W32)
  | laneSwapAck (g : GroupIx) (u : SubIx) (failed : Fin 34) (spare : Fin 34) (commit : W32)
  | laneSwapCommit (g : GroupIx) (u : SubIx)
  | bivouacTrigger (g : GroupIx) (u : SubIx) (full : Bool)
  | bivReq (g : GroupIx) (u : SubIx) (full : Bool) (commit : W32)
  | bivAck (g : GroupIx) (u : SubIx) (full : Bool) (commit : W32)
  | bivNak (g : GroupIx) (u : SubIx) (reason : Byte)
  | bivCancel (g : GroupIx) (u : SubIx) (commit : W32)
  | bivouacCommitPoint (g : GroupIx) (u : SubIx) (rx : Bool)
  | bivouacWake (g : GroupIx) (u : SubIx)
  | wakeComplete (g : GroupIx) (u : SubIx) (rx : Bool)
  | echo (g : GroupIx) (u : SubIx) (body : List Byte)
  | dis (p : Path) (g : GroupIx) (d : BitVec 2)
  | quarClr (p : Path) (g : GroupIx)
  | lnkLoopWrite (p : Path) (g : GroupIx) (v : W32)
  | loopClearAtLaunch
  | violationDecay (g : GroupIx)
  | linkReadRequest (g : GroupIx) (u : SubIx) (p : LinkPacket × List EccErr)
  | linkWrite (g : GroupIx) (u : SubIx) (p : LinkPacket)
  | linkReadResponse (g : GroupIx) (u : SubIx) (p : LinkPacket)
  | linkReduceAdd (g : GroupIx) (u : SubIx) (p : LinkPacket)
  | linkWriteAck (g : GroupIx) (u : SubIx) (p : LinkPacket)
  | linkErrorResponse (g : GroupIx) (u : SubIx) (p : LinkPacket)
  | archiveRecord (g : GroupIx) (u : SubIx) (p : LinkPacket)
  | archiveDigestRecord (g : GroupIx) (u : SubIx) (p : LinkPacket)
  | archiveErrorRecord (g : GroupIx) (u : SubIx) (p : LinkPacket)
  | chainChunkHeader (g : GroupIx) (u : SubIx) (p : LinkPacket)
  | belayGrant (g : GroupIx) (u : SubIx) (p : LinkPacket)
  | nack (g : GroupIx) (u : SubIx) (p : LinkPacket)
  -- the fabric
  | belayGrantSend (ctx : BitVec 16)
  | leaseRenewal (ctx : BitVec 16)
  | leaseExpire (ctx : BitVec 16) (holder : Bool)
  | fabRevoke (p : Path) (v : W32)
  | ropeWindowOpen (rope : BitVec 12) (entry : Nat)
  | ropeWindowClose (rope : BitVec 12) (entry : Nat)
  | ordPacketRelease (g : GroupIx) (u : SubIx)
  -- intake and the lower tiers
  | archiveRequestIssue (g : GroupIx) (u : SubIx)
  | archiveReturnSend (c : CoreIx) (g : SlotIx)
  | parkedRefetch (ctx : BitVec 16)
  | folioDigestDone (accession : BitVec 48) (index : Nat)
  | scrubStart
  | scrubEntryDone (entry : Fin 256)
  | requestTimeout (req : Nat)
  | ackTimeout (req : Nat)
  | lateResponseDiscard (req : Nat)
  | hostFlushReadDone (port : PortIx) (req : Nat)
  | stackRefresh (f : FieldIx) (delayed : Nat)
  | refreshRateChange (f : FieldIx)
  | patrolScrubRead (addr : W64) (ecc : BitVec 2)
  -- collectives and the ledger
  | collectiveStart (c : CoreIx) (g : SlotIx)
  | chainChunkLanded (c : CoreIx) (g : SlotIx) (chunk : Nat) (errs : List AddErr)
  | chainChunkForward (c : CoreIx) (g : SlotIx) (chunk : Nat)
  | chainChunkRelease (c : CoreIx) (g : SlotIx) (chunk : Nat)
  | reduceScatterAdd (c : CoreIx) (g : SlotIx) (errs : List AddErr)
  | expertDispatchSend (c : CoreIx) (g : SlotIx)
  | expertCombineReturn (c : CoreIx) (g : SlotIx)
  | ledgerRecordWritten
  | stateSkew (kind : Byte) (again : Bool)
  | hostReadCompletion (port : PortIx) (req : Nat) (poison : Bool) (bs : List Byte)
  | retrainFailed (g : GroupIx) (u : SubIx)
  deriving DecidableEq, Repr

end Sys2Proof
end

