-- ==== Sys2Proof/Config.lean ====
section
/-! DEFINITION. What a particular module fixes and the manual leaves open: free values (constants without a body, so that no
proof can see one) and the secrets and identities burnt into one module. -/

namespace Sys2Proof

/-- The bits of a poisoned value, which the manual leaves unspecified (R131); the argument is the state's counter of free
values. A free value. -/
opaque Config.freeByte : Nat → Byte

/-- A free number: a nonce the warden draws, a phase, a training outcome (R238, R455); the argument is the state's counter of
free values. A free value. -/
opaque Config.freeNat : Nat → Nat

/-- The count rate a module trims itself to after an interval, from its present rate and 16 times the interval's average, in counts
gained per 10⁹ ns (R314): the loop is not given. A free value. -/
opaque Config.trimRate : Int → Int → Int

/-- The vector functions whose result the manual bounds (Table NUM-7) and does not give: RCP, RSQ, EXP2, EXP, LOG2, SIGM
and TANH, by their FN code, on an FP32 operand. The same input gives the same bits on every B1 module (R127). -/
opaque Config.vecFn : Nat → W32 → W32

/-- The check bits of a mesh header (R33): the code is not given. A free value. -/
opaque Config.meshCheck : BitVec 128 → BitVec 384

/-- The OTP root key (R435, R455). -/
opaque Config.rootKey : List Byte

/-- The module key's private scalar, in warden OTP (R341). -/
opaque Config.moduleKey : Nat

/-- The module serial, 16 bytes (Table AUD-6). -/
opaque Config.serial : List Byte

/-- The base signature of R432 over the bytes of a base image verifies: where the signing key lies in the image is not given. A free
value. -/
opaque Config.baseSigned : List Byte → Bool

/-- The row of the stacks that a granule lies in: the spreading over channels is not given (R219, R242). A free value. -/
opaque Config.stackRow : Nat → Nat

/-- The bank of a stacks row (R242, R243). A free value. -/
opaque Config.stackBank : Nat → Nat

/-- Spare rows of a stacks bank (R242). A free value. -/
opaque Config.stackSpares : Nat

end Sys2Proof
end

