-- ==== Sys2Proof/Machine/Numbers.lean ====
section
/-! DEFINITION. Number formats, exact values and rounding ("Number formats and arithmetic"): decoding and encoding of the ten
formats, the two roundings, saturation, exact partials, MX blocks and the IEEE operations of the vector pipes. -/

namespace Sys2Proof.Machine

/-! ## Values and formats -/

/-- A value: NaN, a signed infinity, or exactly `± m * 2^e` (a zero keeps its sign). -/
inductive Val where
  | nan
  | inf (neg : Bool)
  | fin (neg : Bool) (m : Nat) (e : Int)
  deriving DecidableEq, Repr

/-- How a format spends its top encodings (Table NUM-2). -/
inductive Special where
  | ieee | e4m3 | none
  deriving DecidableEq, Repr

/-- A floating-point format (Table NUM-1): exponent bits, fraction bits, bias, special encodings. -/
structure Fmt where
  eb   : Nat
  fb   : Nat
  bias : Nat
  sp   : Special
  deriving DecidableEq, Repr

def fmtFP32 : Fmt := ⟨8, 23, 127, .ieee⟩
def fmtBF16 : Fmt := ⟨8, 7, 127, .ieee⟩
def fmtFP16 : Fmt := ⟨5, 10, 15, .ieee⟩
def fmtE4M3 : Fmt := ⟨4, 3, 7, .e4m3⟩
def fmtE5M2 : Fmt := ⟨5, 2, 15, .ieee⟩
def fmtE3M2 : Fmt := ⟨3, 2, 3, .none⟩
def fmtE2M3 : Fmt := ⟨2, 3, 1, .none⟩
def fmtE2M1 : Fmt := ⟨2, 1, 1, .none⟩

/-- Bits an encoding of the format takes. -/
def Fmt.width (f : Fmt) : Nat := 1 + f.eb + f.fb

/-- The largest finite encoding without its sign (Table NUM-1). -/
def Fmt.maxBits (f : Fmt) : Nat :=
  match f.sp with
  | .ieee => (2 ^ f.eb - 1) * 2 ^ f.fb - 1
  | .e4m3 => 2 ^ (f.eb + f.fb) - 2
  | .none => 2 ^ (f.eb + f.fb) - 1

/-- The canonical NaN of a format (Table NUM-2). -/
def Fmt.nanBits (f : Fmt) : Nat :=
  match f.sp with
  | .ieee => (2 ^ f.eb - 1) * 2 ^ f.fb + 2 ^ (f.fb - 1)
  | .e4m3 => 2 ^ (f.eb + f.fb) - 1
  | .none => 0

/-- Infinity without its sign. -/
def Fmt.infBits (f : Fmt) : Nat := (2 ^ f.eb - 1) * 2 ^ f.fb

/-- The magnitude bits of an encoding: exponent and fraction as `m * 2^e` (R101, R102). -/
def Fmt.magnitude (f : Fmt) (w : Nat) : Nat × Int :=
  let ex := bits w f.fb f.eb
  let fr := bits w 0 f.fb
  if ex = 0 then (fr, 1 - (f.bias : Int) - f.fb)
  else (2 ^ f.fb + fr, (ex : Int) - f.bias - f.fb)

/-- The value of an encoding (R101 to R103). -/
def Fmt.decode (f : Fmt) (w : Nat) : Val :=
  let neg := bit w (f.eb + f.fb)
  let mag := bits w 0 (f.eb + f.fb)
  match f.sp with
  | .ieee =>
    if bits w f.fb f.eb = 2 ^ f.eb - 1 then
      if bits w 0 f.fb = 0 then .inf neg else .nan
    else .fin neg (f.magnitude w).1 (f.magnitude w).2
  | .e4m3 =>
    if mag = 2 ^ (f.eb + f.fb) - 1 then .nan
    else .fin neg (f.magnitude w).1 (f.magnitude w).2
  | .none => .fin neg (f.magnitude w).1 (f.magnitude w).2

/-- The two roundings (R107). -/
inductive Rnd where
  | rne | rtz
  deriving DecidableEq, Repr

/-- `m / 2^k` rounded. -/
def shiftRound (r : Rnd) (m k : Nat) : Nat :=
  let q := m >>> k
  let rem := m % 2 ^ k
  match r with
  | .rtz => q
  | .rne =>
    if 2 * rem > 2 ^ k ∨ (2 * rem = 2 ^ k ∧ q % 2 = 1) then q + 1 else q

/-- `m * 2^e` rounded to a multiple of `2^q`, in units of `2^q`. -/
def toMultiple (r : Rnd) (m : Nat) (e q : Int) : Nat :=
  if q ≤ e then m * 2 ^ (e - q).toNat else shiftRound r m (q - e).toNat

/-- The magnitude bits of `m * 2^e` rounded to the format with unbounded exponent range: they exceed `maxBits`
exactly when the conversion overflows (R108). -/
def Fmt.roundBits (f : Fmt) (r : Rnd) (m : Nat) (e : Int) : Nat :=
  if m = 0 then 0
  else
    let emin : Int := 1 - (f.bias : Int) - f.fb
    let q := max ((Nat.log2 m : Int) + e - f.fb) emin
    (q - emin).toNat * 2 ^ f.fb + toMultiple r m e q

/-- Table NUM-3: what an overflow or an infinity gives, without its sign, under SAT. -/
def Fmt.overBits (f : Fmt) (sat : Bool) : Nat :=
  match f.sp with
  | .none => f.maxBits
  | .e4m3 => if sat then f.maxBits else f.nanBits
  | .ieee => if sat && f.width == 8 then f.maxBits else f.infBits

/-- The encoding of a value: rounded once, saturated under SAT (R107 to R110). A NaN gives the canonical NaN. -/
def Fmt.encode (f : Fmt) (r : Rnd) (sat : Bool) (v : Val) : Nat :=
  let signed (neg : Bool) (b : Nat) : Nat := ofFlag neg * 2 ^ (f.eb + f.fb) + b
  match v with
  | .nan => f.nanBits
  | .inf neg => if f.overBits sat = f.nanBits then f.nanBits else signed neg (f.overBits sat)
  | .fin neg m e =>
    let b := f.roundBits r m e
    if b ≤ f.maxBits then signed neg b
    else if f.overBits sat = f.nanBits then f.nanBits
    else signed neg (f.overBits sat)

/-- A value rounded to a format and read back. -/
def Fmt.round (f : Fmt) (v : Val) : Val := f.decode (f.encode .rne false v)

/-- Round to nearest even in FP32 (R112, R125). -/
def r32 (v : Val) : Val := fmtFP32.round v

/-! ## Exact operations -/

def Val.neg : Val → Val
  | .nan => .nan
  | .inf s => .inf !s
  | .fin s m e => .fin (!s) m e

def Val.abs : Val → Val
  | .nan => .nan
  | .inf _ => .inf false
  | .fin _ m e => .fin false m e

def Val.isZero : Val → Bool
  | .fin _ m _ => m == 0
  | _ => false

def Val.isNaN : Val → Bool
  | .nan => true
  | _ => false

def Val.signBit : Val → Bool
  | .nan => false
  | .inf s => s
  | .fin s _ _ => s

/-- The signed integer `± m`. -/
def signInt (neg : Bool) (m : Nat) : Int := if neg then -(m : Int) else m

/-- The value `i * 2^e`, a zero positive. -/
def Val.ofInt (i : Int) (e : Int) : Val := .fin (decide (i < 0)) i.natAbs e

/-- The product, exact (R111, R123). -/
def Val.mul : Val → Val → Val
  | .nan, _ => .nan
  | _, .nan => .nan
  | .inf a, .inf b => .inf (a != b)
  | .inf a, .fin b m _ => if m = 0 then .nan else .inf (a != b)
  | .fin a m _, .inf b => if m = 0 then .nan else .inf (a != b)
  | .fin a m e, .fin b n g => .fin (a != b) (m * n) (e + g)

/-- The sum, exact; opposite zeros and exact cancellation give +0, as IEEE 754 rounding to nearest does. -/
def Val.add : Val → Val → Val
  | .nan, _ => .nan
  | _, .nan => .nan
  | .inf a, .inf b => if a = b then .inf a else .nan
  | .inf a, .fin _ _ _ => .inf a
  | .fin _ _ _, .inf b => .inf b
  | .fin a m e, .fin b n g =>
    if m = 0 ∧ n = 0 then .fin (a && b) 0 e
    else
      let lo := min e g
      let i := signInt a m * 2 ^ (e - lo).toNat + signInt b n * 2 ^ (g - lo).toNat
      Val.ofInt i lo

def Val.sub (a b : Val) : Val := a.add b.neg

/-- The value times `2^k`, exact. -/
def Val.scale (v : Val) (k : Int) : Val :=
  match v with
  | .fin s m e => .fin s m (e + k)
  | w => w

/-- Comparison of two values that are no NaN: `a < b`, zeros equal. -/
def Val.lt (a b : Val) : Bool :=
  match a, b with
  | .nan, _ => false
  | _, .nan => false
  | .inf s, .inf t => s && !t
  | .inf s, .fin _ _ _ => s
  | .fin _ _ _, .inf t => !t
  | .fin s m e, .fin t n g =>
    let lo := min e g
    decide (signInt s m * 2 ^ (e - lo).toNat < signInt t n * 2 ^ (g - lo).toNat)

/-- Equality of two values as numbers (NaN equals nothing). -/
def Val.eqv (a b : Val) : Bool := !a.isNaN && !b.isNaN && !a.lt b && !b.lt a

/-- IEEE minimum: NaN propagates and −0 is less than +0 (R125). -/
def Val.minimum (a b : Val) : Val :=
  if a.isNaN || b.isNaN then .nan
  else if a.lt b then a else if b.lt a then b
  else if a.signBit then a else b

/-- IEEE maximum (R125). -/
def Val.maximum (a b : Val) : Val :=
  if a.isNaN || b.isNaN then .nan
  else if a.lt b then b else if b.lt a then a
  else if a.signBit then b else a

/-- The quotient rounded to FP32 (R125, Table NUM-7): the exact quotient to 64 bits and a sticky bit, rounded once. -/
def Val.div (a b : Val) : Val :=
  match a, b with
  | .nan, _ => .nan
  | _, .nan => .nan
  | .inf _, .inf _ => .nan
  | .inf s, .fin t _ _ => .inf (s != t)
  | .fin s _ _, .inf t => .fin (s != t) 0 0
  | .fin s m e, .fin t n g =>
    if n = 0 then (if m = 0 then .nan else .inf (s != t))
    else
      let k := 64 + Nat.log2 n
      let q := (m * 2 ^ k) / n
      let st := if (m * 2 ^ k) % n = 0 then 0 else 1
      r32 (.fin (s != t) (2 * q + st) (e - g - k - 1))

/-- The integer square root, by the digit method: `fuel` pairs of bits from the top. -/
def isqrt : Nat → Nat → Nat → Nat
  | 0, _, r => r
  | fuel + 1, n, r =>
    let c := 2 * r + 1
    if c * c ≤ n >>> (2 * fuel) then isqrt fuel n c else isqrt fuel n (2 * r)

/-- The square root rounded to FP32 (R125, Table NUM-7). -/
def Val.sqrt (a : Val) : Val :=
  match a with
  | .nan => .nan
  | .inf s => if s then .nan else .inf false
  | .fin s m e =>
    if m = 0 then .fin s 0 e
    else if s then .nan
    else
      let odd := (e % 2).toNat
      let n := m * 2 ^ (128 + odd)
      let r := isqrt 128 n 0
      let st := if r * r = n then 0 else 1
      r32 (.fin false (2 * r + st) ((e - odd - 128) / 2 - 1))

/-! ## Element formats (Table CMD-7) -/

/-- The floating-point format of an element code 0x0 to 0x4. -/
def floatFmt (code : Nat) : Option Fmt :=
  match code with
  | 0 => some fmtFP32
  | 1 => some fmtBF16
  | 2 => some fmtFP16
  | 3 => some fmtE4M3
  | 4 => some fmtE5M2
  | _ => none

/-- The element format of an MX code 0x9 to 0xD. -/
def mxFmt (code : Nat) : Option Fmt :=
  match code with
  | 9 => some fmtE4M3
  | 10 => some fmtE5M2
  | 11 => some fmtE3M2
  | 12 => some fmtE2M3
  | 13 => some fmtE2M1
  | _ => none

/-- *emax* of R106: the exponent of an MX element format's largest finite value. -/
def mxEmax (code : Nat) : Int :=
  match code with
  | 9 => 8
  | 10 => 15
  | 11 => 4
  | _ => 2

/-- Bits of one element (Table CMD-7, R104). -/
def elemBits (code : Nat) : Nat :=
  match code with
  | 0 => 32
  | 1 => 16
  | 2 => 16
  | 3 => 8
  | 4 => 8
  | 5 => 8
  | 6 => 32
  | 7 => 192
  | 8 => 640
  | 9 => 8
  | 10 => 8
  | 11 => 6
  | 12 => 6
  | 13 => 4
  | _ => 8

/-- Bytes of one element of a code below 0x9. -/
def elemBytes (code : Nat) : Nat := elemBits code / 8

/-- Element `i` of a packed little-endian string of `w`-bit elements (R104). -/
def packedAt (bs : List Byte) (w i : Nat) : Nat :=
  bits (leNat (slice bs (i * w / 8) ((i * w % 8 + w + 7) / 8))) (i * w % 8) w

/-- Elements packed little-endian, first element lowest (R104). -/
def packNat (w : Nat) : List Nat → Nat
  | [] => 0
  | x :: xs => x % 2 ^ w + 2 ^ w * packNat w xs

/-- Elements packed into whole bytes. -/
def packElems (w : Nat) (xs : List Nat) : List Byte :=
  leBytes (ceilDiv (w * xs.length) 8) (packNat w xs)

/-- An INT8 encoding read as an integer. -/
def int8Val (w : Nat) : Val := Val.ofInt (signed 8 w) 0

/-- The value of an element of code 0x0 to 0x5 (widened exactly, R125). -/
def elemVal (code w : Nat) : Val :=
  match floatFmt code with
  | some f => f.decode w
  | none => int8Val w

/-- INT8 from a value: rounded, then saturated; NaN gives 0 (R109, R110). -/
def toInt8 (r : Rnd) (v : Val) : Nat :=
  match v with
  | .nan => 0
  | .inf s => if s then 128 else 127
  | .fin s m e =>
    let i := signInt s (toMultiple r m e 0)
    unsigned 8 (max (-128) (min 127 i))

/-- The encoding of a value in an element code 0x0 to 0x5 (R107 to R110). -/
def valElem (code : Nat) (r : Rnd) (sat : Bool) (v : Val) : Nat :=
  match floatFmt code with
  | some f => f.encode r sat v
  | none => toInt8 r v

/-! ## MX blocks (R105, R106) -/

/-- The larger of two magnitudes, infinity above any finite value. -/
def magMax (a b : Val) : Val := if a.abs.lt b.abs then b.abs else a.abs

/-- `floor(log2 m)` of a finite non-zero magnitude. -/
def floorLog2 : Val → Int
  | .fin _ m e => (Nat.log2 m : Int) + e
  | _ => 0

/-- R106: the scale and the element encodings of a block of values. -/
def mxQuantise (code : Nat) (r : Rnd) (xs : List Val) : Nat × List Nat :=
  match mxFmt code with
  | none => (0, xs.map fun _ => 0)
  | some f =>
    if xs.any Val.isNaN then (0xFF, xs.map fun _ => 0)
    else
      let m := xs.foldl magMax (.fin false 0 0)
      let e : Int :=
        if m.isZero then -127
        else match m with
          | .inf _ => 127
          | v => max (-127) (min 127 (floorLog2 v - mxEmax code))
      ((e + 127).toNat, xs.map fun x => f.encode r true (x.scale (-e)))

/-- The value of an MX element under its block scale (R105). -/
def mxVal (code s w : Nat) : Val :=
  if s = 0xFF then .nan
  else match mxFmt code with
    | none => .nan
    | some f => (f.decode w).scale ((s : Int) - 127)

/-! ## Anchored accumulation and exact partials (R114 to R122) -/

/-- An anchored value: the integer, its weight, its flags and its width (Table NUM-6). -/
structure EP where
  i       : Int
  l       : Int
  poison  : Bool
  ovf     : Bool
  inexact : Bool
  nan     : Bool
  pinf    : Bool
  ninf    : Bool
  width   : Nat
  deriving DecidableEq, Repr

/-- Bits of the integer (R114). -/
def EP.intBits (e : EP) : Nat := if e.width = 0 then 160 else 576

/-- *H* of R115. -/
def EP.h (e : EP) : Nat := if e.width = 0 then 119 else 522

/-- An empty accumulator. -/
def EP.zero (width : Nat) (l : Int) : EP := ⟨0, l, false, false, false, false, false, false, width⟩

/-- The sum check of R116 on an integer of `w` bits: an exact sum of magnitude `2^(w-1)` or more poisons the value and sets OVF. -/
def EP.checkSum (w : Nat) (e : EP) : EP :=
  if e.i.natAbs ≥ 2 ^ (w - 1) then { e with i := 0, poison := true, ovf := true } else e

/-- One product or addend enters the integer (R115, R121, R123). -/
def EP.enter (e : EP) (p : Val) : EP :=
  match p with
  | .nan => { e with nan := true }
  | .inf s => if s then { e with ninf := true } else { e with pinf := true }
  | .fin s m x =>
    let k := toMultiple .rne m x e.l
    if k ≥ 2 ^ e.h then { e with poison := true, ovf := true }
    else
      let exact := decide (e.l ≤ x) || decide (m % 2 ^ (e.l - x).toNat = 0)
      EP.checkSum e.intBits { e with i := e.i + signInt s k, inexact := e.inexact || !exact }

/-- Whether entering the product rounds it (R115, counted in FLD_ANCH_INEXACT). -/
def EP.rounds (e : EP) (p : Val) : Bool :=
  match p with
  | .fin _ m x =>
    decide (toMultiple .rne m x e.l < 2 ^ e.h) && !(decide (e.l ≤ x) || decide (m % 2 ^ (e.l - x).toNat = 0))
  | _ => false

/-- Adding two exact partials of the 24-byte or the 80-byte form (R116, R120). The Bool says whether the fields differ ("anchor
mismatch"). -/
def EP.add (wide : Bool) (a b : EP) : EP × Bool :=
  let flags : EP :=
    { a with poison := a.poison || b.poison, ovf := a.ovf || b.ovf, inexact := a.inexact || b.inexact,
             nan := a.nan || b.nan, pinf := a.pinf || b.pinf, ninf := a.ninf || b.ninf }
  if a.width ≠ b.width ∨ a.l ≠ b.l ∨ 1 < a.width then ({ flags with poison := true }, true)
  else (EP.checkSum (if wide then 576 else 160) { flags with i := a.i + b.i }, false)

/-- The value an anchored result stands for before its one rounding (R117, R123), a zero sum +0 (R124). -/
def EP.value (e : EP) : Val :=
  if e.nan || (e.pinf && e.ninf) then .nan
  else if e.pinf then .inf false
  else if e.ninf then .inf true
  else Val.ofInt e.i e.l

/-- The tag of an exact partial (Table NUM-6). -/
def EP.tag (e : EP) : Nat :=
  unsigned 10 e.l * 2 ^ 22 + ofFlag e.poison * 128 + ofFlag e.ovf * 64 + ofFlag e.inexact * 32
    + ofFlag e.nan * 16 + ofFlag e.pinf * 8 + ofFlag e.ninf * 4 + e.width % 4

/-- The bytes of an exact partial (Table NUM-6). -/
def EP.toBytes (e : EP) : List Byte :=
  if e.width = 0 then leBytes 20 (unsigned 160 e.i) ++ leBytes 4 e.tag
  else leBytes 72 (unsigned 576 e.i) ++ leBytes 4 e.tag ++ zeros 4

/-- An exact partial laid out in its 24-byte or 80-byte form, whatever WIDTH its tag holds. -/
def EP.lay (wide : Bool) (e : EP) : List Byte :=
  if wide then leBytes 72 (unsigned 576 e.i) ++ leBytes 4 e.tag ++ zeros 4
  else leBytes 20 (unsigned 160 e.i) ++ leBytes 4 e.tag

/-- The exact partial a 24-byte or 80-byte element holds (Table NUM-6). -/
def EP.ofBytes (wide : Bool) (bs : List Byte) : EP :=
  let ib := if wide then 72 else 20
  let t := fieldAt bs ib 4
  { i := signed (8 * ib) (fieldAt bs 0 ib), l := signed 10 (bits t 22 10), poison := bit t 7, ovf := bit t 6,
    inexact := bit t 5, nan := bit t 4, pinf := bit t 3, ninf := bit t 2, width := bits t 0 2 }

/-- *L* of a vector sum reduction (R121). -/
def vectorL : Int := -266

/-! ## Integer vector operations (R126) -/

/-- An INT8 or W32 operand widened to INT32. -/
def intOf (code w : Nat) : Int := if code = 5 then signed 8 w else signed 32 w

/-- An INT32 result written as INT8 (saturating) or W32 (wrapping). -/
def intElem (code : Nat) (i : Int) : Nat :=
  let w := signed 32 (unsigned 32 i)
  if code = 5 then unsigned 8 (max (-128) (min 127 w)) else unsigned 32 w

/-- The integer functions FN 0x20 to 0x2A (Table CMD-8). -/
def intFn (fn : Nat) (a b : Int) : Int :=
  let ua := unsigned 32 a
  let ub := unsigned 32 b
  match fn with
  | 0x20 => a + b
  | 0x21 => a - b
  | 0x22 => a * b
  | 0x23 => (ua &&& ub : Nat)
  | 0x24 => (ua ||| ub : Nat)
  | 0x25 => (ua ^^^ ub : Nat)
  | 0x26 => (ua * 2 ^ (ub % 32) : Nat)
  | 0x27 => (ua / 2 ^ (ub % 32) : Nat)
  | 0x28 => a / (2 ^ (ub % 32) : Nat)
  | 0x29 => min a b
  | _ => max a b

/-! ## Residues (R132) -/

/-- `x mod 255` of an integer. -/
def residue (x : Int) : Nat := (x % 255).toNat

end Sys2Proof.Machine
end

