-- ==== Sys2Proof/Machine/State.lean ====
section
/-! DEFINITION. The state of the module as plain data: every register, queue, counter, mode and pin the manual names, the
model's own fields (marked so), the reasons a step may stop, and the state after reset. -/

namespace Sys2Proof.Machine

/-! ## Reasons to stop -/

/-- A block has no fault of its own: what goes wrong is answered, poisoned, counted or logged inside the module (R473).
No meaning raises a fault, so the type has no constructor. -/
inductive Fault where
  deriving DecidableEq, Repr

/-- Why a command has no meaning. -/
inductive Refusal where
  /-- The command's arm has no meaning yet; raised by the dispatch only. Safe. -/
  | notModelled (mnemonic : String)
  deriving DecidableEq, Repr

/-! ## Memory -/

/-- The five tiers' bytes on this module (R217), keyed by bits 59:0 of the rack address. `cells` is strictly rising and
lists no zero byte; an unlisted address reads zero (DESIGN CHOICE, log entry 3). `clean` lists, strictly rising, the
64-byte granules (address / 64) that hold no poison; every other granule is poisoned (R128, R244). -/
structure Memory where
  cells : List Host.Cell := []
  clean : List Nat := []
  deriving DecidableEq, Repr

/-! ## Cores -/

/-- A carrel's three registers (Tables MEM-2 and MEM-3). -/
structure Carrel where
  base  : W64 := 0
  bound : W64 := 0
  attr  : W32 := 0
  deriving DecidableEq, Repr

/-- A slot of a landing carrel that a segment is filling (R232): the ranges (scratchpad offset, length) of it that were turned away
and have not landed since, and whether its last packet has come. -/
structure LandSlot where
  slot : Nat
  gaps : List (Nat × Nat) := []
  last : Bool := false
  deriving DecidableEq, Repr

/-- The use of a landing carrel since launch (R230 to R233): bytes received, slots filled, slots released, and the slots being
filled. -/
structure Landing where
  bytes    : Nat := 0
  filled   : Nat := 0
  released : Nat := 0
  part     : List LandSlot := []
  /-- bytes of chain chunks placed in it (R231, R290) -/
  ring     : Nat := 0
  deriving DecidableEq, Repr

/-- The matrix parameters (Table CMD-3). -/
structure MatParams where
  anchor : Int := 0
  esc    : Int := 0
  skew   : Nat := 0
  astr   : Nat := 0
  fstr   : Nat := 0
  ostr   : Nat := 0
  deriving DecidableEq, Repr

/-- A cairn accumulator and its sticky poison bit (R159, R333). -/
structure CairnAcc where
  sum    : W128 := 0
  poison : Bool := false
  deriving DecidableEq, Repr

/-- A fetched command waiting in a queue: its word and its command index (R134). -/
structure QEntry where
  word  : W128
  index : Nat
  deriving DecidableEq, Repr

/-- A descriptor of an issued command that has left its setup engine (R144): its 64 bytes, or poisoned. `first` is
the number of segments of the descriptors before it, `ready` when its 220 ns of setup end; `asked` is the
intake's part of an archive fetch: its folios are wanted (R258); `parts` what the segments of a SHA have read
(segment, bytes, poisoned; R163), or the parts that have come of an archive fetch and wait for
their segment (offset from SRC, bytes, poisoned); `mcBase` is the number of its first segment
among the multicast segments of its context (R272). -/
structure Desc where
  bytes  : List Byte
  poison : Bool
  first  : Nat
  segs   : Nat
  ready  : Nat
  asked  : Bool := false
  parts  : List (Nat × List Byte × Bool) := []
  mcBase : Nat := 0
  deriving DecidableEq, Repr

/-- An issued command that has not reported completion (R70, R71). `id` is unique on its core; `gangs` is how many
gangs it spawns in all (for a descriptor command it grows as descriptors are set up), `toSet` the descriptors not yet
set up; `pnum` the pitch of its issue (R338), `acks` its writes not yet acknowledged, `ackAt` when those to its own scratchpad are (Table CMD-18, in seventeenths of a
ns); `lost` marks a command with discarded gangs or segments (R328). -/
structure Cmd where
  id      : Nat
  queue   : Queue
  word    : W128
  index   : Nat
  time    : Nat
  mp      : MatParams
  anch    : Bool
  gangs   : Nat
  spawned : Nat
  retired : Nat
  acks    : Nat
  toSet   : Nat
  pnum    : Nat := 0
  descs   : List Desc
  lost    : Bool
  ackAt   : Nat := 0
  deriving DecidableEq, Repr

/-- One of a core's four task contexts (R67 to R72, R145, R159, R167, R171, R224). -/
structure Task where
  carrels  : Vector Carrel 9 := Vector.replicate 9 {}
  landing  : Vector Landing 8 := Vector.replicate 8 {}
  mat      : List QEntry := []
  vec      : List QEntry := []
  str      : List QEntry := []
  ctl      : List QEntry := []
  cmds     : List Cmd := []
  ctr      : Vector W32 64 := Vector.replicate 64 0
  mp       : MatParams := {}
  cairns   : Vector CairnAcc 16 := Vector.replicate 16 {}
  /-- offset of the slice in the code carrel, its length in words, and the next command index -/
  sliceLen : Nat := 0
  fetchIx  : Nat := 0
  active   : Bool := false
  ended    : Bool := true
  skipTo   : Nat := 0
  /-- barriers released since the context's latest BARA of them, or since launch -/
  released : List (BitVec 12) := []
  stopped  : Bool := false
  fcode    : BitVec 7 := 0
  fqueue   : BitVec 2 := 0
  findex   : BitVec 22 := 0
  fword    : W128 := 0
  deriving DecidableEq, Repr

/-- A strand of a gang: 16 registers of 32 bits, each with its poison bit, and one predicate bit (R74, R128). -/
structure Strand where
  regs   : Vector W32 16 := Vector.replicate 16 0
  poison : Vector Bool 16 := Vector.replicate 16 false
  pred   : Bool := false
  deriving DecidableEq, Repr

/-- An element of an accumulator array: an FP32 value in fast mode, an anchored integer with its flags (R112, R114). -/
inductive AccElem where
  | fast  (v : Val)
  | exact (e : EP)
  deriving DecidableEq, Repr

/-- A folio buffer of an engine with its bad marker (R79, R128). -/
structure FolioBuf where
  bytes : List Byte := []
  bad   : Bool := false
  deriving DecidableEq, Repr

/-- A matrix engine (R79): the rows its accumulator array holds, by the gang whose sub-tile they are, its two folio buffers, and the
one in use. No access path reads any of it. -/
structure Engine where
  acc   : List (SlotIx × List (List AccElem)) := []
  bufs  : Vector FolioBuf 2 := Vector.replicate 2 {}
  inUse : Fin 2 := 0
  deriving DecidableEq, Repr

/-- A living gang in its slot (R74 to R77): the command it belongs to, its index in the command, its strands, cleared when it spawns
(lane *l* of its pipe runs strand *l*), its engine (matrix gangs) with the accumulator bytes it takes and when its last folio has
been applied (R79, R83), the time before which it cannot have ended (Table CMD-18; both in seventeenths of a ns, so that a core cycle
at level 16 is 10), and for a segment gang whether it has started, the data it holds and what it still waits for. -/
structure Gang where
  slot    : SlotIx
  task    : TaskIx
  queue   : Queue
  cmd     : Nat
  index   : Nat
  strands : Vector Strand 64 := Vector.replicate 64 {}
  engine  : Option (Fin 4) := none
  accSize : Nat := 0
  applied : Nat := 0
  ready   : Nat := 0
  started : Bool := false
  refused : Bool := false
  /-- the segment's data as gathered so far, its poisoned byte ranges (first, length), and the bytes still awaited -/
  data    : List Byte := []
  poison  : List (Nat × Nat) := []
  await   : Nat := 0
  /-- reads of the segment not yet requested: rack address, length, place in the data (R246, R391) -/
  reads   : List (Nat × Nat × Nat) := []
  /-- writes of the segment not yet sent: archive return (R263), and the segment's place among those of its context -/
  toSend  : Nat := 0
  deriving DecidableEq, Repr

/-- A thermal sensor (R423, R424): its last reading in units of 0.25 degrees C, when it last changed, and whether it
has failed. -/
structure Sense where
  reading : Int := 0
  changed : Nat := 0
  failed  : Bool := false
  deriving DecidableEq, Repr

/-- The 64-bit counters of a core (Tables COR-8, NUM-10, CMD-17, SPR-6, MEM-8, AUD-7). -/
structure CoreCount where
  bankConf  : Vector W64 64 := Vector.replicate 64 0
  xwaitM    : W64 := 0
  xwaitV    : W64 := 0
  slotMat   : W64 := 0
  slotVec   : W64 := 0
  slotStr   : W64 := 0
  sliceOvr  : W64 := 0
  clkStall  : W64 := 0
  policy    : W64 := 0
  inexact   : W64 := 0
  ovf       : W64 := 0
  poisonWr  : W64 := 0
  resMiss   : W64 := 0
  resPoison : W64 := 0
  refused   : W64 := 0
  dgstMiss  : W64 := 0
  markHold  : W64 := 0
  badCode   : W64 := 0
  order     : W64 := 0
  stretch   : W64 := 0
  waitSlice : W64 := 0
  waitStk   : W64 := 0
  waitRem   : W64 := 0
  waitHost  : W64 := 0
  waitArch  : W64 := 0
  cairnPois : W64 := 0
  cairnElem : W64 := 0
  deriving DecidableEq, Repr

/-- A core (R67 to R99). Levels are *n*, 4 to 16 (R95). -/
structure Core where
  tasks     : Vector Task 4 := Vector.replicate 4 {}
  rsv       : W32 := 0x04020004
  arith     : BitVec 4 := 0
  slices    : Vector W32 8 := Vector.replicate 8 0
  gangs     : List Gang := []
  engines   : Vector Engine 4 := Vector.replicate 4 {}
  nextCmd   : Nat := 0
  peak      : Nat := 0
  /-- the slice entered last and the count at which it began (R92, R94), whether its guard point has passed, and a late start -/
  sliceNow  : Option (Fin 8 × Nat) := none
  guarded   : Bool := false
  sliceLate : Option Nat := none
  /-- when each busy setup engine comes free (R144, Table CMD-18) -/
  setups    : List Nat := []
  /-- when its stream port comes free (Table CMD-18) -/
  port      : Nat := 0
  bound     : W32 := 0xF3
  boundEff  : W32 := 0xF3
  level     : Nat := 16
  therm     : Nat := 16
  target    : Option Nat := none
  sensors   : Vector Sense 4 := Vector.replicate 4 {}
  coolSince : Option Nat := none
  hotSince  : Option Nat := none
  levelAt   : Option Nat := none
  escalated : Bool := false
  carInfo   : W32 := 0
  carAddr   : W64 := 0
  carCnt    : W64 := 0
  cnt       : CoreCount := {}
  deriving DecidableEq, Repr

/-! ## Fields, mesh and control network -/

/-- A flit of a mesh packet (R31 to R33): the first carries the header's 128 bits, each its part of the data. -/
structure MeshFlit where
  head : Option W128
  data : List Byte
  deriving DecidableEq, Repr

/-- A mesh or express link of a router (Table WAF-5, R45 to R47). Its receiver counts the CRC errors of the last 1,024 cycles (bundle
and time) and says whether forwarding is paused for a spare, and for how many cycles it has been in all; its transmitter keeps the
last 16 flits sent (`kept`, oldest first) and those it sends again before it goes on (`replay`). -/
structure MeshLink where
  crcErr  : BitVec 16 := 0
  half    : Bool := false
  spare   : Bool := false
  failed  : BitVec 9 := 0
  recent  : List (Fin 9 × Nat) := []
  paused  : Bool := false
  retries : Nat := 0
  stall   : Nat := 0
  kept    : List MeshFlit := []
  replay  : List MeshFlit := []
  deriving DecidableEq, Repr

/-- A mesh packet on its way (R35, R36): the field whose router holds it and the router input it stands in (0 the local port, 1 + *d*
the link of direction *d*); with no input it still waits in that field's crossbar for room in the router. -/
structure Transit where
  pkt : MeshPacket
  at_ : FieldIx
  inp : Option (Fin 9) := none
  deriving DecidableEq, Repr

/-- A control message on its way (R58): the field whose node holds it and the node input it stands in (0 to 3 the links N, E, S, W, 4
the local port); with no input it still waits at its sender for room in the node. -/
structure CtlTransit where
  msg : CtlMsg
  at_ : FieldIx
  inp : Option (Fin 5) := none
  deriving DecidableEq, Repr

/-- A multicast packet kept for branches that have not accepted it (R43), and the cores still to be served. -/
structure Retained where
  pkt   : MeshPacket
  cores : BitVec 4
  deriving DecidableEq, Repr

/-- A copy of a multicast packet on its way from a router (or, injected, from the field itself) to the next (R41). -/
structure McastCopy where
  prev : FieldIx
  dest : FieldIx
  pkt  : MeshPacket
  deriving DecidableEq, Repr

/-- A field: crossbar, router, control node and stack interface (R21 to R66, R238). -/
structure Field where
  ilv       : Bool := false
  rect      : Vector W32 4 := Vector.replicate 4 0x000F0F00
  owner     : Vector Byte 16 := Vector.replicate 16 0
  faultTab  : Vector W32 8 := Vector.replicate 8 0
  /-- the positions of its dead neighbours that the warden has loaded into the router (R42) -/
  deadNear  : List FieldIx := []
  links     : Vector MeshLink 8 := Vector.replicate 8 {}
  retained  : List Retained := []
  xbarWait  : Vector W64 5 := Vector.replicate 5 0
  retFull1  : W64 := 0
  retFull2  : W64 := 0
  mcastLag  : W64 := 0
  stkTemp   : Int := 0
  stkCool   : Option Nat := none
  stkFailed : Bool := false
  double    : Bool := false
  refreshes : Nat := 0
  refDelay  : W64 := 0
  /-- the node's own replica of the boundary and of the boundary before it (R61), and its failed control links N, E, S, W (R62) -/
  bound     : W64 := 0
  begun     : W64 := 0
  ctlFailed : Vector Bool 4 := Vector.replicate 4 false
  ctlRetry  : Vector (Option (CtlMsg × Nat)) 4 := Vector.replicate 4 none
  /-- domain fences this node has been told of (R412), and its GCNT replica: how far it runs ahead of GCNT, none before a sync
  broadcast has set it (R61, R443) -/
  fences    : BitVec 88 := 0
  replica   : Option Int := none
  /-- zone ceilings imposed by the droop clamp and by the governor (R417, R419) -/
  clampCeil : Nat := 16
  govCeil   : Nat := 16
  /-- the clamp's last action, and its actions of the last 20 µs with their lengths in ns (R417) -/
  clampAt   : Nat := 0
  clampActs : List (Nat × Nat) := []
  zoneCeil  : Nat := 16
  /-- the core that stepped down last, and when: no other changes its thermal level for 20 µs (R96) -/
  stepped   : Option (CoreIx × Nat) := none
  /-- landing credits this router holds for intake multicast, by core and context (R273) -/
  landCred  : List (Fin 4 × BitVec 16 × Nat) := []
  deriving DecidableEq, Repr

/-! ## Power -/

/-- The state of a domain (Table PWR-7). -/
inductive DomSt where
  | off | switchingOn | initialising | onFenced | on | fenced | switchingOff
  deriving DecidableEq, Repr

/-- A switched domain (R404 to R414): its state, stages closed, sequences completed, whether a sequence waits, an off
request waiting for its boundary, and its zone's healthy phases. -/
structure Domain where
  st      : DomSt := .off
  stage   : Nat := 0
  seq     : BitVec 16 := 0
  queued  : Option Bool := none
  counts  : Bool := false
  offReq  : Bool := false
  onReq   : Bool := false
  failed  : Bool := false
  lostPh  : Nat := 0
  /-- when its latest stage began or its rail was regulated (R407), and the boundary in force when its fence was last due to move (R412) -/
  stageAt : Nat := 0
  edge    : Nat := 0
  deriving DecidableEq, Repr

/-- The PWR block. `wait` holds the accepted sequences in order of acceptance (R408). -/
structure Pwr where
  dom      : Vector Domain 88 := Vector.replicate 88 {}
  wait     : List (DomIx × Bool) := []
  govHold  : Nat := 0
  reverse  : W64 := 0
  refused  : W64 := 0
  parked   : W64 := 0
  policy   : W64 := 0
  skew     : W64 := 0
  /-- end of the interval after a shutdown, and whether one holds start-up (R428) -/
  shutEnd  : Option Nat := none
  railsOff : Bool := false
  deriving DecidableEq, Repr

/-! ## Links -/

/-- The state of a sublink (Table LNK-13). -/
inductive LinkSt where
  | down | training | active | txNarrow | fullBiv | disabled
  deriving DecidableEq, Repr

/-- A bivouac entry under way (R363, R364): which mode, who asked, the commit superframe of the transmit direction. -/
structure BivEntry where
  full   : Bool
  ours   : Bool
  commit : W32
  acked  : Bool
  deriving DecidableEq, Repr

/-- A lane swap under way (R358). -/
structure Swap where
  failed : Fin 34
  spare  : Fin 34
  commit : W32
  acked  : Bool
  ours   : Bool
  deriving DecidableEq, Repr

/-- A packet waiting to leave on a sublink, with the rope it may only leave under (R379). -/
structure TxPkt where
  pkt    : LinkPacket
  queued : Nat
  deferred : Bool := false
  deriving DecidableEq, Repr

/-- The counters of a sublink (Table LNK-14). -/
structure SubCount where
  flitsTx : W64 := 0
  flitsRx : W64 := 0
  fecCorr : W64 := 0
  fecBad  : W64 := 0
  bad     : W64 := 0
  replay  : W64 := 0
  retryNs : W64 := 0
  wrap    : W64 := 0
  retrain : W64 := 0
  lane    : W64 := 0
  bivIn   : W64 := 0
  bivAb   : W64 := 0
  bivNs   : W64 := 0
  deriving DecidableEq, Repr

/-- A sublink (R344 to R365). `txSeq` is the number the next data frame takes, `unacked` the flits sent and not
acknowledged and `kept` the packets they carry (first number, numbers, packet), `expect` the receiver's next expected FSEQ, `cred` the hop
credits held per VC, `credSeen` the last CRED count seen per VC, `credOut` the count freed per VC and `credSent` what the last trailer
said of it. `half`, `laneAct` and `laneBad` are of the receive direction, `txHalf`, `txAct` and `txBad` of the transmit direction. -/
structure Sublink where
  st       : LinkSt := .down
  rxNarrow : Bool := false
  rxBiv    : Bool := false
  half     : Bool := false
  txHalf   : Bool := false
  spares   : Nat := 0
  peer     : BitVec 9 := 0
  laneAct  : BitVec 34 := 0
  laneBad  : BitVec 34 := 0
  txAct    : BitVec 34 := 0
  txBad    : BitVec 34 := 0
  /-- superframes of the transmit direction up to the last change of its width, and when that was (R346) -/
  sfBase   : Nat := 0
  sfAt     : Nat := 0
  txSeq    : BitVec 12 := 0
  unacked  : Nat := 0
  kept     : List (BitVec 12 × Nat × LinkPacket) := []
  replayFrom : Option (BitVec 12) := none
  replayAt : Nat := 0
  ackAt    : Nat := 0
  stale    : Nat := 0
  expect   : BitVec 12 := 0
  rplyOut  : Bool := false
  badRun   : Nat := 0
  cred     : Vector Nat 6 := Vector.replicate 6 0
  credSeen : Vector (BitVec 10) 6 := Vector.replicate 6 0
  credOut  : Vector (BitVec 10) 6 := Vector.replicate 6 0
  credSent : Vector (BitVec 10) 6 := Vector.replicate 6 0
  /-- flit times that each VC's ready packet has been passed over (R350) -/
  guard    : Vector Nat 6 := Vector.replicate 6 0
  peerEpoch : BitVec 16 := 0
  gotCaps  : Bool := false
  badRack  : Bool := false
  cold     : Bool := true
  warmFail : Nat := 0
  coldFail : Nat := 0
  dead     : Bool := false
  swap     : Option Swap := none
  biv      : Option BivEntry := none
  bivAt    : Nat := 0
  waking   : Bool := false
  activeAt : Nat := 0
  /-- since when the sublink has been active without a break, loops and quarantine included (R313) -/
  steadyAt : Nat := 0
  /-- when the sublink last became ACTIVE, flits in the receive buffer per VC, the context served last per VC (R374) -/
  upAt     : Nat := 0
  rxHeld   : Vector Nat 6 := Vector.replicate 6 0
  rr       : Vector (BitVec 16) 6 := Vector.replicate 6 0xFFFF
  tx       : List TxPkt := []
  ordQ     : List (LinkPacket × Nat) := []
  lastNack : List (Byte × Nat) := []
  cnt      : SubCount := {}
  deriving DecidableEq, Repr

/-- A port group (R344, R369, R370, R467). -/
structure LinkGroup where
  sub      : Vector Sublink 2 := Vector.replicate 2 {}
  dis      : BitVec 2 := 0
  violCfg  : W32 := 0x00400064
  score    : Nat := 0
  quar     : Bool := false
  lastCode : BitVec 7 := 0
  loop     : W32 := 0
  viol     : W64 := 0
  nackTx   : W64 := 0
  nackRx   : W64 := 0
  nackSupp : W64 := 0
  quarDrop : W64 := 0
  deriving DecidableEq, Repr

/-! ## The running image -/

/-- A rope entry (Table TOP-3): `word` and `dirVc` are its bytes 0 to 1 and 3 as they stand. -/
structure RopeEntry where
  word   : BitVec 16 := 0
  dirVc  : Byte := 0
  rope   : BitVec 12
  port   : Nat
  rx     : Bool
  vc     : Nat
  peer   : Nat
  lease  : Nat
  belay  : Nat
  wstart : Nat
  wlen   : Nat
  first  : Nat
  last   : Nat
  buf    : Nat
  deriving DecidableEq, Repr

/-- A collective group (Table GRD-1); `shaped` says that its zero and 0xFF bytes are so. -/
structure GroupEntry where
  group   : BitVec 12
  nmem    : Nat
  role    : Nat
  rect    : BitVec 16
  cap     : Nat
  members : List Nat
  shaped  : Bool := true
  deriving DecidableEq, Repr

/-- A stream context as declared (Table FAB-2). -/
structure CtxEntry where
  ctx    : BitVec 16
  region : Byte
  port   : Nat
  peer   : Nat
  dir    : Nat
  window : Nat
  rope   : BitVec 12
  lease  : Nat
  deriving DecidableEq, Repr

/-- A shard (Table INT-1); `shaped` says that its reserved bits and bytes are zero. -/
structure ShardEntry where
  accession : BitVec 48
  efmt      : Nat
  pattern   : Nat
  count     : Nat
  w         : Nat
  reside    : Bool
  ret       : Bool
  digest    : List Byte
  shaped    : Bool := true
  deriving DecidableEq, Repr

/-- A region's declaration (Table TOP-2, type 0x02): rectangle word, slices, stacks ranges, and ranges of assigned stream contexts. -/
structure RegionEntry where
  rect   : W32
  slices : List (Nat × Nat)
  stackRanges : List (Nat × Nat)
  ctxs   : List (Nat × Nat) := []
  deriving DecidableEq, Repr

/-- One core's entry of the CORES section (Table TOP-2). -/
structure CoreEntry where
  core   : Nat
  rsv    : W32
  arith  : Byte
  slices : List W32
  tasks  : List (Nat × Nat)
  deriving DecidableEq, Repr

/-- A placement hint (Table TOP-2, type 0x0C; R237). -/
structure PlaceEntry where
  first : Nat
  last  : Nat
  hint  : Byte
  deriving DecidableEq, Repr

/-- A topo image as the warden reads it from the stacks (Tables TOP-1 and TOP-2). -/
structure TopoImage where
  magic    : Nat := 0
  format   : Nat := 0
  len      : Nat := 0
  module   : Nat := 0
  team     : Nat := 0
  member   : Nat := 0
  teamSize : Nat := 0
  lead     : Nat := 0
  launch   : Nat := 0
  pitchUs  : Nat := 0
  pitches  : Nat := 0
  mask     : Nat := 0
  teamDig  : List Byte := []
  digest   : List Byte := []
  keyslot  : Nat := 0
  cores    : List CoreEntry := []
  regions  : List RegionEntry := []
  carrels  : List (Nat × Nat × List Carrel) := []
  cmdsOff  : Nat := 0
  cmdsLen  : Nat := 0
  data     : List (Nat × List Byte) := []
  hasRopes : Bool := false
  ropes    : List RopeEntry := []
  barriers : List (BitVec 12 × Nat) := []
  groups   : List GroupEntry := []
  ctxs     : List CtxEntry := []
  slack    : List Nat := []
  shards   : List ShardEntry := []
  places   : List PlaceEntry := []
  deriving DecidableEq, Repr

/-- An image slot's state (Table TOP-6). -/
inductive SlotSt where
  | empty | checking | armed | running
  deriving DecidableEq, Repr

/-- An image slot (R180, R181, R186). -/
structure ImgSlot where
  base  : W64 := 0
  st    : SlotSt := .empty
  err   : Byte := 0
  runs  : BitVec 16 := 0
  image : TopoImage := {}
  used  : Bool := false
  /-- ARM has been written for it and it has not been disarmed since (R180) -/
  lock  : Bool := false
  deriving DecidableEq, Repr

/-! ## Fabric -/

/-- A stream context while a run is loaded (R279, R388 to R395). Sender: credits held (in 64 KiB) and bytes sent, slots
for a landing carrel. Receiver: credits granted, bytes received, bytes applied, credits owed. -/
structure Ctx where
  decl     : CtxEntry
  held     : Nat := 0
  sent     : Nat := 0
  granted  : Nat := 0
  recvd    : Nat := 0
  applied  : Nat := 0
  owed     : Nat := 0
  owedAt   : Nat := 0
  holdAt   : Nat := 0
  lendAt   : Nat := 0
  lease    : Nat := 2
  holdExp  : Bool := false
  lendExp  : Bool := false
  parked   : Bool := false
  refusedParked : Bool := false
  seq      : BitVec 16 := 0
  lastOrd  : Nat := 0
  mcSegs   : Nat := 0
  parkSeg  : Bool := false
  deriving DecidableEq, Repr

/-- A shaper's tokens and when they were last counted (R398); one not listed had none when `tokensAt` was set. -/
structure Shaper where
  region : Byte
  vc     : Fin 3
  tokens : Int
  at_    : Nat
  deriving DecidableEq, Repr

/-- The counts a congestion map gathers while its pitch runs (Table FAB-5): per fabric sublink flits sent, waits,
deferrals, replays, NACKs; per destination the credit wait; per source the KiB received. -/
structure CMapAcc where
  flits  : Vector Nat 16 := Vector.replicate 16 0
  wait   : Vector Nat 16 := Vector.replicate 16 0
  defer  : Vector Nat 16 := Vector.replicate 16 0
  replay : Vector Nat 16 := Vector.replicate 16 0
  nacks  : Vector Nat 16 := Vector.replicate 16 0
  credit : Vector Nat 16 := Vector.replicate 16 0
  recv   : Vector Nat 16 := Vector.replicate 16 0
  deriving DecidableEq, Repr

/-- The FAB block. -/
structure Fab where
  forceVct : Bool := false
  forceEff : Bool := false
  ctxs     : List Ctx := []
  open_    : List (BitVec 12 × Nat) := []
  shapers  : List Shaper := []
  tokensAt : Nat := 0
  acc      : CMapAcc := {}
  /-- the boundary at which the last map of a run was closed, and when the last map of all was (R402) -/
  mapAt    : Nat := 0
  mapTime  : Nat := 0
  bank     : Bool := false
  maps     : BitVec 31 := 0
  cmap0    : List Byte := []
  cmap1    : List Byte := []
  ropeDefer : W64 := 0
  creditWait : W64 := 0
  grantTx  : W64 := 0
  leaseExp : W64 := 0
  leaseRev : W64 := 0
  ordHold  : W64 := 0
  shapeStall : W64 := 0
  belayRef : W64 := 0
  deriving DecidableEq, Repr

/-! ## Intake -/

/-- A request to the archive (R259 to R262): the folios still expected, and where they land (`only` and `seg` as in
`ArchWant`). -/
structure ArchReq where
  reqId     : W32
  group     : GroupIx
  sub       : SubIx
  core      : CoreIx
  task      : TaskIx
  cmd       : Nat
  desc      : Nat
  shard     : Nat
  accession : BitVec 48
  first     : Nat
  count     : Nat
  next      : Nat
  want      : Bool
  version   : W64
  gotRec    : Bool
  deadline  : Nat
  only      : List (CoreIx × Nat) := []
  seg       : Option Nat := none
  deriving DecidableEq, Repr

/-- A request the intake unit has still to issue (R258). What is fetched again after an answer "destination parked"
is for the segment and, under multicast, the targets that gave it, each with the packets it turned away (R266). -/
structure ArchWant where
  core  : CoreIx
  task  : TaskIx
  cmd   : Nat
  desc  : Nat
  ctx   : BitVec 16
  shard : Nat
  first : Nat
  count : Nat
  only  : List (CoreIx × Nat) := []
  seg   : Option Nat := none
  deriving DecidableEq, Repr

/-- A shard tracker (R268 to R270, R276): folios absorbed, digests arrived early, the digest record, and for each stacks base the
ranges of the shard (first, end) that have landed at it. -/
structure Tracker where
  accession : BitVec 48
  shard     : Nat
  count     : Nat
  version   : W64
  absorbed  : Nat
  digs      : List Byte
  early     : List (Nat × List Byte)
  seen      : List Nat
  hashing   : List (Nat × List Byte)
  expected  : Option (List Byte)
  landed    : List (Nat × List (Nat × Nat)) := []
  failed    : Bool := false
  deriving DecidableEq, Repr

/-- The result of a shard's most recent ended pass in this run (R339). -/
structure PassEnd where
  accession : BitVec 48
  ok        : Bool
  version   : W64
  digest    : List Byte
  deriving DecidableEq, Repr

/-- A residency entry (R276). -/
structure Resident where
  accession : BitVec 48
  version   : W64
  base      : Nat
  count     : Nat
  w         : Nat
  digest    : List Byte
  scrubbing : Bool
  deriving DecidableEq, Repr

/-- The INT block. -/
structure Intake where
  scrubCfg  : W32 := 0x03E82000
  scrubEff  : W32 := 0x03E82000
  archVer   : W64 := 0
  verRun    : W64 := 0
  want      : List ArchWant := []
  reqs      : List ArchReq := []
  ended     : List W32 := []
  rob       : Nat := 0
  trackers  : List Tracker := []
  passes    : List PassEnd := []
  resident  : Vector (Option Resident) 256 := Vector.replicate 256 none
  scrubBusy : Bool := false
  scrubNext : Bool := false
  pitchesTo : Nat := 0
  parked    : List ArchWant := []
  folioBad  : W64 := 0
  recPois   : W64 := 0
  dgstMiss  : W64 := 0
  dgstSkip  : W64 := 0
  scrubMiss : W64 := 0
  scrubOvr  : W64 := 0
  req       : W64 := 0
  refetch   : W64 := 0
  archWait  : Vector W64 4 := Vector.replicate 4 0
  bytes     : Vector W64 4 := Vector.replicate 4 0
  deriving DecidableEq, Repr

/-! ## Collectives -/

/-- A chain chunk at this member (R290 to R293): which collective of its group on its core it belongs to (0: none issued), its header,
the bytes landed, the CRC over header and body so far, where it lands, whether it has failed its CRC, is poisoned, added, sent, and
the acknowledgements its forwarded copy still waits for. -/
structure Chunk where
  ctx     : BitVec 16
  group   : BitVec 12
  nth     : Nat
  index   : Nat
  header  : List Byte
  got     : Nat
  len     : Nat
  crc     : Nat
  failed  : Bool := false
  poison  : Bool
  addr    : Option Nat
  added   : Bool
  sent    : Bool
  acks    : Nat
  deriving DecidableEq, Repr

/-- The landed values at the two ends of a chunk that has been added, kept for the elements that its neighbours share with it (R291,
log entry 21): the first and the last bytes, and whether each end was poisoned. -/
structure ChunkEdge where
  group : BitVec 12
  nth   : Nat
  index : Nat
  head  : List Byte × Bool
  tail  : List Byte × Bool
  deriving DecidableEq, Repr

/-- Data of a collective that a core still expects from the member at a position (R297, R301, R302): a unit of a block, or all that
the position sends it; `left` bytes have not landed. -/
structure CollWant where
  pos  : Nat
  off  : Nat
  len  : Nat
  left : Int
  deriving DecidableEq, Repr

/-- Bytes of a collective waiting for credits: context, target, data, poisoned ranges (R157, R300). -/
structure CollOut where
  ctx   : BitVec 16
  addr  : Nat
  bytes : List Byte
  bad   : List (Nat × Nat)
  deriving DecidableEq, Repr

/-- A block of a reduce-scatter landed at its owner (R298): position, offset in the block, data, poisoned. -/
structure CollPart where
  pos    : Nat
  off    : Nat
  bytes  : List Byte
  poison : Bool
  deriving DecidableEq, Repr

/-- A COLL descriptor a core has issued and not completed (R284, R286): its gang, its place in its fused list and the gang that
carries the list's first, which collective of its group on this core it belongs to, when it was issued, whether its data moves,
whether its units are known, the number of its first unit and of its units, the bytes its carrel's ring held before it and the chunks
of it announced (R231, R295), the tables of an expert exchange as read (R299), the work its own events still owe, what it expects,
what waits to be sent, and the blocks gathered. -/
structure CollRun where
  group   : BitVec 12
  core    : CoreIx
  slot    : SlotIx
  task    : TaskIx
  cmd     : Nat
  idx     : Nat
  lead    : Nat
  nth     : Nat
  at_     : Nat
  desc    : List Byte
  started : Bool := false
  sized   : Bool := true
  base    : Nat := 0
  ring0   : Nat := 0
  seen    : List Nat := []
  units   : Nat := 0
  /-- tables read of an expert exchange: 0 none, 1 the counts, 2 the counts and indices -/
  phase   : Nat := 0
  counts  : List Nat := []
  index   : List Nat := []
  steps   : Nat := 0
  sent    : List Nat := []
  wants   : List CollWant := []
  todo    : List CollOut := []
  parts   : List CollPart := []
  deriving DecidableEq, Repr

/-- What a core has issued on a group since launch (R286): how many collectives, with the times of their issue, how many of them have
started, the chain units numbered so far and the collective they belong to, and the command and first descriptor of the latest. -/
structure CollIssue where
  group   : BitVec 12
  core    : CoreIx
  count   : Nat := 0
  times   : List Nat := []
  started : Nat := 0
  units   : Nat := 0
  sizing  : Nat := 0
  task    : TaskIx
  cmd     : Nat
  lead    : Nat
  deriving DecidableEq, Repr

/-- The GRD block. -/
structure Grd where
  absentRun : BitVec 16 := 0
  first     : Bool := false
  last      : Bool := false
  pred      : Nat := 0
  succ      : Nat := 0
  chunks    : List Chunk := []
  colls     : List CollRun := []
  issued    : List CollIssue := []
  edges     : List ChunkEdge := []
  collStart : W64 := 0
  chunksIn  : W64 := 0
  chunksOut : W64 := 0
  chunkCrc  : W64 := 0
  discard   : W64 := 0
  chainWait : W64 := 0
  drop      : W64 := 0
  combZero  : W64 := 0
  deriving DecidableEq, Repr

/-! ## Pitch clock -/

/-- The lock state (R315, Table PIT-9). -/
inductive Lock where
  | free | acquire | locked | holdover
  deriving DecidableEq, Repr

/-- The run state (Table PIT-8; a launch that is pending stands in `Pit.launch`). -/
inductive RunSt where
  | idle | running | abandoning
  deriving DecidableEq, Repr

/-- One valid time exchange of the present interval (R314): twice its offset, and its round trip, in ns. -/
structure Exchange where
  offset : Int
  trip   : Int
  deriving DecidableEq, Repr

/-- A TIME_REQ not yet answered (R313, R314): the module asked, *T*1, the model's time and the port group it left on. -/
structure TimeReq where
  dst  : Nat
  t1   : Nat
  at_  : Nat
  grp  : GroupIx
  deriving DecidableEq, Repr

/-- A launch in preparation (R317 to R321): the count, the slot, what the proposal carries, the lead's attempts and whether the
count may be retried, the latest reply of each member, this member's own latest reply, the decision, and whether the launch pitch
has loaded the image. -/
structure Launch where
  count    : Nat
  slot     : ImgIx
  digest   : Nat
  archVer  : W64
  attempts : Nat
  retry    : Bool
  replies  : List (Nat × Byte)
  said     : Byte
  commit   : Option Bool
  loaded   : Bool
  deriving DecidableEq, Repr

/-- The PIT block. GCNT and the counts of boundaries are numbers of ns. -/
structure Pit where
  gcnt      : W64 := 0
  gcntSet   : Bool := false
  /-- lock, reference and exchanges (R312 to R315, R443): the running interval's exchanges, requests not yet answered, the last valid exchange, the last TIME_REQ or TIME_RESP of each module, counts still to slew and the last one -/
  lock      : Lock := .free
  alt       : Bool := false
  freeRoot  : Bool := false
  probe     : Bool := false
  rootAskAt : Option Nat := none
  offset    : Int := 0
  exchanges : List Exchange := []
  good      : Nat := 0
  slew      : Int := 0
  slewAt    : Nat := 0
  heldSince : Nat := 0
  lostSaid  : Bool := false
  lastExch  : Nat := 0
  pendReq   : List TimeReq := []
  /-- the learned rate at which its clock counts against its oscillator, in counts gained per 10⁹ ns, and the part of a count gained
  (R312, R314, R315) -/
  rate      : Int := 0
  phase     : Int := 0
  onGroup8  : Bool := false
  heard     : List (Nat × Nat) := []
  /-- the run: state, slot, the image it loaded, launch count, pitch, holds, the count at which the pitch began and its end, the entry pitch, the pitches
  begun with their counts (R168), the captured team -/
  run       : RunSt := .idle
  slot      : ImgIx := 0
  image     : TopoImage := {}
  launchAt  : Nat := 0
  pnum      : Nat := 0
  holds     : Nat := 0
  beginAt   : Nat := 0
  bound     : Nat := 0
  entry     : Nat := 0
  begins    : List (Nat × Nat) := []
  /-- the boundary last taken while no run is active (R495) -/
  idleAt    : Nat := 0
  captured  : Bool := false
  teamRun   : W32 := 0x80
  /-- the present guard point: passed, this module's request sent, the lead's requests and decision, a decision applied; the
  abandon count; holds applied since launch -/
  guardDone : Bool := false
  wantHold  : Bool := false
  requests  : List Nat := []
  decided   : Bool := false
  applied   : Bool := false
  abandonAt : Option Nat := none
  holdsRun  : Nat := 0
  launch    : Option Launch := none
  reqLaunch : W64 := 0
  reason    : Byte := 0
  failMod   : BitVec 4 := 0
  ctlSlot   : ImgIx := 0
  /-- barrier arrivals counted by the pitch unit (R60) -/
  arrivals  : List (BitVec 12 × Nat) := []
  tickBad   : Nat := 0
  holdReq   : W64 := 0
  holdGrant : W64 := 0
  lateReq   : W64 := 0
  overrun   : W64 := 0
  benighted : W64 := 0
  launchMiss : W64 := 0
  syncExch  : W64 := 0
  syncDrop  : W64 := 0
  deriving DecidableEq, Repr

/-! ## Global, configuration, sessions, calendar -/

/-- A host port's mailboxes (Table CSR-5, R498). -/
structure Mbox where
  inLen   : BitVec 13 := 0
  inBusy  : Bool := false
  outRdy  : Bool := false
  outLen  : BitVec 13 := 0
  inBytes : List Byte := []
  outBytes : List Byte := []
  replies : List (List Byte) := []
  deriving DecidableEq, Repr

/-- The start-up phase (Table BOO-7). -/
inductive Phase where
  | warden | nvm | mesh | domains | links | time | ready | safe
  deriving DecidableEq, Repr

/-- The GLB block. -/
structure Glb where
  phase     : Phase := .warden
  img       : Bool := false
  fallback  : Bool := false
  cfgDef    : Bool := false
  cfgImg    : Bool := false
  belowBin  : Bool := false
  nvmErr    : Byte := 0
  modIx     : ModIx := 0
  coreEn    : BitVec 256 := BitVec.allOnes 256
  slots     : Vector ImgSlot 2 := Vector.replicate 2 {}
  entry     : BitVec 24 := 0
  refused   : Vector W64 4 := Vector.replicate 4 0
  lastPath  : BitVec 2 := 0
  lastOff   : BitVec 26 := 0
  mbox      : Vector Mbox 2 := Vector.replicate 2 {}
  wardenUp  : Bool := true
  started   : Bool := false
  nextGroup : Nat := 0
  deriving DecidableEq, Repr

/-- A configuration set (Table BOO-4). Shapers and keys are listed where they differ from reset, by index, rising. -/
structure ConfigSet where
  rackId  : BitVec 16 := 0
  tkey    : Vector W32 192 := Vector.replicate 192 0
  pitCfg  : W32 := 0x0C800000
  team    : W32 := 0x00000080
  absent  : BitVec 16 := 0
  biv     : Vector W32 14 := Vector.replicate 14 0x0640A100
  fabCfg  : W32 := 0x000003E8
  shape   : List (Nat × W32) := []
  pkey    : List (Nat × W32) := []
  budget  : W32 := 0x20
  deriving DecidableEq, Repr

/-- A management session (R454 to R456); `ends` is the model's time at which its lifetime ends. -/
structure Session where
  sid    : W32
  path   : SessPath
  keyIn  : List Byte
  keyOut : List Byte
  seqIn  : W64
  seqOut : W64
  ends   : Nat
  drops  : Nat
  deriving DecidableEq, Repr

/-- A HELLO waiting for its PROOF (R455). -/
structure Greeting where
  path     : SessPath
  nc       : List Byte
  nm       : List Byte
  lifetime : W32
  deriving DecidableEq, Repr

/-- What the CFG unit is doing (Table BOO-11). -/
inductive CfgSt where
  | idle | loading | armed
  deriving DecidableEq, Repr

/-- The CFG block. -/
structure Cfg where
  active   : ConfigSet := {}
  shadow   : ConfigSet := {}
  gen      : W64 := 0
  genAct   : W64 := 0
  st       : CfgSt := .idle
  err      : Byte := 0
  swaps    : BitVec 16 := 0
  swapAt   : W64 := 0
  goAt     : Nat := 0
  imgBase  : W64 := 0
  view     : List Path := []
  sessions : Vector (Option Session) 4 := Vector.replicate 4 none
  greeting : List Greeting := []
  deriving DecidableEq, Repr

/-- The calendar clock, on the standby rail (R459). -/
structure Rtc where
  ns     : Nat := 0
  valid  : Bool := false
  lost   : Bool := true
  setCnt : BitVec 16 := 0
  deriving DecidableEq, Repr

/-! ## Lower tiers, audit, faults, memory of the warden -/

/-- What an outstanding request waits for (R246, R247). -/
inductive ReqKind where
  | remoteRead | hostRead | hostFlush | ack | collAck | archAck
  deriving DecidableEq, Repr

/-- An outstanding request or unacknowledged remote write of a segment gang: where its data goes and when it times out. -/
structure Req where
  id       : Nat
  kind     : ReqKind
  core     : CoreIx
  slot     : SlotIx
  task     : TaskIx
  cmd      : Nat
  ctx      : BitVec 16
  addr     : W64
  off      : Nat
  len      : Nat
  deadline : Nat
  /-- for the acknowledgement of a chunk's write, which collective of its group the chunk belongs to -/
  nth      : Nat := 0
  /-- bytes of a read's data that have come; the packet of a write, kept for a RESUME while the write is parked (R368) -/
  got      : Nat := 0
  pkt      : Option LinkPacket := none
  parked   : Bool := false
  deriving DecidableEq, Repr

/-- The MEM block. -/
structure MemUnit where
  hostBase : Vector W64 2 := Vector.replicate 2 0
  hostSize : Vector W64 2 := Vector.replicate 2 0
  timeout  : W32 := 0x050050C8
  timeEff  : W32 := 0x050050C8
  reqs     : List Req := []
  nextReq  : Nat := 1
  ended    : List Nat := []
  eccCorr  : W64 := 0
  eccUncorr : W64 := 0
  timeouts : W64 := 0
  late     : W64 := 0
  mapPend  : W64 := 0
  rowCorr  : List (Nat × Nat) := []
  deriving DecidableEq, Repr

/-- A LEDGER request the warden holds (R164, R341): its SEQ, or the error that refuses it (Table AUD-5), and the input block
with its poisoned byte ranges. -/
structure LedgerReq where
  seq   : W64
  err   : Byte
  core  : CoreIx
  task  : TaskIx
  cmd   : Nat
  slot  : SlotIx
  block : List Byte
  bad   : List (Nat × Nat)
  buf   : W64
  size  : Nat
  pnum  : Nat
  deriving DecidableEq, Repr

/-- The AUD block. -/
structure Aud where
  keyOk    : Bool := true
  lastErr  : Byte := 0
  pend     : List LedgerReq := []
  seq      : W64 := 0
  signed   : Nat := 0
  label    : W32 := 0
  pnum     : W32 := 0
  launch   : W64 := 0
  cseq     : W64 := 0
  cairn    : W128 := 0
  thr      : W128 := 0
  inexact0 : Nat := 0
  ovf0     : Nat := 0
  ok       : W64 := 0
  bad      : W64 := 0
  refused  : W64 := 0
  deriving DecidableEq, Repr

/-- A fault log entry (Table FLT-2), with the time it was written (R475). -/
structure LogEntry where
  gcnt    : W64
  rtc     : W64
  code    : BitVec 16
  srcKind : Byte
  srcId   : Byte
  pnum    : W32
  data    : List Byte
  rep     : W32
  eseq    : W32
  at_     : Nat
  deriving DecidableEq, Repr

/-- The FLT block and the log on the standby rail. `log` is newest first, at most 8,192 entries. -/
structure Flt where
  log      : List LogEntry := []
  wr       : W64 := 0
  cfg      : W32 := 0x13C
  service  : BitVec 10 := 0
  coalesced : W64 := 0
  skew     : W64 := 0
  member   : W64 := 0
  lastMsix : Vector (Option Nat) 2 := Vector.replicate 2 none
  held     : Vector Bool 2 := Vector.replicate 2 false
  lastAuto : Option Nat := none
  /-- a cause of R481 that has not reset the module yet, and the cores whose policy contention this pitch logged (R479) -/
  autoCause : Bool := false
  clkLog   : List CoreIx := []
  deriving DecidableEq, Repr

/-- An image of the configuration memory, by what the warden finds in it (R431 to R435): the fields of its header, whether its base
signature verifies with the key of the OTP hash, the bytes of its boot configuration, and whether a record of its journal fails its
tag. -/
structure NvmImage where
  magic   : Nat := 0x4D564E48
  format  : Nat := 1
  baseLen : Nat := 0
  baseOk  : Bool := true
  gen     : Nat := 0
  version : Nat := 0
  config  : List Byte := []
  journalBad : Bool := false
  deriving DecidableEq, Repr

/-- The configuration memory and the standby-rail record of the warden: images, journal, OTP floor, defects (R431 to R437). -/
structure Nvm where
  images    : Vector NvmImage 2 := Vector.replicate 2 {}
  vfloor    : Nat := 0
  keySlots  : Vector (List Byte) 4 := Vector.replicate 4 []
  cfgGen    : Nat := 0
  testCores : BitVec 256 := 0
  testDead  : List FieldIx := []
  testBundle : List (FieldIx × DirIx × Fin 9) := []
  /-- rows mapped out at manufacture, with their banks, whose spares they use (R242, R437) -/
  testRows  : List (Nat × Nat) := []
  binX      : Bool := false
  badCores  : BitVec 256 := 0
  badRouters : List FieldIx := []
  mapOut    : List (Nat × Nat) := []
  spareOut  : List Nat := []
  mapped    : List Nat := []
  seqMark   : Option Nat := none
  fails     : Nat := 0
  lockEnd   : Nat := 0
  lockLen   : Nat := 0
  shutCause : BitVec 2 := 0
  shutSrc   : Byte := 0
  epoch     : BitVec 16 := 0
  deriving DecidableEq, Repr

/-- The pins the module samples (R503 to R507) and the input voltage's state (R426, R438). -/
structure Pins where
  slotId  : BitVec 4 := 0
  slotPar : Bool := false
  mrstN   : Bool := true
  ejectN  : Bool := true
  thermtripN : Bool := true
  inputOk : Bool := true
  msixEn  : Vector Bool 2 := Vector.replicate 2 true
  deriving DecidableEq, Repr

/-- What the module sends outside (the model's own record, newest last): read results, session messages, MSI-X,
link packets, host-tier traffic. -/
inductive Out where
  | readData (p : Path) (off : BitVec 26) (v : W32)
  | unsupported (p : Path)
  | msix (port : PortIx) (vec : Nat)
  | session (p : SessPath) (bs : List Byte)
  | link (g : GroupIx) (s : SubIx) (p : LinkPacket)
  | team (g : GroupIx) (s : SubIx) (dst : Nat) (m : TeamMsg)
  | management (g : GroupIx) (s : SubIx) (body : List Byte)
  | hostRead (port : PortIx) (addr : W64) (len : Nat)
  | hostWrite (port : PortIx) (addr : W64) (bs : List Byte)
  | replay (g : GroupIx) (s : SubIx) (frm : BitVec 12) (pkts : List LinkPacket)
  deriving DecidableEq, Repr

/-- The whole machine. -/
structure State where
  mem     : Memory := {}
  cores   : Vector Core 256 := Vector.replicate 256 {}
  fields  : Vector Field 64 := Vector.replicate 64 {}
  mesh    : List Transit := []
  /-- copies of multicast packets on their way to the routers of their rectangle (R41) -/
  mcast   : List McastCopy := []
  /-- requests answered "destination parked", which their issuers hold and send again (R56, R414) -/
  held    : List MeshPacket := []
  ctl     : List CtlTransit := []
  links   : Vector LinkGroup 14 := Vector.replicate 14 {}
  fab     : Fab := {}
  intk    : Intake := {}
  grd     : Grd := {}
  pit     : Pit := {}
  glb     : Glb := {}
  cfg     : Cfg := {}
  rtc     : Rtc := {}
  pwr     : Pwr := {}
  memu    : MemUnit := {}
  aud     : Aud := {}
  flt     : Flt := {}
  nvm     : Nvm := {}
  pins    : Pins := {}
  /-- latched high words and pending low words, per path and offset of the low word (R8 to R11) -/
  latch   : List (Path × BitVec 26 × W32) := []
  low     : List (Path × BitVec 26 × W32) := []
  out     : List Out := []
  /-- the model's own clock in ns since power was applied, and its counter of free values (log entry 5) -/
  now     : Nat := 0
  freeCtr : Nat := 0
  /-- the commands that wait, first in, first out -/
  pending : List Instr := []
  deriving DecidableEq, Repr

/-- The machine right after a module reset: every register at the value of its Reset column, no command waiting. -/
def State.reset : State := {}

end Sys2Proof.Machine
end

