-- ==== Sys2Proof/Machine/Ops.lean ====
section
/-! DEFINITION. The shared operations over the state: memory and poison (R128 to R131), the decode of a rack address (R217 to
R219), the floor plan (R21 to R23), regions (R63 to R66), parked and absent destinations (R30, R51, R56, R218), the core and
task registers, and what a run has loaded. -/

namespace Sys2Proof.Machine

/-! ## Sorted lists -/

/-- A byte placed in a rising list of cells; a zero byte is not listed. -/
def setCell (a : Nat) (b : Byte) : List Host.Cell → List Host.Cell
  | [] => if b = 0 then [] else [(a, b)]
  | (k, v) :: rest =>
    if a < k then (if b = 0 then (k, v) :: rest else (a, b) :: (k, v) :: rest)
    else if a = k then (if b = 0 then rest else (a, b) :: rest)
    else (k, v) :: setCell a b rest

/-- The byte listed at an address, zero where none is. -/
def getCell (a : Nat) : List Host.Cell → Byte
  | [] => 0
  | (k, v) :: rest => if a = k then v else getCell a rest

/-- A number placed in a strictly rising list. -/
def insertNat (x : Nat) : List Nat → List Nat
  | [] => [x]
  | y :: ys => if x < y then x :: y :: ys else if x = y then y :: ys else y :: insertNat x ys

/-- An index and word placed in a rising list; `dflt` is not listed. -/
def setWord (dflt : W32) (i : Nat) (w : W32) : List (Nat × W32) → List (Nat × W32)
  | [] => if w = dflt then [] else [(i, w)]
  | (k, v) :: rest =>
    if i < k then (if w = dflt then (k, v) :: rest else (i, w) :: (k, v) :: rest)
    else if i = k then (if w = dflt then rest else (i, w) :: rest)
    else (k, v) :: setWord dflt i w rest

/-- The word listed at an index, `dflt` where none is. -/
def getWord (dflt : W32) (i : Nat) : List (Nat × W32) → W32
  | [] => dflt
  | (k, v) :: rest => if i = k then v else getWord dflt i rest

/-! ## Memory -/

/-- Keys strictly rise. -/
def rising : List Nat → Bool
  | [] => true
  | [_] => true
  | a :: b :: rest => decide (a < b) && rising (b :: rest)

/-- The canonical form: cells strictly rising with no zero byte, clean granules strictly rising. -/
def Memory.wf (m : Memory) : Bool :=
  rising (m.cells.map Prod.fst) && m.cells.all (fun c => c.2 != 0) && rising m.clean

/-- One byte (an unlisted address reads zero). -/
def Memory.byte (m : Memory) (a : Nat) : Byte := getCell a m.cells

/-- `n` bytes from an address. -/
def Memory.read (m : Memory) (a : Nat) : Nat → List Byte
  | 0 => []
  | n + 1 => m.byte a :: m.read (a + 1) n

/-- A granule holds poison (R128). -/
def Memory.poisoned (m : Memory) (g : Nat) : Bool := !m.clean.contains g

/-- The granules that bytes `a .. a + n - 1` touch. -/
def granules (a n : Nat) : List Nat :=
  if n = 0 then [] else (List.range ((a + n - 1) / 64 - a / 64 + 1)).map (a / 64 + ·)

/-- Some granule of the range is poisoned. -/
def Memory.anyPoison (m : Memory) (a n : Nat) : Bool := (granules a n).any m.poisoned

/-- Bytes stored from an address on, poison untouched. -/
def storeCells (cs : List Host.Cell) : Nat → List Byte → List Host.Cell
  | _, [] => cs
  | a, b :: bs => storeCells (setCell a b cs) (a + 1) bs

/-- One write (R129, R130): the bytes are stored; a granule of `bad` becomes poisoned; another granule loses poison
exactly when the write covers it whole. -/
def Memory.write (m : Memory) (a : Nat) (bs : List Byte) (bad : List Nat) : Memory :=
  { cells := storeCells m.cells a bs
    clean := (granules a bs.length).foldl
      (fun cl g =>
        if bad.contains g then cl.filter (· != g)
        else if decide (a ≤ 64 * g) && decide (64 * g + 64 ≤ a + bs.length) then insertNat g cl
        else cl) m.clean }

/-- Granules marked poisoned, contents untouched. -/
def Memory.poison (m : Memory) (gs : List Nat) : Memory :=
  { m with clean := m.clean.filter fun g => !gs.contains g }

/-- The content of an address range is lost (R244): nothing listed, every granule poisoned. -/
def Memory.lose (m : Memory) (lo hi : Nat) : Memory :=
  { cells := m.cells.filter fun c => decide (c.1 < lo) || decide (hi ≤ c.1)
    clean := m.clean.filter fun g => decide (64 * g < lo) || decide (hi ≤ 64 * g) }

/-! ## The floor plan -/

/-- Column of a field (R21). -/
def fieldX (f : Nat) : Nat := f % 8
/-- Row of a field (R21). -/
def fieldY (f : Nat) : Nat := f / 8
/-- Column of a core in the core grid (R22). -/
def coreX (c : Nat) : Nat := 2 * fieldX (c / 4) + c % 4 % 2
/-- Row of a core in the core grid (R22). -/
def coreY (c : Nat) : Nat := 2 * fieldY (c / 4) + c % 4 / 2

/-- The field of a core (R22). -/
def coreField (c : CoreIx) : FieldIx := ⟨c.val / 4, by omega⟩
/-- The place of a core in its field. -/
def coreLocal (c : CoreIx) : Fin 4 := ⟨c.val % 4, by omega⟩
/-- Core `c` of a field. -/
def coreOf (f : FieldIx) (c : Fin 4) : CoreIx := ⟨4 * f.val + c.val, by omega⟩

/-- The attachment field of a sublink of a port group (Table WAF-1, R344). -/
def attachField (g : GroupIx) (s : SubIx) : Nat :=
  let north (x : Nat) : Nat := x + s.val
  let south (x : Nat) : Nat := 56 + x + s.val
  let east (y : Nat) : Nat := 8 * (y + s.val) + 7
  let west (y : Nat) : Nat := 8 * (y + s.val)
  match g.val with
  | 0 => north 2
  | 1 => east 2
  | 2 => south 2
  | 3 => west 2
  | 4 => south 4
  | 5 => north 4
  | 6 => north 0
  | 7 => north 6
  | 8 => east 0
  | 9 => east 5
  | 10 => south 0
  | 11 => south 6
  | 12 => west 0
  | _ => west 5

/-- The edge of a port group: 0 north, 1 east, 2 south, 3 west (Table WAF-1, Table PWR-1). -/
def groupEdge (g : GroupIx) : Nat :=
  match g.val with
  | 0 => 0
  | 5 => 0
  | 6 => 0
  | 7 => 0
  | 1 => 1
  | 8 => 1
  | 9 => 1
  | 2 => 2
  | 4 => 2
  | 10 => 2
  | 11 => 2
  | _ => 3

/-- The field a host port attaches to (Table WAF-1). -/
def hostField (p : PortIx) : Nat := if p.val = 0 then 39 else 32

/-- VLOG domain of a field (Table PWR-1). -/
def vlog (f : FieldIx) : DomIx := ⟨f.val, by omega⟩
/-- VARR domain of a field's 2 × 2 block (Table PWR-1). -/
def varr (f : FieldIx) : DomIx := ⟨64 + 4 * (f.val / 8 / 2) + f.val % 8 / 2, by omega⟩
/-- VMIF domain of a field's quadrant (Table PWR-1). -/
def vmif (f : FieldIx) : DomIx :=
  ⟨84 + (if f.val % 8 < 4 then 0 else 1) + (if f.val / 8 < 4 then 0 else 2), by
    split <;> split <;> omega⟩
/-- VLNK domain of a port group's edge (Table PWR-1). -/
def vlnk (g : GroupIx) : DomIx := ⟨80 + groupEdge g % 4, by omega⟩

/-! ## State updates -/

def State.core (s : State) (c : CoreIx) : Core := s.cores[c]
def State.task (s : State) (c : CoreIx) (t : TaskIx) : Task := s.cores[c].tasks[t]
def State.field (s : State) (f : FieldIx) : Field := s.fields[f]
def State.group (s : State) (g : GroupIx) : LinkGroup := s.links[g]
def State.sub (s : State) (g : GroupIx) (u : SubIx) : Sublink := s.links[g].sub[u]
def State.dom (s : State) (d : DomIx) : Domain := s.pwr.dom[d]

def State.modCore (s : State) (c : CoreIx) (f : Core → Core) : State := { s with cores := upd s.cores c f }
def State.modTask (s : State) (c : CoreIx) (t : TaskIx) (f : Task → Task) : State :=
  s.modCore c fun k => { k with tasks := upd k.tasks t f }
def State.modCnt (s : State) (c : CoreIx) (f : CoreCount → CoreCount) : State :=
  s.modCore c fun k => { k with cnt := f k.cnt }
def State.modField (s : State) (f : FieldIx) (g : Field → Field) : State := { s with fields := upd s.fields f g }
def State.modGroup (s : State) (g : GroupIx) (f : LinkGroup → LinkGroup) : State :=
  { s with links := upd s.links g f }
def State.modSub (s : State) (g : GroupIx) (u : SubIx) (f : Sublink → Sublink) : State :=
  s.modGroup g fun k => { k with sub := upd k.sub u f }
def State.modDom (s : State) (d : DomIx) (f : Domain → Domain) : State :=
  { s with pwr := { s.pwr with dom := upd s.pwr.dom d f } }
def State.emit (s : State) (o : Out) : State := { s with out := s.out ++ [o] }
/-- A packet enters the mesh at a field: it waits in that field's crossbar for room in the router. -/
def State.postAt (s : State) (f : FieldIx) (p : MeshPacket) : State := { s with mesh := s.mesh ++ [{ pkt := p, at_ := f }] }
/-- A packet enters the mesh at its source field. -/
def State.post (s : State) (p : MeshPacket) : State := s.postAt p.srcField p

/-- The next free value's number is used up (log entry 5). -/
def State.fresh (s : State) (n : Nat := 1) : State := { s with freeCtr := s.freeCtr + n }

/-- `n` bytes of unspecified bits (R131). -/
def State.freeBytes (s : State) (n : Nat) : List Byte :=
  (List.range n).map fun i => Config.freeByte (s.freeCtr + i)

/-! ## Time -/

/-- GCNT as a number (R308). -/
def State.gcnt (s : State) : Nat := s.pit.gcnt.toNat

/-- The GCNT replica of a field's control node; 0 before the sync broadcast has set it (R61). -/
def State.nodeCount (s : State) (f : FieldIx) : Nat :=
  match (s.fields[f]).replica with
  | some d => ((s.gcnt : Int) + d).toNat
  | none => 0

/-- GCNT as a core acts on it: its field's replica (R61). -/
def State.coreCount (s : State) (c : CoreIx) : Nat := s.nodeCount (coreField c)

/-- The boundary that began the pitch in which a core's events lie, as its node knows it: the latest that its count has reached (R61,
R311). -/
def State.coreBegin (s : State) (c : CoreIx) : Nat :=
  let f := s.fields[coreField c]
  if f.bound.toNat ≤ s.coreCount c then f.bound.toNat else f.begun.toNat

/-- A core's cycles in `n` ns at a level (R95), rounded down to whole cycles. -/
def coreCycles (level n : Nat) : Nat := n * level * 10625 / 100000

/-- RTC_TIME in µs (R459). -/
def State.rtcUs (s : State) : Nat := s.rtc.ns / 1000

/-- A run is active on the module. -/
def State.running (s : State) : Bool := s.pit.run == .running || s.pit.run == .abandoning

/-- The run's cores fetch and issue: it is not being abandoned (R328). -/
def State.issuing (s : State) : Bool := s.pit.run == .running

/-- The image that the launch of the present run, or of the last one, loaded. -/
def State.image (s : State) : TopoImage := s.pit.image

/-- PITCH_US of the running image in ns. -/
def State.pitchNs (s : State) : Nat := s.image.pitchUs * 1000

/-- The pitch that an event at the present count lies in: an event at a boundary's count belongs to the pitch that begins there (R311). -/
def State.pnumNow (s : State) : Nat := if s.running && decide (0 < s.pit.bound) && decide (s.pit.bound ≤ s.gcnt) then s.pit.pnum + 1 else s.pit.pnum

/-- The count at which the pitch of the present count began (R311). -/
def State.pitchBegan (s : State) : Nat :=
  if s.running && decide (0 < s.pit.bound) && decide (s.pit.bound ≤ s.gcnt) then s.pit.bound else s.pit.beginAt

/-- The boundary in force on the module's pitch grid: that of the run while one is active, else the last multiple of 1,000,000 (R412, R495). -/
def State.gridNow (s : State) : Nat := if s.running then s.pitchBegan else s.gcnt / 1000000 * 1000000

/-- PITCH_US of a slot's image in ns. -/
def State.slotPitch (s : State) (i : ImgIx) : Nat := 1000 * (s.glb.slots[i]).image.pitchUs

/-- The launch pitch's first count (R183). -/
def State.loadCount (s : State) (l : Launch) : Nat := l.count - s.slotPitch l.slot

/-- The boundary that ends a core's pitch, as its node knows it: before its tick has come, PITCH_US after the one that began it. -/
def State.coreEnd (s : State) (c : CoreIx) : Nat :=
  let b := (s.fields[coreField c]).bound.toNat
  if b ≤ s.coreCount c then b + s.pitchNs else b

/-! ## Link buffers -/

/-- Flits of the module's receive buffer for a VC of a sublink of a group (Table LNK-7). -/
def rxFlits (g v : Nat) : Nat :=
  match v with
  | 0 => 64
  | 1 => 64
  | 2 => 1024
  | 4 => if g ≤ 3 then 8192 else 1024
  | _ => 2048

/-! ## Enabled cores and routers -/

/-- Routers dead from the next launch on: the test section and the in-field section (R53, R437). -/
def Nvm.dead (n : Nvm) : List FieldIx := n.testDead ++ n.badRouters.filter fun f => !n.testDead.contains f

/-- The cores the defect map leaves enabled (R3, R48, R437). -/
def Nvm.enabled (n : Nvm) : BitVec 256 :=
  let off := n.testCores ||| n.badCores
  let deadMask : BitVec 256 :=
    n.dead.foldl (fun a f => a ||| (0xF#256 <<< (4 * f.val))) 0
  ~~~(off ||| deadMask)

/-- A core is enabled. -/
def State.enabled (s : State) (c : Nat) : Bool := s.glb.coreEn.getLsbD c

/-- A core that the run uses: it is enabled and CORE_MASK names it; the others stay idle (R182). -/
def State.inRun (s : State) (c : CoreIx) : Bool := s.enabled c.val && bit s.image.mask c.val

/-- The number of set bits among the low `n`. -/
def countBits : Nat → Nat → Nat
  | 0, _ => 0
  | n + 1, w => w % 2 + countBits n (w / 2)

/-- A field's router is dead: the defect map names it (R48, R53, R54). -/
def State.deadRouter (s : State) (f : FieldIx) : Bool := s.nvm.testDead.contains f || s.nvm.badRouters.contains f

/-! ## Rack addresses (Table MEM-1) -/

/-- Where a rack address leads on its module. -/
inductive Place where
  | scratch (c : CoreIx) (off : Nat)
  | slice   (f : FieldIx) (off : Nat)
  | stacks  (off : Nat)
  | host    (p : PortIx) (off : Nat)
  | archive (shard : Nat) (off : Nat)
  | csr     (off : Nat)
  | absent
  deriving DecidableEq, Repr

/-- The module index of a rack address (R12, R217). -/
def addrModule (a : Nat) : Nat := bits a 60 4

/-- The range code of a rack address. -/
def addrRange (a : Nat) : Nat := bits a 56 4

/-- The memory key of a rack address: bits 59:0. -/
def addrLocal (a : Nat) : Nat := a % 2 ^ 60

def scratchSize : Nat := 0x2800000
def stacksSize : Nat := 0x18000000000
def fieldStacks : Nat := 0x600000000

/-- Bits 59:0 decoded (R217, R218). -/
def place (a : Nat) : Place :=
  match addrRange a with
  | 0 =>
    if bits a 34 22 ≠ 0 ∨ scratchSize ≤ bits a 0 26 then .absent
    else .scratch ⟨bits a 26 8, Nat.mod_lt _ (by decide)⟩ (bits a 0 26)
  | 1 =>
    if bits a 32 24 ≠ 0 then .absent
    else .slice ⟨bits a 26 6, Nat.mod_lt _ (by decide)⟩ (bits a 0 26)
  | 2 =>
    if bits a 41 15 ≠ 0 ∨ stacksSize ≤ bits a 0 41 then .absent else .stacks (bits a 0 41)
  | 3 =>
    if bits a 49 7 ≠ 0 then .absent
    else .host ⟨bits a 48 1, Nat.mod_lt _ (by decide)⟩ (bits a 0 48)
  | 4 => .archive (bits a 40 16) (bits a 0 40)
  | 15 => if bits a 26 30 ≠ 0 then .absent else .csr (bits a 0 26)
  | _ => .absent

/-- The local address of a core's scratchpad offset. -/
def scratchAddr (c : CoreIx) (off : Nat) : Nat := c.val * 2 ^ 26 + off
/-- The local address of a shared-slice offset. -/
def sliceAddr (f : FieldIx) (off : Nat) : Nat := 2 ^ 56 + f.val * 2 ^ 26 + off
/-- The local address of a stacks offset. -/
def stacksAddr (off : Nat) : Nat := 2 * 2 ^ 56 + off

/-- The field of a stacks offset (R219). -/
def stacksField (off : Nat) : FieldIx := ⟨off / fieldStacks % 64, Nat.mod_lt _ (by decide)⟩

/-! ## Stores with poison (R129 to R131) -/

/-- The granules that byte ranges (first, length) relative to `a` touch, each once. -/
def badGranules (a : Nat) (rs : List (Nat × Nat)) : List Nat :=
  (rs.flatMap fun r => granules (a + r.1) r.2).eraseDups

/-- Bytes as a read finds them: those of bad granules are free values (R131). -/
def spoil (ctr a : Nat) (bad : List Nat) : Nat → List Byte → List Byte
  | _, [] => []
  | i, b :: bs => (if bad.contains ((a + i) / 64) then Config.freeByte (ctr + i) else b) :: spoil ctr a bad (i + 1) bs

/-- `n` bytes read from local memory: the bits of a poisoned granule are unspecified at every read (R131). -/
def State.view (s : State) (a n : Nat) : List Byte :=
  spoil s.freeCtr a ((granules a n).filter s.mem.poisoned) 0 (s.mem.read a n)

/-- Bytes stored as they are, with the granules `bad` poisoned. -/
def State.storeRaw (s : State) (a : Nat) (bs : List Byte) (bad : List Nat) : State :=
  { s with mem := s.mem.write a bs bad }

/-- A store whose byte ranges `rs` are poisoned: every granule they touch becomes poisoned. -/
def State.store (s : State) (a : Nat) (bs : List Byte) (rs : List (Nat × Nat)) : State := s.storeRaw a bs (badGranules a rs)

/-- The core whose FLD_POISON_WR counts a granule written poisoned by no core of this module: the scratchpad's own, else the first
core of the slice's or the stacks' field (DESIGN CHOICE, log entry 57). -/
def homeCore (a : Nat) : CoreIx :=
  match place a with
  | .scratch c _ => c
  | .slice f _ => coreOf f 0
  | .stacks o => coreOf (stacksField o) 0
  | _ => 0

/-- Granules written poisoned are counted (R131, FLD_POISON_WR). -/
def State.countPoison (s : State) (c : CoreIx) (n : Nat) : State :=
  s.modCnt c fun k => { k with poisonWr := bump k.poisonWr n }

/-- A store on behalf of a core of this module, or of none. -/
def State.storeFor (s : State) (acc : Option CoreIx) (a : Nat) (bs : List Byte) (rs : List (Nat × Nat)) : State :=
  (s.store a bs rs).countPoison (acc.getD (homeCore a)) (badGranules a rs).length

/-- A store of a core (R131). -/
def State.coreStore (s : State) (c : CoreIx) (a : Nat) (bs : List Byte) (rs : List (Nat × Nat)) : State :=
  s.storeFor (some c) a bs rs

/-- Granules of one range of local memory marked poisoned, contents untouched, and counted. -/
def State.spoilAt (s : State) (acc : Option CoreIx) (gs : List Nat) : State :=
  match gs with
  | [] => s
  | g :: _ => ({ s with mem := s.mem.poison gs }).countPoison (acc.getD (homeCore (64 * g))) gs.length

/-- The poisoned byte ranges, relative to `a`, of bytes `a .. a + n - 1` (R129). -/
def Memory.poisonIn (m : Memory) (a n : Nat) : List (Nat × Nat) :=
  ((granules a n).filter m.poisoned).map fun g =>
    (64 * g - a, min (64 * g + 64) (a + n) - max (64 * g) a)

/-! ## Slices, windows and fences -/

/-- The slice of a shared-slice offset under a field's ILV (R26). -/
def sliceOf (ilv : Bool) (off : Nat) : Fin 16 :=
  if ilv then ⟨off / 2 ^ 22 % 16, Nat.mod_lt _ (by decide)⟩
  else ⟨off / 256 % 16, Nat.mod_lt _ (by decide)⟩

/-- The field an on-module place lies in. -/
def placeField : Place → Option FieldIx
  | .scratch c _ => some (coreField c)
  | .slice f _ => some f
  | .stacks o => some (stacksField o)
  | _ => none

/-- The acting window of a host port (R221, Table MEM-9). -/
def State.hostWindow (s : State) (p : PortIx) : Nat :=
  min (2 ^ 48) ((s.memu.hostSize[p]).toNat / 2 ^ 20 * 2 ^ 20)

/-- A domain no longer or not yet admits traffic (R56, R412, R414). -/
def State.fenced (s : State) (d : DomIx) : Bool := (s.dom d).st != .on

/-- A field's router or crossbar answers for a fenced domain: the domain is fenced, or the field's node has a fence of it in
force (R57, R412). -/
def State.fencedAt (s : State) (f : FieldIx) (d : DomIx) : Bool := s.fenced d || (s.fields[f]).fences.getLsbD d.val

/-- The place answers "destination parked" (Table PWR-2). -/
def State.parkedAt (s : State) (p : Place) : Bool :=
  match p with
  | .scratch c _ => s.fencedAt (coreField c) (vlog (coreField c)) || s.fencedAt (coreField c) (varr (coreField c))
  | .slice f _ => s.fencedAt f (vlog f) || s.fencedAt f (varr f)
  | .stacks o => s.fencedAt (stacksField o) (vlog (stacksField o)) || s.fencedAt (stacksField o) (vmif (stacksField o))
  | _ => false

/-- The place answers "destination absent" for an access of `n` bytes from `a` (R30, R51, R54, R218, R256, R440). -/
def State.absentAt (s : State) (a n : Nat) : Bool :=
  match place a with
  | .scratch c o =>
    !s.enabled c.val || s.deadRouter (coreField c) || decide (scratchSize < o + n)
  | .slice f o => s.deadRouter f || decide (2 ^ 26 < o + n)
  | .stacks o => (s.dom (vmif (stacksField o))).failed || decide (stacksSize < o + n)
  | .host p o => decide (s.hostWindow p < o + n)
      || s.deadRouter ⟨hostField p % 64, Nat.mod_lt _ (by decide)⟩
  | .archive k o =>
    match s.image.shards[k]? with
    | none => true
    | some sh => decide (sh.count * sh.w < o + n)
  | .csr _ => false
  | .absent => true

/-- STATUS codes of Table WAF-3. -/
def stGood : BitVec 4 := 0
def stPoison : BitVec 4 := 1
def stAbsent : BitVec 4 := 2
def stRefused : BitVec 4 := 3
def stParked : BitVec 4 := 4

/-! ## Regions (R63 to R66) -/

/-- FLD_CORE_RECT of a core. -/
def State.rectOf (s : State) (c : CoreIx) : Nat := ((s.fields[coreField c]).rect[coreLocal c]).toNat

/-- The region of a core (R63). -/
def State.region (s : State) (c : CoreIx) : Byte := BitVec.ofNat 8 (bits (s.rectOf c) 24 8)

/-- A core lies in a rectangle word (Table WAF-9). -/
def inRect (r : Nat) (c : Nat) : Bool :=
  decide (bits r 20 4 ≤ coreX c) && decide (coreX c ≤ bits r 16 4)
    && decide (bits r 12 4 ≤ coreY c) && decide (coreY c ≤ bits r 8 4)

/-- The region a stacks range is granted to, for bytes `o .. o + n - 1` (R65, R229). -/
def State.stacksRegion (s : State) (o n : Nat) : Option Byte :=
  (s.image.regions.find? fun r => r.stackRanges.any fun g => decide (g.1 ≤ o) && decide (o + n ≤ g.2 + 1)).map
    fun r => BitVec.ofNat 8 (bits r.rect.toNat 24 8)

/-- The declaration of a stream context of the loaded run (R279). -/
def State.ctx? (s : State) (c : BitVec 16) : Option Ctx := s.fab.ctxs.find? fun k => k.decl.ctx == c

/-- A stream context rewritten. -/
def State.modCtx (s : State) (c : BitVec 16) (f : Ctx → Ctx) : State :=
  { s with fab := { s.fab with ctxs := s.fab.ctxs.map fun k => if k.decl.ctx == c then f k else k } }

/-- The slices that bytes `o .. o + n - 1` of a field's shared range touch under its ILV (R26). -/
def slicesOf (ilv : Bool) (o n : Nat) : List (Fin 16) :=
  let g := if ilv then 2 ^ 22 else 256
  (List.range (min 16 (if n = 0 then 1 else (o + n - 1) / g - o / g + 1))).map fun i => sliceOf ilv (o + i * g)

/-- Every slice of a field's shared range is owned by a region (R64). -/
def State.slicesOwned (s : State) (f : FieldIx) (o n : Nat) (r : Byte) : Bool :=
  (slicesOf (s.fields[f]).ilv o n).all fun i => (s.fields[f]).owner[i] == r

/-- R66: the place belongs to a region. -/
def State.ownedBy (s : State) (p : Place) (n : Nat) (r : Byte) : Bool :=
  match p with
  | .scratch c _ => s.region c == r
  | .slice f o => s.slicesOwned f o n r
  | .stacks o => s.stacksRegion o n == some r
  | _ => true

/-- R65: a core may send to a rack address under a context; to another module only under one of the rack fabric's port groups (R15,
log entry 36). -/
def State.mayReach (s : State) (c : CoreIx) (a n : Nat) (ctx : BitVec 16) : Bool :=
  if addrModule a ≠ s.glb.modIx.val then
    match s.ctx? ctx with
    | some k => k.decl.region == s.region c && decide (6 ≤ k.decl.port)
    | none => false
  else
    match place a with
    | .scratch d _ => inRect (s.rectOf c) d.val
    | .slice f o => s.slicesOwned f o n (s.region c)
    | .stacks o => s.stacksRegion o n == some (s.region c)
    | .host _ _ => true
    | .archive _ _ => true
    | _ => false

/-! ## Carrels (R224 to R228) -/

/-- The fields of FLD_CAR_ATTR (Table MEM-3). -/
def Carrel.valid (k : Carrel) : Bool := bit k.attr.toNat 31
def Carrel.rd (k : Carrel) : Bool := bit k.attr.toNat 30
def Carrel.wr (k : Carrel) : Bool := bit k.attr.toNat 29
def Carrel.red (k : Carrel) : Bool := bit k.attr.toNat 28
def Carrel.land (k : Carrel) : Bool := bit k.attr.toNat 27
def Carrel.smod (k : Carrel) : Nat := bits k.attr.toNat 23 4
def Carrel.relctr (k : Carrel) : Fin 64 := ⟨bits k.attr.toNat 16 6, Nat.mod_lt _ (by decide)⟩
def Carrel.sctx (k : Carrel) : BitVec 16 := BitVec.ofNat 16 (bits k.attr.toNat 0 16)

/-- Bytes of a carrel. -/
def Carrel.size (k : Carrel) : Nat := k.bound.toNat + 1 - k.base.toNat

/-- Slots of a landing carrel (R230). -/
def Carrel.slots (k : Carrel) : Nat := k.size / 65536

/-- Data carrel `k` of a task context. -/
def Task.data (t : Task) (k : Fin 8) : Carrel := t.carrels[(⟨k.val + 1, by omega⟩ : Fin 9)]

/-- The access kinds a carrel grants. -/
inductive Acc where
  | read | write | reduce
  deriving DecidableEq, Repr

/-- R142, R227: `n` bytes at `off` lie inside the carrel and its attributes grant the access. -/
def Carrel.admits (k : Carrel) (a : Acc) (off n : Nat) : Bool :=
  k.valid && (match a with
    | .read => k.rd
    | .write => k.wr
    | .reduce => k.red)
    && decide (k.base.toNat + off + n ≤ k.bound.toNat + 1)

/-! ## Counters of completion (R72, R73, R137) -/

/-- A counter raised by `v`, saturating (R73, R137). -/
def satAdd (x : W32) (v : Nat) : W32 :=
  if x.toNat + v < 2 ^ 32 then x + BitVec.ofNat 32 v else BitVec.allOnes 32

/-- Commands held in a queue. -/
def Task.queue (t : Task) (q : Queue) : List QEntry :=
  match q with
  | .mat => t.mat
  | .vec => t.vec
  | .str => t.str
  | .ctl => t.ctl

/-- A queue replaced. -/
def Task.setQueue (t : Task) (q : Queue) (es : List QEntry) : Task :=
  match q with
  | .mat => { t with mat := es }
  | .vec => { t with vec := es }
  | .str => { t with str := es }
  | .ctl => { t with ctl := es }

/-- The QUEUE code of Table CMD-15. -/
def queueCode : Queue → BitVec 2
  | .mat => 0
  | .vec => 1
  | .str => 2
  | .ctl => 3

/-- A command of a task context by its id. -/
def Task.cmd? (t : Task) (id : Nat) : Option Cmd := t.cmds.find? fun c => c.id == id

/-- A command of a task context rewritten. -/
def Task.modCmd (t : Task) (id : Nat) (f : Cmd → Cmd) : Task :=
  { t with cmds := t.cmds.map fun c => if c.id == id then f c else c }

/-- The gang in a slot. -/
def Core.gang? (k : Core) (g : SlotIx) : Option Gang := k.gangs.find? fun x => x.slot == g

/-- The gang in a slot rewritten. -/
def Core.modGang (k : Core) (g : SlotIx) (f : Gang → Gang) : Core :=
  { k with gangs := k.gangs.map fun x => if x.slot == g then f x else x }

/-! ## Paths -/

/-- The counter index of a path (R497): A, B, sessions, warden. -/
def pathIx : Path → Fin 4
  | .hostA => 0
  | .hostB => 1
  | .session _ => 2
  | .warden => 3

/-- A host port path. -/
def isHost : Path → Bool
  | .hostA => true
  | .hostB => true
  | _ => false

/-- A path of class S: a session or the warden (Table CSR-2). -/
def classS (p : Path) : Bool := !isHost p

/-- BAR 0 of the host ports is ready (R441). -/
def State.barReady (s : State) : Bool := s.glb.phase != .warden && s.glb.phase != .nvm

/-- Whether a path can reach CSR space now: host ports once BAR 0 is ready, sessions while open, the warden outside its own reset
(R441, R454, R461). -/
def State.pathOpen (s : State) (p : Path) : Bool :=
  match p with
  | .hostA => s.barReady
  | .hostB => s.barReady
  | .session i => (s.cfg.sessions[i]).isSome
  | .warden => s.glb.wardenUp

/-- A path's CFG_CTL.VIEW (R447). -/
def State.viewOf (s : State) (p : Path) : Bool := s.cfg.view.contains p

/-- The configuration a path sees. -/
def State.seen (s : State) (p : Path) : ConfigSet := if s.viewOf p then s.cfg.shadow else s.cfg.active

/-- PIT_TEAM fields (Table PIT-7). -/
def teamNo (w : W32) : Nat := bits w.toNat 28 4
def teamMember (w : W32) : Nat := bits w.toNat 24 4
def teamLead (w : W32) : Nat := bits w.toNat 20 4
def teamRoot (w : W32) : Nat := bits w.toNat 16 4
def teamAlt (w : W32) : Nat := bits w.toNat 12 4
def teamSize (w : W32) : Nat := bits w.toNat 7 5

/-- The hold quantum in ns (Table PIT-6). -/
def holdQuantum (w : W32) : Nat := 1000 * max 50 (min 1000 (bits w.toNat 22 10))

/-- The module is the lead of the team it captured (R317, Table PIT-8). -/
def State.isLead (s : State) : Bool := teamLead s.cfg.active.team == s.glb.modIx.val

/-- The module leads the run in progress. -/
def State.leadsRun (s : State) : Bool := teamLead s.pit.teamRun == s.glb.modIx.val

/-- The team's modules in member order (R319): the chain group's list, or this module alone. -/
def imageTeam (im : TopoImage) (me : Nat) : List Nat :=
  match im.groups.find? fun g => g.role == 1 && g.nmem == im.teamSize with
  | some g => g.members
  | none => [me]

/-- Modules of a list that are not absent. -/
def presentOf (absent : BitVec 16) (ms : List Nat) : List Nat := ms.filter fun m => !absent.getLsbD m

end Sys2Proof.Machine
end

