-- ==== Sys2Proof/Machine/Flags.lean ====
section
/-! DEFINITION. The flags of the module: the fault log with its coalescing (R474 to R476), the fault vector (R477), the service
bits (R480), the refused-write counters (R497), completion counters and their saturation event (R73), and the causes of a
warden-initiated reset (R481). Events are written by the step that detects them, in the order of their stamps (R475; log
entry 8). -/

namespace Sys2Proof.Machine

/-! ## The fault log -/

/-- CODE of Table FLT-2: class, unit, local code. -/
def faultCode (cls unit loc : Nat) : BitVec 16 := BitVec.ofNat 16 (cls * 4096 + unit * 256 + loc)

/-- The port's last fault message lies 100 µs back, or there was none. -/
def State.msixFree (s : State) (p : PortIx) : Bool :=
  match s.flt.lastMsix[p] with
  | none => true
  | some t => decide (t + 100000 ≤ s.now)

/-- R477 on one port: a message now, or one held. -/
def State.faultMsix (s : State) (p : PortIx) : State :=
  if !s.pins.msixEn[p] then s
  else if s.msixFree p then
    { s with out := s.out ++ [.msix p 0], flt := { s.flt with lastMsix := s.flt.lastMsix.set p (some s.now) } }
  else { s with flt := { s.flt with held := s.flt.held.set p true } }

/-- R477: an entry of a class in FLT_CFG.IRQ_CLASS. -/
def State.irqClass (s : State) (cls : Nat) : State :=
  if bit s.flt.cfg.toNat cls && decide (cls < 6) then (s.faultMsix 0).faultMsix 1 else s

/-- R475: the entry that an event coalesces into. -/
def LogEntry.same (e : LogEntry) (now : Nat) (code : BitVec 16) (kind ident : Byte) : Bool :=
  e.code == code && e.srcKind == kind && e.srcId == ident && decide (now < e.at_ + 1000)

/-- REPEAT raised in the newest entry that matches. -/
def raiseRepeat (now : Nat) (code : BitVec 16) (kind ident : Byte) : List LogEntry → List LogEntry
  | [] => []
  | e :: es =>
    if e.same now code kind ident then { e with rep := satAdd e.rep 1 } :: es
    else e :: raiseRepeat now code kind ident es

/-- PNUM of Table FLT-2: an event at a boundary's count belongs to the pitch that begins there (R311). -/
def State.logPnum (s : State) : W32 := if s.running then BitVec.ofNat 32 s.pnumNow else BitVec.allOnes 32

/-- The order of entries of one stamp: CODE, then SRC_KIND, then SRC_ID (R475). -/
def LogEntry.rank (e : LogEntry) : Nat := e.code.toNat * 65536 + e.srcKind.toNat * 256 + e.srcId.toNat

/-- The fabric clock period (1.7 GHz) that an entry is stamped with (R475). -/
def LogEntry.stamp (e : LogEntry) : Nat := e.at_ * 17 / 10

/-- An entry takes its place in the log, newest first: entries of one stamp stand in the order of their rank, and each place keeps its
number (R475). -/
def enterLog (e : LogEntry) : List LogEntry → List LogEntry
  | [] => [e]
  | x :: xs =>
    if x.stamp = e.stamp ∧ e.rank < x.rank then { x with eseq := e.eseq } :: enterLog { e with eseq := x.eseq } xs
    else e :: x :: xs

/-- R474, R475: a fault event is written as an entry, or coalesced. -/
def State.logCode (s : State) (code : BitVec 16) (kind ident : Byte) (data : List Byte) : State :=
  if s.flt.log.any (fun e => e.same s.now code kind ident) then
    { s with flt := { s.flt with log := raiseRepeat s.now code kind ident s.flt.log,
                                 coalesced := bump s.flt.coalesced } }
  else
    let e : LogEntry :=
      { gcnt := if s.pit.gcntSet then s.pit.gcnt else 0
        rtc := BitVec.ofNat 64 (s.rtcUs + (if s.rtc.valid then 0 else 2 ^ 63))
        code := code, srcKind := kind, srcId := ident, pnum := s.logPnum
        data := (data ++ zeros 32).take 32, rep := 0
        eseq := BitVec.ofNat 32 s.flt.wr.toNat, at_ := s.now }
    State.irqClass
      { s with flt := { s.flt with log := enterLog e (s.flt.log.take 8191), wr := bump s.flt.wr } } (code.toNat / 4096)

/-- An event of class, unit and local code from a source. -/
def State.logEvent (s : State) (cls unit loc kind ident : Nat) (data : List Byte := []) : State :=
  s.logCode (faultCode cls unit loc) (BitVec.ofNat 8 kind) (BitVec.ofNat 8 ident) data

/-- SRC_KIND codes of Table FLT-2. -/
def kModule : Nat := 0
def kCore : Nat := 1
def kField : Nat := 2
def kSublink : Nat := 3
def kDomain : Nat := 4
def kWarden : Nat := 5
def kRemote : Nat := 6

/-- An event of a core. -/
def State.coreEvent (s : State) (c : CoreIx) (cls unit loc : Nat) (data : List Byte := []) : State :=
  s.logEvent cls unit loc kCore c.val data

/-- An event of the module itself. -/
def State.modEvent (s : State) (cls unit loc : Nat) (data : List Byte := []) : State :=
  s.logEvent cls unit loc kModule s.glb.modIx.val data

/-! ## Service bits (Table FLT-8) -/

def svLinkDead : Nat := 0
def svShutdown : Nat := 1
def svCtlNet : Nat := 2
def svSpareRow : Nat := 3
def svBelowBin : Nat := 4
def svDomain : Nat := 5
def svSensor : Nat := 6
def svSkew : Nat := 7
def svRouter : Nat := 8
def svMapout : Nat := 9

/-- A bit of FLT_SERVICE set (R480). -/
def State.service (s : State) (b : Nat) : State :=
  { s with flt := { s.flt with service := s.flt.service ||| BitVec.ofNat 10 (2 ^ b) } }

/-! ## Refused writes (R497) -/

/-- A refused write counted for its path, without GLB_WR_REFUSED_LAST. -/
def State.countRefused (s : State) (p : Path) : State :=
  { s with glb := { s.glb with refused := upd s.glb.refused (pathIx p) fun n => bump n } }

/-- A refused CSR write counted, with its path and offset recorded. -/
def State.refuse (s : State) (p : Path) (off : BitVec 26) : State :=
  { s with glb := { s.glb with refused := upd s.glb.refused (pathIx p) (fun n => bump n),
                               lastPath := BitVec.ofNat 2 (pathIx p).val, lastOff := off } }

/-- A write of a register row: nothing from a path that cannot reach CSR space now; else its effect, or a refusal counted
(R441, R492, R497). -/
def State.guarded (s : State) (p : Path) (off : BitVec 26) (ok : Bool) (eff : State → State) : State :=
  if !s.pathOpen p then s else if ok then eff s else s.refuse p off

/-! ## Completion counters (R72, R73, R137) -/

/-- Completion counter `i` of a task context. -/
def State.ctr (s : State) (c : CoreIx) (t : TaskIx) (i : Fin 64) : Nat := ((s.task c t).ctr[i]).toNat

/-- The event "counter saturated" of R73 when a raise by `v` reaches a counter at its top. -/
def State.satEvent (s : State) (c : CoreIx) (x : W32) (v : Nat) : State :=
  if x.toNat = 2 ^ 32 - 1 ∧ v ≠ 0 then s.coreEvent c 0 1 0x20 else s

/-- A counter raised by `v`, without landing slots: saturating, with the event of R73. -/
def State.raiseOnly (s : State) (c : CoreIx) (t : TaskIx) (i : Fin 64) (v : Nat) : State :=
  (s.satEvent c ((s.task c t).ctr[i]) v).modTask c t fun k => { k with ctr := upd k.ctr i fun x => satAdd x v }

/-! ## Causes of a warden-initiated reset (R481) -/

/-- A cause of R481 noted: within 10 minutes of the last such reset it only sets FLT_SERVICE. -/
def State.autoCause (s : State) : State :=
  match s.flt.lastAuto with
  | some t =>
    if s.now < t + 600000000000 then s.service svCtlNet else { s with flt := { s.flt with autoCause := true } }
  | none => { s with flt := { s.flt with autoCause := true } }

/-! ## Sending on the control network (R57, R62) -/

/-- A unicast message's route on a plane crosses the link between fields `a` and `b` (R57): along the row first on the XY plane,
along the column first on the YX plane. -/
def crosses (m : CtlMsg) (plane : Bool) (a b : FieldIx) : Bool :=
  let within (x lo hi : Nat) : Bool := (decide (lo ≤ x) && decide (x ≤ hi)) || (decide (hi ≤ x) && decide (x ≤ lo))
  let xs := fieldX m.src.val
  let ys := fieldY m.src.val
  let xd := fieldX m.dest.val
  let yd := fieldY m.dest.val
  let sameRow : Bool := fieldY a.val == fieldY b.val
  let row : Nat := if plane then yd else ys
  let col : Nat := if plane then xs else xd
  if sameRow then fieldY a.val == row && within (fieldX a.val) xs xd && within (fieldX b.val) xs xd
  else fieldX a.val == col && within (fieldY a.val) ys yd && within (fieldY b.val) ys yd

/-- A broadcast uses a link on both planes when the link lies in its source's own row or column, else on one only. -/
def crossesAll (m : CtlMsg) (plane : Bool) (a b : FieldIx) : Bool :=
  let sameRow : Bool := fieldY a.val == fieldY b.val
  if sameRow then plane || fieldY a.val == fieldY m.src.val else !plane || fieldX a.val == fieldX m.src.val

/-- The neighbour of a field to the north, east, south or west. -/
def neighbour (f : FieldIx) (d : Fin 4) : Option FieldIx :=
  let x := fieldX f.val
  let y := fieldY f.val
  let at_ (ok : Bool) (n : Nat) : Option FieldIx := if ok then some ⟨n % 64, Nat.mod_lt _ (by decide)⟩ else none
  match d.val with
  | 0 => at_ (decide (1 ≤ y)) (f.val - 8)
  | 1 => at_ (decide (x ≤ 6)) (f.val + 1)
  | 2 => at_ (decide (y ≤ 6)) (f.val + 8)
  | _ => at_ (decide (1 ≤ x)) (f.val - 1)

/-- The failed control links as pairs of fields (R62). -/
def State.ctlCuts (s : State) : List (FieldIx × FieldIx) :=
  (List.finRange 64).flatMap fun f => (List.finRange 4).filterMap fun d =>
    if (s.fields[f]).ctlFailed[d] then (neighbour f d).map fun g => (f, g) else none

/-- A message meets a failed link on a plane. -/
def State.ctlBlocked (s : State) (m : CtlMsg) (plane : Bool) : Bool :=
  s.ctlCuts.any fun x => if m.bcast then crossesAll m plane x.1 x.2 else crosses m plane x.1 x.2

/-- A message that both planes would route over a failed link is not delivered, and the module needs service (R62, R481). -/
def State.ctlUndelivered (s : State) (m : CtlMsg) : State :=
  ((s.logEvent 5 0xB 0x04 kField m.src.val [BitVec.ofNat 8 m.typ.toNat]).service svCtlNet).autoCause

/-- A control message is sent, on the plane that avoids failed links: it waits at its source for room in the node (R57, R58, R62). -/
def State.tell (s : State) (m : CtlMsg) : State :=
  if !s.ctlBlocked m m.plane then { s with ctl := s.ctl ++ [{ msg := m, at_ := m.src }] }
  else if !s.ctlBlocked m (!m.plane) then { s with ctl := s.ctl ++ [{ msg := { m with plane := !m.plane }, at_ := m.src }] }
  else s.ctlUndelivered m

/-- A broadcast: a copy to every node (Table WAF-8). -/
def State.tellAll (s : State) (m : CtlMsg) : State :=
  (List.finRange 64).foldl (fun s f => s.tell { m with dest := f, bcast := true }) s

end Sys2Proof.Machine
end

