-- ==== Sys2Proof/Machine/Errors.lean ====
section
/-! DEFINITION. Errors that a stored code finds when memory is read, and the rows they list for map-out (R239 to R243). -/

namespace Sys2Proof.Machine

/-- A row of an SRAM bank or of the stacks, with its bank (R242). -/
structure RowId where
  row    : Nat
  bank   : Nat
  spares : Nat
  core   : Option CoreIx
  deriving DecidableEq, Repr

/-- The bank of a scratchpad offset and the byte in that bank's own storage (Table COR-7). -/
def scratchBank (o : Nat) : Nat × Nat :=
  if o < 0x1400000 then (o / 256 % 32, o / 8192 * 256 + o % 256)
  else if o < 0x1E00000 then (32 + (o - 0x1400000) / 64 % 16, (o - 0x1400000) / 1024 * 64 + o % 64)
  else (48 + (o - 0x1E00000) / 128 % 16, (o - 0x1E00000) / 2048 * 128 + o % 128)

/-- The place in its slice of a shared-slice offset (R26). -/
def sliceByte (ilv : Bool) (o : Nat) : Nat := if ilv then o % 2 ^ 22 else o / 4096 * 256 + o % 256

/-- The row of a local address: 1 KiB of a bank's own storage in SRAM with 2 % spares, a DRAM row in the stacks (R85, R242; log
entry 15). -/
def State.rowOf (s : State) (a : Nat) : RowId :=
  match place a with
  | .scratch c o =>
    let b := c.val * 64 + (scratchBank o).1
    { row := b * 1024 + (scratchBank o).2 / 1024, bank := b, spares := 12, core := some c }
  | .slice f o =>
    let ilv := (s.field f).ilv
    let b := 2 ^ 20 + f.val * 16 + (sliceOf ilv o).val
    { row := b * 4096 + sliceByte ilv o / 1024, bank := b, spares := 81, core := none }
  | _ =>
    let r := Config.stackRow (a / 64)
    { row := 2 ^ 60 + r, bank := 2 ^ 60 + Config.stackBank r, spares := Config.stackSpares, core := none }

/-- A row without a spare stays in use; the core of a scratchpad row is disabled from the next module reset (R243). -/
def State.noSpare (s : State) (r : RowId) : State :=
  let off : BitVec 256 := match r.core with
    | some c => 1#256 <<< c.val
    | none => 0
  (({ s with nvm := { s.nvm with spareOut := s.nvm.spareOut ++ [r.row], badCores := s.nvm.badCores ||| off } }).modEvent 5 2
    0x05 (leBytes 8 r.row)).service svSpareRow

/-- A row is listed for map-out, or the section is full (R242, R243). -/
def State.listRow (s : State) (r : RowId) : State :=
  if s.nvm.mapOut.any fun x => x.1 == r.row then s
  else if 4096 ≤ s.nvm.mapOut.length then (s.modEvent 5 2 0x07 (leBytes 8 r.row)).service svMapout
  else
    let full := r.spares ≤ ((s.nvm.testRows ++ s.nvm.mapOut).filter fun x => x.2 == r.bank).length
    let s1 := { s with nvm := { s.nvm with mapOut := s.nvm.mapOut ++ [(r.row, r.bank)] }
                       memu := { s.memu with mapPend := bump s.memu.mapPend } }
    let s2 := s1.modEvent 0 2 0x04 (leBytes 8 r.row)
    if full then s2.noSpare r else s2

/-- An uncorrectable error is read in a granule: it becomes poisoned, is counted and logged, and its row is listed (R131, R240,
R242). -/
def State.eccUncorr (s : State) (g : Nat) : State :=
  let s1 := s.spoilAt none [g]
  (({ s1 with memu := { s1.memu with eccUncorr := bump s1.memu.eccUncorr } }).modEvent 1 2 0x01 (leBytes 8 (64 * g))).listRow
    (s.rowOf (64 * g))

/-- Corrected errors of a row since module reset. -/
def State.rowErrors (s : State) (row : Nat) : Nat :=
  match s.memu.rowCorr.find? fun x => x.1 == row with
  | some x => x.2
  | none => 0

/-- A corrected error is repaired in place and counted; the eighth of a row lists it (R239, R242). -/
def State.eccCorr (s : State) (g : Nat) : State :=
  let r := s.rowOf (64 * g)
  let n := s.rowErrors r.row + 1
  let s1 := { s with memu := { s.memu with
    eccCorr := bump s.memu.eccCorr, rowCorr := (r.row, n) :: s.memu.rowCorr.filter fun x => x.1 != r.row } }
  if n = 8 then s1.listRow r else s1

/-- The errors that a read of `n` bytes from local address `a` finds in its granules (R239, R240). -/
def State.readErrors (s : State) (a n : Nat) (ecc : List EccErr) : State :=
  (ecc.filter fun e => decide (0 < n) && decide (a / 64 ≤ e.granule) && decide (64 * e.granule < a + n)).foldl
    (fun s e => if e.uncorr then s.eccUncorr e.granule else s.eccCorr e.granule) s

/-- The errors that reads of a core's own scratchpad find (R239, R240). -/
def State.scratchErrors (s : State) (c : CoreIx) (ecc : List EccErr) : State := s.readErrors (scratchAddr c 0) scratchSize ecc

end Sys2Proof.Machine
end

