-- ==== Sys2Proof/Machine/Crypto.lean ====
section
/-! DEFINITION. The digests, tags and signatures the manual names: CRC-64 (R254), SHA-256 and SHA-384, HMAC and HKDF (R435,
R455), ECDSA P-384 with RFC 6979 nonces (R178, R341, R434), and the cairn's element hash (R331). -/

namespace Sys2Proof.Machine

/-! ## CRC-64 of R254 -/

/-- The reflected ECMA-182 polynomial. -/
def crcPoly : Nat := 0xC96C5795D7870F42

/-- One bit of the reflected CRC register. -/
def crcBit (c : Nat) : Nat := if c % 2 = 1 then (c / 2) ^^^ crcPoly else c / 2

/-- One byte enters the register. -/
def crcByte (c : Nat) (b : Byte) : Nat :=
  crcBit (crcBit (crcBit (crcBit (crcBit (crcBit (crcBit (crcBit (c ^^^ b.toNat))))))))

/-- CRC-64 of a byte string (R254). -/
def crc64 (bs : List Byte) : Nat := (bs.foldl crcByte (2 ^ 64 - 1)) ^^^ (2 ^ 64 - 1)

/-! ## SHA-2 -/

/-- The numbers from 2 on that no smaller prime divides, `n` numbers looked at, the primes found so far first to last. -/
def primesFrom (k : Nat) : Nat → List Nat → List Nat
  | 0, found => found
  | n + 1, found => primesFrom (k + 1) n (if found.all fun p => k % p != 0 then found ++ [k] else found)

/-- The first 80 primes, 2 to 409. -/
def firstPrimes : List Nat := primesFrom 2 408 []

/-- The largest number below 2ⁿ, above `r`'s bits already set, whose `e`-th power does not exceed `x`. -/
def rootBits (e x : Nat) : Nat → Nat → Nat
  | 0, r => r
  | n + 1, r => rootBits e x n (if (r + 2 ^ n) ^ e ≤ x then r + 2 ^ n else r)

/-- The first `w` bits of the fractional part of the `e`-th root of a prime, as SHA-2 defines its constants (FIPS 180-4). -/
def rootWord (e w p : Nat) : Nat := rootBits e (p * 2 ^ (e * w)) (w + 8) 0 % 2 ^ w

/-- What tells SHA-256 from SHA-384: the word's bits, the rounds, the first prime of the initial value, and the shift counts of the four
sigmas, of which the last of each small one drops bits. -/
structure ShaKind where
  w      : Nat
  rounds : Nat
  seed   : Nat
  mixA   : List Nat
  mixE   : List Nat
  old    : List Nat
  late   : List Nat

def sha256Kind : ShaKind :=
  { w := 32, rounds := 64, seed := 0, mixA := [2, 13, 22], mixE := [6, 11, 25], old := [7, 18, 3], late := [17, 19, 10] }

def sha384Kind : ShaKind :=
  { w := 64, rounds := 80, seed := 8, mixA := [28, 34, 39], mixE := [14, 18, 41], old := [1, 8, 7], late := [19, 61, 6] }

/-- The sum of words, in a word. -/
def ShaKind.add (kd : ShaKind) (xs : List Nat) : Nat := xs.foldr (fun x a => x + a) 0 % 2 ^ kd.w

/-- A word turned right by `n` bits: twice the word on end, seen `n` bits further up. -/
def ShaKind.turn (kd : ShaKind) (x n : Nat) : Nat := (x + x * 2 ^ kd.w) / 2 ^ n % 2 ^ kd.w

/-- The exclusive or of three views of a word: turned, turned, and turned as well or with its low bits dropped. -/
def ShaKind.sigma (kd : ShaKind) (drop : Bool) (ns : List Nat) (x : Nat) : Nat :=
  let last := ns.getD 2 0
  (kd.turn x (ns.getD 0 0)) ^^^ (kd.turn x (ns.getD 1 0)) ^^^ (if drop then x / 2 ^ last else kd.turn x last)

/-- Where a block's absorption stands: the eight working words, *a* first, and the next 16 words of its message schedule. -/
structure ShaWork where
  vars   : Vector Nat 8
  window : List Nat

/-- A round with its constant; the schedule's window moves on by a word. -/
def ShaWork.round (kd : ShaKind) (s : ShaWork) (k : Nat) : ShaWork :=
  let v := s.vars
  let word (i : Nat) : Nat := s.window.getD i 0
  let choose := v[6] ^^^ (v[4] &&& (v[5] ^^^ v[6]))
  let most := (v[0] &&& v[1]) ||| (v[2] &&& (v[0] ||| v[1]))
  let up := kd.add [v[7], k, word 0, choose, kd.sigma false kd.mixE v[4]]
  { vars := #v[kd.add [up, most, kd.sigma false kd.mixA v[0]], v[0], v[1], v[2], kd.add [up, v[3]], v[4], v[5], v[6]]
    window := s.window.drop 1 ++ [kd.add [word 0, word 9, kd.sigma true kd.old (word 1), kd.sigma true kd.late (word 14)]] }

/-- The round constants: cube roots of the first primes. -/
def ShaKind.consts (kd : ShaKind) : List Nat := (firstPrimes.take kd.rounds).map (rootWord 3 kd.w)

/-- The initial value: square roots of eight primes. -/
def ShaKind.init (kd : ShaKind) : Vector Nat 8 := Vector.ofFn fun i => rootWord 2 kd.w (firstPrimes.getD (kd.seed + i.val) 0)

/-- A block of 16 words is absorbed into the value so far. -/
def ShaKind.absorb (kd : ShaKind) (ks : List Nat) (h : Vector Nat 8) (block : List Nat) : Vector Nat 8 :=
  let fin := (ks.foldl (ShaWork.round kd) { vars := h, window := block }).vars
  Vector.ofFn fun i => kd.add [h[i], fin[i]]

/-- A byte string cut into `n`-byte pieces; `fuel` bounds the pieces. -/
def chunksOf (n : Nat) : Nat → List Byte → List (List Byte)
  | 0, _ => []
  | fuel + 1, bs => if bs.isEmpty then [] else bs.take n :: chunksOf n fuel (bs.drop n)

/-- What follows a message of `n` bytes, to whole blocks: a one bit, zeros, and its length in bits, big-endian. -/
def ShaKind.padding (kd : ShaKind) (n : Nat) : List Byte :=
  let count := beBytes (kd.w / 4) (8 * n)
  let used := n + 1 + count.length
  0x80 :: (zeros (roundUp used (2 * kd.w) - used) ++ count)

/-- A SHA-2 digest of `len` bytes. -/
def ShaKind.digest (kd : ShaKind) (len : Nat) (bs : List Byte) : List Byte :=
  let m := bs ++ kd.padding bs.length
  let ks := kd.consts
  let h := (chunksOf (2 * kd.w) (m.length + 1) m).foldl (fun h b => kd.absorb ks h ((chunksOf (kd.w / 8) 17 b).map beNat)) kd.init
  (h.toList.flatMap (beBytes (kd.w / 8))).take len

/-- SHA-256 (R163, R178, R267). -/
def sha256 (bs : List Byte) : List Byte := sha256Kind.digest 32 bs

/-- SHA-384 (R178, R341, R432). -/
def sha384 (bs : List Byte) : List Byte := sha384Kind.digest 48 bs

/-! ## HMAC and HKDF -/

/-- HMAC over a hash of block size `blk`. -/
def hmac (h : List Byte → List Byte) (blk : Nat) (key msg : List Byte) : List Byte :=
  let k0 := if blk < key.length then h key else key
  let k := k0 ++ zeros (blk - k0.length)
  h (k.map (· ^^^ 0x5C) ++ h (k.map (· ^^^ 0x36) ++ msg))

/-- HMAC-SHA-256 (R435, R455). -/
def hmacSha256 (key msg : List Byte) : List Byte := hmac sha256 64 key msg

/-- HMAC-SHA-384 (RFC 6979 under R341). -/
def hmacSha384 (key msg : List Byte) : List Byte := hmac sha384 128 key msg

/-- The blocks of HKDF-Expand: `n` more, from block number `i`. -/
def hkdfBlocks (prk info : List Byte) : Nat → Nat → List Byte → List Byte
  | 0, _, _ => []
  | n + 1, i, prev =>
    let t := hmacSha256 prk (prev ++ info ++ [BitVec.ofNat 8 i])
    t ++ hkdfBlocks prk info n (i + 1) t

/-- HKDF-SHA-256 (RFC 5869; R435, R455). -/
def hkdfSha256 (ikm salt info : List Byte) (len : Nat) : List Byte :=
  (hkdfBlocks (hmacSha256 salt ikm) info (ceilDiv len 32) 1 []).take len

/-! ## ECDSA P-384 -/

/-- The prime of P-384. -/
def p384 : Nat := 2 ^ 384 - 2 ^ 128 - 2 ^ 96 + 2 ^ 32 - 1
/-- The order of P-384's base point. -/
def n384 : Nat :=
  0xffffffffffffffffffffffffffffffffffffffffffffffffc7634d81f4372ddf581a0db248b0a77aecec196accc52973
/-- The coefficient *b* of P-384. -/
def b384 : Nat :=
  0xb3312fa7e23ee7e4988e056be3f82d19181d9c6efe8141120314088f5013875ac656398d8a2ed19d2a85c8edd3ec2aef
/-- The base point's coordinates. -/
def gx384 : Nat :=
  0xaa87ca22be8b05378eb1c71ef320ad746e1d3b628ba79b9859f741e082542a385502f25dbf55296c3a545e3872760ab7
def gy384 : Nat :=
  0x3617de4a96262c6f5d9e98bf9292dc29f8f41dbd289a147ce9da3113b5f0b8c00a60b1ce1d7e819d7a431d7c90ea0e5f

/-- `b ^ e` modulo `m`, by the low `fuel` bits of `e`. -/
def powMod (m : Nat) : Nat → Nat → Nat → Nat
  | 0, _, _ => 1 % m
  | fuel + 1, b, e =>
    let r := powMod m fuel (b * b % m) (e / 2)
    if e % 2 = 1 then r * b % m else r

/-- The inverse modulo a prime of at most 384 bits. -/
def invMod (m a : Nat) : Nat := powMod m 384 (a % m) (m - 2)

/-- `a - b` modulo `m`. -/
def subMod (m a b : Nat) : Nat := (a % m + (m - b % m)) % m

/-- A point in Jacobian coordinates; `z = 0` is the point at infinity. -/
structure Point where
  x : Nat
  y : Nat
  z : Nat
  deriving DecidableEq, Repr

/-- Point doubling on P-384 (a = −3). -/
def Point.double (p : Point) : Point :=
  if p.z = 0 ∨ p.y = 0 then ⟨1, 1, 0⟩
  else
    let q := p384
    let yy := p.y * p.y % q
    let s := 4 * p.x * yy % q
    let zz := p.z * p.z % q
    let m := 3 * subMod q p.x zz * (p.x + zz) % q
    let x := subMod q (m * m) (2 * s)
    ⟨x, subMod q (m * subMod q s x) (8 * yy * yy), 2 * p.y * p.z % q⟩

/-- Point addition on P-384. -/
def Point.add (a b : Point) : Point :=
  if a.z = 0 then b
  else if b.z = 0 then a
  else
    let q := p384
    let z1 := a.z * a.z % q
    let z2 := b.z * b.z % q
    let u1 := a.x * z2 % q
    let u2 := b.x * z1 % q
    let s1 := a.y * z2 * b.z % q
    let s2 := b.y * z1 * a.z % q
    if u1 = u2 then (if s1 = s2 then a.double else ⟨1, 1, 0⟩)
    else
      let h := subMod q u2 u1
      let r := subMod q s2 s1
      let hh := h * h % q
      let hhh := h * hh % q
      let v := u1 * hh % q
      let x := subMod q (subMod q (r * r) hhh) (2 * v)
      ⟨x, subMod q (r * subMod q v x) (s1 * hhh), a.z * b.z * h % q⟩

/-- `k` times a point, by the low `fuel` bits of `k`. -/
def Point.mul (p : Point) : Nat → Nat → Point
  | 0, _ => ⟨1, 1, 0⟩
  | fuel + 1, k =>
    let r := (Point.mul p fuel (k / 2)).double
    if k % 2 = 1 then r.add p else r

/-- The affine coordinates of a point that is not at infinity. -/
def Point.affine (p : Point) : Nat × Nat :=
  let i := invMod p384 p.z
  let ii := i * i % p384
  (p.x * ii % p384, p.y * ii * i % p384)

def basePoint : Point := ⟨gx384, gy384, 1⟩

/-- A pair of coordinates lies on the curve. -/
def onCurve (x y : Nat) : Bool :=
  decide (x < p384) && decide (y < p384)
    && decide (y * y % p384 = (x * x * x + (p384 - 3) * x + b384) % p384)

/-- ECDSA P-384 verification of a SHA-384 hash by a public point. -/
def ecdsaVerify (x y r s : Nat) (hash : List Byte) : Bool :=
  if r = 0 ∨ n384 ≤ r ∨ s = 0 ∨ n384 ≤ s ∨ !onCurve x y then false
  else
    let w := invMod n384 s
    let u1 := beNat hash * w % n384
    let u2 := r * w % n384
    let p := (basePoint.mul 384 u1).add (Point.mul ⟨x, y, 1⟩ 384 u2)
    if p.z = 0 then false else decide (p.affine.1 % n384 = r)

/-- A signature with a public key of 96 big-endian bytes, *x* then *y* (CFG_TKEY, owner key slots). -/
def verifyKey (key sig msg : List Byte) : Bool :=
  ecdsaVerify (beNat (slice key 0 48)) (beNat (slice key 48 48)) (beNat (slice sig 0 48)) (beNat (slice sig 48 48))
    (sha384 msg)

/-- RFC 6979: the first candidate nonce that lies in range, among `fuel` tries. -/
def nonce6979 : Nat → List Byte → List Byte → Nat
  | 0, _, _ => 1
  | fuel + 1, k, v =>
    let v1 := hmacSha384 k v
    let c := beNat v1
    if c ≠ 0 ∧ c < n384 then c
    else
      let k2 := hmacSha384 k (v1 ++ [0])
      nonce6979 fuel k2 (hmacSha384 k2 v1)

/-- The RFC 6979 nonce of a key and a hash. -/
def ecdsaNonce (d : Nat) (hash : List Byte) : Nat :=
  let x := beBytes 48 d
  let h := beBytes 48 (beNat hash % n384)
  let v0 : List Byte := List.replicate 48 1
  let k1 := hmacSha384 (zeros 48) (v0 ++ [0] ++ x ++ h)
  let v1 := hmacSha384 k1 v0
  let k2 := hmacSha384 k1 (v1 ++ [1] ++ x ++ h)
  nonce6979 64 k2 (hmacSha384 k2 v1)

/-- The ECDSA P-384 signature of a message by a private scalar, *r* then *s*, 48 big-endian bytes each (R341). -/
def ecdsaSign (d : Nat) (msg : List Byte) : List Byte :=
  let hash := sha384 msg
  let k := ecdsaNonce d hash
  let r := (basePoint.mul 384 k).affine.1 % n384
  let s := invMod n384 k * (beNat hash + r * d) % n384
  beBytes 48 r ++ beBytes 48 s

/-- The public point of a private scalar, *x* then *y* (Table AUD-6). -/
def publicPoint (d : Nat) : List Byte :=
  let p := (basePoint.mul 384 d).affine
  beBytes 48 p.1 ++ beBytes 48 p.2

/-! ## The cairn's element hash (R331) -/

/-- The starting value and the multipliers of R331. -/
def cairnSeed : Nat := 0x6a09e667f3bcc908bb67ae8584caa73b
def cairnK1 : Nat := 0x9e3779b97f4a7c15f39cc0605cedc835
def cairnK2 : Nat := 0xc2b2ae3d27d4eb4f165667b19e3779f9

/-- One block enters the hash. -/
def cairnStep (s m : Nat) : Nat :=
  let t := (s ^^^ m) * cairnK1 % 2 ^ 128
  t ^^^ (t >>> 67)

/-- The element hash over its 16-byte blocks (R331). -/
def cairnHash (blocks : List Nat) : Nat :=
  let s := blocks.foldl cairnStep cairnSeed * cairnK2 % 2 ^ 128
  s ^^^ (s >>> 61)

/-- The blocks of an element: position, format code, poison flag, then its stored bytes (zero when poisoned, R333). -/
def cairnBlocks (pos code : Nat) (poison : Bool) (bs : List Byte) : List Nat :=
  let body := if poison then bs.map fun _ => 0 else bs
  (pos % 2 ^ 64 + code * 2 ^ 64 + ofFlag poison * 2 ^ 72) :: (chunksOf 16 (body.length + 1) body).map leNat

/-- An element's contribution to a cairn (R331 to R333). -/
def cairnElem (pos code : Nat) (poison : Bool) (bs : List Byte) : W128 :=
  BitVec.ofNat 128 (cairnHash (cairnBlocks pos code poison bs))

end Sys2Proof.Machine
end

