-- ==== Sys2Proof/Machine/Operands.lean ====
section
/-! DEFINITION. Operands of tile commands: the fields of a command word (Tables CMD-2 to CMD-13), the pairs, folio sizes and
extents of matrix commands (R147, Tables COR-6 and SPR-2), rows and extents of vector commands (R150, R152 to R154), the
conditions of Table CMD-14 below 0x10 (R171), and the cutting of a descriptor into segments (R155). -/

namespace Sys2Proof.Machine

/-! ## The command word (Table CMD-2) -/

/-- Bits `lo + len - 1 : lo` of a command word. -/
def fld (w : W128) (lo len : Nat) : Nat := bits w.toNat lo len

def wOpc (w : W128) : Nat := fld w 120 8
def wSer (w : W128) : Bool := fld w 119 1 == 1
def wRen (w : W128) : Bool := fld w 118 1 == 1
def wRctr (w : W128) : Fin 64 := ⟨fld w 112 6, Nat.mod_lt _ (by decide)⟩
def wWctr (w : W128) : Fin 64 := ⟨fld w 106 6, Nat.mod_lt _ (by decide)⟩
def wWthr (w : W128) : Nat := fld w 96 10

/-- A carrel number of a command word. -/
def wCar (w : W128) (lo : Nat) : Fin 8 := ⟨fld w lo 3, Nat.mod_lt _ (by decide)⟩
/-- A counter number of a synchronisation body. -/
def wCtr (w : W128) : Fin 64 := ⟨fld w 90 6, Nat.mod_lt _ (by decide)⟩
/-- The barrier of a BARA or BARW. -/
def wBar (w : W128) : BitVec 12 := BitVec.ofNat 12 (fld w 84 12)
/-- The pitch of a TWAIT or MARK. -/
def wPnum (w : W128) : Nat := fld w 72 24
/-- The offset of a TWAIT. -/
def wOff (w : W128) : Nat := fld w 47 25

/-- The queue of an opcode (Table CMD-1); an undefined one goes to CTL (R68). -/
def opQueue (o : Nat) : Queue :=
  if o = 0x10 ∨ o = 0x11 ∨ o = 0x20 then .mat
  else if o = 0x30 ∨ o = 0x31 ∨ o = 0x32 ∨ o = 0x33 then .vec
  else if o = 0x40 ∨ o = 0x50 ∨ o = 0x51 ∨ o = 0x52 ∨ o = 0x53 ∨ o = 0x60 ∨ o = 0x70 ∨ o = 0x71 ∨ o = 0x72 ∨ o = 0x73
  then .str else .ctl

/-- The opcode is in Table CMD-1. -/
def opDefined (o : Nat) : Bool := opQueue o != .ctl || decide (o ≤ 8) || o == 0xF

/-- The reserved fields of a body, as (low bit, length) (Tables CMD-3, 4, 6, 9 and 13). -/
def reservedFields (o : Nat) : List (Nat × Nat) :=
  match o with
  | 0x00 => [(0, 96)]
  | 0x01 => [(64, 26), (0, 32)]
  | 0x02 => [(64, 32)]
  | 0x03 => [(32, 58)]
  | 0x04 => [(0, 84)]
  | 0x05 => [(0, 84)]
  | 0x06 => [(0, 47)]
  | 0x07 => [(0, 96)]
  | 0x08 => [(0, 72)]
  | 0x0F => [(0, 96)]
  | 0x10 => [(0, 5)]
  | 0x11 => [(0, 4)]
  | 0x20 => [(0, 5)]
  | 0x30 => [(23, 1)]
  | 0x31 => [(55, 3), (23, 1), (5, 3)]
  | 0x32 => [(33, 6)]
  | 0x33 => [(55, 3), (23, 1), (5, 3)]
  | _ => [(0, 57)]

/-- Code 0x02: a reserved field is not zero. -/
def reservedBad (w : W128) : Bool := (reservedFields (wOpc w)).any fun r => fld w r.1 r.2 != 0

/-! ## Matrix commands -/

/-- The operand pair kinds of Table NUM-4. -/
inductive PairKind where
  | fp8 | mx8 | mx6 | mx4 | bf16 | fp16
  deriving DecidableEq, Repr

/-- The kind of a PAIR code (Table CMD-5); none for 0xF. -/
def pairKind (p : Nat) : Option PairKind :=
  if p < 4 then some .fp8 else if p < 8 then some .mx8 else if p < 12 then some .mx6
  else if p = 12 then some .mx4 else if p = 13 then some .bf16 else if p = 14 then some .fp16 else none

/-- The element codes (Table CMD-7) of the A operand and of the folio. -/
def pairElems (p : Nat) : Nat × Nat :=
  if p < 4 then (3 + p / 2, 3 + p % 2)
  else if p < 8 then (9 + (p - 4) / 2, 9 + p % 2)
  else if p < 12 then (11 + (p - 8) / 2, 11 + p % 2)
  else if p = 12 then (13, 13) else if p = 13 then (1, 1) else (2, 2)

def PairKind.mx : PairKind → Bool
  | .mx8 => true
  | .mx6 => true
  | .mx4 => true
  | _ => false

/-- Wide accumulators (576 bits) belong to BF16 and FP16 (R114). -/
def PairKind.wide : PairKind → Bool
  | .bf16 => true
  | .fp16 => true
  | _ => false

/-- Bytes of 4 elements of the kind. -/
def PairKind.quad : PairKind → Nat
  | .fp8 => 4
  | .mx8 => 4
  | .mx6 => 3
  | .mx4 => 2
  | _ => 8

/-- Dense K positions of one folio: 192, or the span of the pattern (Table SPR-1); 384 columns' worth for SDIR 1. -/
def foldSpan (sparse : Bool) (spat sdir : Nat) : Nat :=
  if !sparse || sdir == 2 then 192 else if spat = 0 then 384 else 576

/-- Bytes of an A row of `n` elements (R104, R201). -/
def rowBytes (k : PairKind) (n : Nat) : Nat := n / 4 * k.quad + (if k.mx then n / 32 else 0)

/-- A dense folio's bytes (Table COR-6). -/
def denseFolio (k : PairKind) : Nat := 192 * rowBytes k 192

/-- The folio bytes *W* of Tables COR-6 and SPR-2. -/
def folioBytes (k : PairKind) (sparse : Bool) (spat sdir : Nat) : Nat :=
  if !sparse then denseFolio k
  else if sdir = 2 then 2 * denseFolio k
  else if spat = 0 then 4608 * (2 * k.quad + 2) + (if k.mx then 12 * 192 else 0)
  else if spat = 1 then 6912 * (k.quad + 1) + (if k.mx then 18 * 192 else 0)
  else 256 + denseFolio k

/-- Bytes of an output element by OFMT (Table CMD-5). -/
def outBytes (k : PairKind) (ofmt : Nat) : Nat :=
  match ofmt with
  | 0 => 4
  | 1 => 2
  | 2 => 2
  | 3 => 1
  | 4 => 1
  | _ => if k.wide then 80 else 24

/-- The fields of an MMA or SMMA (Table CMD-4) with the parameters it captured (R145). -/
structure MatOp where
  sparse : Bool
  acar   : Fin 8
  aoff   : Nat
  wcar   : Fin 8
  woff   : Nat
  ocar   : Fin 8
  ooff   : Nat
  m      : Nat
  nfol   : Nat
  nsub   : Nat
  gmax   : Nat
  pair   : Nat
  ofmt   : Nat
  sat    : Bool
  acc    : Bool
  spat   : Nat
  sdir   : Nat
  mp     : MatParams
  deriving DecidableEq, Repr

/-- Table CMD-4 read from a word. -/
def matOp (w : W128) (mp : MatParams) : MatOp :=
  { sparse := wOpc w == 0x20
    acar := wCar w 93, aoff := 256 * fld w 76 17
    wcar := wCar w 73, woff := 256 * fld w 56 17
    ocar := wCar w 53, ooff := 256 * fld w 36 17
    m := 16 * (fld w 29 7 + 1), nfol := fld w 23 6 + 1, nsub := fld w 20 3 + 1, gmax := fld w 18 2 + 1
    pair := fld w 14 4, ofmt := fld w 11 3, sat := fld w 10 1 == 1, acc := fld w 9 1 == 1
    spat := fld w 7 2, sdir := fld w 5 2, mp := mp }

/-- Table CMD-3 read from a word. -/
def msetOf (w : W128) : MatParams :=
  { anchor := signed 10 (fld w 86 10), esc := signed 8 (fld w 78 8), skew := fld w 70 8
    astr := fld w 48 22, fstr := fld w 26 22, ostr := fld w 4 22 }

/-- *P*A of R147. -/
def MatOp.panel (o : MatOp) (k : PairKind) : Nat :=
  if o.mp.astr = 0 then roundUp (o.m * rowBytes k (foldSpan o.sparse o.spat o.sdir)) 256 else o.mp.astr * 256

/-- *P*W of R147. -/
def MatOp.folioSet (o : MatOp) (k : PairKind) : Nat :=
  if o.mp.fstr = 0 then roundUp (o.nfol * folioBytes k o.sparse o.spat o.sdir) 256 + o.mp.skew * 256
  else o.mp.fstr * 256

/-- Bytes from one output row to the next (R147, R206). -/
def MatOp.outRow (o : MatOp) (k : PairKind) : Nat :=
  192 * outBytes k o.ofmt + (if o.sparse && o.sdir == 2 then 48 else 0)

/-- *P*O of R147 and R206. -/
def MatOp.outTile (o : MatOp) (k : PairKind) : Nat :=
  if o.mp.ostr = 0 then roundUp (o.m * o.outRow k) 256 else o.mp.ostr * 256

/-- The offset of folio `f` of sub-tile `j` (R147), or of half `i` of transposed folio `f` (R205). -/
def MatOp.folioAt (o : MatOp) (k : PairKind) (j f i : Nat) : Nat :=
  if o.sparse && o.sdir == 1 then
    o.woff + (2 * f + i) * o.mp.fstr * 256 + j / 2 * folioBytes k true 0 1 + j % 2 * (folioBytes k true 0 1 / 2)
  else o.woff + j * o.folioSet k + f * folioBytes k o.sparse o.spat o.sdir

/-- An extent a command touches in a data carrel (R142), with the accesses it makes. -/
structure Extent where
  car : Fin 8
  off : Nat
  len : Nat
  rd  : Bool
  wr  : Bool
  deriving DecidableEq, Repr

/-- The whole extents of a matrix command (R142, R147, R205, R206). -/
def MatOp.extents (o : MatOp) (k : PairKind) : List Extent :=
  let r := rowBytes k (foldSpan o.sparse o.spat o.sdir)
  let wlen :=
    if o.sparse && o.sdir == 1 then
      o.folioAt k (o.nsub - 1) (o.nfol - 1) 1 + folioBytes k true 0 1 / 2 - o.woff
    else (o.nsub - 1) * o.folioSet k + o.nfol * folioBytes k o.sparse o.spat o.sdir
  [ { car := o.acar, off := o.aoff, len := (o.nfol - 1) * o.panel k + o.m * r, rd := true, wr := false },
    { car := o.wcar, off := o.woff, len := wlen, rd := true, wr := false } ]
  ++ (if o.ofmt ≤ 5 then
        [ { car := o.ocar, off := o.ooff, len := (o.nsub - 1) * o.outTile k + o.m * o.outRow k,
            rd := o.acc || (o.sparse && o.sdir == 2), wr := true } ]
      else [])

/-- *L* of a pair (R114). -/
def MatOp.weight (o : MatOp) (k : PairKind) : Int :=
  match k with
  | .fp8 => -32
  | .bf16 => -266
  | .fp16 => -48
  | _ => o.mp.anchor

/-- Code 0x07 for a matrix command (Table CMD-14, R117, R149, R208). -/
def MatOp.combBad (o : MatOp) (k : PairKind) (anch : Bool) : Bool :=
  (!anch && o.ofmt == 5)
  || (anch && o.ofmt == 5 && (decide (o.weight k + o.mp.esc < -512) || decide (511 < o.weight k + o.mp.esc)))
  || (o.acc && o.ofmt != (if anch then 5 else 0))
  || (!o.sparse && (o.spat != 0 || o.sdir != 0))
  || o.spat == 3 || o.sdir == 3
  || (o.sdir == 1 && (o.spat != 0 || k.mx || o.mp.fstr == 0))
  || (o.sdir == 2 && (o.spat != 0 || o.acc))

/-- The sub-tile row cap of Table COR-5. -/
def rowCap (k : PairKind) (anch : Bool) : Nat := if !anch then 2048 else if k.wide then 144 else 544

/-! ## Vector commands -/

/-- The fields of a vector command (Table CMD-6). -/
structure VecOp where
  opc   : Nat
  dcar  : Fin 8
  doff  : Nat
  s1car : Fin 8
  s1off : Nat
  s2car : Fin 8
  s2off : Nat
  rlen  : Nat
  fn    : Nat
  sfmt  : Nat
  dfmt  : Nat
  sat   : Bool
  rtz   : Bool
  bc    : Bool
  rows  : Nat
  chk   : Nat
  gmax  : Nat
  deriving DecidableEq, Repr

/-- Table CMD-6 read from a word. -/
def vecOp (w : W128) : VecOp :=
  { opc := wOpc w
    dcar := wCar w 93, doff := 256 * fld w 77 16
    s1car := wCar w 74, s1off := 256 * fld w 58 16
    s2car := wCar w 55, s2off := 256 * fld w 39 16
    rlen := fld w 39 16 + 1, fn := fld w 33 6, sfmt := fld w 29 4, dfmt := fld w 25 4
    sat := fld w 24 1 == 1, rtz := fld w 23 1 == 1, bc := fld w 22 1 == 1
    rows := fld w 8 14 + 1, chk := 2 ^ fld w 5 3, gmax := 4 * (fld w 0 5 + 1) }

/-- The code is an MX format (Table CMD-7). -/
def isMx (c : Nat) : Bool := decide (9 ≤ c) && decide (c ≤ 13)
/-- A float or INT8 code, 0x0 to 0x5. -/
def isFl (c : Nat) : Bool := decide (c ≤ 5)
/-- An exact partial code. -/
def isEp (c : Nat) : Bool := c == 7 || c == 8

/-- Bytes of an A-operand row in an MX code (R104). -/
def mxRow (c : Nat) : Nat := if c ≤ 10 then 198 else if c ≤ 12 then 150 else 102

/-- Bytes of `rows` rows of 64 elements in a code. -/
def rowsBytes (c rows : Nat) : Nat := if isMx c then rows / 3 * mxRow c else rows * 64 * elemBytes c

/-- Functions of one source. -/
def unary (fn : Nat) : Bool :=
  decide (fn = 6) || decide (fn = 7) || (decide (9 ≤ fn) && decide (fn ≤ 0x10)) || decide (fn = 0x3F)

/-- Functions that read their destination: FMA and SEL. -/
def readsD (fn : Nat) : Bool := fn == 3 || fn == 0x1B

/-- A defined floating function of VOP (Table CMD-8). -/
def floatFn (fn : Nat) : Bool := decide (fn ≤ 0x10) || (decide (0x18 ≤ fn) && decide (fn ≤ 0x1B))

/-- R151, R153, R154: the function accepts the formats. -/
def VecOp.legal (o : VecOp) (anch : Bool) : Bool :=
  match o.opc with
  | 0x30 =>
    if decide (0x20 ≤ o.fn) && decide (o.fn ≤ 0x2A) then
      (o.sfmt == 5 || o.sfmt == 6) && (o.dfmt == 5 || o.dfmt == 6)
    else if o.fn == 0x30 then isEp o.sfmt && o.sfmt == o.dfmt
    else if o.fn == 0x3F then (o.sfmt == 6 && o.dfmt == 6) || (isFl o.sfmt && isFl o.dfmt)
    else if decide (0x18 ≤ o.fn) && decide (o.fn ≤ 0x1A) then isFl o.sfmt && (isFl o.dfmt || o.dfmt == 6)
    else floatFn o.fn && isFl o.sfmt && isFl o.dfmt
  | 0x31 =>
    decide (o.fn ≤ 3) && isFl o.sfmt
      && (isFl o.dfmt || (o.dfmt == 8 && anch && (o.fn == 0 || o.fn == 3)))
  | 0x32 =>
    (isFl o.sfmt || isMx o.sfmt || isEp o.sfmt) && (isFl o.dfmt || isMx o.dfmt)
      && (!(isMx o.sfmt || isMx o.dfmt) || o.rows % 3 == 0)
  | _ => decide (o.fn < 8) && isFl o.sfmt && o.dfmt == 0

/-- Groups of a VRED or VTOPK (R150). -/
def VecOp.groups (o : VecOp) : Nat := ceilDiv o.rows o.rlen

/-- Rows of one gang of a VOP or VCVT (R150, R154). -/
def VecOp.gangRows (o : VecOp) : Nat :=
  if o.opc == 0x32 && (isMx o.sfmt || isMx o.dfmt) then 3 * o.chk else o.chk

/-- Gangs of a vector command (R150). -/
def VecOp.gangs (o : VecOp) : Nat :=
  if o.opc == 0x31 || o.opc == 0x33 then o.groups else ceilDiv o.rows o.gangRows

/-- Bytes written by a vector command. -/
def VecOp.dstBytes (o : VecOp) : Nat :=
  match o.opc with
  | 0x31 => o.groups * elemBytes o.dfmt
  | 0x33 => o.groups * 64
  | _ => rowsBytes o.dfmt o.rows

/-- The whole extents of a vector command (R142, R150, R152 to R154). -/
def VecOp.extents (o : VecOp) : List Extent :=
  [ { car := o.s1car, off := o.s1off, len := rowsBytes o.sfmt o.rows, rd := true, wr := false } ]
  ++ (if o.opc == 0x30 && !unary o.fn then
        [ { car := o.s2car, off := o.s2off, rd := true, wr := false,
            len := if o.bc then elemBytes o.sfmt else rowsBytes o.sfmt o.rows } ]
      else [])
  ++ [ { car := o.dcar, off := o.doff, len := o.dstBytes, wr := true, rd := o.opc == 0x30 && readsD o.fn } ]

/-! ## Illegal commands (R171, Table CMD-14 below 0x10) -/

/-- An illegal condition: its code and, for a carrel fault, the carrel (1 to 8) and the first refused address (R228). -/
structure Bad where
  code : Nat
  car  : Nat := 0
  addr : Nat := 0
  deriving DecidableEq, Repr

/-- The first refused address of an access through a carrel. -/
def Carrel.firstBad (k : Carrel) (off : Nat) (granted : Bool) : Nat :=
  if granted && decide (k.base.toNat + off ≤ k.bound.toNat) then k.bound.toNat + 1 else k.base.toNat + off

/-- The carrel grants the accesses of an extent. -/
def Carrel.grants (k : Carrel) (e : Extent) : Bool := k.valid && (!e.rd || k.rd) && (!e.wr || k.wr)

/-- The extent lies in a group of the issuing core's own scratchpad (R86, R143). -/
def State.inGroup (s : State) (c : CoreIx) (lo hi a n : Nat) : Bool :=
  addrModule a == s.glb.modIx.val &&
    (match place a with
     | .scratch d o => d == c && decide (lo ≤ o) && decide (o + n ≤ hi)
     | _ => false)

/-- Codes 0x03 and 0x04 of one extent. -/
def State.extentBad (s : State) (c : CoreIx) (t : TaskIx) (lo hi : Nat) (e : Extent) : Option Bad :=
  let k := (s.task c t).data e.car
  if !s.inGroup c lo hi (k.base.toNat + e.off) e.len then some { code := 3 }
  else if k.grants e && decide (k.base.toNat + e.off + e.len ≤ k.bound.toNat + 1) then none
  else some { code := 4, car := e.car.val + 1, addr := k.firstBad e.off (k.grants e) }

/-- The lowest condition of a list. -/
def lowest : List Bad → Option Bad
  | [] => none
  | b :: bs =>
    match lowest bs with
    | none => some b
    | some d => if d.code < b.code then some d else some b

/-- A condition of one code when a test holds. -/
def badIf (p : Bool) (code : Nat) : List Bad := if p then [{ code := code }] else []

/-- The matrix group of a scratchpad (Table COR-7). -/
def matLo : Nat := 0
def matHi : Nat := 0x1400000
/-- The vector group. -/
def vecHi : Nat := 0x1E00000

/-- Conditions of a matrix command. -/
def State.matBad (s : State) (c : CoreIx) (t : TaskIx) (w : W128) : List Bad :=
  let o := matOp w (s.task c t).mp
  let anch := (s.core c).arith.getLsbD t.val
  match pairKind o.pair with
  | none => badIf true 5
  | some k =>
    (o.extents k).filterMap (s.extentBad c t matLo matHi)
      ++ badIf (decide (5 < o.ofmt)) 5 ++ badIf (decide (rowCap k anch < o.m)) 6 ++ badIf (o.combBad k anch) 7

/-- Conditions of a vector command. With a reserved SFMT or DFMT (0xE, 0xF) no extent can be computed, and 0x07 alone holds (DESIGN
CHOICE, log entry 36). -/
def State.vecBad (s : State) (c : CoreIx) (t : TaskIx) (w : W128) : List Bad :=
  let o := vecOp w
  let anch := (s.core c).arith.getLsbD t.val
  (if decide (o.sfmt < 14) && decide (o.dfmt < 14) then o.extents.filterMap (s.extentBad c t matHi vecHi) else [])
    ++ badIf (!o.legal anch) 7

/-- The descriptor list of a form D word: its carrel, offset, and descriptor count (Table CMD-9). -/
def listCar (w : W128) : Fin 8 := wCar w 93
def listOff (w : W128) : Nat := 64 * fld w 72 21
def listLen (w : W128) : Nat := fld w 64 8 + 1
def listGmax (w : W128) : Nat := fld w 57 7 + 1

/-- Conditions of a descriptor command. -/
def State.strBad (s : State) (c : CoreIx) (t : TaskIx) (w : W128) : List Bad :=
  let k := (s.task c t).data (listCar w)
  let e : Extent := { car := listCar w, off := listOff w, len := 64 * listLen w, rd := true, wr := false }
  let a := k.base.toNat + e.off
  let here : Bool := addrModule a == s.glb.modIx.val &&
    (match place a with
     | .scratch _ _ => true
     | .slice _ _ => true
     | _ => false)
  (if k.grants e && decide (a + e.len ≤ k.bound.toNat + 1) then []
   else [{ code := 4, car := e.car.val + 1, addr := k.firstBad e.off (k.grants e) }])
    ++ badIf (!here) 8

/-- R171: the lowest condition below 0x10 that holds for a word at the head of its queue. -/
def State.illegal? (s : State) (c : CoreIx) (t : TaskIx) (w : W128) : Option Bad :=
  if !opDefined (wOpc w) then some { code := 1 }
  else if reservedBad w then some { code := 2 }
  else
    match opQueue (wOpc w) with
    | .mat => if wOpc w == 0x11 then none else lowest (s.matBad c t w)
    | .vec => lowest (s.vecBad c t w)
    | .str => lowest (s.strBad c t w)
    | .ctl => none

/-- R228: a carrel or region fault recorded and counted. -/
def State.carrelFault (s : State) (c : CoreIx) (t : TaskIx) (b : Bad) : State :=
  if b.code = 4 ∨ b.code = 0x11 ∨ b.code = 0x12 ∨ b.code = 0x13 then
    s.modCore c fun k =>
      let k := { k with carCnt := bump k.carCnt }
      if bit k.carInfo.toNat 31 then k
      else { k with
        carInfo := BitVec.ofNat 32 (2 ^ 31 + t.val * 2 ^ 29 + b.car * 2 ^ 25 + b.code * 2 ^ 18)
        carAddr := BitVec.ofNat 64 b.addr }
  else s

/-! ## Segments (R155) -/

/-- A segment of a transfer: whole rows, or a piece of one row. -/
structure Seg where
  row  : Nat
  rows : Nat
  off  : Nat
  len  : Nat
  deriving DecidableEq, Repr

/-- How many segments a transfer of `rows` rows of `len` bytes makes. -/
def segCount (len rows : Nat) : Nat :=
  if len = 0 ∨ rows = 0 then 1
  else if len ≤ 65536 then ceilDiv rows (65536 / len) else rows * ceilDiv len 65536

/-- Segment `k` of a transfer. -/
def segAt (len rows k : Nat) : Seg :=
  if len ≤ 65536 then
    let per := 65536 / max len 1
    { row := k * per, rows := min per (rows - k * per), off := 0, len := len }
  else
    let n := ceilDiv len 65536
    { row := k / n, rows := 1, off := k % n * 65536, len := min 65536 (len - k % n * 65536) }

/-- Bytes of a segment. -/
def Seg.bytes (g : Seg) : Nat := g.rows * g.len

/-! ## Descriptors -/

/-- A carrel and byte offset as descriptors hold them (Table CMD-10). -/
structure Loc where
  car : Fin 8
  off : Nat
  deriving DecidableEq, Repr

/-- The location at byte `o` of a descriptor. -/
def locAt (d : List Byte) (o : Nat) : Loc :=
  { car := ⟨bits (fieldAt d o 8) 61 3, Nat.mod_lt _ (by decide)⟩, off := bits (fieldAt d o 8) 0 61 }

/-- The fields of a STREAM descriptor (Table CMD-10). -/
structure StreamD where
  src     : Loc
  dst     : Loc
  len     : Nat
  rows    : Nat
  sstr    : Nat
  dstr    : Nat
  ctx     : BitVec 16
  op      : Nat
  efmt    : Nat
  ord     : Bool
  mcast   : Bool
  dig     : Bool
  vc      : Nat
  epw     : Bool
  codec   : Nat
  rect    : Nat
  cmask   : Nat
  rope    : BitVec 12
  hint    : Nat
  cacc    : Fin 16
  posbase : Nat
  deriving DecidableEq, Repr

/-- Table CMD-10 read from 64 bytes. -/
def streamD (d : List Byte) : StreamD :=
  let fl := fieldAt d 36 1
  { src := locAt d 0, dst := locAt d 8, len := fieldAt d 16 4, rows := fieldAt d 20 4
    sstr := fieldAt d 24 4, dstr := fieldAt d 28 4, ctx := BitVec.ofNat 16 (fieldAt d 32 2)
    op := fieldAt d 34 1, efmt := fieldAt d 35 1
    ord := bit fl 7, mcast := bit fl 6, dig := bit fl 5, vc := bits fl 3 2, epw := bit fl 0
    codec := fieldAt d 37 1, rect := bits (fieldAt d 38 2) 4 12, cmask := bits (fieldAt d 38 2) 0 4
    rope := BitVec.ofNat 12 (fieldAt d 40 2), hint := fieldAt d 42 1
    cacc := ⟨fieldAt d 43 1 % 16, Nat.mod_lt _ (by decide)⟩, posbase := fieldAt d 48 8 }

/-- A piece of a row of `len` bytes moved to the elements of `w` bytes whose last byte it holds; the row's last piece takes the rest
(DESIGN CHOICE, log entry 9). -/
def Seg.whole (g : Seg) (w len : Nat) : Seg :=
  let o := g.off / w * w
  { g with off := o, len := (if g.off + g.len = len then len else (g.off + g.len) / w * w) - o }

/-- Source and target bytes of one element of a reduce-add (R122). One in a code without whole bytes travels byte by byte, to be refused
at its slice. -/
def redSizes (efmt : Nat) (anch epw : Bool) : Nat × Nat :=
  (max 1 (elemBytes efmt), if anch && efmt == 0 then (if epw then 80 else 24) else max 1 (elemBytes efmt))

end Sys2Proof.Machine
end

