-- ==== Sys2Proof/Machine/Issue.lean ====
section
/-! DEFINITION. Issue and completion of tile commands, shared by every opcode: when the command at the head of a queue may
issue (R70, R92, R99, R136), what an illegal one does (R171), how a command is held until it reports (R71, R139), and what a
completion raises (R72, R232). -/

namespace Sys2Proof.Machine

/-! ## Credits of landing carrels (R231, R232) -/

/-- A credit grant on the control network (R231, Table WAF-8): ARG the count, the payload the context and the core that
holds the landing carrel (DESIGN CHOICE, log entry 10). -/
def creditMsg (c : CoreIx) (ctx : BitVec 16) (n : Nat) : CtlMsg :=
  { typ := 6, dest := coreField c, src := coreField c, bcast := true, plane := false, arg := BitVec.ofNat 12 n
    payload := [BitVec.ofNat 32 ctx.toNat, BitVec.ofNat 32 c.val] }

/-- A destination owes the sender of a context credits of whole slots or 64 KiB (R389, R390), until its lease has expired at this end: new ones
come only with the next launch (R395). -/
def State.owe (s : State) (ctx : BitVec 16) (n : Nat) : State :=
  s.modCtx ctx fun k => if k.lendExp then k else { k with owed := k.owed + n, owedAt := if k.owed = 0 then s.now else k.owedAt }

/-- `n` credits granted to the sender of a landing carrel (R231). -/
def State.grantSlots (s : State) (c : CoreIx) (k : Carrel) (n : Nat) : State :=
  if k.smod == s.glb.modIx.val then s.tell (creditMsg c k.sctx n) else s.owe k.sctx n

/-- R232 on one data carrel: a raise of its RELCTR releases the oldest filled slot. -/
def State.releaseOne (s : State) (c : CoreIx) (t : TaskIx) (i : Fin 64) (k : Fin 8) : State :=
  let car := (s.task c t).data k
  let l := (s.task c t).landing[k]
  if car.valid && car.land && car.relctr == i && decide (l.released < l.filled) then
    (s.modTask c t fun x => { x with landing := upd x.landing k fun l => { l with released := l.released + 1 } }).grantSlots
      c car 1
  else s

/-- A raise of a counter by `v` (R72, R73, R137) with the landing slots it releases (R232). -/
def State.raise (s : State) (c : CoreIx) (t : TaskIx) (i : Fin 64) (v : Nat) : State :=
  (List.finRange 8).foldl (fun s k => s.releaseOne c t i k) (s.raiseOnly c t i v)

/-- The raise a completing command asks for (Table CMD-2). -/
def State.raiseFor (s : State) (c : CoreIx) (t : TaskIx) (w : W128) : State :=
  if wRen w then s.raise c t (wRctr w) 1 else s

/-! ## Slices (R90 to R94) -/

/-- The core has a slice table. -/
def Core.sliced (k : Core) : Bool := k.slices.toList.any fun w => bit w.toNat 31

/-- The task context named by slice `i`. -/
def Core.sliceTask (k : Core) (i : Fin 8) : Nat := bits (k.slices[i]).toNat 29 2

/-- Valid slices of a core with their starts in ns from the boundary, in table order. -/
def Core.starts (k : Core) : List (Fin 8 × Nat) :=
  (List.finRange 8).filterMap fun i =>
    let w := (k.slices[i]).toNat
    if bit w 31 then some (i, 1000 * bits w 0 15) else none

/-- The slice that runs `off` ns after the boundary: the last whose start has come (R91, R94). -/
def Core.sliceAt (k : Core) (off : Nat) : Option (Fin 8 × Nat) := (k.starts.filter fun x => decide (x.2 ≤ off)).getLast?

/-- The end of the slice that runs `off` ns after the boundary: the next start, else the pitch's length. -/
def Core.sliceEnd (k : Core) (off len : Nat) : Nat :=
  match k.starts.find? fun x => decide (off < x.2) with
  | some x => min x.2 len
  | none => len

/-- The slice an event of a core belongs to, with the count at which it began: a boundary's own count belongs to the slice that begins
there (R94, R311). -/
def State.coreSlice (s : State) (c : CoreIx) : Option (Fin 8 × Nat) :=
  ((s.core c).sliceAt (s.coreCount c - s.coreBegin c)).map fun x => (x.1, s.coreBegin c + x.2)

/-- R90, R92: no table, or the slice names the task context: its queues, counters and unspawned gangs are not frozen. -/
def State.named (s : State) (c : CoreIx) (t : TaskIx) : Bool :=
  !(s.core c).sliced ||
    (match s.coreSlice c with
     | none => false
     | some i => (s.core c).sliceTask i.1 == t.val)

/-- R92: the task context may issue and spawn now: it is named, and under a table no other context's gang lives. -/
def State.turnOf (s : State) (c : CoreIx) (t : TaskIx) : Bool :=
  s.named c t && (!(s.core c).sliced || (s.core c).gangs.all fun g => g.task == t)

/-- The slice of the present count is entered, once: its guard point lies ahead, and its first issue may be late (R92, R93). -/
def State.enterSlice (s : State) (c : CoreIx) : State :=
  match s.coreSlice c with
  | none => s
  | some x =>
    if (s.core c).sliceNow == some x then s
    else s.modCore c fun k => { k with sliceNow := some x, guarded := false, sliceLate := some x.2 }

/-- From GUARD µs before the slice ends the task context spawns no gang (R92): its guard point has passed, or its count has. -/
def State.inGuard (s : State) (c : CoreIx) : Bool :=
  let k := s.core c
  match s.coreSlice c with
  | none => false
  | some x =>
    (k.guarded && k.sliceNow == some x)
      || decide (s.coreBegin c + k.sliceEnd (s.coreCount c - s.coreBegin c) (s.coreEnd c - s.coreBegin c)
          ≤ s.coreCount c + 1000 * bits (k.slices[x.1]).toNat 15 8)

/-! ## Issue -/

/-- A core's task context may issue: a run that uses the core is active and not abandoned, its launch count has come, the core's VLOG
domain is not fenced, and its slice runs (R92, R182, R184, R328, R412, R486). -/
def State.mayIssue (s : State) (c : CoreIx) (t : TaskIx) : Bool :=
  s.issuing && s.inRun c && !s.fenced (vlog (coreField c)) && !(s.task c t).stopped && (s.core c).target.isNone && s.turnOf c t
    && (!s.pit.gcntSet || decide (s.pit.launchAt ≤ s.coreCount c))

/-- Every gang has retired and every write has been acknowledged (R71, R156, Table CMD-18). -/
def Cmd.done (x : Cmd) (now : Nat) : Bool :=
  x.toSet == 0 && x.retired == x.gangs && x.spawned == x.gangs && x.acks == 0 && decide (x.ackAt ≤ 17 * now)

/-- An earlier command of the queue with SER set has not completed (R70, Table CMD-2). -/
def State.serialised (s : State) (c : CoreIx) (t : TaskIx) (q : Queue) : Bool :=
  (s.task c t).cmds.any fun x => x.queue == q && wSer x.word && !x.done s.now

/-- The wait condition of the header (R72, R136). -/
def State.waitMet (s : State) (c : CoreIx) (t : TaskIx) (w : W128) : Bool :=
  wWthr w == 0 || decide (wWthr w ≤ s.ctr c t (wWctr w))

/-- The command at the head of a queue. -/
def State.headOf (s : State) (c : CoreIx) (t : TaskIx) (q : Queue) : Option QEntry := ((s.task c t).queue q).head?

/-- The head of a queue leaves it. -/
def State.popHead (s : State) (c : CoreIx) (t : TaskIx) (q : Queue) : State :=
  s.modTask c t fun k => k.setQueue q ((k.queue q).drop 1)

/-- R171: the task context stops on an illegal command, recorded and sent as a fault event. -/
def State.stopTask (s : State) (c : CoreIx) (t : TaskIx) (q : Queue) (e : QEntry) (b : Bad) : State :=
  ((s.modTask c t fun k =>
      { k with stopped := true, active := false, fcode := BitVec.ofNat 7 b.code, fqueue := queueCode q,
               findex := BitVec.ofNat 22 e.index, fword := e.word }).carrelFault c t b).coreEvent c 2 1 b.code

/-- R93: the first issue of a slice counts its lateness in core cycles, at the level running then and rounded down (DESIGN CHOICE, log
entry 58). -/
def State.sliceFirst (s : State) (c : CoreIx) : State :=
  match (s.core c).sliceLate with
  | none => s
  | some start =>
    s.modCore c fun k =>
      { k with sliceLate := none, cnt := { k.cnt with sliceOvr := bump k.cnt.sliceOvr (coreCycles k.level (s.coreCount c - start)) } }

/-- The command at the head of queue `q` issues when its opcode is one of `ops`, it is legal, its wait condition is met and
`cond` holds; then `eff` takes the state with the entry freed. An illegal one stops its task context (R70, R136, R171). -/
def State.issueWith (s : State) (c : CoreIx) (t : TaskIx) (q : Queue) (ops : Nat → Bool)
    (cond : QEntry → Bool) (eff : State → QEntry → State) : State :=
  match s.headOf c t q with
  | none => s
  | some e =>
    if !ops (wOpc e.word) || !s.mayIssue c t then s
    else
      match s.illegal? c t e.word with
      | some b => s.stopTask c t q e b
      | none =>
        if s.serialised c t q || !s.waitMet c t e.word || !cond e then s
        else eff (((s.enterSlice c).popHead c t q).sliceFirst c) e

/-- An issued command of `n` gangs, of which `d` descriptors are still to be set up, is held until it reports (R71). -/
def State.hold (s : State) (c : CoreIx) (t : TaskIx) (q : Queue) (e : QEntry) (n d : Nat) : State :=
  let k := s.core c
  (s.modTask c t fun x =>
    { x with cmds := x.cmds ++
        [{ id := k.nextCmd, queue := q, word := e.word, index := e.index, time := s.now, mp := x.mp,
           anch := k.arith.getLsbD t.val, gangs := n, spawned := 0, retired := 0, acks := 0, toSet := d,
           pnum := s.pnumNow, descs := [], lost := false }] }).modCore c fun y => { y with nextCmd := y.nextCmd + 1 }

/-- A command that spawns no gang completes at issue (R139): it reports at once, or after every earlier command of its
queue has (R71). -/
def State.finishNow (s : State) (c : CoreIx) (t : TaskIx) (q : Queue) (e : QEntry) : State :=
  if (s.task c t).cmds.any (fun x => x.queue == q) then s.hold c t q e 0 0 else s.raiseFor c t e.word

/-- A command reports completion and raises its counter (R71, R72). -/
def State.report (s : State) (c : CoreIx) (t : TaskIx) (x : Cmd) : State :=
  (s.modTask c t fun k => { k with cmds := k.cmds.filter fun y => y.id != x.id }).raiseFor c t x.word

/-- The effect of a synchronisation command beside its raise (Table CMD-13), also when skipped (Table FLT-4). -/
def State.clearCounters (s : State) (c : CoreIx) (t : TaskIx) (mask : Nat) : State :=
  s.modTask c t fun k => { k with ctr := Vector.ofFn fun i => if bit mask i.val then 0 else k.ctr[i] }

/-- Gangs a command may have alive (R76). -/
def gangMax (w : W128) : Nat :=
  match opQueue (wOpc w) with
  | .mat => fld w 18 2 + 1
  | .vec => (vecOp w).gmax
  | _ => listGmax w

/-- The opcode test of one row. -/
def isOp (o : Nat) : Nat → Bool := fun x => x == o

/-- A descriptor command issues: its descriptors wait for setup (R155). -/
def State.issueDesc (s : State) (c : CoreIx) (t : TaskIx) (o : Nat) : State :=
  s.issueWith c t .str (isOp o) (fun _ => true) fun s e => s.hold c t .str e 0 (listLen e.word)

end Sys2Proof.Machine
end

