-- ==== Sys2Proof/Machine/Maps.lean ====
section
/-! DEFINITION. Congestion maps (R402, Table FAB-5): the counts of a pitch, the 512 bytes of a closed map, and its bank. -/

namespace Sys2Proof.Machine

/-- The role of a port group (R15, Table SYS-2); nothing changes it. -/
inductive PortRole where
  | intake | chain | fabric
  deriving DecidableEq, Repr

/-- The role of each port group (Table SYS-2). -/
def portRole (g : GroupIx) : PortRole := if g.val < 4 then .intake else if g.val < 6 then .chain else .fabric

/-- The switch tray that each port group runs to (Table SYS-2). -/
def trayOf (g : GroupIx) : Fin 4 :=
  match portRole g with
  | .intake => ⟨g.val % 4, Nat.mod_lt _ (by decide)⟩
  | .chain => ⟨(g.val - 4) % 4, Nat.mod_lt _ (by decide)⟩
  | .fabric => ⟨(g.val - 6) / 2 % 4, Nat.mod_lt _ (by decide)⟩

/-- A group of the rack fabric (groups 6 to 13). -/
def isFabric (g : GroupIx) : Bool := portRole g == .fabric

/-- The place of a fabric sublink in a congestion map (Table FAB-5). -/
def planeIx (g : GroupIx) (u : SubIx) : Fin 16 := ⟨(2 * (g.val - 6) + u.val) % 16, Nat.mod_lt _ (by decide)⟩

/-- A count in a field of `n` bytes, saturating. -/
def satBytes (n w : Nat) : List Byte := leBytes n (min w (256 ^ n - 1))

/-- The entry of a fabric sublink. -/
def CMapAcc.entry (k : CMapAcc) (i : Fin 16) : List Byte :=
  satBytes 4 k.flits[i] ++ satBytes 4 (k.wait[i] / 128) ++ satBytes 2 k.defer[i] ++ satBytes 2 k.replay[i] ++ satBytes 2 k.nacks[i] ++ zeros 2

/-- The 512 bytes of a map. -/
def CMapAcc.bytes (k : CMapAcc) (gcnt pnum : Nat) : List Byte :=
  leBytes 8 gcnt ++ leBytes 4 pnum ++ zeros 4 ++ (List.finRange 16).flatMap k.entry
    ++ (List.finRange 16).flatMap (fun i => satBytes 4 (k.credit[i] / 100))
    ++ (List.finRange 16).flatMap (fun i => satBytes 4 (k.recv[i] / 1024)) ++ zeros 112

/-- A map for a boundary and a pitch is written into the alternate bank and counting starts again (R402, Table FAB-12). -/
def State.closeMap (s : State) (gcnt pnum : Nat) : State :=
  let k := s.fab
  let b := k.acc.bytes gcnt pnum
  let one := k.maps.getLsbD 0
  { s with fab := { k with
    acc := {}, bank := one, maps := k.maps + 1, mapTime := s.now, cmap0 := if one then k.cmap0 else b, cmap1 := if one then b else k.cmap1 } }

/-- A boundary of the run has come whose map is not closed yet. -/
def State.mapDue (s : State) : Bool :=
  s.running && decide (0 < s.pit.bound) && decide (s.pit.bound ≤ s.gcnt) && s.fab.mapAt != s.pit.bound

/-- The map of a pitch that has ended is closed, so that what is counted at its boundary's count or later belongs to the next (R311,
R402). -/
def State.rollMap (s : State) : State :=
  if s.mapDue then
    let s1 := s.closeMap s.pit.bound s.pit.pnum
    { s1 with fab := { s1.fab with mapAt := s.pit.bound } }
  else s

/-- Something counted in the map of the present pitch. -/
def State.countMap (s : State) (f : CMapAcc → CMapAcc) : State :=
  let s1 := s.rollMap
  { s1 with fab := { s1.fab with acc := f s1.fab.acc } }

/-- FAB_CFG.IDLE_US in ns: the map period and the lease unit while no run is active (Table FAB-8). -/
def State.idleNs (s : State) : Nat :=
  let us := bits s.cfg.active.fabCfg.toNat 0 16
  1000 * (if us = 0 then 1000 else us)

/-- CONGESTION_MAP_CLOSE: the map of the pitch that a boundary has ended; while no run is active, of the idle period since the last one
(R402). -/
def execCongestionMapClose (s : State) : Host.Outcome State Fault Refusal :=
  .next (
    if s.running then s.rollMap
    else if s.now < s.fab.mapTime + s.idleNs then s
    else s.closeMap s.gcnt (2 ^ 32 - 1))

end Sys2Proof.Machine
end

