-- ==== Sys2Proof/Machine/LinkOps.lean ====
section
/-! DEFINITION. Sending on the Morkan link: packet sizes (R349), partition keys (R384), hop credits and the choice of the next
packet (R350, R351, R354, R377, R379), and the packets the module itself originates on VC0 to VC2. -/

namespace Sys2Proof.Machine

/-- Flits of a packet (R349): base header, upper header, body padded to a slot. -/
def pktFlits (p : LinkPacket) : Nat := ceilDiv (32 + p.uhdr.length + roundUp p.body.length 32) 256

/-- Sequence numbers a packet's frames take: each packet fills frames of its own (DESIGN CHOICE, log entry 11). -/
def pktFrames (p : LinkPacket) : Nat := roundUp (pktFlits p) 32

/-- Partition-key entry `i` of a group in a configuration set. -/
def ConfigSet.key (k : ConfigSet) (g i : Nat) : Nat := (getWord 0 (4096 * g + i) k.pkey).toNat

/-- A key-table entry is valid (R383). -/
def keyValid (w : Nat) : Bool := bit w 31 && bits w 0 16 != 0 && bits w 0 16 != 0xFFFF

/-- The listed key entries of a group, lowest first. -/
def State.keys (s : State) (g : GroupIx) : List Nat :=
  (s.cfg.active.pkey.filter fun e => decide (4096 * g.val ≤ e.1) && decide (e.1 < 4096 * (g.val + 1))).map
    fun e => e.2.toNat

/-- The key stamped on a region's packets (R384). -/
def State.sendKey (s : State) (g : GroupIx) (r : Byte) : Option (BitVec 16) :=
  ((s.keys g).find? fun w => keyValid w && bit w 30 && bits w 16 8 == r.toNat).map fun w => BitVec.ofNat 16 (bits w 0 16)

/-- R376: the rope regime. -/
def State.ropeRegime (s : State) : Bool :=
  s.pit.run == .running && s.image.hasRopes && !s.fab.forceEff

/-- A rope's window is open now (R379). -/
def State.ropeOpen (s : State) (r : BitVec 12) : Bool := s.fab.open_.any fun x => x.1 == r

/-- The rope has a later window in this run, so its packets wait for it (R380). -/
def State.ropeAhead (s : State) (r : BitVec 12) : Bool :=
  s.image.ropes.any fun e => e.rope == r && !e.rx && decide (s.pnumNow ≤ e.last)

/-- The loop mode of a sublink: 0 off, 1 near, 2 far, 3 packet (Table CMB-4). -/
def LinkGroup.loopMode (k : LinkGroup) (u : SubIx) : Nat := bits k.loop.toNat (4 * u.val) 2

/-- Hundredths of a ns that a flit takes at the sublink's transmit width (R380). -/
def Sublink.flitTime (k : Sublink) : Nat := if k.st == .txNarrow then 128 else if k.txHalf then 64 else 32

/-- A packet's last flit would leave before an open window of its rope closes (R380). -/
def State.ropeFits (s : State) (g : GroupIx) (u : SubIx) (p : LinkPacket) : Bool :=
  s.fab.open_.any fun x => x.1 == p.rope &&
    (match s.image.ropes[x.2]? with
     | some e => decide (s.gcnt - s.pitchBegan + ceilDiv (pktFlits p * (s.sub g u).flitTime) 100 ≤ e.wstart + e.wlen)
     | none => false)

/-- A queued packet may leave now as far as ropes and quarantine go (R369, R379, R380). -/
def State.txFree (s : State) (g : GroupIx) (u : SubIx) (p : TxPkt) : Bool :=
  (!(s.group g).quar || p.pkt.typ == 0x21 || p.pkt.typ == 0x22)
    && (p.pkt.rope == 0 || !s.ropeRegime || s.ropeFits g u p.pkt || !s.ropeAhead p.pkt.rope)

/-- The sublink carries frames now. -/
def Sublink.up (k : Sublink) : Bool := k.st == .active || k.st == .txNarrow || k.st == .fullBiv

/-- The sublink sends packets: data frames are allowed, and it carries the module's own traffic (R442, R471, Table LNK-13). -/
def State.sends (s : State) (g : GroupIx) (u : SubIx) : Bool :=
  let k := s.sub g u
  (k.st == .active || k.st == .txNarrow) && !k.badRack && (s.group g).loopMode u != 2

/-- The replay buffer of a sublink lost, its lanes idle. -/
def Sublink.unpower (k : Sublink) : Sublink :=
  { k with st := .disabled, unacked := 0, kept := [], replayFrom := none, swap := none, biv := none, waking := false, rxNarrow := false, rxBiv := false
           gotCaps := false }

/-- A sublink DOWN with nothing in hand. -/
def Sublink.dropDown (k : Sublink) : Sublink := { k.unpower with st := .down }

/-- The oldest packet of each context. -/
def oldestPer : List TxPkt → List (BitVec 16) → List TxPkt
  | [], _ => []
  | p :: ps, seen => if seen.contains p.pkt.ctx then oldestPer ps seen else p :: oldestPer ps (p.pkt.ctx :: seen)

/-- The packet of the smallest context. -/
def leastCtx (ps : List TxPkt) : Option TxPkt :=
  ps.foldl (fun b p => match b with
    | none => some p
    | some q => if p.pkt.ctx.toNat < q.pkt.ctx.toNat then some p else some q) none

/-- Round robin over contexts: the next above the one served last, else the smallest (R374). -/
def nextRound (last : BitVec 16) (ps : List TxPkt) : Option TxPkt :=
  match leastCtx (ps.filter fun p => decide (last.toNat < p.pkt.ctx.toNat)) with
  | some p => some p
  | none => leastCtx ps

/-- The context a VC of a sublink served last. -/
def Sublink.served (k : Sublink) (v : Nat) : BitVec 16 := if h : v < 6 then k.rr[v] else 0

/-- The next packet of a VC: a rope's packet inside its window first (R379), else contexts in turn (R374). -/
def State.nextOfVc (s : State) (g : GroupIx) (u : SubIx) (v : Nat) : Option TxPkt :=
  let xs := (oldestPer ((s.sub g u).tx.filter fun p => p.pkt.vc.toNat == v) []).filter (s.txFree g u)
  match xs.find? (fun p => p.pkt.rope != 0 && s.ropeRegime && s.ropeOpen p.pkt.rope) with
  | some p => some p
  | none => nextRound ((s.sub g u).served v) xs

/-- Hop credits held for a VC. -/
def Sublink.credit (u : Sublink) (v : Nat) : Nat := if h : v < 6 then u.cred[v] else 0

/-- A packet has hop credits for all its flits (R377) and room for its frames (R354). -/
def Sublink.mayTake (k : Sublink) (p : LinkPacket) : Bool :=
  decide (pktFlits p ≤ k.credit p.vc.toNat) && decide (k.unacked + pktFrames p ≤ 2048)

/-- The packet of a VC that may leave now. -/
def State.readyOf (s : State) (g : GroupIx) (u : SubIx) (v : Nat) : Option TxPkt :=
  (s.nextOfVc g u v).filter fun p => (s.sub g u).mayTake p.pkt

/-- The packet that leaves next: of a VC of VC2 to VC5 that has waited 64 flit times, else VC0 first (R350). -/
def State.nextTx (s : State) (g : GroupIx) (u : SubIx) : Option TxPkt :=
  let k := s.sub g u
  match (List.finRange 6).findSome? fun v => if 2 ≤ v.val ∧ 64 ≤ k.guard[v] then s.readyOf g u v.val else none with
  | some p => some p
  | none => (List.range 6).findSome? (s.readyOf g u)

/-- The guards once `n` flits of VC `v` have left: its own starts again, those of the VCs passed over with a packet ready go on (R350). -/
def State.guards (s : State) (g : GroupIx) (u : SubIx) (v n : Nat) : Vector Nat 6 :=
  Vector.ofFn fun w =>
    if w.val = v then 0
    else if 2 ≤ w.val ∧ (s.readyOf g u w.val).isSome then (s.sub g u).guard[w] + n else (s.sub g u).guard[w]

/-! ## Shapers (R398 to R400) -/

/-- RATE and BURST of a shaper (Table FAB-10). -/
def State.shapeWord (s : State) (r : Byte) (v : Fin 3) : Nat :=
  (getWord 0xFFFF0010 (4 * r.toNat + v.val) s.cfg.active.shape).toNat

/-- Bucket depth in bytes; BURST 0 acts as 1. -/
def shapeBurst (w : Nat) : Nat := 4096 * max 1 (bits w 0 16)

/-- Tokens grown from `tok` over `dt` ns: RATE × 256 MB/s, up to the bucket's depth (R398). -/
def grow (w : Nat) (tok : Int) (dt : Nat) : Int := min (shapeBurst w) (tok + (bits w 16 16 * 256 * dt / 1000 : Nat))

/-- FAB_TOKENS of a shaper now. -/
def State.tokens (s : State) (r : Byte) (v : Fin 3) : Int :=
  match s.fab.shapers.find? fun x => x.region == r && x.vc == v with
  | some x => grow (s.shapeWord r v) x.tokens (s.now - x.at_)
  | none => grow (s.shapeWord r v) 0 (s.now - s.fab.tokensAt)

/-- A shaper's tokens set. -/
def State.setTokens (s : State) (r : Byte) (v : Fin 3) (n : Int) : State :=
  let rest := s.fab.shapers.filter fun x => !(x.region == r && x.vc == v)
  { s with fab := { s.fab with shapers := { region := r, vc := v, tokens := n, at_ := s.now } :: rest } }

/-- The shaper's VC of a Morkan VC 3 to 5. -/
def shapeVc (v : Nat) : Fin 3 := ⟨(v - 3) % 3, Nat.mod_lt _ (by decide)⟩

/-- What a packet carries as it leaves: the key that its context's region sends with now (R384, R387), and its ROPE only inside a window of
the rope regime (R376, R380). A packet of the fabric key keeps it; one whose region has lost its key since it was queued keeps the key it
had (DESIGN CHOICE, log entry 43). -/
def State.stamp (s : State) (g : GroupIx) (u : SubIx) (p : LinkPacket) : LinkPacket :=
  { p with
    rope := if s.ropeRegime && s.ropeFits g u p then p.rope else 0
    pkey := if p.pkey == 0xFFFF then p.pkey
      else match (s.ctx? p.ctx).bind fun k => s.sendKey g k.decl.region with
        | some w => w
        | none => p.pkey }

/-- A rope's packet is charged to its region's shaper as it is sent (R398, R400). -/
def State.chargeRope (s : State) (g : GroupIx) (p : LinkPacket) : State :=
  match s.ctx? p.ctx with
  | none => s
  | some k =>
    if p.rope != 0 && isFabric g && decide (3 ≤ p.vc.toNat) then
      let v := shapeVc p.vc.toNat
      s.setTokens k.decl.region v (s.tokens k.decl.region v - p.body.length)
    else s

/-- One packet leaves: credits spent, sequence numbers taken, kept for replay, counted (R351, R353, Tables LNK-14 and FAB-5). -/
def State.sendOne (s : State) (g : GroupIx) (u : SubIx) (p : TxPkt) : State :=
  let n := pktFlits p.pkt
  let v := p.pkt.vc.toNat
  let q := s.stamp g u p.pkt
  let s1 := (s.chargeRope g p.pkt).modSub g u fun k =>
    { k with tx := k.tx.erase p
             cred := if h : v < 6 then k.cred.set v (k.cred[v] - n) else k.cred
             rr := if h : v < 6 then k.rr.set v p.pkt.ctx else k.rr
             guard := s.guards g u v n, kept := k.kept ++ [(k.txSeq, pktFrames p.pkt, q)]
             txSeq := k.txSeq + BitVec.ofNat 12 (pktFrames p.pkt), unacked := k.unacked + pktFrames p.pkt
             ackAt := if k.unacked = 0 then s.now else k.ackAt
             activeAt := if 2 ≤ v then s.now else k.activeAt
             cnt := { k.cnt with flitsTx := bump k.cnt.flitsTx n } }
  let s2 := if isFabric g && decide (2 ≤ v) then
      s1.countMap fun k => { k with flits := upd k.flits (planeIx g u) fun x => x + n } else s1
  (if 3 ≤ v then s2.modCtx p.pkt.ctx fun k => { k with holdAt := s.now } else s2).emit (.link g u q)

/-- Packets leave while any may (at most `fuel`). -/
def State.pump (s : State) (g : GroupIx) (u : SubIx) : Nat → State
  | 0 => s
  | fuel + 1 =>
    if !s.sends g u then s
    else
      match s.nextTx g u with
      | none => s
      | some p => (s.sendOne g u p).pump g u fuel

/-- Every packet of a sublink that may leave now leaves. -/
def State.pumpAll (s : State) (g : GroupIx) (u : SubIx) : State := s.pump g u (s.sub g u).tx.length

/-- A packet is queued on a sublink and leaves as soon as it may. -/
def State.sendLink (s : State) (g : GroupIx) (u : SubIx) (p : LinkPacket) : State :=
  (s.modSub g u fun k => { k with tx := k.tx ++ [{ pkt := p, queued := s.now }] }).pumpAll g u

/-- A packet of a type and VC from this module with nothing else set (Table LNK-3). -/
def State.linkBase (s : State) (typ : Byte) (vc : BitVec 3) (dst : Byte) (key ctx : BitVec 16) : LinkPacket :=
  { typ := typ, vc := vc, ord := false, resv := false, flitVc := vc, dst := dst, src := BitVec.ofNat 8 s.glb.modIx.val
    pkey := key, ctx := ctx, addr := 0, rope := 0, status := 0, tag := 0, rlen := 0, last := false, efmt := 0,
    anchored := false, epw := false, uhdr := [], body := [] }

/-- Link management (Table LNK-6): straight to the peer. -/
def State.sendMgmt (s : State) (g : GroupIx) (u : SubIx) (body : List Byte) : State :=
  s.emit (.management g u (body ++ zeros (32 - body.length)))

/-- DIR of a context: this module sends, receives (Table FAB-2). -/
def CtxEntry.sends (k : CtxEntry) : Bool := bit k.dir 0
def CtxEntry.receives (k : CtxEntry) : Bool := bit k.dir 1

/-- The sublink that carries a context (R23, R373). -/
def ctxSub (ctx : BitVec 16) : SubIx := ⟨ctx.toNat % 2, Nat.mod_lt _ (by decide)⟩

/-- The port group of a declared context. -/
def Ctx.group (k : Ctx) : GroupIx := ⟨k.decl.port % 14, Nat.mod_lt _ (by decide)⟩

/-- A context of the chain's port groups (R287). -/
def Ctx.chain (k : Ctx) : Bool := k.decl.port == 4 || k.decl.port == 5

/-- The module whose packets of a context this one receives: the effective predecessor on a chain's contexts, else the declared peer
(R307, Table FAB-2). -/
def State.sourceOf (s : State) (k : Ctx) : Nat := if k.chain then s.grd.pred else k.decl.peer

/-- Where this module's packets of a context go: the effective successor or the archive on a chain's contexts, else the declared
peer (R291, R307). -/
def State.sinkOf (s : State) (k : Ctx) : Nat :=
  if k.chain then (if s.grd.last then 0x80 else s.grd.succ) else k.decl.peer

/-- A belay grant (Table LNK-5) of `n` credits of a context to the other end. -/
def State.sendGrant (s : State) (k : Ctx) (dst n lease : Nat) (resume : Bool) : State :=
  let p := s.linkBase 0x20 0 (BitVec.ofNat 8 dst) 0xFFFF k.decl.ctx
  let body := leBytes 2 k.decl.ctx.toNat ++ leBytes 2 n ++ leBytes 2 lease ++ leBytes 1 (ofFlag resume) ++ zeros 9
  ({ s with fab := { s.fab with grantTx := bump s.fab.grantTx } }).sendLink k.group (ctxSub k.decl.ctx)
    { p with body := body }

/-- The lease length a destination grants: 0 and 1 act as 2 (Table FAB-2). -/
def CtxEntry.leaseLen (k : CtxEntry) : Nat := max 2 k.lease

/-- Every credit a destination owes leaves in one grant, with RESUME or without; the lessor's timer restarts (R390, R393). -/
def State.grantOwed (s : State) (k : Ctx) (resume : Bool) : State :=
  (s.modCtx k.decl.ctx fun x =>
    { x with owed := 0, granted := x.granted + x.owed, lendAt := s.now, refusedParked := x.refusedParked && !resume }).sendGrant
    k (s.sourceOf k) k.owed k.decl.leaseLen resume

/-- The sublink carries the module's VC1 messages: it is up, to a module of the same RACK_ID, and not in far loop (R442, R471). -/
def State.carriesTeam (s : State) (g : GroupIx) (u : SubIx) : Bool :=
  (s.sub g u).up && !(s.sub g u).badRack && (s.group g).loopMode u != 2

/-- The team's messages travel on VC1 with the fabric key (R386, Table LNK-4). -/
def State.sendTeam (s : State) (g : GroupIx) (u : SubIx) (dst : Nat) (m : TeamMsg) : State :=
  if s.carriesTeam g u then s.emit (.team g u dst m) else s

/-- An intake context (R279). -/
def CtxEntry.intake (k : CtxEntry) : Bool := decide (k.port < 4)

end Sys2Proof.Machine
end

