-- ==== Sys2Proof/Machine/Routes.lean ====
section
/-! DEFINITION. The two networks of the wafer as they carry things: mesh packets and their flits (R31 to R33), routes with the fault
tables (R49 to R54), router inputs and their credits (R35, R36, R39), and the messages of the control network with their node inputs,
classes and planes (R57, R58, R62). -/

namespace Sys2Proof.Machine

/-! ## Packets, headers and flits (R31 to R33, Table WAF-3) -/

/-- LEN: data flits of 512 bytes. -/
def pktLen (p : MeshPacket) : Nat := ceilDiv p.body.length 512

/-- Flits of a packet: 1 to 8 (R32). -/
def meshFlits (p : MeshPacket) : Nat := max 1 (pktLen p)

/-- The first 128 bits of the header (Table WAF-3). -/
def meshHeader (p : MeshPacket) : W128 :=
  let rect := ((p.x0.val * 8 + p.x1.val) * 8 + p.y0.val) * 8 + p.y1.val
  p.addr ++ BitVec.ofNat 6 p.srcField.val ++ BitVec.ofNat 2 p.srcCore.val ++ p.region ++ BitVec.ofNat 2 p.vc.val
    ++ BitVec.ofBool p.ord ++ BitVec.ofBool p.mcast ++ (if p.mcast then BitVec.ofNat 12 rect else 0#12)
    ++ (if p.mcast then p.cmask else 0#4) ++ p.op ++ BitVec.ofNat 4 (pktLen p) ++ p.status ++ p.ctx

/-- The fields that a header of 128 bits spells, read into a packet (Table WAF-3); what the header does not carry stays. -/
def readHeader (w : W128) (p : MeshPacket) : MeshPacket :=
  let n := w.toNat
  let three (lo : Nat) : Fin 8 := ⟨bits n lo 3, Nat.mod_lt _ (by decide)⟩
  { p with
    addr := BitVec.ofNat 64 (bits n 64 64), srcField := ⟨bits n 58 6, Nat.mod_lt _ (by decide)⟩
    srcCore := ⟨bits n 56 2, Nat.mod_lt _ (by decide)⟩, region := BitVec.ofNat 8 (bits n 48 8)
    vc := ⟨bits n 46 2, Nat.mod_lt _ (by decide)⟩, ord := bit n 45, mcast := bit n 44
    x0 := three 41, x1 := three 38, y0 := three 35, y1 := three 32, cmask := BitVec.ofNat 4 (bits n 28 4)
    op := BitVec.ofNat 4 (bits n 24 4), status := BitVec.ofNat 4 (bits n 16 4), ctx := BitVec.ofNat 16 (bits n 0 16) }

/-- The sideband of a packet's first flit: the header and its check bits, whose code the manual does not give (R33, log entry 55). -/
def meshSideband (p : MeshPacket) : BitVec 512 := Config.meshCheck (meshHeader p) ++ meshHeader p

/-- The flits of a packet in order. -/
def packetFlits (p : MeshPacket) : List MeshFlit :=
  (List.range (meshFlits p)).map fun i => { head := if i = 0 then some (meshHeader p) else none, data := slice p.body (512 * i) 512 }

/-! ## Routes (R49 to R54) -/

/-- The field one step along a direction of Table WAF-5, if it exists. -/
def stepField (f : FieldIx) (d : Nat) : Option FieldIx :=
  let x := fieldX f.val
  let y := fieldY f.val
  let at_ (ok : Bool) (n : Nat) : Option FieldIx := if ok then some ⟨n % 64, Nat.mod_lt _ (by decide)⟩ else none
  match d with
  | 0 => at_ (decide (1 ≤ y)) (f.val - 8)
  | 1 => at_ (decide (x ≤ 6)) (f.val + 1)
  | 2 => at_ (decide (y ≤ 6)) (f.val + 8)
  | 3 => at_ (decide (1 ≤ x)) (f.val - 1)
  | 4 => at_ (decide (2 ≤ y)) (f.val - 16)
  | 5 => at_ (decide (x ≤ 5)) (f.val + 2)
  | 6 => at_ (decide (y ≤ 5)) (f.val + 16)
  | 7 => at_ (decide (2 ≤ x)) (f.val - 2)
  | _ => none

/-- The fault-table entry of a router for a destination (Table WAF-7). -/
def Field.entry (k : Field) (dest : FieldIx) : Nat :=
  bits (k.faultTab[(⟨dest.val / 8, by omega⟩ : Fin 8)]).toNat (4 * (dest.val % 8)) 4

/-- Dimension order: along the row first (R49). -/
def dimDir (f dest : FieldIx) : Nat :=
  if fieldX f.val < fieldX dest.val then 1
  else if fieldX dest.val < fieldX f.val then 3
  else if fieldY f.val < fieldY dest.val then 2
  else 0

/-- The direction that leads back. -/
def oppDir (d : Nat) : DirIx := ⟨if d < 4 then (d + 2) % 4 else 4 + (d + 2) % 4, by split <;> omega⟩

/-- The input of the next router that a link of a direction leads into. -/
def inputOf (d : Nat) : Fin 9 := ⟨1 + (oppDir d).val, by omega⟩

/-- The next field of a packet at `f` for `dest`, with the input it enters (Table WAF-6); none when the entry is 0xF, reserved, or leads
off the wafer. The bypass port counts as the input from the bypassing neighbour (R51). -/
def State.nextHop (s : State) (f dest : FieldIx) : Option (FieldIx × Fin 9) :=
  let along (d : Nat) : Option (FieldIx × Fin 9) := (stepField f d).map fun g => (g, inputOf d)
  match (s.field f).entry dest with
  | 0 => along (dimDir f dest)
  | 9 => if stepField f 3 = some dest then along 3 else none
  | 10 => if stepField f 1 = some dest then along 1 else none
  | e => if e ≤ 8 then along (e - 1) else none

/-- The routers know a neighbour as dead: the warden has loaded its position (R42). A router that failed in service is dead to the others
only from the next load on (R53): until then packets still cross it (DESIGN CHOICE, log entry 31). -/
def State.knownDead (s : State) (g : FieldIx) : Bool :=
  (List.finRange 4).any fun d => match stepField g d.val with
    | some h => (s.fields[h]).deadNear.contains g
    | none => false

/-- The neighbour that serves a dead router's field through its bypass port: east, in column 7 west (R50, R54). -/
def bypassOf (d : FieldIx) : FieldIx := ⟨(if fieldX d.val = 7 then d.val - 1 else d.val + 1) % 64, Nat.mod_lt _ (by decide)⟩

/-- A packet at `f` reaches its destination within `fuel` hops. -/
def State.routed (s : State) (dest : FieldIx) : Nat → FieldIx → Bool
  | 0, f => f == dest
  | n + 1, f =>
    if f = dest then true
    else
      match s.nextHop f dest with
      | some g => s.routed dest n g.1
      | none => false

/-- R51, R52: the route between two fields holds no unreachable entry; from a dead router's field it begins at the bypass port. -/
def State.reaches (s : State) (f dest : FieldIx) : Bool := s.routed dest 64 (if s.knownDead f then bypassOf f else f)

/-- The field a rack address of this module lies in. -/
def addrField (a : Nat) : Option FieldIx := placeField (place a)

/-- The packet is an answer: it is bound for the field of its request's issuer. -/
def answers? (p : MeshPacket) : Bool := p.op == 2 || p.op == 4 || p.op == 5

/-- The field a packet is bound for; none where its address leads to no field of this wafer. -/
def State.bound (s : State) (p : MeshPacket) : Option FieldIx :=
  if answers? p then some p.srcField
  else if addrModule p.addr.toNat = s.glb.modIx.val then addrField p.addr.toNat
  else none

/-! ## Router inputs (R35, R36, R39) -/

/-- Two packets stand in one queue: the same input and VC of one router; before the router, the same port of the crossbar and VC. -/
def Transit.sameQueue (a b : Transit) : Bool :=
  a.at_ == b.at_ && a.inp == b.inp && a.pkt.vc == b.pkt.vc
    && (a.inp.isSome || (a.pkt.srcCore == b.pkt.srcCore && answers? a.pkt == answers? b.pkt))

/-- The packet is the oldest of its queue. -/
def State.leads (s : State) (t : Transit) : Bool := s.mesh.find? t.sameQueue == some t

/-- Flit credits that a router input grants on a VC: room for 16 flits, less the flits it holds (R35). -/
def State.credits (s : State) (f : FieldIx) (i : Fin 9) (v : Fin 4) : Nat :=
  16 - ((s.mesh.filter fun t => t.at_ == f && t.inp == some i && t.pkt.vc == v).map fun t => meshFlits t.pkt).sum

/-- The router input a packet enters next: none at the end of its route (its destination, or a router that cannot reach it). -/
def State.nextInput (s : State) (t : Transit) : Option (FieldIx × Fin 9) :=
  match t.inp with
  | none => if s.knownDead t.at_ then some (bypassOf t.at_, inputOf (if fieldX t.at_.val = 7 then 3 else 1)) else some (t.at_, 0)
  | some _ =>
    match s.bound t.pkt with
    | none => none
    | some d => if t.at_ = d then none else s.nextHop t.at_ d

/-- The link into a router input forwards: it is not paused for its spare bundle (R46). -/
def State.linkOpen (s : State) (f : FieldIx) (i : Fin 9) : Bool :=
  if h : i.val = 0 then true else !((s.field f).links[(⟨i.val - 1, by omega⟩ : DirIx)]).paused

/-- A mesh link rewritten. -/
def State.modMesh (s : State) (f : FieldIx) (d : DirIx) (g : MeshLink → MeshLink) : State :=
  s.modField f fun k => { k with links := upd k.links d g }

/-- Flits leave on a link: what it had to replay goes first, and it keeps the last 16 (R45). -/
def MeshLink.sent (k : MeshLink) (fs : List MeshFlit) : MeshLink :=
  let all := k.kept ++ fs
  { k with kept := all.drop (all.length - 16), replay := [] }

/-- The transmitter of the link into a router input has sent a packet. -/
def State.linkCarries (s : State) (f : FieldIx) (i : Fin 9) (p : MeshPacket) : State :=
  if i.val = 0 then s
  else
    match stepField f (i.val - 1) with
    | some h => if s.knownDead f || s.knownDead h then s else s.modMesh h (oppDir (i.val - 1)) fun k => k.sent (packetFlits p)
    | none => s

/-- One packet moves one input on: it is the oldest of its queue, the next input has credits for all its flits, and the link there
forwards (R35, R36). Within a queue packets keep their order (R39). -/
def State.hop (s : State) (t : Transit) : State :=
  if !s.leads t then s
  else
    match s.nextInput t with
    | none => s
    | some (f, i) =>
      if s.credits f i t.pkt.vc < meshFlits t.pkt || !s.linkOpen f i then s
      else
        let s1 := s.linkCarries f i t.pkt
        { s1 with mesh := s1.mesh.erase t ++ [{ t with at_ := f, inp := some i }] }

/-- Every packet gets one turn, MV0 first (R37). -/
def State.hopAll (s : State) : State :=
  ((List.finRange 4).flatMap fun v => s.mesh.filter fun t => t.pkt.vc == v).foldl State.hop s

/-- Rounds of turns. -/
def State.hops (s : State) : Nat → State
  | 0 => s
  | n + 1 => s.hopAll.hops n

/-- The routers forward what they can, 32 rounds at most: more than the 16 hops of any path (R40, log entry 56). -/
def State.flow (s : State) : State := s.hops 32

/-- A packet stands at the end of its route, the oldest of its input. -/
def State.standing (s : State) (p : MeshPacket) : Option Transit :=
  s.mesh.find? fun t => t.pkt == p && t.inp.isSome && s.leads t && (s.nextInput t).isNone

/-- A row of a mesh packet of one OP: the routers forward, and the packet leaves the input it stands in for its effect at that field. A
packet that is still on its way does nothing (log entry 56). -/
def State.meshArrive (s : State) (p : MeshPacket) (op : BitVec 4) (eff : State → FieldIx → State) : State :=
  let s1 := s.flow
  match s1.standing p with
  | none => s1
  | some t => if p.op == op then eff { s1 with mesh := s1.mesh.erase t } t.at_ else s1

/-! ## Edge ports (R34, R52) -/

/-- The mesh VC of a Morkan VC at an edge port: VC2 to MV0, up to VC5 to MV3; VC0 and VC1 end at the edge interface (R34). -/
def meshVc (v : BitVec 3) : Option (Fin 4) :=
  match v.toNat with
  | 2 => some 0
  | 3 => some 1
  | 4 => some 2
  | 5 => some 3
  | _ => none

/-- The Morkan VC of a mesh VC that leaves at an edge port (R34). -/
def edgeVc (v : Fin 4) : BitVec 3 := BitVec.ofNat 3 (v.val + 2)

/-- A request that came in at an edge port reaches the field of its address over the mesh (R52). -/
def State.edgeReaches (s : State) (edge : FieldIx) (a : Nat) : Bool :=
  match addrField a with
  | some f => s.reaches edge f
  | none => true

/-! ## The control network (R57, R58, R62) -/

/-- The header word of a message (Table WAF-8). -/
def ctlHeader (m : CtlMsg) : W32 :=
  m.typ ++ BitVec.ofNat 6 m.dest.val ++ BitVec.ofNat 6 m.src.val ++ BitVec.ofBool m.bcast ++ BitVec.ofBool m.plane
    ++ BitVec.ofNat 2 m.payload.length ++ m.arg

/-- The words of a message: its header and 0 to 3 payload words (R57). -/
def ctlWords (m : CtlMsg) : List W32 := ctlHeader m :: m.payload

/-- The message that words spell: none for a reserved type, or where LEN is not the number of payload words (Table WAF-8). -/
def readCtl : List W32 → Option CtlMsg
  | [] => none
  | h :: ws =>
    let n := h.toNat
    if bits n 28 4 = 0 ∨ 0xC < bits n 28 4 ∨ bits n 12 2 ≠ ws.length then none
    else some { typ := BitVec.ofNat 4 (bits n 28 4), dest := ⟨bits n 22 6, Nat.mod_lt _ (by decide)⟩
                src := ⟨bits n 16 6, Nat.mod_lt _ (by decide)⟩, bcast := bit n 15, plane := bit n 14
                arg := BitVec.ofNat 12 (bits n 0 12), payload := ws }

/-- The parity of 16 bits: even parity (DESIGN CHOICE, log entry 34). -/
def halfParity (n : Nat) : Bool := countBits 16 n % 2 == 1

/-- The 2 parity bits a link carries with a word, one per 16-bit half (R57). -/
def ctlParity (w : W32) : BitVec 2 := BitVec.ofBool (halfParity (bits w.toNat 16 16)) ++ BitVec.ofBool (halfParity (bits w.toNat 0 16))

/-- The class of a message: A 0 (tick, GCNT sync, hold request, hold grant, fence), B 1 (fault event), C 2 (barrier, credit grant),
D 3 (configuration) (R58). -/
def ctlClass (m : CtlMsg) : Nat :=
  match m.typ.toNat with
  | 1 => 0
  | 2 => 0
  | 3 => 0
  | 0xB => 0
  | 0xC => 0
  | 7 => 1
  | 4 => 2
  | 5 => 2
  | 6 => 2
  | _ => 3

/-- The direction of the next link on a message's plane: XY along the row first, YX along the column first; 4 at its destination. -/
def ctlDir (m : CtlMsg) (f : FieldIx) : Nat :=
  let row : Nat := if fieldX f.val < fieldX m.dest.val then 1 else 3
  let col : Nat := if fieldY f.val < fieldY m.dest.val then 2 else 0
  if fieldX f.val ≠ fieldX m.dest.val ∧ (!m.plane ∨ fieldY f.val = fieldY m.dest.val) then row
  else if fieldY f.val ≠ fieldY m.dest.val then col
  else 4

/-- Two messages stand in one queue: the same class and plane of one node input, or of one sender. -/
def CtlTransit.sameQueue (a b : CtlTransit) : Bool :=
  a.at_ == b.at_ && a.inp == b.inp && ctlClass a.msg == ctlClass b.msg && a.msg.plane == b.msg.plane

/-- The message is the oldest of its queue. -/
def State.ctlLeads (s : State) (t : CtlTransit) : Bool := s.ctl.find? t.sameQueue == some t

/-- The node input a message enters next; none at its destination's node. -/
def ctlNext (t : CtlTransit) : Option (FieldIx × Fin 5) :=
  match t.inp with
  | none => some (t.at_, 4)
  | some _ =>
    let d := ctlDir t.msg t.at_
    if d = 4 then none else (stepField t.at_ d).map fun g => (g, ⟨(d + 2) % 4, by omega⟩)

/-- A node input has room for a message of its class and plane: it holds 4 (R58). -/
def State.ctlRoom (s : State) (f : FieldIx) (i : Fin 5) (m : CtlMsg) : Bool :=
  decide ((s.ctl.filter fun t => t.at_ == f && t.inp == some i && ctlClass t.msg == ctlClass m && t.msg.plane == m.plane).length < 4)

/-- A word of the message that waits on the link into a node input has come with bad parity and is being retried (R62); a message that
gets through ends the retries. -/
def State.ctlClear (s : State) (f : FieldIx) (i : Fin 5) : State :=
  if h : i.val < 4 then s.modField f fun k => { k with ctlRetry := upd k.ctlRetry ⟨i.val, h⟩ fun _ => none } else s

/-- One message moves one node input on. -/
def State.ctlHop (s : State) (t : CtlTransit) : State :=
  if !s.ctlLeads t then s
  else
    match ctlNext t with
    | none => s
    | some (f, i) =>
      if !s.ctlRoom f i t.msg then s
      else
        let s1 := s.ctlClear f i
        { s1 with ctl := s1.ctl.erase t ++ [{ t with at_ := f, inp := some i }] }

/-- Every message gets one turn, class A first (R58). -/
def State.ctlHopAll (s : State) : State :=
  ((List.range 4).flatMap fun k => s.ctl.filter fun t => ctlClass t.msg == k).foldl State.ctlHop s

/-- Rounds of turns. -/
def State.ctlHops (s : State) : Nat → State
  | 0 => s
  | n + 1 => s.ctlHopAll.ctlHops n

/-- The nodes forward what they can, 32 rounds at most (log entry 56). -/
def State.ctlFlow (s : State) : State := s.ctlHops 32

/-- The messages that stand at a node they are bound for, each the oldest of its queue. -/
def State.ctlStanding (s : State) (f : FieldIx) : List CtlTransit :=
  s.ctl.filter fun t => t.at_ == f && t.inp.isSome && s.ctlLeads t && (ctlNext t).isNone

/-- The message with a property that a node serves next: none of a better class stands there (R58). -/
def State.ctlServed (s : State) (f : FieldIx) (ok : CtlMsg → Bool) : Option CtlTransit :=
  let ts := s.ctlStanding f
  ts.find? fun t => ok t.msg && ts.all fun x => decide (ctlClass t.msg ≤ ctlClass x.msg)

/-- A row of a control message: the nodes forward, and the message, when its node serves it, leaves its input for its effect. -/
def State.ctlArrive (s : State) (f : FieldIx) (ok : CtlMsg → Bool) (eff : State → State) : State :=
  let s1 := s.ctlFlow
  match s1.ctlServed f ok with
  | none => s1
  | some t => eff { s1 with ctl := s1.ctl.erase t }

end Sys2Proof.Machine
end

