-- ==== Sys2Proof/Machine/Functions.lean ====
section
/-! DEFINITION. The vector functions whose error Table NUM-7 bounds (R127): reciprocal, reciprocal square root, 2^*x*, *e*^*x*, log₂,
sigmoid and tanh. The exact value is computed far beyond FP32's precision; the result is the module's own choice (a free value)
where it lies within the bound, and the correctly rounded value where it does not. Special values follow IEEE 754-2019 (R125). -/

namespace Sys2Proof.Machine

/-! ## Fixed-point series -/

/-- One, in fixed point with 320 fraction bits. -/
def fixOne : Nat := 2 ^ 320

/-- *e*^*t* for *t* below 1, by 80 terms of its series. -/
def expFix (t : Nat) : Nat := (List.range 80).foldl (fun acc j => fixOne + t * acc / fixOne / (80 - j)) fixOne

/-- The natural logarithm of *y* between 1 and 2, by 110 terms of the series of its half-angle form. -/
def lnFix (y : Nat) : Nat :=
  let z := (y - fixOne) * fixOne / (y + fixOne)
  let zz := z * z / fixOne
  2 * z * (List.range 110).foldl (fun acc j => fixOne / (2 * (109 - j) + 1) + zz * acc / fixOne) 0 / fixOne

/-- The natural logarithm of 2. -/
def ln2Fix : Nat := lnFix (2 * fixOne)

/-- A finite value in fixed point, held to ±4,096. -/
def toFix (neg : Bool) (m : Nat) (e : Int) : Int :=
  max (-4096 * (fixOne : Int)) (min (4096 * (fixOne : Int)) (signInt neg (toMultiple .rtz m e (-320))))

/-- 2^*v* of a fixed-point number. -/
def exp2Fix (v : Int) : Val :=
  .fin false (expFix ((v % (fixOne : Int)).toNat * ln2Fix / fixOne)) (v / (fixOne : Int) - 320)

/-- *e*^*v* of a fixed-point number. -/
def expOfFix (v : Int) : Val := exp2Fix (v * (fixOne : Int) / (ln2Fix : Int))

/-- A value below 2 in fixed point, rounded down. -/
def Val.fix (v : Val) : Nat :=
  match v with
  | .fin _ m e => toMultiple .rtz m e (-320)
  | _ => 0

/-! ## The functions -/

/-- 1 / *x*, to 320 bits. -/
def Val.rcp (a : Val) : Val :=
  match a with
  | .nan => .nan
  | .inf s => .fin s 0 0
  | .fin s m e => if m = 0 then .inf s else .fin s (fixOne * 2 ^ Nat.log2 m / m) (-e - 320 - Nat.log2 m)

/-- 1 / √*x*, to 320 bits. -/
def Val.rsq (a : Val) : Val :=
  match a with
  | .nan => .nan
  | .inf s => if s then .nan else .fin false 0 0
  | .fin s m e =>
    if m = 0 then .inf s
    else if s then .nan
    else
      let odd := (e % 2).toNat
      .fin false (isqrt 400 (2 ^ 800 / (m * 2 ^ odd)) 0) (-400 - (e - odd) / 2)

/-- 2^*x* and *e*^*x*. -/
def Val.exp (base2 : Bool) (a : Val) : Val :=
  match a with
  | .nan => .nan
  | .inf s => if s then .fin false 0 0 else .inf false
  | .fin s m e => if base2 then exp2Fix (toFix s m e) else expOfFix (toFix s m e)

/-- log₂ *x*. -/
def Val.log2 (a : Val) : Val :=
  match a with
  | .nan => .nan
  | .inf s => if s then .nan else .inf false
  | .fin s m e =>
    if m = 0 then .inf true
    else if s then .nan
    else
      let l := Nat.log2 m
      Val.ofInt (((l : Int) + e) * (fixOne : Int) + (lnFix (toMultiple .rtz m (-(l : Int)) (-320)) * fixOne / ln2Fix : Nat)) (-320)

/-- 1 / (1 + *e*^−*x*); beyond ±256 the nearer limit stands. -/
def Val.sigm (a : Val) : Val :=
  match a with
  | .nan => .nan
  | .inf s => .fin false (ofFlag !s) 0
  | .fin s m e =>
    let v := max (-256 * (fixOne : Int)) (min (256 * (fixOne : Int)) (toFix (!s) m e))
    let n := (max 0 (v * 2 / (fixOne : Int))).toNat
    .fin false (fixOne * 2 ^ (n + 320) / (fixOne + (expOfFix v).fix)) (-((n + 320 : Nat) : Int))

/-- (1 − *e*^−2|*x*|) / (1 + *e*^−2|*x*|) with the sign of *x*; from ±256 on, ±1. -/
def Val.tanh (a : Val) : Val :=
  match a with
  | .nan => .nan
  | .inf s => .fin s 1 0
  | .fin s m e =>
    if m = 0 then a
    else
      let v := max (-256 * (fixOne : Int)) (toFix true m e)
      let x := (expOfFix (2 * v)).fix
      .fin s ((fixOne - x) * fixOne / (fixOne + x)) (-320)

/-- The exact value of the function FN 0x0A to 0x10 (Table CMD-8). -/
def fnExact (fn : Nat) (a : Val) : Val :=
  match fn with
  | 0x0A => a.rcp
  | 0x0B => a.rsq
  | 0x0C => a.exp true
  | 0x0D => a.exp false
  | 0x0E => a.log2
  | 0x0F => a.sigm
  | _ => a.tanh

/-- The largest error of the function, in ulp (Table NUM-7). -/
def fnUlps (fn : Nat) : Nat := if fn ≤ 0x0B then 1 else 2

/-- An FP32 result lies within `k` ulp of an exact value. -/
def withinUlps (k : Nat) (r y : Val) : Bool :=
  match r, y with
  | .fin _ m e, .fin _ _ _ =>
    let u : Int := if m = 0 then -149 else max (-149) ((Nat.log2 m : Int) + e - 23)
    !((Val.fin false k u).lt (y.sub r).abs)
  | _, _ => false

/-- The FP32 result of a function of Table NUM-7: the module's own within the bound, else correctly rounded (R127). -/
def vecFn (fn : Nat) (a : Val) : Val :=
  let r := fnExact fn a
  let y := fmtFP32.decode (Config.vecFn fn (BitVec.ofNat 32 (fmtFP32.encode .rne false a))).toNat
  if withinUlps (fnUlps fn) r y then y else r32 r

end Sys2Proof.Machine
end

