-- ==== Sys2Proof/Machine/Sync.lean ====
section
/-! DEFINITION. Synchronisation commands (Table CMD-13, R164 to R170), MSET (R145), the undefined opcode (R171) and the issue
of every command that spawns gangs. -/

namespace Sys2Proof.Machine

/-- A CTL command of one opcode: `cond` beside the header's wait condition, then `eff`, then its raise (R139, R165). -/
def State.issueCtl (s : State) (c : CoreIx) (t : TaskIx) (o : Nat) (cond : QEntry → Bool)
    (eff : State → QEntry → State) : State :=
  s.issueWith c t .ctl (isOp o) cond fun s e => (eff s e).finishNow c t .ctl e

/-- NOP (R139). -/
def execNop (c : CoreIx) (t : TaskIx) (s : State) : Host.Outcome State Fault Refusal :=
  .next (s.issueCtl c t 0x00 (fun _ => true) fun s _ => s)

/-- WAIT issues only when its counter is at least its 32-bit threshold (Table CMD-13, R165). -/
def execWait (c : CoreIx) (t : TaskIx) (s : State) : Host.Outcome State Fault Refusal :=
  .next (s.issueCtl c t 0x01 (fun e => decide (fld e.word 32 32 ≤ s.ctr c t (wCtr e.word))) fun s _ => s)

/-- CLR clears the counters of its mask; its own raise comes after (R138). -/
def execClr (c : CoreIx) (t : TaskIx) (s : State) : Host.Outcome State Fault Refusal :=
  .next (s.issueCtl c t 0x02 (fun _ => true) fun s e => s.clearCounters c t (fld e.word 0 64))

/-- ADD raises a counter by VAL (R73, R137). -/
def execAdd (c : CoreIx) (t : TaskIx) (s : State) : Host.Outcome State Fault Refusal :=
  .next (s.issueCtl c t 0x03 (fun _ => true) fun s e => s.raise c t (wCtr e.word) (fld e.word 0 32))

/-- The barrier arrival of a BARA: type 0x4 with ARG = BAR to the pitch unit at field 35 (R60, R167). -/
def arrivalMsg (c : CoreIx) (bar : BitVec 12) : CtlMsg :=
  { typ := 4, dest := 35, src := coreField c, bcast := false, plane := false, arg := bar, payload := [] }

/-- BARA sends a barrier arrival; releases seen before it no longer count for BARW (R167). -/
def execBara (c : CoreIx) (t : TaskIx) (s : State) : Host.Outcome State Fault Refusal :=
  .next (s.issueCtl c t 0x04 (fun _ => true) fun s e =>
    (s.tell (arrivalMsg c (wBar e.word))).modTask c t fun k =>
      { k with released := k.released.filter fun b => b != wBar e.word })

/-- BARW issues at a release of BAR that follows the context's latest BARA of it, or the launch (R167). -/
def execBarw (c : CoreIx) (t : TaskIx) (s : State) : Host.Outcome State Fault Refusal :=
  .next (s.issueCtl c t 0x05 (fun e => (s.task c t).released.contains (wBar e.word)) fun s _ => s)

/-- R168: pitch `p` has begun, or lies below the first pitch, and its boundary plus `off` has come on the core's replica. -/
def State.pitchReached (s : State) (c : CoreIx) (p off : Nat) : Bool :=
  s.running &&
    (decide (p < s.pit.entry)
      || (match s.pit.begins.find? fun b => b.1 == p with
          | some b => decide (b.2 + off ≤ s.coreCount c)
          | none => decide (p = s.pit.pnum + 1) && decide (s.pit.bound + off ≤ s.coreCount c)))

/-- TWAIT issues when GCNT reaches the boundary that begins pitch PNUM plus OFF (R168). -/
def execTwait (c : CoreIx) (t : TaskIx) (s : State) : Host.Outcome State Fault Refusal :=
  .next (s.issueCtl c t 0x06 (fun e => s.pitchReached c (wPnum e.word) (wOff e.word)) fun s _ => s)

/-- Every command fetched before index `i` has completed (Table CMD-13). -/
def Task.drained (k : Task) (i : Nat) : Bool :=
  k.cmds.all (fun x => decide (i ≤ x.index))
    && (k.mat ++ k.vec ++ k.str ++ k.ctl).all fun e => decide (i ≤ e.index)

/-- DRAIN issues when every earlier command of the context, in fetch order, has completed. -/
def execDrain (c : CoreIx) (t : TaskIx) (s : State) : Host.Outcome State Fault Refusal :=
  .next (s.issueCtl c t 0x07 (fun e => (s.task c t).drained e.index) fun s _ => s)

/-- MARK issues when its own wait condition is met; until then guard points examine it (R169). -/
def execMark (c : CoreIx) (t : TaskIx) (s : State) : Host.Outcome State Fault Refusal :=
  .next (s.issueCtl c t 0x08 (fun _ => true) fun s _ => s)

/-- END ends the context's slice for this launch (R170). -/
def execEndSlice (c : CoreIx) (t : TaskIx) (s : State) : Host.Outcome State Fault Refusal :=
  .next (s.issueCtl c t 0x0F (fun _ => true) fun s _ =>
    s.modTask c t fun k => { k with ended := true, active := false })

/-- MSET replaces the whole set of matrix parameters at issue (R145). -/
def execMset (c : CoreIx) (t : TaskIx) (s : State) : Host.Outcome State Fault Refusal :=
  .next (s.issueWith c t .mat (isOp 0x11) (fun _ => true) fun s e =>
    (s.modTask c t fun k => { k with mp := msetOf e.word }).finishNow c t .mat e)

/-- MMA issues with one gang per sub-tile, capturing the matrix parameters (R145, R148). -/
def execMma (c : CoreIx) (t : TaskIx) (s : State) : Host.Outcome State Fault Refusal :=
  .next (s.issueWith c t .mat (isOp 0x10) (fun _ => true) fun s e =>
    s.hold c t .mat e (matOp e.word (s.task c t).mp).nsub 0)

/-- SMMA issues with one gang per sub-tile (R148, R202). -/
def execSmma (c : CoreIx) (t : TaskIx) (s : State) : Host.Outcome State Fault Refusal :=
  .next (s.issueWith c t .mat (isOp 0x20) (fun _ => true) fun s e =>
    s.hold c t .mat e (matOp e.word (s.task c t).mp).nsub 0)

/-- A vector command issues with the gangs of R150. -/
def State.issueVec (s : State) (c : CoreIx) (t : TaskIx) (o : Nat) : State :=
  s.issueWith c t .vec (isOp o) (fun _ => true) fun s e => s.hold c t .vec e (vecOp e.word).gangs 0

/-- VOP (R150). -/
def execVop (c : CoreIx) (t : TaskIx) (s : State) : Host.Outcome State Fault Refusal := .next (s.issueVec c t 0x30)
/-- VRED (R150, R152). -/
def execVred (c : CoreIx) (t : TaskIx) (s : State) : Host.Outcome State Fault Refusal := .next (s.issueVec c t 0x31)
/-- VCVT (R150, R154). -/
def execVcvt (c : CoreIx) (t : TaskIx) (s : State) : Host.Outcome State Fault Refusal := .next (s.issueVec c t 0x32)
/-- VTOPK (R150, R153). -/
def execVtopk (c : CoreIx) (t : TaskIx) (s : State) : Host.Outcome State Fault Refusal := .next (s.issueVec c t 0x33)
/-- STREAM (R155). -/
def execStream (c : CoreIx) (t : TaskIx) (s : State) : Host.Outcome State Fault Refusal := .next (s.issueDesc c t 0x40)
/-- SMERGE (R213, R214). -/
def execSmerge (c : CoreIx) (t : TaskIx) (s : State) : Host.Outcome State Fault Refusal := .next (s.issueDesc c t 0x50)
/-- SCOMP (R209). -/
def execScomp (c : CoreIx) (t : TaskIx) (s : State) : Host.Outcome State Fault Refusal := .next (s.issueDesc c t 0x51)
/-- SEXPD (R210). -/
def execSexpd (c : CoreIx) (t : TaskIx) (s : State) : Host.Outcome State Fault Refusal := .next (s.issueDesc c t 0x52)
/-- SMASK (R211). -/
def execSmask (c : CoreIx) (t : TaskIx) (s : State) : Host.Outcome State Fault Refusal := .next (s.issueDesc c t 0x53)
/-- COLL (R161, R286). -/
def execColl (c : CoreIx) (t : TaskIx) (s : State) : Host.Outcome State Fault Refusal := .next (s.issueDesc c t 0x60)
/-- CAIRN (R162). -/
def execCairn (c : CoreIx) (t : TaskIx) (s : State) : Host.Outcome State Fault Refusal := .next (s.issueDesc c t 0x70)
/-- CCLOSE (R162). -/
def execCclose (c : CoreIx) (t : TaskIx) (s : State) : Host.Outcome State Fault Refusal := .next (s.issueDesc c t 0x71)
/-- SHA (R163). -/
def execSha (c : CoreIx) (t : TaskIx) (s : State) : Host.Outcome State Fault Refusal := .next (s.issueDesc c t 0x72)
/-- LEDGER (R164). -/
def execLedger (c : CoreIx) (t : TaskIx) (s : State) : Host.Outcome State Fault Refusal := .next (s.issueDesc c t 0x73)

/-- A word with an undefined opcode at the CTL head is illegal with code 0x01 and stops its task context (R171). -/
def execUndefinedOpcode (c : CoreIx) (t : TaskIx) (s : State) : Host.Outcome State Fault Refusal :=
  .next (s.issueWith c t .ctl (fun o => !opDefined o) (fun _ => false) fun s _ => s)

end Sys2Proof.Machine
end

