-- ==== Sys2Proof/Machine/Matrix.lean ====
section
/-! DEFINITION. What a matrix gang computes (R112, R114 to R117, R123, R124, R146 to R149, R192 to R208): the operands of a
sub-tile, the folio layouts dense and sparse (R196 to R199, R251), its accumulation and its output. -/

namespace Sys2Proof.Machine

/-- A byte of an array, zero past its end. -/
def byteAt (a : Array Byte) (i : Nat) : Nat := (a.getD i 0).toNat

/-- Element `i` of packed `w`-bit elements starting at byte `base` (R104). -/
def elemAt (a : Array Byte) (base w i : Nat) : Nat :=
  let b := base + i * w / 8
  bits (byteAt a b + 256 * byteAt a (b + 1) + 65536 * byteAt a (b + 2)) (i * w % 8) w

/-- Element `i` of a code below 0x9, whole bytes. -/
def wideAt (a : Array Byte) (base n i : Nat) : Nat :=
  leNat ((List.range n).map fun j => a.getD (base + i * n + j) 0)

/-- Element `i` of an element code. -/
def codeAt (code : Nat) (a : Array Byte) (base i : Nat) : Nat :=
  if isMx code then elemAt a base (elemBits code) i else wideAt a base (elemBytes code) i

/-! ## A rows -/

/-- The value of element `i` of an A row of `n` elements (R104, R105, R201). -/
def aVal (k : PairKind) (code n : Nat) (row : Array Byte) (i : Nat) : Val :=
  if k.mx then mxVal code (byteAt row (n / 4 * k.quad + i / 32)) (codeAt code row 0 i)
  else elemVal code (codeAt code row 0 i)

/-! ## Folios -/

/-- Element (*k*, *col*) of the dense folio at byte `b` (R251). -/
def denseVal (k : PairKind) (code : Nat) (fb : Array Byte) (b kp col : Nat) : Val :=
  if k.mx then
    mxVal code (byteAt fb (b + 192 * 48 * k.quad + 6 * col + kp / 32)) (codeAt code fb b (192 * kp + col))
  else elemVal code (codeAt code fb b (192 * kp + col))

/-- The 16-bit code word of 4 × 4 block `i` of a 2:4 folio (R196). -/
def code24 (k : PairKind) (fb : Array Byte) (i : Nat) : Nat :=
  let o := i * (2 * k.quad + 2) + 2 * k.quad
  byteAt fb o + 256 * byteAt fb (o + 1)

/-- Column `u`'s pair of kept positions in a code word (R196). -/
def pairOf (cw u : Nat) : Nat × Nat := (bits cw (4 * u) 2, bits cw (4 * u + 2) 2)

/-- The scale of column `col`, dense block `b` of an MX 2:4 or 1:4 folio (R199). -/
def sparseScale (fb : Array Byte) (base per kp col : Nat) : Nat := byteAt fb (base + col * per + kp / 32)

/-- The kept value at (*k*, *col*) of a 2:4 folio, none where pruned (R196, R199). -/
def val24 (k : PairKind) (code : Nat) (fb : Array Byte) (kp col : Nat) : Option Val :=
  let i := kp / 4 * 48 + col / 4
  let u := col % 4
  let p := pairOf (code24 k fb i) u
  let slot := if p.1 = kp % 4 then some (2 * u) else if p.2 = kp % 4 then some (2 * u + 1) else none
  slot.map fun j =>
    let w := codeAt code fb (i * (2 * k.quad + 2)) j
    if k.mx then mxVal code (sparseScale fb (4608 * (2 * k.quad + 2)) 12 kp col) w else elemVal code w

/-- The kept value at (*k*, *col*) of a 1:4 folio (R197, R199). -/
def val14 (k : PairKind) (code : Nat) (fb : Array Byte) (kp col : Nat) : Option Val :=
  let i := kp / 4 * 48 + col / 4
  let u := col % 4
  if bits (byteAt fb (i * (k.quad + 1) + k.quad)) (2 * u) 2 = kp % 4 then
    let w := codeAt code fb (i * (k.quad + 1)) u
    some (if k.mx then mxVal code (sparseScale fb (6912 * (k.quad + 1)) 18 kp col) w else elemVal code w)
  else none

/-- MAP of a block-mask folio (R198). -/
def blockMap (fb : Array Byte) : Nat := byteAt fb 0 + 256 * byteAt fb 1 + 65536 * byteAt fb 2

/-- The value at (*k*, *col*) of a block-mask folio: the present blocks follow in ascending order as one dense folio whose
reduction positions are the present ones (R198, R252). -/
def valBlock (k : PairKind) (code : Nat) (fb : Array Byte) (kp col : Nat) : Option Val :=
  let map := blockMap fb
  let b := kp / 32
  if bit map b then
    let n := countBits 18 map
    let r := 32 * countBits b map + kp % 32
    let w := codeAt code fb 256 (192 * r + col)
    some (if k.mx then
        mxVal code (byteAt fb (256 + 192 * 32 * n / 4 * k.quad + n * col + r / 32)) w
      else elemVal code w)
  else none

/-- R200: the folio is bad at load. -/
def folioBad (k : PairKind) (o : MatOp) (fb : Array Byte) : Bool :=
  if !o.sparse || o.sdir == 2 then false
  else if o.spat == 0 then
    let n := if o.sdir == 1 then 2304 else 4608
    (List.range n).any fun i =>
      let cw := code24 k fb i
      (List.range 4).any (fun u => decide ((pairOf cw u).2 ≤ (pairOf cw u).1))
        || (o.sdir == 1 && (List.range 4).any fun q =>
              ((List.range 4).filter fun u => (pairOf cw u).1 == q || (pairOf cw u).2 == q).length != 2)
  else if o.spat == 2 then
    decide (6 < countBits 18 (blockMap fb))
      || (List.range 256).any fun i => decide (2 < i) && byteAt fb i != 0 || (i == 2 && byteAt fb 2 / 4 != 0)
  else false

/-- The value a forward or masked-output folio holds at dense position `kp` of column `col`, none where pruned. -/
def folioVal (k : PairKind) (code : Nat) (o : MatOp) (fb : Array Byte) (kp col : Nat) : Option Val :=
  if !o.sparse then some (denseVal k code fb 0 kp col)
  else if o.sdir == 2 then
    some (denseVal k code fb (if col < 192 then 0 else denseFolio k) kp (col % 192))
  else if o.spat == 0 then val24 k code fb kp col
  else if o.spat == 1 then val14 k code fb kp col
  else valBlock k code fb kp col

/-! ## Groups and accumulation -/

/-- Products of one accumulation group: A element and folio element at the kept positions. -/
def truncProducts (ps : List Val) : List Val :=
  let fin := ps.filter fun p => !p.isZero && !p.isNaN && (match p with
    | .inf _ => false
    | _ => true)
  match fin with
  | [] => ps
  | p0 :: rest =>
    let emax := rest.foldl (fun a p => max a (floorLog2 p)) (floorLog2 p0)
    ps.map fun p => match p with
      | .fin s m e => .fin s (toMultiple .rtz m e (emax - 47)) (emax - 47)
      | v => v

/-- The exact sum of a list, starting from +0. -/
def exactSum (ps : List Val) : Val := ps.foldl Val.add (.fin false 0 0)

/-- One group of R112 added into the accumulator. -/
def fastGroup (k : PairKind) (acc : Val) (ps : List Val) : Val :=
  if ps.isEmpty then acc
  else r32 (acc.add (r32 (exactSum (if k.wide then truncProducts ps else ps))))

/-- The products of group `g` of one folio. -/
def groupOf (k : PairKind) (span : Nat) (a : Nat → Val) (w : Nat → Option Val) (g : Nat) : List Val :=
  let n := if k.wide then 8 else 32
  (List.range n).filterMap fun i =>
    let kp := g * n + i
    if kp < span then (w kp).map fun v => (a kp).mul v else none

/-- What an element's accumulation gives: what the accumulator array holds, whether it is poisoned, and the events it counts. -/
structure ElemOut where
  acc     : AccElem
  poison  : Bool
  inexact : Nat
  ovf     : Bool
  mism    : Bool

/-- The output bytes of a value in an OFMT (R107, R108, R124). -/
def outEncode (ofmt : Nat) (sat : Bool) (v : Val) : List Byte :=
  match floatFmt ofmt with
  | some f => leBytes (f.width / 8) (f.encode .rne sat (if v.isZero then .fin false 0 0 else v))
  | none => []

/-- The output bytes of an accumulator element: its epilogue scale and its one rounding, or its exact partial (R117, R146, R149). -/
def drainElem (o : MatOp) (k : PairKind) : AccElem → List Byte
  | .fast v => outEncode o.ofmt o.sat (v.scale o.mp.esc)
  | .exact e => if o.ofmt = 5 then EP.lay k.wide { e with l := e.l + o.mp.esc } else outEncode o.ofmt o.sat (e.value.scale o.mp.esc)

/-- An element accumulated in fast mode (R112, R149). `gs` lists the groups of products in order. -/
def fastElem (o : MatOp) (k : PairKind) (start : List Byte) (gs : List (List Val)) : ElemOut :=
  let acc0 := if o.acc then fmtFP32.decode (leNat start) else .fin false 0 0
  { acc := .fast (gs.foldl (fastGroup k) acc0), poison := false, inexact := 0, ovf := false, mism := false }

/-- An element accumulated in anchored mode (R114 to R116, R120, R123, R149). -/
def anchElem (o : MatOp) (k : PairKind) (start : List Byte) (gs : List (List Val)) : ElemOut :=
  let wd := if k.wide then 1 else 0
  let ps := gs.flatten
  let z := EP.zero wd (o.weight k)
  let sum := ps.foldl EP.enter z
  let n := (ps.filter fun p => z.rounds p).length
  let r := if o.acc then (EP.ofBytes k.wide start).add k.wide sum else (sum, false)
  let e := r.1
  { acc := .exact e, poison := e.poison, inexact := n, ovf := e.ovf && !(o.acc && (EP.ofBytes k.wide start).ovf), mism := r.2 }

/-! ## A sub-tile -/

/-- The result of a gang before it is written: the rows of its accumulators with their offsets from the output operand's base and the
elements that are poisoned, the folios it applied, and the counts it adds. -/
structure TileOut where
  rows    : List (Nat × List (AccElem × Bool))
  folios  : List FolioBuf
  badFol  : Nat
  inexact : Nat
  ovf     : Nat
  mism    : Nat

/-- A carrel's rack address with an offset, as a key of local memory. -/
def State.opAddr (s : State) (c : CoreIx) (t : TaskIx) (car : Fin 8) (off : Nat) : Nat :=
  addrLocal (((s.task c t).data car).base.toNat + off)

/-- The bytes of folio `f` of sub-tile `j` (R147, R205) and whether a granule of it is poisoned. A transposed folio is its
two halves end to end. -/
def State.folioArr (s : State) (c : CoreIx) (t : TaskIx) (o : MatOp) (k : PairKind) (j f : Nat) :
    Array Byte × Array Byte × Bool :=
  let at_ (i n : Nat) : Nat × Nat := (s.opAddr c t o.wcar (o.folioAt k j f i), n)
  if o.sparse && o.sdir == 1 then
    let h := folioBytes k true 0 1 / 2
    let a0 := at_ 0 h
    let a1 := at_ 1 h
    ((s.mem.read a0.1 h).toArray, (s.mem.read a1.1 h).toArray, s.mem.anyPoison a0.1 h || s.mem.anyPoison a1.1 h)
  else
    let n := folioBytes k o.sparse o.spat o.sdir
    let a := at_ 0 n
    ((s.mem.read a.1 n).toArray, #[], s.mem.anyPoison a.1 n)

/-- The value that multiplies A element `kp` for output column `col` (R193, R205, R207). `row` is the code area of the output
row under SDIR 2. -/
def State.wVal (k : PairKind) (code : Nat) (o : MatOp) (row : Array Byte) (fa fb : Array Byte) (col kp : Nat) :
    Option Val :=
  if o.sparse && o.sdir == 1 then
    -- K position kp of the transposed product is forward column kp; output col is forward K position col of the half
    let half := if kp < 192 then fa else fb
    val24 k code half col (kp % 192)
  else if o.sparse && o.sdir == 2 then
    let q := col / 2
    let p := bits (byteAt row (q / 2)) (4 * (q % 2)) 4
    folioVal k code o fa kp (4 * q + (if col % 2 = 0 then p % 4 else p / 4))
  else folioVal k code o fa kp col

/-- The span of a folio in K positions. -/
def MatOp.span (o : MatOp) : Nat := foldSpan o.sparse o.spat o.sdir

/-- The code area of a row is bad: some pair has *p*0 ≥ *p*1 (R207). -/
def areaBad (row : Array Byte) : Bool :=
  (List.range 96).any fun q =>
    let p := bits (byteAt row (q / 2)) (4 * (q % 2)) 4
    decide (p / 4 ≤ p % 4)

/-- Sub-tile `j` of a matrix command (R147 to R149, R205 to R207). -/
def State.subTile (s : State) (c : CoreIx) (t : TaskIx) (o : MatOp) (k : PairKind) (anch : Bool) (j : Nat) : TileOut :=
  let ec := pairElems o.pair
  let r := rowBytes k o.span
  let ob := outBytes k o.ofmt
  let masked := o.sparse && o.sdir == 2
  let fols := (List.range o.nfol).map fun f => s.folioArr c t o k j f
  let bad (x : Array Byte × Array Byte × Bool) : Bool := folioBad k o x.1 || (o.sparse && o.sdir == 1 && folioBad k o x.2.1)
  let badN := (fols.filter bad).length
  let area (i : Nat) : Nat := s.opAddr c t o.ocar (o.ooff + j * o.outTile k + i * o.outRow k)
  let allBad := badN != 0 || fols.any (fun x => x.2.2)
    || (masked && (List.range o.m).any fun i => s.mem.anyPoison (area i) 48)
  let rows := (List.range o.m).map fun i =>
    let as := (List.range o.nfol).map fun f => s.opAddr c t o.acar (o.aoff + f * o.panel k + i * r)
    let arrs := as.map fun a => (s.mem.read a r).toArray
    let codes := if masked then (s.mem.read (area i) 48).toArray else #[]
    let rowBad := allBad || as.any (fun a => s.mem.anyPoison a r) || (masked && areaBad codes)
    let base := area i + (if masked then 48 else 0)
    let outs := (List.range 192).map fun col =>
      let gs := (arrs.zip fols).flatMap fun x =>
        (List.range (ceilDiv o.span (if k.wide then 8 else 32))).map fun g =>
          groupOf k o.span (aVal k ec.1 o.span x.1) (State.wVal k ec.2 o codes x.2.1 x.2.2.1 col) g
      let start := if o.acc then s.mem.read (base + col * ob) ob else []
      let e := if anch then anchElem o k start gs else fastElem o k start gs
      { e with poison := e.poison || rowBad || (o.acc && s.mem.anyPoison (base + col * ob) ob) }
    (o.ooff + j * o.outTile k + i * o.outRow k + (if masked then 48 else 0), outs)
  { rows := rows.map fun x => (x.1, x.2.map fun e => (e.acc, e.poison))
    folios := fols.map fun x => { bytes := x.1.toList ++ x.2.1.toList, bad := bad x || x.2.2 }
    badFol := badN
    inexact := (rows.map fun x => (x.2.map ElemOut.inexact).sum).sum
    ovf := (rows.map fun x => (x.2.filter ElemOut.ovf).length).sum
    mism := (rows.map fun x => (x.2.filter ElemOut.mism).length).sum }

/-- The rows of a sub-tile joined into one write where they are contiguous (R147). -/
def joinWrites (masked : Bool) (ws : List (Nat × List Byte × List (Nat × Nat))) :
    List (Nat × List Byte × List (Nat × Nat)) :=
  if masked then ws
  else match ws with
    | [] => []
    | w :: _ =>
      [(w.1, ws.flatMap (fun x => x.2.1), ws.flatMap fun x => x.2.2.map fun p => (x.1 - w.1 + p.1, p.2))]

/-- Events of one local code logged `n` times (R475 coalesces them). -/
def State.coreEvents (s : State) (c : CoreIx) (loc : Nat) : Nat → State
  | 0 => s
  | n + 1 => (s.coreEvent c 1 1 loc).coreEvents c loc n

/-- A folio enters the buffer that is not in use, which then comes into use (R79). -/
def Engine.load (e : Engine) (f : FolioBuf) : Engine :=
  let b : Fin 2 := if e.inUse = 0 then 1 else 0
  { e with bufs := e.bufs.set b f, inUse := b }

/-- An engine of a core rewritten. -/
def State.modEngine (s : State) (c : CoreIx) (i : Fin 4) (f : Engine → Engine) : State :=
  s.modCore c fun k => { k with engines := upd k.engines i f }

/-- A sub-tile's folios pass through its engine's buffers, and its sums stand in the accumulator array (R79, R80). -/
def State.applyTile (s : State) (c : CoreIx) (e : Fin 4) (g : SlotIx) (r : TileOut) : State :=
  s.modEngine c e fun k => { r.folios.foldl Engine.load k with acc := k.acc ++ [(g, r.rows.map fun x => x.2.map Prod.fst)] }

/-- The rows of a gang in its engine's accumulator array. -/
def State.accRows (s : State) (c : CoreIx) (e : Fin 4) (g : SlotIx) : List (List AccElem) :=
  match ((s.core c).engines[e]).acc.find? fun x => x.1 == g with
  | some x => x.2
  | none => []

/-- A sub-tile drains: its rows leave the accumulator array through the epilogue and are written (R83, R129, R147). -/
def State.drainTile (s : State) (c : CoreIx) (t : TaskIx) (e : Fin 4) (g : SlotIx) (o : MatOp) (k : PairKind) (r : TileOut) : State :=
  let ob := outBytes k o.ofmt
  let ws := (r.rows.zip (s.accRows c e g)).map fun x =>
    (x.1.1, x.2.flatMap (drainElem o k), ((x.1.2.zipIdx).filter fun y => y.1.2).map fun y => (y.2 * ob, ob))
  ((joinWrites (o.sparse && o.sdir == 2) ws).foldl (fun s x => s.coreStore c (s.opAddr c t o.ocar x.1) x.2.1 x.2.2) s).modEngine c e
    fun y => { y with acc := y.acc.filter fun z => z.1 != g }

/-- A matrix gang ends: its sub-tile is computed in its engine, drained and counted (R115, R116, R129, R200). -/
def State.matrixDone (s : State) (c : CoreIx) (t : TaskIx) (w : W128) (mp : MatParams) (anch : Bool) (e : Fin 4) (g : SlotIx)
    (j : Nat) : State :=
  let o := matOp w mp
  match pairKind o.pair with
  | none => s
  | some k =>
    let r := s.subTile c t o k anch j
    let s2 := ((s.applyTile c e g r).drainTile c t e g o k r).modCnt c fun n =>
      { n with inexact := bump n.inexact r.inexact, ovf := bump n.ovf r.ovf, badCode := bump n.badCode r.badFol }
    (s2.coreEvents c 0x24 r.badFol).coreEvents c 0x23 r.mism

/-! ## Times of a matrix gang (R82, R83, R201 to R203, Table CMD-18), in seventeenths of a ns, 10 to a cycle of 1.7 GHz -/

/-- Twice the cycles per row of Table COR-6. -/
def rowTime2 (k : PairKind) (anch : Bool) : Nat :=
  (match k with
    | .mx4 => 1
    | .bf16 => 4
    | .fp16 => 4
    | _ => 2) * (if anch then 2 else 1)

/-- Twice the bytes of A and of codes that a row of a group of `g` gangs reads on each port (R203), times `g`. -/
def rowReads2 (o : MatOp) (k : PairKind) (g : Nat) : Nat := 2 * rowBytes k o.span + 2 * (if o.sdir = 2 then 48 else 0) * g

/-- The core cycles for which an engine of a group of `g` applies one folio; fractions of a cycle are rounded up (log entry 58). -/
def folioCycles (o : MatOp) (k : PairKind) (anch : Bool) (g : Nat) : Nat :=
  let c2 := rowTime2 k anch
  let num := rowReads2 o k g
  let w := folioBytes k o.sparse o.spat o.sdir
  if o.sparse && decide (192 * c2 * g < num) then max (ceilDiv (o.m * num) (384 * g)) (ceilDiv w 64)
  else max (ceilDiv (o.m * c2) 2) (ceilDiv (w * g * c2) (256 * g * c2 - num))

/-- When a gang that starts now has applied its last folio (R82). -/
def applyTime (o : MatOp) (k : PairKind) (anch : Bool) (g : Nat) : Nat :=
  10 * (ceilDiv (folioBytes k o.sparse o.spat o.sdir) 256 + o.nfol * folioCycles o k anch g)

/-- How long its rows then drain (R83). -/
def drainTime (o : MatOp) (k : PairKind) : Nat :=
  10 * max (3 * o.m * (if o.acc then 2 else 1)) (ceilDiv (o.m * 192 * outBytes k o.ofmt) 256)

/-- Accumulator bytes of a sub-tile (Table COR-5). -/
def accBytes (o : MatOp) (k : PairKind) (anch : Bool) : Nat := o.m * (if !anch then 768 else if k.wide then 13824 else 3840)

/-- The bytes of an engine's accumulator array (R79). -/
def accSize : Nat := 0x200000

/-- The core cycles a group of `g` gangs loses to row-time stretch over its folios (R203), in whole cycles. -/
def stretch (o : MatOp) (k : PairKind) (anch : Bool) (g : Nat) : Nat :=
  let c2 := rowTime2 k anch
  let num := rowReads2 o k g
  if 192 * c2 * g < num then o.nfol * o.m * (num - 192 * c2 * g) / (384 * g) else 0

end Sys2Proof.Machine
end

