-- ==== Sys2Proof/Machine/Vector.lean ====
section
/-! DEFINITION. What a vector gang computes (R121, R125 to R127, R150 to R154): element-wise functions, conversions, reductions
and top-k, with poison carried element by element (R129). -/

namespace Sys2Proof.Machine

/-- An operand range in local memory: its bytes and which of them lie in poisoned granules. -/
structure Operand where
  bytes : Array Byte
  bad   : List (Nat × Nat)

/-- `n` bytes of an operand. -/
def State.operand (s : State) (c : CoreIx) (t : TaskIx) (car : Fin 8) (off n : Nat) : Operand :=
  let a := s.opAddr c t car off
  { bytes := (s.mem.read a n).toArray, bad := s.mem.poisonIn a n }

/-- Bytes `o .. o + n - 1` of an operand touch poison. -/
def Operand.badAt (x : Operand) (o n : Nat) : Bool :=
  x.bad.any fun r => decide (r.1 < o + n) && decide (o < r.1 + r.2)

/-- An FP32 encoding of a value. -/
def to32 (v : Val) : W32 := BitVec.ofNat 32 (fmtFP32.encode .rne false v)

/-- A floating function on widened operands, rounded to FP32 (R125, R127, Table CMD-8). -/
def floatOp (fn : Nat) (a b d : Val) : Val :=
  match fn with
  | 0x00 => r32 (a.add b)
  | 0x01 => r32 (a.sub b)
  | 0x02 => r32 (a.mul b)
  | 0x03 => r32 ((a.mul b).add d)
  | 0x04 => a.minimum b
  | 0x05 => a.maximum b
  | 0x06 => a.abs
  | 0x07 => a.neg
  | 0x08 => a.div b
  | 0x09 => a.sqrt
  | 0x1B => if d.isZero then b else a
  | 0x3F => a
  | _ => vecFn fn a

/-- A comparison (Table CMD-8): a NaN compares false. -/
def compareOp (fn : Nat) (a b : Val) : Bool :=
  match fn with
  | 0x18 => a.lt b
  | 0x19 => a.lt b || a.eqv b
  | _ => a.eqv b

/-- The encoding of a comparison in DFMT. -/
def boolElem (dfmt : Nat) (p : Bool) : Nat :=
  if dfmt = 6 then (if p then 0xFFFFFFFF else 0)
  else valElem dfmt .rne false (if p then .fin false 1 0 else .fin false 0 0)

/-- One element of a VOP: its bytes, its own poison, an overflow and an anchor mismatch (R120, R125, R126, R151). -/
def vopElem (o : VecOp) (a b d : List Byte) : List Byte × Bool × Bool × Bool :=
  let n := elemBytes o.dfmt
  let wa := leNat a
  let wb := leNat b
  if o.fn = 0x30 then
    let wide := o.sfmt == 8
    let x := EP.ofBytes wide a
    let y := EP.ofBytes wide b
    let r := x.add wide y
    (r.1.lay wide, r.1.poison, r.1.ovf && !x.ovf && !y.ovf, r.2)
  else if 0x20 ≤ o.fn ∧ o.fn ≤ 0x2A then
    (leBytes n (intElem o.dfmt (intFn o.fn (intOf o.sfmt wa) (intOf o.sfmt wb))), false, false, false)
  else if o.fn = 0x3F ∧ o.sfmt = 6 then (a, false, false, false)
  else if 0x18 ≤ o.fn ∧ o.fn ≤ 0x1A then
    (leBytes n (boolElem o.dfmt (compareOp o.fn (elemVal o.sfmt wa) (elemVal o.sfmt wb))), false, false, false)
  else
    (leBytes n (valElem o.dfmt .rne o.sat
      (floatOp o.fn (elemVal o.sfmt wa) (elemVal o.sfmt wb) (elemVal o.dfmt (leNat d)))), false, false, false)

/-- A gang's write: offset from the destination carrel's operand base, bytes, poisoned ranges, and its counts. -/
structure VecOut where
  off   : Nat
  bytes : List Byte
  bad   : List (Nat × Nat)
  ovf   : Nat := 0
  mism  : Nat := 0

/-- `n` bytes of an array from `o`. -/
def part (a : Array Byte) (o n : Nat) : List Byte := (List.range n).map fun i => a.getD (o + i) 0

/-- Rows `r0 .. r0 + n - 1` of a VOP. -/
def State.vopRows (s : State) (c : CoreIx) (t : TaskIx) (o : VecOp) (r0 n : Nat) : VecOut :=
  let sb := elemBytes o.sfmt
  let db := elemBytes o.dfmt
  let x := s.operand c t o.s1car (o.s1off + r0 * 64 * sb) (n * 64 * sb)
  let two := !unary o.fn
  let y := if !two then { bytes := #[], bad := [] }
    else if o.bc then s.operand c t o.s2car o.s2off sb
    else s.operand c t o.s2car (o.s2off + r0 * 64 * sb) (n * 64 * sb)
  let d := if readsD o.fn then s.operand c t o.dcar (o.doff + r0 * 64 * db) (n * 64 * db)
    else { bytes := #[], bad := [] }
  let es := (List.range (n * 64)).map fun i =>
    let j := if o.bc then 0 else i * sb
    let e := vopElem o (part x.bytes (i * sb) sb) (part y.bytes j sb) (part d.bytes (i * db) db)
    (e.1, e.2.1 || x.badAt (i * sb) sb || (two && y.badAt j sb) || (readsD o.fn && d.badAt (i * db) db), e.2.2)
  { off := o.doff + r0 * 64 * db
    bytes := es.flatMap fun e => e.1
    bad := (es.zipIdx.filter fun e => e.1.2.1).map fun e => (e.2 * db, db)
    ovf := (es.filter fun e => e.2.2.1).length
    mism := (es.filter fun e => e.2.2.2).length }

/-- The exact source values of a VCVT over rows `r0 .. r0 + n - 1`, each with its poison (R117, R151, R154). A VCVT reads an exact
partial in the form SFMT names, whatever WIDTH its tag holds (DESIGN CHOICE, log entry 36). -/
def State.vcvtSrc (s : State) (c : CoreIx) (t : TaskIx) (o : VecOp) (r0 n : Nat) : List (Val × Bool) :=
  let x := s.operand c t o.s1car (o.s1off + rowsBytes o.sfmt r0) (rowsBytes o.sfmt n)
  (List.range (n * 64)).map fun i =>
    if isMx o.sfmt then
      let b := i / 192 * mxRow o.sfmt
      let e := i % 192
      let vb := 24 * elemBits o.sfmt
      let so := b + vb + e / 32
      let w := elemAt x.bytes b (elemBits o.sfmt) e
      (mxVal o.sfmt (byteAt x.bytes so) w,
        x.badAt so 1 || x.badAt (b + e * elemBits o.sfmt / 8) ((e * elemBits o.sfmt % 8 + elemBits o.sfmt + 7) / 8))
    else if isEp o.sfmt then
      let w := elemBytes o.sfmt
      let e := EP.ofBytes (o.sfmt == 8) (part x.bytes (i * w) w)
      (e.value, e.poison || x.badAt (i * w) w)
    else
      let w := elemBytes o.sfmt
      (elemVal o.sfmt (leNat (part x.bytes (i * w) w)), x.badAt (i * w) w)

/-- One MX A-operand row from 192 values (R104, R106, R154): its bytes and poisoned ranges. -/
def mxRowOut (code : Nat) (r : Rnd) (vs : List (Val × Bool)) : List Byte × List (Nat × Nat) :=
  let w := elemBits code
  let bs := (List.range 6).map fun b => (vs.drop (32 * b)).take 32
  let qs := bs.map fun b => mxQuantise code r (b.map Prod.fst)
  let vb := 24 * w
  (packElems w (qs.flatMap Prod.snd) ++ qs.map fun q => BitVec.ofNat 8 q.1,
    (bs.zipIdx.filter fun b => b.1.any Prod.snd).flatMap fun b => [(4 * w * b.2, 4 * w), (vb + b.2, 1)])

/-- The rows of a list cut into runs of `n`. -/
def runsOf {α : Type} (n : Nat) : Nat → List α → List (List α)
  | 0, _ => []
  | k + 1, xs => xs.take n :: runsOf n k (xs.drop n)

/-- Rows of a VCVT (R154). -/
def State.vcvtRows (s : State) (c : CoreIx) (t : TaskIx) (o : VecOp) (r0 n : Nat) : VecOut :=
  let r := if o.rtz then Rnd.rtz else Rnd.rne
  let vs := s.vcvtSrc c t o r0 n
  let off := o.doff + rowsBytes o.dfmt r0
  if isMx o.dfmt then
    let rows := (runsOf 192 (n / 3) vs).map (mxRowOut o.dfmt r)
    { off := off, bytes := rows.flatMap Prod.fst
      bad := rows.zipIdx.flatMap fun x => x.1.2.map fun p => (x.2 * mxRow o.dfmt + p.1, p.2) }
  else
    let w := elemBytes o.dfmt
    { off := off, bytes := vs.flatMap fun v => leBytes w (valElem o.dfmt r o.sat v.1)
      bad := (vs.zipIdx.filter fun v => v.1.2).map fun v => (v.2 * w, w) }

/-- The fast-mode lane operation of a VRED (R152). -/
def redOp (fn : Nat) (a b : Val) : Val :=
  match fn with
  | 1 => a.maximum b
  | 2 => a.minimum b
  | _ => r32 (a.add b)

/-- Lanes combined in pairs at distance `d` (R152 step 2). -/
def combine (fn d : Nat) (ls : List Val) : List Val :=
  (List.range d).map fun l => redOp fn (ls.getD l .nan) (ls.getD (l + d) .nan)

/-- A group reduced in the order of R152: lanes in row order, then pairs at 32, 16, 8, 4, 2, 1. -/
def reduceFast (fn : Nat) (vs : List Val) : Val :=
  let lanes := (List.range 64).map fun l =>
    let mine := (List.range (vs.length / 64)).map fun r => vs.getD (64 * r + l) .nan
    match mine with
    | [] => .nan
    | v :: rest => rest.foldl (redOp fn) v
  ([32, 16, 8, 4, 2, 1].foldl (fun ls d => combine fn d ls) lanes).getD 0 .nan

/-- Group `g` of a VRED: the value in DFMT (R121, R152). -/
def State.vredGroup (s : State) (c : CoreIx) (t : TaskIx) (o : VecOp) (anch : Bool) (g : Nat) : VecOut :=
  let sb := elemBytes o.sfmt
  let db := elemBytes o.dfmt
  let n := min o.rlen (o.rows - g * o.rlen)
  let x := s.operand c t o.s1car (o.s1off + g * o.rlen * 64 * sb) (n * 64 * sb)
  let vs := (List.range (n * 64)).map fun i => elemVal o.sfmt (leNat (part x.bytes (i * sb) sb))
  let sq := if o.fn = 3 then vs.map fun v => r32 (v.mul v) else vs
  let exact := anch && (o.fn == 0 || o.fn == 3)
  let e := sq.foldl EP.enter (EP.zero 1 vectorL)
  { off := o.doff + g * db
    bytes :=
      if exact then (if o.dfmt = 8 then e.toBytes else leBytes db (valElem o.dfmt .rne o.sat e.value))
      else leBytes db (valElem o.dfmt .rne o.sat (reduceFast o.fn sq))
    bad := if !x.bad.isEmpty || (exact && e.poison) then [(0, db)] else []
    ovf := if exact && e.ovf then 1 else 0 }

/-- `a` ranks before `b` in a top-k: by value, a NaN below −∞ (R153). -/
def ranksAbove (a b : Val) : Bool := if a.isNaN then false else if b.isNaN then true else b.lt a

/-- The first of the highest-ranked entries of a list. -/
def bestOf : List (Nat × Val) → Option (Nat × Val)
  | [] => none
  | x :: xs =>
    match bestOf xs with
    | none => some x
    | some y => if ranksAbove y.2 x.2 then some y else some x

/-- The top `k` entries in descending order, ties to the lower index (R153). -/
def topK : Nat → List (Nat × Val) → List (Nat × Val)
  | 0, _ => []
  | k + 1, xs =>
    match bestOf xs with
    | none => []
    | some x => x :: topK k (xs.filter fun y => y.1 != x.1)

/-- Group `g` of a VTOPK: its 64-byte record (R153). -/
def State.topkGroup (s : State) (c : CoreIx) (t : TaskIx) (o : VecOp) (g : Nat) : VecOut :=
  let sb := elemBytes o.sfmt
  let n := min o.rlen (o.rows - g * o.rlen)
  let x := s.operand c t o.s1car (o.s1off + g * o.rlen * 64 * sb) (n * 64 * sb)
  let vs := (List.range (n * 64)).map fun i => (i, elemVal o.sfmt (leNat (part x.bytes (i * sb) sb)))
  let top := topK (o.fn % 8 + 1) vs
  let ix (i : Nat) : Nat := match top[i]? with
    | some e => e.1
    | none => 0xFFFFFFFF
  let va (i : Nat) : Nat := match top[i]? with
    | some e => (to32 e.2).toNat
    | none => 0
  { off := o.doff + 64 * g
    bytes := (List.range 8).flatMap (fun i => leBytes 4 (ix i)) ++ (List.range 8).flatMap fun i => leBytes 4 (va i)
    bad := if x.bad.isEmpty then [] else [(0, 64)] }

/-- What gang `g` of a vector command writes (R150). -/
def State.vecGang (s : State) (c : CoreIx) (t : TaskIx) (o : VecOp) (anch : Bool) (g : Nat) : VecOut :=
  let r0 := g * o.gangRows
  let n := min o.gangRows (o.rows - r0)
  match o.opc with
  | 0x30 => s.vopRows c t o r0 n
  | 0x31 => s.vredGroup c t o anch g
  | 0x32 => s.vcvtRows c t o r0 n
  | _ => s.topkGroup c t o g

/-- *F* of Table CMD-8, in pipe cycles per row. -/
def vecF (o : VecOp) (anch : Bool) : Nat :=
  match o.opc with
  | 0x30 => if o.fn = 8 ∨ o.fn = 9 then 4 else if o.fn = 0xA ∨ o.fn = 0xB then 2 else if 0xC ≤ o.fn ∧ o.fn ≤ 0x10 then 3 else 1
  | 0x31 => if anch then 2 else 1
  | 0x32 => if isMx o.dfmt then 2 else 1
  | _ => 2

/-- The time of gang `g` of a vector command (Table CMD-18), in seventeenths of a ns. A remainder costs its own rows, and an MX
conversion counts its rows by A-operand row (log entry 58). -/
def vecTime (o : VecOp) (anch : Bool) (g : Nat) : Nat :=
  let mx : Bool := isMx o.sfmt || isMx o.dfmt
  let per := if mx then 3 else 1
  let src := rowsBytes o.sfmt per
  let grp := min o.rlen (o.rows - g * o.rlen)
  10 * (match o.opc with
    | 0x31 => 18 + grp * max (ceilDiv src 64) (vecF o anch)
    | 0x33 => 12 + grp * max (ceilDiv src 64) 2 + 8 * (o.fn % 8 + 1)
    | _ =>
      let r := src + (if o.opc == 0x30 && !unary o.fn && !o.bc then src else 0)
        + (if o.opc == 0x30 && readsD o.fn then rowsBytes o.dfmt per else 0)
      12 + ceilDiv (min o.gangRows (o.rows - g * o.gangRows)) per
        * max (ceilDiv r 64) (max (ceilDiv (rowsBytes o.dfmt per) 64) (vecF o anch)))

/-- A vector gang's results are written and counted. -/
def State.vectorDone (s : State) (c : CoreIx) (t : TaskIx) (w : W128) (anch : Bool) (g : Nat) : State :=
  let o := vecOp w
  let r := s.vecGang c t o anch g
  let s1 := s.coreStore c (s.opAddr c t o.dcar r.off) r.bytes r.bad
  (s1.modCnt c fun n => { n with ovf := bump n.ovf r.ovf }).coreEvents c 0x23 r.mism

end Sys2Proof.Machine
end

