-- ==== Sys2Proof/Machine/Transfer.lean ====
section
/-! DEFINITION. Moving data: reads and writes of segment gangs over own scratchpad, mesh, Morkan link and host port (R32, R38,
R71, R221, R223, R246, R391), belay credits and shapers (R157, R388 to R400), and the cairn additions of a segment (R159,
R331 to R334). -/

namespace Sys2Proof.Machine

/-! ## Cutting into packets -/

/-- The places where bytes `0 .. n - 1` bound for address `a` are cut: at 4,096-byte lines of the address and at the edges of
poisoned ranges, so that a packet is wholly poisoned or wholly clean (DESIGN CHOICE, log entry 12). -/
def edges (a n : Nat) (bad : List (Nat × Nat)) : List Nat :=
  let lines := (List.range (n / 4096 + 2)).map fun k => roundUp a 4096 + 4096 * k - a
  let marks := bad.flatMap fun r => [r.1, r.1 + r.2]
  (0 :: n :: lines ++ marks).foldl (fun l x => if x ≤ n then insertNat x l else l) []

/-- Consecutive cuts as (offset, length). -/
def spans : List Nat → List (Nat × Nat)
  | x :: y :: rest => (x, y - x) :: spans (y :: rest)
  | _ => []

/-- Whether a byte lies in a poisoned range. -/
def inBad (bad : List (Nat × Nat)) (o : Nat) : Bool := bad.any fun r => decide (r.1 ≤ o) && decide (o < r.1 + r.2)

/-- Bytes bound for `a` cut into packets: offset, length, poisoned. -/
def pieces (a n : Nat) (bad : List (Nat × Nat)) : List (Nat × Nat × Bool) :=
  (spans (edges a n bad)).map fun x => (x.1, x.2, inBad bad x.1)

/-- One more element in front of the packets of a reduce-add. -/
def consElem (w per : Nat) (o : Nat) (b : Bool) : List (Nat × Nat × Bool) → List (Nat × Nat × Bool)
  | [] => [(o, w, b)]
  | x :: rest => if x.2.2 == b && decide (x.2.1 + w ≤ per) then (o, x.2.1 + w, b) :: rest else (o, w, b) :: x :: rest

/-- The packets of a reduce-add: whole elements of `w` bytes, at most 4,096 bytes, wholly poisoned or wholly clean (log
entry 12). -/
def redPieces (w n : Nat) (bad : List (Nat × Nat)) : List (Nat × Nat × Bool) :=
  (List.range (n / w)).foldr (fun i l =>
    consElem w (4096 / w * w) (i * w) (bad.any fun r => decide (r.1 < i * w + w) && decide (i * w < r.1 + r.2)) l) []

/-- Bytes `o .. o + n - 1` overlaid on a buffer. -/
def overlay (buf : List Byte) (o : Nat) (bs : List Byte) : List Byte :=
  buf.take o ++ bs ++ buf.drop (o + bs.length)

/-! ## Where a rack address leads from a core -/

/-- The kinds of place a segment reads or writes. -/
inductive Dest where
  | own (a : Nat) | mesh | remote (m : Nat) | host (p : PortIx) (off : Nat) | archive (shard off : Nat) | nowhere
  deriving DecidableEq, Repr

/-- Where a rack address leads for core `c`. -/
def State.dest (s : State) (c : CoreIx) (a : Nat) : Dest :=
  if addrModule a ≠ s.glb.modIx.val then .remote (addrModule a)
  else
    match place a with
    | .scratch d _ => if d = c then .own (addrLocal a) else .mesh
    | .slice _ _ => .mesh
    | .stacks _ => .mesh
    | .host p o => .host p o
    | .archive k o => .archive k o
    | _ => .nowhere

/-- A core's traffic reaches the edge port of a context's sublink: its route holds no unreachable entry (R23, R52). -/
def State.edgeOpen (s : State) (c : CoreIx) (k : Ctx) (ctx : BitVec 16) : Bool :=
  s.reaches (coreField c) ⟨attachField k.group (ctxSub ctx) % 64, Nat.mod_lt _ (by decide)⟩

/-- A core's traffic reaches a host port (R52). -/
def State.hostOpen (s : State) (c : CoreIx) (p : PortIx) : Bool :=
  s.reaches (coreField c) ⟨hostField p % 64, Nat.mod_lt _ (by decide)⟩

/-- A core reaches host-tier bytes: they lie in the port's window and the port can be routed to (R52, R221). -/
def State.hostServes (s : State) (c : CoreIx) (p : PortIx) (a n : Nat) : Bool := !s.absentAt a n && s.hostOpen c p

/-! ## Requests -/

/-- The timeout of a tier in ns, from the value in force (Table MEM-10). -/
def State.timeoutOf (s : State) (k : ReqKind) : Nat :=
  let w := s.memu.timeEff.toNat
  match k with
  | .hostRead => 1000 * max 1 (bits w 0 12)
  | .hostFlush => 1000 * max 1 (bits w 0 12)
  | .archAck => 100000 * max 1 (bits w 22 10)
  | _ => 100000 * max 1 (bits w 12 10)

/-- A request recorded with a fresh id, which is its TAG; a write's packet is kept (R368). -/
def State.addReq (s : State) (k : ReqKind) (c : CoreIx) (g : SlotIx) (t : TaskIx) (cmd : Nat) (ctx : BitVec 16)
    (a off len : Nat) (pkt : Option LinkPacket := none) (nth : Nat := 0) : State :=
  { s with memu := { s.memu with
      nextReq := s.memu.nextReq + 1
      reqs := s.memu.reqs ++
        [{ id := s.memu.nextReq, kind := k, core := c, slot := g, task := t, cmd := cmd, ctx := ctx,
           addr := BitVec.ofNat 64 a, off := off, len := len, deadline := s.now + s.timeoutOf k, pkt := pkt, nth := nth }] } }

/-- A request by id. -/
def State.req? (s : State) (id : Nat) : Option Req := s.memu.reqs.find? fun r => r.id == id

/-- A request ends and its id is remembered, so that a late response is known (R246). -/
def State.endReq (s : State) (id : Nat) : State :=
  { s with memu := { s.memu with reqs := s.memu.reqs.filter fun r => r.id != id, ended := id :: s.memu.ended } }

/-- A mesh packet from core `c` for a gang of a command. -/
def State.meshBase (s : State) (c : CoreIx) (t : TaskIx) (cmd : Nat) (g : SlotIx) (a : Nat) (op : BitVec 4)
    (vc : Fin 4) (ctx : BitVec 16) : MeshPacket :=
  { addr := BitVec.ofNat 64 a, srcField := coreField c, srcCore := coreLocal c, region := s.region c, vc := vc,
    ord := false, mcast := false, x0 := 0, x1 := 0, y0 := 0, y1 := 0, cmask := 0, op := op, status := 0, ctx := ctx,
    rlen := 0, efmt := 0, anchored := false, epw := false, task := t, cmd := cmd, slot := g, tag := 0, last := false,
    body := [] }

/-! ## Reads of a gang -/

/-- Data arrives in a gang: overlaid at its place, poisoned or not (R129). -/
def Gang.arrive (x : Gang) (off : Nat) (bs : List Byte) (bad : Bool) : Gang :=
  { x with data := overlay x.data off bs, await := x.await - bs.length
           poison := if bad then x.poison ++ [(off, bs.length)] else x.poison }

/-- Data awaited that never comes is poisoned (R129, R246). -/
def Gang.lose (x : Gang) (off len : Nat) : Gang :=
  { x with await := x.await - len, poison := x.poison ++ [(off, len)] }

/-- A gang of a core rewritten. -/
def State.modGang (s : State) (c : CoreIx) (g : SlotIx) (f : Gang → Gang) : State :=
  s.modCore c fun k => k.modGang g f

/-- Remote reads outstanding on a context. -/
def State.remoteReads (s : State) (ctx : BitVec 16) : Nat :=
  (s.memu.reqs.filter fun r => r.kind == .remoteRead && r.ctx == ctx).length

/-- Host reads outstanding on a port. -/
def State.hostReads (s : State) (p : PortIx) : Nat :=
  (s.memu.reqs.filter fun r => r.kind == .hostRead && bits r.addr.toNat 48 1 == p.val).length

/-- Remote reads outstanding on a sublink. -/
def State.planeReads (s : State) (g : GroupIx) (u : SubIx) : Nat :=
  (s.memu.reqs.filter fun r => r.kind == .remoteRead && ctxSub r.ctx == u &&
    (match s.ctx? r.ctx with
     | some k => k.group == g
     | none => false)).length

/-- The PCIe address of a host-tier offset (R221, Table MEM-9). -/
def State.hostAddr (s : State) (p : PortIx) (off : Nat) : Nat :=
  ((s.memu.hostBase[p]).toNat / 4096 * 4096 + off) % 2 ^ 64

/-- One read of a gang requested, if limits allow: own scratchpad at once, mesh and link as request packets, host as memory
reads of at most 512 bytes. None when it must wait. -/
def State.readOne (s : State) (c : CoreIx) (g : SlotIx) (t : TaskIx) (cmd : Nat) (ctx : BitVec 16)
    (r : Nat × Nat × Nat) : Option State :=
  let a := r.1
  let n := r.2.1
  let off := r.2.2
  match s.dest c a with
  | .own l => some ((s.modGang c g fun x =>
      { (x.arrive off (s.view l n) false) with
        poison := x.poison ++ (s.mem.poisonIn l n).map fun p => (off + p.1, p.2) }).fresh n)
  | .mesh => some (s.post { s.meshBase c t cmd g a 0 3 ctx with rlen := n, tag := off })
  | .remote m =>
    match s.ctx? ctx with
    | none => some (s.modGang c g fun x => x.lose off n)
    | some k =>
      if !s.edgeOpen c k ctx then some (s.modGang c g fun x => x.lose off n)
      else if 64 ≤ s.remoteReads ctx ∨ 2048 ≤ s.planeReads k.group (ctxSub ctx) then none
      else
        let p := s.linkBase 0 5 (BitVec.ofNat 8 m) ((s.sendKey k.group (s.region c)).getD 0) ctx
        let p := { p with addr := BitVec.ofNat 64 a, tag := BitVec.ofNat 32 s.memu.nextReq, rlen := BitVec.ofNat 32 n }
        some ((s.addReq .remoteRead c g t cmd ctx a off n).sendLink k.group (ctxSub ctx) p)
  | .host p o =>
    if !s.hostServes c p a n then some (s.modGang c g fun x => x.lose off n)
    else if 1024 ≤ s.hostReads p then none
    else some ((s.addReq .hostRead c g t cmd ctx a off n).emit
      (.hostRead p (BitVec.ofNat 64 (s.hostAddr p o)) n))
  | _ => some (s.modGang c g fun x => x.lose off n)

/-- The reads of a gang requested in order until one must wait. -/
def State.readMany (s : State) (c : CoreIx) (g : SlotIx) (t : TaskIx) (cmd : Nat) (ctx : BitVec 16) :
    List (Nat × Nat × Nat) → State
  | [] => s.modGang c g fun x => { x with reads := [] }
  | r :: rs =>
    match s.readOne c g t cmd ctx r with
    | some s' => s'.readMany c g t cmd ctx rs
    | none => s.modGang c g fun x => { x with reads := r :: rs }

/-- `n` bytes from `a` at place `off`, cut at multiples of `m`. -/
def cutBy (m a n off : Nat) : List (Nat × Nat × Nat) :=
  let first := min n (m - a % m)
  let rest := n - first
  (if n = 0 then [] else [(a, first, off)]) ++
    (List.range (ceilDiv rest m)).map fun k => (a + first + m * k, min m (rest - m * k), off + first + m * k)

/-- A read of `n` bytes from `a` to place `off`, cut as its tier asks (R38, R221). -/
def cutRead (hostTier : Bool) (a n off : Nat) : List (Nat × Nat × Nat) := cutBy (if hostTier then 512 else 4096) a n off

/-- A gang starts reading the parts (rack address, length, place) of its data. -/
def State.startReads (s : State) (c : CoreIx) (g : SlotIx) (t : TaskIx) (cmd : Nat) (ctx : BitVec 16)
    (parts : List (Nat × Nat × Nat)) : State :=
  let n := (parts.map fun p => p.2.1).sum
  let cut := parts.flatMap fun p => cutRead (addrRange p.1 == 3) p.1 p.2.1 p.2.2
  (s.modGang c g fun x => { x with started := true, data := zeros n, poison := [], await := n }).readMany
    c g t cmd ctx cut

/-- Reads of a gang that waited on a limit go on. -/
def State.resumeReads (s : State) (c : CoreIx) (g : SlotIx) (ctx : BitVec 16) : State :=
  match (s.core c).gang? g with
  | some x => if x.reads.isEmpty then s else s.readMany c g x.task x.cmd ctx x.reads
  | none => s

/-! ## Writes of a command -/

/-- Acknowledgements a command waits for, raised. -/
def State.addAcks (s : State) (c : CoreIx) (t : TaskIx) (cmd n : Nat) : State :=
  s.modTask c t fun k => k.modCmd cmd fun x => { x with acks := x.acks + n }

/-- A write to the core's own scratchpad is acknowledged 12 cycles after it lands (Table CMD-18). -/
def State.ackSoon (s : State) (c : CoreIx) (t : TaskIx) (cmd : Nat) : State :=
  s.modTask c t fun k => k.modCmd cmd fun x => { x with ackAt := max x.ackAt (17 * s.now + 120) }

/-- One write acknowledged (R71, R247). -/
def State.ackOne (s : State) (c : CoreIx) (t : TaskIx) (cmd : Nat) : State :=
  s.modTask c t fun k => k.modCmd cmd fun x => { x with acks := x.acks - 1 }

/-- What every packet of a segment's writes carries. -/
structure Carry where
  ctx    : BitVec 16
  vc     : Nat
  ord    : Bool
  reduce : Bool
  efmt   : Nat
  anch   : Bool
  epw    : Bool
  rope   : BitVec 12
  last   : Bool
  deriving DecidableEq, Repr

/-- Plain copies on a VC. -/
def Carry.plain (ctx : BitVec 16) (vc : Nat) : Carry :=
  { ctx := ctx, vc := vc, ord := false, reduce := false, efmt := 0, anch := false, epw := false, rope := 0, last := true }

/-- The packets of a write or reduce-add: data offset, length, poisoned. -/
def Carry.cuts (k : Carry) (a n : Nat) (bad : List (Nat × Nat)) : List (Nat × Nat × Bool) :=
  if k.reduce then redPieces (redSizes k.efmt k.anch k.epw).1 n bad else pieces a n bad

/-- The target offset of data offset `o` (R122: an anchored FP32 reduce-add widens). -/
def Carry.target (k : Carry) (o : Nat) : Nat :=
  if k.reduce then o / (redSizes k.efmt k.anch k.epw).1 * (redSizes k.efmt k.anch k.epw).2 else o

/-- The Morkan VC of a segment's packets: that of their mesh VC (R34); a reduce-add's is VC5 (Table LNK-4). Table LNK-4 lists VC3 and
VC5 for a write; R34 also sends one of MV2 on VC4 (log entry 56). -/
def morkanVc (meshVc : Nat) (reduce : Bool) : Nat := if reduce then 5 else meshVc % 4 + 2

/-- Bytes written to a rack address for a command, over whatever path leads there (R71, R157, R221, R397). -/
def State.writeOut (s : State) (c : CoreIx) (g : SlotIx) (t : TaskIx) (cmd : Nat) (k : Carry) (a : Nat)
    (bs : List Byte) (bad : List (Nat × Nat)) : State :=
  match s.dest c a with
  | .own l => (s.coreStore c l bs bad).ackSoon c t cmd
  | .mesh =>
    let ps := k.cuts a bs.length bad
    let n := ps.length
    (ps.zipIdx).foldl (fun s x =>
      s.post { s.meshBase c t cmd g (a + k.target x.1.1) (if k.reduce then 3 else 1) ⟨k.vc % 4, Nat.mod_lt _ (by decide)⟩ k.ctx with
        body := slice bs x.1.1 x.1.2.1, status := if x.1.2.2 then stPoison else stGood
        ord := k.ord && k.last && x.2 + 1 == n, efmt := BitVec.ofNat 8 k.efmt, anchored := k.anch, epw := k.epw
        last := k.last && x.2 + 1 == n }) (s.addAcks c t cmd n)
  | .remote m =>
    match s.ctx? k.ctx with
    | none => s
    | some x =>
      let ps := if s.edgeOpen c x k.ctx then k.cuts a bs.length bad else []
      let n := ps.length
      (ps.zipIdx).foldl (fun s y =>
        let p := s.linkBase (if k.reduce then 3 else 1) (BitVec.ofNat 3 (morkanVc k.vc k.reduce)) (BitVec.ofNat 8 m)
          ((s.sendKey x.group (s.region c)).getD 0) k.ctx
        let p := { p with
          addr := BitVec.ofNat 64 (a + k.target y.1.1), body := slice bs y.1.1 y.1.2.1,
          status := if y.1.2.2 then 1 else 0, tag := BitVec.ofNat 32 s.memu.nextReq
          ord := k.ord && k.last && y.2 + 1 == n, last := k.last && y.2 + 1 == n
          rope := if s.ropeRegime then k.rope else 0
          efmt := BitVec.ofNat 8 k.efmt, anchored := k.anch, epw := k.epw }
        (s.addReq .ack c g t cmd k.ctx (a + k.target y.1.1) y.1.1 y.1.2.1 (some p)).sendLink x.group (ctxSub k.ctx) p)
        (s.addAcks c t cmd n)
  | .host p o =>
    if !s.hostServes c p a bs.length then s
    else
      (cutBy 256 o bs.length 0).foldl (fun s x =>
        s.emit (.hostWrite p (BitVec.ofNat 64 (s.hostAddr p x.1)) (slice bs x.2.2 x.2.1))) s
  | _ => s

/-- After a segment's last write to the host tier, the zero-length read of its last byte `a` that acknowledges them; writes that a
port does not serve are answered without one (R218, R221). -/
def State.hostFlush (s : State) (c : CoreIx) (g : SlotIx) (t : TaskIx) (cmd : Nat) (ctx : BitVec 16) (a : Nat) : State :=
  match s.dest c a with
  | .host p o =>
    if !s.hostServes c p a 1 then s
    else ((s.addReq .hostFlush c g t cmd ctx a 0 0).addAcks c t cmd 1).emit
      (.hostRead p (BitVec.ofNat 64 (s.hostAddr p o)) 0)
  | _ => s

/-- One run of bytes of a segment written, the only one or its last: with the read that acknowledges it in the host tier (R221). -/
def State.writeLast (s : State) (c : CoreIx) (g : SlotIx) (t : TaskIx) (cmd : Nat) (k : Carry) (a : Nat) (bs : List Byte)
    (bad : List (Nat × Nat)) : State :=
  let s1 := s.writeOut c g t cmd k a bs bad
  if bs.isEmpty then s1 else s1.hostFlush c g t cmd k.ctx (a + bs.length - 1)

/-! ## Multicast (R41 to R43) -/

/-- The cores a multicast to a field rectangle and core mask delivers to: enabled cores of live routers. -/
def State.mcastTargets (s : State) (x0 x1 y0 y1 cmask : Nat) : List CoreIx :=
  (List.finRange 256).filter fun c =>
    let f := coreField c
    decide (x0 ≤ fieldX f.val) && decide (fieldX f.val ≤ x1) && decide (y0 ≤ fieldY f.val)
      && decide (fieldY f.val ≤ y1) && bit cmask (c.val % 4) && s.enabled c.val && !s.knownDead f

/-- The four bounds of a RECT field (Table WAF-3): x0, x1, y0, y1, from high to low. -/
def rectBounds (r : Nat) : Nat × Nat × Nat × Nat := (bits r 9 3, bits r 6 3, bits r 3 3, bits r 0 3)

/-- R41, R42: the multicast from a field is refused at injection. -/
def State.mcastRefused (s : State) (src : FieldIx) (r : Nat) : Bool :=
  let (x0, x1, y0, y1) := rectBounds r
  decide (x1 < x0) || decide (y1 < y0)
    || ((y0 != fieldY src.val || y1 != fieldY src.val) &&
        (List.finRange 64).any fun f =>
          fieldY f.val == fieldY src.val && decide (x0 ≤ fieldX f.val) && decide (fieldX f.val ≤ x1) && s.knownDead f)

/-- Bytes sent by multicast to the same scratchpad offset of every target, injected at field `src` (R41, R43). -/
def State.mcastOut (s : State) (src : FieldIx) (c : CoreIx) (g : SlotIx) (t : TaskIx) (cmd : Nat) (vc : Fin 4)
    (ctx : BitVec 16) (r cmask off : Nat) (bs : List Byte) (bad : List (Nat × Nat)) (last ord : Bool) (mark : Nat := 0) : State :=
  let (x0, x1, y0, y1) := rectBounds r
  let ps := pieces off bs.length bad
  let n := ps.length
  let base := { s.meshBase c t cmd g 0 1 vc ctx with
    srcField := src, mcast := true, cmask := BitVec.ofNat 4 cmask, tag := c.val + 256 * mark
    x0 := ⟨x0 % 8, Nat.mod_lt _ (by decide)⟩, x1 := ⟨x1 % 8, Nat.mod_lt _ (by decide)⟩
    y0 := ⟨y0 % 8, Nat.mod_lt _ (by decide)⟩, y1 := ⟨y1 % 8, Nat.mod_lt _ (by decide)⟩ }
  (ps.zipIdx).foldl (fun s x =>
    { s with mcast := s.mcast ++ [{ prev := src, dest := src, pkt := { base with
        addr := BitVec.ofNat 64 (s.glb.modIx.val * 2 ^ 60 + off + x.1.1), body := slice bs x.1.1 x.1.2.1
        status := if x.1.2.2 then stPoison else stGood, ord := ord && last && x.2 + 1 == n, last := last && x.2 + 1 == n } }] })
    (s.addAcks c t cmd (n * (s.mcastTargets x0 x1 y0 y1 cmask).length))

/-! ## Belay credits (R157, R388, R389) -/

/-- The rope bound to a context (Table FAB-2): the one its traffic takes where the descriptor names none of its own, as COLL has no field
for it. -/
def State.ropeOf (s : State) (ctx : BitVec 16) : BitVec 12 :=
  match s.ctx? ctx with
  | some k => k.decl.rope
  | none => 0

/-- A context holds the belay credits that a segment of `n` bytes to rack address `a` needs: a slot of a landing carrel, else its bytes
(R231, R389). -/
def State.creditsHeld (s : State) (c : CoreIx) (a n : Nat) (ctx : BitVec 16) : Bool :=
  match s.ctx? ctx with
  | none => true
  | some k =>
    let slot : Bool := addrRange a == 0
    match s.dest c a with
    | .remote _ => if slot then decide (0 < k.held) else decide (k.sent + n ≤ 65536 * k.held)
    | .mesh => if slot then decide (0 < k.held) else true
    | .archive _ _ => decide (k.sent + n ≤ 65536 * k.held)
    | _ => true

/-- The shaper that a segment is charged to lets it start: its tokens are 0 or more; ropes in their regime and full rates are not shaped
(R399, R400, Table FAB-10). -/
def State.tokensUp (s : State) (c : CoreIx) (a : Nat) (ctx : BitVec 16) (vc : Nat) (reduce : Bool) (rope : BitVec 12) : Bool :=
  match s.ctx? ctx, s.dest c a with
  | some k, .remote _ =>
    !isFabric k.group || (rope != 0 && s.ropeRegime)
      || bits (s.shapeWord (s.region c) (shapeVc (morkanVc vc reduce))) 16 16 == 0xFFFF
      || decide (0 ≤ s.tokens (s.region c) (shapeVc (morkanVc vc reduce)))
  | _, _ => true

/-- A segment of `n` bytes to rack address `a` under a context may start: credits held, and tokens at 0 or more (R231, R389,
R399). -/
def State.creditFree (s : State) (c : CoreIx) (a n : Nat) (ctx : BitVec 16) (vc : Nat) (reduce : Bool) (rope : BitVec 12) : Bool :=
  s.creditsHeld c a n ctx && s.tokensUp c a ctx vc reduce rope

/-- The credits and tokens a starting segment spends; a rope's traffic is charged as it is sent (R399, R400). -/
def State.spend (s : State) (c : CoreIx) (a n : Nat) (ctx : BitVec 16) (vc : Nat) (reduce : Bool) (rope : BitVec 12) : State :=
  match s.ctx? ctx with
  | none => s
  | some k =>
    let slot : Bool := addrRange a == 0
    let pay (s : State) : State :=
      s.modCtx ctx fun x => if slot then { x with held := x.held - 1 } else { x with sent := x.sent + n }
    match s.dest c a with
    | .remote _ =>
      let s1 := pay s
      if isFabric k.group && !(rope != 0 && s.ropeRegime) then
        let v := shapeVc (morkanVc vc reduce)
        s1.setTokens (s.region c) v (s1.tokens (s.region c) v - n)
      else s1
    | .mesh => if slot then pay s else s
    | .archive _ _ => pay s
    | _ => s

/-! ## Cairn accumulators (R159, R331 to R334) -/

/-- One element added to a cairn accumulator of a task context. -/
def State.digest (s : State) (c : CoreIx) (t : TaskIx) (acc : Fin 16) (pos code : Nat) (poison : Bool)
    (bs : List Byte) : State :=
  (s.modTask c t fun k =>
    { k with cairns := upd k.cairns acc fun x =>
        { sum := x.sum + cairnElem pos code poison bs, poison := x.poison || poison } }).modCnt c fun n =>
    { n with cairnElem := bump n.cairnElem, cairnPois := if poison then bump n.cairnPois else n.cairnPois }

/-- Consecutive elements of a code added from position `pos` on. -/
def State.digestRun (s : State) (c : CoreIx) (t : TaskIx) (acc : Fin 16) (pos code : Nat) (bs : List Byte)
    (bad : List (Nat × Nat)) : State :=
  let w := elemBytes code
  (List.range (bs.length / w)).foldl (fun s i =>
    s.digest c t acc (pos + i) code (bad.any fun r => decide (r.1 < i * w + w) && decide (i * w < r.1 + r.2))
      (slice bs (i * w) w)) s

end Sys2Proof.Machine
end

