-- ==== Sys2Proof/Machine/Arrive.lean ====
section
/-! DEFINITION. What a target does with an arrival, whichever path brought it: the checks of R30, R51, R66, R218, R222 and R233,
landing carrels (R230 to R233), writes, and the slice reduction unit (R29, R121, R122). -/

namespace Sys2Proof.Machine

/-- What the checks of a target say. -/
inductive Verdict where
  | ok | absent | refused | parked
  deriving DecidableEq, Repr

/-- The mesh status of an answer (Table WAF-3). -/
def Verdict.status : Verdict → BitVec 4
  | .ok => stGood
  | .absent => stAbsent
  | .refused => stRefused
  | .parked => stParked

/-! ## Landing carrels -/

/-- The sender a landing carrel accepts: SMOD, or the effective predecessor for the carrels of a chain's contexts (R233, R307). -/
def State.landSender (s : State) (k : Carrel) : Nat :=
  match s.ctx? k.sctx with
  | some x => if x.decl.port == 4 || x.decl.port == 5 then s.grd.pred else k.smod
  | none => k.smod

/-- The carrel is a landing carrel that holds `n` bytes at scratchpad offset `o` of core `c`, for a sender and context. -/
def State.landHolds (s : State) (k : Carrel) (c : CoreIx) (o n m : Nat) (ctx : BitVec 16) : Bool :=
  k.valid && k.land && s.landSender k == m && k.sctx == ctx
    && (match place k.base.toNat with
        | .scratch d b => d == c && decide (b ≤ o) && decide (o + n ≤ b + k.slots * 65536)
        | _ => false)

/-- The landing carrel a write to core `c` lands in (R230, R233). -/
def State.landing? (s : State) (c : CoreIx) (o n m : Nat) (ctx : BitVec 16) : Option (TaskIx × Fin 8) :=
  (List.finRange 4).findSome? fun t => (List.finRange 8).findSome? fun k =>
    if s.landHolds ((s.task c t).data k) c o n m ctx then some (t, k) else none

/-- R233: the count of bytes received stays within the slots granted. -/
def State.landRoom (s : State) (c : CoreIx) (x : TaskIx × Fin 8) (n : Nat) : Bool :=
  let k := (s.task c x.1).data x.2
  let l := (s.task c x.1).landing[x.2]
  decide (l.bytes + n ≤ (k.slots + l.released) * 65536)

/-- The slot being filled at an offset of a landing carrel rewritten, or begun. -/
def Landing.modSlot (l : Landing) (i : Nat) (f : LandSlot → LandSlot) : Landing :=
  if l.part.any fun x => x.slot == i then { l with part := l.part.map fun x => if x.slot == i then f x else x }
  else { l with part := l.part ++ [f { slot := i }] }

/-- Slots whose segment has landed whole are filled (R232). -/
def Landing.fill (l : Landing) : Landing :=
  let ok (x : LandSlot) : Bool := x.last && x.gaps.isEmpty
  { l with filled := l.filled + (l.part.filter ok).length, part := l.part.filter fun x => !ok x }

/-- Bytes counted in a landing carrel whose slot `i` they fill from scratchpad offset `o` on (R232, R233). -/
def Landing.land (l : Landing) (i o n : Nat) (last : Bool) : Landing :=
  (({ l with bytes := l.bytes + n }).modSlot i fun x =>
    { x with gaps := x.gaps.filter (fun y => y != (o, n)), last := x.last || last }).fill

/-- Bytes for slot `i` of a landing carrel turned away: the segment has not landed whole before they have (R232). -/
def Landing.miss (l : Landing) (i o n : Nat) (last : Bool) : Landing :=
  l.modSlot i fun x => { x with gaps := if x.gaps.contains (o, n) then x.gaps else (o, n) :: x.gaps, last := x.last || last }

/-- The slot of a landing carrel that a scratchpad offset lies in (R230). -/
def Carrel.slotAt (k : Carrel) (o : Nat) : Nat := (o - bits k.base.toNat 0 26) / 65536

/-- Bytes counted in a landing carrel (R232, R233). -/
def State.landCount (s : State) (c : CoreIx) (x : TaskIx × Fin 8) (o n : Nat) (last : Bool) : State :=
  let i := ((s.task c x.1).data x.2).slotAt o
  s.modTask c x.1 fun k => { k with landing := upd k.landing x.2 fun l => l.land i o n last }

/-- A write of `n` bytes from module `m` to a rack address is turned away: the landing carrel it was for notes the gap (R232). -/
def State.landMiss (s : State) (a n m : Nat) (ctx : BitVec 16) (last : Bool) : State :=
  match place a with
  | .scratch c o => (match s.landing? c o n m ctx with
    | some x =>
      let i := ((s.task c x.1).data x.2).slotAt o
      s.modTask c x.1 fun k => { k with landing := upd k.landing x.2 fun l => l.miss i o n last }
    | none => s)
  | _ => s

/-! ## Checks -/

/-- The checks every access meets at its target, region check left out: the place exists and serves such requests (R30, R51,
R218, R222), then whether its domain is fenced (R56). -/
def State.placeVerdict (s : State) (a n : Nat) : Verdict :=
  match place a with
  | .archive _ _ => .refused
  | .csr _ => .refused
  | .host _ _ => if s.absentAt a n then .absent else .refused
  | .absent => .absent
  | p => if s.absentAt a n then .absent else if s.parkedAt p then .parked else .ok

/-- A remote write to a scratchpad must land in a landing carrel with room (R233). -/
def State.landOk (s : State) (a n m : Nat) (ctx : BitVec 16) : Bool :=
  match place a with
  | .scratch c o => (match s.landing? c o n m ctx with
    | some x => s.landRoom c x n
    | none => false)
  | _ => true

/-- The checks of an access of `n` bytes for a region (R66, R229): an access that the region may not make is refused, one to a
place behind a fence is parked. -/
def State.regionVerdict (s : State) (a n : Nat) (r : Byte) (extra : Bool) : Verdict :=
  match s.placeVerdict a n with
  | .ok => if s.ownedBy (place a) n r && extra then .ok else .refused
  | .parked => if s.ownedBy (place a) n r && extra then .parked else .refused
  | v => v

/-- An arrival refused with status "refused" is logged at the destination: address, context, sender (R233, Table FLT-3). -/
def State.refusedEvent (s : State) (a : Nat) (ctx : BitVec 16) (sender : Nat) : State :=
  s.modEvent 0 2 0x06 (leBytes 8 a ++ leBytes 2 ctx.toNat ++ leBytes 2 sender)

/-- An arrival answered "destination parked" (R412, Table PWR-9). -/
def State.countParked (s : State) : State := { s with pwr := { s.pwr with parked := bump s.pwr.parked } }

/-! ## Effects -/

/-- Bytes written at a rack address of this module, poisoned or clean, on behalf of a core or of none (R131). -/
def State.writeAt (s : State) (acc : Option CoreIx) (a : Nat) (bs : List Byte) (bad : List (Nat × Nat)) : State :=
  s.storeFor acc (addrLocal a) bs bad

/-- A remote write takes effect: the bytes, and the landing carrel's counts (R223, R232, R233). -/
def State.landWrite (s : State) (acc : Option CoreIx) (a m : Nat) (ctx : BitVec 16) (bs : List Byte) (poison last : Bool) :
    State :=
  let s1 := s.writeAt acc a bs (if poison then [(0, bs.length)] else [])
  match place a with
  | .scratch c o => (match s.landing? c o bs.length m ctx with
    | some x => s1.landCount c x o bs.length last
    | none => s1)
  | _ => s1

/-! ## The slice reduction unit (R122) -/

/-- What one element of a reduce-add gives. -/
structure RedElem where
  bytes   : List Byte
  foul    : Bool
  mism    : Bool
  inexact : Bool
  ovf     : Bool
  deriving DecidableEq, Repr

/-- R121, R122: the modes and formats a reduce-add may have. -/
def redOk (efmt : Nat) (anch : Bool) : Bool := decide (efmt ≤ 8) && (!anch || efmt == 0 || efmt == 7 || efmt == 8)

/-- An FP32 operand enters an exact partial (R115, R121). -/
def redEnter (epw : Bool) (t o : List Byte) : RedElem :=
  let a := EP.ofBytes epw t
  let v := fmtFP32.decode (leNat o)
  if a.width ≠ ofFlag epw then ⟨EP.lay epw { a with poison := true }, true, true, false, false⟩
  else
    let r := a.enter v
    ⟨r.lay epw, r.poison, false, a.rounds v, r.ovf && !a.ovf⟩

/-- One target element and one operand element added (R120 to R122). -/
def redElem (efmt : Nat) (anch epw : Bool) (t o : List Byte) : RedElem :=
  if efmt = 7 ∨ efmt = 8 then
    let a := EP.ofBytes (efmt == 8) t
    let b := EP.ofBytes (efmt == 8) o
    let r := a.add (efmt == 8) b
    ⟨r.1.lay (efmt == 8), r.1.poison, r.2, false, r.1.ovf && !a.ovf && !b.ovf⟩
  else if anch then redEnter epw t o
  else
    match floatFmt efmt with
    | some f =>
      ⟨leBytes (f.width / 8) (f.encode .rne false ((f.decode (leNat t)).add (f.decode (leNat o)))), false, false, false, false⟩
    | none =>
      if efmt = 6 then ⟨leBytes 4 (unsigned 32 (signed 32 (leNat t) + signed 32 (leNat o))), false, false, false, false⟩
      else ⟨leBytes 1 (unsigned 8 (max (-128) (min 127 (signed 8 (leNat t) + signed 8 (leNat o))))), false, false, false, false⟩

/-- The elements of a reduce-add. -/
def State.redElems (s : State) (a : Nat) (efmt : Nat) (anch epw : Bool) (bs : List Byte) : List RedElem :=
  let w := redSizes efmt anch epw
  (List.range (bs.length / max 1 w.1)).map fun i =>
    redElem efmt anch epw (s.mem.read (addrLocal a + i * w.2) w.2) (slice bs (i * w.1) w.1)

/-- Bytes of the target that a reduce-add of `n` operand bytes touches. -/
def redSpan (efmt : Nat) (anch epw : Bool) (n : Nat) : Nat :=
  n / max 1 (redSizes efmt anch epw).1 * (redSizes efmt anch epw).2

/-- A reduce-add is applied at a slice (R29, R122): the sums written, poison kept and added (R130, Table NUM-8), rounding,
overflow and mismatches counted at the issuing core, or at the slice's field for one of another module (log entry 57). -/
def State.reduceAt (s : State) (acc : Option CoreIx) (a : Nat) (efmt : Nat) (anch epw : Bool) (bs : List Byte) (poison : Bool) :
    State :=
  let es := s.redElems a efmt anch epw bs
  let w := (redSizes efmt anch epw).2
  let n := redSpan efmt anch epw bs.length
  let foul := (es.zipIdx.filter fun e => e.1.foul).map fun e => (e.2 * w, w)
  let bad := (if poison then [(0, n)] else []) ++ s.mem.poisonIn (addrLocal a) n ++ foul
  let mism := (es.filter RedElem.mism).length
  let s1 := s.writeAt acc a (es.flatMap RedElem.bytes) bad
  let c := acc.getD (homeCore a)
  let s2 := s1.modCnt c fun k =>
    { k with inexact := bump k.inexact (es.filter RedElem.inexact).length, ovf := bump k.ovf (es.filter RedElem.ovf).length }
  match acc with
  | some c => s2.coreEvents c 0x23 mism
  | none => if mism = 0 then s2 else s2.logEvent 1 1 0x23 kField (coreField c).val

/-- A reduce-add's target is a shared slice and its mode and format allow it (R121, R122, R158). -/
def redTarget (a efmt : Nat) (anch : Bool) : Bool :=
  match place a with
  | .slice _ _ => redOk efmt anch
  | _ => false

end Sys2Proof.Machine
end

