-- ==== Sys2Proof/Machine/Frames.lean ====
section
/-! DEFINITION. Frames and packets as bytes (R347 to R349, R351, R355, R357, Tables LNK-2, LNK-3 and LNK-6): the base header, the frames a
packet fills, the trailer with its CRC, read back and formed, and the CAPS body. -/

namespace Sys2Proof.Machine

/-! ## The base header (Table LNK-3) -/

/-- Byte 1: VC, ORD, UHDR. -/
def pktVcOrd (p : LinkPacket) : Nat :=
  32 * p.vc.toNat + 16 * (if p.ord then 1 else 0) + 8 * (if p.uhdr.isEmpty then 0 else 1)

/-- The 32 bytes of a packet's base header. -/
def pktHeader (p : LinkPacket) : List Byte :=
  [p.typ, BitVec.ofNat 8 (pktVcOrd p), p.dst, p.src] ++ leBytes 2 p.pkey.toNat ++ leBytes 2 p.ctx.toNat ++ leBytes 8 p.addr.toNat
    ++ leBytes 2 p.rope.toNat ++ [p.status, 0] ++ leBytes 4 p.body.length ++ leBytes 4 p.tag.toNat ++ leBytes 4 p.rlen.toNat

/-- A packet as it crosses the link: headers, body, zeros to a whole slot. -/
def pktWire (p : LinkPacket) : List Byte :=
  pktHeader p ++ p.uhdr ++ p.body ++ zeros (roundUp p.body.length 32 - p.body.length)

/-- A packet read from its bytes and the VC of its flits; whether a reserved bit is set is kept for the receive checks. -/
def packetOf (flitVc : BitVec 3) (bs : List Byte) : LinkPacket :=
  let b1 := fieldAt bs 1 1
  let up := if bit b1 3 then 64 else 0
  { typ := bs.getD 0 0, vc := BitVec.ofNat 3 (bits b1 5 3), ord := bit b1 4
    resv := bits b1 0 3 != 0 || bits (fieldAt bs 16 2) 12 4 != 0 || fieldAt bs 19 1 != 0
    flitVc := flitVc, dst := bs.getD 2 0, src := bs.getD 3 0, pkey := BitVec.ofNat 16 (fieldAt bs 4 2)
    ctx := BitVec.ofNat 16 (fieldAt bs 6 2), addr := BitVec.ofNat 64 (fieldAt bs 8 8), rope := BitVec.ofNat 12 (fieldAt bs 16 2)
    status := bs.getD 18 0, tag := BitVec.ofNat 32 (fieldAt bs 24 4), rlen := BitVec.ofNat 32 (fieldAt bs 28 4), last := false
    efmt := 0, anchored := false, epw := false, uhdr := slice bs 32 up, body := slice bs (32 + up) (fieldAt bs 20 4) }

/-! ## Trailers and frames (Table LNK-2) -/

/-- Trailer bytes 0 to 23. -/
def frameHead (fr : Frame) (null : Bool) : List Byte :=
  leBytes 2 (fr.fseq.toNat + (if null then 2 ^ 14 else 0))
    ++ leBytes 2 (fr.ack.toNat + (if fr.rply then 2 ^ 14 else 0) + (if fr.ackv then 2 ^ 15 else 0))
    ++ leBytes 12 ((fr.vcmap.zipIdx.map fun x => x.1.toNat * 8 ^ x.2).sum)
    ++ leBytes 8 ((fr.cred.toList.zipIdx.map fun x => x.1.toNat * 1024 ^ x.2).sum)

/-- A frame: its 32 flits and its trailer. -/
def frameBytes (fr : Frame) (null : Bool) (flits : List Byte) : List Byte :=
  flits ++ frameHead fr null ++ leBytes 8 (crc64 (flits ++ frameHead fr null))

/-- A frame read: whether it is a null frame, and its trailer, of which the FEC corrected `corr` codewords; none where it fails its check
or a reserved bit of the trailer is set (R347, R348). -/
def frameOf (corr : Nat) (bs : List Byte) : Option (Bool × Frame) :=
  let t := bs.drop 8192
  let w0 := fieldAt t 0 2
  let w1 := fieldAt t 2 2
  let vc := fieldAt t 4 12
  let cr := fieldAt t 16 8
  if crc64 (bs.take 8216) = fieldAt t 24 8 ∧ bits w0 12 2 = 0 ∧ bits w0 14 2 ≤ 1 ∧ bits w1 12 2 = 0 ∧ bits cr 60 4 = 0 then
    some (bits w0 14 2 == 1,
      { fseq := BitVec.ofNat 12 w0, ackv := bit w1 15, rply := bit w1 14, ack := BitVec.ofNat 12 w1
        vcmap := (List.range 32).map fun i => BitVec.ofNat 3 (bits vc (3 * i) 3)
        cred := Vector.ofFn fun v => BitVec.ofNat 10 (bits cr (10 * v.val) 10), corr := corr })
  else none

/-- CRED as the next trailer sends it: each VC moves on toward what the receiver has freed, by at most 64 (R351). -/
def Sublink.credNext (k : Sublink) : Vector (BitVec 10) 6 :=
  Vector.ofFn fun v => k.credSent[v] + BitVec.ofNat 10 (min 64 (k.credOut[v] - k.credSent[v]).toNat)

/-- The trailer of the next frame: ACKV with the number expected, RPLY until the expected frame has come (R355). -/
def Sublink.trailer (k : Sublink) (seq : BitVec 12) (vcmap : List (BitVec 3)) : Frame :=
  { fseq := seq, ackv := true, rply := k.rplyOut, ack := k.expect, vcmap := vcmap, cred := k.credNext, corr := 0 }

/-- A null frame: every flit idle (R348). -/
def Sublink.nullFrame (k : Sublink) : List Byte := frameBytes (k.trailer 0 (List.replicate 32 7)) true (zeros 8192)

/-- A flit slot of a frame: the packet's bytes, then fill; beyond the packet it is idle (R349). -/
def flitBytes (bs : List Byte) : List Byte :=
  let b := bs.take 256
  if b.length < 256 then b ++ [0xFF] ++ zeros (255 - b.length) else b

/-- The frames that a packet fills, numbered from `seq` (log entry 11). -/
def Sublink.frames (k : Sublink) (p : LinkPacket) (seq : BitVec 12) : List (List Byte) :=
  let w := pktWire p
  let n := ceilDiv w.length 256
  (List.range (ceilDiv n 32)).map fun i =>
    let on (j : Nat) : Bool := decide (32 * i + j < n)
    frameBytes (k.trailer (seq + BitVec.ofNat 12 (32 * i)) ((List.range 32).map fun j => if on j then p.vc else 7)) false
      ((List.range 32).flatMap fun j => if on j then flitBytes (w.drop (256 * (32 * i + j))) else zeros 256)

/-! ## CAPS (Table LNK-6) -/

/-- The CAPS body that this module sends at training: a module, its index, the group, RACK_ID, EPOCH, the next FSEQ it expects, version 1,
and the credits of Table LNK-7 (R351, R352, R357). -/
def State.capsBody (s : State) (g : GroupIx) (u : SubIx) : List Byte :=
  [1, 0, BitVec.ofNat 8 s.glb.modIx.val, BitVec.ofNat 8 g.val] ++ leBytes 2 s.cfg.active.rackId.toNat ++ leBytes 2 s.nvm.epoch.toNat
    ++ leBytes 2 (s.sub g u).expect.toNat ++ leBytes 2 1 ++ (List.range 6).flatMap fun v => leBytes 2 (rxFlits g.val v)

end Sys2Proof.Machine
end

