-- ==== Sys2Proof/Machine/Sparse.lean ====
section
/-! DEFINITION. What the sparse stream commands and the codecs compute on byte strings: packing under a pattern (R196 to R199,
R209), expansion (R210), the scout mask (R211) and the merge tree (R213 to R215). -/

namespace Sys2Proof.Machine

/-- What a transform writes: pieces (offset, bytes, poisoned ranges), and the events it counts: folios written poisoned,
records out of order, anchor mismatches, overflows. -/
structure TransOut where
  writes : List (Nat × List Byte × List (Nat × Nat))
  badF   : Nat := 0
  order  : Nat := 0
  mism   : Nat := 0
  ovf    : Nat := 0
  deriving DecidableEq, Repr

/-- The pair kind whose layout an element code 0x1 to 0x4 takes (Table CMD-7, Table COR-6). -/
def kindOf (efmt : Nat) : PairKind := if efmt = 1 then .bf16 else if efmt = 2 then .fp16 else .fp8

/-- Dense K span of a packed pattern: 0 2:4, 1 1:4, 2 block (Table SPR-1). -/
def patSpan (pat : Nat) : Nat := if pat = 0 then 384 else 576

/-- The magnitude order of R209 and R211: NaN above every other value. -/
def magAbove (a b : Val) : Bool := if a.isNaN then !b.isNaN else if b.isNaN then false else b.abs.lt a.abs

/-- Which places of a list are kept: the `n` of largest magnitude, ties to the lower place. -/
def keepBest (n : Nat) (vs : List Val) : List Bool :=
  let ix := vs.zipIdx
  ix.map fun x => decide ((ix.filter fun y => magAbove y.1 x.1 || (!magAbove x.1 y.1 && decide (y.2 < x.2))).length < n)

/-- The sum of magnitudes of a list; NaN where any is (R209). -/
def magSum (vs : List Val) : Val := vs.foldl (fun a v => a.add v.abs) (.fin false 0 0)

/-- Indices of the true places of a list. -/
def trueAt (bs : List Bool) : List Nat := (bs.zipIdx.filter fun x => x.1).map fun x => x.2

/-- The kept positions of K group `q` (4 positions) of column `col`: under a mask those it sets, else the `n` largest. -/
def keptOf (n : Nat) (mask : Option (Nat → Nat → Bool)) (val : Nat → Nat → Val) (q col : Nat) : List Nat :=
  match mask with
  | some m => (List.range 4).filter fun i => m (4 * q + i) col
  | none => trueAt (keepBest n ((List.range 4).map fun i => val (4 * q + i) col))

/-- Every column of a 2:4 or 1:4 folio keeps exactly `n` of each group; with `trans`, every K position of each 4 × 4 block
keeps exactly `n` of its columns too (R209). -/
def patternHolds (n span : Nat) (trans : Bool) (kept : Nat → Nat → List Nat) : Bool :=
  (List.range (span / 4)).all fun q =>
    (List.range 192).all (fun col => (kept q col).length == n)
      && (!trans || (List.range 48).all fun b => (List.range 4).all fun i =>
            ((List.range 4).filter fun u => (kept q (4 * b + u)).contains i).length == n)

/-- The bits of the position codes of one 4 × 4 block (R196, R197). -/
def blockCode (pat q b : Nat) (kept : Nat → Nat → List Nat) : Nat :=
  ((List.range 4).map fun u =>
    let ps := kept q (4 * b + u)
    if pat = 0 then (ps.getD 0 0 + 4 * ps.getD 1 0) * 16 ^ u else ps.getD 0 0 * 4 ^ u).sum

/-- The MX scale and element codes of column `col` over the 32 dense positions from `32 * blk`, for its kept values (R106). -/
def scoutBlock (kept : Nat → Nat → List Nat) (val : Nat → Nat → Val) (col blk : Nat) : Nat × List Nat :=
  mxQuantise 13 .rne ((List.range 8).flatMap fun q => (kept (8 * blk + q) col).map fun i => val (32 * blk + 4 * q + i) col)

/-- A 2:4 or 1:4 folio (R196, R197, R199): blocks of values and codes, then, under SCOUT, the scales. -/
def packGroups (pat efmt : Nat) (scout : Bool) (code : Nat → Nat → Nat) (val : Nat → Nat → Val)
    (kept : Nat → Nat → List Nat) : List Byte :=
  let span := patSpan pat
  let n := if pat = 0 then 2 else 1
  let scales := if scout then (Array.range (192 * (span / 32))).map fun i => scoutBlock kept val (i / (span / 32)) (i % (span / 32))
    else #[]
  let value (q col j i : Nat) : Nat :=
    if scout then
      let s := scales.getD (col * (span / 32) + q / 8) (0, [])
      s.2.getD (q % 8 * n + j) 0
    else code (4 * q + i) col
  let w := if scout then 4 else elemBits efmt
  let blocks := (List.range (span / 4)).flatMap fun q => (List.range 48).flatMap fun b =>
    packElems w ((List.range 4).flatMap fun u =>
      let ps := kept q (4 * b + u)
      (List.range n).map fun j => value q (4 * b + u) j (ps.getD j 0))
      ++ leBytes (if pat = 0 then 2 else 1) (blockCode pat q b kept)
  blocks ++ (if scout then scales.toList.map fun s => BitVec.ofNat 8 s.1 else [])

/-- The present blocks of a block-mask folio: under a mask the wholly set ones, none where a block is set in part or more
than 6 are; else the 6 of largest magnitude (R198, R209). -/
def presentBlocks (mask : Option (Nat → Nat → Bool)) (val : Nat → Nat → Val) : Option (List Nat) :=
  match mask with
  | some m =>
    let full (b : Nat) : Bool := (List.range 32).all fun i => (List.range 192).all fun col => m (32 * b + i) col
    let any (b : Nat) : Bool := (List.range 32).any fun i => (List.range 192).any fun col => m (32 * b + i) col
    let bs := (List.range 18).filter full
    if (List.range 18).any (fun b => any b && !full b) || decide (6 < bs.length) then none else some bs
  | none =>
    some (trueAt (keepBest 6 ((List.range 18).map fun b =>
      magSum ((List.range 32).flatMap fun i => (List.range 192).map fun col => val (32 * b + i) col))))

/-- A block-mask folio of `w` bytes (R198, R252): header, the present blocks as one dense folio, zero to the end. -/
def packBlocks (efmt : Nat) (scout : Bool) (w : Nat) (code : Nat → Nat → Nat) (val : Nat → Nat → Val) (bs : List Nat) :
    List Byte :=
  let head := leBytes 4 ((bs.map fun b => 2 ^ b).sum) ++ zeros 252
  let body :=
    if scout then
      let q := bs.map fun b => (Array.range 192).map fun col =>
        mxQuantise 13 .rne ((List.range 32).map fun i => val (32 * b + i) col)
      packElems 4 (q.flatMap fun cols => (List.range 32).flatMap fun i =>
          (List.range 192).map fun col => (cols.getD col (0, [])).2.getD i 0)
        ++ (List.range 192).flatMap fun col => q.map fun cols => BitVec.ofNat 8 (cols.getD col (0, [])).1
    else packElems (elemBits efmt) (bs.flatMap fun b => (List.range 32).flatMap fun i =>
      (List.range 192).map fun col => code (32 * b + i) col)
  let out := head ++ body
  out ++ zeros (w - out.length)

/-- One packed folio, none where the mask breaks the pattern (R209). -/
def packFolio (pat efmt : Nat) (scout trans : Bool) (mask : Option (Nat → Nat → Bool)) (code : Nat → Nat → Nat) :
    Option (List Byte) :=
  let val (k col : Nat) : Val := elemVal efmt (code k col)
  let w := folioBytes (if scout then .mx4 else kindOf efmt) true pat 0
  if pat = 2 then (presentBlocks mask val).map (packBlocks efmt scout w code val)
  else
    let n := if pat = 0 then 2 else 1
    let tab := (Array.range (patSpan pat / 4 * 192)).map fun i => keptOf n mask val (i / 192) (i % 192)
    let kept (q col : Nat) : List Nat := tab.getD (q * 192 + col) []
    if patternHolds n (patSpan pat) trans kept then some (packGroups pat efmt scout code val kept) else none

/-- Bytes of a packed folio. -/
def packedSize (pat efmt : Nat) (scout : Bool) : Nat := folioBytes (if scout then .mx4 else kindOf efmt) true pat 0

/-- A bit of a mask packed as R104 packs elements. -/
def maskBit (m : Array Byte) (i : Nat) : Bool := bit (byteAt m (i / 8)) (i % 8)

/-- SCOMP (R209): `src` the dense region, `bad` its poisoned byte ranges, `mask` the mask's bytes and whether each of its
bytes is poisoned. A folio whose source or mask is poisoned, or whose mask breaks the pattern, is written poisoned; FLD_SPR_BADCODE
counts it where a clean mask breaks the pattern. Under TRANS the source's folios lie side by side along the columns (DESIGN CHOICE,
log entry 13). -/
def scomp (pat efmt : Nat) (trans scout : Bool) (src : Array Byte) (bad : Nat → Bool)
    (mask : Option (Array Byte × (Nat → Bool))) : TransOut :=
  let span := patSpan pat
  let e := elemBytes efmt
  let n := src.size / (span * 192 * e)
  let w := packedSize pat efmt scout
  -- element index in the source of (folio, k, col)
  let at_ (f k col : Nat) : Nat :=
    if trans then
      let per := span / 192
      let c := span * (f % max 1 (ceilDiv n per)) + k
      c / 192 * span * 192 + (192 * (f / max 1 (ceilDiv n per)) + col) * 192 + c % 192
    else f * span * 192 + k * 192 + col
  let one (f : Nat) : Option (List Byte) × Bool :=
    let inside := (List.range span).all fun k => decide ((at_ f k 191 + 1) * e ≤ src.size) && decide ((at_ f k 0 + 1) * e ≤ src.size)
    let foul := (List.range span).any fun k => (List.range 192).any fun col =>
      bad (at_ f k col * e) || bad (at_ f k col * e + e - 1)
    let maskFoul := (List.range span).any fun k => (List.range 192).any fun col =>
      match mask with
      | some m => m.2 (at_ f k col / 8)
      | none => false
    if !inside || maskFoul then (none, !inside)
    else
      match packFolio pat efmt scout trans (mask.map fun m => fun k col => maskBit m.1 (at_ f k col))
          fun k col => wideAt src 0 e (at_ f k col) with
      | none => (none, true)
      | some bs => (if foul then none else some bs, false)
  let fs := (List.range (if trans then span / 192 * ceilDiv n (span / 192) else n)).map fun f => (f, one f)
  { writes := fs.map fun x => match x.2.1 with
      | some bs => (x.1 * w, bs, [])
      | none => (x.1 * w, zeros w, [(0, w)])
    badF := (fs.filter fun x => x.2.2).length }

/-- The element code a packed folio of a non-MX format holds at (*k*, *col*), none where pruned. -/
def packedCode (pat efmt : Nat) (fb : Array Byte) (k col : Nat) : Option Nat :=
  let kd := kindOf efmt
  if pat = 0 then
    let i := k / 4 * 48 + col / 4
    let p := pairOf (code24 kd fb i) (col % 4)
    let slot := if p.1 = k % 4 then some (2 * (col % 4)) else if p.2 = k % 4 then some (2 * (col % 4) + 1) else none
    slot.map fun j => codeAt efmt fb (i * (2 * kd.quad + 2)) j
  else if pat = 1 then
    let i := k / 4 * 48 + col / 4
    if bits (byteAt fb (i * (kd.quad + 1) + kd.quad)) (2 * (col % 4)) 2 = k % 4 then
      some (codeAt efmt fb (i * (kd.quad + 1)) (col % 4))
    else none
  else
    let m := blockMap fb
    if bit m (k / 32) then some (codeAt efmt fb 256 (192 * (32 * countBits (k / 32) m + k % 32) + col)) else none

/-- Bytes of an output element of OFMT for the codes of a format: OFMT 5 has the width of the format's pairs (DESIGN CHOICE,
log entry 13). -/
def codeOb (efmt ofmt : Nat) : Nat := outBytes (kindOf efmt) ofmt

/-- SEXPD (R210): dense tiles with +0 at every pruned position, or the 2:4 codes in the code areas of an SDIR 2 output, whose
row 192*n* + *col* takes column *col* of folio *n* (DESIGN CHOICE, log entry 13). A folio with a poisoned granule expands poisoned. -/
def sexpd (pat efmt : Nat) (codes : Bool) (ofmt : Nat) (src : Array Byte) (bad : Nat → Bool) : TransOut :=
  let span := patSpan pat
  let w := packedSize pat efmt false
  let e := elemBytes efmt
  let n := src.size / w
  { writes := (List.range n).flatMap fun f =>
      let fb := src.extract (f * w) (f * w + w)
      let foul := (List.range w).any fun i => bad (f * w + i)
      if codes then
        (List.range 192).map fun col =>
          let area := (List.range 48).map fun h =>
            let c (q : Nat) : Nat :=
              let p := pairOf (code24 (kindOf efmt) fb (q * 48 + col / 4)) (col % 4)
              p.1 + 4 * p.2
            BitVec.ofNat 8 (c (2 * h) + 16 * c (2 * h + 1))
          ((192 * f + col) * (48 + 192 * codeOb efmt ofmt), area, if foul then [(0, 48)] else [])
      else
        let m := span * 192
        [(f * m * e, (List.range m).flatMap (fun i => leBytes e ((packedCode pat efmt fb (i / 192) (i % 192)).getD 0)),
          if foul then [(0, m * e)] else [])] }

/-- SMASK (R211): the pair of each group of 4 adjacent columns, in the code areas of the SDIR 2 output: span *s* of 384
columns goes to sub-tile *s* of the row's *M*-row group. The source begins at row `r0`. -/
def smask (efmt ofmt ncol m r0 : Nat) (src : Array Byte) (bad : Nat → Bool) : TransOut :=
  let e := elemBytes efmt
  let rows := src.size / (ncol * e)
  let ob := 48 + 192 * codeOb efmt ofmt
  let po := roundUp (m * ob) 256
  let pair (r col : Nat) : Nat × Bool :=
    let vs := (List.range 4).map fun i => elemVal efmt (wideAt src 0 e (r * ncol + col + i))
    let ps := trueAt (keepBest 2 vs)
    (ps.getD 0 0 + 4 * ps.getD 1 0,
      (List.range 4).any fun i => bad ((r * ncol + col + i) * e) || bad ((r * ncol + col + i) * e + e - 1))
  { writes := (List.range rows).flatMap fun r => (List.range (ncol / 384)).map fun s =>
      let cells := (List.range 48).map fun h =>
        let a := pair r (384 * s + 8 * h)
        let b := pair r (384 * s + 8 * h + 4)
        (BitVec.ofNat 8 (a.1 + 16 * b.1), a.2 || b.2)
      (((r0 + r) / m * (ncol / 384) + s) * po + (r0 + r) % m * ob, cells.map Prod.fst,
        (cells.zipIdx.filter fun x => x.1.2).map fun x => (x.2, 1)) }

/-! ## The merge tree -/

/-- A record: key, value bytes, poisoned, out of order. -/
structure MRec where
  key   : Nat
  val   : List Byte
  foul  : Bool
  order : Bool
  deriving DecidableEq, Repr

/-- Bytes of a record and of its value (R213). -/
def recBytes (efmt : Nat) : Nat × Nat := if efmt = 7 then (32, 24) else if efmt = 8 then (88, 80) else (8, 4)

/-- The records of a run from record `i` on: padding dropped, each marked out of order when its key is not greater than its
predecessor's (R213, R215). -/
def runRecs (efmt : Nat) (src : Array Byte) (bad : Nat → Bool) : Nat → Nat → Option Nat → List MRec
  | 0, _, _ => []
  | n + 1, i, prev =>
    let o := i * (recBytes efmt).1
    let key := leNat (part src o 4)
    if key = 2 ^ 32 - 1 then runRecs efmt src bad n (i + 1) prev
    else
      { key := key, val := part src (o + 4) (recBytes efmt).2
        foul := (List.range (4 + (recBytes efmt).2)).any fun j => bad (o + j)
        order := match prev with
          | some p => decide (key ≤ p)
          | none => false } :: runRecs efmt src bad n (i + 1) (some key)

/-- Two records of equal keys combined (R214): 0 adds, 1 keeps the maximum. Then anchor mismatches and overflows, 0 or 1 each. -/
def combineRec (efmt comb : Nat) (a b : MRec) : MRec × Nat × Nat :=
  let fa := fmtFP32.decode (leNat a.val)
  let fb := fmtFP32.decode (leNat b.val)
  let out (v : List Byte) (bad mis high : Bool) : MRec × Nat × Nat :=
    ({ a with val := v, foul := a.foul || b.foul || bad }, ofFlag mis, ofFlag high)
  if isEp efmt then
    let x := EP.ofBytes (efmt == 8) a.val
    let y := EP.ofBytes (efmt == 8) b.val
    let r := x.add (efmt == 8) y
    out (r.1.lay (efmt == 8)) r.1.poison r.2 (r.1.ovf && !x.ovf && !y.ovf)
  else if efmt = 6 then
    let x := signed 32 (leNat a.val)
    let y := signed 32 (leNat b.val)
    out (leBytes 4 (unsigned 32 (if comb = 0 then x + y else max x y))) false false false
  else out (leBytes 4 (fmtFP32.encode .rne false (if comb = 0 then r32 (fa.add fb) else fa.maximum fb))) false false false

/-- The smallest head key of the runs. -/
def minHead (rs : List (List MRec)) : Option Nat :=
  rs.foldl (fun a r => match a, r.head? with
    | none, some x => some x.key
    | some k, some x => some (min k x.key)
    | a, none => a) none

/-- The merge (R214): the records in ascending key order, with the anchor mismatches and overflows met. -/
def mergeRuns (efmt comb : Nat) : Nat → List (List MRec) → List MRec × Nat × Nat
  | 0, _ => ([], 0, 0)
  | fuel + 1, rs =>
    match minHead rs with
    | none => ([], 0, 0)
    | some k =>
      let heads := (rs.filterMap List.head?).filter fun x => x.key == k
      let rest := rs.map fun r => match r with
        | x :: xs => if x.key = k then xs else x :: xs
        | [] => []
      let good := heads.filter fun x => !x.order
      let late := heads.filter fun x => x.order
      let now : List MRec × Nat × Nat :=
        match good with
        | [] => ([], 0, 0)
        | x :: xs =>
          if comb = 3 then (x :: xs, 0, 0)
          else if comb = 2 then ([x], 0, 0)
          else
            let r := xs.foldl (fun a y =>
              let z := combineRec efmt comb a.1 y
              (z.1, a.2.1 + z.2.1, a.2.2 + z.2.2)) (x, 0, 0)
            ([r.1], r.2)
      let more := mergeRuns efmt comb fuel rest
      (now.1 ++ late ++ more.1, now.2.1 + more.2.1, now.2.2 + more.2.2)

/-- Start of each run, in records, from its lengths. -/
def runStarts : Nat → List Nat → List (Nat × Nat)
  | _, [] => []
  | i, n :: ns => (i, n) :: runStarts (i + n) ns

/-- SMERGE (R213 to R215): `lens` the run table, `total` the records in all, `fill` the bytes that the manual leaves open
(padding, and the value of the last record). -/
def smerge (efmt comb total : Nat) (lens : List Nat) (src : Array Byte) (bad : Nat → Bool) (fill : Nat → Byte) : TransOut :=
  let w := recBytes efmt
  let runs := (runStarts 0 lens).map fun r => runRecs efmt src bad (min r.2 (total - r.1)) r.1 none
  let m := mergeRuns efmt comb (total + 1) runs
  let n := m.1.length
  let pad (i : Nat) : List Byte := (List.range (w.1 - 4 - w.2)).map fun j => fill (i * w.1 + 4 + w.2 + j)
  let body := (m.1.zipIdx).flatMap fun x => leBytes 4 x.1.key ++ x.1.val ++ pad x.2
  let last := leBytes 4 (2 ^ 32 - 1) ++ (List.range (w.1 - 4)).map fun j => fill (n * w.1 + 4 + j)
  { writes := [(0, body ++ last,
      (m.1.zipIdx.filter fun x => x.1.foul || x.1.order).map fun x => (x.2 * w.1 + 4, w.2))]
    order := (m.1.filter fun x => x.order).length, mism := m.2.1, ovf := m.2.2 }

end Sys2Proof.Machine
end

