-- ==== Sys2Proof/Machine/CollBase.lean ====
section
/-! DEFINITION. COLL descriptors and the collectives a core has issued (R283 to R302): groups and reduction cores, the units a core
serves, what it reads, expects and sends, and where the data of another member goes. -/

namespace Sys2Proof.Machine

/-! ## Finding a gang's descriptor -/

/-- The descriptor that holds gang index `i` of a command, with its place in the list. -/
def Cmd.descFor (x : Cmd) (i : Nat) : Option (Nat × Desc) :=
  (x.descs.zipIdx.find? fun d => decide (d.1.first ≤ i) && decide (i < d.1.first + d.1.segs)).map fun d => (d.2, d.1)

/-- A descriptor of a command rewritten. -/
def Cmd.modDesc (x : Cmd) (i : Nat) (f : Desc → Desc) : Cmd :=
  { x with descs := x.descs.zipIdx.map fun d => if d.2 == i then f d.1 else d.1 }

/-- The rack address of a location of a task context. -/
def State.locAddr (s : State) (c : CoreIx) (t : TaskIx) (l : Loc) : Nat := ((s.task c t).data l.car).base.toNat + l.off

/-- The place lies in this module's scratchpads, slices or stacks. -/
def State.localTier (s : State) (a : Nat) : Bool := addrModule a == s.glb.modIx.val && decide (addrRange a ≤ 2)

/-! ## COLL descriptors -/

/-- The fields of a COLL descriptor (Table CMD-11). -/
structure CollD where
  src   : Loc
  dst   : Loc
  len   : Nat
  group : BitVec 12
  kind  : Nat
  wfmt  : Nat
  mask  : Bool
  root  : Nat
  ctx   : BitVec 16
  chunk : Nat
  fuse  : Bool
  ord   : Bool
  dig   : Bool
  cacc  : Fin 16
  aux   : Loc
  hasAux : Bool
  aux2  : Loc
  posbase : Nat
  deriving DecidableEq, Repr

def collD (b : List Byte) : CollD :=
  let fl := fieldAt b 29 1
  { src := locAt b 0, dst := locAt b 8, len := fieldAt b 16 4, group := BitVec.ofNat 12 (fieldAt b 20 2)
    kind := fieldAt b 22 1, wfmt := bits (fieldAt b 23 1) 0 4, mask := bit (fieldAt b 23 1) 7, root := fieldAt b 24 2
    ctx := BitVec.ofNat 16 (fieldAt b 26 2), chunk := fieldAt b 28 1, fuse := bit fl 0, ord := bit fl 1, dig := bit fl 2
    cacc := ⟨fieldAt b 30 1 % 16, Nat.mod_lt _ (by decide)⟩, aux := locAt b 32, hasAux := !zeroAt b 32 8
    aux2 := locAt b 40, posbase := fieldAt b 48 8 }

/-- A declared collective group. -/
def State.collGroup (s : State) (g : BitVec 12) : Option GroupEntry := s.image.groups.find? fun e => e.group == g

/-- A module of the run is absent (R306). -/
def State.absentRun (s : State) (m : Nat) : Bool := s.grd.absentRun.getLsbD m

/-- Positions of a group's present members, ascending (R307). -/
def State.presentPos (s : State) (e : GroupEntry) : List Nat :=
  (e.members.zipIdx.filter fun m => !s.absentRun m.1).map fun m => m.2

/-- This module's position in a group. -/
def State.myPos (s : State) (e : GroupEntry) : Nat := e.members.findIdx (· == s.glb.modIx.val)

/-- The rectangle of a group in the form of a core rectangle word. -/
def GroupEntry.rectWord (e : GroupEntry) : Nat := bits e.rect.toNat 12 4 * 2 ^ 20 + bits e.rect.toNat 8 4 * 2 ^ 16
  + bits e.rect.toNat 4 4 * 2 ^ 12 + bits e.rect.toNat 0 4 * 2 ^ 8

/-- The reduction cores of a group in rank order (R284): row-major in the core grid. -/
def State.redCores (s : State) (e : GroupEntry) : List CoreIx :=
  (List.range 16).flatMap fun y => (List.range 16).filterMap fun x =>
    (List.finRange 256).find? fun c =>
      coreX c.val == x && coreY c.val == y && s.enabled c.val && inRect e.rectWord c.val

/-- What a COLL reads at SRC and writes at DST on this member (Table GRD-4, R289, R301, R302); `rows` the entries of a combine's table.
The landing carrel that a chain's DST names is checked by itself. -/
def State.collSizes (s : State) (d : CollD) (e : GroupEntry) (rows : Nat) : Nat × Nat :=
  let blk := e.nmem * e.cap * d.len + 4 * e.nmem
  match d.kind with
  | 1 => (if s.myPos e == d.root then d.len else 0, d.len)
  | 2 => (d.len, e.nmem * d.len)
  | 3 => (e.nmem * d.len, d.len)
  | 4 => (d.len, 0)
  | 5 => (0, blk)
  | 6 => (blk, rows * d.len)
  | _ => (0, 0)

/-- The first descriptor of the fused collective that holds descriptor `i` (R161). -/
def fusedLead (ds : List CollD) (i : Nat) : Nat := i - ((ds.take i).reverse.takeWhile fun d => d.fuse).length

/-- The descriptors of the fused collective that holds descriptor `i` (R161). -/
def fusedWith (ds : List CollD) (i : Nat) : List CollD :=
  let before := ((ds.take i).reverse.takeWhile fun d => d.fuse).reverse
  let after := ds.drop i
  let n := (after.takeWhile fun d => d.fuse).length
  before ++ after.take (n + 1)

/-! ## Units and ranks (R284) -/

/-- The rank of a core among a group's reduction cores (R284). -/
def State.rankOf (s : State) (e : GroupEntry) (c : CoreIx) : Nat := (s.redCores e).findIdx (· == c)

/-- The core that serves unit or entry `k` (R284). -/
def State.serving (s : State) (e : GroupEntry) (k : Nat) : Option CoreIx := (s.redCores e)[k % (s.redCores e).length]?

/-- Unit `k` is served by the core of rank `rank` (R284). -/
def State.serves (s : State) (e : GroupEntry) (rank k : Nat) : Bool := k % (s.redCores e).length == rank

/-- Bytes per element on the wire (Table GRD-2). -/
def CollD.width (d : CollD) : Nat := max 1 (elemBytes d.wfmt)

/-- Bytes of a unit: 2^CHUNK (R287); those of a reduce-scatter hold whole elements (log entry 21). -/
def CollD.unit (d : CollD) : Nat := if d.kind = 3 then max 1 (2 ^ d.chunk / d.width * d.width) else 2 ^ d.chunk

/-- The units of a member's block. -/
def CollD.blockUnits (d : CollD) : Nat := if 1 ≤ d.kind ∧ d.kind ≤ 3 then ceilDiv d.len d.unit else 0

/-- Expert dispatch or combine. -/
def CollD.expert (d : CollD) : Bool := d.kind == 5 || d.kind == 6

/-- Bytes of the mask that AUX names under MASKED (R289): one bit per dense position. -/
def CollD.maskBytes (d : CollD) : Nat :=
  if d.kind = 4 ∧ d.mask ∧ d.hasAux then ceilDiv (d.len / d.width) 8 else 0

/-! ## The tables of dispatch and combine (R299, R301) -/

/-- A table of 32-bit words as it stands, where it lies in this module's scratchpads, slices or stacks. -/
def State.peekTable (s : State) (a n : Nat) : Option (List Nat) :=
  if s.localTier a && !s.absentAt a (4 * n) then
    let bs := s.view (addrLocal a) (4 * n)
    some ((List.range n).map fun i => fieldAt bs (4 * i) 4)
  else none

/-- The entries a position is sent: the first min(count, CAP), none when it is absent (R301, Table GRD-5). -/
def State.sentTo (s : State) (e : GroupEntry) (cs : List Nat) (p : Nat) : Nat :=
  if (s.presentPos e).contains p then min (cs.getD p 0) e.cap else 0

/-- The number of a position's first entry (R299). -/
def firstEntry (cs : List Nat) (p : Nat) : Nat := (cs.take p).sum

/-- The entries that the core of a rank sends: position, place among the position's rows, number (R284, R301). -/
def State.entries (s : State) (e : GroupEntry) (rank : Nat) (cs : List Nat) : List (Nat × Nat × Nat) :=
  (List.range e.nmem).flatMap fun p => ((List.range (s.sentTo e cs p)).map fun r => (p, r, firstEntry cs p + r)).filter fun x =>
    s.serves e rank x.2.2

/-- The entries of the core of a rank that are not sent: their numbers (R301). -/
def State.droppedEntries (s : State) (e : GroupEntry) (rank : Nat) (cs : List Nat) : List Nat :=
  (List.range e.nmem).flatMap fun p =>
    let n := s.sentTo e cs p
    ((List.range (cs.getD p 0 - n)).map fun r => firstEntry cs p + n + r).filter (s.serves e rank)

/-- Bytes of the receive layout before its count words (R301). -/
def rowsBlock (d : CollD) (e : GroupEntry) : Nat := e.nmem * e.cap * d.len

/-! ## What a core reads -/

/-- The source rows of a dispatch, as offsets from SRC (R301). -/
def State.collRows (s : State) (d : CollD) (e : GroupEntry) (rank : Nat) (cs ix : List Nat) : List Nat :=
  (s.entries e rank cs).map fun x => ix.getD x.2.2 0 * d.len

/-- The reads of the tables of an expert exchange by phase: the counts, then the indices (R299). -/
def State.tableReads (s : State) (c : CoreIx) (t : TaskIx) (d : CollD) (e : GroupEntry) (phase : Nat) (cs : List Nat) :
    List (Nat × Nat × Nat) :=
  if phase = 0 then [(s.locAddr c t d.aux2, 4 * e.nmem, 0)]
  else if cs.sum = 0 then [] else [(s.locAddr c t d.aux, 4 * cs.sum, 0)]

/-- The reads of a COLL descriptor's data: rack address, length, place in the gang's data. -/
def State.collReads (s : State) (c : CoreIx) (t : TaskIx) (d : CollD) (e : GroupEntry) (rank : Nat) (cs ix : List Nat) :
    List (Nat × Nat × Nat) :=
  let src := s.locAddr c t d.src
  match d.kind with
  | 5 => (s.collRows d e rank cs ix).zipIdx.map fun r => (src + r.1, d.len, r.2 * d.len)
  | _ =>
    let n := (s.collSizes d e cs.sum).1
    (if n = 0 then [] else [(src, n, 0)]) ++
      (if d.maskBytes = 0 then [] else [(s.locAddr c t d.aux, d.maskBytes, n)])

/-! ## What a core expects -/

/-- A count word that has not come weighs this much in `CollWant.left`. -/
def wordWeight : Nat := 2 ^ 60

/-- The units of a block that a rank serves: offset and length. -/
def State.unitsOf (s : State) (d : CollD) (e : GroupEntry) (rank base : Nat) : List (Nat × Nat) :=
  ((List.range d.blockUnits).filter fun i => s.serves e rank (base + i)).map fun i => (i * d.unit, min d.unit (d.len - i * d.unit))

/-- The present positions other than this module's. -/
def State.others (s : State) (e : GroupEntry) : List Nat := (s.presentPos e).filter fun p => p != s.myPos e

/-- What the core of a rank expects from the other members (R284, R297, R301, R302). -/
def State.collWants (s : State) (d : CollD) (e : GroupEntry) (rank base : Nat) (cs : List Nat) : List CollWant :=
  let us := s.unitsOf d e rank base
  match d.kind with
  | 1 => if s.myPos e = d.root then [] else us.map fun u => { pos := d.root, off := u.1, len := u.2, left := u.2 }
  | 2 => (s.others e).flatMap fun p => us.map fun u => { pos := p, off := p * d.len + u.1, len := u.2, left := u.2 }
  | 3 => (s.others e).flatMap fun p => us.map fun u => { pos := p, off := u.1, len := u.2, left := u.2 }
  | 5 => if rank = 0 then (s.others e).map fun p => { pos := p, off := 0, len := rowsBlock d e + 4 * e.nmem, left := wordWeight } else []
  | 6 =>
    let xs := s.entries e rank cs
    (s.others e).filterMap fun p =>
      let n := (xs.filter fun x => x.1 == p).length
      if n = 0 then none else some { pos := p, off := firstEntry cs p, len := cs.getD p 0, left := n * d.len }
  | _ => []

/-! ## Issue (R286) -/

/-- What a core has issued on a group. -/
def State.issueOf (s : State) (g : BitVec 12) (c : CoreIx) : Option CollIssue :=
  s.grd.issued.find? fun x => x.group == g && x.core == c

/-- A core's issue record changed. -/
def State.modIssue (s : State) (g : BitVec 12) (c : CoreIx) (f : CollIssue → CollIssue) : State :=
  { s with grd := { s.grd with issued := s.grd.issued.map fun x => if x.group == g && x.core == c then f x else x } }

/-- A core issues a collective, or one more descriptor of a fused one that it has issued (R161, R286). -/
def State.noteIssue (s : State) (c : CoreIx) (t : TaskIx) (cmd lead : Nat) (g : BitVec 12) : State :=
  match s.issueOf g c with
  | none => { s with grd := { s.grd with
      issued := { group := g, core := c, count := 1, times := [s.now], task := t, cmd := cmd, lead := lead } :: s.grd.issued } }
  | some x =>
    if x.task == t && x.cmd == cmd && x.lead == lead then s
    else s.modIssue g c fun y => { y with count := y.count + 1, times := y.times ++ [s.now], task := t, cmd := cmd, lead := lead }

/-- The collective a core issued last on a group. -/
def State.issueCount (s : State) (g : BitVec 12) (c : CoreIx) : Nat :=
  match s.issueOf g c with
  | some x => x.count
  | none => 0

/-- A descriptor joins the collectives issued. -/
def State.addRun (s : State) (r : CollRun) : State :=
  { s with grd := { s.grd with colls := s.grd.colls ++ [{ r with nth := s.issueCount r.group r.core }] } }

/-- A gang that carries a collective reads (rack address, length, place), and awaits one thing more: the collective itself. -/
def State.collStartReads (s : State) (c : CoreIx) (g : SlotIx) (t : TaskIx) (cmd : Nat) (ctx : BitVec 16) (reads : List (Nat × Nat × Nat)) :
    State :=
  (s.startReads c g t cmd ctx reads).modGang c g fun y => { y with await := y.await + 1 }

/-- The issued descriptor that a gang carries. -/
def State.runOf (s : State) (c : CoreIx) (g : SlotIx) : Option CollRun := s.grd.colls.find? fun r => r.core == c && r.slot == g

/-- An issued descriptor changed. -/
def State.modRun (s : State) (c : CoreIx) (g : SlotIx) (f : CollRun → CollRun) : State :=
  { s with grd := { s.grd with colls := s.grd.colls.map fun r => if r.core == c && r.slot == g then f r else r } }

/-- Nothing of a descriptor is left to do (R284). -/
def CollRun.over (r : CollRun) : Bool := r.started && r.steps == 0 && r.todo.isEmpty && r.wants.all fun w => w.left == 0

/-- A descriptor with nothing left to do completes: its gang awaits nothing more (R156, R284). -/
def State.settleRun (s : State) (c : CoreIx) (g : SlotIx) : State :=
  match s.runOf c g with
  | none => s
  | some r =>
    if !r.over then s
    else
      let s1 := s.modGang c g fun x => { x with await := x.await - 1 }
      { s1 with grd := { s1.grd with colls := s1.grd.colls.filter fun y => !(y.core == c && y.slot == g) } }

/-! ## Between members (R300) -/

/-- The rack address that names a place of a collective on module `m`: bits 55:44 its group, bits 43:41 the place of its descriptor
in the fused list, modulo 8, bits 40:0 an offset from DST, which the receiving member resolves in its own carrel (R300; log
entry 21). -/
def collAddr (m : Nat) (grp : BitVec 12) (idx rel : Nat) : Nat :=
  m * 2 ^ 60 + 8 * 2 ^ 56 + grp.toNat * 2 ^ 44 + idx % 8 * 2 ^ 41 + rel % 2 ^ 41

/-- The context that carries a collective's data to module `m`: the lowest declared fabric context from CTX on that sends to it (log
entry 21). -/
def State.ctxToward (s : State) (ctx : BitVec 16) (m : Nat) : BitVec 16 :=
  let ok (k : Ctx) : Bool := decide (ctx.toNat ≤ k.decl.ctx.toNat) && k.decl.peer == m && bit k.decl.dir 0 && isFabric k.group
  ((s.fab.ctxs.filter ok).map fun k => k.decl.ctx.toNat).foldl (fun (b : Option Nat) x => some (match b with
    | some y => min x y
    | none => x)) none |>.elim ctx (BitVec.ofNat 16)

/-- Data for the member at a position, or for this module's own DST. -/
def State.outTo (s : State) (r : CollRun) (e : GroupEntry) (p rel : Nat) (bytes : List Byte) (bad : List (Nat × Nat)) : CollOut :=
  let m := e.members.getD p 0
  let d := collD r.desc
  if m = s.glb.modIx.val then { ctx := d.ctx, addr := s.locAddr r.core r.task d.dst + rel, bytes := bytes, bad := bad }
  else { ctx := s.ctxToward d.ctx m, addr := collAddr m r.group r.idx rel, bytes := bytes, bad := bad }

/-- Data of a descriptor leaves while credits and tokens allow, on the mesh VC of gradient and collective traffic (R34, R157, R300).
What waits for the credits of one context keeps its order; other contexts go on. The last packet of the descriptor carries the order
flag of its ORD bit. -/
def State.sendTodo (s : State) (c : CoreIx) (g : SlotIx) (t : TaskIx) (cmd : Nat) (ord : Bool) :
    List CollOut → List (BitVec 16) → State × List CollOut
  | [], _ => (s, [])
  | o :: rest, shut =>
    if !shut.contains o.ctx && s.creditFree c o.addr o.bytes.length o.ctx 1 false (s.ropeOf o.ctx) then
      ((s.spend c o.addr o.bytes.length o.ctx 1 false (s.ropeOf o.ctx)).writeLast c g t cmd
        { Carry.plain o.ctx 1 with rope := s.ropeOf o.ctx, ord := ord && rest.isEmpty && shut.isEmpty } o.addr o.bytes o.bad).sendTodo c g t cmd ord rest shut
    else
      let x := s.sendTodo c g t cmd ord rest (o.ctx :: shut)
      (x.1, o :: x.2)

/-- A descriptor sends what it may and completes when nothing is left. -/
def State.pumpRun (s : State) (c : CoreIx) (g : SlotIx) : State :=
  match s.runOf c g with
  | none => s
  | some r =>
    let x := s.sendTodo c g r.task r.cmd (collD r.desc).ord r.todo []
    (x.1.modRun c g fun y => { y with todo := x.2 }).settleRun c g

/-- Every descriptor whose data waits tries again. -/
def State.pumpRuns (s : State) : State :=
  (s.grd.colls.filter fun r => !r.todo.isEmpty).foldl (fun s r => s.pumpRun r.core r.slot) s

/-- Data for a descriptor queued behind what already waits. -/
def State.queueOut (s : State) (c : CoreIx) (g : SlotIx) (os : List CollOut) : State :=
  (s.modRun c g fun r => { r with todo := r.todo ++ os }).pumpRun c g

/-! ## Data from other members -/

/-- The core of a combine that waits for row `r` of a position. -/
def State.combineMine (s : State) (e : GroupEntry) (r : CollRun) (w : CollWant) (n : Nat) : Bool :=
  decide (n < w.len) && s.serves e (s.rankOf e r.core) (w.off + n)

/-- The expectation of a descriptor that data from position `p` at offset `rel` meets. -/
def State.meets (s : State) (e : GroupEntry) (r : CollRun) (p rel : Nat) (w : CollWant) : Bool :=
  let d := collD r.desc
  w.pos == p && w.left != 0 &&
    (if d.kind = 6 then s.combineMine e r w (rel / max 1 d.len % max 1 e.cap)
     else decide (w.off ≤ rel) && decide (rel < w.off + w.len))

/-- The descriptor that data at a collective's address from module `m` is for, with the position of `m` (R300). -/
def State.collFor (s : State) (a m : Nat) : Option (CollRun × GroupEntry × Nat) :=
  match s.collGroup (BitVec.ofNat 12 (bits a 44 12)) with
  | none => none
  | some e =>
    let p := e.members.findIdx (· == m)
    (s.grd.colls.find? fun r => r.group == e.group && r.idx % 8 == bits a 41 3 && r.wants.any (s.meets e r p (bits a 0 41))).map fun r =>
      (r, e, p)

/-- Where data of a collective lands on this module: DST of the member's own carrel registers, for a combine the entry's row
(R300 to R302). -/
def State.collTarget (s : State) (r : CollRun) (e : GroupEntry) (p rel : Nat) : Nat :=
  let d := collD r.desc
  let dst := s.locAddr r.core r.task d.dst
  if d.kind = 6 then
    match r.wants.find? (s.meets e r p rel) with
    | some w => dst + (w.off + rel / max 1 d.len % max 1 e.cap) * d.len + rel % max 1 d.len
    | none => dst
  else dst + rel

/-- What is left of an expectation once `bs` have landed at `rel`: a count word stands for the rows it counts (R301). -/
def CollWant.take (w : CollWant) (d : CollD) (e : GroupEntry) (rel : Nat) (bs : List Byte) : CollWant :=
  if d.kind = 5 ∧ rowsBlock d e ≤ rel then { w with left := w.left - wordWeight + fieldAt bs 0 4 * d.len }
  else { w with left := w.left - bs.length }

/-- The first expectation met takes the data. -/
def takeFirst (ok : CollWant → Bool) (f : CollWant → CollWant) : List CollWant → List CollWant
  | [] => []
  | w :: ws => if ok w then f w :: ws else w :: takeFirst ok f ws

/-- Data of a collective has landed: a reduce-scatter keeps it for its sum (R298), and the descriptor expects that much less. -/
def State.collLanded (s : State) (r : CollRun) (e : GroupEntry) (p rel : Nat) (bs : List Byte) (poison : Bool) : State :=
  let d := collD r.desc
  (s.modRun r.core r.slot fun y =>
    { y with wants := takeFirst (s.meets e r p rel) (fun w => w.take d e rel bs) y.wants
             parts := if d.kind = 3 then y.parts ++ [{ pos := p, off := rel, bytes := bs, poison := poison }] else y.parts }).settleRun
    r.core r.slot

/-! ## Source data of a gang -/

/-- Bytes `o .. o + n - 1` of what a gang has read, and their poisoned ranges. -/
def Gang.part (x : Gang) (o n : Nat) : List Byte × List (Nat × Nat) :=
  (slice x.data o n,
   (x.poison.filter fun r => decide (r.1 < o + n) && decide (o < r.1 + r.2)).map fun r =>
     (r.1 - o, min (r.1 + r.2) (o + n) - max r.1 o))

/-- A poisoned range touches bytes `o .. o + n - 1`. -/
def foulRange (bad : List (Nat × Nat)) (o n : Nat) : Bool := bad.any fun r => decide (r.1 < o + n) && decide (o < r.1 + r.2)

/-- Offsets of a contribution's elements in the source (R289): dense, the values of output rows past their code areas, or the
dense positions whose mask bit is set. -/
def CollD.elemOffs (d : CollD) (mask : List Byte) : List Nat :=
  let w := d.width
  if !d.mask then (List.range (d.len / w)).map fun i => i * w
  else if !d.hasAux then
    (List.range (d.len / (48 + 192 * w))).flatMap fun r => (List.range 192).map fun i => r * (48 + 192 * w) + 48 + i * w
  else ((List.range (d.len / w)).filter fun i => bit (fieldAt mask (i / 8) 1) (i % 8)).map fun i => i * w

/-- A member's contribution to a chain, element by element (R289); a poisoned mask poisons all of it. -/
def Gang.contribution (x : Gang) (d : CollD) : List (List Byte × Bool) :=
  let m := x.part d.len d.maskBytes
  (d.elemOffs m.1).map fun o => (slice x.data o d.width, !m.2.isEmpty || foulRange x.poison o d.width)

/-! ## Landing chain chunks (R290, R295) -/

/-- The numbers of the units of a descriptor that the core of a rank serves (R284). -/
def State.servedUnits (s : State) (e : GroupEntry) (rank base n : Nat) : List Nat :=
  ((List.range n).map (base + ·)).filter (s.serves e rank)

/-- The first unit of a descriptor: chain chunks are numbered on from those of the descriptors before it in its fused list (R286). -/
def State.baseOf (s : State) (r : CollRun) : Nat :=
  if r.sized then r.base
  else match s.issueOf r.group r.core with
    | some i => if i.sizing == r.nth then i.units else 0
    | none => 0

/-- A chain descriptor's chunks are numbered once what gives their number is read, and their landing slots follow those of the collectives before it in ring order (R231). -/
def State.sizeRun (s : State) (r : CollRun) (e : GroupEntry) (x : Gang) : State :=
  let d := collD r.desc
  let earlier := (s.grd.colls.takeWhile fun y => y != r).filter fun y => y.group == r.group && y.core == r.core
  if r.sized || (d.mask && d.hasAux && x.await != 1) || earlier.any (fun y => !y.sized) then s
  else
    let base := s.baseOf r
    let n := ceilDiv ((d.elemOffs (x.part d.len d.maskBytes).1).length * d.width) d.unit
    let ring := ((s.task r.core r.task).landing[d.dst.car]).ring
    let mine := (s.servedUnits e (s.rankOf e r.core) base n).length
    ((s.modIssue r.group r.core fun i => { i with sizing := r.nth, units := base + n }).modRun r.core r.slot fun y =>
      { y with sized := true, base := base, units := n, ring0 := ring }).modTask r.core r.task fun y =>
      { y with landing := upd y.landing d.dst.car fun l => { l with ring := l.ring + mine * 2 ^ d.chunk } }

/-- Every chain descriptor whose data is read is numbered, in the order of their issue. -/
def State.sizeRuns (s : State) : State :=
  s.grd.colls.foldl (fun s r =>
    match s.collGroup r.group, (s.core r.core).gang? r.slot with
    | some e, some x => s.sizeRun r e x
    | _, _ => s) s

/-- The descriptor of a chain group that receives chunk `k` (R284): the earliest on the serving core that the chunk belongs to and
that has not been announced it; chunks of one context arrive in the order sent (R295). -/
def State.chainRun (s : State) (e : GroupEntry) (k : Nat) : Option CollRun :=
  match s.serving e k with
  | none => none
  | some c => s.grd.colls.find? fun r => r.group == e.group && r.core == c && !r.seen.contains k
      && (!r.sized || (decide (r.base ≤ k) && decide (k < r.base + r.units)))

/-- Where chunk `k` of a descriptor lands: in the landing carrel that DST names, from DST on, at the place that its index gives it in
ring order (R231, R290, R295). -/
def State.chunkPlace (s : State) (r : CollRun) (e : GroupEntry) (k : Nat) : Nat :=
  let d := collD r.desc
  let n := 2 ^ d.chunk
  let room := max 1 ((((s.task r.core r.task).data d.dst.car).slots * 65536 - d.dst.off) / n)
  let before := (s.servedUnits e (s.rankOf e r.core) (s.baseOf r) (k - s.baseOf r)).length
  let ring := if r.sized then r.ring0 else ((s.task r.core r.task).landing[d.dst.car]).ring
  addrLocal (s.locAddr r.core r.task d.dst) + (ring / n + before) % room * n

end Sys2Proof.Machine
end

