-- ==== Sys2Proof/Machine/Segment.lean ====
section
/-! DEFINITION. The start of a segment gang (R155, R157, R173): the conditions of Table CMD-14 from 0x10 on, the refusal, the
credits and the reads of every descriptor opcode. -/

namespace Sys2Proof.Machine

/-! ## Conditions shared by descriptors -/

/-- Code 0x11: `n` bytes at `off` of a location's carrel are not granted for an access. -/
def State.carBad (s : State) (c : CoreIx) (t : TaskIx) (l : Loc) (off n : Nat) (a : Acc) : List Bad :=
  let k := (s.task c t).data l.car
  if k.admits a (l.off + off) n then []
  else
    let granted : Bool := k.valid && (match a with
      | .read => k.rd
      | .write => k.wr
      | .reduce => k.red)
    [{ code := 0x11, car := l.car.val + 1, addr := k.firstBad (l.off + off) granted }]

/-- Codes 0x12 of one access: the region check of R65 and the key of R384. -/
def State.reachBad (s : State) (c : CoreIx) (a n : Nat) (ctx : BitVec 16) : List Bad :=
  let noKey : Bool :=
    match s.ctx? ctx with
    | some k => (addrModule a != s.glb.modIx.val || addrRange a == 4) && (s.sendKey k.group (s.region c)).isNone
    | none => false
  if (match s.dest c a with
      | .own _ => false
      | _ => !s.mayReach c a n ctx) || noKey
  then [{ code := 0x12, car := 15, addr := a }] else []

/-- Code 0x13: the stream context is not assigned to the core's region (R279); the record names the carrel and address of the access
that the context carries (R228). -/
def State.ctxBad (s : State) (c : CoreIx) (ctx : BitVec 16) (car addr : Nat) : List Bad :=
  match s.ctx? ctx with
  | some k => if k.decl.region != s.region c then [{ code := 0x13, car := car, addr := addr }] else []
  | none => [{ code := 0x13, car := car, addr := addr }]

/-! ## Cutting a descriptor into segments (R155) -/

/-- Bytes that a sparse descriptor reads at its source. -/
def sparseLen (o : Nat) (b : List Byte) : Nat :=
  fieldAt b 24 4 * (if o = 0x50 then (recBytes (fieldAt b 28 1)).1
    else if o = 0x52 then 0 else elemBytes (fieldAt b 28 1))

/-- Bytes of one folio of a sparse descriptor, dense and packed. -/
def folioPair (pat efmt : Nat) : Nat × Nat := (patSpan pat * 192 * elemBytes efmt, packedSize pat efmt false)

/-- The transfer that a descriptor is cut as: bytes of a row, and rows (R155). A COLL is cut by its block, and a sparse command by its
source (DESIGN CHOICE, log entry 9). -/
def descShape (o : Nat) (b : List Byte) : Nat × Nat :=
  match o with
  | 0x40 => (fieldAt b 16 4, fieldAt b 20 4)
  | 0x60 => (if fieldAt b 22 1 = 0 then 0 else fieldAt b 16 4, 1)
  | 0x70 => (fieldAt b 16 4, 1)
  | 0x72 => (fieldAt b 16 4, 1)
  | 0x71 => (0, 1)
  | 0x73 => (0, 1)
  | 0x52 =>
    let w := folioPair (fieldAt b 29 1 % 4) (fieldAt b 28 1)
    (fieldAt b 24 4 * elemBytes (fieldAt b 28 1) / max 1 w.1 * w.2, 1)
  | _ => (sparseLen o b, 1)

/-- How many segments a descriptor makes. -/
def descSegs (o : Nat) (b : List Byte) : Nat := segCount (descShape o b).1 (descShape o b).2

/-- Segment `k` of a descriptor; where elements are added or digested its pieces hold whole ones (log entry 9). -/
def descSegAt (o : Nat) (b : List Byte) (k : Nat) : Seg :=
  let sh := descShape o b
  let g := segAt sh.1 sh.2 k
  let whole (e : Nat) : Seg := if 65536 < sh.1 then g.whole (max 1 (elemBytes e)) sh.1 else g
  match o with
  | 0x40 =>
    let d := streamD b
    if d.codec = 0 ∧ (d.op = 1 ∨ d.dig) ∧ d.efmt ≤ 8 then whole d.efmt else g
  | 0x70 => if fieldAt b 32 1 ≤ 8 then whole (fieldAt b 32 1) else g
  | _ => g

/-- The units of `u` bytes whose last byte lies in bytes `lo .. lo + n - 1`: the first and how many. -/
def unitsIn (u lo n : Nat) : Nat × Nat := (lo / max 1 u, (lo + n) / max 1 u - lo / max 1 u)

/-! ## STREAM -/

/-- A segment's row `j`: source address and length, destination offset in the row and its length there. -/
structure Row where
  src  : Nat
  n    : Nat
  doff : Nat
  dn   : Nat
  deriving DecidableEq, Repr

/-- The rows of a segment, as source offsets from SRC and destination offsets from DST. -/
def StreamD.rowsOf (d : StreamD) (g : Seg) (anch : Bool) : List Row :=
  let w := redSizes d.efmt anch d.epw
  (List.range g.rows).map fun j =>
    let o := if d.op = 1 then g.off / max 1 w.1 * w.2 else g.off
    let n := if d.op = 1 then g.len / max 1 w.1 * w.2 else g.len
    { src := (g.row + j) * d.sstr + g.off, n := g.len, doff := (g.row + j) * d.dstr + o, dn := n }

/-- Bytes one folio of a codec reads and writes (R160, R216); both zero where the codec has none. -/
def StreamD.codecSizes (d : StreamD) : Nat × Nat :=
  let pat := (d.codec - 2) % 3
  let w := folioPair pat d.efmt
  if d.codec = 1 then
    let n := 192 * (if isMx d.efmt then mxRow d.efmt else 192 * elemBytes d.efmt)
    (n, n)
  else if d.codec ≤ 4 then w else (w.2, w.1)

/-- The folios of a codec that a segment's gang makes, those whose last source byte lies in the segment: the first and how many
(DESIGN CHOICE, log entry 9). -/
def StreamD.folios (d : StreamD) (g : Seg) : Nat × Nat :=
  unitsIn d.codecSizes.1 (g.row * d.len + g.off) (g.rows * g.len)

/-- Where folio `f` of a codec goes, as an offset from DST: in the output row of its source row where every row holds whole folios,
else in one run (DESIGN CHOICE, log entry 14). -/
def StreamD.folioDst (d : StreamD) (f : Nat) : Nat :=
  let w := d.codecSizes
  if d.len % max 1 w.1 = 0 then f / max 1 (d.len / max 1 w.1) * d.dstr + f % max 1 (d.len / max 1 w.1) * w.2 else f * w.2

/-- Bytes `lo .. lo + n - 1` of rows of `len` bytes, `str` apart, as (offset, length, place). -/
def rowCuts (len str lo n : Nat) : List (Nat × Nat × Nat) :=
  if n = 0 then []
  else
    (List.range ((lo + n - 1) / max 1 len - lo / max 1 len + 1)).map fun i =>
      let r := lo / max 1 len + i
      let a := max lo (r * len)
      (r * str + (a - r * len), min (lo + n) (r * len + len) - a, a - lo)

/-- The source bytes of a segment as (offset from SRC, length, place in the gang's data). -/
def StreamD.ins (d : StreamD) (g : Seg) (anch : Bool) : List (Nat × Nat × Nat) :=
  if d.codec ≠ 0 then
    let f := d.folios g
    rowCuts d.len d.sstr (f.1 * d.codecSizes.1) (f.2 * d.codecSizes.1)
  else (d.rowsOf g anch).zipIdx.map fun r => (r.1.src, r.1.n, r.2 * g.len)

/-- The destination bytes of a segment as (data offset, offset from DST, length). -/
def StreamD.outs (d : StreamD) (g : Seg) (anch : Bool) : List (Nat × Nat × Nat) :=
  if d.codec ≠ 0 then
    (List.range (d.folios g).2).map fun i => (i * d.codecSizes.2, d.folioDst ((d.folios g).1 + i), d.codecSizes.2)
  else (d.rowsOf g anch).zipIdx.map fun r => (r.2 * g.len, r.1.doff, r.1.dn)

/-- The hint byte that a stacks address takes, the descriptor's or, where it gives none, the covering PLACEMENT entry's (R237). -/
def State.hintFor (s : State) (hint a : Nat) : Nat :=
  match place a with
  | .stacks o =>
    (match s.image.places.find? fun p => decide (p.first ≤ o) && decide (o ≤ p.last) with
      | some p => if hint = 0 then p.hint.toNat else if bits hint 1 2 = 0 then hint ||| (p.hint.toNat &&& 6) else hint
      | none => hint)
  | _ => 0

/-- A reserved value of a hint byte (Table MEM-6). -/
def hintBad (h : Nat) : Bool := bits h 4 4 != 0 || bit h 0 || bits h 1 2 == 3

/-- Reserved or invalid fields of a STREAM descriptor (Table CMD-10, R237, R332, R378), code 0x10. -/
def State.streamFields (s : State) (d : StreamD) (b : List Byte) (anch : Bool) : Bool :=
  let w := redSizes d.efmt anch d.epw
  d.len == 0 || d.rows == 0 || decide (1 < d.op) || bits (fieldAt b 36 1) 1 2 != 0 || d.vc == 0 || decide (7 < d.codec)
    || bits (fieldAt b 43 1) 4 4 != 0 || !zeroAt b 44 4 || !zeroAt b 56 8 || bits (fieldAt b 40 2) 12 4 != 0
    || (d.epw && !(d.op == 1 && d.efmt == 0 && anch))
    || hintBad d.hint
    || (d.dig && decide (8 < d.efmt))
    || (d.op == 1 && decide (d.efmt < 9) && d.len % max 1 w.1 != 0)
    || (d.codec == 1 && !isFl d.efmt && d.efmt != 6 && !isMx d.efmt)
    || (decide (2 ≤ d.codec) && !(decide (1 ≤ d.efmt) && decide (d.efmt ≤ 4)))
    || (d.codec != 0 && (d.op == 1 || d.len * d.rows % max 1 d.codecSizes.1 != 0))
    || (d.rope != 0 && (match s.ctx? d.ctx with
        | some k => k.decl.rope != d.rope
        | none => true))

/-- R257 and R272: an archive fetch breaks its rules. -/
def State.fetchBad (s : State) (c : CoreIx) (t : TaskIx) (d : StreamD) : Bool :=
  let dst := s.locAddr c t d.dst
  let landing : Bool := addrRange dst == 0 && ((s.task c t).data d.dst.car).land
  let intake : Bool := match s.ctx? d.ctx with
    | some k => k.decl.intake
    | none => false
  let shard := s.image.shards[bits (s.locAddr c t d.src) 40 16]?
  d.op != 0 || d.rows != 1 || d.vc != 2 || !intake
    || (!d.mcast && !(addrModule dst == s.glb.modIx.val && (addrRange dst == 2 || addrRange dst == 1 || landing)))
    || (d.mcast && (match shard with
        | some h => decide (65536 < h.w)
        | none => false))

/-- R263: an archive return breaks its rules. -/
def State.returnBad (s : State) (c : CoreIx) (t : TaskIx) (d : StreamD) : Bool :=
  let dst := s.locAddr c t d.dst
  let ok : Bool := match s.ctx? d.ctx with
    | some k => k.decl.intake && k.decl.peer == 0x80
    | none => false
  d.op != 0 || d.rows != 1 || d.vc != 3 || !ok || bits dst 0 40 % 4096 != 0
    || addrModule (s.locAddr c t d.src) != s.glb.modIx.val
    || (match s.image.shards[bits dst 40 16]? with
        | some h => !h.ret
        | none => true)

/-- The carrels that a multicast of an intake context lands in: its targets' landing carrels at an offset, with this module as
sender and the context (R272). -/
def State.mcastCarrel (s : State) (c : CoreIx) (ctx : BitVec 16) (off : Nat) : Option Carrel :=
  (List.finRange 4).findSome? fun t => (List.finRange 8).findSome? fun k =>
    let x := (s.task c t).data k
    if x.valid && x.land && x.smod == s.glb.modIx.val && x.sctx == ctx && place x.base.toNat == .scratch c off then some x else none

/-- The slots of the landing carrels that a multicast fetch lands in: its first target's (R272). -/
def State.mcastSlots (s : State) (d : StreamD) : Nat :=
  let (x0, x1, y0, y1) := rectBounds d.rect
  match (s.mcastTargets x0 x1 y0 y1 d.cmask).head? with
  | some c => (match s.mcastCarrel c d.ctx d.dst.off with
    | some k => k.slots
    | none => 1)
  | none => 1

/-- The multicast rules of R41, R42, R158 and R272 are broken: code 0x10 or 0x14. -/
def State.mcastBad (s : State) (src : FieldIx) (d : StreamD) (fetch : Bool) (outs : List (Nat × Nat × Nat)) : List Bad :=
  let (x0, x1, y0, y1) := rectBounds d.rect
  let ts := s.mcastTargets x0 x1 y0 y1 d.cmask
  badIf (d.op == 1 || !(d.vc == 1 || d.vc == 2) || outs.any (fun r => decide (scratchSize < d.dst.off + r.2.1 + r.2.2)) || s.mcastRefused src d.rect) 0x14
    ++ (if fetch then
        match ts.map fun c => (s.mcastCarrel c d.ctx d.dst.off).map Carrel.slots with
        | [] => []
        | n :: ns => badIf (n.isNone || ns.any fun m => m != n) 0x10
      else [])

/-- The field a descriptor's multicast enters the mesh at: the core's own, or the attachment field of an intake context. -/
def State.mcastField (s : State) (c : CoreIx) (d : StreamD) (fetch : Bool) : FieldIx :=
  if fetch then
    match s.ctx? d.ctx with
    | some k => ⟨attachField k.group (ctxSub d.ctx) % 64, Nat.mod_lt _ (by decide)⟩
    | none => coreField c
  else coreField c

/-- The region checks of a segment's accesses. -/
def State.streamReach (s : State) (c : CoreIx) (t : TaskIx) (d : StreamD) (g : Seg) (anch : Bool) : List Bad :=
  let src := s.locAddr c t d.src
  let dst := s.locAddr c t d.dst
  (d.ins g anch).flatMap (fun r => s.reachBad c (src + r.1) r.2.1 d.ctx)
    ++ (if d.mcast then
        let (x0, x1, y0, y1) := rectBounds d.rect
        (s.mcastTargets x0 x1 y0 y1 d.cmask).flatMap fun k =>
          s.reachBad c (s.glb.modIx.val * 2 ^ 60 + scratchAddr k 0) 1 d.ctx
      else (d.outs g anch).flatMap fun r => s.reachBad c (dst + r.2.1) r.2.2 d.ctx)

/-- A reserved hint reaches one of a segment's stacks addresses (R237). -/
def State.streamHint (s : State) (c : CoreIx) (t : TaskIx) (d : StreamD) (g : Seg) (anch : Bool) : Bool :=
  ((d.ins g anch).any fun r => hintBad (s.hintFor d.hint (s.locAddr c t d.src + r.1)))
    || (!d.mcast && (d.outs g anch).any fun r => hintBad (s.hintFor d.hint (s.locAddr c t d.dst + r.2.1)))

/-- Every condition that a STREAM segment meets. -/
def State.streamSegBad (s : State) (c : CoreIx) (t : TaskIx) (anch : Bool) (b : List Byte) (g : Seg) : List Bad :=
  let d := streamD b
  let src := s.locAddr c t d.src
  let dst := s.locAddr c t d.dst
  let fetch : Bool := addrRange src == 4
  let ret : Bool := !d.mcast && addrRange dst == 4
  badIf (s.streamFields d b anch || (fetch && s.fetchBad c t d) || (ret && s.returnBad c t d) || s.streamHint c t d g anch) 0x10
    ++ (d.ins g anch).flatMap (fun r => s.carBad c t d.src r.1 r.2.1 .read)
    ++ (if d.mcast then [] else (d.outs g anch).flatMap fun r =>
          s.carBad c t d.dst r.2.1 r.2.2 (if d.op = 1 then .reduce else .write))
    ++ s.streamReach c t d g anch
    ++ (if fetch then s.ctxBad c d.ctx (d.src.car.val + 1) (src + g.off) else s.ctxBad c d.ctx (d.dst.car.val + 1) dst)
    ++ badIf (!d.mcast && d.op == 1 && addrRange dst != 1) 0x14
    ++ (if d.mcast then s.mcastBad (s.mcastField c d fetch) d fetch (d.outs g anch) else [])

/-! ## The other descriptors (Tables CMD-11 and CMD-12) -/

/-- One read or write of a descriptor without a stream context: carrel, then region (R65). -/
def State.accBad (s : State) (c : CoreIx) (t : TaskIx) (l : Loc) (n : Nat) (a : Acc) : List Bad :=
  s.carBad c t l 0 n a ++ s.reachBad c (s.locAddr c t l) n 0

def State.cairnBad (s : State) (c : CoreIx) (t : TaskIx) (b : List Byte) (g : Seg) : List Bad :=
  badIf (fieldAt b 16 4 == 0 || !zeroAt b 8 8 || !zeroAt b 20 4 || decide (8 < fieldAt b 32 1)
      || bits (fieldAt b 33 1) 4 4 != 0 || !zeroAt b 34 30) 0x10
    ++ s.accBad c t { locAt b 0 with off := (locAt b 0).off + g.off } g.len .read

def State.ccloseBad (s : State) (c : CoreIx) (t : TaskIx) (b : List Byte) : List Bad :=
  badIf (!zeroAt b 0 8 || !zeroAt b 16 17 || bits (fieldAt b 33 1) 4 4 != 0 || !zeroAt b 34 30) 0x10
    ++ s.accBad c t (locAt b 8) 16 .write

/-- A SHA segment reads its piece; the descriptor's last also reads the expected digest and writes the result (R163). -/
def State.shaBad (s : State) (c : CoreIx) (t : TaskIx) (b : List Byte) (g : Seg) : List Bad :=
  let cmp := bit (fieldAt b 32 1) 0
  badIf (fieldAt b 16 4 == 0 || !zeroAt b 20 4 || (!cmp && !zeroAt b 24 8) || decide (1 < fieldAt b 32 1)
      || !zeroAt b 33 31) 0x10
    ++ s.accBad c t { locAt b 0 with off := (locAt b 0).off + g.off } g.len .read
    ++ (if g.off + g.len = fieldAt b 16 4 then
          s.accBad c t (locAt b 8) 32 .write ++ (if cmp then s.accBad c t (locAt b 24) 32 .read else [])
        else [])

/-- Bytes of the head of a LEDGER input block (Table AUD-2). -/
def ledgerHead : Nat := 80

/-- Bytes of the whole input block that a head's counts give (Table AUD-2). -/
def ledgerLen (head : List Byte) : Nat :=
  ledgerHead + roundUp (2 * fieldAt head 8 2) 32 + 32 * fieldAt head 10 2 + 32 * fieldAt head 12 2

/-- The record length of R338 for `ncairn` distinct labels. -/
def recordLen (nshard ninput ncairn : Nat) : Nat := 256 + 48 * nshard + 32 * ninput + 32 * ncairn + 96

/-- The cairn entries of an input block. -/
def ledgerCairns (block : List Byte) : List (List Byte) :=
  let o := ledgerHead + roundUp (2 * fieldAt block 8 2) 32 + 32 * fieldAt block 10 2
  (List.range (fieldAt block 12 2)).map fun i => slice block (o + 32 * i) 32

/-- The distinct labels of an input block, in order of first appearance (R339). -/
def ledgerLabels (block : List Byte) : List Nat := ((ledgerCairns block).map fun e => fieldAt e 0 4).eraseDups

/-- The error of Table AUD-5 that a request meets, 0 for none (R337). -/
def State.ledgerErr (s : State) (block : List Byte) (bad : List (Nat × Nat)) (size : Nat) : Nat :=
  let n := fieldAt block 8 2
  let i := fieldAt block 10 2
  let k := fieldAt block 12 2
  if !s.aud.keyOk then 5
  else if bad.any fun r => decide (r.1 < ledgerHead) then 4
  else if fieldAt block 0 4 ≠ 0x4947444C || decide (1 < fieldAt block 4 1) || !zeroAt block 5 3 || !zeroAt block 14 2
      || (ledgerCairns block).any (fun e => !zeroAt e 4 12) || !zeroAt block (ledgerHead + 2 * n) (roundUp (2 * n) 32 - 2 * n) then 1
  else if 1024 < n ∨ 256 < i ∨ 4096 < k then 2
  else if size < recordLen n i (ledgerLabels block).length then 3
  else 0

def State.ledgerBad (s : State) (c : CoreIx) (t : TaskIx) (b : List Byte) : List Bad :=
  let a := s.locAddr c t (locAt b 0)
  let n := if s.localTier a then ledgerLen (s.mem.read (addrLocal a) ledgerHead) else ledgerHead
  badIf (fieldAt b 16 4 == 0 || !zeroAt b 20 44
      || !s.localTier a || !s.localTier (s.locAddr c t (locAt b 8))) 0x10
    ++ s.accBad c t (locAt b 0) n .read ++ s.accBad c t (locAt b 8) (fieldAt b 16 4) .write

/-- The fields of a sparse descriptor (Table CMD-12, Table SPR-3). -/
structure SparseD where
  src  : Loc
  dst  : Loc
  aux  : Loc
  hasAux : Bool
  len  : Nat
  efmt : Nat
  pat  : Nat
  deriving DecidableEq, Repr

def sparseD (b : List Byte) : SparseD :=
  { src := locAt b 0, dst := locAt b 8, aux := locAt b 16, hasAux := !zeroAt b 16 8
    len := fieldAt b 24 4, efmt := fieldAt b 28 1, pat := fieldAt b 29 1 }

/-- What a segment of a sparse command reads and makes: its units, folios or rows, with the first one's number (R155; log entry 9), the
source bytes as (offset, length), the AUX bytes as (offset, length), and where in the destination what it writes begins and how long
it is. Under TRANS the last segment makes every folio. -/
structure SparseCut where
  first : Nat
  src   : Nat × Nat
  aux   : Nat × Nat
  dst   : Nat × Nat
  deriving DecidableEq, Repr

def SparseD.cut (o : Nat) (d : SparseD) (b : List Byte) (g : Seg) : SparseCut :=
  let e := elemBytes d.efmt
  let pat := d.pat % 4
  let w := folioPair pat d.efmt
  match o with
  | 0x51 =>
    let wo := packedSize pat d.efmt (bit d.pat 3)
    let n := d.len * e / max 1 w.1
    if bit d.pat 2 then
      let per := patSpan pat / 192
      if g.off + g.len = d.len * e then
        { first := 0, src := (0, d.len * e), aux := (0, if d.hasAux then ceilDiv d.len 8 else 0), dst := (0, per * ceilDiv n per * wo) }
      else { first := 0, src := (0, 0), aux := (0, 0), dst := (0, 0) }
    else
      let u := unitsIn w.1 g.off g.len
      let m := patSpan pat * 24
      { first := u.1, src := (u.1 * w.1, u.2 * w.1), aux := if d.hasAux then (u.1 * m, u.2 * m) else (0, 0), dst := (u.1 * wo, u.2 * wo) }
  | 0x52 =>
    let u := unitsIn w.2 g.off g.len
    let wo := if bit d.pat 3 then 192 * (48 + 192 * codeOb d.efmt (bits d.pat 4 3)) else w.1
    { first := u.1, src := (u.1 * w.2, u.2 * w.2), aux := (0, 0), dst := (u.1 * wo, u.2 * wo) }
  | 0x53 =>
    let ncol := fieldAt b 16 4
    let m := max 1 (fieldAt b 20 4)
    let ob := 48 + 192 * codeOb d.efmt (bits d.pat 0 3)
    let u := unitsIn (ncol * e) g.off g.len
    let tile := ncol / 384 * roundUp (m * ob) 256
    { first := u.1, src := (u.1 * (ncol * e), u.2 * (ncol * e)), aux := (0, 0)
      dst := if u.2 = 0 then (0, 0) else (u.1 / m * tile, ((u.1 + u.2 - 1) / m + 1 - u.1 / m) * tile) }
  | _ =>
    { first := 0, src := (0, d.len * (recBytes d.efmt).1), aux := (0, 4 * (d.pat % 16 + 1)), dst := (0, (d.len + 1) * (recBytes d.efmt).1) }

/-- Reserved or invalid fields of a sparse descriptor (R209 to R214), code 0x10. -/
def sparseFields (o : Nat) (d : SparseD) (b : List Byte) : Bool :=
  let pat := d.pat % 4
  d.len == 0 || !zeroAt b 30 34 ||
  (match o with
   | 0x51 =>
     !(decide (1 ≤ d.efmt) && decide (d.efmt ≤ 4)) || pat == 3 || decide (16 ≤ d.pat) || d.len % (patSpan pat * 192) != 0
       || (bit d.pat 2 && (pat == 2 || !d.hasAux))
   | 0x52 =>
     !(decide (1 ≤ d.efmt) && decide (d.efmt ≤ 4)) || pat == 3 || bit d.pat 7 || bit d.pat 2 || d.hasAux
       || d.len % (patSpan pat * 192) != 0 || (bit d.pat 3 && (pat != 0 || decide (5 < bits d.pat 4 3)))
   | 0x53 =>
     decide (4 < d.efmt) || decide (5 < d.pat) || fieldAt b 16 4 == 0 || fieldAt b 16 4 % 384 != 0 || fieldAt b 20 4 == 0
       || d.len % max 1 (fieldAt b 16 4) != 0
   | _ =>
     !(d.efmt == 0 || d.efmt == 6 || d.efmt == 7 || d.efmt == 8) || decide (64 ≤ d.pat)
       || (bits d.pat 4 2 == 1 && isEp d.efmt) || decide (65536 < d.len * (recBytes d.efmt).1))

def State.sparseBad (s : State) (c : CoreIx) (t : TaskIx) (o : Nat) (b : List Byte) (g : Seg) : List Bad :=
  let d := sparseD b
  let w := d.cut o b g
  let at_ (l : Loc) (x : Nat × Nat) (a : Acc) : List Bad := if x.2 = 0 then [] else s.accBad c t { l with off := l.off + x.1 } x.2 a
  badIf (sparseFields o d b || (o == 0x50 && addrRange (s.locAddr c t d.dst) != 1)) 0x10
    ++ at_ d.src w.src .read ++ at_ d.aux w.aux .read ++ at_ d.dst w.dst .write

/-- Reserved or invalid fields of a COLL descriptor (Table CMD-11, R161, R285, R287, R288, R300, Table GRD-5). -/
def State.collFields (s : State) (c : CoreIx) (t : TaskIx) (d : CollD) (b : List Byte) (fused : List CollD) : Bool :=
  bits (fieldAt b 20 2) 12 4 != 0 || decide (6 < d.kind) || bits (fieldAt b 23 1) 4 3 != 0
    || !(decide (16 ≤ d.chunk) && decide (d.chunk ≤ 23)) || bits (fieldAt b 29 1) 3 5 != 0 || bits (fieldAt b 30 1) 4 4 != 0
    || !zeroAt b 31 1 || !zeroAt b 56 8 || (!(d.kind == 5 || d.kind == 6) && !zeroAt b 40 8)
    || (d.dig && decide (8 < d.wfmt)) || (d.kind != 0 && d.len == 0) || fused.any (fun f => f.group != d.group || f.kind != d.kind)
    || (match s.collGroup d.group with
        | none => true
        | some e =>
          !inRect e.rectWord c.val || (d.kind == 4) != (e.role == 1)
            || (d.kind == 1 && (match e.members[d.root]? with
                | some m => s.absentRun m
                | none => true)))
    || ((d.kind == 3 || d.kind == 4) && !(d.wfmt == 0 || d.wfmt == 1 || d.wfmt == 7 || d.wfmt == 8))
    || (d.kind == 4 && (d.ctx.toNat % 4 != 0 || (List.range 4).any fun i =>
          match s.ctx? (d.ctx + BitVec.ofNat 16 i) with
          | some k => k.decl.port != 4 + i / 2
          | none => false))
    || (decide (1 ≤ d.kind) && d.kind != 4 && addrRange (s.locAddr c t d.dst) == 0)

/-- The tables of an expert exchange that lie in this module's tiers: the counts and the indices (R299). -/
def State.peekTables (s : State) (c : CoreIx) (t : TaskIx) (d : CollD) (e : GroupEntry) : Option (List Nat) × Option (List Nat) :=
  match s.peekTable (s.locAddr c t d.aux2) e.nmem with
  | none => (none, none)
  | some cs => (some cs, s.peekTable (s.locAddr c t d.aux) cs.sum)

/-- The carrel and region checks of what an expert exchange reads beyond its counts, as far as the tables are known (R65, R142). -/
def State.expertBad (s : State) (c : CoreIx) (t : TaskIx) (d : CollD) (e : GroupEntry) (cs ix : Option (List Nat)) : List Bad :=
  let src := s.locAddr c t d.src
  match cs with
  | none => []
  | some cs =>
    (if cs.sum = 0 then [] else s.carBad c t d.aux 0 (4 * cs.sum) .read ++ s.reachBad c (s.locAddr c t d.aux) (4 * cs.sum) d.ctx)
      ++ (if d.kind = 6 then s.carBad c t d.dst 0 (cs.sum * d.len) .write else [])
      ++ (match ix with
          | none => []
          | some ix => if d.kind = 5 then
              (s.collRows d e (s.rankOf e c) cs ix).flatMap fun r => s.carBad c t d.src r d.len .read ++ s.reachBad c (src + r) d.len d.ctx
            else [])

/-- Every condition that a COLL descriptor meets. The DST of a chain names landing carrels in its core's own scratchpad. -/
def State.collBad (s : State) (c : CoreIx) (t : TaskIx) (b : List Byte) (fused : List CollD) : List Bad :=
  let d := collD b
  let dst := s.locAddr c t d.dst
  badIf (s.collFields c t d b fused) 0x10
    ++ (match s.collGroup d.group with
        | none => []
        | some e =>
          let w := s.collSizes d e 0
          let tabs := if d.expert then s.peekTables c t d e else (none, none)
          (if w.1 = 0 then [] else s.carBad c t d.src 0 w.1 .read ++ s.reachBad c (s.locAddr c t d.src) w.1 d.ctx)
            ++ (if d.maskBytes = 0 then [] else
              s.carBad c t d.aux 0 d.maskBytes .read ++ s.reachBad c (s.locAddr c t d.aux) d.maskBytes d.ctx)
            ++ (if !d.expert then [] else
              s.carBad c t d.aux2 0 (4 * e.nmem) .read ++ s.reachBad c (s.locAddr c t d.aux2) (4 * e.nmem) d.ctx)
            ++ s.expertBad c t d e tabs.1 tabs.2
            ++ (if d.kind = 4 && !s.grd.first then s.carBad c t d.dst 0 (2 ^ d.chunk) .write else [])
            ++ (if w.2 = 0 then [] else s.carBad c t d.dst 0 w.2 .write ++ s.reachBad c dst w.2 d.ctx))
    ++ (if d.kind = 4 then (List.range 4).flatMap fun i => s.ctxBad c (d.ctx + BitVec.ofNat 16 i) (d.dst.car.val + 1) dst
        else s.ctxBad c d.ctx (d.dst.car.val + 1) dst)

/-- The segment of a gang. -/
def gangSeg (o : Nat) (d : Desc) (i : Nat) : Seg := descSegAt o d.bytes (i - d.first)

/-- The folios of a shard that bytes `off .. off + n - 1` touch: first and count. -/
def foliosOf (w off n : Nat) : Nat × Nat := (off / max 1 w, (off + n - 1) / max 1 w - off / max 1 w + 1)

/-- The source bytes of a segment of an archive fetch, as (offset from SRC, length). -/
def StreamD.fetchSpan (d : StreamD) (g : Seg) : Nat × Nat :=
  if d.codec ≠ 0 then ((d.folios g).1 * d.codecSizes.1, (d.folios g).2 * d.codecSizes.1) else (g.off, g.len)

/-! ## Refusal (R173) -/

/-- The destination ranges (rack address, length) of a segment. -/
def State.segDests (s : State) (c : CoreIx) (t : TaskIx) (o : Nat) (anch : Bool) (b : List Byte) (g : Seg) :
    List (Nat × Nat) :=
  match o with
  | 0x40 =>
    let d := streamD b
    if d.mcast then
      let (x0, x1, y0, y1) := rectBounds d.rect
      (s.mcastTargets x0 x1 y0 y1 d.cmask).flatMap fun k => (d.outs g anch).map fun r =>
        (s.glb.modIx.val * 2 ^ 60 + scratchAddr k (min scratchSize (d.dst.off + r.2.1)),
          min r.2.2 (scratchSize - (d.dst.off + r.2.1)))
    else (d.outs g anch).map fun r => (s.locAddr c t d.dst + r.2.1, r.2.2)
  | 0x60 =>
    let d := collD b
    if g.off ≠ 0 then []
    else match s.collGroup d.group with
      | some e =>
        let cs := if d.kind = 6 then (s.peekTables c t d e).1.getD [] else []
        [(s.locAddr c t d.dst, (s.collSizes d e cs.sum).2)]
      | none => []
  | 0x70 => []
  | 0x71 => [(s.locAddr c t (locAt b 8), 16)]
  | 0x72 => if g.off + g.len = fieldAt b 16 4 then [(s.locAddr c t (locAt b 8), 32)] else []
  | 0x73 => [(s.locAddr c t (locAt b 8), fieldAt b 16 4)]
  | _ =>
    let w := (sparseD b).cut o b g
    [(s.locAddr c t (sparseD b).dst + w.dst.1, w.dst.2)]

/-- Bytes of its tier's unit from a rack address on. -/
def tierLeft (a : Nat) : Nat :=
  match place a with
  | .scratch _ o => scratchSize - o
  | .slice _ o => 2 ^ 26 - o
  | .stacks o => stacksSize - o
  | _ => 0

/-- The part of a range of this module's scratchpads, slices or stacks that exists is poisoned. -/
def State.poisonRange (s : State) (c : CoreIx) (a n : Nat) : State :=
  let m := min n (tierLeft a)
  if s.localTier a && !s.absentAt a m && m != 0 then s.spoilAt (some c) (granules (addrLocal a) m) else s

/-- R173: a refused segment performs no access; its local destination granules are written poisoned, it is counted and
logged, and it counts as retired when its gang does. -/
def State.refuseSeg (s : State) (c : CoreIx) (g : SlotIx) (t : TaskIx) (b : Bad) (dests : List (Nat × Nat)) : State :=
  let s1 := dests.foldl (fun s d => s.poisonRange c d.1 d.2) s
  let s2 := s1.modCnt c fun k => { k with refused := bump k.refused }
  ((s2.modGang c g fun x => { x with started := true, refused := true }).carrelFault c t b).coreEvent c 1 1 b.code

end Sys2Proof.Machine
end

