-- ==== Sys2Proof/Machine/CoreRun.lean ====
section
/-! DEFINITION. The core's machinery: fetching (R68, R134, R170, R486, R487), gangs and their slots (R74 to R78, R83, R202), completion
(R71), descriptor setup (R144), slices (R91 to R94) and clock levels (R95 to R99). -/

namespace Sys2Proof.Machine

/-! ## Fetching -/

/-- The word the fetcher reads next: its bits, or a synthetic END after the last word of the slice (R170). A poisoned granule
gives unspecified bits (R131), and the read may find errors (R239, R240). -/
def State.fetchWord (s : State) (k : Task) (ecc : List EccErr) : W128 × State :=
  if k.sliceLen ≤ k.fetchIx then (BitVec.ofNat 128 (0x0F * 2 ^ 120), s)
  else
    let a := addrLocal ((k.carrels[(0 : Fin 9)]).base.toNat + 16 * k.fetchIx)
    let s1 := s.readErrors a 16 ecc
    (BitVec.ofNat 128 (leNat (s1.view a 16)), s1.fresh 16)

/-- The first TWAIT of pitch *E* or later ends skipping (R486). -/
def skipEnds (w : W128) (e : Nat) : Bool := wOpc w == 0x06 && decide (e ≤ wPnum w)

/-- A skipped command acts as Table FLT-4 gives. -/
def State.skip (s : State) (c : CoreIx) (t : TaskIx) (w : W128) : State :=
  let s1 : State :=
    match wOpc w with
    | 0x02 => s.clearCounters c t (fld w 0 64)
    | 0x03 => s.raise c t (wCtr w) (fld w 0 32)
    | 0x11 => s.modTask c t fun k => { k with mp := msetOf w }
    | 0x0F => s.modTask c t fun k => { k with ended := true, active := false }
    | _ => s
  s1.raiseFor c t w

/-- A task context's fetcher runs: the run's cores fetch, the core is one of them, no fence holds it, and its slice runs (R68, R92, R182,
R328, R412). -/
def State.fetches (s : State) (c : CoreIx) (t : TaskIx) : Bool :=
  s.issuing && s.inRun c && !s.fenced (vlog (coreField c)) && s.named c t && (s.task c t).active && !(s.task c t).stopped

/-- COMMAND_FETCH: the next word of the slice enters its queue, or the fetcher stalls on a full one; skipped words act under
Table FLT-4 (R68, R69, R134, R170, R486). -/
def execCommandFetch (c : CoreIx) (t : TaskIx × List EccErr) (s : State) : Host.Outcome State Fault Refusal :=
  .next (
    let k := s.task c t.1
    if !s.fetches c t.1 then s
    else
      let (w, s1) := s.fetchWord k t.2
      if k.skipTo ≠ 0 && !skipEnds w k.skipTo then
        (s1.modTask c t.1 fun x => { x with fetchIx := x.fetchIx + 1 }).skip c t.1 w
      else
        let q := opQueue (wOpc w)
        if 64 ≤ (k.queue q).length then s
        else
          s1.modTask c t.1 fun x =>
            { (x.setQueue q (x.queue q ++ [{ word := w, index := x.fetchIx }])) with
              fetchIx := x.fetchIx + 1, skipTo := 0, active := wOpc w != 0x0F })

/-! ## Gangs -/

/-- FLD_GANG_RSV fields (Table COR-3). -/
def rsvMat (w : W32) : Nat := bits w.toNat 0 3
def rsvVec (w : W32) : Nat := bits w.toNat 11 9
def rsvStr (w : W32) : Nat := bits w.toNat 20 9

/-- The slots of a queue's reservation: first and count (R75). -/
def Core.reservation (k : Core) (q : Queue) : Nat × Nat :=
  match q with
  | .mat => (0, rsvMat k.rsv)
  | .vec => (rsvMat k.rsv, rsvVec k.rsv)
  | _ => (rsvMat k.rsv + rsvVec k.rsv, rsvStr k.rsv)

/-- The first slot of the shared pool (R75). -/
def Core.pool (k : Core) : Nat := rsvMat k.rsv + rsvVec k.rsv + rsvStr k.rsv

/-- A slot is free. -/
def Core.slotFree (k : Core) (i : SlotIx) : Bool := k.gangs.all fun g => g.slot != i

/-- The slots a gang of a queue may take, lowest first: its reservation, then the pool (R75). -/
def Core.freeSlots (k : Core) (q : Queue) : List SlotIx :=
  let r := k.reservation q
  let all := (List.finRange 512).filter k.slotFree
  (all.filter fun i => decide (r.1 ≤ i.val) && decide (i.val < r.1 + r.2)) ++ all.filter fun i => decide (k.pool ≤ i.val)

/-- The accumulator bytes of a gang of a matrix command (Table COR-5). -/
def Cmd.accSize (x : Cmd) : Nat :=
  let o := matOp x.word x.mp
  match pairKind o.pair with
  | some k => accBytes o k x.anch
  | none => 0

/-- Matrix engines that accept a gang of `n` accumulator bytes, lowest first (R78, R83): every earlier gang's last folio has been applied,
and the accumulator array has room for the sub-tile beside those that drain. -/
def Core.freeEngines (k : Core) (now n : Nat) : List (Fin 4) :=
  (List.finRange 4).filter fun e =>
    let on := k.gangs.filter fun g => g.engine == some e
    on.all (fun g => decide (g.applied ≤ 17 * now)) && decide ((on.map Gang.accSize).sum + n ≤ accSize)

/-- The command of a queue whose turn it is to spawn in a task context: the earliest issued with gangs still to spawn (R76). -/
def Task.spawner (k : Task) (q : Queue) : Option Cmd :=
  k.cmds.find? fun x => x.queue == q && (x.toSet != 0 || decide (x.spawned < x.gangs))

/-- Gangs of a command alive now. -/
def Cmd.alive (x : Cmd) : Nat := x.spawned - x.retired

/-- How many gangs a command spawns together: one, or an A-share group of an SMMA (R202). -/
def Cmd.groupSize (x : Cmd) : Nat :=
  if wOpc x.word = 0x20 then min (x.gangs - x.spawned) (min (gangMax x.word) 4) else 1

/-- The command may spawn now as far as GANG_MAX and engines go (R76, R78, R83, R202). -/
def State.maySpawn (s : State) (c : CoreIx) (x : Cmd) : Bool :=
  decide (x.spawned < x.gangs) && decide (x.alive + x.groupSize ≤ gangMax x.word)
    && (x.queue != .mat || decide (x.groupSize ≤ ((s.core c).freeEngines s.now x.accSize).length))

/-- The waiting command of a queue that goes first: earliest issue, then lower task context (R76). -/
def State.waiting (s : State) (c : CoreIx) (q : Queue) : Option (TaskIx × Cmd) :=
  (List.finRange 4).foldl (fun (best : Option (TaskIx × Cmd)) t =>
    if !s.turnOf c t then best
    else
      match (s.task c t).spawner q with
      | none => best
      | some x =>
        if !s.maySpawn c x then best
        else
          match best with
          | none => some (t, x)
          | some b => if x.time < b.2.time then some (t, x) else some b) none

/-- The vector pipe that a slot is bound to (R74). -/
def pipeOf (slot : SlotIx) : Nat := slot.val % 16

/-- A gang as it spawns, one of a group of `n`, with the time before which it cannot have ended (Table CMD-18): a matrix gang applies its
folios and then drains, after what its engine still drains (R83). -/
def State.newGang (s : State) (c : CoreIx) (t : TaskIx) (x : Cmd) (slot : SlotIx) (engine : Option (Fin 4)) (i n : Nat) : Gang :=
  let g : Gang := { slot := slot, task := t, queue := x.queue, cmd := x.id, index := i, engine := engine }
  match x.queue with
  | .mat =>
    let o := matOp x.word x.mp
    (match pairKind o.pair with
      | some k =>
        let done := 17 * s.now + applyTime o k x.anch n
        let free := ((s.core c).gangs.filter fun y => y.engine == engine).foldl (fun m y => max m y.ready) done
        { g with accSize := x.accSize, applied := done, ready := free + drainTime o k }
      | none => g)
  | .vec => { g with ready := 17 * s.now + vecTime (vecOp x.word) x.anch i }
  | _ => g

/-- One gang of a group of `n` spawns into a slot. -/
def State.spawnOne (s : State) (c : CoreIx) (t : TaskIx) (x : Cmd) (slot : SlotIx) (engine : Option (Fin 4)) (i n : Nat) :
    State :=
  (s.modCore c fun k =>
    { k with gangs := k.gangs ++ [s.newGang c t x slot engine i n], peak := max k.peak (k.gangs.length + 1) }).modTask c t fun k =>
    k.modCmd x.id fun y => { y with spawned := y.spawned + 1 }

/-- A command's next gang, or group, spawns into the lowest free slots and engines; the stretch of an SMMA's rows is counted (R76, R203). -/
def State.spawnGroup (s : State) (c : CoreIx) (t : TaskIx) (x : Cmd) : State :=
  let k := s.core c
  let n := x.groupSize
  let es := k.freeEngines s.now x.accSize
  let s1 := (((k.freeSlots x.queue).take n).zipIdx).foldl (fun s p =>
    s.spawnOne c t x p.1 (if x.queue == .mat then es[p.2]? else none) (x.spawned + p.2) n) s
  let o := matOp x.word x.mp
  match pairKind o.pair with
  | some pk =>
    if wOpc x.word = 0x20 then
      s1.modCnt c fun y => { y with stretch := bump y.stretch (n * stretch o pk x.anch n) }
    else s1
  | none => s1

/-- The waiting command of a queue finds its slots. -/
def State.slotsFor (s : State) (c : CoreIx) (q : Queue) (x : Cmd) : Bool := decide (x.groupSize ≤ ((s.core c).freeSlots q).length)

/-- The first queue of a list whose waiting command finds its slots spawns (R76). -/
def State.spawnFrom (s : State) (c : CoreIx) : List Queue → State
  | [] => s
  | q :: qs =>
    match s.waiting c q with
    | some (t, x) => if s.slotsFor c q x then s.spawnGroup c t x else s.spawnFrom c qs
    | none => s.spawnFrom c qs

/-- Gangs may spawn on a core: its run goes on, and no guard time holds it (R92, R182, R328). -/
def State.spawns (s : State) (c : CoreIx) : Bool := s.issuing && s.inRun c && !s.inGuard c

/-- GANG_SPAWN: a waiting gang takes a slot, MAT before VEC before STR (R76, R92). -/
def execGangSpawn (c : CoreIx) (s : State) : Host.Outcome State Fault Refusal :=
  .next (if s.spawns c then s.spawnFrom c [.mat, .vec, .str] else s)

/-! ## Completion -/

/-- COMMAND_COMPLETE: the oldest unreported command of a queue has completed; it reports and raises its counter (R71, R72), while its
task context's counters are not frozen (R92). One with discarded gangs or segments never does (R328). -/
def execCommandComplete (c : CoreIx) (t : TaskIx) (q : Queue) (s : State) : Host.Outcome State Fault Refusal :=
  .next (match (s.task c t).cmds.find? fun x => x.queue == q && !x.lost with
    | none => s
    | some x => if x.done s.now && (s.named c t || !s.issuing) then s.report c t x else s)

/-! ## Descriptor setup -/

/-- One descriptor of a command read: its bytes, whether poisoned, its segments (R144, R155). The read obeys the region rules (R65, R66,
R173): one that may not be made answers as a poisoned one does. COLL and LEDGER descriptors take no setup time of their own, since Table
CMD-18 gives them none (DESIGN CHOICE, log entry 39). -/
def State.readDesc (s : State) (c : CoreIx) (t : TaskIx) (x : Cmd) : Desc :=
  let o := wOpc x.word
  let a := ((s.task c t).data (listCar x.word)).base.toNat + listOff x.word + 64 * (listLen x.word - x.toSet)
  let own : Bool := match s.dest c a with
    | .own _ => true
    | _ => false
  let bs := s.view (addrLocal a) 64
  let bad := s.mem.anyPoison (addrLocal a) 64 || s.absentAt a 64 || !(own || s.mayReach c a 64 0)
  { bytes := bs, poison := bad, first := x.gangs, segs := if bad then 1 else descSegs o bs
    ready := if o = 0x60 ∨ o = 0x73 then s.now else s.now + 220 }

/-- The next descriptor of a command enters a setup engine. -/
def State.setupDesc (s : State) (c : CoreIx) (t : TaskIx) (x : Cmd) (busy : List Nat) : State :=
  let d := s.readDesc c t x
  ((s.modCore c fun k => { k with setups := if s.now < d.ready then busy ++ [d.ready] else busy }).modTask c t fun k =>
    k.modCmd x.id fun y => { y with toSet := y.toSet - 1, gangs := y.gangs + d.segs, descs := y.descs ++ [d] }).fresh 64

/-- DESCRIPTOR_SETUP: the next descriptor of a task context's earliest command that has any enters a free setup engine and is
read once; its 220 ns run from now (R144, Table CMD-18). The read may find errors (R239, R240). -/
def execDescriptorSetup (c : CoreIx) (t : TaskIx × List EccErr) (s : State) : Host.Outcome State Fault Refusal :=
  .next (
    let busy := (s.core c).setups.filter fun e => decide (s.now < e)
    match (s.task c t.1).cmds.find? fun x => x.toSet != 0 with
    | none => s
    | some x =>
      if decide (4 ≤ busy.length) || !s.named c t.1 then s
      else
        let a := addrLocal (((s.task c t.1).data (listCar x.word)).base.toNat + listOff x.word + 64 * (listLen x.word - x.toSet))
        (s.readErrors a 64 t.2).setupDesc c t.1 x busy)

/-! ## Slices -/

/-- SLICE_BOUNDARY: the slice whose start has come is the one that runs; the outgoing context freezes in place (R92 to R94). -/
def execSliceBoundary (c : CoreIx) (s : State) : Host.Outcome State Fault Refusal :=
  .next (if s.running then s.enterSlice c else s)

/-- SLICE_GUARD_POINT: from GUARD µs before its slice ends the task context spawns no gang (R92). -/
def execSliceGuardPoint (c : CoreIx) (s : State) : Host.Outcome State Fault Refusal :=
  .next (if s.running && s.inGuard c then (s.enterSlice c).modCore c fun k => { k with guarded := true } else s)

/-! ## Clock levels -/

/-- CAP and FLOOR in force as levels (Table COR-11). -/
def Core.cap (k : Core) : Nat := max 4 (bits k.boundEff.toNat 4 4 + 1)
def Core.floor (k : Core) : Nat := min k.cap (max 4 (bits k.boundEff.toNat 0 4 + 1))

/-- A core's sensors that have not failed. -/
def Core.goodSensors (k : Core) : List (Fin 4) := (List.finRange 4).filter fun i => !(k.sensors[i]).failed

/-- The hottest reading of a core's remaining sensors, with its sensor; ties go to the lowest (R424). -/
def Core.hottest (k : Core) : Option (Fin 4 × Int) :=
  k.goodSensors.foldl (fun b i =>
    match b with
    | none => some (i, (k.sensors[i]).reading)
    | some x => if x.2 < (k.sensors[i]).reading then some (i, (k.sensors[i]).reading) else some x) none

/-- The hottest reading, −∞ read as a very low number where every sensor has failed. -/
def Core.hot (k : Core) : Int :=
  match k.hottest with
  | some x => x.2
  | none => -100000

/-- Two or more sensors have failed (R424). -/
def Core.blind (k : Core) : Bool := decide (k.goodSensors.length ≤ 2)

/-- 95.0 °C and 92.0 °C in units of 0.25 °C (R96, R97). -/
def hotLimit : Int := 380
def coolLimit : Int := 368

/-- Policy contention of a core, logged at most once per core per pitch (R98, R479). -/
def State.contention (s : State) (c : CoreIx) : State :=
  let s1 := s.modCnt c fun k => { k with policy := bump k.policy }
  if s1.flt.clkLog.contains c then s1
  else ({ s1 with flt := { s1.flt with clkLog := c :: s1.flt.clkLog } }).coreEvent c 0 8 2

/-- The core of a field that steps down: the hottest of its enabled cores, lowest number first (R96). -/
def State.hottestCore (s : State) (f : FieldIx) : Option CoreIx :=
  ((List.finRange 4).map (coreOf f)).foldl (fun b c =>
    if !s.enabled c.val then b
    else
      match b with
      | none => some c
      | some d => if (s.core d).hot < (s.core c).hot then some c else some d) none

/-- A thermal step down may lower the core's level: not below 4, nor below FLOOR before R98 escalates. A level already below a FLOOR that was
raised since takes no step, and the wait at FLOOR does not begin before it is back there (DESIGN CHOICE, log entry 44). -/
def Core.mayStep (k : Core) : Bool := decide (4 < k.therm) && (decide (k.floor < k.therm) || k.escalated)

/-- One thermal step down of a core (R96, R98): no other core of its field changes its thermal level for 20 µs. -/
def State.stepDown (s : State) (c : CoreIx) : State :=
  let k := s.core c
  if !k.mayStep then s
  else
    let n := k.therm - 1
    let s1 := (s.modCore c fun x => { x with therm := n, hotSince := if n = k.floor then some s.now else x.hotSince }).modField
      (coreField c) fun f => { f with stepped := some (c, s.now) }
    if n < k.floor then s1.contention c else s1

/-- The interval of 20 µs after a field's last step down (R96). -/
def State.stepPause (s : State) (f : FieldIx) : Option CoreIx :=
  match (s.field f).stepped with
  | some x => if s.now < x.2 + 20000 then some x.1 else none
  | none => none

/-- THERMAL_STEP_DOWN: every 20 µs the hottest core of a field at 95.0 °C or more lowers its thermal level by one (R96). -/
def execThermalStepDown (f : FieldIx) (s : State) : Host.Outcome State Fault Refusal :=
  .next (match s.hottestCore f, s.stepPause f with
    | some c, none => if hotLimit ≤ (s.core c).hot then s.stepDown c else s
    | _, _ => s)

/-- THERMAL_STEP_UP: below 92.0 °C for 1,000 µs the core raises its thermal level by one and restarts the timer (R97, R424), but not in
the interval of another core's step down (R96). -/
def execThermalStepUp (c : CoreIx) (s : State) : Host.Outcome State Fault Refusal :=
  .next (
    let k := s.core c
    match k.coolSince with
    | none => s
    | some t =>
      if decide (s.now < t + 1000000) || decide (16 ≤ k.therm) || k.blind
          || (match s.stepPause (coreField c) with
              | some d => d != c
              | none => false) then s
      else s.modCore c fun x =>
        { x with therm := x.therm + 1, coolSince := some s.now
                 escalated := x.escalated && decide (x.therm + 1 < k.floor), hotSince := none })

/-- FLOOR_ESCALATION: after 1,000 µs at 95.0 °C or more at FLOOR the core goes on below it under R96 (R98). -/
def execFloorEscalation (c : CoreIx) (s : State) : Host.Outcome State Fault Refusal :=
  .next (
    let k := s.core c
    match k.hotSince with
    | none => s
    | some t =>
      if decide (k.therm = k.floor) && decide (t + 1000000 ≤ s.now) && decide (hotLimit ≤ k.hot) then
        s.modCore c fun x => { x with escalated := true }
      else s)

/-- The level of R95: the least of software cap, zone ceiling and thermal level. -/
def State.levelOf (s : State) (c : CoreIx) : Nat :=
  min (s.core c).cap (min (s.field (coreField c)).zoneCeil (s.core c).therm)

/-- The pitch that the present count lies in and the ns since its boundary (R311, R335). The launch pitch has no number of its own: it stands
as a free value (log entry 27). -/
def State.thrPitch (s : State) : Nat × Nat :=
  match s.pit.launch with
  | some l => if l.loaded then (Config.freeNat s.freeCtr, s.gcnt - s.loadCount l) else (s.pnumNow, s.gcnt - s.pitchBegan)
  | none => (s.pnumNow, s.gcnt - s.pitchBegan)

/-- The position of R335. -/
def State.thrPos (s : State) (c : CoreIx) : Nat :=
  c.val * 2 ^ 56 + s.thrPitch.1 % 2 ^ 24 * 2 ^ 32 + s.thrPitch.2 % 2 ^ 32

/-- A new level of a core enters THR_DIGEST (R335). -/
def State.enterThr (s : State) (c : CoreIx) (n : Nat) : State :=
  ({ s with aud := { s.aud with thr := s.aud.thr + cairnElem (s.thrPos c) 6 false (leBytes 4 n) } }).fresh

/-- CLOCK_LEVEL_CHANGE: the running level changes over 150 ns, counted at the new level, and enters THR_DIGEST (R95, R99, R335). -/
def execClockLevelChange (c : CoreIx) (s : State) : Host.Outcome State Fault Refusal :=
  .next (
    let k := s.core c
    let n := s.levelOf c
    if k.target.isSome || n = k.level then s
    else
      (s.modCore c fun x =>
        { x with target := some n, levelAt := some s.now
                 cnt := { x.cnt with clkStall := bump x.cnt.clkStall (coreCycles n 150) } }).enterThr c n)

/-- The 150 ns of a level change are over (R99). -/
def State.levelDone (s : State) (c : CoreIx) : Bool :=
  match (s.core c).levelAt with
  | some t => decide (t + 150 ≤ s.now)
  | none => true

/-- CLOCK_LEVEL_CHANGE_END: after 150 ns the core issues again at the new level (R99). -/
def execClockLevelChangeEnd (c : CoreIx) (s : State) : Host.Outcome State Fault Refusal :=
  .next (match (s.core c).target with
    | none => s
    | some n => if s.levelDone c then s.modCore c fun x => { x with level := n, target := none } else s)

end Sys2Proof.Machine
end

