-- ==== Sys2Proof/Machine/Retire.lean ====
section
/-! DEFINITION. The retirement of gangs (R77, R83, R156): what a segment gang writes as it ends, under its codec, its digest and its
opcode (R157 to R163, R209 to R216, R332 to R334). -/

namespace Sys2Proof.Machine

/-! ## The data of a gang -/

/-- A byte of a gang's data is poisoned. -/
def Gang.foul (x : Gang) (i : Nat) : Bool := inBad x.poison i

/-- The poisoned ranges of a list inside `o .. o + n - 1`, relative to `o`. -/
def cutBad (bad : List (Nat × Nat)) (o n : Nat) : List (Nat × Nat) :=
  bad.filterMap fun r =>
    let lo := max r.1 o
    let hi := min (r.1 + r.2) (o + n)
    if lo < hi then some (lo - o, hi - lo) else none

/-- Bytes `lo .. lo + n - 1` of what a descriptor's parts hold, with their poisoned ranges. -/
def Desc.gather (d : Desc) (lo n : Nat) : List Byte × List (Nat × Nat) :=
  let ps := d.parts.filterMap fun p =>
    let a := max lo p.1
    let b := min (lo + n) (p.1 + p.2.1.length)
    if a < b then some (a - lo, slice p.2.1 (a - p.1) (b - a), p.2.2) else none
  (ps.foldl (fun acc p => overlay acc p.1 p.2.1) (zeros n), (ps.filter fun p => p.2.2).map fun p => (p.1, p.2.1.length))

/-- The events of a transform counted (R209, R214 to R216). -/
def State.countTrans (s : State) (c : CoreIx) (r : TransOut) : State :=
  (s.modCnt c fun k => { k with
    badCode := bump k.badCode r.badF, order := bump k.order r.order, ovf := bump k.ovf r.ovf }).coreEvents c 0x23 r.mism

/-- The bytes of a transform laid end to end with their poisoned ranges. -/
def TransOut.flat (r : TransOut) : List Byte × List (Nat × Nat) :=
  (r.writes.flatMap fun w => w.2.1, r.writes.flatMap fun w => w.2.2.map fun b => (w.1 + b.1, b.2))

/-- The pieces a transform gives are written from a rack address on (R157, R221). -/
def State.writeTrans (s : State) (c : CoreIx) (g : SlotIx) (x : Gang) (k : Carry) (a : Nat) (r : TransOut) : State :=
  let n := r.writes.length
  (r.writes.zipIdx).foldl (fun s w =>
    if w.2 + 1 = n then s.writeLast c g x.task x.cmd k (a + w.1.1) w.1.2.1 w.1.2.2
    else s.writeOut c g x.task x.cmd { k with last := false } (a + w.1.1) w.1.2.1 w.1.2.2) s

/-! ## STREAM -/

/-- The MX folio of one 192 × 192 tile that begins at byte `o` of the source (R104, R160, R251): row *col* of the tile, an operand row
with its six scales, is column *col* of the folio (DESIGN CHOICE, log entry 14). -/
def packMx (code : Nat) (src : Array Byte) (o : Nat) : List Byte :=
  let w := elemBits code
  let row := mxRow code
  packElems w ((List.range 36864).map fun i => elemAt src (o + i % 192 * row) w (i / 192))
    ++ (List.range 1152).map fun j => src.getD (o + j / 6 * row + 24 * w + j % 6) 0

/-- What a codec makes of whole folios of source bytes (R160, R216). CODEC 1 writes the bodies of R251; what a folio's check is and where it
would lie is not given, so that none is written (DESIGN CHOICE, log entry 14). -/
def StreamD.transform (d : StreamD) (data : List Byte) (bad : List (Nat × Nat)) : TransOut :=
  if d.codec = 0 then { writes := [(0, data, bad)] }
  else if d.codec = 1 then
    let n := max 1 d.codecSizes.1
    { writes := (List.range (data.length / n)).map fun i =>
        let b := cutBad bad (i * n) n
        if isMx d.efmt then (i * n, packMx d.efmt data.toArray (i * n), if b.isEmpty then [] else [(0, n)])
        else (i * n, slice data (i * n) n, b) }
  else if d.codec ≤ 4 then scomp (d.codec - 2) d.efmt false false data.toArray (inBad bad) none
  else sexpd (d.codec - 5) d.efmt false 0 data.toArray (inBad bad)

/-- The kept values of packed folio `f` of a descriptor digested at their dense positions (R216). -/
def State.digestFolio (s : State) (c : CoreIx) (t : TaskIx) (d : StreamD) (pat f : Nat) (fb : Array Byte) (foul : Bool) :
    State :=
  let span := patSpan pat
  (List.range (span * 192)).foldl (fun s i =>
    match packedCode pat d.efmt fb (i / 192) (i % 192) with
    | some w => s.digest c t d.cacc (d.posbase + f * span * 192 + i) d.efmt foul (leBytes (elemBytes d.efmt) w)
    | none => s) s

/-- DIG of a segment (R159, R216, R334): every element of a copy, or every kept value at its dense position. -/
def State.digestStream (s : State) (c : CoreIx) (t : TaskIx) (d : StreamD) (seg : Seg) (anch : Bool) (data : List Byte)
    (bad : List (Nat × Nat)) (r : TransOut) : State :=
  let f0 := (d.folios seg).1
  if d.codec = 0 then
    let w := elemBytes d.efmt
    ((d.rowsOf seg anch).zipIdx).foldl (fun s y =>
      s.digestRun c t d.cacc (d.posbase + ((seg.row + y.2) * d.len + seg.off) / max 1 w) d.efmt
        (slice data (y.2 * seg.len) seg.len) (cutBad bad (y.2 * seg.len) seg.len)) s
  else if d.codec = 1 then s.digestRun c t d.cacc (d.posbase + f0 * 36864) d.efmt data bad
  else if d.codec ≤ 4 then
    (r.writes.zipIdx).foldl (fun s w => s.digestFolio c t d (d.codec - 2) (f0 + w.2) w.1.2.1.toArray (!w.1.2.2.isEmpty)) s
  else
    let n := packedSize (d.codec - 5) d.efmt false
    (r.writes.zipIdx).foldl (fun s w =>
      s.digestFolio c t d (d.codec - 5) (f0 + w.2) (data.toArray.extract (w.2 * n) (w.2 * n + n)) (!w.1.2.2.isEmpty)) s

/-- What a STREAM's packets carry. -/
def StreamD.carry (d : StreamD) (anch lastSeg : Bool) : Carry :=
  { ctx := d.ctx, vc := d.vc, ord := d.ord && lastSeg, reduce := d.op == 1, efmt := d.efmt, anch := anch, epw := d.epw,
    rope := d.rope, last := false }

/-- The rows of a STREAM segment written out, each (data offset, offset from DST, length of its part of the result) (R41, R157, R221). -/
def State.writeRows (s : State) (c : CoreIx) (g : SlotIx) (x : Gang) (d : StreamD) (k : Carry) (data : List Byte)
    (bad : List (Nat × Nat)) (rows : List (Nat × Nat × Nat)) : State :=
  let n := rows.length
  let dst := s.locAddr c x.task d.dst
  (rows.zipIdx).foldl (fun s r =>
    let last : Bool := r.2 + 1 == n
    let bs := slice data r.1.1 r.1.2.2
    let rb := cutBad bad r.1.1 r.1.2.2
    if d.mcast then
      s.mcastOut (coreField c) c g x.task x.cmd ⟨d.vc % 4, Nat.mod_lt _ (by decide)⟩ d.ctx d.rect d.cmask
        (d.dst.off + r.1.2.1) bs rb last k.ord
    else if last then s.writeLast c g x.task x.cmd { k with last := true } (dst + r.1.2.1) bs rb
    else s.writeOut c g x.task x.cmd k (dst + r.1.2.1) bs rb) s

/-- The rows of a segment's result: (data offset, offset from DST, length of data); a reduce-add's data is narrower than its target. -/
def StreamD.results (d : StreamD) (seg : Seg) (anch : Bool) : List (Nat × Nat × Nat) :=
  (d.outs seg anch).map fun r => (r.1, r.2.1, if d.codec = 0 then seg.len else r.2.2)

/-- A STREAM segment's data leaves (R155, R157, R159, R160, R216). What an archive fetch brings is written as it lands, and an archive
return has sent its own; under DIG both are digested all the same (R334). -/
def State.streamDone (s : State) (c : CoreIx) (g : SlotIx) (x : Gang) (m : Cmd) (d : Desc) (seg : Seg) : State :=
  let f := streamD d.bytes
  if x.data.isEmpty || addrRange (s.locAddr c x.task f.src) == 4 then s
  else
    let r := f.transform x.data x.poison
    let s1 := (if f.dig then s.digestStream c x.task f seg m.anch x.data x.poison r else s).countTrans c r
    if !f.mcast && addrRange (s.locAddr c x.task f.dst) == 4 then s1
    else s1.writeRows c g x f (f.carry m.anch (x.index + 1 == d.first + d.segs)) r.flat.1 r.flat.2 (f.results seg m.anch)

/-! ## The other descriptors -/

/-- CCLOSE writes the accumulator, poisoned when its sticky bit is set, and clears it (R162, R332, R333). -/
def State.ccloseDone (s : State) (c : CoreIx) (g : SlotIx) (x : Gang) (d : Desc) : State :=
  let i : Fin 16 := ⟨fieldAt d.bytes 33 1 % 16, Nat.mod_lt _ (by decide)⟩
  let a := (s.task c x.task).cairns[i]
  (s.modTask c x.task fun k => { k with cairns := k.cairns.set i {} }).writeLast c g x.task x.cmd (Carry.plain 0 3)
    (s.locAddr c x.task (locAt d.bytes 8)) (leBytes 16 a.sum.toNat) (if a.poison then [(0, 16)] else [])

/-- The last segment of a SHA. -/
def shaLast (d : Desc) (seg : Seg) : Bool := seg.off + seg.len == fieldAt d.bytes 16 4

/-- A segment of a SHA before the last hands on what it has read; a refused one hands on poison (R163; log entry 9). -/
def State.shaPart (s : State) (c : CoreIx) (x : Gang) (di : Nat) (seg : Seg) : State :=
  let bs := if x.refused then zeros seg.len else x.data.take seg.len
  s.modTask c x.task fun k => k.modCmd x.cmd fun y => y.modDesc di fun z =>
    { z with parts := z.parts ++ [(seg.off, bs, x.refused || !x.poison.isEmpty)] }

/-- SHA writes the digest of the stored bits; poison, or a mismatch under CMP, writes the destination poisoned (R163). -/
def State.shaDone (s : State) (c : CoreIx) (g : SlotIx) (x : Gang) (d : Desc) (seg : Seg) : State :=
  let cmp := bit (fieldAt d.bytes 32 1) 0
  let before := d.gather 0 seg.off
  let h := sha256 (before.1 ++ x.data.take seg.len)
  let srcBad := !before.2.isEmpty || !(cutBad x.poison 0 seg.len).isEmpty
  let miss := cmp && (srcBad || !(cutBad x.poison seg.len 32).isEmpty || h != x.data.drop seg.len)
  let s1 := s.writeLast c g x.task x.cmd (Carry.plain 0 3) (s.locAddr c x.task (locAt d.bytes 8)) h
    (if srcBad || miss then [(0, 32)] else [])
  if miss then (s1.modCnt c fun k => { k with dgstMiss := bump k.dgstMiss }).coreEvent c 1 1 0x21 else s1

/-- What a sparse command makes of a segment's data (R209 to R215). -/
def State.sparseOut (s : State) (o : Nat) (b : List Byte) (w : SparseCut) (x : Gang) : TransOut :=
  let d := sparseD b
  let src := (x.data.take w.src.2).toArray
  let aux := x.data.drop w.src.2
  match o with
  | 0x51 => scomp (d.pat % 4) d.efmt (bit d.pat 2) (bit d.pat 3) src x.foul
      (if d.hasAux then some (aux.toArray, fun i => x.foul (w.src.2 + i)) else none)
  | 0x52 => sexpd (d.pat % 4) d.efmt (bit d.pat 3) (bits d.pat 4 3) src x.foul
  | 0x53 => smask d.efmt (bits d.pat 0 3) (fieldAt b 16 4) (max 1 (fieldAt b 20 4)) w.first src x.foul
  | _ =>
    let lens := (List.range (d.pat % 16 + 1)).map fun i => fieldAt aux (4 * i) 4
    let tabBad := !(cutBad x.poison w.src.2 w.aux.2).isEmpty
    smerge d.efmt (bits d.pat 4 2) d.len lens src (fun i => tabBad || x.foul i) fun i => Config.freeByte (s.freeCtr + i)

/-- A sparse command's results are written (R209 to R215). -/
def State.sparseDone (s : State) (c : CoreIx) (g : SlotIx) (x : Gang) (o : Nat) (d : Desc) (seg : Seg) : State :=
  let w := (sparseD d.bytes).cut o d.bytes seg
  let r := s.sparseOut o d.bytes w x
  let s1 := if o = 0x50 then s.fresh 65536 else s
  (s1.countTrans c r).writeTrans c g x (Carry.plain 0 3)
    (s.locAddr c x.task (sparseD d.bytes).dst + (if o = 0x53 then 0 else w.dst.1)) r

/-- CAIRN adds the elements that a segment has read (R332). -/
def State.cairnDone (s : State) (c : CoreIx) (x : Gang) (d : Desc) (seg : Seg) : State :=
  let e := fieldAt d.bytes 32 1
  s.digestRun c x.task ⟨fieldAt d.bytes 33 1 % 16, Nat.mod_lt _ (by decide)⟩
    (fieldAt d.bytes 24 8 + seg.off / max 1 (elemBytes e)) e x.data x.poison

/-- What a segment gang does as it retires. -/
def State.segDone (s : State) (c : CoreIx) (g : SlotIx) (x : Gang) (m : Cmd) (di : Nat) (d : Desc) : State :=
  let o := wOpc m.word
  let seg := gangSeg o d x.index
  if o = 0x72 ∧ !shaLast d seg then s.shaPart c x di seg
  else if x.refused then s
  else
    match o with
    | 0x40 => s.streamDone c g x m d seg
    | 0x60 => s
    | 0x70 => s.cairnDone c x d seg
    | 0x71 => s.ccloseDone c g x d
    | 0x72 => s.shaDone c g x d seg
    | 0x73 => s
    | _ => s.sparseDone c g x o d seg

/-! ## GANG_RETIRE -/

/-- A gang leaves its slot (R77). -/
def State.freeGang (s : State) (c : CoreIx) (x : Gang) : State :=
  (s.modCore c fun k => { k with gangs := k.gangs.filter fun y => y.slot != x.slot }).modTask c x.task fun k =>
    k.modCmd x.cmd fun y => { y with retired := y.retired + 1 }

/-- A segment gang has done all that it waits for. -/
def Gang.settled (x : Gang) : Bool := x.refused || (x.started && x.await == 0 && x.reads.isEmpty)

/-- A segment gang waits for more than its own data: an archive return for its packets (R263), the last segment of a SHA for the others
(R163). -/
def State.holdsOn (s : State) (c : CoreIx) (x : Gang) (m : Cmd) (d : Desc) : Bool :=
  let o := wOpc m.word
  !x.refused &&
    ((o == 0x40 && x.toSend != 0 && addrRange (s.locAddr c x.task (streamD d.bytes).src) != 4)
      || (o == 0x72 && shaLast d (gangSeg o d x.index) && decide (d.parts.length + 1 < d.segs)))

/-- GANG_RETIRE: a gang's last operation ends, its results are written and its slot frees (R77, R83, R156), not before the time of Table
CMD-18 is over. The reads of a matrix or vector gang may meet errors (R239, R240). -/
def execGangRetire (c : CoreIx) (g : SlotIx × List EccErr) (s : State) : Host.Outcome State Fault Refusal :=
  .next (match (s.core c).gang? g.1 with
    | none => s
    | some x =>
      match (s.task c x.task).cmd? x.cmd with
      | none => s
      | some m =>
        if 17 * s.now < x.ready then s
        else
          match x.queue with
          | .mat =>
            (match x.engine with
              | some e => ((s.scratchErrors c g.2).matrixDone c x.task m.word m.mp m.anch e g.1 x.index).freeGang c x
              | none => s)
          | .vec => ((s.scratchErrors c g.2).vectorDone c x.task m.word m.anch x.index).freeGang c x
          | _ =>
            match m.descFor x.index with
            | none => s
            | some (di, d) => if !x.settled || s.holdsOn c x m d then s else (s.segDone c g.1 x m di d).freeGang c x)

end Sys2Proof.Machine
end

