-- ==== Sys2Proof/Machine/Runs.lean ====
section
/-! DEFINITION. The end of a run, shared by every row that ends one: the abandon count (R303, R328), the last boundary of a run
(R185, R328) and what it releases (R247, R269, R485). -/

namespace Sys2Proof.Machine

/-- A descriptor of a collective has nothing left to begin: its data moves, what the other members send it has come, its packets and its
chunks have been sent. Only acknowledgements, which time out, and its own adds are left (R328; log entry 33). -/
def State.runMoved (s : State) (r : CollRun) : Bool :=
  r.started && r.todo.isEmpty && r.wants.all (fun w => w.left == 0)
    && (match s.collGroup r.group with
        | some e => (collD r.desc).kind != 4 || (s.servedUnits e (s.rankOf e r.core) r.base r.units).all r.sent.contains
        | none => true)

/-- A gang discarded at the abandon count: its segment has not started, or it carries a collective of which something has not (R328). -/
def State.cutGang (s : State) (c : CoreIx) (g : Gang) : Bool :=
  !g.refused && g.queue == .str &&
    (!g.started || (match s.runOf c g.slot with
      | some r => !s.runMoved r
      | none => false))

/-- A command at the abandon count, with the gangs discarded from it (R328). -/
def Cmd.cut (x : Cmd) (gone : Nat) : Cmd :=
  { x with lost := x.lost || x.toSet != 0 || x.spawned != x.gangs || gone != 0
           toSet := 0, gangs := x.spawned, retired := x.retired + gone }

/-- A task context at the abandon count: it fetches and issues no more (R328). -/
def Task.cut (k : Task) (t : TaskIx) (gone : List Gang) : Task :=
  { k with mat := [], vec := [], str := [], ctl := [], active := false
           cmds := k.cmds.map fun x => x.cut (gone.filter fun g => g.task == t && g.cmd == x.id).length }

/-- A core at the abandon count (R328). -/
def State.cutCore (s : State) (c : CoreIx) (k : Core) : Core :=
  let gone := k.gangs.filter (s.cutGang c)
  { k with tasks := Vector.ofFn fun t => (k.tasks[t]).cut t gone
           gangs := k.gangs.filter fun g => !s.cutGang c g }

/-- A chain chunk that has landed in part (R303). -/
def Chunk.partly (x : Chunk) : Bool := decide (x.got < x.len)

/-- What every present member does at the abandon count (R303, R328): issue ends, waiting work is discarded, living gangs run on,
chain chunks landed in part are discarded and counted. -/
def State.abandonNow (s : State) : State :=
  { s with
    cores := Vector.ofFn fun c => s.cutCore c s.cores[c]
    grd := { s.grd with colls := s.grd.colls.filter s.runMoved, chunks := s.grd.chunks.filter fun x => !x.partly,
                        discard := bump s.grd.discard (s.grd.chunks.filter Chunk.partly).length }
    pit := { s.pit with run := .abandoning } }

/-- A task context once its run has ended: nothing waits in it. -/
def Task.clearWork (k : Task) : Task := { k with mat := [], vec := [], str := [], ctl := [], cmds := [], active := false }

/-- A core once its run has ended. -/
def Core.clearWork (k : Core) : Core :=
  { k with tasks := k.tasks.map Task.clearWork, gangs := [], engines := k.engines.map fun e => { e with acc := [] }, setups := []
           sliceNow := none, guarded := false, sliceLate := none }

/-- The slot that runs returns to STATE 2 (R185). -/
def Glb.stopSlot (g : Glb) (i : ImgIx) : Glb :=
  { g with slots := upd g.slots i fun k => { k with st := .armed } }

/-- Passes still open are dropped and counted; request slots, reorder entries and trackers are released (R269, R485). -/
def Intake.release (k : Intake) : Intake :=
  { k with want := [], ended := k.ended ++ k.reqs.map ArchReq.reqId, reqs := [], rob := 0, trackers := [], parked := []
           dgstSkip := bump k.dgstSkip k.trackers.length }

/-- The run ends (R185, R328): STATE returns to 2, PIT_STAT goes idle, what the run held is released. A run ended at an abandon
count counts in PIT_BENIGHTED. -/
def State.endRun (s : State) : State :=
  { s with
    cores := s.cores.map Core.clearWork
    glb := s.glb.stopSlot s.pit.slot
    intk := s.intk.release
    grd := { s.grd with colls := [], issued := [], chunks := [], edges := [] }
    fab := { s.fab with open_ := [] }
    memu := { s.memu with ended := s.memu.ended ++ s.memu.reqs.map Req.id, reqs := [] }
    held := []
    pit := { s.pit with
      run := .idle, bound := 0, holds := 0, begins := [], guardDone := false, decided := false, applied := false, requests := [], wantHold := false
      arrivals := [], tickBad := 0, abandonAt := none
      benighted := if s.pit.run == .abandoning && s.pit.abandonAt.isSome then bump s.pit.benighted else s.pit.benighted } }

/-- No core holds a living gang (R328). -/
def State.noGangs (s : State) : Bool := s.cores.all fun k => k.gangs.isEmpty

/-- Every task context is stopped, or has fetched END and drained (R170, R185). -/
def Task.over (k : Task) : Bool :=
  k.stopped || (k.ended && !k.active && k.mat.isEmpty && k.vec.isEmpty && k.str.isEmpty && k.ctl.isEmpty && k.cmds.isEmpty)

/-- The run is over (R185); cores that it does not use have nothing to end (R182). -/
def State.runOver (s : State) : Bool :=
  if s.pit.run == .abandoning then s.noGangs
  else (List.finRange 256).all fun c => !s.inRun c || (s.core c).tasks.all fun t => t.over

/-- A fault of class 3 on this module ends its run at once (R53, R473). -/
def State.faultRun (s : State) : State := if s.pit.run == .running then s.abandonNow else s

end Sys2Proof.Machine
end

