-- ==== Sys2Proof/Machine/Topo.lean ====
section
/-! DEFINITION. Topo images (R175 to R186): the layout of the file and its sections, the checks of Table TOP-7, and the rows that
arm and disarm a slot. -/

namespace Sys2Proof.Machine

/-! ## Reading an image -/

/-- Entry `i` of `w` bytes of a section. -/
def entryAt (b : List Byte) (w i : Nat) : List Byte := slice b (w * i) w

/-- The entries of `w` bytes of a section. -/
def entriesOf (w n : Nat) (b : List Byte) : List (List Byte) := (List.range n).map (entryAt b w)

/-- A directory entry (R177). -/
structure DirEntry where
  typ   : Nat
  count : Nat
  off   : Nat
  len   : Nat
  rest  : Bool
  deriving DecidableEq, Repr

/-- A directory entry read from its 32 bytes. -/
def dirEntry (b : List Byte) : DirEntry :=
  { typ := fieldAt b 0 4, count := fieldAt b 4 4, off := fieldAt b 8 8, len := fieldAt b 16 8, rest := zeroAt b 24 8 }

/-- The directory entries in use. -/
def dirOf (h : List Byte) : List DirEntry := (entriesOf 32 (min 32 (fieldAt h 6 2)) (h.drop 128)).map dirEntry

/-- A section's entry in the directory. -/
def sectionOf (ds : List DirEntry) (t : Nat) : Option DirEntry := ds.find? fun d => d.typ == t

/-- One core of the CORES section (Table TOP-2). -/
def coreEntry (i : Nat) (b : List Byte) : CoreEntry :=
  { core := i, rsv := BitVec.ofNat 32 (fieldAt b 0 4), arith := BitVec.ofNat 8 (fieldAt b 4 1)
    slices := (List.range 8).map fun k => BitVec.ofNat 32 (fieldAt b (8 + 4 * k) 4)
    tasks := (List.range 4).map fun t => (fieldAt b (40 + 8 * t) 4, fieldAt b (44 + 8 * t) 4) }

/-- One region of the REGIONS section, 512 bytes: the rectangle word, the number of stacks ranges, a bitmap of owned slices (two
bytes a field), eight stacks ranges (first and last offset), the number of context ranges (bytes 6 to 7) and up to 62 of them from byte 264 on (first and
last context) (DESIGN CHOICE, log entry 16). -/
def regionEntry (b : List Byte) : RegionEntry :=
  { rect := BitVec.ofNat 32 (fieldAt b 0 4)
    slices := (List.range 64).flatMap fun f => (List.range 16).filterMap fun k =>
      if bit (fieldAt b (8 + 2 * f) 2) k then some (f, k) else none
    stackRanges := (List.range (min 8 (fieldAt b 4 2))).map fun k => (fieldAt b (136 + 16 * k) 8, fieldAt b (144 + 16 * k) 8)
    ctxs := (List.range (min 62 (fieldAt b 6 2))).map fun k => (fieldAt b (264 + 4 * k) 2, fieldAt b (266 + 4 * k) 2) }

/-- One carrel in the layout of its registers (R224). -/
def carrelEntry (b : List Byte) : Carrel :=
  { base := BitVec.ofNat 64 (fieldAt b 0 8), bound := BitVec.ofNat 64 (fieldAt b 8 8), attr := BitVec.ofNat 32 (fieldAt b 16 4) &&& 0xFFBFFFFF }

/-- The nine carrels of entry `i`: core i / 4, task context i mod 4. -/
def carrelsEntry (i : Nat) (b : List Byte) : Nat × Nat × List Carrel :=
  (i / 4, i % 4, (entriesOf 32 9 b).map carrelEntry)

/-- DATA records: target rack address, length, bytes (Table TOP-2); at most `n` of them. -/
def dataRecords : Nat → List Byte → List (Nat × List Byte)
  | 0, _ => []
  | n + 1, b =>
    let len := fieldAt b 8 4
    (fieldAt b 0 8, slice b 12 len) :: dataRecords n (b.drop (12 + len))

/-- A rope entry (Table TOP-3). -/
def ropeEntry (b : List Byte) : RopeEntry :=
  { word := BitVec.ofNat 16 (fieldAt b 0 2), dirVc := BitVec.ofNat 8 (fieldAt b 3 1)
    rope := BitVec.ofNat 12 (fieldAt b 0 2), port := fieldAt b 2 1, rx := bit (fieldAt b 3 1) 7, vc := bits (fieldAt b 3 1) 0 3
    peer := fieldAt b 4 1, lease := fieldAt b 5 1, belay := fieldAt b 6 2, wstart := fieldAt b 8 4, wlen := fieldAt b 12 4
    first := fieldAt b 16 4, last := fieldAt b 20 4, buf := fieldAt b 24 4 }

/-- A barrier, 4 bytes: its number and its arrival count (DESIGN CHOICE, log entry 16). -/
def barrierEntry (b : List Byte) : BitVec 12 × Nat := (BitVec.ofNat 12 (fieldAt b 0 2), fieldAt b 2 2)

/-- A collective group (Table GRD-1). -/
def groupEntry (b : List Byte) : GroupEntry :=
  { group := BitVec.ofNat 12 (fieldAt b 0 2), nmem := fieldAt b 2 1, role := fieldAt b 3 1, rect := BitVec.ofNat 16 (fieldAt b 4 2)
    cap := fieldAt b 6 2, members := (List.range (min 16 (fieldAt b 2 1))).map fun i => fieldAt b (8 + i) 1
    shaped := fieldAt b 0 2 < 4096 && zeroAt b 24 8 && (List.range 16).all fun i => decide (i < fieldAt b 2 1) || fieldAt b (8 + i) 1 == 0xFF }

/-- A stream context (Table FAB-2). -/
def ctxEntry (b : List Byte) : CtxEntry :=
  { ctx := BitVec.ofNat 16 (fieldAt b 0 2), region := BitVec.ofNat 8 (fieldAt b 2 1), port := fieldAt b 3 1, peer := fieldAt b 4 1
    dir := fieldAt b 5 1, window := fieldAt b 6 2, rope := BitVec.ofNat 12 (fieldAt b 8 2), lease := fieldAt b 10 1 }

/-- A shard (Table INT-1). -/
def shardEntry (b : List Byte) : ShardEntry :=
  { accession := BitVec.ofNat 48 (fieldAt b 0 6), efmt := fieldAt b 6 1, pattern := fieldAt b 7 1, count := fieldAt b 8 4
    w := fieldAt b 12 4, reside := bit (fieldAt b 16 1) 0, ret := bit (fieldAt b 16 1) 1, digest := slice b 32 32
    shaped := decide (fieldAt b 7 1 < 4) && decide (fieldAt b 16 1 < 4) && zeroAt b 17 15 }

/-- A placement hint, 24 bytes: first and last stacks offset, hint (DESIGN CHOICE, log entry 16). -/
def placeEntry (b : List Byte) : PlaceEntry :=
  { first := fieldAt b 0 8, last := fieldAt b 8 8, hint := BitVec.ofNat 8 (fieldAt b 16 1) }

/-- The bytes of an image in the stacks, from an offset of the image on. -/
def State.imageBytes (s : State) (base off n : Nat) : List Byte := s.mem.read (stacksAddr (base + off)) n

/-- An image read from the stacks at an offset (Tables TOP-1, TOP-2; R178). -/
def State.readImage (s : State) (base : Nat) : TopoImage :=
  let h := s.imageBytes base 0 4096
  let ds := dirOf h
  let len := fieldAt h 8 8
  let raw (t : Nat) : List Byte :=
    match sectionOf ds t with
    | some d => s.imageBytes base d.off d.len
    | none => []
  let cnt (t : Nat) : Nat :=
    match sectionOf ds t with
    | some d => d.count
    | none => 0
  let es (t w : Nat) : List (List Byte) := entriesOf w (cnt t) (raw t)
  let sig := s.imageBytes base (len - 512) 512
  { magic := fieldAt h 0 4, format := fieldAt h 4 2, len := len, module := fieldAt h 16 1, team := fieldAt h 17 1
    member := fieldAt h 18 1, teamSize := fieldAt h 19 1, lead := fieldAt h 20 1, launch := fieldAt h 24 8
    pitchUs := fieldAt h 32 4, pitches := fieldAt h 36 4, mask := fieldAt h 48 32, teamDig := slice h 80 32
    digest := slice sig 0 32, keyslot := fieldAt sig 32 4
    cores := (es 1 128).zipIdx.map fun e => coreEntry e.2 e.1
    regions := (es 2 512).map regionEntry
    carrels := (es 3 288).zipIdx.map fun e => carrelsEntry e.2 e.1
    cmdsOff := (match sectionOf ds 4 with
      | some d => d.off
      | none => 0)
    cmdsLen := (match sectionOf ds 4 with
      | some d => d.len
      | none => 0)
    data := dataRecords (cnt 5) (raw 5)
    hasRopes := (sectionOf ds 6).isSome
    ropes := (es 6 32).map ropeEntry
    barriers := (es 7 4).map barrierEntry
    groups := (es 8 32).map groupEntry
    ctxs := (es 9 16).map ctxEntry
    slack := (es 10 4).map fun b => fieldAt b 0 4
    shards := (es 11 64).map shardEntry
    places := (es 12 24).map placeEntry }

/-! ## Checks (Table TOP-7) -/

/-- 0x01: MAGIC, FORMAT and IMAGE_LEN (R175, R176). An image that would run past the end of the stacks has an invalid IMAGE_LEN (DESIGN
CHOICE, log entry 16). -/
def TopoImage.headOk (im : TopoImage) (base : Nat) : Bool :=
  im.magic == 0x4F504F54 && im.format == 1 && im.len % 4096 == 0 && decide (8192 ≤ im.len) && decide (im.len ≤ 2 ^ 34)
    && decide (base + im.len ≤ stacksSize)

/-- 0x03: the key slot holds a key and the signature verifies (R178). The two values are little-endian (R175; log entry 17). -/
def State.signed (s : State) (base : Nat) (im : TopoImage) : Bool :=
  let sig := s.imageBytes base (im.len - 512) 512
  let key := (List.range 24).flatMap fun i => beBytes 4 ((s.cfg.active.tkey.toList.getD (24 * im.keyslot + i) 0).toNat)
  decide (im.keyslot < 8) && !key.all (· == 0)
    && verifyKey key ((slice sig 36 48).reverse ++ (slice sig 84 48).reverse) (s.imageBytes base 0 (im.len - 512))

/-- The entry width of a section type; 0 where records vary or COUNT is not a count of bytes. -/
def entryWidth (t : Nat) : Nat :=
  match t with
  | 1 => 128
  | 2 => 512
  | 3 => 288
  | 4 => 16
  | 6 => 32
  | 7 => 4
  | 8 => 32
  | 9 => 16
  | 10 => 4
  | 11 => 64
  | 12 => 24
  | _ => 0

/-- A section lies where R177 allows and its length fits its count. -/
def DirEntry.ok (d : DirEntry) (len : Nat) : Bool :=
  d.rest && decide (1 ≤ d.typ) && decide (d.typ ≤ 12) && d.off % 4096 == 0 && decide (4096 ≤ d.off)
    && decide (d.off + d.len + 512 ≤ len) && (d.typ == 5 || d.len == d.count * entryWidth d.typ)
    && (d.typ != 1 || d.count == 256)

/-- Two sections neither overlap nor share a type. -/
def DirEntry.apart (a b : DirEntry) : Bool :=
  a.typ != b.typ && (decide (a.off + a.len ≤ b.off) || decide (b.off + b.len ≤ a.off))

/-- A relation holds between every pair of a list, in order. -/
def pairs {α : Type} (r : α → α → Bool) : List α → Bool
  | [] => true
  | x :: xs => xs.all (r x) && pairs r xs

/-- A GROUPS entry (R283, R319): this module is a member, a chain group lists the team's modules, each once. An entry that breaks Table
GRD-1 otherwise fails as well (DESIGN CHOICE, log entry 16). -/
def GroupEntry.ok (e : GroupEntry) (im : TopoImage) : Bool :=
  e.shaped && decide (1 ≤ e.nmem) && decide (e.nmem ≤ 16) && decide (e.role ≤ 1) && e.members.contains im.module
    && e.members.all (fun m => decide (m < 16))
    && (e.role != 1 || (e.nmem == im.teamSize && e.members.eraseDups == e.members && e.members.findIdx (· == im.module) == im.member))

/-- Chain groups list the same modules, and a team of more than one has one (R283, R319). -/
def TopoImage.groupsOk (im : TopoImage) : Bool :=
  let chain := im.groups.filter fun g => g.role == 1
  im.groups.all (fun g => g.ok im) && pairs (fun a b => a.members == b.members) chain
    && (decide (im.teamSize ≤ 1) || !chain.isEmpty)

/-- The pair of formats whose folios a shard of an element format holds (Tables COR-6 and SPR-2). -/
def shardKind (efmt : Nat) : PairKind :=
  if efmt = 9 ∨ efmt = 10 then .mx8 else if efmt = 11 ∨ efmt = 12 then .mx6 else if efmt = 13 then .mx4 else kindOf efmt

/-- The body size *W* of a shard (R252). -/
def shardSize (efmt pattern : Nat) : Nat := folioBytes (shardKind efmt) (pattern % 4 != 0) (pattern % 4 - 1) 0

/-- A SHARDS entry (Table INT-1, R252). -/
def ShardEntry.ok (h : ShardEntry) : Bool :=
  h.accession != 0 && h.accession != BitVec.allOnes 48
    && ((decide (1 ≤ h.efmt) && decide (h.efmt ≤ 4)) || (decide (9 ≤ h.efmt) && decide (h.efmt ≤ 13)))
    && h.shaped && decide (1 ≤ h.count) && h.w == shardSize h.efmt h.pattern

/-- 0x05: reserved bytes and the rules of R177, and of R250, R283 and R319. -/
def State.sectionsOk (s : State) (base : Nat) (im : TopoImage) : Bool :=
  let h := s.imageBytes base 0 4096
  let n := fieldAt h 6 2
  let ds := dirOf h
  decide (1 ≤ n) && decide (n ≤ 32) && zeroAt h 21 3 && zeroAt h 40 8 && zeroAt h (128 + 32 * n) (1024 - 32 * n) && zeroAt h 1152 2944
    && ds.all (fun d => d.ok im.len) && pairs DirEntry.apart ds
    && [1, 2, 3, 4, 5, 10].all (fun t => (sectionOf ds t).isSome)
    && im.groupsOk && im.shards.all ShardEntry.ok

/-- 0x07: opcodes and reserved fields of every command word. -/
def State.cmdsOk (s : State) (base : Nat) (im : TopoImage) : Bool :=
  (entriesOf 16 (im.cmdsLen / 16) (s.imageBytes base im.cmdsOff im.cmdsLen)).all fun b =>
    let w : W128 := BitVec.ofNat 128 (leNat b)
    opDefined (wOpc w) && !reservedBad w

/-- Consecutive numbers of a list rise. -/
def ascends : List Nat → Bool
  | x :: y :: rest => decide (x < y) && ascends (y :: rest)
  | _ => true

/-- 0x08: the slice table of R91 and the reservations of R75. -/
def CoreEntry.ok (e : CoreEntry) : Bool :=
  let on := e.slices.filter fun w => bit w.toNat 31
  let starts := on.map fun w => bits w.toNat 0 15
  (on.isEmpty || (bit ((e.slices.headD 0).toNat) 31 && starts.head? == some 0 && ascends starts))
    && decide (bits e.rsv.toNat 0 3 ≤ 4)
    && decide (bits e.rsv.toNat 0 3 + bits e.rsv.toNat 11 9 + bits e.rsv.toNat 20 9 ≤ 512)

/-- The region number of a region. -/
def RegionEntry.number (r : RegionEntry) : Nat := bits r.rect.toNat 24 8

/-- Two regions share no core, no slice, no stacks byte, no context and no number (R63, R64, R229). -/
def RegionEntry.apart (a b : RegionEntry) : Bool :=
  a.number != b.number
    && (List.range 256).all (fun c => !(inRect a.rect.toNat c && inRect b.rect.toNat c))
    && a.slices.all (fun x => !b.slices.contains x)
    && a.stackRanges.all (fun x => b.stackRanges.all fun y => decide (x.2 < y.1) || decide (y.2 < x.1))
    && a.ctxs.all (fun x => b.ctxs.all fun y => decide (x.2 < y.1) || decide (y.2 < x.1))

/-- An owned slice's field has a core of the region (R64). -/
def RegionEntry.slicesOk (r : RegionEntry) : Bool :=
  r.slices.all fun x => (List.range 4).any fun k => inRect r.rect.toNat (4 * x.1 + k)

/-- Every context that a region lists is its own by the CONTEXTS section as well (DESIGN CHOICE, log entry 16). -/
def TopoImage.ctxsAgree (im : TopoImage) : Bool :=
  im.regions.all fun r => im.ctxs.all fun c =>
    c.region.toNat == r.number || r.ctxs.all fun x => decide (c.ctx.toNat < x.1) || decide (x.2 < c.ctx.toNat)

/-- 0x09: regions apart, every used core assigned, R64 kept. -/
def TopoImage.regionsOk (im : TopoImage) : Bool :=
  pairs RegionEntry.apart im.regions && im.regions.all RegionEntry.slicesOk && im.ctxsAgree
    && (List.range 256).all fun c => !bit im.mask c || im.regions.any fun r => inRect r.rect.toNat c

/-- Bytes `a .. b` of a place lie inside what a region is granted on its module. -/
def RegionEntry.grants (r : RegionEntry) (ilv : FieldIx → Bool) (a n : Nat) : Bool :=
  match place a with
  | .scratch c o => inRect r.rect.toNat c.val && decide (o + n ≤ scratchSize)
  | .slice f o => decide (o + n ≤ 2 ^ 26) && (slicesOf (ilv f) o n).all fun k => r.slices.contains (f.val, k.val)
  | .stacks o => r.stackRanges.any fun g => decide (g.1 ≤ o) && decide (o + n ≤ g.2 + 1)
  | _ => false

/-- 16 GiB. -/
def slotSize : Nat := 2 ^ 34

/-- The stacks offsets a slot locks: from the write of ARM until it is disarmed (R180). -/
def State.locked (s : State) (i : ImgIx) : Bool := (s.glb.slots[i]).lock

/-- A range of stacks offsets, its first and last, meets a slot's locked range. -/
def State.meetsLock (s : State) (lo hi : Nat) : Bool :=
  (List.finRange 2).any fun i =>
    let b := (s.glb.slots[i]).base.toNat
    s.locked i && decide (lo < b + slotSize) && decide (b ≤ hi)

/-- R225 on any valid carrel. -/
def Carrel.shape (k : Carrel) : Bool :=
  bits k.base.toNat 56 8 == bits k.bound.toNat 56 8 && decide (k.base.toNat ≤ k.bound.toNat) && decide (addrRange k.base.toNat ≤ 4)

/-- The region of a core in an image. -/
def TopoImage.regionOf (im : TopoImage) (c : Nat) : Option RegionEntry := im.regions.find? fun r => inRect r.rect.toNat c

/-- A data carrel of a core of this module: R225, R226 and the region's grants. -/
def State.dataCarrelOk (s : State) (im : TopoImage) (c : Nat) (k : Carrel) : Bool :=
  let a := k.base.toNat
  k.shape &&
    (if addrModule a ≠ s.glb.modIx.val then decide (addrRange a ≤ 2)
     else decide (3 ≤ addrRange a) || (match im.regionOf c with
       | some r => r.grants (fun f => (s.field f).ilv) a k.size
       | none => false))

/-- A code carrel: R225. -/
def State.codeCarrelOk (s : State) (i : ImgIx) (k : Carrel) : Bool :=
  let b := s.glb.modIx.val * 2 ^ 60 + stacksAddr (s.glb.slots[i]).base.toNat
  k.shape && k.rd && !k.wr && decide (b ≤ k.base.toNat) && decide (k.bound.toNat < b + slotSize)

/-- 0x0A: carrels inside their grants, grants clear of both slots' locked ranges. -/
def State.carrelsOk (s : State) (i : ImgIx) (im : TopoImage) : Bool :=
  im.carrels.all (fun e =>
    match e.2.2 with
    | code :: dat => (!code.valid || s.codeCarrelOk i code) && dat.all fun k => !k.valid || s.dataCarrelOk im e.1 k
    | [] => true)
    && im.regions.all fun r => r.stackRanges.all fun g => !s.meetsLock g.1 g.2

/-- Windows of two rope entries meet in a pitch that both cover. -/
def RopeEntry.meets (a b : RopeEntry) : Bool :=
  decide (a.first ≤ b.last) && decide (b.first ≤ a.last)
    && decide (a.wstart < b.wstart + b.wlen) && decide (b.wstart < a.wstart + a.wlen)

/-- The context a rope is bound to (R378). -/
def TopoImage.ropeCtx (im : TopoImage) (r : BitVec 12) : List CtxEntry := im.ctxs.filter fun c => c.rope == r

/-- Two rope entries keep R179. -/
def TopoImage.ropesApart (im : TopoImage) (a b : RopeEntry) : Bool :=
  if a.rope = b.rope then a.port == b.port && a.dirVc == b.dirVc && a.peer == b.peer && !a.meets b
  else
    let same : Bool := a.rx == b.rx
      && (match (im.ropeCtx a.rope).head?, (im.ropeCtx b.rope).head? with
          | some x, some y => x.port == y.port && x.ctx.toNat % 2 == y.ctx.toNat % 2
          | _, _ => false)
    !same || !a.meets b

/-- A rope entry alone: its fields, its window inside PITCH_US, its buffers with those of the ropes beside it (R179, R381,
R382). -/
def TopoImage.ropeOk (im : TopoImage) (e : RopeEntry) : Bool :=
  let beside := im.ropes.filter fun x => x.rx && x.port == e.port && x.vc == e.vc && decide (x.first ≤ e.first) && decide (e.first ≤ x.last)
  e.word != 0 && decide (e.word.toNat < 4096) && decide (e.port ≤ 13) && decide (2 ≤ e.vc) && decide (e.vc ≤ 5) && decide (e.peer ≤ 15 ∨ e.peer = 0x80)
    && decide (e.wstart + e.wlen ≤ 1000 * im.pitchUs) && (im.ropeCtx e.rope).length == 1
    && (!e.rx || decide (2 * (beside.map RopeEntry.buf).sum ≤ 256 * rxFlits e.port e.vc))

/-- 0x0E: DATA sizes and targets. -/
def State.dataOk (s : State) (im : TopoImage) : Bool :=
  decide ((im.data.map fun d => d.2.length).sum ≤ 2 ^ 24)
    && (List.range 256).all (fun c =>
        decide ((im.data.map fun d => match place d.1 with
          | .scratch k _ => if k.val = c then d.2.length else 0
          | _ => 0).sum ≤ 2 ^ 18))
    && im.data.all fun d => addrModule d.1 == s.glb.modIx.val
        && im.regions.any fun r => r.grants (fun f => (s.field f).ilv) d.1 d.2.length

/-- The first failing check of Table TOP-7, in its order; 0 when all pass (R181). -/
def State.checkImage (s : State) (i : ImgIx) (im : TopoImage) : Nat :=
  let base := (s.glb.slots[i]).base.toNat
  if !im.headOk base then 1
  else if sha256 (s.imageBytes base 0 (im.len - 512)) != im.digest then 2
  else if !s.signed base im then 3
  else if im.module ≠ s.glb.modIx.val then 4
  else if !s.sectionsOk base im then 5
  else if im.mask &&& s.glb.coreEn.toNat ≠ im.mask then 6
  else if !s.cmdsOk base im then 7
  else if !im.cores.all CoreEntry.ok then 8
  else if !im.regionsOk then 9
  else if !s.carrelsOk i im then 10
  else if !(im.ropes.all im.ropeOk && pairs im.ropesApart im.ropes) then 11
  else if im.slack.length < im.pitches || im.slack.any (fun x => decide (65536 ≤ x) || decide (x < ceilDiv im.pitchUs 50)) then 12
  else if im.pitchUs < 100 || 20000 < im.pitchUs || (im.launch ≠ 0 && im.launch ≤ s.gcnt + 1000 * im.pitchUs) then 13
  else if !s.dataOk im then 14
  else if 1 < s.nvm.dead.length then 15
  else 0

/-! ## Slots (R180, R181, Table TOP-5) -/

/-- A slot rewritten. -/
def State.modSlot (s : State) (i : ImgIx) (f : ImgSlot → ImgSlot) : State :=
  { s with glb := { s.glb with slots := upd s.glb.slots i f } }

/-- GLB_TOPO_CTL lies at this CSR offset. -/
def topoCtl : BitVec 26 := 0x110

/-- A path may write a class S register, and the warden is there to act (R461, R492). -/
def State.wardenTakes (s : State) (p : Path) : Bool := classS p && s.glb.wardenUp

/-- ARM written for a slot: its range locks and its check begins; ignored while it is checking, armed or running. -/
def State.armSlot (s : State) (i : ImgIx) : State :=
  if (s.glb.slots[i]).st == .empty then s.modSlot i fun k => { k with st := .checking, lock := true } else s

/-- ARM: the write of GLB_TOPO_CTL.ARM; a path that may not write it, or one during a warden reset, is refused (R180, R461). -/
def execArm (p : Path) (slot : ImgIx) (s : State) : Host.Outcome State Fault Refusal :=
  .next (s.guarded p topoCtl (s.wardenTakes p) fun s => s.armSlot slot)

/-- The check of Table TOP-7 ends for a slot: a passed one arms it, a failed one empties it with its code (R181). -/
def State.checkSlot (s : State) (slot : ImgIx) : State :=
  if (s.glb.slots[slot]).st != .checking || !s.glb.wardenUp then s
  else
    let im := s.readImage (s.glb.slots[slot]).base.toNat
    let e := s.checkImage slot im
    s.modSlot slot fun k =>
      if e = 0 then { k with st := .armed, err := 0, runs := 0, image := im, used := false }
      else { k with st := .empty, err := BitVec.ofNat 8 e }

/-- DISARM written for a slot: ignored and counted refused while it runs (Table TOP-5). -/
def State.disarmSlot (s : State) (p : Path) (i : ImgIx) : State :=
  if (s.glb.slots[i]).st == .running then s.refuse p topoCtl
  else s.modSlot i fun k => { k with st := .empty, lock := false }

end Sys2Proof.Machine
end

