-- ==== Sys2Proof/Machine/Power.lean ====
section
/-! DEFINITION. Power and temperature (R404 to R428): domains and their sequences, fences, zone ceilings, sensors and shutdown. -/

namespace Sys2Proof.Machine

/-! ## What a domain supplies (Table PWR-1, Table PWR-2) -/

/-- What a domain number stands for. -/
inductive DomKind where
  | vlog (f : FieldIx) | varr (b : Nat) | vlnk (e : Nat) | vmif (q : Nat)
  deriving DecidableEq, Repr

/-- The kind of a domain. -/
def domKind (d : DomIx) : DomKind :=
  if h : d.val < 64 then .vlog ⟨d.val, h⟩
  else if d.val < 80 then .varr (d.val - 64)
  else if d.val < 84 then .vlnk (d.val - 80)
  else .vmif (d.val - 84)

/-- The domain is a VLNK domain. -/
def isVlnk (d : DomIx) : Bool := decide (80 ≤ d.val) && decide (d.val < 84)

/-- The fields on an edge's row or column (Table PWR-3). -/
def onEdge (e : Nat) (f : FieldIx) : Bool :=
  match e with
  | 0 => fieldY f.val == 0
  | 1 => fieldX f.val == 7
  | 2 => fieldY f.val == 7
  | _ => fieldX f.val == 0

/-- A domain feeds a field (Table PWR-1, Table PWR-3). -/
def feeds (d : DomIx) (f : FieldIx) : Bool :=
  match domKind d with
  | .vlog g => g == f
  | .varr _ => varr f == d
  | .vlnk e => onEdge e f
  | .vmif _ => vmif f == d

/-- The port groups of an edge. -/
def edgeGroups (e : Nat) : List GroupIx := (List.finRange 14).filter fun g => groupEdge g == e

/-- The domain reads on, fenced or not (STATE 3 or 4 of Table PWR-7). -/
def Domain.isOn (k : Domain) : Bool := k.st == .on || k.st == .onFenced

/-- Domain sequences that count against the limit of four (R408). -/
def State.sequences (s : State) : Nat := (s.pwr.dom.toList.filter Domain.counts).length

/-! ## Requests (R406, R409, R411, R413) -/

/-- PWR_DOM_REQ lies at this CSR offset. -/
def domReq : BitVec 26 := 0x400000

/-- A request ignored and counted in PWR_REQ_REFUSED (R406, Table PWR-4). -/
def State.domRefused (s : State) : State := { s with pwr := { s.pwr with refused := bump s.pwr.refused } }

/-- R406: the VARR domain of a VLOG domain is fully on and not asked off. -/
def State.mayPowerUp (s : State) (d : DomIx) : Bool :=
  match domKind d with
  | .vlog f => (s.dom (varr f)).isOn && !(s.dom (varr f)).offReq
  | _ => true

/-- R406: every VLOG domain of a VARR domain's block is off, with no switch-on waiting. -/
def State.mayPowerDown (s : State) (d : DomIx) : Bool :=
  match domKind d with
  | .varr _ => (List.finRange 64).all fun f =>
      varr f != d || ((s.dom (vlog f)).st == .off && (s.dom (vlog f)).queued.isNone)
  | _ => true

/-- A sequence accepted waits its turn (R408). -/
def State.enqueueSeq (s : State) (d : DomIx) (on : Bool) : State :=
  let s1 := s.modDom d fun k => { k with queued := some on }
  { s1 with pwr := { s1.pwr with wait := s1.pwr.wait ++ [(d, on)] } }

/-- A sequence that waits is taken back. -/
def State.dequeueSeq (s : State) (d : DomIx) : State :=
  let s1 := s.modDom d fun k => { k with queued := none }
  { s1 with pwr := { s1.pwr with wait := s1.pwr.wait.filter fun x => x.1 != d } }

/-- The next boundary after the one noted has begun (R412, R414). -/
def State.pastEdge (s : State) (k : Domain) : Bool := s.gridNow != k.edge

/-- A valid request to switch a domain on. -/
def State.requestOn (s : State) (d : DomIx) : State :=
  let k := s.dom d
  if !s.mayPowerUp d then s.domRefused
  else
    match k.st with
    | .off => if k.queued.isSome then s else s.enqueueSeq d true
    | .switchingOff => s.modDom d fun k => { k with onReq := true }
    | .fenced =>
      if k.queued.isSome then (s.dequeueSeq d).modDom d fun k => { k with st := .onFenced, onReq := false, edge := s.gridNow }
      else s.modDom d fun k => { k with onReq := true }
    | _ => s.modDom d fun k => { k with offReq := false }

/-- A valid request to switch a domain off. -/
def State.requestOff (s : State) (d : DomIx) : State :=
  let k := s.dom d
  if !s.mayPowerDown d then s.domRefused
  else
    match k.st with
    | .off => if k.queued.isSome then s.dequeueSeq d else s
    | .switchingOff => s.modDom d fun k => { k with onReq := false }
    | .fenced => s.modDom d fun k => { k with onReq := false }
    | _ => s.modDom d fun k => { k with offReq := true, edge := if k.offReq then k.edge else s.gridNow }

/-- A request for a domain number of 7 bits: one above 87 is ignored and counted (Table PWR-4). -/
def State.requestDom (s : State) (d : BitVec 7) (on : Bool) : State :=
  if h : d.toNat < 88 then (if on then s.requestOn ⟨d.toNat, h⟩ else s.requestOff ⟨d.toNat, h⟩) else s.domRefused

/-- DOMAIN_ON_REQUEST: PWR_DOM_REQ written with GO and ON (R406, R411, R413, R429). -/
def execDomainOnRequest (p : Path) (d : BitVec 7) (s : State) : Host.Outcome State Fault Refusal :=
  .next (s.guarded p domReq (s.wardenTakes p) fun s => s.requestDom d true)

/-- DOMAIN_OFF_REQUEST: PWR_DOM_REQ written with GO and without ON (R406, R411, R412, R429). -/
def execDomainOffRequest (p : Path) (d : BitVec 7) (s : State) : Host.Outcome State Fault Refusal :=
  .next (s.guarded p domReq (s.wardenTakes p) fun s => s.requestDom d false)

/-! ## What power-down loses and power-up resets (Table PWR-2, R244) -/

/-- A task context whose core has lost power: queues, counters and engine state gone; its carrels stay (Table PWR-2). -/
def Task.powerReset (k : Task) : Task := { ({} : Task) with carrels := k.carrels, landing := k.landing }

/-- A core whose VLOG domain has been down: queues, counters, strand and engine state gone (Table PWR-2). -/
def Core.powerReset (k : Core) : Core :=
  { k with tasks := k.tasks.map Task.powerReset, gangs := [], engines := Vector.replicate 4 {}, sliceNow := none, guarded := false
           sliceLate := none, setups := [], port := 0, target := none }

/-- The cores of a field reset, and what they had begun of collectives. -/
def State.resetField (s : State) (f : FieldIx) : State :=
  { s with cores := Vector.ofFn fun c => if coreField c == f then (s.cores[c]).powerReset else s.cores[c]
           grd := { s.grd with colls := s.grd.colls.filter fun r => coreField r.core != f } }

/-- The array content of a block lost and poisoned. -/
def Memory.loseArrays (m : Memory) (b : DomIx) : Memory :=
  ((List.finRange 64).filter fun f => varr f == b).foldl (fun m f =>
    ((List.finRange 4).foldl (fun m c => m.lose (scratchAddr (coreOf f c) 0) (scratchAddr (coreOf f c) (2 ^ 26))) m).lose
      (sliceAddr f 0) (sliceAddr f (2 ^ 26))) m

/-- The stacks content of a quadrant lost and poisoned. -/
def Memory.loseStacks (m : Memory) (q : DomIx) : Memory :=
  ((List.finRange 64).filter fun f => vmif f == q).foldl (fun m f =>
    m.lose (stacksAddr (f.val * fieldStacks)) (stacksAddr (f.val * fieldStacks + fieldStacks))) m

/-- The sublinks of an edge disabled. -/
def State.unpowerEdge (s : State) (e : Nat) : State :=
  (edgeGroups e).foldl (fun s g => (s.modSub g 0 Sublink.unpower).modSub g 1 Sublink.unpower) s

/-- The router that a sublink attaches to is alive (R54). -/
def State.attached (s : State) (g : GroupIx) (u : SubIx) : Bool :=
  !s.deadRouter ⟨attachField g u % 64, Nat.mod_lt _ (by decide)⟩

/-- A powered sublink that is not disabled starts to train (Sequence LNK-1); one of a dead router stays DOWN (R54). -/
def LinkGroup.trainUp (k : LinkGroup) (alive : SubIx → Bool) : LinkGroup :=
  { k with sub := Vector.ofFn fun u =>
      if k.dis.getLsbD u.val then k.sub[u]
      else if alive u then { k.sub[u] with st := .training, cold := true, warmFail := 0, coldFail := 0, dead := false }
      else { k.sub[u] with st := .down, dead := true } }

/-- The sublinks of an edge start to train. -/
def State.trainEdge (s : State) (e : Nat) : State :=
  (edgeGroups e).foldl (fun s g => s.modGroup g fun k => k.trainUp (s.attached g)) s

/-- What the opening of a domain's switches loses. -/
def State.powerLost (s : State) (d : DomIx) : State :=
  match domKind d with
  | .vlog f => s.resetField f
  | .varr _ => { s with mem := s.mem.loseArrays d }
  | .vlnk e => s.unpowerEdge e
  | .vmif _ => { s with mem := s.mem.loseStacks d }

/-! ## Sequences (R407 to R410) -/

/-- The first stage of a sequence begins. -/
def State.startSeq (s : State) (d : DomIx) (on : Bool) : State :=
  let s1 := s.dequeueSeq d
  if on then s1.modDom d fun k => { k with st := .switchingOn, stage := 1, counts := true, stageAt := s.now }
  else (s1.powerLost d).modDom d fun k => { k with st := .switchingOff, stage := 7, counts := true, onReq := false, stageAt := s.now }

/-- DOMAIN_SEQUENCE_START: the oldest waiting sequence starts while fewer than four run (R407, R408). -/
def execDomainSequenceStart (s : State) : Host.Outcome State Fault Refusal :=
  .next (match s.pwr.wait with
    | [] => s
    | x :: _ => if 4 ≤ s.sequences then s else s.startSeq x.1 x.2)

/-- The latest stage of a sequence began, or its rail was regulated, at least `ns` ago (R407, Sequence PWR-1). -/
def Domain.aged (k : Domain) (now ns : Nat) : Bool := decide (k.stageAt + ns ≤ now)

/-- DOMAIN_STAGE: the next stage of a domain's sequence begins, 2 µs after the one before (R407, R410). -/
def execDomainStage (d : DomIx) (s : State) : Host.Outcome State Fault Refusal :=
  .next (
    let k := s.dom d
    match k.st with
    | .switchingOn => if k.offReq || decide (8 ≤ k.stage) || !k.aged s.now 2000 then s
      else s.modDom d fun k => { k with stage := k.stage + 1, stageAt := s.now }
    | .switchingOff => if k.onReq || k.stage == 0 || !k.aged s.now 2000 then s
      else s.modDom d fun k => { k with stage := k.stage - 1, stageAt := s.now }
    | _ => s)

/-- DOMAIN_REGULATED: 6 µs after the last stage began the rail is regulated; a VLNK domain is then ready and its sublinks train
(Sequence PWR-1 steps 3, 4 and 8). -/
def execDomainRegulated (d : DomIx) (s : State) : Host.Outcome State Fault Refusal :=
  .next (
    let k := s.dom d
    if k.st != .switchingOn || k.stage != 8 || k.offReq || !k.aged s.now 6000 then s
    else
      match domKind d with
      | .vlnk e => (s.modDom d fun k => { k with st := .onFenced, counts := false, seq := k.seq + 1, edge := s.gridNow }).trainEdge e
      | _ => s.modDom d fun k => { k with st := .initialising, counts := false, stageAt := s.now })

/-- The shortest initialisation of a domain, in ns (Sequence PWR-1 steps 5 to 7). -/
def initTime (d : DomIx) : Nat :=
  match domKind d with
  | .vlog _ => 2000
  | .varr _ => 200000
  | .vmif _ => 2000000
  | .vlnk _ => 0

/-- DOMAIN_READY: initialisation ends: cores and crossbar reset, or every granule poisoned (Sequence PWR-1 steps 5 to 7, R244). -/
def execDomainReady (d : DomIx) (s : State) : Host.Outcome State Fault Refusal :=
  .next (
    let k := s.dom d
    if k.st != .initialising || k.offReq || !k.aged s.now (initTime d) then s
    else
      let s1 : State :=
        match domKind d with
        | .vlog f => s.resetField f
        | .varr _ => { s with mem := s.mem.loseArrays d }
        | .vmif _ => { s with mem := s.mem.loseStacks d }
        | .vlnk _ => s
      s1.modDom d fun k => { k with st := .onFenced, seq := k.seq + 1, edge := s.gridNow })

/-- DOMAIN_OFF: a power-down whose last stage began to open 1 µs ago reads off (R407). -/
def execDomainOff (d : DomIx) (s : State) : Host.Outcome State Fault Refusal :=
  .next (
    let k := s.dom d
    if k.st != .switchingOff || k.stage != 0 || k.onReq || !k.aged s.now 1000 then s
    else s.modDom d fun k => { k with st := .off, counts := false, seq := k.seq + 1 })

/-- A reversal counted (R409). -/
def State.reversed (s : State) : State := { s with pwr := { s.pwr with reverse := bump s.pwr.reverse } }

/-- DOMAIN_REVERSAL: 2 µs after its latest stage began, the opposite request takes the sequence back stage by stage, that stage first
(R409). -/
def execDomainReversal (d : DomIx) (s : State) : Host.Outcome State Fault Refusal :=
  .next (
    let k := s.dom d
    if !k.aged s.now 2000 then s
    else match k.st with
    | .switchingOn =>
      if k.offReq then
        (s.modDom d fun k => { k with st := .switchingOff, stage := k.stage - 1, offReq := false, stageAt := s.now }).reversed
      else s
    | .initialising =>
      if k.offReq && decide (s.sequences < 4) then
        (s.modDom d fun k => { k with st := .switchingOff, stage := 7, offReq := false, counts := true, stageAt := s.now }).reversed
      else s
    | .switchingOff =>
      if k.onReq then
        (s.modDom d fun k => { k with st := .switchingOn, stage := k.stage + 1, onReq := false, stageAt := s.now }).reversed
      else s
    | _ => s)

/-! ## Fences (R412 to R414) -/

/-- A fence message: ARG the domain, the payload 1 raised or 0 lowered (Table WAF-8; log entry 10). -/
def fenceMsg (d : DomIx) (raised : Bool) : CtlMsg :=
  { typ := 0xB, dest := 56, src := 56, bcast := true, plane := false, arg := BitVec.ofNat 12 d.val
    payload := [BitVec.ofNat 32 (ofFlag raised)] }

/-- FENCE_RAISE: at boundary B1, the next after the request, the fence of an on domain that was asked off rises (R412). -/
def execFenceRaise (d : DomIx) (s : State) : Host.Outcome State Fault Refusal :=
  .next (
    let k := s.dom d
    if k.isOn && k.offReq && s.pastEdge k then
      (s.modDom d fun k => { k with st := .fenced, offReq := false, edge := s.gridNow }).tellAll (fenceMsg d true) else s)

/-- RESUME grants to every context refused with NACK 0x04 (R368, R414). -/
def State.resumeAll (s : State) : State :=
  (s.fab.ctxs.filter Ctx.refusedParked).foldl (fun s k => s.grantOwed k true) s

/-- The fence of a domain lowers: nodes are told, parked senders on the wafer and the rack resume (R414). -/
def State.lowerFence (s : State) (d : DomIx) : State :=
  let s1 := ((s.modDom d fun k => { k with st := .on, onReq := false }).tellAll (fenceMsg d false)).resumeAll
  { s1 with mesh := s1.mesh ++ s1.held.map (fun p => { pkt := p, at_ := p.srcField }), held := [] }

/-- POWER_DOWN_START: at boundary B2 power-down begins, or an on request since B1 cancels it (R412, R413). -/
def execPowerDownStart (d : DomIx) (s : State) : Host.Outcome State Fault Refusal :=
  .next (
    let k := s.dom d
    if k.st != .fenced || k.queued.isSome || !s.pastEdge k then s
    else if k.onReq then s.lowerFence d
    else
      match domKind d with
      | .vlnk e => (s.unpowerEdge e).enqueueSeq d false
      | _ => s.enqueueSeq d false)

/-- FENCE_LOWER: at the first boundary after a domain is ready its fence lowers (R414). -/
def execFenceLower (d : DomIx) (s : State) : Host.Outcome State Fault Refusal :=
  .next (if (s.dom d).st == .onFenced && !(s.dom d).offReq && s.pastEdge (s.dom d) then s.lowerFence d else s)

/-! ## Zone ceilings (R417 to R420, R422) -/

/-- Phases of a zone (Table PWR-1). -/
def zonePhases (d : DomIx) : Nat :=
  match domKind d with
  | .vlog _ => 12
  | .varr _ => 8
  | _ => 16

/-- The ceiling a zone's healthy phases allow (Table PWR-3). -/
def phaseCeiling (d : DomIx) (healthy : Nat) : Nat :=
  match domKind d with
  | .vlog _ => if healthy = 12 then 16 else if healthy = 11 then 15 else if healthy = 10 then 13 else if healthy = 9 then 11 else 4
  | .varr _ => if healthy = 8 then 16 else if healthy = 7 then 15 else if healthy = 6 then 13 else if healthy = 5 then 11 else 4
  | _ => if 13 ≤ healthy then 16 else if healthy = 12 then 13 else 4

/-- The ceiling of one zone by its phases now. -/
def State.zonePhaseCeil (s : State) (d : DomIx) : Nat := phaseCeiling d (zonePhases d - (s.dom d).lostPh)

/-- The ceiling of a field by the phases of every zone that feeds it. -/
def State.fieldPhaseCeil (s : State) (f : FieldIx) : Nat :=
  (((List.finRange 88).filter fun d => feeds d f).map s.zonePhaseCeil).foldl min 16

/-- The zone ceiling of a field: the least of those imposed (R420). -/
def State.zoneCeilOf (s : State) (f : FieldIx) : Nat :=
  min (s.fieldPhaseCeil f) (min (s.field f).clampCeil (s.field f).govCeil)

/-- A field's zone ceiling taken anew; a change is a clock event naming field and level (R422). -/
def State.refreshCeil (s : State) (f : FieldIx) : State :=
  let n := s.zoneCeilOf f
  if n = (s.field f).zoneCeil then s
  else (s.modField f fun k => { k with zoneCeil := n }).logEvent 0 8 1 kField f.val
    [BitVec.ofNat 8 f.val, BitVec.ofNat 8 n]

/-- Clamp action in the last 20 µs, in ns. -/
def clampTotal (now : Nat) (xs : List (Nat × Nat)) : Nat := ((xs.filter fun x => decide (now < x.1 + 20000)).map Prod.snd).sum

/-- DROOP_CLAMP: the clamp acts for `ns`; more than 1 µs in 20 µs lowers the zone's ceiling by one level (R417). -/
def execDroopClamp (f : FieldIx) (ns : Nat) (s : State) : Host.Outcome State Fault Refusal :=
  .next (
    let acts := (s.now, ns) :: (s.field f).clampActs.filter fun x => decide (s.now < x.1 + 20000)
    if 1000 < clampTotal s.now acts then
      (s.modField f fun k =>
        { k with clampAt := s.now, clampActs := [],
                 clampCeil := max 4 (min k.clampCeil (s.zonePhaseCeil (vlog f)) - 1) }).refreshCeil f
    else s.modField f fun k => { k with clampAt := s.now, clampActs := acts })

/-- CLAMP_CEILING_RAISE: 1,000 µs without a clamp action raise the zone's ceiling by one level (R417). -/
def execClampCeilingRaise (f : FieldIx) (s : State) : Host.Outcome State Fault Refusal :=
  .next (
    let k := s.field f
    if s.zonePhaseCeil (vlog f) ≤ k.clampCeil || s.now < k.clampAt + 1000000 then s
    else (s.modField f fun k => { k with clampCeil := k.clampCeil + 1, clampAt := s.now }).refreshCeil f)

/-- PHASE_FAULT: a phase is dropped and the ceiling of Table PWR-3 applies to the fields its zone feeds (R418). -/
def execPhaseFault (z : DomIx) (s : State) : Host.Outcome State Fault Refusal :=
  .next (
    let s1 := s.modDom z fun k => { k with lostPh := min (zonePhases z) (k.lostPh + 1) }
    ((List.finRange 64).filter fun f => feeds z f).foldl (fun s f => s.refreshCeil f) s1)

/-- SUSTAIN_KW as it acts, in W (Table PWR-5). -/
def sustainW (w : W32) : Nat := 1000 * max 16 (min 32 (bits w.toNat 0 6))

/-- The enabled cores of a field whose FLOOR lies above a level. -/
def State.floorsAbove (s : State) (f : FieldIx) (n : Nat) : List CoreIx :=
  ((List.finRange 4).map (coreOf f)).filter fun c => s.enabled c.val && decide (n < (s.core c).floor)

/-- Policy contention of a core logged at most once per core per pitch (R479). -/
def State.logContention (s : State) (c : CoreIx) : State :=
  if s.flt.clkLog.contains c then s
  else ({ s with flt := { s.flt with clkLog := c :: s.flt.clkLog } }).coreEvent c 0 8 2

/-- The governor's ceiling of a field lowered to a level, contention counted (R419, R420, R479). -/
def State.govLower (s : State) (f : FieldIx) (n : Nat) : State :=
  let cs := s.floorsAbove f n
  let s1 := (s.modField f fun k => { k with govCeil := n }).refreshCeil f
  let s2 := if cs.isEmpty then s1 else { s1 with pwr := { s1.pwr with policy := bump s1.pwr.policy } }
  cs.foldl (fun s c => s.logContention c) s2

/-- The field with the lowest ceiling the governor has imposed, lowest number first. -/
def State.govLowest (s : State) : Option FieldIx :=
  (List.finRange 64).foldl (fun b f =>
    if 16 ≤ (s.field f).govCeil then b
    else
      match b with
      | none => some f
      | some g => if (s.field f).govCeil < (s.field g).govCeil then some f else some g) none

/-- One ceiling raised by one level (R419). -/
def State.govRaise (s : State) : State :=
  match s.govLowest with
  | none => s
  | some f => (s.modField f fun k => { k with govCeil := k.govCeil + 1 }).refreshCeil f

/-- GOVERNOR_TICK: the estimates (W) against both limits: at risk from the limit on, to spare at 95 % of it or less for 50 ticks
of 20 µs (R419, R420). -/
def execGovernorTick (avg10ms avg1s : Nat) (demand : FieldIx) (s : State) : Host.Outcome State Fault Refusal :=
  .next (
    let lim1 := sustainW s.cfg.active.budget
    let risk10 := decide (38000 ≤ avg10ms)
    let risk1 := decide (lim1 ≤ avg1s)
    let n := max 4 ((s.field demand).zoneCeil - 1)
    let s0 := { s with pwr := { s.pwr with govHold := 0 } }
    if risk10 then s0.govLower demand n
    else if risk1 then (if (s.floorsAbove demand n).isEmpty then s0.govLower demand n else s0)
    else if decide (100 * avg10ms ≤ 95 * 38000) && decide (100 * avg1s ≤ 95 * lim1) then
      if 50 ≤ s.pwr.govHold + 1 then s0.govRaise else { s with pwr := { s.pwr with govHold := s.pwr.govHold + 1 } }
    else s0)

/-! ## Sensors (R423, R424) -/

/-- −20 °C and 150 °C in units of 0.25 °C. -/
def senseBad (r : Int) : Bool := decide (r < -80) || decide (600 < r)

/-- The sensor has stood still for 1 s while its core's level changed (R424). -/
def senseStuck (now : Nat) (x : Sense) (r : Int) (levelAt : Option Nat) : Bool :=
  x.reading == r && decide (x.changed + 1000000000 ≤ now)
    && (match levelAt with
        | some t => decide (x.changed ≤ t)
        | none => false)

/-- The timers of R96 to R98 after a core's readings have changed. -/
def Core.heat (k : Core) (now : Nat) : Core :=
  { k with coolSince := if k.hot < coolLimit then some (k.coolSince.getD now) else none
           hotSince := if hotLimit ≤ k.hot ∧ k.therm = k.floor then some (k.hotSince.getD now) else none }

/-- A core's sensor marked failed; a second failed sensor holds the core at level 4 (R424, R480). -/
def State.failSensor (s : State) (c : CoreIx) (k : Fin 4) : State :=
  let s1 := (s.modCore c fun x => { x with sensors := upd x.sensors k fun y => { y with failed := true } }).coreEvent c 0 8 5
    [BitVec.ofNat 8 k.val]
  if (s1.core c).blind then (s1.modCore c fun x => { x with therm := 4 }).service svSensor else s1

/-- A core's sensor read. -/
def State.readCoreSensor (s : State) (c : CoreIx) (k : Fin 4) (r : Int) : State :=
  let x := (s.core c).sensors[k]
  if x.failed then s
  else if senseBad r || senseStuck s.now x r (s.core c).levelAt then (s.failSensor c k).modCore c fun y => y.heat s.now
  else
    let z : Sense := { x with reading := r, changed := if x.reading = r then x.changed else s.now }
    s.modCore c fun y => ({ y with sensors := y.sensors.set k z }).heat s.now

/-- A field's stack sensor read; the time below 83.0 °C is kept for R238. -/
def State.readStackSensor (s : State) (f : FieldIx) (r : Int) : State :=
  let s1 := s.modField f fun k =>
    { k with stkTemp := r, stkCool := if r < 332 then some (k.stkCool.getD s.now) else none, stkFailed := k.stkFailed || senseBad r }
  if senseBad r && !(s.field f).stkFailed then s1.logEvent 0 8 5 kField f.val else s1

/-- SENSOR_READ: a sensor's reading is taken (R423, R424); the limits of R426 act through SHUTDOWN. -/
def execSensorRead (x : Sensor) (reading : Int) (s : State) : Host.Outcome State Fault Refusal :=
  .next (match x with
    | .core c k => s.readCoreSensor c k reading
    | .stack f => s.readStackSensor f reading)

/-! ## Shutdown (R426 to R428) -/

/-- A domain opened at once; its lost phases stay out (R408, R418). -/
def Domain.open_ (k : Domain) : Domain :=
  { k with st := .off, stage := 0, queued := none, counts := false, offReq := false, onReq := false }

/-- Every switched domain opens at once: array and stacks content is lost (R244, R408). -/
def State.openAll (s : State) : State :=
  { s with pwr := { s.pwr with dom := s.pwr.dom.map Domain.open_, wait := [] }
           mem := ((s.mem.lose 0 (2 ^ 56)).lose (2 ^ 56) (2 * 2 ^ 56)).lose (2 * 2 ^ 56) (3 * 2 ^ 56) }

/-- Everything on its way over the mesh and the control network is lost with the rails. -/
def State.quiet (s : State) : State := { s with mesh := [], mcast := [], held := [], ctl := [] }

/-- A condition of R426 holds. -/
def State.mustShut (s : State) (cause : BitVec 2) (source : Byte) : Bool :=
  match cause.toNat with
  | 1 => (List.finRange 256).any fun c => c.val == source.toNat && decide (440 ≤ (s.core c).hot)
  | 2 => (List.finRange 64).any fun f => f.val == source.toNat && decide (420 ≤ (s.field f).stkTemp)
  | 3 => !s.pins.inputOk
  | _ => false

/-- SRC_KIND of a shutdown's source. -/
def shutKind (cause : BitVec 2) : Nat := if cause = 1 then kCore else if cause = 2 then kField else kModule

/-- The module shuts down: the cause is recorded, every domain and then the router and host-port rails open, sublinks go DOWN,
THERMTRIP_N falls, start-up is held off for 60 s or 1 s (R427, R428). -/
def State.shutNow (s : State) (cause : BitVec 2) (source : Byte) : State :=
  let s1 := (s.logEvent 5 8 3 (shutKind cause) source.toNat).service svShutdown
  let s2 := s1.endRun.openAll.quiet
  { s2 with
    links := s2.links.map fun g => { g with sub := g.sub.map Sublink.dropDown }
    nvm := { s2.nvm with shutCause := cause, shutSrc := if cause = 3 then 0 else source }
    pwr := { s2.pwr with railsOff := true, shutEnd := some (s2.now + if cause = 3 then 1000000000 else 60000000000) }
    pins := { s2.pins with thermtripN := false }
    glb := { s2.glb with started := false, phase := .warden } }

/-- SHUTDOWN: a limit of R426 is reached and the module shuts down (R427). -/
def execShutdown (cause : BitVec 2) (source : Byte) (s : State) : Host.Outcome State Fault Refusal :=
  .next (if s.pwr.railsOff || !s.mustShut cause source then s else s.shutNow cause source)

/-- INPUT_VOLTAGE_FAULT: the 48 V input has stayed outside 38 V to 62 V for 50 µs (R426, R505). -/
def execInputVoltageFault (s : State) : Host.Outcome State Fault Refusal :=
  .next (
    let s1 := { s with pins := { s.pins with inputOk := false } }
    if s.pwr.railsOff then s1 else s1.shutNow 3 0)

/-- SHUTDOWN_INTERVAL_END: the interval of R428 is over, and a held start-up may begin. -/
def execShutdownIntervalEnd (s : State) : Host.Outcome State Fault Refusal :=
  .next (match s.pwr.shutEnd with
    | some t => if s.now < t then s else { s with pwr := { s.pwr with shutEnd := none } }
    | none => s)

end Sys2Proof.Machine
end

