-- ==== Sys2Proof/Machine/Link.lean ====
section
/-! DEFINITION. The Morkan link (R344 to R370, R442, R467 to R472): frames and replay, training and loss, lanes, bivouac, loops,
violations and quarantine. -/

namespace Sys2Proof.Machine

/-! ## Events and states of a sublink -/

/-- SRC_ID of a sublink (Table FLT-2). -/
def subId (g : GroupIx) (u : SubIx) : Nat := 2 * g.val + u.val

/-- A link event of a sublink. -/
def State.linkEvent (s : State) (g : GroupIx) (u : SubIx) (cls loc : Nat) (data : List Byte := []) : State :=
  s.logEvent cls 6 loc kSublink (subId g u) data

/-- The VLNK domain of a group is at a powered stage (R360). -/
def State.linkPowered (s : State) (g : GroupIx) : Bool :=
  let k := s.dom (vlnk g)
  k.isOn || k.st == .fenced

/-- The counters of a sublink rewritten. -/
def State.modSubCnt (s : State) (g : GroupIx) (u : SubIx) (f : SubCount → SubCount) : State :=
  s.modSub g u fun k => { k with cnt := f k.cnt }

/-- Superframes of the transmit direction since training (R346, R349); in full bivouac its lanes are silent and the count stands (log
entry 11). -/
def Sublink.superframe (k : Sublink) (now : Nat) : Nat :=
  if k.st == .fullBiv then k.sfBase else k.sfBase + (now - k.sfAt) * 10 / (16 * k.flitTime)

/-- The superframes counted so far are kept before the direction changes its width. -/
def Sublink.settleSf (k : Sublink) (now : Nat) : Sublink := { k with sfBase := k.superframe now, sfAt := now }

/-! ## Sequence, acknowledgement and replay (R348, R353 to R356) -/

/-- The number of the oldest flit not acknowledged. -/
def Sublink.oldest (k : Sublink) : BitVec 12 := k.txSeq - BitVec.ofNat 12 k.unacked

/-- An acknowledgement of every frame before `e` (R355). -/
def Sublink.ackTo (k : Sublink) (now : Nat) (e : BitVec 12) : Sublink :=
  let n := (e - k.oldest).toNat
  if n = 0 ∨ k.unacked < n then k
  else { k with unacked := k.unacked - n, ackAt := now, stale := 0
                kept := k.kept.filter fun x => decide (n < (x.1 - k.oldest).toNat + x.2.1) }

/-- Credits a trailer returns: the difference modulo 1,024 from the last valid one, per VC (R351). -/
def Sublink.credit_ (k : Sublink) (w : Vector (BitVec 10) 6) : Sublink :=
  { k with cred := Vector.ofFn fun v => k.cred[v] + (w[v] - k.credSeen[v]).toNat, credSeen := w }

/-- ns of flit time that resending the unacknowledged flits costs. -/
def Sublink.replayCost (k : Sublink) : Nat := k.unacked * k.flitTime / 100

/-- A replay from `e` begins: go-back-N; the packets whose frames are resent leave again (R353, R355, Tables LNK-14 and FAB-5). -/
def State.replay (s : State) (g : GroupIx) (u : SubIx) (e : BitVec 12) : State :=
  let s1 := s.modSub g u fun k =>
    { k with replayFrom := some e, replayAt := s.now, ackAt := s.now, stale := k.stale + 1
             cnt := { k.cnt with replay := bump k.cnt.replay, retryNs := bump k.cnt.retryNs k.replayCost } }
  let s2 := if isFabric g then
      s1.countMap fun k => { k with replay := upd k.replay (planeIx g u) fun x => x + ceilDiv (s.sub g u).unacked 32 } else s1
  s2.emit (.replay g u e ((s.sub g u).kept.map fun x => x.2.2))

/-- A RPLY that names `e`: everything before it is acknowledged and the rest resent, unless a replay from `e` began within the
last 250 ns (R355). -/
def State.rply (s : State) (g : GroupIx) (u : SubIx) (e : BitVec 12) : State :=
  let s1 := s.modSub g u fun k => k.ackTo s.now e
  let k := s1.sub g u
  if k.unacked = 0 || k.oldest != e || (k.replayFrom == some e && decide (s.now ≤ k.replayAt + 250)) then s1
  else s1.replay g u e

/-- What any valid trailer does (R351, R355). -/
def State.trailer (s : State) (g : GroupIx) (u : SubIx) (fr : Frame) : State :=
  let s1 := s.modSub g u fun k => k.credit_ fr.cred
  let s2 := if fr.ackv then s1.modSub g u fun k => k.ackTo s.now fr.ack else s1
  let s3 := if fr.ackv && fr.rply then s2.rply g u fr.ack else s2
  s3.pumpAll g u

/-- Codewords of a frame that the FEC corrected, and those it could not (Table LNK-14). -/
def State.countFec (s : State) (g : GroupIx) (u : SubIx) (corr bad : Nat) : State :=
  s.modSubCnt g u fun k => { k with fecCorr := bump k.fecCorr corr, fecBad := bump k.fecBad bad }

/-- Flits of a VC in a frame. -/
def flitsOf (fr : Frame) (v : Nat) : Nat := (fr.vcmap.filter fun x => x.toNat == v).length

/-- The violation score of a group rises; at LIMIT the group enters quarantine (R369). -/
def State.violation (s : State) (g : GroupIx) (u : SubIx) (code : Nat) : State :=
  let s1 := (s.modGroup g fun k =>
    { k with score := k.score + 1, viol := bump k.viol, lastCode := BitVec.ofNat 7 code }).linkEvent g u 0 code
  let k := s1.group g
  if !k.quar && decide (max 1 (bits k.violCfg.toNat 16 16) ≤ k.score) then
    (s1.modGroup g fun k => { k with quar := true }).linkEvent g u 4 0x43
  else s1

/-- The flits of an accepted frame enter the receive buffers; those beyond the credits granted are discarded (R351, check 1 of
Table LNK-9). -/
def Sublink.takeFlits (k : Sublink) (g : GroupIx) (fr : Frame) : Sublink :=
  { k with rxHeld := Vector.ofFn fun v => min (rxFlits g.val v.val) (k.rxHeld[v] + flitsOf fr v.val) }

/-- Some VC of the frame brings flits beyond its credits, or a flit has the reserved VC code. -/
def Sublink.overrun (k : Sublink) (g : GroupIx) (fr : Frame) : Bool :=
  fr.vcmap.contains 6 || (List.finRange 6).any fun v => decide (rxFlits g.val v.val < k.rxHeld[v] + flitsOf fr v.val)

/-- DATA_FRAME: a valid data frame in sequence is accepted, a duplicate discarded and acknowledged again, any other answered with
RPLY; its trailer acts in each case (R348, R351, R355, R442). In far loop only its codewords count (R471). -/
def execDataFrame (g : GroupIx) (u : SubIx) (fr : Frame) (s : State) : Host.Outcome State Fault Refusal :=
  .next (
    let k := s.sub g u
    if !k.up || k.badRack then s
    else if (s.group g).loopMode u = 2 then s.countFec g u fr.corr 0
    else
      let s1 := (s.countFec g u fr.corr 0).trailer g u fr
      if fr.fseq = k.expect then
        let n := (fr.vcmap.filter fun x => decide (x.toNat < 6)).length
        let s2 := s1.modSub g u fun k =>
          { (k.takeFlits g fr) with expect := k.expect + 32, rplyOut := false, badRun := 0
                                    cnt := { k.cnt with flitsRx := bump k.cnt.flitsRx n } }
        if k.overrun g fr then s2.violation g u 0x16 else s2
      else if 2048 ≤ (fr.fseq - k.expect).toNat then s1.modSub g u fun k => { k with badRun := 0 }
      else s1.modSub g u fun k => { k with rplyOut := true, badRun := 0 })

/-- NULL_FRAME: only its trailer acts (R348). -/
def execNullFrame (g : GroupIx) (u : SubIx) (fr : Frame) (s : State) : Host.Outcome State Fault Refusal :=
  .next (if (s.group g).loopMode u = 2 then s.countFec g u fr.corr 0
    else if (s.sub g u).up || (s.sub g u).st == .training then
      ((s.countFec g u fr.corr 0).trailer g u fr).modSub g u fun k => { k with badRun := 0 }
    else s)

/-- REPLY_REQUEST: the transmitter resends from the number named (R355). -/
def execReplyRequest (g : GroupIx) (u : SubIx) (e : BitVec 12) (s : State) : Host.Outcome State Fault Refusal :=
  .next (if (s.sub g u).up && (s.group g).loopMode u != 2 then (s.rply g u e).pumpAll g u else s)

/-! ## Training, sparing and loss (R356 to R361) -/

/-- A sublink begins to train: nothing in transit on it survives but the replay buffer (R357). -/
def Sublink.train (k : Sublink) (cold : Bool) : Sublink :=
  { k with st := .training, cold := cold, replayFrom := none, stale := 0, badRun := 0, swap := none, biv := none, waking := false
           rxNarrow := false, rxBiv := false, gotCaps := false, cnt := { k.cnt with retrain := bump k.cnt.retrain } }

/-- A warm retrain of a sublink that is powered and not disabled. -/
def State.retrainWarm (s : State) (g : GroupIx) (u : SubIx) : State :=
  if (s.sub g u).st == .disabled || !s.linkPowered g || !s.attached g u then s else s.modSub g u fun k => k.train false

/-- FRAME_FAIL: a frame with a wrong CRC or `bad` uncorrectable codewords is discarded whole, and RPLY goes out until the expected one
arrives; after more than 7 in a row the sublink retrains warm (R348, R355, R356). -/
def execFrameFail (g : GroupIx) (u : SubIx × Nat × Nat) (s : State) : Host.Outcome State Fault Refusal :=
  .next (if (s.group g).loopMode u.1 = 2 then s.countFec g u.1 u.2.1 u.2.2
    else if (s.sub g u.1).up then
      let s1 := (s.countFec g u.1 u.2.1 u.2.2).modSub g u.1 fun k =>
        { k with rplyOut := true, badRun := k.badRun + 1, cnt := { k.cnt with bad := bump k.cnt.bad } }
      if 7 ≤ (s.sub g u.1).badRun then s1.retrainWarm g u.1 else s1
    else s)

/-- REPLAY_TIMEOUT: the oldest frame is 1 µs old and no ACK has advanced; when 32 replays have passed without progress the sublink
retrains warm (R356). -/
def execReplayTimeout (g : GroupIx) (u : SubIx) (s : State) : Host.Outcome State Fault Refusal :=
  .next (
    let k := s.sub g u
    if k.up && decide (0 < k.unacked) && decide (k.ackAt + 1000 ≤ s.now) then
      (if 32 ≤ k.stale then s.retrainWarm g u else s.replay g u k.oldest)
    else s)

/-- WARM_RETRAIN: steps 3 to 5 of Sequence LNK-1 begin again (R356, Table LNK-10). -/
def execWarmRetrain (g : GroupIx) (u : SubIx) (s : State) : Host.Outcome State Fault Refusal :=
  .next (if (s.sub g u).up then s.retrainWarm g u else s)

/-- Healthy lanes, lowest first. -/
def healthyLanes (bad : BitVec 34) : List (Fin 34) := (List.finRange 34).filter fun l => !bad.getLsbD l.val

/-- A mask of lanes. -/
def laneMask (ls : List (Fin 34)) : BitVec 34 := BitVec.ofNat 34 ((ls.map fun l => 2 ^ l.val).sum)

/-- The lanes of a direction that training leaves active, and whether at half width: 32 where it can, else 16; once half, it stays so
(step 4 of Sequence LNK-1, R359). -/
def trainedLanes (bad : BitVec 34) (half : Bool) : BitVec 34 × Bool :=
  let ok := healthyLanes bad
  if 32 ≤ ok.length && !half then (laneMask (ok.take 32), false) else (laneMask (ok.take 16), true)

/-- The spares among a direction's active lanes. -/
def sparesIn (act : BitVec 34) : Nat := countBits 2 (act.toNat / 2 ^ 32)

/-- Spares in use on either direction, never fewer than before (Table LNK-13). -/
def Sublink.noteSpares (k : Sublink) : Sublink := { k with spares := max k.spares (max (sparesIn k.laneAct) (sparesIn k.txAct)) }

/-- The lanes that training leaves active in both directions. -/
def Sublink.pickLanes (k : Sublink) : Sublink :=
  let r := trainedLanes k.laneBad k.half
  let t := trainedLanes k.txBad k.txHalf
  Sublink.noteSpares { k with laneAct := r.1, half := r.2, txAct := t.1, txHalf := t.2 }

/-- The sublink becomes ACTIVE; what it still holds is replayed (R357, R442). -/
def State.becomeActive (s : State) (g : GroupIx) (u : SubIx) : State :=
  let s1 := s.modSub g u fun k =>
    { k.pickLanes with st := .active, rplyOut := false, warmFail := 0, coldFail := 0, dead := false, upAt := s.now, sfBase := 0, sfAt := s.now, activeAt := s.now, ackAt := s.now, steadyAt := s.now }
  let k := s1.sub g u
  if k.badRack then s1
  else if k.unacked = 0 then s1.pumpAll g u
  else (s1.replay g u k.oldest).pumpAll g u

/-- CAPS have come, or the sublink is in packet loop, which has no frames to carry any (R357, R469). -/
def State.capsDone (s : State) (g : GroupIx) (u : SubIx) : Bool := (s.sub g u).gotCaps || (s.group g).loopMode u == 3

/-- RETRAIN_DONE: CAPS have been exchanged in a warm retrain, and the end resumes from the number they gave (R357). -/
def execRetrainDone (g : GroupIx) (u : SubIx) (s : State) : Host.Outcome State Fault Refusal :=
  .next (
    let k := s.sub g u
    if k.st == .training && s.capsDone g u && !k.cold then s.becomeActive g u else s)

/-- TRAINING_DONE: cold training ends in ACTIVE; on a RACK_ID mismatch only null frames are sent (Sequence LNK-1, R442). -/
def execTrainingDone (g : GroupIx) (u : SubIx) (s : State) : Host.Outcome State Fault Refusal :=
  .next (
    let k := s.sub g u
    if k.st == .training && s.capsDone g u && k.cold then s.becomeActive g u else s)

/-- What the peer's CAPS set in a sublink: identity, credits, and where transmission resumes (R351, R357). -/
def Sublink.takeCaps (k : Sublink) (b : Caps) (rack : BitVec 16) : Sublink :=
  let n := (b.nextSeq - k.oldest).toNat
  let lost := b.epoch != k.peerEpoch || decide (k.unacked < n)
  { k with
    gotCaps := true, peerEpoch := b.epoch, badRack := b.rackId != rack
    peer := BitVec.ofNat 9 (b.group.toNat + 256 * (b.kind.toNat % 2))
    cred := b.credits.map BitVec.toNat, credSeen := Vector.replicate 6 0, credOut := Vector.replicate 6 0
    credSent := Vector.replicate 6 0
    rxHeld := Vector.replicate 6 0
    unacked := if lost then 0 else k.unacked - n
    kept := if lost then [] else k.kept.filter fun x => decide (n < (x.1 - k.oldest).toNat + x.2.1)
    txSeq := if lost then b.nextSeq else k.txSeq }

/-- CAPS of the peer during training, exchanged both ways; a RACK_ID other than the active one is logged (R357, R442). -/
def execCaps (g : GroupIx) (u : SubIx) (b : Caps) (s : State) : Host.Outcome State Fault Refusal :=
  .next (
    if (s.sub g u).st != .training then s
    else
      let s1 := (s.sendMgmt g u (s.capsBody g u)).modSub g u fun k => k.takeCaps b s.cfg.active.rackId
      if b.rackId != s.cfg.active.rackId then s1.linkEvent g u 4 0x44 else s1)

/-- A sublink that has lost its signal: DOWN while its domain switches, else retraining (R360). -/
def State.loseLink (s : State) (g : GroupIx) (u : SubIx) : State :=
  s.modSub g u fun k => if s.linkPowered g && s.attached g u then k.train false else k.dropDown

/-- LINK_LOSS: no valid frame for 1 µs outside bivouac (R360, R365). -/
def execLinkLoss (g : GroupIx) (u : SubIx) (s : State) : Host.Outcome State Fault Refusal :=
  .next (
    let k := s.sub g u
    if (k.st == .active || k.st == .txNarrow) && !k.rxBiv && !k.rxNarrow then s.loseLink g u else s)

/-- RETRAIN_FAILED: three failed warm retrains lead to cold ones, three failed cold ones leave the sublink DOWN (R360, R480). -/
def execRetrainFailed (g : GroupIx) (u : SubIx) (s : State) : Host.Outcome State Fault Refusal :=
  .next (
    let k := s.sub g u
    if k.st != .training then s
    else if k.cold then
      if 3 ≤ k.coldFail + 1 then
        ((s.modSub g u fun k => { k.dropDown with coldFail := 3, dead := true }).linkEvent g u 4 0x42).service svLinkDead
      else s.modSub g u fun k => { (k.train true) with coldFail := k.coldFail + 1 }
    else if 3 ≤ k.warmFail + 1 then s.modSub g u fun k => { (k.train true) with warmFail := 0, coldFail := 0 }
    else s.modSub g u fun k => { (k.train false) with warmFail := k.warmFail + 1 })

/-- Four bytes of a commit superframe. -/
def commitBytes (c : W32) : List Byte := leBytes 4 c.toNat

/-- A spare lane: healthy and not active. -/
def Sublink.freeLane (k : Sublink) : Option (Fin 34) := (healthyLanes k.laneBad).find? fun l => !k.laneAct.getLsbD l.val

/-- A receiver without a spare: half width on 16 healthy lanes, or DOWN (R359). -/
def State.narrowOrDown (s : State) (g : GroupIx) (u : SubIx) : State :=
  let ok := healthyLanes (s.sub g u).laneBad
  if ok.length < 16 then (s.modSub g u Sublink.dropDown).linkEvent g u 4 0x42
  else
    let s1 := s.modSub g u fun k => { k with half := true, laneAct := laneMask (ok.take 16) }
    if (s.sub g u).half then s1 else s1.linkEvent g u 4 0x41

/-- A LANE_SWAP goes out for a failed lane (R358). -/
def State.askSwap (s : State) (g : GroupIx) (u : SubIx) (lane spare : Fin 34) : State :=
  let commit := BitVec.ofNat 32 ((s.sub g u).superframe s.now + 64)
  (s.modSub g u fun k => { k with swap := some { failed := lane, spare := spare, commit := commit, acked := false, ours := true } }).sendMgmt
    g u ([2, BitVec.ofNat 8 lane.val, BitVec.ofNat 8 spare.val, 0] ++ commitBytes commit)

/-- LANE_FAIL: a receive lane is marked failed; a spare is asked for, or the direction narrows, or the sublink goes DOWN (R358,
R359). -/
def execLaneFail (g : GroupIx) (u : SubIx) (lane : Fin 34) (s : State) : Host.Outcome State Fault Refusal :=
  .next (
    let k := s.sub g u
    if k.laneBad.getLsbD lane.val then s
    else
      let s1 := (s.modSub g u fun k => { k with laneBad := k.laneBad ||| laneMask [lane] }).linkEvent g u 0 0x40
        [BitVec.ofNat 8 lane.val]
      if !k.up || !k.laneAct.getLsbD lane.val then s1
      else if k.half then s1.narrowOrDown g u
      else
        match (s1.sub g u).freeLane with
        | some l => s1.askSwap g u lane l
        | none => s1.narrowOrDown g u)

/-- LANE_SWAP: the transmitter agrees to steer a spare in (R358). -/
def execLaneSwap (g : GroupIx) (u : SubIx) (failed spare : Fin 34) (commit : W32) (s : State) : Host.Outcome State Fault Refusal :=
  .next (if (s.sub g u).up then
      (s.modSub g u fun k => { k with swap := some { failed := failed, spare := spare, commit := commit, acked := true, ours := false } }).sendMgmt
        g u ([3, BitVec.ofNat 8 failed.val, BitVec.ofNat 8 spare.val, 0] ++ commitBytes commit)
    else s)

/-- LANE_SWAP_ACK: the swap this end asked for is agreed (R358). -/
def execLaneSwapAck (g : GroupIx) (u : SubIx) (failed spare : Fin 34) (commit : W32) (s : State) :
    Host.Outcome State Fault Refusal :=
  .next (s.modSub g u fun k =>
    { k with swap := k.swap.map fun x =>
        if x.ours && x.failed == failed && x.spare == spare && x.commit == commit then { x with acked := true } else x })

/-- A spare takes a failed lane's place among a direction's active lanes. -/
def steer (act : BitVec 34) (failed spare : Fin 34) : BitVec 34 := (act &&& ~~~laneMask [failed]) ||| laneMask [spare]

/-- LANE_SWAP_COMMIT: at the commit superframe the spare takes the failed lane's place, over one superframe: in the receive direction of
the end that asked, in the transmit direction of the other (R358). -/
def execLaneSwapCommit (g : GroupIx) (u : SubIx) (s : State) : Host.Outcome State Fault Refusal :=
  .next (match (s.sub g u).swap with
    | some x =>
      if x.acked then
        s.modSub g u fun k =>
          { k with
            swap := none
            spares := max k.spares (sparesIn (steer (if x.ours then k.laneAct else k.txAct) x.failed x.spare))
            laneAct := if x.ours then steer k.laneAct x.failed x.spare else k.laneAct
            txAct := if x.ours then k.txAct else steer k.txAct x.failed x.spare
            txBad := if x.ours then k.txBad else k.txBad ||| laneMask [x.failed]
            cnt := { k.cnt with lane := bump k.cnt.lane, retryNs := bump k.cnt.retryNs (16 * k.flitTime / 10) } }
      else s
    | none => s)

/-! ## Bivouac (R362 to R365) -/

/-- LNK_BIV_CFG of a group in the active set (Table LNK-11). -/
def State.bivCfg (s : State) (g : GroupIx) : Nat := (s.cfg.active.biv[g]).toNat

/-- Flits queued for a sublink. -/
def Sublink.queued (k : Sublink) : Nat := (k.tx.map fun p => pktFlits p.pkt).sum

/-- A rope window of the group starts within `ns` from now, in the run that is active (R363, R365). -/
def State.ropeSoon (s : State) (g : GroupIx) (ns : Nat) : Bool :=
  s.ropeRegime && s.image.ropes.any fun e =>
    let off := s.gcnt - s.pitchBegan
    let now : Bool := decide (e.first ≤ s.pnumNow) && decide (s.pnumNow ≤ e.last) && decide (off ≤ e.wstart)
      && decide (e.wstart ≤ off + ns)
    let next : Bool := decide (s.pnumNow = s.pit.pnum) && decide (e.first ≤ s.pit.pnum + 1) && decide (s.pit.pnum + 1 ≤ e.last)
      && decide (s.pit.bound + e.wstart ≤ s.gcnt + ns)
    e.port == g.val && (now || next)

/-- R365: a wake condition of the module holds. -/
def State.mustWake (s : State) (g : GroupIx) (u : SubIx) (full : Bool) : Bool :=
  let k := s.sub g u
  let w := s.bivCfg g
  (if full then decide (0 < k.queued) || decide (0 < k.unacked) else decide (bits w 0 12 < k.queued)) || s.ropeSoon g (1000 * bits w 12 8)

/-- Sublink 0 of groups 6 and 8 never enters full mode; a loop admits no bivouac (R362, N19). -/
def State.bivAllowed (s : State) (g : GroupIx) (u : SubIx) (full : Bool) : Bool :=
  let w := s.bivCfg g
  bit w 31 && (!full || bit w 30) && (s.group g).loopMode u == 0 && !(full && u.val == 0 && (g.val == 6 || g.val == 8))

/-- MODE of a bivouac message. -/
def modeByte (full : Bool) : Byte := if full then 1 else 0

/-- BIVOUAC_TRIGGER: idle for IDLE_US with no rope window near, the module asks for bivouac 32 superframes ahead (R362, R363). -/
def execBivouacTrigger (g : GroupIx) (u : SubIx) (full : Bool) (s : State) : Host.Outcome State Fault Refusal :=
  .next (
    let k := s.sub g u
    let w := s.bivCfg g
    if s.bivAllowed g u full && (k.st == .active || (full && k.st == .txNarrow)) && k.biv.isNone && !s.mustWake g u full
        && decide (k.activeAt + 1000 * bits w 20 10 ≤ s.now) && !s.ropeSoon g (1000 * (bits w 12 8 + 2)) then
      let commit := BitVec.ofNat 32 (k.superframe s.now + 32)
      (s.modSub g u fun k => { k with biv := some { full := full, ours := true, commit := commit, acked := false } }).sendMgmt
        g u ([4, modeByte full, 0, 0] ++ commitBytes commit)
    else s)

/-- BIV_REQ: answered BIV_ACK, or BIV_NAK when not allowed (reason 0) or a wake condition holds (reason 1) (R363). -/
def execBivReq (g : GroupIx) (u : SubIx) (full : Bool) (commit : W32) (s : State) : Host.Outcome State Fault Refusal :=
  .next (
    let k := s.sub g u
    if !k.up then s
    else if !s.bivAllowed g u full then s.sendMgmt g u [6, 0]
    else if s.mustWake g u full then s.sendMgmt g u [6, 1]
    else
      let own := BitVec.ofNat 32 (k.superframe s.now + 32)
      (s.modSub g u fun k => { k with biv := some { full := full, ours := false, commit := commit, acked := true } }).sendMgmt
        g u ([5, modeByte full, 0, 0] ++ (if full then commitBytes own else zeros 4)))

/-- BIV_ACK: the entry this end asked for goes on (R364). -/
def execBivAck (g : GroupIx) (u : SubIx) (full : Bool) (_commit : W32) (s : State) : Host.Outcome State Fault Refusal :=
  .next (s.modSub g u fun k =>
    { k with biv := k.biv.map fun x => if x.ours && x.full == full then { x with acked := true } else x })

/-- BIV_NAK: the bivouac this end asked for is refused (R363). -/
def execBivNak (g : GroupIx) (u : SubIx) (_reason : Byte) (s : State) : Host.Outcome State Fault Refusal :=
  .next (s.modSub g u fun k =>
    { k with biv := match k.biv with
        | some x => if x.ours then none else some x
        | none => none })

/-- An entry that aborts (R364). -/
def State.bivAbort (s : State) (g : GroupIx) (u : SubIx) : State :=
  s.modSub g u fun k => { k with biv := none, cnt := { k.cnt with bivAb := bump k.cnt.bivAb } }

/-- A direction of the sublink is in bivouac. -/
def Sublink.asleep (k : Sublink) : Bool := k.st == .txNarrow || k.st == .fullBiv

/-- BIV_CANCEL: before the commit point the entry aborts; after it the direction wakes once it has dwelt (R364). -/
def execBivCancel (g : GroupIx) (u : SubIx) (_commit : W32) (s : State) : Host.Outcome State Fault Refusal :=
  .next (
    let k := s.sub g u
    if k.biv.isSome && !k.asleep then s.bivAbort g u
    else if k.asleep then s.modSub g u fun k => { k with biv := none, waking := true }
    else s)

/-- A direction enters bivouac. -/
def Sublink.sleep (k : Sublink) (now : Nat) (x : BivEntry) (rx : Bool) : Sublink :=
  let first : Bool := !k.asleep && !k.rxBiv
  let k1 : Sublink := if x.full then (if rx then { k with rxBiv := true } else { k.settleSf now with st := .fullBiv })
    else if x.ours then { k.settleSf now with st := .txNarrow } else { k with rxNarrow := true }
  { k1 with
    biv := if x.full && !(k1.rxBiv && k1.st == .fullBiv) then k.biv else none
    bivAt := if first then now else k.bivAt
    cnt := if first then { k.cnt with bivIn := bump k.cnt.bivIn } else k.cnt }

/-- The module's own commit superframe has begun. -/
def Sublink.commitDue (k : Sublink) (now : Nat) (commit : W32) : Bool := decide ((BitVec.ofNat 32 (k.superframe now) - commit).toNat < 2 ^ 31)

/-- BIVOUAC_COMMIT_POINT: at a direction's commit point its lanes enter bivouac, or the entry aborts: no BIV_ACK has come, or a
wake condition holds before the initiator's commit point (R364). The module counts the superframes of its own direction only; that the
other direction's commit point has come is the event itself. -/
def execBivouacCommitPoint (g : GroupIx) (u : SubIx) (rx : Bool) (s : State) : Host.Outcome State Fault Refusal :=
  .next (
    let k := s.sub g u
    match k.biv with
    | none => s
    | some x =>
      if (!x.full && rx == x.ours) || (!rx && !k.commitDue s.now x.commit) then s
      else if (!x.acked || s.mustWake g u x.full) && !k.asleep && !k.rxBiv then
        (s.bivAbort g u).sendMgmt g u ([7, 0, 0, 0] ++ commitBytes x.commit)
      else s.modSub g u fun k => k.sleep s.now x rx)

/-- A sublink is woken: it leaves bivouac once 2 µs of dwell have passed from its commit point; an entry under way is cancelled (R364,
R365). -/
def State.wake (s : State) (g : GroupIx) (u : SubIx) : State :=
  let k := s.sub g u
  if k.asleep then s.modSub g u fun k => { k with waking := true }
  else
    match k.biv with
    | some x => (s.bivAbort g u).sendMgmt g u ([7, 0, 0, 0] ++ commitBytes x.commit)
    | none => s

/-- BIVOUAC_WAKE: a wake condition or the peer's signal (R364, R365). -/
def execBivouacWake (g : GroupIx) (u : SubIx) (s : State) : Host.Outcome State Fault Refusal := .next (s.wake g u)

/-- WAKE_COMPLETE: a direction that has dwelt 2 µs in bivouac and wakes is back at full width (R364, R365). -/
def execWakeComplete (g : GroupIx) (u : SubIx) (rx : Bool) (s : State) : Host.Outcome State Fault Refusal :=
  .next (
    let k := s.sub g u
    if rx then s.modSub g u fun k => { k with rxBiv := false, rxNarrow := false }
    else if k.asleep && k.waking && decide (k.bivAt + 2000 ≤ s.now) then
      (s.modSub g u fun k => { k.settleSf s.now with st := .active, waking := false, activeAt := s.now }).pumpAll g u
    else s)

/-- ECHO: returned unchanged to the peer (Table LNK-6). -/
def execEcho (g : GroupIx) (u : SubIx) (body : List Byte) (s : State) : Host.Outcome State Fault Refusal :=
  .next (if (s.sub g u).up then s.sendMgmt g u (8 :: (body.drop 1).take 31) else s)

/-! ## Register writes (R370, R467, R472) -/

/-- The CSR offset of a group's register. -/
def lnkOff (g : GroupIx) (o : Nat) : BitVec 26 := BitVec.ofNat 26 (0x500000 + 0x10000 * g.val + o)

/-- A DIS bit of a sublink changes: lanes idle, or training begins (Table LNK-10). -/
def State.setDis (s : State) (g : GroupIx) (u : SubIx) (on : Bool) : State :=
  if on == (s.group g).dis.getLsbD u.val then s
  else if on then s.modSub g u Sublink.unpower
  else s.modSub g u fun k =>
    if s.linkPowered g && s.attached g u then { (k.train true) with coldFail := 0, dead := false } else k.dropDown

/-- LNK_CTL.DIS takes a value. -/
def State.writeDis (s : State) (g : GroupIx) (d : BitVec 2) : State :=
  (((s.setDis g 0 (d.getLsbD 0)).setDis g 1 (d.getLsbD 1))).modGroup g fun k => { k with dis := d }

/-- DIS: LNK_CTL.DIS written; a host port's write is refused (R370). -/
def execDis (p : Path) (g : GroupIx) (d : BitVec 2) (s : State) : Host.Outcome State Fault Refusal :=
  .next (s.guarded p (lnkOff g 0) (classS p) fun s => s.writeDis g d)

/-- QUAR_CLR: quarantine ends, the score is zero, waiting traffic leaves (R370). -/
def State.quarClear (s : State) (g : GroupIx) : State :=
  ((s.modGroup g fun k =>
    { k with quar := false, score := 0, sub := k.sub.map fun u => { u with steadyAt := s.now } }).pumpAll g 0).pumpAll g 1

/-- QUAR_CLR: LNK_CTL.QUAR_CLR written; a host port's write is refused (R370). -/
def execQuarClr (p : Path) (g : GroupIx) (s : State) : Host.Outcome State Fault Refusal :=
  .next (s.guarded p (lnkOff g 0) (classS p) fun s => s.quarClear g)

/-- LNK_LOOP without its reserved bits (Table CMB-4). -/
def loopBits (v : W32) : W32 := v &&& 0x00008033

/-- The loop register takes a value; each sublink whose mode changes retrains warm into it, out of bivouac (R467, N19). -/
def State.setLoop (s : State) (g : GroupIx) (v : W32) : State :=
  let old := s.group g
  let new := { old with loop := loopBits v }
  let s1 := s.modGroup g fun k => { k with loop := loopBits v }
  [0, 1].foldl (fun (s : State) (u : SubIx) => if old.loopMode u == new.loopMode u then s else s.retrainWarm g u) s1

/-- LNK_LOOP_WRITE: from a session or the warden, and with no run active; else refused (R467). -/
def execLnkLoopWrite (p : Path) (g : GroupIx) (v : W32) (s : State) : Host.Outcome State Fault Refusal :=
  .next (s.guarded p (lnkOff g 0x20) (classS p && !s.running) fun s => s.setLoop g v)

/-- A committed launch's pitch has begun and its run has not (R320). -/
def State.inLaunchPitch (s : State) : Bool :=
  match s.pit.launch with
  | some l => l.commit == some true && decide (s.loadCount l ≤ s.gcnt)
  | none => false

/-- LOOP_CLEAR_AT_LAUNCH: in a launch pitch, groups with KEEP = 0 return to loop off (R472). -/
def execLoopClearAtLaunch (s : State) : Host.Outcome State Fault Refusal :=
  .next (if !s.inLaunchPitch then s
    else (List.finRange 14).foldl (fun (s : State) g => if bit (s.group g).loop.toNat 15 then s else s.setLoop g 0) s)

/-- VIOLATION_DECAY: the score falls by one, never below zero (R369). -/
def execViolationDecay (g : GroupIx) (s : State) : Host.Outcome State Fault Refusal :=
  .next (s.modGroup g fun k => { k with score := k.score - 1 })

end Sys2Proof.Machine
end

