-- ==== Sys2Proof/Machine/Receive.lean ====
section
/-! DEFINITION. Packets received on the Morkan link: the checks of Table LNK-9 and their answers (R366 to R368), requests, responses
and acknowledgements between modules (R385 to R392, R397), belay grants, NACKs and chunk headers. -/

namespace Sys2Proof.Machine

/-! ## The receive checks (Table LNK-9) -/

/-- Largest LEN and UHDR of a packet type (Table LNK-4). -/
def typeShape (typ : Byte) : Option (Nat × Bool) :=
  match typ.toNat with
  | 0x00 => some (0, false)
  | 0x01 => some (4096, false)
  | 0x02 => some (4096, false)
  | 0x03 => some (4096, false)
  | 0x04 => some (0, false)
  | 0x05 => some (0, false)
  | 0x10 => some (0, true)
  | 0x11 => some (82944, true)
  | 0x12 => some (0, true)
  | 0x13 => some (32, false)
  | 0x14 => some (4096, true)
  | 0x20 => some (16, false)
  | 0x21 => some (16, false)
  | 0x22 => some (32, false)
  | _ => none

/-- Types that carry the fabric key (R386). -/
def fabricKeyed (typ : Byte) : Bool := typ == 0x13 || typ == 0x20 || typ == 0x21 || typ == 0x22

/-- A valid entry of a group's key table receives a key, for a region when one is named (R385). -/
def State.keyAdmits (s : State) (g : GroupIx) (key : BitVec 16) (r : Option Byte) : Bool :=
  (s.keys g).any fun w => keyValid w && bit w 29 && bits w 0 16 == key.toNat &&
    (match r with
     | none => true
     | some x => bits w 16 8 == x.toNat)

/-- Check 3 fails. -/
def malformed (p : LinkPacket) : Bool :=
  p.resv || p.vc != p.flitVc ||
    (match typeShape p.typ with
     | some x => decide (x.1 < p.body.length) || (x.2 != !p.uhdr.isEmpty)
     | none => false)

/-- Checks 1 to 6 in order: the first code that fails, 0 when all pass. -/
def State.rxCheck (s : State) (g : GroupIx) (u : SubIx) (p : LinkPacket) : Nat :=
  let me := s.glb.modIx.val
  if p.flitVc = 6 then 0x16
  else if (s.group g).quar && p.typ != 0x22 then 0x17
  else if malformed p then 0x10
  else if (typeShape p.typ).isNone then 0x11
  else if !fabricKeyed p.typ && !s.keyAdmits g p.pkey none then 0x12
  else if p.dst.toNat != me && (p.dst != 0xFF || (s.group g).loopMode u == 1) then 0x18
  else 0

/-- The code counts as a protocol violation (Table LNK-9). -/
def codeViolates (code : Nat) : Bool := decide (0x10 ≤ code) && code != 0x17

/-- SRC is a valid encoding (Table LNK-3). -/
def validSrc (b : Byte) : Bool := decide (b.toNat < 16) || (decide (0x40 ≤ b.toNat) && decide (b.toNat ≤ 0x43)) || b == 0x80

/-- A NACK for a packet, at most one per code per sublink per µs (R366, R367, Table LNK-5). -/
def State.sendNack (s : State) (g : GroupIx) (u : SubIx) (p : LinkPacket) (code credits : Nat) : State :=
  let c := BitVec.ofNat 8 code
  if (s.sub g u).lastNack.any fun x => x.1 == c && decide (s.now < x.2 + 1000) then
    s.modGroup g fun k => { k with nackSupp := bump k.nackSupp }
  else
    let s1 := (s.modGroup g fun k => { k with nackTx := bump k.nackTx }).modSub g u fun k =>
      { k with lastNack := (c, s.now) :: k.lastNack.filter fun x => x.1 != c }
    s1.sendLink g u
      { s.linkBase 0x21 0 (if validSrc p.src then p.src else 0xFF) 0xFFFF p.ctx with
        tag := p.tag
        body := [c, p.typ] ++ leBytes 2 p.ctx.toNat ++ leBytes 2 credits ++ zeros 2 ++ leBytes 8 p.addr.toNat }

/-- A response or acknowledgement to a packet's sender, on VC2 of the same plane (R366, R373). -/
def State.respond (s : State) (g : GroupIx) (u : SubIx) (p : LinkPacket) (typ : Byte) (status : BitVec 8) (addr : W64)
    (body : List Byte) : State :=
  s.sendLink g u
    { s.linkBase typ 2 p.src p.pkey p.ctx with status := status, tag := p.tag, addr := addr, body := body }

/-- The answer to a packet that fails a check: none to a NACK, grant or management packet, an error response to a read request,
else a NACK (R366). -/
def State.rxAnswer (s : State) (g : GroupIx) (u : SubIx) (p : LinkPacket) (code credits : Nat) : State :=
  if code = 0x16 || p.typ == 0x20 || p.typ == 0x21 || p.typ == 0x22 then s
  else if p.typ = 0 then s.respond g u p 5 (BitVec.ofNat 8 code) 0 []
  else s.sendNack g u p code credits

/-- Body bytes of a write or reduce-add to slices or stacks counted as applied; whole 64 KiB are owed to the sender (R389). -/
def State.countApplied (s : State) (ctx : BitVec 16) (a n : Nat) : State :=
  match s.ctx? ctx with
  | none => s
  | some k =>
    if addrRange a = 0 then s
    else
      let owed := (k.applied + n) / 65536 - k.applied / 65536
      let s1 := s.modCtx ctx fun x => { x with applied := x.applied + n }
      if owed = 0 then s1 else s1.owe ctx owed

/-- A packet of a context has been received: the lessor's timer restarts, and bytes `within` the credits granted count against them (R389,
R393). -/
def State.countReceived (s : State) (p : LinkPacket) (n : Nat) (within : Bool := true) : State :=
  let s1 := s.modCtx p.ctx fun k =>
    { k with recvd := if addrRange p.addr.toNat = 0 || !within then k.recvd else k.recvd + n, lendAt := s.now }
  if h : p.src.toNat < 16 then
    s1.countMap fun k => { k with recv := upd k.recv ⟨p.src.toNat, h⟩ fun x => x + n }
  else s1

/-- The body of a write or reduce-add for this module that a check refuses counts as applied on its context, and within its window as
received (R389). -/
def State.countTurned (s : State) (p : LinkPacket) : State :=
  let n := p.body.length
  match s.ctx? p.ctx with
  | some k =>
    if (p.typ == 1 || p.typ == 3) && p.dst.toNat == s.glb.modIx.val && k.decl.receives then
      (s.countReceived p n (decide (k.recvd + n ≤ 65536 * k.granted))).countApplied p.ctx p.addr.toNat n
    else s
  | none => s

/-- A packet refused with a code: violations and quarantine drops counted, then its answer; a loop's check 6 is no violation
(R366, R470). -/
def State.rxRefuse (s : State) (g : GroupIx) (u : SubIx) (p : LinkPacket) (code : Nat) : State :=
  let looped : Bool := code == 0x18 && ((s.group g).loopMode u == 1 || (s.group g).loopMode u == 3)
  let s1 : State :=
    if code = 0x17 then s.modGroup g fun k => { k with quarDrop := bump k.quarDrop }
    else if codeViolates code && !looped then s.violation g u code
    else s
  (s1.countTurned p).rxAnswer g u p code 0

/-- A processed packet's flits leave the receive buffer, and their hop credits return (R351). -/
def Sublink.freeRx (k : Sublink) (p : LinkPacket) : Sublink :=
  let v := p.flitVc.toNat
  if h : v < 6 then
    let n := min (pktFlits p) k.rxHeld[v]
    { k with rxHeld := k.rxHeld.set v (k.rxHeld[v] - n), credOut := k.credOut.set v (k.credOut[v] + BitVec.ofNat 10 n) }
  else k

/-- The sublink delivers packets to the module: it is up, or in packet loop; never in far loop or on a RACK_ID mismatch (R442,
R469, R471). -/
def State.hears (s : State) (g : GroupIx) (u : SubIx) : Bool :=
  let m := (s.group g).loopMode u
  m != 2 && !(s.sub g u).badRack && ((s.sub g u).up || m == 3)

/-- A packet row: checks 1 to 6, then the effect when the packet is of the row's type. -/
def State.received (s : State) (g : GroupIx) (u : SubIx) (p : LinkPacket) (typ : Byte) (eff : State → State) : State :=
  if !s.hears g u then s
  else
    let s1 := s.modSub g u fun k => k.freeRx p
    match s.rxCheck g u p with
    | 0 => if p.typ == typ then eff s1 else s1
    | c => s1.rxRefuse g u p c

/-! ## What a context admits (R229, R385, R389, R392) -/

/-- The region grant of a request's context: declared on this port for the sender, and its key names the owning region (R229,
R385). -/
def State.ctxAdmits (s : State) (g : GroupIx) (p : LinkPacket) (k : Ctx) : Bool :=
  k.group == g && k.decl.receives && s.sourceOf k == p.src.toNat && s.keyAdmits g p.pkey (some k.decl.region)

/-- The belay window of a write or reduce-add of `n` bytes: landing room, or bytes within the credits granted and not expired
(R233, R392, R395). -/
def State.windowOk (s : State) (p : LinkPacket) (k : Ctx) (n : Nat) : Bool :=
  !k.lendExp && (if addrRange p.addr.toNat = 0 then s.landOk p.addr.toNat n p.src.toNat p.ctx
    else decide (k.recvd + n ≤ 65536 * k.granted))

/-- The field at whose edge port a sublink's packets enter the wafer (R23, R344). -/
def edgeField (g : GroupIx) (u : SubIx) : FieldIx := ⟨attachField g u % 64, Nat.mod_lt _ (by decide)⟩

/-- The verdict on a request of `n` target bytes that came in on a sublink (checks 8 to 10): `window` is what its window says. The
request crosses the wafer from its edge port on the mesh VC of R34, and is answered absent where a router cannot send it on (R52). -/
def State.linkVerdict (s : State) (g : GroupIx) (u : SubIx) (p : LinkPacket) (n : Nat) (window : Bool) : Verdict :=
  let a := p.addr.toNat
  if addrRange a = 4 then .refused
  else if addrModule a ≠ s.glb.modIx.val || (meshVc p.vc).isNone || !s.edgeReaches (edgeField g u) a then .absent
  else
    match s.ctx? p.ctx with
    | none => (match s.placeVerdict a n with
      | .absent => .absent
      | _ => .refused)
    | some k => s.regionVerdict a n k.decl.region (s.ctxAdmits g p k && window)

/-- CREDITS of a NACK 0x04: the slot that the first refused packet of a landing segment spent (Table FAB-4). -/
def parkCredits (p : LinkPacket) (k : Ctx) : Nat := if addrRange p.addr.toNat = 0 ∧ !k.parkSeg then 1 else 0

/-- A write or reduce-add that takes no effect, with its answer; a landing carrel notes the gap (R229, R232, R233, R368, R389, R392). -/
def State.linkTurnAway (s0 : State) (g : GroupIx) (u : SubIx) (p : LinkPacket) (window : Bool) (v : Verdict) : State :=
  let a := p.addr.toNat
  let n := p.body.length
  let s := if addrModule a = s0.glb.modIx.val then s0.landMiss a n p.src.toNat p.ctx p.last else s0
  match v with
  | .parked =>
    let credits := match s.ctx? p.ctx with
      | some k => parkCredits p k
      | none => 0
    ((((s.countReceived p n).countApplied p.ctx a n).countParked).modCtx p.ctx fun k =>
      { k with refusedParked := true, parkSeg := !p.last }).rxAnswer g u p 4 credits
  | .refused =>
    let s1 := s.countApplied p.ctx a n
    let s2 := s1.countReceived p n window
    let s3 : State := if window then s2 else { s2 with fab := { s2.fab with belayRef := bump s2.fab.belayRef } }
    (s3.rxAnswer g u p 3 0).refusedEvent a p.ctx p.src.toNat
  | _ => ((s.countReceived p n).countApplied p.ctx a n).rxAnswer g u p 2 0

/-- Bytes of a chunk's body land on its context (R290, R293). -/
def State.chainLand (s : State) (ctx : BitVec 16) (bs : List Byte) (poison : Bool) : State :=
  { s with grd := { s.grd with chunks := s.grd.chunks.map fun x =>
      if x.ctx == ctx && x.partly then
        { x with got := x.got + bs.length, crc := bs.foldl crcByte x.crc, poison := x.poison || poison }
      else x } }

/-- The chunk whose body a context carries now (R293, R295). -/
def State.chunkNow (s : State) (ctx : BitVec 16) : Option Chunk := s.grd.chunks.find? fun x => x.ctx == ctx && x.partly

/-- Where a write to this module is for: a chunk's body goes on where the chunk lands, data of a collective to DST as this member resolves
it, any other to its own address (R12, R290, R300). -/
def State.writePlace (s : State) (p : LinkPacket) : Nat :=
  if addrModule p.addr.toNat ≠ s.glb.modIx.val then p.addr.toNat
  else match s.chunkNow p.ctx with
  | some x => (match x.addr with
    | some a => s.glb.modIx.val * 2 ^ 60 + a + x.got
    | none => p.addr.toNat)
  | none =>
    if addrRange p.addr.toNat = 8 then
      match s.collFor p.addr.toNat p.src.toNat with
      | some (r, e, i) => s.collTarget r e i (bits p.addr.toNat 0 41)
      | none => p.addr.toNat
    else p.addr.toNat

/-- The effect of a write that every check has passed: a reduce-scatter's block is kept for its sum (R298), all else is written; the
collective it belongs to is told. -/
def State.writeEffect (s : State) (p : LinkPacket) (a : Nat) : State :=
  let poison : Bool := p.status == 1
  let coll := if addrRange p.addr.toNat = 8 then s.collFor p.addr.toNat p.src.toNat else none
  let keep : Bool := match coll with
    | some (r, _, _) => (collD r.desc).kind == 3
    | none => false
  let s1 : State := if keep then s else s.landWrite none a p.src.toNat p.ctx p.body poison p.last
  match coll with
  | some (r, e, i) => s1.collLanded r e i (bits p.addr.toNat 0 41) p.body poison
  | none => s1.chainLand p.ctx p.body poison

/-- A write takes effect, or is turned away (checks 8 to 10; R223, R233, R389). -/
def State.linkWriteNow (s : State) (g : GroupIx) (u : SubIx) (p : LinkPacket) : State :=
  let a := s.writePlace p
  let q := { p with addr := BitVec.ofNat 64 a }
  let n := p.body.length
  let window : Bool := match s.ctx? p.ctx with
    | some k => s.windowOk q k n
    | none => true
  match s.linkVerdict g u q n window with
  | .ok => (((s.writeEffect p a).countReceived q n).countApplied p.ctx a n).respond g u p 4 0 0 []
  | v => s.linkTurnAway g u q window v

/-- A reduce-add takes effect, or is turned away (R122). -/
def State.linkReduceNow (s : State) (g : GroupIx) (u : SubIx) (p : LinkPacket) : State :=
  let a := p.addr.toNat
  let n := p.body.length
  let window : Bool := match s.ctx? p.ctx with
    | some k => s.windowOk p k n
    | none => true
  match s.linkVerdict g u p (redSpan p.efmt.toNat p.anchored p.epw n) (window && redTarget a p.efmt.toNat p.anchored) with
  | .ok =>
    (((s.reduceAt none a p.efmt.toNat p.anchored p.epw p.body (p.status == 1)).countReceived p n).countApplied p.ctx a n).respond
      g u p 4 0 0 []
  | v => s.linkTurnAway g u p window v

/-- A write or reduce-add by its type. -/
def State.linkApply (s : State) (g : GroupIx) (u : SubIx) (p : LinkPacket) : State :=
  if p.typ = 3 then s.linkReduceNow g u p else s.linkWriteNow g u p

/-- A packet with ORD waits in the attachment field's order queue; with the queue full it stays in the receive buffer (R397). -/
def State.orderly (s : State) (g : GroupIx) (u : SubIx) (p : LinkPacket) : State :=
  if p.ord then s.modSub g u fun k => { k with ordQ := k.ordQ ++ [(p, s.now)] } else s.linkApply g u p

/-- The order queue has no room for this packet. -/
def State.ordFull (s : State) (g : GroupIx) (u : SubIx) (p : LinkPacket) : Bool :=
  p.ord && decide (64 ≤ (s.sub g u).ordQ.length)

/-! ## Requests from other modules -/

/-- Read data returned in parts of one poison state, each with its address (R129, R131, R391). -/
def State.linkReadParts (s : State) (g : GroupIx) (u : SubIx) (p : LinkPacket) : State :=
  let a := p.addr.toNat
  (pieces a p.rlen.toNat (s.mem.poisonIn (addrLocal a) p.rlen.toNat)).foldl (fun s x =>
    (s.respond g u p 2 (if x.2.2 then 1 else 0) (BitVec.ofNat 64 (a + x.1)) (s.view (addrLocal a + x.1) x.2.1)).fresh x.2.1) s

/-- LINK_READ_REQUEST: checked, served or answered with an error response (R229, R366); its read may find errors (R239, R240). -/
def execLinkReadRequest (g : GroupIx) (u : SubIx) (p : LinkPacket × List EccErr) (s : State) : Host.Outcome State Fault Refusal :=
  .next (s.received g u p.1 0 fun s1 =>
    match s1.linkVerdict g u p.1 p.1.rlen.toNat true with
    | .ok => ((s1.countReceived p.1 0).readErrors (addrLocal p.1.addr.toNat) p.1.rlen.toNat p.2).linkReadParts g u p.1
    | .refused => (s1.rxAnswer g u p.1 3 0).refusedEvent p.1.addr.toNat p.1.ctx p.1.src.toNat
    | .parked => s1.countParked.rxAnswer g u p.1 4 0
    | .absent => s1.rxAnswer g u p.1 2 0)

/-- LINK_WRITE: checked against keys, grants and belay window, then applied or refused; an ORD packet queues (R366, R397). -/
def execLinkWrite (g : GroupIx) (u : SubIx) (p : LinkPacket) (s : State) : Host.Outcome State Fault Refusal :=
  .next (if s.ordFull g u p then s else s.received g u p 1 fun s1 => s1.orderly g u p)

/-- LINK_REDUCE_ADD: checked and applied at a slice of this module (R122, R366, R397). -/
def execLinkReduceAdd (g : GroupIx) (u : SubIx) (p : LinkPacket) (s : State) : Host.Outcome State Fault Refusal :=
  .next (if s.ordFull g u p then s else s.received g u p 3 fun s1 => s1.orderly g u p)

/-! ## Responses to this module -/

/-- A response that comes after its request has ended (R246). -/
def State.lateDiscard (s : State) : State := { s with memu := { s.memu with late := bump s.memu.late } }

/-- A response that matches nothing outstanding: late, or a violation (R246, check 7). -/
def State.strayResponse (s : State) (g : GroupIx) (u : SubIx) (p : LinkPacket) : State :=
  if s.memu.ended.contains p.tag.toNat then s.lateDiscard else s.rxRefuse g u p 0x14

/-- The gang of a request, if it still waits for it. -/
def State.modReqGang (s : State) (r : Req) (f : Gang → Gang) : State :=
  match (s.core r.core).gang? r.slot with
  | some x => if x.task == r.task && x.cmd == r.cmd then s.modGang r.core r.slot f else s
  | none => s

/-- A request rewritten. -/
def State.modReq (s : State) (id : Nat) (f : Req → Req) : State :=
  { s with memu := { s.memu with reqs := s.memu.reqs.map fun r => if r.id == id then f r else r } }

/-- The stream context under which a gang's segment reads. -/
def State.gangCtx (s : State) (c : CoreIx) (x : Gang) : BitVec 16 :=
  match (s.task c x.task).cmd? x.cmd with
  | some m =>
    (match m.descFor x.index with
      | some d => if wOpc m.word = 0x40 then (streamD d.2.bytes).ctx else if wOpc m.word = 0x60 then (collD d.2.bytes).ctx else 0
      | none => 0)
  | none => 0

/-- Reads that waited on a limit go on (R391). -/
def State.resumeEvery (s : State) : State :=
  (List.finRange 256).foldl (fun s c =>
    ((s.core c).gangs.filter fun x => !x.reads.isEmpty).foldl (fun s x => s.resumeReads c x.slot (s.gangCtx c x)) s) s

/-- An outstanding request of a kind with a TAG. -/
def State.reqOf (s : State) (tag : W32) (ok : ReqKind → Bool) : Option Req :=
  (s.req? tag.toNat).filter fun r => ok r.kind

/-- A read's data comes: it sinks into the room reserved, and the request ends with its last byte (R129, R391). -/
def State.readData (s : State) (r : Req) (off : Nat) (bs : List Byte) (poison : Bool) : State :=
  let s1 := (s.modReqGang r fun x => x.arrive (r.off + off) bs poison).modReq r.id fun y => { y with got := y.got + bs.length }
  if r.len ≤ r.got + bs.length then (s1.endReq r.id).resumeEvery else s1

/-- LINK_READ_RESPONSE: the data sinks into the room reserved at request (R391). -/
def execLinkReadResponse (g : GroupIx) (u : SubIx) (p : LinkPacket) (s : State) : Host.Outcome State Fault Refusal :=
  .next (s.received g u p 2 fun s1 =>
    match s1.reqOf p.tag (· == .remoteRead) with
    | some r =>
      let off := p.addr.toNat - r.addr.toNat
      if r.addr.toNat ≤ p.addr.toNat ∧ off + p.body.length ≤ r.len ∧ r.got + p.body.length ≤ r.len then
        s1.readData r off p.body (p.status == 1)
      else s1.rxRefuse g u p 0x14
    | none => s1.strayResponse g u p)

/-- One write of a chunk's forwarded copy acknowledged (R291). -/
def State.chunkAck (s : State) (r : Req) : State :=
  { s with grd := { s.grd with chunks := s.grd.chunks.map fun x =>
      if x.ctx == r.ctx && x.nth == r.nth && x.index == r.off then { x with acks := x.acks - 1 } else x } }

/-- A write's acknowledgement counts for its command or its chunk, and the request ends (R71, R291). -/
def State.ackReq (s : State) (r : Req) : State :=
  let s1 := s.endReq r.id
  if r.kind == .collAck then s1.chunkAck r else s1.ackOne r.core r.task r.cmd

/-- Kinds that wait for a write acknowledgement. -/
def ReqKind.write (k : ReqKind) : Bool := k == .ack || k == .collAck || k == .archAck

/-- LINK_WRITE_ACK: it counts towards its segment's completion (R71). -/
def execLinkWriteAck (g : GroupIx) (u : SubIx) (p : LinkPacket) (s : State) : Host.Outcome State Fault Refusal :=
  .next (s.received g u p 4 fun s1 =>
    match s1.reqOf p.tag ReqKind.write with
    | some r => s1.ackReq r
    | none => s1.strayResponse g u p)

/-- A read that ends without its data: the bytes that have not come, the last of the read since its parts come in order, become
poisoned (R129, R246). -/
def State.failRead (s : State) (r : Req) : State :=
  (s.modReqGang r fun x => x.lose (r.off + r.got) (r.len - r.got)).endReq r.id

/-- LINK_ERROR_RESPONSE: the request ends and the data it awaited becomes poisoned (R129, R246, R366). -/
def execLinkErrorResponse (g : GroupIx) (u : SubIx) (p : LinkPacket) (s : State) : Host.Outcome State Fault Refusal :=
  .next (s.received g u p 5 fun s1 =>
    match s1.reqOf p.tag (· == .remoteRead) with
    | some r => (s1.failRead r).resumeEvery
    | none => s1.strayResponse g u p)

/-! ## Grants and NACKs (R368, R389, R394) -/

/-- The parked writes of a context are sent again (R368). -/
def State.resendParked (s : State) (ctx : BitVec 16) : State :=
  (s.memu.reqs.filter fun r => r.parked && r.ctx == ctx).foldl (fun s r =>
    let s1 := s.modReq r.id fun x => { x with parked := false, deadline := s.now + s.timeoutOf x.kind }
    match r.pkt, s.ctx? ctx with
    | some p, some k => s1.sendLink k.group (ctxSub ctx) p
    | _, _ => s1) s

/-- What a belay grant does to its context: credits to a holder whose lease has not expired, a renewal of the lessor's timer, or a
resumption (R389, R393 to R395). -/
def Ctx.takeGrant (k : Ctx) (n lease : Nat) (resume : Bool) (now : Nat) : Ctx :=
  { k with held := if k.holdExp then k.held else k.held + n
           lease := if n = 0 ∧ !resume then k.lease else max 2 lease
           lendAt := if n = 0 ∧ !resume then now else k.lendAt
           parked := k.parked && !resume }

/-- BELAY_GRANT: credits, a renewal, or with RESUME the parked segments again (R368, R389, R394). -/
def execBelayGrant (g : GroupIx) (u : SubIx) (p : LinkPacket) (s : State) : Host.Outcome State Fault Refusal :=
  .next (s.received g u p 0x20 fun s1 =>
    let ctx := BitVec.ofNat 16 (fieldAt p.body 0 2)
    let resume := bit (fieldAt p.body 6 1) 0
    let s2 := (s1.modCtx ctx fun k => k.takeGrant (fieldAt p.body 2 2) (fieldAt p.body 4 2) resume s1.now).pumpRuns
    if resume then s2.resendParked ctx else s2)

/-- A NACK 0x04: the credits it returns are held again and its packet waits for a RESUME (R368). -/
def State.park (s : State) (r : Req) (credits : Nat) : State :=
  (s.modReq r.id fun x => { x with parked := true }).modCtx r.ctx fun k => { k with parked := true, held := k.held + credits }

/-- NACK: it ends its packet as acknowledged with error; 0x04 keeps it pending (R247, R366, R368). -/
def execNack (g : GroupIx) (u : SubIx) (p : LinkPacket) (s : State) : Host.Outcome State Fault Refusal :=
  .next (s.received g u p 0x21 fun s0 =>
    let s1 := s0.modGroup g fun k => { k with nackRx := bump k.nackRx }
    let s2 : State := if isFabric g then
        s1.countMap fun k => { k with nacks := upd k.nacks (planeIx g u) fun x => x + 1 }
      else s1
    match s2.reqOf p.tag ReqKind.write with
    | some r => if fieldAt p.body 0 1 = 4 then s2.park r (fieldAt p.body 4 2) else s2.ackReq r
    | none => s2.strayResponse g u p)

/-! ## Chunk headers (R293) -/

/-- The descriptor that a chunk header announces a chunk of (R284, R295). -/
def State.headerRun (s : State) (p : LinkPacket) : Option (CollRun × GroupEntry) :=
  (s.collGroup (BitVec.ofNat 12 (fieldAt p.uhdr 0 2))).bind fun e => (s.chainRun e (fieldAt p.uhdr 4 4)).map fun r => (r, e)

/-- The chunk header of a packet belongs to a chain group of the run, from the effective predecessor, on VC3 and on the chain context of
its index: CTX + (*k* mod 4), with CTX a multiple of 4 and contexts 0 and 1 of the four on port group 4, 2 and 3 on 5 (check 7 of Table
LNK-9, R287, R307). -/
def State.chunkExpected (s : State) (g : GroupIx) (p : LinkPacket) : Bool :=
  let h := p.uhdr
  let k := fieldAt h 4 4
  s.running && p.vc == 3 && p.ctx.toNat % 4 == k % 4 &&
    (match s.collGroup (BitVec.ofNat 12 (fieldAt h 0 2)), s.ctx? p.ctx with
    | some e, some q =>
      e.role == 1 && q.group == g && q.decl.port == 4 + k % 4 / 2 && q.decl.receives && fieldAt h 2 1 == 4
        && p.src.toNat == s.grd.pred && !s.grd.first && decide (0 < fieldAt h 8 4) && decide (fieldAt h 8 4 ≤ 2 ^ 23)
        && (match s.headerRun p with
            | some (r, _) => p.ctx == (collD r.desc).ctx + BitVec.ofNat 16 (k % 4) && decide (fieldAt h 8 4 ≤ (collD r.desc).unit)
            | none => true)
    | _, _ => false)

/-- A chunk whose CRC fails: every granule landed is poisoned, it is counted and logged, and it flows on as poisoned (R293). -/
def State.chunkBad (s : State) (x : Chunk) : State :=
  let s1 := match x.addr with
    | some a => s.spoilAt none (granules a x.got)
    | none => s
  let s2 := { s1 with grd := { s1.grd with chunkCrc := bump s1.grd.chunkCrc, chunks := s1.grd.chunks.map fun y =>
                if y == x then { y with failed := true, poison := true, len := y.got } else y } }
  s2.modEvent 1 4 1 (leBytes 2 x.group.toNat ++ leBytes 4 x.index)

/-- Chunks of a context cut short by the next header fail their CRC (R293). -/
def State.cutShort (s : State) (ctx : BitVec 16) : State :=
  (s.grd.chunks.filter fun x => x.ctx == ctx && x.partly).foldl (fun s x => s.chunkBad x) s

/-- A chunk announced: which collective it belongs to, and where it lands (R290, R293, R295). -/
def State.announce (s : State) (p : LinkPacket) : State :=
  let h := p.uhdr
  let k := fieldAt h 4 4
  let run := s.headerRun p
  let s1 : State := match run with
    | some (r, _) => s.modRun r.core r.slot fun y => { y with seen := k :: y.seen }
    | none => s
  { s1 with grd := { s1.grd with chunks := s1.grd.chunks ++
      [{ ctx := p.ctx, group := BitVec.ofNat 12 (fieldAt h 0 2), nth := (run.map fun x => x.1.nth).getD 0, index := k, header := h, got := 0
         len := fieldAt h 8 4, crc := (h.take 56).foldl crcByte (2 ^ 64 - 1), poison := bit (fieldAt h 13 1) 0
         addr := run.map fun x => s.chunkPlace x.1 x.2 k, added := false, sent := false, acks := 0 }] } }

/-- CHAIN_CHUNK_HEADER: the chunk whose body follows on the same context is announced (R293). -/
def execChainChunkHeader (g : GroupIx) (u : SubIx) (p : LinkPacket) (s : State) : Host.Outcome State Fault Refusal :=
  .next (s.received g u p 0x12 fun s1 =>
    if !s1.chunkExpected g p then s1.rxRefuse g u p 0x14 else ((s1.cutShort p.ctx).sizeRuns).announce p)

end Sys2Proof.Machine
end

