-- ==== Sys2Proof/Machine/Collect.lean ====
section
/-! DEFINITION. The collectives at work (R286 to R302): start, the chain's adds, forwarding and release, reduce-scatter, expert
dispatch and combine. -/

namespace Sys2Proof.Machine

/-! ## Elements -/

/-- Elements with their poison as bytes and poisoned ranges. -/
def elemBytesOf (w : Nat) (es : List (List Byte × Bool)) : List Byte × List (Nat × Nat) :=
  (es.flatMap fun e => e.1, (es.zipIdx.filter fun e => e.1.2).map fun e => (e.2 * w, w))

/-- Bytes cut into elements of `w` bytes. -/
def elemsOf (w : Nat) (bs : List Byte) (bad : List (Nat × Nat)) : List (List Byte × Bool) :=
  (List.range (bs.length / max 1 w)).map fun i => (slice bs (i * w) w, foulRange bad (i * w) w)

/-- Round once to the wire format (R288); an exact partial stands as it is. -/
def wireElem (wfmt : Nat) (b : List Byte) : List Byte :=
  match floatFmt wfmt with
  | some f => leBytes (f.width / 8) (f.encode .rne false (f.decode (leNat b)))
  | none => b

/-! ## Checked adds (R132, R288, R298) -/

/-- The residue of `± m * 2^k` by the path that avoids the aligner: res(m × 2^k) = res(m) × 2^(k mod 8) (R132). -/
def scaledResidue (neg : Bool) (m k : Nat) : Nat := residue ((residue (signInt neg m) * 2 ^ (k % 8) : Nat) : Int)

/-- The congruence res(A) + res(B) ≡ res(S) fails. -/
def sumMisses (ra rb : Nat) (sum : Int) : Bool := residue ((ra + rb : Nat) : Int) != residue sum

/-- The congruence res(S) ≡ res(Q) + res(D) fails. -/
def roundMisses (sum q d : Int) : Bool := residue sum != residue ((residue q + residue d : Nat) : Int)

/-- An FP32 add whose sum comes out wrong by `es` and whose rounded result by `er`, in units of the operands' common least significant
bit, and whether a residue check catches it (R132). An infinite or NaN result has no *Q*. -/
def checkedSum (a b : Val) (es er : Int) : Val × Bool :=
  match a, b with
  | .fin x m e, .fin y n g =>
    let lo := min e g
    let sum := signInt x m * 2 ^ (e - lo).toNat + signInt y n * 2 ^ (g - lo).toNat + es
    let miss := sumMisses (scaledResidue x m (e - lo).toNat) (scaledResidue y n (g - lo).toNat) sum
    let r := r32 (if es = 0 then a.add b else Val.ofInt sum lo)
    match r with
    | .fin z k h =>
      let q := signInt z (if lo ≤ h then k * 2 ^ (h - lo).toNat else k / 2 ^ (lo - h).toNat)
      (if er = 0 then r else r32 (Val.ofInt (q + er) lo), miss || roundMisses sum (q + er) (sum - q))
    | v => (v, miss)
  | _, _ => (r32 (a.add b), false)

/-- An add of a collective and whether its residue checks catch a fault of the adder. -/
structure CollAdd where
  elem : RedElem
  miss : Bool
  deriving DecidableEq, Repr

/-- One add: widened to FP32 and added with RNE, then rounded once to the wire format; exact partials under R120, whose integers are
checked themselves (R132, R288). -/
def collAdd (wfmt : Nat) (es er : Int) (a b : List Byte) : CollAdd :=
  match floatFmt wfmt with
  | some f =>
    let v := checkedSum (f.decode (leNat a)) (f.decode (leNat b)) es er
    { elem := { bytes := leBytes (f.width / 8) (f.encode .rne false v.1), foul := false, mism := false, inexact := false, ovf := false }
      miss := v.2 }
  | none =>
    let wide := wfmt == 8
    let x := EP.ofBytes wide a
    let y := EP.ofBytes wide b
    let r := x.add wide y
    let z := if r.1.poison then r.1 else { r.1 with i := r.1.i + es }
    { elem := { bytes := z.lay wide, foul := z.poison, mism := r.2, inexact := false, ovf := r.1.ovf && !x.ovf && !y.ovf }
      miss := sumMisses (residue x.i) (residue y.i) (x.i + y.i + es) }

/-- The fault of an adder on element `i`, none as a rule. -/
def errOf (errs : List AddErr) (i : Nat) : Int × Int :=
  match errs.find? fun e => e.elem == i with
  | some e => (e.sum, e.round)
  | none => (0, 0)

/-- The sum of two runs of elements that begin at element `i`, with the adds made; an element that one side lacks is poisoned (log
entry 21). -/
def addRuns (wfmt : Nat) (errs : List AddErr) : Nat → List (List Byte × Bool) → List (List Byte × Bool) →
    List (List Byte × Bool) × List CollAdd
  | _, [], [] => ([], [])
  | i, a :: as, [] => let rest := addRuns wfmt errs (i + 1) as []; ((a.1, true) :: rest.1, rest.2)
  | i, [], b :: bs => let rest := addRuns wfmt errs (i + 1) [] bs; ((wireElem wfmt b.1, true) :: rest.1, rest.2)
  | i, a :: as, b :: bs =>
    let r := collAdd wfmt (errOf errs i).1 (errOf errs i).2 a.1 b.1
    let rest := addRuns wfmt errs (i + 1) as bs
    ((r.elem.bytes, a.2 || b.2 || r.elem.foul) :: rest.1, r :: rest.2)

/-- The failures among adds. -/
def missCount (rs : List CollAdd) : Nat := (rs.filter CollAdd.miss).length

/-- What a unit's adds give: the attempt that stands, with its adds, the failures counted and whether the unit is poisoned. -/
structure UnitSum where
  elems  : List (List Byte × Bool)
  adds   : List CollAdd
  fails  : Nat
  poison : Bool
  deriving DecidableEq, Repr

/-- A unit whose checks fail is computed again once; when they fail again it is poisoned (R133, R292). -/
def retried (errs : List AddErr) (f : List AddErr → List (List Byte × Bool) × List CollAdd) : UnitSum :=
  let one := f (errs.filter fun e => e.attempt == 0)
  if missCount one.2 = 0 then { elems := one.1, adds := one.2, fails := 0, poison := false }
  else
    let two := f (errs.filter fun e => e.attempt == 1)
    { elems := two.1, adds := two.2, fails := missCount one.2 + missCount two.2, poison := missCount two.2 != 0 }

/-- The adds of a unit counted: overflows, anchor mismatches, failed checks, and a poisoned unit (R116, R120, R133). -/
def State.noteAdds (s : State) (c : CoreIx) (u : UnitSum) : State :=
  let es := u.adds.map CollAdd.elem
  let s1 := (s.modCnt c fun k => { k with
    ovf := bump k.ovf (es.filter RedElem.ovf).length, resMiss := bump k.resMiss u.fails
    resPoison := if u.poison then bump k.resPoison else k.resPoison }).coreEvents c 0x23 (es.filter RedElem.mism).length
  if u.poison then s1.coreEvent c 1 1 0x22 else s1

/-! ## COLLECTIVE_START (R286) -/

/-- Every reduction core of a group has issued its `n`-th collective. -/
def State.allIssued (s : State) (e : GroupEntry) (n : Nat) : Bool :=
  (s.redCores e).all fun c => decide (n ≤ s.issueCount e.group c)

/-- Every earlier descriptor of the fused list has started (R161, R286). -/
def State.inListOrder (s : State) (r : CollRun) (x : Gang) : Bool :=
  (s.core r.core).gangs.all fun y =>
    !(y.task == x.task && y.cmd == x.cmd && decide (r.lead ≤ y.index) && decide (y.index < x.index)) || y.refused
      || (y.started && (match s.runOf r.core y.slot with
        | some z => z.started
        | none => true))

/-- DIG of what a collective writes (R159, R334): each element of WFMT at POSBASE plus its index from DST, by the core that sends it
(DESIGN CHOICE, log entry 21). -/
def State.digestOuts (s : State) (r : CollRun) (outs : List (Nat × CollOut)) : State :=
  let d := collD r.desc
  if !d.dig then s
  else outs.foldl (fun s o => s.digestRun r.core r.task d.cacc (d.posbase + o.1 / d.width) d.wfmt o.2.bytes o.2.bad) s

/-- Data with its places from DST, digested under DIG, is queued to be sent. -/
def State.sendOuts (s : State) (r : CollRun) (outs : List (Nat × CollOut)) (more : List CollOut) : State :=
  (s.digestOuts r outs).queueOut r.core r.slot ((outs.map fun o => o.2) ++ more)

/-- The data of a descriptor of kinds 1 to 3 that this member sends and keeps, with its place from DST (Tables GRD-4 and GRD-5). -/
def State.blockOuts (s : State) (r : CollRun) (e : GroupEntry) (x : Gang) : List (Nat × CollOut) :=
  let d := collD r.desc
  let me := s.myPos e
  let us := s.unitsOf d e (s.rankOf e r.core) r.base
  let put (p so rel n : Nat) : Nat × CollOut := (rel, s.outTo r e p rel (x.part so n).1 (x.part so n).2)
  match d.kind with
  | 1 => if me = d.root then (s.presentPos e).flatMap fun p => us.map fun u => put p u.1 u.1 u.2 else []
  | 2 =>
    let absent := (List.range e.nmem).filter fun p => !(s.presentPos e).contains p
    ((s.presentPos e).flatMap fun p => us.map fun u => put p u.1 (me * d.len + u.1) u.2) ++
      absent.flatMap fun p => us.map fun u => (p * d.len + u.1, s.outTo r e me (p * d.len + u.1) (zeros u.2) [(0, u.2)])
  | 3 => (s.others e).flatMap fun p => us.map fun u => put p (p * d.len + u.1) u.1 u.2
  | _ => []

/-- This member's own block of a reduce-scatter, beside those that land (R298). -/
def State.ownParts (s : State) (r : CollRun) (e : GroupEntry) (x : Gang) : List CollPart :=
  let d := collD r.desc
  let me := s.myPos e
  if d.kind ≠ 3 then []
  else (s.unitsOf d e (s.rankOf e r.core) r.base).flatMap fun u =>
    (pieces 0 u.2 (x.part (me * d.len + u.1) u.2).2).map fun c =>
      { pos := me, off := u.1 + c.1, bytes := slice x.data (me * d.len + u.1 + c.1) c.2.1, poison := c.2.2 }

/-- A descriptor's data starts (R286): the work of its own events is counted, and blocks leave. What a reduce-scatter sends is no element
written at DST. -/
def State.runStart (s : State) (r : CollRun) (e : GroupEntry) (x : Gang) : State :=
  let steps := match (collD r.desc).kind with
    | 3 => 1
    | 4 => (s.servedUnits e (s.rankOf e r.core) r.base r.units).length
    | 5 => 1
    | 6 => 1
    | _ => 0
  let lead : Bool := match s.issueOf r.group r.core with
    | some i => decide (i.started < r.nth)
    | none => true
  let s1 := s.modIssue r.group r.core fun i => { i with started := max i.started r.nth }
  let s2 : State := if lead && s.rankOf e r.core == 0 then
      { s1 with grd := { s1.grd with collStart := bump s1.grd.collStart } } else s1
  let s3 := s2.modRun r.core r.slot fun y => { y with started := true, steps := steps, parts := y.parts ++ s.ownParts r e x }
  let outs := s.blockOuts r e x
  if (collD r.desc).kind = 3 then s3.queueOut r.core r.slot (outs.map fun o => o.2) else s3.sendOuts r outs []

/-- The latest issue of a group's `n`-th collective among this module's reduction cores. -/
def State.lastIssue (s : State) (e : GroupEntry) (n : Nat) : Nat :=
  (s.redCores e).foldl (fun t c => match s.issueOf e.group c with
    | some i => max t (i.times.getD (n - 1) 0)
    | none => t) 0

/-- The fixed cost of R286 has passed since the latest issue; it is paid once per fused list. -/
def State.costPaid (s : State) (r : CollRun) (e : GroupEntry) : Bool :=
  match s.issueOf r.group r.core with
  | some i => decide (r.nth ≤ i.started) || decide (s.lastIssue e r.nth + 3000 ≤ s.now)
  | none => false

/-- 32-bit words of a gang's data. -/
def Gang.words (x : Gang) (n : Nat) : List Nat := (List.range n).map fun i => fieldAt x.data (4 * i) 4

/-- An expert exchange has read a table: the next is read, then its rows, unless the access that it leads to is refused (R65, R142, R173,
R299). -/
def State.readOn (s : State) (r : CollRun) (e : GroupEntry) (x : Gang) : State :=
  let d := collD r.desc
  let rank := s.rankOf e r.core
  let cs := if r.phase = 0 then x.words e.nmem else r.counts
  let ix := if r.phase = 0 then [] else x.words cs.sum
  match lowest (s.expertBad r.core r.task d e (some cs) (if r.phase = 0 then none else some ix)) with
  | some b =>
    ({ s with grd := { s.grd with colls := s.grd.colls.filter fun y => y != r } }).refuseSeg r.core r.slot r.task b
      [(s.locAddr r.core r.task d.dst, (s.collSizes d e cs.sum).2)]
  | none =>
    let reads := if r.phase = 0 then s.tableReads r.core r.task d e 1 cs else s.collReads r.core r.task d e rank cs ix
    (s.collStartReads r.core r.slot r.task r.cmd d.ctx reads).modRun r.core r.slot fun y =>
      { y with phase := r.phase + 1, counts := cs, index := ix
               wants := if r.phase = 1 ∧ d.kind = 6 then s.collWants d e rank r.base cs else y.wants }

/-- What a collective reads before it can start is known: the units of a chain, the tables of an expert exchange. -/
def CollRun.known (r : CollRun) : Bool := r.sized && (!(collD r.desc).expert || r.phase == 2)

/-- COLLECTIVE_START: once every present member has issued, a descriptor's data starts after the fixed cost, in list order; one whose
tables are still to be read reads on, and a started one sends on what waits for credits (R157, R286, R299). -/
def execCollectiveStart (c : CoreIx) (g : SlotIx) (s0 : State) : Host.Outcome State Fault Refusal :=
  .next (
    let s := s0.sizeRuns
    match s.runOf c g, (s.core c).gang? g with
    | some r, some x =>
      if r.started then s.pumpRun c g
      else
        match s.collGroup r.group with
        | none => s
        | some e =>
          if x.await != 1 then s
          else if (collD r.desc).expert && r.phase < 2 then s.readOn r e x
          else if r.known && s.allIssued e r.nth && s.costPaid r e && s.inListOrder r x then s.runStart r e x else s
    | _, _ => s)

/-! ## The gradient chain (R287 to R295) -/

/-- A core's own event of a started descriptor of a kind: the descriptor, its group and its gang. -/
def State.runAt (s : State) (c : CoreIx) (g : SlotIx) (kind : Nat) : Option (CollRun × GroupEntry × Gang) :=
  match s.runOf c g, (s.core c).gang? g with
  | some r, some x =>
    if r.started && (collD r.desc).kind == kind && r.steps != 0 then (s.collGroup r.group).map fun e => (r, e, x) else none
  | _, _ => none

/-- Chunk `k` of a descriptor is one that its core serves. -/
def State.servesChunk (s : State) (r : CollRun) (e : GroupEntry) (k : Nat) : Bool :=
  decide (r.base ≤ k) && decide (k < r.base + r.units) && s.serves e (s.rankOf e r.core) k

/-- Chunk `k` of a descriptor at this member. -/
def State.chunkOf (s : State) (r : CollRun) (k : Nat) : Option Chunk :=
  s.grd.chunks.find? fun x => x.group == r.group && x.nth == r.nth && x.index == k

/-- A chunk of a descriptor rewritten. -/
def State.modChunk (s : State) (r : CollRun) (k : Nat) (f : Chunk → Chunk) : State :=
  { s with grd := { s.grd with chunks := s.grd.chunks.map fun x =>
      if x.group == r.group && x.nth == r.nth && x.index == k then f x else x } }

/-- Where chunk `k` of a descriptor lies in its wire data: first byte and length. -/
def chunkSpan (r : CollRun) (total k : Nat) : Nat × Nat :=
  let u := (collD r.desc).unit
  ((k - r.base) * u, min u (total - (k - r.base) * u))

/-- The elements that a chunk's bytes touch: the number of the first, how many, and the bytes of the first that lie before the chunk
(R287). -/
def chunkElems (w : Nat) (sp : Nat × Nat) : Nat × Nat × Nat :=
  let i := sp.1 / max 1 w
  (i, (sp.1 + sp.2 + (max 1 w - 1)) / max 1 w - i, sp.1 - i * max 1 w)

/-- A member's contribution to the elements of chunk `k`. -/
def chunkPart (r : CollRun) (x : Gang) (k : Nat) : List (List Byte × Bool) :=
  let d := collD r.desc
  let all := x.contribution d
  let n := chunkElems d.width (chunkSpan r (all.length * d.width) k)
  (all.drop n.1).take n.2.1

/-- The ends of a chunk as it landed, poisoned or not: those kept of one already added, else those that stand where it landed (R291). -/
def State.chunkEnds (s : State) (r : CollRun) (k n : Nat) : Option ((List Byte × Bool) × (List Byte × Bool)) :=
  match s.grd.edges.find? fun x => x.group == r.group && x.nth == r.nth && x.index == k with
  | some x => some (x.head, x.tail)
  | none =>
    match s.chunkOf r k with
    | some y =>
      if y.partly then none
      else
        y.addr.map fun a =>
          ((s.view a (min n y.len), s.mem.anyPoison a (min n y.len)),
            (s.view (a + (y.len - n)) (min n y.len), s.mem.anyPoison (a + (y.len - n)) (min n y.len)))
    | none => none

/-- The landed values of the elements of chunk `k`, with the bytes its neighbours hold of the first and the last; none while a neighbour
has not landed (log entry 21). -/
def State.landedElems (s : State) (r : CollRun) (x : Gang) (y : Chunk) (a : Nat) : Option (List (List Byte × Bool)) :=
  let w := (collD r.desc).width
  let total := (x.contribution (collD r.desc)).length * w
  let sp := chunkSpan r total y.index
  let n := chunkElems w sp
  let after := (n.1 + n.2.1) * w - (sp.1 + sp.2)
  let before := if n.2.2 = 0 then some ([], false) else (s.chunkEnds r (y.index - 1) (w - 1)).map fun e =>
    (e.2.1.drop (e.2.1.length - n.2.2), e.2.2)
  let behind := if after = 0 then some ([], false) else (s.chunkEnds r (y.index + 1) (w - 1)).map fun e => (e.1.1.take after, e.1.2)
  match before, behind with
  | some b, some f =>
    let own := s.view a y.len
    some ((elemsOf w (b.1 ++ own ++ f.1)
      ((if b.2 then [(0, n.2.2)] else []) ++ (s.mem.poisonIn a y.len).map (fun p => (n.2.2 + p.1, p.2))
        ++ (if f.2 then [(n.2.2 + y.len, after)] else []))).map fun z => (z.1, z.2 || y.failed))
  | _, _ => none

/-- The CRC of a landed chunk judged (R293). -/
def State.judgeSums (s : State) (y : Chunk) : State :=
  if y.failed || y.crc ^^^ (2 ^ 64 - 1) = fieldAt y.header 56 8 then s else s.chunkBad y

/-- The ends of a chunk kept for its neighbours, where elements cross its ends. -/
def State.keepEnds (s : State) (r : CollRun) (k : Nat) : State :=
  let d := collD r.desc
  if d.unit % d.width = 0 then s
  else match s.chunkEnds r k (d.width - 1) with
    | some e => { s with grd := { s.grd with
        edges := { group := r.group, nth := r.nth, index := k, head := e.1, tail := e.2 } :: s.grd.edges } }
    | none => s

/-- A whole landed chunk added in place (R288, R291, R292, R295): the sums of its bytes written over the landed values, digested under
DIG with the chunk that holds an element's last byte. -/
def State.addChunk (s : State) (r : CollRun) (x : Gang) (y : Chunk) (a : Nat) (landed : List (List Byte × Bool)) (errs : List AddErr) :
    State :=
  let d := collD r.desc
  let w := d.width
  let sp := chunkSpan r ((x.contribution d).length * w) y.index
  let n := chunkElems w sp
  let sum := retried (errs.filter fun e => e.unit == y.index) fun es => addRuns d.wfmt es n.1 landed (chunkPart r x y.index)
  let out := elemBytesOf w sum.elems
  let bad := if sum.poison then [(0, sp.2)] else cutBad out.2 n.2.2 sp.2
  let last := (sp.1 + sp.2) / w - n.1
  let s1 := ((s.keepEnds r y.index).noteAdds r.core { sum with adds := sum.adds.take last }).coreStore r.core a (slice out.1 n.2.2 sp.2) bad
  let s2 := s1.modChunk r y.index fun z => { z with added := true, poison := z.poison || !bad.isEmpty, len := sp.2, got := sp.2 }
  let s3 := ({ s2 with grd := { s2.grd with chunksIn := bump s2.grd.chunksIn } }).fresh (sp.2 + 2 * w)
  if d.dig then
    s3.digestRun r.core r.task d.cacc (d.posbase + n.1) d.wfmt (out.1.take (last * w)) (if sum.poison then [(0, last * w)] else out.2)
  else s3

/-- CHAIN_CHUNK_LANDED: a whole landed chunk is added to this member's contribution, every add checked, once what its neighbours hold of
its elements has landed too (R291, R292). -/
def execChainChunkLanded (c : CoreIx) (g : SlotIx) (chunk : Nat) (errs : List AddErr) (s : State) : Host.Outcome State Fault Refusal :=
  .next (match s.runAt c g 4, (s.runOf c g).bind fun r => s.chunkOf r chunk with
    | some (r, e, x), some y =>
      if !s.servesChunk r e chunk || s.grd.first || y.partly || y.added then s
      else
        let s1 := s.judgeSums y
        (match s1.chunkOf r chunk, y.addr with
          | some z, some a =>
            (match s1.landedElems r x z a with
              | some landed => s1.addChunk r x z a landed errs
              | none => s)
          | _, _ => s)
    | _, _ => s)

/-- The context a chunk travels under (R287). -/
def chunkCtx (d : CollD) (k : Nat) : BitVec 16 := d.ctx + BitVec.ofNat 16 (k % 4)

/-- Positions whose contribution is in a sum this member sends: the present ones up to its own (R307, Table GRD-3). -/
def State.contribBits (s : State) (e : GroupEntry) : Nat :=
  (((s.presentPos e).filter fun p => decide (p ≤ s.myPos e)).map fun p => 2 ^ p).sum

/-- The header of a chunk sent (Table GRD-3). -/
def State.chunkHeader (s : State) (r : CollRun) (e : GroupEntry) (k : Nat) (body : List Byte) (foul : Bool) : List Byte :=
  let d := collD r.desc
  let h := leBytes 2 r.group.toNat ++ [4, BitVec.ofNat 8 (s.myPos e)] ++ leBytes 4 k ++ leBytes 4 body.length
    ++ [BitVec.ofNat 8 (fieldAt r.desc 23 1), BitVec.ofNat 8 (ofFlag foul + 2 * ofFlag s.grd.last + 4 * ofFlag d.mask)]
    ++ leBytes 2 (s.contribBits e) ++ leBytes 8 (d.posbase + (k - r.base) * d.unit / d.width) ++ leBytes 8 s.pit.launchAt
    ++ leBytes 2 s.cfg.active.rackId.toNat ++ [BitVec.ofNat 8 s.glb.modIx.val] ++ zeros 21
  h ++ leBytes 8 (crc64 (h ++ body))

/-- Belay credits of a chunk (R290). -/
def CollD.chunkCredits (d : CollD) : Nat := 2 ^ d.chunk / 65536

/-- A chunk leaves: its header, then its body in writes on the same context, each awaiting its acknowledgement (R287, R291, R293,
R294). The address of a final chunk's writes to the archive is not given: they carry this module's index and the byte offset in the chunk
(DESIGN CHOICE, log entry 21). -/
def State.sendChunk (s : State) (r : CollRun) (e : GroupEntry) (k : Nat) (body : List Byte) (bad : List (Nat × Nat)) (q : Ctx) : State :=
  let d := collD r.desc
  let ctx := chunkCtx d k
  let dst := BitVec.ofNat 8 (s.sinkOf q)
  let key := (s.sendKey q.group (s.region r.core)).getD 0
  let base := { s.linkBase 1 3 dst key ctx with rope := if s.ropeRegime then q.decl.rope else 0 }
  let s1 := (s.modCtx ctx fun z => { z with held := z.held - d.chunkCredits }).sendLink q.group (ctxSub ctx)
    { base with typ := 0x12, uhdr := s.chunkHeader r e k body (!bad.isEmpty) }
  (pieces 0 body.length bad).foldl (fun s c =>
    let fin := c.1 + c.2.1
    let a := if s.sinkOf q = 0x80 then s.glb.modIx.val * 2 ^ 60 + c.1 else collAddr (s.sinkOf q) r.group r.idx c.1
    let p := { base with
      addr := BitVec.ofNat 64 a, body := slice body c.1 c.2.1, status := if c.2.2 then 1 else 0
      tag := BitVec.ofNat 32 s.memu.nextReq, last := fin % 65536 == 0 || fin == body.length }
    (s.addReq .collAck r.core r.slot r.task r.cmd ctx a k c.2.1 (some p) r.nth).sendLink q.group (ctxSub ctx) p) s1

/-- A chunk's sum goes to the effective successor, or to the archive, when the credits for it are held (R287, R290, R291). -/
def State.forward (s : State) (r : CollRun) (e : GroupEntry) (k : Nat) (body : List Byte) (bad : List (Nat × Nat))
    (mark : State → Nat → State) : State :=
  match s.ctx? (chunkCtx (collD r.desc) k) with
  | none => s
  | some q =>
    if q.held < (collD r.desc).chunkCredits then s
    else
      let s1 := mark s (pieces 0 body.length bad).length
      let s2 := { s1 with grd := { s1.grd with chunksOut := bump s1.grd.chunksOut } }
      s2.sendChunk r e k body bad q

/-- This member's own part of a chunk on the wire, when it is the first (R288). -/
def firstPart (r : CollRun) (x : Gang) (k : Nat) : List Byte × List (Nat × Nat) :=
  let d := collD r.desc
  let sp := chunkSpan r ((x.contribution d).length * d.width) k
  let n := chunkElems d.width sp
  let out := elemBytesOf d.width ((chunkPart r x k).map fun b => (wireElem d.wfmt b.1, b.2))
  (slice out.1 n.2.2 sp.2, cutBad out.2 n.2.2 sp.2)

/-- CHAIN_CHUNK_FORWARD: the first present member sends its contribution; every other forwards a sum whose adds have passed (R287,
R291, R307). -/
def execChainChunkForward (c : CoreIx) (g : SlotIx) (chunk : Nat) (s : State) : Host.Outcome State Fault Refusal :=
  .next (match s.runAt c g 4 with
    | none => s
    | some (r, e, x) =>
      if !s.servesChunk r e chunk || r.sent.contains chunk then s
      else
        let note (s : State) : State := s.modRun c g fun y => { y with sent := chunk :: y.sent }
        if s.grd.first then
          let out := firstPart r x chunk
          s.forward r e chunk out.1 out.2 fun s n => note
            { s with grd := { s.grd with chunks := s.grd.chunks ++
              [{ ctx := chunkCtx (collD r.desc) chunk, group := r.group, nth := r.nth, index := chunk, header := [], got := out.1.length
                 len := out.1.length, crc := 0, poison := !out.2.isEmpty, addr := none, added := true, sent := true, acks := n }] } }
        else
          match s.chunkOf r chunk with
          | none => s
          | some y =>
            match y.addr with
            | none => s
            | some a =>
              if !y.added || y.sent then s
              else
                (s.forward r e chunk (s.view a y.len) (s.mem.poisonIn a y.len) fun s n =>
                  note (s.modChunk r chunk fun z => { z with sent := true, acks := n })).fresh y.len)

/-- The landing slots of a chunk are released and granted to its sender (R232, R291). -/
def State.releaseChunk (s : State) (r : CollRun) : State :=
  let d := collD r.desc
  (s.modTask r.core r.task fun x =>
    { x with landing := upd x.landing d.dst.car fun l => { l with released := l.released + d.chunkCredits } }).grantSlots
    r.core ((s.task r.core r.task).data d.dst.car) d.chunkCredits

/-- CHAIN_CHUNK_RELEASE: the successor has acknowledged the last write of the forwarded chunk, whose landing slots are released
(R291). -/
def execChainChunkRelease (c : CoreIx) (g : SlotIx) (chunk : Nat) (s : State) : Host.Outcome State Fault Refusal :=
  .next (match s.runAt c g 4, (s.runOf c g).bind fun r => s.chunkOf r chunk with
    | some (r, e, _), some y =>
      if !s.servesChunk r e chunk || !y.sent || y.acks != 0 then s
      else
        let s1 : State := if s.grd.first then s else s.releaseChunk r
        let s2 := { s1 with grd := { s1.grd with chunks := s1.grd.chunks.erase y } }
        (s2.modRun c g fun z => { z with steps := z.steps - 1 }).settleRun c g
    | _, _ => s)

/-! ## Reduce-scatter (R298) -/

/-- Bytes `off .. off + n - 1` of a position's block as gathered. -/
def CollRun.block (r : CollRun) (p off n : Nat) : List Byte × List (Nat × Nat) :=
  let ps := r.parts.filter fun q => q.pos == p && decide (off ≤ q.off) && decide (q.off < off + n)
  (ps.foldl (fun b q => overlay b (q.off - off) q.bytes) (zeros n), (ps.filter fun q => q.poison).map fun q => (q.off - off, q.bytes.length))

/-- The sum of a unit over the present positions, ascending (R288, R298), with the adds made. -/
def State.scatterSum (s : State) (r : CollRun) (e : GroupEntry) (u : Nat × Nat) (errs : List AddErr) :
    List (List Byte × Bool) × List CollAdd :=
  let d := collD r.desc
  let elems (p : Nat) := let b := r.block p u.1 u.2; elemsOf d.width b.1 b.2
  match s.presentPos e with
  | [] => ([], [])
  | p :: ps =>
    ps.foldl (fun acc q =>
        let x := addRuns d.wfmt (errs.filter fun y => y.pos == q) (u.1 / d.width) acc.1 (elems q)
        (x.1, acc.2 ++ x.2))
      ((elems p).map fun b => (wireElem d.wfmt b.1, b.2), [])

/-- A unit of a reduce-scatter summed and written at DST; one whose checks fail twice is poisoned, and it alone (R133, R298). -/
def State.scatterUnit (s : State) (r : CollRun) (e : GroupEntry) (errs : List AddErr) (u : Nat × Nat) : State :=
  let d := collD r.desc
  let sum := retried (errs.filter fun y => y.unit == u.1 / d.unit) (s.scatterSum r e u)
  let out := elemBytesOf d.width sum.elems
  let bad := if sum.poison then [(0, out.1.length)] else out.2
  let s1 := (s.noteAdds r.core sum).writeLast r.core r.slot r.task r.cmd
    { Carry.plain d.ctx 1 with ord := d.ord && decide (d.len ≤ u.1 + u.2) } (s.locAddr r.core r.task d.dst + u.1) out.1 bad
  if d.dig then s1.digestRun r.core r.task d.cacc (d.posbase + u.1 / d.width) d.wfmt out.1 bad else s1

/-- REDUCE_SCATTER_ADD: an owner that holds every present member's block adds them in ascending position, every add checked, and writes the
sum (R132, R298). -/
def execReduceScatterAdd (c : CoreIx) (g : SlotIx) (errs : List AddErr) (s : State) : Host.Outcome State Fault Refusal :=
  .next (match s.runAt c g 3 with
    | none => s
    | some (r, e, _) =>
      if r.wants.all fun w => w.left == 0 then
        let s1 := (s.unitsOf (collD r.desc) e (s.rankOf e c) r.base).foldl (fun s u => s.scatterUnit r e errs u) s
        (s1.modRun c g fun y => { y with steps := 0, parts := [] }).settleRun c g
      else s)

/-! ## Expert dispatch and combine (R299 to R302) -/

/-- The rows that the core of a rank sends for a dispatch, with their places from DST (R301, Table GRD-5). -/
def State.dispatchRows (s : State) (r : CollRun) (e : GroupEntry) (x : Gang) : List (Nat × CollOut) :=
  let d := collD r.desc
  (s.entries e (s.rankOf e r.core) r.counts).zipIdx.map fun y =>
    let b := x.part (y.2 * d.len) d.len
    let rel := (s.myPos e * e.cap + y.1.2.1) * d.len
    (rel, s.outTo r e y.1.1 rel b.1 b.2)

/-- The count words of a dispatch, sent by the core of rank 0 (R301; log entry 21). -/
def State.dispatchCounts (s : State) (r : CollRun) (e : GroupEntry) : List CollOut :=
  let d := collD r.desc
  let me := s.myPos e
  let absent := (List.range e.nmem).filter fun p => !(s.presentPos e).contains p
  if s.rankOf e r.core ≠ 0 then []
  else
    ((s.presentPos e).map fun p => s.outTo r e p (rowsBlock d e + 4 * me) (leBytes 4 (s.sentTo e r.counts p)) []) ++
      absent.map fun p => s.outTo r e me (rowsBlock d e + 4 * p) (zeros 4) []

/-- EXPERT_DISPATCH_SEND: rows up to CAP per position are sent with their count, and the rest are dropped and counted (R301). -/
def execExpertDispatchSend (c : CoreIx) (g : SlotIx) (s : State) : Host.Outcome State Fault Refusal :=
  .next (match s.runAt c g 5 with
    | none => s
    | some (r, e, x) =>
      let n := (s.droppedEntries e (s.rankOf e c) r.counts).length
      let s1 := { s with grd := { s.grd with drop := bump s.grd.drop n } }
      (s1.modRun c g fun y => { y with steps := 0 }).sendOuts r (s.dispatchRows r e x) (s.dispatchCounts r e))

/-- Rows a returner of results sends back, with their places from DST: row `r` from the sender at each present position, below the count
received from it (R302), shared among the cores by (position × CAP + row) mod *P* (log entry 21). -/
def State.combineOuts (s : State) (r : CollRun) (e : GroupEntry) (x : Gang) : List (Nat × CollOut) :=
  let d := collD r.desc
  let me := s.myPos e
  let rank := s.rankOf e r.core
  (s.presentPos e).flatMap fun p =>
    let n := min (fieldAt x.data (rowsBlock d e + 4 * p) 4) e.cap
    ((List.range n).filter fun i => s.serves e rank (p * e.cap + i)).map fun i =>
      let b := x.part ((p * e.cap + i) * d.len) d.len
      let rel := if p = me then (firstEntry r.counts me + i) * d.len else (me * e.cap + i) * d.len
      (rel, s.outTo r e p rel b.1 b.2)

/-- EXPERT_COMBINE_RETURN: results return to their senders, and this member's dropped entries are written as +0 (R302). -/
def execExpertCombineReturn (c : CoreIx) (g : SlotIx) (s : State) : Host.Outcome State Fault Refusal :=
  .next (match s.runAt c g 6 with
    | none => s
    | some (r, e, x) =>
      let d := collD r.desc
      let gone := s.droppedEntries e (s.rankOf e c) r.counts
      let zeroRows := gone.map fun n => (n * d.len, s.outTo r e (s.myPos e) (n * d.len) (zeros d.len) [])
      let s1 := { s with grd := { s.grd with combZero := bump s.grd.combZero gone.length } }
      (s1.modRun c g fun y => { y with steps := 0 }).sendOuts r (zeroRows ++ s.combineOuts r e x) [])

end Sys2Proof.Machine
end

