-- ==== Sys2Proof/Machine/ConfigSets.lean ====
section
/-! DEFINITION. Configuration sets (R434, R446 to R453): the mirrored registers, configuration images with the checks of Table
BOO-3, and the swap that makes the shadow set active. -/

namespace Sys2Proof.Machine

/-! ## The mirrored registers (Table BOO-4) -/

/-- A register of the configuration sets. -/
inductive MirReg where
  | rackId | tkey (i : Fin 192) | pitCfg | pitTeam | absent | biv (g : GroupIx) | fabCfg | shape (i : Nat) | pkey (i : Nat) | budget
  deriving DecidableEq, Repr

/-- The mirrored register at a CSR offset (Tables CSR-6 to CSR-8). -/
def mirReg? (off : Nat) : Option MirReg :=
  if off % 4 ≠ 0 then none
  else if off = 0x200030 then some .rackId
  else if off = 0x100010 then some .pitCfg
  else if off = 0x100014 then some .pitTeam
  else if off = 0x800000 then some .absent
  else if off = 0x600004 then some .fabCfg
  else if off = 0x400004 then some .budget
  else if 0x201000 ≤ off ∧ off < 0x201400 then
    let k := (off - 0x201000) / 0x80
    let i := (off - 0x201000) % 0x80 / 4
    if i < 24 then some (.tkey ⟨(24 * k + i) % 192, Nat.mod_lt _ (by decide)⟩) else none
  else if 0x500000 ≤ off ∧ off < 0x5E0000 then
    if (off - 0x500000) % 0x10000 = 4 then some (.biv ⟨(off - 0x500000) / 0x10000 % 14, Nat.mod_lt _ (by decide)⟩) else none
  else if 0x604000 ≤ off ∧ off < 0x605000 then
    let i := (off - 0x604000) / 4
    if i % 4 < 3 then some (.shape i) else none
  else if 0x610000 ≤ off ∧ off < 0x648000 then some (.pkey ((off - 0x610000) / 4))
  else none

/-- The bits of a mirrored register that are not reserved. -/
def MirReg.mask : MirReg → Nat
  | .rackId => 0xFFFF
  | .tkey _ => 0xFFFFFFFF
  | .pitCfg => 0xFFC00000
  | .pitTeam => 0xFFFFFF80
  | .absent => 0xFFFF
  | .biv _ => 0xFFFFFFFF
  | .fabCfg => 0x8000FFFF
  | .shape _ => 0xFFFFFFFF
  | .pkey _ => 0xE0FFFFFF
  | .budget => 0x3F

/-- The value a set holds for a register. -/
def ConfigSet.get (k : ConfigSet) : MirReg → W32
  | .rackId => k.rackId.setWidth 32
  | .tkey i => k.tkey[i]
  | .pitCfg => k.pitCfg
  | .pitTeam => k.team
  | .absent => k.absent.setWidth 32
  | .biv g => k.biv[g]
  | .fabCfg => k.fabCfg
  | .shape i => getWord 0xFFFF0010 i k.shape
  | .pkey i => getWord 0 i k.pkey
  | .budget => k.budget

/-- A register of a set written; reserved bits stay 0 (R6). -/
def ConfigSet.put (k : ConfigSet) (r : MirReg) (v : W32) : ConfigSet :=
  let w := v &&& BitVec.ofNat 32 r.mask
  match r with
  | .rackId => { k with rackId := w.setWidth 16 }
  | .tkey i => { k with tkey := k.tkey.set i w }
  | .pitCfg => { k with pitCfg := w }
  | .pitTeam => { k with team := w }
  | .absent => { k with absent := w.setWidth 16 }
  | .biv g => { k with biv := k.biv.set g w }
  | .fabCfg => { k with fabCfg := w }
  | .shape i => { k with shape := setWord 0xFFFF0010 i w k.shape }
  | .pkey i => { k with pkey := setWord 0 i w k.pkey }
  | .budget => { k with budget := w }

/-! ## Configuration images (Tables BOO-2 and BOO-3) -/

/-- The records of a configuration image: CSR offset and value. -/
def configRecords (b : List Byte) : List (Nat × W32) :=
  (List.range (fieldAt b 16 4)).map fun i => (fieldAt b (64 + 8 * i) 4, BitVec.ofNat 32 (fieldAt b (68 + 8 * i) 4))

/-- The image's header is well formed. -/
def configShape (b : List Byte) : Bool :=
  let len := fieldAt b 20 4
  fieldAt b 0 4 == 0x47464E43 && fieldAt b 4 2 == 1 && decide (len ≤ 2 ^ 20) && len == 160 + 8 * fieldAt b 16 4 && decide (len ≤ b.length)

/-- A record names a register of Table BOO-4 with no reserved bit set. -/
def recordOk (r : Nat × W32) : Bool :=
  match mirReg? r.1 with
  | some m => r.2 &&& ~~~(BitVec.ofNat 32 m.mask) == 0
  | none => false

/-- The owner key of a slot, empty where the slot is. -/
def Nvm.ownerKey (n : Nvm) (i : Nat) : List Byte := n.keySlots.toList.getD i []

/-- The first failing check of Table BOO-3 on a configuration image, against a generation; 0 when all pass (R434, R448). -/
def State.configCheck (s : State) (b : List Byte) (gen : Nat) : Nat :=
  let len := fieldAt b 20 4
  let key := s.nvm.ownerKey (fieldAt b 7 1)
  if !configShape b then 1
  else if decide (4 ≤ fieldAt b 7 1) || key.length != 96 || key.all (· == 0)
      || !verifyKey key (slice b (len - 96) 96) (b.take (len - 96)) then 4
  else if fieldAt b 8 8 < gen then 5
  else if !((configRecords b).all recordOk) || !zeroAt b 24 40 then 6
  else if fieldAt b 6 1 ≠ 0xFF ∧ fieldAt b 6 1 ≠ s.glb.modIx.val then 7
  else 0

/-- Every record of an image written into a set, in order (Table BOO-2). -/
def ConfigSet.load (k : ConfigSet) (b : List Byte) : ConfigSet :=
  (configRecords b).foldl (fun k r => match mirReg? r.1 with
    | some m => k.put m r.2
    | none => k) k

/-! ## LOAD (R448) -/

/-- CSR offsets of CFG_CTL and CFG_SWAP. -/
def cfgCtl : BitVec 26 := 0x200000
def cfgSwapOff : BitVec 26 := 0x200004

/-- CFG_CTL.LOAD written by a path that may: refused with 0x09 while a swap is armed (R448, R449). -/
def State.startLoad (s : State) : State :=
  match s.cfg.st with
  | .idle => { s with cfg := { s.cfg with st := .loading } }
  | .loading => s
  | .armed => { s with cfg := { s.cfg with err := 9 } }

/-- LOAD: CFG_CTL.LOAD written (R448, R458). -/
def execLoad (p : Path) (s : State) : Host.Outcome State Fault Refusal :=
  .next (s.guarded p cfgCtl (classS p) State.startLoad)

/-- An event of the configuration check (unit 0x9, Table FLT-3). -/
def State.configEvent (s : State) (code : Nat) : State := s.logEvent 0 9 code kWarden s.glb.modIx.val

/-- The configuration image of CFG_IMG_BASE as the stacks hold it. -/
def State.loadBytes (s : State) : List Byte :=
  let a := stacksAddr s.cfg.imgBase.toNat
  s.mem.read a (min (2 ^ 20) (fieldAt (s.mem.read a 24) 20 4))

/-- LOAD_CHECK_DONE: a passed image enters the shadow set, a failed one leaves its code (R448). -/
def execLoadCheckDone (s : State) : Host.Outcome State Fault Refusal :=
  .next (
    if s.cfg.st != .loading || !s.glb.wardenUp then s
    else
      let b := s.loadBytes
      let e := s.configCheck b s.cfg.genAct.toNat
      if e = 0 then
        { s with cfg := { s.cfg with
          st := .idle, err := 0, shadow := s.cfg.shadow.load b, gen := BitVec.ofNat 64 (fieldAt b 8 8) } }
      else State.configEvent { s with cfg := { s.cfg with st := .idle, err := BitVec.ofNat 8 e } } e)

/-! ## The swap (R401, R442, R449 to R451) -/

/-- The count at which a committed launch pitch begins (R320, R449). -/
def State.launchPitchAt (s : State) : Option Nat :=
  match s.pit.launch with
  | some l => if l.commit = some true then some (l.count - 1000 * (s.glb.slots[l.slot]).image.pitchUs) else none
  | none => none

/-- The present boundary's count: of the run while one is active; else the last multiple of 1,000,000, or the count at which a
committed launch pitch begins (R449). -/
def State.boundaryNow (s : State) : Nat :=
  if s.running then s.pitchBegan
  else
    let b := s.gcnt / 1000000 * 1000000
    match s.launchPitchAt with
    | some l => if l ≤ s.gcnt then max b l else b
    | none => b

/-- An armed swap is due (R449, R450). -/
def State.swapDue (s : State) : Bool :=
  s.cfg.st == .armed &&
    (if s.pit.lock == .free then decide (s.cfg.goAt + 10000 ≤ s.now)
     else
       let b := s.boundaryNow
       decide (s.cfg.swapAt.toNat ≤ b) && decide (s.cfg.goAt + 10000 + (s.gcnt - b) ≤ s.now))

/-- The shapers a change of shaper words concerns: those a set lists. -/
def shapeKeys (a b : ConfigSet) : List Nat := (a.shape.map Prod.fst ++ b.shape.map Prod.fst).eraseDups

/-- Tokens counted up to now at the old rates, so that new rates act from the swap on (R401). -/
def State.settleShapers (s : State) (keys : List Nat) : State :=
  let listed := s.fab.shapers.map fun x => (x.region, x.vc)
  let more := keys.map fun i => (BitVec.ofNat 8 (i / 4), (⟨i % 4 % 3, Nat.mod_lt _ (by decide)⟩ : Fin 3))
  (listed ++ more).eraseDups.foldl (fun s x => s.setTokens x.1 x.2 (s.tokens x.1 x.2)) s

/-- Debt forgiven (R401). -/
def State.forgive (s : State) : State :=
  { s with fab := { s.fab with shapers := s.fab.shapers.map fun x => if x.tokens < 0 then { x with tokens := 0 } else x } }

/-- Every sublink that is up retrains warm (R442). -/
def State.retrainAll (s : State) : State :=
  (List.finRange 14).foldl (fun s g => (List.finRange 2).foldl (fun s u =>
    if (s.sub g u).up then s.retrainWarm g u else s) s) s

/-- A module that the active set makes the time root reads LOCKED once its counter is set (R315, Table PIT-7). -/
def State.rootLock (s : State) : State :=
  if teamRoot s.cfg.active.team == s.glb.modIx.val && s.pit.gcntSet then { s with pit := { s.pit with lock := .locked, exchanges := [] } }
  else s

/-- The active set takes every value of the shadow set at once (R449). -/
def State.swap (s : State) : State :=
  let s1 := s.settleShapers (shapeKeys s.cfg.active s.cfg.shadow)
  let s2 := { s1 with cfg := { s1.cfg with
    active := s1.cfg.shadow, genAct := s1.cfg.gen, st := .idle, swaps := s1.cfg.swaps + 1 } }
  let s3 := (if bit s.cfg.shadow.fabCfg.toNat 31 then s2.forgive else s2).rootLock
  if s.cfg.active.rackId = s.cfg.shadow.rackId then s3 else s3.retrainAll

/-- A swap that is due takes place. -/
def State.swapIfDue (s : State) : State := if s.swapDue then s.swap else s

/-- CFG_SWAP.GO written by a path that may: a swap is armed; ignored while one is, or while an image is checked (R449). -/
def State.armSwap (s : State) : State :=
  if s.cfg.st == .idle then { s with cfg := { s.cfg with st := .armed, goAt := s.now } } else s

/-- SWAP_GO: CFG_SWAP.GO written (R449, R458). -/
def execSwapGo (p : Path) (s : State) : Host.Outcome State Fault Refusal :=
  .next (s.guarded p cfgSwapOff (classS p) State.armSwap)

/-- CFG_SWAP.CANCEL: an armed swap that has not reached its boundary is disarmed (R449). -/
def State.cancelSwap (s : State) : State :=
  if s.cfg.st == .armed && !s.swapDue then { s with cfg := { s.cfg with st := .idle } } else s

/-- SWAP_CANCEL: CFG_SWAP.CANCEL written (R449, R458). -/
def execSwapCancel (p : Path) (s : State) : Host.Outcome State Fault Refusal :=
  .next (s.guarded p cfgSwapOff (classS p) State.cancelSwap)

end Sys2Proof.Machine
end

