-- ==== Sys2Proof/Machine/Fabric.lean ====
section
/-! DEFINITION. The fabric between modules (R376 to R397): belay grants and leases, revocation, rope windows, and the order queues. -/

namespace Sys2Proof.Machine

/-! ## Grants and leases (R390, R393 to R396) -/

/-- BELAY_GRANT_SEND: owed credits leave in one grant once 16 are owed, or 1 µs after the oldest (R390). -/
def execBelayGrantSend (ctx : BitVec 16) (s : State) : Host.Outcome State Fault Refusal :=
  .next (match s.ctx? ctx with
    | none => s
    | some k => if 16 ≤ k.owed ∨ (0 < k.owed ∧ k.owedAt + 1000 ≤ s.now) then s.grantOwed k false else s)

/-- The pitch length that leases count, in ns: PITCH_US while a run is active, else FAB_CFG.IDLE_US (Table FAB-8). -/
def State.leaseUnit (s : State) : Nat := if s.running then s.pitchNs else s.idleNs

/-- A holder keeps unspent credits of a context. -/
def Ctx.unspent (k : Ctx) : Bool := decide (0 < k.held) && decide (k.sent < 65536 * k.held)

/-- LEASE_RENEWAL: a holder that has sent nothing for LEASE/2 pitch lengths sends a grant with COUNT = 0 and its timer restarts
(R394). -/
def execLeaseRenewal (ctx : BitVec 16) (s : State) : Host.Outcome State Fault Refusal :=
  .next (match s.ctx? ctx with
    | none => s
    | some k =>
      if k.decl.sends && k.unspent && !k.holdExp && decide (k.holdAt + k.lease * s.leaseUnit / 2 ≤ s.now) then
        (s.modCtx ctx fun x => { x with holdAt := s.now }).sendGrant k (s.sinkOf k) 0 k.lease false
      else s)

/-- The holder drops its credits of a context (R395). -/
def Ctx.dropHeld (k : Ctx) : Ctx := { k with holdExp := true, held := 0, sent := 0 }

/-- The lessor reclaims the credits it granted: arrivals that spend them are refused (R392, R395). -/
def Ctx.reclaim (k : Ctx) : Ctx := { k with lendExp := true, owed := 0 }

/-- A context's expiry at one end. -/
def State.expire (s : State) (ctx : BitVec 16) (holder : Bool) : State :=
  s.modCtx ctx fun k => if holder then k.dropHeld else k.reclaim

/-- LEASE_EXPIRE: the lease runs out, at the holder LEASE − 1 pitch lengths after its last restart and at the lessor LEASE of them
(R393, R395). -/
def execLeaseExpire (ctx : BitVec 16) (holder : Bool) (s : State) : Host.Outcome State Fault Refusal :=
  .next (match s.ctx? ctx with
    | none => s
    | some k =>
      let due : Bool :=
        if holder then k.decl.sends && !k.holdExp && decide (k.holdAt + (k.lease - 1) * s.leaseUnit ≤ s.now)
        else k.decl.receives && !k.lendExp && decide (k.lendAt + k.decl.leaseLen * s.leaseUnit ≤ s.now)
      if due then
        (State.expire { s with fab := { s.fab with leaseExp := bump s.fab.leaseExp } } ctx holder).modEvent 0 7 1
          (leBytes 2 ctx.toNat)
      else s)

/-- FAB_REVOKE lies at this CSR offset. -/
def fabRevokeOff : BitVec 26 := 0x600008

/-- The contexts a revocation names: CTX, or every one shared with MODULE, on the side that SIDE names (Table FAB-9). -/
def State.revoked (s : State) (v : W32) : List Ctx :=
  let w := v.toNat
  s.fab.ctxs.filter fun k =>
    (if bit w 30 then k.decl.sends else k.decl.receives)
      && (if bit w 23 then k.decl.peer == bits w 24 4 else k.decl.ctx.toNat == bits w 0 16)

/-- A revocation acts at once on each context, counted and logged (R396). -/
def State.revoke (s : State) (v : W32) : State :=
  if !bit v.toNat 31 then s
  else
    (s.revoked v).foldl (fun s k =>
      (State.expire { s with fab := { s.fab with leaseRev := bump s.fab.leaseRev } } k.decl.ctx (bit v.toNat 30)).modEvent 0 7 2
        (leBytes 2 k.decl.ctx.toNat)) s

/-- FAB_REVOKE: written by a session or the warden (R396). -/
def execFabRevoke (p : Path) (v : W32) (s : State) : Host.Outcome State Fault Refusal :=
  .next (s.guarded p fabRevokeOff (classS p) fun s => s.revoke v)

/-! ## Rope windows (R376, R379, R380) -/

/-- The sublink that carries a rope's context. -/
def State.ropeSub (s : State) (e : RopeEntry) : GroupIx × SubIx :=
  (⟨e.port % 14, Nat.mod_lt _ (by decide)⟩,
   match (s.image.ropeCtx e.rope).head? with
   | some c => ctxSub c.ctx
   | none => 0)

/-- Nanoseconds of the present pitch that have passed. -/
def State.inPitch (s : State) : Nat := s.gcnt - s.pitchBegan

/-- The entry's window holds now: a transmit entry, in a pitch from FIRST to LAST, inside WSTART to WSTART + WLEN (R379). -/
def State.windowNow (s : State) (e : RopeEntry) : Bool :=
  !e.rx && decide (e.first ≤ s.pnumNow) && decide (s.pnumNow ≤ e.last) && decide (e.wstart ≤ s.inPitch)
    && decide (s.inPitch < e.wstart + e.wlen)

/-- ROPE_WINDOW_OPEN: the window of a rope entry opens and its packets leave first (R379). -/
def execRopeWindowOpen (rope : BitVec 12) (entry : Nat) (s : State) : Host.Outcome State Fault Refusal :=
  .next (match s.image.ropes[entry]? with
    | none => s
    | some e =>
      if e.rope == rope && s.ropeRegime && s.windowNow e && !s.fab.open_.contains (rope, entry) then
        let x := s.ropeSub e
        State.pumpAll { s with fab := { s.fab with open_ := s.fab.open_ ++ [(rope, entry)] } } x.1 x.2
      else s)

/-- The packets of a rope still queued on its sublink, each counted once as deferred (R380). -/
def State.deferRope (s : State) (g : GroupIx) (u : SubIx) (rope : BitVec 12) : State :=
  let n := ((s.sub g u).tx.filter fun p => p.pkt.rope == rope && !p.deferred).length
  let s1 := s.modSub g u fun k => { k with tx := k.tx.map fun p => if p.pkt.rope == rope then { p with deferred := true } else p }
  let s2 : State := { s1 with fab := { s1.fab with ropeDefer := bump s1.fab.ropeDefer n } }
  if isFabric g then s2.countMap fun k => { k with defer := upd k.defer (planeIx g u) fun x => x + n } else s2

/-- ROPE_WINDOW_CLOSE: packets of the rope that are left wait for its next window; after its last they travel as others do (R379,
R380). -/
def execRopeWindowClose (rope : BitVec 12) (entry : Nat) (s : State) : Host.Outcome State Fault Refusal :=
  .next (match s.image.ropes[entry]? with
    | none => s
    | some e =>
      if s.fab.open_.contains (rope, entry) then
        let x := s.ropeSub e
        State.pumpAll
          (({ s with fab := { s.fab with open_ := s.fab.open_.filter fun y => y != (rope, entry) } }).deferRope x.1 x.2 rope) x.1 x.2
      else s)

/-! ## Order (R397) -/

/-- ORD_PACKET_RELEASE: the packet at the head of an attachment field's order queue takes effect, with its wait counted in
cycles of the 1.7 GHz fabric clock; its context has moved on by one ordered position (R279, R397). -/
def execOrdPacketRelease (g : GroupIx) (u : SubIx) (s : State) : Host.Outcome State Fault Refusal :=
  .next (match (s.sub g u).ordQ with
    | [] => s
    | (p, t) :: rest =>
      State.linkApply
        (({ s with fab := { s.fab with ordHold := bump s.fab.ordHold ((s.now - t) * 17 / 10) } }.modSub g u fun k =>
          { k with ordQ := rest }).modCtx p.ctx fun k => { k with lastOrd := k.lastOrd + 1 }) g u p)

end Sys2Proof.Machine
end

