-- ==== Sys2Proof/Machine/Mesh.lean ====
section
/-! DEFINITION. The wafer mesh (R31 to R56): arrivals at a target and answers to their issuers, multicast with its retention, spare
bundles, and a router that fails in service. -/

namespace Sys2Proof.Machine

/-! ## Answers -/

/-- An answer to a packet's issuer, sent from a field: on MV0, with the issuer's fields (R34). -/
def State.answer (s : State) (f : FieldIx) (p : MeshPacket) (op status : BitVec 4) (tag : Nat) (body : List Byte) : State :=
  s.postAt f { p with op := op, status := status, vc := 0, ord := false, mcast := false, tag := tag, body := body }

/-- The core that issued a packet. -/
def pktCore (p : MeshPacket) : CoreIx := coreOf p.srcField p.srcCore

/-- What a field answers for a packet that takes no effect: an error response, logged when refused, held by its issuer when
parked (R30, R52, R56, R66, R218, R233). -/
def State.turnAway (s : State) (f : FieldIx) (p : MeshPacket) (v : Verdict) : State :=
  let s1 := s.answer f p 5 v.status p.tag []
  match v with
  | .refused => s1.refusedEvent p.addr.toNat p.ctx (pktCore p).val
  | .parked => { s1.countParked with held := s1.held ++ [p] }
  | _ => s1

/-- The checks of a request of `n` bytes that stands at field `f`: a disabled core's request is refused by its own crossbar with status
absent (R30), the archive window with status refused (R222), a packet that did not get to its field is answered absent (R52). -/
def State.meshVerdict (s : State) (f : FieldIx) (p : MeshPacket) (n : Nat) (extra : Bool) : Verdict :=
  if !s.enabled (pktCore p).val then .absent
  else if addrRange p.addr.toNat = 4 then .refused
  else if addrModule p.addr.toNat ≠ s.glb.modIx.val then .absent
  else if s.bound p = some f ∨ s.bound p = none then s.regionVerdict p.addr.toNat n p.region extra
  else .absent

/-- The issuing core's gang, if it still waits for this packet's command. -/
def State.waits (s : State) (p : MeshPacket) : Bool :=
  match (s.core (pktCore p)).gang? p.slot with
  | some x => x.task == p.task && x.cmd == p.cmd && decide (p.tag + max p.rlen p.body.length ≤ x.data.length)
  | none => false

/-- An answer takes effect at its issuer; one that a router cannot send on is lost, and the router logs it (R52). -/
def State.comeBack (s : State) (p : MeshPacket) (op : BitVec 4) (eff : State → State) : State :=
  s.meshArrive p op fun s1 f =>
    if f = p.srcField then eff s1 else s1.logEvent 1 0xB 0x05 kField f.val (leBytes 8 p.addr.toNat)

/-! ## The packet rows -/

/-- A read request is answered with the data, poisoned parts in packets of their own with status poison (R66, R129, R131). -/
def State.answerRead (s : State) (f : FieldIx) (p : MeshPacket) : State :=
  let a := addrLocal p.addr.toNat
  (pieces p.addr.toNat p.rlen (s.mem.poisonIn a p.rlen)).foldl (fun s x =>
    (s.postAt f { p with op := 2, status := if x.2.2 then stPoison else stGood, vc := 0, ord := false, tag := p.tag + x.1
                         rlen := x.2.1, body := s.view (a + x.1) x.2.1 }).fresh x.2.1) s

/-- MESH_READ_REQUEST: answered with data or an error status; the read may find errors (R66, R129, R218, R239, R240). -/
def execMeshReadRequest (p : MeshPacket) (ecc : List EccErr) (s : State) : Host.Outcome State Fault Refusal :=
  .next (s.meshArrive p 0 fun s1 f =>
    match s1.meshVerdict f p p.rlen true with
    | .ok => (s1.readErrors (addrLocal p.addr.toNat) p.rlen ecc).answerRead f p
    | v => s1.turnAway f p v)

/-- MESH_WRITE: checked and applied at its target, then acknowledged (R66, R71, R223, R232, R233). -/
def execMeshWrite (p : MeshPacket) (s : State) : Host.Outcome State Fault Refusal :=
  .next (s.meshArrive p 1 fun s1 f =>
    let n := p.body.length
    match s1.meshVerdict f p n (s1.landOk p.addr.toNat n s1.glb.modIx.val p.ctx) with
    | .ok =>
      (s1.landWrite (some (pktCore p)) p.addr.toNat s1.glb.modIx.val p.ctx p.body (p.status == stPoison) p.last).answer
        f p 4 stGood p.tag []
    | v =>
      let s2 := if addrModule p.addr.toNat = s1.glb.modIx.val then s1.landMiss p.addr.toNat n s1.glb.modIx.val p.ctx p.last else s1
      s2.turnAway f p v)

/-- MESH_READ_RESPONSE: the data sinks in the room its requester reserved (R38, R129). -/
def execMeshReadResponse (p : MeshPacket) (s : State) : Host.Outcome State Fault Refusal :=
  .next (s.comeBack p 2 fun s1 =>
    if s1.waits p then s1.modGang (pktCore p) p.slot fun x => x.arrive p.tag p.body (p.status == stPoison) else s1)

/-- MESH_REDUCE_ADD: the slice's reduction unit applies it by its issuer's mode and format, or it is refused (R29, R121, R122). -/
def execMeshReduceAdd (p : MeshPacket) (s : State) : Host.Outcome State Fault Refusal :=
  .next (s.meshArrive p 3 fun s1 f =>
    let a := p.addr.toNat
    let n := redSpan p.efmt.toNat p.anchored p.epw p.body.length
    match s1.meshVerdict f p n (redTarget a p.efmt.toNat p.anchored) with
    | .ok =>
      (s1.reduceAt (some (pktCore p)) a p.efmt.toNat p.anchored p.epw p.body (p.status == stPoison)).answer f p 4 stGood p.tag []
    | v => s1.turnAway f p v)

/-- MESH_WRITE_ACK: one more write of the command is acknowledged (R71). -/
def execMeshWriteAck (p : MeshPacket) (s : State) : Host.Outcome State Fault Refusal :=
  .next (s.comeBack p 4 fun s1 => s1.ackOne (pktCore p) p.task p.cmd)

/-- MESH_ERROR_RESPONSE: a read's awaited data becomes poisoned, a write counts as acknowledged with error; a parked request
stays with its issuer (R71, R129, R233, R414). -/
def execMeshErrorResponse (p : MeshPacket) (s : State) : Host.Outcome State Fault Refusal :=
  .next (s.comeBack p 5 fun s1 =>
    if p.status == stParked then s1
    else if p.rlen = 0 then s1.ackOne (pktCore p) p.task p.cmd
    else if s1.waits p then s1.modGang (pktCore p) p.slot fun x => x.lose p.tag p.rlen
    else s1)

/-! ## Multicast (R41 to R44, R273) -/

/-- Bytes a router's retention buffer of a VC holds: packets a local branch has not taken, and packets a next router has not
accepted (R43). -/
def State.retention (s : State) (f : FieldIx) (v : Fin 4) : Nat :=
  ((((s.field f).retained.map Retained.pkt ++
      (s.mcast.filter fun c => c.prev == f && c.dest != f).map McastCopy.pkt).eraseDups.filter fun p => p.vc == v).map
    fun p => p.body.length).sum

/-- The next router along a direction, short of a limit; a dead one is skipped over the express link (R42). -/
def State.branch (s : State) (f : FieldIx) (d : Fin 4) (inside : FieldIx → Bool) : Option FieldIx :=
  match stepField f d.val with
  | none => none
  | some g =>
    if !inside g then none
    else if !s.knownDead g then some g
    else
      match stepField f (d.val + 4) with
      | some h => if inside h then some h else none
      | none => none

/-- The branches a multicast packet takes from a router: along its source row, and north and south in the columns of its
rectangle (R41). -/
def State.branches (s : State) (f : FieldIx) (p : MeshPacket) : List FieldIx :=
  let x := fieldX f.val
  let y := fieldY f.val
  let xs := fieldX p.srcField.val
  let ys := fieldY p.srcField.val
  let row : Bool := y == ys
  let col : Bool := decide (p.x0.val ≤ x) && decide (x ≤ p.x1.val)
  let go (on : Bool) (d : Fin 4) (inside : FieldIx → Bool) : List FieldIx :=
    if on then (s.branch f d inside).toList else []
  go (row && decide (x ≤ xs)) 3 (fun g => decide (p.x0.val ≤ fieldX g.val))
    ++ go (row && decide (xs ≤ x)) 1 (fun g => decide (fieldX g.val ≤ p.x1.val))
    ++ go (col && decide (y ≤ ys)) 0 (fun g => decide (p.y0.val ≤ fieldY g.val))
    ++ go (col && decide (ys ≤ y)) 2 (fun g => decide (fieldY g.val ≤ p.y1.val))

/-- The cores of a field that a multicast packet delivers to (R41). -/
def State.localCores (s : State) (f : FieldIx) (p : MeshPacket) : BitVec 4 :=
  if decide (p.x0.val ≤ fieldX f.val) && decide (fieldX f.val ≤ p.x1.val) && decide (p.y0.val ≤ fieldY f.val)
      && decide (fieldY f.val ≤ p.y1.val) && !s.knownDead f
  then p.cmask &&& s.glb.coreEn.extractLsb' (4 * f.val) 4
  else 0

/-- MULTICAST_REPLICATE: a router accepts a packet when its retention buffer has room and sends it on to every branch (R41 to
R44). -/
def execMulticastReplicate (f : FieldIx) (p : MeshPacket) (s : State) : Host.Outcome State Fault Refusal :=
  .next (match s.mcast.find? fun c => c.dest == f && c.pkt == p with
    | none => s
    | some c =>
      if 65536 < s.retention f p.vc + p.body.length then s
      else
        let cores := s.localCores f p
        let on := (s.branches f p).map fun g => { prev := f, dest := g, pkt := p : McastCopy }
        let s1 := { s with mcast := s.mcast.erase c ++ on }
        if cores = 0 then s1 else s1.modField f fun k => { k with retained := k.retained ++ [{ pkt := p, cores := cores }] })

/-- The local branch has served a core. -/
def State.serveCore (s : State) (f : FieldIx) (c : Fin 4) (p : MeshPacket) : State :=
  s.modField f fun k =>
    { k with retained := (k.retained.map fun r =>
        if r.pkt == p then { r with cores := r.cores &&& ~~~(1#4 <<< c.val) } else r).filter fun r => r.cores != 0 }

/-- Landing credits a router holds for a core and context (R273). -/
def Field.landCredits (k : Field) (c : Fin 4) (ctx : BitVec 16) : Nat :=
  match k.landCred.find? fun e => e.1 == c && e.2.1 == ctx with
  | some e => e.2.2
  | none => 0

/-- Landing credits of a core and context set. -/
def Field.setLandCredits (k : Field) (c : Fin 4) (ctx : BitVec 16) (n : Nat) : Field :=
  { k with landCred := (c, ctx, n) :: k.landCred.filter fun e => !(e.1 == c && e.2.1 == ctx) }

/-- The context is an intake context (R279). -/
def State.intakeCtx (s : State) (ctx : BitVec 16) : Bool :=
  match s.ctx? ctx with
  | some k => k.decl.intake
  | none => false

/-- The address of a multicast packet at one of its targets: the same offset in that core's scratchpad (R41). -/
def mcastAddr (p : MeshPacket) (d : CoreIx) : Nat := addrModule p.addr.toNat * 2 ^ 60 + scratchAddr d (bits p.addr.toNat 0 26)

/-- An answer of a multicast target: to the core whose command sent it, named by the packet's tag. -/
def mcastReply (p : MeshPacket) (d : CoreIx) : MeshPacket :=
  { p with srcField := ⟨p.tag / 4 % 64, Nat.mod_lt _ (by decide)⟩, srcCore := ⟨p.tag % 4, Nat.mod_lt _ (by decide)⟩
           addr := BitVec.ofNat 64 (mcastAddr p d), mcast := false }

/-- The segment of a landing carrel that an arrival belongs to has begun: its slot is being filled, on a credit already spent (R232,
R273). -/
def State.slotBegun (s : State) (c : CoreIx) (o n m : Nat) (ctx : BitVec 16) : Bool :=
  match s.landing? c o n m ctx with
  | some x =>
    let i := ((s.task c x.1).data x.2).slotAt o
    (s.task c x.1).landing[x.2].part.any fun y => y.slot == i
  | none => false

/-- A packet of a multicast folio is answered "destination parked": the intake unit will ask for the folio again, for the targets that
turned it away (R266). The packet's tag names the segment, the descriptor and the folio. -/
def State.parkFolio (s : State) (p : MeshPacket) (d : CoreIx) : State :=
  let core : CoreIx := ⟨p.tag % 256, Nat.mod_lt _ (by decide)⟩
  let mark := p.tag / 256 - 1
  let f := mark % 2 ^ 32
  let desc := mark / 2 ^ 32 % 2 ^ 32
  let seg := mark / 2 ^ 64
  let mine (w : ArchWant) : Bool :=
    w.core == core && w.task == p.task && w.cmd == p.cmd && w.desc == desc && w.first == f && w.seg == some seg
  let more (l : List (CoreIx × Nat)) : List (CoreIx × Nat) :=
    if (l.any fun e => e.1 == d) then l.map fun e => if e.1 == d then (d, e.2 + 1) else e else l ++ [(d, 1)]
  let shard := match (s.task core p.task).cmd? p.cmd with
    | some y => (match y.descs[desc]? with
      | some z => bits (s.locAddr core p.task (streamD z.bytes).src) 40 16
      | none => 0)
    | none => 0
  let s1 := s.countParked
  let old := s1.intk.parked
  let fresh : ArchWant :=
    { core := core, task := p.task, cmd := p.cmd, desc := desc, ctx := p.ctx, shard := shard, first := f, count := 1
      only := [(d, 1)], seg := some seg }
  let new : List ArchWant :=
    if old.any mine then old.map fun w => if mine w then { w with only := more w.only } else w else old ++ [fresh]
  { s1 with intk := { s1.intk with parked := new } }

/-- A multicast packet reaches address `a` of a core of a router's field, as its checks allow. A folio answered "destination parked" goes back to the
intake unit (R266, R273). -/
def State.deliverLocal (s : State) (f : FieldIx) (d : CoreIx) (p : MeshPacket) (a : Nat) : State :=
  let q := mcastReply p d
  let n := p.body.length
  let m := s.glb.modIx.val
  match s.regionVerdict a n p.region (s.landOk a n m p.ctx) with
  | .ok => (s.landWrite (some d) a m p.ctx p.body (p.status == stPoison) p.last).answer f q 4 stGood p.tag []
  | v =>
    let s1 := s.landMiss a n m p.ctx p.last
    if v == .parked && decide (256 ≤ p.tag) then s1.parkFolio p d else s1.turnAway f q v

/-- MULTICAST_LOCAL_DELIVER: a router's local branch delivers a retained packet to one core; the first packet of an intake segment needs
and spends a landing credit (R41, R43, R233, R273). -/
def execMulticastLocalDeliver (f : FieldIx) (c : Fin 4) (p : MeshPacket) (s : State) : Host.Outcome State Fault Refusal :=
  .next (match (s.field f).retained.find? fun r => r.pkt == p && r.cores.getLsbD c.val with
    | none => s
    | some _ =>
      let d := coreOf f c
      let pays := s.intakeCtx p.ctx && !s.slotBegun d (bits p.addr.toNat 0 26) p.body.length s.glb.modIx.val p.ctx
      let room := (s.field f).landCredits c p.ctx
      if pays && (room == 0) then s
      else
        let s1 := s.serveCore f c p
        let s2 := if pays then s1.modField f fun k => k.setLandCredits c p.ctx (room - 1) else s1
        s2.deliverLocal f d p (mcastAddr p d))

/-! ## Spare bundles (R45 to R47) -/

/-- The link of a router in a direction exists (Table WAF-5). -/
def linkExists (f : FieldIx) (d : DirIx) : Bool := (stepField f d.val).isSome

/-- 1,024 cycles of the 1.7 GHz fabric clock have not passed since a time. -/
def recently (now t : Nat) : Bool := decide (17 * (now - t) < 10240)

/-- Errors of a bundle within the last 1,024 cycles (R46). -/
def MeshLink.errors (k : MeshLink) (now : Nat) (b : Fin 9) : Nat :=
  (k.recent.filter fun e => e.1 == b && recently now e.2).length

/-- The transmitter of the link into field `f` from direction `d` sends the last `n` flits it keeps again, in order (R45). -/
def State.replayInto (s : State) (f : FieldIx) (d : DirIx) (n : Nat) : State :=
  match stepField f d.val with
  | some h => s.modMesh h (oppDir d.val) fun k => { k with replay := k.kept.drop (k.kept.length - n) }
  | none => s

/-- BUNDLE_CRC_RETRY: the receiver counts the error and asks for a retry; the transmitter replays from that flit, the `back`-th last it
sent (R45). That the 8-bit CRC has failed is the event itself (log entry 55). -/
def execBundleCrcRetry (f : FieldIx) (d : DirIx) (b : Fin 9 × Fin 17) (s : State) : Host.Outcome State Fault Refusal :=
  .next (if !linkExists f d then s
    else (s.modMesh f d fun k =>
      { k with crcErr := k.crcErr + 1, retries := k.retries + 1
               recent := (b.1, s.now) :: k.recent.filter fun e => recently s.now e.2 }).replayInto f d b.2.val)

/-- Bundles of a link marked failed. -/
def MeshLink.failures (k : MeshLink) : Nat := countBits 9 k.failed.toNat

/-- BUNDLE_FAIL: four errors in 1,024 cycles mark a bundle failed. The first failure pauses the link and steers in the spare;
a second leaves the link at half width and raises an event (R46, R47). Where the first to fail is the spare itself, which carries no
data, it is marked failed with no pause and no steering (DESIGN CHOICE, log entry 31). -/
def execBundleFail (f : FieldIx) (d : DirIx) (b : Fin 9) (s : State) : Host.Outcome State Fault Refusal :=
  .next (
    let k := (s.field f).links[d]
    if !linkExists f d || k.failed.getLsbD b.val || decide (k.errors s.now b < 4) then s
    else
      let s1 := s.modMesh f d fun k => { k with failed := k.failed ||| BitVec.ofNat 9 (2 ^ b.val) }
      if k.failures = 0 then
        s1.modMesh f d fun k => if b.val = 8 then k else { k with spare := true, paused := true }
      else if k.half then s1
      else (s1.modMesh f d fun k => { k with half := true }).logEvent 0 0xB 0x01 kField f.val [BitVec.ofNat 8 d.val])

/-- BUNDLE_SPARE_RESUME: the pause of 48 cycles is over, counted as a link-retry stall; the transmitter replays its retry buffer and the
link forwards again (R46). -/
def execBundleSpareResume (f : FieldIx) (d : DirIx) (s : State) : Host.Outcome State Fault Refusal :=
  .next (if !((s.field f).links[d]).paused then s
    else (s.modMesh f d fun k => { k with paused := false, recent := [], stall := k.stall + 48 }).replayInto f d 16)

/-! ## A router that fails in service (R53, R54) -/

/-- More than one dead router leaves the module unable to launch (R54). -/
def State.routerService (s : State) : State :=
  if 1 < s.nvm.dead.length then (s.modEvent 5 0xB 0x06).service svRouter else s

/-- The sublinks that a field's edge port served go DOWN (R54, R360). -/
def State.dropAttached (s : State) (f : FieldIx) : State :=
  (List.finRange 14).foldl (fun s g => (List.finRange 2).foldl (fun s u =>
    if attachField g u = f.val ∧ (s.sub g u).st ≠ .disabled then s.modSub g u fun k => { k.dropDown with dead := true } else s) s) s

/-- ROUTER_FAILED: the run on this module ends, the router enters the in-field section of the defect map, and its edge attachment is lost
(R53, R54). The routers learn of it with the fault tables of the next launch; until then they go on sending through it (DESIGN CHOICE,
log entry 31). -/
def execRouterFailed (f : FieldIx) (s : State) : Host.Outcome State Fault Refusal :=
  .next (if s.deadRouter f then s
    else
      ((({ s with nvm := { s.nvm with badRouters := s.nvm.badRouters ++ [f] } }).logEvent 3 0xB 0x02 kField
        f.val).dropAttached f).routerService.faultRun)

end Sys2Proof.Machine
end

