-- ==== Sys2Proof/Machine/Reset.lean ====
section
/-! DEFINITION. Resets, start-up, pins and the calendar clock (R48 to R54, R428, R431 to R441, R459 to R463, R502 to R507). -/

namespace Sys2Proof.Machine

/-! ## Module reset (R463) -/

/-- GLB_RESET lies at this CSR offset. -/
def glbReset : BitVec 26 := 0x30

/-- What the NVM and the standby rail hold after a module reset: listed rows take their spares, the Morkan EPOCH changes (R242,
R357). -/
def Nvm.afterReset (n : Nvm) : Nvm :=
  { n with epoch := n.epoch + 1
           mapped := ((n.testRows ++ n.mapOut).map Prod.fst).filter fun r => !n.spareOut.contains r }

/-- The SEQ that a module takes after a reset: 0 with no stored mark, else the mark plus 65,536 (R340). -/
def Nvm.firstSeq (n : Nvm) : W64 :=
  match n.seqMark with
  | some m => BitVec.ofNat 64 (m + 65536)
  | none => 0

/-- A failed bundle of the test section: the first takes the spare, a second halves the link (R46, R47, R437). -/
def State.loadBundle (s : State) (x : FieldIx × DirIx × Fin 9) : State :=
  s.modMesh x.1 x.2.1 fun k =>
    if k.failed.getLsbD x.2.2.val then k
    else if k.failures = 0 then { k with failed := BitVec.ofNat 9 (2 ^ x.2.2.val), spare := x.2.2.val != 8 }
    else { k with failed := k.failed ||| BitVec.ofNat 9 (2 ^ x.2.2.val), half := true }

/-- The module resets: cores stop, sublinks are disabled, domains open and lose their content, every register takes its reset
value, which for the enabled cores and the mesh links' failed bundles the defect map gives; the NVM, the standby rail, the pins and the
model's own fields stay (R3, R5, R242, R463, R474). -/
def State.moduleReset (s : State) : State :=
  s.nvm.testBundle.foldl State.loadBundle { ({} : State) with
    nvm := s.nvm.afterReset
    glb := { ({} : Glb) with coreEn := s.nvm.enabled }
    aud := { ({} : Aud) with seq := s.nvm.firstSeq }
    rtc := { s.rtc with setCnt := 0 }
    flt := { ({} : Flt) with log := s.flt.log, wr := s.flt.wr, lastAuto := s.flt.lastAuto }
    pwr := { ({} : Pwr) with shutEnd := s.pwr.shutEnd, railsOff := s.pwr.railsOff }
    pins := s.pins
    out := s.out
    now := s.now
    freeCtr := s.freeCtr
    pending := s.pending }

/-- R481: a cause is noted, FLT_CFG.AUTO_RESET is 1 and no run is active. -/
def State.autoDue (s : State) : Bool := s.flt.autoCause && bit s.flt.cfg.toNat 8 && s.pit.run == .idle && s.glb.wardenUp

/-- The warden's reset under R481. -/
def State.autoReset (s : State) : State :=
  if s.autoDue then
    let s1 := s.moduleReset
    { s1 with flt := { s1.flt with lastAuto := some s.now } }
  else s

/-- MODULE_RESET: by its source: a GLB_RESET write, MRST_N or EJECT_N low, or the warden under R481 (R463). -/
def execModuleReset (src : ResetSource) (s : State) : Host.Outcome State Fault Refusal :=
  .next (match src with
    | .register p => s.guarded p glbReset (classS p) State.moduleReset
    | .pin => if s.pins.mrstN then s else s.moduleReset
    | .eject => if s.pins.ejectN then s else s.moduleReset
    | .warden => s.autoReset)

/-! ## Warden reset (R456, R461, R462) -/

/-- Every session ends and its keys are discarded. -/
def State.endSessions (s : State) : State :=
  { s with cfg := { s.cfg with sessions := Vector.replicate 4 none, greeting := [] } }

/-- The warden resets: sessions end, a reply it was about to place is lost; hardware state stays. -/
def State.wardenReset (s : State) : State :=
  let s1 := s.endSessions
  { s1 with glb := { s1.glb with wardenUp := false, mbox := s1.glb.mbox.map fun m => { m with replies := [] } } }

/-- WARDEN_RESET: by a GLB_RESET write or a fault inside the warden (R461). -/
def execWardenReset (src : ResetSource) (s : State) : Host.Outcome State Fault Refusal :=
  .next (match src with
    | .register p => s.guarded p glbReset (classS p) State.wardenReset
    | .warden => s.wardenReset
    | .pin => s
    | .eject => s)

/-- WARDEN_RESTART_DONE: the warden serves again, with the hardware's state as its own (R429, R461, R462). -/
def execWardenRestartDone (s : State) : Host.Outcome State Fault Refusal :=
  .next { s with glb := { s.glb with wardenUp := true } }

/-- WARDEN_WATCHDOG: the 1 s watchdog resets the warden (R461). -/
def execWardenWatchdog (s : State) : Host.Outcome State Fault Refusal := .next s.wardenReset

/-! ## Fault tables (R50, R53, R54) -/

/-- The entry of router `f` for the dead field itself (R50, R54). -/
def deadEntry (d f : FieldIx) : Nat :=
  let east := fieldX d.val < 7
  if f = bypassOf d then (if east then 0x9 else 0xA)
  else if east && fieldY f.val == fieldY d.val && fieldX f.val + 1 == fieldX d.val then 0x6
  else dimDir f (bypassOf d) + 1

/-- The entry of router `f` for destination `t` with one dead router `d` (Table WAF-6). -/
def faultEntry (d f t : FieldIx) : Nat :=
  let xd := fieldX d.val
  let yd := fieldY d.val
  let x := fieldX f.val
  let y := fieldY f.val
  let tx := fieldX t.val
  let ty := fieldY t.val
  if f = d then 0
  else if t = d then deadEntry d f
  else if y = yd ∧ (x + 1 = xd ∨ x = xd + 1) ∧ tx = xd then (if ty < yd then 1 else 3)
  else if y = yd ∧ x + 1 = xd ∧ xd < tx then 6
  else if y = yd ∧ x = xd + 1 ∧ tx < xd then 8
  else if x = xd ∧ y + 1 = yd ∧ tx = xd ∧ yd < ty then 7
  else if x = xd ∧ y = yd + 1 ∧ tx = xd ∧ ty < yd then 5
  else 0

/-- The fault table of router `f` (Table WAF-7). -/
def faultTable (d f : FieldIx) : Vector W32 8 :=
  Vector.ofFn fun k => BitVec.ofNat 32
    (((List.finRange 8).map fun i => faultEntry d f ⟨(8 * k.val + i.val) % 64, Nat.mod_lt _ (by decide)⟩ * 16 ^ i.val).sum)

/-- A field is a mesh neighbour of another (N, E, S or W). -/
def nextTo (f d : FieldIx) : Bool := (List.range 4).any fun i => stepField f i == some d

/-- Every fault table loaded from the defect map, and with it each router's dead neighbours; with more than one dead router none is
(R42, R50, R54). -/
def State.loadFaultTables (s : State) : State :=
  match s.nvm.dead with
  | [] => { s with fields := s.fields.map fun k => { k with faultTab := Vector.replicate 8 0, deadNear := [] } }
  | [d] =>
    { s with fields := Vector.ofFn fun f =>
        { s.fields[f] with faultTab := faultTable d f, deadNear := if nextTo f d then [d] else [] } }
  | _ => s.routerService

/-! ## Start-up (R431 to R441) -/

/-- The header of an image is well formed (R431). -/
def NvmImage.headOk (k : NvmImage) : Bool := k.magic == 0x4D564E48 && k.format == 1 && decide (k.baseLen ≤ 2 ^ 26 - 4096)

/-- Base of an image passes R432; the failing code of Table BOO-3, 0 when valid. -/
def baseError (n : Nvm) (i : ImgIx) : Nat :=
  if !(n.images[i]).headOk then 1 else if !(n.images[i]).baseOk then 2 else if (n.images[i]).version < n.vfloor then 3 else 0

/-- The image tried first: the higher GEN, image A when equal (R433). -/
def firstBase (n : Nvm) : ImgIx := if (n.images[(0 : ImgIx)]).gen < (n.images[(1 : ImgIx)]).gen then 1 else 0

/-- The other image. -/
def otherImg (i : ImgIx) : ImgIx := if i = 0 then 1 else 0

/-- The base booted, if any is valid (R433). -/
def bootBase (n : Nvm) : Option ImgIx :=
  let a := firstBase n
  if baseError n a = 0 then some a else if baseError n (otherImg a) = 0 then some (otherImg a) else none

/-- GEN of an image's boot configuration. -/
def configGen (n : Nvm) (i : ImgIx) : Nat := fieldAt (n.images[i]).config 8 8

/-- The image whose boot configuration is taken: the valid one of the highest GEN, the booted image's when equal (R434). -/
def State.bootConfig (s : State) (booted : ImgIx) : Option ImgIx :=
  let ok (i : ImgIx) : Bool := s.configCheck (s.nvm.images[i]).config s.nvm.cfgGen == 0
  let o := otherImg booted
  if ok booted then (if ok o && decide (configGen s.nvm booted < configGen s.nvm o) then some o else some booted)
  else if ok o then some o else none

/-- A failed check noted: the first code is kept, each is logged (Table BOO-7, Table FLT-3). -/
def State.noteNvm (s : State) (code : Nat) : State :=
  if code = 0 then s
  else State.configEvent
    { s with glb := { s.glb with nvmErr := if s.glb.nvmErr = 0 then BitVec.ofNat 8 code else s.glb.nvmErr } } code

/-- Safe state: no domain powered, the mesh closed, every sublink disabled (R433). -/
def State.enterSafe (s : State) : State :=
  { s with glb := { s.glb with phase := .safe, started := true }
           links := s.links.map fun g => { g with sub := g.sub.map fun u => { u with st := .disabled } } }

/-- The slot identity's parity is even (R503). -/
def Pins.parityOk (p : Pins) : Bool := (countBits 4 p.slotId.toNat + ofFlag p.slotPar) % 2 == 0

/-- The boot configuration enters both sets, or none is valid (R434). -/
def State.takeConfig (s : State) (booted : ImgIx) : State :=
  match s.bootConfig booted with
  | none => { s with glb := { s.glb with cfgDef := true } }
  | some i =>
    let b := (s.nvm.images[i]).config
    let k := ({} : ConfigSet).load b
    let gen := fieldAt b 8 8
    { s with glb := { s.glb with cfgDef := false, cfgImg := i == 1 }
             cfg := { s.cfg with active := k, shadow := k, gen := BitVec.ofNat 64 gen, genAct := BitVec.ofNat 64 gen }
             nvm := { s.nvm with cfgGen := gen } }

/-- The guarantee of the ordering code (R1). -/
def Nvm.guarantee (n : Nvm) : Nat := if n.binX then 255 else 252

/-- The causes of service that persist are set again (R480). -/
def State.startService (s : State) : State :=
  let s1 : State := if s.nvm.spareOut.isEmpty then s else s.service svSpareRow
  let s2 : State := if 4096 ≤ s1.nvm.mapOut.length then s1.service svMapout else s1
  if countBits 256 s2.glb.coreEn.toNat < s2.nvm.guarantee then
    ({ s2 with glb := { s2.glb with belowBin := true } }.logEvent 5 9 0x22 kWarden s2.glb.modIx.val).service svBelowBin
  else s2

/-- Step 7 of Sequence BOO-1: configuration, defect map, fault tables and spare bundles loaded, the mesh open. -/
def State.openMesh (s : State) (booted : ImgIx) : State :=
  let s1 := s.takeConfig booted
  let s2 := { s1 with glb := { s1.glb with
    coreEn := s1.nvm.enabled, phase := .mesh, started := true, nextGroup := 0, img := booted == 1
    fallback := booted != firstBase s1.nvm } }
  (s2.nvm.testBundle.foldl State.loadBundle s2.loadFaultTables).startService

/-- Start-up up to the open mesh: slot identity, base, boot configuration, and the journals, of which the union of the valid records is
used (steps 1 to 7 of Sequence BOO-1; R12, R433 to R435, R503). -/
def State.startUp (s : State) : State :=
  let s1 := { s with pwr := { s.pwr with railsOff := false }
                     pins := { s.pins with thermtripN := true, inputOk := true }
                     glb := { s.glb with wardenUp := true, modIx := s.pins.slotId.toFin, coreEn := s.nvm.enabled } }
  if !s1.pins.parityOk then s1.enterSafe
  else
    let a := firstBase s1.nvm
    let s2 := s1.noteNvm (baseError s1.nvm a)
    match bootBase s2.nvm with
    | none => (s2.noteNvm (baseError s2.nvm (otherImg a))).enterSafe
    | some b =>
      let codeOf (i : ImgIx) : Nat := s2.configCheck (s2.nvm.images[i]).config s2.nvm.cfgGen
      let journal (i : ImgIx) : Nat := if (s2.nvm.images[i]).journalBad then 8 else 0
      ((((s2.noteNvm (codeOf b)).noteNvm (codeOf (otherImg b))).noteNvm (journal 0)).noteNvm (journal 1)).openMesh b

/-- STARTUP_BEGIN: with the input in range and MRST_N and EJECT_N high, and no interval of R428 left, start-up runs (R438). -/
def execStartupBegin (s : State) : Host.Outcome State Fault Refusal :=
  .next (if s.glb.started || !s.pins.mrstN || !s.pins.ejectN || s.pwr.shutEnd.isSome then s else s.startUp)

/-- The 22 groups of four domains in the order of R439. -/
def domGroup (i : Nat) : List DomIx :=
  let first := if i < 4 then 64 + 4 * i else if i < 20 then 4 * (i - 4) else if i = 20 then 84 else 80
  (List.range 4).map fun k => ⟨(first + k) % 88, Nat.mod_lt _ (by decide)⟩

/-- The rails of a domain are regulated, or it has failed (R439). -/
def Domain.regulated (k : Domain) : Bool := k.failed || (k.st != .switchingOn && k.st != .off)

/-- The next group may start: the last group's rails are regulated, and VLOG waits for every VARR domain (R406, R439). -/
def State.groupReady (s : State) : Bool :=
  let n := s.glb.nextGroup
  (n == 0 || (domGroup (n - 1)).all fun d => (s.dom d).regulated)
    && (n != 4 || (List.range 4).all fun i => (domGroup i).all fun d => (s.dom d).failed || (s.dom d).isOn)

/-- STARTUP_DOMAIN_GROUP: the next four domains are asked on; a VLOG domain of a failed block is left out (R439, R440). -/
def execStartupDomainGroup (s : State) : Host.Outcome State Fault Refusal :=
  .next (
    let n := s.glb.nextGroup
    if !s.glb.started || s.glb.phase == .safe || decide (22 ≤ n) || !s.groupReady then s
    else
      let s1 := ((domGroup n).filter fun d => s.mayPowerUp d && !(s.dom d).failed).foldl (fun s d => s.requestOn d) s
      { s1 with glb := { s1.glb with nextGroup := n + 1, phase := if n = 21 then .links else .domains } })

/-- The cores of the fields a domain feeds. -/
def fedCores (d : DomIx) : BitVec 256 :=
  ((List.finRange 64).filter fun f => feeds d f).foldl (fun a f => a ||| (0xF#256 <<< (4 * f.val))) 0

/-- STARTUP_DOMAIN_TIMEOUT: a domain that has not become ready is switched off and start-up goes on without it (R440). -/
def execStartupDomainTimeout (d : DomIx) (s : State) : Host.Outcome State Fault Refusal :=
  .next (
    let k := s.dom d
    if !(s.glb.phase == .domains || s.glb.phase == .links) || !(k.st == .switchingOn || k.st == .initialising || k.queued.isSome) then s
    else
      let s1 := ((s.dequeueSeq d).modDom d fun x => { x.open_ with failed := true }).powerLost d
      let s2 := (s1.logEvent 5 8 4 kDomain d.val).service svDomain
      match domKind d with
      | .vlog _ => { s2 with glb := { s2.glb with coreEn := s2.glb.coreEn &&& ~~~(fedCores d) } }
      | .varr _ => { s2 with glb := { s2.glb with coreEn := s2.glb.coreEn &&& ~~~(fedCores d) } }
      | _ => s2)

/-! ## Pins (R463, R502, R506, R507) -/

/-- MRST_N_ASSERT: MRST_N goes low and resets the module, or goes high again (R463). -/
def execMrstNAssert (level : Bool) (s : State) : Host.Outcome State Fault Refusal :=
  .next (
    let s1 := { s with pins := { s.pins with mrstN := level } }
    if level then s1 else s1.moduleReset)

/-- EJECT_N_LOW: the module resets and its router and host-port rails open (R506). -/
def execEjectNLow (s : State) : Host.Outcome State Fault Refusal :=
  .next (
    let s1 := State.moduleReset { s with pins := { s.pins with ejectN := false } }
    { s1 with pwr := { s1.pwr with railsOff := true } })

/-- EJECT_N_HIGH: EJECT_N has been high for 100 ms, and start-up may begin (R507). -/
def execEjectNHigh (s : State) : Host.Outcome State Fault Refusal :=
  .next { s with pins := { s.pins with ejectN := true } }

/-- The session path of a host port. -/
def portPath (p : PortIx) : SessPath := if p = 0 then .hostA else .hostB

/-- The sessions of a path end. -/
def State.endPath (s : State) (p : SessPath) : State :=
  { s with cfg := { s.cfg with
    sessions := s.cfg.sessions.map fun x => x.filter fun k => k.path != p
    greeting := s.cfg.greeting.filter fun g => g.path != p } }

/-- PERST_N: a host port's PCIe interface resets, and the sessions its mailbox carries end (R502). -/
def execPerstN (port : PortIx) (s : State) : Host.Outcome State Fault Refusal := .next (s.endPath (portPath port))

/-! ## The calendar clock (R459, R460) -/

/-- RTC_SET lies at this CSR offset. -/
def rtcSetOff : BitVec 26 := 0x30000C

/-- The clock stepped to `v` µs, with the old and new times logged (R460). -/
def State.setRtc (s : State) (v : W64) : State :=
  ({ s with rtc := { ns := 1000 * v.toNat, valid := true, lost := false, setCnt := s.rtc.setCnt + 1 } }).modEvent 0 9 0x20
    (leBytes 8 s.rtcUs ++ leBytes 8 v.toNat)

/-- RTC_SET: the high word is written by a session or the warden (R458, R460). -/
def execRtcSet (p : Path) (v : W64) (s : State) : Host.Outcome State Fault Refusal :=
  .next (s.guarded p rtcSetOff (classS p) fun s => s.setRtc v)

/-- RTC_HOLDUP_LOST: without input and hold-up the clock restarts from 0, with LOST set (R459). -/
def execRtcHoldupLost (s : State) : Host.Outcome State Fault Refusal :=
  .next { s with rtc := { s.rtc with ns := 0, valid := false, lost := true } }

end Sys2Proof.Machine
end

