-- ==== Sys2Proof/Machine/Team.lean ====
section
/-! DEFINITION. The rope team (R312, R313, R318 to R320, R326, R327): references and the sublink of team messages, readiness for a
launch, lost members, benighting, and the pitch unit's broadcasts on the control network (R60, R61). -/

namespace Sys2Proof.Machine

/-! ## Who is who -/

/-- This module's index as a number. -/
def State.me (s : State) : Nat := s.glb.modIx.val

/-- PIT_TEAM as it acts on team membership: captured while a run is active, else the active set's (Table PIT-7). -/
def State.teamNow (s : State) : W32 := if s.running then s.pit.teamRun else s.cfg.active.team

/-- TROOT and TROOT_ALT of the active set (Table PIT-7). -/
def State.troot (s : State) : Nat := teamRoot s.cfg.active.team
def State.trootAlt (s : State) : Nat := teamAlt s.cfg.active.team

/-- This module leads its team. -/
def State.leadNow (s : State) : Bool := teamLead s.teamNow == s.me

/-- The module whose time this one follows: none at a root (R312). -/
def State.reference (s : State) : Option Nat :=
  if s.me == s.troot || s.pit.freeRoot then none
  else if s.me == s.trootAlt then some s.troot
  else if s.leadNow then some (if s.pit.alt then s.trootAlt else s.troot)
  else some (teamLead s.teamNow)

/-- The modules to which TIME_REQ goes: the reference; TROOT_ALT while a time root has no count (R443); TROOT as well from a launch
pitch on, while a changed reference may return to it (R312). -/
def State.asks (s : State) : List Nat :=
  let own := if s.me == s.troot then (if s.pit.gcntSet then [] else [s.trootAlt]) else s.reference.toList
  (if s.pit.probe then own ++ [s.troot] else own).eraseDups.filter fun m => m != s.me

/-- The members of an image's team that are not absent in the active GRD_ABSENT (R319). -/
def State.membersOf (s : State) (im : TopoImage) : List Nat := presentOf s.cfg.active.absent (imageTeam im s.me)

/-- The present members of the running team. -/
def State.members (s : State) : List Nat := s.membersOf s.image

/-! ## Team messages (R313, Table PIT-1) -/

/-- Sublink 0 of a group is active: not DOWN, training, disabled, in a test loop or quarantined with its group (R313). -/
def State.steady (s : State) (g : GroupIx) : Bool :=
  (s.sub g 0).up && (s.group g).loopMode 0 == 0 && !(s.group g).quar

/-- The group that team messages use now: 6, or 8 while sublink 0 of group 6 is not active and until it has returned (R313). -/
def State.teamGroup (s : State) : GroupIx := if s.pit.onGroup8 || !s.steady 6 then 8 else 6

/-- A team message of this module. -/
def State.teamMsg (s : State) (typ arg : Byte) (c1 c2 c3 : Nat) : TeamMsg :=
  { typ := typ, team := BitVec.ofNat 8 (teamNo s.teamNow), src := BitVec.ofNat 8 s.me, arg := arg
    pnum := BitVec.ofNat 32 s.pit.pnum, c1 := BitVec.ofNat 64 c1, c2 := BitVec.ofNat 64 c2, c3 := BitVec.ofNat 64 c3 }

/-- A team message leaves for a module on the sublink of R313. -/
def State.toTeam (s : State) (dst : Nat) (m : TeamMsg) : State :=
  let g := s.teamGroup
  State.sendTeam { s with pit := { s.pit with onGroup8 := g == 8 } } g 0 dst m

/-- A team message leaves for each module of a list. -/
def State.toEach (s : State) (dsts : List Nat) (m : TeamMsg) : State := dsts.foldl (fun s d => s.toTeam d m) s

/-- A team message that arrives on a sublink 0: discarded in quarantine, and as a violation when it is of types 0x10 to 0x21 and
names another team (R313, check 7 of Table LNK-9). -/
def State.teamTakes (s : State) (g : GroupIx) (m : TeamMsg) (typ : Byte) (eff : State → State) : State :=
  if !s.hears g 0 || m.typ != typ then s
  else if (s.group g).quar then s.modGroup g fun k => { k with quarDrop := bump k.quarDrop }
  else if m.team.toNat != teamNo s.teamNow then s.violation g 0 0x15
  else eff s

/-! ## The pitch unit's broadcasts (R60, R61) -/

/-- The pitch unit's field. -/
def pitField : FieldIx := 35

/-- A 64-bit count as two payload words, low word first (DESIGN CHOICE, log entry 10). -/
def countWords (n : Nat) : List W32 := [BitVec.ofNat 32 n, BitVec.ofNat 32 (n / 2 ^ 32)]

/-- A broadcast of the pitch unit with a count. -/
def countMsg (typ : BitVec 4) (n : Nat) : CtlMsg :=
  { typ := typ, dest := pitField, src := pitField, bcast := true, plane := false, arg := 0, payload := countWords n }

/-- The tick message of a boundary (R61). -/
def State.tellTick (s : State) (n : Nat) : State := s.tellAll (countMsg 1 n)
/-- The hold grant of an extended boundary. -/
def State.tellHold (s : State) (n : Nat) : State := s.tellAll (countMsg 3 n)
/-- The GCNT sync broadcast (R61, R443). -/
def State.tellSync (s : State) : State := s.tellAll (countMsg 0xC s.gcnt)

/-! ## Readiness (R318, Table PIT-3) -/

/-- TEAM_DIGEST bytes 0–7 of an image as a little-endian number. -/
def TopoImage.digest8 (im : TopoImage) : Nat := leNat (im.teamDig.take 8)

/-- The reason that speaks against a launch: the lowest that holds, 0 when ready (Table PIT-3; log entry 19: reason 0x04 cannot be
judged from the proposal). -/
def State.launchReason (s : State) (slot : ImgIx) (digest : Nat) (archVer : W64) : Nat :=
  let k := s.glb.slots[slot]
  let im := k.image
  let w := s.cfg.active.team
  if k.st != .armed || (k.used && im.launch != 0) then 1
  else if im.team != teamNo w || im.member != teamMember w || im.teamSize != teamSize w then 2
  else if im.digest8 != digest then 3
  else if s.pit.lock != .locked then 5
  else if s.intk.archVer != archVer then 6
  else if s.pit.run != .idle then 7
  else if (s.me == teamRoot w || s.me == teamAlt w) && s.me != teamLead w then 8
  else 0

/-- The commit count of a launch: PITCH_US + 20 µs before it (R320). -/
def State.commitCount (s : State) (l : Launch) : Nat := l.count - (s.slotPitch l.slot + 20000)

/-- A launch in preparation rewritten. -/
def State.modLaunch (s : State) (f : Launch → Launch) : State := { s with pit := { s.pit with launch := s.pit.launch.map f } }

/-- A member's REPLY to its lead (R318). -/
def State.sendReply (s : State) (l : Launch) (reason : Nat) : State :=
  (s.modLaunch fun x => { x with said := BitVec.ofNat 8 reason }).toTeam (teamLead s.cfg.active.team)
    (s.teamMsg 0x21 (BitVec.ofNat 8 reason) l.count 0 0)

/-- A member answers a proposal again when its reason has changed before the commit count (R318). -/
def State.answerAgain (s : State) : State :=
  match s.pit.launch with
  | none => s
  | some l =>
    let r := s.launchReason l.slot l.digest l.archVer
    if l.commit.isSome || s.isLead || decide (s.commitCount l ≤ s.gcnt) || l.said == BitVec.ofNat 8 r then s
    else s.sendReply l r

/-! ## Benighting and lost members (R303, R326, R327) -/

/-- The bitmap of the modules of a list. -/
def moduleBits (ms : List Nat) : Nat := (List.range 16).foldl (fun a m => if ms.contains m then a + 2 ^ m else a) 0

/-- A DECISION of the lead (Table PIT-2). -/
def State.decisionMsg (s : State) (action holds bound abandon quantum : Nat) : TeamMsg :=
  s.teamMsg 0x11 (BitVec.ofNat 8 (action + 16 * holds)) bound abandon quantum

/-- The lead's hold quantum now (R323). -/
def State.quantum (s : State) : Nat := holdQuantum s.cfg.active.pitCfg

/-- The lead leads an active run that is not being abandoned. -/
def State.steers (s : State) : Bool := s.pit.run == .running && s.pit.captured && s.leadsRun

/-- The lead benights the pitch now running: the abandon count lies 20 µs ahead, every present member is told, one benighting only
(R326, R327, R329). -/
def State.benight (s : State) : State :=
  if !s.steers || s.pit.abandonAt.isSome then s
  else
    let a := s.gcnt + 20000
    ((State.toEach { s with pit := { s.pit with abandonAt := some a, decided := true, requests := [] } } s.members
      (s.decisionMsg 2 s.pit.holds s.pit.bound a s.quantum)).modEvent 3 5 2 (leBytes 2 (moduleBits s.pit.requests)))

/-- A member or lead declared lost is counted (Table FLT-10). -/
def State.countLost (s : State) : State := { s with flt := { s.flt with member := bump s.flt.member } }

/-- A member of the lead's team is lost (R303, R326). -/
def State.loseMember (s : State) (m : Nat) : State :=
  if s.steers && s.members.contains m then (s.countLost.modEvent 3 5 7 [BitVec.ofNat 8 m]).benight else s

/-- When a module was last heard of, in the model's time (R482). -/
def State.heardAt (s : State) (m : Nat) : Nat :=
  match s.pit.heard.find? fun x => x.1 == m with
  | some x => x.2
  | none => 0

/-- A module is heard of now. -/
def State.hear (s : State) (m : Nat) : State :=
  { s with pit := { s.pit with heard := (m, s.now) :: s.pit.heard.filter fun x => x.1 != m } }

end Sys2Proof.Machine
end

