-- ==== Sys2Proof/Machine/Time.lean ====
section
/-! DEFINITION. GCNT and the exchanges that keep it (R308 to R316, R443 to R445, R482): the tick of the clock, TIME_REQ and TIME_RESP,
intervals and lock states, references and their loss. Event times are those of the port's line interface, with the calibrated delay
already taken off (log entry 20). -/

namespace Sys2Proof.Machine

/-! ## The clock -/

/-- The parts of 10⁹ of a count that a rate gains. -/
def ratePart : Int := 1000000000

/-- The nanoseconds of the disciplined clock that pass in one of its oscillator's at a rate: one, or two or none when the rate has
gained or lost a whole count; with the part of a count kept (R308, R314). -/
def Pit.clock (p : Pit) (rate : Int) : Nat × Int :=
  let x := p.phase + rate
  if ratePart ≤ x then (2, x - ratePart) else if x ≤ -ratePart then (0, x + ratePart) else (1, x)

/-- The count that slewing adds or omits now, at most one in any 10 µs (R314). -/
def Pit.slewStep (p : Pit) (now : Nat) : Int :=
  if p.slew ≠ 0 ∧ p.slewAt + 10000 ≤ now then (if 0 < p.slew then 1 else -1) else 0

/-- GCNT after one more ns: once it is set it advances with the disciplined clock, and by one more or one less where slewing adds or
omits a count; it never goes back (R308, R314, R443). -/
def Pit.advance (p : Pit) (rate : Int) (now : Nat) : Pit :=
  if !p.gcntSet then p
  else
    let c := p.clock rate
    let d := p.slewStep now
    if d < 0 ∧ c.1 = 0 then { p with phase := c.2 }
    else
      { p with gcnt := bump p.gcnt ((c.1 : Int) + d).toNat, phase := c.2, slew := p.slew - d, slewAt := if d = 0 then p.slewAt else now }

/-- The rate at which the module's clock runs: TROOT's is its oscillator's own; every other keeps the rate it has learned, in HOLDOVER
and as a free-running root as well (R312, R314, R315). -/
def State.rate (s : State) : Int := if s.me == s.troot then 0 else s.pit.rate

/-- One ns without a command: the model's clock, the calendar clock and GCNT advance (R308, R459; log entry 5). -/
def State.advance (s : State) : State :=
  { s with now := s.now + 1, rtc := { s.rtc with ns := s.rtc.ns + 1 }, pit := s.pit.advance s.rate (s.now + 1) }

/-! ## Exchanges (R313, R314, R443, R444) -/

/-- A TIME_REQ to a module, remembered until its answer. -/
def State.askTime (s : State) (m : Nat) : State :=
  State.toTeam { s with pit := { s.pit with pendReq := s.pit.pendReq ++ [{ dst := m, t1 := s.gcnt, at_ := s.now, grp := s.teamGroup }] } }
    m (s.teamMsg 1 0 s.gcnt 0 0)

/-- TIME_REQ_SEND: a request to each module that this one asks (R313). -/
def execTimeReqSend (s : State) : Host.Outcome State Fault Refusal :=
  .next (
    let p := s.pit
    let s1 := { s with pit := { p with
      lastExch := if p.lastExch = 0 then s.now else p.lastExch
      rootAskAt := if s.me == s.troot && !p.gcntSet && p.rootAskAt.isNone then some s.now else p.rootAskAt } }
    s1.asks.foldl State.askTime s1)

/-- The lock state lets a module answer TIME_REQ (R444). -/
def Lock.answers (k : Lock) : Bool := k == .locked || k == .holdover

/-- TIME_REQ: a LOCKED or HOLDOVER module answers on the sublink that carried it; the sender is heard of (R313, R444, R482). -/
def execTimeReq (g : GroupIx) (u : SubIx) (m : TeamMsg) (s : State) : Host.Outcome State Fault Refusal :=
  .next (
    if !s.hears g u || m.typ != 1 then s
    else if (s.group g).quar then s.modGroup g fun k => { k with quarDrop := bump k.quarDrop }
    else
      let s1 := s.hear m.src.toNat
      if s1.pit.lock.answers then s1.sendTeam g u m.src.toNat (s1.teamMsg 2 0 m.c1.toNat s1.gcnt s1.gcnt) else s1)

/-- Twice the offset of an exchange: (T2 − T1) − (T4 − T3) (R314). -/
def offset2 (t1 t2 t3 t4 : Nat) : Int := ((t2 : Int) - t1) - ((t4 : Int) - t3)

/-- The round trip of an exchange: (T4 − T1) − (T3 − T2) (R314). -/
def roundTrip (t1 t2 t3 t4 : Nat) : Int := ((t4 : Int) - t1) - ((t3 : Int) - t2)

/-- GCNT is set; a time root reads LOCKED, another module enters ACQUIRE, and the sync broadcast goes out (R315, R443). -/
def State.setGcnt (s : State) (n : Nat) : State :=
  State.tellSync { s with pit := { s.pit with
    gcnt := BitVec.ofNat 64 n, gcntSet := true, good := 0, exchanges := [], slew := 0
    lock := if s.me == s.troot then .locked else .acquire } }

/-- The first valid exchange: T3 plus half the round trip, the time at this end taken from the model's clock (R443). -/
def State.firstExchange (s : State) (m : TeamMsg) (sent : Nat) : State :=
  let trip : Int := ((s.now - sent : Nat) : Int) - ((m.c3.toNat : Int) - m.c2.toNat)
  s.setGcnt ((m.c3.toNat : Int) + trip / 2).toNat

/-- A reference that had changed returns to TROOT when TROOT answers (R312). -/
def State.returnRoot (s : State) (m : Nat) : State :=
  if s.pit.probe && m == s.troot then
    { s with pit := { s.pit with probe := false, alt := false, freeRoot := false, exchanges := [] } }
  else s

/-- A valid exchange with a module: it counts, and enters the interval when the module is the reference (R314). -/
def State.exchange (s : State) (m : TeamMsg) (sent : Nat) : State :=
  let src := m.src.toNat
  let s1 := State.hear { s with pit := { s.pit with syncExch := bump s.pit.syncExch } } src
  if !s1.pit.gcntSet then State.firstExchange { s1 with pit := { s1.pit with lastExch := s1.now } } m sent
  else
    let s2 := s1.returnRoot src
    if s2.reference = some src then
      { s2 with pit := { s2.pit with
        lastExch := s2.now
        exchanges := s2.pit.exchanges ++
          [{ offset := offset2 m.c1.toNat m.c2.toNat m.c3.toNat s2.gcnt, trip := roundTrip m.c1.toNat m.c2.toNat m.c3.toNat s2.gcnt }] } }
    else s2

/-- TIME_RESP: it comes on the sublink that carried its request; the requester records T4 and computes offset and round trip, and one
that comes after 50 µs is discarded and counted (R313, R314). -/
def execTimeResp (m : TeamMsg) (s : State) : Host.Outcome State Fault Refusal :=
  .next (match s.pit.pendReq.find? fun x => x.dst == m.src.toNat && x.t1 == m.c1.toNat with
    | none => s
    | some x =>
      let s1 := { s with pit := { s.pit with pendReq := s.pit.pendReq.erase x } }
      if m.typ != 2 || !s.hears x.grp 0 then s
      else if (s.group x.grp).quar then s.modGroup x.grp fun k => { k with quarDrop := bump k.quarDrop }
      else if x.at_ + 50000 < s.now then { s1 with pit := { s1.pit with syncDrop := bump s1.pit.syncDrop } }
      else (s1.exchange m x.at_).answerAgain)

/-- TIME_RESP_TIMEOUT: a response that has not arrived within 50 µs is given up and counted (R314). -/
def execTimeRespTimeout (s : State) : Host.Outcome State Fault Refusal :=
  .next (match s.pit.pendReq.find? fun x => decide (x.at_ + 50000 ≤ s.now) with
    | none => s
    | some x => { s with pit := { s.pit with pendReq := s.pit.pendReq.erase x, syncDrop := bump s.pit.syncDrop } })

/-! ## Intervals and lock states (R314, R315, R445) -/

/-- An exchange placed by its round trip, behind equal ones. -/
def insertTrip (x : Exchange) : List Exchange → List Exchange
  | [] => [x]
  | y :: ys => if x.trip < y.trip then x :: y :: ys else y :: insertTrip x ys

/-- The sum of the doubled offsets of the 8 exchanges of least round trip: 16 times their average (R314). -/
def bestSum (xs : List Exchange) : Int :=
  (((xs.foldl (fun l x => insertTrip x l) []).take 8).map Exchange.offset).foldl (· + ·) 0

/-- The lock state after an interval of 8 or more exchanges whose average is `a` / 16 ns, with the count of good intervals (R315). -/
def Pit.judge (p : Pit) (a : Int) : Pit :=
  let good := decide (-64 ≤ a) && decide (a ≤ 64)
  match p.lock with
  | .acquire =>
    if !good then { p with good := 0 }
    else if 2 ≤ p.good then { p with good := 0, lock := .locked }
    else { p with good := p.good + 1 }
  | .locked => if a < -320 ∨ 320 < a then { p with lock := .acquire, good := 0 } else p
  | .holdover => if good then { p with lock := .locked } else p
  | .free => p

/-- The lock state after an interval with fewer than 8 valid exchanges (R315). -/
def Pit.starve (p : Pit) (now : Nat) : Pit :=
  match p.lock with
  | .locked => { p with lock := .holdover, heldSince := now, lostSaid := false }
  | .acquire => { p with good := 0 }
  | _ => p

/-- The PIT block after an interval at a module with a reference: it slews toward the average and trims its rate; with too few exchanges
it keeps the rate it has learned (R314, R315). -/
def Pit.interval (p : Pit) (now : Nat) : Pit :=
  if p.exchanges.length < 8 then { p.starve now with exchanges := [] }
  else
    let a := bestSum p.exchanges
    { (p.judge a) with exchanges := [], offset := a / 4, slew := a.tdiv 16, rate := Config.trimRate p.rate a }

/-- Every sublink that is not disabled is active or has stayed DOWN (R445). -/
def State.linksSettled (s : State) : Bool :=
  s.links.all fun g => g.sub.all fun u => u.st == .disabled || u.up || u.dead

/-- PHASE after start-up's domains: links, time, ready (R445, Table BOO-7). -/
def State.settlePhase (s : State) : State :=
  if s.glb.phase == .links || s.glb.phase == .time then
    { s with glb := { s.glb with phase :=
        if !s.linksSettled then .links else if s.pit.lock == .locked then .ready else .time } }
  else s

/-- SYNC_INTERVAL: at a root the lock state follows its count; elsewhere the interval is judged. A LOCKED module that enters ACQUIRE
raises an event, and a lead that does so is lost to its team (R314, R315). -/
def execSyncInterval (s : State) : Host.Outcome State Fault Refusal :=
  .next (
    if s.me == s.troot || s.pit.freeRoot then
      (State.settlePhase { s with pit := { s.pit with
        exchanges := [], lock := if s.pit.gcntSet then .locked else .free } }).answerAgain
    else
      let s1 := { s with pit := s.pit.interval s.now }
      let s2 : State := if s.pit.lock == .locked && s1.pit.lock == .acquire then (s1.modEvent 0 5 5).loseMember s.me else s1
      s2.settlePhase.answerAgain)

/-- HOLDOVER_ALIGNMENT_LOST: 2 ms in HOLDOVER raise the event "alignment lost" (R315). -/
def execHoldoverAlignmentLost (s : State) : Host.Outcome State Fault Refusal :=
  .next (if s.pit.lock == .holdover && !s.pit.lostSaid && decide (s.pit.heldSince + 2000000 ≤ s.now) then
      State.modEvent { s with pit := { s.pit with lostSaid := true } } 0 5 5
    else s)

/-- HOLDOVER_MEMBER_LOST: a member in HOLDOVER for 10 ms is a lost member to its lead (R303, R315). -/
def execHoldoverMemberLost (m : ModIx) (s : State) : Host.Outcome State Fault Refusal :=
  .next (
    let own : Bool := s.pit.lock == .holdover && decide (s.pit.heldSince + 10000000 ≤ s.now)
    if m.val == s.me && !own then s else s.loseMember m.val)

/-! ## References (R312, R313, R443) -/

/-- REFERENCE_FALLBACK: 1 ms without a valid exchange from TROOT. TROOT_ALT becomes the free-running root; another lead takes
TROOT_ALT as its reference (R312). -/
def execReferenceFallback (s : State) : Host.Outcome State Fault Refusal :=
  .next (
    if decide (s.now < s.pit.lastExch + 1000000) || s.me == s.troot || s.pit.freeRoot then s
    else if s.me == s.trootAlt then
      (if s.pit.gcntSet then State.answerAgain { s with pit := { s.pit with freeRoot := true, lock := .locked, exchanges := [] } } else s)
    else if s.leadNow && !s.pit.alt then { s with pit := { s.pit with alt := true, exchanges := [] } }
    else s)

/-- TIME_ROOT_RTC_SET: a time root that TROOT_ALT has not answered for 1 ms takes its count from the calendar clock, or 0 (R443). -/
def execTimeRootRtcSet (s : State) : Host.Outcome State Fault Refusal :=
  .next (match s.pit.rootAskAt with
    | none => s
    | some t =>
      if s.me == s.troot && !s.pit.gcntSet && decide (t + 1000000 ≤ s.now) then (s.setGcnt (if s.rtc.valid then s.rtcUs * 1000 else 0)).answerAgain
      else s)

/-- SYNC_SUBLINK_RETURN: sublink 0 of group 6 has been active for 1 ms, and exchanges return to it (R313). -/
def execSyncSublinkReturn (s : State) : Host.Outcome State Fault Refusal :=
  .next (if s.pit.onGroup8 && s.steady 6 && decide ((s.sub 6 0).steadyAt + 1000000 ≤ s.now) then
      { s with pit := { s.pit with onGroup8 := false } }
    else s)

/-! ## Lost partners (R482) -/

/-- MEMBER_LOST: no valid TIME_REQ has come from a present member for 100 µs (R482). -/
def execMemberLost (m : ModIx) (s : State) : Host.Outcome State Fault Refusal :=
  .next (if m.val != s.me && decide (s.heardAt m.val + 100000 ≤ s.now) then s.loseMember m.val else s)

/-- LEAD_LOST: no TIME_RESP has come from the lead for 100 µs; the member's run ends as at a benighting (R482). -/
def execLeadLost (s : State) : Host.Outcome State Fault Refusal :=
  .next (
    let lead := teamLead s.pit.teamRun
    if s.pit.run == .running && !s.leadsRun && s.pit.abandonAt.isNone && decide (s.heardAt lead + 100000 ≤ s.now) then
      (State.countLost { s with pit := { s.pit with abandonAt := some (s.gcnt + 20000) } }).modEvent 3 5 8 [BitVec.ofNat 8 lead]
    else s)

end Sys2Proof.Machine
end

