-- ==== Sys2Proof/Machine/Launch.lean ====
section
/-! DEFINITION. Launch (R183 to R186, R231, R317 to R321, R485, R486): the lead's choice of a count, proposals and replies, the
decision, the loading of an image in the launch pitch, and the launch count; with the rows whose end a proposal's answer follows. -/

namespace Sys2Proof.Machine

/-! ## Rows after which readiness may have changed (R318) -/

/-- ARM_CHECK_DONE: the check of Table TOP-7 ends; a passed one arms the slot, a failed one empties it with its code (R181). -/
def execArmCheckDone (slot : ImgIx) (s : State) : Host.Outcome State Fault Refusal := .next (s.checkSlot slot).answerAgain

/-- DISARM: the write of GLB_TOPO_CTL.DISARM. -/
def execDisarm (p : Path) (slot : ImgIx) (s : State) : Host.Outcome State Fault Refusal :=
  .next (s.guarded p topoCtl (s.wardenTakes p) fun s => (s.disarmSlot p slot).answerAgain)

/-- CONFIG_SWAP: at its boundary, or 10 µs after GO while FREE, the swap takes place (R449 to R451, R453). -/
def execConfigSwap (s : State) : Host.Outcome State Fault Refusal := .next s.swapIfDue.answerAgain

/-! ## GO (R317) -/

/-- PIT_LAUNCH_CTL lies at this CSR offset. -/
def launchCtl : BitVec 26 := 0x100028

/-- The earliest multiple of a pitch length at or after a count; with no pitch length the count itself. -/
def nextMultiple (p n : Nat) : Nat := if p = 0 then n else roundUp n p

/-- The launch count of R317 for a GO now, and whether it is of the third case. -/
def State.chooseCount (s : State) (slot : ImgIx) : Nat × Bool :=
  let im := (s.glb.slots[slot]).image
  if im.launch ≠ 0 then (im.launch, false)
  else if s.pit.reqLaunch ≠ 0 then (s.pit.reqLaunch.toNat, false)
  else (nextMultiple (s.slotPitch slot) (s.gcnt + 2 * s.slotPitch slot + 100000), true)

/-- A LAUNCH message: phase 0 propose, 1 commit, 2 cancel (Table PIT-2). -/
def State.launchMsg (s : State) (l : Launch) (phase : Nat) : TeamMsg :=
  s.teamMsg 0x20 (BitVec.ofNat 8 (phase + 4 * l.slot.val)) l.count l.digest l.archVer.toNat

/-- The members, other than the lead, of the team that a launch concerns (R319). -/
def State.launchTo (s : State) (l : Launch) : List Nat := (s.membersOf (s.glb.slots[l.slot]).image).filter fun m => m != s.me

/-- The lead proposes a count (R318). -/
def State.propose (s : State) (l : Launch) : State :=
  State.toEach { s with pit := { s.pit with launch := some l } } (s.launchTo l) (s.launchMsg l 0)

/-- A GO counted as missed (Table PIT-11). -/
def State.missLaunch (s : State) : State := { s with pit := { s.pit with launchMiss := bump s.pit.launchMiss } }

/-- A launch that is committed and has not begun. -/
def Pit.committed (p : Pit) : Bool :=
  match p.launch with
  | some l => l.commit == some true
  | none => false

/-- GO on a lead: a count is chosen and proposed, or the GO refused as too early or while a committed launch waits (R317). -/
def State.goLaunch (s : State) (slot : ImgIx) : State :=
  let c := s.chooseCount slot
  if c.1 < s.gcnt + 2 * s.slotPitch slot + 100000 || s.pit.committed then s.missLaunch
  else
    s.propose { count := c.1, slot := slot, digest := (s.glb.slots[slot]).image.digest8, archVer := s.intk.archVer, attempts := 1
                retry := c.2, replies := [], said := 0, commit := none, loaded := false }

/-- PIT_LAUNCH_CTL written with GO: SLOT is taken; on a module that is not a lead the GO is ignored and counted refused (R317). -/
def State.writeGo (s : State) (p : Path) (slot : ImgIx) : State :=
  let s1 := { s with pit := { s.pit with ctlSlot := slot } }
  if s.isLead then s1.goLaunch slot else s1.refuse p launchCtl

/-- LAUNCH_GO: GO written to PIT_LAUNCH_CTL by a session or the warden (R317). -/
def execLaunchGo (p : Path) (slot : ImgIx) (s : State) : Host.Outcome State Fault Refusal :=
  .next (s.guarded p launchCtl (classS p) fun s => s.writeGo p slot)

/-! ## Proposals, replies, decisions (R318, R320, R321) -/

/-- The phase of a LAUNCH message. -/
def launchPhase (m : TeamMsg) : Nat := bits m.arg.toNat 0 2

/-- The slot of a LAUNCH message. -/
def launchSlot (m : TeamMsg) : ImgIx := ⟨bits m.arg.toNat 2 1, Nat.mod_lt _ (by decide)⟩

/-- A proposal at a member: it is answered with the member's readiness (R318). -/
def State.takeProposal (s : State) (m : TeamMsg) : State :=
  let l : Launch :=
    { count := m.c1.toNat, slot := launchSlot m, digest := m.c2.toNat, archVer := m.c3, attempts := 0, retry := false, replies := []
      said := 0, commit := none, loaded := false }
  State.sendReply { s with pit := { s.pit with launch := some l } } l (s.launchReason l.slot l.digest l.archVer)

/-- A proposal while a committed launch waits: the member answers it and keeps the launch it has (R318; log entry 19). -/
def State.answerProposal (s : State) (m : TeamMsg) : State :=
  s.toTeam (teamLead s.cfg.active.team)
    (s.teamMsg 0x21 (BitVec.ofNat 8 (s.launchReason (launchSlot m) m.c2.toNat m.c3)) m.c1.toNat 0 0)

/-- LAUNCH_PROPOSE: the member answers with REPLY (R318). -/
def execLaunchPropose (g : GroupIx) (m : TeamMsg) (s : State) : Host.Outcome State Fault Refusal :=
  .next (s.teamTakes g m 0x20 fun s1 =>
    if launchPhase m != 0 || s1.isLead then s1 else if s1.pit.committed then s1.answerProposal m else s1.takeProposal m)

/-- REPLY: before the commit count the lead keeps the latest reply of each present member (R320). -/
def execReply (g : GroupIx) (m : TeamMsg) (s : State) : Host.Outcome State Fault Refusal :=
  .next (s.teamTakes g m 0x21 fun s1 =>
    match s1.pit.launch with
    | none => s1
    | some l =>
      if s1.isLead && l.commit.isNone && l.count == m.c1.toNat && decide (s1.gcnt < s1.commitCount l) then
        s1.modLaunch fun x =>
          { x with replies := (m.src.toNat, m.arg) :: x.replies.filter fun r => r.1 != m.src.toNat }
      else s1)

/-- The reason of a member at the commit count: the lead's own, or its latest reply; none where no reply has come. -/
def State.reasonOf (s : State) (l : Launch) (m : Nat) : Option Byte :=
  if m = s.me then some (BitVec.ofNat 8 (s.launchReason l.slot l.digest l.archVer))
  else (l.replies.find? fun r => r.1 == m).map Prod.snd

/-- The first present member, in member order, that is not ready. -/
def State.firstFailing (s : State) (l : Launch) : Option Nat :=
  (s.membersOf (s.glb.slots[l.slot]).image).find? fun m => s.reasonOf l m != some 0

/-- A cancel recorded: the reason of a member that has not replied is a free value. -/
def State.recordCancel (s : State) (m : Nat) (r : Option Byte) : State :=
  let s1 := { s with pit := { s.pit with
    failMod := BitVec.ofNat 4 m, reason := r.getD (Config.freeByte s.freeCtr), launchMiss := bump s.pit.launchMiss } }
  if r.isNone then s1.fresh else s1

/-- After a cancel: a count of the third case is proposed again a pitch later, at most 16 attempts in all (R320). -/
def State.retryLaunch (s : State) (l : Launch) : State :=
  if l.retry && decide (l.attempts < 16) then
    s.propose { l with count := l.count + s.slotPitch l.slot, attempts := l.attempts + 1, replies := [] }
  else { s with pit := { s.pit with launch := none } }

/-- LAUNCH_COMMIT_COUNT: at *L* − PITCH_US − 20 µs the lead commits when every present member is ready, otherwise it cancels and
may try again (R320). -/
def execLaunchCommitCount (s : State) : Host.Outcome State Fault Refusal :=
  .next (match s.pit.launch with
    | none => s
    | some l =>
      if !s.isLead || l.commit.isSome || decide (s.gcnt < s.commitCount l) then s
      else
        match s.firstFailing l with
        | none => (s.modLaunch fun x => { x with commit := some true }).toEach (s.launchTo l) (s.launchMsg l 1)
        | some m => ((s.recordCancel m (s.reasonOf l m)).toEach (s.launchTo l) (s.launchMsg l 2)).retryLaunch l)

/-- LAUNCH_COMMIT: received before the launch pitch, it launches the member (R321). -/
def execLaunchCommit (g : GroupIx) (m : TeamMsg) (s : State) : Host.Outcome State Fault Refusal :=
  .next (s.teamTakes g m 0x20 fun s1 =>
    match s1.pit.launch with
    | none => s1
    | some l =>
      if launchPhase m == 1 && !s1.isLead && l.commit.isNone && l.count == m.c1.toNat && decide (s1.gcnt < s1.loadCount l) then
        s1.modLaunch fun x => { x with commit := some true }
      else s1)

/-- LAUNCH_CANCEL: the member does not launch at the proposed count (R320). -/
def execLaunchCancel (g : GroupIx) (m : TeamMsg) (s : State) : Host.Outcome State Fault Refusal :=
  .next (s.teamTakes g m 0x20 fun s1 =>
    match s1.pit.launch with
    | none => s1
    | some l =>
      if launchPhase m == 2 && !s1.isLead && l.commit.isNone && l.count == m.c1.toNat then
        { s1 with pit := { s1.pit with launch := none } }
      else s1)

/-- LAUNCH_DECISION_MISSING: a member without a decision when the launch pitch begins does not launch and logs it; its OVERRUN
follows at the launch count (R321). -/
def execLaunchDecisionMissing (s : State) : Host.Outcome State Fault Refusal :=
  .next (match s.pit.launch with
    | none => s
    | some l =>
      if s.isLead || l.commit.isSome || decide (s.gcnt < s.loadCount l) then s
      else (s.modLaunch fun x => { x with commit := some false }).modEvent 3 5 4)

/-! ## Boundaries for registers and configuration (R449, Table CSR-7) -/

/-- What any pitch boundary does beside the run: a swap that is due, and the values that wait for a boundary (R401, R449, Tables
COR-11, FAB-7, INT-9, MEM-10). -/
def State.atBoundary (s : State) : State :=
  let s1 := s.swapIfDue
  { s1 with memu := { s1.memu with timeEff := s1.memu.timeout }
            intk := { s1.intk with scrubEff := s1.intk.scrubCfg }
            fab := { s1.fab with forceEff := s1.fab.forceVct }
            cores := s1.cores.map fun k => { k with boundEff := k.bound } }

/-! ## The launch pitch (R183, R231, R306, R472, R485, R486) -/

/-- A task context with an image's carrels and slice: its counters, cairns, parameters and fault record are cleared (R183, R224;
Tables CMD-15 and CMD-16). -/
def freshTask (cars : List Carrel) (len entry : Nat) : Task :=
  { carrels := Vector.ofFn fun i => cars.getD i.val {}, sliceLen := len, ended := len == 0, skipTo := entry
    active := entry != 0 && len != 0 }

/-- The carrels of a task context in an image. -/
def TopoImage.carrelsOf (im : TopoImage) (c t : Nat) : List Carrel :=
  match im.carrels.find? fun e => e.1 == c && e.2.1 == t with
  | some e => e.2.2
  | none => []

/-- A core as the launch pitch leaves it (R183, R228; Tables COR-3, COR-4). -/
def Core.launch (k : Core) (c : Nat) (im : TopoImage) (entry : Nat) : Core :=
  let e := im.cores.getD c { core := c, rsv := 0x04020004, arith := 0, slices := [], tasks := [] }
  { k with
    tasks := Vector.ofFn fun t => freshTask (im.carrelsOf c t.val) (e.tasks.getD t.val (0, 0)).2 entry
    rsv := e.rsv &&& 0x1FFFF807, arith := e.arith.setWidth 4, slices := Vector.ofFn fun i => e.slices.getD i.val 0 &&& 0xE07FFFFF
    gangs := [], engines := Vector.replicate 4 {}, setups := [], port := 0, peak := 0, sliceNow := none, guarded := false, sliceLate := none, carInfo := 0, carAddr := 0 }

/-- A field as the launch pitch leaves it: rectangles and slice owners of the image (R63, R64), no multicast credits (R485). -/
def Field.launch (k : Field) (f : FieldIx) (im : TopoImage) : Field :=
  let owner (i : Nat) : Byte :=
    match im.regions.find? fun r => r.slices.contains (f.val, i) with
    | some r => BitVec.ofNat 8 r.number
    | none => 0
  { k with
    rect := Vector.ofFn fun i => (match im.regionOf (4 * f.val + i.val) with
      | some r => r.rect &&& 0xFFFFFF00
      | none => 0x000F0F00)
    owner := Vector.ofFn fun i => owner i.val
    landCred := [] }

/-- A stream context at launch: nothing held, granted or sent, its lease timers running (R279, R393, R485). -/
def CtxEntry.launch (e : CtxEntry) (now : Nat) : Ctx := { decl := e, lease := e.leaseLen, holdAt := now, lendAt := now }

/-- This module's place on its chain (R307). -/
def Grd.launch (k : Grd) (im : TopoImage) (me : Nat) (absent : BitVec 16) : Grd :=
  let ms := match im.groups.find? fun g => g.role == 1 with
    | some g => presentOf absent g.members
    | none => [me]
  let i := ms.findIdx (· == me)
  { k with absentRun := absent, first := i == 0, last := i + 1 == ms.length
           pred := if i = 0 then 256 else ms.getD (i - 1) 256, succ := ms.getD (i + 1) 256, chunks := [], colls := [], issued := [],
           edges := [] }

/-- The DATA records written (R183). -/
def State.writeData (s : State) (im : TopoImage) : State := im.data.foldl (fun s d => s.storeRaw (addrLocal d.1) d.2 []) s

/-- The slots of a landing carrel granted at launch (R231): to a sender of this module by control message, to another module's as
credits owed. -/
def State.grantLanding (s : State) (c : CoreIx) (k : Carrel) : State :=
  if k.valid && k.land then s.grantSlots c k k.slots else s

/-- The credits a context's receiving end grants at launch for slices and stacks: WINDOW, and BELAY of its rope (Table FAB-4). -/
def TopoImage.window (im : TopoImage) (e : CtxEntry) : Nat :=
  e.window + (match im.ropes.find? fun r => r.rx && r.rope == e.rope && e.rope != 0 with
    | some r => r.belay
    | none => 0)

/-- Every grant of R231 and Table FAB-4 (R485): landing carrels first, then one belay grant per context. -/
def State.grantAll (s : State) (im : TopoImage) : State :=
  let s1 := (List.finRange 256).foldl (fun s c => (List.finRange 4).foldl (fun s t => (List.finRange 8).foldl (fun s k =>
    s.grantLanding c ((s.task c t).data k)) s) s) s
  let s2 := im.ctxs.foldl (fun s e =>
    if bit e.dir 1 && im.window e != 0 && e.peer != 0xFF then s.owe e.ctx (im.window e) else s) s1
  im.ctxs.foldl (fun s e => match s.ctx? e.ctx with
    | some k => if k.owed = 0 then s else s.grantOwed k false
    | none => s) s2

/-- Sum of a counter over all cores. -/
def State.sumCnt (s : State) (f : CoreCount → W64) : Nat := (s.cores.toList.map fun k => (f k.cnt).toNat).sum

/-- The warden's loading of an image for a launch, with what the launch pitch captures (R183, R280, R306, R335, R486; Table PIT-7). -/
def State.loadRun (s : State) (l : Launch) : State :=
  let im := (s.glb.slots[l.slot]).image
  let entry := s.glb.entry.toNat
  let s1 := { s with
    cores := Vector.ofFn fun c => (s.cores[c]).launch c.val im entry
    fields := Vector.ofFn fun f => (s.fields[f]).launch f im
    mcast := [], held := []
    glb := { s.glb with entry := 0 }
    intk := { s.intk with verRun := s.intk.archVer, passes := [] }
    fab := { s.fab with ctxs := im.ctxs.map fun (e : CtxEntry) => e.launch s.now, open_ := [] }
    grd := s.grd.launch im s.me s.cfg.active.absent
    aud := { s.aud with thr := 0, inexact0 := s.sumCnt CoreCount.inexact, ovf0 := s.sumCnt CoreCount.ovf }
    pit := { s.pit with
      teamRun := s.cfg.active.team, captured := true, slot := l.slot, image := im, entry := entry, holdsRun := 0, arrivals := [],
      probe := s.pit.alt || s.pit.freeRoot, launch := some { l with loaded := true } } }
  ((s1.loadFaultTables.writeData im).grantAll im).tellTick l.count

/-- LAUNCH_PITCH_START: the launch pitch of a committed launch begins and the warden loads the image; a module whose slot is not armed,
or with a run active, does not launch and tells its lead (R183, R184). -/
def execLaunchPitchStart (s : State) : Host.Outcome State Fault Refusal :=
  .next (match s.pit.launch with
    | none => s
    | some l =>
      if l.commit != some true || l.loaded || decide (s.gcnt < s.loadCount l) || !s.glb.wardenUp then s
      else
        let s1 := s.atBoundary
        if (s1.glb.slots[l.slot]).st == .armed && s1.pit.run == .idle then s1.loadRun l
        else
          let r := if (s1.glb.slots[l.slot]).st == .armed then 7 else 1
          let s2 : State := if s1.isLead then s1 else s1.sendReply l r
          { s2 with pit := { s2.pit with launch := none } })

/-! ## The launch count (R184, R310, R321, R486) -/

/-- OVERRUN to the lead (R321, R325). -/
def State.sendOverrun (s : State) (lead bound : Nat) : State :=
  State.toTeam { s with pit := { s.pit with overrun := bump s.pit.overrun } } lead (s.teamMsg 0x12 0 bound 0 0)

/-- Every task context with commands starts fetching. -/
def Core.begin (k : Core) : Core :=
  { k with tasks := k.tasks.map fun t => { t with active := t.active || (t.sliceLen != 0 && !t.ended) } }

/-- The run begins with its first pitch (R184, R310, R486). -/
def State.beginRun (s : State) (l : Launch) : State :=
  { s with
    cores := s.cores.map Core.begin
    glb := { s.glb with slots := upd s.glb.slots l.slot fun k => { k with st := .running, runs := k.runs + 1, used := true } }
    fab := { s.fab with acc := {} }
    flt := { s.flt with clkLog := [] }
    pit := { s.pit with
      run := .running, launchAt := l.count, pnum := s.pit.entry, holds := 0, beginAt := l.count, bound := l.count + s.slotPitch l.slot
      begins := [(s.pit.entry, l.count)], guardDone := false, wantHold := false, requests := [], decided := false, applied := false
      abandonAt := none, tickBad := 0, probe := false, launch := none
      heard := (List.range 16).map fun m => (m, s.now) } }

/-- LAUNCH_COUNT: at the launch count the first pitch begins; a member that had no decision sends OVERRUN instead (R184, R321). -/
def execLaunchCount (s : State) : Host.Outcome State Fault Refusal :=
  .next (match s.pit.launch with
    | none => s
    | some l =>
      if decide (s.gcnt < l.count) || l.commit.isNone then s
      else if l.loaded then s.beginRun l
      else
        let s1 := { s with pit := { s.pit with launch := none } }
        if l.commit = some false then s1.sendOverrun (teamLead s.cfg.active.team) l.count else s1)

end Sys2Proof.Machine
end

