-- ==== Sys2Proof/Machine/Pitch.lean ====
section
/-! DEFINITION. The pitches of a run (R166, R169, R185, R310, R311, R322 to R328, R402, R483): boundaries, guard points, holds,
benighting and abandoning, congestion maps; and the log's own rows (R474, R477). -/

namespace Sys2Proof.Machine

/-! ## Requests for a hold (R169, R185, R322) -/

/-- A MARK held in a CTL queue is unmet for pitch `p`: its pitch is `p` or earlier, its wait condition has a threshold and does not
hold (R169). -/
def State.markUnmet (s : State) (c : CoreIx) (t : TaskIx) (p : Nat) (e : QEntry) : Bool :=
  wOpc e.word == 0x08 && decide (wPnum e.word ≤ p) && wWthr e.word != 0 && !s.waitMet c t e.word

/-- The unmet MARKs of a core for pitch `p`. -/
def State.unmet (s : State) (c : CoreIx) (p : Nat) : Nat :=
  ((List.finRange 4).map fun t => ((s.task c t).ctl.filter (s.markUnmet c t p)).length).sum

/-- The pitch is the last one planned or later (R185). -/
def State.lastPitch (s : State) : Bool := decide (s.image.pitches = s.pit.pnum + 1)

/-- The core has a task context that has neither ended nor stopped. -/
def Core.unfinished (k : Core) : Bool := k.tasks.any fun t => !t.over

/-- The core requests a hold at the present pitch's guard point. -/
def State.requests (s : State) (c : CoreIx) : Bool :=
  s.unmet c s.pit.pnum != 0 || (s.lastPitch && (s.core c).unfinished)

/-- A hold request on the control network: ARG the core (Table WAF-8, log entry 10). -/
def holdMsg (c : CoreIx) : CtlMsg :=
  { typ := 2, dest := pitField, src := coreField c, bcast := false, plane := false, arg := BitVec.ofNat 12 c.val, payload := [] }

/-- A core's part of a guard point: each unmet MARK counts, one request leaves (R169, R322). -/
def State.askHold (s : State) (c : CoreIx) : State :=
  if s.requests c then
    (s.modCnt c fun k => { k with markHold := bump k.markHold (s.unmet c s.pit.pnum) }).tell (holdMsg c)
  else s

/-- The module's one HOLD_REQ for the present guard point (R322). -/
def State.sendHoldReq (s : State) : State :=
  if s.pit.wantHold then s
  else
    State.toTeam { s with pit := { s.pit with wantHold := true, holdReq := bump s.pit.holdReq } } (teamLead s.pit.teamRun)
      (s.teamMsg 0x10 0 s.pit.bound 0 0)

/-- The guard point's count (R322). -/
def State.guardAt (s : State) : Nat := s.pit.bound - 50000

/-- GUARD_POINT: 50 µs before the pitch's end the cores pass their hold requests, and the module sends one HOLD_REQ when any core has
one (R169, R185, R322). -/
def execGuardPoint (s : State) : Host.Outcome State Fault Refusal :=
  .next (if s.pit.run != .running || s.pit.guardDone || decide (s.gcnt < s.guardAt) then s
    else
      let any : Bool := (List.finRange 256).any s.requests
      let s1 := (List.finRange 256).foldl State.askHold { s with pit := { s.pit with guardDone := true } }
      if any then s1.sendHoldReq else s1)

/-! ## The lead's decision (R323, R326, R327) -/

/-- HOLD_REQ: collected from the guard point on and before the decision count; a request at the count or later, or against a boundary
already passed or moved, is late (R311, R323). -/
def execHoldReq (g : GroupIx) (m : TeamMsg) (s : State) : Host.Outcome State Fault Refusal :=
  .next (s.teamTakes g m 0x10 fun s1 =>
    if !s1.steers then s1
    else if decide (m.c1.toNat < s1.pit.bound) || (m.c1.toNat == s1.pit.bound && decide (s1.guardAt + 5000 ≤ s1.gcnt)) then
      { s1 with pit := { s1.pit with lateReq := bump s1.pit.lateReq } }
    else if m.c1.toNat != s1.pit.bound || decide (s1.gcnt < s1.guardAt) || s1.pit.decided then s1
    else { s1 with pit := { s1.pit with requests := (m.src.toNat :: s1.pit.requests).eraseDups } })

/-- A DECISION of the lead leaves for every present member, itself included. -/
def State.decide_ (s : State) (action holds bound : Nat) : State :=
  (State.toEach { s with pit := { s.pit with decided := true, requests := [] } } s.members
    (s.decisionMsg action holds bound 0 s.quantum))

/-- HOLD_DECISION_COUNT: none without a request, a hold while fewer than 4 are granted, else benighting (R323, R329). -/
def execHoldDecisionCount (s : State) : Host.Outcome State Fault Refusal :=
  .next (
    let p := s.pit
    if !s.steers || p.decided || p.abandonAt.isSome || decide (s.gcnt < s.guardAt + 5000) then s
    else if p.requests.isEmpty then s.decide_ 0 p.holds p.bound
    else if p.holds < 4 then
      (s.decide_ 1 (p.holds + 1) (p.bound + s.quantum)).modEvent 0 5 1 (leBytes 2 (moduleBits p.requests))
    else s.benight)

/-- A hold applied: the pitch's end moves and a new guard point lies before it (R310, R323, R324). -/
def State.applyHold (s : State) (quantum : Nat) : State :=
  let b := s.pit.bound + quantum
  (State.tellHold { s with pit := { s.pit with
    bound := b, holds := s.pit.holds + 1, holdsRun := s.pit.holdsRun + 1, holdGrant := bump s.pit.holdGrant
    guardDone := false, wantHold := false, decided := false, requests := [], applied := false } } b).tellTick b

/-- A DECISION applied: none, a hold, or a benighting; a hold never joins a benighting (R324, R326, R327). -/
def State.applyDecision (s : State) (m : TeamMsg) : State :=
  let s1 := { s with pit := { s.pit with applied := true } }
  match bits m.arg.toNat 0 2 with
  | 0 => s1.tellTick s.pit.bound
  | 1 => if s.pit.abandonAt.isSome || decide (4 ≤ s.pit.holds) then s1 else s1.applyHold m.c3.toNat
  | 2 => if s.pit.abandonAt.isSome then s1
    else State.tellTick { s1 with pit := { s1.pit with abandonAt := some m.c2.toNat } } s.pit.bound
  | _ => s1

/-- DECISION: applied before *G* + 25 µs of the pitch it names; a later one is discarded and logged (R324). -/
def execDecision (g : GroupIx) (m : TeamMsg) (s : State) : Host.Outcome State Fault Refusal :=
  .next (s.teamTakes g m 0x11 fun s1 =>
    if s1.pit.run != .running then s1
    else if m.pnum.toNat != s1.pit.pnum || decide (s1.guardAt + 25000 ≤ s1.gcnt) then s1.modEvent 0 5 3
    else s1.applyDecision m)

/-- DECISION_MISSING: without a DECISION by *G* + 25 µs the member keeps its boundary and logs it (R324). -/
def execDecisionMissing (s : State) : Host.Outcome State Fault Refusal :=
  .next (if s.pit.run != .running || s.pit.applied || decide (s.gcnt < s.guardAt + 25000) then s
    else (State.tellTick { s with pit := { s.pit with applied := true } } s.pit.bound).modEvent 0 5 3)

/-- OVERRUN_RECEIVED: the lead benights the pitch now running (R326). -/
def execOverrunReceived (g : GroupIx) (m : TeamMsg) (s : State) : Host.Outcome State Fault Refusal :=
  .next (s.teamTakes g m 0x12 State.benight)

/-- ABANDON_COUNT: at *A* every present member stops issuing and discards what has not started (R328). -/
def execAbandonCount (s : State) : Host.Outcome State Fault Refusal :=
  .next (match s.pit.abandonAt with
    | none => s
    | some a => if s.pit.run == .running && decide (a ≤ s.gcnt) then s.abandonNow else s)

/-! ## Boundaries (R185, R310, R325, R328) -/

/-- OVERRUN is due at the boundary that ends the pitch: an unmet MARK for it or an earlier one, or work left after the last planned
pitch (R325). -/
def State.overrunDue (s : State) : Bool :=
  s.pit.run == .running && ((List.finRange 256).any (fun c => s.unmet c s.pit.pnum != 0) || (s.lastPitch && !s.runOver))

/-- The next pitch begins at the boundary, with no holds granted in it (R310). -/
def State.nextPitch (s : State) : State :=
  let b := s.pit.bound
  { s with
    pit := { s.pit with
      pnum := s.pit.pnum + 1, holds := 0, beginAt := b, bound := b + s.pitchNs, begins := s.pit.begins ++ [(s.pit.pnum + 1, b)]
      guardDone := false, wantHold := false, requests := [], decided := false, applied := false }
    intk := { s.intk with pitchesTo := s.intk.pitchesTo + 1 }
    flt := { s.flt with clkLog := [] } }

/-- What the run does at its boundary: it ends, or its next pitch begins, with OVERRUN sent when work is late (R185, R310, R325,
R328). -/
def State.runBoundary (s : State) : State :=
  let s1 : State := if s.overrunDue then s.sendOverrun (teamLead s.pit.teamRun) s.pit.bound else s
  if s.runOver then (s1.endRun.answerAgain).autoReset else s1.nextPitch.answerAgain

/-- A boundary while no run is active, at most once for each multiple of 1,000,000 (R479, R495). -/
def State.idleBoundary (s : State) : State :=
  if s.gridNow = s.pit.idleAt then s
  else State.answerAgain (State.atBoundary { s with pit := { s.pit with idleAt := s.gridNow }, flt := { s.flt with clkLog := [] } })

/-- PITCH_BOUNDARY: at the count of a boundary the map closes, swaps and boundary values take effect, and the run ends or goes on; while no run is
active the boundaries are the multiples of 1,000,000 (R449, R495). -/
def execPitchBoundary (s : State) : Host.Outcome State Fault Refusal :=
  .next (
    if s.running then (if s.gcnt < s.pit.bound then s else s.rollMap.atBoundary.runBoundary)
    else s.idleBoundary)

/-! ## FLT_CTL and MSI-X (R474, R477, R483) -/

/-- FLT_CTL lies at this CSR offset. -/
def fltCtl : BitVec 26 := 0xB00000

/-- FLT_CTL.ABANDON: on a lead it benights the running pitch; on another module it is refused (R483). -/
def State.writeAbandon (s : State) (p : Path) : State := if s.leadNow then s.benight else s.refuse p fltCtl

/-- ABANDON: written by a session or the warden (R483). -/
def execAbandon (p : Path) (s : State) : Host.Outcome State Fault Refusal :=
  .next (s.guarded p fltCtl (classS p) fun s => s.writeAbandon p)

/-- The log ring and FLT_LOG_WR are cleared (R474). -/
def State.clearLog (s : State) : State := { s with flt := { s.flt with log := [], wr := 0 } }

/-- LOG_CLR: written by a session or the warden (R474). -/
def execLogClr (p : Path) (s : State) : Host.Outcome State Fault Refusal := .next (s.guarded p fltCtl (classS p) State.clearLog)

/-- MSIX_HOLD_EXPIRE: the held message of a port is sent once 100 µs have passed since its last (R477). -/
def execMsixHoldExpire (port : PortIx) (s : State) : Host.Outcome State Fault Refusal :=
  .next (if s.flt.held[port] && s.msixFree port then
      let s1 := { s with flt := { s.flt with held := s.flt.held.set port false } }
      if s.pins.msixEn[port] then
        { s1 with out := s1.out ++ [.msix port 0], flt := { s1.flt with lastMsix := s1.flt.lastMsix.set port (some s1.now) } }
      else s1
    else s)

end Sys2Proof.Machine
end

