-- ==== Sys2Proof/Machine/Registers.lean ====
section
/-! DEFINITION. What every register of the catalogue reads (Tables CSR-3 to CSR-9 with the layout tables they name; R6 to R11, R491,
R494 to R496). -/

namespace Sys2Proof.Machine

/-- The value of a register: one word, or 64 bits over two words (R7). -/
inductive RegVal where
  | word (v : Nat) | wide (v : Nat)
  deriving DecidableEq, Repr

/-- A register word packed from fields (value, lowest bit). -/
def pack (fs : List (Nat × Nat)) : Nat := fs.foldl (fun a f => a + f.1 * 2 ^ f.2) 0

/-- Consecutive 64-bit counters from offset `base`: the one that starts at `o`. -/
def wideRegs (base o : Nat) (cs : List W64) : Option RegVal :=
  if base ≤ o ∧ (o - base) % 8 = 0 then (cs[(o - base) / 8]?).map fun c => .wide c.toNat else none

/-- Consecutive words from offset `base`. -/
def wordRegs (base o : Nat) (cs : List Nat) : Option RegVal :=
  if base ≤ o ∧ (o - base) % 4 = 0 then (cs[(o - base) / 4]?).map .word else none

/-- The word of a byte table at offset `o`, zero beyond its bytes. -/
def tableWord (bs : List Byte) (o : Nat) : RegVal := .word (fieldAt bs o 4)

/-- A temperature as a register field: 10 bits in units of 0.25 °C; a negative reading shows 0. -/
def tempField (t : Int) : Nat := min 1023 t.toNat

/-! ## GLB and PIT (Table CSR-6) -/

def phaseCode : Phase → Nat
  | .warden => 0
  | .nvm => 1
  | .mesh => 2
  | .domains => 3
  | .links => 4
  | .time => 5
  | .ready => 6
  | .safe => 7

def slotCode : SlotSt → Nat
  | .empty => 0
  | .checking => 1
  | .armed => 2
  | .running => 3

/-- GLB_TOPO_STAT of a slot (Table TOP-6). -/
def ImgSlot.stat (k : ImgSlot) : Nat := pack [(slotCode k.st, 30), (k.err.toNat, 16), (k.runs.toNat, 0)]

/-- The mailbox of a host port path. -/
def State.mboxOf (s : State) (p : Path) : Option Mbox :=
  match p with
  | .hostA => some s.glb.mbox[(0 : Fin 2)]
  | .hostB => some s.glb.mbox[(1 : Fin 2)]
  | _ => none

/-- GLB_MBOX_CTL (Table CSR-5). -/
def Mbox.ctl (k : Mbox) : Nat :=
  pack [(ofFlag k.inBusy, 30), (ofFlag k.outRdy, 29), (k.outLen.toNat, 13), (k.inLen.toNat, 0)]

/-- GLB registers (Tables CSR-3, CSR-4, CSR-5, BOO-7, TOP-4, TOP-6, FLT-9). -/
def State.readGlb (s : State) (p : Path) (o : Nat) : Option RegVal :=
  let g := s.glb
  match o with
  | 0x00 => some (.word (pack [(0xB1, 24), (g.modIx.val, 20), (ofFlag s.nvm.binX, 16), (countBits 256 g.coreEn.toNat, 0)]))
  | 0x20 => some (.word (pack [(phaseCode g.phase, 29), (ofFlag g.img, 28), (ofFlag g.fallback, 27), (ofFlag g.cfgDef, 26),
      (ofFlag g.cfgImg, 25), (ofFlag g.belowBin, 24), (g.nvmErr.toNat, 8)]))
  | 0x30 => some (.word 0)
  | 0x100 => some (.wide (g.slots[(0 : ImgIx)]).base.toNat)
  | 0x108 => some (.wide (g.slots[(1 : ImgIx)]).base.toNat)
  | 0x110 => some (.word 0)
  | 0x118 => some (.word (g.slots[(0 : ImgIx)]).stat)
  | 0x11C => some (.word (g.slots[(1 : ImgIx)]).stat)
  | 0x120 => some (.word g.entry.toNat)
  | 0x220 => some (.word (pack [(g.lastPath.toNat, 30), (g.lastOff.toNat, 0)]))
  | 0x300 => some (.word (match s.mboxOf p with
      | some k => k.ctl
      | none => 0))
  | _ =>
    if 0x40 ≤ o ∧ o < 0x60 then wordRegs 0x40 o ((List.range 8).map fun k => bits g.coreEn.toNat (32 * k) 32)
    else if 0x200 ≤ o ∧ o < 0x220 then wideRegs 0x200 o g.refused.toList
    else if 0x1000 ≤ o ∧ o < 0x3000 ∧ o % 4 = 0 then
      match s.mboxOf p with
      | some k => some (if o < 0x2000 then tableWord k.inBytes (o - 0x1000) else tableWord k.outBytes (o - 0x2000))
      | none => some (.word 0)
    else none

def lockCode : Lock → Nat
  | .free => 0
  | .acquire => 1
  | .locked => 2
  | .holdover => 3

/-- RSTATE of Table PIT-8. -/
def Pit.rstate (p : Pit) : Nat :=
  match p.run with
  | .running => 2
  | .abandoning => 3
  | .idle => if p.launch.isSome then 1 else 0

/-- PIT_STAT (Table PIT-8). -/
def State.pitStat (s : State) : Nat :=
  pack [(s.pit.pnum % 2 ^ 24, 8), (s.pit.holds, 5), (s.pit.rstate, 3), (ofFlag (s.pit.captured && s.leadsRun), 2),
    (ofFlag (s.glb.started && s.me == s.troot), 1)]

/-- PIT registers (Tables PIT-5 to PIT-11). -/
def State.readPit (s : State) (p : Path) (o : Nat) : Option RegVal :=
  let k := s.pit
  match o with
  | 0x00 => some (.wide k.gcnt.toNat)
  | 0x08 => some (.wide k.bound)
  | 0x10 => some (.word (s.seen p).pitCfg.toNat)
  | 0x14 => some (.word (s.seen p).team.toNat)
  | 0x18 => some (.word s.pitStat)
  | 0x1C => some (.word (pack [(lockCode k.lock, 30), (if s.glb.started then (s.reference.getD s.me) % 16 else 0, 26), (ofFlag k.alt, 25),
      (unsigned 16 k.offset, 0)]))
  | 0x20 => some (.wide k.reqLaunch.toNat)
  | 0x28 => some (.word (pack [(k.reason.toNat, 24), (k.failMod.toNat, 20), (k.ctlSlot.val, 0)]))
  | _ => wideRegs 0x1000 o [k.holdReq, k.holdGrant, k.lateReq, k.overrun, k.benighted, k.launchMiss, k.syncExch, k.syncDrop]

/-! ## CFG, RTC, PWR (Tables CSR-6 and CSR-7) -/

def sessPathCode : SessPath → Nat
  | .hostA => 0
  | .hostB => 1
  | .mgmt => 2

/-- CFG_SESS of a session. -/
def State.sessWord (s : State) (i : Fin 4) : Nat :=
  match s.cfg.sessions[i] with
  | some k => pack [(1, 31), (sessPathCode k.path, 29), (min (2 ^ 17 - 1) (ceilDiv (k.ends - s.now) 1000000000), 0)]
  | none => 0

def cfgCode : CfgSt → Nat
  | .idle => 0
  | .loading => 1
  | .armed => 2

/-- CFG registers (Tables BOO-9 to BOO-12). -/
def State.readCfg (s : State) (p : Path) (o : Nat) : Option RegVal :=
  let k := s.cfg
  match o with
  | 0x00 => some (.word (ofFlag (s.viewOf p)))
  | 0x04 => some (.word 0)
  | 0x08 => some (.wide k.swapAt.toNat)
  | 0x10 => some (.wide k.imgBase.toNat)
  | 0x18 => some (.word (pack [(cfgCode k.st, 30), (k.err.toNat, 16), (k.swaps.toNat, 0)]))
  | 0x20 => some (.wide k.gen.toNat)
  | 0x28 => some (.wide k.genAct.toNat)
  | 0x110 => some (.word (pack [(min 255 s.nvm.fails, 24), (min (2 ^ 24 - 1) (ceilDiv (s.nvm.lockEnd - s.rtc.ns) 1000000000), 0)]))
  | _ =>
    if 0x100 ≤ o ∧ o < 0x110 then wordRegs 0x100 o ((List.finRange 4).map s.sessWord)
    else (mirReg? (0x200000 + o)).map fun r => .word ((s.seen p).get r).toNat

/-- RTC registers (Table BOO-13). -/
def State.readRtc (s : State) (o : Nat) : Option RegVal :=
  match o with
  | 0x00 => some (.wide (s.rtcUs % 2 ^ 64))
  | 0x08 => some (.wide 0)
  | 0x10 => some (.word (pack [(ofFlag s.rtc.valid, 31), (ofFlag s.rtc.lost, 30), (s.rtc.setCnt.toNat, 0)]))
  | _ => none

/-- The hottest reading of a list of (source, reading), first on ties. -/
def hottestOf (xs : List (Nat × Int)) : Nat × Int :=
  xs.foldl (fun b x => if b.2 < x.2 then x else b) (0, 0)

/-- PWR_THERM (Table PWR-6). -/
def State.therm (s : State) : Nat :=
  let core := hottestOf ((List.finRange 256).filterMap fun c => (s.core c).hottest.map fun x => (c.val, x.2))
  let stk := hottestOf ((List.finRange 64).map fun f => (f.val, (s.field f).stkTemp))
  pack [(tempField core.2, 22), (core.1, 14), (tempField stk.2, 4)]

def domCode : DomSt → Nat
  | .off => 0
  | .switchingOn => 1
  | .initialising => 2
  | .onFenced => 3
  | .on => 4
  | .fenced => 5
  | .switchingOff => 6

/-- PWR_DOM_STAT of a domain (Table PWR-7). -/
def Domain.stat (k : Domain) : Nat := pack [(domCode k.st, 29), (k.stage, 25), (k.seq.toNat, 0)]

/-- PWR registers (Tables PWR-4 to PWR-9). -/
def State.readPwr (s : State) (p : Path) (o : Nat) : Option RegVal :=
  match o with
  | 0x00 => some (.word 0)
  | 0x04 => some (.word (s.seen p).budget.toNat)
  | 0x08 => some (.word s.therm)
  | 0x0C => some (.word (pack [(s.nvm.shutCause.toNat, 30), (s.nvm.shutSrc.toNat, 22)]))
  | _ =>
    if 0x100 ≤ o ∧ o < 0x260 then wordRegs 0x100 o ((s.pwr.dom.toList).map Domain.stat)
    else if 0x400 ≤ o ∧ o < 0x420 then
      wordRegs 0x400 o ((List.range 8).map fun k => pack ((List.range 8).map fun i =>
        ((s.fields.toList.getD (8 * k + i) {}).zoneCeil - 1, 4 * i)))
    else wideRegs 0x1000 o [s.pwr.reverse, s.pwr.refused, s.pwr.parked, s.pwr.policy, s.pwr.skew]

/-! ## LNK (Table CSR-7) -/

def linkCode : LinkSt → Nat
  | .down => 0
  | .training => 1
  | .active => 2
  | .txNarrow => 3
  | .fullBiv => 4
  | .disabled => 5

/-- LNK_STAT of a sublink (Table LNK-13). -/
def Sublink.stat (k : Sublink) : Nat :=
  pack [(linkCode k.st, 29), (ofFlag k.rxNarrow, 28), (ofFlag (k.half || k.txHalf), 27), (min 2 k.spares, 25), (k.peer.toNat, 16), (min 0x7FF k.unacked, 0)]

/-- The counters of a sublink in the order of Table LNK-14. -/
def SubCount.list (k : SubCount) : List W64 :=
  [k.flitsTx, k.flitsRx, k.fecCorr, k.fecBad, k.bad, k.replay, k.retryNs, k.wrap, k.retrain, k.lane, k.bivIn, k.bivAb, k.bivNs]

/-- LNK registers of a port group (Tables LNK-10 to LNK-14, CMB-4). -/
def State.readLnk (s : State) (p : Path) (g : GroupIx) (o : Nat) : Option RegVal :=
  let k := s.group g
  let u0 := k.sub[(0 : SubIx)]
  let u1 := k.sub[(1 : SubIx)]
  match o with
  | 0x00 => some (.word k.dis.toNat)
  | 0x04 => some (.word ((s.seen p).biv[g]).toNat)
  | 0x08 => some (.word k.violCfg.toNat)
  | 0x0C => some (.word (pack [(ofFlag k.quar, 31), (k.lastCode.toNat, 24), (min 0xFFFF k.score, 0)]))
  | 0x10 => some (.word u0.stat)
  | 0x14 => some (.word u1.stat)
  | 0x20 => some (.word k.loop.toNat)
  | 0x40 => some (.wide u0.laneAct.toNat)
  | 0x48 => some (.wide u0.laneBad.toNat)
  | 0x50 => some (.wide u1.laneAct.toNat)
  | 0x58 => some (.wide u1.laneBad.toNat)
  | _ =>
    if o < 0x1100 then wideRegs 0x1000 o u0.cnt.list
    else if o < 0x1200 then wideRegs 0x1100 o u1.cnt.list
    else wideRegs 0x1200 o [k.viol, k.nackTx, k.nackRx, k.nackSupp, k.quarDrop]

/-! ## FAB, INT, GRD, MEM, AUD, FLT (Table CSR-8) -/

/-- FAB registers (Tables FAB-5 to FAB-13). -/
def State.readFab (s : State) (p : Path) (o : Nat) : Option RegVal :=
  let k := s.fab
  match o with
  | 0x00 => some (.word (pack [(ofFlag k.forceVct, 2), (ofFlag s.ropeRegime, 1)]))
  | 0x04 => some (.word (s.seen p).fabCfg.toNat)
  | 0x08 => some (.word 0)
  | 0x0C => some (.word (pack [(ofFlag k.bank, 31), (k.maps.toNat, 0)]))
  | _ =>
    if 0x2000 ≤ o ∧ o < 0x2040 then
      wideRegs 0x2000 o [k.ropeDefer, k.creditWait, k.grantTx, k.leaseExp, k.leaseRev, k.ordHold, k.shapeStall, k.belayRef]
    else if 0x8000 ≤ o ∧ o < 0xA000 then
      if o % 8 = 0 ∧ (o - 0x8000) / 8 % 4 < 3 then
        some (.wide (unsigned 64 (s.tokens (BitVec.ofNat 8 ((o - 0x8000) / 32)) ⟨(o - 0x8000) / 8 % 4 % 3, Nat.mod_lt _ (by decide)⟩)))
      else none
    else if 0x80000 ≤ o ∧ o < 0x80200 ∧ o % 4 = 0 then some (tableWord k.cmap0 (o - 0x80000))
    else if 0x80200 ≤ o ∧ o < 0x80400 ∧ o % 4 = 0 then some (tableWord k.cmap1 (o - 0x80200))
    else (mirReg? (0x600000 + o)).map fun r => .word ((s.seen p).get r).toNat

/-- The 64 bytes of a residency entry. -/
def residentBytes (r : Option Resident) : List Byte :=
  match r with
  | some k => leBytes 6 k.accession.toNat ++ [1, 0] ++ leBytes 8 k.version.toNat ++ leBytes 8 k.base ++ leBytes 4 k.count ++ leBytes 4 k.w ++ k.digest
  | none => zeros 64

/-- INT registers (Tables INT-5 to INT-9). -/
def State.readInt (s : State) (o : Nat) : Option RegVal :=
  let k := s.intk
  match o with
  | 0x00 => some (.word k.scrubCfg.toNat)
  | 0x08 => some (.wide k.archVer.toNat)
  | 0x10 => some (.word (pack [(k.reqs.length, 19), (k.trackers.length, 10), ((k.resident.toList.filter Option.isSome).length, 1),
      (ofFlag k.scrubBusy, 0)]))
  | 0x14 => some (.word (min (2 ^ 17 - 1) k.rob))
  | _ =>
    if 0x8000 ≤ o ∧ o < 0xC000 then
      if o % 4 = 0 then some (tableWord (residentBytes (k.resident.toList.getD ((o - 0x8000) / 64) none)) ((o - 0x8000) % 64)) else none
    else
      wideRegs 0x1000 o ([k.folioBad, k.recPois, k.dgstMiss, k.dgstSkip, k.scrubMiss, k.scrubOvr, k.req, k.refetch]
        ++ k.archWait.toList ++ k.bytes.toList)

/-- GRD registers (Tables GRD-6 to GRD-8). -/
def State.readGrd (s : State) (p : Path) (o : Nat) : Option RegVal :=
  let k := s.grd
  match o with
  | 0x00 => some (.word (s.seen p).absent.toNat)
  | 0x10 => some (.word (pack [(ofFlag k.first, 31), (ofFlag k.last, 30), (k.pred % 16, 20), (k.succ % 16, 16), (k.absentRun.toNat, 0)]))
  | _ => wideRegs 0x1000 o [k.collStart, k.chunksIn, k.chunksOut, k.chunkCrc, k.discard, k.chainWait, k.drop, k.combZero]

/-- MEM registers (Tables MEM-9 to MEM-11). -/
def State.readMem (s : State) (o : Nat) : Option RegVal :=
  let k := s.memu
  match o with
  | 0x100 => some (.wide (k.hostBase[(0 : PortIx)]).toNat)
  | 0x108 => some (.wide (k.hostSize[(0 : PortIx)]).toNat)
  | 0x110 => some (.wide (k.hostBase[(1 : PortIx)]).toNat)
  | 0x118 => some (.wide (k.hostSize[(1 : PortIx)]).toNat)
  | 0x200 => some (.word k.timeout.toNat)
  | _ => wideRegs 0x1000 o [k.eccCorr, k.eccUncorr, k.timeouts, k.late, k.mapPend]

/-- Words of a big-endian byte string: byte 4i in bits 31:24 of word i. -/
def beWords (n : Nat) (bs : List Byte) : List Nat := (List.range n).map fun i => beNat (slice bs (4 * i) 4)

/-- AUD registers (Tables AUD-4, AUD-6, AUD-7). -/
def State.readAud (s : State) (o : Nat) : Option RegVal :=
  let k := s.aud
  match o with
  | 0x10 => some (.wide k.seq.toNat)
  | 0x18 => some (.word (pack [(ofFlag s.rtc.valid, 31), (ofFlag k.keyOk, 30), (k.pend.length, 23), (k.lastErr.toNat, 8)]))
  | 0x20 => some (.word k.label.toNat)
  | 0x24 => some (.word k.pnum.toNat)
  | 0x28 => some (.wide k.launch.toNat)
  | 0x30 => some (.wide k.cseq.toNat)
  | _ =>
    if o < 0x10 then wordRegs 0 o ((List.range 4).map fun i => fieldAt Config.serial (4 * i) 4)
    else if 0x40 ≤ o ∧ o < 0x50 then wordRegs 0x40 o ((List.range 4).map fun i => bits k.cairn.toNat (32 * i) 32)
    else if 0x50 ≤ o ∧ o < 0x60 then wordRegs 0x50 o ((List.range 4).map fun i => bits k.thr.toNat (32 * i) 32)
    else if 0x100 ≤ o ∧ o < 0x160 then wordRegs 0x100 o (beWords 24 (publicPoint Config.moduleKey))
    else wideRegs 0x1000 o [k.ok, k.bad, k.refused]

/-- The 64 bytes of a log entry (Table FLT-2). -/
def LogEntry.bytes (e : LogEntry) : List Byte :=
  leBytes 8 e.gcnt.toNat ++ leBytes 8 e.rtc.toNat ++ leBytes 2 e.code.toNat ++ [e.srcKind, e.srcId] ++ leBytes 4 e.pnum.toNat ++ e.data
    ++ leBytes 4 e.rep.toNat ++ leBytes 4 e.eseq.toNat

/-- The ring's entry in a place: the one whose number is the place modulo 8,192 (R474). -/
def Flt.slot (k : Flt) (i : Nat) : List Byte :=
  match k.log.find? fun e => e.eseq.toNat % 8192 == i with
  | some e => e.bytes
  | none => zeros 64

/-- FLT registers (Tables FLT-6 to FLT-10). -/
def State.readFlt (s : State) (o : Nat) : Option RegVal :=
  let k := s.flt
  match o with
  | 0x00 => some (.word 0)
  | 0x04 => some (.word k.cfg.toNat)
  | 0x08 => some (.word k.service.toNat)
  | 0x10 => some (.wide k.wr.toNat)
  | _ =>
    if 0x80000 ≤ o then (if o % 4 = 0 then some (tableWord (k.slot ((o - 0x80000) / 64)) ((o - 0x80000) % 64)) else none)
    else wideRegs 0x1000 o [k.coalesced, k.skew, k.member]

/-! ## FLD (Table CSR-9) -/

/-- FLD_LINK_STAT of a link (Table WAF-5). -/
def MeshLink.stat (k : MeshLink) : Nat :=
  pack [(k.crcErr.toNat, 16), (ofFlag k.half, 15), (ofFlag k.spare, 14), (k.failed.toNat, 0)]

/-- FLD_CLK_STAT (Table COR-12). -/
def State.clkStat (s : State) (c : CoreIx) : Nat :=
  let k := s.core c
  let z := (s.field (coreField c)).zoneCeil
  let n := s.levelOf c
  let hot := k.hottest.getD (0, 0)
  pack [(tempField hot.2, 22), (hot.1.val, 20), (k.level - 1, 12), (k.therm - 1, 8), (z - 1, 4),
    (ofFlag (decide (k.cap < 16) && k.cap == n), 3), (ofFlag (decide (z < 16) && z == n), 2), (ofFlag (decide (k.therm < 16) && k.therm == n), 1),
    (ofFlag (decide (k.therm < k.floor)), 0)]

/-- FLD_CQ_STAT (Table COR-10). -/
def Task.cqStat (k : Task) : Nat := pack [(k.mat.length, 24), (k.vec.length, 16), (k.str.length, 8), (k.ctl.length, 0)]

/-- FLD_CMD_FSTAT (Table CMD-15). -/
def Task.fstat (k : Task) : Nat := pack [(ofFlag k.stopped, 31), (k.fcode.toNat, 24), (k.fqueue.toNat, 22), (k.findex.toNat, 0)]

/-- The carrel registers of a task context (R224, Tables MEM-2 and MEM-3). -/
def Task.carrelReg (k : Task) (o : Nat) : Option RegVal :=
  let c := k.carrels.toList.getD (o / 0x20) {}
  match o % 0x20 with
  | 0x00 => some (.wide c.base.toNat)
  | 0x08 => some (.wide c.bound.toNat)
  | 0x10 => some (.word c.attr.toNat)
  | _ => none

/-- The counters at core offsets 0x0400 to 0x0490 and 0x04A0 to 0x04D0. -/
def CoreCount.low (k : CoreCount) : List W64 :=
  [k.xwaitM, k.xwaitV, k.slotMat, k.slotVec, k.slotStr, k.sliceOvr, k.clkStall, k.policy, k.inexact, k.ovf, k.poisonWr, k.resMiss,
    k.resPoison, k.refused, k.dgstMiss, k.markHold, k.badCode, k.order, k.stretch]

def CoreCount.high (k : CoreCount) : List W64 :=
  [k.waitSlice, k.waitStk, k.waitRem, k.waitHost, k.waitArch, k.cairnPois, k.cairnElem]

/-- Core registers (Table CSR-9). -/
def State.readCore (s : State) (c : CoreIx) (o : Nat) : Option RegVal :=
  let k := s.core c
  match o with
  | 0x10 => some (.word k.rsv.toNat)
  | 0x14 => some (.word (pack [(k.gangs.length, 16), (k.peak, 0)]))
  | 0x20 => some (.word k.bound.toNat)
  | 0x24 => some (.word (s.clkStat c))
  | 0x30 => some (.word k.arith.toNat)
  | 0xC80 => some (.word k.carInfo.toNat)
  | 0xC88 => some (.wide k.carAddr.toNat)
  | 0xC90 => some (.wide k.carCnt.toNat)
  | _ =>
    if o < 0x10 then wordRegs 0 o (k.tasks.toList.map Task.cqStat)
    else if o < 0x60 then wordRegs 0x40 o (k.slices.toList.map fun w => w.toNat)
    else if o < 0x90 then wordRegs 0x80 o (k.tasks.toList.map Task.fstat)
    else if o < 0xE0 then
      wordRegs 0xA0 o (k.tasks.toList.flatMap fun t => (List.range 4).map fun i => bits t.fword.toNat (32 * i) 32)
    else if o < 0x400 then wideRegs 0x200 o k.cnt.bankConf.toList
    else if o < 0x498 then wideRegs 0x400 o k.cnt.low
    else if o < 0x4D8 then wideRegs 0x4A0 o k.cnt.high
    else if 0x800 ≤ o ∧ o < 0xC80 then (k.tasks.toList[(o - 0x800) / 0x120]?).bind fun t => t.carrelReg ((o - 0x800) % 0x120)
    else none

/-- Field registers (Tables CSR-9, WAF-2, WAF-5, WAF-7, WAF-9, MEM-7). -/
def State.readField (s : State) (f : FieldIx) (o : Nat) : Option RegVal :=
  let k := s.field f
  let dead := ofFlag (s.deadRouter f)
  match o with
  | 0x100 => some (.word (pack [(bits s.glb.coreEn.toNat (4 * f.val) 4, 20), (ofFlag k.ilv, 16), (dead, 0)]))
  | 0x3000 => some (.word (pack [(tempField k.stkTemp, 22), (ofFlag k.double, 21), (dead, 20)]))
  | 0x3008 => some (.wide k.refDelay.toNat)
  | _ =>
    if o < 0x1A8 then wideRegs 0x180 o k.xbarWait.toList
    else if o < 0x210 then wordRegs 0x200 o (k.rect.toList.map fun w => w.toNat)
    else if o < 0x220 then
      wordRegs 0x210 o ((List.range 4).map fun j => leNat ((List.range 4).map fun i => k.owner.toList.getD (4 * j + i) 0))
    else if o < 0x1020 then wordRegs 0x1000 o (k.faultTab.toList.map fun w => w.toNat)
    else if o < 0x1120 then wordRegs 0x1100 o (k.links.toList.map MeshLink.stat)
    else if o < 0x1218 then wideRegs 0x1200 o [k.retFull1, k.retFull2, k.mcastLag]
    else if 0x20000 ≤ o ∧ o < 0x30000 then
      s.readCore (coreOf f ⟨(o - 0x20000) / 0x4000 % 4, Nat.mod_lt _ (by decide)⟩) ((o - 0x20000) % 0x4000)
    else none

/-! ## The whole of CSR space (Table CSR-1) -/

/-- The field of a CSR offset in the FLD block. -/
def fldField (off : Nat) : FieldIx := ⟨(off - 0x1000000) / 0x40000 % 64, Nat.mod_lt _ (by decide)⟩

/-- The register that starts at a CSR offset, as a path sees it; none where no register starts (R491). -/
def State.regAt (s : State) (p : Path) (off : Nat) : Option RegVal :=
  let o := off % 0x100000
  if 0x1000000 ≤ off then (if off < 0x2000000 then s.readField (fldField off) ((off - 0x1000000) % 0x40000) else none)
  else
    match off / 0x100000 with
    | 0 => s.readGlb p o
    | 1 => s.readPit p o
    | 2 => s.readCfg p o
    | 3 => s.readRtc o
    | 4 => s.readPwr p o
    | 5 => if o < 0xE0000 then s.readLnk p ⟨o / 0x10000 % 14, Nat.mod_lt _ (by decide)⟩ (o % 0x10000) else none
    | 6 => s.readFab p o
    | 7 => s.readInt o
    | 8 => s.readGrd p o
    | 9 => s.readMem o
    | 10 => s.readAud o
    | 11 => s.readFlt o
    | _ => none

/-- The latched high word of a 64-bit register on a path; zero with no low-word read before (R8 to R10). -/
def State.latched (s : State) (p : Path) (low : Nat) : W32 :=
  match s.latch.find? fun x => x.1 == p && x.2.1.toNat == low with
  | some x => x.2.2
  | none => 0

/-- A path's latch set. -/
def State.setLatch (s : State) (p : Path) (low : Nat) (v : W32) : State :=
  { s with latch := (p, BitVec.ofNat 26 low, v) :: s.latch.filter fun x => !(x.1 == p && x.2.1.toNat == low) }

/-- A read of one aligned word on a path: its value, and the state with a low word's high half latched (R8 to R10, R491). -/
def State.readWord (s : State) (p : Path) (off : Nat) : W32 × State :=
  match s.regAt p off with
  | some (.word v) => (BitVec.ofNat 32 v, s)
  | some (.wide v) => (BitVec.ofNat 32 v, s.setLatch p off (BitVec.ofNat 32 (v / 2 ^ 32)))
  | none =>
    match s.regAt p (off - 4) with
    | some (.wide _) => (if 4 ≤ off then s.latched p (off - 4) else 0, s)
    | _ => (0, s)

end Sys2Proof.Machine
end

