-- ==== Sys2Proof/Machine/Csr.lean ====
section
/-! DEFINITION. Writes of CSR space (R6, R11, R55, R57, R490 to R497, Table CSR-2): the write classes, 64-bit registers composed
per path, the effect of every register that can be written, the mailboxes of the host ports (R498), and reads by a path. -/

namespace Sys2Proof.Machine

/-! ## Paths and halves -/

/-- The host port of a path. -/
def pathPort : Path → Option PortIx
  | .hostA => some 0
  | .hostB => some 1
  | _ => none

/-- Where a path's configuration messages enter the control network (the rule after R62). -/
def entryField (p : Path) : FieldIx :=
  match pathPort p with
  | some i => ⟨hostField i % 64, Nat.mod_lt _ (by decide)⟩
  | none => 56

/-- The low half a path last wrote and its class admitted (R11); zero where it has written none: the spec does not say what a high half then
composes with (DESIGN CHOICE, log entry 25). -/
def State.lowHalf (s : State) (p : Path) (lo : BitVec 26) : W32 :=
  match s.low.find? fun x => x.1 == p && x.2.1 == lo with
  | some x => x.2.2
  | none => 0

/-- A path's low half kept (R11). -/
def State.keepLow (s : State) (p : Path) (lo : BitVec 26) (v : W32) : State :=
  { s with low := (p, lo, v) :: s.low.filter fun x => !(x.1 == p && x.2.1 == lo) }

/-- A half of a 64-bit register whose low word lies at `lo` is written: refused, kept, or composed and in effect (R11). -/
def State.write64 (s : State) (p : Path) (lo off : BitVec 26) (v : W32) (ok : Bool) (eff : State → W64 → State) : State :=
  if !ok then s.refuse p off
  else if off = lo then s.keepLow p lo v
  else eff s (v ++ s.lowHalf p lo)

/-- A write that needs its path's class: the effect, or a refusal counted (R492). -/
def State.classed (s : State) (p : Path) (off : BitVec 26) (ok : Bool) (eff : State → State) : State :=
  if ok then eff s else s.refuse p off

/-! ## Mailboxes (R498, Table CSR-5) -/

/-- A host port's mailboxes rewritten. -/
def State.modMbox (s : State) (i : PortIx) (f : Mbox → Mbox) : State :=
  { s with glb := { s.glb with mbox := upd s.glb.mbox i f } }

/-- Bytes placed in a buffer, which reads zero beyond what was placed. -/
def putBytes (b : List Byte) (o : Nat) (bs : List Byte) : List Byte := (b ++ zeros (o - b.length)).take o ++ bs ++ b.drop (o + bs.length)

/-- GLB_MBOX_CTL lies at this CSR offset. -/
def mboxCtl : BitVec 26 := 0x300

/-- PATH of a session message on a host port. -/
def portSess (i : PortIx) : SessPath := if i = 0 then .hostA else .hostB

/-- A session message in clear, before ACCEPT: SID, SEQ and MAC are zero (Table BOO-5). -/
def plainMsg (p : SessPath) (typ : Nat) (body : List Byte) : List Byte :=
  leBytes 1 typ ++ leBytes 1 (sessPathCode p) ++ leBytes 2 body.length ++ zeros 28 ++ body

/-- A session message leaves on its path: for a host port it waits for the outbound mailbox (R454, R498). -/
def State.sendSess (s : State) (p : SessPath) (bs : List Byte) : State :=
  match p with
  | .hostA => s.modMbox 0 fun k => { k with replies := k.replies ++ [bs] }
  | .hostB => s.modMbox 1 fun k => { k with replies := k.replies ++ [bs] }
  | .mgmt => s.emit (.session p bs)

/-- REFUSE with a reason and what follows it (Table BOO-6). -/
def State.refuseSess (s : State) (p : SessPath) (reason : Nat) (more : List Byte := []) : State :=
  s.sendSess p (plainMsg p 5 (leBytes 1 reason ++ more))

/-- POST: a message of 32 to 4,096 bytes is handed over, one of another length answered REFUSE, reason 4; while IN_BUSY is set a
POST is refused (Table CSR-5). -/
def State.postMbox (s : State) (i : PortIx) (p : Path) (n : BitVec 13) : State :=
  if (s.glb.mbox[i]).inBusy then s.refuse p mboxCtl
  else if 32 ≤ n.toNat ∧ n.toNat ≤ 4096 then s.modMbox i fun k => { k with inLen := n, inBusy := true }
  else (s.modMbox i fun k => { k with inLen := n }).refuseSess (portSess i) 4

/-- OUT_ACK: the outbound mailbox is free (Table CSR-5). -/
def State.ackMbox (s : State) (i : PortIx) : State := s.modMbox i fun k => { k with outRdy := false }

/-- A word of GLB_MBOX_CTL written by its own host port. -/
def State.writeMboxCtl (s : State) (i : PortIx) (p : Path) (v : W32) : State :=
  let s1 := if bit v.toNat 28 then s.ackMbox i else s
  let n := BitVec.ofNat 13 v.toNat
  if bit v.toNat 31 then s1.postMbox i p n else s1.modMbox i fun k => { k with inLen := n }

/-- A word of the inbound mailbox written by its own host port: refused while IN_BUSY is set (Table CSR-5). -/
def State.writeMboxIn (s : State) (i : PortIx) (p : Path) (off : BitVec 26) (v : W32) : State :=
  if (s.glb.mbox[i]).inBusy then s.refuse p off
  else s.modMbox i fun k => { k with inBytes := putBytes k.inBytes (off.toNat - 0x1000) (leBytes 4 v.toNat) }

/-- MBOX_POST: POST written on a host port once BAR 0 is ready (R441, R498). -/
def execMboxPost (port : PortIx) (inLen : BitVec 13) (s : State) : Host.Outcome State Fault Refusal :=
  .next (if s.barReady then s.postMbox port (if port = 0 then .hostA else .hostB) inLen else s)

/-- MBOX_OUT_ACK: OUT_ACK written on a host port once BAR 0 is ready (R441, R498). -/
def execMboxOutAck (port : PortIx) (s : State) : Host.Outcome State Fault Refusal :=
  .next (if s.barReady then s.ackMbox port else s)

/-- MBOX_OUT_READY: the oldest waiting reply enters a free outbound mailbox, with MSI-X vector 1 (R498). -/
def execMboxOutReady (port : PortIx) (s : State) : Host.Outcome State Fault Refusal :=
  .next (
    let k := s.glb.mbox[port]
    match k.replies with
    | [] => s
    | r :: rest =>
      if k.outRdy then s
      else
        let s1 := s.modMbox port fun k =>
          { k with replies := rest, outBytes := r, outLen := BitVec.ofNat 13 r.length, outRdy := true }
        if s.pins.msixEn[port] then s1.emit (.msix port 1) else s1)

/-! ## Blocks -/

/-- GLB registers (Tables BOO-8, CSR-5, FLT-9, TOP-4, TOP-5). -/
def State.writeGlb (s : State) (p : Path) (off : BitVec 26) (v : W32) : State :=
  let o := off.toNat
  let w := v.toNat
  let base (i : ImgIx) (lo : BitVec 26) : State :=
    if s.locked i && classS p then s
    else s.write64 p lo off v (classS p) fun s x =>
      s.modSlot i fun k => { k with base := x &&& 0x000001FFFFFFF000 }
  if o = 0x30 then
    s.classed p off (classS p) fun s =>
      if bits w 16 16 ≠ 0x5A5A then s else if bit w 0 then s.moduleReset else if bit w 1 then s.wardenReset else s
  else if o = 0x100 ∨ o = 0x104 then base 0 0x100
  else if o = 0x108 ∨ o = 0x10C then base 1 0x108
  else if o = 0x110 then
    s.classed p off (s.wardenTakes p) fun s =>
      let i : ImgIx := if bit w 0 then 1 else 0
      if bit w 2 then (s.disarmSlot p i).answerAgain else if bit w 1 then s.armSlot i else s
  else if o = 0x120 then
    s.classed p off (classS p) fun s => { s with glb := { s.glb with entry := BitVec.ofNat 24 w } }
  else
    match pathPort p with
    | none => s.refuse p off
    | some i =>
      if o = 0x300 then s.writeMboxCtl i p v
      else if 0x1000 ≤ o ∧ o < 0x2000 then s.writeMboxIn i p off v
      else s.refuse p off

/-- A register of the configuration sets: the shadow set takes it, unless a swap is armed (R447, R449). -/
def State.writeShadow (s : State) (p : Path) (off : BitVec 26) (r : MirReg) (v : W32) : State :=
  s.classed p off (classS p && s.cfg.st != .armed) fun s => { s with cfg := { s.cfg with shadow := s.cfg.shadow.put r v } }

/-- PIT registers (Table PIT-10). -/
def State.writePit (s : State) (p : Path) (off : BitVec 26) (v : W32) : State :=
  let o := off.toNat
  if o = 0x100020 ∨ o = 0x100024 then
    s.write64 p 0x100020 off v (classS p) fun s x => { s with pit := { s.pit with reqLaunch := x } }
  else if o = 0x100028 then
    s.classed p off (classS p) fun s =>
      let i : ImgIx := if bit v.toNat 0 then 1 else 0
      if bit v.toNat 1 then s.writeGo p i else { s with pit := { s.pit with ctlSlot := i } }
  else s.refuse p off

/-- A path's CFG_CTL.VIEW set or cleared (R447). -/
def State.setView (s : State) (p : Path) (b : Bool) : State :=
  let rest := s.cfg.view.filter fun x => x != p
  { s with cfg := { s.cfg with view := if b then p :: rest else rest } }

/-- CFG registers (Tables BOO-9, BOO-10): VIEW is of class H and LOAD of class S; in CFG_SWAP, CANCEL comes before GO. -/
def State.writeCfg (s : State) (p : Path) (off : BitVec 26) (v : W32) : State :=
  let o := off.toNat
  let w := v.toNat
  if o = 0x200000 then
    let s1 := s.setView p (bit w 0)
    if bit w 1 then s1.classed p off (classS p) State.startLoad else s1
  else if o = 0x200004 then
    s.classed p off (classS p) fun s => if bit w 30 then s.cancelSwap else if bit w 31 then s.armSwap else s
  else if o = 0x200008 ∨ o = 0x20000C then
    s.write64 p 0x200008 off v (classS p) fun s x => { s with cfg := { s.cfg with swapAt := x } }
  else if o = 0x200010 ∨ o = 0x200014 then
    s.write64 p 0x200010 off v (classS p) fun s x => { s with cfg := { s.cfg with imgBase := x } }
  else s.refuse p off

/-- PWR_DOM_REQ (Table PWR-4). -/
def State.writePwr (s : State) (p : Path) (off : BitVec 26) (v : W32) : State :=
  if off = domReq then
    s.classed p off (s.wardenTakes p) fun s =>
      if bit v.toNat 31 then s.requestDom (BitVec.ofNat 7 v.toNat) (bit v.toNat 30) else s
  else s.refuse p off

/-- LNK_CTL: DIS takes its bits, then RETRAIN, WAKE and QUAR_CLR act (Table LNK-10). -/
def State.writeLnkCtl (s : State) (g : GroupIx) (v : W32) : State :=
  let w := v.toNat
  let retrain (s : State) (u : SubIx) : State := if bit w (8 + u.val) && (s.sub g u).up then s.retrainWarm g u else s
  let wake (s : State) (u : SubIx) : State := if bit w (10 + u.val) then s.wake g u else s
  let s1 := [0, 1].foldl wake ([0, 1].foldl retrain (s.writeDis g (BitVec.ofNat 2 w)))
  if bit w 15 then s1.quarClear g else s1

/-- LNK registers (Tables LNK-10, LNK-12, CMB-4). -/
def State.writeLnk (s : State) (p : Path) (off : BitVec 26) (v : W32) : State :=
  let o := off.toNat - 0x500000
  let g : GroupIx := ⟨o / 0x10000 % 14, Nat.mod_lt _ (by decide)⟩
  if 0xE0000 ≤ o then s.refuse p off
  else
    match o % 0x10000 with
    | 0x00 => s.classed p off (classS p) fun s => s.writeLnkCtl g v
    | 0x08 => s.classed p off (classS p) fun s => s.modGroup g fun k => { k with violCfg := v }
    | 0x20 => s.classed p off (classS p && !s.running) fun s => s.setLoop g v
    | _ => s.refuse p off

/-- FAB registers (Tables FAB-7, FAB-9). -/
def State.writeFab (s : State) (p : Path) (off : BitVec 26) (v : W32) : State :=
  if off = 0x600000 then s.classed p off (classS p) fun s => { s with fab := { s.fab with forceVct := bit v.toNat 2 } }
  else if off = fabRevokeOff then s.classed p off (classS p) fun s => s.revoke v
  else s.refuse p off

/-- INT registers (Tables INT-5, INT-6). -/
def State.writeInt (s : State) (p : Path) (off : BitVec 26) (v : W32) : State :=
  if off = 0x700000 then
    s.classed p off (classS p) fun s => { s with intk := { s.intk with scrubCfg := v &&& 0xFFFFFF00 } }
  else if off = 0x700008 ∨ off = 0x70000C then
    s.write64 p 0x700008 off v (classS p) fun s x => State.answerAgain { s with intk := { s.intk with archVer := x } }
  else s.refuse p off

/-- The path owns a host port's registers (class P). -/
def owns (p : Path) (i : PortIx) : Bool := p == .warden || pathPort p == some i

/-- MEM_HOST_BASE of a port takes a value. -/
def State.setHostBase (s : State) (i : PortIx) (x : W64) : State :=
  { s with memu := { s.memu with hostBase := upd s.memu.hostBase i fun _ => x } }

/-- MEM_HOST_SIZE of a port takes a value, a multiple of 1 MiB (Table MEM-9). -/
def State.setHostSize (s : State) (i : PortIx) (x : W64) : State :=
  { s with memu := { s.memu with hostSize := upd s.memu.hostSize i fun _ => x &&& 0xFFFFFFFFFFF00000 } }

/-- A host window register of port `i` written: by its owner, with no run active (R248). -/
def State.writeHostReg (s : State) (p : Path) (off : BitVec 26) (v : W32) (i : PortIx) : State :=
  let lo := BitVec.ofNat 26 (off.toNat / 8 * 8)
  s.write64 p lo off v (owns p i && !s.running) fun s x => if off.toNat % 16 < 8 then s.setHostBase i x else s.setHostSize i x

/-- MEM registers (Tables MEM-9, MEM-10; R248). -/
def State.writeMem (s : State) (p : Path) (off : BitVec 26) (v : W32) : State :=
  if 0x900100 ≤ off.toNat ∧ off.toNat < 0x900110 then s.writeHostReg p off v 0
  else if 0x900110 ≤ off.toNat ∧ off.toNat < 0x900120 then s.writeHostReg p off v 1
  else if off = 0x900200 then s.classed p off (classS p) fun s => { s with memu := { s.memu with timeout := v } }
  else s.refuse p off

/-- FLT registers (Tables FLT-6, FLT-7). -/
def State.writeFlt (s : State) (p : Path) (off : BitVec 26) (v : W32) : State :=
  if off = fltCtl then
    s.classed p off (classS p) fun s =>
      let s1 := if bit v.toNat 1 then s.clearLog else s
      if bit v.toNat 0 then s1.writeAbandon p else s1
  else if off = 0xB00004 then
    s.classed p off (classS p) fun s => { s with flt := { s.flt with cfg := v &&& 0x13F } }
  else s.refuse p off

/-- RTC_SET (R460). -/
def State.writeRtc (s : State) (p : Path) (off : BitVec 26) (v : W32) : State :=
  if off = 0x300008 ∨ off = rtcSetOff then s.write64 p 0x300008 off v (classS p) State.setRtc else s.refuse p off

/-! ## Field registers (Table CSR-9) -/

/-- The offset of a field register in CSR space. -/
def fldOff (f : FieldIx) (o : BitVec 18) : BitVec 26 := BitVec.ofNat 26 (0x1000000 + 0x40000 * f.val + o.toNat)

/-- Whether a write of a field register from a path acts or may act: FLD_CLK_BOUND from any path, ILV of FLD_XBAR_CFG from a session
or the warden, FLD_RTR_FAULT from the warden (R55, Table CSR-9). -/
def fieldAdmits (p : Path) (o : Nat) : Bool :=
  if o = 0x100 then classS p
  else if 0x1000 ≤ o ∧ o < 0x1020 then p == .warden
  else decide (0x20000 ≤ o) && decide (o < 0x30000) && o % 0x4000 == 0x20

/-- A write that a field register does not admit: refused, but for one of FLD_XBAR_CFG that would leave ILV as it is (R492). -/
def State.fieldRefuse (s : State) (p : Path) (f : FieldIx) (o : BitVec 18) (v : W32) : State :=
  if o.toNat = 0x100 ∧ bit v.toNat 16 = (s.field f).ilv then s else s.refuse p (fldOff f o)

/-- A field register takes a value (Tables WAF-2, WAF-7, COR-11). A change of ILV leaves every byte of the slices at its offset (DESIGN
CHOICE, log entry 31). -/
def State.fieldTake (s : State) (f : FieldIx) (o : Nat) (v : W32) : State :=
  if o = 0x100 then s.modField f fun k => { k with ilv := bit v.toNat 16 }
  else if o < 0x1020 then
    s.modField f fun k => { k with faultTab := upd k.faultTab ⟨(o - 0x1000) / 4 % 8, Nat.mod_lt _ (by decide)⟩ fun _ => v }
  else
    s.modCore (coreOf f ⟨(o - 0x20000) / 0x4000 % 4, Nat.mod_lt _ (by decide)⟩) fun k => { k with bound := v &&& 0xFF }

/-- A field register written by a path (R492). -/
def State.writeField (s : State) (p : Path) (f : FieldIx) (o : BitVec 18) (v : W32) : State :=
  if o.toNat % 4 = 0 ∧ fieldAdmits p o.toNat then s.fieldTake f o.toNat v else s.fieldRefuse p f o v

/-! ## The whole of CSR space -/

/-- A word outside the FLD block written by a path that reaches it (R491, R492). -/
def State.writeBlock (s : State) (p : Path) (off : BitVec 26) (v : W32) : State :=
  match mirReg? off.toNat with
  | some r => s.writeShadow p off r v
  | none =>
    match off.toNat / 0x100000 with
    | 0 => s.writeGlb p off v
    | 1 => s.writePit p off v
    | 2 => s.writeCfg p off v
    | 3 => s.writeRtc p off v
    | 4 => s.writePwr p off v
    | 5 => s.writeLnk p off v
    | 6 => s.writeFab p off v
    | 7 => s.writeInt p off v
    | 9 => s.writeMem p off v
    | 11 => s.writeFlt p off v
    | _ => s.refuse p off

/-- The offset lies in the FLD block. -/
def inFld (off : BitVec 26) : Bool := decide (0x1000000 ≤ off.toNat) && decide (off.toNat < 0x2000000)

/-- The offset within its field. -/
def fldReg (off : BitVec 26) : BitVec 18 := BitVec.ofNat 18 off.toNat

/-- A configuration message: ARG the low bits of the register's offset, the payload the offset and, for a write or a response, the
value (R57, Table WAF-8; log entry 10). -/
def cfgMsg (typ : BitVec 4) (dest src : FieldIx) (o : BitVec 18) (more : List W32) : CtlMsg :=
  { typ := typ, dest := dest, src := src, bcast := false, plane := false, arg := BitVec.ofNat 12 o.toNat
    payload := BitVec.ofNat 32 o.toNat :: more }

/-- A word of the FLD block written by a path: refused at once, or sent to its field (R57). -/
def State.sendField (s : State) (p : Path) (off : BitVec 26) (v : W32) : State :=
  let f := fldField off.toNat
  let o := fldReg off
  if fieldAdmits p o.toNat then s.tell (cfgMsg 8 f (entryField p) o [v]) else s.fieldRefuse p f o v

/-- A word written by a path (R490 to R492); `direct` for a session's words, which reach a field at once. -/
def State.writeWord (s : State) (p : Path) (off : BitVec 26) (v : W32) (direct : Bool := false) : State :=
  if off.toNat % 4 ≠ 0 then s.refuse p off
  else if inFld off then (if direct then s.writeField p (fldField off.toNat) (fldReg off) v else s.sendField p off v)
  else s.writeBlock p off v

/-- CSR_WRITE: nothing from a path that cannot reach CSR space now; else the word's effect (R441, R492). -/
def execCsrWrite (p : Path) (off : BitVec 26) (v : W32) (s : State) : Host.Outcome State Fault Refusal :=
  .next (if s.pathOpen p then s.writeWord p off v else s)

/-- CSR_READ_LOW_LATCH: a path reads a word; a low word latches its high word; an access that is not an aligned word completes as
unsupported; a field's word is asked for over the control network (R8 to R10, R57, R490). -/
def execCsrReadLowLatch (p : Path) (off : BitVec 26) (s : State) : Host.Outcome State Fault Refusal :=
  .next (if !s.pathOpen p then s
    else if off.toNat % 4 ≠ 0 then s.emit (.unsupported p)
    else if inFld off then s.tell (cfgMsg 9 (fldField off.toNat) (entryField p) (fldReg off) [])
    else
      let r := s.readWord p off.toNat
      r.2.emit (.readData p off r.1))

end Sys2Proof.Machine
end

