-- ==== Sys2Proof/Machine/Control.lean ====
section
/-! DEFINITION. What the nodes of the control network do with the messages that reach them (R57 to R62, R167, R231, R273, R322, R324,
R412, R474, Table WAF-8), and the retry of a word with bad parity (R62). -/

namespace Sys2Proof.Machine

/-- Two messages are the same, whichever plane carries them. -/
def sameMsg (a b : CtlMsg) : Bool := { a with plane := false } == { b with plane := false }

/-! ## Boundaries (R61, R322, R324) -/

/-- A node's boundary, with the one before it once that has passed; its cores' guard times follow (R61, R92, R324). -/
def State.setNodeBound (s : State) (f : FieldIx) (b : W64) : State :=
  (List.finRange 4).foldl (fun s i => s.modCore (coreOf f i) fun k => { k with guarded := false })
    (s.modField f fun k => { k with bound := b, begun := if k.bound.toNat ≤ s.nodeCount f then k.bound else k.begun })

/-- A node whose replica has already passed a tick's count disagrees with it: the event, and the third within one run is a cause of
R481 (R61, R481). -/
def State.tickClash (s : State) (f : FieldIx) : State :=
  let s1 := State.logEvent { s with pit := { s.pit with tickBad := s.pit.tickBad + 1 } } 0 5 6 kField f.val
  if s1.pit.tickBad = 3 then s1.autoCause.autoReset else s1

/-- A broadcast's message of a type with a count. -/
def isCount (typ : BitVec 4) (n : Nat) (m : CtlMsg) : Bool := m.typ == typ && m.payload == countWords n

/-- CTL_TICK: a tick reaches a node, which acts at its count on its own replica; a node whose replica has passed that count disagrees
and logs it (R61). -/
def execCtlTick (f : FieldIx) (bound : W64) (s : State) : Host.Outcome State Fault Refusal :=
  .next (s.ctlArrive f (isCount 1 bound.toNat) fun s1 =>
    let s2 := s1.setNodeBound f bound
    if (s1.field f).replica.isSome && decide (bound.toNat ≤ s1.nodeCount f) then s2.tickClash f else s2)

/-- A sync message at a node: its replica takes the count, compensated for the hops the message took (R61). -/
def State.syncNode (s : State) (count : W64) (f : FieldIx) : State :=
  match s.ctlServed f (isCount 0xC count.toNat) with
  | some t =>
    State.modField { s with ctl := s.ctl.erase t } f fun k => { k with replica := some ((count.toNat : Int) - s.gcnt) }
  | none => s

/-- CTL_GCNT_SYNC: the broadcast sets the replica of every node it reaches; a replica counts with GCNT from then on (R61). -/
def execCtlGcntSync (count : W64) (s : State) : Host.Outcome State Fault Refusal :=
  .next ((List.finRange 64).foldl (fun s f => s.syncNode count f) s.ctlFlow)

/-- CTL_HOLD_REQUEST: a core's request reaches the pitch unit after the guard point; the module asks its lead once (R322). -/
def execCtlHoldRequest (c : CoreIx) (s : State) : Host.Outcome State Fault Refusal :=
  .next (s.ctlArrive pitField (fun m => m.typ == 2 && m.arg.toNat == c.val) fun s1 =>
    if s1.pit.run == .running && s1.pit.guardDone then s1.sendHoldReq else s1)

/-- CTL_HOLD_GRANT: a hold grant reaches a node and moves its boundary (R324). -/
def execCtlHoldGrant (f : FieldIx) (bound : W64) (s : State) : Host.Outcome State Fault Refusal :=
  .next (s.ctlArrive f (isCount 3 bound.toNat) fun s1 => s1.setNodeBound f bound)

/-! ## Barriers (R60, R167) -/

/-- The arrivals counted at a barrier. -/
def Pit.arrived (p : Pit) (bar : BitVec 12) : Nat :=
  match p.arrivals.find? fun x => x.1 == bar with
  | some x => x.2
  | none => 0

/-- The count of a barrier set; a count of 0 is not listed. -/
def Pit.setArrived (p : Pit) (bar : BitVec 12) (n : Nat) : Pit :=
  let rest := p.arrivals.filter fun x => x.1 != bar
  { p with arrivals := if n = 0 then rest else (bar, n) :: rest }

/-- The release of a barrier, broadcast by the pitch unit (R60). -/
def releaseMsg (bar : BitVec 12) : CtlMsg :=
  { typ := 5, dest := pitField, src := pitField, bcast := true, plane := false, arg := bar, payload := [] }

/-- BARRIER_ARRIVAL: the pitch unit counts an arrival; at the declared count it broadcasts the release and counts anew (R60). -/
def execBarrierArrival (bar : BitVec 12) (src : FieldIx) (s : State) : Host.Outcome State Fault Refusal :=
  .next (s.ctlArrive pitField (fun m => m.typ == 4 && m.arg == bar && m.src == src) fun s1 =>
    match s1.image.barriers.find? fun b => b.1 == bar with
    | none => s1
    | some b =>
      let n := s1.pit.arrived bar + 1
      if !s1.running then s1
      else if n < b.2 then { s1 with pit := s1.pit.setArrived bar n }
      else State.tellAll { s1 with pit := s1.pit.setArrived bar 0 } (releaseMsg bar))

/-- A task context notes a release. -/
def Task.release (k : Task) (bar : BitVec 12) : Task := { k with released := bar :: k.released.filter fun b => b != bar }

/-- BARRIER_RELEASE: a release reaches a node and frees the BARW commands of its cores (R167). -/
def execBarrierRelease (f : FieldIx) (bar : BitVec 12) (s : State) : Host.Outcome State Fault Refusal :=
  .next (s.ctlArrive f (fun m => m.typ == 5 && m.arg == bar) fun s1 =>
    (List.finRange 4).foldl
      (fun s i => s.modCore (coreOf f i) fun k => { k with tasks := k.tasks.map fun t => t.release bar }) s1)

/-! ## Credits (R231, R273) -/

/-- CTL_CREDIT_GRANT: a grant for the carrel of a core reaches the sender, which holds the credits; those of an intake context are
held by the core's field router (R231, R273). -/
def execCtlCreditGrant (c : CoreIx) (ctx : BitVec 16) (count : BitVec 12) (s : State) : Host.Outcome State Fault Refusal :=
  .next (s.ctlArrive (coreField c) (sameMsg (creditMsg c ctx count.toNat)) fun s1 =>
    let s2 := s1.modCtx ctx fun k => { k with held := k.held + count.toNat }
    if s1.intakeCtx ctx then
      s2.modField (coreField c) fun k => k.setLandCredits (coreLocal c) ctx (k.landCredits (coreLocal c) ctx + count.toNat)
    else s2)

/-! ## Fault events (R473, R474, R480, R481) -/

/-- The service bit of a class 5 code (R480, Table FLT-8). -/
def serviceOf (code : Nat) : Option Nat :=
  match code % 4096 with
  | 0x205 => some svSpareRow
  | 0x207 => some svMapout
  | 0x803 => some svShutdown
  | 0x804 => some svDomain
  | 0x922 => some svBelowBin
  | 0xB04 => some svCtlNet
  | 0xB06 => some svRouter
  | 0xC06 => some svSkew
  | _ => none

/-- CTL_FAULT_EVENT: an event that a node detected reaches the warden and is logged; a class 3 event ends the run, a class 5 event
sets its service bit, and an undelivered message is a cause of R481 (R473, R474, R480, R481). The message's way to the warden is part of
the command (log entry 8). -/
def execCtlFaultEvent (e : FaultEv) (s : State) : Host.Outcome State Fault Refusal :=
  .next (
    let s1 := s.logCode e.code e.srcKind e.srcId e.data
    let s2 := match serviceOf e.code.toNat with
      | some b => s1.service b
      | none => s1
    let s3 := if e.code.toNat / 4096 = 3 then s2.faultRun else s2
    if e.code.toNat % 4096 = 0xB04 then s3.autoCause.autoReset else s3)

/-! ## Configuration messages (R57) -/

/-- CTL_CONFIG_WRITE: a configuration write reaches its field and the register takes the value its class admits (R55, R57). -/
def execCtlConfigWrite (p : Path) (f : FieldIx) (off : BitVec 18) (v : W32) (s : State) : Host.Outcome State Fault Refusal :=
  .next (s.ctlArrive f (sameMsg (cfgMsg 8 f (entryField p) off [v])) fun s1 => s1.writeField p f off v)

/-- CTL_CONFIG_READ: a configuration read reaches its field, latches as R8 says, and is answered by a read response (R57). -/
def execCtlConfigRead (p : Path) (f : FieldIx) (off : BitVec 18) (s : State) : Host.Outcome State Fault Refusal :=
  .next (s.ctlArrive f (sameMsg (cfgMsg 9 f (entryField p) off [])) fun s1 =>
    let r := s1.readWord p (fldOff f off).toNat
    r.2.tell (cfgMsg 0xA (entryField p) f off [r.1]))

/-- CTL_READ_RESPONSE: a read response completes the read at its requester (R57). -/
def execCtlReadResponse (p : Path) (f : FieldIx) (off : BitVec 18) (v : W32) (s : State) : Host.Outcome State Fault Refusal :=
  .next (s.ctlArrive (entryField p) (sameMsg (cfgMsg 0xA (entryField p) f off [v])) fun s1 => s1.emit (.readData p (fldOff f off) v))

/-! ## Fences and parity (R62, R412) -/

/-- CTL_FENCE: a fence message reaches a node, which from then on answers, or no longer answers, for the domain (R412, R414). -/
def execCtlFence (f : FieldIx) (d : DomIx) (raised : Bool) (s : State) : Host.Outcome State Fault Refusal :=
  .next (s.ctlArrive f (sameMsg { fenceMsg d raised with dest := f }) fun s1 => s1.modField f fun k =>
    { k with fences := if raised then k.fences ||| (1#88 <<< d.val) else k.fences &&& ~~~(1#88 <<< d.val) })

/-- Failures so far of the word now retried on a link, counting this one. -/
def parityCount (old : Option (CtlMsg × Nat)) (m : CtlMsg) : Nat :=
  match old with
  | some x => if x.1 == m then x.2 + 1 else 1
  | none => 1

/-- A message on its way takes the plane that avoids the failed links from where it stands, or is not delivered (R62). -/
def State.reroute (s : State) (t : CtlTransit) : State :=
  let here := { t.msg with src := t.at_ }
  if !s.ctlBlocked here t.msg.plane then s
  else
    let rest := { s with ctl := s.ctl.erase t }
    if !s.ctlBlocked here (!t.msg.plane) then
      { rest with ctl := rest.ctl ++ [{ t with msg := { t.msg with plane := !t.msg.plane }, inp := none }] }
    else rest.ctlUndelivered t.msg

/-- CTL_PARITY_FAIL: a word of a message comes over a link into a node with bad parity. It is retried up to 3 times; when the third retry
has failed too the link is marked failed and logged, and messages bound over it take the other plane (R57, R62). -/
def execCtlParityFail (f : FieldIx) (d : Fin 4) (m : CtlMsg × W32 × BitVec 2) (s : State) :
    Host.Outcome State Fault Refusal :=
  .next (
    let n := parityCount (s.field f).ctlRetry[d] m.1
    if ctlParity m.2.1 = m.2.2 || (neighbour f d).isNone || (s.field f).ctlFailed[d] then s
    else if n ≤ 3 then s.modField f fun k => { k with ctlRetry := upd k.ctlRetry d fun _ => some (m.1, n) }
    else
      let s1 := s.modField f fun k =>
        { k with ctlRetry := upd k.ctlRetry d fun _ => none, ctlFailed := upd k.ctlFailed d fun _ => true }
      let s2 := s1.logEvent 0 0xB 3 kField f.val [BitVec.ofNat 8 d.val]
      (s2.ctl.foldl State.reroute s2).autoReset)

end Sys2Proof.Machine
end

