-- ==== Sys2Proof/Machine/Fetch.lean ====
section
/-! DEFINITION. Where what an archive fetch brings goes: the parts of a folio for the segments that read from it, their writes and
multicasts, and the codecs (R258, R264, R266, R272, R273, R277). -/

namespace Sys2Proof.Machine

/-! ## Where a folio lands (R258, R264, R272, R277) -/

/-- A part of a folio that lands with one segment: segment index, offset in the folio, offset in the segment, length, whether it
ends the segment. -/
structure FolioPart where
  seg    : Nat
  folio  : Nat
  inSeg  : Nat
  off    : Nat
  n      : Nat
  last   : Bool
  deriving DecidableEq, Repr

/-- The parts of folio `f` of a descriptor whose source begins `so` bytes into the shard: one for each segment that reads from it. -/
def folioParts (d : Desc) (so w f : Nat) : List FolioPart :=
  (List.range d.segs).filterMap fun i =>
    let g := (streamD d.bytes).fetchSpan (descSegAt 0x40 d.bytes i)
    let lo := max (so + g.1) (f * w)
    let hi := min (so + g.1 + g.2) (f * w + w)
    if lo < hi then
      some { seg := i, folio := lo - f * w, inSeg := lo - (so + g.1), off := lo - so, n := hi - lo, last := hi == so + g.1 + g.2 }
    else none

/-- An intake write retires the residency entries it overlaps (R277). -/
def State.retireOver (s : State) (a n : Nat) : State :=
  match place a with
  | .stacks o =>
    { s with intk := { s.intk with resident := s.intk.resident.map fun e =>
        match e with
        | some x => if o < x.base + x.count * x.w ∧ x.base < o + n then none else some x
        | none => none } }
  | _ => s

/-- The verdict on a write of the intake unit for a region and context. -/
def State.intakeVerdict (s : State) (k : Ctx) (a n : Nat) : Verdict :=
  s.regionVerdict a n k.decl.region (s.landOk a n s.glb.modIx.val k.decl.ctx)

/-- One part written to its destination on this module. -/
def State.writePart (s : State) (k : Ctx) (c : CoreIx) (a : Nat) (bs : List Byte) (bad last : Bool) : State :=
  match s.intakeVerdict k a bs.length with
  | .ok => (s.retireOver a bs.length).landWrite (some c) a s.glb.modIx.val k.decl.ctx bs bad last
  | .refused => (s.landMiss a bs.length s.glb.modIx.val k.decl.ctx last).refusedEvent a k.decl.ctx c.val
  | _ => s

/-- What an archive fetch brings data for: a descriptor of a command, or, of what is fetched again (R266), one of its segments and under
multicast the targets that turned it away, each with the packets it did. -/
structure Fetcher where
  core : CoreIx
  task : TaskIx
  cmd  : Nat
  desc : Nat
  only : List (CoreIx × Nat) := []
  seg  : Option Nat := none
  deriving DecidableEq, Repr

/-- The descriptor of a fetch. -/
def State.fetchDesc (s : State) (r : Fetcher) : Option Desc :=
  match (s.task r.core r.task).cmd? r.cmd with
  | some m => m.descs[r.desc]?
  | none => none

/-- The shard offset that a descriptor's source begins at. -/
def State.srcOffset (s : State) (r : Fetcher) (fd : StreamD) : Nat := bits (s.locAddr r.core r.task fd.src) 0 40

/-- The parts of folio `f` that a fetch is for. -/
def State.fetchParts (s : State) (r : Fetcher) (d : Desc) (w f : Nat) : List FolioPart :=
  (folioParts d (s.srcOffset r (streamD d.bytes)) w f).filter fun x => r.seg.isNone || r.seg == some x.seg

/-- The mark of the packets of a multicast folio: its segment, its descriptor and its number (R266). -/
def folioMark (seg desc f : Nat) : Nat := 1 + f + 2 ^ 32 * desc + 2 ^ 64 * seg

/-- Bytes multicast from the attachment field's router into slot *s* mod *N* of every target (R272), or, fetched again, into that of the
targets which turned them away (R266). -/
def State.mcastPart (s : State) (r : Fetcher) (d : Desc) (fd : StreamD) (seg f inSlot : Nat) (bs : List Byte)
    (bad : List (Nat × Nat)) (last : Bool) : State :=
  let at_ := fd.dst.off + 65536 * ((d.mcBase + seg) % max 1 (s.mcastSlots fd)) + inSlot
  let send (s : State) (rect cmask : Nat) : State :=
    s.mcastOut (s.mcastField r.core fd true) r.core 0 r.task r.cmd 2 fd.ctx rect cmask at_ bs bad last false (folioMark seg r.desc f)
  if r.only.isEmpty then send s fd.rect fd.cmask
  else r.only.foldl (fun s e =>
    let x := fieldX (coreField e.1).val
    let y := fieldY (coreField e.1).val
    send s (512 * x + 64 * x + 8 * y + y) (2 ^ (coreLocal e.1).val)) s

/-- A part of a folio leaves for its destination, digested under DIG the first time it does. -/
def State.sendPart (s : State) (k : Ctx) (r : Fetcher) (d : Desc) (fd : StreamD) (f : Nat) (x : FolioPart) (bs : List Byte)
    (bad : Bool) : State :=
  let c := r.core
  let piece := slice bs x.folio x.n
  let rb := if bad then [(0, x.n)] else []
  let s1 := if fd.dig && r.only.isEmpty then
      s.digestRun c r.task fd.cacc (fd.posbase + x.off / max 1 (elemBytes fd.efmt)) fd.efmt piece rb
    else s
  if fd.mcast then s1.mcastPart r d fd x.seg f x.inSeg piece rb x.last
  else s1.writePart k c (s.locAddr c r.task fd.dst + x.off) piece bad x.last

/-- What a segment of a descriptor with a codec makes of its bytes, all of them in hand, leaves for its destination (R160, R216). -/
def State.sendCodec (s : State) (k : Ctx) (r : Fetcher) (d : Desc) (fd : StreamD) (f i : Nat) : State :=
  let c := r.core
  let seg := descSegAt 0x40 d.bytes i
  let sp := fd.fetchSpan seg
  let got := d.gather sp.1 sp.2
  let o := fd.transform got.1 got.2
  let s1 := (if fd.dig && r.only.isEmpty then s.digestStream c r.task fd seg false got.1 got.2 o else s).countTrans c o
  let rows := fd.outs seg false
  let first := match rows.head? with
    | some y => y.2.1
    | none => 0
  (rows.zipIdx).foldl (fun s y =>
    let last : Bool := y.2 + 1 == rows.length
    let bs := slice o.flat.1 y.1.1 y.1.2.2
    let rb := cutBad o.flat.2 y.1.1 y.1.2.2
    if fd.mcast then s.mcastPart r d fd i f (y.1.2.1 - first) bs rb last
    else
      let a := s.locAddr c r.task fd.dst + y.1.2.1
      let ps := pieces a bs.length rb
      (ps.zipIdx).foldl (fun s z => s.writePart k c (a + z.1.1) (slice bs z.1.1 z.1.2.1) z.1.2.2 (last && z.2 + 1 == ps.length)) s) s1

/-- The ranges (rack address, length) that a part of a folio is written to: its own, or under a codec all that its segment makes. -/
def State.partRanges (s : State) (r : Fetcher) (d : Desc) (fd : StreamD) (x : FolioPart) : List (Nat × Nat) :=
  let dst := s.locAddr r.core r.task fd.dst
  if fd.codec = 0 then [(dst + x.off, x.n)] else (fd.outs (descSegAt 0x40 d.bytes x.seg) false).map fun y => (dst + y.2.1, y.2.2)

/-- Some part is bound for a parked place (R266). A multicast's targets answer for themselves. -/
def State.partParked (s : State) (k : Ctx) (r : Fetcher) (d : Desc) (fd : StreamD) (xs : List FolioPart) : Bool :=
  !fd.mcast && xs.any fun x => (s.partRanges r d fd x).any fun y => s.intakeVerdict k y.1 y.2 == .parked

/-- The gang of segment `i` of a descriptor. -/
def State.segGang (s : State) (r : Fetcher) (d : Desc) (i : Nat) : Option Gang :=
  (s.core r.core).gangs.find? fun g => g.task == r.task && g.cmd == r.cmd && g.index == d.first + i

/-- The segment runs: it has started and was not refused. -/
def State.segOpen (s : State) (r : Fetcher) (d : Desc) (i : Nat) : Bool :=
  match s.segGang r d i with
  | some x => x.started && !x.refused
  | none => false

/-- The segment has not started: its gang waits, or has not spawned. -/
def State.segAhead (s : State) (r : Fetcher) (d : Desc) (i : Nat) : Bool :=
  match s.segGang r d i with
  | some x => !x.started
  | none => match (s.task r.core r.task).cmd? r.cmd with
    | some m => decide (m.spawned ≤ d.first + i)
    | none => false

/-- A segment waits no longer for `n` bytes. -/
def State.creditSeg (s : State) (r : Fetcher) (d : Desc) (i n : Nat) : State :=
  s.modCore r.core fun k => { k with gangs := k.gangs.map fun g =>
    if g.task == r.task && g.cmd == r.cmd && g.index == d.first + i && g.started && !g.refused then { g with await := g.await - n } else g }

/-- A part kept until its segment can use it. -/
def State.keepPart (s : State) (r : Fetcher) (x : FolioPart) (bs : List Byte) (bad : Bool) : State :=
  s.modTask r.core r.task fun k => k.modCmd r.cmd fun y => y.modDesc r.desc fun z =>
    { z with parts := z.parts ++ [(x.off, slice bs x.folio x.n, bad)] }

/-- The last part that a segment under a codec needs sends what the segment makes. -/
def State.codecPart (s : State) (k : Ctx) (r : Fetcher) (fd : StreamD) (f : Nat) (x : FolioPart) : State :=
  match s.fetchDesc r with
  | none => s
  | some d =>
    let whole : Bool := match s.segGang r d x.seg with
      | some g => decide (g.await ≤ x.n)
      | none => false
    if whole then s.sendCodec k r d fd f x.seg else s

/-- A part fetched again for some targets goes to them; each still awaited the acknowledgements of what it turned away. -/
def State.partAgain (s : State) (k : Ctx) (r : Fetcher) (d : Desc) (fd : StreamD) (f : Nat) (bs : List Byte) (bad : Bool)
    (x : FolioPart) : State :=
  let n := (r.only.map Prod.snd).sum
  (if fd.codec = 0 then s.sendPart k r d fd f x bs bad else s.sendCodec k r d fd f x.seg).modTask r.core r.task fun t =>
    t.modCmd r.cmd fun z => { z with acks := z.acks - n }

/-- One part of a folio lands; that of a segment that has not started is kept for it, that of a refused one is dropped (R173). -/
def State.landPart (s : State) (k : Ctx) (r : Fetcher) (d : Desc) (fd : StreamD) (f : Nat) (bs : List Byte) (bad : Bool) (x : FolioPart) :
    State :=
  if !r.only.isEmpty then s.partAgain k r d fd f bs bad x
  else if s.segOpen r d x.seg then
    (if fd.codec = 0 then s.sendPart k r d fd f x bs bad else (s.keepPart r x bs bad).codecPart k r fd f x).creditSeg r d x.seg x.n
  else if s.segAhead r d x.seg then s.keepPart r x bs bad
  else s

/-- A want for a folio that was answered "destination parked" (R266). -/
def Fetcher.again (r : Fetcher) (ctx : BitVec 16) (shard f : Nat) (seg : Option Nat) : ArchWant :=
  { core := r.core, task := r.task, cmd := r.cmd, desc := r.desc, ctx := ctx, shard := shard, first := f, count := 1, seg := seg }

/-- The parts of folio `f` land, or, where a write is answered "destination parked", are discarded and kept to be fetched again
(R264, R266). -/
def State.landParts (s : State) (r : Fetcher) (d : Desc) (shard f : Nat) (bs : List Byte) (bad : Bool) (xs : List FolioPart)
    (seg : Option Nat) : State :=
  let fd := streamD d.bytes
  match s.ctx? fd.ctx with
  | none => s
  | some k =>
    if s.partParked k r d fd (xs.filter fun x => s.segOpen r d x.seg) then
      { s.countParked with intk := { s.intk with parked := s.intk.parked ++ [r.again fd.ctx shard f seg] } }
    else xs.foldl (fun s x => s.landPart k r d fd f bs bad x) s

/-- A folio of a shard of folios of `w` bytes lands. -/
def State.landFolio (s : State) (r : Fetcher) (shard w f : Nat) (bs : List Byte) (bad : Bool) : State :=
  match s.fetchDesc r with
  | none => s
  | some d => s.landParts r d shard f bs bad (s.fetchParts r d w f) r.seg

/-- What has come for a segment before it started lands as it starts. -/
def State.landKept (s : State) (r : Fetcher) (shard w i : Nat) : State :=
  match s.fetchDesc r with
  | none => s
  | some d =>
    let fd := streamD d.bytes
    let sp := fd.fetchSpan (descSegAt 0x40 d.bytes i)
    let so := s.srcOffset r fd
    let mine (p : Nat × List Byte × Bool) : Bool := decide (sp.1 ≤ p.1) && decide (p.1 < sp.1 + sp.2)
    let s1 := s.modTask r.core r.task fun k => k.modCmd r.cmd fun y => y.modDesc r.desc fun z =>
      { z with parts := z.parts.filter fun p => !mine p }
    (d.parts.filter mine).foldl (fun s p =>
      let n := p.2.1.length
      s.landParts r d shard ((so + p.1) / max 1 w) p.2.1 p.2.2
        [{ seg := i, folio := 0, inSeg := p.1 - sp.1, off := p.1, n := n, last := p.1 + n == sp.1 + sp.2 }] (some i)) s1

end Sys2Proof.Machine
end

