-- ==== Sys2Proof/Machine/Intake.lean ====
section
/-! DEFINITION. Weight intake (R249 to R282): archive requests and returns, the records of folios, digests and errors, shard
trackers and residency, and the requests of the lower tiers that time out or complete late (R221, R246, R247), with the refresh and
patrol of the stacks (R238, R241). -/

namespace Sys2Proof.Machine

/-! ## Requests to the archive (R258 to R260) -/

/-- The archive context of a sublink: the context's port group and plane. -/
def State.ctxOn (s : State) (ctx : BitVec 16) (g : GroupIx) (u : SubIx) : Bool :=
  ctxSub ctx == u && (match s.ctx? ctx with
    | some k => k.group == g && k.decl.intake
    | none => false)

/-- Folios of the next request of a want: at most 256, and at most 16 MiB of bodies (R258). -/
def reqFolios (w count : Nat) : Nat := min count (min 256 (max 1 (2 ^ 24 / max 1 w)))

/-- Requests outstanding on a context, and on an attachment field. -/
def State.ctxReqs (s : State) (ctx : BitVec 16) : Nat :=
  (s.intk.reqs.filter fun r => bits r.reqId.toNat 16 16 == ctx.toNat).length
def State.fieldReqs (s : State) (g : GroupIx) (u : SubIx) : Nat :=
  (s.intk.reqs.filter fun r => r.group == g && r.sub == u).length

/-- An open tracker of a shard. -/
def State.tracker? (s : State) (acc : BitVec 48) : Option Tracker := s.intk.trackers.find? fun t => t.accession == acc

/-- The limits of R260 and the tracker limit of R268 leave room for a want's next request. -/
def State.wantFits (s : State) (g : GroupIx) (u : SubIx) (w : ArchWant) : Bool :=
  match s.image.shards[w.shard]? with
  | none => true
  | some sh =>
    s.ctxOn w.ctx g u && decide (s.ctxReqs w.ctx < 16) && decide (s.fieldReqs g u < 512) && decide (s.intk.reqs.length < 4096)
      && decide (s.intk.rob + reqFolios sh.w w.count ≤ 65536)
      && ((s.tracker? sh.accession).isSome || decide (s.intk.trackers.length < 256))

/-- A want is its context's oldest: no later one overtakes it (R271). -/
def State.wantFirst (s : State) (w : ArchWant) : Bool := (s.intk.want.find? fun x => x.ctx == w.ctx) == some w

/-- The upper header of an archive request (Table INT-3). -/
def State.requestHeader (s : State) (sh : ShardEntry) (first n : Nat) (open_ : Bool) (reqId : Nat) (g : GroupIx) : List Byte :=
  leBytes 6 sh.accession.toNat ++ leBytes 1 0x81 ++ leBytes 1 (ofFlag open_) ++ leBytes 4 first ++ leBytes 2 n ++ zeros 2
    ++ leBytes 4 reqId ++ leBytes 2 s.cfg.active.rackId.toNat ++ leBytes 1 s.glb.modIx.val ++ leBytes 1 g.val
    ++ leBytes 8 s.intk.verRun.toNat ++ zeros 32

/-- A tracker for a pass that opens (R268, R269). -/
def newTracker (sh : ShardEntry) (ix : Nat) (version : W64) : Tracker :=
  { accession := sh.accession, shard := ix, count := sh.count, version := version, absorbed := 0, digs := [], early := [], seen := []
    hashing := [], expected := none }

/-- One request issued for a want: the packet on VC5, its reorder entries, and the pass it opens (R259, R260, R269). -/
def State.issueWant (s : State) (g : GroupIx) (u : SubIx) (w : ArchWant) (sh : ShardEntry) : State :=
  let n := reqFolios sh.w w.count
  let opens := (s.tracker? sh.accession).isNone
  match s.ctx? w.ctx with
  | none => s
  | some k =>
    let reqId := w.ctx.toNat * 65536 + k.seq.toNat
    let r : ArchReq :=
      { reqId := BitVec.ofNat 32 reqId, group := g, sub := u, core := w.core, task := w.task, cmd := w.cmd, desc := w.desc
        shard := w.shard, accession := sh.accession, first := w.first, count := n, next := w.first, want := opens
        version := s.intk.verRun, gotRec := false, deadline := s.now + s.timeoutOf .archAck, only := w.only, seg := w.seg }
    let rest := if w.count ≤ n then [] else [{ w with first := w.first + n, count := w.count - n }]
    let s1 := s.modCtx w.ctx fun k => { k with seq := k.seq + 1 }
    let s2 := { s1 with intk := { s1.intk with
      want := s1.intk.want.flatMap fun x => if x == w then rest else [x]
      reqs := s1.intk.reqs ++ [r], rob := s1.intk.rob + n, req := bump s1.intk.req
      trackers := if opens then s1.intk.trackers ++ [newTracker sh w.shard s1.intk.verRun] else s1.intk.trackers } }
    s2.sendLink g u
      { s2.linkBase 0x10 5 (BitVec.ofNat 8 k.decl.peer) ((s.sendKey g k.decl.region).getD 0) w.ctx with
        uhdr := s.requestHeader sh w.first n opens reqId g }

/-- ARCHIVE_REQUEST_ISSUE: the attachment field's next request leaves once the limits have room, a context's requests in order (R258
to R260, R271). -/
def execArchiveRequestIssue (g : GroupIx) (u : SubIx) (s : State) : Host.Outcome State Fault Refusal :=
  .next (match s.intk.want.find? fun w => s.wantFirst w && s.wantFits g u w && s.ctxOn w.ctx g u with
    | none => s
    | some w =>
      match s.image.shards[w.shard]? with
      | none => s
      | some sh => s.issueWant g u w sh)

/-! ## Records (R253, R261, R262) -/

/-- Bytes of a folio body of a shard, given the body's own MAP (R252). -/
def folioLen (sh : ShardEntry) (body : List Byte) : Nat :=
  if sh.pattern % 4 = 3 then
    let n := countBits 18 (bits (fieldAt body 0 4) 0 18)
    256 + 6144 * n * elemBits sh.efmt / 8 + (if 9 ≤ sh.efmt then 192 * n else 0)
  else sh.w

/-- The CRC of a record matches (R254). -/
def recordCrc (p : LinkPacket) : Bool := crc64 (p.uhdr.take 56 ++ p.body) == fieldAt p.uhdr 56 8

/-- The outstanding request a record answers (R262): its REQ_ID, port and accession. -/
def State.recordReq (s : State) (g : GroupIx) (u : SubIx) (p : LinkPacket) : Option ArchReq :=
  s.intk.reqs.find? fun r => r.group == g && r.sub == u && r.reqId.toNat == fieldAt p.uhdr 16 4
    && r.accession.toNat == fieldAt p.uhdr 0 6

/-- A record of an archive request's versions: the same as its earlier records (R261). -/
def ArchReq.versionOk (r : ArchReq) (p : LinkPacket) : Bool := !r.gotRec || r.version.toNat == fieldAt p.uhdr 24 8

/-- A record is one of a request: matched, late, or a violation (R246, R262). -/
def State.record (s : State) (g : GroupIx) (u : SubIx) (p : LinkPacket) (mine : Nat → Bool)
    (eff : State → ArchReq → ShardEntry → State) : State :=
  s.received g u p 0x11 fun s1 =>
    if !mine (fieldAt p.uhdr 6 1) then s1
    else
      match s1.recordReq g u p with
      | none => if s1.intk.ended.any fun x => x.toNat == fieldAt p.uhdr 16 4 then s1.lateDiscard else s1.rxRefuse g u p 0x14
      | some r =>
        match s1.image.shards[r.shard]? with
        | some sh => if r.versionOk p then eff s1 r sh else s1.rxRefuse g u p 0x14
        | none => s1.rxRefuse g u p 0x14

/-- An archive request rewritten. -/
def State.modArch (s : State) (id : W32) (f : ArchReq → ArchReq) : State :=
  { s with intk := { s.intk with reqs := s.intk.reqs.map fun r => if r.reqId == id then f r else r } }

/-- An archive request is over. -/
def State.dropArch (s : State) (id : W32) : State :=
  { s with intk := { s.intk with reqs := s.intk.reqs.filter fun r => r.reqId != id } }

/-- An event of the intake unit: accession, version, index (Table FLT-3). -/
def State.intakeEvent (s : State) (loc : Nat) (acc : BitVec 48) (version index : Nat) : State :=
  s.modEvent 1 3 loc (leBytes 6 acc.toNat ++ leBytes 8 version ++ leBytes 4 index)

/-! ## Folios and passes (R264, R267 to R269) -/

/-- What a request's data is for. -/
def ArchReq.fetcher (r : ArchReq) : Fetcher :=
  { core := r.core, task := r.task, cmd := r.cmd, desc := r.desc, only := r.only, seg := r.seg }

/-- Where a folio lands in this module's stacks: the base of its shard there, and the ranges of the shard (first, end) (R276). -/
def State.folioLands (s : State) (r : Fetcher) (w f : Nat) : Option (Nat × List (Nat × Nat)) :=
  match s.fetchDesc r with
  | none => none
  | some d =>
    let fd := streamD d.bytes
    let so := s.srcOffset r fd
    if fd.mcast || fd.codec != 0 then none
    else
      match place (s.locAddr r.core r.task fd.dst) with
      | .stacks o => if so ≤ o then some (o - so, (s.fetchParts r d w f).map fun x => (so + x.off, so + x.off + x.n)) else none
      | _ => none

/-- A range (first, end) joined to ranges that do not touch one another. -/
def joinRange (rs : List (Nat × Nat)) (x : Nat × Nat) : List (Nat × Nat) :=
  let meets (y : Nat × Nat) : Bool := decide (y.1 ≤ x.2) && decide (x.1 ≤ y.2)
  let all := rs.filter meets
  ((all.foldl (fun (m : Nat × Nat) y => (min m.1 y.1, max m.2 y.2)) x)) :: rs.filter fun y => !meets y

/-- Ranges of a shard landed at a base noted (R276). -/
def Tracker.noteLanded (t : Tracker) (x : Option (Nat × List (Nat × Nat))) : Tracker :=
  match x with
  | none => t
  | some (b, rs) =>
    let old := match t.landed.find? fun e => e.1 == b with
      | some e => e.2
      | none => []
    { t with landed := (b, rs.foldl joinRange old) :: t.landed.filter fun e => e.1 != b }

/-- The base at which the whole shard has landed, if it has (R276). -/
def Tracker.base (t : Tracker) (w : Nat) : Option Nat := (t.landed.find? fun e => e.2 == [(0, t.count * w)]).map Prod.fst

/-- A tracker after a folio has arrived: its first arrival in the pass is hashed (R267 to R269). -/
def Tracker.arrive (t : Tracker) (f : Nat) (bs : List Byte) (version : W64) : Tracker :=
  let fresh := !t.seen.contains f
  { t with version := version, seen := if fresh then f :: t.seen else t.seen
           hashing := if fresh then t.hashing ++ [(f, bs)] else t.hashing }

/-- A shard's tracker rewritten. -/
def State.modTracker (s : State) (acc : BitVec 48) (f : Tracker → Tracker) : State :=
  { s with intk := { s.intk with trackers := s.intk.trackers.map fun t => if t.accession == acc then f t else t } }

/-- A folio will be hashed: a tracker is open that has not seen it. -/
def State.hashes (s : State) (acc : BitVec 48) (f : Nat) : Bool :=
  match s.tracker? acc with
  | some t => !t.seen.contains f
  | none => false

/-- Reorder entries freed. -/
def State.freeRob (s : State) (n : Nat) : State := { s with intk := { s.intk with rob := s.intk.rob - n } }

/-- The bytes of intake multicast that wait before the entry router (R274). -/
def State.entryWait (s : State) (g : GroupIx) (u : SubIx) : Nat :=
  ((s.mcast.filter fun c => c.prev == c.dest && c.dest.val == attachField g u && c.pkt.vc == 2).map fun c => c.pkt.body.length).sum

/-- A folio record of the shape its request expects: next index, digest record seen, length and formats right (R261, R262). -/
def ArchReq.folioOk (r : ArchReq) (sh : ShardEntry) (p : LinkPacket) : Bool :=
  fieldAt p.uhdr 6 1 == 1 && !r.want && fieldAt p.uhdr 8 4 == r.next && fieldAt p.uhdr 12 4 == p.body.length
    && p.body.length == folioLen sh p.body && decide (p.body.length ≤ sh.w)
    && fieldAt p.uhdr 20 1 == sh.efmt && fieldAt p.uhdr 21 1 == sh.pattern

/-- Body bytes received on a group (R255, Table INT-9). -/
def State.countBody (s : State) (g : GroupIx) (n : Nat) : State :=
  { s with intk := { s.intk with bytes := upd s.intk.bytes (⟨g.val % 4, Nat.mod_lt _ (by decide)⟩ : Fin 4) fun x => bump x n } }

/-- A checked folio record taken: counted, landed clean or poisoned, hashed (R252, R264, R267). -/
def State.takeFolio (s : State) (g : GroupIx) (r : ArchReq) (sh : ShardEntry) (p : LinkPacket) : State :=
  let f := r.next
  let ok := recordCrc p
  let poison := fieldAt p.uhdr 7 1 == 1
  let bs := p.body ++ zeros (sh.w - p.body.length)
  let version : W64 := BitVec.ofNat 64 (fieldAt p.uhdr 24 8)
  let s0 := s.countBody g p.body.length
  let s1 := { s0 with intk := { s0.intk with
    folioBad := if ok then s.intk.folioBad else bump s.intk.folioBad
    recPois := if ok && poison then bump s.intk.recPois else s.intk.recPois } }
  let s2 := if ok && !poison then s1 else s1.intakeEvent 1 sh.accession version.toNat f
  let s3 := if s2.hashes sh.accession f then
      s2.modTracker sh.accession fun t => t.arrive f bs version
    else s2.freeRob 1
  let s3 := s3.modTracker sh.accession fun t => t.noteLanded (s.folioLands r.fetcher sh.w f)
  let s4 := s3.landFolio r.fetcher r.shard sh.w f bs (!ok || poison)
  if f + 1 = r.first + r.count then s4.dropArch r.reqId
  else s4.modArch r.reqId fun x => { x with next := x.next + 1, gotRec := true, version := version }

/-- ARCHIVE_RECORD: a folio is checked by CRC and written, poisoned on failure or poison status (R261 to R264, R274). It waits in the
receive buffer while the entry router is full (R274). -/
def execArchiveRecord (g : GroupIx) (u : SubIx) (p : LinkPacket) (s : State) : Host.Outcome State Fault Refusal :=
  .next (if 2 ^ 21 < s.entryWait g u + p.body.length then s
    else s.record g u p (fun k => k != 2 && k != 3) fun s1 r sh =>
      if r.folioOk sh p then s1.takeFolio g r sh p else s1.rxRefuse g u p 0x14)

/-! ## Passes (R268 to R270, R276) -/

/-- A pass fails: counted and logged once (R270). -/
def State.passMiss (s : State) (t : Tracker) : State :=
  ({ s with intk := { s.intk with dgstMiss := bump s.intk.dgstMiss } }).intakeEvent 3 t.accession t.version.toNat 0

/-- The expected digest of a tracker: the SHARDS entry's, else the digest record's (R270). -/
def State.expectedOf (s : State) (t : Tracker) : Option (List Byte) :=
  match s.image.shards[t.shard]? with
  | some sh => if sh.digest.all (· == 0) then t.expected else some sh.digest
  | none => t.expected

/-- The first free entry of the residency table. -/
def Intake.freeEntry (k : Intake) : Option (Fin 256) := (List.finRange 256).find? fun i => (k.resident[i]).isNone

/-- A pass dropped, or not entered as resident (R269, R276). -/
def State.dgstSkip (s : State) : State := { s with intk := { s.intk with dgstSkip := bump s.intk.dgstSkip } }

/-- A pass over a shard with RESIDE ends: a shard whose digest matched and that lies whole at one base of the stacks enters the residency
table; every other pass is counted as not entered (R276). -/
def State.reside (s : State) (t : Tracker) (ok : Bool) (digest : List Byte) : State :=
  match s.image.shards[t.shard]? with
  | none => s
  | some sh =>
    if !sh.reside then s
    else
      match s.intk.freeEntry, t.base sh.w with
      | some i, some b =>
        if !ok then s.dgstSkip
        else
          let e : Resident :=
            { accession := t.accession, version := t.version, base := b, count := t.count, w := sh.w, digest := digest, scrubbing := false }
          { s with intk := { s.intk with resident := s.intk.resident.set i (some e) } }
      | _, _ => s.dgstSkip

/-- A pass whose folios have all been absorbed ends: its digest is compared and remembered (R269, R270, R276). -/
def State.endPass (s : State) (t : Tracker) : State :=
  let digest := sha256 t.digs
  let ok := !t.failed && s.expectedOf t == some digest
  let e : PassEnd := { accession := t.accession, ok := ok, version := t.version, digest := digest }
  let s1 := { s with intk := { s.intk with
    trackers := s.intk.trackers.filter fun x => x.accession != t.accession
    passes := e :: s.intk.passes.filter fun x => x.accession != t.accession } }
  (if ok || t.failed then s1 else s1.passMiss t).reside t ok digest

/-- A tracker absorbs the digests it holds in index order (R268). -/
def Tracker.absorb : Nat → Tracker → Tracker
  | 0, t => t
  | n + 1, t =>
    match t.early.find? fun e => e.1 == t.absorbed with
    | some e =>
      Tracker.absorb n { t with digs := t.digs ++ e.2, absorbed := t.absorbed + 1, early := t.early.filter fun x => x.1 != e.1 }
    | none => t

/-- FOLIO_DIGEST_DONE: a digest lane's folio digest is absorbed in index order, and the last one ends the pass (R267 to R270). -/
def execFolioDigestDone (accession : BitVec 48) (index : Nat) (s : State) : Host.Outcome State Fault Refusal :=
  .next (match s.tracker? accession with
    | none => s
    | some t =>
      match t.hashing.find? fun h => h.1 == index with
      | none => s
      | some h =>
        let t1 : Tracker :=
          { t with hashing := t.hashing.filter fun x => x.1 != index, early := t.early ++ [(index, sha256 h.2)] }
        let t2 := t1.absorb t1.early.length
        let s1 := (s.modTracker accession fun _ => t2).freeRob (t2.absorbed - t.absorbed)
        if t2.absorbed = t2.count then s1.endPass t2 else s1)

/-- A digest record taken: its pass learns the digest, and fails at once where the SHARDS entry has another (R270). -/
def State.takeDigest (s : State) (r : ArchReq) (sh : ShardEntry) (p : LinkPacket) : State :=
  let version : W64 := BitVec.ofNat 64 (fieldAt p.uhdr 24 8)
  let dg := p.body.take 32
  let s1 := s.modArch r.reqId fun x => { x with want := false, gotRec := true, version := version }
  let clash := !sh.digest.all (· == 0) && dg != sh.digest
  match s1.tracker? sh.accession with
  | none => s1
  | some t =>
    let s2 := s1.modTracker sh.accession fun t =>
      { t with expected := if recordCrc p then some dg else t.expected, version := version, failed := t.failed || (recordCrc p && clash) }
    if recordCrc p && clash && !t.failed then s2.passMiss { t with version := version } else s2

/-- ARCHIVE_DIGEST_RECORD: the expected shard digest of a pass (R261, R262, R270). -/
def execArchiveDigestRecord (g : GroupIx) (u : SubIx) (p : LinkPacket) (s : State) : Host.Outcome State Fault Refusal :=
  .next (s.record g u p (fun k => k == 2) fun s1 r sh =>
    if r.want && fieldAt p.uhdr 8 4 == r.first && fieldAt p.uhdr 12 4 == 64 && p.body.length == 64 then (s1.countBody g 64).takeDigest r sh p
    else s1.rxRefuse g u p 0x14)

/-- Each folio of a request not yet written is written as zero and poisoned, and the request ends (R265). -/
def State.failArch (s : State) (r : ArchReq) (sh : ShardEntry) : State :=
  let left := (List.range (r.first + r.count - r.next)).map fun i => r.next + i
  let s1 := left.foldl (fun s f => s.landFolio r.fetcher r.shard sh.w f (zeros sh.w) true) s
  (State.freeRob { s1 with intk := { s1.intk with recPois := bump s1.intk.recPois left.length } } left.length).dropArch r.reqId

/-- ARCHIVE_ERROR_RECORD: the request ends and its unwritten folios land zero and poisoned (R261, R265). -/
def execArchiveErrorRecord (g : GroupIx) (u : SubIx) (p : LinkPacket) (s : State) : Host.Outcome State Fault Refusal :=
  .next (s.record g u p (fun k => k == 3) fun s1 r sh =>
    if fieldAt p.uhdr 8 4 == r.first && fieldAt p.uhdr 12 4 == 0 && p.body.isEmpty then
      (s1.intakeEvent 2 sh.accession (fieldAt p.uhdr 24 8) r.next).failArch r sh
    else s1.rxRefuse g u p 0x14)

/-! ## Parked folios and returns (R263, R266) -/

/-- The folio's destinations no longer answer "destination parked". -/
def State.unparked (s : State) (w : ArchWant) : Bool :=
  match (s.task w.core w.task).cmd? w.cmd, s.image.shards[w.shard]?, s.ctx? w.ctx with
  | some m, some sh, some k =>
    (match m.descs[w.desc]? with
     | none => true
     | some d =>
       let fd := streamD d.bytes
       let r : Fetcher := { core := w.core, task := w.task, cmd := w.cmd, desc := w.desc, only := w.only, seg := w.seg }
       !s.partParked k r d fd (s.fetchParts r d sh.w w.first) && w.only.all fun e => !s.parkedAt (.scratch e.1 0))
  | _, _, _ => true

/-- PARKED_REFETCH: a context's parked folios whose domain has returned are asked for again (R266). -/
def execParkedRefetch (ctx : BitVec 16) (s : State) : Host.Outcome State Fault Refusal :=
  .next (
    let go := s.intk.parked.filter fun w => w.ctx == ctx && s.unparked w
    { s with intk := { s.intk with
      parked := s.intk.parked.filter fun w => !go.contains w
      want := s.intk.want ++ go, refetch := bump s.intk.refetch go.length } })

/-- The upper header of an archive return packet (Table INT-2), CRC included. -/
def State.returnHeader (s : State) (sh : ShardEntry) (off n reqId : Nat) (bs : List Byte) (bad : Bool) : List Byte :=
  let h := leBytes 6 sh.accession.toNat ++ leBytes 1 4 ++ leBytes 1 (ofFlag bad) ++ leBytes 4 (off / 4096) ++ leBytes 4 n
    ++ leBytes 4 reqId ++ leBytes 1 sh.efmt ++ leBytes 1 sh.pattern ++ zeros 2 ++ leBytes 8 s.intk.verRun.toNat ++ zeros 24
  h ++ leBytes 8 (crc64 (h ++ bs))

/-- One archive return packet leaves for a gang: bytes `4096 i ..` of what its segment returns. -/
def State.sendReturn (s : State) (c : CoreIx) (x : Gang) (sh : ShardEntry) (ctx : BitVec 16) (k : Ctx) (off : Nat) (data : List Byte)
    (foul : List (Nat × Nat)) (i : Nat) : State :=
  let bs := slice data (4096 * i) 4096
  let bad := !(cutBad foul (4096 * i) bs.length).isEmpty
  let seq := match s.ctx? ctx with
    | some y => y.seq.toNat
    | none => 0
  let p : LinkPacket :=
    { s.linkBase 0x14 5 0x80 ((s.sendKey k.group (s.region c)).getD 0) ctx with
      tag := BitVec.ofNat 32 s.memu.nextReq, status := if bad then 1 else 0, body := bs
      uhdr := s.returnHeader sh (off + 4096 * i) bs.length (ctx.toNat * 65536 + seq) bs bad }
  (((s.modCtx ctx fun y => { y with seq := y.seq + 1 }).addReq .archAck c x.slot x.task x.cmd ctx (off + 4096 * i) (4096 * i)
    bs.length (some p)).addAcks c x.task x.cmd 1).sendLink k.group (ctxSub ctx) p

/-- A return segment whose data is in hand leaves as packets of at most 4,096 bytes, under its codec; one that runs past the shard's end
is answered absent (R216, R256, R263). -/
def State.returnOut (s : State) (c : CoreIx) (x : Gang) (d : Desc) (sh : ShardEntry) (k : Ctx) : State :=
  let fd := streamD d.bytes
  let seg := gangSeg 0x40 d x.index
  let o := (fd.transform x.data x.poison).flat
  let off := bits (s.locAddr c x.task fd.dst) 0 40 + (match (fd.outs seg false).head? with
    | some y => y.2.1
    | none => 0)
  if sh.count * sh.w < off + o.1.length then s
  else (List.range (ceilDiv o.1.length 4096)).foldl (fun s i => s.sendReturn c x sh fd.ctx k off o.1 o.2 i) s

/-- ARCHIVE_RETURN_SEND: a return segment whose data is in hand is sent (R263). -/
def execArchiveReturnSend (c : CoreIx) (g : SlotIx) (s : State) : Host.Outcome State Fault Refusal :=
  .next (match (s.core c).gang? g with
    | none => s
    | some x =>
      match (s.task c x.task).cmd? x.cmd with
      | none => s
      | some m =>
        match m.descFor x.index with
        | none => s
        | some (_, d) =>
          let fd := streamD d.bytes
          let dst := s.locAddr c x.task fd.dst
          match s.ctx? fd.ctx, s.image.shards[bits dst 40 16]? with
          | some k, some sh =>
            if x.settled && s.holdsOn c x m d && addrRange dst == 4 then
              (s.returnOut c x d sh k).modGang c g fun y => { y with toSend := 0 }
            else s
          | _, _ => s)

/-! ## Scrub of resident shards (R278) -/

/-- A scrub pass starts over every residency entry. -/
def State.scrubAll (s : State) : State :=
  { s with intk := { s.intk with
    scrubBusy := s.intk.resident.any fun e => e.isSome, scrubNext := false
    resident := s.intk.resident.map fun e => e.map fun x => { x with scrubbing := true } } }

/-- Pitches between scrub passes, as in force. -/
def Intake.period (k : Intake) : Nat := bits k.scrubEff.toNat 16 16

/-- SCRUB_START: PERIOD pitches after the last start a scrub pass starts; one that still runs finishes first (R278). -/
def execScrubStart (s : State) : Host.Outcome State Fault Refusal :=
  .next (
    if s.intk.period = 0 ∨ s.intk.pitchesTo < s.intk.period then s
    else
      let s1 := { s with intk := { s.intk with pitchesTo := 0 } }
      if s.intk.scrubBusy then { s1 with intk := { s1.intk with scrubOvr := bump s1.intk.scrubOvr, scrubNext := true } }
      else s1.scrubAll)

/-- The shard digest of a resident shard as its stacks hold it now (R267). -/
def State.residentDigest (s : State) (e : Resident) : List Byte :=
  sha256 ((List.range e.count).flatMap fun i => sha256 (s.mem.read (stacksAddr (e.base + i * e.w)) e.w))

/-- The pass ends with its last entry, and one that was due starts. -/
def State.scrubEnd (s : State) : State :=
  if s.intk.resident.any fun e => match e with
    | some x => x.scrubbing
    | none => false
  then s
  else if s.intk.scrubNext then s.scrubAll
  else { s with intk := { s.intk with scrubBusy := false } }

/-- An entry whose scrub differs: counted, logged, its range poisoned, the entry retired (R131, R278). -/
def State.scrubBad (s : State) (i : Fin 256) (e : Resident) : State :=
  (State.intakeEvent { s with intk := { s.intk with scrubMiss := bump s.intk.scrubMiss, resident := s.intk.resident.set i none } } 4
    e.accession e.version.toNat 0).spoilAt none (granules (stacksAddr e.base) (e.count * e.w))

/-- SCRUB_ENTRY_DONE: an entry's recomputed digest is compared (R278). -/
def execScrubEntryDone (entry : Fin 256) (s : State) : Host.Outcome State Fault Refusal :=
  .next (if !s.intk.scrubBusy then s
    else
      match s.intk.resident[entry] with
      | none => s.scrubEnd
      | some e =>
        if !e.scrubbing then s
        else if s.residentDigest e = e.digest then
          State.scrubEnd
            { s with intk := { s.intk with resident := s.intk.resident.set entry (some { e with scrubbing := false }) } }
        else (s.scrubBad entry e).scrubEnd)

/-! ## Timeouts and late responses (R221, R246, R247) -/

/-- A request ended by its timeout: counted and logged (R246, R247). -/
def State.timedOut (s : State) (loc : Nat) (r : Req) : State :=
  ({ s with memu := { s.memu with timeouts := bump s.memu.timeouts } }).modEvent 1 2 loc (leBytes 8 r.addr.toNat)

/-- An archive request by its REQ_ID. -/
def State.arch? (s : State) (id : Nat) : Option ArchReq := s.intk.reqs.find? fun r => r.reqId.toNat == id

/-- An archive request ends by timeout; its later records are known as late (R246, R265). -/
def State.archTimeout (s : State) (r : ArchReq) : State :=
  let s1 := ({ s with
    memu := { s.memu with timeouts := bump s.memu.timeouts }
    intk := { s.intk with ended := r.reqId :: s.intk.ended } }).modEvent 1 2 2 (leBytes 6 r.accession.toNat)
  match s.image.shards[r.shard]? with
  | some sh => s1.failArch r sh
  | none => s1.dropArch r.reqId

/-- A read of the lower tiers. -/
def ReqKind.read (k : ReqKind) : Bool := k == .remoteRead || k == .hostRead

/-- REQUEST_TIMEOUT: a request past its deadline ends as an error response (R246, R265). The operand is a TAG, or 2^32 plus the
REQ_ID of an archive request (log entry 18). -/
def execRequestTimeout (req : Nat) (s : State) : Host.Outcome State Fault Refusal :=
  .next (
    if 2 ^ 32 ≤ req then
      (match s.arch? (req - 2 ^ 32) with
       | some r => if s.now < r.deadline then s else s.archTimeout r
       | none => s)
    else
      match (s.req? req).filter fun r => r.kind.read with
      | some r => if s.now < r.deadline then s else ((s.timedOut 2 r).failRead r).resumeEvery
      | none => s)

/-- ACK_TIMEOUT: a write, or a host write's flushing read, past its deadline counts as acknowledged with error (R221, R247). -/
def execAckTimeout (req : Nat) (s : State) : Host.Outcome State Fault Refusal :=
  .next (match (s.req? req).filter fun r => !r.kind.read with
    | some r => if decide (s.now < r.deadline) || r.parked then s else (s.timedOut 3 r).ackReq r
    | none => s)

/-- LATE_RESPONSE_DISCARD: a response of a request that has ended is discarded and counted (R246). -/
def execLateResponseDiscard (req : Nat) (s : State) : Host.Outcome State Fault Refusal :=
  .next (
    if s.memu.ended.contains req || s.intk.ended.any fun x => x.toNat + 2 ^ 32 == req then s.lateDiscard else s)

/-- The host port of a request's address. -/
def Req.port (r : Req) : Nat := bits r.addr.toNat 48 1

/-- HOST_FLUSH_READ_DONE: the zero-length read after a segment's host writes completes, and they count as acknowledged (R221). -/
def execHostFlushReadDone (port : PortIx) (req : Nat) (s : State) : Host.Outcome State Fault Refusal :=
  .next (match (s.req? req).filter fun r => r.kind == .hostFlush && r.port == port.val with
    | some r => s.ackReq r
    | none => if s.memu.ended.contains req then s.lateDiscard else s)

/-- HOST_READ_COMPLETION: the tray host's completion brings the next bytes of a host read, poisoned where it says so (R129,
R221). -/
def execHostReadCompletion (port : PortIx) (req : Nat) (poison : Bool) (bs : List Byte) (s : State) :
    Host.Outcome State Fault Refusal :=
  .next (match (s.req? req).filter fun r => r.kind == .hostRead && r.port == port.val with
    | some r => if r.got + bs.length ≤ r.len then s.readData r r.got bs poison else s
    | none => if s.memu.ended.contains req then s.lateDiscard else s)

/-! ## The stacks (R238, R239 to R241) -/

/-- STACK_REFRESH: a refresh of a field's stacks, with the requests it delayed (R238, FLD_STK_REFRESH_DLY). -/
def execStackRefresh (f : FieldIx) (delayed : Nat) (s : State) : Host.Outcome State Fault Refusal :=
  .next (if !(s.dom (vmif f)).isOn then s
    else s.modField f fun k => { k with refreshes := k.refreshes + 1, refDelay := bump k.refDelay delayed })

/-- REFRESH_RATE_CHANGE: doubled above 85.0 °C, back to normal after 10 ms below 83.0 °C (R238). -/
def execRefreshRateChange (f : FieldIx) (s : State) : Host.Outcome State Fault Refusal :=
  .next (
    let k := s.field f
    if 340 < k.stkTemp then s.modField f fun k => { k with double := true }
    else
      match k.stkCool with
      | some t => if t + 10000000 ≤ s.now then s.modField f fun k => { k with double := false } else s
      | none => s)

/-- PATROL_SCRUB_READ: the patrol reads the granule of a stacks address: `ecc` 1 a corrected error, 2 or more an uncorrectable
one (R239 to R242). -/
def execPatrolScrubRead (addr : W64) (ecc : BitVec 2) (s : State) : Host.Outcome State Fault Refusal :=
  .next (match place (addrLocal addr.toNat) with
    | .stacks o =>
      if !(s.dom (vmif (stacksField o))).isOn then s
      else if ecc = 0 then s
      else if ecc = 1 then s.eccCorr (addrLocal addr.toNat / 64)
      else s.eccUncorr (addrLocal addr.toNat / 64)
    | _ => s)

end Sys2Proof.Machine
end

