-- ==== Sys2Proof/Machine/Ledger.lean ====
section
/-! DEFINITION. The ledger (R336 to R342): records built, signed and written by the warden, commits, and the state skew that the
warden finds (R430, R462, R478). -/

namespace Sys2Proof.Machine

/-! ## The parts of a record (Tables AUD-2 and AUD-3) -/

/-- Offset of the input digests in an input block. -/
def blockInputs (b : List Byte) : Nat := ledgerHead + roundUp (2 * fieldAt b 8 2) 32

/-- The shard indices of an input block. -/
def blockShards (b : List Byte) : List Nat := (List.range (fieldAt b 8 2)).map fun i => fieldAt b (ledgerHead + 2 * i) 2

/-- The most recent ended pass of a shard in this run (R339). -/
def State.lastPass (s : State) (i : Nat) : Option PassEnd :=
  (s.image.shards[i]?).bind fun sh => s.intk.passes.find? fun e => e.accession == sh.accession

/-- The accession number of a shard index; free values for an index that the image does not hold (log entry 22). -/
def State.shardName (s : State) (i : Nat) : List Byte :=
  match s.image.shards[i]? with
  | some sh => leBytes 6 sh.accession.toNat
  | none => s.freeBytes 6

/-- A shard entry (R339). -/
def State.shardEntry (s : State) (i : Nat) : List Byte :=
  match s.lastPass i with
  | some e => s.shardName i ++ [if e.ok then 0 else 1, 0] ++ leBytes 8 e.version.toNat ++ (e.digest ++ zeros 32).take 32
  | none => s.shardName i ++ [2, 0] ++ zeros 40

/-- SHARD_ISSUE: some listed shard's status is not 0 (R339). -/
def State.shardIssue (s : State) (b : List Byte) : Bool :=
  (blockShards b).any fun i => match s.lastPass i with
    | some e => !e.ok
    | none => true

/-- A cairn entry of the input block: label, cairn, poisoned. -/
structure CairnIn where
  label  : Nat
  cairn  : Nat
  poison : Bool
  deriving DecidableEq, Repr

/-- The cairn entries of a request (Table AUD-2, R339). -/
def LedgerReq.cairns (r : LedgerReq) : List CairnIn :=
  let o := blockInputs r.block + 32 * fieldAt r.block 10 2
  (ledgerCairns r.block).zipIdx.map fun e =>
    { label := fieldAt e.1 0 4, cairn := fieldAt e.1 16 16
      poison := r.bad.any fun x => decide (x.1 < o + 32 * e.2 + 32) && decide (o + 32 * e.2 < x.1 + x.2) }

/-- The sum of the entries of a label, modulo 2^128 (R339). -/
def cairnSum (es : List CairnIn) (l : Nat) : Nat := ((es.filter fun e => e.label == l).map CairnIn.cairn).sum % 2 ^ 128

/-- A record's cairn entry (R339, Table AUD-3). -/
def cairnEntry (es : List CairnIn) (l : Nat) : List Byte :=
  let mine := es.filter fun e => e.label == l
  leBytes 4 l ++ leBytes 4 mine.length ++ [if mine.any CairnIn.poison then 1 else 0] ++ zeros 7 ++ leBytes 16 (cairnSum es l)

/-- POISON_SEEN: a poisoned granule among the input digests or cairns (R339). -/
def LedgerReq.poisonSeen (r : LedgerReq) : Bool := r.bad.any fun x => decide (blockInputs r.block < x.1 + x.2)

/-- ANCHORED: every task context of CORE_MASK runs anchored (Table AUD-3). -/
def State.allAnchored (s : State) : Bool :=
  (List.finRange 256).all fun c => !bit s.image.mask c.val || (s.core c).arith == BitVec.allOnes 4

/-- Growth of a counter summed over cores since launch, saturating at 32 bits (Table AUD-3). -/
def State.growth (s : State) (f : CoreCount → W64) (n0 : Nat) : Nat :=
  min ((s.cores.toList.map fun k => (f k.cnt).toNat).sum - n0) (2 ^ 32 - 1)

/-- The record commits: COMMIT asked, no poison seen, no shard issue (R342). -/
def State.commits (s : State) (r : LedgerReq) : Bool := bit (fieldAt r.block 4 1) 0 && !r.poisonSeen && !s.shardIssue r.block

/-- FLAGS of a record (Table AUD-3). -/
def State.recordFlags (s : State) (r : LedgerReq) : Nat :=
  ofFlag s.allAnchored + 2 * ofFlag (s.commits r) + 4 * ofFlag r.poisonSeen + 8 * ofFlag (s.shardIssue r.block) + 16 * ofFlag (!s.rtc.valid)

/-- Bytes 0 to 255 of a record (Table AUD-3). -/
def State.recordHead (s : State) (r : LedgerReq) : List Byte :=
  let b := r.block
  let labels := ledgerLabels b
  leBytes 4 0x5247444C ++ leBytes 2 1 ++ [BitVec.ofNat 8 s.glb.modIx.val, BitVec.ofNat 8 (s.recordFlags r)]
    ++ leBytes 4 (recordLen (fieldAt b 8 2) (fieldAt b 10 2) labels.length) ++ leBytes 2 (fieldAt b 8 2) ++ leBytes 2 (fieldAt b 10 2)
    ++ leBytes 2 labels.length ++ zeros 2 ++ leBytes 4 r.pnum ++ leBytes 8 s.pit.launchAt ++ leBytes 8 s.rtcUs ++ leBytes 8 r.seq.toNat
    ++ (Config.serial ++ zeros 16).take 16 ++ (s.image.digest ++ zeros 32).take 32 ++ leBytes 32 s.glb.coreEn.toNat
    ++ (s.image.teamDig ++ zeros 32).take 32 ++ leBytes 16 s.aud.thr.toNat ++ leBytes 8 s.pit.holdsRun
    ++ leBytes 4 (s.growth CoreCount.inexact s.aud.inexact0) ++ leBytes 4 (s.growth CoreCount.ovf s.aud.ovf0) ++ slice b 16 64

/-- A record but for its signature (R338, R339). -/
def State.recordBody (s : State) (r : LedgerReq) : List Byte :=
  let b := r.block
  s.recordHead r ++ (blockShards b).flatMap s.shardEntry ++ slice b (blockInputs b) (32 * fieldAt b 10 2)
    ++ (ledgerLabels b).flatMap (cairnEntry r.cairns)

/-- A whole record: signed with the module key (R341). -/
def State.signedRecord (s : State) (r : LedgerReq) : List Byte :=
  let b := s.recordBody r
  b ++ ecdsaSign Config.moduleKey b

/-! ## Writing it -/

/-- The gang of a request has its record (R164). -/
def State.ledgerDone (s : State) (r : LedgerReq) : State :=
  match (s.core r.core).gang? r.slot with
  | some x => if x.task == r.task && x.cmd == r.cmd then s.modGang r.core r.slot fun y => { y with await := 0 } else s
  | none => s

/-- A refused request: no record, the buffer's first granule poisoned, the error kept, counted and logged (R337). -/
def State.ledgerRefused (s : State) (r : LedgerReq) : State :=
  let s0 := s.spoilAt (some r.core) [addrLocal r.buf.toNat / 64]
  let s1 := { s0 with aud := { s0.aud with lastErr := r.err, bad := bump s0.aud.bad } }
  s1.modEvent 0 0xA r.err.toNat

/-- The last entry of a record that commits: LABEL and cairn; free values where the record lists none (log entry 22). -/
def State.lastCairn (s : State) (r : LedgerReq) : Nat × Nat :=
  match (ledgerLabels r.block).getLast? with
  | some l => (l, cairnSum r.cairns l)
  | none => (leNat (s.freeBytes 4), leNat (s.freeBytes 16))

/-- The commit of a record, or its refusal (R342). -/
def State.commit (s : State) (r : LedgerReq) : State :=
  if !bit (fieldAt r.block 4 1) 0 then s
  else if s.commits r then
    let k := s.lastCairn r
    { s with aud := { s.aud with
        label := BitVec.ofNat 32 k.1, cairn := BitVec.ofNat 128 k.2, pnum := BitVec.ofNat 32 r.pnum
        launch := BitVec.ofNat 64 s.pit.launchAt, cseq := r.seq } }
  else { s with aud := { s.aud with refused := bump s.aud.refused } }

/-- The high-water mark around the signing of a record: the first SEQ before a reset's first record, the current SEQ after every
65,536 (R340). -/
def State.markSeq (s : State) (r : LedgerReq) : State :=
  let n := s.aud.signed + 1
  let m1 := if s.aud.signed = 0 then some r.seq.toNat else s.nvm.seqMark
  { s with nvm := { s.nvm with seqMark := if n % 65536 = 0 then some (r.seq.toNat + 1) else m1 }
           aud := { s.aud with signed := n } }

/-- A record signed and written into its buffer, with its commit (R338 to R342). -/
def State.ledgerWrite (s : State) (r : LedgerReq) : State :=
  let s1 := ((s.store (addrLocal r.buf.toNat) (s.signedRecord r) []).commit r).markSeq r
  { s1 with aud := { s1.aud with ok := bump s1.aud.ok } }

/-- LEDGER_RECORD_WRITTEN: the warden's oldest request gets its record, or is refused; its command's gang has what it waited for (R164,
R337 to R342). -/
def execLedgerRecordWritten (s : State) : Host.Outcome State Fault Refusal :=
  .next (match s.aud.pend with
    | [] => s
    | r :: rest =>
      if !s.glb.wardenUp then s
      else
        let s1 := { s with aud := { s.aud with pend := rest } }
        ((if r.err = 0 then s1.ledgerWrite r else s1.ledgerRefused r).fresh 20).ledgerDone r)

/-! ## State skew (R430, R462, R478) -/

/-- STATE_SKEW: the warden takes the hardware's state and logs the event; skew found again after its refresh is persistent (R430, R462,
R478, Table FLT-3). -/
def execStateSkew (kind : Byte) (again : Bool) (s : State) : Host.Outcome State Fault Refusal :=
  .next (
    if !s.glb.wardenUp || kind == 0 || decide (5 < kind.toNat) then s
    else
      let s1 := { s with
        flt := { s.flt with skew := bump s.flt.skew }
        pwr := { s.pwr with skew := if kind = 1 then bump s.pwr.skew else s.pwr.skew } }
      let s2 := s1.logEvent 0 0xC kind.toNat kWarden 0
      if again then (s2.logEvent 5 0xC 6 kWarden 0).service svSkew else s2)

end Sys2Proof.Machine
end

