-- ==== Sys2Proof/Machine/Sessions.lean ====
section
/-! DEFINITION. Management sessions (R432, R436, R454 to R458, R494, R498, Tables BOO-5 and BOO-6): the handshake and its lockout,
register reads and writes, writes of the stacks and of the configuration memory, and how a session ends. -/

namespace Sys2Proof.Machine

/-! ## Messages (Table BOO-5) -/

/-- The header and body of a message with a MAC. -/
def sessBytes (typ : Nat) (p : SessPath) (sid : W32) (seq : W64) (mac body : List Byte) : List Byte :=
  leBytes 1 typ ++ leBytes 1 (sessPathCode p) ++ leBytes 2 body.length ++ leBytes 4 sid.toNat ++ leBytes 8 seq.toNat ++ mac ++ body

/-- The MAC of a message: the first 16 bytes of HMAC-SHA-256 over it with MAC taken as zero. -/
def sessMac (key : List Byte) (typ : Nat) (p : SessPath) (sid : W32) (seq : W64) (body : List Byte) : List Byte :=
  (hmacSha256 key (sessBytes typ p sid seq (zeros 16) body)).take 16

/-- The port of a session path. -/
def sessPort : SessPath → Option PortIx
  | .hostA => some 0
  | .hostB => some 1
  | .mgmt => none

/-- The warden takes a message: from the management port as it comes, from a host port when the inbound mailbox holds it (R454, R498);
none when it serves no session now (R438, R461). -/
def State.takeSess (s : State) (p : SessPath) (bs : List Byte) : Option State :=
  if !s.glb.wardenUp || !s.barReady then none
  else
    match sessPort p with
    | none => some s
    | some i =>
      let k := s.glb.mbox[i]
      if k.inBusy && (k.inBytes ++ zeros (bs.length - k.inBytes.length)).take k.inLen.toNat == bs then
        some (s.modMbox i fun k => { k with inBusy := false })
      else none

/-- The ASCII bytes of HGWSESS1 (R455). -/
def sessTag : List Byte := [0x48, 0x47, 0x57, 0x53, 0x45, 0x53, 0x53, 0x31]

/-! ## The handshake (R454, R455, R457) -/

/-- The session interface is locked (R457). -/
def State.sessLocked (s : State) : Bool := decide (s.rtc.ns < s.nvm.lockEnd)

/-- Seconds of lock remaining. -/
def State.lockLeft (s : State) : Nat := ceilDiv (s.nvm.lockEnd - s.rtc.ns) 1000000000

/-- A nonce the warden draws: a free value (R455). -/
def State.nonce (s : State) : List Byte := (List.range 16).map fun i => BitVec.ofNat 8 (Config.freeNat (s.freeCtr + i))

/-- The session in a place, while its lifetime lasts (R456). -/
def State.sessionAt (s : State) (i : Fin 4) : Option Session := (s.cfg.sessions[i]).filter fun k => decide (s.now < k.ends)

/-- Open sessions. -/
def State.openSessions (s : State) : Nat := ((List.finRange 4).filter fun i => (s.sessionAt i).isSome).length

/-- A HELLO evaluated: REFUSE while locked or with 4 sessions open, else CHALLENGE with a new nonce. -/
def State.greet (s : State) (p : SessPath) (nc : List Byte) (lifetime : W32) : State :=
  if s.sessLocked then s.refuseSess p 2 (leBytes 4 s.lockLeft)
  else if 4 ≤ s.openSessions then s.refuseSess p 1
  else
    let g : Greeting := { path := p, nc := nc, nm := s.nonce, lifetime := lifetime }
    ((State.fresh { s with cfg := { s.cfg with greeting := g :: s.cfg.greeting.filter fun x => x.path != p } } 16).sendSess p
      (plainMsg p 2 (g.nm ++ Config.serial ++ leBytes 8 s.rtcUs)))

/-- HELLO: a client asks for a session (R454, R455, R457). -/
def execHello (p : SessPath) (nc : List Byte) (lifetime : W32) (s : State) : Host.Outcome State Fault Refusal :=
  .next (match s.takeSess p (plainMsg p 1 (nc ++ leBytes 4 lifetime.toNat)) with
    | none => s
    | some s1 => s1.greet p nc lifetime)

/-- The proof of R455 for a greeting. -/
def proofOf (g : Greeting) : List Byte :=
  hmacSha256 Config.rootKey
    (sessTag ++ g.nm ++ g.nc ++ Config.serial ++ leBytes 4 g.lifetime.toNat ++ leBytes 1 (sessPathCode g.path))

/-- Seconds granted for a LIFETIME (R456). -/
def grantedLife (w : W32) : Nat := if w = 0 then 3600 else min w.toNat 86400

/-- A failed proof counted: the third failure in a row locks the interface for 60 s, each further one twice as long (R457). -/
def State.failProof (s : State) : State :=
  let n := s.nvm.fails + 1
  if n < 3 then { s with nvm := { s.nvm with fails := n } }
  else
    let len := if n = 3 then 60 else min 86400 (2 * s.nvm.lockLen)
    State.logEvent { s with nvm := { s.nvm with
      fails := n, lockLen := len, lockEnd := s.rtc.ns + len * 1000000000 } } 0 9 0x21 kWarden s.glb.modIx.val

/-- The number of a session: distinct for each place, else free. -/
def State.newSid (s : State) (i : Fin 4) : W32 := BitVec.ofNat 32 (4 * (Config.freeNat s.freeCtr % (2 ^ 30 - 1) + 1) + i.val)

/-- A session opens in a free place, with its keys, and ACCEPT leaves (R455, R456). -/
def State.openSession (s : State) (g : Greeting) (i : Fin 4) : State :=
  let sid := s.newSid i
  let life := grantedLife g.lifetime
  let okm := hkdfSha256 Config.rootKey (g.nc ++ g.nm) (sessTag ++ leBytes 4 sid.toNat ++ leBytes 1 (sessPathCode g.path)) 64
  let k : Session :=
    { sid := sid, path := g.path, keyIn := okm.take 32, keyOut := okm.drop 32, seqIn := 0, seqOut := 1
      ends := s.now + life * 1000000000, drops := 0 }
  let body := leBytes 4 sid.toNat ++ leBytes 4 life
  let s1 : State := { s.fresh with
    cfg := { s.cfg with sessions := s.cfg.sessions.set i (some k), view := s.cfg.view.filter fun x => x != .session i }
    latch := s.latch.filter fun x => x.1 != .session i
    low := s.low.filter fun x => x.1 != .session i
    nvm := { s.nvm with fails := 0, lockLen := 0 } }
  s1.sendSess g.path (sessBytes 4 g.path sid 1 (sessMac k.keyOut 4 g.path sid 1 body) body)

/-- A PROOF evaluated: never during a lock; without a HELLO it is malformed; a wrong one counts towards lockout. -/
def State.judge (s : State) (p : SessPath) (body : List Byte) : State :=
  if s.sessLocked then s
  else
    match s.cfg.greeting.find? fun g => g.path == p with
    | none => s.refuseSess p 4
    | some g =>
      let s1 := { s with cfg := { s.cfg with greeting := s.cfg.greeting.filter fun x => x.path != p } }
      if body ≠ proofOf g then s1.failProof.refuseSess p 3
      else
        match (List.finRange 4).find? fun i => (s.sessionAt i).isNone with
        | none => State.refuseSess { s1 with nvm := { s1.nvm with fails := 0, lockLen := 0 } } p 1
        | some i => s1.openSession g i

/-- PROOF: a client answers a CHALLENGE (R455, R457). -/
def execProof (p : SessPath) (body : List Byte) (s : State) : Host.Outcome State Fault Refusal :=
  .next (match s.takeSess p (plainMsg p 3 body) with
    | none => s
    | some s1 => s1.judge p body)

/-- SESSION_LOCK_END: a lockout ends once its time has come (R457). -/
def execSessionLockEnd (s : State) : Host.Outcome State Fault Refusal :=
  .next (if s.sessLocked then s else { s with nvm := { s.nvm with lockEnd := 0 } })

/-! ## Messages of an open session (R455, R456) -/

/-- A session rewritten, or ended. -/
def State.setSession (s : State) (i : Fin 4) (k : Option Session) : State :=
  { s with cfg := { s.cfg with sessions := s.cfg.sessions.set i k } }

/-- The open session a header names. -/
def State.sessionOf (s : State) (h : SessHdr) : Option (Fin 4 × Session) :=
  (List.finRange 4).findSome? fun i =>
    match s.sessionAt i with
    | some k => if k.sid == h.sid && k.path == h.path then some (i, k) else none
    | none => none

/-- A message that fails its SEQ or MAC test is dropped and counted; after 16 the session ends (R455). -/
def State.dropMsg (s : State) (i : Fin 4) (k : Session) : State :=
  s.setSession i (if 16 ≤ k.drops + 1 then none else some { k with drops := k.drops + 1 })

/-- A session's message: taken, checked, and with a newer SEQ and a right MAC given to its meaning (R455). -/
def State.heard (s : State) (h : SessHdr) (typ : Nat) (body : List Byte) (eff : State → Fin 4 → Session → State) : State :=
  match s.takeSess h.path (sessBytes typ h.path h.sid h.seq h.mac body) with
  | none => s
  | some s1 =>
    match s1.sessionOf h with
    | none => s1
    | some (i, k) =>
      if k.seqIn.toNat < h.seq.toNat ∧ h.mac = sessMac k.keyIn typ h.path h.sid h.seq body then
        let k1 := { k with seqIn := h.seq }
        eff (s1.setSession i (some k1)) i k1
      else s1.dropMsg i k

/-- RESULT to a session that is still open: its status, then the data read (Table BOO-6). -/
def State.result (s : State) (i : Fin 4) (k : Session) (status : Nat) (data : List Byte := []) : State :=
  match s.cfg.sessions[i] with
  | none => s
  | some j =>
    if j.sid ≠ k.sid then s
    else
      let seq := j.seqOut + 1
      let body := leBytes 1 status ++ data
      (s.setSession i (some { j with seqOut := seq })).sendSess j.path
        (sessBytes 0x1F j.path j.sid seq (sessMac j.keyOut 0x1F j.path j.sid seq body) body)

/-! ## READ and WRITE (R494) -/

/-- Words from a CSR offset in ascending order, each read with the latch of its path (R8, R494). -/
def State.readWords (s : State) (p : Path) (off : Nat) : Nat → List Byte × State
  | 0 => ([], s)
  | n + 1 =>
    let r := s.readWord p off
    let q := r.2.readWords p (off + 4) n
    (leBytes 4 r.1.toNat ++ q.1, q.2)

/-- A READ or WRITE names 1 to 64 aligned words. -/
def sessShape (off n : Nat) : Bool := off % 4 == 0 && decide (1 ≤ n) && decide (n ≤ 64)

/-- SESSION_READ: 1 to 64 words in one RESULT (R494). -/
def execSessionRead (h : SessHdr) (off n : W32) (s : State) : Host.Outcome State Fault Refusal :=
  .next (s.heard h 0x10 (leBytes 4 off.toNat ++ leBytes 4 n.toNat) fun s i k =>
    if sessShape off.toNat n.toNat then
      let r := s.readWords (.session i) off.toNat n.toNat
      r.2.result i k 0 r.1
    else s.refuseSess h.path 4)

/-- A session's word: refused in safe state, beyond CSR space, or as its class says (R433, R491, R492). -/
def State.sessWord1 (s : State) (i : Fin 4) (off : Nat) (v : W32) : State :=
  if 2 ^ 26 ≤ off || s.glb.phase == .safe then s.refuse (.session i) (BitVec.ofNat 26 off)
  else s.writeWord (.session i) (BitVec.ofNat 26 off) v true

/-- Words written from a CSR offset in ascending order while the session stays open (R494). -/
def State.writeWords (s : State) (i : Fin 4) : Nat → List W32 → State
  | _, [] => s
  | off, v :: vs => if (s.cfg.sessions[i]).isNone then s else (s.sessWord1 i off v).writeWords i (off + 4) vs

/-- Refused writes counted for sessions. -/
def State.sessRefused (s : State) : W64 := s.glb.refused[(2 : Fin 4)]

/-- SESSION_WRITE: the words apply in ascending order; the RESULT says whether any word or field was ignored (R494). -/
def execSessionWrite (h : SessHdr) (off : W32) (ws : List W32) (s : State) : Host.Outcome State Fault Refusal :=
  .next (s.heard h 0x11 (leBytes 4 off.toNat ++ leBytes 4 ws.length ++ ws.flatMap fun w => leBytes 4 w.toNat) fun s i k =>
    if sessShape off.toNat ws.length then
      let s1 := s.writeWords i off.toNat ws
      s1.result i k (if s1.sessRefused = s.sessRefused then 0 else 1)
    else s.refuseSess h.path 4)

/-! ## STK_WRITE (R180, R448, R497) -/

/-- The stacks bytes that no session or host port may write now: a slot's range, and 1 MiB while a configuration image is checked. -/
def State.stkLocked (s : State) (off n : Nat) : Bool :=
  s.meetsLock off (off + n - 1)
    || (s.cfg.st == .loading && decide (off < s.cfg.imgBase.toNat + 2 ^ 20) && decide (s.cfg.imgBase.toNat < off + n))

/-- The whole range lies in stacks that answer now. -/
def State.stkOn (s : State) (off n : Nat) : Bool :=
  decide (off + n ≤ stacksSize) && !s.absentAt (stacksAddr off) n && !s.parkedAt (.stacks off) && !s.parkedAt (.stacks (off + n - 1))

/-- STK_WRITE: 1 to 4,096 bytes enter the stacks; a write that meets a locked range is refused and counted (R180, R454, R497). -/
def execStkWrite (h : SessHdr) (off : W64) (bs : List Byte) (s : State) : Host.Outcome State Fault Refusal :=
  .next (s.heard h 0x12 (leBytes 8 off.toNat ++ bs) fun s i k =>
    if bs.length = 0 ∨ 4096 < bs.length then s.refuseSess h.path 4
    else if s.stkLocked off.toNat bs.length then (s.countRefused (.session i)).result i k 1
    else if s.stkOn off.toNat bs.length then (s.storeRaw (stacksAddr off.toNat) bs []).result i k 0
    else s.result i k 1)

/-! ## The configuration memory (R432, R434, R436) -/

/-- The image the warden did not boot. -/
def State.unbooted (s : State) : ImgIx := if s.glb.img then 0 else 1

/-- A base image's header is well formed and its base valid against VFLOOR (R431, R432). -/
def State.baseValid (s : State) (b : List Byte) : Bool :=
  fieldAt b 0 4 == 0x4D564E48 && fieldAt b 4 2 == 1 && decide (fieldAt b 20 4 ≤ 2 ^ 26 - 4096)
    && b.length == 4096 + fieldAt b 20 4 && Config.baseSigned b && decide (s.nvm.vfloor ≤ fieldAt b 16 4)

/-- An image of the configuration memory rewritten. -/
def State.modImage (s : State) (i : ImgIx) (f : NvmImage → NvmImage) : State :=
  { s with nvm := { s.nvm with images := upd s.nvm.images i f } }

/-- A range programmed into the unbooted image from the stacks, after its checks: the base with its header at 0, or a boot
configuration at 0x0400_0000; none when a check fails. -/
def State.program (s : State) (nvmOff stkOff len : Nat) : Option State :=
  let b := s.mem.read (stacksAddr stkOff) len
  if !s.stkOn stkOff len || s.mem.anyPoison (stacksAddr stkOff) len then none
  else if nvmOff = 0 then
    if s.baseValid b then
      some (s.modImage s.unbooted fun k => { k with
        magic := fieldAt b 0 4, format := fieldAt b 4 2, baseLen := fieldAt b 20 4, baseOk := true, gen := fieldAt b 8 8
        version := fieldAt b 16 4 })
    else none
  else if nvmOff = 0x4000000 then
    if len ≤ 2 ^ 20 ∧ s.configCheck b s.nvm.cfgGen = 0 then some (s.modImage s.unbooted fun k => { k with config := b }) else none
  else none

/-- NVM_PROGRAM: an NVM operation writes a base or a boot configuration into the unbooted image (R436). -/
def execNvmProgram (h : SessHdr) (nvmOff : W32) (stkOff : W64) (len : W32) (s : State) : Host.Outcome State Fault Refusal :=
  .next (s.heard h 0x13 ([0] ++ leBytes 4 nvmOff.toNat ++ leBytes 8 stkOff.toNat ++ leBytes 4 len.toNat) fun s i k =>
    match s.program nvmOff.toNat stkOff.toNat len.toNat with
    | some s1 => s1.result i k 0
    | none => s.result i k 1)

/-- NVM_WRITE_KEY_SLOT: an NVM operation writes an owner key slot as a journal record (R435). -/
def execNvmWriteKeySlot (h : SessHdr) (slot : Fin 4) (key : List Byte) (s : State) : Host.Outcome State Fault Refusal :=
  .next (s.heard h 0x13 ([1] ++ leBytes 1 slot.val ++ key) fun s i k =>
    if key.length = 96 then
      State.result { s with nvm := { s.nvm with keySlots := s.nvm.keySlots.set slot key } } i k 0
    else s.refuseSess h.path 4)

/-- NVM_RAISE_VFLOOR: an NVM operation raises the rollback floor; it is never lowered (R432). -/
def execNvmRaiseVfloor (h : SessHdr) (v : W32) (s : State) : Host.Outcome State Fault Refusal :=
  .next (s.heard h 0x13 ([2] ++ leBytes 4 v.toNat) fun s i k =>
    if s.nvm.vfloor ≤ v.toNat then State.result { s with nvm := { s.nvm with vfloor := v.toNat } } i k 0 else s.result i k 1)

/-! ## Ends (R456) -/

/-- CLOSE: the session ends and its keys are discarded. -/
def execClose (h : SessHdr) (s : State) : Host.Outcome State Fault Refusal :=
  .next (s.heard h 0x20 [] fun s i _ => s.setSession i none)

/-- SESSION_EXPIRE: a session whose lifetime is over ends and its keys are discarded. -/
def execSessionExpire (i : Fin 4) (s : State) : Host.Outcome State Fault Refusal :=
  .next (match s.cfg.sessions[i] with
    | some k => if k.ends ≤ s.now then s.setSession i none else s
    | none => s)

end Sys2Proof.Machine
end

