-- ==== Sys2Proof/Machine/Start.lean ====
section
/-! DEFINITION. The start of a segment gang: the reads, credits and tokens of every descriptor opcode (R144, R155, R157, R161, R258). -/

namespace Sys2Proof.Machine

/-! ## Reads and time -/

/-- The parts of a segment's data to be read: rack address, length, place. -/
def State.segReads (s : State) (c : CoreIx) (t : TaskIx) (o : Nat) (anch : Bool) (b : List Byte) (g : Seg) :
    List (Nat × Nat × Nat) :=
  match o with
  | 0x40 =>
    let d := streamD b
    (d.ins g anch).map fun r => (s.locAddr c t d.src + r.1, r.2.1, r.2.2)
  | 0x70 => [(s.locAddr c t (locAt b 0) + g.off, g.len, 0)]
  | 0x72 =>
    (s.locAddr c t (locAt b 0) + g.off, g.len, 0) ::
      (if bit (fieldAt b 32 1) 0 && g.off + g.len == fieldAt b 16 4 then [(s.locAddr c t (locAt b 24), 32, g.len)] else [])
  | 0x71 => []
  | _ =>
    let d := sparseD b
    let w := d.cut o b g
    [(s.locAddr c t d.src + w.src.1, w.src.2, 0), (s.locAddr c t d.aux + w.aux.1, w.aux.2, w.src.2)].filter fun r => r.2.1 != 0

/-- How long a segment occupies its core's stream port, 512 bytes per cycle of 1.7 GHz each way, or its own engine (R211 to R215, Table
CMD-18), in seventeenths of a ns. -/
def segTime (o : Nat) (b : List Byte) (g : Seg) (n : Nat) : Nat :=
  let w := (sparseD b).cut o b g
  10 * (match o with
    | 0x51 => ceilDiv w.src.2 256
    | 0x52 => ceilDiv w.dst.2 512
    | 0x50 => fieldAt b 24 4
    | 0x72 => ceilDiv g.len 4
    | 0x71 => 0
    | _ => ceilDiv n 512)

/-- A segment starts moving: it takes the stream port when that comes free, and cannot end before its time is over (Table CMD-18). -/
def State.occupy (s : State) (c : CoreIx) (g : SlotIx) (o : Nat) (d : List Byte) (seg : Seg) (n : Nat) : State :=
  let t := segTime o d seg n
  if o = 0x72 then s.modGang c g fun x => { x with ready := 17 * s.now + t }
  else
    let fin := max (17 * s.now) (s.core c).port + t
    (s.modCore c fun k => { k with port := fin }).modGang c g fun x => { x with ready := fin }

/-- A gang that awaits nothing has started. -/
def State.startIdle (s : State) (c : CoreIx) (g : SlotIx) : State :=
  s.modGang c g fun x => { x with started := true, await := 0 }

/-- An archive fetch starts (R258): the descriptor's folios are wanted once, and the segment awaits its `n` source bytes, less those
that came before it started. -/
def State.startFetch (s : State) (c : CoreIx) (g : SlotIx) (x : Gang) (di : Nat) (d : Desc) (n : Nat) (sh : ShardEntry)
    (shard off : Nat) : State :=
  let fd := streamD d.bytes
  let s1 := (s.modGang c g fun y => { y with started := true, await := n }).landKept
    { core := c, task := x.task, cmd := x.cmd, desc := di } shard sh.w (x.index - d.first)
  if d.asked then s1
  else
    let last := min (off + fd.len) (sh.count * sh.w)
    let all := foliosOf sh.w off (last - off)
    let first := match s.ctx? fd.ctx with
      | some k => k.mcSegs
      | none => 0
    let s2 := s1.modTask c x.task fun k =>
      k.modCmd x.cmd fun y => y.modDesc di fun z => { z with asked := true, mcBase := first }
    let s3 := if fd.mcast then s2.modCtx fd.ctx fun k => { k with mcSegs := k.mcSegs + d.segs } else s2
    { s3 with intk := { s3.intk with want := s3.intk.want ++
        [{ core := c, task := x.task, cmd := x.cmd, desc := di, ctx := fd.ctx, shard := shard, first := all.1, count := all.2 }] } }

/-- The credits a segment needs to start: none, those of one write, or one of its context's for each of `n` multicast targets. -/
inductive Need where
  | nothing
  | write (addr len : Nat) (ctx : BitVec 16) (vc : Nat) (reduce : Bool) (rope : BitVec 12)
  | copies (ctx : BitVec 16) (n : Nat)
  deriving DecidableEq, Repr

/-- The shard and the offset in it that a segment fetches, when its source is the archive window and it asks for bytes that are there:
a fetch past the shard's end is answered absent, segment by segment (R256). -/
def State.fetchOf (s : State) (c : CoreIx) (t : TaskIx) (d : Desc) (seg : Seg) : Option (ShardEntry × Nat × Nat) :=
  let f := streamD d.bytes
  let src := s.locAddr c t f.src
  let off := bits src 0 40
  let sp := f.fetchSpan seg
  match s.image.shards[bits src 40 16]? with
  | some sh =>
    if addrRange src == 4 && !sh.ret && decide (off + sp.1 + sp.2 ≤ sh.count * sh.w) then some (sh, bits src 40 16, off) else none
  | none => none

/-- What a segment needs (R157, R231, R257, R273): a multicast fetch's credits are the target routers', a read of the archive that will
be answered absent needs none, and opcodes whose descriptor names no context use context 0 (log entry 9). -/
def State.segNeed (s : State) (c : CoreIx) (x : Gang) (o : Nat) (d : Desc) (seg : Seg) (anch : Bool) : Need :=
  match o with
  | 0x40 =>
    let f := streamD d.bytes
    let out := f.outs seg anch
    let dst := s.locAddr c x.task f.dst + (match out.head? with
      | some r => r.2.1
      | none => 0)
    let archive : Bool := addrRange (s.locAddr c x.task f.src) == 4
    if archive && (f.mcast || (s.fetchOf c x.task d seg).isNone) then .nothing
    else if f.mcast then
      let (x0, x1, y0, y1) := rectBounds f.rect
      .copies f.ctx (s.mcastTargets x0 x1 y0 y1 f.cmask).length
    else .write dst (out.map fun r => r.2.2).sum f.ctx f.vc (f.op == 1) f.rope
  | 0x60 => .nothing
  | 0x73 => .nothing
  | _ =>
    match ((s.segDests c x.task o false d.bytes seg).filter fun r => r.2 != 0).head? with
    | some r => .write r.1 r.2 0 3 false 0
    | none => .nothing

/-- The credits that a segment needs are held (R157, R389). -/
def State.needHeld (s : State) (c : CoreIx) : Need → Bool
  | .nothing => true
  | .write a n ctx _ _ _ => s.creditsHeld c a n ctx
  | .copies ctx n => match s.ctx? ctx with
    | some k => decide (n ≤ k.held)
    | none => true

/-- The tokens that a segment needs are there (R399). -/
def State.needShaped (s : State) (c : CoreIx) : Need → Bool
  | .write a _ ctx vc red rope => s.tokensUp c a ctx vc red rope
  | _ => true

/-- What a starting segment spends. -/
def State.payNeed (s : State) (c : CoreIx) : Need → State
  | .nothing => s
  | .write a n ctx vc red rope => s.spend c a n ctx vc red rope
  | .copies ctx n => s.modCtx ctx fun k => { k with held := k.held - n }

/-- A STREAM segment whose credits are paid starts: a fetch asks the archive, any other reads its source, and a return sends its own
packets (R157, R257, R263). -/
def State.startStream (s : State) (c : CoreIx) (g : SlotIx) (x : Gang) (di : Nat) (d : Desc) (seg : Seg) (anch : Bool) : State :=
  let f := streamD d.bytes
  match s.fetchOf c x.task d seg with
  | some (sh, shard, off) => s.startFetch c g x di d (f.fetchSpan seg).2 sh shard off
  | none =>
    let s1 := s.startReads c g x.task x.cmd f.ctx (s.segReads c x.task 0x40 anch d.bytes seg)
    if addrRange (s.locAddr c x.task f.src) == 4 then s1
    else
      let out := ((f.outs seg anch).map fun r => r.2.2).sum
      let s2 := s1.occupy c g 0x40 d.bytes seg (max out ((f.ins seg anch).map fun r => r.2.1).sum)
      if !f.mcast && addrRange (s.locAddr c x.task f.dst) == 4 then s2.modGang c g fun y => { y with toSend := 1 } else s2

/-- A segment of another opcode, its credits paid, reads its source. -/
def State.startPlain (s : State) (c : CoreIx) (g : SlotIx) (x : Gang) (o : Nat) (d : Desc) (seg : Seg) : State :=
  (s.startReads c g x.task x.cmd 0 (s.segReads c x.task o false d.bytes seg)).occupy c g o d.bytes seg seg.len

/-- The warden has room for another LEDGER request (R164). -/
def State.ledgerRoom (s : State) : Bool := decide (s.aud.pend.length < 64)

/-- A LEDGER gang starts when the warden has room (R164): the warden takes the input block, and a request without an error
takes the next SEQ (R340, R341). -/
def State.startLedger (s : State) (c : CoreIx) (g : SlotIx) (x : Gang) (m : Cmd) (d : Desc) : State :=
  if !s.ledgerRoom || !s.glb.wardenUp then s
  else
    let a := addrLocal (s.locAddr c x.task (locAt d.bytes 0))
    let n := ledgerLen (s.view a ledgerHead)
    let block := s.view a n
    let bad := s.mem.poisonIn a n
    let size := fieldAt d.bytes 16 4
    let err := s.ledgerErr block bad size
    let r : LedgerReq :=
      { seq := s.aud.seq, err := BitVec.ofNat 8 err, core := c, task := x.task, cmd := x.cmd, slot := g, block := block, bad := bad
        buf := BitVec.ofNat 64 (s.locAddr c x.task (locAt d.bytes 8)), size := size, pnum := m.pnum }
    let s1 := (s.modGang c g fun y => { y with started := true, await := 1 }).fresh n
    { s1 with aud := { s1.aud with pend := s1.aud.pend ++ [r], seq := if err = 0 then bump s1.aud.seq else s1.aud.seq } }

/-- A COLL gang starts: the core has issued the collective, and what it reads is read, its tables first (R286, R299). The first
segment of a descriptor carries the collective; the others have nothing to do (log entry 9). -/
def State.startColl (s : State) (c : CoreIx) (g : SlotIx) (x : Gang) (m : Cmd) (di : Nat) (d : Desc) : State :=
  let k := collD d.bytes
  match s.collGroup k.group with
  | none => s
  | some e =>
    if x.index ≠ d.first then s.startIdle c g
    else
      let ds := m.descs.map fun z => collD z.bytes
      let lead := fusedLead ds di
      let rank := s.rankOf e c
      let base := (((ds.take di).drop lead).map CollD.blockUnits).sum
      let reads := if k.expert then s.tableReads c x.task k e 0 [] else s.collReads c x.task k e rank [] []
      let s1 := s.collStartReads c g x.task x.cmd k.ctx reads
      ((s1.noteIssue c x.task x.cmd lead k.group).addRun
        { group := k.group, core := c, slot := g, task := x.task, cmd := x.cmd, idx := di - lead
          lead := (match m.descs[lead]? with
            | some z => z.first
            | none => 0)
          nth := 0, at_ := s.now, desc := d.bytes, sized := k.kind != 4, base := base, units := k.blockUnits
          wants := if k.kind = 6 then [] else s.collWants k e rank base [] }).sizeRuns

/-- The conditions a gang's segment meets. -/
def State.segBad (s : State) (c : CoreIx) (x : Gang) (m : Cmd) (di : Nat) (d : Desc) (seg : Seg) : List Bad :=
  if d.poison then [{ code := 0x10 }]
  else
    match wOpc m.word with
    | 0x40 => s.streamSegBad c x.task m.anch d.bytes seg
    | 0x60 => s.collBad c x.task d.bytes (fusedWith (m.descs.map fun z => collD z.bytes) di)
    | 0x70 => s.cairnBad c x.task d.bytes seg
    | 0x71 => s.ccloseBad c x.task d.bytes
    | 0x72 => s.shaBad c x.task d.bytes seg
    | 0x73 => s.ledgerBad c x.task d.bytes
    | o => s.sparseBad c x.task o d.bytes seg

/-- A gang's segment starts, waits for its credits and tokens, or is refused (R155, R157, R173). -/
def State.startGang (s : State) (c : CoreIx) (g : SlotIx) (x : Gang) (m : Cmd) (di : Nat) (d : Desc) : State :=
  let o := wOpc m.word
  let seg := gangSeg o d x.index
  match lowest (s.segBad c x m di d seg) with
  | some b => s.refuseSeg c g x.task b (if d.poison then [] else s.segDests c x.task o m.anch d.bytes seg)
  | none =>
    let need := s.segNeed c x o d seg m.anch
    if !s.needHeld c need || !s.needShaped c need then s
    else
      let s1 := s.payNeed c need
      match o with
      | 0x40 => s1.startStream c g x di d seg m.anch
      | 0x60 => s1.startColl c g x m di d
      | 0x73 => s1.startLedger c g x m d
      | _ => s1.startPlain c g x o d seg

/-- The command, the descriptor and the segment that a gang which has not started waits to begin, once they are set up; a fused
collective waits for its whole list (R144, R161). -/
def State.readySeg (s : State) (c : CoreIx) (x : Gang) : Option (Cmd × Nat × Desc) :=
  if x.started then none
  else
    ((s.task c x.task).cmd? x.cmd).bind fun m => (m.descFor x.index).bind fun p =>
      if decide (s.now < p.2.ready) || (wOpc m.word == 0x60 && m.toSet != 0) then none else some (m, p.1, p.2)

/-- SEGMENT_START: the gang's segment starts once its descriptor is set up, its checks pass and its credits and tokens
allow; a fused collective waits for its whole list (R144, R155, R157, R161). The reads of its own scratchpad may meet errors (R239,
R240). -/
def execSegmentStart (c : CoreIx) (g : SlotIx × List EccErr) (s : State) : Host.Outcome State Fault Refusal :=
  .next (match (s.core c).gang? g.1 with
    | none => s
    | some x =>
      match s.readySeg c x with
      | none => s
      | some (m, di, d) => (s.scratchErrors c g.2).startGang c g.1 x m di d)

end Sys2Proof.Machine
end

