-- ==== Sys2Proof/Machine/Dispatch.lean ====
section
/-! DEFINITION. The dispatch: one arm per command of the operation table, each a direct call of its meaning. -/

namespace Sys2Proof.Machine

def exec (i : Instr) (s : State) : Host.Outcome State Fault Refusal :=
  match i with
  | .nop c t => Sys2Proof.Machine.execNop c t s
  | .wait c t => Sys2Proof.Machine.execWait c t s
  | .clr c t => Sys2Proof.Machine.execClr c t s
  | .add c t => Sys2Proof.Machine.execAdd c t s
  | .bara c t => Sys2Proof.Machine.execBara c t s
  | .barw c t => Sys2Proof.Machine.execBarw c t s
  | .twait c t => Sys2Proof.Machine.execTwait c t s
  | .drain c t => Sys2Proof.Machine.execDrain c t s
  | .mark c t => Sys2Proof.Machine.execMark c t s
  | .endSlice c t => Sys2Proof.Machine.execEndSlice c t s
  | .mset c t => Sys2Proof.Machine.execMset c t s
  | .mma c t => Sys2Proof.Machine.execMma c t s
  | .smma c t => Sys2Proof.Machine.execSmma c t s
  | .vop c t => Sys2Proof.Machine.execVop c t s
  | .vred c t => Sys2Proof.Machine.execVred c t s
  | .vcvt c t => Sys2Proof.Machine.execVcvt c t s
  | .vtopk c t => Sys2Proof.Machine.execVtopk c t s
  | .stream c t => Sys2Proof.Machine.execStream c t s
  | .smerge c t => Sys2Proof.Machine.execSmerge c t s
  | .scomp c t => Sys2Proof.Machine.execScomp c t s
  | .sexpd c t => Sys2Proof.Machine.execSexpd c t s
  | .smask c t => Sys2Proof.Machine.execSmask c t s
  | .coll c t => Sys2Proof.Machine.execColl c t s
  | .cairn c t => Sys2Proof.Machine.execCairn c t s
  | .cclose c t => Sys2Proof.Machine.execCclose c t s
  | .sha c t => Sys2Proof.Machine.execSha c t s
  | .ledger c t => Sys2Proof.Machine.execLedger c t s
  | .undefinedOpcode c t => Sys2Proof.Machine.execUndefinedOpcode c t s
  | .commandFetch c t => Sys2Proof.Machine.execCommandFetch c t s
  | .gangSpawn c => Sys2Proof.Machine.execGangSpawn c s
  | .gangRetire c g => Sys2Proof.Machine.execGangRetire c g s
  | .commandComplete c t q => Sys2Proof.Machine.execCommandComplete c t q s
  | .descriptorSetup c t => Sys2Proof.Machine.execDescriptorSetup c t s
  | .segmentStart c g => Sys2Proof.Machine.execSegmentStart c g s
  | .sliceBoundary c => Sys2Proof.Machine.execSliceBoundary c s
  | .sliceGuardPoint c => Sys2Proof.Machine.execSliceGuardPoint c s
  | .thermalStepDown f => Sys2Proof.Machine.execThermalStepDown f s
  | .thermalStepUp c => Sys2Proof.Machine.execThermalStepUp c s
  | .floorEscalation c => Sys2Proof.Machine.execFloorEscalation c s
  | .clockLevelChange c => Sys2Proof.Machine.execClockLevelChange c s
  | .clockLevelChangeEnd c => Sys2Proof.Machine.execClockLevelChangeEnd c s
  | .meshReadRequest p ecc => Sys2Proof.Machine.execMeshReadRequest p ecc s
  | .meshWrite p => Sys2Proof.Machine.execMeshWrite p s
  | .meshReadResponse p => Sys2Proof.Machine.execMeshReadResponse p s
  | .meshReduceAdd p => Sys2Proof.Machine.execMeshReduceAdd p s
  | .meshWriteAck p => Sys2Proof.Machine.execMeshWriteAck p s
  | .meshErrorResponse p => Sys2Proof.Machine.execMeshErrorResponse p s
  | .multicastReplicate f p => Sys2Proof.Machine.execMulticastReplicate f p s
  | .multicastLocalDeliver f c p => Sys2Proof.Machine.execMulticastLocalDeliver f c p s
  | .bundleCrcRetry f d b => Sys2Proof.Machine.execBundleCrcRetry f d b s
  | .bundleFail f d b => Sys2Proof.Machine.execBundleFail f d b s
  | .bundleSpareResume f d => Sys2Proof.Machine.execBundleSpareResume f d s
  | .routerFailed f => Sys2Proof.Machine.execRouterFailed f s
  | .ctlTick f bound => Sys2Proof.Machine.execCtlTick f bound s
  | .ctlGcntSync count => Sys2Proof.Machine.execCtlGcntSync count s
  | .ctlHoldRequest c => Sys2Proof.Machine.execCtlHoldRequest c s
  | .ctlHoldGrant f bound => Sys2Proof.Machine.execCtlHoldGrant f bound s
  | .barrierArrival bar src => Sys2Proof.Machine.execBarrierArrival bar src s
  | .barrierRelease f bar => Sys2Proof.Machine.execBarrierRelease f bar s
  | .ctlCreditGrant c ctx count => Sys2Proof.Machine.execCtlCreditGrant c ctx count s
  | .ctlFaultEvent e => Sys2Proof.Machine.execCtlFaultEvent e s
  | .ctlConfigWrite p f off v => Sys2Proof.Machine.execCtlConfigWrite p f off v s
  | .ctlConfigRead p f off => Sys2Proof.Machine.execCtlConfigRead p f off s
  | .ctlReadResponse p f off v => Sys2Proof.Machine.execCtlReadResponse p f off v s
  | .ctlFence f d raised => Sys2Proof.Machine.execCtlFence f d raised s
  | .ctlParityFail f d m => Sys2Proof.Machine.execCtlParityFail f d m s
  | .csrWrite p off v => Sys2Proof.Machine.execCsrWrite p off v s
  | .csrReadLowLatch p off => Sys2Proof.Machine.execCsrReadLowLatch p off s
  | .arm p slot => Sys2Proof.Machine.execArm p slot s
  | .armCheckDone slot => Sys2Proof.Machine.execArmCheckDone slot s
  | .disarm p slot => Sys2Proof.Machine.execDisarm p slot s
  | .wardenReset src => Sys2Proof.Machine.execWardenReset src s
  | .wardenRestartDone => Sys2Proof.Machine.execWardenRestartDone s
  | .wardenWatchdog => Sys2Proof.Machine.execWardenWatchdog s
  | .moduleReset src => Sys2Proof.Machine.execModuleReset src s
  | .load p => Sys2Proof.Machine.execLoad p s
  | .loadCheckDone => Sys2Proof.Machine.execLoadCheckDone s
  | .swapGo p => Sys2Proof.Machine.execSwapGo p s
  | .swapCancel p => Sys2Proof.Machine.execSwapCancel p s
  | .configSwap => Sys2Proof.Machine.execConfigSwap s
  | .domainOnRequest p d => Sys2Proof.Machine.execDomainOnRequest p d s
  | .domainOffRequest p d => Sys2Proof.Machine.execDomainOffRequest p d s
  | .domainSequenceStart => Sys2Proof.Machine.execDomainSequenceStart s
  | .domainStage d => Sys2Proof.Machine.execDomainStage d s
  | .domainRegulated d => Sys2Proof.Machine.execDomainRegulated d s
  | .domainReady d => Sys2Proof.Machine.execDomainReady d s
  | .domainOff d => Sys2Proof.Machine.execDomainOff d s
  | .domainReversal d => Sys2Proof.Machine.execDomainReversal d s
  | .fenceRaise d => Sys2Proof.Machine.execFenceRaise d s
  | .powerDownStart d => Sys2Proof.Machine.execPowerDownStart d s
  | .fenceLower d => Sys2Proof.Machine.execFenceLower d s
  | .droopClamp f ns => Sys2Proof.Machine.execDroopClamp f ns s
  | .clampCeilingRaise f => Sys2Proof.Machine.execClampCeilingRaise f s
  | .phaseFault z => Sys2Proof.Machine.execPhaseFault z s
  | .governorTick avg10ms avg1s demand => Sys2Proof.Machine.execGovernorTick avg10ms avg1s demand s
  | .sensorRead x reading => Sys2Proof.Machine.execSensorRead x reading s
  | .shutdown cause source => Sys2Proof.Machine.execShutdown cause source s
  | .inputVoltageFault => Sys2Proof.Machine.execInputVoltageFault s
  | .shutdownIntervalEnd => Sys2Proof.Machine.execShutdownIntervalEnd s
  | .startupBegin => Sys2Proof.Machine.execStartupBegin s
  | .startupDomainGroup => Sys2Proof.Machine.execStartupDomainGroup s
  | .startupDomainTimeout d => Sys2Proof.Machine.execStartupDomainTimeout d s
  | .mrstNAssert level => Sys2Proof.Machine.execMrstNAssert level s
  | .ejectNLow => Sys2Proof.Machine.execEjectNLow s
  | .ejectNHigh => Sys2Proof.Machine.execEjectNHigh s
  | .perstN port => Sys2Proof.Machine.execPerstN port s
  | .rtcSet p v => Sys2Proof.Machine.execRtcSet p v s
  | .rtcHoldupLost => Sys2Proof.Machine.execRtcHoldupLost s
  | .hello p nc lifetime => Sys2Proof.Machine.execHello p nc lifetime s
  | .proof p body => Sys2Proof.Machine.execProof p body s
  | .sessionRead h off n => Sys2Proof.Machine.execSessionRead h off n s
  | .sessionWrite h off ws => Sys2Proof.Machine.execSessionWrite h off ws s
  | .stkWrite h off bs => Sys2Proof.Machine.execStkWrite h off bs s
  | .nvmProgram h nvmOff stkOff len => Sys2Proof.Machine.execNvmProgram h nvmOff stkOff len s
  | .nvmWriteKeySlot h slot key => Sys2Proof.Machine.execNvmWriteKeySlot h slot key s
  | .nvmRaiseVfloor h v => Sys2Proof.Machine.execNvmRaiseVfloor h v s
  | .close h => Sys2Proof.Machine.execClose h s
  | .sessionExpire k => Sys2Proof.Machine.execSessionExpire k s
  | .sessionLockEnd => Sys2Proof.Machine.execSessionLockEnd s
  | .mboxPost port inLen => Sys2Proof.Machine.execMboxPost port inLen s
  | .mboxOutAck port => Sys2Proof.Machine.execMboxOutAck port s
  | .mboxOutReady port => Sys2Proof.Machine.execMboxOutReady port s
  | .launchGo p slot => Sys2Proof.Machine.execLaunchGo p slot s
  | .launchPropose g m => Sys2Proof.Machine.execLaunchPropose g m s
  | .reply g m => Sys2Proof.Machine.execReply g m s
  | .launchCommitCount => Sys2Proof.Machine.execLaunchCommitCount s
  | .launchCommit g m => Sys2Proof.Machine.execLaunchCommit g m s
  | .launchCancel g m => Sys2Proof.Machine.execLaunchCancel g m s
  | .launchDecisionMissing => Sys2Proof.Machine.execLaunchDecisionMissing s
  | .launchPitchStart => Sys2Proof.Machine.execLaunchPitchStart s
  | .launchCount => Sys2Proof.Machine.execLaunchCount s
  | .pitchBoundary => Sys2Proof.Machine.execPitchBoundary s
  | .congestionMapClose => Sys2Proof.Machine.execCongestionMapClose s
  | .guardPoint => Sys2Proof.Machine.execGuardPoint s
  | .holdReq g m => Sys2Proof.Machine.execHoldReq g m s
  | .holdDecisionCount => Sys2Proof.Machine.execHoldDecisionCount s
  | .decision g m => Sys2Proof.Machine.execDecision g m s
  | .decisionMissing => Sys2Proof.Machine.execDecisionMissing s
  | .overrunReceived g m => Sys2Proof.Machine.execOverrunReceived g m s
  | .abandonCount => Sys2Proof.Machine.execAbandonCount s
  | .abandon p => Sys2Proof.Machine.execAbandon p s
  | .logClr p => Sys2Proof.Machine.execLogClr p s
  | .msixHoldExpire port => Sys2Proof.Machine.execMsixHoldExpire port s
  | .timeReqSend => Sys2Proof.Machine.execTimeReqSend s
  | .timeReq g u m => Sys2Proof.Machine.execTimeReq g u m s
  | .timeResp m => Sys2Proof.Machine.execTimeResp m s
  | .timeRespTimeout => Sys2Proof.Machine.execTimeRespTimeout s
  | .syncInterval => Sys2Proof.Machine.execSyncInterval s
  | .holdoverAlignmentLost => Sys2Proof.Machine.execHoldoverAlignmentLost s
  | .holdoverMemberLost m => Sys2Proof.Machine.execHoldoverMemberLost m s
  | .referenceFallback => Sys2Proof.Machine.execReferenceFallback s
  | .timeRootRtcSet => Sys2Proof.Machine.execTimeRootRtcSet s
  | .syncSublinkReturn => Sys2Proof.Machine.execSyncSublinkReturn s
  | .memberLost m => Sys2Proof.Machine.execMemberLost m s
  | .leadLost => Sys2Proof.Machine.execLeadLost s
  | .dataFrame g u fr => Sys2Proof.Machine.execDataFrame g u fr s
  | .nullFrame g u fr => Sys2Proof.Machine.execNullFrame g u fr s
  | .frameFail g u => Sys2Proof.Machine.execFrameFail g u s
  | .replyRequest g u e => Sys2Proof.Machine.execReplyRequest g u e s
  | .replayTimeout g u => Sys2Proof.Machine.execReplayTimeout g u s
  | .warmRetrain g u => Sys2Proof.Machine.execWarmRetrain g u s
  | .retrainDone g u => Sys2Proof.Machine.execRetrainDone g u s
  | .trainingDone g u => Sys2Proof.Machine.execTrainingDone g u s
  | .caps g u b => Sys2Proof.Machine.execCaps g u b s
  | .linkLoss g u => Sys2Proof.Machine.execLinkLoss g u s
  | .laneFail g u lane => Sys2Proof.Machine.execLaneFail g u lane s
  | .laneSwap g u failed spare commit => Sys2Proof.Machine.execLaneSwap g u failed spare commit s
  | .laneSwapAck g u failed spare commit => Sys2Proof.Machine.execLaneSwapAck g u failed spare commit s
  | .laneSwapCommit g u => Sys2Proof.Machine.execLaneSwapCommit g u s
  | .bivouacTrigger g u full => Sys2Proof.Machine.execBivouacTrigger g u full s
  | .bivReq g u full commit => Sys2Proof.Machine.execBivReq g u full commit s
  | .bivAck g u full commit => Sys2Proof.Machine.execBivAck g u full commit s
  | .bivNak g u reason => Sys2Proof.Machine.execBivNak g u reason s
  | .bivCancel g u commit => Sys2Proof.Machine.execBivCancel g u commit s
  | .bivouacCommitPoint g u rx => Sys2Proof.Machine.execBivouacCommitPoint g u rx s
  | .bivouacWake g u => Sys2Proof.Machine.execBivouacWake g u s
  | .wakeComplete g u rx => Sys2Proof.Machine.execWakeComplete g u rx s
  | .echo g u body => Sys2Proof.Machine.execEcho g u body s
  | .dis p g d => Sys2Proof.Machine.execDis p g d s
  | .quarClr p g => Sys2Proof.Machine.execQuarClr p g s
  | .lnkLoopWrite p g v => Sys2Proof.Machine.execLnkLoopWrite p g v s
  | .loopClearAtLaunch => Sys2Proof.Machine.execLoopClearAtLaunch s
  | .violationDecay g => Sys2Proof.Machine.execViolationDecay g s
  | .linkReadRequest g u p => Sys2Proof.Machine.execLinkReadRequest g u p s
  | .linkWrite g u p => Sys2Proof.Machine.execLinkWrite g u p s
  | .linkReadResponse g u p => Sys2Proof.Machine.execLinkReadResponse g u p s
  | .linkReduceAdd g u p => Sys2Proof.Machine.execLinkReduceAdd g u p s
  | .linkWriteAck g u p => Sys2Proof.Machine.execLinkWriteAck g u p s
  | .linkErrorResponse g u p => Sys2Proof.Machine.execLinkErrorResponse g u p s
  | .archiveRecord g u p => Sys2Proof.Machine.execArchiveRecord g u p s
  | .archiveDigestRecord g u p => Sys2Proof.Machine.execArchiveDigestRecord g u p s
  | .archiveErrorRecord g u p => Sys2Proof.Machine.execArchiveErrorRecord g u p s
  | .chainChunkHeader g u p => Sys2Proof.Machine.execChainChunkHeader g u p s
  | .belayGrant g u p => Sys2Proof.Machine.execBelayGrant g u p s
  | .nack g u p => Sys2Proof.Machine.execNack g u p s
  | .belayGrantSend ctx => Sys2Proof.Machine.execBelayGrantSend ctx s
  | .leaseRenewal ctx => Sys2Proof.Machine.execLeaseRenewal ctx s
  | .leaseExpire ctx holder => Sys2Proof.Machine.execLeaseExpire ctx holder s
  | .fabRevoke p v => Sys2Proof.Machine.execFabRevoke p v s
  | .ropeWindowOpen rope entry => Sys2Proof.Machine.execRopeWindowOpen rope entry s
  | .ropeWindowClose rope entry => Sys2Proof.Machine.execRopeWindowClose rope entry s
  | .ordPacketRelease g u => Sys2Proof.Machine.execOrdPacketRelease g u s
  | .archiveRequestIssue g u => Sys2Proof.Machine.execArchiveRequestIssue g u s
  | .archiveReturnSend c g => Sys2Proof.Machine.execArchiveReturnSend c g s
  | .parkedRefetch ctx => Sys2Proof.Machine.execParkedRefetch ctx s
  | .folioDigestDone accession index => Sys2Proof.Machine.execFolioDigestDone accession index s
  | .scrubStart => Sys2Proof.Machine.execScrubStart s
  | .scrubEntryDone entry => Sys2Proof.Machine.execScrubEntryDone entry s
  | .requestTimeout req => Sys2Proof.Machine.execRequestTimeout req s
  | .ackTimeout req => Sys2Proof.Machine.execAckTimeout req s
  | .lateResponseDiscard req => Sys2Proof.Machine.execLateResponseDiscard req s
  | .hostFlushReadDone port req => Sys2Proof.Machine.execHostFlushReadDone port req s
  | .stackRefresh f delayed => Sys2Proof.Machine.execStackRefresh f delayed s
  | .refreshRateChange f => Sys2Proof.Machine.execRefreshRateChange f s
  | .patrolScrubRead addr ecc => Sys2Proof.Machine.execPatrolScrubRead addr ecc s
  | .collectiveStart c g => Sys2Proof.Machine.execCollectiveStart c g s
  | .chainChunkLanded c g chunk errs => Sys2Proof.Machine.execChainChunkLanded c g chunk errs s
  | .chainChunkForward c g chunk => Sys2Proof.Machine.execChainChunkForward c g chunk s
  | .chainChunkRelease c g chunk => Sys2Proof.Machine.execChainChunkRelease c g chunk s
  | .reduceScatterAdd c g errs => Sys2Proof.Machine.execReduceScatterAdd c g errs s
  | .expertDispatchSend c g => Sys2Proof.Machine.execExpertDispatchSend c g s
  | .expertCombineReturn c g => Sys2Proof.Machine.execExpertCombineReturn c g s
  | .ledgerRecordWritten => Sys2Proof.Machine.execLedgerRecordWritten s
  | .stateSkew kind again => Sys2Proof.Machine.execStateSkew kind again s
  | .hostReadCompletion port req poison bs => Sys2Proof.Machine.execHostReadCompletion port req poison bs s
  | .retrainFailed g u => Sys2Proof.Machine.execRetrainFailed g u s

end Sys2Proof.Machine
end

