-- ==== Sys2Proof/Machine/Waits.lean ====
section
/-! DEFINITION. Time without a command (R20, R76, R245, R271, R273, R354, R399; Tables COR-8, MEM-8, INT-9, LNK-14, FAB-5): each
nanosecond the counters of waiting move on, by the cycles of their clock that end in it, and then the clocks advance (log entries 5
and 26). -/

namespace Sys2Proof.Machine

/-! ## Cycles -/

/-- Cycles of a clock of `n` / `d` per ns that end in the next ns. -/
def cyclesIn (now n d : Nat) : Nat := (now + 1) * n / d - now * n / d

/-- Cycles of a core that end in the next ns: 106.25 MHz for each of its levels (R95). -/
def State.coreCycles (s : State) (c : CoreIx) : Nat := cyclesIn s.now (17 * (s.core c).level) 160

/-- Fabric cycles that end in the next ns: 1.7 GHz (R25). -/
def State.fabricCycles (s : State) : Nat := cyclesIn s.now 17 10

/-- Cycles counted while something waits. -/
def waitAdd (w : W64) (on : Bool) (n : Nat) : W64 := if on then bump w n else w

/-! ## What a core's gangs wait for -/

/-- A gang of a queue waits for a slot: its turn has come, and GANG_MAX and the engines let it spawn (R76). -/
def State.slotWait (s : State) (c : CoreIx) (q : Queue) : Bool :=
  s.spawns c && (match s.waiting c q with
    | some x => !s.slotsFor c q x.2
    | none => false)

/-- A LEDGER gang waits for the warden's room (R164). -/
def State.ledgerWait (s : State) (c : CoreIx) : Bool :=
  !s.ledgerRoom && (s.core c).gangs.any fun x => match s.readySeg c x with
    | some r => wOpc r.1.word == 0x73
    | none => false

/-- The read requests and responses of a core's gangs that are on the mesh, by the place they read. -/
def State.readWait (s : State) (c : CoreIx) (f : FieldIx → Nat → Bool) : Bool :=
  s.mesh.any fun t => (t.pkt.op == 0 || t.pkt.op == 2) && t.pkt.srcField == coreField c && t.pkt.srcCore == coreLocal c
    && f t.pkt.srcField t.pkt.addr.toNat

/-- A read of a slice of the core's own field (Table MEM-8). -/
def ownSlice (f : FieldIx) (a : Nat) : Bool :=
  match place a with
  | .slice g _ => g == f
  | _ => false

/-- A read of the stacks, or of another field's slice (Table MEM-8). -/
def stacksRead (f : FieldIx) (a : Nat) : Bool :=
  match place a with
  | .slice g _ => g != f
  | .stacks _ => true
  | _ => false

/-- An outstanding request of a core of one of some kinds. -/
def State.reqWait (s : State) (c : CoreIx) (k : ReqKind → Bool) : Bool := s.memu.reqs.any fun r => r.core == c && k r.kind

/-- The context of the archive data that a gang waits for (R271). -/
def State.archCtx (s : State) (c : CoreIx) (x : Gang) : Option Ctx :=
  if !x.started || x.await == 0 then none
  else
    ((s.task c x.task).cmd? x.cmd).bind fun m => (m.descFor x.index).bind fun p =>
      if wOpc m.word == 0x40 && addrRange (s.locAddr c x.task (streamD p.2.bytes).src) == 4 then s.ctx? (streamD p.2.bytes).ctx else none

/-- A core waits for archive data. -/
def State.archWait (s : State) (c : CoreIx) : Bool := (s.core c).gangs.any fun x => (s.archCtx c x).isSome

/-- The waits of a core, each cycle in which at least one of its gangs waits (R76, R164, R245, R271). -/
def State.coreWaits (s : State) (c : CoreIx) (k : CoreCount) : CoreCount :=
  let n := s.coreCycles c
  { k with
    slotMat := waitAdd k.slotMat (s.slotWait c .mat) n
    slotVec := waitAdd k.slotVec (s.slotWait c .vec) n
    slotStr := waitAdd k.slotStr (s.slotWait c .str || s.ledgerWait c) n
    waitSlice := waitAdd k.waitSlice (s.readWait c ownSlice) n
    waitStk := waitAdd k.waitStk (s.readWait c stacksRead) n
    waitRem := waitAdd k.waitRem (s.reqWait c fun r => r == .remoteRead) n
    waitHost := waitAdd k.waitHost (s.reqWait c fun r => r == .hostRead || r == .hostFlush) n
    waitArch := waitAdd k.waitArch (s.archWait c) n }

/-! ## What segments wait for -/

/-- A collective's data waiting on a core for a context's credits or tokens: the contexts of what each run still has to send. -/
def State.todoWaits (s : State) : List (CoreIx × Need) :=
  s.grd.colls.flatMap fun r => r.todo.map fun o => (r.core, Need.write o.addr o.bytes.length o.ctx 1 false (s.ropeOf o.ctx))

/-- The segments that may start as soon as their credits and tokens allow, with what they need (R157). -/
def State.segWaits (s : State) (c : CoreIx) : List (CoreIx × Need) :=
  (s.core c).gangs.filterMap fun x => (s.readySeg c x).bind fun r =>
    let o := wOpc r.1.word
    let seg := gangSeg o r.2.2 x.index
    if (s.segBad c x r.1 r.2.1 r.2.2 seg).isEmpty then some (c, s.segNeed c x o r.2.2 seg r.1.anch) else none

/-- Every segment that waits to start. -/
def State.needs (s : State) : List (CoreIx × Need) :=
  if s.running then (List.finRange 256).flatMap s.segWaits ++ s.todoWaits else []

/-- The module that a need's credits come from. -/
def State.needSink (s : State) : Need → Option Nat
  | .write _ _ ctx _ _ _ => (s.ctx? ctx).map s.sinkOf
  | _ => none

/-- The chain's next chunk waits for belay credits: a sum that has been added, or this member's own part when it is the first
(R290, R291). -/
def State.chainHeld (s : State) : Bool :=
  s.grd.colls.any fun r =>
    match s.runAt r.core r.slot 4 with
    | none => false
    | some (_, e, _) =>
      let short (k : Nat) : Bool := match s.ctx? (chunkCtx (collD r.desc) k) with
        | some q => decide (q.held < (collD r.desc).chunkCredits)
        | none => false
      if s.grd.first then
        ((List.range r.units).any fun i => s.servesChunk r e (r.base + i) && !r.sent.contains (r.base + i) && short (r.base + i))
      else
        ((List.range r.units).any fun i => s.servesChunk r e (r.base + i) &&
          (match s.chunkOf r (r.base + i) with
           | some y => y.added && !y.sent && short (r.base + i)
           | none => false))

/-! ## Fields -/

/-- A multicast retention buffer is full: it holds 64 KiB, or has no room for a packet that has come (R43, R44). -/
def State.retentionFull (s : State) (f : FieldIx) (vc : Fin 4) : Bool :=
  decide (65536 ≤ s.retention f vc)
    || s.mcast.any fun c => c.dest == f && c.pkt.vc == vc && decide (65536 < s.retention f vc + c.pkt.body.length)

/-- A local branch of the router waits for a landing credit (R273). -/
def State.branchWaits (s : State) (f : FieldIx) : Bool :=
  (s.field f).retained.any fun r => (List.finRange 4).any fun c =>
    r.cores.getLsbD c.val && s.intakeCtx r.pkt.ctx && (s.field f).landCredits c r.pkt.ctx == 0
      && !s.slotBegun (coreOf f c) (bits r.pkt.addr.toNat 0 26) r.pkt.body.length s.glb.modIx.val r.pkt.ctx

/-- A ready request of an initiator of the crossbar, 0 to 3 the cores, goes ungranted: it waits for room in the router. -/
def State.xbarHeld (s : State) (f : FieldIx) (i : Fin 5) : Bool :=
  s.mesh.any fun t => t.at_ == f && t.inp.isNone && t.pkt.srcField == f && t.pkt.srcCore.val == i.val && !answers? t.pkt

/-- The waits of a field (Tables WAF-2 and INT-9). -/
def State.fieldWaits (s : State) (f : FieldIx) (k : Field) : Field :=
  let n := s.fabricCycles
  { k with
    xbarWait := Vector.ofFn fun i => waitAdd k.xbarWait[i] (s.xbarHeld f i) n
    retFull1 := waitAdd k.retFull1 (s.retentionFull f 1) n
    retFull2 := waitAdd k.retFull2 (s.retentionFull f 2) n
    mcastLag := waitAdd k.mcastLag (s.branchWaits f) n }

/-! ## Sublinks -/

/-- Frame slots that end in the next ns (R347). -/
def Sublink.frameSlots (k : Sublink) (now : Nat) : Nat := cyclesIn now 100 (32 * k.flitTime)

/-- A sublink's next ns: the trailer of each frame slot returns credits; counted are time lost to retrains and DOWN, time in bivouac, and
frame slots without a new data frame because 2,048 flits are unacknowledged (R351, R354, Table LNK-14), and what waits on a far loop
(R471). -/
def Sublink.waits (k : Sublink) (now : Nat) (far : Bool) : Sublink :=
  { k with
    credSent := if k.up && k.frameSlots now != 0 then k.credNext else k.credSent
    cnt := { k.cnt with
      retryNs := waitAdd k.cnt.retryNs (k.st == .down || k.st == .training || (far && !k.tx.isEmpty)) 1
      bivNs := waitAdd k.cnt.bivNs (k.asleep || k.rxBiv || k.rxNarrow) 1
      wrap := waitAdd k.cnt.wrap (k.up && decide (2048 ≤ k.unacked)) (k.frameSlots now) } }

/-- A flit is ready on a sublink and its VC has no hop credit (Table FAB-5). -/
def State.hopShort (s : State) (g : GroupIx) (u : SubIx) : Bool :=
  let k := s.sub g u
  s.sends g u && (s.nextTx g u).isNone && k.tx.any fun p => s.txFree g u p && decide (k.credit p.pkt.vc.toNat < pktFlits p.pkt)

/-! ## The tick -/

/-- The counts of a congestion map for one ns (Table FAB-5): waits for hop credit in 1/128 of a flit time, and for belay credit per
destination in ns. -/
def State.mapWaits (s : State) (needs : List (CoreIx × Need)) (k : CMapAcc) : CMapAcc :=
  let sinks := (needs.filter fun x => !s.needHeld x.1 x.2).filterMap fun x => s.needSink x.2
  let hop (i : Fin 16) : Nat :=
    let g : GroupIx := ⟨(6 + i.val / 2) % 14, Nat.mod_lt _ (by decide)⟩
    let u : SubIx := ⟨i.val % 2, Nat.mod_lt _ (by decide)⟩
    if s.hopShort g u then 12800 / (s.sub g u).flitTime else 0
  { k with wait := Vector.ofFn fun i => k.wait[i] + hop i
           credit := Vector.ofFn fun i => k.credit[i] + (if sinks.contains i.val then 1 else 0) }

/-- Traffic waits that counts as credit wait besides segments: packets behind a quarantine, and packets answered "destination parked"
until their RESUME (R368, R369). -/
def State.heldTraffic (s : State) : Bool :=
  (s.links.any fun k => k.quar && k.sub.any fun u => !u.tx.isEmpty) || s.memu.reqs.any fun r => r.parked

/-- Every counter of waiting moves on by the cycles of the next ns. -/
def State.countWaits (s : State) : State :=
  let n := s.fabricCycles
  let needs := s.needs
  let arch (g : Nat) : Bool := (List.finRange 256).any fun c =>
    (s.core c).gangs.any fun x => match s.archCtx c x with
      | some k => k.group.val == g
      | none => false
  let s1 := s.countMap (s.mapWaits needs)
  { s1 with
    cores := Vector.ofFn fun c => { s.cores[c] with cnt := s.coreWaits c (s.cores[c]).cnt }
    fields := Vector.ofFn fun f => s.fieldWaits f s.fields[f]
    links := s.links.map fun k => { k with sub := Vector.ofFn fun u => (k.sub[u]).waits s.now (k.loopMode u == 2) }
    intk := { s.intk with archWait := Vector.ofFn fun i => waitAdd s.intk.archWait[i] (arch i.val) n }
    grd := { s.grd with chainWait := waitAdd s.grd.chainWait s.chainHeld n }
    fab := { s1.fab with
      creditWait := waitAdd s1.fab.creditWait ((needs.any fun x => !s.needHeld x.1 x.2) || s.heldTraffic) n
      shapeStall := waitAdd s1.fab.shapeStall (needs.any fun x => s.needHeld x.1 x.2 && !s.needShaped x.1 x.2) n } }

/-- One nanosecond without a command: what waits is counted, PHASE follows the links and the lock (R445), and the clocks advance. -/
def State.tick (s : State) : State := s.countWaits.settlePhase.advance

end Sys2Proof.Machine
end

