-- ==== Sys2Proof/Safety.lean ====
section
/-! DEFINITION. The terms statements are made in: what it is for a command to answer a next state, what a step may leave changed, when
a tile command may issue, and the invariant of the whole machine. -/

namespace Sys2Proof.Machine

/-- The outcome is a next state for which `p` holds. -/
def answers (o : Host.Outcome State Fault Refusal) (p : State → Prop) : Prop := ∃ t, o = .next t ∧ p t

/-- The command at the head of a queue of a task context is `e`, of opcode `o`, legal, and nothing keeps it from issuing but what its
opcode adds: the run lets the context issue, no SER command is before it, its header's wait condition is met (R70, R136). -/
def State.ready (s : State) (c : CoreIx) (t : TaskIx) (q : Queue) (o : Nat) (e : QEntry) : Prop :=
  s.headOf c t q = some e ∧ wOpc e.word = o ∧ s.mayIssue c t = true ∧ s.illegal? c t e.word = none ∧
    s.serialised c t q = false ∧ s.waitMet c t e.word = true

/-- The state in which the head of a queue has left it to issue, in the slice that runs now (R70, R92, R93). -/
def State.taken (s : State) (c : CoreIx) (t : TaskIx) (q : Queue) : State := ((s.enterSlice c).popHead c t q).sliceFirst c

/-- Once the routers have forwarded what they can, packet `p` with operation `op` stands at the end of its route, at field `f`, and `v` is
the state in which it has left the input it stood in (R36, R38). -/
def State.stands (s : State) (p : MeshPacket) (op : BitVec 4) (f : FieldIx) (v : State) : Prop :=
  ∃ t, s.flow.standing p = some t ∧ p.op = op ∧ f = t.at_ ∧ v = { s.flow with mesh := s.flow.mesh.erase t }

/-- No packet `p` with operation `op` stands at the end of its route, even once the routers have forwarded what they can. -/
def State.stillUnder (s : State) (p : MeshPacket) (op : BitVec 4) : Prop := s.flow.standing p = none ∨ p.op ≠ op

/-- An answer to `p` waits at field `f` for its router: on MV0, with the issuer's fields and no data (R34). -/
def replyAt (f : FieldIx) (p : MeshPacket) (op status : BitVec 4) : Transit :=
  { pkt := { p with op := op, status := status, vc := 0, ord := false, mcast := false, body := [] }, at_ := f }

/-- Once the nodes have forwarded what they can, node `f` serves a message that `ok` holds of, and `v` is the state in which it has left
its input (R58). -/
def State.nodeServes (s : State) (f : FieldIx) (ok : CtlMsg → Bool) (v : State) : Prop :=
  ∃ t, s.ctlFlow.ctlServed f ok = some t ∧ v = { s.ctlFlow with ctl := s.ctlFlow.ctl.erase t }

/-- After a change that left `w`, a member whose readiness has changed has answered the launch it was proposed once more, and nothing else
has happened (R318). -/
def afterAnswer (w u : State) : Prop :=
  u = w.answerAgain ∧ (w.pit.launch = none → u = w) ∧
    u = { w with pit := { w.pit with launch := u.pit.launch, onGroup8 := u.pit.onGroup8 }, out := u.out }

/-- Two states agree in everything but the cores, and in every core but `c`. -/
def onlyCore (c : CoreIx) (s t : State) : Prop := t = { s with cores := t.cores } ∧ ∀ d, d ≠ c → t.core d = s.core d

/-- Two states agree in everything but the fields (routers), and in every field but `f`. -/
def onlyField (f : FieldIx) (s t : State) : Prop := t = { s with fields := t.fields } ∧ ∀ d, d ≠ f → t.field d = s.field d

/-- Two states agree in everything but the links, and in every port group but `g`. -/
def onlyGroup (g : GroupIx) (s t : State) : Prop := t = { s with links := t.links } ∧ ∀ h, h ≠ g → t.group h = s.group h

/-- Two states agree in everything but port group `g`, what the fabric holds of its contexts and counters, and what has left the module. -/
def sendsOnly (g : GroupIx) (s t : State) : Prop :=
  t = { s with links := t.links, fab := t.fab, out := t.out } ∧ ∀ h, h ≠ g → t.group h = s.group h

/-- As `sendsOnly`, but the fault log may have an event too. -/
def linkLogsOnly (g : GroupIx) (s t : State) : Prop :=
  t = { s with links := t.links, fab := t.fab, flt := t.flt, out := t.out } ∧ ∀ h, h ≠ g → t.group h = s.group h

/-- A packet of the module's own has left on a sublink, or waits there for hop credits, its rope's window or the sublink. As it leaves, its
ROPE may be cleared and the key that its context's region sends with now stamped on it (R350, R376, R377, R384, R387). -/
def State.sentOrQueued (s : State) (g : GroupIx) (u : SubIx) (p : LinkPacket) : Prop :=
  (∃ x ∈ (s.sub g u).tx, x.pkt = p) ∨ ∃ w r, Out.link g u { p with pkey := w, rope := r } ∈ s.out ∧ (r = p.rope ∨ r = 0) ∧
    (w = p.pkey ∨ (p.pkey ≠ 0xFFFF ∧ ∃ k, s.ctx? p.ctx = some k ∧ s.sendKey g k.decl.region = some w))

/-- A packet of a type arrives on a sublink that hears it and passes checks 1 to 6 of Table LNK-9 (R366, R469). -/
def State.admits (s : State) (g : GroupIx) (u : SubIx) (p : LinkPacket) (typ : Byte) : Prop :=
  s.hears g u = true ∧ s.rxCheck g u p = 0 ∧ p.typ = typ

/-- In `u` a packet has been answered with a NACK of a code, or with none, since one of that code left less than 1 µs before (R366,
R367). -/
def State.nacked (s u : State) (g : GroupIx) (b : SubIx) (p : LinkPacket) (code credits : Nat) : Prop :=
  if ((s.sub g b).lastNack.any fun x => x.1 == BitVec.ofNat 8 code && decide (s.now < x.2 + 1000)) = true then
    (u.group g).nackSupp = bump (s.group g).nackSupp ∧ (u.group g).nackTx = (s.group g).nackTx
  else (u.group g).nackTx = bump (s.group g).nackTx ∧ (u.group g).nackSupp = (s.group g).nackSupp ∧
    u.sentOrQueued g b { s.linkBase 0x21 0 (if validSrc p.src then p.src else 0xFF) 0xFFFF p.ctx with
      tag := p.tag, body := [BitVec.ofNat 8 code, p.typ] ++ leBytes 2 p.ctx.toNat ++ leBytes 2 credits ++ zeros 2 ++ leBytes 8 p.addr.toNat }

/-- In `u` a packet has been refused with a code of Table LNK-9: nothing but the links, the fabric's counts, the log and what leaves the
module has changed; a violation raises the group's score, quarantine counts what it drops, and the answer is an error response to a read
request, none to a NACK, a grant, a management packet or a reserved VC, and else a NACK (R366 to R369, R470). -/
def State.refusedBy (s u : State) (g : GroupIx) (b : SubIx) (p : LinkPacket) (code : Nat) : Prop :=
  let looped := code = 0x18 ∧ ((s.group g).loopMode b = 1 ∨ (s.group g).loopMode b = 3)
  u = { s with links := u.links, fab := u.fab, flt := u.flt, out := u.out } ∧
  (code = 0x17 → (u.group g).quarDrop = bump (s.group g).quarDrop) ∧
  (u.group g).score = (if codeViolates code = true ∧ ¬ looped then (s.group g).score + 1 else (s.group g).score) ∧
  (code ≠ 0x16 → p.typ = 0 → u.sentOrQueued g b { s.linkBase 5 2 p.src p.pkey p.ctx with status := BitVec.ofNat 8 code, tag := p.tag }) ∧
  (code ≠ 0x16 → p.typ ≠ 0 → p.typ ≠ 0x20 → p.typ ≠ 0x21 → p.typ ≠ 0x22 → s.nacked u g b p code 0)

/-- What a packet does that its row does not take: none is heard on a sublink that is down, in far loop or of another rack; one that fails a
check is refused with its code; one of another type only leaves the receive buffer (R351, R366, R442, R471). -/
def State.turnsDown (s : State) (g : GroupIx) (b : SubIx) (p : LinkPacket) (typ : Byte) (o : Host.Outcome State Fault Refusal) : Prop :=
  (s.hears g b = false → o = .next s) ∧
  (s.hears g b = true → s.rxCheck g b p = 0 → p.typ ≠ typ → o = .next (s.modSub g b fun k => k.freeRx p)) ∧
  (s.hears g b = true → s.rxCheck g b p ≠ 0 → answers o fun u => s.refusedBy u g b p (s.rxCheck g b p))

/-- Two states agree in everything but the power block, and in every domain but `d`. -/
def onlyDom (d : DomIx) (s t : State) : Prop := t = { s with pwr := t.pwr } ∧ ∀ e, e ≠ d → t.dom e = s.dom e

/-- A message of open session `k` in place `i` comes with a newer SEQ and a right MAC; `t` is the state in which the warden has taken it
(R454, R455). -/
def State.fromSession (s : State) (h : SessHdr) (typ : Nat) (body : List Byte) (i : Fin 4) (k : Session) (t : State) : Prop :=
  ∃ s1, s.takeSess h.path (sessBytes typ h.path h.sid h.seq h.mac body) = some s1 ∧ s1.sessionOf h = some (i, k) ∧
    k.seqIn.toNat < h.seq.toNat ∧ h.mac = sessMac k.keyIn typ h.path h.sid h.seq body ∧
    t = s1.setSession i (some { k with seqIn := h.seq })

/-- A RESULT with a status and data leaves for session `k` in place `i` (Tables BOO-5 and BOO-6). -/
def State.replied (v : State) (h : SessHdr) (i : Fin 4) (k : Session) (status : Nat) (data : List Byte) : State :=
  let seq := k.seqOut + 1
  let body := leBytes 1 status ++ data
  (v.setSession i (some { k with seqIn := h.seq, seqOut := seq })).sendSess h.path
    (sessBytes 0x1F h.path h.sid seq (sessMac k.keyOut 0x1F h.path h.sid seq body) body)

/-- Command `e` has issued from the head of queue `q` and is held until it reports, with `gangs` gangs to spawn and `descs` descriptors
to set up: it left the queue, joined the context's issued commands with the matrix parameters of that moment, and changed nothing else
but the core's lateness count (R70, R71, R93, R145). -/
def State.issued (s u : State) (c : CoreIx) (t : TaskIx) (q : Queue) (e : QEntry) (gangs descs : Nat) : Prop :=
  onlyCore c s u ∧ (∀ v, v ≠ t → u.task c v = s.task c v) ∧ u.mem = s.mem ∧
    ∃ x : Cmd, x.queue = q ∧ x.word = e.word ∧ x.index = e.index ∧ x.time = s.now ∧ x.mp = (s.task c t).mp ∧ x.gangs = gangs ∧
      x.toSet = descs ∧ x.spawned = 0 ∧ x.retired = 0 ∧ x.acks = 0 ∧ x.descs = [] ∧ x.lost = false ∧
      u.task c t = { (s.task c t).setQueue q (((s.task c t).queue q).drop 1) with cmds := (s.task c t).cmds ++ [x] }

/-- An earlier command of the queue has not reported (R71). -/
def State.behind (s : State) (c : CoreIx) (t : TaskIx) (q : Queue) : Bool := (s.task c t).cmds.any fun x => x.queue == q

/-- What a counter holds once the command of a word has completed at issue, `n` before: its own raise, unless the command is held behind
earlier ones (R71, R72, R73, R139). -/
def State.raised (s : State) (c : CoreIx) (t : TaskIx) (q : Queue) (w : W128) (i : Fin 64) (n : Nat) : Nat :=
  if wRen w = true ∧ i = wRctr w ∧ s.behind c t q = false then min (n + 1) (2 ^ 32 - 1) else n

/-- Command `e` has issued from the head of queue `q` and completes at issue: it left the queue, the context took the change `f`, and
behind earlier commands of its queue the command is held until they have reported (R70, R71, R139). Beside counters, the landing slots
that a raise releases, and what the raise sends, only the core's own notes of its slice differ. -/
def State.finished (s u : State) (c : CoreIx) (t : TaskIx) (q : Queue) (e : QEntry) (f : Task → Task) : Prop :=
  u.task c t = { f ((s.task c t).setQueue q (((s.task c t).queue q).drop 1)) with
    cmds := (u.task c t).cmds, ctr := (u.task c t).ctr, landing := (u.task c t).landing } ∧
  (s.behind c t q = false → (u.task c t).cmds = (s.task c t).cmds) ∧
  (s.behind c t q = true → ∃ x : Cmd, x.queue = q ∧ x.word = e.word ∧ x.index = e.index ∧ x.gangs = 0 ∧ x.spawned = 0 ∧ x.retired = 0 ∧
    x.acks = 0 ∧ x.toSet = 0 ∧ x.descs = [] ∧ x.lost = false ∧ (u.task c t).cmds = (s.task c t).cmds ++ [x]) ∧
  (∀ v, v ≠ t → u.task c v = s.task c v) ∧ (∀ d, d ≠ c → u.core d = s.core d) ∧ (u.core c).gangs = (s.core c).gangs ∧
  u = { s with cores := u.cores, ctl := u.ctl, fab := u.fab, flt := u.flt, out := u.out }

/-- The tile command that a row of the table issues: its core, its task context, its queue and its opcode (Table CMD-1). -/
def tileRow : Instr → Option (CoreIx × TaskIx × Queue × Nat)
  | .nop c t => some (c, t, .ctl, 0x00)
  | .wait c t => some (c, t, .ctl, 0x01)
  | .clr c t => some (c, t, .ctl, 0x02)
  | .add c t => some (c, t, .ctl, 0x03)
  | .bara c t => some (c, t, .ctl, 0x04)
  | .barw c t => some (c, t, .ctl, 0x05)
  | .twait c t => some (c, t, .ctl, 0x06)
  | .drain c t => some (c, t, .ctl, 0x07)
  | .mark c t => some (c, t, .ctl, 0x08)
  | .endSlice c t => some (c, t, .ctl, 0x0F)
  | .mma c t => some (c, t, .mat, 0x10)
  | .mset c t => some (c, t, .mat, 0x11)
  | .smma c t => some (c, t, .mat, 0x20)
  | .vop c t => some (c, t, .vec, 0x30)
  | .vred c t => some (c, t, .vec, 0x31)
  | .vcvt c t => some (c, t, .vec, 0x32)
  | .vtopk c t => some (c, t, .vec, 0x33)
  | .stream c t => some (c, t, .str, 0x40)
  | .smerge c t => some (c, t, .str, 0x50)
  | .scomp c t => some (c, t, .str, 0x51)
  | .sexpd c t => some (c, t, .str, 0x52)
  | .smask c t => some (c, t, .str, 0x53)
  | .coll c t => some (c, t, .str, 0x60)
  | .cairn c t => some (c, t, .str, 0x70)
  | .cclose c t => some (c, t, .str, 0x71)
  | .sha c t => some (c, t, .str, 0x72)
  | .ledger c t => some (c, t, .str, 0x73)
  | _ => none

/-- A team message of a type arrives on a sublink that hears it, from no quarantined group, and names this module's team (R313). -/
def State.takesTeam (s : State) (g : GroupIx) (m : TeamMsg) (typ : Byte) : Prop :=
  s.hears g 0 = true ∧ m.typ = typ ∧ (s.group g).quar = false ∧ m.team.toNat = teamNo s.teamNow

/-- What a team message that is not taken does: none of the type on that sublink changes nothing, quarantine counts it, one that names
another team is a violation (R313, Table LNK-9). -/
def State.shunned (s : State) (g : GroupIx) (m : TeamMsg) (typ : Byte) (u : State) : Prop :=
  u = if s.hears g 0 = true ∧ m.typ = typ then
      (if (s.group g).quar then s.modGroup g fun k => { k with quarDrop := bump k.quarDrop } else s.violation g 0 0x15)
    else s

/-- The invariant: the memory is in its canonical form, the fault log holds at most 8,192 entries (R474), and the warden at most 64
LEDGER requests (R164). -/
def State.Inv (s : State) : Prop :=
  s.mem.wf = true ∧ s.flt.log.length ≤ 8192 ∧ s.aud.pend.length ≤ 64

end Sys2Proof.Machine
end

