-- ==== Sys2Proof/Certificates/Slice0/Obligations.lean ====
section
/-! DEFINITION. The statements for the provers, from the numbered rules of the spec. -/

open Sys2Proof Sys2Proof.Machine

/-! ## The whole machine -/

/-- The command at the front of the queue runs, on the state with the queue's rest. Where the manual is silent the clauses rest on the
model's choices of log entry 1. -/
def Obligations.StepRunsTheFrontCommand : Prop :=
  ∀ (c : Instr) (s : State) (rest : List Instr), s.pending = c :: rest → step s = exec c { s with pending := rest }

/-- With no command waiting the model's clock and the calendar clock advance by one nanosecond, no task context, gang, queue or byte of
memory moves, and a set GCNT without a rate to correct or a slew advances by one; it never goes back (log entry 5). -/
def Obligations.IdleStepAdvancesTime : Prop :=
  ∀ s : State, s.pending = [] → step s = .next s.tick ∧ s.tick.now = s.now + 1 ∧ s.tick.rtc.ns = s.rtc.ns + 1 ∧ s.tick.pending = [] ∧
    s.tick.mem = s.mem ∧ s.tick.mesh = s.mesh ∧ s.tick.ctl = s.ctl ∧ (∀ c t, s.tick.task c t = s.task c t) ∧
    (∀ c, (s.tick.core c).gangs = (s.core c).gangs) ∧ (s.pit.gcntSet = false → s.tick.gcnt = s.gcnt) ∧
    (s.gcnt + 3 < 2 ^ 64 → s.gcnt ≤ s.tick.gcnt) ∧
    (s.pit.gcntSet = true → s.rate = 0 → s.pit.phase = 0 → s.pit.slew = 0 → s.gcnt + 1 < 2 ^ 64 → s.tick.gcnt = s.gcnt + 1)

/-- Every command, in every state, answers a next state: the model has no fault and no refusal. Where the manual is silent the clauses
rest on the model's choices of log entries 2 and 4. -/
def Obligations.EveryCommandCompletes : Prop :=
  ∀ (c : Instr) (s : State), ∃ t, exec c s = .next t

/-- No command touches the queue of waiting commands. Where the manual is silent the clauses rest on the model's choices of log entry 6.
-/
def Obligations.CommandsKeepTheQueue : Prop :=
  ∀ (c : Instr) (s t : State), exec c s = .next t → t.pending = s.pending

/-- The invariant holds after reset. -/
def Obligations.ResetMeetsInvariant : Prop := State.reset.Inv

/-- Every step keeps the invariant. -/
def Obligations.StepsKeepInvariant : Prop :=
  ∀ s t : State, s.Inv → step s = .next t → t.Inv

/-! ## Tile commands -/

/-- A command of the CTL queue that only waits (NOP, WAIT, BARW, TWAIT, DRAIN, MARK) issues exactly when its own condition holds beside
those of every command, and does nothing but leave its queue and complete (Table CMD-13, R139, R165 to R169). -/
def Obligations.WaitingCommandsIssueOnTheirCondition : Prop :=
  ∀ (s : State) (c : CoreIx) (t : TaskIx) (e : QEntry),
    let issues := fun (p : Prop) (i : Instr) => (p → answers (exec i s) fun u => s.finished u c t .ctl e id ∧
      ∀ k, u.ctr c t k = s.raised c t .ctl e.word k (s.ctr c t k)) ∧ (¬ p → exec i s = .next s)
    (s.ready c t .ctl 0x00 e → issues True (.nop c t)) ∧
    (s.ready c t .ctl 0x08 e → issues True (.mark c t)) ∧
    (s.ready c t .ctl 0x01 e → issues (fld e.word 32 32 ≤ s.ctr c t (wCtr e.word)) (.wait c t)) ∧
    (s.ready c t .ctl 0x05 e → issues (wBar e.word ∈ (s.task c t).released) (.barw c t)) ∧
    (s.ready c t .ctl 0x06 e → issues (s.pitchReached c (wPnum e.word) (wOff e.word) = true) (.twait c t)) ∧
    (s.ready c t .ctl 0x07 e → issues ((s.task c t).drained e.index = true) (.drain c t))

/-- A raise of a completion counter by `v` sets that counter to the sum, saturating at 0xFFFF_FFFF, and no other counter of any task
context; a counter at 0xFFFF_FFFF that is raised stays there, and the fault log then holds the core's event "counter saturated" (code
0x0120 of Table FLT-2), before the landing slots that the raise releases are granted anew (R73, R139, R232). -/
def Obligations.RaiseSaturatesOneCounter : Prop :=
  ∀ (s : State) (c : CoreIx) (t : TaskIx) (i : Fin 64) (v : Nat),
    (s.raise c t i v).ctr c t i = min (s.ctr c t i + v) (2 ^ 32 - 1) ∧
    (∀ j, j ≠ i → (s.raise c t i v).ctr c t j = s.ctr c t j) ∧
    (∀ d u j, d ≠ c ∨ u ≠ t → (s.raise c t i v).ctr d u j = s.ctr d u j) ∧
    ∃ w : State, s.raise c t i v = (List.finRange 8).foldl (fun s k => s.releaseOne c t i k) w ∧
      w = { s with cores := w.cores, flt := w.flt, out := w.out } ∧
      (s.ctr c t i = 2 ^ 32 - 1 → 0 < v → ∃ x ∈ w.flt.log,
        x.code = faultCode 0 1 0x20 ∧ x.srcKind = BitVec.ofNat 8 kCore ∧ x.srcId = BitVec.ofNat 8 c.val)

/-- CLR clears the counters of its mask, and its own raise comes after; ADD raises its counter by VAL; END ends the slice and its
fetching; BARA sends a barrier arrival, a control message of type 0x4 with ARG = BAR, to the pitch unit and forgets earlier releases of
its barrier; MSET replaces the whole set of matrix parameters (R60, R137, R138, R145, R167, R170). Each leaves its queue and completes.
Where the manual is silent the clauses rest on the model's choices of log entry 10. -/
def Obligations.ImmediateCommandsTakeEffect : Prop :=
  ∀ (s : State) (c : CoreIx) (t : TaskIx) (e : QEntry),
    let raised := fun i n => s.raised c t .ctl e.word i n
    let released := fun k : Task => { k with released := k.released.filter fun b => b != wBar e.word }
    (s.ready c t .ctl 0x02 e → answers (exec (.clr c t) s) fun u => s.finished u c t .ctl e id ∧
      ∀ i, u.ctr c t i = raised i (if bit (fld e.word 0 64) i.val then 0 else s.ctr c t i)) ∧
    (s.ready c t .ctl 0x03 e → answers (exec (.add c t) s) fun u => s.finished u c t .ctl e id ∧
      ∀ i, u.ctr c t i = raised i (if i = wCtr e.word then min (s.ctr c t i + fld e.word 0 32) (2 ^ 32 - 1) else s.ctr c t i)) ∧
    (s.ready c t .ctl 0x0F e → answers (exec (.endSlice c t) s) fun u =>
      s.finished u c t .ctl e (fun k => { k with ended := true, active := false }) ∧ ∀ i, u.ctr c t i = raised i (s.ctr c t i)) ∧
    (s.ready c t .ctl 0x04 e → answers (exec (.bara c t) s) fun u => s.finished u c t .ctl e released ∧
      (∀ i, u.ctr c t i = raised i (s.ctr c t i)) ∧
      ∀ b, s.ctlBlocked (arrivalMsg c (wBar e.word)) b = false → (∀ b', b' < b → s.ctlBlocked (arrivalMsg c (wBar e.word)) b' = true) →
        ∃ l, u.ctl = s.ctl ++ { msg := { arrivalMsg c (wBar e.word) with plane := b }, at_ := coreField c } :: l) ∧
    (s.ready c t .mat 0x11 e → answers (exec (.mset c t) s) fun u => s.finished u c t .mat e (fun k => { k with mp := msetOf e.word }) ∧
      ∀ i, u.ctr c t i = s.raised c t .mat e.word i (s.ctr c t i))

/-- MMA and SMMA issue with one gang for each sub-tile, the vector commands with the gangs of their rows or groups, each holding the
matrix parameters of the moment of issue (R145, R148, R150, R202). A command with a descriptor list issues with every descriptor of its
list still to be set up and no gang yet (R144, R155). Where the manual is silent the clauses rest on the model's choices of log entry 9.
-/
def Obligations.CommandsIssueWithTheirGangs : Prop :=
  (∀ (s : State) (c : CoreIx) (t : TaskIx) (e : QEntry),
    let nsub := (matOp e.word (s.task c t).mp).nsub
    let gangs := (vecOp e.word).gangs
    (s.ready c t .mat 0x10 e → answers (exec (.mma c t) s) fun u => s.issued u c t .mat e nsub 0) ∧
    (s.ready c t .mat 0x20 e → answers (exec (.smma c t) s) fun u => s.issued u c t .mat e nsub 0) ∧
    (s.ready c t .vec 0x30 e → answers (exec (.vop c t) s) fun u => s.issued u c t .vec e gangs 0) ∧
    (s.ready c t .vec 0x31 e → answers (exec (.vred c t) s) fun u => s.issued u c t .vec e gangs 0) ∧
    (s.ready c t .vec 0x32 e → answers (exec (.vcvt c t) s) fun u => s.issued u c t .vec e gangs 0) ∧
    (s.ready c t .vec 0x33 e → answers (exec (.vtopk c t) s) fun u => s.issued u c t .vec e gangs 0)) ∧
  (∀ (s : State) (c : CoreIx) (t : TaskIx) (e : QEntry),
    let done := fun u => s.issued u c t .str e 0 (listLen e.word)
    (s.ready c t .str 0x40 e → answers (exec (.stream c t) s) done) ∧
    (s.ready c t .str 0x50 e → answers (exec (.smerge c t) s) done) ∧
    (s.ready c t .str 0x51 e → answers (exec (.scomp c t) s) done) ∧
    (s.ready c t .str 0x52 e → answers (exec (.sexpd c t) s) done) ∧
    (s.ready c t .str 0x53 e → answers (exec (.smask c t) s) done) ∧
    (s.ready c t .str 0x60 e → answers (exec (.coll c t) s) done) ∧
    (s.ready c t .str 0x70 e → answers (exec (.cairn c t) s) done) ∧
    (s.ready c t .str 0x71 e → answers (exec (.cclose c t) s) done) ∧
    (s.ready c t .str 0x72 e → answers (exec (.sha c t) s) done) ∧
    (s.ready c t .str 0x73 e → answers (exec (.ledger c t) s) done))

/-- No tile command issues while its queue is empty, another opcode stands at its head, an earlier SER command of its queue has not
completed, or its header's wait condition is not met: nothing changes (R70, R72, R136). -/
def Obligations.CommandsWaitAtTheirHead : Prop :=
  ∀ (i : Instr) (c : CoreIx) (t : TaskIx) (q : Queue) (o : Nat) (s : State), tileRow i = some (c, t, q, o) →
    (s.headOf c t q = none → exec i s = .next s) ∧
    (∀ e, s.headOf c t q = some e →
      (wOpc e.word ≠ o ∨ s.mayIssue c t = false ∨
        s.illegal? c t e.word = none ∧ (s.serialised c t q = true ∨ s.waitMet c t e.word = false)) →
      exec i s = .next s)

/-- An illegal command at the head of a queue stops its task context, which records the code, the queue, the index and the word of the
command; no counter moves, no memory changes, and the command stays where it is (R171, Table CMD-15). A word whose opcode no command has
is illegal with code 0x01. Where the manual is silent the clauses rest on the model's choices of log entry 36. -/
def Obligations.IllegalCommandStopsItsTask : Prop :=
  ∀ (s : State) (c : CoreIx) (t : TaskIx) (q : Queue) (e : QEntry),
    let stops := fun (n : Nat) (u : State) =>
      (u.task c t).stopped = true ∧ (u.task c t).active = false ∧ (u.task c t).fcode = BitVec.ofNat 7 n ∧
      (u.task c t).fqueue = queueCode q ∧ (u.task c t).findex = BitVec.ofNat 22 e.index ∧ (u.task c t).fword = e.word ∧
      (u.task c t).ctr = (s.task c t).ctr ∧ (u.task c t).queue q = (s.task c t).queue q ∧ (∀ v, v ≠ t → u.task c v = s.task c v) ∧
      (∀ d, d ≠ c → u.core d = s.core d) ∧ u.mem = s.mem
    s.headOf c t q = some e → s.mayIssue c t = true →
    (∀ i b, tileRow i = some (c, t, q, wOpc e.word) → s.illegal? c t e.word = some b → answers (exec i s) (stops b.code)) ∧
    (opDefined (wOpc e.word) = false → q = .ctl → answers (exec (.undefinedOpcode c t) s) (stops 1))

/-- COMMAND_FETCH puts the next word of the slice at the end of the queue of its opcode with its index, and the synthetic END after the
last word; it stalls while that queue holds 64 words, and while the context may not fetch. A word that is skipped before the entry pitch
enters no queue, and acts as Table FLT-4 gives (R68, R69, R134, R170, R486). -/
def Obligations.FetchFillsTheQueue : Prop :=
  ∀ (s : State) (c : CoreIx) (t : TaskIx) (ecc : List EccErr),
    let k := s.task c t
    let at_ := addrLocal ((k.carrels[(0 : Fin 9)]).base.toNat + 16 * k.fetchIx)
    let w := (s.fetchWord k ecc).1
    let q := opQueue (wOpc w)
    let skipped := k.skipTo ≠ 0 ∧ skipEnds w k.skipTo = false
    let puts := fun (u : State) (x : Task) => u.task c t = x ∧ (∀ v, v ≠ t → u.task c v = s.task c v) ∧ (∀ d v, d ≠ c → u.task d v = s.task d v) ∧
      (ecc = [] → u = { s with cores := u.cores, freeCtr := u.freeCtr })
    (k.sliceLen ≤ k.fetchIx → w = BitVec.ofNat 128 (0x0F * 2 ^ 120)) ∧
    (k.fetchIx < k.sliceLen → ecc = [] → s.mem.anyPoison at_ 16 = false → w = BitVec.ofNat 128 (leNat (s.mem.read at_ 16))) ∧
    (s.fetches c t = true →
      (¬ skipped → (k.queue q).length < 64 → answers (exec (.commandFetch c (t, ecc)) s) fun u =>
        puts u { k.setQueue q (k.queue q ++ [{ word := w, index := k.fetchIx }]) with
          fetchIx := k.fetchIx + 1, skipTo := 0, active := wOpc w != 0x0F }) ∧
      (¬ skipped → 64 ≤ (k.queue q).length → exec (.commandFetch c (t, ecc)) s = .next s) ∧
      (skipped → answers (exec (.commandFetch c (t, ecc)) s) fun u =>
        (u.task c t).fetchIx = k.fetchIx + 1 ∧ (∀ p, (u.task c t).queue p = k.queue p) ∧ (u.task c t).cmds = k.cmds ∧
        (u.task c t).mp = (if wOpc w = 0x11 then msetOf w else k.mp) ∧ (u.task c t).active = (k.active && wOpc w != 0x0F) ∧
        ∀ i, u.ctr c t i =
          let n := if wOpc w = 0x02 ∧ bit (fld w 0 64) i.val = true then 0
            else if wOpc w = 0x03 ∧ i = wCtr w then min (s.ctr c t i + fld w 0 32) (2 ^ 32 - 1) else s.ctr c t i
          if wRen w = true ∧ i = wRctr w then min (n + 1) (2 ^ 32 - 1) else n)) ∧
    (s.fetches c t = false → exec (.commandFetch c (t, ecc)) s = .next s)

/-- GANG_SPAWN: of MAT, VEC and STR the first whose waiting command finds its slots spawns that command's next gang or group: each gang
takes a free slot of its own, with its strands' registers clear, and the command counts them as spawned. Where none does, and where the
core may not spawn, nothing changes (R74, R75, R76, R92). -/
def Obligations.SpawnTakesQueuesInOrder : Prop :=
  ∀ (s : State) (c : CoreIx),
    let idle := fun q => ∀ t x, s.waiting c q = some (t, x) → s.slotsFor c q x = false
    let spawns := fun q => ∀ t x, s.waiting c q = some (t, x) → s.slotsFor c q x = true → answers (exec (.gangSpawn c) s) fun u =>
      (∃ l, (u.core c).gangs = (s.core c).gangs ++ l ∧ l.length = x.groupSize ∧ (l.map Gang.slot).Nodup ∧ ∀ g ∈ l, g.task = t ∧ g.queue = q ∧
        g.cmd = x.id ∧ g.started = false ∧ g.strands = Vector.replicate 64 {} ∧ (s.core c).slotFree g.slot = true) ∧
      (u.task c t).cmds = (s.task c t).cmds.map (fun y => if y.id == x.id then { y with spawned := y.spawned + x.groupSize } else y) ∧
      onlyCore c s u
    (s.spawns c = true → spawns .mat ∧ (idle .mat → spawns .vec) ∧ (idle .mat → idle .vec → spawns .str) ∧
      (idle .mat → idle .vec → idle .str → exec (.gangSpawn c) s = .next s)) ∧
    (s.spawns c = false → exec (.gangSpawn c) s = .next s)

/-- GANG_RETIRE writes the results of a matrix, vector or segment gang and frees its slot; the gang's command counts one more gang as
retired; before its time of Table CMD-18 is over, and while a segment gang still awaits something, nothing changes (R77, R83, R156).
COMMAND_COMPLETE: the oldest unreported command of a queue reports once every descriptor is set up, every gang has retired and every
write is acknowledged: it leaves the context, and raises its counter by one if REN is set; until then, and while its context is frozen,
nothing changes (R71, R72, R92, R139). -/
def Obligations.GangsRetireAndCommandsReport : Prop :=
  (∀ (s : State) (c : CoreIx) (g : SlotIx) (ecc : List EccErr) (x : Gang) (m : Cmd),
    (s.core c).gang? g = some x → (s.task c x.task).cmd? x.cmd = some m →
    let v := s.scratchErrors c ecc
    let freed := fun (v u : State) => u = v.freeGang c x ∧ (u.core c).gang? g = none ∧
      (u.task c x.task).cmds = (v.task c x.task).cmds.map (fun y => if y.id == x.cmd then { y with retired := y.retired + 1 } else y)
    (17 * s.now < x.ready → exec (.gangRetire c (g, ecc)) s = .next s) ∧
    (x.ready ≤ 17 * s.now →
      (∀ e, x.queue = .mat → x.engine = some e → answers (exec (.gangRetire c (g, ecc)) s)
        (freed (v.matrixDone c x.task m.word m.mp m.anch e g x.index))) ∧
      (x.queue = .vec → answers (exec (.gangRetire c (g, ecc)) s) (freed (v.vectorDone c x.task m.word m.anch x.index))) ∧
      (∀ i d, x.queue = .str → m.descFor x.index = some (i, d) →
        (x.settled = true → s.holdsOn c x m d = false → answers (exec (.gangRetire c (g, ecc)) s) (freed (s.segDone c g x m i d))) ∧
        (x.settled = false ∨ s.holdsOn c x m d = true → exec (.gangRetire c (g, ecc)) s = .next s)))) ∧
  (∀ (s : State) (c : CoreIx) (t : TaskIx) (q : Queue),
    (∀ x, (s.task c t).cmds.find? (fun y => y.queue == q && !y.lost) = some x →
      (x.done s.now = true → s.named c t = true ∨ s.issuing = false → answers (exec (.commandComplete c t q) s) fun u =>
        (u.task c t).cmds = (s.task c t).cmds.filter (fun y => y.id != x.id) ∧
        (∀ i, u.ctr c t i = if wRen x.word = true ∧ i = wRctr x.word then min (s.ctr c t i + 1) (2 ^ 32 - 1) else s.ctr c t i) ∧
        u = { s with cores := u.cores, ctl := u.ctl, fab := u.fab, flt := u.flt, out := u.out } ∧ ∀ d, d ≠ c → u.core d = s.core d) ∧
      (x.done s.now = false ∨ s.named c t = false ∧ s.issuing = true → exec (.commandComplete c t q) s = .next s)) ∧
    ((s.task c t).cmds.find? (fun y => y.queue == q && !y.lost) = none → exec (.commandComplete c t q) s = .next s))

/-- DESCRIPTOR_SETUP reads the next descriptor of the context's earliest command that has one left and gives the command its segments,
each to be served by a gang; with four engines busy, outside the context's slice, and with no descriptor left nothing changes (R92, R144,
R155). SEGMENT_START: before its descriptor is ready nothing changes; a segment whose checks fail is refused and counted, and starts as
refused without an access of its own; one whose checks pass waits for its credits and tokens, spends them and starts: a STREAM, COLL or
LEDGER segment as its descriptor says, any other with its reads requested and the stream port taken for its time (R144, R155, R157, R161 to
R164, R173). Where the manual is silent the clauses rest on the model's choices of log entries 9, 38 and 39. -/
def Obligations.DescriptorsAndSegmentsStart : Prop :=
  (∀ (s : State) (c : CoreIx) (t : TaskIx) (ecc : List EccErr),
    let busy := (s.core c).setups.filter fun e => decide (s.now < e)
    (∀ x, (s.task c t).cmds.find? (fun y => y.toSet != 0) = some x →
      let v := s.readErrors (addrLocal (((s.task c t).data (listCar x.word)).base.toNat + listOff x.word + 64 * (listLen x.word - x.toSet))) 64 ecc
      let d := v.readDesc c t x
      (busy.length < 4 → s.named c t = true → answers (exec (.descriptorSetup c (t, ecc)) s) fun u =>
        u = { v with cores := u.cores, freeCtr := u.freeCtr } ∧ (∀ e, e ≠ c → u.core e = v.core e) ∧
        (u.task c t).cmds = (v.task c t).cmds.map (fun y => if y.id == x.id then
          { y with toSet := y.toSet - 1, gangs := y.gangs + d.segs, descs := y.descs ++ [d] } else y) ∧
        (u.core c).setups.length = busy.length + (if v.now < d.ready then 1 else 0)) ∧
      (4 ≤ busy.length ∨ s.named c t = false → exec (.descriptorSetup c (t, ecc)) s = .next s)) ∧
    ((s.task c t).cmds.find? (fun y => y.toSet != 0) = none → exec (.descriptorSetup c (t, ecc)) s = .next s)) ∧
  (∀ (s : State) (c : CoreIx) (g : SlotIx) (ecc : List EccErr) (x : Gang), (s.core c).gang? g = some x →
    (s.readySeg c x = none → exec (.segmentStart c (g, ecc)) s = .next s) ∧
    (∀ m i d, s.readySeg c x = some (m, i, d) →
      let v := s.scratchErrors c ecc
      let o := wOpc m.word
      let seg := gangSeg o d x.index
      let need := v.segNeed c x o d seg m.anch
      let bad := lowest (v.segBad c x m i d seg)
      let paid := v.payNeed c need
      (∀ b, bad = some b → exec (.segmentStart c (g, ecc)) s =
        .next (v.refuseSeg c g x.task b (if d.poison then [] else v.segDests c x.task o m.anch d.bytes seg))) ∧
      (bad = none → v.needHeld c need = false ∨ v.needShaped c need = false → exec (.segmentStart c (g, ecc)) s = .next v) ∧
      (bad = none → v.needHeld c need = true → v.needShaped c need = true →
        (o = 0x40 → exec (.segmentStart c (g, ecc)) s = .next (paid.startStream c g x i d seg m.anch)) ∧
        (o = 0x60 → exec (.segmentStart c (g, ecc)) s = .next (paid.startColl c g x m i d)) ∧
        (o = 0x73 → exec (.segmentStart c (g, ecc)) s = .next (paid.startLedger c g x m d)) ∧
        (o ≠ 0x40 → o ≠ 0x60 → o ≠ 0x73 → exec (.segmentStart c (g, ecc)) s =
          .next ((paid.startReads c g x.task x.cmd 0 (paid.segReads c x.task o false d.bytes seg)).occupy c g o d.bytes seg seg.len)))))

/-- SLICE_BOUNDARY makes the last slice whose start has come the one that runs, and opens it again to spawning; a slice that already
runs, or none, changes nothing. SLICE_GUARD_POINT closes the slice to spawning from GUARD microseconds before its end, and before then
changes nothing (R91, R92, R94). -/
def Obligations.SlicesRunByTheirTable : Prop :=
  ∀ (s : State) (c : CoreIx),
    let off := s.coreCount c - s.coreBegin c
    (s.running = true →
      (∀ i start, (s.core c).sliceAt off = some (i, start) → answers (exec (.sliceBoundary c) s) fun u =>
        onlyCore c s u ∧ (u.core c).sliceNow = some (i, s.coreBegin c + start) ∧ (u.core c).tasks = (s.core c).tasks ∧
        (u.core c).gangs = (s.core c).gangs ∧ ((s.core c).sliceNow ≠ some (i, s.coreBegin c + start) → (u.core c).guarded = false) ∧
        ((s.core c).sliceNow = some (i, s.coreBegin c + start) → u = s)) ∧
      ((s.core c).sliceAt off = none → exec (.sliceBoundary c) s = .next s) ∧
      (∀ i start, (s.core c).sliceAt off = some (i, start) →
        s.coreBegin c + (s.core c).sliceEnd off (s.coreEnd c - s.coreBegin c) ≤ s.coreCount c + 1000 * bits ((s.core c).slices[i]).toNat 15 8 →
        answers (exec (.sliceGuardPoint c) s) fun u => onlyCore c s u ∧ (u.core c).guarded = true ∧ u.inGuard c = true ∧
          (u.core c).tasks = (s.core c).tasks ∧ (u.core c).gangs = (s.core c).gangs)) ∧
    (s.inGuard c = false → exec (.sliceGuardPoint c) s = .next s) ∧
    (s.running = false → exec (.sliceBoundary c) s = .next s ∧ exec (.sliceGuardPoint c) s = .next s)

/-- THERMAL_STEP_DOWN lowers the thermal level of the field's hottest enabled core by one at 95.0 °C or more, while it lies above 4 and
above FLOOR, or has escalated; no second step comes within 20 µs in its field. THERMAL_STEP_UP raises a core's by one after 1,000 µs below
92.0 °C, but not in the 20 µs after another core's step; FLOOR_ESCALATION lets a core that stayed 1,000 µs at FLOOR go below it (R96, R97,
R98). A core's level is the least of its software cap, its zone's ceiling and its thermal level. When it differs from the running level the
core stops issuing, the change is counted in FLD_CLKSTEP_STALL and enters THR_DIGEST; after 150 ns it runs at the new level (R95, R99,
R335). Where the manual is silent the clauses rest on the model's choices of log entry 44. -/
def Obligations.ClockLevels : Prop :=
  (∀ (s : State) (c : CoreIx) (f : FieldIx),
    let k := s.core c
    let steps := k.therm > 4 ∧ (k.floor < k.therm ∨ k.escalated = true)
    (s.hottestCore f = some c → s.stepPause f = none → 380 ≤ k.hot → steps → answers (exec (.thermalStepDown f) s) fun u =>
      (u.core c).therm = k.therm - 1 ∧ (∀ d, d ≠ c → u.core d = s.core d) ∧ (u.core c).tasks = k.tasks ∧
      (u.field (coreField c)).stepped = some (c, s.now) ∧ u = { s with cores := u.cores, fields := u.fields, flt := u.flt, out := u.out }) ∧
    (s.hottestCore f = some c → k.hot < 380 ∨ ¬ steps → exec (.thermalStepDown f) s = .next s) ∧
    (s.hottestCore f = none ∨ s.stepPause f ≠ none → exec (.thermalStepDown f) s = .next s) ∧
    (∀ since, k.coolSince = some since → since + 1000000 ≤ s.now → k.therm < 16 → k.blind = false →
      (∀ d, s.stepPause (coreField c) = some d → d = c) → answers (exec (.thermalStepUp c) s) fun u => onlyCore c s u ∧
        u.core c = { k with therm := k.therm + 1, coolSince := some s.now, hotSince := none,
                            escalated := k.escalated && decide (k.therm + 1 < k.floor) }) ∧
    (k.coolSince = none ∨ 16 ≤ k.therm ∨ k.blind = true ∨ (∃ d, d ≠ c ∧ s.stepPause (coreField c) = some d) ∨
      (∃ since, k.coolSince = some since ∧ s.now < since + 1000000) → exec (.thermalStepUp c) s = .next s) ∧
    (∀ since, k.hotSince = some since → since + 1000000 ≤ s.now → k.therm = k.floor → 380 ≤ k.hot →
      answers (exec (.floorEscalation c) s) fun u => onlyCore c s u ∧ u.core c = { k with escalated := true }) ∧
    (k.hotSince = none ∨ k.therm ≠ k.floor ∨ k.hot < 380 → exec (.floorEscalation c) s = .next s)) ∧
  (∀ (s : State) (c : CoreIx),
    let k := s.core c
    let n := min k.cap (min (s.field (coreField c)).zoneCeil k.therm)
    (k.target = none → n ≠ k.level → answers (exec (.clockLevelChange c) s) fun u =>
      (u.core c).target = some n ∧ (u.core c).level = k.level ∧ (∀ t, u.mayIssue c t = false) ∧ (∀ d, d ≠ c → u.core d = s.core d) ∧
      (u.core c).cnt.clkStall = bump k.cnt.clkStall (coreCycles n 150) ∧
      u.aud.thr = s.aud.thr + cairnElem (s.thrPos c) 6 false (leBytes 4 n) ∧ u.mem = s.mem) ∧
    (k.target ≠ none ∨ n = k.level → exec (.clockLevelChange c) s = .next s) ∧
    (∀ m, k.target = some m → s.levelDone c = true → answers (exec (.clockLevelChangeEnd c) s) fun u =>
      onlyCore c s u ∧ u.core c = { k with level := m, target := none }) ∧
    (k.target = none ∨ s.levelDone c = false → exec (.clockLevelChangeEnd c) s = .next s))

/-! ## The mesh and memory -/

/-- A MESH_WRITE that its target admits stores its body at its address and nothing else, and is acknowledged with status good; one that
the target turns away stores nothing and is answered with the status of its verdict; one that has not come to the end of its route only
moves on, and its movement touches nothing but packets and links (R30, R36, R66, R71, R218, R223). How far packets move in one command is
the model's choice (log entry 56). -/
def Obligations.MeshWriteStoresAndAnswers : Prop :=
  ∀ (s v : State) (p : MeshPacket) (f : FieldIx),
    let a := addrLocal p.addr.toNat
    let n := p.body.length
    let d := v.meshVerdict f p n (v.landOk p.addr.toNat n v.glb.modIx.val p.ctx)
    let others := fun u : State => ∀ c, c ≠ pktCore p → (match place p.addr.toNat with | .scratch k _ => c ≠ k | _ => True) → u.core c = v.core c
    s.flow = { s with mesh := s.flow.mesh, fields := s.flow.fields } ∧
    (s.stands p 1 f v → s.mem.wf = true → d = .ok → p.status ≠ stPoison → answers (exec (.meshWrite p) s) fun u =>
      (∀ b, b < a ∨ a + n ≤ b → u.mem.byte b = s.mem.byte b) ∧ (∀ i (h : i < n), u.mem.byte (a + i) = p.body[i]) ∧
      u.mesh = v.mesh ++ [replyAt f p 4 stGood] ∧ others u ∧
      u = { v with mem := u.mem, cores := u.cores, mesh := u.mesh, freeCtr := u.freeCtr }) ∧
    (s.stands p 1 f v → d ≠ .ok → answers (exec (.meshWrite p) s) fun u =>
      u.mem = s.mem ∧ u.fields = v.fields ∧ others u ∧ u.mesh = v.mesh ++ [replyAt f p 5 d.status]) ∧
    (s.stillUnder p 1 → exec (.meshWrite p) s = .next s.flow)

/-- A granule that a MESH_WRITE covers whole with clean data loses its poison, and one that it covers in part keeps it; a granule that a
poisoned write touches is poisoned (R128 to R131). Where the manual is silent the clauses rest on the model's choices of log entry 3. -/
def Obligations.WritesSettlePoison : Prop :=
  ∀ (s v : State) (p : MeshPacket) (f : FieldIx) (g : Nat),
    let a := addrLocal p.addr.toNat
    let n := p.body.length
    s.stands p 1 f v → v.meshVerdict f p n (v.landOk p.addr.toNat n v.glb.modIx.val p.ctx) = .ok → 0 < n →
    answers (exec (.meshWrite p) s) fun u =>
      (p.status ≠ stPoison → a ≤ 64 * g → 64 * g + 64 ≤ a + n → u.mem.poisoned g = false) ∧
      (p.status ≠ stPoison → ¬ (a ≤ 64 * g ∧ 64 * g + 64 ≤ a + n) → u.mem.poisoned g = s.mem.poisoned g) ∧
      (p.status = stPoison → a < 64 * g + 64 → 64 * g < a + n → u.mem.poisoned g = true)

/-- A MESH_REDUCE_ADD that its slice admits changes no byte of memory outside its target elements and is acknowledged; one turned away
changes none (R29, R121, R122). A MESH_READ_REQUEST that its target admits is answered by read responses on MV0, each with the bytes that
memory holds at its place, those of poisoned granules excepted, and changes no memory but what errors found by the read poison; one turned
away gets an error response (R34, R66, R129, R131, R218, R240). Where the manual is silent the clauses rest on the model's choices of log
entries 12 and 56. -/
def Obligations.ReduceAddsAndReads : Prop :=
  (∀ (s v : State) (p : MeshPacket) (f : FieldIx),
    let a := addrLocal p.addr.toNat
    let n := redSpan p.efmt.toNat p.anchored p.epw p.body.length
    let d := v.meshVerdict f p n (redTarget p.addr.toNat p.efmt.toNat p.anchored)
    (s.stands p 3 f v → s.mem.wf = true → d = .ok → answers (exec (.meshReduceAdd p) s) fun u =>
      (∀ b, b < a ∨ a + n ≤ b → u.mem.byte b = s.mem.byte b) ∧ (∀ c, c ≠ pktCore p → u.core c = v.core c) ∧ u.fields = v.fields ∧
      u.mesh = v.mesh ++ [replyAt f p 4 stGood]) ∧
    (s.stands p 3 f v → d ≠ .ok → answers (exec (.meshReduceAdd p) s) fun u => u.mem = s.mem ∧ u.cores = s.cores ∧
      u.mesh = v.mesh ++ [replyAt f p 5 d.status]) ∧
    (s.stillUnder p 3 → exec (.meshReduceAdd p) s = .next s.flow)) ∧
  (∀ (s v : State) (p : MeshPacket) (f : FieldIx) (ecc : List EccErr),
    let a := addrLocal p.addr.toNat
    let d := v.meshVerdict f p p.rlen true
    let w := v.readErrors a p.rlen ecc
    (s.stands p 0 f v → d = .ok → answers (exec (.meshReadRequest p ecc) s) fun u => u.mem = w.mem ∧ u.cores = w.cores ∧ (ecc = [] → w = v) ∧
      ∃ l, u.mesh = w.mesh ++ l ∧ ∀ r ∈ l, r.at_ = f ∧ r.inp = none ∧ r.pkt.op = 2 ∧ r.pkt.vc = 0 ∧ p.tag ≤ r.pkt.tag ∧
        r.pkt.tag + r.pkt.rlen ≤ p.tag + p.rlen ∧ r.pkt.srcField = p.srcField ∧ r.pkt.srcCore = p.srcCore ∧ r.pkt.slot = p.slot ∧
        (r.pkt.status = stGood ∨ r.pkt.status = stPoison) ∧
        (w.mem.anyPoison (a + (r.pkt.tag - p.tag)) r.pkt.rlen = false → r.pkt.body = w.mem.read (a + (r.pkt.tag - p.tag)) r.pkt.rlen)) ∧
    (s.stands p 0 f v → d ≠ .ok → answers (exec (.meshReadRequest p ecc) s) fun u => u.mem = s.mem ∧ u.cores = s.cores ∧
      u.mesh = v.mesh ++ [replyAt f p 5 d.status]) ∧
    (s.stillUnder p 0 → exec (.meshReadRequest p ecc) s = .next s.flow))

/-- An answer that reaches its issuer takes effect at the issuing core alone: a read response fills its place in the waiting gang's data,
a write acknowledgement or an error response to a write counts one write as acknowledged, an error response to a read leaves the awaited
bytes poisoned; what no gang waits for, and "destination parked", change nothing. An answer that the fault tables end at another router is
lost there, and logged (R38, R52, R71, R129, R414). Where the manual is silent the clauses rest on the model's choices of log entries 31
and 56. -/
def Obligations.MeshAnswersReachTheirIssuer : Prop :=
  ∀ (s v : State) (p : MeshPacket) (f : FieldIx),
    let c := pktCore p
    let acked := fun u : State => onlyCore c v u ∧
      (u.task c p.task).cmds = (v.task c p.task).cmds.map (fun y => if y.id == p.cmd then { y with acks := y.acks - 1 } else y)
    let gangs := fun (h : Gang → Gang) (u : State) => onlyCore c v u ∧
      (u.core c).gangs = (v.core c).gangs.map (fun y => if y.slot == p.slot then h y else y)
    let lost := fun u : State => u = { v with flt := u.flt, out := u.out } ∧
      ∃ x ∈ u.flt.log, x.code = faultCode 1 0xB 0x05 ∧ x.srcKind = BitVec.ofNat 8 kField ∧ x.srcId = BitVec.ofNat 8 f.val
    (s.stands p 2 f v →
      (f = p.srcField → v.waits p = true →
        answers (exec (.meshReadResponse p) s) (gangs fun x => x.arrive p.tag p.body (p.status == stPoison))) ∧
      (f = p.srcField → v.waits p = false → exec (.meshReadResponse p) s = .next v) ∧
      (f ≠ p.srcField → answers (exec (.meshReadResponse p) s) lost)) ∧
    (s.stands p 4 f v →
      (f = p.srcField → answers (exec (.meshWriteAck p) s) acked) ∧ (f ≠ p.srcField → answers (exec (.meshWriteAck p) s) lost)) ∧
    (s.stands p 5 f v →
      (f = p.srcField → p.status = stParked → exec (.meshErrorResponse p) s = .next v) ∧
      (f = p.srcField → p.status ≠ stParked → p.rlen = 0 → answers (exec (.meshErrorResponse p) s) acked) ∧
      (f = p.srcField → p.status ≠ stParked → p.rlen ≠ 0 → v.waits p = true →
        answers (exec (.meshErrorResponse p) s) (gangs fun x => x.lose p.tag p.rlen)) ∧
      (f = p.srcField → p.status ≠ stParked → p.rlen ≠ 0 → v.waits p = false → exec (.meshErrorResponse p) s = .next v) ∧
      (f ≠ p.srcField → answers (exec (.meshErrorResponse p) s) lost)) ∧
    (s.stillUnder p 2 → exec (.meshReadResponse p) s = .next s.flow) ∧ (s.stillUnder p 4 → exec (.meshWriteAck p) s = .next s.flow) ∧
    (s.stillUnder p 5 → exec (.meshErrorResponse p) s = .next s.flow)

/-- A router accepts a multicast packet when its retention buffer of 64 KiB has room: the copy is replaced by copies to every branch, and
the packet is retained for the local cores it names; without room nothing changes (R41 to R44). MULTICAST_LOCAL_DELIVER writes a retained
packet at the packet's offset in the core's scratchpad, where the core admits it, and acknowledges it; no byte elsewhere changes. The first
packet of an intake segment spends a landing credit and waits without one (R41, R43, R233, R273). A packet no router holds so changes
nothing. Where the manual is silent the clauses rest on the model's choices of log entry 31. -/
def Obligations.MulticastCopies : Prop :=
  (∀ (s : State) (f : FieldIx) (p : MeshPacket),
    (∀ k, s.mcast.find? (fun k => k.dest == f && k.pkt == p) = some k →
      (s.retention f p.vc + p.body.length ≤ 65536 → answers (exec (.multicastReplicate f p) s) fun u =>
        u = { s with mcast := u.mcast, fields := u.fields } ∧ (∀ d, d ≠ f → u.field d = s.field d) ∧
        u.mcast = s.mcast.erase k ++ (s.branches f p).map (fun g => { prev := f, dest := g, pkt := p }) ∧
        (u.field f).retained = (s.field f).retained ++ (if s.localCores f p = 0 then [] else [{ pkt := p, cores := s.localCores f p }])) ∧
      (65536 < s.retention f p.vc + p.body.length → exec (.multicastReplicate f p) s = .next s)) ∧
    (s.mcast.find? (fun k => k.dest == f && k.pkt == p) = none → exec (.multicastReplicate f p) s = .next s)) ∧
  (∀ (s : State) (f : FieldIx) (c : Fin 4) (p : MeshPacket),
    let kept := (s.field f).retained.find? fun k => k.pkt == p && k.cores.getLsbD c.val
    let a := mcastAddr p (coreOf f c)
    let n := p.body.length
    let pays := s.intakeCtx p.ctx = true ∧ s.slotBegun (coreOf f c) (bits p.addr.toNat 0 26) n s.glb.modIx.val p.ctx = false
    let had := (s.field f).landCredits c p.ctx
    let v := s.regionVerdict a n p.region (s.landOk a n s.glb.modIx.val p.ctx)
    (kept = none → exec (.multicastLocalDeliver f c p) s = .next s) ∧
    (kept ≠ none → pays → had = 0 → exec (.multicastLocalDeliver f c p) s = .next s) ∧
    (kept ≠ none → (pays → had ≠ 0) → answers (exec (.multicastLocalDeliver f c p) s) fun u =>
      (∀ g, g ≠ f → u.field g = s.field g) ∧ (u.field f).landCredits c p.ctx = (if pays then had - 1 else had) ∧
      (∀ k ∈ (u.field f).retained, k.pkt = p → k.cores.getLsbD c.val = false) ∧
      (s.mem.wf = true → v = .ok → p.status ≠ stPoison →
        (∀ b, b < addrLocal a ∨ addrLocal a + n ≤ b → u.mem.byte b = s.mem.byte b) ∧
        (∀ i (h : i < n), u.mem.byte (addrLocal a + i) = p.body[i]) ∧
        u.mesh = s.mesh ++ [replyAt f (mcastReply p (coreOf f c)) 4 stGood]) ∧
      (v ≠ .ok → u.mem = s.mem)))

/-- The bundles of a mesh link: BUNDLE_CRC_RETRY counts one error and one retry, and the link's transmitter sends its last flits again from
the one named; BUNDLE_FAIL marks a bundle with four errors in 1,024 cycles as failed, steering in the spare at the first failure and
leaving the link at half width at a second; BUNDLE_SPARE_RESUME ends the pause of 48 cycles, which counts as a stall, with a replay (R45,
R46, R47). ROUTER_FAILED: a router that was alive enters the in-field section of the defect map, the sublinks of its edge port go DOWN, and a
run on this module stops issuing; a router already dead changes nothing (R53, R54, R473). Where the manual is silent the clauses rest on
the model's choices of log entry 31. -/
def Obligations.MeshFailures : Prop :=
  (∀ (s : State) (f : FieldIx) (d : DirIx) (b : Fin 9) (back : Fin 17),
    let k := (s.field f).links[d]
    let now := fun u : State => (u.field f).links[d]
    let resent := fun (n : Nat) (u : State) => u = { s with fields := u.fields } ∧ ∀ g e,
      (stepField f d.val = some g ∧ e = oppDir d.val → (u.field g).links[e] =
        { (s.field g).links[e] with replay := (s.field g).links[e].kept.drop ((s.field g).links[e].kept.length - n) }) ∧
      (¬ (stepField f d.val = some g ∧ e = oppDir d.val) → g ≠ f ∨ e ≠ d → (u.field g).links[e] = (s.field g).links[e])
    let marked := fun u : State => u = { s with fields := u.fields, flt := u.flt, out := u.out } ∧ (∀ g, g ≠ f → u.field g = s.field g) ∧
      (∀ e, e ≠ d → (u.field f).links[e] = (s.field f).links[e])
    let failed := k.failed ||| BitVec.ofNat 9 (2 ^ b.val)
    (linkExists f d = true → answers (exec (.bundleCrcRetry f d (b, back)) s) fun u => resent back.val u ∧
      now u = { k with crcErr := k.crcErr + 1, retries := k.retries + 1
                       recent := (b, s.now) :: k.recent.filter fun e => recently s.now e.2 }) ∧
    (linkExists f d = false → exec (.bundleCrcRetry f d (b, back)) s = .next s) ∧
    (linkExists f d = true → k.failed.getLsbD b.val = false → 4 ≤ k.errors s.now b → answers (exec (.bundleFail f d b) s) fun u => marked u ∧
      (k.failures = 0 → now u = (if b.val = 8 then { k with failed := failed } else { k with failed := failed, spare := true, paused := true })) ∧
      (k.failures ≠ 0 → now u = { k with failed := failed, half := true })) ∧
    (linkExists f d = false ∨ k.failed.getLsbD b.val = true ∨ k.errors s.now b < 4 → exec (.bundleFail f d b) s = .next s) ∧
    (linkExists f d = true → k.paused = true → answers (exec (.bundleSpareResume f d) s) fun u => resent 16 u ∧
      now u = { k with paused := false, recent := [], stall := k.stall + 48 }) ∧
    (k.paused = false → exec (.bundleSpareResume f d) s = .next s)) ∧
  (∀ (s : State) (f : FieldIx),
    (s.deadRouter f = false → answers (exec (.routerFailed f) s) fun u =>
      u.nvm = { s.nvm with badRouters := s.nvm.badRouters ++ [f] } ∧ u.deadRouter f = true ∧ u.issuing = false ∧ u.mem = s.mem ∧
      ∀ g b, attachField g b = f.val → (s.sub g b).st ≠ .disabled → (u.sub g b).st = .down ∧ (u.sub g b).dead = true) ∧
    (s.deadRouter f = true → exec (.routerFailed f) s = .next s))

/-! ## The control network and registers -/

/-- CTL_TICK and CTL_HOLD_GRANT set the boundary of the node they reach and of no other, and its cores leave their guard time; a tick at
or behind a set replica is the third disagreement of a run or logged as one. The GCNT broadcast sets the replica of every node it reaches
(R61, R322, R324). A barrier of the running image: an arrival below the declared count is counted; the arrival that reaches it clears the
count and broadcasts the release; a release reaching a node is noted by every task context of its cores (R60, R167). Where the manual is
silent the clauses rest on the model's choices of log entries 10, 34 and 56. -/
def Obligations.BoundariesAndBarriers : Prop :=
  (∀ (s v : State) (f : FieldIx) (b : W64),
    let ahead := (v.field f).replica = none ∨ v.nodeCount f < b.toNat
    let moved := fun u : State => (∀ g, g ≠ f → u.field g = v.field g) ∧
      u.field f = { v.field f with bound := b, begun := if (v.field f).bound.toNat ≤ v.nodeCount f then (v.field f).bound else (v.field f).begun } ∧
      (∀ c, coreField c ≠ f → u.core c = v.core c) ∧ ∀ c, coreField c = f → u.core c = { v.core c with guarded := false }
    (s.nodeServes f (isCount 1 b.toNat) v →
      (ahead → answers (exec (.ctlTick f b) s) fun u => moved u ∧ u = { v with fields := u.fields, cores := u.cores }) ∧
      (¬ ahead → v.pit.tickBad ≠ 2 → answers (exec (.ctlTick f b) s) fun u => moved u ∧
        u = { v with fields := u.fields, cores := u.cores, flt := u.flt, out := u.out, pit := u.pit } ∧
        u.pit = { v.pit with tickBad := v.pit.tickBad + 1 } ∧ ∃ x ∈ u.flt.log, x.code = faultCode 0 5 6 ∧ x.srcId = BitVec.ofNat 8 f.val) ∧
      exec (.ctlTick f b) s = .next (if ahead then v.setNodeBound f b else (v.setNodeBound f b).tickClash f)) ∧
    (s.ctlFlow.ctlServed f (isCount 1 b.toNat) = none → exec (.ctlTick f b) s = .next s.ctlFlow) ∧
    (s.nodeServes f (isCount 3 b.toNat) v → answers (exec (.ctlHoldGrant f b) s) fun u => moved u ∧
      u = { v with fields := u.fields, cores := u.cores }) ∧
    (s.ctlFlow.ctlServed f (isCount 3 b.toNat) = none → exec (.ctlHoldGrant f b) s = .next s.ctlFlow) ∧
    answers (exec (.ctlGcntSync b) s) fun u => u = { s.ctlFlow with fields := u.fields, ctl := u.ctl } ∧
      ∀ g, u.field g = { s.ctlFlow.field g with
        replica := if (s.ctlFlow.ctlServed g (isCount 0xC b.toNat)).isSome then some ((b.toNat : Int) - s.gcnt) else (s.ctlFlow.field g).replica }) ∧
  (∀ (s v : State) (bar : BitVec 12) (src f : FieldIx) (n : Nat),
    let mine := fun m : CtlMsg => m.typ == 4 && m.arg == bar && m.src == src
    (s.nodeServes pitField mine v →
      (v.image.barriers.find? (fun b => b.1 == bar) = some (bar, n) → v.running = true →
        (v.pit.arrived bar + 1 < n → answers (exec (.barrierArrival bar src) s) fun u => u = { v with pit := u.pit } ∧
          u.pit = { v.pit with arrivals := u.pit.arrivals } ∧ u.pit.arrived bar = v.pit.arrived bar + 1 ∧
          ∀ b, b ≠ bar → u.pit.arrived b = v.pit.arrived b) ∧
        (n ≤ v.pit.arrived bar + 1 → answers (exec (.barrierArrival bar src) s) fun u =>
          u.pit.arrived bar = 0 ∧ u.cores = v.cores ∧ u.mem = v.mem ∧
          ∀ g : FieldIx, v.ctlBlocked { releaseMsg bar with dest := g } false = false →
            { msg := { releaseMsg bar with dest := g }, at_ := pitField } ∈ u.ctl)) ∧
      (v.image.barriers.find? (fun b => b.1 == bar) = none ∨ v.running = false → exec (.barrierArrival bar src) s = .next v)) ∧
    (s.ctlFlow.ctlServed pitField mine = none → exec (.barrierArrival bar src) s = .next s.ctlFlow) ∧
    (s.nodeServes f (fun m => m.typ == 5 && m.arg == bar) v → answers (exec (.barrierRelease f bar) s) fun u => u = { v with cores := u.cores } ∧
      (∀ i t, bar ∈ (u.task (coreOf f i) t).released) ∧ (∀ c t b, b ≠ bar → (b ∈ (u.task c t).released ↔ b ∈ (v.task c t).released)) ∧
      (∀ c, coreField c ≠ f → u.core c = v.core c)) ∧
    (s.ctlFlow.ctlServed f (fun m => m.typ == 5 && m.arg == bar) = none → exec (.barrierRelease f bar) s = .next s.ctlFlow))

/-- A credit grant that the control network brings to the router of the core's field adds its count to the credits held on its context;
one for an intake context also adds them to the landing credits that the router holds (R231, R273). Without such a grant at the node the
nodes only forward (R58). Where the manual is silent the clauses rest on the model's choices of log entries 10, 34 and 56. -/
def Obligations.CreditGrantsAreHeld : Prop :=
  ∀ (s v : State) (c : CoreIx) (ctx : BitVec 16) (n : BitVec 12),
    let mine := sameMsg (creditMsg c ctx n.toNat)
    (s.nodeServes (coreField c) mine v → answers (exec (.ctlCreditGrant c ctx n) s) fun u =>
      (∀ k, v.ctx? ctx = some k → u.ctx? ctx = some { k with held := k.held + n.toNat }) ∧
      (∀ x, x ≠ ctx → u.ctx? x = v.ctx? x) ∧
      (u.field (coreField c)).landCredits (coreLocal c) ctx =
        (v.field (coreField c)).landCredits (coreLocal c) ctx + (if v.intakeCtx ctx then n.toNat else 0) ∧
      (∀ f, f ≠ coreField c → u.field f = v.field f) ∧ u = { v with fab := u.fab, fields := u.fields }) ∧
    (s.ctlFlow.ctlServed (coreField c) mine = none → exec (.ctlCreditGrant c ctx n) s = .next s.ctlFlow) ∧
    s.ctlFlow = { s with ctl := s.ctlFlow.ctl, fields := s.ctlFlow.fields }

/-- A fault event enters the log, as one of at most 8,192 entries, with its code, source and data; one that agrees in code and source with
an entry less than 1 µs old counts in that entry and in FLT_COALESCED instead, and writes none (R474, R475). One of class 3 also makes a
run issue no more, one of class 5 sets its service bit, and an undelivered control message is a cause of the warden's reset (R473, R480,
R481). Where the manual is silent the clauses rest on the model's choices of log entry 8. -/
def Obligations.FaultEventsAreLogged : Prop :=
  ∀ (s : State) (e : FaultEv),
    let same := s.flt.log.any fun x => x.same s.now e.code e.srcKind e.srcId
    let w := s.logCode e.code e.srcKind e.srcId e.data
    let w2 := match serviceOf e.code.toNat with
      | some b => w.service b
      | none => w
    w = { s with flt := w.flt, out := w.out } ∧
    (same = false → w.flt.wr = bump s.flt.wr ∧ w.flt.log.length = min 8192 (s.flt.log.length + 1) ∧
      ∃ x ∈ w.flt.log, x.code = e.code ∧ x.srcKind = e.srcKind ∧ x.srcId = e.srcId ∧ x.rep = 0 ∧ x.at_ = s.now ∧
        x.data = (e.data ++ zeros 32).take 32) ∧
    (same = true → w.flt.wr = s.flt.wr ∧ w.flt.coalesced = bump s.flt.coalesced ∧ w.flt.log.length = s.flt.log.length ∧ w.out = s.out) ∧
    (e.code.toNat / 4096 ≠ 3 → e.code.toNat % 4096 ≠ 0xB04 → exec (.ctlFaultEvent e) s = .next w2) ∧
    (e.code.toNat / 4096 = 3 → e.code.toNat % 4096 ≠ 0xB04 → answers (exec (.ctlFaultEvent e) s) fun u =>
      u.issuing = false ∧ u.mem = s.mem ∧ u.flt = w2.flt ∧ u.glb = s.glb ∧ (s.issuing = false → u = w2)) ∧
    (e.code.toNat % 4096 = 0xB04 → exec (.ctlFaultEvent e) s =
      .next ((if e.code.toNat / 4096 = 3 then w2.faultRun else w2).autoCause.autoReset)) ∧
    ∀ b, serviceOf e.code.toNat = some b → b < 10 → w2.flt.service.getLsbD b = true

/-- Configuration messages that have reached their field: a write that the register admits takes effect there (ILV, a fault-table word, a
core's clock bounds), one that it does not admit is counted as refused; a read is answered with the register's value; a response completes
the read (R55, R57). A fence message sets or clears its domain's bit at the node it reaches, no other bit and no other node (R412, R414).
Without such a message at the node the nodes only forward (R58). A word that fails its parity is retried 3 times, and the failure of the
third retry marks the link as failed and sends the waiting messages around it; a word that agrees with its parity does nothing (R62).
Where the manual is silent the clauses rest on the model's choices of log entries 10, 34 and 56. -/
def Obligations.ConfigAndFenceMessages : Prop :=
  (∀ (s v : State) (p : Path) (f : FieldIx) (off : BitVec 18) (x : W32),
    let write := sameMsg (cfgMsg 8 f (entryField p) off [x])
    let read := sameMsg (cfgMsg 9 f (entryField p) off [])
    let response := sameMsg (cfgMsg 0xA (entryField p) f off [x])
    (s.nodeServes f write v →
      (off.toNat = 0x100 → classS p = true → answers (exec (.ctlConfigWrite p f off x) s) fun u => onlyField f v u ∧
        u.field f = { v.field f with ilv := bit x.toNat 16 }) ∧
      (∀ i : Fin 8, off.toNat = 0x1000 + 4 * i.val → p = .warden → answers (exec (.ctlConfigWrite p f off x) s) fun u => onlyField f v u ∧
        (u.field f).faultTab[i] = x) ∧
      (∀ c : Fin 4, off.toNat = 0x20000 + 0x4000 * c.val + 0x20 → answers (exec (.ctlConfigWrite p f off x) s) fun u =>
        onlyCore (coreOf f c) v u ∧ u.core (coreOf f c) = { v.core (coreOf f c) with bound := x &&& 0xFF }) ∧
      (fieldAdmits p off.toNat = false → off.toNat ≠ 0x100 ∨ bit x.toNat 16 ≠ (v.field f).ilv → exec (.ctlConfigWrite p f off x) s =
        .next (v.refuse p (fldOff f off)))) ∧
    (s.ctlFlow.ctlServed f write = none → exec (.ctlConfigWrite p f off x) s = .next s.ctlFlow) ∧
    (s.nodeServes f read v →
      let r := v.readWord p (fldOff f off).toNat
      exec (.ctlConfigRead p f off) s = .next (r.2.tell (cfgMsg 0xA (entryField p) f off [r.1])) ∧
      (v.ctlBlocked (cfgMsg 0xA (entryField p) f off [r.1]) false = false → answers (exec (.ctlConfigRead p f off) s) fun u =>
        u = { v with latch := u.latch, ctl := v.ctl ++ [{ msg := cfgMsg 0xA (entryField p) f off [r.1], at_ := f }] })) ∧
    (s.ctlFlow.ctlServed f read = none → exec (.ctlConfigRead p f off) s = .next s.ctlFlow) ∧
    (s.nodeServes (entryField p) response v → exec (.ctlReadResponse p f off x) s = .next { v with out := v.out ++ [.readData p (fldOff f off) x] }) ∧
    (s.ctlFlow.ctlServed (entryField p) response = none → exec (.ctlReadResponse p f off x) s = .next s.ctlFlow)) ∧
  (∀ (s v : State) (f : FieldIx) (d : DomIx) (raised : Bool) (k : Fin 4) (m : CtlMsg) (word : W32) (parity : BitVec 2),
    let fence := sameMsg { fenceMsg d raised with dest := f }
    let n := parityCount (s.field f).ctlRetry[k] m
    (s.nodeServes f fence v → answers (exec (.ctlFence f d raised) s) fun u => onlyField f v u ∧
      (u.field f).fences.getLsbD d.val = raised ∧ (∀ e : DomIx, e ≠ d → (u.field f).fences.getLsbD e.val = (v.field f).fences.getLsbD e.val)) ∧
    (s.ctlFlow.ctlServed f fence = none → exec (.ctlFence f d raised) s = .next s.ctlFlow) ∧
    (ctlParity word ≠ parity → neighbour f k ≠ none → (s.field f).ctlFailed[k] = false →
      (n ≤ 3 → answers (exec (.ctlParityFail f k (m, word, parity)) s) fun u => onlyField f s u ∧
        (u.field f).ctlRetry[k] = some (m, n) ∧ (u.field f).ctlFailed = (s.field f).ctlFailed) ∧
      (3 < n → ∃ w : State, exec (.ctlParityFail f k (m, word, parity)) s = .next (w.ctl.foldl State.reroute w).autoReset ∧
        (w.field f).ctlFailed[k] = true ∧ (w.field f).ctlRetry[k] = none ∧ w.ctl = s.ctl ∧ (∀ g, g ≠ f → w.field g = s.field g) ∧
        w = { s with fields := w.fields, flt := w.flt, out := w.out } ∧
        ∃ x ∈ w.flt.log, x.code = faultCode 0 0xB 3 ∧ x.srcKind = BitVec.ofNat 8 kField ∧ x.srcId = BitVec.ofNat 8 f.val)) ∧
    (ctlParity word = parity ∨ neighbour f k = none ∨ (s.field f).ctlFailed[k] = true →
      exec (.ctlParityFail f k (m, word, parity)) s = .next s))

/-- Class S writes of registers outside the fields take effect for a session or the warden that reaches CSR space, and are refused and
counted for a host port: FLT_CFG, MEM_TIMEOUT, INT_SCRUB_CFG, and the shadow set's registers while no swap is armed (R447, R492, R497). A
word that is not aligned is refused; the word of a field register goes to its field as a message, if the register admits the path, and is
refused at once if not (R55, R57). A path that does not reach CSR space writes nothing (R441). Where the manual is silent the clauses rest
on the model's choices of log entries 10 and 25. -/
def Obligations.CsrWritesObeyTheirClass : Prop :=
  ∀ (s : State) (p : Path) (v : W32),
    let refused := fun (off : BitVec 26) => exec (.csrWrite p off v) s = .next (s.refuse p off)
    (s.pathOpen p = true → classS p = true →
      exec (.csrWrite p 0xB00004 v) s = .next { s with flt := { s.flt with cfg := v &&& 0x13F } } ∧
      exec (.csrWrite p 0x900200 v) s = .next { s with memu := { s.memu with timeout := v } } ∧
      exec (.csrWrite p 0x700000 v) s = .next { s with intk := { s.intk with scrubCfg := v &&& 0xFFFFFF00 } } ∧
      (s.cfg.st ≠ .armed → exec (.csrWrite p 0x400004 v) s =
        .next { s with cfg := { s.cfg with shadow := { s.cfg.shadow with budget := v &&& 0x3F } } }) ∧
      (s.cfg.st = .armed → refused 0x400004)) ∧
    (s.pathOpen p = true → classS p = false → refused 0xB00004 ∧ refused 0x900200 ∧ refused 0x700000 ∧ refused 0x400004) ∧
    (∀ off : BitVec 26, s.pathOpen p = true → off.toNat % 4 ≠ 0 → refused off) ∧
    (∀ off : BitVec 26, s.pathOpen p = true → off.toNat % 4 = 0 → inFld off = true →
      let f := fldField off.toNat
      (fieldAdmits p (fldReg off).toNat = true →
        exec (.csrWrite p off v) s = .next (s.tell (cfgMsg 8 f (entryField p) (fldReg off) [v])) ∧
        (s.ctlBlocked (cfgMsg 8 f (entryField p) (fldReg off) [v]) false = false → exec (.csrWrite p off v) s =
          .next { s with ctl := s.ctl ++ [{ msg := cfgMsg 8 f (entryField p) (fldReg off) [v], at_ := entryField p }] })) ∧
      (fieldAdmits p (fldReg off).toNat = false → (fldReg off).toNat ≠ 0x100 → exec (.csrWrite p off v) s =
        .next (s.refuse p (fldOff f (fldReg off))))) ∧
    (∀ off : BitVec 26, s.pathOpen p = false → exec (.csrWrite p off v) s = .next s) ∧
    ∀ off : BitVec 26, (s.refuse p off).glb.refused[pathIx p] = bump (s.glb.refused[pathIx p]) ∧ (s.refuse p off).glb.lastOff = off ∧
      s.refuse p off = { s with glb := { s.glb with refused := (s.refuse p off).glb.refused, lastPath := BitVec.ofNat 2 (pathIx p).val, lastOff := off } }

/-- A read of the low word of a 64-bit register answers the low word and latches the high word, and a following read of the high word
returns the latched value; each path keeps its own latch, so that reads of other paths in between do not disturb it; a read of a high word
with no low-word read before it on the path since module reset returns zero. A CSR read outside the fields answers what this read does,
and GCNT is such a register; an unaligned one completes as unsupported, one inside a field is asked for over the control network, and a
path that does not reach CSR space reads nothing. -/
def Obligations.ReadsLatchTheHighWord : Prop :=
  (∀ (s : State) (p : Path) (a v : Nat), s.regAt p a = some (.wide v) → s.regAt p (a + 4) = none → a + 4 < 2 ^ 26 →
    let u := (s.readWord p a).2
    (s.readWord p a).1 = BitVec.ofNat 32 v ∧ u = { s with latch := u.latch } ∧
    u.readWord p (a + 4) = (BitVec.ofNat 32 (v / 2 ^ 32), u) ∧
    (∀ q b, q ≠ p → u.latched q b = s.latched q b ∧ ((u.readWord q b).2.readWord p (a + 4)).1 = BitVec.ofNat 32 (v / 2 ^ 32)) ∧
    ((∀ x ∈ s.latch, x.1 = p → x.2.1.toNat ≠ a) → (s.readWord p (a + 4)).1 = 0) ∧ s.moduleReset.latch = [] ∧ State.reset.latch = [] ∧
    (∀ off : BitVec 26, off.toNat = a → s.pathOpen p = true → a % 4 = 0 → inFld off = false →
      exec (.csrReadLowLatch p off) s = .next (u.emit (.readData p off (BitVec.ofNat 32 v)))) ∧
    s.regAt p 0x100000 = some (.wide s.pit.gcnt.toNat)) ∧
  (∀ (s : State) (p : Path) (off : BitVec 26),
    let ask := cfgMsg 9 (fldField off.toNat) (entryField p) (fldReg off) []
    (s.pathOpen p = true → off.toNat % 4 = 0 → inFld off = false → exec (.csrReadLowLatch p off) s =
      .next ((s.readWord p off.toNat).2.emit (.readData p off (s.readWord p off.toNat).1))) ∧
    (s.pathOpen p = true → off.toNat % 4 ≠ 0 → exec (.csrReadLowLatch p off) s = .next { s with out := s.out ++ [.unsupported p] }) ∧
    (s.pathOpen p = true → off.toNat % 4 = 0 → inFld off = true → exec (.csrReadLowLatch p off) s = .next (s.tell ask)) ∧
    (s.pathOpen p = true → off.toNat % 4 = 0 → inFld off = true → s.ctlBlocked ask false = false → exec (.csrReadLowLatch p off) s =
      .next { s with ctl := s.ctl ++ [{ msg := ask, at_ := entryField p }] }) ∧
    (s.pathOpen p = false → exec (.csrReadLowLatch p off) s = .next s))

/-- ARM, on a path that may write it while the warden is up, locks an empty slot's image and starts its check; the end of the check arms the
slot with its image, or leaves it empty with the code of the first failing check; DISARM empties and unlocks a slot that does not run. A
member that has been proposed a launch answers again when its readiness has changed (R180, R181, R318). -/
def Obligations.SlotsArmAndDisarm : Prop :=
  ∀ (s : State) (p : Path) (i : ImgIx),
    let slot := s.glb.slots[i]
    let im := s.readImage slot.base.toNat
    let e := s.checkImage i im
    let put := fun x : ImgSlot => { s with glb := { s.glb with slots := s.glb.slots.set i x } }
    (s.pathOpen p = true → s.wardenTakes p = true →
      (slot.st = .empty → exec (.arm p i) s = .next (put { slot with st := .checking, lock := true })) ∧
      (slot.st ≠ .empty → exec (.arm p i) s = .next s) ∧
      (slot.st ≠ .running → answers (exec (.disarm p i) s) (afterAnswer (put { slot with st := .empty, lock := false }))) ∧
      (slot.st = .running → answers (exec (.disarm p i) s) (afterAnswer (s.refuse p topoCtl)))) ∧
    (s.pathOpen p = true → s.wardenTakes p = false → exec (.arm p i) s = .next (s.refuse p topoCtl) ∧
      exec (.disarm p i) s = .next (s.refuse p topoCtl)) ∧
    (s.pathOpen p = false → exec (.arm p i) s = .next s ∧ exec (.disarm p i) s = .next s) ∧
    (slot.st = .checking → s.glb.wardenUp = true →
      (e = 0 → answers (exec (.armCheckDone i) s) (afterAnswer (put { slot with st := .armed, err := 0, runs := 0, image := im, used := false }))) ∧
      (e ≠ 0 → answers (exec (.armCheckDone i) s) (afterAnswer (put { slot with st := .empty, err := BitVec.ofNat 8 e })))) ∧
    (slot.st ≠ .checking ∨ s.glb.wardenUp = false → answers (exec (.armCheckDone i) s) (afterAnswer s))

/-- The configuration sets: LOAD starts the check of an image, but not while a swap is armed; its end loads a good image into the shadow
set and leaves the code of a bad one; GO arms a swap and CANCEL disarms one that is not due; a due swap makes the shadow set the active one
and counts. None of them acts for a path that may not write it (R447 to R449, R492). Where the manual is silent the clauses rest on the
model's choices of log entry 47. -/
def Obligations.ConfigurationSwaps : Prop :=
  ∀ (s : State) (p : Path),
    let b := s.loadBytes
    let e := s.configCheck b s.cfg.genAct.toNat
    let set := fun st : CfgSt => { s with cfg := { s.cfg with st := st } }
    (s.pathOpen p = true → classS p = true →
      (s.cfg.st = .idle → exec (.load p) s = .next (set .loading) ∧
        exec (.swapGo p) s = .next { s with cfg := { s.cfg with st := .armed, goAt := s.now } } ∧ exec (.swapCancel p) s = .next s) ∧
      (s.cfg.st = .armed → exec (.load p) s = .next { s with cfg := { s.cfg with err := 9 } } ∧ exec (.swapGo p) s = .next s ∧
        exec (.swapCancel p) s = .next (if s.swapDue then s else set .idle)) ∧
      (s.cfg.st = .loading → exec (.load p) s = .next s ∧ exec (.swapGo p) s = .next s ∧ exec (.swapCancel p) s = .next s)) ∧
    (s.pathOpen p = true → classS p = false → exec (.load p) s = .next (s.refuse p cfgCtl) ∧
      exec (.swapGo p) s = .next (s.refuse p cfgSwapOff) ∧ exec (.swapCancel p) s = .next (s.refuse p cfgSwapOff)) ∧
    (s.pathOpen p = false → exec (.load p) s = .next s ∧ exec (.swapGo p) s = .next s ∧ exec (.swapCancel p) s = .next s) ∧
    (s.cfg.st = .loading → s.glb.wardenUp = true →
      (e = 0 → exec .loadCheckDone s = .next { s with cfg := { s.cfg with
        st := .idle, err := 0, shadow := s.cfg.shadow.load b, gen := BitVec.ofNat 64 (fieldAt b 8 8) } }) ∧
      (e ≠ 0 → answers (exec .loadCheckDone s) fun u =>
        u = { s with cfg := { s.cfg with st := .idle, err := BitVec.ofNat 8 e }, flt := u.flt, out := u.out } ∧
        ∃ x ∈ u.flt.log, x.code = faultCode 0 9 e ∧ x.srcKind = BitVec.ofNat 8 kWarden)) ∧
    (s.cfg.st ≠ .loading ∨ s.glb.wardenUp = false → exec .loadCheckDone s = .next s) ∧
    (s.swapDue = true → answers (exec .configSwap s) fun u => ∃ w, afterAnswer w u ∧ w = s.swap ∧
      w.cfg = { s.cfg with active := s.cfg.shadow, genAct := s.cfg.gen, st := .idle, swaps := s.cfg.swaps + 1 } ∧ w.mem = s.mem ∧
      w.cores = s.cores ∧ w.glb = s.glb) ∧
    (s.swapDue = false → answers (exec .configSwap s) (afterAnswer s))

/-- Mailboxes, once BAR 0 is ready: POST of 32 to 4,096 bytes sets IN_BUSY and IN_LEN, of another length is answered REFUSE, and while
IN_BUSY is set is refused; OUT_ACK clears OUT_RDY; a waiting reply enters a free outbound mailbox and raises MSI-X vector 1 where that is
enabled (R441, R498). LOG_CLR, on a path that may write it, empties the log and clears its write count; a held fault message is sent once 100
µs have passed since the port's last (R474, R477). Where the manual is silent the clauses rest on the model's choices of log entries 23
and 24. -/
def Obligations.MailboxesAndTheLog : Prop :=
  (∀ (s : State) (i : PortIx) (n : BitVec 13),
    let k := s.glb.mbox[i]
    let put := fun x : Mbox => { s with glb := { s.glb with mbox := s.glb.mbox.set i x } }
    (s.barReady = true →
      (k.inBusy = false → 32 ≤ n.toNat → n.toNat ≤ 4096 → exec (.mboxPost i n) s = .next (put { k with inLen := n, inBusy := true })) ∧
      (k.inBusy = false → n.toNat < 32 ∨ 4096 < n.toNat → exec (.mboxPost i n) s =
        .next (put { k with inLen := n, replies := k.replies ++ [plainMsg (portSess i) 5 [4]] })) ∧
      (k.inBusy = true → exec (.mboxPost i n) s = .next (s.refuse (if i = 0 then .hostA else .hostB) mboxCtl)) ∧
      exec (.mboxOutAck i) s = .next (put { k with outRdy := false })) ∧
    (s.barReady = false → exec (.mboxPost i n) s = .next s ∧ exec (.mboxOutAck i) s = .next s) ∧
    (∀ r rest, k.replies = r :: rest → k.outRdy = false → answers (exec (.mboxOutReady i) s) fun u =>
      u = { put { k with replies := rest, outBytes := r, outLen := BitVec.ofNat 13 r.length, outRdy := true } with
        out := s.out ++ (if s.pins.msixEn[i] then [.msix i 1] else []) }) ∧
    (k.replies = [] ∨ k.outRdy = true → exec (.mboxOutReady i) s = .next s)) ∧
  (∀ (s : State) (p : Path) (i : PortIx),
    (s.pathOpen p = true → classS p = true → exec (.logClr p) s = .next { s with flt := { s.flt with log := [], wr := 0 } }) ∧
    (s.pathOpen p = true → classS p = false → exec (.logClr p) s = .next (s.refuse p fltCtl)) ∧
    (s.pathOpen p = false → exec (.logClr p) s = .next s) ∧
    (s.flt.held[i] = true → s.msixFree i = true → answers (exec (.msixHoldExpire i) s) fun u =>
      u = { s with flt := u.flt, out := s.out ++ (if s.pins.msixEn[i] then [.msix i 0] else []) } ∧
      u.flt = { s.flt with held := s.flt.held.set i false
                           lastMsix := if s.pins.msixEn[i] then s.flt.lastMsix.set i (some s.now) else s.flt.lastMsix }) ∧
    (s.flt.held[i] = false ∨ s.msixFree i = false → exec (.msixHoldExpire i) s = .next s))

/-! ## The pitch clock and the rope team -/

/-- LAUNCH_GO on a lead, at a count not too early and with no committed launch waiting, starts a proposal of that count; a count too early,
or a GO while a committed launch waits, is counted as missed; on another module the GO is refused and counted. A member that takes the
proposal holds it and notes its own reason; while a committed launch waits it only answers (R317, R318). A member launches on a commit that
names its proposal and comes before the launch pitch, drops the proposal on a cancel, and without a decision at the launch pitch does not
launch and logs it; any other such message, and one on a lead, changes nothing (R320, R321). Where the manual is silent the clauses rest on
the model's choices of log entries 19 and 28. -/
def Obligations.LaunchesAreProposed : Prop :=
  (∀ (s : State) (p : Path) (i : ImgIx) (g : GroupIx) (m : TeamMsg),
    let n := (s.chooseCount i).1
    let early := s.gcnt + 2 * s.slotPitch i + 100000
    (s.pathOpen p = true → classS p = true →
      (s.isLead = true → early ≤ n → s.pit.committed = false → answers (exec (.launchGo p i) s) fun u =>
        u = { s with pit := { s.pit with ctlSlot := i, launch := u.pit.launch, onGroup8 := u.pit.onGroup8 }, out := u.out } ∧
        ∃ l, u.pit.launch = some l ∧ l.count = n ∧ l.slot = i ∧ l.commit = none ∧ l.replies = [] ∧ l.attempts = 1 ∧
          l.archVer = s.intk.archVer ∧ l.loaded = false) ∧
      (s.isLead = true → n < early ∨ s.pit.committed = true → exec (.launchGo p i) s =
        .next { s with pit := { s.pit with ctlSlot := i, launchMiss := bump s.pit.launchMiss } }) ∧
      (s.isLead = false → exec (.launchGo p i) s = .next (State.refuse { s with pit := { s.pit with ctlSlot := i } } p launchCtl))) ∧
    (s.pathOpen p = true → classS p = false → exec (.launchGo p i) s = .next (s.refuse p launchCtl)) ∧
    (s.pathOpen p = false → exec (.launchGo p i) s = .next s) ∧
    (s.takesTeam g m 0x20 → launchPhase m = 0 → s.isLead = false →
      answers (exec (.launchPropose g m) s) fun u =>
        u = { s with pit := { s.pit with launch := u.pit.launch, onGroup8 := u.pit.onGroup8 }, out := u.out } ∧
        (s.pit.committed = true → u.pit.launch = s.pit.launch) ∧
        (s.pit.committed = false → ∃ l, u.pit.launch = some l ∧ l.count = m.c1.toNat ∧ l.slot = launchSlot m ∧ l.archVer = m.c3 ∧
          l.commit = none ∧ l.said = BitVec.ofNat 8 (s.launchReason (launchSlot m) m.c2.toNat m.c3))) ∧
    (s.takesTeam g m 0x20 → launchPhase m ≠ 0 ∨ s.isLead = true → exec (.launchPropose g m) s = .next s) ∧
    (¬ s.takesTeam g m 0x20 → answers (exec (.launchPropose g m) s) (s.shunned g m 0x20) ∧
      answers (exec (.launchCommit g m) s) (s.shunned g m 0x20) ∧ answers (exec (.launchCancel g m) s) (s.shunned g m 0x20))) ∧
  (∀ (s : State) (g : GroupIx) (m : TeamMsg) (l : Launch), s.pit.launch = some l →
    let open_ := s.isLead = false ∧ l.commit = none
    let commits := open_ ∧ launchPhase m = 1 ∧ m.c1.toNat = l.count ∧ s.gcnt < s.loadCount l
    let cancels := open_ ∧ launchPhase m = 2 ∧ m.c1.toNat = l.count
    let misses := open_ ∧ s.loadCount l ≤ s.gcnt
    (s.takesTeam g m 0x20 →
      (commits → exec (.launchCommit g m) s = .next { s with pit := { s.pit with launch := some { l with commit := some true } } }) ∧
      (¬ commits → exec (.launchCommit g m) s = .next s) ∧
      (cancels → exec (.launchCancel g m) s = .next { s with pit := { s.pit with launch := none } }) ∧
      (¬ cancels → exec (.launchCancel g m) s = .next s)) ∧
    (misses → answers (exec .launchDecisionMissing s) fun u =>
      u = { s with pit := { s.pit with launch := some { l with commit := some false } }, flt := u.flt, out := u.out } ∧
      ∃ x ∈ u.flt.log, x.code = faultCode 3 5 4) ∧
    (¬ misses → exec .launchDecisionMissing s = .next s)) ∧
  (∀ (s : State) (g : GroupIx) (m : TeamMsg), s.pit.launch = none → exec .launchDecisionMissing s = .next s ∧
    (s.takesTeam g m 0x20 → exec (.launchCommit g m) s = .next s ∧ exec (.launchCancel g m) s = .next s))

/-- The lead keeps the latest reply of each member until the commit count; then it commits when every present member is ready, and
otherwise cancels, records the member, and proposes a count of its own choosing again a pitch later, at most 16 times; without a launch of
its own, before the commit count, and once it has decided, it does nothing (R320). Where the manual is silent the clauses rest on the
model's choices of log entry 28. -/
def Obligations.LeadDecidesTheLaunch : Prop :=
  (∀ (s : State) (g : GroupIx) (m : TeamMsg) (l : Launch), s.pit.launch = some l →
    let open_ := s.isLead = true ∧ l.commit = none
    let keeps := open_ ∧ m.c1.toNat = l.count ∧ s.gcnt < s.commitCount l
    let due := open_ ∧ s.commitCount l ≤ s.gcnt
    (s.takesTeam g m 0x21 → keeps → exec (.reply g m) s = .next { s with pit := { s.pit with launch := some { l with
      replies := (m.src.toNat, m.arg) :: l.replies.filter (fun r => r.1 != m.src.toNat) } } }) ∧
    (s.takesTeam g m 0x21 → ¬ keeps → exec (.reply g m) s = .next s) ∧
    (due →
      (s.firstFailing l = none → answers (exec .launchCommitCount s) fun u => u = { s with pit := u.pit, out := u.out } ∧
        u.pit = { s.pit with launch := some { l with commit := some true }, onGroup8 := u.pit.onGroup8 }) ∧
      (∀ k, s.firstFailing l = some k → answers (exec .launchCommitCount s) fun u =>
        u = { s with pit := u.pit, out := u.out, freeCtr := u.freeCtr } ∧
        u.pit = { s.pit with failMod := BitVec.ofNat 4 k, launchMiss := bump s.pit.launchMiss, reason := u.pit.reason
                             onGroup8 := u.pit.onGroup8, launch := u.pit.launch } ∧
        (∀ r, s.reasonOf l k = some r → u.pit.reason = r) ∧
        u.pit.launch = (if l.retry = true ∧ l.attempts < 16 then
          some { l with count := l.count + s.slotPitch l.slot, attempts := l.attempts + 1, replies := [] } else none))) ∧
    (¬ due → exec .launchCommitCount s = .next s)) ∧
  (∀ (s : State) (g : GroupIx) (m : TeamMsg),
    (s.pit.launch = none → exec .launchCommitCount s = .next s ∧ (s.takesTeam g m 0x21 → exec (.reply g m) s = .next s)) ∧
    (¬ s.takesTeam g m 0x21 → answers (exec (.reply g m) s) (s.shunned g m 0x21)))

/-- LAUNCH_PITCH_START loads the image of a committed launch: every completion counter is zero, every carrel is the image's, no task
context is stopped, no gang lives, its data is in memory, THR_DIGEST is zero, and the team is captured; a slot that is not armed, or a run
that is active, drops the launch. Before the launch pitch, with nothing committed, with the image loaded and while the warden is down
nothing changes (R183, R184). Where the manual is silent the clauses rest on the model's choices of log entry 35. -/
def Obligations.LaunchPitchLoadsTheImage : Prop :=
  (∀ (s : State) (l : Launch), s.pit.launch = some l →
    let im := (s.glb.slots[l.slot]).image
    let due := l.commit = some true ∧ l.loaded = false ∧ s.loadCount l ≤ s.gcnt ∧ s.glb.wardenUp = true
    let fits := (s.glb.slots[l.slot]).st = .armed ∧ s.pit.run = .idle
    (due → fits → answers (exec .launchPitchStart s) fun u =>
      u.pit.launch = some { l with loaded := true } ∧ u.pit.captured = true ∧ u.pit.slot = l.slot ∧ u.pit.image = im ∧
      u.pit.teamRun = u.cfg.active.team ∧ u.grd.absentRun = u.cfg.active.absent ∧ u.aud.thr = 0 ∧ u.glb.entry = 0 ∧
      u.mem = (s.writeData im).mem ∧
      ∀ (c : CoreIx) (t : TaskIx), (∀ i, u.ctr c t i = 0) ∧ (u.task c t).stopped = false ∧ (u.task c t).cmds = [] ∧ (u.core c).gangs = [] ∧
        ∀ k : Fin 9, (u.task c t).carrels[k] = (im.carrelsOf c t).getD k.val {}) ∧
    (due → ¬ fits → answers (exec .launchPitchStart s) fun u => u.pit.launch = none ∧ u.mem = s.mem ∧
      u.glb.slots = s.glb.slots ∧ u.pit.run = s.pit.run ∧ ∀ c, (u.core c).tasks = (s.core c).tasks) ∧
    (¬ due → exec .launchPitchStart s = .next s)) ∧
  ∀ s : State, s.pit.launch = none → exec .launchPitchStart s = .next s

/-- At the launch count a loaded image runs: its first pitch begins at that count, its slot is RUNNING and counts one more run, and the
contexts with commands begin to fetch; a member that had no decision sends OVERRUN instead, and drops the launch. Before the count, and
without a decision, nothing changes (R184, R310, R321). Where the manual is silent the clauses rest on the model's choices of log entry 28.
-/
def Obligations.LaunchCountBeginsTheRun : Prop :=
  (∀ (s : State) (l : Launch), s.pit.launch = some l →
    let due := l.count ≤ s.gcnt ∧ l.commit ≠ none
    (due → l.loaded = true → answers (exec .launchCount s) fun u =>
      u.pit.run = .running ∧ u.pit.launchAt = l.count ∧ u.pit.pnum = s.pit.entry ∧ u.pit.beginAt = l.count ∧
      u.pit.bound = l.count + s.slotPitch l.slot ∧ u.pit.holds = 0 ∧ u.pit.launch = none ∧
      (u.glb.slots[l.slot]).st = .running ∧ (u.glb.slots[l.slot]).runs = (s.glb.slots[l.slot]).runs + 1 ∧ u.mem = s.mem ∧
      ∀ c t, (u.task c t).active = ((s.task c t).active || (s.task c t).sliceLen != 0 && !(s.task c t).ended)) ∧
    (due → l.loaded = false → l.commit = some false → answers (exec .launchCount s) fun u =>
      u = { s with pit := { s.pit with launch := none, overrun := bump s.pit.overrun, onGroup8 := u.pit.onGroup8 }, out := u.out } ∧
      (s.carriesTeam s.teamGroup 0 = true → ∃ m, u.out = s.out ++ [.team s.teamGroup 0 (teamLead s.cfg.active.team) m] ∧ m.typ = 0x12)) ∧
    (due → l.loaded = false → l.commit = some true → exec .launchCount s = .next { s with pit := { s.pit with launch := none } }) ∧
    (¬ due → exec .launchCount s = .next s)) ∧
  ∀ s : State, s.pit.launch = none → exec .launchCount s = .next s

/-- At the guard point a module whose cores request no hold does nothing more; when a core requests one, the module sends one HOLD_REQ for
the boundary. A core's request that arrives after the guard point makes the module ask once (R169, R322). The lead collects hold requests
against its boundary from the guard point on and before the decision count, and counts late ones; at the decision count it decides: no hold
without requests, a hold while fewer than 4 are granted, else the pitch is benighted with the abandon count 20 µs ahead (R311, R323, R326,
R329). Where the manual is silent the clauses rest on the model's choices of log entries 10 and 29. -/
def Obligations.HoldsAreDecided : Prop :=
  (∀ (s v : State) (c : CoreIx),
    let due := s.pit.run = .running ∧ s.pit.guardDone = false ∧ s.guardAt ≤ s.gcnt
    let asked := fun (w u : State) => u.pit.wantHold = true ∧ u.pit.bound = w.pit.bound ∧ u.mem = w.mem ∧
      (w.pit.wantHold = false → u.pit.holdReq = bump w.pit.holdReq ∧ (w.carriesTeam w.teamGroup 0 = true →
        u.out.getLast? = some (.team w.teamGroup 0 (teamLead w.pit.teamRun) (w.teamMsg 0x10 0 w.pit.bound 0 0)))) ∧
      (w.pit.wantHold = true → u.pit.holdReq = w.pit.holdReq)
    let mine := fun m : CtlMsg => m.typ == 2 && m.arg.toNat == c.val
    (due → (∀ d, s.requests d = false) → exec .guardPoint s = .next { s with pit := { s.pit with guardDone := true } }) ∧
    (due → s.requests c = true → answers (exec .guardPoint s) fun u => u.pit.guardDone = true ∧ asked s u ∧
      (u.core c).cnt.markHold = bump (s.core c).cnt.markHold (s.unmet c s.pit.pnum) ∧ ∀ d, (u.core d).tasks = (s.core d).tasks) ∧
    (¬ due → exec .guardPoint s = .next s) ∧
    (s.nodeServes pitField mine v →
      (v.pit.run = .running → v.pit.guardDone = true → answers (exec (.ctlHoldRequest c) s) fun u => asked v u ∧
        u = { v with pit := u.pit, out := u.out }) ∧
      (v.pit.run ≠ .running ∨ v.pit.guardDone = false → exec (.ctlHoldRequest c) s = .next v)) ∧
    (s.ctlFlow.ctlServed pitField mine = none → exec (.ctlHoldRequest c) s = .next s.ctlFlow)) ∧
  (∀ (s : State) (g : GroupIx) (m : TeamMsg),
    let late := m.c1.toNat < s.pit.bound ∨ m.c1.toNat = s.pit.bound ∧ s.guardAt + 5000 ≤ s.gcnt
    let taken := m.c1.toNat = s.pit.bound ∧ s.guardAt ≤ s.gcnt ∧ s.gcnt < s.guardAt + 5000 ∧ s.pit.decided = false
    let due := s.steers = true ∧ s.pit.decided = false ∧ s.pit.abandonAt = none ∧ s.guardAt + 5000 ≤ s.gcnt
    (s.takesTeam g m 0x10 →
      (s.steers = true → taken →
        exec (.holdReq g m) s = .next { s with pit := { s.pit with requests := (m.src.toNat :: s.pit.requests).eraseDups } }) ∧
      (s.steers = true → late → exec (.holdReq g m) s = .next { s with pit := { s.pit with lateReq := bump s.pit.lateReq } }) ∧
      (s.steers = false ∨ ¬ late ∧ ¬ taken → exec (.holdReq g m) s = .next s)) ∧
    (¬ s.takesTeam g m 0x10 → answers (exec (.holdReq g m) s) (s.shunned g m 0x10)) ∧
    (due → answers (exec .holdDecisionCount s) fun u => u.pit.decided = true ∧ u.pit.requests = [] ∧ u.pit.bound = s.pit.bound ∧
      u.pit.abandonAt = (if s.pit.requests = [] ∨ s.pit.holds < 4 then none else some (s.gcnt + 20000)) ∧
      u = { s with pit := u.pit, flt := u.flt, out := u.out }) ∧
    (¬ due → exec .holdDecisionCount s = .next s))

/-- A DECISION of the pitch it names, before *G* + 25 µs: none keeps the boundary, a hold moves it by the quantum and counts, a benighting
sets the abandon count; a benighting excludes every later hold and benighting, and no fifth hold is applied. A later one is discarded and
logged, and without one the boundary stays (R324, R326, R327). Where the manual is silent the clauses rest on the model's choices of log
entry 29. -/
def Obligations.DecisionsApply : Prop :=
  ∀ (s : State) (g : GroupIx) (m : TeamMsg),
    let running := s.pit.run = .running
    let timely := m.pnum.toNat = s.pit.pnum ∧ s.gcnt < s.guardAt + 25000
    let action := bits m.arg.toNat 0 2
    let told := fun u : State => u = { s with pit := u.pit, ctl := u.ctl, flt := u.flt, out := u.out }
    let noted := { s with pit := { s.pit with applied := true } }
    (s.takesTeam g m 0x11 → running → timely →
      (action = 0 → answers (exec (.decision g m) s) fun u => told u ∧ u.pit = { s.pit with applied := true }) ∧
      (action = 1 → s.pit.abandonAt = none → s.pit.holds < 4 → answers (exec (.decision g m) s) fun u => told u ∧
        u.pit.bound = s.pit.bound + m.c3.toNat ∧ u.pit.holds = s.pit.holds + 1 ∧ u.pit.guardDone = false ∧
        u.pit.holdGrant = bump s.pit.holdGrant ∧ u.pit.pnum = s.pit.pnum ∧ u.pit.abandonAt = none) ∧
      (action = 2 → s.pit.abandonAt = none → answers (exec (.decision g m) s) fun u => told u ∧
        u.pit = { s.pit with applied := true, abandonAt := some m.c2.toNat }) ∧
      (action = 1 ∧ 4 ≤ s.pit.holds ∨ action ≠ 0 ∧ s.pit.abandonAt ≠ none ∨ action = 3 → exec (.decision g m) s = .next noted)) ∧
    (s.takesTeam g m 0x11 → running → ¬ timely → answers (exec (.decision g m) s) fun u =>
      u = { s with flt := u.flt, out := u.out } ∧ ∃ x ∈ u.flt.log, x.code = faultCode 0 5 3) ∧
    (s.takesTeam g m 0x11 → ¬ running → exec (.decision g m) s = .next s) ∧
    (¬ s.takesTeam g m 0x11 → answers (exec (.decision g m) s) (s.shunned g m 0x11)) ∧
    (running → s.pit.applied = false → s.guardAt + 25000 ≤ s.gcnt → answers (exec .decisionMissing s) fun u => told u ∧
      u.pit = { s.pit with applied := true } ∧ ∃ x ∈ u.flt.log, x.code = faultCode 0 5 3) ∧
    (¬ running ∨ s.pit.applied = true ∨ s.gcnt < s.guardAt + 25000 → exec .decisionMissing s = .next s)

/-- Benighting: an OVERRUN received, or ABANDON written, makes the lead of a run that is not being abandoned set the abandon count 20 µs
ahead, once; at that count issue ends and every waiting command and unstarted segment is discarded, while memory and the gangs that have
started stay (R326, R328, R329, R483). A lost partner ends the run: the lead of a run counts and logs a present member it has not heard for
100 µs, or one that has been 10 ms in HOLDOVER, and benights the pitch unless it has; a member that has not heard its lead for 100 µs sets
the abandon count itself (R303, R315, R326, R482). Where the manual is silent the clauses rest on the model's choices of log entries 24, 29
and 33. -/
def Obligations.RunsThatFail : Prop :=
  (∀ (s : State) (g : GroupIx) (m : TeamMsg) (p : Path),
    let may := s.steers = true ∧ s.pit.abandonAt = none
    let benighted := fun u : State => u.pit.abandonAt = some (s.gcnt + 20000) ∧ u = { s with pit := u.pit, flt := u.flt, out := u.out }
    let due := s.pit.run = .running ∧ ∃ a, s.pit.abandonAt = some a ∧ a ≤ s.gcnt
    (s.takesTeam g m 0x12 → may → answers (exec (.overrunReceived g m) s) benighted) ∧
    (s.takesTeam g m 0x12 → ¬ may → exec (.overrunReceived g m) s = .next s) ∧
    (¬ s.takesTeam g m 0x12 → answers (exec (.overrunReceived g m) s) (s.shunned g m 0x12)) ∧
    (s.pathOpen p = true → classS p = true → s.leadNow = true → may → answers (exec (.abandon p) s) benighted) ∧
    (s.pathOpen p = true → classS p = true → s.leadNow = true → ¬ may → exec (.abandon p) s = .next s) ∧
    (s.pathOpen p = true → classS p = false ∨ s.leadNow = false → exec (.abandon p) s = .next (s.refuse p fltCtl)) ∧
    (s.pathOpen p = false → exec (.abandon p) s = .next s) ∧
    (due → answers (exec .abandonCount s) fun u =>
      u = { s with cores := u.cores, grd := u.grd, pit := { s.pit with run := .abandoning } } ∧ u.issuing = false ∧
      u.grd.chunks = s.grd.chunks.filter (fun x => decide (x.len ≤ x.got)) ∧ u.grd.colls = s.grd.colls.filter s.runMoved ∧
      (∀ c t q, (u.task c t).queue q = [] ∧ (u.task c t).active = false ∧ (u.task c t).ctr = (s.task c t).ctr) ∧
      ∀ c, (u.core c).gangs = (s.core c).gangs.filter (fun x => !s.cutGang c x) ∧
        ∀ x ∈ (u.core c).gangs, x.queue = .str → x.started = true ∨ x.refused = true) ∧
    (¬ due → exec .abandonCount s = .next s)) ∧
  (∀ (s : State) (m : ModIx),
    let lost := fun u : State => u.flt.member = bump s.flt.member ∧ u = { s with pit := u.pit, flt := u.flt, out := u.out } ∧
      u.pit.abandonAt = some (s.pit.abandonAt.getD (s.gcnt + 20000))
    let silent := fun k : Nat => s.heardAt k + 100000 ≤ s.now
    let here := s.steers = true ∧ m.val ∈ s.members
    let held := m.val = s.me → s.pit.lock = .holdover ∧ s.pit.heldSince + 10000000 ≤ s.now
    let lead := teamLead s.pit.teamRun
    let leadless := s.pit.run = .running ∧ s.leadsRun = false ∧ s.pit.abandonAt = none ∧ silent lead
    (here → m.val ≠ s.me → silent m.val → answers (exec (.memberLost m) s) lost) ∧
    (¬ (here ∧ m.val ≠ s.me ∧ silent m.val) → exec (.memberLost m) s = .next s) ∧
    (here → held → answers (exec (.holdoverMemberLost m) s) lost) ∧
    (¬ here ∨ ¬ held → exec (.holdoverMemberLost m) s = .next s) ∧
    (leadless → answers (exec .leadLost s) lost) ∧ (¬ leadless → exec .leadLost s = .next s))

/-- PITCH_BOUNDARY of a run that is not over begins the next pitch at the boundary; of a run that is over it ends the run: the slot is
ARMED again and the run idle; before the boundary nothing changes. While no run is active each multiple of 1,000,000 is a boundary once.
CONGESTION_MAP_CLOSE writes the map of the pitch that has ended, or while no run is active of each IDLE_US µs, into the bank not written
last, once, and counts anew (R185, R310, R402, R495). Where the manual is silent the clauses rest on the model's choices of log entry 29. -/
def Obligations.PitchesFollowEachOther : Prop :=
  ∀ s : State,
    let due := s.running = true ∧ s.pit.bound ≤ s.gcnt
    let closed := fun (gcnt pnum : Nat) (u : State) => u = { s with fab := u.fab } ∧ u.fab.acc = {} ∧ u.fab.maps = s.fab.maps + 1 ∧
      u.fab.ctxs = s.fab.ctxs ∧ u.fab.mapTime = s.now ∧
      (s.fab.maps.getLsbD 0 = true → u.fab.cmap1 = s.fab.acc.bytes gcnt pnum ∧ u.fab.cmap0 = s.fab.cmap0) ∧
      (s.fab.maps.getLsbD 0 = false → u.fab.cmap0 = s.fab.acc.bytes gcnt pnum ∧ u.fab.cmap1 = s.fab.cmap1)
    (due → s.runOver = false → answers (exec .pitchBoundary s) fun u =>
      u.pit.pnum = s.pit.pnum + 1 ∧ u.pit.beginAt = s.pit.bound ∧ u.pit.bound = s.pit.bound + s.pitchNs ∧ u.pit.holds = 0 ∧
      u.pit.run = s.pit.run ∧ u.pit.guardDone = false ∧ u.mem = s.mem ∧ (∀ c t, u.task c t = s.task c t) ∧
      ∀ c, (u.core c).boundEff = (s.core c).bound) ∧
    (due → s.runOver = true → ∃ w : State, exec .pitchBoundary s = .next w.autoReset ∧ (w.autoDue = false → w.autoReset = w) ∧
      w.pit.run = .idle ∧ (w.glb.slots[s.pit.slot]).st = .armed ∧ w.intk.reqs = [] ∧ w.mem = s.mem ∧ ∀ c, (w.core c).gangs = []) ∧
    (s.running = true → s.gcnt < s.pit.bound → exec .pitchBoundary s = .next s) ∧
    (s.running = false → s.gridNow ≠ s.pit.idleAt → answers (exec .pitchBoundary s) fun u => ∃ w, afterAnswer w u ∧
      w.pit.idleAt = s.gridNow ∧ w.mem = s.mem ∧ (∀ c t, w.task c t = s.task c t) ∧ w.memu.timeEff = s.memu.timeout ∧
      w.intk.scrubEff = s.intk.scrubCfg ∧ ∀ c, (w.core c).boundEff = (s.core c).bound) ∧
    (s.running = false → s.gridNow = s.pit.idleAt → exec .pitchBoundary s = .next s) ∧
    (s.mapDue = true → answers (exec .congestionMapClose s) fun u => closed s.pit.bound s.pit.pnum u ∧ u.fab.mapAt = s.pit.bound) ∧
    (s.running = true → s.mapDue = false → exec .congestionMapClose s = .next s) ∧
    (s.running = false → s.fab.mapTime + s.idleNs ≤ s.now → answers (exec .congestionMapClose s) (closed s.gcnt (2 ^ 32 - 1))) ∧
    (s.running = false → s.now < s.fab.mapTime + s.idleNs → exec .congestionMapClose s = .next s)

/-- Time exchanges: a request leaves for each module asked and is remembered with its count; a LOCKED or HOLDOVER module answers a request
on the sublink that carried it, and any module has heard of the sender; a response within 50 µs from the reference enters the interval with
its offset and round trip, the first one a module has sets its count, and one that is late or missing is counted as dropped; a quarantined
group counts what it drops, and what answers no request changes nothing (R313, R314, R443, R444, R482). Where the manual is silent the
clauses rest on the model's choices of log entries 20 and 27. -/
def Obligations.TimeExchanges : Prop :=
  ∀ (s : State) (g : GroupIx) (u : SubIx) (m : TeamMsg) (x : TimeReq),
    let quarantined : GroupIx → Host.Outcome State Fault Refusal := fun k =>
      .next (s.modGroup k fun k => { k with quarDrop := bump k.quarDrop })
    let sent := fun (k : GroupIx) (b : SubIx) (l : List Out) => s.out ++ (if s.carriesTeam k b then l else [])
    answers (exec .timeReqSend s) (fun v => v = { s with pit := v.pit, out := v.out } ∧ v.pit.gcnt = s.pit.gcnt ∧
      v.pit.pendReq = s.pit.pendReq ++ s.asks.map (fun k => { dst := k, t1 := s.gcnt, at_ := s.now, grp := s.teamGroup }) ∧
      v.out = sent s.teamGroup 0 (s.asks.map fun k => .team s.teamGroup 0 k (s.teamMsg 1 0 s.gcnt 0 0))) ∧
    (s.hears g u = true → m.typ = 1 → (s.group g).quar = false → answers (exec (.timeReq g u m) s) fun v =>
      v = { s with pit := { s.pit with heard := v.pit.heard }, out := v.out } ∧ v.heardAt m.src.toNat = s.now ∧
      (s.pit.lock = .locked ∨ s.pit.lock = .holdover → v.out = sent g u [.team g u m.src.toNat (s.teamMsg 2 0 m.c1.toNat s.gcnt s.gcnt)]) ∧
      (s.pit.lock = .free ∨ s.pit.lock = .acquire → v.out = s.out)) ∧
    (s.hears g u = true → m.typ = 1 → (s.group g).quar = true → exec (.timeReq g u m) s = quarantined g) ∧
    (s.hears g u = false ∨ m.typ ≠ 1 → exec (.timeReq g u m) s = .next s) ∧
    (s.pit.pendReq.find? (fun y => y.dst == m.src.toNat && y.t1 == m.c1.toNat) = some x →
      let good := m.typ = 2 ∧ s.hears x.grp 0 = true ∧ (s.group x.grp).quar = false
      let kept := s.pit.pendReq.erase x
      (good → x.at_ + 50000 < s.now → exec (.timeResp m) s =
        .next { s with pit := { s.pit with pendReq := kept, syncDrop := bump s.pit.syncDrop } }) ∧
      (good → s.now ≤ x.at_ + 50000 → s.pit.gcntSet = true → s.pit.probe = false → answers (exec (.timeResp m) s) fun v => ∃ w, afterAnswer w v ∧
        w = { s with pit := { s.pit with pendReq := kept, syncExch := bump s.pit.syncExch, heard := w.pit.heard
                                         lastExch := w.pit.lastExch, exchanges := w.pit.exchanges } } ∧
        (s.reference = some m.src.toNat → w.pit.lastExch = s.now ∧ w.pit.exchanges = s.pit.exchanges ++
          [{ offset := ((m.c2.toNat : Int) - m.c1.toNat) - ((s.gcnt : Int) - m.c3.toNat)
             trip := ((s.gcnt : Int) - m.c1.toNat) - ((m.c3.toNat : Int) - m.c2.toNat) }]) ∧
        (s.reference ≠ some m.src.toNat → w.pit.lastExch = s.pit.lastExch ∧ w.pit.exchanges = s.pit.exchanges)) ∧
      (good → s.now ≤ x.at_ + 50000 → s.pit.gcntSet = false → answers (exec (.timeResp m) s) fun v => ∃ w, afterAnswer w v ∧
        w.pit.gcntSet = true ∧ w.pit.lock = (if s.me = s.troot then .locked else .acquire) ∧ w.pit.syncExch = bump s.pit.syncExch ∧
        w.pit.gcnt = BitVec.ofNat 64 ((m.c3.toNat : Int) +
          (((s.now - x.at_ : Nat) : Int) - ((m.c3.toNat : Int) - m.c2.toNat)) / 2).toNat ∧ w.mem = s.mem) ∧
      (m.typ = 2 → s.hears x.grp 0 = true → (s.group x.grp).quar = true → exec (.timeResp m) s = quarantined x.grp) ∧
      (m.typ ≠ 2 ∨ s.hears x.grp 0 = false → exec (.timeResp m) s = .next s)) ∧
    (s.pit.pendReq.find? (fun y => y.dst == m.src.toNat && y.t1 == m.c1.toNat) = none → exec (.timeResp m) s = .next s) ∧
    (s.pit.pendReq.find? (fun y => decide (y.at_ + 50000 ≤ s.now)) = some x → exec .timeRespTimeout s =
      .next { s with pit := { s.pit with pendReq := s.pit.pendReq.erase x, syncDrop := bump s.pit.syncDrop } }) ∧
    (s.pit.pendReq.find? (fun y => decide (y.at_ + 50000 ≤ s.now)) = none → exec .timeRespTimeout s = .next s)

/-- SYNC_INTERVAL: a root with a set count is LOCKED and one without is FREE; another module with fewer than 8 exchanges goes from LOCKED
to HOLDOVER and keeps any other state and its rate, and with 8 or more takes the state that their average gives, with that average to slew
and a rate trimmed by it. 2 ms in HOLDOVER are logged once (R314, R315). References: after 1 ms without a valid exchange TROOT_ALT with a
set count becomes the free-running root, and another lead takes TROOT_ALT as its reference; a time root that TROOT_ALT has not answered for
1 ms takes its count from the calendar clock, or 0; exchanges return to group 6 when its sublink 0 has been active for 1 ms (R312, R313,
R443). Where the manual is silent the clauses rest on the model's choices of log entry 27. -/
def Obligations.LocksAndReferences : Prop :=
  (∀ s : State,
    let root := s.me = s.troot ∨ s.pit.freeRoot = true
    let a := bestSum s.pit.exchanges
    let judged := fun (p : State → Prop) => answers (exec .syncInterval s) fun u => ∃ w, afterAnswer w u ∧ p w ∧ w.pit.exchanges = [] ∧
      w.pit.gcnt = s.pit.gcnt ∧ w = { s with pit := w.pit, glb := w.glb, flt := w.flt, out := w.out }
    let strays := s.pit.lock = .holdover ∧ s.pit.lostSaid = false ∧ s.pit.heldSince + 2000000 ≤ s.now
    (root → judged fun w => w.pit = { s.pit with exchanges := [], lock := if s.pit.gcntSet then .locked else .free }) ∧
    (¬ root → s.pit.exchanges.length < 8 → judged fun w => w.pit.lock = (if s.pit.lock = .locked then .holdover else s.pit.lock) ∧
      w.pit.rate = s.pit.rate ∧ w.pit.slew = s.pit.slew) ∧
    (¬ root → 8 ≤ s.pit.exchanges.length → judged fun w => w.pit.slew = a.tdiv 16 ∧ w.pit.rate = Config.trimRate s.pit.rate a ∧
      (s.pit.lock ≠ .locked → w.pit.lock =
        (if -64 ≤ a ∧ a ≤ 64 ∧ (s.pit.lock = .holdover ∨ s.pit.lock = .acquire ∧ 2 ≤ s.pit.good) then .locked else s.pit.lock)) ∧
      (s.pit.lock = .locked → w.pit.lock = (if -320 ≤ a ∧ a ≤ 320 then .locked else .acquire)) ∧
      (s.pit.lock = .locked → a < -320 ∨ 320 < a → s.steers = false → ∃ x ∈ w.flt.log, x.code = faultCode 0 5 5)) ∧
    (strays → answers (exec .holdoverAlignmentLost s) fun u =>
      u = { s with pit := { s.pit with lostSaid := true }, flt := u.flt, out := u.out } ∧ ∃ x ∈ u.flt.log, x.code = faultCode 0 5 5) ∧
    (¬ strays → exec .holdoverAlignmentLost s = .next s)) ∧
  (∀ (s : State),
    let silent := s.pit.lastExch + 1000000 ≤ s.now ∧ s.me ≠ s.troot ∧ s.pit.freeRoot = false
    let takesOver := silent ∧ s.me = s.trootAlt ∧ s.pit.gcntSet = true
    let turns := silent ∧ s.me ≠ s.trootAlt ∧ s.leadNow = true ∧ s.pit.alt = false
    let alone := s.me = s.troot ∧ s.pit.gcntSet = false ∧ ∃ at_, s.pit.rootAskAt = some at_ ∧ at_ + 1000000 ≤ s.now
    let back := s.pit.onGroup8 = true ∧ s.steady 6 = true ∧ (s.sub 6 0).steadyAt + 1000000 ≤ s.now
    (takesOver → answers (exec .referenceFallback s) (afterAnswer
      { s with pit := { s.pit with freeRoot := true, lock := .locked, exchanges := [] } })) ∧
    (turns → exec .referenceFallback s = .next { s with pit := { s.pit with alt := true, exchanges := [] } }) ∧
    (¬ takesOver → ¬ turns → exec .referenceFallback s = .next s) ∧
    (alone → answers (exec .timeRootRtcSet s) fun u => ∃ w, afterAnswer w u ∧ w.pit.gcntSet = true ∧ w.pit.lock = .locked ∧ w.mem = s.mem ∧
      w.pit.gcnt = BitVec.ofNat 64 (if s.rtc.valid then s.rtcUs * 1000 else 0)) ∧
    (¬ alone → exec .timeRootRtcSet s = .next s) ∧
    (back → exec .syncSublinkReturn s = .next { s with pit := { s.pit with onGroup8 := false } }) ∧
    (¬ back → exec .syncSublinkReturn s = .next s))

/-! ## The Morkan link and the rack fabric -/

/-- A data frame in sequence is accepted (the expected number rises by 32, RPLY ends), a duplicate leaves the expected number, any other
is answered with RPLY, and the trailer's credit counts are kept in each case; one that overruns a receive buffer raises the violation
score; a null frame's trailer acts, in training too; a failed frame is counted and answered with RPLY, and the eighth in a row retrains the
sublink; a RPLY starts a replay from the frame it names, but no second one within 250 ns; 1 µs without an ACK starts one from the oldest
frame unacknowledged, or a warm retrain when 32 replays have passed without progress. A replay sends the packets of the frames not
acknowledged again and keeps them. In far loop only the codewords of a frame are counted, and a sublink that carries no frames takes none
(R348, R351, R355, R356, R471). Where the manual is silent the clauses rest on the model's choices of log entry 46. -/
def Obligations.FramesInSequence : Prop :=
  ∀ (s : State) (g : GroupIx) (b : SubIx) (fr : Frame) (e : BitVec 12) (corr bad : Nat),
    let k := s.sub g b
    let far := (s.group g).loopMode b = 2
    let words := fun (n m : Nat) => { k.cnt with fecCorr := bump k.cnt.fecCorr n, fecBad := bump k.cnt.fecBad m }
    let counts := fun (o : Host.Outcome State Fault Refusal) (n m : Nat) =>
      answers o fun u => onlyGroup g s u ∧ u.sub g b = { k with cnt := words n m }
    let resent := fun (u : State) (frm : BitVec 12) => (u.sub g b).replayFrom = some frm ∧ (u.sub g b).replayAt = s.now ∧
      .replay g b frm ((k.ackTo s.now frm).kept.map fun x => x.2.2) ∈ u.out ∧ (u.sub g b).cnt.replay = bump k.cnt.replay
    let retrains := fun (o : Host.Outcome State Fault Refusal) => answers o fun u => onlyGroup g s u ∧ (u.sub g b).st = .training ∧
      (u.sub g b).cold = false ∧ (u.sub g b).unacked = k.unacked ∧ (u.sub g b).kept = k.kept
    let mayTrain := s.linkPowered g = true ∧ s.attached g b = true
    (k.up = true → k.badRack = false → ¬ far →
      (fr.fseq = k.expect → k.overrun g fr = false → answers (exec (.dataFrame g b fr) s) fun u => sendsOnly g s u ∧
        (u.sub g b).expect = k.expect + 32 ∧ (u.sub g b).rplyOut = false ∧ (u.sub g b).badRun = 0 ∧ (u.sub g b).credSeen = fr.cred ∧
        (u.sub g b).cnt.fecCorr = bump k.cnt.fecCorr fr.corr) ∧
      (fr.fseq = k.expect → k.overrun g fr = true → answers (exec (.dataFrame g b fr) s) fun u => linkLogsOnly g s u ∧
        (u.sub g b).expect = k.expect + 32 ∧ (u.group g).score = (s.group g).score + 1) ∧
      (fr.fseq ≠ k.expect → 2048 ≤ (fr.fseq - k.expect).toNat → answers (exec (.dataFrame g b fr) s) fun u => sendsOnly g s u ∧
        (u.sub g b).expect = k.expect ∧ (u.sub g b).rplyOut = k.rplyOut ∧ (u.sub g b).credSeen = fr.cred) ∧
      (fr.fseq ≠ k.expect → (fr.fseq - k.expect).toNat < 2048 → answers (exec (.dataFrame g b fr) s) fun u => sendsOnly g s u ∧
        (u.sub g b).expect = k.expect ∧ (u.sub g b).rplyOut = true ∧ (u.sub g b).credSeen = fr.cred)) ∧
    (k.up = true → k.badRack = false → far → counts (exec (.dataFrame g b fr) s) fr.corr 0) ∧
    (k.up = false ∨ k.badRack = true → exec (.dataFrame g b fr) s = .next s) ∧
    (k.up = true ∨ k.st = .training → ¬ far → answers (exec (.nullFrame g b fr) s) fun u => sendsOnly g s u ∧
      (u.sub g b).expect = k.expect ∧ (u.sub g b).credSeen = fr.cred ∧ (u.sub g b).badRun = 0) ∧
    (far → counts (exec (.nullFrame g b fr) s) fr.corr 0 ∧ counts (exec (.frameFail g (b, corr, bad)) s) corr bad ∧
      exec (.replyRequest g b e) s = .next s) ∧
    (k.up = true → ¬ far →
      (k.badRun < 7 → answers (exec (.frameFail g (b, corr, bad)) s) fun u => onlyGroup g s u ∧
        u.sub g b = { k with rplyOut := true, badRun := k.badRun + 1, cnt := { words corr bad with bad := bump k.cnt.bad } }) ∧
      (7 ≤ k.badRun → mayTrain → retrains (exec (.frameFail g (b, corr, bad)) s)) ∧
      ((e - k.oldest).toNat < k.unacked → k.replayFrom ≠ some e ∨ k.replayAt + 250 < s.now →
        answers (exec (.replyRequest g b e) s) fun u => sendsOnly g s u ∧ resent u e) ∧
      ((e - k.oldest).toNat < k.unacked → k.replayFrom = some e → s.now ≤ k.replayAt + 250 →
        answers (exec (.replyRequest g b e) s) fun u => sendsOnly g s u ∧ (u.sub g b).replayAt = k.replayAt ∧
          (u.sub g b).cnt.replay = k.cnt.replay) ∧
      (k.unacked ≤ (e - k.oldest).toNat → answers (exec (.replyRequest g b e) s) fun u => sendsOnly g s u ∧
        (u.sub g b).replayFrom = k.replayFrom ∧ (u.sub g b).cnt.replay = k.cnt.replay)) ∧
    (k.up = false → ¬ far → exec (.frameFail g (b, corr, bad)) s = .next s ∧ exec (.replyRequest g b e) s = .next s ∧
      (k.st ≠ .training → exec (.nullFrame g b fr) s = .next s)) ∧
    (k.up = true → 0 < k.unacked → k.ackAt + 1000 ≤ s.now →
      (k.stale < 32 → answers (exec (.replayTimeout g b) s) fun u => sendsOnly g s u ∧ (u.sub g b).replayFrom = some k.oldest ∧
        (u.sub g b).replayAt = s.now ∧ (u.sub g b).kept = k.kept ∧ u.out = s.out ++ [.replay g b k.oldest (k.kept.map fun x => x.2.2)]) ∧
      (32 ≤ k.stale → mayTrain → retrains (exec (.replayTimeout g b) s))) ∧
    (k.up = false ∨ k.unacked = 0 ∨ s.now < k.ackAt + 1000 → exec (.replayTimeout g b) s = .next s)

/-- A warm retrain of a powered sublink begins training and keeps the replay buffer; CAPS are answered with this module's and take the
peer's epoch, RACK_ID and credits, a RACK_ID other than the active one is logged; training whose CAPS have been exchanged ends in ACTIVE,
warm or cold, and resends what is not acknowledged, unless the racks differ; a lost signal retrains a powered sublink and takes another one
down; the third failed warm retrain leads to cold ones, the third failed cold one leaves the sublink DOWN with the module in need of
service (R356, R357, R360, R442, R480). A receive lane that fails is marked and logged; on a full-width sublink that carries frames the
receiver asks for a free spare at a superframe 64 ahead, without one it narrows to 16 healthy lanes, and with fewer the sublink goes DOWN.
A LANE_SWAP is acknowledged as it came, its acknowledgement agrees it, and at the commit superframe the spare takes the failed lane's
place in the direction that the end which asked receives (R358, R359). In any other state the command changes nothing. Where the manual is
silent the clauses rest on the model's choices of log entry 46. -/
def Obligations.SublinksTrainAndSpareLanes : Prop :=
  (∀ (s : State) (g : GroupIx) (b : SubIx) (c : Caps),
    let k := s.sub g b
    let mayTrain := s.linkPowered g = true ∧ s.attached g b = true
    let trained := fun (cold : Bool) => k.st = .training ∧ s.capsDone g b = true ∧ k.cold = cold
    let active := fun (u : State) => sendsOnly g s u ∧ (u.sub g b).st = .active ∧ (u.sub g b).warmFail = 0 ∧ (u.sub g b).coldFail = 0 ∧
      (k.badRack = true → (u.sub g b).tx = k.tx ∧ u.out = s.out) ∧
      (k.badRack = false → 0 < k.unacked → (u.sub g b).replayFrom = some k.oldest ∧ .replay g b k.oldest (k.kept.map fun x => x.2.2) ∈ u.out)
    let lost := (k.st = .active ∨ k.st = .txNarrow) ∧ k.rxBiv = false ∧ k.rxNarrow = false
    (k.up = true → mayTrain → answers (exec (.warmRetrain g b) s) fun u => onlyGroup g s u ∧ (u.sub g b).st = .training ∧
      (u.sub g b).cold = false ∧ (u.sub g b).unacked = k.unacked ∧ (u.sub g b).kept = k.kept ∧ (u.sub g b).txSeq = k.txSeq ∧
      (u.sub g b).tx = k.tx ∧ (u.sub g b).cnt.retrain = bump k.cnt.retrain) ∧
    (k.up = false ∨ ¬ mayTrain → exec (.warmRetrain g b) s = .next s) ∧
    (k.st = .training → answers (exec (.caps g b c) s) fun u => linkLogsOnly g s u ∧
      Out.management g b (s.capsBody g b ++ zeros (32 - (s.capsBody g b).length)) ∈ u.out ∧
      (u.sub g b).gotCaps = true ∧ (u.sub g b).peerEpoch = c.epoch ∧ (u.sub g b).badRack = (c.rackId != s.cfg.active.rackId) ∧
      (u.sub g b).cred = c.credits.map BitVec.toNat ∧
      (c.rackId = s.cfg.active.rackId → u.flt = s.flt) ∧
      (c.rackId ≠ s.cfg.active.rackId → ∃ x ∈ u.flt.log, x.code = faultCode 4 6 0x44 ∧ x.srcKind = BitVec.ofNat 8 kSublink)) ∧
    (k.st ≠ .training → exec (.caps g b c) s = .next s ∧ exec (.retrainFailed g b) s = .next s) ∧
    (trained false → answers (exec (.retrainDone g b) s) active) ∧ (¬ trained false → exec (.retrainDone g b) s = .next s) ∧
    (trained true → answers (exec (.trainingDone g b) s) active) ∧ (¬ trained true → exec (.trainingDone g b) s = .next s) ∧
    (lost → answers (exec (.linkLoss g b) s) fun u => onlyGroup g s u ∧ (mayTrain → (u.sub g b).st = .training ∧ (u.sub g b).unacked = k.unacked) ∧
      (¬ mayTrain → (u.sub g b).st = .down)) ∧
    (¬ lost → exec (.linkLoss g b) s = .next s) ∧
    (k.st = .training →
      (k.cold = false → answers (exec (.retrainFailed g b) s) fun u => onlyGroup g s u ∧ (u.sub g b).st = .training ∧
        (u.sub g b).cold = decide (2 ≤ k.warmFail) ∧ (u.sub g b).warmFail = if 2 ≤ k.warmFail then 0 else k.warmFail + 1) ∧
      (k.cold = true → k.coldFail < 2 → answers (exec (.retrainFailed g b) s) fun u => onlyGroup g s u ∧ (u.sub g b).st = .training ∧
        (u.sub g b).cold = true ∧ (u.sub g b).coldFail = k.coldFail + 1) ∧
      (k.cold = true → 2 ≤ k.coldFail → answers (exec (.retrainFailed g b) s) fun u => linkLogsOnly g s u ∧ (u.sub g b).st = .down ∧
        (u.sub g b).dead = true ∧ u.flt.service.getLsbD 0 = true ∧ ∃ x ∈ u.flt.log, x.code = faultCode 4 6 0x42))) ∧
  (∀ (s : State) (g : GroupIx) (b : SubIx) (lane spare : Fin 34) (w : W32) (x : Swap),
    let k := s.sub g b
    let now := { k with laneBad := k.laneBad ||| laneMask [lane] }
    let ok := healthyLanes now.laneBad
    let narrows := fun (u : State) => (16 ≤ ok.length → (u.sub g b).half = true ∧ (u.sub g b).st = k.st ∧ (u.sub g b).laneAct = laneMask (ok.take 16)) ∧
      (ok.length < 16 → (u.sub g b).st = .down)
    let named := x.ours = true ∧ x.failed = lane ∧ x.spare = spare ∧ x.commit = w
    (k.laneBad.getLsbD lane.val = true → exec (.laneFail g b lane) s = .next s) ∧
    (k.laneBad.getLsbD lane.val = false → answers (exec (.laneFail g b lane) s) fun u => linkLogsOnly g s u ∧
      (k.up = false ∨ k.laneAct.getLsbD lane.val = false → u.sub g b = now ∧ ∃ y ∈ u.flt.log, y.code = faultCode 0 6 0x40) ∧
      (k.up = true → k.laneAct.getLsbD lane.val = true →
        (k.half = true → narrows u) ∧
        (k.half = false → now.freeLane = none → narrows u) ∧
        (k.half = false → now.freeLane = some spare → (u.sub g b).laneBad = now.laneBad ∧
          (u.sub g b).swap = some ⟨lane, spare, BitVec.ofNat 32 (k.superframe s.now + 64), false, true⟩ ∧
          .management g b ([2, BitVec.ofNat 8 lane.val, BitVec.ofNat 8 spare.val, 0] ++ commitBytes (BitVec.ofNat 32 (k.superframe s.now + 64)) ++ zeros 24) ∈ u.out))) ∧
    (k.up = true → answers (exec (.laneSwap g b lane spare w) s) fun u => sendsOnly g s u ∧
      u.sub g b = { k with swap := some ⟨lane, spare, w, true, false⟩ } ∧
      u.out = s.out ++ [.management g b ([3, BitVec.ofNat 8 lane.val, BitVec.ofNat 8 spare.val, 0] ++ commitBytes w ++ zeros 24)]) ∧
    (k.up = false → exec (.laneSwap g b lane spare w) s = .next s) ∧
    (k.swap = some x →
      (named → answers (exec (.laneSwapAck g b lane spare w) s) fun u => onlyGroup g s u ∧
        u.sub g b = { k with swap := some { x with acked := true } }) ∧
      (¬ named → answers (exec (.laneSwapAck g b lane spare w) s) fun u => onlyGroup g s u ∧ u.sub g b = k) ∧
      (x.acked = true → answers (exec (.laneSwapCommit g b) s) fun u => onlyGroup g s u ∧ (u.sub g b).swap = none ∧
        (u.sub g b).laneAct = (if x.ours = true then (k.laneAct &&& ~~~laneMask [x.failed]) ||| laneMask [x.spare] else k.laneAct) ∧
        (u.sub g b).txAct = (if x.ours = true then k.txAct else (k.txAct &&& ~~~laneMask [x.failed]) ||| laneMask [x.spare]) ∧
        k.spares ≤ (u.sub g b).spares ∧ (u.sub g b).cnt.lane = bump k.cnt.lane) ∧
      (x.acked = false → exec (.laneSwapCommit g b) s = .next s)) ∧
    (k.swap = none → exec (.laneSwapCommit g b) s = .next s ∧
      answers (exec (.laneSwapAck g b lane spare w) s) fun u => onlyGroup g s u ∧ u.sub g b = k))

/-- A sublink idle for long enough asks for bivouac 32 superframes ahead; the other end answers BIV_ACK, BIV_NAK 0 where bivouac is not
allowed, BIV_NAK 1 under a wake condition; an agreed entry takes each direction's lanes to bivouac at its commit point, one not
acknowledged, cancelled or under a wake condition aborts and is counted; a sleeping direction that is woken or cancelled wakes, and is
ACTIVE again once 2 µs have passed; the superframe count goes on without a jump; an echo comes back unchanged (R346, R362 to R365,
Table LNK-6). LNK_CTL.DIS idles the sublinks it newly names and retrains those it releases, LNK_CTL.QUAR_CLR ends quarantine and clears
the score, LNK_LOOP takes its defined bits while no run is active and retrains each sublink whose mode changes; each is refused and counted
from a host port that may not write it. In a launch pitch loops without KEEP end, and the violation score decays by one, never below zero
(R369, R370, R467, R472, R497). In any other state the command changes nothing. Where the manual is silent the clauses rest on the model's
choices of log entry 46. -/
def Obligations.BivouacAndLinkRegisters : Prop :=
  (∀ (s : State) (g : GroupIx) (b : SubIx) (full rx : Bool) (w : W32) (r : Byte) (bs : List Byte) (x : BivEntry),
    let k := s.sub g b
    let aborted := { k with biv := none, cnt := { k.cnt with bivAb := bump k.cnt.bivAb } }
    let cancels := fun (u : State) => sendsOnly g s u ∧ u.sub g b = aborted ∧
      u.out = s.out ++ [.management g b ([7, 0, 0, 0] ++ commitBytes x.commit ++ zeros 24)]
    let same := fun (o : Host.Outcome State Fault Refusal) => answers o fun u => onlyGroup g s u ∧ u.sub g b = k
    let ahead := BitVec.ofNat 32 (k.superframe s.now + 32)
    let asks := s.bivAllowed g b full = true ∧ (k.st = .active ∨ (full = true ∧ k.st = .txNarrow)) ∧ k.biv = none ∧
      s.mustWake g b full = false ∧ k.activeAt + 1000 * bits (s.bivCfg g) 20 10 ≤ s.now ∧
      s.ropeSoon g (1000 * (bits (s.bivCfg g) 12 8 + 2)) = false
    let goes := (x.full = true ∨ x.ours = !rx) ∧ (rx = true ∨ k.commitDue s.now x.commit = true)
    let awake := k.asleep = false ∧ k.rxBiv = false
    let hindered := x.acked = false ∨ s.mustWake g b x.full = true
    (asks → answers (exec (.bivouacTrigger g b full) s) fun u => sendsOnly g s u ∧ u.sub g b = { k with biv := some ⟨full, true, ahead, false⟩ } ∧
      u.out = s.out ++ [.management g b ([4, modeByte full, 0, 0] ++ commitBytes ahead ++ zeros 24)]) ∧
    (¬ asks → exec (.bivouacTrigger g b full) s = .next s) ∧
    (k.up = true → answers (exec (.bivReq g b full w) s) fun u => sendsOnly g s u ∧
      (s.bivAllowed g b full = false → u.out = s.out ++ [.management g b ([6, 0] ++ zeros 30)] ∧ u.sub g b = k) ∧
      (s.bivAllowed g b full = true → s.mustWake g b full = true → u.out = s.out ++ [.management g b ([6, 1] ++ zeros 30)] ∧ u.sub g b = k) ∧
      (s.bivAllowed g b full = true → s.mustWake g b full = false → u.sub g b = { k with biv := some ⟨full, false, w, true⟩ } ∧
        u.out = s.out ++ [.management g b ([5, modeByte full, 0, 0] ++ (if full = true then commitBytes ahead else zeros 4) ++ zeros 24)])) ∧
    (k.up = true → exec (.echo g b bs) s = .next (s.emit (.management g b ((8 :: (bs.drop 1).take 31) ++ zeros (31 - (bs.length - 1)))))) ∧
    (k.up = false → exec (.bivReq g b full w) s = .next s ∧ exec (.echo g b bs) s = .next s) ∧
    (k.biv = some x →
      (x.ours = true → x.full = full → answers (exec (.bivAck g b full w) s) fun u => onlyGroup g s u ∧ u.sub g b = { k with biv := some { x with acked := true } }) ∧
      (x.ours = false ∨ x.full ≠ full → same (exec (.bivAck g b full w) s)) ∧
      (x.ours = true → answers (exec (.bivNak g b r) s) fun u => onlyGroup g s u ∧ u.sub g b = { k with biv := none }) ∧
      (x.ours = false → same (exec (.bivNak g b r) s)) ∧
      (k.asleep = false → answers (exec (.bivCancel g b w) s) fun u => onlyGroup g s u ∧ u.sub g b = aborted) ∧
      (k.asleep = false → answers (exec (.bivouacWake g b) s) cancels) ∧
      (¬ goes → exec (.bivouacCommitPoint g b rx) s = .next s) ∧
      (goes → awake → hindered → answers (exec (.bivouacCommitPoint g b rx) s) cancels) ∧
      (goes → ¬ (awake ∧ hindered) → answers (exec (.bivouacCommitPoint g b rx) s) fun u => onlyGroup g s u ∧
        (u.sub g b).superframe s.now = k.superframe s.now ∧
        (rx = false → (u.sub g b).st = if x.full = true then .fullBiv else .txNarrow) ∧
        (rx = true → (u.sub g b).st = k.st ∧ if x.full = true then (u.sub g b).rxBiv = true else (u.sub g b).rxNarrow = true) ∧
        (u.sub g b).bivAt = (if awake then s.now else k.bivAt) ∧ (u.sub g b).cnt.bivIn = if awake then bump k.cnt.bivIn else k.cnt.bivIn)) ∧
    (k.biv = none → same (exec (.bivAck g b full w) s) ∧ same (exec (.bivNak g b r) s) ∧ exec (.bivouacCommitPoint g b rx) s = .next s ∧
      (k.asleep = false → exec (.bivCancel g b w) s = .next s ∧ exec (.bivouacWake g b) s = .next s)) ∧
    (k.asleep = true →
      (answers (exec (.bivCancel g b w) s) fun u => onlyGroup g s u ∧ u.sub g b = { k with biv := none, waking := true }) ∧
      (answers (exec (.bivouacWake g b) s) fun u => onlyGroup g s u ∧ u.sub g b = { k with waking := true }) ∧
      (k.waking = true → k.bivAt + 2000 ≤ s.now → answers (exec (.wakeComplete g b false) s) fun u => sendsOnly g s u ∧
        (u.sub g b).st = .active ∧ (u.sub g b).waking = false ∧ (u.sub g b).superframe s.now = k.superframe s.now)) ∧
    (k.asleep = false ∨ k.waking = false ∨ s.now < k.bivAt + 2000 → exec (.wakeComplete g b false) s = .next s) ∧
    (answers (exec (.wakeComplete g b true) s) fun u => onlyGroup g s u ∧ u.sub g b = { k with rxBiv := false, rxNarrow := false })) ∧
  (∀ (s : State) (p : Path) (g : GroupIx) (b : SubIx) (d : BitVec 2) (v : W32),
    let k := s.sub g b
    let mayTrain := s.linkPowered g = true ∧ s.attached g b = true
    let was := (s.group g).dis.getLsbD b.val
    let looped := fun (u : State) => ((u.group g).loopMode b = (s.group g).loopMode b → u.sub g b = k) ∧
      ((u.group g).loopMode b ≠ (s.group g).loopMode b → mayTrain → k.st ≠ .disabled → (u.sub g b).st = .training ∧ (u.sub g b).cold = false)
    (s.pathOpen p = true →
      (classS p = true → answers (exec (.dis p g d) s) fun u => onlyGroup g s u ∧ (u.group g).dis = d ∧
        (d.getLsbD b.val = true → was = false → (u.sub g b).st = .disabled ∧ (u.sub g b).unacked = 0) ∧
        (d.getLsbD b.val = false → was = true → mayTrain → (u.sub g b).st = .training ∧ (u.sub g b).cold = true ∧ (u.sub g b).coldFail = 0) ∧
        (d.getLsbD b.val = false → was = true → ¬ mayTrain → (u.sub g b).st = .down) ∧
        (d.getLsbD b.val = was → u.sub g b = k)) ∧
      (classS p = true → answers (exec (.quarClr p g) s) fun u => sendsOnly g s u ∧ (u.group g).quar = false ∧ (u.group g).score = 0 ∧
        (u.sub g b).steadyAt = s.now) ∧
      (classS p = true → s.running = false → answers (exec (.lnkLoopWrite p g v) s) fun u => onlyGroup g s u ∧
        (u.group g).loop = v &&& 0x00008033 ∧ looped u) ∧
      (classS p = false →
        exec (.dis p g d) s = .next (s.refuse p (lnkOff g 0)) ∧ exec (.quarClr p g) s = .next (s.refuse p (lnkOff g 0)) ∧
        exec (.lnkLoopWrite p g v) s = .next (s.refuse p (lnkOff g 0x20))) ∧
      (s.running = true → exec (.lnkLoopWrite p g v) s = .next (s.refuse p (lnkOff g 0x20)))) ∧
    (s.pathOpen p = false → exec (.dis p g d) s = .next s ∧ exec (.quarClr p g) s = .next s ∧ exec (.lnkLoopWrite p g v) s = .next s) ∧
    (s.inLaunchPitch = true → answers (exec .loopClearAtLaunch s) fun u => u = { s with links := u.links } ∧
      (bit (s.group g).loop.toNat 15 = true → u.group g = s.group g) ∧
      (bit (s.group g).loop.toNat 15 = false → (u.group g).loop = 0 ∧ looped u)) ∧
    (s.inLaunchPitch = false → exec .loopClearAtLaunch s = .next s) ∧
    (answers (exec (.violationDecay g) s) fun u => onlyGroup g s u ∧ u.group g = { s.group g with score := (s.group g).score - 1 }))

/-- A read request that its target admits is answered with the bytes of memory in read responses on VC2, one per piece of one poison
state, and changes no memory but what errors found by the read poison; one turned away gets an error response. A write or a reduce-add that
its target admits stores only its bytes or its elements, a poisoned write poisons every granule it touches, the body of a chunk goes where
the chunk lands, a reduce-scatter's block is kept for its sum, and each is acknowledged; one turned away stores nothing and is answered with
a NACK. One with ORD joins the order queue while that has room, and stays in the receive buffer when it has not (R122, R131, R229, R240,
R290, R298, R366, R389, R391, R397). What passes no check of Table LNK-9 takes no effect. Where the manual is silent the clauses rest on
the model's choices of log entries 12, 21 and 46. -/
def Obligations.RequestsFromOtherModules : Prop :=
  ∀ (s : State) (g : GroupIx) (b : SubIx) (p : LinkPacket) (ecc : List EccErr),
    let s1 := s.modSub g b fun k => k.freeRx p
    let n := p.body.length
    let window := fun q : LinkPacket => match s1.ctx? p.ctx with
      | some k => s1.windowOk q k n
      | none => true
    let nackCode := fun v : Verdict => match v with
      | .refused => 3
      | .parked => 4
      | _ => 2
    let back := fun status : BitVec 8 => { s.linkBase 5 2 p.src p.pkey p.ctx with status := status, tag := p.tag }
    let turned := fun (o : Host.Outcome State Fault Refusal) (q : LinkPacket) (v : Verdict) => answers o fun u => u.mem = s.mem ∧
      (∀ d, d ≠ homeCore q.addr.toNat → u.core d = s.core d) ∧ (addrRange q.addr.toNat ≠ 0 → u.cores = s.cores) ∧ u.fields = s.fields ∧
      u.grd = s.grd ∧ u.glb = s.glb ∧ u.pit = s.pit ∧ ∃ c, s1.nacked u g b q (nackCode v) c ∧ (v ≠ .parked → c = 0)
    s.turnsDown g b p 0 (exec (.linkReadRequest g b (p, ecc)) s) ∧
    (s.admits g b p 0 →
      let a := addrLocal p.addr.toNat
      let v := s1.linkVerdict g b p p.rlen.toNat true
      let w := (s1.countReceived p 0).readErrors a p.rlen.toNat ecc
      (v = .ok → answers (exec (.linkReadRequest g b (p, ecc)) s) fun u => u.mem = w.mem ∧ u.cores = w.cores ∧ u.fields = s.fields ∧
        (ecc = [] → u = { s with links := u.links, fab := u.fab, out := u.out, freeCtr := u.freeCtr }) ∧
        ∀ x ∈ pieces p.addr.toNat p.rlen.toNat (w.mem.poisonIn a p.rlen.toNat), ∃ bs, bs.length = x.2.1 ∧
          (x.2.2 = false → bs = w.mem.read (a + x.1) x.2.1) ∧ u.sentOrQueued g b
          { s.linkBase 2 2 p.src p.pkey p.ctx with status := if x.2.2 then 1 else 0, tag := p.tag, addr := BitVec.ofNat 64 (p.addr.toNat + x.1), body := bs }) ∧
      (v ≠ .ok → answers (exec (.linkReadRequest g b (p, ecc)) s) fun u => u.mem = s.mem ∧ u.cores = s.cores ∧ u.fields = s.fields ∧
        u.sentOrQueued g b (back (BitVec.ofNat 8 (nackCode v))))) ∧
    ((s.sub g b).ordQ.length < 64 ∨ p.ord = false → s.turnsDown g b p 1 (exec (.linkWrite g b p) s) ∧ s.turnsDown g b p 3 (exec (.linkReduceAdd g b p) s)) ∧
    (s.admits g b p 1 → p.ord = false →
      let target := s1.writePlace p
      let q := { p with addr := BitVec.ofNat 64 target }
      let a := addrLocal target
      let v := s1.linkVerdict g b q n (window q)
      let kept := addrRange p.addr.toNat = 8 ∧ ∃ r e i, s1.collFor p.addr.toNat p.src.toNat = some (r, e, i) ∧ (collD r.desc).kind = 3
      (v = .ok → s.mem.wf = true → answers (exec (.linkWrite g b p) s) fun u => u.fields = s.fields ∧ u.glb = s.glb ∧ u.pit = s.pit ∧
        u.sentOrQueued g b { s.linkBase 4 2 p.src p.pkey p.ctx with tag := p.tag } ∧
        (kept → u.mem = s.mem) ∧
        (¬ kept → (∀ x, x < a ∨ a + n ≤ x → u.mem.byte x = s.mem.byte x) ∧
          (p.status ≠ 1 → ∀ i (h : i < n), u.mem.byte (a + i) = p.body[i]) ∧
          (p.status = 1 → 0 < n → ∀ x, a < 64 * x + 64 → 64 * x < a + n → u.mem.poisoned x = true)) ∧
        (addrRange p.addr.toNat ≠ 8 → (∀ d, d ≠ homeCore target → u.core d = s.core d) ∧ u.grd.colls = s.grd.colls)) ∧
      (v ≠ .ok → turned (exec (.linkWrite g b p) s) q v)) ∧
    (s.admits g b p 3 → p.ord = false →
      let a := addrLocal p.addr.toNat
      let m := redSpan p.efmt.toNat p.anchored p.epw n
      let v := s1.linkVerdict g b p m (window p && redTarget p.addr.toNat p.efmt.toNat p.anchored)
      (v = .ok → s.mem.wf = true → answers (exec (.linkReduceAdd g b p) s) fun u => (∀ d, d ≠ homeCore p.addr.toNat → u.core d = s.core d) ∧
        u.fields = s.fields ∧ (∀ x, x < a ∨ a + m ≤ x → u.mem.byte x = s.mem.byte x) ∧
        u.mem = (s.reduceAt none p.addr.toNat p.efmt.toNat p.anchored p.epw p.body (p.status == 1)).mem ∧
        u.sentOrQueued g b { s.linkBase 4 2 p.src p.pkey p.ctx with tag := p.tag }) ∧
      (v ≠ .ok → turned (exec (.linkReduceAdd g b p) s) p v)) ∧
    (p.ord = true →
      ((s.sub g b).ordQ.length < 64 → s.admits g b p 1 → answers (exec (.linkWrite g b p) s) fun u => onlyGroup g s u ∧
        (u.sub g b).ordQ = (s.sub g b).ordQ ++ [(p, s.now)]) ∧
      ((s.sub g b).ordQ.length < 64 → s.admits g b p 3 → answers (exec (.linkReduceAdd g b p) s) fun u => onlyGroup g s u ∧
        (u.sub g b).ordQ = (s.sub g b).ordQ ++ [(p, s.now)]) ∧
      (64 ≤ (s.sub g b).ordQ.length → exec (.linkWrite g b p) s = .next s ∧ exec (.linkReduceAdd g b p) s = .next s))

/-- Read data fills its place in the gang that awaits it, and with its last byte the request ends; a write acknowledgement, or a NACK of any
code but 0x04, ends its request and counts one write of its command, or of its chunk's forwarded copy, as acknowledged; a NACK 0x04 keeps
the request, parks it and returns its credits; an error response ends its read, whose missing bytes become poisoned. When a request ends,
reads that waited go on. An answer to a request that has ended is counted as late; one that matches nothing, or does not fit its request,
is a violation with code 0x14 (R71, R129, R246, R247, R291, R366, R368, R391). Where the manual is silent the clauses rest on the model's
choices of log entry 46. -/
def Obligations.AnswersToThisModule : Prop :=
  ∀ (s : State) (g : GroupIx) (b : SubIx) (p : LinkPacket),
    let n := p.body.length
    let isRead := fun k : ReqKind => k == .remoteRead
    let stray := fun (o : Host.Outcome State Fault Refusal) =>
      (s.memu.ended.contains p.tag.toNat = true → answers o fun u => u = { s with memu := u.memu, links := u.links, fab := u.fab } ∧
        u.memu = { s.memu with late := bump s.memu.late }) ∧
      (s.memu.ended.contains p.tag.toNat = false → answers o fun u => s.refusedBy u g b p 0x14)
    (s.turnsDown g b p 2 (exec (.linkReadResponse g b p) s) ∧ s.turnsDown g b p 4 (exec (.linkWriteAck g b p) s) ∧
      s.turnsDown g b p 5 (exec (.linkErrorResponse g b p) s) ∧ s.turnsDown g b p 0x21 (exec (.nack g b p) s)) ∧
    (∀ r : Req,
      let off := p.addr.toNat - r.addr.toNat
      let ended := fun u : State => u.memu = { s.memu with reqs := s.memu.reqs.filter (fun y => y.id != r.id), ended := r.id :: s.memu.ended }
      let acked := fun u : State => ended u ∧ (r.kind ≠ .collAck → u.grd = s.grd ∧ (∀ d, d ≠ r.core → u.core d = s.core d) ∧
          (u.task r.core r.task).cmds = (s.task r.core r.task).cmds.map (fun y => if y.id == r.cmd then { y with acks := y.acks - 1 } else y)) ∧
        (r.kind = .collAck → u.cores = s.cores ∧ u.grd = { s.grd with chunks := s.grd.chunks.map fun x =>
          if x.ctx == r.ctx && x.nth == r.nth && x.index == r.off then { x with acks := x.acks - 1 } else x }) ∧
        u = { s with cores := u.cores, memu := u.memu, links := u.links, grd := u.grd, fab := u.fab }
      let waits := ∃ x, (s.core r.core).gang? r.slot = some x ∧ x.task = r.task ∧ x.cmd = r.cmd
      let fed := fun (v : State) (f : Gang → Gang) => v = { s with cores := v.cores, memu := v.memu, links := v.links } ∧
        (waits → (v.core r.core).gangs = (s.core r.core).gangs.map fun y => if y.slot == r.slot then f y else y) ∧
        (¬ waits → v.cores = s.cores) ∧ ∀ d, d ≠ r.core → v.core d = s.core d
      let arrived := fun y : Gang => y.arrive (r.off + off) p.body (p.status == 1)
      let fits := r.addr.toNat ≤ p.addr.toNat ∧ off + n ≤ r.len ∧ r.got + n ≤ r.len
      let resumed := fun (u v : State) => u = v.resumeEvery ∧ ((∀ c, ∀ y ∈ (v.core c).gangs, y.reads = []) → u = v)
      (s.admits g b p 2 → s.reqOf p.tag isRead = some r →
        (fits → r.got + n < r.len → answers (exec (.linkReadResponse g b p) s) fun u => fed u arrived ∧
          u.memu = { s.memu with reqs := s.memu.reqs.map fun y => if y.id == r.id then { y with got := y.got + n } else y }) ∧
        (fits → r.len ≤ r.got + n → answers (exec (.linkReadResponse g b p) s) fun u => ∃ v, resumed u v ∧ fed v arrived ∧ ended v) ∧
        (¬ fits → answers (exec (.linkReadResponse g b p) s) fun u => s.refusedBy u g b p 0x14)) ∧
      (s.admits g b p 4 → s.reqOf p.tag ReqKind.write = some r → answers (exec (.linkWriteAck g b p) s) acked) ∧
      (s.admits g b p 0x21 → s.reqOf p.tag ReqKind.write = some r →
        (fieldAt p.body 0 1 ≠ 4 → answers (exec (.nack g b p) s) fun u => acked u ∧ (u.group g).nackRx = bump (s.group g).nackRx) ∧
        (fieldAt p.body 0 1 = 4 → answers (exec (.nack g b p) s) fun u => (u.group g).nackRx = bump (s.group g).nackRx ∧
          u.memu = { s.memu with reqs := s.memu.reqs.map fun y => if y.id == r.id then { y with parked := true } else y } ∧
          (∀ k, s.ctx? r.ctx = some k → u.ctx? r.ctx = some { k with parked := true, held := k.held + fieldAt p.body 4 2 }) ∧
          u = { s with memu := u.memu, links := u.links, fab := u.fab })) ∧
      (s.admits g b p 5 → s.reqOf p.tag isRead = some r → answers (exec (.linkErrorResponse g b p) s) fun u => ∃ v, resumed u v ∧
        fed v (fun y => y.lose (r.off + r.got) (r.len - r.got)) ∧ ended v)) ∧
    (s.admits g b p 2 → s.reqOf p.tag isRead = none → stray (exec (.linkReadResponse g b p) s)) ∧
    (s.admits g b p 4 → s.reqOf p.tag ReqKind.write = none → stray (exec (.linkWriteAck g b p) s)) ∧
    (s.admits g b p 5 → s.reqOf p.tag isRead = none → stray (exec (.linkErrorResponse g b p) s)) ∧
    (s.admits g b p 0x21 → s.reqOf p.tag ReqKind.write = none → stray (exec (.nack g b p) s))

/-- A belay grant adds its credits to a holder whose lease runs and sets its lease, at least 2; one without credits renews the lessor's
timer; with RESUME the context's parked writes are sent again; data of collectives that waited tries again. Credits owed leave in one grant
once 16 are owed or 1 µs after the oldest; a holder that has sent nothing for half a lease renews it; a lease that runs out, or is revoked,
takes the holder's credits and closes the lessor's window, counted and logged; a revocation leaves every other context as it was (R368,
R389, R390, R392 to R396). Where the manual is silent the clauses rest on the model's choices of log entry 43. -/
def Obligations.GrantsAndLeases : Prop :=
  (∀ (s : State) (g : GroupIx) (b : SubIx) (p : LinkPacket),
    let ctx := BitVec.ofNat 16 (fieldAt p.body 0 2)
    let n := fieldAt p.body 2 2
    let resume := bit (fieldAt p.body 6 1) 0
    s.turnsDown g b p 0x20 (exec (.belayGrant g b p) s) ∧
    (s.admits g b p 0x20 → answers (exec (.belayGrant g b p) s) fun u => ∃ v : State, v = { s with fab := v.fab, links := v.links } ∧
      (∀ k, s.ctx? ctx = some k → v.ctx? ctx = some { k with
        held := if k.holdExp = true then k.held else k.held + n
        lease := if n = 0 ∧ resume = false then k.lease else max 2 (fieldAt p.body 4 2)
        lendAt := if n = 0 ∧ resume = false then s.now else k.lendAt
        parked := k.parked && !resume }) ∧
      (∀ j, j ≠ ctx → v.ctx? j = s.ctx? j) ∧
      ((∀ r ∈ s.grd.colls, r.todo = []) → v.pumpRuns = v) ∧
      (resume = false → u = v.pumpRuns) ∧
      (resume = true → u = v.pumpRuns.resendParked ctx ∧ ∀ y ∈ u.memu.reqs, y.ctx = ctx → y.parked = false))) ∧
  (∀ (s : State) (ctx : BitVec 16), s.ctx? ctx = none → ∀ holder, exec (.belayGrantSend ctx) s = .next s ∧
    exec (.leaseRenewal ctx) s = .next s ∧ exec (.leaseExpire ctx holder) s = .next s) ∧
  (∀ (s : State) (ctx : BitVec 16) (k : Ctx) (path : Path) (v : W32),
    s.ctx? ctx = some k →
    let grant := fun (dst n lease : Nat) => { s.linkBase 0x20 0 (BitVec.ofNat 8 dst) 0xFFFF k.decl.ctx with
      body := leBytes 2 k.decl.ctx.toNat ++ leBytes 2 n ++ leBytes 2 lease ++ leBytes 1 0 ++ zeros 9 }
    let owes := 16 ≤ k.owed ∨ (0 < k.owed ∧ k.owedAt + 1000 ≤ s.now)
    let renews := k.decl.sends = true ∧ k.unspent = true ∧ k.holdExp = false ∧ k.holdAt + k.lease * s.leaseUnit / 2 ≤ s.now
    let holderEnds := k.decl.sends = true ∧ k.holdExp = false ∧ k.holdAt + (k.lease - 1) * s.leaseUnit ≤ s.now
    let lessorEnds := k.decl.receives = true ∧ k.lendExp = false ∧ k.lendAt + k.decl.leaseLen * s.leaseUnit ≤ s.now
    let dropped := { k with holdExp := true, held := 0, sent := 0 }
    let reclaimed := { k with lendExp := true, owed := 0 }
    let ended := fun (x : Ctx) (u : State) => u = { s with fab := u.fab, flt := u.flt, out := u.out } ∧
      u.fab.leaseExp = bump s.fab.leaseExp ∧ u.ctx? ctx = some x ∧ (∀ j, j ≠ ctx → u.ctx? j = s.ctx? j) ∧
      ∃ y ∈ u.flt.log, y.code = faultCode 0 7 1
    (owes → answers (exec (.belayGrantSend ctx) s) fun u => sendsOnly k.group s u ∧
      u.sentOrQueued k.group (ctxSub ctx) (grant (s.sourceOf k) k.owed k.decl.leaseLen) ∧ u.fab.grantTx = bump s.fab.grantTx ∧
      ∃ k', u.ctx? ctx = some k' ∧ k'.owed = 0 ∧ k'.granted = k.granted + k.owed ∧ k'.lendAt = s.now) ∧
    (¬ owes → exec (.belayGrantSend ctx) s = .next s) ∧
    (renews → answers (exec (.leaseRenewal ctx) s) fun u => sendsOnly k.group s u ∧
      u.sentOrQueued k.group (ctxSub ctx) (grant (s.sinkOf k) 0 k.lease) ∧ ∃ k', u.ctx? ctx = some k' ∧ k'.holdAt = s.now ∧ k'.held = k.held) ∧
    (¬ renews → exec (.leaseRenewal ctx) s = .next s) ∧
    (holderEnds → answers (exec (.leaseExpire ctx true) s) (ended dropped)) ∧ (¬ holderEnds → exec (.leaseExpire ctx true) s = .next s) ∧
    (lessorEnds → answers (exec (.leaseExpire ctx false) s) (ended reclaimed)) ∧ (¬ lessorEnds → exec (.leaseExpire ctx false) s = .next s) ∧
    (s.pathOpen path = true → classS path = true → bit v.toNat 31 = true → answers (exec (.fabRevoke path v) s) fun u =>
      u = { s with fab := u.fab, flt := u.flt, out := u.out } ∧ u.fab.leaseRev = bump s.fab.leaseRev (s.revoked v).length ∧
      (k ∈ s.revoked v → u.ctx? ctx = some (if bit v.toNat 30 = true then dropped else reclaimed)) ∧
      ((∀ y ∈ s.revoked v, y.decl.ctx ≠ ctx) → u.ctx? ctx = some k))) ∧
  (∀ (s : State) (path : Path) (v : W32),
    (s.pathOpen path = true → classS path = true → bit v.toNat 31 = false → exec (.fabRevoke path v) s = .next s) ∧
    (s.pathOpen path = true → classS path = true → bit v.toNat 31 = true → s.revoked v = [] → exec (.fabRevoke path v) s = .next s) ∧
    (s.pathOpen path = true → classS path = false → exec (.fabRevoke path v) s = .next (s.refuse path fabRevokeOff)) ∧
    (s.pathOpen path = false → exec (.fabRevoke path v) s = .next s))

/-- A rope's window opens for a transmit entry that holds now, and closes again with its packets still queued counted as deferred, each
once; any other opening or closing changes nothing. The head of an order queue takes effect as a write or a reduce-add, with its wait
counted and its context one ordered position further; an expected chunk header announces the chunk that follows on its context, and counts
as failed the one it cuts short; one not expected is a violation with code 0x14 (R279, R293, R379, R380, R397). Where the manual is silent
the clauses rest on the model's choices of log entries 21 and 43. -/
def Obligations.RopesOrderAndChunks : Prop :=
  (∀ (s : State) (rope : BitVec 12) (i : Nat),
    (s.image.ropes[i]? = none → exec (.ropeWindowOpen rope i) s = .next s ∧ exec (.ropeWindowClose rope i) s = .next s) ∧
    ∀ e : RopeEntry, s.image.ropes[i]? = some e →
      let x := s.ropeSub e
      let isOpen := s.fab.open_.contains (rope, i)
      let opens := e.rope = rope ∧ s.ropeRegime = true ∧ s.windowNow e = true ∧ isOpen = false
      (opens → answers (exec (.ropeWindowOpen rope i) s) fun u => sendsOnly x.1 s u ∧ u.fab.open_ = s.fab.open_ ++ [(rope, i)]) ∧
      (¬ opens → exec (.ropeWindowOpen rope i) s = .next s) ∧
      (isOpen = true → answers (exec (.ropeWindowClose rope i) s) fun u => sendsOnly x.1 s u ∧
        u.fab.open_ = s.fab.open_.filter (fun y => y != (rope, i)) ∧
        u.fab.ropeDefer = bump s.fab.ropeDefer ((s.sub x.1 x.2).tx.filter fun y => y.pkt.rope == rope && !y.deferred).length ∧
        ∀ y ∈ (u.sub x.1 x.2).tx, y.pkt.rope = rope → y.deferred = true) ∧
      (isOpen = false → exec (.ropeWindowClose rope i) s = .next s)) ∧
  (∀ (s : State) (g : GroupIx) (b : SubIx),
    ((s.sub g b).ordQ = [] → exec (.ordPacketRelease g b) s = .next s) ∧
    ∀ p since rest, (s.sub g b).ordQ = (p, since) :: rest → answers (exec (.ordPacketRelease g b) s) fun u => ∃ v : State,
      v = { s with links := v.links, fab := v.fab } ∧ (∀ h, h ≠ g → v.group h = s.group h) ∧ v.sub g b = { s.sub g b with ordQ := rest } ∧
      v.fab.ordHold = bump s.fab.ordHold ((s.now - since) * 17 / 10) ∧
      (∀ k, s.ctx? p.ctx = some k → v.ctx? p.ctx = some { k with lastOrd := k.lastOrd + 1 }) ∧ (u.sub g b).ordQ = rest ∧
      (p.typ = 3 → u = v.linkReduceNow g b p) ∧ (p.typ ≠ 3 → u = v.linkWriteNow g b p) ∧
      (s.mem.wf = true →
        (p.typ = 3 → ∀ y, y < addrLocal p.addr.toNat ∨ addrLocal p.addr.toNat + redSpan p.efmt.toNat p.anchored p.epw p.body.length ≤ y →
          u.mem.byte y = s.mem.byte y) ∧
        (p.typ ≠ 3 → ∀ y, y < addrLocal (v.writePlace p) ∨ addrLocal (v.writePlace p) + p.body.length ≤ y → u.mem.byte y = s.mem.byte y))) ∧
  (∀ (s : State) (g : GroupIx) (b : SubIx) (p : LinkPacket),
    let s1 := s.modSub g b fun k => k.freeRx p
    s.turnsDown g b p 0x12 (exec (.chainChunkHeader g b p) s) ∧
    (s.admits g b p 0x12 →
      (s1.chunkExpected g p = true → answers (exec (.chainChunkHeader g b p) s) fun u =>
        u = { s with mem := u.mem, cores := u.cores, links := u.links, grd := u.grd, flt := u.flt, out := u.out, freeCtr := u.freeCtr } ∧
        (s.chunkNow p.ctx = none → u.mem = s.mem ∧ u.flt = s.flt) ∧
        u.grd.chunkCrc = bump s.grd.chunkCrc (s.grd.chunks.filter fun x => x.ctx == p.ctx && x.partly).length ∧
        ∃ c, u.grd.chunks.getLast? = some c ∧ c.ctx = p.ctx ∧ c.group = BitVec.ofNat 12 (fieldAt p.uhdr 0 2) ∧ c.index = fieldAt p.uhdr 4 4 ∧
          c.len = fieldAt p.uhdr 8 4 ∧ c.got = 0 ∧ c.header = p.uhdr ∧ c.added = false ∧ c.sent = false ∧
          c.poison = bit (fieldAt p.uhdr 13 1) 0) ∧
      (s1.chunkExpected g p = false → answers (exec (.chainChunkHeader g b p) s) fun u => s.refusedBy u g b p 0x14)))

/-! ## Intake, collectives, the ledger -/

/-- An archive request leaves once its limits have room, a context's requests in order: at most 256 folios, on VC5, with its reorder entries
taken. A folio record that matches its request is counted and moves the request on, and one whose CRC fails is counted as bad; a digest
record gives its pass the expected digest, and one that clashes with the SHARDS entry's fails it; an error record ends its request; a record
of a request that has ended is late; one that matches no request, or has not the shape or version of its request's records, is a violation
with code 0x14; a folio waits in the receive buffer while the entry router is full (R246, R255, R258 to R262, R264, R265, R270, R271, R274).
Where the manual is silent the clauses rest on the model's choices of log entry 40. -/
def Obligations.ArchiveRequestsAndRecords : Prop :=
  (∀ (s : State) (g : GroupIx) (b : SubIx),
    let next := s.intk.want.find? fun y => s.wantFirst y && s.wantFits g b y && s.ctxOn y.ctx g b
    (next = none → exec (.archiveRequestIssue g b) s = .next s) ∧
    ∀ (w : ArchWant), next = some w →
      (s.image.shards[w.shard]? = none → exec (.archiveRequestIssue g b) s = .next s) ∧
      ∀ (sh : ShardEntry) (k : Ctx), s.image.shards[w.shard]? = some sh → s.ctx? w.ctx = some k →
        let n := reqFolios sh.w w.count
        let opens := (s.tracker? sh.accession).isNone
        answers (exec (.archiveRequestIssue g b) s) fun u => u = { s with intk := u.intk, links := u.links, fab := u.fab, out := u.out } ∧
          (∀ h, h ≠ g → u.group h = s.group h) ∧ u.intk.req = bump s.intk.req ∧ u.intk.rob = s.intk.rob + n ∧ n ≤ 256 ∧
          (∃ y, u.intk.reqs = s.intk.reqs ++ [y] ∧ y.first = w.first ∧ y.next = w.first ∧ y.count = n ∧ y.accession = sh.accession ∧
            y.want = opens ∧ y.reqId = BitVec.ofNat 32 (w.ctx.toNat * 65536 + k.seq.toNat)) ∧
          u.intk.want = s.intk.want.flatMap (fun x => if x == w then (if w.count ≤ n then [] else [{ w with first := w.first + n, count := w.count - n }]) else [x]) ∧
          u.sentOrQueued g b { s.linkBase 0x10 5 (BitVec.ofNat 8 k.decl.peer) ((s.sendKey g k.decl.region).getD 0) w.ctx with
            uhdr := s.requestHeader sh w.first n opens (w.ctx.toNat * 65536 + k.seq.toNat) g }) ∧
  (∀ (s : State) (g : GroupIx) (b : SubIx) (p : LinkPacket),
    let s1 := s.modSub g b fun k => k.freeRx p
    let kind := fieldAt p.uhdr 6 1
    let version := BitVec.ofNat 64 (fieldAt p.uhdr 24 8)
    let room := s.entryWait g b + p.body.length ≤ 2 ^ 21
    let counted := fun n : Nat => upd s.intk.bytes (⟨g.val % 4, Nat.mod_lt _ (by decide)⟩ : Fin 4) (fun x => bump x n)
    let refused := fun (o : Host.Outcome State Fault Refusal) => answers o fun u => s.refusedBy u g b p 0x14
    let lost := fun (o : Host.Outcome State Fault Refusal) =>
      (s.recordReq g b p = none → s.intk.ended.any (fun x => x.toNat == fieldAt p.uhdr 16 4) = true →
        answers o fun u => u = { s with memu := u.memu, links := u.links } ∧ u.memu = { s.memu with late := bump s.memu.late }) ∧
      (s.recordReq g b p = none → s.intk.ended.any (fun x => x.toNat == fieldAt p.uhdr 16 4) = false → refused o) ∧
      (∀ r, s.recordReq g b p = some r → s.image.shards[r.shard]? = none ∨ r.versionOk p = false → refused o)
    let digest := exec (.archiveDigestRecord g b p) s
    let error := exec (.archiveErrorRecord g b p) s
    (room → s.turnsDown g b p 0x11 (exec (.archiveRecord g b p) s)) ∧ s.turnsDown g b p 0x11 digest ∧ s.turnsDown g b p 0x11 error ∧
    (¬ room → exec (.archiveRecord g b p) s = .next s) ∧
    (s.admits g b p 0x11 →
      (room → kind ≠ 2 → kind ≠ 3 → lost (exec (.archiveRecord g b p) s)) ∧ (kind = 2 → lost digest) ∧ (kind = 3 → lost error) ∧
      (room → kind = 2 ∨ kind = 3 → exec (.archiveRecord g b p) s = .next s1) ∧ (kind ≠ 2 → digest = .next s1) ∧ (kind ≠ 3 → error = .next s1) ∧
      ∀ (r : ArchReq) (sh : ShardEntry), s.recordReq g b p = some r → s.image.shards[r.shard]? = some sh → r.versionOk p = true →
        let left := s.intk.reqs.filter fun y => y.reqId != r.reqId
        let told := r.want = true ∧ fieldAt p.uhdr 8 4 = r.first ∧ fieldAt p.uhdr 12 4 = 64 ∧ p.body.length = 64
        let ends := fieldAt p.uhdr 8 4 = r.first ∧ fieldAt p.uhdr 12 4 = 0 ∧ p.body = []
        (room → kind ≠ 2 → kind ≠ 3 →
          (r.folioOk sh p = true → answers (exec (.archiveRecord g b p) s) fun u => u.intk.bytes = counted p.body.length ∧
            u.intk.folioBad = (if recordCrc p = true then s.intk.folioBad else bump s.intk.folioBad) ∧
            u.intk.recPois = (if recordCrc p = true ∧ fieldAt p.uhdr 7 1 = 1 then bump s.intk.recPois else s.intk.recPois) ∧
            u.intk.reqs = (if r.next + 1 = r.first + r.count then left else
              s.intk.reqs.map fun y => if y.reqId == r.reqId then { y with next := y.next + 1, gotRec := true, version := version } else y)) ∧
          (r.folioOk sh p = false → refused (exec (.archiveRecord g b p) s))) ∧
        (kind = 2 → told → answers digest fun u => u = { s with intk := u.intk, links := u.links, flt := u.flt, out := u.out } ∧
          u.intk.bytes = counted 64 ∧
          u.intk.reqs = s.intk.reqs.map (fun y => if y.reqId == r.reqId then { y with want := false, gotRec := true, version := version } else y) ∧
          (recordCrc p = true → ∀ t, u.tracker? sh.accession = some t → t.expected = some (p.body.take 32) ∧
            ((sh.digest.all (· == 0)) = false → p.body.take 32 ≠ sh.digest → t.failed = true))) ∧
        (kind = 2 → ¬ told → refused digest) ∧
        (kind = 3 → ends → answers error fun u => u.intk.reqs = left ∧ u.intk.recPois = bump s.intk.recPois (r.first + r.count - r.next) ∧
          u.intk.rob = s.intk.rob - (r.first + r.count - r.next)) ∧
        (kind = 3 → ¬ ends → refused error)))

/-- The folio digests of a pass are absorbed in index order, as far as they have come; the last one ends the pass, which matched when the
shard digest is the expected one and is counted as a miss otherwise, and a shard with RESIDE that matched and lies whole at one base becomes
resident while an entry is free. A scrub pass marks every resident shard, or is counted and kept for later when one still runs; a shard whose
digest no longer matches is poisoned and retired. Parked folios whose domain has returned are asked for again (R266 to R270, R276, R278).
What has no pass, folio, entry or scrub under way changes nothing. Where the manual is silent the clauses rest on the model's choices of log
entry 40. -/
def Obligations.PassesAndScrubs : Prop :=
  (∀ (s : State) (acc : BitVec 48) (i : Nat),
    (s.tracker? acc = none → exec (.folioDigestDone acc i) s = .next s) ∧
    ∀ t, s.tracker? acc = some t →
      (t.hashing.find? (fun h => h.1 == i) = none → exec (.folioDigestDone acc i) s = .next s) ∧
      ∀ bs, t.hashing.find? (fun h => h.1 == i) = some (i, bs) → answers (exec (.folioDigestDone acc i) s) fun u =>
        u = { s with intk := u.intk, flt := u.flt, out := u.out } ∧
        ∃ t' : Tracker, t'.hashing = t.hashing.filter (fun x => x.1 != i) ∧ t.absorbed ≤ t'.absorbed ∧
          u.intk.rob = s.intk.rob - (t'.absorbed - t.absorbed) ∧ (∀ e ∈ t'.early, e.1 ≠ t'.absorbed) ∧
          (t.early = [] → i = t.absorbed → t'.absorbed = i + 1 ∧ t'.digs = t.digs ++ sha256 bs) ∧
          (t.early = [] → i ≠ t.absorbed → t'.absorbed = t.absorbed ∧ t'.digs = t.digs ∧ t'.early = [(i, sha256 bs)]) ∧
          (t'.absorbed ≠ t.count → u.tracker? acc = some t') ∧
          (t'.absorbed = t.count →
            let ok := !t.failed && s.expectedOf t == some (sha256 t'.digs)
            u.intk.trackers = s.intk.trackers.filter (fun x => x.accession != t.accession) ∧
            u.intk.passes = ⟨t.accession, ok, t.version, sha256 t'.digs⟩ :: s.intk.passes.filter (fun x => x.accession != t.accession) ∧
            u.intk.dgstMiss = (if ok = true ∨ t.failed = true then s.intk.dgstMiss else bump s.intk.dgstMiss) ∧
            ∀ sh, s.image.shards[t.shard]? = some sh →
              (sh.reside = false → u.intk.resident = s.intk.resident ∧ u.intk.dgstSkip = s.intk.dgstSkip) ∧
              (sh.reside = true →
                (∀ j base, s.intk.freeEntry = some j → t.base sh.w = some base → ok = true → u.intk.resident = s.intk.resident.set j
                  (some { accession := t.accession, version := t.version, base := base, count := t.count, w := sh.w, digest := sha256 t'.digs, scrubbing := false }) ∧
                  u.intk.dgstSkip = s.intk.dgstSkip) ∧
                (s.intk.freeEntry = none ∨ t.base sh.w = none ∨ ok = false → u.intk.resident = s.intk.resident ∧
                  u.intk.dgstSkip = bump s.intk.dgstSkip)))) ∧
  (∀ (s : State) (entry : Fin 256) (ctx : BitVec 16),
    let go := s.intk.parked.filter fun w => w.ctx == ctx && s.unparked w
    let done := exec (.scrubEntryDone entry) s
    (s.intk.period ≠ 0 → s.intk.period ≤ s.intk.pitchesTo →
      (s.intk.scrubBusy = false → exec .scrubStart s = .next { s with intk := { s.intk with pitchesTo := 0, scrubNext := false, scrubBusy := s.intk.resident.any (fun x => x.isSome), resident := s.intk.resident.map fun x => x.map fun y => { y with scrubbing := true } } }) ∧
      (s.intk.scrubBusy = true → exec .scrubStart s = .next { s with intk := { s.intk with pitchesTo := 0, scrubNext := true, scrubOvr := bump s.intk.scrubOvr } })) ∧
    (s.intk.period = 0 ∨ s.intk.pitchesTo < s.intk.period → exec .scrubStart s = .next s) ∧
    (s.intk.scrubBusy = false → done = .next s) ∧
    (s.intk.scrubBusy = true → s.intk.resident[entry] = none → answers done fun u => u = { s with intk := u.intk } ∧ u.intk.scrubMiss = s.intk.scrubMiss) ∧
    (∀ e : Resident, s.intk.scrubBusy = true → s.intk.resident[entry] = some e →
      (e.scrubbing = false → done = .next s) ∧
      (e.scrubbing = true → s.residentDigest e = e.digest → answers done fun u => u = { s with intk := u.intk } ∧
        u.intk.scrubMiss = s.intk.scrubMiss ∧ (u.intk.resident[entry]).isSome = true ∧
        (s.intk.scrubNext = false → u.intk.resident = s.intk.resident.set entry (some { e with scrubbing := false }))) ∧
      (e.scrubbing = true → s.residentDigest e ≠ e.digest → answers done fun u =>
        u.mem = s.mem.poison (granules (stacksAddr e.base) (e.count * e.w)) ∧ u.intk.scrubMiss = bump s.intk.scrubMiss ∧
        u.intk.resident[entry] = none ∧ u = { s with mem := u.mem, cores := u.cores, intk := u.intk, flt := u.flt, out := u.out })) ∧
    exec (.parkedRefetch ctx) s = .next { s with intk := { s.intk with parked := s.intk.parked.filter (fun w => !go.contains w), want := s.intk.want ++ go, refetch := bump s.intk.refetch go.length } })

/-- A return segment whose data is in hand leaves as packets of at most 4,096 bytes, each awaiting its acknowledgement, or is answered
absent when it runs past the shard's end; a request past its deadline ends, counted and logged, a read with its data lost and a write as
acknowledged; an answer that comes later is counted as late; the tray host's data fills its place, and its flushing read acknowledges the
writes before it. A refresh is counted with what it delayed, its rate doubles above 85.0 °C and returns 10 ms below 83.0 °C, and the patrol
counts a corrected error and poisons a granule in uncorrectable error (R129, R221, R238, R239, R241, R246, R247, R256, R263). A command that
names nothing outstanding, or comes before its time, changes nothing. Where the manual is silent the clauses rest on the model's choices of
log entries 18, 40 and 57. -/
def Obligations.LowerTiers : Prop :=
  (∀ (s : State) (c : CoreIx) (slot : SlotIx) (x : Gang) (m : Cmd) (i : Nat × Desc) (k : Ctx) (sh : ShardEntry),
    let fd := streamD i.2.bytes
    let dst := s.locAddr c x.task fd.dst
    let body := (fd.transform x.data x.poison).flat.1
    let off := bits dst 0 40 + (match (fd.outs (gangSeg 0x40 i.2 x.index) false).head? with
      | some y => y.2.1
      | none => 0)
    let emptied := fun u : State => ∀ y, (u.core c).gang? slot = some y → y = { x with toSend := 0 }
    (s.core c).gang? slot = some x → (s.task c x.task).cmd? x.cmd = some m → m.descFor x.index = some i → s.ctx? fd.ctx = some k →
    s.image.shards[bits dst 40 16]? = some sh →
    let ready := x.settled = true ∧ s.holdsOn c x m i.2 = true ∧ addrRange dst = 4
    (ready → off + body.length ≤ sh.count * sh.w → answers (exec (.archiveReturnSend c slot) s) fun u => u.mem = s.mem ∧
      u = { s with cores := u.cores, memu := u.memu, links := u.links, fab := u.fab, out := u.out } ∧ (∀ d, d ≠ c → u.core d = s.core d) ∧
      u.memu.nextReq = s.memu.nextReq + ceilDiv body.length 4096 ∧ emptied u ∧
      (∀ j, j < ceilDiv body.length 4096 → ∃ p, u.sentOrQueued k.group (ctxSub fd.ctx) p ∧ p.typ = 0x14 ∧ p.vc = 5 ∧ p.ctx = fd.ctx ∧
        p.body = slice body (4096 * j) 4096) ∧
      (u.task c x.task).cmds = (s.task c x.task).cmds.map (fun y => if y.id == x.cmd then { y with acks := y.acks + ceilDiv body.length 4096 } else y)) ∧
    (ready → sh.count * sh.w < off + body.length → answers (exec (.archiveReturnSend c slot) s) fun u => onlyCore c s u ∧ emptied u) ∧
    (¬ ready → exec (.archiveReturnSend c slot) s = .next s)) ∧
  (∀ (s : State) (c : CoreIx) (slot : SlotIx), (s.core c).gang? slot = none → exec (.archiveReturnSend c slot) s = .next s) ∧
  (∀ (s : State) (id : Nat) (port : PortIx) (bs : List Byte) (poison : Bool),
    let hostRead := (s.req? id).filter fun y => y.kind == .hostRead && y.port == port.val
    let flush := (s.req? id).filter fun y => y.kind == .hostFlush && y.port == port.val
    let late := s.memu.ended.contains id
    let lateNow := { s with memu := { s.memu with late := bump s.memu.late } }
    let stray := fun (o : Host.Outcome State Fault Refusal) => o = .next (if late = true then lateNow else s)
    (∀ r : Req,
      let ended := fun u : State => u.memu.ended = r.id :: s.memu.ended ∧ u.memu.reqs = s.memu.reqs.filter fun y => y.id != r.id
      let acked := fun u : State => ended u ∧ u = { s with cores := u.cores, grd := u.grd, memu := u.memu, flt := u.flt, out := u.out } ∧
        (r.kind ≠ .collAck → u.grd = s.grd ∧ (∀ d, d ≠ r.core → u.core d = s.core d) ∧
          (u.task r.core r.task).cmds = (s.task r.core r.task).cmds.map (fun y => if y.id == r.cmd then { y with acks := y.acks - 1 } else y)) ∧
        (r.kind = .collAck → u.cores = s.cores ∧ u.grd = { s.grd with chunks := s.grd.chunks.map fun x =>
          if x.ctx == r.ctx && x.nth == r.nth && x.index == r.off then { x with acks := x.acks - 1 } else x })
      let waits := ∃ x, (s.core r.core).gang? r.slot = some x ∧ x.task = r.task ∧ x.cmd = r.cmd
      let fed := fun (v : State) (f : Gang → Gang) => v = { s with cores := v.cores, memu := v.memu, flt := v.flt, out := v.out } ∧
        (waits → (v.core r.core).gangs = (s.core r.core).gangs.map fun y => if y.slot == r.slot then f y else y) ∧
        (¬ waits → v.cores = s.cores) ∧ ∀ d, d ≠ r.core → v.core d = s.core d
      let resumed := fun (u v : State) => u = v.resumeEvery ∧ ((∀ c, ∀ y ∈ (v.core c).gangs, y.reads = []) → u = v)
      let arrived := fun y : Gang => y.arrive (r.off + r.got) bs poison
      let timedOut := fun (u : State) => u.memu.timeouts = bump s.memu.timeouts
      (id < 2 ^ 32 → (s.req? id).filter (fun y => y.kind.read) = some r →
        (r.deadline ≤ s.now → answers (exec (.requestTimeout id) s) fun u => ∃ v, resumed u v ∧ timedOut v ∧ ended v ∧
          fed v (fun y => y.lose (r.off + r.got) (r.len - r.got)) ∧ ∃ e ∈ v.flt.log, e.code = faultCode 1 2 2) ∧
        (s.now < r.deadline → exec (.requestTimeout id) s = .next s)) ∧
      ((s.req? id).filter (fun y => !y.kind.read) = some r →
        (r.deadline ≤ s.now → r.parked = false → answers (exec (.ackTimeout id) s) fun u => acked u ∧ timedOut u ∧
          ∃ e ∈ u.flt.log, e.code = faultCode 1 2 3) ∧
        (s.now < r.deadline ∨ r.parked = true → exec (.ackTimeout id) s = .next s)) ∧
      (flush = some r → answers (exec (.hostFlushReadDone port id) s) acked) ∧
      (hostRead = some r →
        (r.got + bs.length < r.len → answers (exec (.hostReadCompletion port id poison bs) s) fun u => fed u arrived ∧
          u.memu = { s.memu with reqs := s.memu.reqs.map fun y => if y.id == r.id then { y with got := y.got + bs.length } else y }) ∧
        (r.got + bs.length = r.len → answers (exec (.hostReadCompletion port id poison bs) s) fun u => ∃ v, resumed u v ∧ fed v arrived ∧ ended v) ∧
        (r.len < r.got + bs.length → exec (.hostReadCompletion port id poison bs) s = .next s))) ∧
    (∀ a : ArchReq, s.arch? id = some a →
      (a.deadline ≤ s.now → answers (exec (.requestTimeout (2 ^ 32 + id)) s) fun u => u.memu.timeouts = bump s.memu.timeouts ∧
        u.intk.ended = a.reqId :: s.intk.ended ∧ u.intk.reqs = s.intk.reqs.filter fun y => y.reqId != a.reqId) ∧
      (s.now < a.deadline → exec (.requestTimeout (2 ^ 32 + id)) s = .next s)) ∧
    (s.arch? id = none → exec (.requestTimeout (2 ^ 32 + id)) s = .next s) ∧
    (id < 2 ^ 32 → (s.req? id).filter (fun y => y.kind.read) = none → exec (.requestTimeout id) s = .next s) ∧
    ((s.req? id).filter (fun y => !y.kind.read) = none → exec (.ackTimeout id) s = .next s) ∧
    (flush = none → stray (exec (.hostFlushReadDone port id) s)) ∧ (hostRead = none → stray (exec (.hostReadCompletion port id poison bs) s)) ∧
    exec (.lateResponseDiscard id) s = .next (if late = true ∨ s.intk.ended.any (fun x => x.toNat + 2 ^ 32 == id) = true then lateNow else s)) ∧
  (∀ (s : State) (f : FieldIx) (n : Nat) (addr : W64) (ecc : BitVec 2),
    let g := addrLocal addr.toNat / 64
    let cool := ∃ t, (s.field f).stkCool = some t ∧ t + 10000000 ≤ s.now
    let patrol := exec (.patrolScrubRead addr ecc) s
    ((s.dom (vmif f)).isOn = true → answers (exec (.stackRefresh f n) s) fun u => onlyField f s u ∧
      u.field f = { s.field f with refreshes := (s.field f).refreshes + 1, refDelay := bump (s.field f).refDelay n }) ∧
    ((s.dom (vmif f)).isOn = false → exec (.stackRefresh f n) s = .next s) ∧
    (340 < (s.field f).stkTemp → answers (exec (.refreshRateChange f) s) fun u => onlyField f s u ∧ u.field f = { s.field f with double := true }) ∧
    ((s.field f).stkTemp ≤ 340 → cool → answers (exec (.refreshRateChange f) s) fun u => onlyField f s u ∧ u.field f = { s.field f with double := false }) ∧
    ((s.field f).stkTemp ≤ 340 → ¬ cool → exec (.refreshRateChange f) s = .next s) ∧
    (place (addrLocal addr.toNat) = .stacks n → (s.dom (vmif (stacksField n))).isOn = true →
      (ecc = 0 → patrol = .next s) ∧
      (ecc = 1 → answers patrol fun u => u = { s with memu := u.memu, nvm := u.nvm, flt := u.flt, out := u.out } ∧
        u.memu.eccCorr = bump s.memu.eccCorr ∧ u.memu.eccUncorr = s.memu.eccUncorr) ∧
      (1 < ecc.toNat → answers patrol fun u => u.mem = s.mem.poison [g] ∧ (∀ c, c ≠ homeCore (64 * g) → u.core c = s.core c) ∧
        u = { s with mem := u.mem, cores := u.cores, memu := u.memu, nvm := u.nvm, flt := u.flt, out := u.out } ∧
        u.memu.eccUncorr = bump s.memu.eccUncorr)) ∧
    (place (addrLocal addr.toNat) = .stacks n → (s.dom (vmif (stacksField n))).isOn = false → patrol = .next s) ∧
    ((∀ o, place (addrLocal addr.toNat) ≠ .stacks o) → patrol = .next s))

/-- A collective's data starts once every reduction core of its group has issued it, its fixed cost has passed and its fused list has come to
it, and not before; an expert exchange first reads its tables; one that has started sends on what waits. A whole landed chunk is added in
place, storing only its bytes, and one whose CRC fails is counted and flows on as poisoned; a chunk leaves, header first, with its credits
spent, when they are held, and waits otherwise; its landing slots are free once the successor has acknowledged it (R133, R284, R286, R287,
R290 to R293, R299). A command that names no such chunk or descriptor changes nothing. Where the manual is silent the clauses rest on the
model's choices of log entry 21. -/
def Obligations.TheGradientChain : Prop :=
  (∀ (s : State) (c : CoreIx) (slot : SlotIx),
    let w := s.sizeRuns
    let start := exec (.collectiveStart c slot) s
    w = { s with cores := w.cores, grd := w.grd } ∧
    (w.runOf c slot = none ∨ (w.core c).gang? slot = none → start = .next w) ∧
    ∀ (r : CollRun) (x : Gang), w.runOf c slot = some r → (w.core c).gang? slot = some x →
      (r.started = true → start = .next (w.pumpRun c slot)) ∧
      (r.started = false → w.collGroup r.group = none → start = .next w) ∧
      ∀ e : GroupEntry, r.started = false → w.collGroup r.group = some e →
        let reads := (collD r.desc).expert = true ∧ r.phase < 2
        let due := r.known = true ∧ w.allIssued e r.nth = true ∧ w.costPaid r e = true ∧ w.inListOrder r x = true
        (x.await = 1 → reads → answers start fun u => u.fields = s.fields ∧ u.glb = s.glb ∧ u.pit = s.pit ∧ u = w.readOn r e x) ∧
        (x.await = 1 → ¬ reads → due → answers start fun u => (∀ z, u.runOf c slot = some z → z.started = true) ∧
          u.fields = s.fields ∧ u.glb = s.glb ∧ u.pit = s.pit) ∧
        (x.await ≠ 1 ∨ (¬ reads ∧ ¬ due) → start = .next w)) ∧
  (∀ (s : State) (c : CoreIx) (slot : SlotIx) (n : Nat) (errs : List AddErr),
    let landed := exec (.chainChunkLanded c slot n errs) s
    let forward := exec (.chainChunkForward c slot n) s
    let release := exec (.chainChunkRelease c slot n) s
    (s.runAt c slot 4 = none → landed = .next s ∧ forward = .next s ∧ release = .next s) ∧
    ∀ (r : CollRun) (e : GroupEntry) (x : Gang), s.runAt c slot 4 = some (r, e, x) →
      let d := collD r.desc
      let sp := chunkSpan r ((x.contribution d).length * d.width) n
      let ne := chunkElems d.width sp
      let mine := s.servesChunk r e n
      let noChunk := s.chunkOf r n = none
      (mine = false → forward = .next s ∧ landed = .next s ∧ release = .next s) ∧ (noChunk → landed = .next s ∧ release = .next s) ∧
      (∀ y : Chunk, s.chunkOf r n = some y → mine = true →
        let waits := s.grd.first = true ∨ y.partly = true ∨ y.added = true
        let good := y.failed = true ∨ y.crc ^^^ (2 ^ 64 - 1) = fieldAt y.header 56 8
        (waits → landed = .next s) ∧
        (¬ waits → y.addr = none → answers landed fun u => u.mem = s.mem ∧ u.cores = s.cores) ∧
        (∀ a, ¬ waits → y.addr = some a → good →
          (s.landedElems r x y a = none → landed = .next s) ∧
          (∀ es, s.landedElems r x y a = some es → s.mem.wf = true → answers landed fun u =>
            let sum := retried (errs.filter fun z => z.unit == n) fun er => addRuns d.wfmt er ne.1 es (chunkPart r x n)
            let out := slice (elemBytesOf d.width sum.elems).1 ne.2.2 sp.2
            (∀ b, b < a ∨ a + out.length ≤ b → u.mem.byte b = s.mem.byte b) ∧ (∀ i (h : i < out.length), u.mem.byte (a + i) = out[i]) ∧
            (sum.poison = true → 0 < sp.2 → ∀ g, a < 64 * g + 64 → 64 * g < a + sp.2 → u.mem.poisoned g = true) ∧
            (u.core c).cnt.resMiss = bump (s.core c).cnt.resMiss sum.fails ∧ u.grd.chunksIn = bump s.grd.chunksIn ∧
            (∀ k, k ≠ c → u.core k = s.core k) ∧ ∃ z, u.chunkOf r n = some z ∧ z.added = true)) ∧
        (∀ a, ¬ waits → y.addr = some a → ¬ good → answers landed fun u => u.grd.chunkCrc = bump s.grd.chunkCrc ∧
          ∃ z, u.chunkOf r n = some z ∧ z.poison = true)) ∧
      (∀ (body : List Byte) (bad : List (Nat × Nat)) (q : Ctx), mine = true → r.sent.contains n = false → s.ctx? (chunkCtx d n) = some q →
        let sends := fun (u : State) => u.grd.chunksOut = bump s.grd.chunksOut ∧ u.mem = s.mem ∧ u.cores = s.cores ∧
          (∀ z, u.runOf c slot = some z → n ∈ z.sent) ∧ (∃ k, u.ctx? (chunkCtx d n) = some k ∧ k.held = q.held - d.chunkCredits) ∧
          (∃ h, u.sentOrQueued q.group (ctxSub (chunkCtx d n)) h ∧ h.typ = 0x12 ∧ h.vc = 3 ∧ h.ctx = chunkCtx d n ∧
            h.uhdr = s.chunkHeader r e n body (!bad.isEmpty)) ∧
          ∀ i ∈ pieces 0 body.length bad, ∃ p, u.sentOrQueued q.group (ctxSub (chunkCtx d n)) p ∧ p.typ = 1 ∧ p.vc = 3 ∧
            p.ctx = chunkCtx d n ∧ p.body = slice body i.1 i.2.1 ∧ p.status = if i.2.2 then 1 else 0
        (s.grd.first = true → firstPart r x n = (body, bad) →
          (d.chunkCredits ≤ q.held → answers forward sends) ∧ (q.held < d.chunkCredits → forward = .next s)) ∧
        (∀ y a, s.grd.first = false → s.chunkOf r n = some y → y.addr = some a → y.added = true → y.sent = false →
          s.view a y.len = body → s.mem.poisonIn a y.len = bad →
          (d.chunkCredits ≤ q.held → answers forward sends) ∧
          (q.held < d.chunkCredits → forward = .next { s with freeCtr := s.freeCtr + y.len }))) ∧
      (r.sent.contains n = true → forward = .next s) ∧
      (s.grd.first = false → noChunk ∨ (∃ y, s.chunkOf r n = some y ∧ (y.added = false ∨ y.sent = true)) → forward = .next s) ∧
      (∀ y : Chunk, s.chunkOf r n = some y → mine = true →
        (y.sent = true → y.acks = 0 → answers release fun u => u.grd.chunks = s.grd.chunks.erase y ∧ u.mem = s.mem ∧
          (∀ z, u.runOf c slot = some z → z.steps = r.steps - 1) ∧ (∀ k, k ≠ c → u.core k = s.core k) ∧
          (s.grd.first = false → ((u.task c r.task).landing[d.dst.car]).released = ((s.task c r.task).landing[d.dst.car]).released + d.chunkCredits)) ∧
        (y.sent = false ∨ y.acks ≠ 0 → release = .next s)))

/-- An owner that holds every block of a reduce-scatter adds them unit by unit, and its descriptor completes unless data still waits; a
dispatch or a combine takes its one step, with the rows that do not fit counted as dropped or as written zero. The warden's oldest LEDGER
request gets its signed record in its buffer and no byte elsewhere, and commits when it asks to and may, or is refused with its buffer
poisoned; its gang has what it waited for. A state skew is counted and logged, and one found again calls for service (R164, R298, R301, R302,
R337 to R342, R430, R478, R480). A command for which nothing waits changes nothing. Where the manual is silent the clauses rest on the
model's choices of log entries 21 and 22. -/
def Obligations.ScattersExpertsAndLedger : Prop :=
  (∀ (s : State) (c : CoreIx) (slot : SlotIx) (errs : List AddErr),
    let stepped := fun (u : State) => ∀ z, u.runOf c slot = some z → z.steps = 0
    (s.runAt c slot 3 = none → exec (.reduceScatterAdd c slot errs) s = .next s) ∧
    (s.runAt c slot 5 = none → exec (.expertDispatchSend c slot) s = .next s) ∧
    (s.runAt c slot 6 = none → exec (.expertCombineReturn c slot) s = .next s) ∧
    ∀ (r : CollRun) (e : GroupEntry) (x : Gang),
      let dropped := (s.droppedEntries e (s.rankOf e c) r.counts).length
      (s.runAt c slot 3 = some (r, e, x) →
        (r.wants.all (fun w => w.left == 0) = true → answers (exec (.reduceScatterAdd c slot errs) s) fun u =>
          u.mem = ((s.unitsOf (collD r.desc) e (s.rankOf e c) r.base).foldl (fun v i => v.scatterUnit r e errs i) s).mem ∧
          stepped u ∧ (r.todo = [] → u.runOf c slot = none) ∧ u.fields = s.fields ∧ u.glb = s.glb ∧ u.pit = s.pit) ∧
        (r.wants.all (fun w => w.left == 0) = false → exec (.reduceScatterAdd c slot errs) s = .next s)) ∧
      (s.runAt c slot 5 = some (r, e, x) → answers (exec (.expertDispatchSend c slot) s) fun u =>
        stepped u ∧ u.grd.drop = bump s.grd.drop dropped ∧ u.grd.combZero = s.grd.combZero ∧ u.fields = s.fields ∧ u.glb = s.glb ∧ u.pit = s.pit) ∧
      (s.runAt c slot 6 = some (r, e, x) → answers (exec (.expertCombineReturn c slot) s) fun u =>
        stepped u ∧ u.grd.combZero = bump s.grd.combZero dropped ∧ u.grd.drop = s.grd.drop ∧ u.fields = s.fields ∧ u.glb = s.glb ∧ u.pit = s.pit)) ∧
  (∀ (s : State) (l : LedgerReq) (rest : List LedgerReq),
    let record := s.signedRecord l
    let a := addrLocal l.buf.toNat
    let asked := bit (fieldAt l.block 4 1) 0
    let told := fun (u : State) => ∀ x, (s.core l.core).gang? l.slot = some x → x.task = l.task → x.cmd = l.cmd →
      (u.core l.core).gangs = (s.core l.core).gangs.map fun y => if y.slot == l.slot then { y with await := 0 } else y
    (s.aud.pend = [] ∨ s.glb.wardenUp = false → exec .ledgerRecordWritten s = .next s) ∧
    (s.aud.pend = l :: rest → s.glb.wardenUp = true →
      (l.err = 0 → s.mem.wf = true → answers (exec .ledgerRecordWritten s) fun u => u.aud.pend = rest ∧ u.aud.ok = bump s.aud.ok ∧
        (∀ b, b < a ∨ a + record.length ≤ b → u.mem.byte b = s.mem.byte b) ∧ (∀ i (h : i < record.length), u.mem.byte (a + i) = record[i]) ∧
        (asked = true → s.commits l = true → u.aud.cseq = l.seq ∧ u.aud.pnum = BitVec.ofNat 32 l.pnum ∧ u.aud.refused = s.aud.refused ∧
          ∀ k, (ledgerLabels l.block).getLast? = some k → u.aud.label = BitVec.ofNat 32 k ∧ u.aud.cairn = BitVec.ofNat 128 (cairnSum l.cairns k)) ∧
        (asked = true → s.commits l = false → u.aud.cseq = s.aud.cseq ∧ u.aud.refused = bump s.aud.refused) ∧
        (asked = false → u.aud.cseq = s.aud.cseq ∧ u.aud.refused = s.aud.refused) ∧
        told u ∧ u = { s with mem := u.mem, cores := u.cores, aud := u.aud, nvm := u.nvm, freeCtr := u.freeCtr }) ∧
      (l.err ≠ 0 → answers (exec .ledgerRecordWritten s) fun u => u.aud.pend = rest ∧ u.mem = s.mem.poison [a / 64] ∧
        u.aud.lastErr = l.err ∧ u.aud.bad = bump s.aud.bad ∧ told u ∧ (∃ x ∈ u.flt.log, x.code = faultCode 0 0xA l.err.toNat) ∧
        u = { s with mem := u.mem, cores := u.cores, aud := u.aud, flt := u.flt, out := u.out, freeCtr := u.freeCtr }))) ∧
  (∀ (s : State) (kind : Byte) (again : Bool),
    (s.glb.wardenUp = true → kind ≠ 0 → kind.toNat ≤ 5 → answers (exec (.stateSkew kind again) s) fun u =>
      u = { s with flt := u.flt, pwr := u.pwr, out := u.out } ∧ u.flt.skew = bump s.flt.skew ∧
      u.pwr = { s.pwr with skew := if kind = 1 then bump s.pwr.skew else s.pwr.skew } ∧
      (again = false → ∃ x ∈ u.flt.log, x.code = faultCode 0 0xC kind.toNat) ∧
      (again = true → u.flt.service.getLsbD 7 = true ∧ ∃ x ∈ u.flt.log, x.code = faultCode 5 0xC 6)) ∧
    (s.glb.wardenUp = false ∨ kind = 0 ∨ 5 < kind.toNat → exec (.stateSkew kind again) s = .next s))

/-! ## Power, start-up, sessions -/

/-- A request of a path that may make it asks a domain on or off: it waits its turn, turns a sequence under way or a fenced domain back, or
withdraws the opposite request; it is refused for another path and counted as refused where R406 forbids it or no such domain exists. Of the
waiting sequences the oldest starts while fewer than four run, and the content of a domain that goes off is lost; stages close and open in
turn, 2 µs apart; a rail regulated 6 µs after its last stage initialises, a VLNK domain's sublinks train; a ready domain is on behind its
fence with its cores reset; a power-down ends off 1 µs after its last stage; the opposite request takes a sequence back, counted (R244, R406
to R411, Sequence PWR-1). A command before its time changes nothing. Where the manual is silent the clauses rest on the model's choices of
log entries 45 and 58. -/
def Obligations.DomainSequences : Prop :=
  (∀ (s : State) (p : Path) (n : BitVec 7),
    let counted := { s with pwr := { s.pwr with refused := bump s.pwr.refused } }
    (s.pathOpen p = true → s.wardenTakes p = true → 88 ≤ n.toNat →
      exec (.domainOnRequest p n) s = .next counted ∧ exec (.domainOffRequest p n) s = .next counted) ∧
    (s.pathOpen p = true → s.wardenTakes p = false → exec (.domainOnRequest p n) s = .next (s.refuse p domReq) ∧
      exec (.domainOffRequest p n) s = .next (s.refuse p domReq)) ∧
    (s.pathOpen p = false → exec (.domainOnRequest p n) s = .next s ∧ exec (.domainOffRequest p n) s = .next s) ∧
    ∀ d : DomIx, s.pathOpen p = true → s.wardenTakes p = true → n.toNat = d.val →
      let k := s.dom d
      let becomes := fun (o : Host.Outcome State Fault Refusal) (x : Domain) (wait : List (DomIx × Bool)) =>
        answers o fun u => onlyDom d s u ∧ u.dom d = x ∧ u.pwr.wait = wait
      let left := s.pwr.wait.filter fun x => x.1 != d
      (s.mayPowerUp d = false → exec (.domainOnRequest p n) s = .next counted) ∧
      (s.mayPowerUp d = true →
        (k.st = .off → k.queued = none → becomes (exec (.domainOnRequest p n) s) { k with queued := some true } (s.pwr.wait ++ [(d, true)])) ∧
        (k.st = .off → k.queued ≠ none → exec (.domainOnRequest p n) s = .next s) ∧
        (k.st = .switchingOff ∨ (k.st = .fenced ∧ k.queued = none) → becomes (exec (.domainOnRequest p n) s) { k with onReq := true } s.pwr.wait) ∧
        (k.st = .fenced → k.queued ≠ none → becomes (exec (.domainOnRequest p n) s)
          { k with st := .onFenced, onReq := false, edge := s.gridNow, queued := none } left) ∧
        (k.st = .on ∨ k.st = .onFenced ∨ k.st = .switchingOn ∨ k.st = .initialising →
          becomes (exec (.domainOnRequest p n) s) { k with offReq := false } s.pwr.wait)) ∧
      (s.mayPowerDown d = false → exec (.domainOffRequest p n) s = .next counted) ∧
      (s.mayPowerDown d = true →
        (k.st = .off → k.queued ≠ none → becomes (exec (.domainOffRequest p n) s) { k with queued := none } left) ∧
        (k.st = .off → k.queued = none → exec (.domainOffRequest p n) s = .next s) ∧
        (k.st = .switchingOff ∨ k.st = .fenced → becomes (exec (.domainOffRequest p n) s) { k with onReq := false } s.pwr.wait) ∧
        (k.st = .on ∨ k.st = .onFenced ∨ k.st = .switchingOn ∨ k.st = .initialising → becomes (exec (.domainOffRequest p n) s)
          { k with offReq := true, edge := if k.offReq = true then k.edge else s.gridNow } s.pwr.wait))) ∧
  (∀ (s : State) (d : DomIx),
    let k := s.dom d
    let others := fun u : State => ∀ e, e ≠ d → u.dom e = s.dom e
    let reset := fun (u : State) (f : FieldIx) => u = { s with pwr := u.pwr, cores := u.cores, grd := u.grd } ∧
      ∀ c : CoreIx, u.core c = if coreField c = f then (s.core c).powerReset else s.core c
    let sequences := s.sequences < 4
    let start := exec .domainSequenceStart s
    (s.pwr.wait = [] ∨ ¬ sequences → start = .next s) ∧
    (∀ rest, sequences → s.pwr.wait = (d, true) :: rest → answers start fun u => u = { s with pwr := u.pwr } ∧ others u ∧
      u.dom d = { k with queued := none, st := .switchingOn, stage := 1, counts := true, stageAt := s.now } ∧
      u.pwr.wait = s.pwr.wait.filter (fun x => x.1 != d)) ∧
    (∀ rest, sequences → s.pwr.wait = (d, false) :: rest → answers start fun u => others u ∧
      u.dom d = { k with queued := none, st := .switchingOff, stage := 7, counts := true, onReq := false, stageAt := s.now } ∧
      u.pwr.wait = s.pwr.wait.filter (fun x => x.1 != d) ∧
      (∀ f, domKind d = .vlog f → reset u f) ∧
      (∀ b, domKind d = .varr b → u = { s with pwr := u.pwr, mem := u.mem } ∧ u.mem = s.mem.loseArrays d) ∧
      (∀ b, domKind d = .vmif b → u = { s with pwr := u.pwr, mem := u.mem } ∧ u.mem = s.mem.loseStacks d) ∧
      (∀ e, domKind d = .vlnk e → u = { s with pwr := u.pwr, links := u.links } ∧
        ∀ (g : GroupIx) (b : SubIx), u.sub g b = if groupEdge g = e then (s.sub g b).unpower else s.sub g b)) ∧
    (let up := k.st = .switchingOn ∧ k.offReq = false ∧ k.stage < 8 ∧ k.stageAt + 2000 ≤ s.now
     let down := k.st = .switchingOff ∧ k.onReq = false ∧ k.stage ≠ 0 ∧ k.stageAt + 2000 ≤ s.now
     (up → answers (exec (.domainStage d) s) fun u => onlyDom d s u ∧ u.dom d = { k with stage := k.stage + 1, stageAt := s.now }) ∧
     (down → answers (exec (.domainStage d) s) fun u => onlyDom d s u ∧ u.dom d = { k with stage := k.stage - 1, stageAt := s.now }) ∧
     (¬ up → ¬ down → exec (.domainStage d) s = .next s)) ∧
    (let due := k.st = .switchingOn ∧ k.stage = 8 ∧ k.offReq = false ∧ k.stageAt + 6000 ≤ s.now
     (due → isVlnk d = false → answers (exec (.domainRegulated d) s) fun u => onlyDom d s u ∧
       u.dom d = { k with st := .initialising, counts := false, stageAt := s.now }) ∧
     (due → isVlnk d = true → answers (exec (.domainRegulated d) s) fun u => u = { s with pwr := u.pwr, links := u.links } ∧ others u ∧
       u.dom d = { k with st := .onFenced, counts := false, seq := k.seq + 1, edge := s.gridNow } ∧
       ∀ (g : GroupIx) (b : SubIx), vlnk g = d → (s.group g).dis.getLsbD b.val = false →
         (u.sub g b).st = if s.attached g b = true then .training else .down) ∧
     (¬ due → exec (.domainRegulated d) s = .next s)) ∧
    (let due := k.st = .initialising ∧ k.offReq = false ∧ k.stageAt + initTime d ≤ s.now
     (due → answers (exec (.domainReady d) s) fun u => others u ∧ u.dom d = { k with st := .onFenced, seq := k.seq + 1, edge := s.gridNow } ∧
       (∀ f, domKind d = .vlog f → reset u f) ∧
       (∀ b, domKind d = .varr b → u = { s with pwr := u.pwr, mem := u.mem } ∧ u.mem = s.mem.loseArrays d) ∧
       (∀ b, domKind d = .vmif b → u = { s with pwr := u.pwr, mem := u.mem } ∧ u.mem = s.mem.loseStacks d)) ∧
     (¬ due → exec (.domainReady d) s = .next s)) ∧
    (let due := k.st = .switchingOff ∧ k.stage = 0 ∧ k.onReq = false ∧ k.stageAt + 1000 ≤ s.now
     (due → answers (exec (.domainOff d) s) fun u => onlyDom d s u ∧ u.dom d = { k with st := .off, counts := false, seq := k.seq + 1 }) ∧
     (¬ due → exec (.domainOff d) s = .next s)) ∧
    (let aged := k.stageAt + 2000 ≤ s.now
     let fromOn := aged ∧ k.st = .switchingOn ∧ k.offReq = true
     let fromInit := aged ∧ k.st = .initialising ∧ k.offReq = true ∧ sequences
     let fromOff := aged ∧ k.st = .switchingOff ∧ k.onReq = true
     let turned := fun (x : Domain) => answers (exec (.domainReversal d) s) fun u => onlyDom d s u ∧ u.dom d = x ∧
       u.pwr.reverse = bump s.pwr.reverse
     (fromOn → turned { k with st := .switchingOff, stage := k.stage - 1, offReq := false, stageAt := s.now }) ∧
     (fromInit → turned { k with st := .switchingOff, stage := 7, offReq := false, counts := true, stageAt := s.now }) ∧
     (fromOff → turned { k with st := .switchingOn, stage := k.stage + 1, onReq := false, stageAt := s.now }) ∧
     (¬ fromOn → ¬ fromInit → ¬ fromOff → exec (.domainReversal d) s = .next s)))

/-- At a boundary after the request the fence of an on domain asked off rises; at the next one power-down waits its turn, or an on request
lowers the fence again; a ready domain's fence lowers at the first boundary, and what waited on the mesh and on the rack goes on. More than
1 µs of clamping lowers a field's ceiling, 1,000 µs without raises it, a lost phase applies its ceiling to the fields it feeds; the governor
lowers the demanded field at risk of the fast limit, holds the floors at risk of the slow one, and raises the lowest after 50 ticks to spare
(R412 to R414, R417 to R420, R422). A command before its time changes nothing. Where the manual is silent the clauses rest on the model's
choices of log entries 44 and 45. -/
def Obligations.FencesAndCeilings : Prop :=
  (∀ (s : State) (d : DomIx),
    let k := s.dom d
    let others := fun u : State => ∀ e, e ≠ d → u.dom e = s.dom e
    let passed := s.gridNow ≠ k.edge
    let lowered := fun (u : State) => u.dom d = { k with st := .on, onReq := false } ∧ others u ∧
      u.mesh = s.mesh ++ s.held.map (fun p => { pkt := p, at_ := p.srcField }) ∧ u.held = [] ∧
      (∀ j x, u.ctx? j = some x → (∃ y, s.ctx? j = some y) → x.refusedParked = false) ∧
      u = { s with pwr := u.pwr, ctl := u.ctl, mesh := u.mesh, held := u.held, fab := u.fab, links := u.links, flt := u.flt, out := u.out }
    let raises := k.isOn = true ∧ k.offReq = true ∧ passed
    let cuts := k.st = .fenced ∧ k.queued = none ∧ passed
    let lowers := k.st = .onFenced ∧ k.offReq = false ∧ passed
    (raises → answers (exec (.fenceRaise d) s) fun u => u.dom d = { k with st := .fenced, offReq := false, edge := s.gridNow } ∧ others u ∧
      u = { s with pwr := u.pwr, ctl := u.ctl, flt := u.flt, out := u.out }) ∧
    (¬ raises → exec (.fenceRaise d) s = .next s) ∧
    (cuts → k.onReq = false → answers (exec (.powerDownStart d) s) fun u => u.dom d = { k with queued := some false } ∧ others u ∧
      u.pwr.wait = s.pwr.wait ++ [(d, false)] ∧ u = { s with pwr := u.pwr, links := u.links } ∧
      (isVlnk d = false → u.links = s.links) ∧
      (isVlnk d = true → ∀ g b, vlnk g = d → u.sub g b = (s.sub g b).unpower)) ∧
    (cuts → k.onReq = true → answers (exec (.powerDownStart d) s) lowered) ∧
    (¬ cuts → exec (.powerDownStart d) s = .next s) ∧
    (lowers → answers (exec (.fenceLower d) s) lowered) ∧
    (¬ lowers → exec (.fenceLower d) s = .next s)) ∧
  (∀ (s : State) (d : DomIx) (f : FieldIx) (ns w10 w1 : Nat),
    let k := s.field f
    let acts := (s.now, ns) :: k.clampActs.filter fun x => decide (s.now < x.1 + 20000)
    let n := max 4 (k.zoneCeil - 1)
    let lim := sustainW s.cfg.active.budget
    let ceiling := fun (h : FieldIx) (u : State) => (∀ i, i ≠ h → u.field i = s.field i) ∧ (u.field h).zoneCeil = u.zoneCeilOf h
    let raised := k.clampCeil < s.zonePhaseCeil (vlog f) ∧ k.clampAt + 1000000 ≤ s.now
    let tick := exec (.governorTick w10 w1 f) s
    let held := { s with pwr := { s.pwr with govHold := 0 } }
    let lowered := answers tick fun u => ceiling f u ∧ (u.field f).govCeil = n ∧ u.cores = s.cores ∧
      u.pwr = { s.pwr with govHold := 0, policy := if s.floorsAbove f n = [] then s.pwr.policy else bump s.pwr.policy }
    let spare := 100 * w10 ≤ 95 * 38000 ∧ 100 * w1 ≤ 95 * lim
    (1000 < clampTotal s.now acts → answers (exec (.droopClamp f ns) s) fun u => u = { s with fields := u.fields, flt := u.flt, out := u.out } ∧
      ceiling f u ∧ (u.field f).clampCeil = max 4 (min k.clampCeil (s.zonePhaseCeil (vlog f)) - 1) ∧ (u.field f).clampAt = s.now ∧
      (u.field f).clampActs = []) ∧
    (clampTotal s.now acts ≤ 1000 → answers (exec (.droopClamp f ns) s) fun u => onlyField f s u ∧
      u.field f = { k with clampAt := s.now, clampActs := acts }) ∧
    (raised → answers (exec (.clampCeilingRaise f) s) fun u => u = { s with fields := u.fields, flt := u.flt, out := u.out } ∧ ceiling f u ∧
      (u.field f).clampCeil = k.clampCeil + 1 ∧ (u.field f).clampAt = s.now) ∧
    (¬ raised → exec (.clampCeilingRaise f) s = .next s) ∧
    (answers (exec (.phaseFault d) s) fun u => (∀ e, e ≠ d → u.dom e = s.dom e) ∧
      u.dom d = { s.dom d with lostPh := min (zonePhases d) ((s.dom d).lostPh + 1) } ∧
      (feeds d f = true → (u.field f).zoneCeil = u.zoneCeilOf f) ∧ (feeds d f = false → u.field f = s.field f) ∧
      u = { s with pwr := u.pwr, fields := u.fields, flt := u.flt, out := u.out }) ∧
    (38000 ≤ w10 → lowered) ∧
    (w10 < 38000 → lim ≤ w1 → s.floorsAbove f n = [] → lowered) ∧
    (w10 < 38000 → lim ≤ w1 → s.floorsAbove f n ≠ [] → tick = .next held) ∧
    (spare → s.pwr.govHold + 1 < 50 → tick = .next { s with pwr := { s.pwr with govHold := s.pwr.govHold + 1 } }) ∧
    (spare → 50 ≤ s.pwr.govHold + 1 → s.govLowest = none → tick = .next held) ∧
    (∀ h, spare → 50 ≤ s.pwr.govHold + 1 → s.govLowest = some h → answers tick fun u => ceiling h u ∧
      (u.field h).govCeil = (s.field h).govCeil + 1 ∧ u.pwr = held.pwr) ∧
    (w10 < 38000 → w1 < lim → ¬ spare → tick = .next held))

/-- A sensor's reading is taken and the timers of R96 to R98 follow it; one outside −20 °C to 150 °C, or one that has stood still for 1 s
while its core's level changed, marks the sensor failed and logs it, and a core with a second failed sensor is held at level 4. At a limit
of R426 the module shuts down: its rails open and what they held is lost, its run ends, its sublinks go down, the cause is recorded,
THERMTRIP_N falls and start-up waits 60 s, or 1 s after the input; below the limits, and while the rails are open, nothing happens (R423,
R424, R426 to R428). Where the manual is silent the clauses rest on the model's choices of log entries 44 and 45. -/
def Obligations.SensorsAndShutdown : Prop :=
  (∀ (s : State) (c : CoreIx) (i : Fin 4) (f : FieldIx) (x : Int),
    let z := (s.core c).sensors[i]
    let sense := exec (.sensorRead (.core c i) x) s
    let broken := senseBad x = true ∨ senseStuck s.now z x (s.core c).levelAt = true
    (z.failed = true → sense = .next s) ∧
    (z.failed = false → ¬ broken → answers sense fun u => onlyCore c s u ∧ u.core c = Core.heat { s.core c with
        sensors := (s.core c).sensors.set i { z with reading := x, changed := if z.reading = x then z.changed else s.now } } s.now ∧
      ((u.core c).coolSince.isSome = true ↔ (u.core c).hot < coolLimit) ∧
      ((u.core c).hotSince.isSome = true ↔ hotLimit ≤ (u.core c).hot ∧ (u.core c).therm = (u.core c).floor)) ∧
    (z.failed = false → broken → answers sense fun u => ((u.core c).sensors[i]).failed = true ∧
      (∀ d, d ≠ c → u.core d = s.core d) ∧ u = { s with cores := u.cores, flt := u.flt, out := u.out } ∧ (∃ e ∈ u.flt.log, e.code = faultCode 0 8 5) ∧
      ((u.core c).blind = true → (u.core c).therm = 4 ∧ u.flt.service.getLsbD 6 = true) ∧
      ((u.core c).blind = false → (u.core c).therm = (s.core c).therm)) ∧
    (answers (exec (.sensorRead (.stack f) x) s) fun u => u = { s with fields := u.fields, flt := u.flt, out := u.out } ∧
      (∀ h, h ≠ f → u.field h = s.field h) ∧ (u.field f).stkTemp = x ∧ ((u.field f).stkCool = none ↔ 332 ≤ x) ∧
      (senseBad x = true → (u.field f).stkFailed = true) ∧
      (senseBad x = true → (s.field f).stkFailed = false → ∃ e ∈ u.flt.log, e.code = faultCode 0 8 5))) ∧
  (∀ (s : State) (cause : BitVec 2) (source : Byte),
    let down := fun (u : State) (cause : BitVec 2) (source : Byte) =>
      u.pwr.railsOff = true ∧ u.pwr.shutEnd = some (s.now + if cause = 3 then 1000000000 else 60000000000) ∧ u.pwr.wait = [] ∧
      (∀ d, (u.dom d).st = .off ∧ (u.dom d).lostPh = (s.dom d).lostPh) ∧ (∀ g b, (u.sub g b).st = .down) ∧
      u.nvm.shutCause = cause ∧ u.nvm.shutSrc = (if cause = 3 then 0 else source) ∧ u.pins.thermtripN = false ∧ u.glb.started = false ∧
      u.pit.run = .idle ∧ u.mesh = [] ∧ u.ctl = [] ∧ u.flt.service.getLsbD 1 = true ∧ (∀ g, 64 * g < 3 * 2 ^ 56 → u.mem.poisoned g = true) ∧
      ∀ c, (u.core c).gangs = []
    let shut := exec (.shutdown cause source) s
    (s.pwr.railsOff = false → s.mustShut cause source = true → answers shut fun u => down u cause source) ∧
    (s.pwr.railsOff = true ∨ s.mustShut cause source = false → shut = .next s) ∧
    (s.pwr.railsOff = false → answers (exec .inputVoltageFault s) fun u => down u 3 0 ∧ u.pins.inputOk = false) ∧
    (s.pwr.railsOff = true → exec .inputVoltageFault s = .next { s with pins := { s.pins with inputOk := false } }) ∧
    (s.pwr.shutEnd = none → exec .shutdownIntervalEnd s = .next s) ∧
    ∀ t, s.pwr.shutEnd = some t →
      (t ≤ s.now → exec .shutdownIntervalEnd s = .next { s with pwr := { s.pwr with shutEnd := none } }) ∧
      (s.now < t → exec .shutdownIntervalEnd s = .next s))

/-- A module reset, from GLB_RESET, a low MRST_N or EJECT_N, or the warden when one is due, leaves every register at its reset value, which
the defect map gives for the enabled cores and the failed bundles, but what the NVM, the standby rail and the pins hold, and the log's
entries; the EPOCH is one more, listed rows take their spares and SEQ starts past the mark of the last. A warden reset, by GLB_RESET, a
fault of the warden or its watchdog, ends the sessions and no more. The pins and PERST_N act, and the calendar clock is set, or lost with
its hold-up (R5, R242, R340, R357, R459 to R463, R474, R481, R502, R506, R507). Start-up begins once, with MRST_N and EJECT_N high and no
shutdown interval running: without a slot identity of even parity or a valid base the module enters safe state, else it takes the
configuration, loads the fault tables and opens the mesh with the cores its defect map leaves. Domains are then asked on four at a time,
each group once the last one is regulated; a domain that does not become ready is switched off, loses its content, is marked failed and
logged (R50, R433 to R440, R503). A command before its time changes nothing. Where the manual is silent the clauses rest on the model's
choices of log entries 45 and 47. -/
def Obligations.ResetsAndStartUp : Prop :=
  (∀ (s : State) (p : Path) (port : PortIx) (v : W64) (i : Fin 4),
    let fresh := fun (u : State) (auto : Option Nat) (pins : Pins) (open_ : Bool) =>
      u = { State.reset with
        nvm := { s.nvm with epoch := s.nvm.epoch + 1, mapped := u.nvm.mapped }
        glb := { State.reset.glb with coreEn := s.nvm.enabled }
        aud := { State.reset.aud with seq := s.nvm.firstSeq }
        rtc := { s.rtc with setCnt := 0 }
        flt := { State.reset.flt with log := s.flt.log, wr := s.flt.wr, lastAuto := auto }
        pwr := { State.reset.pwr with shutEnd := s.pwr.shutEnd, railsOff := open_ }
        fields := u.fields, pins := pins, out := s.out, now := s.now, freeCtr := s.freeCtr, pending := s.pending } ∧
      (∀ r, r ∈ u.nvm.mapped ↔ r ∈ (s.nvm.testRows ++ s.nvm.mapOut).map Prod.fst ∧ r ∉ s.nvm.spareOut) ∧
      ∀ (f : FieldIx) (dr : DirIx) (b : Fin 9), u.field f = { State.reset.field f with links := (u.field f).links } ∧
        (((u.field f).links[dr]).failed.getLsbD b.val = true ↔ (f, dr, b) ∈ s.nvm.testBundle)
    let wardenDown := { s with
      cfg := { s.cfg with sessions := Vector.replicate 4 none, greeting := [] }
      glb := { s.glb with wardenUp := false, mbox := s.glb.mbox.map fun m => { m with replies := [] } } }
    let resets := fun (o : Host.Outcome State Fault Refusal) => answers o fun u => fresh u s.flt.lastAuto s.pins s.pwr.railsOff
    (s.pathOpen p = true →
      (classS p = true → resets (exec (.moduleReset (.register p)) s) ∧ exec (.wardenReset (.register p)) s = .next wardenDown) ∧
      (classS p = false → exec (.moduleReset (.register p)) s = .next (s.refuse p glbReset) ∧
        exec (.wardenReset (.register p)) s = .next (s.refuse p glbReset) ∧ exec (.rtcSet p v) s = .next (s.refuse p rtcSetOff)) ∧
      (classS p = true → answers (exec (.rtcSet p v) s) fun u => u = { s with rtc := u.rtc, flt := u.flt, out := u.out } ∧
        u.rtc = { ns := 1000 * v.toNat, valid := true, lost := false, setCnt := s.rtc.setCnt + 1 } ∧
        ∃ e ∈ u.flt.log, e.code = faultCode 0 9 0x20)) ∧
    (s.pathOpen p = false → exec (.moduleReset (.register p)) s = .next s ∧ exec (.wardenReset (.register p)) s = .next s ∧
      exec (.rtcSet p v) s = .next s) ∧
    (s.pins.mrstN = false → resets (exec (.moduleReset .pin) s)) ∧ (s.pins.mrstN = true → exec (.moduleReset .pin) s = .next s) ∧
    (s.pins.ejectN = false → resets (exec (.moduleReset .eject) s)) ∧ (s.pins.ejectN = true → exec (.moduleReset .eject) s = .next s) ∧
    (s.autoDue = true → answers (exec (.moduleReset .warden) s) fun u => fresh u (some s.now) s.pins s.pwr.railsOff) ∧
    (s.autoDue = false → exec (.moduleReset .warden) s = .next s) ∧
    (answers (exec (.mrstNAssert false) s) fun u => fresh u s.flt.lastAuto { s.pins with mrstN := false } s.pwr.railsOff) ∧
    exec (.mrstNAssert true) s = .next { s with pins := { s.pins with mrstN := true } } ∧
    (answers (exec .ejectNLow s) fun u => fresh u s.flt.lastAuto { s.pins with ejectN := false } true) ∧
    exec .ejectNHigh s = .next { s with pins := { s.pins with ejectN := true } } ∧
    exec (.wardenReset .warden) s = .next wardenDown ∧ exec .wardenWatchdog s = .next wardenDown ∧
    exec (.wardenReset .pin) s = .next s ∧ exec (.wardenReset .eject) s = .next s ∧
    exec .wardenRestartDone s = .next { s with glb := { s.glb with wardenUp := true } } ∧
    (answers (exec (.perstN port) s) fun u => u = { s with cfg := { s.cfg with sessions := u.cfg.sessions, greeting := u.cfg.greeting } } ∧
      u.cfg.sessions[i] = (s.cfg.sessions[i]).filter (fun k => k.path != portPath port) ∧
      u.cfg.greeting = s.cfg.greeting.filter fun g => g.path != portPath port) ∧
    exec .rtcHoldupLost s = .next { s with rtc := { s.rtc with ns := 0, valid := false, lost := true } }) ∧
  (∀ (s : State) (d : DomIx) (f : FieldIx) (b : ImgIx),
    let n := s.glb.nextGroup
    let begun := { s with
      pwr := { s.pwr with railsOff := false }, pins := { s.pins with thermtripN := true, inputOk := true }
      glb := { s.glb with wardenUp := true, modIx := s.pins.slotId.toFin, coreEn := s.nvm.enabled } }
    let safe := fun (u : State) => u.glb = { begun.glb with phase := .safe, started := true, nvmErr := u.glb.nvmErr } ∧
      u = { begun with glb := u.glb, links := u.links, flt := u.flt, out := u.out } ∧
      ∀ g c, u.sub g c = { s.sub g c with st := .disabled }
    let first := baseError s.nvm (firstBase s.nvm)
    let noted := fun (u : State) => (s.glb.nvmErr ≠ 0 → u.glb.nvmErr = s.glb.nvmErr) ∧
      (s.glb.nvmErr = 0 → first ≠ 0 → u.glb.nvmErr = BitVec.ofNat 8 first ∧ ∃ e ∈ u.flt.log, e.code = faultCode 0 9 first)
    (s.glb.started = false → s.pins.mrstN = true → s.pins.ejectN = true → s.pwr.shutEnd = none →
      (s.pins.parityOk = false → answers (exec .startupBegin s) fun u => safe u ∧ u.glb.nvmErr = s.glb.nvmErr ∧ u.flt = s.flt) ∧
      (s.pins.parityOk = true → bootBase s.nvm = none → answers (exec .startupBegin s) fun u => safe u ∧ noted u) ∧
      (s.pins.parityOk = true → bootBase s.nvm = some b → answers (exec .startupBegin s) fun u => noted u ∧
        u = { begun with glb := u.glb, cfg := u.cfg, nvm := { s.nvm with cfgGen := u.nvm.cfgGen }, fields := u.fields, flt := u.flt, out := u.out } ∧
        u.glb = { begun.glb with
          phase := .mesh, started := true, nextGroup := 0, img := b == 1, fallback := b != firstBase s.nvm
          nvmErr := u.glb.nvmErr, cfgDef := u.glb.cfgDef, cfgImg := u.glb.cfgImg, belowBin := u.glb.belowBin } ∧
        (begun.bootConfig b = none → u.glb.cfgDef = true ∧ u.cfg = s.cfg ∧ u.nvm = s.nvm) ∧
        (∀ j, begun.bootConfig b = some j → u.glb.cfgDef = false ∧ u.glb.cfgImg = (j == 1) ∧ u.nvm.cfgGen = configGen s.nvm j ∧
          u.cfg.active = ({} : ConfigSet).load (s.nvm.images[j]).config ∧ u.cfg.shadow = u.cfg.active ∧ u.cfg.genAct = u.cfg.gen) ∧
        (s.nvm.dead = [] → (u.field f).faultTab = Vector.replicate 8 0 ∧ (u.field f).deadNear = []) ∧
        (∀ x, s.nvm.dead = [x] → (u.field f).faultTab = faultTable x f ∧ (u.field f).deadNear = if nextTo f x then [x] else []) ∧
        (1 < s.nvm.dead.length → (u.field f).faultTab = (s.field f).faultTab ∧ u.flt.service.getLsbD svRouter = true) ∧
        (∀ dr c, (f, dr, c) ∈ s.nvm.testBundle → ((u.field f).links[dr]).failed.getLsbD c.val = true) ∧
        (countBits 256 s.nvm.enabled.toNat < s.nvm.guarantee → u.glb.belowBin = true ∧ u.flt.service.getLsbD svBelowBin = true))) ∧
    (s.glb.started = true ∨ s.pins.mrstN = false ∨ s.pins.ejectN = false ∨ s.pwr.shutEnd ≠ none → exec .startupBegin s = .next s) ∧
    (s.glb.started = true → s.glb.phase ≠ .safe → n < 22 → s.groupReady = true → answers (exec .startupDomainGroup s) fun u =>
      u = { s with pwr := u.pwr, glb := u.glb } ∧
      u.glb = { s.glb with nextGroup := n + 1, phase := if n = 21 then .links else .domains } ∧
      (d ∈ domGroup n → s.mayPowerUp d = true → (s.dom d).failed = false → (s.dom d).st = .off → (s.dom d).queued = none →
        u.dom d = { s.dom d with queued := some true } ∧ (d, true) ∈ u.pwr.wait) ∧
      (d ∉ domGroup n ∨ s.mayPowerUp d = false ∨ (s.dom d).failed = true → u.dom d = s.dom d)) ∧
    (s.glb.started = false ∨ s.glb.phase = .safe ∨ 22 ≤ n ∨ s.groupReady = false → exec .startupDomainGroup s = .next s) ∧
    (let late := (s.glb.phase = .domains ∨ s.glb.phase = .links) ∧
       ((s.dom d).st = .switchingOn ∨ (s.dom d).st = .initialising ∨ (s.dom d).queued ≠ none)
     (late → answers (exec (.startupDomainTimeout d) s) fun u => u.dom d = { (s.dom d).open_ with failed := true } ∧
       (∀ e, e ≠ d → u.dom e = s.dom e) ∧ u.pwr.wait = s.pwr.wait.filter (fun x => x.1 != d) ∧ u.flt.service.getLsbD svDomain = true ∧
       (∃ e ∈ u.flt.log, e.code = faultCode 5 8 4) ∧
       u = { s with pwr := u.pwr, glb := u.glb, cores := u.cores, grd := u.grd, mem := u.mem, links := u.links, flt := u.flt, out := u.out } ∧
       u.glb = { s.glb with coreEn := if d.val < 80 then s.glb.coreEn &&& ~~~(fedCores d) else s.glb.coreEn } ∧
       (∀ x, domKind d = .vlog x → ∀ c : CoreIx, coreField c = x → u.core c = (s.core c).powerReset) ∧
       (∀ x, domKind d = .varr x → u.mem = s.mem.loseArrays d) ∧ (∀ x, domKind d = .vmif x → u.mem = s.mem.loseStacks d)) ∧
     (¬ late → exec (.startupDomainTimeout d) s = .next s)))

/-- HELLO is answered with a nonce, or refused while the interface is locked or 4 sessions are open; the right PROOF opens a session with
its keys and clears the count, a wrong one counts, and from the third on each locks the interface, 60 s first and then twice as long up to
a day. A session's message with a newer SEQ and a right MAC acts and is answered; another is dropped, and the 16th drop ends the session.
READ answers with the words, WRITE says whether any was refused, STK_WRITE stores its bytes but in a locked range, NVM operations write the
unbooted image, a key slot or a higher VFLOOR; CLOSE, and the end of a lifetime, end the session (R432, R435, R436, R454 to R458, R494,
R497). What no mailbox holds, or a warden that is not up would take, changes nothing. Where the manual is silent the clauses rest on the
model's choices of log entries 23, 24 and 51. -/
def Obligations.SessionMessages : Prop :=
  (∀ (s s1 : State) (p : SessPath) (nc body : List Byte) (life : W32) (g : Greeting) (i : Fin 4),
    (s.takeSess p (plainMsg p 1 (nc ++ leBytes 4 life.toNat)) = none → exec (.hello p nc life) s = .next s) ∧
    (s.takeSess p (plainMsg p 1 (nc ++ leBytes 4 life.toNat)) = some s1 →
      (s1.sessLocked = false → s1.openSessions < 4 → exec (.hello p nc life) s = .next (State.sendSess
        { s1 with
          cfg := { s1.cfg with
            greeting := { path := p, nc := nc, nm := s1.nonce, lifetime := life } :: s1.cfg.greeting.filter (fun x => x.path != p) }
          freeCtr := s1.freeCtr + 16 } p
        (plainMsg p 2 (s1.nonce ++ Config.serial ++ leBytes 8 s1.rtcUs)))) ∧
      (s1.sessLocked = true → exec (.hello p nc life) s = .next (s1.refuseSess p 2 (leBytes 4 s1.lockLeft))) ∧
      (s1.sessLocked = false → 4 ≤ s1.openSessions → exec (.hello p nc life) s = .next (s1.refuseSess p 1))) ∧
    (s.takeSess p (plainMsg p 3 body) = none → exec (.proof p body) s = .next s) ∧
    (s.takeSess p (plainMsg p 3 body) = some s1 →
      (s1.sessLocked = true → exec (.proof p body) s = .next s1) ∧
      (s1.sessLocked = false → s1.cfg.greeting.find? (fun x => x.path == p) = none → exec (.proof p body) s = .next (s1.refuseSess p 4)) ∧
      (s1.sessLocked = false → s1.cfg.greeting.find? (fun x => x.path == p) = some g →
        let gone := { s1.cfg with greeting := s1.cfg.greeting.filter fun x => x.path != p }
        let n := s1.nvm.fails + 1
        let len := if n = 3 then 60 else min 86400 (2 * s1.nvm.lockLen)
        let sid := s1.newSid i
        let okm := hkdfSha256 Config.rootKey (g.nc ++ g.nm) (sessTag ++ leBytes 4 sid.toNat ++ leBytes 1 (sessPathCode p)) 64
        let accept := leBytes 4 sid.toNat ++ leBytes 4 (grantedLife g.lifetime)
        (body = proofOf g → (List.finRange 4).find? (fun j => (s1.sessionAt j).isNone) = some i → answers (exec (.proof p body) s) fun u =>
          ∃ w : State, w = { s1 with cfg := w.cfg, nvm := { s1.nvm with fails := 0, lockLen := 0 }, freeCtr := s1.freeCtr + 1, latch := w.latch, low := w.low } ∧
            w.cfg = { gone with sessions := w.cfg.sessions, view := w.cfg.view } ∧ (∀ j, j ≠ i → w.cfg.sessions[j] = s1.cfg.sessions[j]) ∧
            w.cfg.sessions[i] = some {
              sid := sid, path := p, keyIn := okm.take 32, keyOut := okm.drop 32, seqIn := 0, seqOut := 1
              ends := s1.now + grantedLife g.lifetime * 1000000000, drops := 0 } ∧
            u = w.sendSess p (sessBytes 4 p sid 1 (sessMac (okm.drop 32) 4 p sid 1 accept) accept)) ∧
        (body = proofOf g → 4 ≤ s1.openSessions → exec (.proof p body) s =
          .next (State.refuseSess { s1 with cfg := gone, nvm := { s1.nvm with fails := 0, lockLen := 0 } } p 1)) ∧
        (body ≠ proofOf g → n < 3 → exec (.proof p body) s =
          .next (State.refuseSess { s1 with cfg := gone, nvm := { s1.nvm with fails := n } } p 3)) ∧
        (body ≠ proofOf g → 3 ≤ n → answers (exec (.proof p body) s) fun u => ∃ w : State,
          w = { s1 with
            cfg := gone, flt := w.flt, out := w.out
            nvm := { s1.nvm with fails := n, lockLen := len, lockEnd := s1.rtc.ns + len * 1000000000 } } ∧
          (∃ e ∈ w.flt.log, e.code = faultCode 0 9 0x21) ∧ u = w.refuseSess p 3)))) ∧
  (∀ (s s1 t v : State) (h : SessHdr) (off len w : W32) (so : W64) (ws : List W32) (bs key : List Byte) (i slot : Fin 4) (k : Session),
    let messages : List (Instr × Nat × List Byte) := [
      (.sessionRead h off len, 0x10, leBytes 4 off.toNat ++ leBytes 4 len.toNat),
      (.sessionWrite h off ws, 0x11, leBytes 4 off.toNat ++ leBytes 4 ws.length ++ ws.flatMap fun x => leBytes 4 x.toNat),
      (.stkWrite h so bs, 0x12, leBytes 8 so.toNat ++ bs),
      (.nvmProgram h off so len, 0x13, [0] ++ leBytes 4 off.toNat ++ leBytes 8 so.toNat ++ leBytes 4 len.toNat),
      (.nvmWriteKeySlot h slot key, 0x13, [1] ++ leBytes 1 slot.val ++ key),
      (.nvmRaiseVfloor h w, 0x13, [2] ++ leBytes 4 w.toNat),
      (.close h, 0x20, [])]
    (∀ m ∈ messages,
      (s.takeSess h.path (sessBytes m.2.1 h.path h.sid h.seq h.mac m.2.2) = none → exec m.1 s = .next s) ∧
      (s.takeSess h.path (sessBytes m.2.1 h.path h.sid h.seq h.mac m.2.2) = some s1 →
        (s1.sessionOf h = none → exec m.1 s = .next s1) ∧
        (s1.sessionOf h = some (i, k) → h.seq.toNat ≤ k.seqIn.toNat ∨ h.mac ≠ sessMac k.keyIn m.2.1 h.path h.sid h.seq m.2.2 →
          exec m.1 s = .next (s1.setSession i (if 16 ≤ k.drops + 1 then none else some { k with drops := k.drops + 1 }))))) ∧
    (s.fromSession h 0x10 (leBytes 4 off.toNat ++ leBytes 4 len.toNat) i k t →
      (sessShape off.toNat len.toNat = true → exec (.sessionRead h off len) s =
        .next ((t.readWords (.session i) off.toNat len.toNat).2.replied h i k 0 (t.readWords (.session i) off.toNat len.toNat).1)) ∧
      (sessShape off.toNat len.toNat = false → exec (.sessionRead h off len) s = .next (t.refuseSess h.path 4))) ∧
    (s.fromSession h 0x11 (leBytes 4 off.toNat ++ leBytes 4 ws.length ++ ws.flatMap fun x => leBytes 4 x.toNat) i k t →
      (sessShape off.toNat ws.length = true → v = t.writeWords i off.toNat ws →
        (v.cfg.sessions[i] = t.cfg.sessions[i] → exec (.sessionWrite h off ws) s =
          .next (v.replied h i k (if v.sessRefused = t.sessRefused then 0 else 1) [])) ∧
        (v.cfg.sessions[i] = none → exec (.sessionWrite h off ws) s = .next v)) ∧
      (sessShape off.toNat ws.length = false → exec (.sessionWrite h off ws) s = .next (t.refuseSess h.path 4))) ∧
    (s.fromSession h 0x12 (leBytes 8 so.toNat ++ bs) i k t →
      (bs.length = 0 ∨ 4096 < bs.length → exec (.stkWrite h so bs) s = .next (t.refuseSess h.path 4)) ∧
      (0 < bs.length → bs.length ≤ 4096 →
        (t.stkLocked so.toNat bs.length = true → exec (.stkWrite h so bs) s = .next ((t.countRefused (.session i)).replied h i k 1 [])) ∧
        (t.stkLocked so.toNat bs.length = false → t.stkOn so.toNat bs.length = false → exec (.stkWrite h so bs) s = .next (t.replied h i k 1 [])) ∧
        (t.stkLocked so.toNat bs.length = false → t.stkOn so.toNat bs.length = true → exec (.stkWrite h so bs) s =
          .next (({ t with mem := t.mem.write (stacksAddr so.toNat) bs [] }).replied h i k 0 [])))) ∧
    (s.fromSession h 0x13 ([0] ++ leBytes 4 off.toNat ++ leBytes 8 so.toNat ++ leBytes 4 len.toNat) i k t →
      let b := t.mem.read (stacksAddr so.toNat) len.toNat
      (∀ x, t.program off.toNat so.toNat len.toNat = some x → exec (.nvmProgram h off so len) s = .next (x.replied h i k 0 []) ∧
        x = { t with nvm := { t.nvm with images := x.nvm.images } } ∧ (∀ j, j ≠ t.unbooted → x.nvm.images[j] = t.nvm.images[j]) ∧
        (off.toNat = 0 → t.baseValid b = true ∧ (x.nvm.images[t.unbooted]).version = fieldAt b 16 4 ∧
          (x.nvm.images[t.unbooted]).gen = fieldAt b 8 8 ∧ (x.nvm.images[t.unbooted]).baseOk = true) ∧
        (off.toNat ≠ 0 → off.toNat = 0x4000000 ∧ t.configCheck b t.nvm.cfgGen = 0 ∧ (x.nvm.images[t.unbooted]).config = b)) ∧
      (t.program off.toNat so.toNat len.toNat = none → exec (.nvmProgram h off so len) s = .next (t.replied h i k 1 []))) ∧
    (s.fromSession h 0x13 ([1] ++ leBytes 1 slot.val ++ key) i k t →
      (key.length = 96 → exec (.nvmWriteKeySlot h slot key) s =
        .next (({ t with nvm := { t.nvm with keySlots := t.nvm.keySlots.set slot key } }).replied h i k 0 [])) ∧
      (key.length ≠ 96 → exec (.nvmWriteKeySlot h slot key) s = .next (t.refuseSess h.path 4))) ∧
    (s.fromSession h 0x13 ([2] ++ leBytes 4 w.toNat) i k t →
      (t.nvm.vfloor ≤ w.toNat → exec (.nvmRaiseVfloor h w) s = .next (({ t with nvm := { t.nvm with vfloor := w.toNat } }).replied h i k 0 [])) ∧
      (w.toNat < t.nvm.vfloor → exec (.nvmRaiseVfloor h w) s = .next (t.replied h i k 1 []))) ∧
    (s.fromSession h 0x20 [] i k t → exec (.close h) s = .next (t.setSession i none))) ∧
  (∀ (s : State) (i : Fin 4) (k : Session),
    (s.cfg.sessions[i] = some k →
      (k.ends ≤ s.now → exec (.sessionExpire i) s = .next (s.setSession i none)) ∧ (s.now < k.ends → exec (.sessionExpire i) s = .next s)) ∧
    (s.cfg.sessions[i] = none → exec (.sessionExpire i) s = .next s) ∧
    (s.sessLocked = false → exec .sessionLockEnd s = .next { s with nvm := { s.nvm with lockEnd := 0 } }) ∧
    (s.sessLocked = true → exec .sessionLockEnd s = .next s))
end

