-- ==== Sys2Proof/Laws/State.lean ====
section
/-! SUPPORT. The small lemmas of State's updates: for each update and each field, what the field holds after it; and reading one core,
task context, field, group, sublink or domain after rewriting one. -/

namespace Sys2Proof.Machine

/-! ## Vectors -/

/-- The rewritten place of a vector. -/
@[simp] theorem upd_same {α : Type} {n : Nat} (v : Vector α n) (i : Fin n) (f : α → α) :
    (upd v i f)[i.val]'i.isLt = f (v[i.val]'i.isLt) := by
  simp [upd]

/-- Any other place of a vector. -/
theorem upd_other {α : Type} {n : Nat} (v : Vector α n) (i j : Fin n) (f : α → α) (h : j ≠ i) :
    (upd v i f)[j.val]'j.isLt = v[j.val]'j.isLt := by
  have h1 : i.val ≠ j.val := fun e => h (Fin.ext e.symm)
  simp [upd, h1]

/-! ## Fields after updates -/

@[simp] theorem State.modCore_mem (s : State) (c : CoreIx) (f : Core → Core) : (s.modCore c f).mem = s.mem := rfl
@[simp] theorem State.modCore_fields (s : State) (c : CoreIx) (f : Core → Core) : (s.modCore c f).fields = s.fields := rfl
@[simp] theorem State.modCore_mesh (s : State) (c : CoreIx) (f : Core → Core) : (s.modCore c f).mesh = s.mesh := rfl
@[simp] theorem State.modCore_mcast (s : State) (c : CoreIx) (f : Core → Core) : (s.modCore c f).mcast = s.mcast := rfl
@[simp] theorem State.modCore_held (s : State) (c : CoreIx) (f : Core → Core) : (s.modCore c f).held = s.held := rfl
@[simp] theorem State.modCore_ctl (s : State) (c : CoreIx) (f : Core → Core) : (s.modCore c f).ctl = s.ctl := rfl
@[simp] theorem State.modCore_links (s : State) (c : CoreIx) (f : Core → Core) : (s.modCore c f).links = s.links := rfl
@[simp] theorem State.modCore_fab (s : State) (c : CoreIx) (f : Core → Core) : (s.modCore c f).fab = s.fab := rfl
@[simp] theorem State.modCore_intk (s : State) (c : CoreIx) (f : Core → Core) : (s.modCore c f).intk = s.intk := rfl
@[simp] theorem State.modCore_grd (s : State) (c : CoreIx) (f : Core → Core) : (s.modCore c f).grd = s.grd := rfl
@[simp] theorem State.modCore_pit (s : State) (c : CoreIx) (f : Core → Core) : (s.modCore c f).pit = s.pit := rfl
@[simp] theorem State.modCore_glb (s : State) (c : CoreIx) (f : Core → Core) : (s.modCore c f).glb = s.glb := rfl
@[simp] theorem State.modCore_cfg (s : State) (c : CoreIx) (f : Core → Core) : (s.modCore c f).cfg = s.cfg := rfl
@[simp] theorem State.modCore_rtc (s : State) (c : CoreIx) (f : Core → Core) : (s.modCore c f).rtc = s.rtc := rfl
@[simp] theorem State.modCore_pwr (s : State) (c : CoreIx) (f : Core → Core) : (s.modCore c f).pwr = s.pwr := rfl
@[simp] theorem State.modCore_memu (s : State) (c : CoreIx) (f : Core → Core) : (s.modCore c f).memu = s.memu := rfl
@[simp] theorem State.modCore_aud (s : State) (c : CoreIx) (f : Core → Core) : (s.modCore c f).aud = s.aud := rfl
@[simp] theorem State.modCore_flt (s : State) (c : CoreIx) (f : Core → Core) : (s.modCore c f).flt = s.flt := rfl
@[simp] theorem State.modCore_nvm (s : State) (c : CoreIx) (f : Core → Core) : (s.modCore c f).nvm = s.nvm := rfl
@[simp] theorem State.modCore_pins (s : State) (c : CoreIx) (f : Core → Core) : (s.modCore c f).pins = s.pins := rfl
@[simp] theorem State.modCore_latch (s : State) (c : CoreIx) (f : Core → Core) : (s.modCore c f).latch = s.latch := rfl
@[simp] theorem State.modCore_low (s : State) (c : CoreIx) (f : Core → Core) : (s.modCore c f).low = s.low := rfl
@[simp] theorem State.modCore_out (s : State) (c : CoreIx) (f : Core → Core) : (s.modCore c f).out = s.out := rfl
@[simp] theorem State.modCore_now (s : State) (c : CoreIx) (f : Core → Core) : (s.modCore c f).now = s.now := rfl
@[simp] theorem State.modCore_freeCtr (s : State) (c : CoreIx) (f : Core → Core) : (s.modCore c f).freeCtr = s.freeCtr := rfl
@[simp] theorem State.modCore_pending (s : State) (c : CoreIx) (f : Core → Core) : (s.modCore c f).pending = s.pending := rfl

@[simp] theorem State.modTask_mem (s : State) (c : CoreIx) (t : TaskIx) (f : Task → Task) : (s.modTask c t f).mem = s.mem := rfl
@[simp] theorem State.modTask_fields (s : State) (c : CoreIx) (t : TaskIx) (f : Task → Task) : (s.modTask c t f).fields = s.fields := rfl
@[simp] theorem State.modTask_mesh (s : State) (c : CoreIx) (t : TaskIx) (f : Task → Task) : (s.modTask c t f).mesh = s.mesh := rfl
@[simp] theorem State.modTask_mcast (s : State) (c : CoreIx) (t : TaskIx) (f : Task → Task) : (s.modTask c t f).mcast = s.mcast := rfl
@[simp] theorem State.modTask_held (s : State) (c : CoreIx) (t : TaskIx) (f : Task → Task) : (s.modTask c t f).held = s.held := rfl
@[simp] theorem State.modTask_ctl (s : State) (c : CoreIx) (t : TaskIx) (f : Task → Task) : (s.modTask c t f).ctl = s.ctl := rfl
@[simp] theorem State.modTask_links (s : State) (c : CoreIx) (t : TaskIx) (f : Task → Task) : (s.modTask c t f).links = s.links := rfl
@[simp] theorem State.modTask_fab (s : State) (c : CoreIx) (t : TaskIx) (f : Task → Task) : (s.modTask c t f).fab = s.fab := rfl
@[simp] theorem State.modTask_intk (s : State) (c : CoreIx) (t : TaskIx) (f : Task → Task) : (s.modTask c t f).intk = s.intk := rfl
@[simp] theorem State.modTask_grd (s : State) (c : CoreIx) (t : TaskIx) (f : Task → Task) : (s.modTask c t f).grd = s.grd := rfl
@[simp] theorem State.modTask_pit (s : State) (c : CoreIx) (t : TaskIx) (f : Task → Task) : (s.modTask c t f).pit = s.pit := rfl
@[simp] theorem State.modTask_glb (s : State) (c : CoreIx) (t : TaskIx) (f : Task → Task) : (s.modTask c t f).glb = s.glb := rfl
@[simp] theorem State.modTask_cfg (s : State) (c : CoreIx) (t : TaskIx) (f : Task → Task) : (s.modTask c t f).cfg = s.cfg := rfl
@[simp] theorem State.modTask_rtc (s : State) (c : CoreIx) (t : TaskIx) (f : Task → Task) : (s.modTask c t f).rtc = s.rtc := rfl
@[simp] theorem State.modTask_pwr (s : State) (c : CoreIx) (t : TaskIx) (f : Task → Task) : (s.modTask c t f).pwr = s.pwr := rfl
@[simp] theorem State.modTask_memu (s : State) (c : CoreIx) (t : TaskIx) (f : Task → Task) : (s.modTask c t f).memu = s.memu := rfl
@[simp] theorem State.modTask_aud (s : State) (c : CoreIx) (t : TaskIx) (f : Task → Task) : (s.modTask c t f).aud = s.aud := rfl
@[simp] theorem State.modTask_flt (s : State) (c : CoreIx) (t : TaskIx) (f : Task → Task) : (s.modTask c t f).flt = s.flt := rfl
@[simp] theorem State.modTask_nvm (s : State) (c : CoreIx) (t : TaskIx) (f : Task → Task) : (s.modTask c t f).nvm = s.nvm := rfl
@[simp] theorem State.modTask_pins (s : State) (c : CoreIx) (t : TaskIx) (f : Task → Task) : (s.modTask c t f).pins = s.pins := rfl
@[simp] theorem State.modTask_latch (s : State) (c : CoreIx) (t : TaskIx) (f : Task → Task) : (s.modTask c t f).latch = s.latch := rfl
@[simp] theorem State.modTask_low (s : State) (c : CoreIx) (t : TaskIx) (f : Task → Task) : (s.modTask c t f).low = s.low := rfl
@[simp] theorem State.modTask_out (s : State) (c : CoreIx) (t : TaskIx) (f : Task → Task) : (s.modTask c t f).out = s.out := rfl
@[simp] theorem State.modTask_now (s : State) (c : CoreIx) (t : TaskIx) (f : Task → Task) : (s.modTask c t f).now = s.now := rfl
@[simp] theorem State.modTask_freeCtr (s : State) (c : CoreIx) (t : TaskIx) (f : Task → Task) : (s.modTask c t f).freeCtr = s.freeCtr := rfl
@[simp] theorem State.modTask_pending (s : State) (c : CoreIx) (t : TaskIx) (f : Task → Task) : (s.modTask c t f).pending = s.pending := rfl

@[simp] theorem State.modCnt_mem (s : State) (c : CoreIx) (f : CoreCount → CoreCount) : (s.modCnt c f).mem = s.mem := rfl
@[simp] theorem State.modCnt_fields (s : State) (c : CoreIx) (f : CoreCount → CoreCount) : (s.modCnt c f).fields = s.fields := rfl
@[simp] theorem State.modCnt_mesh (s : State) (c : CoreIx) (f : CoreCount → CoreCount) : (s.modCnt c f).mesh = s.mesh := rfl
@[simp] theorem State.modCnt_mcast (s : State) (c : CoreIx) (f : CoreCount → CoreCount) : (s.modCnt c f).mcast = s.mcast := rfl
@[simp] theorem State.modCnt_held (s : State) (c : CoreIx) (f : CoreCount → CoreCount) : (s.modCnt c f).held = s.held := rfl
@[simp] theorem State.modCnt_ctl (s : State) (c : CoreIx) (f : CoreCount → CoreCount) : (s.modCnt c f).ctl = s.ctl := rfl
@[simp] theorem State.modCnt_links (s : State) (c : CoreIx) (f : CoreCount → CoreCount) : (s.modCnt c f).links = s.links := rfl
@[simp] theorem State.modCnt_fab (s : State) (c : CoreIx) (f : CoreCount → CoreCount) : (s.modCnt c f).fab = s.fab := rfl
@[simp] theorem State.modCnt_intk (s : State) (c : CoreIx) (f : CoreCount → CoreCount) : (s.modCnt c f).intk = s.intk := rfl
@[simp] theorem State.modCnt_grd (s : State) (c : CoreIx) (f : CoreCount → CoreCount) : (s.modCnt c f).grd = s.grd := rfl
@[simp] theorem State.modCnt_pit (s : State) (c : CoreIx) (f : CoreCount → CoreCount) : (s.modCnt c f).pit = s.pit := rfl
@[simp] theorem State.modCnt_glb (s : State) (c : CoreIx) (f : CoreCount → CoreCount) : (s.modCnt c f).glb = s.glb := rfl
@[simp] theorem State.modCnt_cfg (s : State) (c : CoreIx) (f : CoreCount → CoreCount) : (s.modCnt c f).cfg = s.cfg := rfl
@[simp] theorem State.modCnt_rtc (s : State) (c : CoreIx) (f : CoreCount → CoreCount) : (s.modCnt c f).rtc = s.rtc := rfl
@[simp] theorem State.modCnt_pwr (s : State) (c : CoreIx) (f : CoreCount → CoreCount) : (s.modCnt c f).pwr = s.pwr := rfl
@[simp] theorem State.modCnt_memu (s : State) (c : CoreIx) (f : CoreCount → CoreCount) : (s.modCnt c f).memu = s.memu := rfl
@[simp] theorem State.modCnt_aud (s : State) (c : CoreIx) (f : CoreCount → CoreCount) : (s.modCnt c f).aud = s.aud := rfl
@[simp] theorem State.modCnt_flt (s : State) (c : CoreIx) (f : CoreCount → CoreCount) : (s.modCnt c f).flt = s.flt := rfl
@[simp] theorem State.modCnt_nvm (s : State) (c : CoreIx) (f : CoreCount → CoreCount) : (s.modCnt c f).nvm = s.nvm := rfl
@[simp] theorem State.modCnt_pins (s : State) (c : CoreIx) (f : CoreCount → CoreCount) : (s.modCnt c f).pins = s.pins := rfl
@[simp] theorem State.modCnt_latch (s : State) (c : CoreIx) (f : CoreCount → CoreCount) : (s.modCnt c f).latch = s.latch := rfl
@[simp] theorem State.modCnt_low (s : State) (c : CoreIx) (f : CoreCount → CoreCount) : (s.modCnt c f).low = s.low := rfl
@[simp] theorem State.modCnt_out (s : State) (c : CoreIx) (f : CoreCount → CoreCount) : (s.modCnt c f).out = s.out := rfl
@[simp] theorem State.modCnt_now (s : State) (c : CoreIx) (f : CoreCount → CoreCount) : (s.modCnt c f).now = s.now := rfl
@[simp] theorem State.modCnt_freeCtr (s : State) (c : CoreIx) (f : CoreCount → CoreCount) : (s.modCnt c f).freeCtr = s.freeCtr := rfl
@[simp] theorem State.modCnt_pending (s : State) (c : CoreIx) (f : CoreCount → CoreCount) : (s.modCnt c f).pending = s.pending := rfl

@[simp] theorem State.modField_mem (s : State) (x : FieldIx) (f : Field → Field) : (s.modField x f).mem = s.mem := rfl
@[simp] theorem State.modField_cores (s : State) (x : FieldIx) (f : Field → Field) : (s.modField x f).cores = s.cores := rfl
@[simp] theorem State.modField_mesh (s : State) (x : FieldIx) (f : Field → Field) : (s.modField x f).mesh = s.mesh := rfl
@[simp] theorem State.modField_mcast (s : State) (x : FieldIx) (f : Field → Field) : (s.modField x f).mcast = s.mcast := rfl
@[simp] theorem State.modField_held (s : State) (x : FieldIx) (f : Field → Field) : (s.modField x f).held = s.held := rfl
@[simp] theorem State.modField_ctl (s : State) (x : FieldIx) (f : Field → Field) : (s.modField x f).ctl = s.ctl := rfl
@[simp] theorem State.modField_links (s : State) (x : FieldIx) (f : Field → Field) : (s.modField x f).links = s.links := rfl
@[simp] theorem State.modField_fab (s : State) (x : FieldIx) (f : Field → Field) : (s.modField x f).fab = s.fab := rfl
@[simp] theorem State.modField_intk (s : State) (x : FieldIx) (f : Field → Field) : (s.modField x f).intk = s.intk := rfl
@[simp] theorem State.modField_grd (s : State) (x : FieldIx) (f : Field → Field) : (s.modField x f).grd = s.grd := rfl
@[simp] theorem State.modField_pit (s : State) (x : FieldIx) (f : Field → Field) : (s.modField x f).pit = s.pit := rfl
@[simp] theorem State.modField_glb (s : State) (x : FieldIx) (f : Field → Field) : (s.modField x f).glb = s.glb := rfl
@[simp] theorem State.modField_cfg (s : State) (x : FieldIx) (f : Field → Field) : (s.modField x f).cfg = s.cfg := rfl
@[simp] theorem State.modField_rtc (s : State) (x : FieldIx) (f : Field → Field) : (s.modField x f).rtc = s.rtc := rfl
@[simp] theorem State.modField_pwr (s : State) (x : FieldIx) (f : Field → Field) : (s.modField x f).pwr = s.pwr := rfl
@[simp] theorem State.modField_memu (s : State) (x : FieldIx) (f : Field → Field) : (s.modField x f).memu = s.memu := rfl
@[simp] theorem State.modField_aud (s : State) (x : FieldIx) (f : Field → Field) : (s.modField x f).aud = s.aud := rfl
@[simp] theorem State.modField_flt (s : State) (x : FieldIx) (f : Field → Field) : (s.modField x f).flt = s.flt := rfl
@[simp] theorem State.modField_nvm (s : State) (x : FieldIx) (f : Field → Field) : (s.modField x f).nvm = s.nvm := rfl
@[simp] theorem State.modField_pins (s : State) (x : FieldIx) (f : Field → Field) : (s.modField x f).pins = s.pins := rfl
@[simp] theorem State.modField_latch (s : State) (x : FieldIx) (f : Field → Field) : (s.modField x f).latch = s.latch := rfl
@[simp] theorem State.modField_low (s : State) (x : FieldIx) (f : Field → Field) : (s.modField x f).low = s.low := rfl
@[simp] theorem State.modField_out (s : State) (x : FieldIx) (f : Field → Field) : (s.modField x f).out = s.out := rfl
@[simp] theorem State.modField_now (s : State) (x : FieldIx) (f : Field → Field) : (s.modField x f).now = s.now := rfl
@[simp] theorem State.modField_freeCtr (s : State) (x : FieldIx) (f : Field → Field) : (s.modField x f).freeCtr = s.freeCtr := rfl
@[simp] theorem State.modField_pending (s : State) (x : FieldIx) (f : Field → Field) : (s.modField x f).pending = s.pending := rfl

@[simp] theorem State.modGroup_mem (s : State) (g : GroupIx) (f : LinkGroup → LinkGroup) : (s.modGroup g f).mem = s.mem := rfl
@[simp] theorem State.modGroup_cores (s : State) (g : GroupIx) (f : LinkGroup → LinkGroup) : (s.modGroup g f).cores = s.cores := rfl
@[simp] theorem State.modGroup_fields (s : State) (g : GroupIx) (f : LinkGroup → LinkGroup) : (s.modGroup g f).fields = s.fields := rfl
@[simp] theorem State.modGroup_mesh (s : State) (g : GroupIx) (f : LinkGroup → LinkGroup) : (s.modGroup g f).mesh = s.mesh := rfl
@[simp] theorem State.modGroup_mcast (s : State) (g : GroupIx) (f : LinkGroup → LinkGroup) : (s.modGroup g f).mcast = s.mcast := rfl
@[simp] theorem State.modGroup_held (s : State) (g : GroupIx) (f : LinkGroup → LinkGroup) : (s.modGroup g f).held = s.held := rfl
@[simp] theorem State.modGroup_ctl (s : State) (g : GroupIx) (f : LinkGroup → LinkGroup) : (s.modGroup g f).ctl = s.ctl := rfl
@[simp] theorem State.modGroup_fab (s : State) (g : GroupIx) (f : LinkGroup → LinkGroup) : (s.modGroup g f).fab = s.fab := rfl
@[simp] theorem State.modGroup_intk (s : State) (g : GroupIx) (f : LinkGroup → LinkGroup) : (s.modGroup g f).intk = s.intk := rfl
@[simp] theorem State.modGroup_grd (s : State) (g : GroupIx) (f : LinkGroup → LinkGroup) : (s.modGroup g f).grd = s.grd := rfl
@[simp] theorem State.modGroup_pit (s : State) (g : GroupIx) (f : LinkGroup → LinkGroup) : (s.modGroup g f).pit = s.pit := rfl
@[simp] theorem State.modGroup_glb (s : State) (g : GroupIx) (f : LinkGroup → LinkGroup) : (s.modGroup g f).glb = s.glb := rfl
@[simp] theorem State.modGroup_cfg (s : State) (g : GroupIx) (f : LinkGroup → LinkGroup) : (s.modGroup g f).cfg = s.cfg := rfl
@[simp] theorem State.modGroup_rtc (s : State) (g : GroupIx) (f : LinkGroup → LinkGroup) : (s.modGroup g f).rtc = s.rtc := rfl
@[simp] theorem State.modGroup_pwr (s : State) (g : GroupIx) (f : LinkGroup → LinkGroup) : (s.modGroup g f).pwr = s.pwr := rfl
@[simp] theorem State.modGroup_memu (s : State) (g : GroupIx) (f : LinkGroup → LinkGroup) : (s.modGroup g f).memu = s.memu := rfl
@[simp] theorem State.modGroup_aud (s : State) (g : GroupIx) (f : LinkGroup → LinkGroup) : (s.modGroup g f).aud = s.aud := rfl
@[simp] theorem State.modGroup_flt (s : State) (g : GroupIx) (f : LinkGroup → LinkGroup) : (s.modGroup g f).flt = s.flt := rfl
@[simp] theorem State.modGroup_nvm (s : State) (g : GroupIx) (f : LinkGroup → LinkGroup) : (s.modGroup g f).nvm = s.nvm := rfl
@[simp] theorem State.modGroup_pins (s : State) (g : GroupIx) (f : LinkGroup → LinkGroup) : (s.modGroup g f).pins = s.pins := rfl
@[simp] theorem State.modGroup_latch (s : State) (g : GroupIx) (f : LinkGroup → LinkGroup) : (s.modGroup g f).latch = s.latch := rfl
@[simp] theorem State.modGroup_low (s : State) (g : GroupIx) (f : LinkGroup → LinkGroup) : (s.modGroup g f).low = s.low := rfl
@[simp] theorem State.modGroup_out (s : State) (g : GroupIx) (f : LinkGroup → LinkGroup) : (s.modGroup g f).out = s.out := rfl
@[simp] theorem State.modGroup_now (s : State) (g : GroupIx) (f : LinkGroup → LinkGroup) : (s.modGroup g f).now = s.now := rfl
@[simp] theorem State.modGroup_freeCtr (s : State) (g : GroupIx) (f : LinkGroup → LinkGroup) : (s.modGroup g f).freeCtr = s.freeCtr := rfl
@[simp] theorem State.modGroup_pending (s : State) (g : GroupIx) (f : LinkGroup → LinkGroup) : (s.modGroup g f).pending = s.pending := rfl

@[simp] theorem State.modSub_mem (s : State) (g : GroupIx) (u : SubIx) (f : Sublink → Sublink) : (s.modSub g u f).mem = s.mem := rfl
@[simp] theorem State.modSub_cores (s : State) (g : GroupIx) (u : SubIx) (f : Sublink → Sublink) : (s.modSub g u f).cores = s.cores := rfl
@[simp] theorem State.modSub_fields (s : State) (g : GroupIx) (u : SubIx) (f : Sublink → Sublink) : (s.modSub g u f).fields = s.fields := rfl
@[simp] theorem State.modSub_mesh (s : State) (g : GroupIx) (u : SubIx) (f : Sublink → Sublink) : (s.modSub g u f).mesh = s.mesh := rfl
@[simp] theorem State.modSub_mcast (s : State) (g : GroupIx) (u : SubIx) (f : Sublink → Sublink) : (s.modSub g u f).mcast = s.mcast := rfl
@[simp] theorem State.modSub_held (s : State) (g : GroupIx) (u : SubIx) (f : Sublink → Sublink) : (s.modSub g u f).held = s.held := rfl
@[simp] theorem State.modSub_ctl (s : State) (g : GroupIx) (u : SubIx) (f : Sublink → Sublink) : (s.modSub g u f).ctl = s.ctl := rfl
@[simp] theorem State.modSub_fab (s : State) (g : GroupIx) (u : SubIx) (f : Sublink → Sublink) : (s.modSub g u f).fab = s.fab := rfl
@[simp] theorem State.modSub_intk (s : State) (g : GroupIx) (u : SubIx) (f : Sublink → Sublink) : (s.modSub g u f).intk = s.intk := rfl
@[simp] theorem State.modSub_grd (s : State) (g : GroupIx) (u : SubIx) (f : Sublink → Sublink) : (s.modSub g u f).grd = s.grd := rfl
@[simp] theorem State.modSub_pit (s : State) (g : GroupIx) (u : SubIx) (f : Sublink → Sublink) : (s.modSub g u f).pit = s.pit := rfl
@[simp] theorem State.modSub_glb (s : State) (g : GroupIx) (u : SubIx) (f : Sublink → Sublink) : (s.modSub g u f).glb = s.glb := rfl
@[simp] theorem State.modSub_cfg (s : State) (g : GroupIx) (u : SubIx) (f : Sublink → Sublink) : (s.modSub g u f).cfg = s.cfg := rfl
@[simp] theorem State.modSub_rtc (s : State) (g : GroupIx) (u : SubIx) (f : Sublink → Sublink) : (s.modSub g u f).rtc = s.rtc := rfl
@[simp] theorem State.modSub_pwr (s : State) (g : GroupIx) (u : SubIx) (f : Sublink → Sublink) : (s.modSub g u f).pwr = s.pwr := rfl
@[simp] theorem State.modSub_memu (s : State) (g : GroupIx) (u : SubIx) (f : Sublink → Sublink) : (s.modSub g u f).memu = s.memu := rfl
@[simp] theorem State.modSub_aud (s : State) (g : GroupIx) (u : SubIx) (f : Sublink → Sublink) : (s.modSub g u f).aud = s.aud := rfl
@[simp] theorem State.modSub_flt (s : State) (g : GroupIx) (u : SubIx) (f : Sublink → Sublink) : (s.modSub g u f).flt = s.flt := rfl
@[simp] theorem State.modSub_nvm (s : State) (g : GroupIx) (u : SubIx) (f : Sublink → Sublink) : (s.modSub g u f).nvm = s.nvm := rfl
@[simp] theorem State.modSub_pins (s : State) (g : GroupIx) (u : SubIx) (f : Sublink → Sublink) : (s.modSub g u f).pins = s.pins := rfl
@[simp] theorem State.modSub_latch (s : State) (g : GroupIx) (u : SubIx) (f : Sublink → Sublink) : (s.modSub g u f).latch = s.latch := rfl
@[simp] theorem State.modSub_low (s : State) (g : GroupIx) (u : SubIx) (f : Sublink → Sublink) : (s.modSub g u f).low = s.low := rfl
@[simp] theorem State.modSub_out (s : State) (g : GroupIx) (u : SubIx) (f : Sublink → Sublink) : (s.modSub g u f).out = s.out := rfl
@[simp] theorem State.modSub_now (s : State) (g : GroupIx) (u : SubIx) (f : Sublink → Sublink) : (s.modSub g u f).now = s.now := rfl
@[simp] theorem State.modSub_freeCtr (s : State) (g : GroupIx) (u : SubIx) (f : Sublink → Sublink) : (s.modSub g u f).freeCtr = s.freeCtr := rfl
@[simp] theorem State.modSub_pending (s : State) (g : GroupIx) (u : SubIx) (f : Sublink → Sublink) : (s.modSub g u f).pending = s.pending := rfl

@[simp] theorem State.modDom_mem (s : State) (d : DomIx) (f : Domain → Domain) : (s.modDom d f).mem = s.mem := rfl
@[simp] theorem State.modDom_cores (s : State) (d : DomIx) (f : Domain → Domain) : (s.modDom d f).cores = s.cores := rfl
@[simp] theorem State.modDom_fields (s : State) (d : DomIx) (f : Domain → Domain) : (s.modDom d f).fields = s.fields := rfl
@[simp] theorem State.modDom_mesh (s : State) (d : DomIx) (f : Domain → Domain) : (s.modDom d f).mesh = s.mesh := rfl
@[simp] theorem State.modDom_mcast (s : State) (d : DomIx) (f : Domain → Domain) : (s.modDom d f).mcast = s.mcast := rfl
@[simp] theorem State.modDom_held (s : State) (d : DomIx) (f : Domain → Domain) : (s.modDom d f).held = s.held := rfl
@[simp] theorem State.modDom_ctl (s : State) (d : DomIx) (f : Domain → Domain) : (s.modDom d f).ctl = s.ctl := rfl
@[simp] theorem State.modDom_links (s : State) (d : DomIx) (f : Domain → Domain) : (s.modDom d f).links = s.links := rfl
@[simp] theorem State.modDom_fab (s : State) (d : DomIx) (f : Domain → Domain) : (s.modDom d f).fab = s.fab := rfl
@[simp] theorem State.modDom_intk (s : State) (d : DomIx) (f : Domain → Domain) : (s.modDom d f).intk = s.intk := rfl
@[simp] theorem State.modDom_grd (s : State) (d : DomIx) (f : Domain → Domain) : (s.modDom d f).grd = s.grd := rfl
@[simp] theorem State.modDom_pit (s : State) (d : DomIx) (f : Domain → Domain) : (s.modDom d f).pit = s.pit := rfl
@[simp] theorem State.modDom_glb (s : State) (d : DomIx) (f : Domain → Domain) : (s.modDom d f).glb = s.glb := rfl
@[simp] theorem State.modDom_cfg (s : State) (d : DomIx) (f : Domain → Domain) : (s.modDom d f).cfg = s.cfg := rfl
@[simp] theorem State.modDom_rtc (s : State) (d : DomIx) (f : Domain → Domain) : (s.modDom d f).rtc = s.rtc := rfl
@[simp] theorem State.modDom_memu (s : State) (d : DomIx) (f : Domain → Domain) : (s.modDom d f).memu = s.memu := rfl
@[simp] theorem State.modDom_aud (s : State) (d : DomIx) (f : Domain → Domain) : (s.modDom d f).aud = s.aud := rfl
@[simp] theorem State.modDom_flt (s : State) (d : DomIx) (f : Domain → Domain) : (s.modDom d f).flt = s.flt := rfl
@[simp] theorem State.modDom_nvm (s : State) (d : DomIx) (f : Domain → Domain) : (s.modDom d f).nvm = s.nvm := rfl
@[simp] theorem State.modDom_pins (s : State) (d : DomIx) (f : Domain → Domain) : (s.modDom d f).pins = s.pins := rfl
@[simp] theorem State.modDom_latch (s : State) (d : DomIx) (f : Domain → Domain) : (s.modDom d f).latch = s.latch := rfl
@[simp] theorem State.modDom_low (s : State) (d : DomIx) (f : Domain → Domain) : (s.modDom d f).low = s.low := rfl
@[simp] theorem State.modDom_out (s : State) (d : DomIx) (f : Domain → Domain) : (s.modDom d f).out = s.out := rfl
@[simp] theorem State.modDom_now (s : State) (d : DomIx) (f : Domain → Domain) : (s.modDom d f).now = s.now := rfl
@[simp] theorem State.modDom_freeCtr (s : State) (d : DomIx) (f : Domain → Domain) : (s.modDom d f).freeCtr = s.freeCtr := rfl
@[simp] theorem State.modDom_pending (s : State) (d : DomIx) (f : Domain → Domain) : (s.modDom d f).pending = s.pending := rfl

@[simp] theorem State.modCtx_mem (s : State) (x : BitVec 16) (f : Ctx → Ctx) : (s.modCtx x f).mem = s.mem := rfl
@[simp] theorem State.modCtx_cores (s : State) (x : BitVec 16) (f : Ctx → Ctx) : (s.modCtx x f).cores = s.cores := rfl
@[simp] theorem State.modCtx_fields (s : State) (x : BitVec 16) (f : Ctx → Ctx) : (s.modCtx x f).fields = s.fields := rfl
@[simp] theorem State.modCtx_mesh (s : State) (x : BitVec 16) (f : Ctx → Ctx) : (s.modCtx x f).mesh = s.mesh := rfl
@[simp] theorem State.modCtx_mcast (s : State) (x : BitVec 16) (f : Ctx → Ctx) : (s.modCtx x f).mcast = s.mcast := rfl
@[simp] theorem State.modCtx_held (s : State) (x : BitVec 16) (f : Ctx → Ctx) : (s.modCtx x f).held = s.held := rfl
@[simp] theorem State.modCtx_ctl (s : State) (x : BitVec 16) (f : Ctx → Ctx) : (s.modCtx x f).ctl = s.ctl := rfl
@[simp] theorem State.modCtx_links (s : State) (x : BitVec 16) (f : Ctx → Ctx) : (s.modCtx x f).links = s.links := rfl
@[simp] theorem State.modCtx_intk (s : State) (x : BitVec 16) (f : Ctx → Ctx) : (s.modCtx x f).intk = s.intk := rfl
@[simp] theorem State.modCtx_grd (s : State) (x : BitVec 16) (f : Ctx → Ctx) : (s.modCtx x f).grd = s.grd := rfl
@[simp] theorem State.modCtx_pit (s : State) (x : BitVec 16) (f : Ctx → Ctx) : (s.modCtx x f).pit = s.pit := rfl
@[simp] theorem State.modCtx_glb (s : State) (x : BitVec 16) (f : Ctx → Ctx) : (s.modCtx x f).glb = s.glb := rfl
@[simp] theorem State.modCtx_cfg (s : State) (x : BitVec 16) (f : Ctx → Ctx) : (s.modCtx x f).cfg = s.cfg := rfl
@[simp] theorem State.modCtx_rtc (s : State) (x : BitVec 16) (f : Ctx → Ctx) : (s.modCtx x f).rtc = s.rtc := rfl
@[simp] theorem State.modCtx_pwr (s : State) (x : BitVec 16) (f : Ctx → Ctx) : (s.modCtx x f).pwr = s.pwr := rfl
@[simp] theorem State.modCtx_memu (s : State) (x : BitVec 16) (f : Ctx → Ctx) : (s.modCtx x f).memu = s.memu := rfl
@[simp] theorem State.modCtx_aud (s : State) (x : BitVec 16) (f : Ctx → Ctx) : (s.modCtx x f).aud = s.aud := rfl
@[simp] theorem State.modCtx_flt (s : State) (x : BitVec 16) (f : Ctx → Ctx) : (s.modCtx x f).flt = s.flt := rfl
@[simp] theorem State.modCtx_nvm (s : State) (x : BitVec 16) (f : Ctx → Ctx) : (s.modCtx x f).nvm = s.nvm := rfl
@[simp] theorem State.modCtx_pins (s : State) (x : BitVec 16) (f : Ctx → Ctx) : (s.modCtx x f).pins = s.pins := rfl
@[simp] theorem State.modCtx_latch (s : State) (x : BitVec 16) (f : Ctx → Ctx) : (s.modCtx x f).latch = s.latch := rfl
@[simp] theorem State.modCtx_low (s : State) (x : BitVec 16) (f : Ctx → Ctx) : (s.modCtx x f).low = s.low := rfl
@[simp] theorem State.modCtx_out (s : State) (x : BitVec 16) (f : Ctx → Ctx) : (s.modCtx x f).out = s.out := rfl
@[simp] theorem State.modCtx_now (s : State) (x : BitVec 16) (f : Ctx → Ctx) : (s.modCtx x f).now = s.now := rfl
@[simp] theorem State.modCtx_freeCtr (s : State) (x : BitVec 16) (f : Ctx → Ctx) : (s.modCtx x f).freeCtr = s.freeCtr := rfl
@[simp] theorem State.modCtx_pending (s : State) (x : BitVec 16) (f : Ctx → Ctx) : (s.modCtx x f).pending = s.pending := rfl

@[simp] theorem State.emit_mem (s : State) (o : Out) : (s.emit o).mem = s.mem := rfl
@[simp] theorem State.emit_cores (s : State) (o : Out) : (s.emit o).cores = s.cores := rfl
@[simp] theorem State.emit_fields (s : State) (o : Out) : (s.emit o).fields = s.fields := rfl
@[simp] theorem State.emit_mesh (s : State) (o : Out) : (s.emit o).mesh = s.mesh := rfl
@[simp] theorem State.emit_mcast (s : State) (o : Out) : (s.emit o).mcast = s.mcast := rfl
@[simp] theorem State.emit_held (s : State) (o : Out) : (s.emit o).held = s.held := rfl
@[simp] theorem State.emit_ctl (s : State) (o : Out) : (s.emit o).ctl = s.ctl := rfl
@[simp] theorem State.emit_links (s : State) (o : Out) : (s.emit o).links = s.links := rfl
@[simp] theorem State.emit_fab (s : State) (o : Out) : (s.emit o).fab = s.fab := rfl
@[simp] theorem State.emit_intk (s : State) (o : Out) : (s.emit o).intk = s.intk := rfl
@[simp] theorem State.emit_grd (s : State) (o : Out) : (s.emit o).grd = s.grd := rfl
@[simp] theorem State.emit_pit (s : State) (o : Out) : (s.emit o).pit = s.pit := rfl
@[simp] theorem State.emit_glb (s : State) (o : Out) : (s.emit o).glb = s.glb := rfl
@[simp] theorem State.emit_cfg (s : State) (o : Out) : (s.emit o).cfg = s.cfg := rfl
@[simp] theorem State.emit_rtc (s : State) (o : Out) : (s.emit o).rtc = s.rtc := rfl
@[simp] theorem State.emit_pwr (s : State) (o : Out) : (s.emit o).pwr = s.pwr := rfl
@[simp] theorem State.emit_memu (s : State) (o : Out) : (s.emit o).memu = s.memu := rfl
@[simp] theorem State.emit_aud (s : State) (o : Out) : (s.emit o).aud = s.aud := rfl
@[simp] theorem State.emit_flt (s : State) (o : Out) : (s.emit o).flt = s.flt := rfl
@[simp] theorem State.emit_nvm (s : State) (o : Out) : (s.emit o).nvm = s.nvm := rfl
@[simp] theorem State.emit_pins (s : State) (o : Out) : (s.emit o).pins = s.pins := rfl
@[simp] theorem State.emit_latch (s : State) (o : Out) : (s.emit o).latch = s.latch := rfl
@[simp] theorem State.emit_low (s : State) (o : Out) : (s.emit o).low = s.low := rfl
@[simp] theorem State.emit_now (s : State) (o : Out) : (s.emit o).now = s.now := rfl
@[simp] theorem State.emit_freeCtr (s : State) (o : Out) : (s.emit o).freeCtr = s.freeCtr := rfl
@[simp] theorem State.emit_pending (s : State) (o : Out) : (s.emit o).pending = s.pending := rfl

@[simp] theorem State.post_mem (s : State) (p : MeshPacket) : (s.post p).mem = s.mem := rfl
@[simp] theorem State.post_cores (s : State) (p : MeshPacket) : (s.post p).cores = s.cores := rfl
@[simp] theorem State.post_fields (s : State) (p : MeshPacket) : (s.post p).fields = s.fields := rfl
@[simp] theorem State.post_mcast (s : State) (p : MeshPacket) : (s.post p).mcast = s.mcast := rfl
@[simp] theorem State.post_held (s : State) (p : MeshPacket) : (s.post p).held = s.held := rfl
@[simp] theorem State.post_ctl (s : State) (p : MeshPacket) : (s.post p).ctl = s.ctl := rfl
@[simp] theorem State.post_links (s : State) (p : MeshPacket) : (s.post p).links = s.links := rfl
@[simp] theorem State.post_fab (s : State) (p : MeshPacket) : (s.post p).fab = s.fab := rfl
@[simp] theorem State.post_intk (s : State) (p : MeshPacket) : (s.post p).intk = s.intk := rfl
@[simp] theorem State.post_grd (s : State) (p : MeshPacket) : (s.post p).grd = s.grd := rfl
@[simp] theorem State.post_pit (s : State) (p : MeshPacket) : (s.post p).pit = s.pit := rfl
@[simp] theorem State.post_glb (s : State) (p : MeshPacket) : (s.post p).glb = s.glb := rfl
@[simp] theorem State.post_cfg (s : State) (p : MeshPacket) : (s.post p).cfg = s.cfg := rfl
@[simp] theorem State.post_rtc (s : State) (p : MeshPacket) : (s.post p).rtc = s.rtc := rfl
@[simp] theorem State.post_pwr (s : State) (p : MeshPacket) : (s.post p).pwr = s.pwr := rfl
@[simp] theorem State.post_memu (s : State) (p : MeshPacket) : (s.post p).memu = s.memu := rfl
@[simp] theorem State.post_aud (s : State) (p : MeshPacket) : (s.post p).aud = s.aud := rfl
@[simp] theorem State.post_flt (s : State) (p : MeshPacket) : (s.post p).flt = s.flt := rfl
@[simp] theorem State.post_nvm (s : State) (p : MeshPacket) : (s.post p).nvm = s.nvm := rfl
@[simp] theorem State.post_pins (s : State) (p : MeshPacket) : (s.post p).pins = s.pins := rfl
@[simp] theorem State.post_latch (s : State) (p : MeshPacket) : (s.post p).latch = s.latch := rfl
@[simp] theorem State.post_low (s : State) (p : MeshPacket) : (s.post p).low = s.low := rfl
@[simp] theorem State.post_out (s : State) (p : MeshPacket) : (s.post p).out = s.out := rfl
@[simp] theorem State.post_now (s : State) (p : MeshPacket) : (s.post p).now = s.now := rfl
@[simp] theorem State.post_freeCtr (s : State) (p : MeshPacket) : (s.post p).freeCtr = s.freeCtr := rfl
@[simp] theorem State.post_pending (s : State) (p : MeshPacket) : (s.post p).pending = s.pending := rfl

@[simp] theorem State.fresh_mem (s : State) (n : Nat) : (s.fresh n).mem = s.mem := rfl
@[simp] theorem State.fresh_cores (s : State) (n : Nat) : (s.fresh n).cores = s.cores := rfl
@[simp] theorem State.fresh_fields (s : State) (n : Nat) : (s.fresh n).fields = s.fields := rfl
@[simp] theorem State.fresh_mesh (s : State) (n : Nat) : (s.fresh n).mesh = s.mesh := rfl
@[simp] theorem State.fresh_mcast (s : State) (n : Nat) : (s.fresh n).mcast = s.mcast := rfl
@[simp] theorem State.fresh_held (s : State) (n : Nat) : (s.fresh n).held = s.held := rfl
@[simp] theorem State.fresh_ctl (s : State) (n : Nat) : (s.fresh n).ctl = s.ctl := rfl
@[simp] theorem State.fresh_links (s : State) (n : Nat) : (s.fresh n).links = s.links := rfl
@[simp] theorem State.fresh_fab (s : State) (n : Nat) : (s.fresh n).fab = s.fab := rfl
@[simp] theorem State.fresh_intk (s : State) (n : Nat) : (s.fresh n).intk = s.intk := rfl
@[simp] theorem State.fresh_grd (s : State) (n : Nat) : (s.fresh n).grd = s.grd := rfl
@[simp] theorem State.fresh_pit (s : State) (n : Nat) : (s.fresh n).pit = s.pit := rfl
@[simp] theorem State.fresh_glb (s : State) (n : Nat) : (s.fresh n).glb = s.glb := rfl
@[simp] theorem State.fresh_cfg (s : State) (n : Nat) : (s.fresh n).cfg = s.cfg := rfl
@[simp] theorem State.fresh_rtc (s : State) (n : Nat) : (s.fresh n).rtc = s.rtc := rfl
@[simp] theorem State.fresh_pwr (s : State) (n : Nat) : (s.fresh n).pwr = s.pwr := rfl
@[simp] theorem State.fresh_memu (s : State) (n : Nat) : (s.fresh n).memu = s.memu := rfl
@[simp] theorem State.fresh_aud (s : State) (n : Nat) : (s.fresh n).aud = s.aud := rfl
@[simp] theorem State.fresh_flt (s : State) (n : Nat) : (s.fresh n).flt = s.flt := rfl
@[simp] theorem State.fresh_nvm (s : State) (n : Nat) : (s.fresh n).nvm = s.nvm := rfl
@[simp] theorem State.fresh_pins (s : State) (n : Nat) : (s.fresh n).pins = s.pins := rfl
@[simp] theorem State.fresh_latch (s : State) (n : Nat) : (s.fresh n).latch = s.latch := rfl
@[simp] theorem State.fresh_low (s : State) (n : Nat) : (s.fresh n).low = s.low := rfl
@[simp] theorem State.fresh_out (s : State) (n : Nat) : (s.fresh n).out = s.out := rfl
@[simp] theorem State.fresh_now (s : State) (n : Nat) : (s.fresh n).now = s.now := rfl
@[simp] theorem State.fresh_pending (s : State) (n : Nat) : (s.fresh n).pending = s.pending := rfl

@[simp] theorem State.storeRaw_cores (s : State) (a : Nat) (bs : List Byte) (bad : List Nat) : (s.storeRaw a bs bad).cores = s.cores := rfl
@[simp] theorem State.storeRaw_fields (s : State) (a : Nat) (bs : List Byte) (bad : List Nat) : (s.storeRaw a bs bad).fields = s.fields := rfl
@[simp] theorem State.storeRaw_mesh (s : State) (a : Nat) (bs : List Byte) (bad : List Nat) : (s.storeRaw a bs bad).mesh = s.mesh := rfl
@[simp] theorem State.storeRaw_mcast (s : State) (a : Nat) (bs : List Byte) (bad : List Nat) : (s.storeRaw a bs bad).mcast = s.mcast := rfl
@[simp] theorem State.storeRaw_held (s : State) (a : Nat) (bs : List Byte) (bad : List Nat) : (s.storeRaw a bs bad).held = s.held := rfl
@[simp] theorem State.storeRaw_ctl (s : State) (a : Nat) (bs : List Byte) (bad : List Nat) : (s.storeRaw a bs bad).ctl = s.ctl := rfl
@[simp] theorem State.storeRaw_links (s : State) (a : Nat) (bs : List Byte) (bad : List Nat) : (s.storeRaw a bs bad).links = s.links := rfl
@[simp] theorem State.storeRaw_fab (s : State) (a : Nat) (bs : List Byte) (bad : List Nat) : (s.storeRaw a bs bad).fab = s.fab := rfl
@[simp] theorem State.storeRaw_intk (s : State) (a : Nat) (bs : List Byte) (bad : List Nat) : (s.storeRaw a bs bad).intk = s.intk := rfl
@[simp] theorem State.storeRaw_grd (s : State) (a : Nat) (bs : List Byte) (bad : List Nat) : (s.storeRaw a bs bad).grd = s.grd := rfl
@[simp] theorem State.storeRaw_pit (s : State) (a : Nat) (bs : List Byte) (bad : List Nat) : (s.storeRaw a bs bad).pit = s.pit := rfl
@[simp] theorem State.storeRaw_glb (s : State) (a : Nat) (bs : List Byte) (bad : List Nat) : (s.storeRaw a bs bad).glb = s.glb := rfl
@[simp] theorem State.storeRaw_cfg (s : State) (a : Nat) (bs : List Byte) (bad : List Nat) : (s.storeRaw a bs bad).cfg = s.cfg := rfl
@[simp] theorem State.storeRaw_rtc (s : State) (a : Nat) (bs : List Byte) (bad : List Nat) : (s.storeRaw a bs bad).rtc = s.rtc := rfl
@[simp] theorem State.storeRaw_pwr (s : State) (a : Nat) (bs : List Byte) (bad : List Nat) : (s.storeRaw a bs bad).pwr = s.pwr := rfl
@[simp] theorem State.storeRaw_memu (s : State) (a : Nat) (bs : List Byte) (bad : List Nat) : (s.storeRaw a bs bad).memu = s.memu := rfl
@[simp] theorem State.storeRaw_aud (s : State) (a : Nat) (bs : List Byte) (bad : List Nat) : (s.storeRaw a bs bad).aud = s.aud := rfl
@[simp] theorem State.storeRaw_flt (s : State) (a : Nat) (bs : List Byte) (bad : List Nat) : (s.storeRaw a bs bad).flt = s.flt := rfl
@[simp] theorem State.storeRaw_nvm (s : State) (a : Nat) (bs : List Byte) (bad : List Nat) : (s.storeRaw a bs bad).nvm = s.nvm := rfl
@[simp] theorem State.storeRaw_pins (s : State) (a : Nat) (bs : List Byte) (bad : List Nat) : (s.storeRaw a bs bad).pins = s.pins := rfl
@[simp] theorem State.storeRaw_latch (s : State) (a : Nat) (bs : List Byte) (bad : List Nat) : (s.storeRaw a bs bad).latch = s.latch := rfl
@[simp] theorem State.storeRaw_low (s : State) (a : Nat) (bs : List Byte) (bad : List Nat) : (s.storeRaw a bs bad).low = s.low := rfl
@[simp] theorem State.storeRaw_out (s : State) (a : Nat) (bs : List Byte) (bad : List Nat) : (s.storeRaw a bs bad).out = s.out := rfl
@[simp] theorem State.storeRaw_now (s : State) (a : Nat) (bs : List Byte) (bad : List Nat) : (s.storeRaw a bs bad).now = s.now := rfl
@[simp] theorem State.storeRaw_freeCtr (s : State) (a : Nat) (bs : List Byte) (bad : List Nat) : (s.storeRaw a bs bad).freeCtr = s.freeCtr := rfl
@[simp] theorem State.storeRaw_pending (s : State) (a : Nat) (bs : List Byte) (bad : List Nat) : (s.storeRaw a bs bad).pending = s.pending := rfl

@[simp] theorem State.service_mem (s : State) (b : Nat) : (s.service b).mem = s.mem := rfl
@[simp] theorem State.service_cores (s : State) (b : Nat) : (s.service b).cores = s.cores := rfl
@[simp] theorem State.service_fields (s : State) (b : Nat) : (s.service b).fields = s.fields := rfl
@[simp] theorem State.service_mesh (s : State) (b : Nat) : (s.service b).mesh = s.mesh := rfl
@[simp] theorem State.service_mcast (s : State) (b : Nat) : (s.service b).mcast = s.mcast := rfl
@[simp] theorem State.service_held (s : State) (b : Nat) : (s.service b).held = s.held := rfl
@[simp] theorem State.service_ctl (s : State) (b : Nat) : (s.service b).ctl = s.ctl := rfl
@[simp] theorem State.service_links (s : State) (b : Nat) : (s.service b).links = s.links := rfl
@[simp] theorem State.service_fab (s : State) (b : Nat) : (s.service b).fab = s.fab := rfl
@[simp] theorem State.service_intk (s : State) (b : Nat) : (s.service b).intk = s.intk := rfl
@[simp] theorem State.service_grd (s : State) (b : Nat) : (s.service b).grd = s.grd := rfl
@[simp] theorem State.service_pit (s : State) (b : Nat) : (s.service b).pit = s.pit := rfl
@[simp] theorem State.service_glb (s : State) (b : Nat) : (s.service b).glb = s.glb := rfl
@[simp] theorem State.service_cfg (s : State) (b : Nat) : (s.service b).cfg = s.cfg := rfl
@[simp] theorem State.service_rtc (s : State) (b : Nat) : (s.service b).rtc = s.rtc := rfl
@[simp] theorem State.service_pwr (s : State) (b : Nat) : (s.service b).pwr = s.pwr := rfl
@[simp] theorem State.service_memu (s : State) (b : Nat) : (s.service b).memu = s.memu := rfl
@[simp] theorem State.service_aud (s : State) (b : Nat) : (s.service b).aud = s.aud := rfl
@[simp] theorem State.service_nvm (s : State) (b : Nat) : (s.service b).nvm = s.nvm := rfl
@[simp] theorem State.service_pins (s : State) (b : Nat) : (s.service b).pins = s.pins := rfl
@[simp] theorem State.service_latch (s : State) (b : Nat) : (s.service b).latch = s.latch := rfl
@[simp] theorem State.service_low (s : State) (b : Nat) : (s.service b).low = s.low := rfl
@[simp] theorem State.service_out (s : State) (b : Nat) : (s.service b).out = s.out := rfl
@[simp] theorem State.service_now (s : State) (b : Nat) : (s.service b).now = s.now := rfl
@[simp] theorem State.service_freeCtr (s : State) (b : Nat) : (s.service b).freeCtr = s.freeCtr := rfl
@[simp] theorem State.service_pending (s : State) (b : Nat) : (s.service b).pending = s.pending := rfl

@[simp] theorem State.countRefused_mem (s : State) (p : Path) : (s.countRefused p).mem = s.mem := rfl
@[simp] theorem State.countRefused_cores (s : State) (p : Path) : (s.countRefused p).cores = s.cores := rfl
@[simp] theorem State.countRefused_fields (s : State) (p : Path) : (s.countRefused p).fields = s.fields := rfl
@[simp] theorem State.countRefused_mesh (s : State) (p : Path) : (s.countRefused p).mesh = s.mesh := rfl
@[simp] theorem State.countRefused_mcast (s : State) (p : Path) : (s.countRefused p).mcast = s.mcast := rfl
@[simp] theorem State.countRefused_held (s : State) (p : Path) : (s.countRefused p).held = s.held := rfl
@[simp] theorem State.countRefused_ctl (s : State) (p : Path) : (s.countRefused p).ctl = s.ctl := rfl
@[simp] theorem State.countRefused_links (s : State) (p : Path) : (s.countRefused p).links = s.links := rfl
@[simp] theorem State.countRefused_fab (s : State) (p : Path) : (s.countRefused p).fab = s.fab := rfl
@[simp] theorem State.countRefused_intk (s : State) (p : Path) : (s.countRefused p).intk = s.intk := rfl
@[simp] theorem State.countRefused_grd (s : State) (p : Path) : (s.countRefused p).grd = s.grd := rfl
@[simp] theorem State.countRefused_pit (s : State) (p : Path) : (s.countRefused p).pit = s.pit := rfl
@[simp] theorem State.countRefused_cfg (s : State) (p : Path) : (s.countRefused p).cfg = s.cfg := rfl
@[simp] theorem State.countRefused_rtc (s : State) (p : Path) : (s.countRefused p).rtc = s.rtc := rfl
@[simp] theorem State.countRefused_pwr (s : State) (p : Path) : (s.countRefused p).pwr = s.pwr := rfl
@[simp] theorem State.countRefused_memu (s : State) (p : Path) : (s.countRefused p).memu = s.memu := rfl
@[simp] theorem State.countRefused_aud (s : State) (p : Path) : (s.countRefused p).aud = s.aud := rfl
@[simp] theorem State.countRefused_flt (s : State) (p : Path) : (s.countRefused p).flt = s.flt := rfl
@[simp] theorem State.countRefused_nvm (s : State) (p : Path) : (s.countRefused p).nvm = s.nvm := rfl
@[simp] theorem State.countRefused_pins (s : State) (p : Path) : (s.countRefused p).pins = s.pins := rfl
@[simp] theorem State.countRefused_latch (s : State) (p : Path) : (s.countRefused p).latch = s.latch := rfl
@[simp] theorem State.countRefused_low (s : State) (p : Path) : (s.countRefused p).low = s.low := rfl
@[simp] theorem State.countRefused_out (s : State) (p : Path) : (s.countRefused p).out = s.out := rfl
@[simp] theorem State.countRefused_now (s : State) (p : Path) : (s.countRefused p).now = s.now := rfl
@[simp] theorem State.countRefused_freeCtr (s : State) (p : Path) : (s.countRefused p).freeCtr = s.freeCtr := rfl
@[simp] theorem State.countRefused_pending (s : State) (p : Path) : (s.countRefused p).pending = s.pending := rfl

@[simp] theorem State.refuse_mem (s : State) (p : Path) (off : BitVec 26) : (s.refuse p off).mem = s.mem := rfl
@[simp] theorem State.refuse_cores (s : State) (p : Path) (off : BitVec 26) : (s.refuse p off).cores = s.cores := rfl
@[simp] theorem State.refuse_fields (s : State) (p : Path) (off : BitVec 26) : (s.refuse p off).fields = s.fields := rfl
@[simp] theorem State.refuse_mesh (s : State) (p : Path) (off : BitVec 26) : (s.refuse p off).mesh = s.mesh := rfl
@[simp] theorem State.refuse_mcast (s : State) (p : Path) (off : BitVec 26) : (s.refuse p off).mcast = s.mcast := rfl
@[simp] theorem State.refuse_held (s : State) (p : Path) (off : BitVec 26) : (s.refuse p off).held = s.held := rfl
@[simp] theorem State.refuse_ctl (s : State) (p : Path) (off : BitVec 26) : (s.refuse p off).ctl = s.ctl := rfl
@[simp] theorem State.refuse_links (s : State) (p : Path) (off : BitVec 26) : (s.refuse p off).links = s.links := rfl
@[simp] theorem State.refuse_fab (s : State) (p : Path) (off : BitVec 26) : (s.refuse p off).fab = s.fab := rfl
@[simp] theorem State.refuse_intk (s : State) (p : Path) (off : BitVec 26) : (s.refuse p off).intk = s.intk := rfl
@[simp] theorem State.refuse_grd (s : State) (p : Path) (off : BitVec 26) : (s.refuse p off).grd = s.grd := rfl
@[simp] theorem State.refuse_pit (s : State) (p : Path) (off : BitVec 26) : (s.refuse p off).pit = s.pit := rfl
@[simp] theorem State.refuse_cfg (s : State) (p : Path) (off : BitVec 26) : (s.refuse p off).cfg = s.cfg := rfl
@[simp] theorem State.refuse_rtc (s : State) (p : Path) (off : BitVec 26) : (s.refuse p off).rtc = s.rtc := rfl
@[simp] theorem State.refuse_pwr (s : State) (p : Path) (off : BitVec 26) : (s.refuse p off).pwr = s.pwr := rfl
@[simp] theorem State.refuse_memu (s : State) (p : Path) (off : BitVec 26) : (s.refuse p off).memu = s.memu := rfl
@[simp] theorem State.refuse_aud (s : State) (p : Path) (off : BitVec 26) : (s.refuse p off).aud = s.aud := rfl
@[simp] theorem State.refuse_flt (s : State) (p : Path) (off : BitVec 26) : (s.refuse p off).flt = s.flt := rfl
@[simp] theorem State.refuse_nvm (s : State) (p : Path) (off : BitVec 26) : (s.refuse p off).nvm = s.nvm := rfl
@[simp] theorem State.refuse_pins (s : State) (p : Path) (off : BitVec 26) : (s.refuse p off).pins = s.pins := rfl
@[simp] theorem State.refuse_latch (s : State) (p : Path) (off : BitVec 26) : (s.refuse p off).latch = s.latch := rfl
@[simp] theorem State.refuse_low (s : State) (p : Path) (off : BitVec 26) : (s.refuse p off).low = s.low := rfl
@[simp] theorem State.refuse_out (s : State) (p : Path) (off : BitVec 26) : (s.refuse p off).out = s.out := rfl
@[simp] theorem State.refuse_now (s : State) (p : Path) (off : BitVec 26) : (s.refuse p off).now = s.now := rfl
@[simp] theorem State.refuse_freeCtr (s : State) (p : Path) (off : BitVec 26) : (s.refuse p off).freeCtr = s.freeCtr := rfl
@[simp] theorem State.refuse_pending (s : State) (p : Path) (off : BitVec 26) : (s.refuse p off).pending = s.pending := rfl

/-! ## Parts after updates -/

@[simp] theorem State.modCore_core (s : State) (c : CoreIx) (f : Core → Core) : (s.modCore c f).core c = f (s.core c) :=
  upd_same s.cores c f

theorem State.modCore_core_other (s : State) (c d : CoreIx) (f : Core → Core) (h : d ≠ c) : (s.modCore c f).core d = s.core d :=
  upd_other s.cores c d f h

/-- A task context is a part of its core. -/
theorem State.task_eq (s : State) (c : CoreIx) (t : TaskIx) : s.task c t = (s.core c).tasks[t.val] := rfl

@[simp] theorem State.modTask_task (s : State) (c : CoreIx) (t : TaskIx) (f : Task → Task) :
    (s.modTask c t f).task c t = f (s.task c t) :=
  (congrArg (fun k : Core => k.tasks[t.val]) (upd_same s.cores c _)).trans (upd_same _ t f)

theorem State.modTask_core_other (s : State) (c d : CoreIx) (t : TaskIx) (f : Task → Task) (h : d ≠ c) :
    (s.modTask c t f).core d = s.core d := State.modCore_core_other _ _ _ _ h

theorem State.modTask_task_other (s : State) (c d : CoreIx) (t u : TaskIx) (f : Task → Task) (h : d ≠ c ∨ u ≠ t) :
    (s.modTask c t f).task d u = s.task d u := by
  by_cases e : d = c
  · subst e
    exact (congrArg (fun k : Core => k.tasks[u.val]) (upd_same s.cores d _)).trans
      (upd_other _ t u f (h.resolve_left fun g => g rfl))
  · exact congrArg (fun k : Core => k.tasks[u.val]) (upd_other s.cores c d _ e)

@[simp] theorem State.modCnt_task (s : State) (c d : CoreIx) (t : TaskIx) (f : CoreCount → CoreCount) :
    (s.modCnt c f).task d t = s.task d t := by
  by_cases e : d = c
  · subst e
    have h := congrArg (fun k : Core => k.tasks[t.val]) (upd_same s.cores d fun k => { k with cnt := f k.cnt })
    exact h
  · exact congrArg (fun k : Core => k.tasks[t.val]) (upd_other s.cores c d _ e)

theorem State.modCnt_core_other (s : State) (c d : CoreIx) (f : CoreCount → CoreCount) (h : d ≠ c) :
    (s.modCnt c f).core d = s.core d := State.modCore_core_other _ _ _ _ h

@[simp] theorem State.modField_field (s : State) (x : FieldIx) (f : Field → Field) : (s.modField x f).field x = f (s.field x) :=
  upd_same s.fields x f

theorem State.modField_field_other (s : State) (x y : FieldIx) (f : Field → Field) (h : y ≠ x) :
    (s.modField x f).field y = s.field y := upd_other s.fields x y f h

@[simp] theorem State.modGroup_group (s : State) (g : GroupIx) (f : LinkGroup → LinkGroup) :
    (s.modGroup g f).group g = f (s.group g) := upd_same s.links g f

theorem State.modGroup_group_other (s : State) (g h : GroupIx) (f : LinkGroup → LinkGroup) (e : h ≠ g) :
    (s.modGroup g f).group h = s.group h := upd_other s.links g h f e

@[simp] theorem State.modSub_sub (s : State) (g : GroupIx) (u : SubIx) (f : Sublink → Sublink) :
    (s.modSub g u f).sub g u = f (s.sub g u) :=
  (congrArg (fun k : LinkGroup => k.sub[u.val]) (upd_same s.links g _)).trans (upd_same _ u f)

theorem State.modSub_group_other (s : State) (g h : GroupIx) (u : SubIx) (f : Sublink → Sublink) (e : h ≠ g) :
    (s.modSub g u f).group h = s.group h := State.modGroup_group_other _ _ _ _ e

@[simp] theorem State.modDom_dom (s : State) (d : DomIx) (f : Domain → Domain) : (s.modDom d f).dom d = f (s.dom d) :=
  upd_same s.pwr.dom d f

theorem State.modDom_dom_other (s : State) (d e : DomIx) (f : Domain → Domain) (h : e ≠ d) : (s.modDom d f).dom e = s.dom e :=
  upd_other s.pwr.dom d e f h

end Sys2Proof.Machine
end

