-- ==== Sys2Proof/Laws/Flags.lean ====
section
/-! SUPPORT. What the shared operations of the fault log, the control network, credits and completion counters may change: one lemma
for each operation, and one for each field it leaves alone. -/

namespace Sys2Proof.Machine

/-- A fault message changes the fault unit and what leaves the module. -/
theorem State.faultMsix_only (s : State) (p : PortIx) :
    s.faultMsix p = { s with flt := (s.faultMsix p).flt, out := (s.faultMsix p).out } := by
  unfold State.faultMsix; split
  · rfl
  · split <;> rfl

@[simp] theorem State.faultMsix_mem (s : State) (p : PortIx) : (s.faultMsix p).mem = s.mem := by rw [State.faultMsix_only]
@[simp] theorem State.faultMsix_cores (s : State) (p : PortIx) : (s.faultMsix p).cores = s.cores := by rw [State.faultMsix_only]
@[simp] theorem State.faultMsix_fields (s : State) (p : PortIx) : (s.faultMsix p).fields = s.fields := by rw [State.faultMsix_only]
@[simp] theorem State.faultMsix_mesh (s : State) (p : PortIx) : (s.faultMsix p).mesh = s.mesh := by rw [State.faultMsix_only]
@[simp] theorem State.faultMsix_mcast (s : State) (p : PortIx) : (s.faultMsix p).mcast = s.mcast := by rw [State.faultMsix_only]
@[simp] theorem State.faultMsix_held (s : State) (p : PortIx) : (s.faultMsix p).held = s.held := by rw [State.faultMsix_only]
@[simp] theorem State.faultMsix_ctl (s : State) (p : PortIx) : (s.faultMsix p).ctl = s.ctl := by rw [State.faultMsix_only]
@[simp] theorem State.faultMsix_links (s : State) (p : PortIx) : (s.faultMsix p).links = s.links := by rw [State.faultMsix_only]
@[simp] theorem State.faultMsix_fab (s : State) (p : PortIx) : (s.faultMsix p).fab = s.fab := by rw [State.faultMsix_only]
@[simp] theorem State.faultMsix_intk (s : State) (p : PortIx) : (s.faultMsix p).intk = s.intk := by rw [State.faultMsix_only]
@[simp] theorem State.faultMsix_grd (s : State) (p : PortIx) : (s.faultMsix p).grd = s.grd := by rw [State.faultMsix_only]
@[simp] theorem State.faultMsix_pit (s : State) (p : PortIx) : (s.faultMsix p).pit = s.pit := by rw [State.faultMsix_only]
@[simp] theorem State.faultMsix_glb (s : State) (p : PortIx) : (s.faultMsix p).glb = s.glb := by rw [State.faultMsix_only]
@[simp] theorem State.faultMsix_cfg (s : State) (p : PortIx) : (s.faultMsix p).cfg = s.cfg := by rw [State.faultMsix_only]
@[simp] theorem State.faultMsix_rtc (s : State) (p : PortIx) : (s.faultMsix p).rtc = s.rtc := by rw [State.faultMsix_only]
@[simp] theorem State.faultMsix_pwr (s : State) (p : PortIx) : (s.faultMsix p).pwr = s.pwr := by rw [State.faultMsix_only]
@[simp] theorem State.faultMsix_memu (s : State) (p : PortIx) : (s.faultMsix p).memu = s.memu := by rw [State.faultMsix_only]
@[simp] theorem State.faultMsix_aud (s : State) (p : PortIx) : (s.faultMsix p).aud = s.aud := by rw [State.faultMsix_only]
@[simp] theorem State.faultMsix_nvm (s : State) (p : PortIx) : (s.faultMsix p).nvm = s.nvm := by rw [State.faultMsix_only]
@[simp] theorem State.faultMsix_pins (s : State) (p : PortIx) : (s.faultMsix p).pins = s.pins := by rw [State.faultMsix_only]
@[simp] theorem State.faultMsix_latch (s : State) (p : PortIx) : (s.faultMsix p).latch = s.latch := by rw [State.faultMsix_only]
@[simp] theorem State.faultMsix_low (s : State) (p : PortIx) : (s.faultMsix p).low = s.low := by rw [State.faultMsix_only]
@[simp] theorem State.faultMsix_now (s : State) (p : PortIx) : (s.faultMsix p).now = s.now := by rw [State.faultMsix_only]
@[simp] theorem State.faultMsix_freeCtr (s : State) (p : PortIx) : (s.faultMsix p).freeCtr = s.freeCtr := by rw [State.faultMsix_only]
@[simp] theorem State.faultMsix_pending (s : State) (p : PortIx) : (s.faultMsix p).pending = s.pending := by rw [State.faultMsix_only]

/-- So does the interrupt of a class. -/
theorem State.irqClass_only (s : State) (n : Nat) :
    s.irqClass n = { s with flt := (s.irqClass n).flt, out := (s.irqClass n).out } := by
  unfold State.irqClass
  split
  · rw [State.faultMsix_only, State.faultMsix_only s]
  · rfl

@[simp] theorem State.irqClass_mem (s : State) (n : Nat) : (s.irqClass n).mem = s.mem := by rw [State.irqClass_only]
@[simp] theorem State.irqClass_cores (s : State) (n : Nat) : (s.irqClass n).cores = s.cores := by rw [State.irqClass_only]
@[simp] theorem State.irqClass_fields (s : State) (n : Nat) : (s.irqClass n).fields = s.fields := by rw [State.irqClass_only]
@[simp] theorem State.irqClass_mesh (s : State) (n : Nat) : (s.irqClass n).mesh = s.mesh := by rw [State.irqClass_only]
@[simp] theorem State.irqClass_mcast (s : State) (n : Nat) : (s.irqClass n).mcast = s.mcast := by rw [State.irqClass_only]
@[simp] theorem State.irqClass_held (s : State) (n : Nat) : (s.irqClass n).held = s.held := by rw [State.irqClass_only]
@[simp] theorem State.irqClass_ctl (s : State) (n : Nat) : (s.irqClass n).ctl = s.ctl := by rw [State.irqClass_only]
@[simp] theorem State.irqClass_links (s : State) (n : Nat) : (s.irqClass n).links = s.links := by rw [State.irqClass_only]
@[simp] theorem State.irqClass_fab (s : State) (n : Nat) : (s.irqClass n).fab = s.fab := by rw [State.irqClass_only]
@[simp] theorem State.irqClass_intk (s : State) (n : Nat) : (s.irqClass n).intk = s.intk := by rw [State.irqClass_only]
@[simp] theorem State.irqClass_grd (s : State) (n : Nat) : (s.irqClass n).grd = s.grd := by rw [State.irqClass_only]
@[simp] theorem State.irqClass_pit (s : State) (n : Nat) : (s.irqClass n).pit = s.pit := by rw [State.irqClass_only]
@[simp] theorem State.irqClass_glb (s : State) (n : Nat) : (s.irqClass n).glb = s.glb := by rw [State.irqClass_only]
@[simp] theorem State.irqClass_cfg (s : State) (n : Nat) : (s.irqClass n).cfg = s.cfg := by rw [State.irqClass_only]
@[simp] theorem State.irqClass_rtc (s : State) (n : Nat) : (s.irqClass n).rtc = s.rtc := by rw [State.irqClass_only]
@[simp] theorem State.irqClass_pwr (s : State) (n : Nat) : (s.irqClass n).pwr = s.pwr := by rw [State.irqClass_only]
@[simp] theorem State.irqClass_memu (s : State) (n : Nat) : (s.irqClass n).memu = s.memu := by rw [State.irqClass_only]
@[simp] theorem State.irqClass_aud (s : State) (n : Nat) : (s.irqClass n).aud = s.aud := by rw [State.irqClass_only]
@[simp] theorem State.irqClass_nvm (s : State) (n : Nat) : (s.irqClass n).nvm = s.nvm := by rw [State.irqClass_only]
@[simp] theorem State.irqClass_pins (s : State) (n : Nat) : (s.irqClass n).pins = s.pins := by rw [State.irqClass_only]
@[simp] theorem State.irqClass_latch (s : State) (n : Nat) : (s.irqClass n).latch = s.latch := by rw [State.irqClass_only]
@[simp] theorem State.irqClass_low (s : State) (n : Nat) : (s.irqClass n).low = s.low := by rw [State.irqClass_only]
@[simp] theorem State.irqClass_now (s : State) (n : Nat) : (s.irqClass n).now = s.now := by rw [State.irqClass_only]
@[simp] theorem State.irqClass_freeCtr (s : State) (n : Nat) : (s.irqClass n).freeCtr = s.freeCtr := by rw [State.irqClass_only]
@[simp] theorem State.irqClass_pending (s : State) (n : Nat) : (s.irqClass n).pending = s.pending := by rw [State.irqClass_only]

/-- Entering an event makes the log longer by one. -/
theorem enterLog_length (e : LogEntry) (l : List LogEntry) : (enterLog e l).length = l.length + 1 := by
  induction l generalizing e with
  | nil => rfl
  | cons x xs ih => simp only [enterLog]; split <;> simp [ih]

/-- The entered event stands in the log, but for the number of its place. -/
theorem enterLog_mem (e : LogEntry) (l : List LogEntry) : ∃ x ∈ enterLog e l, { x with eseq := e.eseq } = e := by
  induction l generalizing e with
  | nil => exact ⟨e, List.mem_singleton.2 rfl, rfl⟩
  | cons x xs ih =>
    simp only [enterLog]; split
    · obtain ⟨y, hy, h⟩ := ih { e with eseq := x.eseq }
      exact ⟨y, List.mem_cons_of_mem _ hy, by rw [LogEntry.mk.injEq] at h ⊢; simp_all⟩
    · exact ⟨e, by simp, rfl⟩

/-- Logging changes the fault unit and what leaves the module. -/
theorem State.logCode_only (s : State) (code : BitVec 16) (k i : Byte) (d : List Byte) :
    s.logCode code k i d = { s with flt := (s.logCode code k i d).flt, out := (s.logCode code k i d).out } := by
  unfold State.logCode
  split
  · rfl
  · dsimp only; rw [State.irqClass_only]

@[simp] theorem State.logCode_mem (s : State) (code : BitVec 16) (k i : Byte) (d : List Byte) : (s.logCode code k i d).mem = s.mem := by rw [State.logCode_only]
@[simp] theorem State.logCode_cores (s : State) (code : BitVec 16) (k i : Byte) (d : List Byte) : (s.logCode code k i d).cores = s.cores := by rw [State.logCode_only]
@[simp] theorem State.logCode_fields (s : State) (code : BitVec 16) (k i : Byte) (d : List Byte) : (s.logCode code k i d).fields = s.fields := by rw [State.logCode_only]
@[simp] theorem State.logCode_mesh (s : State) (code : BitVec 16) (k i : Byte) (d : List Byte) : (s.logCode code k i d).mesh = s.mesh := by rw [State.logCode_only]
@[simp] theorem State.logCode_mcast (s : State) (code : BitVec 16) (k i : Byte) (d : List Byte) : (s.logCode code k i d).mcast = s.mcast := by rw [State.logCode_only]
@[simp] theorem State.logCode_held (s : State) (code : BitVec 16) (k i : Byte) (d : List Byte) : (s.logCode code k i d).held = s.held := by rw [State.logCode_only]
@[simp] theorem State.logCode_ctl (s : State) (code : BitVec 16) (k i : Byte) (d : List Byte) : (s.logCode code k i d).ctl = s.ctl := by rw [State.logCode_only]
@[simp] theorem State.logCode_links (s : State) (code : BitVec 16) (k i : Byte) (d : List Byte) : (s.logCode code k i d).links = s.links := by rw [State.logCode_only]
@[simp] theorem State.logCode_fab (s : State) (code : BitVec 16) (k i : Byte) (d : List Byte) : (s.logCode code k i d).fab = s.fab := by rw [State.logCode_only]
@[simp] theorem State.logCode_intk (s : State) (code : BitVec 16) (k i : Byte) (d : List Byte) : (s.logCode code k i d).intk = s.intk := by rw [State.logCode_only]
@[simp] theorem State.logCode_grd (s : State) (code : BitVec 16) (k i : Byte) (d : List Byte) : (s.logCode code k i d).grd = s.grd := by rw [State.logCode_only]
@[simp] theorem State.logCode_pit (s : State) (code : BitVec 16) (k i : Byte) (d : List Byte) : (s.logCode code k i d).pit = s.pit := by rw [State.logCode_only]
@[simp] theorem State.logCode_glb (s : State) (code : BitVec 16) (k i : Byte) (d : List Byte) : (s.logCode code k i d).glb = s.glb := by rw [State.logCode_only]
@[simp] theorem State.logCode_cfg (s : State) (code : BitVec 16) (k i : Byte) (d : List Byte) : (s.logCode code k i d).cfg = s.cfg := by rw [State.logCode_only]
@[simp] theorem State.logCode_rtc (s : State) (code : BitVec 16) (k i : Byte) (d : List Byte) : (s.logCode code k i d).rtc = s.rtc := by rw [State.logCode_only]
@[simp] theorem State.logCode_pwr (s : State) (code : BitVec 16) (k i : Byte) (d : List Byte) : (s.logCode code k i d).pwr = s.pwr := by rw [State.logCode_only]
@[simp] theorem State.logCode_memu (s : State) (code : BitVec 16) (k i : Byte) (d : List Byte) : (s.logCode code k i d).memu = s.memu := by rw [State.logCode_only]
@[simp] theorem State.logCode_aud (s : State) (code : BitVec 16) (k i : Byte) (d : List Byte) : (s.logCode code k i d).aud = s.aud := by rw [State.logCode_only]
@[simp] theorem State.logCode_nvm (s : State) (code : BitVec 16) (k i : Byte) (d : List Byte) : (s.logCode code k i d).nvm = s.nvm := by rw [State.logCode_only]
@[simp] theorem State.logCode_pins (s : State) (code : BitVec 16) (k i : Byte) (d : List Byte) : (s.logCode code k i d).pins = s.pins := by rw [State.logCode_only]
@[simp] theorem State.logCode_latch (s : State) (code : BitVec 16) (k i : Byte) (d : List Byte) : (s.logCode code k i d).latch = s.latch := by rw [State.logCode_only]
@[simp] theorem State.logCode_low (s : State) (code : BitVec 16) (k i : Byte) (d : List Byte) : (s.logCode code k i d).low = s.low := by rw [State.logCode_only]
@[simp] theorem State.logCode_now (s : State) (code : BitVec 16) (k i : Byte) (d : List Byte) : (s.logCode code k i d).now = s.now := by rw [State.logCode_only]
@[simp] theorem State.logCode_freeCtr (s : State) (code : BitVec 16) (k i : Byte) (d : List Byte) : (s.logCode code k i d).freeCtr = s.freeCtr := by rw [State.logCode_only]
@[simp] theorem State.logCode_pending (s : State) (code : BitVec 16) (k i : Byte) (d : List Byte) : (s.logCode code k i d).pending = s.pending := by rw [State.logCode_only]

/-- Logging an event does. -/
theorem State.logEvent_only (s : State) (cls unit loc kind ident : Nat) (d : List Byte) :
    s.logEvent cls unit loc kind ident d = { s with flt := (s.logEvent cls unit loc kind ident d).flt, out := (s.logEvent cls unit loc kind ident d).out } := by
  unfold State.logEvent; rw [State.logCode_only]

@[simp] theorem State.logEvent_mem (s : State) (cls unit loc kind ident : Nat) (d : List Byte) : (s.logEvent cls unit loc kind ident d).mem = s.mem := by rw [State.logEvent_only]
@[simp] theorem State.logEvent_cores (s : State) (cls unit loc kind ident : Nat) (d : List Byte) : (s.logEvent cls unit loc kind ident d).cores = s.cores := by rw [State.logEvent_only]
@[simp] theorem State.logEvent_fields (s : State) (cls unit loc kind ident : Nat) (d : List Byte) : (s.logEvent cls unit loc kind ident d).fields = s.fields := by rw [State.logEvent_only]
@[simp] theorem State.logEvent_mesh (s : State) (cls unit loc kind ident : Nat) (d : List Byte) : (s.logEvent cls unit loc kind ident d).mesh = s.mesh := by rw [State.logEvent_only]
@[simp] theorem State.logEvent_mcast (s : State) (cls unit loc kind ident : Nat) (d : List Byte) : (s.logEvent cls unit loc kind ident d).mcast = s.mcast := by rw [State.logEvent_only]
@[simp] theorem State.logEvent_held (s : State) (cls unit loc kind ident : Nat) (d : List Byte) : (s.logEvent cls unit loc kind ident d).held = s.held := by rw [State.logEvent_only]
@[simp] theorem State.logEvent_ctl (s : State) (cls unit loc kind ident : Nat) (d : List Byte) : (s.logEvent cls unit loc kind ident d).ctl = s.ctl := by rw [State.logEvent_only]
@[simp] theorem State.logEvent_links (s : State) (cls unit loc kind ident : Nat) (d : List Byte) : (s.logEvent cls unit loc kind ident d).links = s.links := by rw [State.logEvent_only]
@[simp] theorem State.logEvent_fab (s : State) (cls unit loc kind ident : Nat) (d : List Byte) : (s.logEvent cls unit loc kind ident d).fab = s.fab := by rw [State.logEvent_only]
@[simp] theorem State.logEvent_intk (s : State) (cls unit loc kind ident : Nat) (d : List Byte) : (s.logEvent cls unit loc kind ident d).intk = s.intk := by rw [State.logEvent_only]
@[simp] theorem State.logEvent_grd (s : State) (cls unit loc kind ident : Nat) (d : List Byte) : (s.logEvent cls unit loc kind ident d).grd = s.grd := by rw [State.logEvent_only]
@[simp] theorem State.logEvent_pit (s : State) (cls unit loc kind ident : Nat) (d : List Byte) : (s.logEvent cls unit loc kind ident d).pit = s.pit := by rw [State.logEvent_only]
@[simp] theorem State.logEvent_glb (s : State) (cls unit loc kind ident : Nat) (d : List Byte) : (s.logEvent cls unit loc kind ident d).glb = s.glb := by rw [State.logEvent_only]
@[simp] theorem State.logEvent_cfg (s : State) (cls unit loc kind ident : Nat) (d : List Byte) : (s.logEvent cls unit loc kind ident d).cfg = s.cfg := by rw [State.logEvent_only]
@[simp] theorem State.logEvent_rtc (s : State) (cls unit loc kind ident : Nat) (d : List Byte) : (s.logEvent cls unit loc kind ident d).rtc = s.rtc := by rw [State.logEvent_only]
@[simp] theorem State.logEvent_pwr (s : State) (cls unit loc kind ident : Nat) (d : List Byte) : (s.logEvent cls unit loc kind ident d).pwr = s.pwr := by rw [State.logEvent_only]
@[simp] theorem State.logEvent_memu (s : State) (cls unit loc kind ident : Nat) (d : List Byte) : (s.logEvent cls unit loc kind ident d).memu = s.memu := by rw [State.logEvent_only]
@[simp] theorem State.logEvent_aud (s : State) (cls unit loc kind ident : Nat) (d : List Byte) : (s.logEvent cls unit loc kind ident d).aud = s.aud := by rw [State.logEvent_only]
@[simp] theorem State.logEvent_nvm (s : State) (cls unit loc kind ident : Nat) (d : List Byte) : (s.logEvent cls unit loc kind ident d).nvm = s.nvm := by rw [State.logEvent_only]
@[simp] theorem State.logEvent_pins (s : State) (cls unit loc kind ident : Nat) (d : List Byte) : (s.logEvent cls unit loc kind ident d).pins = s.pins := by rw [State.logEvent_only]
@[simp] theorem State.logEvent_latch (s : State) (cls unit loc kind ident : Nat) (d : List Byte) : (s.logEvent cls unit loc kind ident d).latch = s.latch := by rw [State.logEvent_only]
@[simp] theorem State.logEvent_low (s : State) (cls unit loc kind ident : Nat) (d : List Byte) : (s.logEvent cls unit loc kind ident d).low = s.low := by rw [State.logEvent_only]
@[simp] theorem State.logEvent_now (s : State) (cls unit loc kind ident : Nat) (d : List Byte) : (s.logEvent cls unit loc kind ident d).now = s.now := by rw [State.logEvent_only]
@[simp] theorem State.logEvent_freeCtr (s : State) (cls unit loc kind ident : Nat) (d : List Byte) : (s.logEvent cls unit loc kind ident d).freeCtr = s.freeCtr := by rw [State.logEvent_only]
@[simp] theorem State.logEvent_pending (s : State) (cls unit loc kind ident : Nat) (d : List Byte) : (s.logEvent cls unit loc kind ident d).pending = s.pending := by rw [State.logEvent_only]

/-- Logging an event of a core does. -/
theorem State.coreEvent_only (s : State) (c : CoreIx) (cls unit loc : Nat) (d : List Byte) :
    s.coreEvent c cls unit loc d = { s with flt := (s.coreEvent c cls unit loc d).flt, out := (s.coreEvent c cls unit loc d).out } := by
  unfold State.coreEvent; rw [State.logEvent_only]

@[simp] theorem State.coreEvent_mem (s : State) (c : CoreIx) (cls unit loc : Nat) (d : List Byte) : (s.coreEvent c cls unit loc d).mem = s.mem := by rw [State.coreEvent_only]
@[simp] theorem State.coreEvent_cores (s : State) (c : CoreIx) (cls unit loc : Nat) (d : List Byte) : (s.coreEvent c cls unit loc d).cores = s.cores := by rw [State.coreEvent_only]
@[simp] theorem State.coreEvent_fields (s : State) (c : CoreIx) (cls unit loc : Nat) (d : List Byte) : (s.coreEvent c cls unit loc d).fields = s.fields := by rw [State.coreEvent_only]
@[simp] theorem State.coreEvent_mesh (s : State) (c : CoreIx) (cls unit loc : Nat) (d : List Byte) : (s.coreEvent c cls unit loc d).mesh = s.mesh := by rw [State.coreEvent_only]
@[simp] theorem State.coreEvent_mcast (s : State) (c : CoreIx) (cls unit loc : Nat) (d : List Byte) : (s.coreEvent c cls unit loc d).mcast = s.mcast := by rw [State.coreEvent_only]
@[simp] theorem State.coreEvent_held (s : State) (c : CoreIx) (cls unit loc : Nat) (d : List Byte) : (s.coreEvent c cls unit loc d).held = s.held := by rw [State.coreEvent_only]
@[simp] theorem State.coreEvent_ctl (s : State) (c : CoreIx) (cls unit loc : Nat) (d : List Byte) : (s.coreEvent c cls unit loc d).ctl = s.ctl := by rw [State.coreEvent_only]
@[simp] theorem State.coreEvent_links (s : State) (c : CoreIx) (cls unit loc : Nat) (d : List Byte) : (s.coreEvent c cls unit loc d).links = s.links := by rw [State.coreEvent_only]
@[simp] theorem State.coreEvent_fab (s : State) (c : CoreIx) (cls unit loc : Nat) (d : List Byte) : (s.coreEvent c cls unit loc d).fab = s.fab := by rw [State.coreEvent_only]
@[simp] theorem State.coreEvent_intk (s : State) (c : CoreIx) (cls unit loc : Nat) (d : List Byte) : (s.coreEvent c cls unit loc d).intk = s.intk := by rw [State.coreEvent_only]
@[simp] theorem State.coreEvent_grd (s : State) (c : CoreIx) (cls unit loc : Nat) (d : List Byte) : (s.coreEvent c cls unit loc d).grd = s.grd := by rw [State.coreEvent_only]
@[simp] theorem State.coreEvent_pit (s : State) (c : CoreIx) (cls unit loc : Nat) (d : List Byte) : (s.coreEvent c cls unit loc d).pit = s.pit := by rw [State.coreEvent_only]
@[simp] theorem State.coreEvent_glb (s : State) (c : CoreIx) (cls unit loc : Nat) (d : List Byte) : (s.coreEvent c cls unit loc d).glb = s.glb := by rw [State.coreEvent_only]
@[simp] theorem State.coreEvent_cfg (s : State) (c : CoreIx) (cls unit loc : Nat) (d : List Byte) : (s.coreEvent c cls unit loc d).cfg = s.cfg := by rw [State.coreEvent_only]
@[simp] theorem State.coreEvent_rtc (s : State) (c : CoreIx) (cls unit loc : Nat) (d : List Byte) : (s.coreEvent c cls unit loc d).rtc = s.rtc := by rw [State.coreEvent_only]
@[simp] theorem State.coreEvent_pwr (s : State) (c : CoreIx) (cls unit loc : Nat) (d : List Byte) : (s.coreEvent c cls unit loc d).pwr = s.pwr := by rw [State.coreEvent_only]
@[simp] theorem State.coreEvent_memu (s : State) (c : CoreIx) (cls unit loc : Nat) (d : List Byte) : (s.coreEvent c cls unit loc d).memu = s.memu := by rw [State.coreEvent_only]
@[simp] theorem State.coreEvent_aud (s : State) (c : CoreIx) (cls unit loc : Nat) (d : List Byte) : (s.coreEvent c cls unit loc d).aud = s.aud := by rw [State.coreEvent_only]
@[simp] theorem State.coreEvent_nvm (s : State) (c : CoreIx) (cls unit loc : Nat) (d : List Byte) : (s.coreEvent c cls unit loc d).nvm = s.nvm := by rw [State.coreEvent_only]
@[simp] theorem State.coreEvent_pins (s : State) (c : CoreIx) (cls unit loc : Nat) (d : List Byte) : (s.coreEvent c cls unit loc d).pins = s.pins := by rw [State.coreEvent_only]
@[simp] theorem State.coreEvent_latch (s : State) (c : CoreIx) (cls unit loc : Nat) (d : List Byte) : (s.coreEvent c cls unit loc d).latch = s.latch := by rw [State.coreEvent_only]
@[simp] theorem State.coreEvent_low (s : State) (c : CoreIx) (cls unit loc : Nat) (d : List Byte) : (s.coreEvent c cls unit loc d).low = s.low := by rw [State.coreEvent_only]
@[simp] theorem State.coreEvent_now (s : State) (c : CoreIx) (cls unit loc : Nat) (d : List Byte) : (s.coreEvent c cls unit loc d).now = s.now := by rw [State.coreEvent_only]
@[simp] theorem State.coreEvent_freeCtr (s : State) (c : CoreIx) (cls unit loc : Nat) (d : List Byte) : (s.coreEvent c cls unit loc d).freeCtr = s.freeCtr := by rw [State.coreEvent_only]
@[simp] theorem State.coreEvent_pending (s : State) (c : CoreIx) (cls unit loc : Nat) (d : List Byte) : (s.coreEvent c cls unit loc d).pending = s.pending := by rw [State.coreEvent_only]

/-- Logging an event of the module does. -/
theorem State.modEvent_only (s : State) (cls unit loc : Nat) (d : List Byte) :
    s.modEvent cls unit loc d = { s with flt := (s.modEvent cls unit loc d).flt, out := (s.modEvent cls unit loc d).out } := by
  unfold State.modEvent; rw [State.logEvent_only]

@[simp] theorem State.modEvent_mem (s : State) (cls unit loc : Nat) (d : List Byte) : (s.modEvent cls unit loc d).mem = s.mem := by rw [State.modEvent_only]
@[simp] theorem State.modEvent_cores (s : State) (cls unit loc : Nat) (d : List Byte) : (s.modEvent cls unit loc d).cores = s.cores := by rw [State.modEvent_only]
@[simp] theorem State.modEvent_fields (s : State) (cls unit loc : Nat) (d : List Byte) : (s.modEvent cls unit loc d).fields = s.fields := by rw [State.modEvent_only]
@[simp] theorem State.modEvent_mesh (s : State) (cls unit loc : Nat) (d : List Byte) : (s.modEvent cls unit loc d).mesh = s.mesh := by rw [State.modEvent_only]
@[simp] theorem State.modEvent_mcast (s : State) (cls unit loc : Nat) (d : List Byte) : (s.modEvent cls unit loc d).mcast = s.mcast := by rw [State.modEvent_only]
@[simp] theorem State.modEvent_held (s : State) (cls unit loc : Nat) (d : List Byte) : (s.modEvent cls unit loc d).held = s.held := by rw [State.modEvent_only]
@[simp] theorem State.modEvent_ctl (s : State) (cls unit loc : Nat) (d : List Byte) : (s.modEvent cls unit loc d).ctl = s.ctl := by rw [State.modEvent_only]
@[simp] theorem State.modEvent_links (s : State) (cls unit loc : Nat) (d : List Byte) : (s.modEvent cls unit loc d).links = s.links := by rw [State.modEvent_only]
@[simp] theorem State.modEvent_fab (s : State) (cls unit loc : Nat) (d : List Byte) : (s.modEvent cls unit loc d).fab = s.fab := by rw [State.modEvent_only]
@[simp] theorem State.modEvent_intk (s : State) (cls unit loc : Nat) (d : List Byte) : (s.modEvent cls unit loc d).intk = s.intk := by rw [State.modEvent_only]
@[simp] theorem State.modEvent_grd (s : State) (cls unit loc : Nat) (d : List Byte) : (s.modEvent cls unit loc d).grd = s.grd := by rw [State.modEvent_only]
@[simp] theorem State.modEvent_pit (s : State) (cls unit loc : Nat) (d : List Byte) : (s.modEvent cls unit loc d).pit = s.pit := by rw [State.modEvent_only]
@[simp] theorem State.modEvent_glb (s : State) (cls unit loc : Nat) (d : List Byte) : (s.modEvent cls unit loc d).glb = s.glb := by rw [State.modEvent_only]
@[simp] theorem State.modEvent_cfg (s : State) (cls unit loc : Nat) (d : List Byte) : (s.modEvent cls unit loc d).cfg = s.cfg := by rw [State.modEvent_only]
@[simp] theorem State.modEvent_rtc (s : State) (cls unit loc : Nat) (d : List Byte) : (s.modEvent cls unit loc d).rtc = s.rtc := by rw [State.modEvent_only]
@[simp] theorem State.modEvent_pwr (s : State) (cls unit loc : Nat) (d : List Byte) : (s.modEvent cls unit loc d).pwr = s.pwr := by rw [State.modEvent_only]
@[simp] theorem State.modEvent_memu (s : State) (cls unit loc : Nat) (d : List Byte) : (s.modEvent cls unit loc d).memu = s.memu := by rw [State.modEvent_only]
@[simp] theorem State.modEvent_aud (s : State) (cls unit loc : Nat) (d : List Byte) : (s.modEvent cls unit loc d).aud = s.aud := by rw [State.modEvent_only]
@[simp] theorem State.modEvent_nvm (s : State) (cls unit loc : Nat) (d : List Byte) : (s.modEvent cls unit loc d).nvm = s.nvm := by rw [State.modEvent_only]
@[simp] theorem State.modEvent_pins (s : State) (cls unit loc : Nat) (d : List Byte) : (s.modEvent cls unit loc d).pins = s.pins := by rw [State.modEvent_only]
@[simp] theorem State.modEvent_latch (s : State) (cls unit loc : Nat) (d : List Byte) : (s.modEvent cls unit loc d).latch = s.latch := by rw [State.modEvent_only]
@[simp] theorem State.modEvent_low (s : State) (cls unit loc : Nat) (d : List Byte) : (s.modEvent cls unit loc d).low = s.low := by rw [State.modEvent_only]
@[simp] theorem State.modEvent_now (s : State) (cls unit loc : Nat) (d : List Byte) : (s.modEvent cls unit loc d).now = s.now := by rw [State.modEvent_only]
@[simp] theorem State.modEvent_freeCtr (s : State) (cls unit loc : Nat) (d : List Byte) : (s.modEvent cls unit loc d).freeCtr = s.freeCtr := by rw [State.modEvent_only]
@[simp] theorem State.modEvent_pending (s : State) (cls unit loc : Nat) (d : List Byte) : (s.modEvent cls unit loc d).pending = s.pending := by rw [State.modEvent_only]

/-- A service bit changes the fault unit. -/
theorem State.service_only (s : State) (b : Nat) :
    s.service b = { s with flt := (s.service b).flt } := by
  rfl


/-- So does a cause of a reset. -/
theorem State.autoCause_only (s : State) :
    s.autoCause = { s with flt := (s.autoCause).flt } := by
  unfold State.autoCause
  split
  · split <;> rfl
  · rfl

@[simp] theorem State.autoCause_mem (s : State) : (s.autoCause).mem = s.mem := by rw [State.autoCause_only]
@[simp] theorem State.autoCause_cores (s : State) : (s.autoCause).cores = s.cores := by rw [State.autoCause_only]
@[simp] theorem State.autoCause_fields (s : State) : (s.autoCause).fields = s.fields := by rw [State.autoCause_only]
@[simp] theorem State.autoCause_mesh (s : State) : (s.autoCause).mesh = s.mesh := by rw [State.autoCause_only]
@[simp] theorem State.autoCause_mcast (s : State) : (s.autoCause).mcast = s.mcast := by rw [State.autoCause_only]
@[simp] theorem State.autoCause_held (s : State) : (s.autoCause).held = s.held := by rw [State.autoCause_only]
@[simp] theorem State.autoCause_ctl (s : State) : (s.autoCause).ctl = s.ctl := by rw [State.autoCause_only]
@[simp] theorem State.autoCause_links (s : State) : (s.autoCause).links = s.links := by rw [State.autoCause_only]
@[simp] theorem State.autoCause_fab (s : State) : (s.autoCause).fab = s.fab := by rw [State.autoCause_only]
@[simp] theorem State.autoCause_intk (s : State) : (s.autoCause).intk = s.intk := by rw [State.autoCause_only]
@[simp] theorem State.autoCause_grd (s : State) : (s.autoCause).grd = s.grd := by rw [State.autoCause_only]
@[simp] theorem State.autoCause_pit (s : State) : (s.autoCause).pit = s.pit := by rw [State.autoCause_only]
@[simp] theorem State.autoCause_glb (s : State) : (s.autoCause).glb = s.glb := by rw [State.autoCause_only]
@[simp] theorem State.autoCause_cfg (s : State) : (s.autoCause).cfg = s.cfg := by rw [State.autoCause_only]
@[simp] theorem State.autoCause_rtc (s : State) : (s.autoCause).rtc = s.rtc := by rw [State.autoCause_only]
@[simp] theorem State.autoCause_pwr (s : State) : (s.autoCause).pwr = s.pwr := by rw [State.autoCause_only]
@[simp] theorem State.autoCause_memu (s : State) : (s.autoCause).memu = s.memu := by rw [State.autoCause_only]
@[simp] theorem State.autoCause_aud (s : State) : (s.autoCause).aud = s.aud := by rw [State.autoCause_only]
@[simp] theorem State.autoCause_nvm (s : State) : (s.autoCause).nvm = s.nvm := by rw [State.autoCause_only]
@[simp] theorem State.autoCause_pins (s : State) : (s.autoCause).pins = s.pins := by rw [State.autoCause_only]
@[simp] theorem State.autoCause_latch (s : State) : (s.autoCause).latch = s.latch := by rw [State.autoCause_only]
@[simp] theorem State.autoCause_low (s : State) : (s.autoCause).low = s.low := by rw [State.autoCause_only]
@[simp] theorem State.autoCause_out (s : State) : (s.autoCause).out = s.out := by rw [State.autoCause_only]
@[simp] theorem State.autoCause_now (s : State) : (s.autoCause).now = s.now := by rw [State.autoCause_only]
@[simp] theorem State.autoCause_freeCtr (s : State) : (s.autoCause).freeCtr = s.freeCtr := by rw [State.autoCause_only]
@[simp] theorem State.autoCause_pending (s : State) : (s.autoCause).pending = s.pending := by rw [State.autoCause_only]

/-- Counting a refused write changes the global block. -/
theorem State.countRefused_only (s : State) (p : Path) :
    s.countRefused p = { s with glb := (s.countRefused p).glb } := by
  rfl


/-- Recording one does. -/
theorem State.refuse_only (s : State) (p : Path) (off : BitVec 26) :
    s.refuse p off = { s with glb := (s.refuse p off).glb } := by
  rfl


/-- A message that cannot be delivered is logged. -/
theorem State.ctlUndelivered_only (s : State) (m : CtlMsg) :
    s.ctlUndelivered m = { s with flt := (s.ctlUndelivered m).flt, out := (s.ctlUndelivered m).out } := by
  unfold State.ctlUndelivered
  rw [State.autoCause_only, State.service_only, State.logEvent_only]

@[simp] theorem State.ctlUndelivered_mem (s : State) (m : CtlMsg) : (s.ctlUndelivered m).mem = s.mem := by rw [State.ctlUndelivered_only]
@[simp] theorem State.ctlUndelivered_cores (s : State) (m : CtlMsg) : (s.ctlUndelivered m).cores = s.cores := by rw [State.ctlUndelivered_only]
@[simp] theorem State.ctlUndelivered_fields (s : State) (m : CtlMsg) : (s.ctlUndelivered m).fields = s.fields := by rw [State.ctlUndelivered_only]
@[simp] theorem State.ctlUndelivered_mesh (s : State) (m : CtlMsg) : (s.ctlUndelivered m).mesh = s.mesh := by rw [State.ctlUndelivered_only]
@[simp] theorem State.ctlUndelivered_mcast (s : State) (m : CtlMsg) : (s.ctlUndelivered m).mcast = s.mcast := by rw [State.ctlUndelivered_only]
@[simp] theorem State.ctlUndelivered_held (s : State) (m : CtlMsg) : (s.ctlUndelivered m).held = s.held := by rw [State.ctlUndelivered_only]
@[simp] theorem State.ctlUndelivered_ctl (s : State) (m : CtlMsg) : (s.ctlUndelivered m).ctl = s.ctl := by rw [State.ctlUndelivered_only]
@[simp] theorem State.ctlUndelivered_links (s : State) (m : CtlMsg) : (s.ctlUndelivered m).links = s.links := by rw [State.ctlUndelivered_only]
@[simp] theorem State.ctlUndelivered_fab (s : State) (m : CtlMsg) : (s.ctlUndelivered m).fab = s.fab := by rw [State.ctlUndelivered_only]
@[simp] theorem State.ctlUndelivered_intk (s : State) (m : CtlMsg) : (s.ctlUndelivered m).intk = s.intk := by rw [State.ctlUndelivered_only]
@[simp] theorem State.ctlUndelivered_grd (s : State) (m : CtlMsg) : (s.ctlUndelivered m).grd = s.grd := by rw [State.ctlUndelivered_only]
@[simp] theorem State.ctlUndelivered_pit (s : State) (m : CtlMsg) : (s.ctlUndelivered m).pit = s.pit := by rw [State.ctlUndelivered_only]
@[simp] theorem State.ctlUndelivered_glb (s : State) (m : CtlMsg) : (s.ctlUndelivered m).glb = s.glb := by rw [State.ctlUndelivered_only]
@[simp] theorem State.ctlUndelivered_cfg (s : State) (m : CtlMsg) : (s.ctlUndelivered m).cfg = s.cfg := by rw [State.ctlUndelivered_only]
@[simp] theorem State.ctlUndelivered_rtc (s : State) (m : CtlMsg) : (s.ctlUndelivered m).rtc = s.rtc := by rw [State.ctlUndelivered_only]
@[simp] theorem State.ctlUndelivered_pwr (s : State) (m : CtlMsg) : (s.ctlUndelivered m).pwr = s.pwr := by rw [State.ctlUndelivered_only]
@[simp] theorem State.ctlUndelivered_memu (s : State) (m : CtlMsg) : (s.ctlUndelivered m).memu = s.memu := by rw [State.ctlUndelivered_only]
@[simp] theorem State.ctlUndelivered_aud (s : State) (m : CtlMsg) : (s.ctlUndelivered m).aud = s.aud := by rw [State.ctlUndelivered_only]
@[simp] theorem State.ctlUndelivered_nvm (s : State) (m : CtlMsg) : (s.ctlUndelivered m).nvm = s.nvm := by rw [State.ctlUndelivered_only]
@[simp] theorem State.ctlUndelivered_pins (s : State) (m : CtlMsg) : (s.ctlUndelivered m).pins = s.pins := by rw [State.ctlUndelivered_only]
@[simp] theorem State.ctlUndelivered_latch (s : State) (m : CtlMsg) : (s.ctlUndelivered m).latch = s.latch := by rw [State.ctlUndelivered_only]
@[simp] theorem State.ctlUndelivered_low (s : State) (m : CtlMsg) : (s.ctlUndelivered m).low = s.low := by rw [State.ctlUndelivered_only]
@[simp] theorem State.ctlUndelivered_now (s : State) (m : CtlMsg) : (s.ctlUndelivered m).now = s.now := by rw [State.ctlUndelivered_only]
@[simp] theorem State.ctlUndelivered_freeCtr (s : State) (m : CtlMsg) : (s.ctlUndelivered m).freeCtr = s.freeCtr := by rw [State.ctlUndelivered_only]
@[simp] theorem State.ctlUndelivered_pending (s : State) (m : CtlMsg) : (s.ctlUndelivered m).pending = s.pending := by rw [State.ctlUndelivered_only]

/-- Sending on the control network adds a message, or logs that it cannot be delivered. -/
theorem State.tell_only (s : State) (m : CtlMsg) :
    s.tell m = { s with ctl := (s.tell m).ctl, flt := (s.tell m).flt, out := (s.tell m).out } := by
  unfold State.tell
  split
  · rfl
  · split
    · rfl
    · rw [State.ctlUndelivered_only]

@[simp] theorem State.tell_mem (s : State) (m : CtlMsg) : (s.tell m).mem = s.mem := by rw [State.tell_only]
@[simp] theorem State.tell_cores (s : State) (m : CtlMsg) : (s.tell m).cores = s.cores := by rw [State.tell_only]
@[simp] theorem State.tell_fields (s : State) (m : CtlMsg) : (s.tell m).fields = s.fields := by rw [State.tell_only]
@[simp] theorem State.tell_mesh (s : State) (m : CtlMsg) : (s.tell m).mesh = s.mesh := by rw [State.tell_only]
@[simp] theorem State.tell_mcast (s : State) (m : CtlMsg) : (s.tell m).mcast = s.mcast := by rw [State.tell_only]
@[simp] theorem State.tell_held (s : State) (m : CtlMsg) : (s.tell m).held = s.held := by rw [State.tell_only]
@[simp] theorem State.tell_links (s : State) (m : CtlMsg) : (s.tell m).links = s.links := by rw [State.tell_only]
@[simp] theorem State.tell_fab (s : State) (m : CtlMsg) : (s.tell m).fab = s.fab := by rw [State.tell_only]
@[simp] theorem State.tell_intk (s : State) (m : CtlMsg) : (s.tell m).intk = s.intk := by rw [State.tell_only]
@[simp] theorem State.tell_grd (s : State) (m : CtlMsg) : (s.tell m).grd = s.grd := by rw [State.tell_only]
@[simp] theorem State.tell_pit (s : State) (m : CtlMsg) : (s.tell m).pit = s.pit := by rw [State.tell_only]
@[simp] theorem State.tell_glb (s : State) (m : CtlMsg) : (s.tell m).glb = s.glb := by rw [State.tell_only]
@[simp] theorem State.tell_cfg (s : State) (m : CtlMsg) : (s.tell m).cfg = s.cfg := by rw [State.tell_only]
@[simp] theorem State.tell_rtc (s : State) (m : CtlMsg) : (s.tell m).rtc = s.rtc := by rw [State.tell_only]
@[simp] theorem State.tell_pwr (s : State) (m : CtlMsg) : (s.tell m).pwr = s.pwr := by rw [State.tell_only]
@[simp] theorem State.tell_memu (s : State) (m : CtlMsg) : (s.tell m).memu = s.memu := by rw [State.tell_only]
@[simp] theorem State.tell_aud (s : State) (m : CtlMsg) : (s.tell m).aud = s.aud := by rw [State.tell_only]
@[simp] theorem State.tell_nvm (s : State) (m : CtlMsg) : (s.tell m).nvm = s.nvm := by rw [State.tell_only]
@[simp] theorem State.tell_pins (s : State) (m : CtlMsg) : (s.tell m).pins = s.pins := by rw [State.tell_only]
@[simp] theorem State.tell_latch (s : State) (m : CtlMsg) : (s.tell m).latch = s.latch := by rw [State.tell_only]
@[simp] theorem State.tell_low (s : State) (m : CtlMsg) : (s.tell m).low = s.low := by rw [State.tell_only]
@[simp] theorem State.tell_now (s : State) (m : CtlMsg) : (s.tell m).now = s.now := by rw [State.tell_only]
@[simp] theorem State.tell_freeCtr (s : State) (m : CtlMsg) : (s.tell m).freeCtr = s.freeCtr := by rw [State.tell_only]
@[simp] theorem State.tell_pending (s : State) (m : CtlMsg) : (s.tell m).pending = s.pending := by rw [State.tell_only]

/-- Rewriting a context changes the fabric block. -/
theorem State.modCtx_only (s : State) (x : BitVec 16) (f : Ctx → Ctx) :
    s.modCtx x f = { s with fab := (s.modCtx x f).fab } := by
  rfl


/-- Owing credits does. -/
theorem State.owe_only (s : State) (x : BitVec 16) (n : Nat) :
    s.owe x n = { s with fab := (s.owe x n).fab } := by
  rfl

@[simp] theorem State.owe_mem (s : State) (x : BitVec 16) (n : Nat) : (s.owe x n).mem = s.mem := by rw [State.owe_only]
@[simp] theorem State.owe_cores (s : State) (x : BitVec 16) (n : Nat) : (s.owe x n).cores = s.cores := by rw [State.owe_only]
@[simp] theorem State.owe_fields (s : State) (x : BitVec 16) (n : Nat) : (s.owe x n).fields = s.fields := by rw [State.owe_only]
@[simp] theorem State.owe_mesh (s : State) (x : BitVec 16) (n : Nat) : (s.owe x n).mesh = s.mesh := by rw [State.owe_only]
@[simp] theorem State.owe_mcast (s : State) (x : BitVec 16) (n : Nat) : (s.owe x n).mcast = s.mcast := by rw [State.owe_only]
@[simp] theorem State.owe_held (s : State) (x : BitVec 16) (n : Nat) : (s.owe x n).held = s.held := by rw [State.owe_only]
@[simp] theorem State.owe_ctl (s : State) (x : BitVec 16) (n : Nat) : (s.owe x n).ctl = s.ctl := by rw [State.owe_only]
@[simp] theorem State.owe_links (s : State) (x : BitVec 16) (n : Nat) : (s.owe x n).links = s.links := by rw [State.owe_only]
@[simp] theorem State.owe_intk (s : State) (x : BitVec 16) (n : Nat) : (s.owe x n).intk = s.intk := by rw [State.owe_only]
@[simp] theorem State.owe_grd (s : State) (x : BitVec 16) (n : Nat) : (s.owe x n).grd = s.grd := by rw [State.owe_only]
@[simp] theorem State.owe_pit (s : State) (x : BitVec 16) (n : Nat) : (s.owe x n).pit = s.pit := by rw [State.owe_only]
@[simp] theorem State.owe_glb (s : State) (x : BitVec 16) (n : Nat) : (s.owe x n).glb = s.glb := by rw [State.owe_only]
@[simp] theorem State.owe_cfg (s : State) (x : BitVec 16) (n : Nat) : (s.owe x n).cfg = s.cfg := by rw [State.owe_only]
@[simp] theorem State.owe_rtc (s : State) (x : BitVec 16) (n : Nat) : (s.owe x n).rtc = s.rtc := by rw [State.owe_only]
@[simp] theorem State.owe_pwr (s : State) (x : BitVec 16) (n : Nat) : (s.owe x n).pwr = s.pwr := by rw [State.owe_only]
@[simp] theorem State.owe_memu (s : State) (x : BitVec 16) (n : Nat) : (s.owe x n).memu = s.memu := by rw [State.owe_only]
@[simp] theorem State.owe_aud (s : State) (x : BitVec 16) (n : Nat) : (s.owe x n).aud = s.aud := by rw [State.owe_only]
@[simp] theorem State.owe_flt (s : State) (x : BitVec 16) (n : Nat) : (s.owe x n).flt = s.flt := by rw [State.owe_only]
@[simp] theorem State.owe_nvm (s : State) (x : BitVec 16) (n : Nat) : (s.owe x n).nvm = s.nvm := by rw [State.owe_only]
@[simp] theorem State.owe_pins (s : State) (x : BitVec 16) (n : Nat) : (s.owe x n).pins = s.pins := by rw [State.owe_only]
@[simp] theorem State.owe_latch (s : State) (x : BitVec 16) (n : Nat) : (s.owe x n).latch = s.latch := by rw [State.owe_only]
@[simp] theorem State.owe_low (s : State) (x : BitVec 16) (n : Nat) : (s.owe x n).low = s.low := by rw [State.owe_only]
@[simp] theorem State.owe_out (s : State) (x : BitVec 16) (n : Nat) : (s.owe x n).out = s.out := by rw [State.owe_only]
@[simp] theorem State.owe_now (s : State) (x : BitVec 16) (n : Nat) : (s.owe x n).now = s.now := by rw [State.owe_only]
@[simp] theorem State.owe_freeCtr (s : State) (x : BitVec 16) (n : Nat) : (s.owe x n).freeCtr = s.freeCtr := by rw [State.owe_only]
@[simp] theorem State.owe_pending (s : State) (x : BitVec 16) (n : Nat) : (s.owe x n).pending = s.pending := by rw [State.owe_only]

/-- Granting slots sends a message or owes credits. -/
theorem State.grantSlots_only (s : State) (c : CoreIx) (k : Carrel) (n : Nat) :
    s.grantSlots c k n = { s with ctl := (s.grantSlots c k n).ctl, fab := (s.grantSlots c k n).fab, flt := (s.grantSlots c k n).flt, out := (s.grantSlots c k n).out } := by
  unfold State.grantSlots
  split
  · rw [State.tell_only]
  · rfl

@[simp] theorem State.grantSlots_mem (s : State) (c : CoreIx) (k : Carrel) (n : Nat) : (s.grantSlots c k n).mem = s.mem := by rw [State.grantSlots_only]
@[simp] theorem State.grantSlots_cores (s : State) (c : CoreIx) (k : Carrel) (n : Nat) : (s.grantSlots c k n).cores = s.cores := by rw [State.grantSlots_only]
@[simp] theorem State.grantSlots_fields (s : State) (c : CoreIx) (k : Carrel) (n : Nat) : (s.grantSlots c k n).fields = s.fields := by rw [State.grantSlots_only]
@[simp] theorem State.grantSlots_mesh (s : State) (c : CoreIx) (k : Carrel) (n : Nat) : (s.grantSlots c k n).mesh = s.mesh := by rw [State.grantSlots_only]
@[simp] theorem State.grantSlots_mcast (s : State) (c : CoreIx) (k : Carrel) (n : Nat) : (s.grantSlots c k n).mcast = s.mcast := by rw [State.grantSlots_only]
@[simp] theorem State.grantSlots_held (s : State) (c : CoreIx) (k : Carrel) (n : Nat) : (s.grantSlots c k n).held = s.held := by rw [State.grantSlots_only]
@[simp] theorem State.grantSlots_links (s : State) (c : CoreIx) (k : Carrel) (n : Nat) : (s.grantSlots c k n).links = s.links := by rw [State.grantSlots_only]
@[simp] theorem State.grantSlots_intk (s : State) (c : CoreIx) (k : Carrel) (n : Nat) : (s.grantSlots c k n).intk = s.intk := by rw [State.grantSlots_only]
@[simp] theorem State.grantSlots_grd (s : State) (c : CoreIx) (k : Carrel) (n : Nat) : (s.grantSlots c k n).grd = s.grd := by rw [State.grantSlots_only]
@[simp] theorem State.grantSlots_pit (s : State) (c : CoreIx) (k : Carrel) (n : Nat) : (s.grantSlots c k n).pit = s.pit := by rw [State.grantSlots_only]
@[simp] theorem State.grantSlots_glb (s : State) (c : CoreIx) (k : Carrel) (n : Nat) : (s.grantSlots c k n).glb = s.glb := by rw [State.grantSlots_only]
@[simp] theorem State.grantSlots_cfg (s : State) (c : CoreIx) (k : Carrel) (n : Nat) : (s.grantSlots c k n).cfg = s.cfg := by rw [State.grantSlots_only]
@[simp] theorem State.grantSlots_rtc (s : State) (c : CoreIx) (k : Carrel) (n : Nat) : (s.grantSlots c k n).rtc = s.rtc := by rw [State.grantSlots_only]
@[simp] theorem State.grantSlots_pwr (s : State) (c : CoreIx) (k : Carrel) (n : Nat) : (s.grantSlots c k n).pwr = s.pwr := by rw [State.grantSlots_only]
@[simp] theorem State.grantSlots_memu (s : State) (c : CoreIx) (k : Carrel) (n : Nat) : (s.grantSlots c k n).memu = s.memu := by rw [State.grantSlots_only]
@[simp] theorem State.grantSlots_aud (s : State) (c : CoreIx) (k : Carrel) (n : Nat) : (s.grantSlots c k n).aud = s.aud := by rw [State.grantSlots_only]
@[simp] theorem State.grantSlots_nvm (s : State) (c : CoreIx) (k : Carrel) (n : Nat) : (s.grantSlots c k n).nvm = s.nvm := by rw [State.grantSlots_only]
@[simp] theorem State.grantSlots_pins (s : State) (c : CoreIx) (k : Carrel) (n : Nat) : (s.grantSlots c k n).pins = s.pins := by rw [State.grantSlots_only]
@[simp] theorem State.grantSlots_latch (s : State) (c : CoreIx) (k : Carrel) (n : Nat) : (s.grantSlots c k n).latch = s.latch := by rw [State.grantSlots_only]
@[simp] theorem State.grantSlots_low (s : State) (c : CoreIx) (k : Carrel) (n : Nat) : (s.grantSlots c k n).low = s.low := by rw [State.grantSlots_only]
@[simp] theorem State.grantSlots_now (s : State) (c : CoreIx) (k : Carrel) (n : Nat) : (s.grantSlots c k n).now = s.now := by rw [State.grantSlots_only]
@[simp] theorem State.grantSlots_freeCtr (s : State) (c : CoreIx) (k : Carrel) (n : Nat) : (s.grantSlots c k n).freeCtr = s.freeCtr := by rw [State.grantSlots_only]
@[simp] theorem State.grantSlots_pending (s : State) (c : CoreIx) (k : Carrel) (n : Nat) : (s.grantSlots c k n).pending = s.pending := by rw [State.grantSlots_only]

/-- Releasing a landing slot changes its core and grants it. -/
theorem State.releaseOne_only (s : State) (c : CoreIx) (t : TaskIx) (i : Fin 64) (k : Fin 8) :
    s.releaseOne c t i k = { s with cores := (s.releaseOne c t i k).cores, ctl := (s.releaseOne c t i k).ctl, fab := (s.releaseOne c t i k).fab, flt := (s.releaseOne c t i k).flt, out := (s.releaseOne c t i k).out } := by
  unfold State.releaseOne
  dsimp only
  split
  · rw [State.grantSlots_only]; rfl
  · rfl

@[simp] theorem State.releaseOne_mem (s : State) (c : CoreIx) (t : TaskIx) (i : Fin 64) (k : Fin 8) : (s.releaseOne c t i k).mem = s.mem := by rw [State.releaseOne_only]
@[simp] theorem State.releaseOne_fields (s : State) (c : CoreIx) (t : TaskIx) (i : Fin 64) (k : Fin 8) : (s.releaseOne c t i k).fields = s.fields := by rw [State.releaseOne_only]
@[simp] theorem State.releaseOne_mesh (s : State) (c : CoreIx) (t : TaskIx) (i : Fin 64) (k : Fin 8) : (s.releaseOne c t i k).mesh = s.mesh := by rw [State.releaseOne_only]
@[simp] theorem State.releaseOne_mcast (s : State) (c : CoreIx) (t : TaskIx) (i : Fin 64) (k : Fin 8) : (s.releaseOne c t i k).mcast = s.mcast := by rw [State.releaseOne_only]
@[simp] theorem State.releaseOne_held (s : State) (c : CoreIx) (t : TaskIx) (i : Fin 64) (k : Fin 8) : (s.releaseOne c t i k).held = s.held := by rw [State.releaseOne_only]
@[simp] theorem State.releaseOne_links (s : State) (c : CoreIx) (t : TaskIx) (i : Fin 64) (k : Fin 8) : (s.releaseOne c t i k).links = s.links := by rw [State.releaseOne_only]
@[simp] theorem State.releaseOne_intk (s : State) (c : CoreIx) (t : TaskIx) (i : Fin 64) (k : Fin 8) : (s.releaseOne c t i k).intk = s.intk := by rw [State.releaseOne_only]
@[simp] theorem State.releaseOne_grd (s : State) (c : CoreIx) (t : TaskIx) (i : Fin 64) (k : Fin 8) : (s.releaseOne c t i k).grd = s.grd := by rw [State.releaseOne_only]
@[simp] theorem State.releaseOne_pit (s : State) (c : CoreIx) (t : TaskIx) (i : Fin 64) (k : Fin 8) : (s.releaseOne c t i k).pit = s.pit := by rw [State.releaseOne_only]
@[simp] theorem State.releaseOne_glb (s : State) (c : CoreIx) (t : TaskIx) (i : Fin 64) (k : Fin 8) : (s.releaseOne c t i k).glb = s.glb := by rw [State.releaseOne_only]
@[simp] theorem State.releaseOne_cfg (s : State) (c : CoreIx) (t : TaskIx) (i : Fin 64) (k : Fin 8) : (s.releaseOne c t i k).cfg = s.cfg := by rw [State.releaseOne_only]
@[simp] theorem State.releaseOne_rtc (s : State) (c : CoreIx) (t : TaskIx) (i : Fin 64) (k : Fin 8) : (s.releaseOne c t i k).rtc = s.rtc := by rw [State.releaseOne_only]
@[simp] theorem State.releaseOne_pwr (s : State) (c : CoreIx) (t : TaskIx) (i : Fin 64) (k : Fin 8) : (s.releaseOne c t i k).pwr = s.pwr := by rw [State.releaseOne_only]
@[simp] theorem State.releaseOne_memu (s : State) (c : CoreIx) (t : TaskIx) (i : Fin 64) (k : Fin 8) : (s.releaseOne c t i k).memu = s.memu := by rw [State.releaseOne_only]
@[simp] theorem State.releaseOne_aud (s : State) (c : CoreIx) (t : TaskIx) (i : Fin 64) (k : Fin 8) : (s.releaseOne c t i k).aud = s.aud := by rw [State.releaseOne_only]
@[simp] theorem State.releaseOne_nvm (s : State) (c : CoreIx) (t : TaskIx) (i : Fin 64) (k : Fin 8) : (s.releaseOne c t i k).nvm = s.nvm := by rw [State.releaseOne_only]
@[simp] theorem State.releaseOne_pins (s : State) (c : CoreIx) (t : TaskIx) (i : Fin 64) (k : Fin 8) : (s.releaseOne c t i k).pins = s.pins := by rw [State.releaseOne_only]
@[simp] theorem State.releaseOne_latch (s : State) (c : CoreIx) (t : TaskIx) (i : Fin 64) (k : Fin 8) : (s.releaseOne c t i k).latch = s.latch := by rw [State.releaseOne_only]
@[simp] theorem State.releaseOne_low (s : State) (c : CoreIx) (t : TaskIx) (i : Fin 64) (k : Fin 8) : (s.releaseOne c t i k).low = s.low := by rw [State.releaseOne_only]
@[simp] theorem State.releaseOne_now (s : State) (c : CoreIx) (t : TaskIx) (i : Fin 64) (k : Fin 8) : (s.releaseOne c t i k).now = s.now := by rw [State.releaseOne_only]
@[simp] theorem State.releaseOne_freeCtr (s : State) (c : CoreIx) (t : TaskIx) (i : Fin 64) (k : Fin 8) : (s.releaseOne c t i k).freeCtr = s.freeCtr := by rw [State.releaseOne_only]
@[simp] theorem State.releaseOne_pending (s : State) (c : CoreIx) (t : TaskIx) (i : Fin 64) (k : Fin 8) : (s.releaseOne c t i k).pending = s.pending := by rw [State.releaseOne_only]

/-- The saturation event is logged. -/
theorem State.satEvent_only (s : State) (c : CoreIx) (x : W32) (v : Nat) :
    s.satEvent c x v = { s with flt := (s.satEvent c x v).flt, out := (s.satEvent c x v).out } := by
  unfold State.satEvent
  split
  · rw [State.coreEvent_only]
  · rfl

@[simp] theorem State.satEvent_mem (s : State) (c : CoreIx) (x : W32) (v : Nat) : (s.satEvent c x v).mem = s.mem := by rw [State.satEvent_only]
@[simp] theorem State.satEvent_cores (s : State) (c : CoreIx) (x : W32) (v : Nat) : (s.satEvent c x v).cores = s.cores := by rw [State.satEvent_only]
@[simp] theorem State.satEvent_fields (s : State) (c : CoreIx) (x : W32) (v : Nat) : (s.satEvent c x v).fields = s.fields := by rw [State.satEvent_only]
@[simp] theorem State.satEvent_mesh (s : State) (c : CoreIx) (x : W32) (v : Nat) : (s.satEvent c x v).mesh = s.mesh := by rw [State.satEvent_only]
@[simp] theorem State.satEvent_mcast (s : State) (c : CoreIx) (x : W32) (v : Nat) : (s.satEvent c x v).mcast = s.mcast := by rw [State.satEvent_only]
@[simp] theorem State.satEvent_held (s : State) (c : CoreIx) (x : W32) (v : Nat) : (s.satEvent c x v).held = s.held := by rw [State.satEvent_only]
@[simp] theorem State.satEvent_ctl (s : State) (c : CoreIx) (x : W32) (v : Nat) : (s.satEvent c x v).ctl = s.ctl := by rw [State.satEvent_only]
@[simp] theorem State.satEvent_links (s : State) (c : CoreIx) (x : W32) (v : Nat) : (s.satEvent c x v).links = s.links := by rw [State.satEvent_only]
@[simp] theorem State.satEvent_fab (s : State) (c : CoreIx) (x : W32) (v : Nat) : (s.satEvent c x v).fab = s.fab := by rw [State.satEvent_only]
@[simp] theorem State.satEvent_intk (s : State) (c : CoreIx) (x : W32) (v : Nat) : (s.satEvent c x v).intk = s.intk := by rw [State.satEvent_only]
@[simp] theorem State.satEvent_grd (s : State) (c : CoreIx) (x : W32) (v : Nat) : (s.satEvent c x v).grd = s.grd := by rw [State.satEvent_only]
@[simp] theorem State.satEvent_pit (s : State) (c : CoreIx) (x : W32) (v : Nat) : (s.satEvent c x v).pit = s.pit := by rw [State.satEvent_only]
@[simp] theorem State.satEvent_glb (s : State) (c : CoreIx) (x : W32) (v : Nat) : (s.satEvent c x v).glb = s.glb := by rw [State.satEvent_only]
@[simp] theorem State.satEvent_cfg (s : State) (c : CoreIx) (x : W32) (v : Nat) : (s.satEvent c x v).cfg = s.cfg := by rw [State.satEvent_only]
@[simp] theorem State.satEvent_rtc (s : State) (c : CoreIx) (x : W32) (v : Nat) : (s.satEvent c x v).rtc = s.rtc := by rw [State.satEvent_only]
@[simp] theorem State.satEvent_pwr (s : State) (c : CoreIx) (x : W32) (v : Nat) : (s.satEvent c x v).pwr = s.pwr := by rw [State.satEvent_only]
@[simp] theorem State.satEvent_memu (s : State) (c : CoreIx) (x : W32) (v : Nat) : (s.satEvent c x v).memu = s.memu := by rw [State.satEvent_only]
@[simp] theorem State.satEvent_aud (s : State) (c : CoreIx) (x : W32) (v : Nat) : (s.satEvent c x v).aud = s.aud := by rw [State.satEvent_only]
@[simp] theorem State.satEvent_nvm (s : State) (c : CoreIx) (x : W32) (v : Nat) : (s.satEvent c x v).nvm = s.nvm := by rw [State.satEvent_only]
@[simp] theorem State.satEvent_pins (s : State) (c : CoreIx) (x : W32) (v : Nat) : (s.satEvent c x v).pins = s.pins := by rw [State.satEvent_only]
@[simp] theorem State.satEvent_latch (s : State) (c : CoreIx) (x : W32) (v : Nat) : (s.satEvent c x v).latch = s.latch := by rw [State.satEvent_only]
@[simp] theorem State.satEvent_low (s : State) (c : CoreIx) (x : W32) (v : Nat) : (s.satEvent c x v).low = s.low := by rw [State.satEvent_only]
@[simp] theorem State.satEvent_now (s : State) (c : CoreIx) (x : W32) (v : Nat) : (s.satEvent c x v).now = s.now := by rw [State.satEvent_only]
@[simp] theorem State.satEvent_freeCtr (s : State) (c : CoreIx) (x : W32) (v : Nat) : (s.satEvent c x v).freeCtr = s.freeCtr := by rw [State.satEvent_only]
@[simp] theorem State.satEvent_pending (s : State) (c : CoreIx) (x : W32) (v : Nat) : (s.satEvent c x v).pending = s.pending := by rw [State.satEvent_only]

/-- A raise changes its core, and may be logged. -/
theorem State.raiseOnly_only (s : State) (c : CoreIx) (t : TaskIx) (i : Fin 64) (v : Nat) :
    s.raiseOnly c t i v = { s with cores := (s.raiseOnly c t i v).cores, flt := (s.raiseOnly c t i v).flt, out := (s.raiseOnly c t i v).out } := by
  unfold State.raiseOnly
  rw [State.satEvent_only]
  rfl

@[simp] theorem State.raiseOnly_mem (s : State) (c : CoreIx) (t : TaskIx) (i : Fin 64) (v : Nat) : (s.raiseOnly c t i v).mem = s.mem := by rw [State.raiseOnly_only]
@[simp] theorem State.raiseOnly_fields (s : State) (c : CoreIx) (t : TaskIx) (i : Fin 64) (v : Nat) : (s.raiseOnly c t i v).fields = s.fields := by rw [State.raiseOnly_only]
@[simp] theorem State.raiseOnly_mesh (s : State) (c : CoreIx) (t : TaskIx) (i : Fin 64) (v : Nat) : (s.raiseOnly c t i v).mesh = s.mesh := by rw [State.raiseOnly_only]
@[simp] theorem State.raiseOnly_mcast (s : State) (c : CoreIx) (t : TaskIx) (i : Fin 64) (v : Nat) : (s.raiseOnly c t i v).mcast = s.mcast := by rw [State.raiseOnly_only]
@[simp] theorem State.raiseOnly_held (s : State) (c : CoreIx) (t : TaskIx) (i : Fin 64) (v : Nat) : (s.raiseOnly c t i v).held = s.held := by rw [State.raiseOnly_only]
@[simp] theorem State.raiseOnly_ctl (s : State) (c : CoreIx) (t : TaskIx) (i : Fin 64) (v : Nat) : (s.raiseOnly c t i v).ctl = s.ctl := by rw [State.raiseOnly_only]
@[simp] theorem State.raiseOnly_links (s : State) (c : CoreIx) (t : TaskIx) (i : Fin 64) (v : Nat) : (s.raiseOnly c t i v).links = s.links := by rw [State.raiseOnly_only]
@[simp] theorem State.raiseOnly_fab (s : State) (c : CoreIx) (t : TaskIx) (i : Fin 64) (v : Nat) : (s.raiseOnly c t i v).fab = s.fab := by rw [State.raiseOnly_only]
@[simp] theorem State.raiseOnly_intk (s : State) (c : CoreIx) (t : TaskIx) (i : Fin 64) (v : Nat) : (s.raiseOnly c t i v).intk = s.intk := by rw [State.raiseOnly_only]
@[simp] theorem State.raiseOnly_grd (s : State) (c : CoreIx) (t : TaskIx) (i : Fin 64) (v : Nat) : (s.raiseOnly c t i v).grd = s.grd := by rw [State.raiseOnly_only]
@[simp] theorem State.raiseOnly_pit (s : State) (c : CoreIx) (t : TaskIx) (i : Fin 64) (v : Nat) : (s.raiseOnly c t i v).pit = s.pit := by rw [State.raiseOnly_only]
@[simp] theorem State.raiseOnly_glb (s : State) (c : CoreIx) (t : TaskIx) (i : Fin 64) (v : Nat) : (s.raiseOnly c t i v).glb = s.glb := by rw [State.raiseOnly_only]
@[simp] theorem State.raiseOnly_cfg (s : State) (c : CoreIx) (t : TaskIx) (i : Fin 64) (v : Nat) : (s.raiseOnly c t i v).cfg = s.cfg := by rw [State.raiseOnly_only]
@[simp] theorem State.raiseOnly_rtc (s : State) (c : CoreIx) (t : TaskIx) (i : Fin 64) (v : Nat) : (s.raiseOnly c t i v).rtc = s.rtc := by rw [State.raiseOnly_only]
@[simp] theorem State.raiseOnly_pwr (s : State) (c : CoreIx) (t : TaskIx) (i : Fin 64) (v : Nat) : (s.raiseOnly c t i v).pwr = s.pwr := by rw [State.raiseOnly_only]
@[simp] theorem State.raiseOnly_memu (s : State) (c : CoreIx) (t : TaskIx) (i : Fin 64) (v : Nat) : (s.raiseOnly c t i v).memu = s.memu := by rw [State.raiseOnly_only]
@[simp] theorem State.raiseOnly_aud (s : State) (c : CoreIx) (t : TaskIx) (i : Fin 64) (v : Nat) : (s.raiseOnly c t i v).aud = s.aud := by rw [State.raiseOnly_only]
@[simp] theorem State.raiseOnly_nvm (s : State) (c : CoreIx) (t : TaskIx) (i : Fin 64) (v : Nat) : (s.raiseOnly c t i v).nvm = s.nvm := by rw [State.raiseOnly_only]
@[simp] theorem State.raiseOnly_pins (s : State) (c : CoreIx) (t : TaskIx) (i : Fin 64) (v : Nat) : (s.raiseOnly c t i v).pins = s.pins := by rw [State.raiseOnly_only]
@[simp] theorem State.raiseOnly_latch (s : State) (c : CoreIx) (t : TaskIx) (i : Fin 64) (v : Nat) : (s.raiseOnly c t i v).latch = s.latch := by rw [State.raiseOnly_only]
@[simp] theorem State.raiseOnly_low (s : State) (c : CoreIx) (t : TaskIx) (i : Fin 64) (v : Nat) : (s.raiseOnly c t i v).low = s.low := by rw [State.raiseOnly_only]
@[simp] theorem State.raiseOnly_now (s : State) (c : CoreIx) (t : TaskIx) (i : Fin 64) (v : Nat) : (s.raiseOnly c t i v).now = s.now := by rw [State.raiseOnly_only]
@[simp] theorem State.raiseOnly_freeCtr (s : State) (c : CoreIx) (t : TaskIx) (i : Fin 64) (v : Nat) : (s.raiseOnly c t i v).freeCtr = s.freeCtr := by rw [State.raiseOnly_only]
@[simp] theorem State.raiseOnly_pending (s : State) (c : CoreIx) (t : TaskIx) (i : Fin 64) (v : Nat) : (s.raiseOnly c t i v).pending = s.pending := by rw [State.raiseOnly_only]

/-- A raise with the landing slots it releases. -/
theorem State.raise_only (s : State) (c : CoreIx) (t : TaskIx) (i : Fin 64) (v : Nat) :
    s.raise c t i v = { s with cores := (s.raise c t i v).cores, ctl := (s.raise c t i v).ctl, fab := (s.raise c t i v).fab, flt := (s.raise c t i v).flt, out := (s.raise c t i v).out } := by
  have h : ∀ (l : List (Fin 8)) (u : State), l.foldl (fun s k => s.releaseOne c t i k) u =
      { u with cores := (l.foldl (fun s k => s.releaseOne c t i k) u).cores, ctl := (l.foldl (fun s k => s.releaseOne c t i k) u).ctl,
               fab := (l.foldl (fun s k => s.releaseOne c t i k) u).fab, flt := (l.foldl (fun s k => s.releaseOne c t i k) u).flt,
               out := (l.foldl (fun s k => s.releaseOne c t i k) u).out } := by
    intro l
    induction l with
    | nil => intro u; rfl
    | cons k l ih => intro u; rw [List.foldl_cons, ih, State.releaseOne_only]
  unfold State.raise
  rw [h, State.raiseOnly_only]

@[simp] theorem State.raise_mem (s : State) (c : CoreIx) (t : TaskIx) (i : Fin 64) (v : Nat) : (s.raise c t i v).mem = s.mem := by rw [State.raise_only]
@[simp] theorem State.raise_fields (s : State) (c : CoreIx) (t : TaskIx) (i : Fin 64) (v : Nat) : (s.raise c t i v).fields = s.fields := by rw [State.raise_only]
@[simp] theorem State.raise_mesh (s : State) (c : CoreIx) (t : TaskIx) (i : Fin 64) (v : Nat) : (s.raise c t i v).mesh = s.mesh := by rw [State.raise_only]
@[simp] theorem State.raise_mcast (s : State) (c : CoreIx) (t : TaskIx) (i : Fin 64) (v : Nat) : (s.raise c t i v).mcast = s.mcast := by rw [State.raise_only]
@[simp] theorem State.raise_held (s : State) (c : CoreIx) (t : TaskIx) (i : Fin 64) (v : Nat) : (s.raise c t i v).held = s.held := by rw [State.raise_only]
@[simp] theorem State.raise_links (s : State) (c : CoreIx) (t : TaskIx) (i : Fin 64) (v : Nat) : (s.raise c t i v).links = s.links := by rw [State.raise_only]
@[simp] theorem State.raise_intk (s : State) (c : CoreIx) (t : TaskIx) (i : Fin 64) (v : Nat) : (s.raise c t i v).intk = s.intk := by rw [State.raise_only]
@[simp] theorem State.raise_grd (s : State) (c : CoreIx) (t : TaskIx) (i : Fin 64) (v : Nat) : (s.raise c t i v).grd = s.grd := by rw [State.raise_only]
@[simp] theorem State.raise_pit (s : State) (c : CoreIx) (t : TaskIx) (i : Fin 64) (v : Nat) : (s.raise c t i v).pit = s.pit := by rw [State.raise_only]
@[simp] theorem State.raise_glb (s : State) (c : CoreIx) (t : TaskIx) (i : Fin 64) (v : Nat) : (s.raise c t i v).glb = s.glb := by rw [State.raise_only]
@[simp] theorem State.raise_cfg (s : State) (c : CoreIx) (t : TaskIx) (i : Fin 64) (v : Nat) : (s.raise c t i v).cfg = s.cfg := by rw [State.raise_only]
@[simp] theorem State.raise_rtc (s : State) (c : CoreIx) (t : TaskIx) (i : Fin 64) (v : Nat) : (s.raise c t i v).rtc = s.rtc := by rw [State.raise_only]
@[simp] theorem State.raise_pwr (s : State) (c : CoreIx) (t : TaskIx) (i : Fin 64) (v : Nat) : (s.raise c t i v).pwr = s.pwr := by rw [State.raise_only]
@[simp] theorem State.raise_memu (s : State) (c : CoreIx) (t : TaskIx) (i : Fin 64) (v : Nat) : (s.raise c t i v).memu = s.memu := by rw [State.raise_only]
@[simp] theorem State.raise_aud (s : State) (c : CoreIx) (t : TaskIx) (i : Fin 64) (v : Nat) : (s.raise c t i v).aud = s.aud := by rw [State.raise_only]
@[simp] theorem State.raise_nvm (s : State) (c : CoreIx) (t : TaskIx) (i : Fin 64) (v : Nat) : (s.raise c t i v).nvm = s.nvm := by rw [State.raise_only]
@[simp] theorem State.raise_pins (s : State) (c : CoreIx) (t : TaskIx) (i : Fin 64) (v : Nat) : (s.raise c t i v).pins = s.pins := by rw [State.raise_only]
@[simp] theorem State.raise_latch (s : State) (c : CoreIx) (t : TaskIx) (i : Fin 64) (v : Nat) : (s.raise c t i v).latch = s.latch := by rw [State.raise_only]
@[simp] theorem State.raise_low (s : State) (c : CoreIx) (t : TaskIx) (i : Fin 64) (v : Nat) : (s.raise c t i v).low = s.low := by rw [State.raise_only]
@[simp] theorem State.raise_now (s : State) (c : CoreIx) (t : TaskIx) (i : Fin 64) (v : Nat) : (s.raise c t i v).now = s.now := by rw [State.raise_only]
@[simp] theorem State.raise_freeCtr (s : State) (c : CoreIx) (t : TaskIx) (i : Fin 64) (v : Nat) : (s.raise c t i v).freeCtr = s.freeCtr := by rw [State.raise_only]
@[simp] theorem State.raise_pending (s : State) (c : CoreIx) (t : TaskIx) (i : Fin 64) (v : Nat) : (s.raise c t i v).pending = s.pending := by rw [State.raise_only]

/-- The raise of a completing command. -/
theorem State.raiseFor_only (s : State) (c : CoreIx) (t : TaskIx) (w : W128) :
    s.raiseFor c t w = { s with cores := (s.raiseFor c t w).cores, ctl := (s.raiseFor c t w).ctl, fab := (s.raiseFor c t w).fab, flt := (s.raiseFor c t w).flt, out := (s.raiseFor c t w).out } := by
  unfold State.raiseFor
  split
  · rw [State.raise_only]
  · rfl

@[simp] theorem State.raiseFor_mem (s : State) (c : CoreIx) (t : TaskIx) (w : W128) : (s.raiseFor c t w).mem = s.mem := by rw [State.raiseFor_only]
@[simp] theorem State.raiseFor_fields (s : State) (c : CoreIx) (t : TaskIx) (w : W128) : (s.raiseFor c t w).fields = s.fields := by rw [State.raiseFor_only]
@[simp] theorem State.raiseFor_mesh (s : State) (c : CoreIx) (t : TaskIx) (w : W128) : (s.raiseFor c t w).mesh = s.mesh := by rw [State.raiseFor_only]
@[simp] theorem State.raiseFor_mcast (s : State) (c : CoreIx) (t : TaskIx) (w : W128) : (s.raiseFor c t w).mcast = s.mcast := by rw [State.raiseFor_only]
@[simp] theorem State.raiseFor_held (s : State) (c : CoreIx) (t : TaskIx) (w : W128) : (s.raiseFor c t w).held = s.held := by rw [State.raiseFor_only]
@[simp] theorem State.raiseFor_links (s : State) (c : CoreIx) (t : TaskIx) (w : W128) : (s.raiseFor c t w).links = s.links := by rw [State.raiseFor_only]
@[simp] theorem State.raiseFor_intk (s : State) (c : CoreIx) (t : TaskIx) (w : W128) : (s.raiseFor c t w).intk = s.intk := by rw [State.raiseFor_only]
@[simp] theorem State.raiseFor_grd (s : State) (c : CoreIx) (t : TaskIx) (w : W128) : (s.raiseFor c t w).grd = s.grd := by rw [State.raiseFor_only]
@[simp] theorem State.raiseFor_pit (s : State) (c : CoreIx) (t : TaskIx) (w : W128) : (s.raiseFor c t w).pit = s.pit := by rw [State.raiseFor_only]
@[simp] theorem State.raiseFor_glb (s : State) (c : CoreIx) (t : TaskIx) (w : W128) : (s.raiseFor c t w).glb = s.glb := by rw [State.raiseFor_only]
@[simp] theorem State.raiseFor_cfg (s : State) (c : CoreIx) (t : TaskIx) (w : W128) : (s.raiseFor c t w).cfg = s.cfg := by rw [State.raiseFor_only]
@[simp] theorem State.raiseFor_rtc (s : State) (c : CoreIx) (t : TaskIx) (w : W128) : (s.raiseFor c t w).rtc = s.rtc := by rw [State.raiseFor_only]
@[simp] theorem State.raiseFor_pwr (s : State) (c : CoreIx) (t : TaskIx) (w : W128) : (s.raiseFor c t w).pwr = s.pwr := by rw [State.raiseFor_only]
@[simp] theorem State.raiseFor_memu (s : State) (c : CoreIx) (t : TaskIx) (w : W128) : (s.raiseFor c t w).memu = s.memu := by rw [State.raiseFor_only]
@[simp] theorem State.raiseFor_aud (s : State) (c : CoreIx) (t : TaskIx) (w : W128) : (s.raiseFor c t w).aud = s.aud := by rw [State.raiseFor_only]
@[simp] theorem State.raiseFor_nvm (s : State) (c : CoreIx) (t : TaskIx) (w : W128) : (s.raiseFor c t w).nvm = s.nvm := by rw [State.raiseFor_only]
@[simp] theorem State.raiseFor_pins (s : State) (c : CoreIx) (t : TaskIx) (w : W128) : (s.raiseFor c t w).pins = s.pins := by rw [State.raiseFor_only]
@[simp] theorem State.raiseFor_latch (s : State) (c : CoreIx) (t : TaskIx) (w : W128) : (s.raiseFor c t w).latch = s.latch := by rw [State.raiseFor_only]
@[simp] theorem State.raiseFor_low (s : State) (c : CoreIx) (t : TaskIx) (w : W128) : (s.raiseFor c t w).low = s.low := by rw [State.raiseFor_only]
@[simp] theorem State.raiseFor_now (s : State) (c : CoreIx) (t : TaskIx) (w : W128) : (s.raiseFor c t w).now = s.now := by rw [State.raiseFor_only]
@[simp] theorem State.raiseFor_freeCtr (s : State) (c : CoreIx) (t : TaskIx) (w : W128) : (s.raiseFor c t w).freeCtr = s.freeCtr := by rw [State.raiseFor_only]
@[simp] theorem State.raiseFor_pending (s : State) (c : CoreIx) (t : TaskIx) (w : W128) : (s.raiseFor c t w).pending = s.pending := by rw [State.raiseFor_only]

end Sys2Proof.Machine
end

