-- ==== Sys2Proof/Laws/Issue.lean ====
section
/-! SUPPORT. Lemmas about the issue of a command from its queue: the head word, the counters, the faults of a context. -/

namespace Sys2Proof.Machine

/-- Two changes of one core are a change of that core. -/
theorem onlyCore_trans {c s t u} (h : onlyCore c s t) (k : onlyCore c t u) : onlyCore c s u := by
  obtain ⟨h1,h2⟩ := h; obtain ⟨k1,k2⟩ := k
  constructor
  · rw [k1, h1]
  · intro d hd; rw [k2 d hd, h2 d hd]

/-- Noting that a slice issued for the first time leaves the task contexts. -/
theorem State.sliceFirst_task (s : State) (c d t) : (s.sliceFirst c).task d t = s.task d t := by
  unfold State.sliceFirst; split
  · rfl
  · by_cases h : d = c
    · subst h; simp [State.task, State.modCore]
    · simp [State.task, State.modCore, upd_other _ _ _ _ h]

/-- It changes cores only. -/
theorem State.sliceFirst_only (s : State) (c) : (s.sliceFirst c) = { s with cores := (s.sliceFirst c).cores } := by
  unfold State.sliceFirst; split <;> rfl

/-- It changes its own core only. -/
theorem State.sliceFirst_core (s : State) (c d) (h : d ≠ c): (s.sliceFirst c).core d = s.core d := by
  unfold State.sliceFirst; split
  · rfl
  · simp [State.core, State.modCore, upd_other _ _ _ _ h]

/-- Taking the head of a queue drops the first word of that queue. -/
theorem State.popHead_same (s : State) (c t q) : (s.popHead c t q).task c t = (s.task c t).setQueue q (((s.task c t).queue q).drop 1) := by
  simp [State.popHead]

/-- Entering the slice of the present count leaves the task contexts. -/
theorem State.enterSlice_task (s : State) (c d t) : (s.enterSlice c).task d t = s.task d t := by
  unfold State.enterSlice; split
  · rfl
  · split
    · rfl
    · by_cases h : d = c
      · subst h; simp [State.task, State.modCore]
      · simp [State.task, State.modCore, upd_other _ _ _ _ h]

/-- It changes cores only. -/
theorem State.enterSlice_only (s : State) (c) : s.enterSlice c = { s with cores := (s.enterSlice c).cores } := by
  unfold State.enterSlice; split
  · rfl
  · split <;> rfl

/-- It changes its own core only. -/
theorem State.enterSlice_core (s : State) (c d) (h : d ≠ c) : (s.enterSlice c).core d = s.core d := by
  unfold State.enterSlice; split
  · rfl
  · split
    · rfl
    · simp [State.core, State.modCore, upd_other _ _ _ _ h]

/-- A context after its head word is taken. -/
theorem State.taken_task (s : State) (c t q) : (s.taken c t q).task c t = (s.task c t).setQueue q (((s.task c t).queue q).drop 1) := by
  simp only [State.taken]
  rw [State.sliceFirst_task, State.popHead_same, State.enterSlice_task]

/-- Another context after it. -/
theorem State.taken_other (s : State) (c t q v) (h : v ≠ t) : (s.taken c t q).task c v = s.task c v := by
  simp only [State.taken]
  rw [State.sliceFirst_task, ← State.enterSlice_task s c c v]
  simp [State.popHead, State.task, State.modTask, State.modCore, upd_other _ _ _ _ h]

/-- The matrix parameters stand when a head word is taken. -/
theorem State.taken_mp (s : State) (c t q) : ((s.taken c t q).task c t).mp = (s.task c t).mp := by
  rw [State.taken_task]; cases q <;> rfl

/-- Taking a head word changes its core only. -/
theorem State.taken_only (s : State) (c t q) : onlyCore c s (s.taken c t q) := by
  constructor
  · simp only [State.taken]; rw [State.sliceFirst_only]
    simp only [State.popHead, State.modTask, State.modCore]
    rw [State.enterSlice_only]
  · intro d hd
    simp only [State.taken]; rw [State.sliceFirst_core _ _ _ hd, ← State.enterSlice_core s c d hd]
    simp [State.popHead, State.core, State.modTask, State.modCore, upd_other _ _ _ _ hd]

/-- What a change of one core leaves: every other part of the state. -/
theorem onlyCore_now {c : CoreIx} {s t : State} (h : onlyCore c s t) : t.now = s.now := by rw [h.1]

/-- A change of a task context is a change of its core. -/
theorem State.modTask_only (s : State) (c t f) : onlyCore c s (s.modTask c t f) := by
  constructor
  · rfl
  · intro d hd; simp [State.core, State.modTask, State.modCore, upd_other _ _ _ _ hd]

/-- A command that is ready and whose own condition holds takes its effect on the state whose head word is taken. -/
theorem State.issueWith_ready {s : State} {c t q e} {o : Nat} (h : s.ready c t q o e) (ops : Nat → Bool) (cond eff)
   (ho : ops o = true) (hc : cond e = true) : s.issueWith c t q ops cond eff = eff (s.taken c t q) e := by
  obtain ⟨h1,h2,h3,h4,h5,h6⟩ := h
  subst h2
  simp [State.issueWith,h1,ho,h3,h4,h5,h6,hc,State.taken]

/-- Holding a command after its head word is taken issues it. -/
theorem State.hold_issued (s : State) (c t q e n d) : s.issued ((s.taken c t q).hold c t q e n d) c t q e n d := by
  have ht := State.taken_only s c t q
  refine ⟨onlyCore_trans ht ?_, ?_, ?_, ?_⟩
  · refine ⟨rfl, fun x hx => ?_⟩
    simp [State.hold, State.core, State.modTask, State.modCore, upd_other _ _ _ _ hx]
  · intro v hv
    rw [← State.taken_other s c t q v hv]
    simp [State.hold, State.task, State.modTask, State.modCore, upd_other _ _ _ _ hv]
  · simp only [State.hold, State.modTask, State.modCore]; rw [ht.1]
  · refine ⟨{ id := ((s.taken c t q).core c).nextCmd, queue := q, word := e.word, index := e.index, time := s.now, mp := (s.task c t).mp,
              anch := ((s.taken c t q).core c).arith.getLsbD t.val, gangs := n, spawned := 0, retired := 0, acks := 0, toSet := d,
              pnum := (s.taken c t q).pnumNow, descs := [], lost := false }, ?_⟩
    refine ⟨rfl, rfl, rfl, rfl, rfl, rfl, rfl, rfl, rfl, rfl, rfl, rfl, ?_⟩
    have h1 := State.taken_task s c t q
    have h2 := State.taken_mp s c t q
    have h3 := onlyCore_now ht
    simp only [State.hold]
    simp [State.task, State.modTask, State.modCore] at h1 h2 ⊢
    simp only [h1, h3]
    cases q <;> simp [Task.setQueue]

/-- A fault of a context leaves every task context as it is. -/
theorem State.carrelFault_task (s : State) (c t b d v) : (s.carrelFault c t b).task d v = s.task d v := by
  unfold State.carrelFault
  split
  · by_cases h : d = c
    · subst h; simp [State.task, State.modCore]; split <;> rfl
    · simp [State.task, State.modCore, upd_other _ _ _ _ h]
  · rfl

/-- It leaves every other core. -/
theorem State.carrelFault_core (s : State) (c t b d) (h : d ≠ c) : (s.carrelFault c t b).core d = s.core d := by
  unfold State.carrelFault
  split
  · simp [State.core, State.modCore, upd_other _ _ _ _ h]
  · rfl

/-- It leaves memory. -/
theorem State.carrelFault_mem (s : State) (c t b) : (s.carrelFault c t b).mem = s.mem := by
  unfold State.carrelFault
  split <;> rfl

/-- Reporting an event of a core leaves the task contexts. -/
theorem State.coreEvent_task (s : State) (c cls u l d x t) : (s.coreEvent c cls u l d).task x t = s.task x t := by
  simp [State.task]

/-- It leaves the cores. -/
theorem State.coreEvent_core (s : State) (c cls u l d x) : (s.coreEvent c cls u l d).core x = s.core x := by
  simp [State.core]

/-- Releasing waiting multicast credits leaves the completion counters. -/
theorem State.landing_ctr (s : State) (c t i) (l : List (Fin 8)) : ∀ d u, ((l.foldl (fun s k => s.releaseOne c t i k) s).task d u).ctr = (s.task d u).ctr := by
  induction l generalizing s with
  | nil => intros; rfl
  | cons k l ih =>
    intro d u
    rw [List.foldl_cons, ih]
    unfold State.releaseOne
    dsimp only
    split
    · simp only [State.task, State.grantSlots_cores]
      by_cases h : d = c
      · subst h
        by_cases h' : u = t
        · subst h'; simp [State.modTask, State.modCore]
        · simp [State.modTask, State.modCore, upd_other _ _ _ _ h']
      · simp [State.modTask, State.modCore, upd_other _ _ _ _ h]
    · rfl

/-- A raise adds to one completion counter of one context, with saturation. -/
theorem State.raise_task_ctr (s : State) (c t i v d u) : ((s.raise c t i v).task d u).ctr = if d = c ∧ u = t then upd (s.task c t).ctr i (fun x => satAdd x v) else (s.task d u).ctr := by
  unfold State.raise
  rw [State.landing_ctr]
  unfold State.raiseOnly
  have hs : ∀ x, (s.satEvent c x v).cores = s.cores := by intro x; simp
  by_cases h : d = c
  · subst h
    by_cases h' : u = t
    · subst h'; simp [State.task, State.modTask, State.modCore]
    · simp [h', State.task, State.modTask, State.modCore, upd_other _ _ _ _ h']
  · simp [h, State.task, State.modTask, State.modCore, upd_other _ _ _ _ h]

/-- Saturating addition as natural numbers. -/
theorem satAdd_nat (x : W32) (v : Nat) : (satAdd x v).toNat = min (x.toNat + v) (2^32-1) := by
  unfold satAdd
  split
  · rename_i h; simp [BitVec.toNat_add]; omega
  · simp; omega

/-- Setting a queue leaves the commands in execution. -/
theorem Task.setQueue_cmds (k : Task) (q es) : (k.setQueue q es).cmds = k.cmds := by cases q <;> rfl

/-- Setting a queue leaves the counters. -/
theorem Task.setQueue_ctr (k : Task) (q es) : (k.setQueue q es).ctr = k.ctr := by cases q <;> rfl

/-- A command that reports at once, behind no other and without REN, leaves the state. -/
theorem State.finishNow_idle (s : State) (c t q e) (h : ∀ x ∈ (s.task c t).cmds, x.queue ≠ q) (hr : wRen e.word = false) : s.finishNow c t q e = s := by
  unfold State.finishNow
  have : (s.task c t).cmds.any (fun x => x.queue == q) = false := by
    simpa using h
  simp [this, State.raiseFor, hr]

/-- Releasing one credit wait leaves the commands in execution. -/
theorem State.releaseOne_cmds (s : State) (c t i) (k) : ((s.releaseOne c t i k).task c t).cmds = (s.task c t).cmds := by
  unfold State.releaseOne
  dsimp only
  split
  · simp [State.task]; simp [State.modTask, State.modCore]
  · rfl

/-- So does releasing several. -/
theorem State.landing_cmds (l : List (Fin 8)) : ∀ (s : State) (c t i), ((l.foldl (fun s k => s.releaseOne c t i k) s).task c t).cmds = (s.task c t).cmds := by
  induction l with
  | nil => intros; rfl
  | cons k l ih => intro s c t i; rw [List.foldl_cons, ih, State.releaseOne_cmds]

/-- So does a raise. -/
theorem State.raise_cmds (s : State) (c t i v) : ((s.raise c t i v).task c t).cmds = (s.task c t).cmds := by
  unfold State.raise
  rw [State.landing_cmds]
  simp [State.raiseOnly, State.task]; simp [State.modTask, State.modCore]

/-- With no control segment cut, a control message enters the control network at its end. -/
theorem State.tell_of_nocuts (s : State) (m) (h : s.ctlCuts = []) : s.tell m = { s with ctl := s.ctl ++ [{ msg := m, at_ := m.src }] } := by
  simp [State.tell, State.ctlBlocked, h]

/-- A raise without landing slots changes the counters of one context. -/
theorem State.raiseOnly_task (s : State) (c t i v) : (s.raiseOnly c t i v).task c t = { s.task c t with ctr := ((s.raiseOnly c t i v).task c t).ctr } := by
  simp [State.raiseOnly, State.task, State.modTask, State.modCore]

/-- A landing slot released changes the landing counts of one context. -/
theorem State.releaseOne_task (s : State) (c t i k) : (s.releaseOne c t i k).task c t = { s.task c t with landing := ((s.releaseOne c t i k).task c t).landing } := by
  unfold State.releaseOne
  dsimp only
  split
  · simp only [State.task, State.grantSlots_cores]
    simp [State.modTask, State.modCore]
  · rfl

/-- It leaves every other context and core, and the gangs. -/
theorem State.releaseOne_core (s : State) (c t i k) :
   (∀ d, d ≠ c → (s.releaseOne c t i k).core d = s.core d) ∧ (∀ v, v ≠ t → (s.releaseOne c t i k).task c v = s.task c v) ∧ ((s.releaseOne c t i k).core c).gangs = (s.core c).gangs := by
  unfold State.releaseOne
  dsimp only
  split
  · refine ⟨fun d hd => ?_, fun v hv => ?_, ?_⟩
    · simp [State.core, State.modTask, State.modCore, upd_other _ _ _ _ hd]
    · simp [State.task, State.modTask, State.modCore, upd_other _ _ _ _ hv]
    · simp [State.core, State.modTask, State.modCore]
  · exact ⟨fun _ _ => rfl, fun _ _ => rfl, rfl⟩

/-- So do several. -/
theorem State.releases_spec (c t i) (l : List (Fin 8)) : ∀ s : State, let u := l.foldl (fun s k => s.releaseOne c t i k) s
   u.task c t = { s.task c t with landing := (u.task c t).landing } ∧ (∀ d, d ≠ c → u.core d = s.core d) ∧ (∀ v, v ≠ t → u.task c v = s.task c v) ∧ (u.core c).gangs = (s.core c).gangs := by
  induction l with
  | nil => intro s; exact ⟨rfl, fun _ _ => rfl, fun _ _ => rfl, rfl⟩
  | cons k l ih =>
    intro s
    obtain ⟨h1, h2, h3, h4⟩ := ih (s.releaseOne c t i k)
    obtain ⟨g2, g3, g4⟩ := State.releaseOne_core s c t i k
    simp only [List.foldl_cons]
    refine ⟨?_, fun d hd => (h2 d hd).trans (g2 d hd), fun v hv => (h3 v hv).trans (g3 v hv), h4.trans g4⟩
    rw [h1, State.releaseOne_task]

/-- What a raise may change. -/
theorem State.raise_spec (s : State) (c t i v) : let u := s.raise c t i v
   u.task c t = { s.task c t with ctr := (u.task c t).ctr, landing := (u.task c t).landing } ∧ (∀ d, d ≠ c → u.core d = s.core d) ∧
   (∀ v, v ≠ t → u.task c v = s.task c v) ∧ (u.core c).gangs = (s.core c).gangs := by
  obtain ⟨h1,h2,h3,h4⟩ := State.releases_spec c t i (List.finRange 8) (s.raiseOnly c t i v)
  unfold State.raise
  refine ⟨?_, fun d hd => (h2 d hd).trans ?_, fun w hw => (h3 w hw).trans ?_, h4.trans ?_⟩
  · rw [h1, State.raiseOnly_task]
  · simp [State.raiseOnly, State.core, State.modTask, State.modCore, upd_other _ _ _ _ hd]
  · simp [State.raiseOnly, State.task, State.modTask, State.modCore, upd_other _ _ _ _ hw]
  · simp [State.raiseOnly, State.core, State.modTask, State.modCore]

/-- The counters after the raise a completing command asks for. -/
theorem State.raiseFor_ctr (s : State) (c t w i) : (s.raiseFor c t w).ctr c t i = if wRen w = true ∧ i = wRctr w then min (s.ctr c t i + 1) (2^32-1) else s.ctr c t i := by
  unfold State.raiseFor
  by_cases h : wRen w = true
  · simp only [h, if_true, true_and]
    simp only [State.ctr, State.raise_task_ctr, and_self, if_true]
    by_cases hi : i = wRctr w
    · subst hi; simp [satAdd_nat]
    · simp [upd_other _ _ _ _ hi, hi]
  · simp [h]

/-- A command that completes at issue, after its own change of the state: it has finished, and its raise is done or held. -/
theorem State.finishNow_finished (s v : State) (c t q e) (f : Task → Task)
   (hv : v = { s with cores := v.cores, ctl := v.ctl, fab := v.fab, flt := v.flt, out := v.out })
   (ht : v.task c t = { f ((s.task c t).setQueue q (((s.task c t).queue q).drop 1)) with ctr := (v.task c t).ctr, landing := (v.task c t).landing })
   (hc : (v.task c t).cmds = (s.task c t).cmds)
   (ho : ∀ w, w ≠ t → v.task c w = s.task c w) (hd : ∀ d, d ≠ c → v.core d = s.core d) (hg : (v.core c).gangs = (s.core c).gangs) :
   s.finished (v.finishNow c t q e) c t q e f ∧ ∀ i, (v.finishNow c t q e).ctr c t i = s.raised c t q e.word i (v.ctr c t i) := by
  have hb : (v.task c t).cmds.any (fun x => x.queue == q) = s.behind c t q := by simp only [State.behind, hc]
  unfold State.finishNow
  rw [hb]
  by_cases hh : s.behind c t q = true
  · simp only [hh, if_true]
    have hk : ∃ x : Cmd, x.queue = q ∧ x.word = e.word ∧ x.index = e.index ∧ x.gangs = 0 ∧ x.spawned = 0 ∧ x.retired = 0 ∧
      x.acks = 0 ∧ x.toSet = 0 ∧ x.descs = [] ∧ x.lost = false ∧ (v.hold c t q e 0 0).task c t = { v.task c t with cmds := (v.task c t).cmds ++ [x] } := by
      refine ⟨{ id := (v.core c).nextCmd, queue := q, word := e.word, index := e.index, time := v.now, mp := (v.task c t).mp,
                anch := (v.core c).arith.getLsbD t.val, gangs := 0, spawned := 0, retired := 0, acks := 0, toSet := 0, pnum := v.pnumNow, descs := [], lost := false },
         rfl, rfl, rfl, rfl, rfl, rfl, rfl, rfl, rfl, rfl, ?_⟩
      simp [State.hold, State.task, State.modTask, State.modCore]
    obtain ⟨x, x1, x2, x3, x4, x5, x6, x7, x8, x9, x10, hx⟩ := hk
    refine ⟨⟨?_, by simp [hh], fun _ => ⟨x, x1, x2, x3, x4, x5, x6, x7, x8, x9, x10, ?_⟩, ?_, ?_, ?_, ?_⟩, ?_⟩
    · rw [hx, ht]
    · rw [hx, hc]
    · intro w hw; rw [← ho w hw]; simp [State.hold, State.task, State.modTask, State.modCore, upd_other _ _ _ _ hw]
    · intro d hd'; rw [← hd d hd']; simp [State.hold, State.core, State.modTask, State.modCore, upd_other _ _ _ _ hd']
    · rw [← hg]; simp [State.hold, State.core, State.modTask, State.modCore]
    · simp only [State.hold, State.modTask, State.modCore]; rw [hv]
    · intro i; simp only [State.raised, hh, State.ctr, hx]; simp
  · have hh : s.behind c t q = false := by simpa using hh
    simp only [hh, Bool.false_eq_true, if_false]
    have hr := State.raise_spec v c t (wRctr e.word) 1
    refine ⟨?_, fun i => ?_⟩
    · unfold State.raiseFor
      by_cases hw : wRen e.word = true
      · simp only [hw, if_true]
        obtain ⟨h1,h2,h3,h4⟩ := hr
        refine ⟨?_, fun _ => ?_, by simp [hh], fun w hw => (h3 w hw).trans (ho w hw), fun d hd' => (h2 d hd').trans (hd d hd'), h4.trans hg, ?_⟩
        · rw [h1, ht]
        · rw [h1]; exact hc
        · rw [State.raise_only, hv]
      · rw [if_neg hw]
        exact ⟨by
          have e1 : (f ((s.task c t).setQueue q (List.drop 1 ((s.task c t).queue q)))).cmds = (v.task c t).cmds := by
            have := congrArg Task.cmds ht; exact this.symm
          conv => lhs; rw [ht]
          rw [← e1], fun _ => by simpa using hc, by simp [hh], ho, hd, hg, by simpa using hv⟩
    · simp only [State.raiseFor_ctr, State.raised, hh, and_true]

/-- Taking a head word changes cores only. -/
theorem State.taken_v (s : State) (c t q) : s.taken c t q = { s with cores := (s.taken c t q).cores } := (State.taken_only s c t q).1
/-- Entering a slice leaves the gangs. -/
theorem State.enterSlice_gangs (s : State) (c) : ((s.enterSlice c).core c).gangs = (s.core c).gangs := by
  unfold State.enterSlice; split
  · rfl
  · split
    · rfl
    · simp [State.core, State.modCore]
/-- So does taking a head word. -/
theorem State.taken_gangs (s : State) (c t q) : ((s.taken c t q).core c).gangs = (s.core c).gangs := by
  rw [← State.enterSlice_gangs s c]
  unfold State.taken State.sliceFirst
  split <;> simp [State.popHead, State.core, State.modTask, State.modCore]

/-- A command with no effect of its own finishes. -/
theorem State.taken_finished (s : State) (c t q e) : s.finished ((s.taken c t q).finishNow c t q e) c t q e id ∧ ∀ i, ((s.taken c t q).finishNow c t q e).ctr c t i = s.raised c t q e.word i (s.ctr c t i) := by
  have := State.finishNow_finished s (s.taken c t q) c t q e id (by rw [State.taken_v]) (by rw [State.taken_task]; simp) (by rw [State.taken_task, Task.setQueue_cmds])
    (State.taken_other s c t q) (State.taken_only s c t q).2 (State.taken_gangs s c t q)
  refine ⟨this.1, fun i => ?_⟩
  rw [this.2]; simp only [State.ctr, State.taken_task, Task.setQueue_ctr]

/-- A command that changes its own context finishes. -/
theorem State.modTask_finished (s : State) (c t q e) (f : Task → Task) (hf : ∀ k, (f k).cmds = k.cmds) :
   let u := ((s.taken c t q).modTask c t f).finishNow c t q e
   s.finished u c t q e f ∧ ∀ i, u.ctr c t i = s.raised c t q e.word i ((f ((s.task c t).setQueue q (((s.task c t).queue q).drop 1))).ctr[i]).toNat := by
  have ht : ((s.taken c t q).modTask c t f).task c t = f ((s.task c t).setQueue q (((s.task c t).queue q).drop 1)) := by
    rw [← State.taken_task]; simp [State.task, State.modTask, State.modCore]
  have hm := State.modTask_only (s.taken c t q) c t f
  have hk := onlyCore_trans (State.taken_only s c t q) hm
  have := State.finishNow_finished s ((s.taken c t q).modTask c t f) c t q e f (by rw [hk.1]) (by rw [ht]) (by rw [ht, hf, Task.setQueue_cmds])
    (fun w hw => by rw [← State.taken_other s c t q w hw]; simp [State.task, State.modTask, State.modCore, upd_other _ _ _ _ hw]) hk.2
    (by rw [← State.taken_gangs s c t q]; simp [State.core, State.modTask, State.modCore])
  refine ⟨this.1, fun i => ?_⟩
  rw [this.2]; simp only [State.ctr, ht]

end Sys2Proof.Machine
end

