-- ==== Sys2Proof/Laws/Gangs.lean ====
section
/-! SUPPORT. Lemmas about spawning gangs. -/

namespace Sys2Proof.Machine

/-- A change of a core is a change of that core. -/
theorem State.modCore_only (s : State) (c f) : onlyCore c s (s.modCore c f) := by
  constructor
  · rfl
  · intro d hd; simp [State.core, State.modCore, upd_other _ _ _ _ hd]

/-- Spawning one gang adds it behind the others. -/
theorem State.spawnOne_gangs (s : State) (c t x sl en i n) : ((s.spawnOne c t x sl en i n).core c).gangs = (s.core c).gangs ++ [s.newGang c t x sl en i n] := by
  simp [State.spawnOne, State.core, State.modTask, State.modCore]

/-- It changes its core only. -/
theorem State.spawnOne_only (s : State) (c t x sl en i n) : onlyCore c s (s.spawnOne c t x sl en i n) := by
  refine ⟨rfl, fun d hd => ?_⟩
  simp [State.spawnOne, State.core, State.modTask, State.modCore, upd_other _ _ _ _ hd]

/-- It counts one gang as spawned on its command. -/
theorem State.spawnOne_cmds (s : State) (c t x sl en i n) : ((s.spawnOne c t x sl en i n).task c t).cmds = (s.task c t).cmds.map (fun y => if y.id == x.id then { y with spawned := y.spawned + 1 } else y) := by
  simp [State.spawnOne, State.task, State.modTask, State.modCore, Task.modCmd]

/-- Spawning gangs one after another. -/
theorem State.spawn_fold (c t x) (en : Nat → Option (Fin 4)) (ix : Nat → Nat) (n : Nat) (l : List (SlotIx × Nat)) : ∀ (s : State),
   let u := l.foldl (fun s p => s.spawnOne c t x p.1 (en p.2) (ix p.2) n) s
   (u.core c).gangs.length = (s.core c).gangs.length + l.length ∧ (s.core c).gangs <+: (u.core c).gangs ∧
      (u.task c t).cmds = (s.task c t).cmds.map (fun y => if y.id == x.id then { y with spawned := y.spawned + l.length } else y) ∧ onlyCore c s u := by
  induction l with
  | nil => intro s; refine ⟨rfl, List.prefix_rfl, ?_, rfl, fun _ _ => rfl⟩; simp
  | cons p l ih =>
    intro s
    obtain ⟨h1,h2,h3,h4⟩ := ih (s.spawnOne c t x p.1 (en p.2) (ix p.2) n)
    refine ⟨?_,?_,?_,onlyCore_trans (State.spawnOne_only ..) h4⟩
    · rw [List.foldl_cons, h1, State.spawnOne_gangs]; simp; omega
    · rw [List.foldl_cons]; refine List.IsPrefix.trans ?_ h2; rw [State.spawnOne_gangs]; exact List.prefix_append ..
    · rw [List.foldl_cons, h3, State.spawnOne_cmds, List.map_map]
      apply List.map_congr_left
      intro y hy
      simp only [Function.comp]
      by_cases hh : y.id = x.id
      · simp [hh]; omega
      · simp [hh]

/-- Spawning the next gang or group of a command that finds its slots. -/
theorem State.spawnGroup_spec (s : State) (c t x) (h : x.groupSize ≤ ((s.core c).freeSlots x.queue).length) :
   let u := s.spawnGroup c t x
   (u.core c).gangs.length = (s.core c).gangs.length + x.groupSize ∧ (s.core c).gangs <+: (u.core c).gangs ∧
      (u.task c t).cmds = (s.task c t).cmds.map (fun y => if y.id == x.id then { y with spawned := y.spawned + x.groupSize } else y) ∧ onlyCore c s u := by
  have hl : ((((s.core c).freeSlots x.queue).take x.groupSize).zipIdx).length = x.groupSize := by simp; omega
  have := State.spawn_fold c t x (fun i => if x.queue == .mat then ((s.core c).freeEngines s.now x.accSize)[i]? else none) (fun i => x.spawned + i) x.groupSize ((((s.core c).freeSlots x.queue).take x.groupSize).zipIdx) s
  rw [hl] at this
  dsimp only at this ⊢
  obtain ⟨h1,h2,h3,h4⟩ := this
  unfold State.spawnGroup
  dsimp only
  split
  · split
    · refine ⟨?_,?_,?_,onlyCore_trans h4 (State.modCore_only ..)⟩
      · rw [← h1]; simp [State.core, State.modCnt, State.modCore]
      · refine h2.trans ?_; simp [State.core, State.modCnt, State.modCore]
      · rw [← h3]; simp [State.task, State.modCnt, State.modCore]
    · exact ⟨h1,h2,h3,h4⟩
  · exact ⟨h1,h2,h3,h4⟩

/-- The command that spawns next for a queue is one of that queue. -/
theorem Task.spawner_queue {k : Task} {q x} (h : k.spawner q = some x) : x.queue = q := by
  have := List.find?_some h
  simp at this; exact this.1

/-- So is the waiting command of a core. -/
theorem State.waiting_queue {s : State} {c q t x} (h : s.waiting c q = some (t, x)) : x.queue = q := by
  unfold State.waiting at h
  have : ∀ (l : List TaskIx) (b : Option (TaskIx × Cmd)), (∀ p, b = some p → p.2.queue = q) →
      ∀ p, l.foldl (fun (best : Option (TaskIx × Cmd)) t =>
    if !s.turnOf c t then best
    else
      match (s.task c t).spawner q with
      | none => best
      | some x =>
        if !s.maySpawn c x then best
        else
          match best with
          | none => some (t, x)
          | some b => if x.time < b.2.time then some (t, x) else some b) b = some p → p.2.queue = q := by
    intro l
    induction l with
    | nil => intro b hb p hp; exact hb p hp
    | cons t l ih =>
      intro b hb p hp
      rw [List.foldl_cons] at hp
      refine ih _ ?_ p hp
      intro p2 hp2
      split at hp2
      · exact hb _ hp2
      · split at hp2
        · exact hb _ hp2
        · rename_i y hy
          split at hp2
          · exact hb _ hp2
          · split at hp2
            · cases hp2; exact Task.spawner_queue hy
            · split at hp2
              · cases hp2; exact Task.spawner_queue hy
              · cases hp2; exact hb _ rfl
  exact this _ _ (by simp) _ h

end Sys2Proof.Machine
end

