-- ==== Sys2Proof/Laws/Memory.lean ====
section
/-! SUPPORT. Memory: every operation keeps its canonical form, and what a byte reads after a write. -/

namespace Sys2Proof.Machine

/-! ## Strictly rising lists -/

/-- A list is strictly rising when its head lies below the rest and the rest rises. -/
theorem rising_cons (a : Nat) (l : List Nat) : rising (a :: l) = true ↔ (∀ x ∈ l.head?, a < x) ∧ rising l = true := by
  cases l with
  | nil => simp [rising]
  | cons b r => simp [rising]

/-- The head of a strictly rising list lies below every other element. -/
theorem rising_lt {a : Nat} {l : List Nat} (h : rising (a :: l) = true) : ∀ x ∈ l, a < x := by
  induction l generalizing a with
  | nil => intro x hx; cases hx
  | cons b r ih =>
    simp only [rising, Bool.and_eq_true, decide_eq_true_eq] at h
    intro x hx
    cases hx with
    | head => exact h.1
    | tail _ hx => exact Nat.lt_trans h.1 (ih h.2 x hx)

/-- A list rises when its head lies below all the rest, which rises. -/
theorem rising_of {a : Nat} {l : List Nat} (h : ∀ x ∈ l, a < x) (hl : rising l = true) : rising (a :: l) = true :=
  (rising_cons a l).2 ⟨fun x hx => h x (List.mem_of_mem_head? hx), hl⟩

/-- The rest of a rising list rises. -/
theorem rising_tail {a : Nat} {l : List Nat} (h : rising (a :: l) = true) : rising l = true := ((rising_cons a l).1 h).2

/-- A filtered rising list rises. -/
theorem rising_filter (p : Nat → Bool) (l : List Nat) (h : rising l = true) : rising (l.filter p) = true := by
  induction l with
  | nil => rfl
  | cons a r ih =>
    rw [List.filter_cons]
    split
    · exact rising_of (fun x hx => rising_lt h x (List.mem_filter.1 hx).1) (ih (rising_tail h))
    · exact ih (rising_tail h)

/-- The elements of a list after an insertion. -/
theorem mem_insertNat (x y : Nat) (l : List Nat) : y ∈ insertNat x l ↔ y = x ∨ y ∈ l := by
  induction l with
  | nil => simp [insertNat]
  | cons a r ih =>
    simp only [insertNat]
    split
    · simp
    · split
      · simp_all
      · simp only [List.mem_cons, ih]
        exact ⟨fun h => h.elim (fun e => .inr (.inl e)) fun h => h.elim .inl fun e => .inr (.inr e),
          fun h => h.elim (fun e => .inr (.inl e)) fun h => h.elim .inl fun e => .inr (.inr e)⟩

/-- An insertion keeps a list strictly rising. -/
theorem rising_insertNat (x : Nat) (l : List Nat) (h : rising l = true) : rising (insertNat x l) = true := by
  induction l with
  | nil => rfl
  | cons a r ih =>
    simp only [insertNat]
    split
    · exact rising_of (fun y hy => by
        cases hy with
        | head => assumption
        | tail _ hy => exact Nat.lt_trans ‹x < a› (rising_lt h y hy)) h
    · split
      · exact h
      · refine rising_of (fun y hy => ?_) (ih (rising_tail h))
        rcases (mem_insertNat x y r).1 hy with e | e
        · omega
        · exact rising_lt h y e

/-! ## Cells -/

/-- The keys of a cell list after a byte is placed. -/
theorem setCell_keys (a : Nat) (b : Byte) (cs : List Host.Cell) :
    ∀ x ∈ (setCell a b cs).map Prod.fst, x = a ∨ x ∈ cs.map Prod.fst := by
  induction cs with
  | nil => simp only [setCell]; split <;> simp
  | cons c r ih =>
    obtain ⟨k, v⟩ := c
    intro x hx
    simp only [setCell] at hx
    split at hx
    · split at hx
      · exact .inr hx
      · simp only [List.map_cons, List.mem_cons] at hx ⊢; exact hx
    · split at hx
      · split at hx
        · exact .inr (by simp only [List.map_cons, List.mem_cons]; exact .inr hx)
        · simp only [List.map_cons, List.mem_cons] at hx ⊢
          exact hx.elim .inl fun e => .inr (.inr e)
      · simp only [List.map_cons, List.mem_cons] at hx ⊢
        rcases hx with e | e
        · exact .inr (.inl e)
        · exact (ih x e).elim .inl fun e => .inr (.inr e)

/-- The keys of a cell list and their bytes are canonical. -/
def cellsOk (cs : List Host.Cell) : Prop := rising (cs.map Prod.fst) = true ∧ cs.all (fun c => c.2 != 0) = true

/-- No cell of a list holds zero, taken apart at its head. -/
theorem cells_all {c : Host.Cell} {r : List Host.Cell} :
    (c :: r).all (fun c => c.2 != 0) = true ↔ (c.2 != 0) = true ∧ r.all (fun c => c.2 != 0) = true := by
  rw [List.all_cons, Bool.and_eq_true]

/-- Placing a byte keeps the cells canonical. -/
theorem setCell_ok (a : Nat) (b : Byte) (cs : List Host.Cell) (h : cellsOk cs) : cellsOk (setCell a b cs) := by
  induction cs with
  | nil =>
    simp only [setCell]
    split
    · exact h
    · exact ⟨rfl, by simp_all⟩
  | cons c r ih =>
    obtain ⟨k, v⟩ := c
    have h1 : rising (k :: r.map Prod.fst) = true := h.1
    have h2 : (v != 0) = true ∧ r.all (fun c => c.2 != 0) = true := cells_all.1 h.2
    have hr : cellsOk r := ⟨rising_tail h1, h2.2⟩
    simp only [setCell]
    split
    · split
      · exact h
      · refine ⟨rising_of (fun y hy => ?_) h1, cells_all.2 ⟨by simpa using ‹¬b = 0›, h.2⟩⟩
        cases hy with
        | head => assumption
        | tail _ hy => exact Nat.lt_trans ‹a < k› (rising_lt h1 y hy)
    · split
      · split
        · exact hr
        · refine ⟨rising_of (fun y hy => ?_) hr.1, cells_all.2 ⟨by simpa using ‹¬b = 0›, h2.2⟩⟩
          subst_vars
          exact rising_lt h1 y hy
      · refine ⟨rising_of (fun y hy => ?_) (ih hr).1, cells_all.2 ⟨h2.1, (ih hr).2⟩⟩
        rcases setCell_keys a b r y hy with e | e
        · omega
        · exact rising_lt h1 y e

/-- Storing bytes keeps the cells canonical. -/
theorem storeCells_ok (bs : List Byte) : ∀ (cs : List Host.Cell) (a : Nat), cellsOk cs → cellsOk (storeCells cs a bs) := by
  induction bs with
  | nil => intro cs a h; exact h
  | cons b r ih => intro cs a h; exact ih _ _ (setCell_ok a b cs h)

/-- The cells that pass a test stay canonical. -/
theorem cellsOk_filter (p : Host.Cell → Bool) (cs : List Host.Cell) (h : cellsOk cs) : cellsOk (cs.filter p) := by
  induction cs with
  | nil => exact h
  | cons c r ih =>
    have h1 : rising (c.1 :: r.map Prod.fst) = true := h.1
    have h2 : (c.2 != 0) = true ∧ r.all (fun c => c.2 != 0) = true := cells_all.1 h.2
    have hr := ih ⟨rising_tail h1, h2.2⟩
    rw [List.filter_cons]
    split
    · refine ⟨rising_of (fun y hy => ?_) hr.1, cells_all.2 ⟨h2.1, hr.2⟩⟩
      obtain ⟨d, hd, e⟩ := List.mem_map.1 hy
      exact rising_lt h1 y (List.mem_map.2 ⟨d, (List.mem_filter.1 hd).1, e⟩)
    · exact hr

/-! ## The canonical form -/

/-- The canonical form in its three parts. -/
theorem Memory.wf_iff (m : Memory) : m.wf = true ↔ cellsOk m.cells ∧ rising m.clean = true := by
  simp [Memory.wf, cellsOk, and_assoc]

/-- A write keeps the canonical form. -/
theorem Memory.write_wf (m : Memory) (a : Nat) (bs : List Byte) (bad : List Nat) (h : m.wf = true) : (m.write a bs bad).wf = true := by
  rw [Memory.wf_iff] at h ⊢
  refine ⟨storeCells_ok bs _ a h.1, ?_⟩
  simp only [Memory.write]
  generalize granules a bs.length = gs
  have hc := h.2
  generalize m.clean = cl at hc
  induction gs generalizing cl with
  | nil => exact hc
  | cons g r ih =>
    rw [List.foldl_cons]
    refine ih _ ?_
    split
    · exact rising_filter _ _ hc
    · split
      · exact rising_insertNat _ _ hc
      · exact hc

/-- Poisoning granules keeps the canonical form. -/
theorem Memory.poison_wf (m : Memory) (gs : List Nat) (h : m.wf = true) : (m.poison gs).wf = true := by
  rw [Memory.wf_iff] at h ⊢
  exact ⟨h.1, rising_filter _ _ h.2⟩

/-- Losing a range keeps the canonical form. -/
theorem Memory.lose_wf (m : Memory) (lo hi : Nat) (h : m.wf = true) : (m.lose lo hi).wf = true := by
  rw [Memory.wf_iff] at h ⊢
  exact ⟨cellsOk_filter _ _ h.1, rising_filter _ _ h.2⟩

/-! ## Reading after a write -/

/-- A byte placed reads back, and every other address reads as before, in canonical cells. -/
theorem getCell_setCell (a x : Nat) (b : Byte) (cs : List Host.Cell) (h : rising (cs.map Prod.fst) = true) :
    getCell x (setCell a b cs) = if x = a then b else getCell x cs := by
  induction cs with
  | nil =>
    simp only [setCell]
    split <;> simp_all [getCell]
  | cons c r ih =>
    obtain ⟨k, v⟩ := c
    have h1 : rising (k :: r.map Prod.fst) = true := h
    have hr := ih (rising_tail h1)
    have none (y : Nat) (hy : y ≤ k) : getCell y r = 0 := by
      clear ih hr
      induction r with
      | nil => rfl
      | cons d q iq =>
        have hd := rising_lt h1 d.1 (by simp)
        have hne : y ≠ d.1 := by omega
        simp only [getCell, hne, if_false]
        refine iq (by simpa using (rising_of (fun z hz => rising_lt h1 z (by simp_all)) (rising_tail (rising_tail h1)))) ?_
        exact rising_of (fun z hz => rising_lt h1 z (by simp_all)) (rising_tail (rising_tail h1))
    simp only [setCell]
    split
    · split
      · simp only [getCell]
        by_cases e : x = a
        · have : x ≠ k := by omega
          simp_all [none a (by omega)]
        · simp [e]
      · simp only [getCell]
    · split
      · split
        · simp only [getCell]
          by_cases e : x = a
          · subst_vars; simp [none _ (Nat.le_refl _)]
          · have : x ≠ k := by omega
            simp [e, this]
        · simp only [getCell]
          by_cases e : x = a
          · simp_all
          · have : x ≠ k := by omega
            simp_all
      · simp only [getCell, hr]
        by_cases e : x = k
        · have : x ≠ a := by omega
          simp_all
        · simp [e]

/-- The byte listed at an address after a run of bytes is stored. -/
theorem getCell_storeCells (bs : List Byte) : ∀ (cs : List Host.Cell) (a x : Nat), cellsOk cs →
    getCell x (storeCells cs a bs) = if h : a ≤ x ∧ x < a + bs.length then bs[x - a]'(by omega) else getCell x cs := by
  induction bs with
  | nil => intro cs a x _; simp [storeCells] <;> omega
  | cons b bs ih =>
    intro cs a x h
    rw [storeCells, ih _ _ _ (setCell_ok a b cs h), getCell_setCell a x b cs h.1]
    by_cases e : x = a
    · subst e
      simp <;> (intro h; omega)
    · by_cases l : a + 1 ≤ x ∧ x < a + 1 + bs.length
      · have l2 : a ≤ x ∧ x < a + (b :: bs).length := by simp; omega
        rw [dif_pos l, dif_pos l2]
        obtain ⟨k, rfl⟩ : ∃ k, x = a + 1 + k := ⟨x - a - 1, by omega⟩
        have e1 : a + 1 + k - (a + 1) = k := by omega
        have e2 : a + 1 + k - a = k + 1 := by omega
        simp [e1, e2]
      · have l2 : ¬ (a ≤ x ∧ x < a + (b :: bs).length) := by simp; omega
        rw [dif_neg l, dif_neg l2, if_neg e]

/-- A byte read after a write: the byte written inside the range, the old byte outside it. -/
theorem Memory.byte_write (m : Memory) (a x : Nat) (bs : List Byte) (bad : List Nat) (h : m.wf = true) :
    (m.write a bs bad).byte x = if h : a ≤ x ∧ x < a + bs.length then bs[x - a]'(by omega) else m.byte x := by
  have k := (Memory.wf_iff m).1 h
  exact getCell_storeCells bs m.cells a x k.1

/-- The clean granules after a write, one granule at a time. -/
theorem mem_write_clean (bad : List Nat) (p : Nat → Bool) (gs : List Nat) : ∀ (cl : List Nat) (x : Nat),
    x ∈ gs.foldl (fun cl g => if bad.contains g then cl.filter (· != g) else if p g then insertNat g cl else cl) cl ↔
      (x ∈ cl ∧ (x ∈ gs → bad.contains x = false) ∨ x ∈ gs ∧ bad.contains x = false ∧ p x = true) := by
  induction gs with
  | nil => intro cl x; simp
  | cons g gs ih =>
    intro cl x
    rw [List.foldl_cons, ih]
    by_cases e : x = g
    · subst e
      cases hb : bad.contains x
      · cases hp : p x <;> simp [mem_insertNat]
      · simp
    · cases hb : bad.contains g
      · cases hp : p g <;> simp [mem_insertNat, e]
      · simp [e]

end Sys2Proof.Machine
end

