-- ==== Sys2Proof/Laws/Keeps.lean ====
section
/-! SUPPORT. What the queue of commands and the invariant rest on, and what it is to keep them; choices and loops keep them. -/

namespace Sys2Proof.Machine
/-- What the invariant and the queue rest on. -/
structure Kept where
  pending : List Instr
  mem : Memory
  log : List LogEntry
  pend : List LedgerReq

/-- What a state holds of it. -/
def State.kept (s : State) : Kept := ⟨s.pending, s.mem, s.flt.log, s.aud.pend⟩

/-- The same queue, and the invariant kept. -/
def Keeps (a b : Kept) : Prop :=
  b.pending = a.pending ∧ (a.mem.wf = true ∧ a.log.length ≤ 8192 ∧ a.pend.length ≤ 64 →
    b.mem.wf = true ∧ b.log.length ≤ 8192 ∧ b.pend.length ≤ 64)

theorem Keeps.refl (a : Kept) : Keeps a a := ⟨rfl, id⟩

theorem Keeps.trans {a b c : Kept} (h : Keeps a b) (k : Keeps b c) : Keeps a c := ⟨k.1.trans h.1, fun x => k.2 (h.2 x)⟩

theorem State.kept_mk (m : Memory) (a b c d e f g h i j k l n o p q) (au : Aud) (r : Flt) (t u v w x y z) (pe : List Instr) :
    (State.mk m a b c d e f g h i j k l n o p q au r t u v w x y z pe).kept = ⟨pe, m, r.log, au.pend⟩ := rfl

theorem State.kept_eta (s : State) : Kept.mk s.pending s.mem s.flt.log s.aud.pend = s.kept := rfl

theorem ite_keeps {a : Kept} {c : Prop} [Decidable c] {s t : State} (h : Keeps a s.kept) (k : Keeps a t.kept) :
    Keeps a (if c then s else t).kept := by
  split <;> assumption

theorem foldl_keeps {α : Type} {a : Kept} {l : List α} {f : State → α → State} {s : State}
    (hf : ∀ t x, Keeps a t.kept → Keeps a (f t x).kept) (h : Keeps a s.kept) : Keeps a (l.foldl f s).kept := by
  induction l generalizing s with
  | nil => exact h
  | cons x l ih => exact ih (hf _ _ h)

theorem foldr_keeps {α : Type} {a : Kept} {l : List α} {f : α → State → State} {s : State}
    (hf : ∀ t x, Keeps a t.kept → Keeps a (f x t).kept) (h : Keeps a s.kept) : Keeps a (l.foldr f s).kept := by
  induction l with
  | nil => exact h
  | cons x l ih => exact hf _ _ ih

/-! ## The memory, the log and the LEDGER requests -/

/-- A loop of canonical changes keeps the canonical form. -/
theorem foldl_wf {α : Type} {f : Memory → α → Memory} (hf : ∀ m x, m.wf = true → (f m x).wf = true) (l : List α) :
    ∀ m : Memory, m.wf = true → (l.foldl f m).wf = true := by
  induction l with
  | nil => exact fun _ h => h
  | cons x l ih => exact fun m h => ih _ (hf m x h)

theorem Memory.loseArrays_wf (m : Memory) (d : DomIx) (h : m.wf = true) : (m.loseArrays d).wf = true :=
  foldl_wf (fun _ _ k => Memory.lose_wf _ _ _ (foldl_wf (fun _ _ k => Memory.lose_wf _ _ _ k) _ _ k)) _ _ h

theorem Memory.loseStacks_wf (m : Memory) (d : DomIx) (h : m.wf = true) : (m.loseStacks d).wf = true :=
  foldl_wf (fun _ _ k => Memory.lose_wf _ _ _ k) _ _ h

theorem Keeps.mem {a : Kept} {p m l q m'} (h : Keeps a ⟨p, m, l, q⟩) (hm : m.wf = true → m'.wf = true) : Keeps a ⟨p, m', l, q⟩ :=
  ⟨h.1, fun k => ⟨hm (h.2 k).1, (h.2 k).2⟩⟩

theorem Keeps.log {a : Kept} {p m l q l'} (h : Keeps a ⟨p, m, l, q⟩) (hl : l.length ≤ 8192 → l'.length ≤ 8192) : Keeps a ⟨p, m, l', q⟩ :=
  ⟨h.1, fun k => ⟨(h.2 k).1, hl (h.2 k).2.1, (h.2 k).2.2⟩⟩

theorem Keeps.pend {a : Kept} {p m l q q'} (h : Keeps a ⟨p, m, l, q⟩) (hq : q.length ≤ 64 → q'.length ≤ 64) : Keeps a ⟨p, m, l, q'⟩ :=
  ⟨h.1, fun k => ⟨(h.2 k).1, (h.2 k).2.1, hq (h.2 k).2.2⟩⟩

theorem Keeps.write {a : Kept} {p m l q} (h : Keeps a ⟨p, m, l, q⟩) : ∀ x y z, Keeps a ⟨p, m.write x y z, l, q⟩ :=
  fun x y z => h.mem (Memory.write_wf m x y z)

theorem Keeps.poison {a : Kept} {p m l q} (h : Keeps a ⟨p, m, l, q⟩) : ∀ x, Keeps a ⟨p, m.poison x, l, q⟩ :=
  fun x => h.mem (Memory.poison_wf m x)

theorem Keeps.lose {a : Kept} {p m l q} (h : Keeps a ⟨p, m, l, q⟩) : ∀ x y, Keeps a ⟨p, m.lose x y, l, q⟩ :=
  fun x y => h.mem (Memory.lose_wf m x y)

theorem Keeps.loseArrays {a : Kept} {p m l q} (h : Keeps a ⟨p, m, l, q⟩) : ∀ x, Keeps a ⟨p, m.loseArrays x, l, q⟩ :=
  fun x => h.mem (Memory.loseArrays_wf m x)

theorem Keeps.loseStacks {a : Kept} {p m l q} (h : Keeps a ⟨p, m, l, q⟩) : ∀ x, Keeps a ⟨p, m.loseStacks x, l, q⟩ :=
  fun x => h.mem (Memory.loseStacks_wf m x)

theorem raiseRepeat_length (now : Nat) (k i : Byte) (c : BitVec 16) : ∀ l, (raiseRepeat now c k i l).length = l.length := by
  intro l
  induction l with
  | nil => rfl
  | cons e l ih => unfold raiseRepeat; split <;> simp [ih]

end Sys2Proof.Machine
end

