-- ==== Sys2Proof/Laws/KeepsTile.lean ====
section
/-! SUPPORT. Every operation and command keeps the queue and the invariant: the first third of them, in the order in which they call each other. -/

namespace Sys2Proof.Machine

theorem State.modCore_keeps {a : Kept} {s : State} (h : Keeps a s.kept) : ∀ x1 x2, Keeps a (State.modCore s x1 x2).kept := by
  intro x1 x2
  unfold State.modCore
  repeat' (first
    | with_reducible assumption
    | simp only [State.kept_mk, State.kept_eta])

theorem State.modTask_keeps {a : Kept} {s : State} (h : Keeps a s.kept) : ∀ x1 x2 x3, Keeps a (State.modTask s x1 x2 x3).kept := by
  intro x1 x2 x3
  unfold State.modTask
  repeat' (first
    | with_reducible assumption
    | with_reducible refine State.modCore_keeps ?_ ..
    | simp only [State.kept_mk, State.kept_eta]
    | dsimp only)

theorem State.modCnt_keeps {a : Kept} {s : State} (h : Keeps a s.kept) : ∀ x1 x2, Keeps a (State.modCnt s x1 x2).kept := by
  intro x1 x2
  unfold State.modCnt
  repeat' (first
    | with_reducible assumption
    | with_reducible refine State.modCore_keeps ?_ ..
    | simp only [State.kept_mk, State.kept_eta]
    | dsimp only)

theorem State.modField_keeps {a : Kept} {s : State} (h : Keeps a s.kept) : ∀ x1 x2, Keeps a (State.modField s x1 x2).kept := by
  intro x1 x2
  unfold State.modField
  repeat' (first
    | with_reducible assumption
    | simp only [State.kept_mk, State.kept_eta])

theorem State.modGroup_keeps {a : Kept} {s : State} (h : Keeps a s.kept) : ∀ x1 x2, Keeps a (State.modGroup s x1 x2).kept := by
  intro x1 x2
  unfold State.modGroup
  repeat' (first
    | with_reducible assumption
    | simp only [State.kept_mk, State.kept_eta])

theorem State.modSub_keeps {a : Kept} {s : State} (h : Keeps a s.kept) : ∀ x1 x2 x3, Keeps a (State.modSub s x1 x2 x3).kept := by
  intro x1 x2 x3
  unfold State.modSub
  repeat' (first
    | with_reducible assumption
    | with_reducible refine State.modGroup_keeps ?_ ..
    | simp only [State.kept_mk, State.kept_eta]
    | dsimp only)

theorem State.modDom_keeps {a : Kept} {s : State} (h : Keeps a s.kept) : ∀ x1 x2, Keeps a (State.modDom s x1 x2).kept := by
  intro x1 x2
  unfold State.modDom
  repeat' (first
    | with_reducible assumption
    | simp only [State.kept_mk, State.kept_eta])

theorem State.emit_keeps {a : Kept} {s : State} (h : Keeps a s.kept) : ∀ x1, Keeps a (State.emit s x1).kept := by
  intro x1
  unfold State.emit
  repeat' (first
    | with_reducible assumption
    | simp only [State.kept_mk, State.kept_eta])

theorem State.postAt_keeps {a : Kept} {s : State} (h : Keeps a s.kept) : ∀ x1 x2, Keeps a (State.postAt s x1 x2).kept := by
  intro x1 x2
  unfold State.postAt
  repeat' (first
    | with_reducible assumption
    | simp only [State.kept_mk, State.kept_eta])

theorem State.post_keeps {a : Kept} {s : State} (h : Keeps a s.kept) : ∀ x1, Keeps a (State.post s x1).kept := by
  intro x1
  unfold State.post
  repeat' (first
    | with_reducible assumption
    | with_reducible refine State.postAt_keeps ?_ ..)

theorem State.fresh_keeps {a : Kept} {s : State} (h : Keeps a s.kept) : ∀ x1, Keeps a (State.fresh s x1).kept := by
  intro x1
  unfold State.fresh
  repeat' (first
    | with_reducible assumption
    | simp only [State.kept_mk, State.kept_eta])

theorem State.storeRaw_keeps {a : Kept} {s : State} (h : Keeps a s.kept) : ∀ x1 x2 x3, Keeps a (State.storeRaw s x1 x2 x3).kept := by
  intro x1 x2 x3
  unfold State.storeRaw
  repeat' (first
    | with_reducible assumption
    | with_reducible refine Keeps.write ?_ ..
    | simp only [State.kept_mk, State.kept_eta])

theorem State.store_keeps {a : Kept} {s : State} (h : Keeps a s.kept) : ∀ x1 x2 x3, Keeps a (State.store s x1 x2 x3).kept := by
  intro x1 x2 x3
  unfold State.store
  repeat' (first
    | with_reducible assumption
    | with_reducible refine State.storeRaw_keeps ?_ ..)

theorem State.countPoison_keeps {a : Kept} {s : State} (h : Keeps a s.kept) : ∀ x1 x2, Keeps a (State.countPoison s x1 x2).kept := by
  intro x1 x2
  unfold State.countPoison
  repeat' (first
    | with_reducible assumption
    | with_reducible refine State.modCnt_keeps ?_ ..
    | simp only [State.kept_mk, State.kept_eta]
    | dsimp only)

theorem State.storeFor_keeps {a : Kept} {s : State} (h : Keeps a s.kept) : ∀ x1 x2 x3 x4, Keeps a (State.storeFor s x1 x2 x3 x4).kept := by
  intro x1 x2 x3 x4
  unfold State.storeFor
  repeat' (first
    | with_reducible assumption
    | with_reducible refine State.countPoison_keeps ?_ ..
    | with_reducible refine State.store_keeps ?_ ..)

theorem State.coreStore_keeps {a : Kept} {s : State} (h : Keeps a s.kept) : ∀ x1 x2 x3 x4, Keeps a (State.coreStore s x1 x2 x3 x4).kept := by
  intro x1 x2 x3 x4
  unfold State.coreStore
  repeat' (first
    | with_reducible assumption
    | with_reducible refine State.storeFor_keeps ?_ ..)

theorem State.spoilAt_keeps {a : Kept} {s : State} (h : Keeps a s.kept) : ∀ x1 x2, Keeps a (State.spoilAt s x1 x2).kept := by
  intro x1 x2
  unfold State.spoilAt
  repeat' (first
    | with_reducible assumption
    | with_reducible refine State.countPoison_keeps ?_ ..
    | with_reducible refine Keeps.poison ?_ ..
    | simp only [State.kept_mk, State.kept_eta]
    | split)

theorem State.modCtx_keeps {a : Kept} {s : State} (h : Keeps a s.kept) : ∀ x1 x2, Keeps a (State.modCtx s x1 x2).kept := by
  intro x1 x2
  unfold State.modCtx
  repeat' (first
    | with_reducible assumption
    | with_reducible refine ite_keeps ?_ ?_
    | simp only [State.kept_mk, State.kept_eta]
    | split
    | dsimp only)

theorem State.faultMsix_keeps {a : Kept} {s : State} (h : Keeps a s.kept) : ∀ x1, Keeps a (State.faultMsix s x1).kept := by
  intro x1
  unfold State.faultMsix
  repeat' (first
    | with_reducible assumption
    | with_reducible refine ite_keeps ?_ ?_
    | simp only [State.kept_mk, State.kept_eta]
    | split)

theorem State.irqClass_keeps {a : Kept} {s : State} (h : Keeps a s.kept) : ∀ x1, Keeps a (State.irqClass s x1).kept := by
  intro x1
  unfold State.irqClass
  repeat' (first
    | with_reducible assumption
    | with_reducible refine State.faultMsix_keeps ?_ ..
    | with_reducible refine ite_keeps ?_ ?_
    | split)

theorem State.logCode_keeps {a : Kept} {s : State} (h : Keeps a s.kept) : ∀ x1 x2 x3 x4, Keeps a (State.logCode s x1 x2 x3 x4).kept := by
  intro x1 x2 x3 x4
  unfold State.logCode
  refine ite_keeps ?_ ?_
  · exact Keeps.log (show Keeps a ⟨_, _, s.flt.log, _⟩ from h) (by rw [raiseRepeat_length]; exact id)
  · refine State.irqClass_keeps ?_ ..
    refine Keeps.log (show Keeps a ⟨_, _, s.flt.log, _⟩ from h) fun _ => ?_
    show (enterLog _ (s.flt.log.take 8191)).length ≤ 8192
    rw [enterLog_length]; have := List.length_take_le 8191 s.flt.log; omega

theorem State.logEvent_keeps {a : Kept} {s : State} (h : Keeps a s.kept) : ∀ x1 x2 x3 x4 x5 x6, Keeps a (State.logEvent s x1 x2 x3 x4 x5 x6).kept := by
  intro x1 x2 x3 x4 x5 x6
  unfold State.logEvent
  repeat' (first
    | with_reducible assumption
    | with_reducible refine State.logCode_keeps ?_ ..)

theorem State.coreEvent_keeps {a : Kept} {s : State} (h : Keeps a s.kept) : ∀ x1 x2 x3 x4 x5, Keeps a (State.coreEvent s x1 x2 x3 x4 x5).kept := by
  intro x1 x2 x3 x4 x5
  unfold State.coreEvent
  repeat' (first
    | with_reducible assumption
    | with_reducible refine State.logEvent_keeps ?_ ..)

theorem State.modEvent_keeps {a : Kept} {s : State} (h : Keeps a s.kept) : ∀ x1 x2 x3 x4, Keeps a (State.modEvent s x1 x2 x3 x4).kept := by
  intro x1 x2 x3 x4
  unfold State.modEvent
  repeat' (first
    | with_reducible assumption
    | with_reducible refine State.logEvent_keeps ?_ ..)

theorem State.service_keeps {a : Kept} {s : State} (h : Keeps a s.kept) : ∀ x1, Keeps a (State.service s x1).kept := by
  intro x1
  unfold State.service
  repeat' (first
    | with_reducible assumption
    | simp only [State.kept_mk, State.kept_eta])

theorem State.countRefused_keeps {a : Kept} {s : State} (h : Keeps a s.kept) : ∀ x1, Keeps a (State.countRefused s x1).kept := by
  intro x1
  unfold State.countRefused
  repeat' (first
    | with_reducible assumption
    | simp only [State.kept_mk, State.kept_eta]
    | dsimp only)

theorem State.refuse_keeps {a : Kept} {s : State} (h : Keeps a s.kept) : ∀ x1 x2, Keeps a (State.refuse s x1 x2).kept := by
  intro x1 x2
  unfold State.refuse
  repeat' (first
    | with_reducible assumption
    | simp only [State.kept_mk, State.kept_eta]
    | dsimp only)

theorem State.guarded_keeps {a : Kept} {s : State} {f : State → State} (h : Keeps a s.kept) (hf : ∀ t, Keeps a t.kept → Keeps a (f t).kept) : ∀ x1 x2 x3, Keeps a (State.guarded s x1 x2 x3 f).kept := by
  intro x1 x2 x3
  unfold State.guarded
  repeat' (first
    | with_reducible assumption
    | with_reducible refine hf _ ?_
    | with_reducible refine State.refuse_keeps ?_ ..
    | with_reducible refine ite_keeps ?_ ?_
    | split)

theorem State.satEvent_keeps {a : Kept} {s : State} (h : Keeps a s.kept) : ∀ x1 x2 x3, Keeps a (State.satEvent s x1 x2 x3).kept := by
  intro x1 x2 x3
  unfold State.satEvent
  repeat' (first
    | with_reducible assumption
    | with_reducible refine State.coreEvent_keeps ?_ ..
    | with_reducible refine ite_keeps ?_ ?_
    | split)

theorem State.raiseOnly_keeps {a : Kept} {s : State} (h : Keeps a s.kept) : ∀ x1 x2 x3 x4, Keeps a (State.raiseOnly s x1 x2 x3 x4).kept := by
  intro x1 x2 x3 x4
  unfold State.raiseOnly
  repeat' (first
    | with_reducible assumption
    | with_reducible refine State.modTask_keeps ?_ ..
    | with_reducible refine State.satEvent_keeps ?_ ..
    | simp only [State.kept_mk, State.kept_eta]
    | dsimp only)

theorem State.autoCause_keeps {a : Kept} {s : State} (h : Keeps a s.kept) : Keeps a (State.autoCause s).kept := by
  unfold State.autoCause
  repeat' (first
    | with_reducible assumption
    | with_reducible refine State.service_keeps ?_ ..
    | with_reducible refine ite_keeps ?_ ?_
    | simp only [State.kept_mk, State.kept_eta]
    | split)

theorem State.ctlUndelivered_keeps {a : Kept} {s : State} (h : Keeps a s.kept) : ∀ x1, Keeps a (State.ctlUndelivered s x1).kept := by
  intro x1
  unfold State.ctlUndelivered
  repeat' (first
    | with_reducible assumption
    | with_reducible refine State.autoCause_keeps ?_ ..
    | with_reducible refine State.service_keeps ?_ ..
    | with_reducible refine State.logEvent_keeps ?_ ..)

theorem State.tell_keeps {a : Kept} {s : State} (h : Keeps a s.kept) : ∀ x1, Keeps a (State.tell s x1).kept := by
  intro x1
  unfold State.tell
  repeat' (first
    | with_reducible assumption
    | with_reducible refine State.ctlUndelivered_keeps ?_ ..
    | with_reducible refine ite_keeps ?_ ?_
    | simp only [State.kept_mk, State.kept_eta]
    | split)

theorem State.tellAll_keeps {a : Kept} {s : State} (h : Keeps a s.kept) : ∀ x1, Keeps a (State.tellAll s x1).kept := by
  intro x1
  unfold State.tellAll
  repeat' (first
    | with_reducible assumption
    | with_reducible refine State.tell_keeps ?_ ..
    | simp only [State.kept_mk, State.kept_eta]
    | with_reducible refine foldl_keeps (fun _ _ _ => ?_) ?_
    | dsimp only)

theorem State.carrelFault_keeps {a : Kept} {s : State} (h : Keeps a s.kept) : ∀ x1 x2 x3, Keeps a (State.carrelFault s x1 x2 x3).kept := by
  intro x1 x2 x3
  unfold State.carrelFault
  repeat' (first
    | with_reducible assumption
    | with_reducible refine State.modCore_keeps ?_ ..
    | with_reducible refine ite_keeps ?_ ?_
    | simp only [State.kept_mk, State.kept_eta]
    | split
    | dsimp only)

theorem State.owe_keeps {a : Kept} {s : State} (h : Keeps a s.kept) : ∀ x1 x2, Keeps a (State.owe s x1 x2).kept := by
  intro x1 x2
  unfold State.owe
  repeat' (first
    | with_reducible assumption
    | with_reducible refine State.modCtx_keeps ?_ ..
    | with_reducible refine ite_keeps ?_ ?_
    | simp only [State.kept_mk, State.kept_eta]
    | split
    | dsimp only)

theorem State.grantSlots_keeps {a : Kept} {s : State} (h : Keeps a s.kept) : ∀ x1 x2 x3, Keeps a (State.grantSlots s x1 x2 x3).kept := by
  intro x1 x2 x3
  unfold State.grantSlots
  repeat' (first
    | with_reducible assumption
    | with_reducible refine State.tell_keeps ?_ ..
    | with_reducible refine State.owe_keeps ?_ ..
    | with_reducible refine ite_keeps ?_ ?_
    | split)

theorem State.releaseOne_keeps {a : Kept} {s : State} (h : Keeps a s.kept) : ∀ x1 x2 x3 x4, Keeps a (State.releaseOne s x1 x2 x3 x4).kept := by
  intro x1 x2 x3 x4
  unfold State.releaseOne
  repeat' (first
    | with_reducible assumption
    | with_reducible refine State.grantSlots_keeps ?_ ..
    | with_reducible refine State.modTask_keeps ?_ ..
    | with_reducible refine ite_keeps ?_ ?_
    | simp only [State.kept_mk, State.kept_eta]
    | split
    | dsimp only)

theorem State.raise_keeps {a : Kept} {s : State} (h : Keeps a s.kept) : ∀ x1 x2 x3 x4, Keeps a (State.raise s x1 x2 x3 x4).kept := by
  intro x1 x2 x3 x4
  unfold State.raise
  repeat' (first
    | with_reducible assumption
    | with_reducible refine State.releaseOne_keeps ?_ ..
    | with_reducible refine State.raiseOnly_keeps ?_ ..
    | with_reducible refine foldl_keeps (fun _ _ _ => ?_) ?_
    | dsimp only)

theorem State.raiseFor_keeps {a : Kept} {s : State} (h : Keeps a s.kept) : ∀ x1 x2 x3, Keeps a (State.raiseFor s x1 x2 x3).kept := by
  intro x1 x2 x3
  unfold State.raiseFor
  repeat' (first
    | with_reducible assumption
    | with_reducible refine State.raise_keeps ?_ ..
    | with_reducible refine ite_keeps ?_ ?_
    | split)

theorem State.enterSlice_keeps {a : Kept} {s : State} (h : Keeps a s.kept) : ∀ x1, Keeps a (State.enterSlice s x1).kept := by
  intro x1
  unfold State.enterSlice
  repeat' (first
    | with_reducible assumption
    | with_reducible refine State.modCore_keeps ?_ ..
    | with_reducible refine ite_keeps ?_ ?_
    | simp only [State.kept_mk, State.kept_eta]
    | split
    | dsimp only)

theorem State.popHead_keeps {a : Kept} {s : State} (h : Keeps a s.kept) : ∀ x1 x2 x3, Keeps a (State.popHead s x1 x2 x3).kept := by
  intro x1 x2 x3
  unfold State.popHead
  repeat' (first
    | with_reducible assumption
    | with_reducible refine State.modTask_keeps ?_ ..
    | dsimp only)

theorem State.stopTask_keeps {a : Kept} {s : State} (h : Keeps a s.kept) : ∀ x1 x2 x3 x4 x5, Keeps a (State.stopTask s x1 x2 x3 x4 x5).kept := by
  intro x1 x2 x3 x4 x5
  unfold State.stopTask
  repeat' (first
    | with_reducible assumption
    | with_reducible refine State.coreEvent_keeps ?_ ..
    | with_reducible refine State.carrelFault_keeps ?_ ..
    | with_reducible refine State.modTask_keeps ?_ ..
    | simp only [State.kept_mk, State.kept_eta]
    | dsimp only)

theorem State.sliceFirst_keeps {a : Kept} {s : State} (h : Keeps a s.kept) : ∀ x1, Keeps a (State.sliceFirst s x1).kept := by
  intro x1
  unfold State.sliceFirst
  repeat' (first
    | with_reducible assumption
    | with_reducible refine State.modCore_keeps ?_ ..
    | simp only [State.kept_mk, State.kept_eta]
    | split
    | dsimp only)

theorem State.issueWith_keeps {a : Kept} {s : State} {f : State → QEntry → State} (h : Keeps a s.kept) (hf : ∀ t y0, Keeps a t.kept → Keeps a (f t y0).kept) : ∀ x1 x2 x3 x4 x5, Keeps a (State.issueWith s x1 x2 x3 x4 x5 f).kept := by
  intro x1 x2 x3 x4 x5
  unfold State.issueWith
  repeat' (first
    | with_reducible assumption
    | with_reducible refine hf _ _ ?_
    | with_reducible refine State.stopTask_keeps ?_ ..
    | with_reducible refine State.sliceFirst_keeps ?_ ..
    | with_reducible refine State.popHead_keeps ?_ ..
    | with_reducible refine State.enterSlice_keeps ?_ ..
    | with_reducible refine ite_keeps ?_ ?_
    | simp only [State.kept_mk, State.kept_eta]
    | split)

theorem State.hold_keeps {a : Kept} {s : State} (h : Keeps a s.kept) : ∀ x1 x2 x3 x4 x5 x6, Keeps a (State.hold s x1 x2 x3 x4 x5 x6).kept := by
  intro x1 x2 x3 x4 x5 x6
  unfold State.hold
  repeat' (first
    | with_reducible assumption
    | with_reducible refine State.modCore_keeps ?_ ..
    | with_reducible refine State.modTask_keeps ?_ ..
    | simp only [State.kept_mk, State.kept_eta]
    | dsimp only)

theorem State.finishNow_keeps {a : Kept} {s : State} (h : Keeps a s.kept) : ∀ x1 x2 x3 x4, Keeps a (State.finishNow s x1 x2 x3 x4).kept := by
  intro x1 x2 x3 x4
  unfold State.finishNow
  repeat' (first
    | with_reducible assumption
    | with_reducible refine State.hold_keeps ?_ ..
    | with_reducible refine State.raiseFor_keeps ?_ ..
    | with_reducible refine ite_keeps ?_ ?_
    | split
    | dsimp only)

theorem State.report_keeps {a : Kept} {s : State} (h : Keeps a s.kept) : ∀ x1 x2 x3, Keeps a (State.report s x1 x2 x3).kept := by
  intro x1 x2 x3
  unfold State.report
  repeat' (first
    | with_reducible assumption
    | with_reducible refine State.raiseFor_keeps ?_ ..
    | with_reducible refine State.modTask_keeps ?_ ..
    | simp only [State.kept_mk, State.kept_eta]
    | dsimp only)

theorem State.clearCounters_keeps {a : Kept} {s : State} (h : Keeps a s.kept) : ∀ x1 x2 x3, Keeps a (State.clearCounters s x1 x2 x3).kept := by
  intro x1 x2 x3
  unfold State.clearCounters
  repeat' (first
    | with_reducible assumption
    | with_reducible refine State.modTask_keeps ?_ ..
    | with_reducible refine ite_keeps ?_ ?_
    | simp only [State.kept_mk, State.kept_eta]
    | split
    | dsimp only)

theorem State.issueDesc_keeps {a : Kept} {s : State} (h : Keeps a s.kept) : ∀ x1 x2 x3, Keeps a (State.issueDesc s x1 x2 x3).kept := by
  intro x1 x2 x3
  unfold State.issueDesc
  repeat' (first
    | with_reducible assumption
    | with_reducible refine State.issueWith_keeps ?_ (fun _ _ _ => ?_) ..
    | with_reducible refine State.hold_keeps ?_ ..
    | dsimp only)

theorem State.closeMap_keeps {a : Kept} {s : State} (h : Keeps a s.kept) : ∀ x1 x2, Keeps a (State.closeMap s x1 x2).kept := by
  intro x1 x2
  unfold State.closeMap
  repeat' (first
    | with_reducible assumption
    | with_reducible refine ite_keeps ?_ ?_
    | simp only [State.kept_mk, State.kept_eta]
    | split
    | dsimp only)

theorem State.rollMap_keeps {a : Kept} {s : State} (h : Keeps a s.kept) : Keeps a (State.rollMap s).kept := by
  unfold State.rollMap
  repeat' (first
    | with_reducible assumption
    | with_reducible refine State.closeMap_keeps ?_ ..
    | with_reducible refine ite_keeps ?_ ?_
    | simp only [State.kept_mk, State.kept_eta]
    | split
    | dsimp only)

theorem State.countMap_keeps {a : Kept} {s : State} (h : Keeps a s.kept) : ∀ x1, Keeps a (State.countMap s x1).kept := by
  intro x1
  unfold State.countMap
  repeat' (first
    | with_reducible assumption
    | with_reducible refine State.rollMap_keeps ?_ ..
    | simp only [State.kept_mk, State.kept_eta]
    | dsimp only)

theorem execCongestionMapClose_keeps {s t : State} : execCongestionMapClose s = .next t → Keeps s.kept t.kept := by
  intro h
  have h0 := Keeps.refl s.kept
  injection h with h
  subst h
  repeat' (first
    | with_reducible assumption
    | with_reducible refine State.rollMap_keeps ?_ ..
    | with_reducible refine State.closeMap_keeps ?_ ..
    | with_reducible refine ite_keeps ?_ ?_
    | split)

theorem State.setTokens_keeps {a : Kept} {s : State} (h : Keeps a s.kept) : ∀ x1 x2 x3, Keeps a (State.setTokens s x1 x2 x3).kept := by
  intro x1 x2 x3
  unfold State.setTokens
  repeat' (first
    | with_reducible assumption
    | simp only [State.kept_mk, State.kept_eta]
    | dsimp only)

theorem State.chargeRope_keeps {a : Kept} {s : State} (h : Keeps a s.kept) : ∀ x1 x2, Keeps a (State.chargeRope s x1 x2).kept := by
  intro x1 x2
  unfold State.chargeRope
  repeat' (first
    | with_reducible assumption
    | with_reducible refine State.setTokens_keeps ?_ ..
    | with_reducible refine ite_keeps ?_ ?_
    | simp only [State.kept_mk, State.kept_eta]
    | split
    | dsimp only)

theorem State.sendOne_keeps {a : Kept} {s : State} (h : Keeps a s.kept) : ∀ x1 x2 x3, Keeps a (State.sendOne s x1 x2 x3).kept := by
  intro x1 x2 x3
  unfold State.sendOne
  repeat' (first
    | with_reducible assumption
    | with_reducible refine State.modSub_keeps ?_ ..
    | with_reducible refine State.chargeRope_keeps ?_ ..
    | with_reducible refine State.countMap_keeps ?_ ..
    | with_reducible refine State.emit_keeps ?_ ..
    | with_reducible refine State.modCtx_keeps ?_ ..
    | with_reducible refine ite_keeps ?_ ?_
    | simp only [State.kept_mk, State.kept_eta]
    | split
    | dsimp only)

theorem State.pump_keeps {a : Kept} {s : State} (h : Keeps a s.kept) : ∀ x1 x2 x3, Keeps a (State.pump s x1 x2 x3).kept := by
  intro x1 x2 x3
  induction x3 generalizing s with
  | zero => exact h
  | succ n ih =>
    unfold State.pump
    refine ite_keeps h ?_
    split
    · exact h
    · exact ih (State.sendOne_keeps h ..)

theorem State.pumpAll_keeps {a : Kept} {s : State} (h : Keeps a s.kept) : ∀ x1 x2, Keeps a (State.pumpAll s x1 x2).kept := by
  intro x1 x2
  unfold State.pumpAll
  repeat' (first
    | with_reducible assumption
    | with_reducible refine State.pump_keeps ?_ ..)

theorem State.sendLink_keeps {a : Kept} {s : State} (h : Keeps a s.kept) : ∀ x1 x2 x3, Keeps a (State.sendLink s x1 x2 x3).kept := by
  intro x1 x2 x3
  unfold State.sendLink
  repeat' (first
    | with_reducible assumption
    | with_reducible refine State.pumpAll_keeps ?_ ..
    | with_reducible refine State.modSub_keeps ?_ ..
    | simp only [State.kept_mk, State.kept_eta]
    | dsimp only)

theorem State.sendMgmt_keeps {a : Kept} {s : State} (h : Keeps a s.kept) : ∀ x1 x2 x3, Keeps a (State.sendMgmt s x1 x2 x3).kept := by
  intro x1 x2 x3
  unfold State.sendMgmt
  repeat' (first
    | with_reducible assumption
    | with_reducible refine State.emit_keeps ?_ ..)

theorem State.sendGrant_keeps {a : Kept} {s : State} (h : Keeps a s.kept) : ∀ x1 x2 x3 x4 x5, Keeps a (State.sendGrant s x1 x2 x3 x4 x5).kept := by
  intro x1 x2 x3 x4 x5
  unfold State.sendGrant
  repeat' (first
    | with_reducible assumption
    | with_reducible refine State.sendLink_keeps ?_ ..
    | simp only [State.kept_mk, State.kept_eta]
    | dsimp only)

theorem State.grantOwed_keeps {a : Kept} {s : State} (h : Keeps a s.kept) : ∀ x1 x2, Keeps a (State.grantOwed s x1 x2).kept := by
  intro x1 x2
  unfold State.grantOwed
  repeat' (first
    | with_reducible assumption
    | with_reducible refine State.sendGrant_keeps ?_ ..
    | with_reducible refine State.modCtx_keeps ?_ ..
    | simp only [State.kept_mk, State.kept_eta]
    | dsimp only)

theorem State.sendTeam_keeps {a : Kept} {s : State} (h : Keeps a s.kept) : ∀ x1 x2 x3 x4, Keeps a (State.sendTeam s x1 x2 x3 x4).kept := by
  intro x1 x2 x3 x4
  unfold State.sendTeam
  repeat' (first
    | with_reducible assumption
    | with_reducible refine State.emit_keeps ?_ ..
    | with_reducible refine ite_keeps ?_ ?_
    | split)

theorem State.modMesh_keeps {a : Kept} {s : State} (h : Keeps a s.kept) : ∀ x1 x2 x3, Keeps a (State.modMesh s x1 x2 x3).kept := by
  intro x1 x2 x3
  unfold State.modMesh
  repeat' (first
    | with_reducible assumption
    | with_reducible refine State.modField_keeps ?_ ..
    | simp only [State.kept_mk, State.kept_eta]
    | dsimp only)

theorem State.linkCarries_keeps {a : Kept} {s : State} (h : Keeps a s.kept) : ∀ x1 x2 x3, Keeps a (State.linkCarries s x1 x2 x3).kept := by
  intro x1 x2 x3
  unfold State.linkCarries
  repeat' (first
    | with_reducible assumption
    | with_reducible refine State.modMesh_keeps ?_ ..
    | with_reducible refine ite_keeps ?_ ?_
    | simp only [State.kept_mk, State.kept_eta]
    | split
    | dsimp only)

theorem State.hop_keeps {a : Kept} {s : State} (h : Keeps a s.kept) : ∀ x1, Keeps a (State.hop s x1).kept := by
  intro x1
  unfold State.hop
  repeat' (first
    | with_reducible assumption
    | with_reducible refine State.linkCarries_keeps ?_ ..
    | with_reducible refine ite_keeps ?_ ?_
    | simp only [State.kept_mk, State.kept_eta]
    | split
    | dsimp only)

theorem State.hopAll_keeps {a : Kept} {s : State} (h : Keeps a s.kept) : Keeps a (State.hopAll s).kept := by
  unfold State.hopAll
  repeat' (first
    | with_reducible assumption
    | with_reducible refine State.hop_keeps ?_ ..
    | with_reducible refine foldl_keeps (fun _ _ _ => ?_) ?_
    | dsimp only)

theorem State.hops_keeps {a : Kept} {s : State} (h : Keeps a s.kept) : ∀ x1, Keeps a (State.hops s x1).kept := by
  intro x1
  induction x1 generalizing s with
  | zero => exact h
  | succ n ih => exact ih (State.hopAll_keeps h)

theorem State.flow_keeps {a : Kept} {s : State} (h : Keeps a s.kept) : Keeps a (State.flow s).kept := by
  unfold State.flow
  repeat' (first
    | with_reducible assumption
    | with_reducible refine State.hops_keeps ?_ ..)

theorem State.meshArrive_keeps {a : Kept} {s : State} {f : State → FieldIx → State} (h : Keeps a s.kept) (hf : ∀ t y0, Keeps a t.kept → Keeps a (f t y0).kept) : ∀ x1 x2, Keeps a (State.meshArrive s x1 x2 f).kept := by
  intro x1 x2
  unfold State.meshArrive
  repeat' (first
    | with_reducible assumption
    | with_reducible refine hf _ _ ?_
    | with_reducible refine State.flow_keeps ?_ ..
    | with_reducible refine ite_keeps ?_ ?_
    | simp only [State.kept_mk, State.kept_eta]
    | split
    | dsimp only)

theorem State.ctlClear_keeps {a : Kept} {s : State} (h : Keeps a s.kept) : ∀ x1 x2, Keeps a (State.ctlClear s x1 x2).kept := by
  intro x1 x2
  unfold State.ctlClear
  repeat' (first
    | with_reducible assumption
    | with_reducible refine State.modField_keeps ?_ ..
    | with_reducible refine ite_keeps ?_ ?_
    | simp only [State.kept_mk, State.kept_eta]
    | split
    | dsimp only)

theorem State.ctlHop_keeps {a : Kept} {s : State} (h : Keeps a s.kept) : ∀ x1, Keeps a (State.ctlHop s x1).kept := by
  intro x1
  unfold State.ctlHop
  repeat' (first
    | with_reducible assumption
    | with_reducible refine State.ctlClear_keeps ?_ ..
    | with_reducible refine ite_keeps ?_ ?_
    | simp only [State.kept_mk, State.kept_eta]
    | split
    | dsimp only)

theorem State.ctlHopAll_keeps {a : Kept} {s : State} (h : Keeps a s.kept) : Keeps a (State.ctlHopAll s).kept := by
  unfold State.ctlHopAll
  repeat' (first
    | with_reducible assumption
    | with_reducible refine State.ctlHop_keeps ?_ ..
    | with_reducible refine foldl_keeps (fun _ _ _ => ?_) ?_
    | dsimp only)

theorem State.ctlHops_keeps {a : Kept} {s : State} (h : Keeps a s.kept) : ∀ x1, Keeps a (State.ctlHops s x1).kept := by
  intro x1
  induction x1 generalizing s with
  | zero => exact h
  | succ n ih => exact ih (State.ctlHopAll_keeps h)

theorem State.ctlFlow_keeps {a : Kept} {s : State} (h : Keeps a s.kept) : Keeps a (State.ctlFlow s).kept := by
  unfold State.ctlFlow
  repeat' (first
    | with_reducible assumption
    | with_reducible refine State.ctlHops_keeps ?_ ..)

theorem State.ctlArrive_keeps {a : Kept} {s : State} {f : State → State} (h : Keeps a s.kept) (hf : ∀ t, Keeps a t.kept → Keeps a (f t).kept) : ∀ x1 x2, Keeps a (State.ctlArrive s x1 x2 f).kept := by
  intro x1 x2
  unfold State.ctlArrive
  repeat' (first
    | with_reducible assumption
    | with_reducible refine hf _ ?_
    | with_reducible refine State.ctlFlow_keeps ?_ ..
    | simp only [State.kept_mk, State.kept_eta]
    | split
    | dsimp only)

theorem State.issueCtl_keeps {a : Kept} {s : State} {f : State → QEntry → State} (h : Keeps a s.kept) (hf : ∀ t y0, Keeps a t.kept → Keeps a (f t y0).kept) : ∀ x1 x2 x3 x4, Keeps a (State.issueCtl s x1 x2 x3 x4 f).kept := by
  intro x1 x2 x3 x4
  unfold State.issueCtl
  repeat' (first
    | with_reducible assumption
    | with_reducible refine hf _ _ ?_
    | with_reducible refine State.issueWith_keeps ?_ (fun _ _ _ => ?_) ..
    | with_reducible refine State.finishNow_keeps ?_ ..
    | dsimp only)

theorem execNop_keeps {s t : State} : ∀ x1 x2, execNop x1 x2 s = .next t → Keeps s.kept t.kept := by
  intro x1 x2 h
  have h0 := Keeps.refl s.kept
  injection h with h
  subst h
  repeat' (first
    | with_reducible assumption
    | with_reducible refine State.issueCtl_keeps ?_ (fun _ _ _ => ?_) ..
    | dsimp only)

theorem execWait_keeps {s t : State} : ∀ x1 x2, execWait x1 x2 s = .next t → Keeps s.kept t.kept := by
  intro x1 x2 h
  have h0 := Keeps.refl s.kept
  injection h with h
  subst h
  repeat' (first
    | with_reducible assumption
    | with_reducible refine State.issueCtl_keeps ?_ (fun _ _ _ => ?_) ..
    | dsimp only)

theorem execClr_keeps {s t : State} : ∀ x1 x2, execClr x1 x2 s = .next t → Keeps s.kept t.kept := by
  intro x1 x2 h
  have h0 := Keeps.refl s.kept
  injection h with h
  subst h
  repeat' (first
    | with_reducible assumption
    | with_reducible refine State.issueCtl_keeps ?_ (fun _ _ _ => ?_) ..
    | with_reducible refine State.clearCounters_keeps ?_ ..
    | dsimp only)

theorem execAdd_keeps {s t : State} : ∀ x1 x2, execAdd x1 x2 s = .next t → Keeps s.kept t.kept := by
  intro x1 x2 h
  have h0 := Keeps.refl s.kept
  injection h with h
  subst h
  repeat' (first
    | with_reducible assumption
    | with_reducible refine State.issueCtl_keeps ?_ (fun _ _ _ => ?_) ..
    | with_reducible refine State.raise_keeps ?_ ..
    | dsimp only)

theorem execBara_keeps {s t : State} : ∀ x1 x2, execBara x1 x2 s = .next t → Keeps s.kept t.kept := by
  intro x1 x2 h
  have h0 := Keeps.refl s.kept
  injection h with h
  subst h
  repeat' (first
    | with_reducible assumption
    | with_reducible refine State.issueCtl_keeps ?_ (fun _ _ _ => ?_) ..
    | with_reducible refine State.modTask_keeps ?_ ..
    | with_reducible refine State.tell_keeps ?_ ..
    | simp only [State.kept_mk, State.kept_eta]
    | dsimp only)

theorem execBarw_keeps {s t : State} : ∀ x1 x2, execBarw x1 x2 s = .next t → Keeps s.kept t.kept := by
  intro x1 x2 h
  have h0 := Keeps.refl s.kept
  injection h with h
  subst h
  repeat' (first
    | with_reducible assumption
    | with_reducible refine State.issueCtl_keeps ?_ (fun _ _ _ => ?_) ..
    | dsimp only)

theorem execTwait_keeps {s t : State} : ∀ x1 x2, execTwait x1 x2 s = .next t → Keeps s.kept t.kept := by
  intro x1 x2 h
  have h0 := Keeps.refl s.kept
  injection h with h
  subst h
  repeat' (first
    | with_reducible assumption
    | with_reducible refine State.issueCtl_keeps ?_ (fun _ _ _ => ?_) ..
    | dsimp only)

theorem execDrain_keeps {s t : State} : ∀ x1 x2, execDrain x1 x2 s = .next t → Keeps s.kept t.kept := by
  intro x1 x2 h
  have h0 := Keeps.refl s.kept
  injection h with h
  subst h
  repeat' (first
    | with_reducible assumption
    | with_reducible refine State.issueCtl_keeps ?_ (fun _ _ _ => ?_) ..
    | dsimp only)

theorem execMark_keeps {s t : State} : ∀ x1 x2, execMark x1 x2 s = .next t → Keeps s.kept t.kept := by
  intro x1 x2 h
  have h0 := Keeps.refl s.kept
  injection h with h
  subst h
  repeat' (first
    | with_reducible assumption
    | with_reducible refine State.issueCtl_keeps ?_ (fun _ _ _ => ?_) ..
    | dsimp only)

theorem execEndSlice_keeps {s t : State} : ∀ x1 x2, execEndSlice x1 x2 s = .next t → Keeps s.kept t.kept := by
  intro x1 x2 h
  have h0 := Keeps.refl s.kept
  injection h with h
  subst h
  repeat' (first
    | with_reducible assumption
    | with_reducible refine State.issueCtl_keeps ?_ (fun _ _ _ => ?_) ..
    | with_reducible refine State.modTask_keeps ?_ ..
    | simp only [State.kept_mk, State.kept_eta]
    | dsimp only)

theorem execMset_keeps {s t : State} : ∀ x1 x2, execMset x1 x2 s = .next t → Keeps s.kept t.kept := by
  intro x1 x2 h
  have h0 := Keeps.refl s.kept
  injection h with h
  subst h
  repeat' (first
    | with_reducible assumption
    | with_reducible refine State.issueWith_keeps ?_ (fun _ _ _ => ?_) ..
    | with_reducible refine State.finishNow_keeps ?_ ..
    | with_reducible refine State.modTask_keeps ?_ ..
    | simp only [State.kept_mk, State.kept_eta]
    | dsimp only)

theorem execMma_keeps {s t : State} : ∀ x1 x2, execMma x1 x2 s = .next t → Keeps s.kept t.kept := by
  intro x1 x2 h
  have h0 := Keeps.refl s.kept
  injection h with h
  subst h
  repeat' (first
    | with_reducible assumption
    | with_reducible refine State.issueWith_keeps ?_ (fun _ _ _ => ?_) ..
    | with_reducible refine State.hold_keeps ?_ ..
    | dsimp only)

theorem execSmma_keeps {s t : State} : ∀ x1 x2, execSmma x1 x2 s = .next t → Keeps s.kept t.kept := by
  intro x1 x2 h
  have h0 := Keeps.refl s.kept
  injection h with h
  subst h
  repeat' (first
    | with_reducible assumption
    | with_reducible refine State.issueWith_keeps ?_ (fun _ _ _ => ?_) ..
    | with_reducible refine State.hold_keeps ?_ ..
    | dsimp only)

theorem State.issueVec_keeps {a : Kept} {s : State} (h : Keeps a s.kept) : ∀ x1 x2 x3, Keeps a (State.issueVec s x1 x2 x3).kept := by
  intro x1 x2 x3
  unfold State.issueVec
  repeat' (first
    | with_reducible assumption
    | with_reducible refine State.issueWith_keeps ?_ (fun _ _ _ => ?_) ..
    | with_reducible refine State.hold_keeps ?_ ..
    | dsimp only)

theorem execVop_keeps {s t : State} : ∀ x1 x2, execVop x1 x2 s = .next t → Keeps s.kept t.kept := by
  intro x1 x2 h
  have h0 := Keeps.refl s.kept
  injection h with h
  subst h
  repeat' (first
    | with_reducible assumption
    | with_reducible refine State.issueVec_keeps ?_ ..)

theorem execVred_keeps {s t : State} : ∀ x1 x2, execVred x1 x2 s = .next t → Keeps s.kept t.kept := by
  intro x1 x2 h
  have h0 := Keeps.refl s.kept
  injection h with h
  subst h
  repeat' (first
    | with_reducible assumption
    | with_reducible refine State.issueVec_keeps ?_ ..)

theorem execVcvt_keeps {s t : State} : ∀ x1 x2, execVcvt x1 x2 s = .next t → Keeps s.kept t.kept := by
  intro x1 x2 h
  have h0 := Keeps.refl s.kept
  injection h with h
  subst h
  repeat' (first
    | with_reducible assumption
    | with_reducible refine State.issueVec_keeps ?_ ..)

theorem execVtopk_keeps {s t : State} : ∀ x1 x2, execVtopk x1 x2 s = .next t → Keeps s.kept t.kept := by
  intro x1 x2 h
  have h0 := Keeps.refl s.kept
  injection h with h
  subst h
  repeat' (first
    | with_reducible assumption
    | with_reducible refine State.issueVec_keeps ?_ ..)

theorem execStream_keeps {s t : State} : ∀ x1 x2, execStream x1 x2 s = .next t → Keeps s.kept t.kept := by
  intro x1 x2 h
  have h0 := Keeps.refl s.kept
  injection h with h
  subst h
  repeat' (first
    | with_reducible assumption
    | with_reducible refine State.issueDesc_keeps ?_ ..)

theorem execSmerge_keeps {s t : State} : ∀ x1 x2, execSmerge x1 x2 s = .next t → Keeps s.kept t.kept := by
  intro x1 x2 h
  have h0 := Keeps.refl s.kept
  injection h with h
  subst h
  repeat' (first
    | with_reducible assumption
    | with_reducible refine State.issueDesc_keeps ?_ ..)

theorem execScomp_keeps {s t : State} : ∀ x1 x2, execScomp x1 x2 s = .next t → Keeps s.kept t.kept := by
  intro x1 x2 h
  have h0 := Keeps.refl s.kept
  injection h with h
  subst h
  repeat' (first
    | with_reducible assumption
    | with_reducible refine State.issueDesc_keeps ?_ ..)

theorem execSexpd_keeps {s t : State} : ∀ x1 x2, execSexpd x1 x2 s = .next t → Keeps s.kept t.kept := by
  intro x1 x2 h
  have h0 := Keeps.refl s.kept
  injection h with h
  subst h
  repeat' (first
    | with_reducible assumption
    | with_reducible refine State.issueDesc_keeps ?_ ..)

theorem execSmask_keeps {s t : State} : ∀ x1 x2, execSmask x1 x2 s = .next t → Keeps s.kept t.kept := by
  intro x1 x2 h
  have h0 := Keeps.refl s.kept
  injection h with h
  subst h
  repeat' (first
    | with_reducible assumption
    | with_reducible refine State.issueDesc_keeps ?_ ..)

theorem execColl_keeps {s t : State} : ∀ x1 x2, execColl x1 x2 s = .next t → Keeps s.kept t.kept := by
  intro x1 x2 h
  have h0 := Keeps.refl s.kept
  injection h with h
  subst h
  repeat' (first
    | with_reducible assumption
    | with_reducible refine State.issueDesc_keeps ?_ ..)

theorem execCairn_keeps {s t : State} : ∀ x1 x2, execCairn x1 x2 s = .next t → Keeps s.kept t.kept := by
  intro x1 x2 h
  have h0 := Keeps.refl s.kept
  injection h with h
  subst h
  repeat' (first
    | with_reducible assumption
    | with_reducible refine State.issueDesc_keeps ?_ ..)

theorem execCclose_keeps {s t : State} : ∀ x1 x2, execCclose x1 x2 s = .next t → Keeps s.kept t.kept := by
  intro x1 x2 h
  have h0 := Keeps.refl s.kept
  injection h with h
  subst h
  repeat' (first
    | with_reducible assumption
    | with_reducible refine State.issueDesc_keeps ?_ ..)

theorem execSha_keeps {s t : State} : ∀ x1 x2, execSha x1 x2 s = .next t → Keeps s.kept t.kept := by
  intro x1 x2 h
  have h0 := Keeps.refl s.kept
  injection h with h
  subst h
  repeat' (first
    | with_reducible assumption
    | with_reducible refine State.issueDesc_keeps ?_ ..)

theorem execLedger_keeps {s t : State} : ∀ x1 x2, execLedger x1 x2 s = .next t → Keeps s.kept t.kept := by
  intro x1 x2 h
  have h0 := Keeps.refl s.kept
  injection h with h
  subst h
  repeat' (first
    | with_reducible assumption
    | with_reducible refine State.issueDesc_keeps ?_ ..)

theorem execUndefinedOpcode_keeps {s t : State} : ∀ x1 x2, execUndefinedOpcode x1 x2 s = .next t → Keeps s.kept t.kept := by
  intro x1 x2 h
  have h0 := Keeps.refl s.kept
  injection h with h
  subst h
  repeat' (first
    | with_reducible assumption
    | with_reducible refine State.issueWith_keeps ?_ (fun _ _ _ => ?_) ..
    | dsimp only)

theorem State.coreEvents_keeps {a : Kept} {s : State} (h : Keeps a s.kept) : ∀ x1 x2 x3, Keeps a (State.coreEvents s x1 x2 x3).kept := by
  intro x1 x2 x3
  induction x3 generalizing s with
  | zero => exact h
  | succ n ih => unfold State.coreEvents; exact ih (State.coreEvent_keeps h ..)

theorem State.modEngine_keeps {a : Kept} {s : State} (h : Keeps a s.kept) : ∀ x1 x2 x3, Keeps a (State.modEngine s x1 x2 x3).kept := by
  intro x1 x2 x3
  unfold State.modEngine
  repeat' (first
    | with_reducible assumption
    | with_reducible refine State.modCore_keeps ?_ ..
    | simp only [State.kept_mk, State.kept_eta]
    | dsimp only)

theorem State.applyTile_keeps {a : Kept} {s : State} (h : Keeps a s.kept) : ∀ x1 x2 x3 x4, Keeps a (State.applyTile s x1 x2 x3 x4).kept := by
  intro x1 x2 x3 x4
  unfold State.applyTile
  repeat' (first
    | with_reducible assumption
    | with_reducible refine State.modEngine_keeps ?_ ..
    | simp only [State.kept_mk, State.kept_eta]
    | with_reducible refine foldl_keeps (fun _ _ _ => ?_) ?_
    | dsimp only)

theorem State.drainTile_keeps {a : Kept} {s : State} (h : Keeps a s.kept) : ∀ x1 x2 x3 x4 x5 x6 x7, Keeps a (State.drainTile s x1 x2 x3 x4 x5 x6 x7).kept := by
  intro x1 x2 x3 x4 x5 x6 x7
  unfold State.drainTile
  repeat' (first
    | with_reducible assumption
    | with_reducible refine State.modEngine_keeps ?_ ..
    | with_reducible refine State.coreStore_keeps ?_ ..
    | simp only [State.kept_mk, State.kept_eta]
    | with_reducible refine foldl_keeps (fun _ _ _ => ?_) ?_
    | dsimp only)

theorem State.matrixDone_keeps {a : Kept} {s : State} (h : Keeps a s.kept) : ∀ x1 x2 x3 x4 x5 x6 x7 x8, Keeps a (State.matrixDone s x1 x2 x3 x4 x5 x6 x7 x8).kept := by
  intro x1 x2 x3 x4 x5 x6 x7 x8
  unfold State.matrixDone
  repeat' (first
    | with_reducible assumption
    | with_reducible refine State.modCnt_keeps ?_ ..
    | with_reducible refine State.drainTile_keeps ?_ ..
    | with_reducible refine State.applyTile_keeps ?_ ..
    | with_reducible refine State.coreEvents_keeps ?_ ..
    | simp only [State.kept_mk, State.kept_eta]
    | split
    | dsimp only)

theorem State.vectorDone_keeps {a : Kept} {s : State} (h : Keeps a s.kept) : ∀ x1 x2 x3 x4 x5, Keeps a (State.vectorDone s x1 x2 x3 x4 x5).kept := by
  intro x1 x2 x3 x4 x5
  unfold State.vectorDone
  repeat' (first
    | with_reducible assumption
    | with_reducible refine State.coreStore_keeps ?_ ..
    | with_reducible refine State.coreEvents_keeps ?_ ..
    | with_reducible refine State.modCnt_keeps ?_ ..
    | simp only [State.kept_mk, State.kept_eta]
    | dsimp only)

theorem State.addReq_keeps {a : Kept} {s : State} (h : Keeps a s.kept) : ∀ x1 x2 x3 x4 x5 x6 x7 x8 x9 x10 x11, Keeps a (State.addReq s x1 x2 x3 x4 x5 x6 x7 x8 x9 x10 x11).kept := by
  intro x1 x2 x3 x4 x5 x6 x7 x8 x9 x10 x11
  unfold State.addReq
  repeat' (first
    | with_reducible assumption
    | simp only [State.kept_mk, State.kept_eta])

theorem State.endReq_keeps {a : Kept} {s : State} (h : Keeps a s.kept) : ∀ x1, Keeps a (State.endReq s x1).kept := by
  intro x1
  unfold State.endReq
  repeat' (first
    | with_reducible assumption
    | simp only [State.kept_mk, State.kept_eta]
    | dsimp only)

theorem State.modGang_keeps {a : Kept} {s : State} (h : Keeps a s.kept) : ∀ x1 x2 x3, Keeps a (State.modGang s x1 x2 x3).kept := by
  intro x1 x2 x3
  unfold State.modGang
  repeat' (first
    | with_reducible assumption
    | with_reducible refine State.modCore_keeps ?_ ..
    | dsimp only)

theorem State.readOne_keeps {a : Kept} {s t : State} (h : Keeps a s.kept) : ∀ x1 x2 x3 x4 x5 x6, State.readOne s x1 x2 x3 x4 x5 x6 = some t → Keeps a t.kept := by
  intro x1 x2 x3 x4 x5 x6 e
  unfold State.readOne at e
  repeat' (first
    | (injection e with e; subst e)
    | contradiction
    | with_reducible assumption
    | with_reducible refine State.fresh_keeps ?_ ..
    | with_reducible refine State.modGang_keeps ?_ ..
    | with_reducible refine State.post_keeps ?_ ..
    | with_reducible refine State.sendLink_keeps ?_ ..
    | with_reducible refine State.addReq_keeps ?_ ..
    | with_reducible refine State.emit_keeps ?_ ..
    | with_reducible refine ite_keeps ?_ ?_
    | simp only [State.kept_mk, State.kept_eta]
    | dsimp only at e
    | split at e
    | split)

theorem State.readMany_keeps {a : Kept} {s : State} (h : Keeps a s.kept) :
    ∀ x1 x2 x3 x4 x5 x6, Keeps a (State.readMany s x1 x2 x3 x4 x5 x6).kept := by
  intro x1 x2 x3 x4 x5 x6
  induction x6 generalizing s with
  | nil => exact State.modGang_keeps h ..
  | cons r rs ih =>
    unfold State.readMany
    split
    · rename_i e; exact ih (State.readOne_keeps h _ _ _ _ _ _ e)
    · exact State.modGang_keeps h ..

theorem State.startReads_keeps {a : Kept} {s : State} (h : Keeps a s.kept) : ∀ x1 x2 x3 x4 x5 x6, Keeps a (State.startReads s x1 x2 x3 x4 x5 x6).kept := by
  intro x1 x2 x3 x4 x5 x6
  unfold State.startReads
  repeat' (first
    | with_reducible assumption
    | with_reducible refine State.readMany_keeps ?_ ..
    | with_reducible refine State.modGang_keeps ?_ ..
    | simp only [State.kept_mk, State.kept_eta]
    | dsimp only)

theorem State.resumeReads_keeps {a : Kept} {s : State} (h : Keeps a s.kept) : ∀ x1 x2 x3, Keeps a (State.resumeReads s x1 x2 x3).kept := by
  intro x1 x2 x3
  unfold State.resumeReads
  repeat' (first
    | with_reducible assumption
    | with_reducible refine State.readMany_keeps ?_ ..
    | with_reducible refine ite_keeps ?_ ?_
    | simp only [State.kept_mk, State.kept_eta]
    | split)

theorem State.addAcks_keeps {a : Kept} {s : State} (h : Keeps a s.kept) : ∀ x1 x2 x3 x4, Keeps a (State.addAcks s x1 x2 x3 x4).kept := by
  intro x1 x2 x3 x4
  unfold State.addAcks
  repeat' (first
    | with_reducible assumption
    | with_reducible refine State.modTask_keeps ?_ ..
    | simp only [State.kept_mk, State.kept_eta]
    | dsimp only)

theorem State.ackSoon_keeps {a : Kept} {s : State} (h : Keeps a s.kept) : ∀ x1 x2 x3, Keeps a (State.ackSoon s x1 x2 x3).kept := by
  intro x1 x2 x3
  unfold State.ackSoon
  repeat' (first
    | with_reducible assumption
    | with_reducible refine State.modTask_keeps ?_ ..
    | simp only [State.kept_mk, State.kept_eta]
    | dsimp only)

theorem State.ackOne_keeps {a : Kept} {s : State} (h : Keeps a s.kept) : ∀ x1 x2 x3, Keeps a (State.ackOne s x1 x2 x3).kept := by
  intro x1 x2 x3
  unfold State.ackOne
  repeat' (first
    | with_reducible assumption
    | with_reducible refine State.modTask_keeps ?_ ..
    | simp only [State.kept_mk, State.kept_eta]
    | dsimp only)

theorem State.writeOut_keeps {a : Kept} {s : State} (h : Keeps a s.kept) : ∀ x1 x2 x3 x4 x5 x6 x7 x8, Keeps a (State.writeOut s x1 x2 x3 x4 x5 x6 x7 x8).kept := by
  intro x1 x2 x3 x4 x5 x6 x7 x8
  unfold State.writeOut
  repeat' (first
    | with_reducible assumption
    | with_reducible refine State.ackSoon_keeps ?_ ..
    | with_reducible refine State.coreStore_keeps ?_ ..
    | with_reducible refine State.post_keeps ?_ ..
    | with_reducible refine State.addAcks_keeps ?_ ..
    | with_reducible refine State.sendLink_keeps ?_ ..
    | with_reducible refine State.addReq_keeps ?_ ..
    | with_reducible refine State.emit_keeps ?_ ..
    | with_reducible refine ite_keeps ?_ ?_
    | simp only [State.kept_mk, State.kept_eta]
    | split
    | with_reducible refine foldl_keeps (fun _ _ _ => ?_) ?_
    | dsimp only)

theorem State.hostFlush_keeps {a : Kept} {s : State} (h : Keeps a s.kept) : ∀ x1 x2 x3 x4 x5 x6, Keeps a (State.hostFlush s x1 x2 x3 x4 x5 x6).kept := by
  intro x1 x2 x3 x4 x5 x6
  unfold State.hostFlush
  repeat' (first
    | with_reducible assumption
    | with_reducible refine State.emit_keeps ?_ ..
    | with_reducible refine State.addAcks_keeps ?_ ..
    | with_reducible refine State.addReq_keeps ?_ ..
    | with_reducible refine ite_keeps ?_ ?_
    | simp only [State.kept_mk, State.kept_eta]
    | split)

theorem State.writeLast_keeps {a : Kept} {s : State} (h : Keeps a s.kept) : ∀ x1 x2 x3 x4 x5 x6 x7 x8, Keeps a (State.writeLast s x1 x2 x3 x4 x5 x6 x7 x8).kept := by
  intro x1 x2 x3 x4 x5 x6 x7 x8
  unfold State.writeLast
  repeat' (first
    | with_reducible assumption
    | with_reducible refine State.writeOut_keeps ?_ ..
    | with_reducible refine State.hostFlush_keeps ?_ ..
    | with_reducible refine ite_keeps ?_ ?_
    | split
    | dsimp only)

theorem State.mcastOut_keeps {a : Kept} {s : State} (h : Keeps a s.kept) : ∀ x1 x2 x3 x4 x5 x6 x7 x8 x9 x10 x11 x12 x13 x14 x15, Keeps a (State.mcastOut s x1 x2 x3 x4 x5 x6 x7 x8 x9 x10 x11 x12 x13 x14 x15).kept := by
  intro x1 x2 x3 x4 x5 x6 x7 x8 x9 x10 x11 x12 x13 x14 x15
  unfold State.mcastOut
  repeat' (first
    | with_reducible assumption
    | with_reducible refine State.addAcks_keeps ?_ ..
    | with_reducible refine ite_keeps ?_ ?_
    | simp only [State.kept_mk, State.kept_eta]
    | split
    | with_reducible refine foldl_keeps (fun _ _ _ => ?_) ?_
    | dsimp only)

theorem State.spend_keeps {a : Kept} {s : State} (h : Keeps a s.kept) : ∀ x1 x2 x3 x4 x5 x6 x7, Keeps a (State.spend s x1 x2 x3 x4 x5 x6 x7).kept := by
  intro x1 x2 x3 x4 x5 x6 x7
  unfold State.spend
  repeat' (first
    | with_reducible assumption
    | with_reducible refine State.modCtx_keeps ?_ ..
    | with_reducible refine State.setTokens_keeps ?_ ..
    | with_reducible refine ite_keeps ?_ ?_
    | simp only [State.kept_mk, State.kept_eta]
    | split
    | dsimp only)

theorem State.digest_keeps {a : Kept} {s : State} (h : Keeps a s.kept) : ∀ x1 x2 x3 x4 x5 x6 x7, Keeps a (State.digest s x1 x2 x3 x4 x5 x6 x7).kept := by
  intro x1 x2 x3 x4 x5 x6 x7
  unfold State.digest
  repeat' (first
    | with_reducible assumption
    | with_reducible refine State.modCnt_keeps ?_ ..
    | with_reducible refine State.modTask_keeps ?_ ..
    | with_reducible refine ite_keeps ?_ ?_
    | simp only [State.kept_mk, State.kept_eta]
    | split
    | dsimp only)

theorem State.digestRun_keeps {a : Kept} {s : State} (h : Keeps a s.kept) : ∀ x1 x2 x3 x4 x5 x6 x7, Keeps a (State.digestRun s x1 x2 x3 x4 x5 x6 x7).kept := by
  intro x1 x2 x3 x4 x5 x6 x7
  unfold State.digestRun
  repeat' (first
    | with_reducible assumption
    | with_reducible refine State.digest_keeps ?_ ..
    | with_reducible refine foldl_keeps (fun _ _ _ => ?_) ?_
    | dsimp only)

theorem State.noSpare_keeps {a : Kept} {s : State} (h : Keeps a s.kept) : ∀ x1, Keeps a (State.noSpare s x1).kept := by
  intro x1
  unfold State.noSpare
  repeat' (first
    | with_reducible assumption
    | with_reducible refine State.service_keeps ?_ ..
    | with_reducible refine State.modEvent_keeps ?_ ..
    | simp only [State.kept_mk, State.kept_eta]
    | split
    | dsimp only)

theorem State.listRow_keeps {a : Kept} {s : State} (h : Keeps a s.kept) : ∀ x1, Keeps a (State.listRow s x1).kept := by
  intro x1
  unfold State.listRow
  repeat' (first
    | with_reducible assumption
    | with_reducible refine State.service_keeps ?_ ..
    | with_reducible refine State.modEvent_keeps ?_ ..
    | with_reducible refine State.noSpare_keeps ?_ ..
    | with_reducible refine ite_keeps ?_ ?_
    | simp only [State.kept_mk, State.kept_eta]
    | split
    | dsimp only)

theorem State.eccUncorr_keeps {a : Kept} {s : State} (h : Keeps a s.kept) : ∀ x1, Keeps a (State.eccUncorr s x1).kept := by
  intro x1
  unfold State.eccUncorr
  repeat' (first
    | with_reducible assumption
    | with_reducible refine State.spoilAt_keeps ?_ ..
    | with_reducible refine State.listRow_keeps ?_ ..
    | with_reducible refine State.modEvent_keeps ?_ ..
    | simp only [State.kept_mk, State.kept_eta]
    | dsimp only)

theorem State.eccCorr_keeps {a : Kept} {s : State} (h : Keeps a s.kept) : ∀ x1, Keeps a (State.eccCorr s x1).kept := by
  intro x1
  unfold State.eccCorr
  repeat' (first
    | with_reducible assumption
    | with_reducible refine State.listRow_keeps ?_ ..
    | with_reducible refine ite_keeps ?_ ?_
    | simp only [State.kept_mk, State.kept_eta]
    | split
    | dsimp only)

theorem State.readErrors_keeps {a : Kept} {s : State} (h : Keeps a s.kept) : ∀ x1 x2 x3, Keeps a (State.readErrors s x1 x2 x3).kept := by
  intro x1 x2 x3
  unfold State.readErrors
  repeat' (first
    | with_reducible assumption
    | with_reducible refine State.eccUncorr_keeps ?_ ..
    | with_reducible refine State.eccCorr_keeps ?_ ..
    | with_reducible refine ite_keeps ?_ ?_
    | split
    | with_reducible refine foldl_keeps (fun _ _ _ => ?_) ?_
    | dsimp only)

theorem State.scratchErrors_keeps {a : Kept} {s : State} (h : Keeps a s.kept) : ∀ x1 x2, Keeps a (State.scratchErrors s x1 x2).kept := by
  intro x1 x2
  unfold State.scratchErrors
  repeat' (first
    | with_reducible assumption
    | with_reducible refine State.readErrors_keeps ?_ ..)

theorem State.landCount_keeps {a : Kept} {s : State} (h : Keeps a s.kept) : ∀ x1 x2 x3 x4 x5, Keeps a (State.landCount s x1 x2 x3 x4 x5).kept := by
  intro x1 x2 x3 x4 x5
  unfold State.landCount
  repeat' (first
    | with_reducible assumption
    | with_reducible refine State.modTask_keeps ?_ ..
    | simp only [State.kept_mk, State.kept_eta]
    | dsimp only)

theorem State.landMiss_keeps {a : Kept} {s : State} (h : Keeps a s.kept) : ∀ x1 x2 x3 x4 x5, Keeps a (State.landMiss s x1 x2 x3 x4 x5).kept := by
  intro x1 x2 x3 x4 x5
  unfold State.landMiss
  repeat' (first
    | with_reducible assumption
    | with_reducible refine State.modTask_keeps ?_ ..
    | simp only [State.kept_mk, State.kept_eta]
    | split
    | dsimp only)

theorem State.refusedEvent_keeps {a : Kept} {s : State} (h : Keeps a s.kept) : ∀ x1 x2 x3, Keeps a (State.refusedEvent s x1 x2 x3).kept := by
  intro x1 x2 x3
  unfold State.refusedEvent
  repeat' (first
    | with_reducible assumption
    | with_reducible refine State.modEvent_keeps ?_ ..)

theorem State.countParked_keeps {a : Kept} {s : State} (h : Keeps a s.kept) : Keeps a (State.countParked s).kept := by
  unfold State.countParked
  repeat' (first
    | with_reducible assumption
    | simp only [State.kept_mk, State.kept_eta])

theorem State.writeAt_keeps {a : Kept} {s : State} (h : Keeps a s.kept) : ∀ x1 x2 x3 x4, Keeps a (State.writeAt s x1 x2 x3 x4).kept := by
  intro x1 x2 x3 x4
  unfold State.writeAt
  repeat' (first
    | with_reducible assumption
    | with_reducible refine State.storeFor_keeps ?_ ..)

theorem State.landWrite_keeps {a : Kept} {s : State} (h : Keeps a s.kept) : ∀ x1 x2 x3 x4 x5 x6 x7, Keeps a (State.landWrite s x1 x2 x3 x4 x5 x6 x7).kept := by
  intro x1 x2 x3 x4 x5 x6 x7
  unfold State.landWrite
  repeat' (first
    | with_reducible assumption
    | with_reducible refine State.writeAt_keeps ?_ ..
    | with_reducible refine State.landCount_keeps ?_ ..
    | with_reducible refine ite_keeps ?_ ?_
    | simp only [State.kept_mk, State.kept_eta]
    | split
    | dsimp only)

theorem State.reduceAt_keeps {a : Kept} {s : State} (h : Keeps a s.kept) : ∀ x1 x2 x3 x4 x5 x6 x7, Keeps a (State.reduceAt s x1 x2 x3 x4 x5 x6 x7).kept := by
  intro x1 x2 x3 x4 x5 x6 x7
  unfold State.reduceAt
  repeat' (first
    | with_reducible assumption
    | with_reducible refine State.writeAt_keeps ?_ ..
    | with_reducible refine State.modCnt_keeps ?_ ..
    | with_reducible refine State.coreEvents_keeps ?_ ..
    | with_reducible refine State.logEvent_keeps ?_ ..
    | with_reducible refine ite_keeps ?_ ?_
    | simp only [State.kept_mk, State.kept_eta]
    | split
    | dsimp only)

theorem State.modIssue_keeps {a : Kept} {s : State} (h : Keeps a s.kept) : ∀ x1 x2 x3, Keeps a (State.modIssue s x1 x2 x3).kept := by
  intro x1 x2 x3
  unfold State.modIssue
  repeat' (first
    | with_reducible assumption
    | with_reducible refine ite_keeps ?_ ?_
    | simp only [State.kept_mk, State.kept_eta]
    | split
    | dsimp only)

theorem State.noteIssue_keeps {a : Kept} {s : State} (h : Keeps a s.kept) : ∀ x1 x2 x3 x4 x5, Keeps a (State.noteIssue s x1 x2 x3 x4 x5).kept := by
  intro x1 x2 x3 x4 x5
  unfold State.noteIssue
  repeat' (first
    | with_reducible assumption
    | with_reducible refine State.modIssue_keeps ?_ ..
    | with_reducible refine ite_keeps ?_ ?_
    | simp only [State.kept_mk, State.kept_eta]
    | split
    | dsimp only)

theorem State.addRun_keeps {a : Kept} {s : State} (h : Keeps a s.kept) : ∀ x1, Keeps a (State.addRun s x1).kept := by
  intro x1
  unfold State.addRun
  repeat' (first
    | with_reducible assumption
    | simp only [State.kept_mk, State.kept_eta])

theorem State.collStartReads_keeps {a : Kept} {s : State} (h : Keeps a s.kept) : ∀ x1 x2 x3 x4 x5 x6, Keeps a (State.collStartReads s x1 x2 x3 x4 x5 x6).kept := by
  intro x1 x2 x3 x4 x5 x6
  unfold State.collStartReads
  repeat' (first
    | with_reducible assumption
    | with_reducible refine State.modGang_keeps ?_ ..
    | with_reducible refine State.startReads_keeps ?_ ..
    | simp only [State.kept_mk, State.kept_eta]
    | dsimp only)

theorem State.modRun_keeps {a : Kept} {s : State} (h : Keeps a s.kept) : ∀ x1 x2 x3, Keeps a (State.modRun s x1 x2 x3).kept := by
  intro x1 x2 x3
  unfold State.modRun
  repeat' (first
    | with_reducible assumption
    | with_reducible refine ite_keeps ?_ ?_
    | simp only [State.kept_mk, State.kept_eta]
    | split
    | dsimp only)

theorem State.settleRun_keeps {a : Kept} {s : State} (h : Keeps a s.kept) : ∀ x1 x2, Keeps a (State.settleRun s x1 x2).kept := by
  intro x1 x2
  unfold State.settleRun
  repeat' (first
    | with_reducible assumption
    | with_reducible refine State.modGang_keeps ?_ ..
    | with_reducible refine ite_keeps ?_ ?_
    | simp only [State.kept_mk, State.kept_eta]
    | split
    | dsimp only)

theorem State.sendTodo_keeps {a : Kept} {s : State} (h : Keeps a s.kept) :
    ∀ x1 x2 x3 x4 x5 x6 x7, Keeps a (State.sendTodo s x1 x2 x3 x4 x5 x6 x7).1.kept := by
  intro x1 x2 x3 x4 x5 x6 x7
  induction x6 generalizing s x7 with
  | nil => exact h
  | cons r rs ih =>
    unfold State.sendTodo
    split
    · exact ih (State.writeLast_keeps (State.spend_keeps h ..) ..) _
    · exact ih h _

theorem State.pumpRun_keeps {a : Kept} {s : State} (h : Keeps a s.kept) : ∀ x1 x2, Keeps a (State.pumpRun s x1 x2).kept := by
  intro x1 x2
  unfold State.pumpRun
  repeat' (first
    | with_reducible assumption
    | with_reducible refine State.sendTodo_keeps ?_ ..
    | with_reducible refine State.settleRun_keeps ?_ ..
    | with_reducible refine State.modRun_keeps ?_ ..
    | simp only [State.kept_mk, State.kept_eta]
    | split
    | dsimp only)

theorem State.pumpRuns_keeps {a : Kept} {s : State} (h : Keeps a s.kept) : Keeps a (State.pumpRuns s).kept := by
  unfold State.pumpRuns
  repeat' (first
    | with_reducible assumption
    | with_reducible refine State.pumpRun_keeps ?_ ..
    | with_reducible refine foldl_keeps (fun _ _ _ => ?_) ?_
    | dsimp only)

theorem State.queueOut_keeps {a : Kept} {s : State} (h : Keeps a s.kept) : ∀ x1 x2 x3, Keeps a (State.queueOut s x1 x2 x3).kept := by
  intro x1 x2 x3
  unfold State.queueOut
  repeat' (first
    | with_reducible assumption
    | with_reducible refine State.pumpRun_keeps ?_ ..
    | with_reducible refine State.modRun_keeps ?_ ..
    | simp only [State.kept_mk, State.kept_eta]
    | dsimp only)

theorem State.collLanded_keeps {a : Kept} {s : State} (h : Keeps a s.kept) : ∀ x1 x2 x3 x4 x5 x6, Keeps a (State.collLanded s x1 x2 x3 x4 x5 x6).kept := by
  intro x1 x2 x3 x4 x5 x6
  unfold State.collLanded
  repeat' (first
    | with_reducible assumption
    | with_reducible refine State.settleRun_keeps ?_ ..
    | with_reducible refine State.modRun_keeps ?_ ..
    | with_reducible refine ite_keeps ?_ ?_
    | simp only [State.kept_mk, State.kept_eta]
    | split
    | dsimp only)

theorem State.sizeRun_keeps {a : Kept} {s : State} (h : Keeps a s.kept) : ∀ x1 x2 x3, Keeps a (State.sizeRun s x1 x2 x3).kept := by
  intro x1 x2 x3
  unfold State.sizeRun
  repeat' (first
    | with_reducible assumption
    | with_reducible refine State.modTask_keeps ?_ ..
    | with_reducible refine State.modRun_keeps ?_ ..
    | with_reducible refine State.modIssue_keeps ?_ ..
    | with_reducible refine ite_keeps ?_ ?_
    | simp only [State.kept_mk, State.kept_eta]
    | split
    | dsimp only)

theorem State.sizeRuns_keeps {a : Kept} {s : State} (h : Keeps a s.kept) : Keeps a (State.sizeRuns s).kept := by
  unfold State.sizeRuns
  repeat' (first
    | with_reducible assumption
    | with_reducible refine State.sizeRun_keeps ?_ ..
    | simp only [State.kept_mk, State.kept_eta]
    | split
    | with_reducible refine foldl_keeps (fun _ _ _ => ?_) ?_
    | dsimp only)

theorem State.poisonRange_keeps {a : Kept} {s : State} (h : Keeps a s.kept) : ∀ x1 x2 x3, Keeps a (State.poisonRange s x1 x2 x3).kept := by
  intro x1 x2 x3
  unfold State.poisonRange
  repeat' (first
    | with_reducible assumption
    | with_reducible refine State.spoilAt_keeps ?_ ..
    | with_reducible refine ite_keeps ?_ ?_
    | split
    | dsimp only)

theorem State.refuseSeg_keeps {a : Kept} {s : State} (h : Keeps a s.kept) : ∀ x1 x2 x3 x4 x5, Keeps a (State.refuseSeg s x1 x2 x3 x4 x5).kept := by
  intro x1 x2 x3 x4 x5
  unfold State.refuseSeg
  repeat' (first
    | with_reducible assumption
    | with_reducible refine State.poisonRange_keeps ?_ ..
    | with_reducible refine State.modCnt_keeps ?_ ..
    | with_reducible refine State.coreEvent_keeps ?_ ..
    | with_reducible refine State.carrelFault_keeps ?_ ..
    | with_reducible refine State.modGang_keeps ?_ ..
    | simp only [State.kept_mk, State.kept_eta]
    | with_reducible refine foldl_keeps (fun _ _ _ => ?_) ?_
    | dsimp only)

theorem State.fetchWord_keeps {a : Kept} {s : State} (h : Keeps a s.kept) : ∀ x1 x2, Keeps a (State.fetchWord s x1 x2).2.kept := by
  intro x1 x2
  unfold State.fetchWord
  repeat' (first
    | with_reducible assumption
    | with_reducible refine State.readErrors_keeps ?_ ..
    | with_reducible refine State.fresh_keeps ?_ ..
    | with_reducible refine ite_keeps ?_ ?_
    | split
    | dsimp only)

theorem State.skip_keeps {a : Kept} {s : State} (h : Keeps a s.kept) : ∀ x1 x2 x3, Keeps a (State.skip s x1 x2 x3).kept := by
  intro x1 x2 x3
  unfold State.skip
  repeat' (first
    | with_reducible assumption
    | with_reducible refine State.clearCounters_keeps ?_ ..
    | with_reducible refine State.raise_keeps ?_ ..
    | with_reducible refine State.modTask_keeps ?_ ..
    | with_reducible refine State.raiseFor_keeps ?_ ..
    | simp only [State.kept_mk, State.kept_eta]
    | split
    | dsimp only)

theorem execCommandFetch_keeps {s t : State} : ∀ x1 x2, execCommandFetch x1 x2 s = .next t → Keeps s.kept t.kept := by
  intro x1 x2 h
  have h0 := Keeps.refl s.kept
  injection h with h
  subst h
  repeat' (first
    | with_reducible assumption
    | with_reducible refine State.fetchWord_keeps ?_ ..
    | with_reducible refine State.skip_keeps ?_ ..
    | with_reducible refine State.modTask_keeps ?_ ..
    | with_reducible refine ite_keeps ?_ ?_
    | simp only [State.kept_mk, State.kept_eta]
    | split
    | dsimp only)

theorem State.spawnOne_keeps {a : Kept} {s : State} (h : Keeps a s.kept) : ∀ x1 x2 x3 x4 x5 x6 x7, Keeps a (State.spawnOne s x1 x2 x3 x4 x5 x6 x7).kept := by
  intro x1 x2 x3 x4 x5 x6 x7
  unfold State.spawnOne
  repeat' (first
    | with_reducible assumption
    | with_reducible refine State.modTask_keeps ?_ ..
    | with_reducible refine State.modCore_keeps ?_ ..
    | simp only [State.kept_mk, State.kept_eta]
    | dsimp only)

theorem State.spawnGroup_keeps {a : Kept} {s : State} (h : Keeps a s.kept) : ∀ x1 x2 x3, Keeps a (State.spawnGroup s x1 x2 x3).kept := by
  intro x1 x2 x3
  unfold State.spawnGroup
  repeat' (first
    | with_reducible assumption
    | with_reducible refine State.spawnOne_keeps ?_ ..
    | with_reducible refine State.modCnt_keeps ?_ ..
    | with_reducible refine ite_keeps ?_ ?_
    | simp only [State.kept_mk, State.kept_eta]
    | split
    | with_reducible refine foldl_keeps (fun _ _ _ => ?_) ?_
    | dsimp only)

theorem State.spawnFrom_keeps {a : Kept} {s : State} (h : Keeps a s.kept) : ∀ x1 x2, Keeps a (State.spawnFrom s x1 x2).kept := by
  intro x1 x2
  induction x2 with
  | nil => exact h
  | cons q qs ih =>
    unfold State.spawnFrom
    split
    · exact ite_keeps (State.spawnGroup_keeps h ..) ih
    · exact ih

theorem execGangSpawn_keeps {s t : State} : ∀ x1, execGangSpawn x1 s = .next t → Keeps s.kept t.kept := by
  intro x1 h
  have h0 := Keeps.refl s.kept
  injection h with h
  subst h
  repeat' (first
    | with_reducible assumption
    | with_reducible refine State.spawnFrom_keeps ?_ ..
    | with_reducible refine ite_keeps ?_ ?_
    | split)

theorem execCommandComplete_keeps {s t : State} : ∀ x1 x2 x3, execCommandComplete x1 x2 x3 s = .next t → Keeps s.kept t.kept := by
  intro x1 x2 x3 h
  have h0 := Keeps.refl s.kept
  injection h with h
  subst h
  repeat' (first
    | with_reducible assumption
    | with_reducible refine State.report_keeps ?_ ..
    | with_reducible refine ite_keeps ?_ ?_
    | simp only [State.kept_mk, State.kept_eta]
    | split
    | dsimp only)

theorem State.setupDesc_keeps {a : Kept} {s : State} (h : Keeps a s.kept) : ∀ x1 x2 x3 x4, Keeps a (State.setupDesc s x1 x2 x3 x4).kept := by
  intro x1 x2 x3 x4
  unfold State.setupDesc
  repeat' (first
    | with_reducible assumption
    | with_reducible refine State.fresh_keeps ?_ ..
    | with_reducible refine State.modTask_keeps ?_ ..
    | with_reducible refine State.modCore_keeps ?_ ..
    | with_reducible refine ite_keeps ?_ ?_
    | simp only [State.kept_mk, State.kept_eta]
    | split
    | dsimp only)

theorem execDescriptorSetup_keeps {s t : State} : ∀ x1 x2, execDescriptorSetup x1 x2 s = .next t → Keeps s.kept t.kept := by
  intro x1 x2 h
  have h0 := Keeps.refl s.kept
  injection h with h
  subst h
  repeat' (first
    | with_reducible assumption
    | with_reducible refine State.setupDesc_keeps ?_ ..
    | with_reducible refine State.readErrors_keeps ?_ ..
    | with_reducible refine ite_keeps ?_ ?_
    | simp only [State.kept_mk, State.kept_eta]
    | split
    | dsimp only)

theorem execSliceBoundary_keeps {s t : State} : ∀ x1, execSliceBoundary x1 s = .next t → Keeps s.kept t.kept := by
  intro x1 h
  have h0 := Keeps.refl s.kept
  injection h with h
  subst h
  repeat' (first
    | with_reducible assumption
    | with_reducible refine State.enterSlice_keeps ?_ ..
    | with_reducible refine ite_keeps ?_ ?_
    | split)

theorem execSliceGuardPoint_keeps {s t : State} : ∀ x1, execSliceGuardPoint x1 s = .next t → Keeps s.kept t.kept := by
  intro x1 h
  have h0 := Keeps.refl s.kept
  injection h with h
  subst h
  repeat' (first
    | with_reducible assumption
    | with_reducible refine State.modCore_keeps ?_ ..
    | with_reducible refine State.enterSlice_keeps ?_ ..
    | with_reducible refine ite_keeps ?_ ?_
    | simp only [State.kept_mk, State.kept_eta]
    | split
    | dsimp only)

theorem State.contention_keeps {a : Kept} {s : State} (h : Keeps a s.kept) : ∀ x1, Keeps a (State.contention s x1).kept := by
  intro x1
  unfold State.contention
  repeat' (first
    | with_reducible assumption
    | with_reducible refine State.modCnt_keeps ?_ ..
    | with_reducible refine State.coreEvent_keeps ?_ ..
    | with_reducible refine ite_keeps ?_ ?_
    | simp only [State.kept_mk, State.kept_eta]
    | split
    | dsimp only)

theorem State.stepDown_keeps {a : Kept} {s : State} (h : Keeps a s.kept) : ∀ x1, Keeps a (State.stepDown s x1).kept := by
  intro x1
  unfold State.stepDown
  repeat' (first
    | with_reducible assumption
    | with_reducible refine State.modField_keeps ?_ ..
    | with_reducible refine State.modCore_keeps ?_ ..
    | with_reducible refine State.contention_keeps ?_ ..
    | with_reducible refine ite_keeps ?_ ?_
    | simp only [State.kept_mk, State.kept_eta]
    | split
    | dsimp only)

theorem execThermalStepDown_keeps {s t : State} : ∀ x1, execThermalStepDown x1 s = .next t → Keeps s.kept t.kept := by
  intro x1 h
  have h0 := Keeps.refl s.kept
  injection h with h
  subst h
  repeat' (first
    | with_reducible assumption
    | with_reducible refine State.stepDown_keeps ?_ ..
    | with_reducible refine ite_keeps ?_ ?_
    | simp only [State.kept_mk, State.kept_eta]
    | split)

theorem execThermalStepUp_keeps {s t : State} : ∀ x1, execThermalStepUp x1 s = .next t → Keeps s.kept t.kept := by
  intro x1 h
  have h0 := Keeps.refl s.kept
  injection h with h
  subst h
  repeat' (first
    | with_reducible assumption
    | with_reducible refine State.modCore_keeps ?_ ..
    | with_reducible refine ite_keeps ?_ ?_
    | simp only [State.kept_mk, State.kept_eta]
    | split
    | dsimp only)

theorem execFloorEscalation_keeps {s t : State} : ∀ x1, execFloorEscalation x1 s = .next t → Keeps s.kept t.kept := by
  intro x1 h
  have h0 := Keeps.refl s.kept
  injection h with h
  subst h
  repeat' (first
    | with_reducible assumption
    | with_reducible refine State.modCore_keeps ?_ ..
    | with_reducible refine ite_keeps ?_ ?_
    | simp only [State.kept_mk, State.kept_eta]
    | split
    | dsimp only)

theorem State.enterThr_keeps {a : Kept} {s : State} (h : Keeps a s.kept) : ∀ x1 x2, Keeps a (State.enterThr s x1 x2).kept := by
  intro x1 x2
  unfold State.enterThr
  refine State.fresh_keeps ?_ ..
  exact (congrArg (Keeps a) (State.kept_mk ..)).mpr h

theorem execClockLevelChange_keeps {s t : State} : ∀ x1, execClockLevelChange x1 s = .next t → Keeps s.kept t.kept := by
  intro x1 h
  have h0 := Keeps.refl s.kept
  injection h with h
  subst h
  repeat' (first
    | with_reducible assumption
    | with_reducible refine State.enterThr_keeps ?_ ..
    | with_reducible refine State.modCore_keeps ?_ ..
    | with_reducible refine ite_keeps ?_ ?_
    | simp only [State.kept_mk, State.kept_eta]
    | split
    | dsimp only)

theorem execClockLevelChangeEnd_keeps {s t : State} : ∀ x1, execClockLevelChangeEnd x1 s = .next t → Keeps s.kept t.kept := by
  intro x1 h
  have h0 := Keeps.refl s.kept
  injection h with h
  subst h
  repeat' (first
    | with_reducible assumption
    | with_reducible refine State.modCore_keeps ?_ ..
    | simp only [State.kept_mk, State.kept_eta]
    | split
    | dsimp only)

theorem State.countTrans_keeps {a : Kept} {s : State} (h : Keeps a s.kept) : ∀ x1 x2, Keeps a (State.countTrans s x1 x2).kept := by
  intro x1 x2
  unfold State.countTrans
  repeat' (first
    | with_reducible assumption
    | with_reducible refine State.coreEvents_keeps ?_ ..
    | with_reducible refine State.modCnt_keeps ?_ ..
    | simp only [State.kept_mk, State.kept_eta]
    | dsimp only)

theorem State.writeTrans_keeps {a : Kept} {s : State} (h : Keeps a s.kept) : ∀ x1 x2 x3 x4 x5 x6, Keeps a (State.writeTrans s x1 x2 x3 x4 x5 x6).kept := by
  intro x1 x2 x3 x4 x5 x6
  unfold State.writeTrans
  repeat' (first
    | with_reducible assumption
    | with_reducible refine State.writeLast_keeps ?_ ..
    | with_reducible refine State.writeOut_keeps ?_ ..
    | with_reducible refine ite_keeps ?_ ?_
    | simp only [State.kept_mk, State.kept_eta]
    | split
    | with_reducible refine foldl_keeps (fun _ _ _ => ?_) ?_
    | dsimp only)

theorem State.digestFolio_keeps {a : Kept} {s : State} (h : Keeps a s.kept) : ∀ x1 x2 x3 x4 x5 x6 x7, Keeps a (State.digestFolio s x1 x2 x3 x4 x5 x6 x7).kept := by
  intro x1 x2 x3 x4 x5 x6 x7
  unfold State.digestFolio
  repeat' (first
    | with_reducible assumption
    | with_reducible refine State.digest_keeps ?_ ..
    | simp only [State.kept_mk, State.kept_eta]
    | split
    | with_reducible refine foldl_keeps (fun _ _ _ => ?_) ?_
    | dsimp only)

theorem State.digestStream_keeps {a : Kept} {s : State} (h : Keeps a s.kept) : ∀ x1 x2 x3 x4 x5 x6 x7 x8, Keeps a (State.digestStream s x1 x2 x3 x4 x5 x6 x7 x8).kept := by
  intro x1 x2 x3 x4 x5 x6 x7 x8
  unfold State.digestStream
  repeat' (first
    | with_reducible assumption
    | with_reducible refine State.digestRun_keeps ?_ ..
    | with_reducible refine State.digestFolio_keeps ?_ ..
    | with_reducible refine ite_keeps ?_ ?_
    | split
    | with_reducible refine foldl_keeps (fun _ _ _ => ?_) ?_
    | dsimp only)

theorem State.writeRows_keeps {a : Kept} {s : State} (h : Keeps a s.kept) : ∀ x1 x2 x3 x4 x5 x6 x7 x8, Keeps a (State.writeRows s x1 x2 x3 x4 x5 x6 x7 x8).kept := by
  intro x1 x2 x3 x4 x5 x6 x7 x8
  unfold State.writeRows
  repeat' (first
    | with_reducible assumption
    | with_reducible refine State.mcastOut_keeps ?_ ..
    | with_reducible refine State.writeLast_keeps ?_ ..
    | with_reducible refine State.writeOut_keeps ?_ ..
    | with_reducible refine ite_keeps ?_ ?_
    | simp only [State.kept_mk, State.kept_eta]
    | split
    | with_reducible refine foldl_keeps (fun _ _ _ => ?_) ?_
    | dsimp only)

theorem State.streamDone_keeps {a : Kept} {s : State} (h : Keeps a s.kept) : ∀ x1 x2 x3 x4 x5 x6, Keeps a (State.streamDone s x1 x2 x3 x4 x5 x6).kept := by
  intro x1 x2 x3 x4 x5 x6
  unfold State.streamDone
  repeat' (first
    | with_reducible assumption
    | with_reducible refine State.countTrans_keeps ?_ ..
    | with_reducible refine State.digestStream_keeps ?_ ..
    | with_reducible refine State.writeRows_keeps ?_ ..
    | with_reducible refine ite_keeps ?_ ?_
    | split
    | dsimp only)

theorem State.ccloseDone_keeps {a : Kept} {s : State} (h : Keeps a s.kept) : ∀ x1 x2 x3 x4, Keeps a (State.ccloseDone s x1 x2 x3 x4).kept := by
  intro x1 x2 x3 x4
  unfold State.ccloseDone
  repeat' (first
    | with_reducible assumption
    | with_reducible refine State.writeLast_keeps ?_ ..
    | with_reducible refine State.modTask_keeps ?_ ..
    | with_reducible refine ite_keeps ?_ ?_
    | simp only [State.kept_mk, State.kept_eta]
    | split
    | dsimp only)

theorem State.shaPart_keeps {a : Kept} {s : State} (h : Keeps a s.kept) : ∀ x1 x2 x3 x4, Keeps a (State.shaPart s x1 x2 x3 x4).kept := by
  intro x1 x2 x3 x4
  unfold State.shaPart
  repeat' (first
    | with_reducible assumption
    | with_reducible refine State.modTask_keeps ?_ ..
    | with_reducible refine ite_keeps ?_ ?_
    | simp only [State.kept_mk, State.kept_eta]
    | split
    | dsimp only)

theorem State.shaDone_keeps {a : Kept} {s : State} (h : Keeps a s.kept) : ∀ x1 x2 x3 x4 x5, Keeps a (State.shaDone s x1 x2 x3 x4 x5).kept := by
  intro x1 x2 x3 x4 x5
  unfold State.shaDone
  repeat' (first
    | with_reducible assumption
    | with_reducible refine State.writeLast_keeps ?_ ..
    | with_reducible refine State.coreEvent_keeps ?_ ..
    | with_reducible refine State.modCnt_keeps ?_ ..
    | with_reducible refine ite_keeps ?_ ?_
    | simp only [State.kept_mk, State.kept_eta]
    | split
    | dsimp only)

theorem State.sparseDone_keeps {a : Kept} {s : State} (h : Keeps a s.kept) : ∀ x1 x2 x3 x4 x5 x6, Keeps a (State.sparseDone s x1 x2 x3 x4 x5 x6).kept := by
  intro x1 x2 x3 x4 x5 x6
  unfold State.sparseDone
  repeat' (first
    | with_reducible assumption
    | with_reducible refine State.fresh_keeps ?_ ..
    | with_reducible refine State.writeTrans_keeps ?_ ..
    | with_reducible refine State.countTrans_keeps ?_ ..
    | with_reducible refine ite_keeps ?_ ?_
    | split
    | dsimp only)

theorem State.cairnDone_keeps {a : Kept} {s : State} (h : Keeps a s.kept) : ∀ x1 x2 x3 x4, Keeps a (State.cairnDone s x1 x2 x3 x4).kept := by
  intro x1 x2 x3 x4
  unfold State.cairnDone
  repeat' (first
    | with_reducible assumption
    | with_reducible refine State.digestRun_keeps ?_ ..
    | dsimp only)

theorem State.segDone_keeps {a : Kept} {s : State} (h : Keeps a s.kept) : ∀ x1 x2 x3 x4 x5 x6, Keeps a (State.segDone s x1 x2 x3 x4 x5 x6).kept := by
  intro x1 x2 x3 x4 x5 x6
  unfold State.segDone
  repeat' (first
    | with_reducible assumption
    | with_reducible refine State.shaPart_keeps ?_ ..
    | with_reducible refine State.streamDone_keeps ?_ ..
    | with_reducible refine State.cairnDone_keeps ?_ ..
    | with_reducible refine State.ccloseDone_keeps ?_ ..
    | with_reducible refine State.shaDone_keeps ?_ ..
    | with_reducible refine State.sparseDone_keeps ?_ ..
    | with_reducible refine ite_keeps ?_ ?_
    | simp only [State.kept_mk, State.kept_eta]
    | split
    | dsimp only)

theorem State.freeGang_keeps {a : Kept} {s : State} (h : Keeps a s.kept) : ∀ x1 x2, Keeps a (State.freeGang s x1 x2).kept := by
  intro x1 x2
  unfold State.freeGang
  repeat' (first
    | with_reducible assumption
    | with_reducible refine State.modTask_keeps ?_ ..
    | with_reducible refine State.modCore_keeps ?_ ..
    | simp only [State.kept_mk, State.kept_eta]
    | dsimp only)

theorem execGangRetire_keeps {s t : State} : ∀ x1 x2, execGangRetire x1 x2 s = .next t → Keeps s.kept t.kept := by
  intro x1 x2 h
  have h0 := Keeps.refl s.kept
  injection h with h
  subst h
  repeat' (first
    | with_reducible assumption
    | with_reducible refine State.freeGang_keeps ?_ ..
    | with_reducible refine State.matrixDone_keeps ?_ ..
    | with_reducible refine State.scratchErrors_keeps ?_ ..
    | with_reducible refine State.vectorDone_keeps ?_ ..
    | with_reducible refine State.segDone_keeps ?_ ..
    | with_reducible refine ite_keeps ?_ ?_
    | simp only [State.kept_mk, State.kept_eta]
    | split)

theorem State.abandonNow_keeps {a : Kept} {s : State} (h : Keeps a s.kept) : Keeps a (State.abandonNow s).kept := by
  unfold State.abandonNow
  repeat' (first
    | with_reducible assumption
    | simp only [State.kept_mk, State.kept_eta]
    | dsimp only)

theorem State.endRun_keeps {a : Kept} {s : State} (h : Keeps a s.kept) : Keeps a (State.endRun s).kept := by
  unfold State.endRun
  repeat' (first
    | with_reducible assumption
    | with_reducible refine ite_keeps ?_ ?_
    | simp only [State.kept_mk, State.kept_eta]
    | split)

theorem State.faultRun_keeps {a : Kept} {s : State} (h : Keeps a s.kept) : Keeps a (State.faultRun s).kept := by
  unfold State.faultRun
  repeat' (first
    | with_reducible assumption
    | with_reducible refine State.abandonNow_keeps ?_ ..
    | with_reducible refine ite_keeps ?_ ?_
    | split)

theorem State.modSlot_keeps {a : Kept} {s : State} (h : Keeps a s.kept) : ∀ x1 x2, Keeps a (State.modSlot s x1 x2).kept := by
  intro x1 x2
  unfold State.modSlot
  repeat' (first
    | with_reducible assumption
    | simp only [State.kept_mk, State.kept_eta])

theorem State.armSlot_keeps {a : Kept} {s : State} (h : Keeps a s.kept) : ∀ x1, Keeps a (State.armSlot s x1).kept := by
  intro x1
  unfold State.armSlot
  repeat' (first
    | with_reducible assumption
    | with_reducible refine State.modSlot_keeps ?_ ..
    | with_reducible refine ite_keeps ?_ ?_
    | simp only [State.kept_mk, State.kept_eta]
    | split
    | dsimp only)

theorem execArm_keeps {s t : State} : ∀ x1 x2, execArm x1 x2 s = .next t → Keeps s.kept t.kept := by
  intro x1 x2 h
  have h0 := Keeps.refl s.kept
  injection h with h
  subst h
  repeat' (first
    | with_reducible assumption
    | with_reducible refine State.guarded_keeps ?_ (fun _ _ => ?_) ..
    | with_reducible refine State.armSlot_keeps ?_ ..
    | dsimp only)

theorem State.checkSlot_keeps {a : Kept} {s : State} (h : Keeps a s.kept) : ∀ x1, Keeps a (State.checkSlot s x1).kept := by
  intro x1
  unfold State.checkSlot
  repeat' (first
    | with_reducible assumption
    | with_reducible refine State.modSlot_keeps ?_ ..
    | with_reducible refine ite_keeps ?_ ?_
    | simp only [State.kept_mk, State.kept_eta]
    | split
    | dsimp only)

theorem State.disarmSlot_keeps {a : Kept} {s : State} (h : Keeps a s.kept) : ∀ x1 x2, Keeps a (State.disarmSlot s x1 x2).kept := by
  intro x1 x2
  unfold State.disarmSlot
  repeat' (first
    | with_reducible assumption
    | with_reducible refine State.refuse_keeps ?_ ..
    | with_reducible refine State.modSlot_keeps ?_ ..
    | with_reducible refine ite_keeps ?_ ?_
    | simp only [State.kept_mk, State.kept_eta]
    | split
    | dsimp only)

theorem State.domRefused_keeps {a : Kept} {s : State} (h : Keeps a s.kept) : Keeps a (State.domRefused s).kept := by
  unfold State.domRefused
  repeat' (first
    | with_reducible assumption
    | simp only [State.kept_mk, State.kept_eta])

theorem State.enqueueSeq_keeps {a : Kept} {s : State} (h : Keeps a s.kept) : ∀ x1 x2, Keeps a (State.enqueueSeq s x1 x2).kept := by
  intro x1 x2
  unfold State.enqueueSeq
  repeat' (first
    | with_reducible assumption
    | with_reducible refine State.modDom_keeps ?_ ..
    | simp only [State.kept_mk, State.kept_eta]
    | dsimp only)

theorem State.dequeueSeq_keeps {a : Kept} {s : State} (h : Keeps a s.kept) : ∀ x1, Keeps a (State.dequeueSeq s x1).kept := by
  intro x1
  unfold State.dequeueSeq
  repeat' (first
    | with_reducible assumption
    | with_reducible refine State.modDom_keeps ?_ ..
    | simp only [State.kept_mk, State.kept_eta]
    | dsimp only)

theorem State.requestOn_keeps {a : Kept} {s : State} (h : Keeps a s.kept) : ∀ x1, Keeps a (State.requestOn s x1).kept := by
  intro x1
  unfold State.requestOn
  repeat' (first
    | with_reducible assumption
    | with_reducible refine State.domRefused_keeps ?_ ..
    | with_reducible refine State.enqueueSeq_keeps ?_ ..
    | with_reducible refine State.modDom_keeps ?_ ..
    | with_reducible refine State.dequeueSeq_keeps ?_ ..
    | with_reducible refine ite_keeps ?_ ?_
    | simp only [State.kept_mk, State.kept_eta]
    | split
    | dsimp only)

theorem State.requestOff_keeps {a : Kept} {s : State} (h : Keeps a s.kept) : ∀ x1, Keeps a (State.requestOff s x1).kept := by
  intro x1
  unfold State.requestOff
  repeat' (first
    | with_reducible assumption
    | with_reducible refine State.domRefused_keeps ?_ ..
    | with_reducible refine State.dequeueSeq_keeps ?_ ..
    | with_reducible refine State.modDom_keeps ?_ ..
    | with_reducible refine ite_keeps ?_ ?_
    | simp only [State.kept_mk, State.kept_eta]
    | split
    | dsimp only)

theorem State.requestDom_keeps {a : Kept} {s : State} (h : Keeps a s.kept) : ∀ x1 x2, Keeps a (State.requestDom s x1 x2).kept := by
  intro x1 x2
  unfold State.requestDom
  repeat' (first
    | with_reducible assumption
    | with_reducible refine State.requestOn_keeps ?_ ..
    | with_reducible refine State.requestOff_keeps ?_ ..
    | with_reducible refine State.domRefused_keeps ?_ ..
    | with_reducible refine ite_keeps ?_ ?_
    | split)

theorem execDomainOnRequest_keeps {s t : State} : ∀ x1 x2, execDomainOnRequest x1 x2 s = .next t → Keeps s.kept t.kept := by
  intro x1 x2 h
  have h0 := Keeps.refl s.kept
  injection h with h
  subst h
  repeat' (first
    | with_reducible assumption
    | with_reducible refine State.guarded_keeps ?_ (fun _ _ => ?_) ..
    | with_reducible refine State.requestDom_keeps ?_ ..
    | dsimp only)

theorem execDomainOffRequest_keeps {s t : State} : ∀ x1 x2, execDomainOffRequest x1 x2 s = .next t → Keeps s.kept t.kept := by
  intro x1 x2 h
  have h0 := Keeps.refl s.kept
  injection h with h
  subst h
  repeat' (first
    | with_reducible assumption
    | with_reducible refine State.guarded_keeps ?_ (fun _ _ => ?_) ..
    | with_reducible refine State.requestDom_keeps ?_ ..
    | dsimp only)

theorem State.resetField_keeps {a : Kept} {s : State} (h : Keeps a s.kept) : ∀ x1, Keeps a (State.resetField s x1).kept := by
  intro x1
  unfold State.resetField
  repeat' (first
    | with_reducible assumption
    | with_reducible refine ite_keeps ?_ ?_
    | simp only [State.kept_mk, State.kept_eta]
    | split
    | dsimp only)

theorem State.unpowerEdge_keeps {a : Kept} {s : State} (h : Keeps a s.kept) : ∀ x1, Keeps a (State.unpowerEdge s x1).kept := by
  intro x1
  unfold State.unpowerEdge
  repeat' (first
    | with_reducible assumption
    | with_reducible refine State.modSub_keeps ?_ ..
    | with_reducible refine foldl_keeps (fun _ _ _ => ?_) ?_
    | dsimp only)

theorem State.trainEdge_keeps {a : Kept} {s : State} (h : Keeps a s.kept) : ∀ x1, Keeps a (State.trainEdge s x1).kept := by
  intro x1
  unfold State.trainEdge
  repeat' (first
    | with_reducible assumption
    | with_reducible refine State.modGroup_keeps ?_ ..
    | with_reducible refine foldl_keeps (fun _ _ _ => ?_) ?_
    | dsimp only)

theorem State.powerLost_keeps {a : Kept} {s : State} (h : Keeps a s.kept) : ∀ x1, Keeps a (State.powerLost s x1).kept := by
  intro x1
  unfold State.powerLost
  split
  · exact State.resetField_keeps h ..
  · exact Keeps.mem (show Keeps a ⟨_, s.mem, _, _⟩ from h) (Memory.loseArrays_wf _ _)
  · exact State.unpowerEdge_keeps h ..
  · exact Keeps.mem (show Keeps a ⟨_, s.mem, _, _⟩ from h) (Memory.loseStacks_wf _ _)

theorem State.startSeq_keeps {a : Kept} {s : State} (h : Keeps a s.kept) : ∀ x1 x2, Keeps a (State.startSeq s x1 x2).kept := by
  intro x1 x2
  unfold State.startSeq
  repeat' (first
    | with_reducible assumption
    | with_reducible refine State.dequeueSeq_keeps ?_ ..
    | with_reducible refine State.modDom_keeps ?_ ..
    | with_reducible refine State.powerLost_keeps ?_ ..
    | with_reducible refine ite_keeps ?_ ?_
    | simp only [State.kept_mk, State.kept_eta]
    | split
    | dsimp only)

theorem execDomainSequenceStart_keeps {s t : State} : execDomainSequenceStart s = .next t → Keeps s.kept t.kept := by
  intro h
  have h0 := Keeps.refl s.kept
  injection h with h
  subst h
  repeat' (first
    | with_reducible assumption
    | with_reducible refine State.startSeq_keeps ?_ ..
    | with_reducible refine ite_keeps ?_ ?_
    | simp only [State.kept_mk, State.kept_eta]
    | split)

theorem execDomainStage_keeps {s t : State} : ∀ x1, execDomainStage x1 s = .next t → Keeps s.kept t.kept := by
  intro x1 h
  have h0 := Keeps.refl s.kept
  injection h with h
  subst h
  repeat' (first
    | with_reducible assumption
    | with_reducible refine State.modDom_keeps ?_ ..
    | with_reducible refine ite_keeps ?_ ?_
    | simp only [State.kept_mk, State.kept_eta]
    | split
    | dsimp only)

theorem execDomainRegulated_keeps {s t : State} : ∀ x1, execDomainRegulated x1 s = .next t → Keeps s.kept t.kept := by
  intro x1 h
  have h0 := Keeps.refl s.kept
  injection h with h
  subst h
  repeat' (first
    | with_reducible assumption
    | with_reducible refine State.trainEdge_keeps ?_ ..
    | with_reducible refine State.modDom_keeps ?_ ..
    | with_reducible refine ite_keeps ?_ ?_
    | simp only [State.kept_mk, State.kept_eta]
    | split
    | dsimp only)

theorem execDomainReady_keeps {s t : State} : ∀ x1, execDomainReady x1 s = .next t → Keeps s.kept t.kept := by
  intro x1 h
  have h0 := Keeps.refl s.kept
  injection h with h
  subst h
  repeat' (first
    | with_reducible assumption
    | with_reducible refine State.resetField_keeps ?_ ..
    | with_reducible refine State.modDom_keeps ?_ ..
    | with_reducible refine Keeps.loseArrays ?_ ..
    | with_reducible refine Keeps.loseStacks ?_ ..
    | with_reducible refine ite_keeps ?_ ?_
    | simp only [State.kept_mk, State.kept_eta]
    | split
    | dsimp only)

theorem execDomainOff_keeps {s t : State} : ∀ x1, execDomainOff x1 s = .next t → Keeps s.kept t.kept := by
  intro x1 h
  have h0 := Keeps.refl s.kept
  injection h with h
  subst h
  repeat' (first
    | with_reducible assumption
    | with_reducible refine State.modDom_keeps ?_ ..
    | with_reducible refine ite_keeps ?_ ?_
    | simp only [State.kept_mk, State.kept_eta]
    | split
    | dsimp only)

end Sys2Proof.Machine
end

