-- ==== Sys2Proof/Laws/KeepsLink.lean ====
section
/-! SUPPORT. Every operation and command keeps the queue and the invariant: the second third of them, in the order in which they call each other. -/

namespace Sys2Proof.Machine

theorem State.reversed_keeps {a : Kept} {s : State} (h : Keeps a s.kept) : Keeps a (State.reversed s).kept := by
  unfold State.reversed
  repeat' (first
    | with_reducible assumption
    | simp only [State.kept_mk, State.kept_eta])

theorem execDomainReversal_keeps {s t : State} : ∀ x1, execDomainReversal x1 s = .next t → Keeps s.kept t.kept := by
  intro x1 h
  have h0 := Keeps.refl s.kept
  injection h with h
  subst h
  repeat' (first
    | with_reducible assumption
    | with_reducible refine State.reversed_keeps ?_ ..
    | with_reducible refine State.modDom_keeps ?_ ..
    | with_reducible refine ite_keeps ?_ ?_
    | simp only [State.kept_mk, State.kept_eta]
    | split
    | dsimp only)

theorem execFenceRaise_keeps {s t : State} : ∀ x1, execFenceRaise x1 s = .next t → Keeps s.kept t.kept := by
  intro x1 h
  have h0 := Keeps.refl s.kept
  injection h with h
  subst h
  repeat' (first
    | with_reducible assumption
    | with_reducible refine State.tellAll_keeps ?_ ..
    | with_reducible refine State.modDom_keeps ?_ ..
    | with_reducible refine ite_keeps ?_ ?_
    | simp only [State.kept_mk, State.kept_eta]
    | split
    | dsimp only)

theorem State.resumeAll_keeps {a : Kept} {s : State} (h : Keeps a s.kept) : Keeps a (State.resumeAll s).kept := by
  unfold State.resumeAll
  repeat' (first
    | with_reducible assumption
    | with_reducible refine State.grantOwed_keeps ?_ ..
    | with_reducible refine foldl_keeps (fun _ _ _ => ?_) ?_
    | dsimp only)

theorem State.lowerFence_keeps {a : Kept} {s : State} (h : Keeps a s.kept) : ∀ x1, Keeps a (State.lowerFence s x1).kept := by
  intro x1
  unfold State.lowerFence
  repeat' (first
    | with_reducible assumption
    | with_reducible refine State.resumeAll_keeps ?_ ..
    | with_reducible refine State.tellAll_keeps ?_ ..
    | with_reducible refine State.modDom_keeps ?_ ..
    | simp only [State.kept_mk, State.kept_eta]
    | dsimp only)

theorem execPowerDownStart_keeps {s t : State} : ∀ x1, execPowerDownStart x1 s = .next t → Keeps s.kept t.kept := by
  intro x1 h
  have h0 := Keeps.refl s.kept
  injection h with h
  subst h
  repeat' (first
    | with_reducible assumption
    | with_reducible refine State.lowerFence_keeps ?_ ..
    | with_reducible refine State.enqueueSeq_keeps ?_ ..
    | with_reducible refine State.unpowerEdge_keeps ?_ ..
    | with_reducible refine ite_keeps ?_ ?_
    | simp only [State.kept_mk, State.kept_eta]
    | split
    | dsimp only)

theorem execFenceLower_keeps {s t : State} : ∀ x1, execFenceLower x1 s = .next t → Keeps s.kept t.kept := by
  intro x1 h
  have h0 := Keeps.refl s.kept
  injection h with h
  subst h
  repeat' (first
    | with_reducible assumption
    | with_reducible refine State.lowerFence_keeps ?_ ..
    | with_reducible refine ite_keeps ?_ ?_
    | split)

theorem State.refreshCeil_keeps {a : Kept} {s : State} (h : Keeps a s.kept) : ∀ x1, Keeps a (State.refreshCeil s x1).kept := by
  intro x1
  unfold State.refreshCeil
  repeat' (first
    | with_reducible assumption
    | with_reducible refine State.logEvent_keeps ?_ ..
    | with_reducible refine State.modField_keeps ?_ ..
    | with_reducible refine ite_keeps ?_ ?_
    | simp only [State.kept_mk, State.kept_eta]
    | split
    | dsimp only)

theorem execDroopClamp_keeps {s t : State} : ∀ x1 x2, execDroopClamp x1 x2 s = .next t → Keeps s.kept t.kept := by
  intro x1 x2 h
  have h0 := Keeps.refl s.kept
  injection h with h
  subst h
  repeat' (first
    | with_reducible assumption
    | with_reducible refine State.refreshCeil_keeps ?_ ..
    | with_reducible refine State.modField_keeps ?_ ..
    | with_reducible refine ite_keeps ?_ ?_
    | simp only [State.kept_mk, State.kept_eta]
    | split
    | dsimp only)

theorem execClampCeilingRaise_keeps {s t : State} : ∀ x1, execClampCeilingRaise x1 s = .next t → Keeps s.kept t.kept := by
  intro x1 h
  have h0 := Keeps.refl s.kept
  injection h with h
  subst h
  repeat' (first
    | with_reducible assumption
    | with_reducible refine State.refreshCeil_keeps ?_ ..
    | with_reducible refine State.modField_keeps ?_ ..
    | with_reducible refine ite_keeps ?_ ?_
    | simp only [State.kept_mk, State.kept_eta]
    | split
    | dsimp only)

theorem execPhaseFault_keeps {s t : State} : ∀ x1, execPhaseFault x1 s = .next t → Keeps s.kept t.kept := by
  intro x1 h
  have h0 := Keeps.refl s.kept
  injection h with h
  subst h
  repeat' (first
    | with_reducible assumption
    | with_reducible refine State.modDom_keeps ?_ ..
    | with_reducible refine State.refreshCeil_keeps ?_ ..
    | simp only [State.kept_mk, State.kept_eta]
    | with_reducible refine foldl_keeps (fun _ _ _ => ?_) ?_
    | dsimp only)

theorem State.logContention_keeps {a : Kept} {s : State} (h : Keeps a s.kept) : ∀ x1, Keeps a (State.logContention s x1).kept := by
  intro x1
  unfold State.logContention
  repeat' (first
    | with_reducible assumption
    | with_reducible refine State.coreEvent_keeps ?_ ..
    | with_reducible refine ite_keeps ?_ ?_
    | simp only [State.kept_mk, State.kept_eta]
    | split)

theorem State.govLower_keeps {a : Kept} {s : State} (h : Keeps a s.kept) : ∀ x1 x2, Keeps a (State.govLower s x1 x2).kept := by
  intro x1 x2
  unfold State.govLower
  repeat' (first
    | with_reducible assumption
    | with_reducible refine State.refreshCeil_keeps ?_ ..
    | with_reducible refine State.modField_keeps ?_ ..
    | with_reducible refine State.logContention_keeps ?_ ..
    | with_reducible refine ite_keeps ?_ ?_
    | simp only [State.kept_mk, State.kept_eta]
    | split
    | with_reducible refine foldl_keeps (fun _ _ _ => ?_) ?_
    | dsimp only)

theorem State.govRaise_keeps {a : Kept} {s : State} (h : Keeps a s.kept) : Keeps a (State.govRaise s).kept := by
  unfold State.govRaise
  repeat' (first
    | with_reducible assumption
    | with_reducible refine State.refreshCeil_keeps ?_ ..
    | with_reducible refine State.modField_keeps ?_ ..
    | simp only [State.kept_mk, State.kept_eta]
    | split
    | dsimp only)

theorem execGovernorTick_keeps {s t : State} : ∀ x1 x2 x3, execGovernorTick x1 x2 x3 s = .next t → Keeps s.kept t.kept := by
  intro x1 x2 x3 h
  have h0 := Keeps.refl s.kept
  injection h with h
  subst h
  repeat' (first
    | with_reducible assumption
    | with_reducible refine State.govLower_keeps ?_ ..
    | with_reducible refine State.govRaise_keeps ?_ ..
    | with_reducible refine ite_keeps ?_ ?_
    | simp only [State.kept_mk, State.kept_eta]
    | split
    | dsimp only)

theorem State.failSensor_keeps {a : Kept} {s : State} (h : Keeps a s.kept) : ∀ x1 x2, Keeps a (State.failSensor s x1 x2).kept := by
  intro x1 x2
  unfold State.failSensor
  repeat' (first
    | with_reducible assumption
    | with_reducible refine State.coreEvent_keeps ?_ ..
    | with_reducible refine State.modCore_keeps ?_ ..
    | with_reducible refine State.service_keeps ?_ ..
    | with_reducible refine ite_keeps ?_ ?_
    | simp only [State.kept_mk, State.kept_eta]
    | split
    | dsimp only)

theorem State.readCoreSensor_keeps {a : Kept} {s : State} (h : Keeps a s.kept) : ∀ x1 x2 x3, Keeps a (State.readCoreSensor s x1 x2 x3).kept := by
  intro x1 x2 x3
  unfold State.readCoreSensor
  repeat' (first
    | with_reducible assumption
    | with_reducible refine State.modCore_keeps ?_ ..
    | with_reducible refine State.failSensor_keeps ?_ ..
    | with_reducible refine ite_keeps ?_ ?_
    | simp only [State.kept_mk, State.kept_eta]
    | split
    | dsimp only)

theorem State.readStackSensor_keeps {a : Kept} {s : State} (h : Keeps a s.kept) : ∀ x1 x2, Keeps a (State.readStackSensor s x1 x2).kept := by
  intro x1 x2
  unfold State.readStackSensor
  repeat' (first
    | with_reducible assumption
    | with_reducible refine State.modField_keeps ?_ ..
    | with_reducible refine State.logEvent_keeps ?_ ..
    | with_reducible refine ite_keeps ?_ ?_
    | simp only [State.kept_mk, State.kept_eta]
    | split
    | dsimp only)

theorem execSensorRead_keeps {s t : State} : ∀ x1 x2, execSensorRead x1 x2 s = .next t → Keeps s.kept t.kept := by
  intro x1 x2 h
  have h0 := Keeps.refl s.kept
  injection h with h
  subst h
  repeat' (first
    | with_reducible assumption
    | with_reducible refine State.readCoreSensor_keeps ?_ ..
    | with_reducible refine State.readStackSensor_keeps ?_ ..
    | simp only [State.kept_mk, State.kept_eta]
    | split)

theorem State.openAll_keeps {a : Kept} {s : State} (h : Keeps a s.kept) : Keeps a (State.openAll s).kept := by
  unfold State.openAll
  repeat' (first
    | with_reducible assumption
    | with_reducible refine Keeps.lose ?_ ..
    | simp only [State.kept_mk, State.kept_eta])

theorem State.quiet_keeps {a : Kept} {s : State} (h : Keeps a s.kept) : Keeps a (State.quiet s).kept := by
  unfold State.quiet
  repeat' (first
    | with_reducible assumption
    | simp only [State.kept_mk, State.kept_eta])

theorem State.shutNow_keeps {a : Kept} {s : State} (h : Keeps a s.kept) : ∀ x1 x2, Keeps a (State.shutNow s x1 x2).kept := by
  intro x1 x2
  unfold State.shutNow
  repeat' (first
    | with_reducible assumption
    | with_reducible refine State.service_keeps ?_ ..
    | with_reducible refine State.logEvent_keeps ?_ ..
    | with_reducible refine State.quiet_keeps ?_ ..
    | with_reducible refine State.openAll_keeps ?_ ..
    | with_reducible refine State.endRun_keeps ?_ ..
    | with_reducible refine ite_keeps ?_ ?_
    | simp only [State.kept_mk, State.kept_eta]
    | split
    | dsimp only)

theorem execShutdown_keeps {s t : State} : ∀ x1 x2, execShutdown x1 x2 s = .next t → Keeps s.kept t.kept := by
  intro x1 x2 h
  have h0 := Keeps.refl s.kept
  injection h with h
  subst h
  repeat' (first
    | with_reducible assumption
    | with_reducible refine State.shutNow_keeps ?_ ..
    | with_reducible refine ite_keeps ?_ ?_
    | split)

theorem execInputVoltageFault_keeps {s t : State} : execInputVoltageFault s = .next t → Keeps s.kept t.kept := by
  intro h
  have h0 := Keeps.refl s.kept
  injection h with h
  subst h
  repeat' (first
    | with_reducible assumption
    | with_reducible refine State.shutNow_keeps ?_ ..
    | with_reducible refine ite_keeps ?_ ?_
    | simp only [State.kept_mk, State.kept_eta]
    | split
    | dsimp only)

theorem execShutdownIntervalEnd_keeps {s t : State} : execShutdownIntervalEnd s = .next t → Keeps s.kept t.kept := by
  intro h
  have h0 := Keeps.refl s.kept
  injection h with h
  subst h
  repeat' (first
    | with_reducible assumption
    | with_reducible refine ite_keeps ?_ ?_
    | simp only [State.kept_mk, State.kept_eta]
    | split)

theorem State.linkEvent_keeps {a : Kept} {s : State} (h : Keeps a s.kept) : ∀ x1 x2 x3 x4 x5, Keeps a (State.linkEvent s x1 x2 x3 x4 x5).kept := by
  intro x1 x2 x3 x4 x5
  unfold State.linkEvent
  repeat' (first
    | with_reducible assumption
    | with_reducible refine State.logEvent_keeps ?_ ..)

theorem State.modSubCnt_keeps {a : Kept} {s : State} (h : Keeps a s.kept) : ∀ x1 x2 x3, Keeps a (State.modSubCnt s x1 x2 x3).kept := by
  intro x1 x2 x3
  unfold State.modSubCnt
  repeat' (first
    | with_reducible assumption
    | with_reducible refine State.modSub_keeps ?_ ..
    | simp only [State.kept_mk, State.kept_eta]
    | dsimp only)

theorem State.replay_keeps {a : Kept} {s : State} (h : Keeps a s.kept) : ∀ x1 x2 x3, Keeps a (State.replay s x1 x2 x3).kept := by
  intro x1 x2 x3
  unfold State.replay
  repeat' (first
    | with_reducible assumption
    | with_reducible refine State.modSub_keeps ?_ ..
    | with_reducible refine State.countMap_keeps ?_ ..
    | with_reducible refine State.emit_keeps ?_ ..
    | with_reducible refine ite_keeps ?_ ?_
    | simp only [State.kept_mk, State.kept_eta]
    | split
    | dsimp only)

theorem State.rply_keeps {a : Kept} {s : State} (h : Keeps a s.kept) : ∀ x1 x2 x3, Keeps a (State.rply s x1 x2 x3).kept := by
  intro x1 x2 x3
  unfold State.rply
  repeat' (first
    | with_reducible assumption
    | with_reducible refine State.modSub_keeps ?_ ..
    | with_reducible refine State.replay_keeps ?_ ..
    | with_reducible refine ite_keeps ?_ ?_
    | split
    | dsimp only)

theorem State.trailer_keeps {a : Kept} {s : State} (h : Keeps a s.kept) : ∀ x1 x2 x3, Keeps a (State.trailer s x1 x2 x3).kept := by
  intro x1 x2 x3
  unfold State.trailer
  repeat' (first
    | with_reducible assumption
    | with_reducible refine State.modSub_keeps ?_ ..
    | with_reducible refine State.rply_keeps ?_ ..
    | with_reducible refine State.pumpAll_keeps ?_ ..
    | with_reducible refine ite_keeps ?_ ?_
    | split
    | dsimp only)

theorem State.countFec_keeps {a : Kept} {s : State} (h : Keeps a s.kept) : ∀ x1 x2 x3 x4, Keeps a (State.countFec s x1 x2 x3 x4).kept := by
  intro x1 x2 x3 x4
  unfold State.countFec
  repeat' (first
    | with_reducible assumption
    | with_reducible refine State.modSubCnt_keeps ?_ ..
    | simp only [State.kept_mk, State.kept_eta]
    | dsimp only)

theorem State.violation_keeps {a : Kept} {s : State} (h : Keeps a s.kept) : ∀ x1 x2 x3, Keeps a (State.violation s x1 x2 x3).kept := by
  intro x1 x2 x3
  unfold State.violation
  repeat' (first
    | with_reducible assumption
    | with_reducible refine State.linkEvent_keeps ?_ ..
    | with_reducible refine State.modGroup_keeps ?_ ..
    | with_reducible refine ite_keeps ?_ ?_
    | simp only [State.kept_mk, State.kept_eta]
    | split
    | dsimp only)

theorem execDataFrame_keeps {s t : State} : ∀ x1 x2 x3, execDataFrame x1 x2 x3 s = .next t → Keeps s.kept t.kept := by
  intro x1 x2 x3 h
  have h0 := Keeps.refl s.kept
  injection h with h
  subst h
  repeat' (first
    | with_reducible assumption
    | with_reducible refine State.countFec_keeps ?_ ..
    | with_reducible refine State.trailer_keeps ?_ ..
    | with_reducible refine State.modSub_keeps ?_ ..
    | with_reducible refine State.violation_keeps ?_ ..
    | with_reducible refine ite_keeps ?_ ?_
    | simp only [State.kept_mk, State.kept_eta]
    | split
    | dsimp only)

theorem execNullFrame_keeps {s t : State} : ∀ x1 x2 x3, execNullFrame x1 x2 x3 s = .next t → Keeps s.kept t.kept := by
  intro x1 x2 x3 h
  have h0 := Keeps.refl s.kept
  injection h with h
  subst h
  repeat' (first
    | with_reducible assumption
    | with_reducible refine State.countFec_keeps ?_ ..
    | with_reducible refine State.modSub_keeps ?_ ..
    | with_reducible refine State.trailer_keeps ?_ ..
    | with_reducible refine ite_keeps ?_ ?_
    | simp only [State.kept_mk, State.kept_eta]
    | split
    | dsimp only)

theorem execReplyRequest_keeps {s t : State} : ∀ x1 x2 x3, execReplyRequest x1 x2 x3 s = .next t → Keeps s.kept t.kept := by
  intro x1 x2 x3 h
  have h0 := Keeps.refl s.kept
  injection h with h
  subst h
  repeat' (first
    | with_reducible assumption
    | with_reducible refine State.pumpAll_keeps ?_ ..
    | with_reducible refine State.rply_keeps ?_ ..
    | with_reducible refine ite_keeps ?_ ?_
    | split)

theorem State.retrainWarm_keeps {a : Kept} {s : State} (h : Keeps a s.kept) : ∀ x1 x2, Keeps a (State.retrainWarm s x1 x2).kept := by
  intro x1 x2
  unfold State.retrainWarm
  repeat' (first
    | with_reducible assumption
    | with_reducible refine State.modSub_keeps ?_ ..
    | with_reducible refine ite_keeps ?_ ?_
    | split
    | dsimp only)

theorem execFrameFail_keeps {s t : State} : ∀ x1 x2, execFrameFail x1 x2 s = .next t → Keeps s.kept t.kept := by
  intro x1 x2 h
  have h0 := Keeps.refl s.kept
  injection h with h
  subst h
  repeat' (first
    | with_reducible assumption
    | with_reducible refine State.countFec_keeps ?_ ..
    | with_reducible refine State.modSub_keeps ?_ ..
    | with_reducible refine State.retrainWarm_keeps ?_ ..
    | with_reducible refine ite_keeps ?_ ?_
    | simp only [State.kept_mk, State.kept_eta]
    | split
    | dsimp only)

theorem execReplayTimeout_keeps {s t : State} : ∀ x1 x2, execReplayTimeout x1 x2 s = .next t → Keeps s.kept t.kept := by
  intro x1 x2 h
  have h0 := Keeps.refl s.kept
  injection h with h
  subst h
  repeat' (first
    | with_reducible assumption
    | with_reducible refine State.retrainWarm_keeps ?_ ..
    | with_reducible refine State.replay_keeps ?_ ..
    | with_reducible refine ite_keeps ?_ ?_
    | split
    | dsimp only)

theorem execWarmRetrain_keeps {s t : State} : ∀ x1 x2, execWarmRetrain x1 x2 s = .next t → Keeps s.kept t.kept := by
  intro x1 x2 h
  have h0 := Keeps.refl s.kept
  injection h with h
  subst h
  repeat' (first
    | with_reducible assumption
    | with_reducible refine State.retrainWarm_keeps ?_ ..
    | with_reducible refine ite_keeps ?_ ?_
    | split)

theorem State.becomeActive_keeps {a : Kept} {s : State} (h : Keeps a s.kept) : ∀ x1 x2, Keeps a (State.becomeActive s x1 x2).kept := by
  intro x1 x2
  unfold State.becomeActive
  repeat' (first
    | with_reducible assumption
    | with_reducible refine State.modSub_keeps ?_ ..
    | with_reducible refine State.pumpAll_keeps ?_ ..
    | with_reducible refine State.replay_keeps ?_ ..
    | with_reducible refine ite_keeps ?_ ?_
    | simp only [State.kept_mk, State.kept_eta]
    | split
    | dsimp only)

theorem execRetrainDone_keeps {s t : State} : ∀ x1 x2, execRetrainDone x1 x2 s = .next t → Keeps s.kept t.kept := by
  intro x1 x2 h
  have h0 := Keeps.refl s.kept
  injection h with h
  subst h
  repeat' (first
    | with_reducible assumption
    | with_reducible refine State.becomeActive_keeps ?_ ..
    | with_reducible refine ite_keeps ?_ ?_
    | split
    | dsimp only)

theorem execTrainingDone_keeps {s t : State} : ∀ x1 x2, execTrainingDone x1 x2 s = .next t → Keeps s.kept t.kept := by
  intro x1 x2 h
  have h0 := Keeps.refl s.kept
  injection h with h
  subst h
  repeat' (first
    | with_reducible assumption
    | with_reducible refine State.becomeActive_keeps ?_ ..
    | with_reducible refine ite_keeps ?_ ?_
    | split
    | dsimp only)

theorem execCaps_keeps {s t : State} : ∀ x1 x2 x3, execCaps x1 x2 x3 s = .next t → Keeps s.kept t.kept := by
  intro x1 x2 x3 h
  have h0 := Keeps.refl s.kept
  injection h with h
  subst h
  repeat' (first
    | with_reducible assumption
    | with_reducible refine State.modSub_keeps ?_ ..
    | with_reducible refine State.sendMgmt_keeps ?_ ..
    | with_reducible refine State.linkEvent_keeps ?_ ..
    | with_reducible refine ite_keeps ?_ ?_
    | split
    | dsimp only)

theorem State.loseLink_keeps {a : Kept} {s : State} (h : Keeps a s.kept) : ∀ x1 x2, Keeps a (State.loseLink s x1 x2).kept := by
  intro x1 x2
  unfold State.loseLink
  repeat' (first
    | with_reducible assumption
    | with_reducible refine State.modSub_keeps ?_ ..
    | with_reducible refine ite_keeps ?_ ?_
    | split
    | dsimp only)

theorem execLinkLoss_keeps {s t : State} : ∀ x1 x2, execLinkLoss x1 x2 s = .next t → Keeps s.kept t.kept := by
  intro x1 x2 h
  have h0 := Keeps.refl s.kept
  injection h with h
  subst h
  repeat' (first
    | with_reducible assumption
    | with_reducible refine State.loseLink_keeps ?_ ..
    | with_reducible refine ite_keeps ?_ ?_
    | split
    | dsimp only)

theorem execRetrainFailed_keeps {s t : State} : ∀ x1 x2, execRetrainFailed x1 x2 s = .next t → Keeps s.kept t.kept := by
  intro x1 x2 h
  have h0 := Keeps.refl s.kept
  injection h with h
  subst h
  repeat' (first
    | with_reducible assumption
    | with_reducible refine State.service_keeps ?_ ..
    | with_reducible refine State.linkEvent_keeps ?_ ..
    | with_reducible refine State.modSub_keeps ?_ ..
    | with_reducible refine ite_keeps ?_ ?_
    | simp only [State.kept_mk, State.kept_eta]
    | split
    | dsimp only)

theorem State.narrowOrDown_keeps {a : Kept} {s : State} (h : Keeps a s.kept) : ∀ x1 x2, Keeps a (State.narrowOrDown s x1 x2).kept := by
  intro x1 x2
  unfold State.narrowOrDown
  repeat' (first
    | with_reducible assumption
    | with_reducible refine State.linkEvent_keeps ?_ ..
    | with_reducible refine State.modSub_keeps ?_ ..
    | with_reducible refine ite_keeps ?_ ?_
    | simp only [State.kept_mk, State.kept_eta]
    | split
    | dsimp only)

theorem State.askSwap_keeps {a : Kept} {s : State} (h : Keeps a s.kept) : ∀ x1 x2 x3 x4, Keeps a (State.askSwap s x1 x2 x3 x4).kept := by
  intro x1 x2 x3 x4
  unfold State.askSwap
  repeat' (first
    | with_reducible assumption
    | with_reducible refine State.sendMgmt_keeps ?_ ..
    | with_reducible refine State.modSub_keeps ?_ ..
    | simp only [State.kept_mk, State.kept_eta]
    | dsimp only)

theorem execLaneFail_keeps {s t : State} : ∀ x1 x2 x3, execLaneFail x1 x2 x3 s = .next t → Keeps s.kept t.kept := by
  intro x1 x2 x3 h
  have h0 := Keeps.refl s.kept
  injection h with h
  subst h
  repeat' (first
    | with_reducible assumption
    | with_reducible refine State.linkEvent_keeps ?_ ..
    | with_reducible refine State.modSub_keeps ?_ ..
    | with_reducible refine State.narrowOrDown_keeps ?_ ..
    | with_reducible refine State.askSwap_keeps ?_ ..
    | with_reducible refine ite_keeps ?_ ?_
    | simp only [State.kept_mk, State.kept_eta]
    | split
    | dsimp only)

theorem execLaneSwap_keeps {s t : State} : ∀ x1 x2 x3 x4 x5, execLaneSwap x1 x2 x3 x4 x5 s = .next t → Keeps s.kept t.kept := by
  intro x1 x2 x3 x4 x5 h
  have h0 := Keeps.refl s.kept
  injection h with h
  subst h
  repeat' (first
    | with_reducible assumption
    | with_reducible refine State.sendMgmt_keeps ?_ ..
    | with_reducible refine State.modSub_keeps ?_ ..
    | with_reducible refine ite_keeps ?_ ?_
    | simp only [State.kept_mk, State.kept_eta]
    | split
    | dsimp only)

theorem execLaneSwapAck_keeps {s t : State} : ∀ x1 x2 x3 x4 x5, execLaneSwapAck x1 x2 x3 x4 x5 s = .next t → Keeps s.kept t.kept := by
  intro x1 x2 x3 x4 x5 h
  have h0 := Keeps.refl s.kept
  injection h with h
  subst h
  repeat' (first
    | with_reducible assumption
    | with_reducible refine State.modSub_keeps ?_ ..
    | with_reducible refine ite_keeps ?_ ?_
    | simp only [State.kept_mk, State.kept_eta]
    | split
    | dsimp only)

theorem execLaneSwapCommit_keeps {s t : State} : ∀ x1 x2, execLaneSwapCommit x1 x2 s = .next t → Keeps s.kept t.kept := by
  intro x1 x2 h
  have h0 := Keeps.refl s.kept
  injection h with h
  subst h
  repeat' (first
    | with_reducible assumption
    | with_reducible refine State.modSub_keeps ?_ ..
    | with_reducible refine ite_keeps ?_ ?_
    | simp only [State.kept_mk, State.kept_eta]
    | split
    | dsimp only)

theorem execBivouacTrigger_keeps {s t : State} : ∀ x1 x2 x3, execBivouacTrigger x1 x2 x3 s = .next t → Keeps s.kept t.kept := by
  intro x1 x2 x3 h
  have h0 := Keeps.refl s.kept
  injection h with h
  subst h
  repeat' (first
    | with_reducible assumption
    | with_reducible refine State.sendMgmt_keeps ?_ ..
    | with_reducible refine State.modSub_keeps ?_ ..
    | with_reducible refine ite_keeps ?_ ?_
    | simp only [State.kept_mk, State.kept_eta]
    | split
    | dsimp only)

theorem execBivReq_keeps {s t : State} : ∀ x1 x2 x3 x4, execBivReq x1 x2 x3 x4 s = .next t → Keeps s.kept t.kept := by
  intro x1 x2 x3 x4 h
  have h0 := Keeps.refl s.kept
  injection h with h
  subst h
  repeat' (first
    | with_reducible assumption
    | with_reducible refine State.sendMgmt_keeps ?_ ..
    | with_reducible refine State.modSub_keeps ?_ ..
    | with_reducible refine ite_keeps ?_ ?_
    | simp only [State.kept_mk, State.kept_eta]
    | split
    | dsimp only)

theorem execBivAck_keeps {s t : State} : ∀ x1 x2 x3 x4, execBivAck x1 x2 x3 x4 s = .next t → Keeps s.kept t.kept := by
  intro x1 x2 x3 x4 h
  have h0 := Keeps.refl s.kept
  injection h with h
  subst h
  repeat' (first
    | with_reducible assumption
    | with_reducible refine State.modSub_keeps ?_ ..
    | with_reducible refine ite_keeps ?_ ?_
    | simp only [State.kept_mk, State.kept_eta]
    | split
    | dsimp only)

theorem execBivNak_keeps {s t : State} : ∀ x1 x2 x3, execBivNak x1 x2 x3 s = .next t → Keeps s.kept t.kept := by
  intro x1 x2 x3 h
  have h0 := Keeps.refl s.kept
  injection h with h
  subst h
  repeat' (first
    | with_reducible assumption
    | with_reducible refine State.modSub_keeps ?_ ..
    | with_reducible refine ite_keeps ?_ ?_
    | simp only [State.kept_mk, State.kept_eta]
    | split
    | dsimp only)

theorem State.bivAbort_keeps {a : Kept} {s : State} (h : Keeps a s.kept) : ∀ x1 x2, Keeps a (State.bivAbort s x1 x2).kept := by
  intro x1 x2
  unfold State.bivAbort
  repeat' (first
    | with_reducible assumption
    | with_reducible refine State.modSub_keeps ?_ ..
    | simp only [State.kept_mk, State.kept_eta]
    | dsimp only)

theorem execBivCancel_keeps {s t : State} : ∀ x1 x2 x3, execBivCancel x1 x2 x3 s = .next t → Keeps s.kept t.kept := by
  intro x1 x2 x3 h
  have h0 := Keeps.refl s.kept
  injection h with h
  subst h
  repeat' (first
    | with_reducible assumption
    | with_reducible refine State.bivAbort_keeps ?_ ..
    | with_reducible refine State.modSub_keeps ?_ ..
    | with_reducible refine ite_keeps ?_ ?_
    | simp only [State.kept_mk, State.kept_eta]
    | split
    | dsimp only)

theorem execBivouacCommitPoint_keeps {s t : State} : ∀ x1 x2 x3, execBivouacCommitPoint x1 x2 x3 s = .next t → Keeps s.kept t.kept := by
  intro x1 x2 x3 h
  have h0 := Keeps.refl s.kept
  injection h with h
  subst h
  repeat' (first
    | with_reducible assumption
    | with_reducible refine State.sendMgmt_keeps ?_ ..
    | with_reducible refine State.bivAbort_keeps ?_ ..
    | with_reducible refine State.modSub_keeps ?_ ..
    | with_reducible refine ite_keeps ?_ ?_
    | simp only [State.kept_mk, State.kept_eta]
    | split
    | dsimp only)

theorem State.wake_keeps {a : Kept} {s : State} (h : Keeps a s.kept) : ∀ x1 x2, Keeps a (State.wake s x1 x2).kept := by
  intro x1 x2
  unfold State.wake
  repeat' (first
    | with_reducible assumption
    | with_reducible refine State.modSub_keeps ?_ ..
    | with_reducible refine State.sendMgmt_keeps ?_ ..
    | with_reducible refine State.bivAbort_keeps ?_ ..
    | with_reducible refine ite_keeps ?_ ?_
    | simp only [State.kept_mk, State.kept_eta]
    | split
    | dsimp only)

theorem execBivouacWake_keeps {s t : State} : ∀ x1 x2, execBivouacWake x1 x2 s = .next t → Keeps s.kept t.kept := by
  intro x1 x2 h
  have h0 := Keeps.refl s.kept
  injection h with h
  subst h
  repeat' (first
    | with_reducible assumption
    | with_reducible refine State.wake_keeps ?_ ..)

theorem execWakeComplete_keeps {s t : State} : ∀ x1 x2 x3, execWakeComplete x1 x2 x3 s = .next t → Keeps s.kept t.kept := by
  intro x1 x2 x3 h
  have h0 := Keeps.refl s.kept
  injection h with h
  subst h
  repeat' (first
    | with_reducible assumption
    | with_reducible refine State.modSub_keeps ?_ ..
    | with_reducible refine State.pumpAll_keeps ?_ ..
    | with_reducible refine ite_keeps ?_ ?_
    | simp only [State.kept_mk, State.kept_eta]
    | split
    | dsimp only)

theorem execEcho_keeps {s t : State} : ∀ x1 x2 x3, execEcho x1 x2 x3 s = .next t → Keeps s.kept t.kept := by
  intro x1 x2 x3 h
  have h0 := Keeps.refl s.kept
  injection h with h
  subst h
  repeat' (first
    | with_reducible assumption
    | with_reducible refine State.sendMgmt_keeps ?_ ..
    | with_reducible refine ite_keeps ?_ ?_
    | split)

theorem State.setDis_keeps {a : Kept} {s : State} (h : Keeps a s.kept) : ∀ x1 x2 x3, Keeps a (State.setDis s x1 x2 x3).kept := by
  intro x1 x2 x3
  unfold State.setDis
  repeat' (first
    | with_reducible assumption
    | with_reducible refine State.modSub_keeps ?_ ..
    | with_reducible refine ite_keeps ?_ ?_
    | simp only [State.kept_mk, State.kept_eta]
    | split
    | dsimp only)

theorem State.writeDis_keeps {a : Kept} {s : State} (h : Keeps a s.kept) : ∀ x1 x2, Keeps a (State.writeDis s x1 x2).kept := by
  intro x1 x2
  unfold State.writeDis
  repeat' (first
    | with_reducible assumption
    | with_reducible refine State.modGroup_keeps ?_ ..
    | with_reducible refine State.setDis_keeps ?_ ..
    | simp only [State.kept_mk, State.kept_eta]
    | dsimp only)

theorem execDis_keeps {s t : State} : ∀ x1 x2 x3, execDis x1 x2 x3 s = .next t → Keeps s.kept t.kept := by
  intro x1 x2 x3 h
  have h0 := Keeps.refl s.kept
  injection h with h
  subst h
  repeat' (first
    | with_reducible assumption
    | with_reducible refine State.guarded_keeps ?_ (fun _ _ => ?_) ..
    | with_reducible refine State.writeDis_keeps ?_ ..
    | dsimp only)

theorem State.quarClear_keeps {a : Kept} {s : State} (h : Keeps a s.kept) : ∀ x1, Keeps a (State.quarClear s x1).kept := by
  intro x1
  unfold State.quarClear
  repeat' (first
    | with_reducible assumption
    | with_reducible refine State.pumpAll_keeps ?_ ..
    | with_reducible refine State.modGroup_keeps ?_ ..
    | simp only [State.kept_mk, State.kept_eta]
    | dsimp only)

theorem execQuarClr_keeps {s t : State} : ∀ x1 x2, execQuarClr x1 x2 s = .next t → Keeps s.kept t.kept := by
  intro x1 x2 h
  have h0 := Keeps.refl s.kept
  injection h with h
  subst h
  repeat' (first
    | with_reducible assumption
    | with_reducible refine State.guarded_keeps ?_ (fun _ _ => ?_) ..
    | with_reducible refine State.quarClear_keeps ?_ ..
    | dsimp only)

theorem State.setLoop_keeps {a : Kept} {s : State} (h : Keeps a s.kept) : ∀ x1 x2, Keeps a (State.setLoop s x1 x2).kept := by
  intro x1 x2
  unfold State.setLoop
  repeat' (first
    | with_reducible assumption
    | with_reducible refine State.modGroup_keeps ?_ ..
    | with_reducible refine State.retrainWarm_keeps ?_ ..
    | with_reducible refine ite_keeps ?_ ?_
    | simp only [State.kept_mk, State.kept_eta]
    | split
    | with_reducible refine foldl_keeps (fun _ _ _ => ?_) ?_
    | dsimp only)

theorem execLnkLoopWrite_keeps {s t : State} : ∀ x1 x2 x3, execLnkLoopWrite x1 x2 x3 s = .next t → Keeps s.kept t.kept := by
  intro x1 x2 x3 h
  have h0 := Keeps.refl s.kept
  injection h with h
  subst h
  repeat' (first
    | with_reducible assumption
    | with_reducible refine State.guarded_keeps ?_ (fun _ _ => ?_) ..
    | with_reducible refine State.setLoop_keeps ?_ ..
    | dsimp only)

theorem execLoopClearAtLaunch_keeps {s t : State} : execLoopClearAtLaunch s = .next t → Keeps s.kept t.kept := by
  intro h
  have h0 := Keeps.refl s.kept
  injection h with h
  subst h
  repeat' (first
    | with_reducible assumption
    | with_reducible refine State.setLoop_keeps ?_ ..
    | with_reducible refine ite_keeps ?_ ?_
    | split
    | with_reducible refine foldl_keeps (fun _ _ _ => ?_) ?_
    | dsimp only)

theorem execViolationDecay_keeps {s t : State} : ∀ x1, execViolationDecay x1 s = .next t → Keeps s.kept t.kept := by
  intro x1 h
  have h0 := Keeps.refl s.kept
  injection h with h
  subst h
  repeat' (first
    | with_reducible assumption
    | with_reducible refine State.modGroup_keeps ?_ ..
    | simp only [State.kept_mk, State.kept_eta]
    | dsimp only)

theorem State.sendNack_keeps {a : Kept} {s : State} (h : Keeps a s.kept) : ∀ x1 x2 x3 x4 x5, Keeps a (State.sendNack s x1 x2 x3 x4 x5).kept := by
  intro x1 x2 x3 x4 x5
  unfold State.sendNack
  repeat' (first
    | with_reducible assumption
    | with_reducible refine State.modGroup_keeps ?_ ..
    | with_reducible refine State.modSub_keeps ?_ ..
    | with_reducible refine State.sendLink_keeps ?_ ..
    | with_reducible refine ite_keeps ?_ ?_
    | simp only [State.kept_mk, State.kept_eta]
    | split
    | dsimp only)

theorem State.respond_keeps {a : Kept} {s : State} (h : Keeps a s.kept) : ∀ x1 x2 x3 x4 x5 x6 x7, Keeps a (State.respond s x1 x2 x3 x4 x5 x6 x7).kept := by
  intro x1 x2 x3 x4 x5 x6 x7
  unfold State.respond
  repeat' (first
    | with_reducible assumption
    | with_reducible refine State.sendLink_keeps ?_ ..
    | simp only [State.kept_mk, State.kept_eta])

theorem State.rxAnswer_keeps {a : Kept} {s : State} (h : Keeps a s.kept) : ∀ x1 x2 x3 x4 x5, Keeps a (State.rxAnswer s x1 x2 x3 x4 x5).kept := by
  intro x1 x2 x3 x4 x5
  unfold State.rxAnswer
  repeat' (first
    | with_reducible assumption
    | with_reducible refine State.respond_keeps ?_ ..
    | with_reducible refine State.sendNack_keeps ?_ ..
    | with_reducible refine ite_keeps ?_ ?_
    | split)

theorem State.countApplied_keeps {a : Kept} {s : State} (h : Keeps a s.kept) : ∀ x1 x2 x3, Keeps a (State.countApplied s x1 x2 x3).kept := by
  intro x1 x2 x3
  unfold State.countApplied
  repeat' (first
    | with_reducible assumption
    | with_reducible refine State.modCtx_keeps ?_ ..
    | with_reducible refine State.owe_keeps ?_ ..
    | with_reducible refine ite_keeps ?_ ?_
    | simp only [State.kept_mk, State.kept_eta]
    | split
    | dsimp only)

theorem State.countReceived_keeps {a : Kept} {s : State} (h : Keeps a s.kept) : ∀ x1 x2 x3, Keeps a (State.countReceived s x1 x2 x3).kept := by
  intro x1 x2 x3
  unfold State.countReceived
  repeat' (first
    | with_reducible assumption
    | with_reducible refine State.modCtx_keeps ?_ ..
    | with_reducible refine State.countMap_keeps ?_ ..
    | with_reducible refine ite_keeps ?_ ?_
    | simp only [State.kept_mk, State.kept_eta]
    | split
    | dsimp only)

theorem State.countTurned_keeps {a : Kept} {s : State} (h : Keeps a s.kept) : ∀ x1, Keeps a (State.countTurned s x1).kept := by
  intro x1
  unfold State.countTurned
  repeat' (first
    | with_reducible assumption
    | with_reducible refine State.countApplied_keeps ?_ ..
    | with_reducible refine State.countReceived_keeps ?_ ..
    | with_reducible refine ite_keeps ?_ ?_
    | simp only [State.kept_mk, State.kept_eta]
    | split
    | dsimp only)

theorem State.rxRefuse_keeps {a : Kept} {s : State} (h : Keeps a s.kept) : ∀ x1 x2 x3 x4, Keeps a (State.rxRefuse s x1 x2 x3 x4).kept := by
  intro x1 x2 x3 x4
  unfold State.rxRefuse
  repeat' (first
    | with_reducible assumption
    | with_reducible refine State.modGroup_keeps ?_ ..
    | with_reducible refine State.violation_keeps ?_ ..
    | with_reducible refine State.rxAnswer_keeps ?_ ..
    | with_reducible refine State.countTurned_keeps ?_ ..
    | with_reducible refine ite_keeps ?_ ?_
    | simp only [State.kept_mk, State.kept_eta]
    | split
    | dsimp only)

theorem State.received_keeps {a : Kept} {s : State} {f : State → State} (h : Keeps a s.kept) (hf : ∀ t, Keeps a t.kept → Keeps a (f t).kept) : ∀ x1 x2 x3 x4, Keeps a (State.received s x1 x2 x3 x4 f).kept := by
  intro x1 x2 x3 x4
  unfold State.received
  repeat' (first
    | with_reducible assumption
    | with_reducible refine hf _ ?_
    | with_reducible refine State.modSub_keeps ?_ ..
    | with_reducible refine State.rxRefuse_keeps ?_ ..
    | with_reducible refine ite_keeps ?_ ?_
    | simp only [State.kept_mk, State.kept_eta]
    | split
    | dsimp only)

theorem State.linkTurnAway_keeps {a : Kept} {s : State} (h : Keeps a s.kept) : ∀ x1 x2 x3 x4 x5, Keeps a (State.linkTurnAway s x1 x2 x3 x4 x5).kept := by
  intro x1 x2 x3 x4 x5
  unfold State.linkTurnAway
  repeat' (first
    | with_reducible assumption
    | with_reducible refine State.landMiss_keeps ?_ ..
    | with_reducible refine State.rxAnswer_keeps ?_ ..
    | with_reducible refine State.modCtx_keeps ?_ ..
    | with_reducible refine State.countParked_keeps ?_ ..
    | with_reducible refine State.countApplied_keeps ?_ ..
    | with_reducible refine State.countReceived_keeps ?_ ..
    | with_reducible refine State.refusedEvent_keeps ?_ ..
    | with_reducible refine ite_keeps ?_ ?_
    | simp only [State.kept_mk, State.kept_eta]
    | split
    | dsimp only)

theorem State.chainLand_keeps {a : Kept} {s : State} (h : Keeps a s.kept) : ∀ x1 x2 x3, Keeps a (State.chainLand s x1 x2 x3).kept := by
  intro x1 x2 x3
  unfold State.chainLand
  repeat' (first
    | with_reducible assumption
    | with_reducible refine ite_keeps ?_ ?_
    | simp only [State.kept_mk, State.kept_eta]
    | split
    | with_reducible refine foldl_keeps (fun _ _ _ => ?_) ?_
    | dsimp only)

theorem State.writeEffect_keeps {a : Kept} {s : State} (h : Keeps a s.kept) : ∀ x1 x2, Keeps a (State.writeEffect s x1 x2).kept := by
  intro x1 x2
  unfold State.writeEffect
  repeat' (first
    | with_reducible assumption
    | with_reducible refine State.landWrite_keeps ?_ ..
    | with_reducible refine State.collLanded_keeps ?_ ..
    | with_reducible refine State.chainLand_keeps ?_ ..
    | with_reducible refine ite_keeps ?_ ?_
    | simp only [State.kept_mk, State.kept_eta]
    | split
    | dsimp only)

theorem State.linkWriteNow_keeps {a : Kept} {s : State} (h : Keeps a s.kept) : ∀ x1 x2 x3, Keeps a (State.linkWriteNow s x1 x2 x3).kept := by
  intro x1 x2 x3
  unfold State.linkWriteNow
  repeat' (first
    | with_reducible assumption
    | with_reducible refine State.respond_keeps ?_ ..
    | with_reducible refine State.countApplied_keeps ?_ ..
    | with_reducible refine State.countReceived_keeps ?_ ..
    | with_reducible refine State.writeEffect_keeps ?_ ..
    | with_reducible refine State.linkTurnAway_keeps ?_ ..
    | simp only [State.kept_mk, State.kept_eta]
    | split
    | dsimp only)

theorem State.linkReduceNow_keeps {a : Kept} {s : State} (h : Keeps a s.kept) : ∀ x1 x2 x3, Keeps a (State.linkReduceNow s x1 x2 x3).kept := by
  intro x1 x2 x3
  unfold State.linkReduceNow
  repeat' (first
    | with_reducible assumption
    | with_reducible refine State.respond_keeps ?_ ..
    | with_reducible refine State.countApplied_keeps ?_ ..
    | with_reducible refine State.countReceived_keeps ?_ ..
    | with_reducible refine State.reduceAt_keeps ?_ ..
    | with_reducible refine State.linkTurnAway_keeps ?_ ..
    | simp only [State.kept_mk, State.kept_eta]
    | split
    | dsimp only)

theorem State.linkApply_keeps {a : Kept} {s : State} (h : Keeps a s.kept) : ∀ x1 x2 x3, Keeps a (State.linkApply s x1 x2 x3).kept := by
  intro x1 x2 x3
  unfold State.linkApply
  repeat' (first
    | with_reducible assumption
    | with_reducible refine State.linkReduceNow_keeps ?_ ..
    | with_reducible refine State.linkWriteNow_keeps ?_ ..
    | with_reducible refine ite_keeps ?_ ?_
    | split)

theorem State.orderly_keeps {a : Kept} {s : State} (h : Keeps a s.kept) : ∀ x1 x2 x3, Keeps a (State.orderly s x1 x2 x3).kept := by
  intro x1 x2 x3
  unfold State.orderly
  repeat' (first
    | with_reducible assumption
    | with_reducible refine State.modSub_keeps ?_ ..
    | with_reducible refine State.linkApply_keeps ?_ ..
    | with_reducible refine ite_keeps ?_ ?_
    | simp only [State.kept_mk, State.kept_eta]
    | split
    | dsimp only)

theorem State.linkReadParts_keeps {a : Kept} {s : State} (h : Keeps a s.kept) : ∀ x1 x2 x3, Keeps a (State.linkReadParts s x1 x2 x3).kept := by
  intro x1 x2 x3
  unfold State.linkReadParts
  repeat' (first
    | with_reducible assumption
    | with_reducible refine State.fresh_keeps ?_ ..
    | with_reducible refine State.respond_keeps ?_ ..
    | with_reducible refine ite_keeps ?_ ?_
    | split
    | with_reducible refine foldl_keeps (fun _ _ _ => ?_) ?_
    | dsimp only)

theorem execLinkReadRequest_keeps {s t : State} : ∀ x1 x2 x3, execLinkReadRequest x1 x2 x3 s = .next t → Keeps s.kept t.kept := by
  intro x1 x2 x3 h
  have h0 := Keeps.refl s.kept
  injection h with h
  subst h
  repeat' (first
    | with_reducible assumption
    | with_reducible refine State.received_keeps ?_ (fun _ _ => ?_) ..
    | with_reducible refine State.linkReadParts_keeps ?_ ..
    | with_reducible refine State.readErrors_keeps ?_ ..
    | with_reducible refine State.countReceived_keeps ?_ ..
    | with_reducible refine State.refusedEvent_keeps ?_ ..
    | with_reducible refine State.rxAnswer_keeps ?_ ..
    | with_reducible refine State.countParked_keeps ?_ ..
    | simp only [State.kept_mk, State.kept_eta]
    | split
    | dsimp only)

theorem execLinkWrite_keeps {s t : State} : ∀ x1 x2 x3, execLinkWrite x1 x2 x3 s = .next t → Keeps s.kept t.kept := by
  intro x1 x2 x3 h
  have h0 := Keeps.refl s.kept
  injection h with h
  subst h
  repeat' (first
    | with_reducible assumption
    | with_reducible refine State.received_keeps ?_ (fun _ _ => ?_) ..
    | with_reducible refine State.orderly_keeps ?_ ..
    | with_reducible refine ite_keeps ?_ ?_
    | split
    | dsimp only)

theorem execLinkReduceAdd_keeps {s t : State} : ∀ x1 x2 x3, execLinkReduceAdd x1 x2 x3 s = .next t → Keeps s.kept t.kept := by
  intro x1 x2 x3 h
  have h0 := Keeps.refl s.kept
  injection h with h
  subst h
  repeat' (first
    | with_reducible assumption
    | with_reducible refine State.received_keeps ?_ (fun _ _ => ?_) ..
    | with_reducible refine State.orderly_keeps ?_ ..
    | with_reducible refine ite_keeps ?_ ?_
    | split
    | dsimp only)

theorem State.lateDiscard_keeps {a : Kept} {s : State} (h : Keeps a s.kept) : Keeps a (State.lateDiscard s).kept := by
  unfold State.lateDiscard
  repeat' (first
    | with_reducible assumption
    | simp only [State.kept_mk, State.kept_eta])

theorem State.strayResponse_keeps {a : Kept} {s : State} (h : Keeps a s.kept) : ∀ x1 x2 x3, Keeps a (State.strayResponse s x1 x2 x3).kept := by
  intro x1 x2 x3
  unfold State.strayResponse
  repeat' (first
    | with_reducible assumption
    | with_reducible refine State.lateDiscard_keeps ?_ ..
    | with_reducible refine State.rxRefuse_keeps ?_ ..
    | with_reducible refine ite_keeps ?_ ?_
    | split)

theorem State.modReqGang_keeps {a : Kept} {s : State} (h : Keeps a s.kept) : ∀ x1 x2, Keeps a (State.modReqGang s x1 x2).kept := by
  intro x1 x2
  unfold State.modReqGang
  repeat' (first
    | with_reducible assumption
    | with_reducible refine State.modGang_keeps ?_ ..
    | with_reducible refine ite_keeps ?_ ?_
    | simp only [State.kept_mk, State.kept_eta]
    | split)

theorem State.modReq_keeps {a : Kept} {s : State} (h : Keeps a s.kept) : ∀ x1 x2, Keeps a (State.modReq s x1 x2).kept := by
  intro x1 x2
  unfold State.modReq
  repeat' (first
    | with_reducible assumption
    | with_reducible refine ite_keeps ?_ ?_
    | simp only [State.kept_mk, State.kept_eta]
    | split
    | dsimp only)

theorem State.resumeEvery_keeps {a : Kept} {s : State} (h : Keeps a s.kept) : Keeps a (State.resumeEvery s).kept := by
  unfold State.resumeEvery
  repeat' (first
    | with_reducible assumption
    | with_reducible refine State.resumeReads_keeps ?_ ..
    | with_reducible refine foldl_keeps (fun _ _ _ => ?_) ?_
    | dsimp only)

theorem State.readData_keeps {a : Kept} {s : State} (h : Keeps a s.kept) : ∀ x1 x2 x3 x4, Keeps a (State.readData s x1 x2 x3 x4).kept := by
  intro x1 x2 x3 x4
  unfold State.readData
  repeat' (first
    | with_reducible assumption
    | with_reducible refine State.modReq_keeps ?_ ..
    | with_reducible refine State.modReqGang_keeps ?_ ..
    | with_reducible refine State.resumeEvery_keeps ?_ ..
    | with_reducible refine State.endReq_keeps ?_ ..
    | with_reducible refine ite_keeps ?_ ?_
    | simp only [State.kept_mk, State.kept_eta]
    | split
    | dsimp only)

theorem execLinkReadResponse_keeps {s t : State} : ∀ x1 x2 x3, execLinkReadResponse x1 x2 x3 s = .next t → Keeps s.kept t.kept := by
  intro x1 x2 x3 h
  have h0 := Keeps.refl s.kept
  injection h with h
  subst h
  repeat' (first
    | with_reducible assumption
    | with_reducible refine State.received_keeps ?_ (fun _ _ => ?_) ..
    | with_reducible refine State.readData_keeps ?_ ..
    | with_reducible refine State.rxRefuse_keeps ?_ ..
    | with_reducible refine State.strayResponse_keeps ?_ ..
    | with_reducible refine ite_keeps ?_ ?_
    | simp only [State.kept_mk, State.kept_eta]
    | split
    | dsimp only)

theorem State.chunkAck_keeps {a : Kept} {s : State} (h : Keeps a s.kept) : ∀ x1, Keeps a (State.chunkAck s x1).kept := by
  intro x1
  unfold State.chunkAck
  repeat' (first
    | with_reducible assumption
    | with_reducible refine ite_keeps ?_ ?_
    | simp only [State.kept_mk, State.kept_eta]
    | split
    | dsimp only)

theorem State.ackReq_keeps {a : Kept} {s : State} (h : Keeps a s.kept) : ∀ x1, Keeps a (State.ackReq s x1).kept := by
  intro x1
  unfold State.ackReq
  repeat' (first
    | with_reducible assumption
    | with_reducible refine State.endReq_keeps ?_ ..
    | with_reducible refine State.chunkAck_keeps ?_ ..
    | with_reducible refine State.ackOne_keeps ?_ ..
    | with_reducible refine ite_keeps ?_ ?_
    | split
    | dsimp only)

theorem execLinkWriteAck_keeps {s t : State} : ∀ x1 x2 x3, execLinkWriteAck x1 x2 x3 s = .next t → Keeps s.kept t.kept := by
  intro x1 x2 x3 h
  have h0 := Keeps.refl s.kept
  injection h with h
  subst h
  repeat' (first
    | with_reducible assumption
    | with_reducible refine State.received_keeps ?_ (fun _ _ => ?_) ..
    | with_reducible refine State.ackReq_keeps ?_ ..
    | with_reducible refine State.strayResponse_keeps ?_ ..
    | simp only [State.kept_mk, State.kept_eta]
    | split
    | dsimp only)

theorem State.failRead_keeps {a : Kept} {s : State} (h : Keeps a s.kept) : ∀ x1, Keeps a (State.failRead s x1).kept := by
  intro x1
  unfold State.failRead
  repeat' (first
    | with_reducible assumption
    | with_reducible refine State.endReq_keeps ?_ ..
    | with_reducible refine State.modReqGang_keeps ?_ ..
    | dsimp only)

theorem execLinkErrorResponse_keeps {s t : State} : ∀ x1 x2 x3, execLinkErrorResponse x1 x2 x3 s = .next t → Keeps s.kept t.kept := by
  intro x1 x2 x3 h
  have h0 := Keeps.refl s.kept
  injection h with h
  subst h
  repeat' (first
    | with_reducible assumption
    | with_reducible refine State.received_keeps ?_ (fun _ _ => ?_) ..
    | with_reducible refine State.resumeEvery_keeps ?_ ..
    | with_reducible refine State.failRead_keeps ?_ ..
    | with_reducible refine State.strayResponse_keeps ?_ ..
    | simp only [State.kept_mk, State.kept_eta]
    | split
    | dsimp only)

theorem State.resendParked_keeps {a : Kept} {s : State} (h : Keeps a s.kept) : ∀ x1, Keeps a (State.resendParked s x1).kept := by
  intro x1
  unfold State.resendParked
  repeat' (first
    | with_reducible assumption
    | with_reducible refine State.modReq_keeps ?_ ..
    | with_reducible refine State.sendLink_keeps ?_ ..
    | simp only [State.kept_mk, State.kept_eta]
    | split
    | with_reducible refine foldl_keeps (fun _ _ _ => ?_) ?_
    | dsimp only)

theorem execBelayGrant_keeps {s t : State} : ∀ x1 x2 x3, execBelayGrant x1 x2 x3 s = .next t → Keeps s.kept t.kept := by
  intro x1 x2 x3 h
  have h0 := Keeps.refl s.kept
  injection h with h
  subst h
  repeat' (first
    | with_reducible assumption
    | with_reducible refine State.received_keeps ?_ (fun _ _ => ?_) ..
    | with_reducible refine State.pumpRuns_keeps ?_ ..
    | with_reducible refine State.modCtx_keeps ?_ ..
    | with_reducible refine State.resendParked_keeps ?_ ..
    | with_reducible refine ite_keeps ?_ ?_
    | split
    | dsimp only)

theorem State.park_keeps {a : Kept} {s : State} (h : Keeps a s.kept) : ∀ x1 x2, Keeps a (State.park s x1 x2).kept := by
  intro x1 x2
  unfold State.park
  repeat' (first
    | with_reducible assumption
    | with_reducible refine State.modCtx_keeps ?_ ..
    | with_reducible refine State.modReq_keeps ?_ ..
    | simp only [State.kept_mk, State.kept_eta]
    | dsimp only)

theorem execNack_keeps {s t : State} : ∀ x1 x2 x3, execNack x1 x2 x3 s = .next t → Keeps s.kept t.kept := by
  intro x1 x2 x3 h
  have h0 := Keeps.refl s.kept
  injection h with h
  subst h
  repeat' (first
    | with_reducible assumption
    | with_reducible refine State.received_keeps ?_ (fun _ _ => ?_) ..
    | with_reducible refine State.modGroup_keeps ?_ ..
    | with_reducible refine State.countMap_keeps ?_ ..
    | with_reducible refine State.park_keeps ?_ ..
    | with_reducible refine State.ackReq_keeps ?_ ..
    | with_reducible refine State.strayResponse_keeps ?_ ..
    | with_reducible refine ite_keeps ?_ ?_
    | simp only [State.kept_mk, State.kept_eta]
    | split
    | dsimp only)

theorem State.chunkBad_keeps {a : Kept} {s : State} (h : Keeps a s.kept) : ∀ x1, Keeps a (State.chunkBad s x1).kept := by
  intro x1
  unfold State.chunkBad
  repeat' (first
    | with_reducible assumption
    | with_reducible refine State.spoilAt_keeps ?_ ..
    | with_reducible refine State.modEvent_keeps ?_ ..
    | with_reducible refine ite_keeps ?_ ?_
    | simp only [State.kept_mk, State.kept_eta]
    | split
    | dsimp only)

theorem State.cutShort_keeps {a : Kept} {s : State} (h : Keeps a s.kept) : ∀ x1, Keeps a (State.cutShort s x1).kept := by
  intro x1
  unfold State.cutShort
  repeat' (first
    | with_reducible assumption
    | with_reducible refine State.chunkBad_keeps ?_ ..
    | with_reducible refine foldl_keeps (fun _ _ _ => ?_) ?_
    | dsimp only)

theorem State.announce_keeps {a : Kept} {s : State} (h : Keeps a s.kept) : ∀ x1, Keeps a (State.announce s x1).kept := by
  intro x1
  unfold State.announce
  repeat' (first
    | with_reducible assumption
    | with_reducible refine State.modRun_keeps ?_ ..
    | simp only [State.kept_mk, State.kept_eta]
    | split
    | with_reducible refine foldl_keeps (fun _ _ _ => ?_) ?_
    | dsimp only)

theorem execChainChunkHeader_keeps {s t : State} : ∀ x1 x2 x3, execChainChunkHeader x1 x2 x3 s = .next t → Keeps s.kept t.kept := by
  intro x1 x2 x3 h
  have h0 := Keeps.refl s.kept
  injection h with h
  subst h
  repeat' (first
    | with_reducible assumption
    | with_reducible refine State.received_keeps ?_ (fun _ _ => ?_) ..
    | with_reducible refine State.rxRefuse_keeps ?_ ..
    | with_reducible refine State.announce_keeps ?_ ..
    | with_reducible refine State.sizeRuns_keeps ?_ ..
    | with_reducible refine State.cutShort_keeps ?_ ..
    | with_reducible refine ite_keeps ?_ ?_
    | split
    | dsimp only)

theorem State.noteAdds_keeps {a : Kept} {s : State} (h : Keeps a s.kept) : ∀ x1 x2, Keeps a (State.noteAdds s x1 x2).kept := by
  intro x1 x2
  unfold State.noteAdds
  repeat' (first
    | with_reducible assumption
    | with_reducible refine State.coreEvents_keeps ?_ ..
    | with_reducible refine State.modCnt_keeps ?_ ..
    | with_reducible refine State.coreEvent_keeps ?_ ..
    | with_reducible refine ite_keeps ?_ ?_
    | simp only [State.kept_mk, State.kept_eta]
    | split
    | dsimp only)

theorem State.digestOuts_keeps {a : Kept} {s : State} (h : Keeps a s.kept) : ∀ x1 x2, Keeps a (State.digestOuts s x1 x2).kept := by
  intro x1 x2
  unfold State.digestOuts
  repeat' (first
    | with_reducible assumption
    | with_reducible refine State.digestRun_keeps ?_ ..
    | with_reducible refine ite_keeps ?_ ?_
    | split
    | with_reducible refine foldl_keeps (fun _ _ _ => ?_) ?_
    | dsimp only)

theorem State.sendOuts_keeps {a : Kept} {s : State} (h : Keeps a s.kept) : ∀ x1 x2 x3, Keeps a (State.sendOuts s x1 x2 x3).kept := by
  intro x1 x2 x3
  unfold State.sendOuts
  repeat' (first
    | with_reducible assumption
    | with_reducible refine State.queueOut_keeps ?_ ..
    | with_reducible refine State.digestOuts_keeps ?_ ..
    | dsimp only)

theorem State.runStart_keeps {a : Kept} {s : State} (h : Keeps a s.kept) : ∀ x1 x2 x3, Keeps a (State.runStart s x1 x2 x3).kept := by
  intro x1 x2 x3
  unfold State.runStart
  repeat' (first
    | with_reducible assumption
    | with_reducible refine State.modIssue_keeps ?_ ..
    | with_reducible refine State.modRun_keeps ?_ ..
    | with_reducible refine State.queueOut_keeps ?_ ..
    | with_reducible refine State.sendOuts_keeps ?_ ..
    | with_reducible refine ite_keeps ?_ ?_
    | simp only [State.kept_mk, State.kept_eta]
    | split
    | dsimp only)

theorem State.readOn_keeps {a : Kept} {s : State} (h : Keeps a s.kept) : ∀ x1 x2 x3, Keeps a (State.readOn s x1 x2 x3).kept := by
  intro x1 x2 x3
  unfold State.readOn
  repeat' (first
    | with_reducible assumption
    | with_reducible refine State.refuseSeg_keeps ?_ ..
    | with_reducible refine State.modRun_keeps ?_ ..
    | with_reducible refine State.collStartReads_keeps ?_ ..
    | with_reducible refine ite_keeps ?_ ?_
    | simp only [State.kept_mk, State.kept_eta]
    | split
    | dsimp only)

theorem execCollectiveStart_keeps {s t : State} : ∀ x1 x2, execCollectiveStart x1 x2 s = .next t → Keeps s.kept t.kept := by
  intro x1 x2 h
  have h0 := Keeps.refl s.kept
  injection h with h
  subst h
  repeat' (first
    | with_reducible assumption
    | with_reducible refine State.sizeRuns_keeps ?_ ..
    | with_reducible refine State.pumpRun_keeps ?_ ..
    | with_reducible refine State.readOn_keeps ?_ ..
    | with_reducible refine State.runStart_keeps ?_ ..
    | with_reducible refine ite_keeps ?_ ?_
    | simp only [State.kept_mk, State.kept_eta]
    | split
    | dsimp only)

theorem State.modChunk_keeps {a : Kept} {s : State} (h : Keeps a s.kept) : ∀ x1 x2 x3, Keeps a (State.modChunk s x1 x2 x3).kept := by
  intro x1 x2 x3
  unfold State.modChunk
  repeat' (first
    | with_reducible assumption
    | with_reducible refine ite_keeps ?_ ?_
    | simp only [State.kept_mk, State.kept_eta]
    | split
    | dsimp only)

theorem State.judgeSums_keeps {a : Kept} {s : State} (h : Keeps a s.kept) : ∀ x1, Keeps a (State.judgeSums s x1).kept := by
  intro x1
  unfold State.judgeSums
  repeat' (first
    | with_reducible assumption
    | with_reducible refine State.chunkBad_keeps ?_ ..
    | with_reducible refine ite_keeps ?_ ?_
    | split)

theorem State.keepEnds_keeps {a : Kept} {s : State} (h : Keeps a s.kept) : ∀ x1 x2, Keeps a (State.keepEnds s x1 x2).kept := by
  intro x1 x2
  unfold State.keepEnds
  repeat' (first
    | with_reducible assumption
    | with_reducible refine ite_keeps ?_ ?_
    | simp only [State.kept_mk, State.kept_eta]
    | split
    | dsimp only)

theorem State.addChunk_keeps {a : Kept} {s : State} (h : Keeps a s.kept) : ∀ x1 x2 x3 x4 x5 x6, Keeps a (State.addChunk s x1 x2 x3 x4 x5 x6).kept := by
  intro x1 x2 x3 x4 x5 x6
  unfold State.addChunk
  repeat' (first
    | with_reducible assumption
    | with_reducible refine State.coreStore_keeps ?_ ..
    | with_reducible refine State.noteAdds_keeps ?_ ..
    | with_reducible refine State.keepEnds_keeps ?_ ..
    | with_reducible refine State.modChunk_keeps ?_ ..
    | with_reducible refine State.fresh_keeps ?_ ..
    | with_reducible refine State.digestRun_keeps ?_ ..
    | with_reducible refine Keeps.poison ?_ ..
    | with_reducible refine ite_keeps ?_ ?_
    | simp only [State.kept_mk, State.kept_eta]
    | split
    | dsimp only)

theorem execChainChunkLanded_keeps {s t : State} : ∀ x1 x2 x3 x4, execChainChunkLanded x1 x2 x3 x4 s = .next t → Keeps s.kept t.kept := by
  intro x1 x2 x3 x4 h
  have h0 := Keeps.refl s.kept
  injection h with h
  subst h
  repeat' (first
    | with_reducible assumption
    | with_reducible refine State.judgeSums_keeps ?_ ..
    | with_reducible refine State.addChunk_keeps ?_ ..
    | with_reducible refine ite_keeps ?_ ?_
    | simp only [State.kept_mk, State.kept_eta]
    | split
    | dsimp only)

theorem State.sendChunk_keeps {a : Kept} {s : State} (h : Keeps a s.kept) : ∀ x1 x2 x3 x4 x5 x6, Keeps a (State.sendChunk s x1 x2 x3 x4 x5 x6).kept := by
  intro x1 x2 x3 x4 x5 x6
  unfold State.sendChunk
  repeat' (first
    | with_reducible assumption
    | with_reducible refine State.sendLink_keeps ?_ ..
    | with_reducible refine State.modCtx_keeps ?_ ..
    | with_reducible refine State.addReq_keeps ?_ ..
    | with_reducible refine ite_keeps ?_ ?_
    | simp only [State.kept_mk, State.kept_eta]
    | split
    | with_reducible refine foldl_keeps (fun _ _ _ => ?_) ?_
    | dsimp only)

theorem State.forward_keeps {a : Kept} {s : State} {f : State → Nat → State} (h : Keeps a s.kept) (hf : ∀ t y0, Keeps a t.kept → Keeps a (f t y0).kept) : ∀ x1 x2 x3 x4 x5, Keeps a (State.forward s x1 x2 x3 x4 x5 f).kept := by
  intro x1 x2 x3 x4 x5
  unfold State.forward
  repeat' (first
    | with_reducible assumption
    | with_reducible refine hf _ _ ?_
    | with_reducible refine State.sendChunk_keeps ?_ ..
    | with_reducible refine ite_keeps ?_ ?_
    | simp only [State.kept_mk, State.kept_eta]
    | split
    | dsimp only)

theorem execChainChunkForward_keeps {s t : State} : ∀ x1 x2 x3, execChainChunkForward x1 x2 x3 s = .next t → Keeps s.kept t.kept := by
  intro x1 x2 x3 h
  have h0 := Keeps.refl s.kept
  injection h with h
  subst h
  repeat' (first
    | with_reducible assumption
    | with_reducible refine State.modRun_keeps ?_ ..
    | with_reducible refine State.forward_keeps ?_ (fun _ _ _ => ?_) ..
    | with_reducible refine State.fresh_keeps ?_ ..
    | with_reducible refine State.modChunk_keeps ?_ ..
    | with_reducible refine ite_keeps ?_ ?_
    | simp only [State.kept_mk, State.kept_eta]
    | split
    | dsimp only)

theorem State.releaseChunk_keeps {a : Kept} {s : State} (h : Keeps a s.kept) : ∀ x1, Keeps a (State.releaseChunk s x1).kept := by
  intro x1
  unfold State.releaseChunk
  repeat' (first
    | with_reducible assumption
    | with_reducible refine State.grantSlots_keeps ?_ ..
    | with_reducible refine State.modTask_keeps ?_ ..
    | simp only [State.kept_mk, State.kept_eta]
    | dsimp only)

theorem execChainChunkRelease_keeps {s t : State} : ∀ x1 x2 x3, execChainChunkRelease x1 x2 x3 s = .next t → Keeps s.kept t.kept := by
  intro x1 x2 x3 h
  have h0 := Keeps.refl s.kept
  injection h with h
  subst h
  repeat' (first
    | with_reducible assumption
    | with_reducible refine State.releaseChunk_keeps ?_ ..
    | with_reducible refine State.settleRun_keeps ?_ ..
    | with_reducible refine State.modRun_keeps ?_ ..
    | with_reducible refine ite_keeps ?_ ?_
    | simp only [State.kept_mk, State.kept_eta]
    | split
    | dsimp only)

theorem State.scatterUnit_keeps {a : Kept} {s : State} (h : Keeps a s.kept) : ∀ x1 x2 x3 x4, Keeps a (State.scatterUnit s x1 x2 x3 x4).kept := by
  intro x1 x2 x3 x4
  unfold State.scatterUnit
  repeat' (first
    | with_reducible assumption
    | with_reducible refine State.writeLast_keeps ?_ ..
    | with_reducible refine State.noteAdds_keeps ?_ ..
    | with_reducible refine State.digestRun_keeps ?_ ..
    | with_reducible refine Keeps.poison ?_ ..
    | with_reducible refine ite_keeps ?_ ?_
    | simp only [State.kept_mk, State.kept_eta]
    | split
    | dsimp only)

theorem execReduceScatterAdd_keeps {s t : State} : ∀ x1 x2 x3, execReduceScatterAdd x1 x2 x3 s = .next t → Keeps s.kept t.kept := by
  intro x1 x2 x3 h
  have h0 := Keeps.refl s.kept
  injection h with h
  subst h
  repeat' (first
    | with_reducible assumption
    | with_reducible refine State.scatterUnit_keeps ?_ ..
    | with_reducible refine State.settleRun_keeps ?_ ..
    | with_reducible refine State.modRun_keeps ?_ ..
    | with_reducible refine ite_keeps ?_ ?_
    | simp only [State.kept_mk, State.kept_eta]
    | split
    | with_reducible refine foldl_keeps (fun _ _ _ => ?_) ?_
    | dsimp only)

theorem execExpertDispatchSend_keeps {s t : State} : ∀ x1 x2, execExpertDispatchSend x1 x2 s = .next t → Keeps s.kept t.kept := by
  intro x1 x2 h
  have h0 := Keeps.refl s.kept
  injection h with h
  subst h
  repeat' (first
    | with_reducible assumption
    | with_reducible refine State.sendOuts_keeps ?_ ..
    | with_reducible refine State.modRun_keeps ?_ ..
    | simp only [State.kept_mk, State.kept_eta]
    | split
    | dsimp only)

theorem execExpertCombineReturn_keeps {s t : State} : ∀ x1 x2, execExpertCombineReturn x1 x2 s = .next t → Keeps s.kept t.kept := by
  intro x1 x2 h
  have h0 := Keeps.refl s.kept
  injection h with h
  subst h
  repeat' (first
    | with_reducible assumption
    | with_reducible refine State.sendOuts_keeps ?_ ..
    | with_reducible refine State.modRun_keeps ?_ ..
    | simp only [State.kept_mk, State.kept_eta]
    | split
    | dsimp only)

theorem State.startLoad_keeps {a : Kept} {s : State} (h : Keeps a s.kept) : Keeps a (State.startLoad s).kept := by
  unfold State.startLoad
  repeat' (first
    | with_reducible assumption
    | simp only [State.kept_mk, State.kept_eta]
    | split)

theorem execLoad_keeps {s t : State} : ∀ x1, execLoad x1 s = .next t → Keeps s.kept t.kept := by
  intro x1 h
  have h0 := Keeps.refl s.kept
  injection h with h
  subst h
  repeat' (first
    | with_reducible assumption
    | with_reducible refine State.guarded_keeps ?_ (fun _ _ => ?_) ..
    | with_reducible refine State.startLoad_keeps ?_ ..)

theorem State.configEvent_keeps {a : Kept} {s : State} (h : Keeps a s.kept) : ∀ x1, Keeps a (State.configEvent s x1).kept := by
  intro x1
  unfold State.configEvent
  repeat' (first
    | with_reducible assumption
    | with_reducible refine State.logEvent_keeps ?_ ..)

theorem execLoadCheckDone_keeps {s t : State} : execLoadCheckDone s = .next t → Keeps s.kept t.kept := by
  intro h
  have h0 := Keeps.refl s.kept
  injection h with h
  subst h
  repeat' (first
    | with_reducible assumption
    | with_reducible refine State.configEvent_keeps ?_ ..
    | with_reducible refine ite_keeps ?_ ?_
    | simp only [State.kept_mk, State.kept_eta]
    | split
    | dsimp only)

theorem State.settleShapers_keeps {a : Kept} {s : State} (h : Keeps a s.kept) : ∀ x1, Keeps a (State.settleShapers s x1).kept := by
  intro x1
  unfold State.settleShapers
  repeat' (first
    | with_reducible assumption
    | with_reducible refine State.setTokens_keeps ?_ ..
    | with_reducible refine foldl_keeps (fun _ _ _ => ?_) ?_
    | dsimp only)

theorem State.forgive_keeps {a : Kept} {s : State} (h : Keeps a s.kept) : Keeps a (State.forgive s).kept := by
  unfold State.forgive
  repeat' (first
    | with_reducible assumption
    | with_reducible refine ite_keeps ?_ ?_
    | simp only [State.kept_mk, State.kept_eta]
    | split
    | dsimp only)

theorem State.retrainAll_keeps {a : Kept} {s : State} (h : Keeps a s.kept) : Keeps a (State.retrainAll s).kept := by
  unfold State.retrainAll
  repeat' (first
    | with_reducible assumption
    | with_reducible refine State.retrainWarm_keeps ?_ ..
    | with_reducible refine ite_keeps ?_ ?_
    | split
    | with_reducible refine foldl_keeps (fun _ _ _ => ?_) ?_
    | dsimp only)

theorem State.rootLock_keeps {a : Kept} {s : State} (h : Keeps a s.kept) : Keeps a (State.rootLock s).kept := by
  unfold State.rootLock
  repeat' (first
    | with_reducible assumption
    | with_reducible refine ite_keeps ?_ ?_
    | simp only [State.kept_mk, State.kept_eta]
    | split)

theorem State.swap_keeps {a : Kept} {s : State} (h : Keeps a s.kept) : Keeps a (State.swap s).kept := by
  unfold State.swap
  repeat' (first
    | with_reducible assumption
    | with_reducible refine State.settleShapers_keeps ?_ ..
    | with_reducible refine State.rootLock_keeps ?_ ..
    | with_reducible refine State.forgive_keeps ?_ ..
    | with_reducible refine State.retrainAll_keeps ?_ ..
    | with_reducible refine ite_keeps ?_ ?_
    | simp only [State.kept_mk, State.kept_eta]
    | split
    | dsimp only)

theorem State.swapIfDue_keeps {a : Kept} {s : State} (h : Keeps a s.kept) : Keeps a (State.swapIfDue s).kept := by
  unfold State.swapIfDue
  repeat' (first
    | with_reducible assumption
    | with_reducible refine State.swap_keeps ?_ ..
    | with_reducible refine ite_keeps ?_ ?_
    | split)

theorem State.armSwap_keeps {a : Kept} {s : State} (h : Keeps a s.kept) : Keeps a (State.armSwap s).kept := by
  unfold State.armSwap
  repeat' (first
    | with_reducible assumption
    | with_reducible refine ite_keeps ?_ ?_
    | simp only [State.kept_mk, State.kept_eta]
    | split)

theorem execSwapGo_keeps {s t : State} : ∀ x1, execSwapGo x1 s = .next t → Keeps s.kept t.kept := by
  intro x1 h
  have h0 := Keeps.refl s.kept
  injection h with h
  subst h
  repeat' (first
    | with_reducible assumption
    | with_reducible refine State.guarded_keeps ?_ (fun _ _ => ?_) ..
    | with_reducible refine State.armSwap_keeps ?_ ..)

theorem State.cancelSwap_keeps {a : Kept} {s : State} (h : Keeps a s.kept) : Keeps a (State.cancelSwap s).kept := by
  unfold State.cancelSwap
  repeat' (first
    | with_reducible assumption
    | with_reducible refine ite_keeps ?_ ?_
    | simp only [State.kept_mk, State.kept_eta]
    | split)

theorem execSwapCancel_keeps {s t : State} : ∀ x1, execSwapCancel x1 s = .next t → Keeps s.kept t.kept := by
  intro x1 h
  have h0 := Keeps.refl s.kept
  injection h with h
  subst h
  repeat' (first
    | with_reducible assumption
    | with_reducible refine State.guarded_keeps ?_ (fun _ _ => ?_) ..
    | with_reducible refine State.cancelSwap_keeps ?_ ..)

theorem State.toTeam_keeps {a : Kept} {s : State} (h : Keeps a s.kept) : ∀ x1 x2, Keeps a (State.toTeam s x1 x2).kept := by
  intro x1 x2
  unfold State.toTeam
  repeat' (first
    | with_reducible assumption
    | with_reducible refine State.sendTeam_keeps ?_ ..
    | simp only [State.kept_mk, State.kept_eta]
    | dsimp only)

theorem State.toEach_keeps {a : Kept} {s : State} (h : Keeps a s.kept) : ∀ x1 x2, Keeps a (State.toEach s x1 x2).kept := by
  intro x1 x2
  unfold State.toEach
  repeat' (first
    | with_reducible assumption
    | with_reducible refine State.toTeam_keeps ?_ ..
    | with_reducible refine foldl_keeps (fun _ _ _ => ?_) ?_
    | dsimp only)

theorem State.teamTakes_keeps {a : Kept} {s : State} {f : State → State} (h : Keeps a s.kept) (hf : ∀ t, Keeps a t.kept → Keeps a (f t).kept) : ∀ x1 x2 x3, Keeps a (State.teamTakes s x1 x2 x3 f).kept := by
  intro x1 x2 x3
  unfold State.teamTakes
  repeat' (first
    | with_reducible assumption
    | with_reducible refine hf _ ?_
    | with_reducible refine State.modGroup_keeps ?_ ..
    | with_reducible refine State.violation_keeps ?_ ..
    | with_reducible refine ite_keeps ?_ ?_
    | simp only [State.kept_mk, State.kept_eta]
    | split
    | dsimp only)

theorem State.tellTick_keeps {a : Kept} {s : State} (h : Keeps a s.kept) : ∀ x1, Keeps a (State.tellTick s x1).kept := by
  intro x1
  unfold State.tellTick
  repeat' (first
    | with_reducible assumption
    | with_reducible refine State.tellAll_keeps ?_ ..)

theorem State.tellHold_keeps {a : Kept} {s : State} (h : Keeps a s.kept) : ∀ x1, Keeps a (State.tellHold s x1).kept := by
  intro x1
  unfold State.tellHold
  repeat' (first
    | with_reducible assumption
    | with_reducible refine State.tellAll_keeps ?_ ..)

theorem State.tellSync_keeps {a : Kept} {s : State} (h : Keeps a s.kept) : Keeps a (State.tellSync s).kept := by
  unfold State.tellSync
  repeat' (first
    | with_reducible assumption
    | with_reducible refine State.tellAll_keeps ?_ ..)

theorem State.modLaunch_keeps {a : Kept} {s : State} (h : Keeps a s.kept) : ∀ x1, Keeps a (State.modLaunch s x1).kept := by
  intro x1
  unfold State.modLaunch
  repeat' (first
    | with_reducible assumption
    | simp only [State.kept_mk, State.kept_eta])

theorem State.sendReply_keeps {a : Kept} {s : State} (h : Keeps a s.kept) : ∀ x1 x2, Keeps a (State.sendReply s x1 x2).kept := by
  intro x1 x2
  unfold State.sendReply
  repeat' (first
    | with_reducible assumption
    | with_reducible refine State.toTeam_keeps ?_ ..
    | with_reducible refine State.modLaunch_keeps ?_ ..
    | simp only [State.kept_mk, State.kept_eta]
    | dsimp only)

theorem State.answerAgain_keeps {a : Kept} {s : State} (h : Keeps a s.kept) : Keeps a (State.answerAgain s).kept := by
  unfold State.answerAgain
  repeat' (first
    | with_reducible assumption
    | with_reducible refine State.sendReply_keeps ?_ ..
    | with_reducible refine ite_keeps ?_ ?_
    | simp only [State.kept_mk, State.kept_eta]
    | split
    | dsimp only)

theorem State.benight_keeps {a : Kept} {s : State} (h : Keeps a s.kept) : Keeps a (State.benight s).kept := by
  unfold State.benight
  repeat' (first
    | with_reducible assumption
    | with_reducible refine State.modEvent_keeps ?_ ..
    | with_reducible refine State.toEach_keeps ?_ ..
    | with_reducible refine ite_keeps ?_ ?_
    | simp only [State.kept_mk, State.kept_eta]
    | split
    | dsimp only)

theorem State.countLost_keeps {a : Kept} {s : State} (h : Keeps a s.kept) : Keeps a (State.countLost s).kept := by
  unfold State.countLost
  repeat' (first
    | with_reducible assumption
    | simp only [State.kept_mk, State.kept_eta])

theorem State.loseMember_keeps {a : Kept} {s : State} (h : Keeps a s.kept) : ∀ x1, Keeps a (State.loseMember s x1).kept := by
  intro x1
  unfold State.loseMember
  repeat' (first
    | with_reducible assumption
    | with_reducible refine State.benight_keeps ?_ ..
    | with_reducible refine State.modEvent_keeps ?_ ..
    | with_reducible refine State.countLost_keeps ?_ ..
    | with_reducible refine ite_keeps ?_ ?_
    | split)

theorem State.hear_keeps {a : Kept} {s : State} (h : Keeps a s.kept) : ∀ x1, Keeps a (State.hear s x1).kept := by
  intro x1
  unfold State.hear
  repeat' (first
    | with_reducible assumption
    | simp only [State.kept_mk, State.kept_eta]
    | dsimp only)

theorem State.advance_keeps {a : Kept} {s : State} (h : Keeps a s.kept) : Keeps a (State.advance s).kept := by
  unfold State.advance
  repeat' (first
    | with_reducible assumption
    | simp only [State.kept_mk, State.kept_eta])

theorem State.askTime_keeps {a : Kept} {s : State} (h : Keeps a s.kept) : ∀ x1, Keeps a (State.askTime s x1).kept := by
  intro x1
  unfold State.askTime
  repeat' (first
    | with_reducible assumption
    | with_reducible refine State.toTeam_keeps ?_ ..
    | simp only [State.kept_mk, State.kept_eta])

theorem execTimeReqSend_keeps {s t : State} : execTimeReqSend s = .next t → Keeps s.kept t.kept := by
  intro h
  have h0 := Keeps.refl s.kept
  injection h with h
  subst h
  repeat' (first
    | with_reducible assumption
    | with_reducible refine State.askTime_keeps ?_ ..
    | with_reducible refine ite_keeps ?_ ?_
    | simp only [State.kept_mk, State.kept_eta]
    | split
    | with_reducible refine foldl_keeps (fun _ _ _ => ?_) ?_
    | dsimp only)

theorem execTimeReq_keeps {s t : State} : ∀ x1 x2 x3, execTimeReq x1 x2 x3 s = .next t → Keeps s.kept t.kept := by
  intro x1 x2 x3 h
  have h0 := Keeps.refl s.kept
  injection h with h
  subst h
  repeat' (first
    | with_reducible assumption
    | with_reducible refine State.modGroup_keeps ?_ ..
    | with_reducible refine State.hear_keeps ?_ ..
    | with_reducible refine State.sendTeam_keeps ?_ ..
    | with_reducible refine ite_keeps ?_ ?_
    | simp only [State.kept_mk, State.kept_eta]
    | split
    | dsimp only)

theorem State.setGcnt_keeps {a : Kept} {s : State} (h : Keeps a s.kept) : ∀ x1, Keeps a (State.setGcnt s x1).kept := by
  intro x1
  unfold State.setGcnt
  repeat' (first
    | with_reducible assumption
    | with_reducible refine State.tellSync_keeps ?_ ..
    | with_reducible refine ite_keeps ?_ ?_
    | simp only [State.kept_mk, State.kept_eta]
    | split)

theorem State.firstExchange_keeps {a : Kept} {s : State} (h : Keeps a s.kept) : ∀ x1 x2, Keeps a (State.firstExchange s x1 x2).kept := by
  intro x1 x2
  unfold State.firstExchange
  repeat' (first
    | with_reducible assumption
    | with_reducible refine State.setGcnt_keeps ?_ ..
    | dsimp only)

theorem State.returnRoot_keeps {a : Kept} {s : State} (h : Keeps a s.kept) : ∀ x1, Keeps a (State.returnRoot s x1).kept := by
  intro x1
  unfold State.returnRoot
  repeat' (first
    | with_reducible assumption
    | with_reducible refine ite_keeps ?_ ?_
    | simp only [State.kept_mk, State.kept_eta]
    | split)

theorem State.exchange_keeps {a : Kept} {s : State} (h : Keeps a s.kept) : ∀ x1 x2, Keeps a (State.exchange s x1 x2).kept := by
  intro x1 x2
  unfold State.exchange
  repeat' (first
    | with_reducible assumption
    | with_reducible refine State.hear_keeps ?_ ..
    | with_reducible refine State.firstExchange_keeps ?_ ..
    | with_reducible refine State.returnRoot_keeps ?_ ..
    | with_reducible refine ite_keeps ?_ ?_
    | simp only [State.kept_mk, State.kept_eta]
    | split
    | dsimp only)

theorem execTimeResp_keeps {s t : State} : ∀ x1, execTimeResp x1 s = .next t → Keeps s.kept t.kept := by
  intro x1 h
  have h0 := Keeps.refl s.kept
  injection h with h
  subst h
  repeat' (first
    | with_reducible assumption
    | with_reducible refine State.modGroup_keeps ?_ ..
    | with_reducible refine State.answerAgain_keeps ?_ ..
    | with_reducible refine State.exchange_keeps ?_ ..
    | with_reducible refine ite_keeps ?_ ?_
    | simp only [State.kept_mk, State.kept_eta]
    | split
    | dsimp only)

theorem execTimeRespTimeout_keeps {s t : State} : execTimeRespTimeout s = .next t → Keeps s.kept t.kept := by
  intro h
  have h0 := Keeps.refl s.kept
  injection h with h
  subst h
  repeat' (first
    | with_reducible assumption
    | simp only [State.kept_mk, State.kept_eta]
    | split
    | dsimp only)

theorem State.settlePhase_keeps {a : Kept} {s : State} (h : Keeps a s.kept) : Keeps a (State.settlePhase s).kept := by
  unfold State.settlePhase
  repeat' (first
    | with_reducible assumption
    | with_reducible refine ite_keeps ?_ ?_
    | simp only [State.kept_mk, State.kept_eta]
    | split)

theorem execSyncInterval_keeps {s t : State} : execSyncInterval s = .next t → Keeps s.kept t.kept := by
  intro h
  have h0 := Keeps.refl s.kept
  injection h with h
  subst h
  repeat' (first
    | with_reducible assumption
    | with_reducible refine State.answerAgain_keeps ?_ ..
    | with_reducible refine State.settlePhase_keeps ?_ ..
    | with_reducible refine State.loseMember_keeps ?_ ..
    | with_reducible refine State.modEvent_keeps ?_ ..
    | with_reducible refine ite_keeps ?_ ?_
    | simp only [State.kept_mk, State.kept_eta]
    | split
    | dsimp only)

theorem execHoldoverAlignmentLost_keeps {s t : State} : execHoldoverAlignmentLost s = .next t → Keeps s.kept t.kept := by
  intro h
  have h0 := Keeps.refl s.kept
  injection h with h
  subst h
  repeat' (first
    | with_reducible assumption
    | with_reducible refine State.modEvent_keeps ?_ ..
    | with_reducible refine ite_keeps ?_ ?_
    | simp only [State.kept_mk, State.kept_eta]
    | split)

theorem execHoldoverMemberLost_keeps {s t : State} : ∀ x1, execHoldoverMemberLost x1 s = .next t → Keeps s.kept t.kept := by
  intro x1 h
  have h0 := Keeps.refl s.kept
  injection h with h
  subst h
  repeat' (first
    | with_reducible assumption
    | with_reducible refine State.loseMember_keeps ?_ ..
    | with_reducible refine ite_keeps ?_ ?_
    | split
    | dsimp only)

theorem execReferenceFallback_keeps {s t : State} : execReferenceFallback s = .next t → Keeps s.kept t.kept := by
  intro h
  have h0 := Keeps.refl s.kept
  injection h with h
  subst h
  repeat' (first
    | with_reducible assumption
    | with_reducible refine State.answerAgain_keeps ?_ ..
    | with_reducible refine ite_keeps ?_ ?_
    | simp only [State.kept_mk, State.kept_eta]
    | split)

theorem execTimeRootRtcSet_keeps {s t : State} : execTimeRootRtcSet s = .next t → Keeps s.kept t.kept := by
  intro h
  have h0 := Keeps.refl s.kept
  injection h with h
  subst h
  repeat' (first
    | with_reducible assumption
    | with_reducible refine State.answerAgain_keeps ?_ ..
    | with_reducible refine State.setGcnt_keeps ?_ ..
    | with_reducible refine ite_keeps ?_ ?_
    | simp only [State.kept_mk, State.kept_eta]
    | split)

theorem execSyncSublinkReturn_keeps {s t : State} : execSyncSublinkReturn s = .next t → Keeps s.kept t.kept := by
  intro h
  have h0 := Keeps.refl s.kept
  injection h with h
  subst h
  repeat' (first
    | with_reducible assumption
    | with_reducible refine ite_keeps ?_ ?_
    | simp only [State.kept_mk, State.kept_eta]
    | split)

theorem execMemberLost_keeps {s t : State} : ∀ x1, execMemberLost x1 s = .next t → Keeps s.kept t.kept := by
  intro x1 h
  have h0 := Keeps.refl s.kept
  injection h with h
  subst h
  repeat' (first
    | with_reducible assumption
    | with_reducible refine State.loseMember_keeps ?_ ..
    | with_reducible refine ite_keeps ?_ ?_
    | split)

theorem execLeadLost_keeps {s t : State} : execLeadLost s = .next t → Keeps s.kept t.kept := by
  intro h
  have h0 := Keeps.refl s.kept
  injection h with h
  subst h
  repeat' (first
    | with_reducible assumption
    | with_reducible refine State.modEvent_keeps ?_ ..
    | with_reducible refine State.countLost_keeps ?_ ..
    | with_reducible refine ite_keeps ?_ ?_
    | simp only [State.kept_mk, State.kept_eta]
    | split
    | dsimp only)

theorem execBelayGrantSend_keeps {s t : State} : ∀ x1, execBelayGrantSend x1 s = .next t → Keeps s.kept t.kept := by
  intro x1 h
  have h0 := Keeps.refl s.kept
  injection h with h
  subst h
  repeat' (first
    | with_reducible assumption
    | with_reducible refine State.grantOwed_keeps ?_ ..
    | with_reducible refine ite_keeps ?_ ?_
    | simp only [State.kept_mk, State.kept_eta]
    | split)

theorem execLeaseRenewal_keeps {s t : State} : ∀ x1, execLeaseRenewal x1 s = .next t → Keeps s.kept t.kept := by
  intro x1 h
  have h0 := Keeps.refl s.kept
  injection h with h
  subst h
  repeat' (first
    | with_reducible assumption
    | with_reducible refine State.sendGrant_keeps ?_ ..
    | with_reducible refine State.modCtx_keeps ?_ ..
    | with_reducible refine ite_keeps ?_ ?_
    | simp only [State.kept_mk, State.kept_eta]
    | split
    | dsimp only)

theorem State.expire_keeps {a : Kept} {s : State} (h : Keeps a s.kept) : ∀ x1 x2, Keeps a (State.expire s x1 x2).kept := by
  intro x1 x2
  unfold State.expire
  repeat' (first
    | with_reducible assumption
    | with_reducible refine State.modCtx_keeps ?_ ..
    | with_reducible refine ite_keeps ?_ ?_
    | split
    | dsimp only)

theorem execLeaseExpire_keeps {s t : State} : ∀ x1 x2, execLeaseExpire x1 x2 s = .next t → Keeps s.kept t.kept := by
  intro x1 x2 h
  have h0 := Keeps.refl s.kept
  injection h with h
  subst h
  repeat' (first
    | with_reducible assumption
    | with_reducible refine State.modEvent_keeps ?_ ..
    | with_reducible refine State.expire_keeps ?_ ..
    | with_reducible refine ite_keeps ?_ ?_
    | simp only [State.kept_mk, State.kept_eta]
    | split
    | dsimp only)

theorem State.revoke_keeps {a : Kept} {s : State} (h : Keeps a s.kept) : ∀ x1, Keeps a (State.revoke s x1).kept := by
  intro x1
  unfold State.revoke
  repeat' (first
    | with_reducible assumption
    | with_reducible refine State.modEvent_keeps ?_ ..
    | with_reducible refine State.expire_keeps ?_ ..
    | with_reducible refine ite_keeps ?_ ?_
    | simp only [State.kept_mk, State.kept_eta]
    | split
    | with_reducible refine foldl_keeps (fun _ _ _ => ?_) ?_
    | dsimp only)

theorem execFabRevoke_keeps {s t : State} : ∀ x1 x2, execFabRevoke x1 x2 s = .next t → Keeps s.kept t.kept := by
  intro x1 x2 h
  have h0 := Keeps.refl s.kept
  injection h with h
  subst h
  repeat' (first
    | with_reducible assumption
    | with_reducible refine State.guarded_keeps ?_ (fun _ _ => ?_) ..
    | with_reducible refine State.revoke_keeps ?_ ..
    | dsimp only)

theorem execRopeWindowOpen_keeps {s t : State} : ∀ x1 x2, execRopeWindowOpen x1 x2 s = .next t → Keeps s.kept t.kept := by
  intro x1 x2 h
  have h0 := Keeps.refl s.kept
  injection h with h
  subst h
  repeat' (first
    | with_reducible assumption
    | with_reducible refine State.pumpAll_keeps ?_ ..
    | with_reducible refine ite_keeps ?_ ?_
    | simp only [State.kept_mk, State.kept_eta]
    | split
    | dsimp only)

theorem State.deferRope_keeps {a : Kept} {s : State} (h : Keeps a s.kept) : ∀ x1 x2 x3, Keeps a (State.deferRope s x1 x2 x3).kept := by
  intro x1 x2 x3
  unfold State.deferRope
  repeat' (first
    | with_reducible assumption
    | with_reducible refine State.modSub_keeps ?_ ..
    | with_reducible refine State.countMap_keeps ?_ ..
    | with_reducible refine ite_keeps ?_ ?_
    | simp only [State.kept_mk, State.kept_eta]
    | split
    | dsimp only)

theorem execRopeWindowClose_keeps {s t : State} : ∀ x1 x2, execRopeWindowClose x1 x2 s = .next t → Keeps s.kept t.kept := by
  intro x1 x2 h
  have h0 := Keeps.refl s.kept
  injection h with h
  subst h
  repeat' (first
    | with_reducible assumption
    | with_reducible refine State.pumpAll_keeps ?_ ..
    | with_reducible refine State.deferRope_keeps ?_ ..
    | with_reducible refine ite_keeps ?_ ?_
    | simp only [State.kept_mk, State.kept_eta]
    | split
    | dsimp only)

theorem execOrdPacketRelease_keeps {s t : State} : ∀ x1 x2, execOrdPacketRelease x1 x2 s = .next t → Keeps s.kept t.kept := by
  intro x1 x2 h
  have h0 := Keeps.refl s.kept
  injection h with h
  subst h
  repeat' (first
    | with_reducible assumption
    | with_reducible refine State.linkApply_keeps ?_ ..
    | with_reducible refine State.modCtx_keeps ?_ ..
    | with_reducible refine State.modSub_keeps ?_ ..
    | simp only [State.kept_mk, State.kept_eta]
    | split
    | dsimp only)

theorem State.answer_keeps {a : Kept} {s : State} (h : Keeps a s.kept) : ∀ x1 x2 x3 x4 x5 x6, Keeps a (State.answer s x1 x2 x3 x4 x5 x6).kept := by
  intro x1 x2 x3 x4 x5 x6
  unfold State.answer
  repeat' (first
    | with_reducible assumption
    | with_reducible refine State.postAt_keeps ?_ ..
    | simp only [State.kept_mk, State.kept_eta])

theorem State.turnAway_keeps {a : Kept} {s : State} (h : Keeps a s.kept) : ∀ x1 x2 x3, Keeps a (State.turnAway s x1 x2 x3).kept := by
  intro x1 x2 x3
  unfold State.turnAway
  repeat' (first
    | with_reducible assumption
    | with_reducible refine State.answer_keeps ?_ ..
    | with_reducible refine State.refusedEvent_keeps ?_ ..
    | with_reducible refine State.countParked_keeps ?_ ..
    | simp only [State.kept_mk, State.kept_eta]
    | split
    | dsimp only)

theorem State.comeBack_keeps {a : Kept} {s : State} {f : State → State} (h : Keeps a s.kept) (hf : ∀ t, Keeps a t.kept → Keeps a (f t).kept) : ∀ x1 x2, Keeps a (State.comeBack s x1 x2 f).kept := by
  intro x1 x2
  unfold State.comeBack
  repeat' (first
    | with_reducible assumption
    | with_reducible refine hf _ ?_
    | with_reducible refine State.meshArrive_keeps ?_ (fun _ _ _ => ?_) ..
    | with_reducible refine State.logEvent_keeps ?_ ..
    | with_reducible refine ite_keeps ?_ ?_
    | split
    | dsimp only)

theorem State.answerRead_keeps {a : Kept} {s : State} (h : Keeps a s.kept) : ∀ x1 x2, Keeps a (State.answerRead s x1 x2).kept := by
  intro x1 x2
  unfold State.answerRead
  repeat' (first
    | with_reducible assumption
    | with_reducible refine State.fresh_keeps ?_ ..
    | with_reducible refine State.postAt_keeps ?_ ..
    | with_reducible refine ite_keeps ?_ ?_
    | simp only [State.kept_mk, State.kept_eta]
    | split
    | with_reducible refine foldl_keeps (fun _ _ _ => ?_) ?_
    | dsimp only)

theorem execMeshReadRequest_keeps {s t : State} : ∀ x1 x2, execMeshReadRequest x1 x2 s = .next t → Keeps s.kept t.kept := by
  intro x1 x2 h
  have h0 := Keeps.refl s.kept
  injection h with h
  subst h
  repeat' (first
    | with_reducible assumption
    | with_reducible refine State.meshArrive_keeps ?_ (fun _ _ _ => ?_) ..
    | with_reducible refine State.answerRead_keeps ?_ ..
    | with_reducible refine State.readErrors_keeps ?_ ..
    | with_reducible refine State.turnAway_keeps ?_ ..
    | simp only [State.kept_mk, State.kept_eta]
    | split
    | dsimp only)

theorem execMeshWrite_keeps {s t : State} : ∀ x1, execMeshWrite x1 s = .next t → Keeps s.kept t.kept := by
  intro x1 h
  have h0 := Keeps.refl s.kept
  injection h with h
  subst h
  repeat' (first
    | with_reducible assumption
    | with_reducible refine State.meshArrive_keeps ?_ (fun _ _ _ => ?_) ..
    | with_reducible refine State.answer_keeps ?_ ..
    | with_reducible refine State.landWrite_keeps ?_ ..
    | with_reducible refine State.landMiss_keeps ?_ ..
    | with_reducible refine State.turnAway_keeps ?_ ..
    | with_reducible refine ite_keeps ?_ ?_
    | simp only [State.kept_mk, State.kept_eta]
    | split
    | dsimp only)

theorem execMeshReadResponse_keeps {s t : State} : ∀ x1, execMeshReadResponse x1 s = .next t → Keeps s.kept t.kept := by
  intro x1 h
  have h0 := Keeps.refl s.kept
  injection h with h
  subst h
  repeat' (first
    | with_reducible assumption
    | with_reducible refine State.comeBack_keeps ?_ (fun _ _ => ?_) ..
    | with_reducible refine State.modGang_keeps ?_ ..
    | with_reducible refine ite_keeps ?_ ?_
    | split
    | dsimp only)

theorem execMeshReduceAdd_keeps {s t : State} : ∀ x1, execMeshReduceAdd x1 s = .next t → Keeps s.kept t.kept := by
  intro x1 h
  have h0 := Keeps.refl s.kept
  injection h with h
  subst h
  repeat' (first
    | with_reducible assumption
    | with_reducible refine State.meshArrive_keeps ?_ (fun _ _ _ => ?_) ..
    | with_reducible refine State.answer_keeps ?_ ..
    | with_reducible refine State.reduceAt_keeps ?_ ..
    | with_reducible refine State.turnAway_keeps ?_ ..
    | simp only [State.kept_mk, State.kept_eta]
    | split
    | dsimp only)

theorem execMeshWriteAck_keeps {s t : State} : ∀ x1, execMeshWriteAck x1 s = .next t → Keeps s.kept t.kept := by
  intro x1 h
  have h0 := Keeps.refl s.kept
  injection h with h
  subst h
  repeat' (first
    | with_reducible assumption
    | with_reducible refine State.comeBack_keeps ?_ (fun _ _ => ?_) ..
    | with_reducible refine State.ackOne_keeps ?_ ..
    | dsimp only)

theorem execMeshErrorResponse_keeps {s t : State} : ∀ x1, execMeshErrorResponse x1 s = .next t → Keeps s.kept t.kept := by
  intro x1 h
  have h0 := Keeps.refl s.kept
  injection h with h
  subst h
  repeat' (first
    | with_reducible assumption
    | with_reducible refine State.comeBack_keeps ?_ (fun _ _ => ?_) ..
    | with_reducible refine State.ackOne_keeps ?_ ..
    | with_reducible refine State.modGang_keeps ?_ ..
    | with_reducible refine ite_keeps ?_ ?_
    | split
    | dsimp only)

theorem execMulticastReplicate_keeps {s t : State} : ∀ x1 x2, execMulticastReplicate x1 x2 s = .next t → Keeps s.kept t.kept := by
  intro x1 x2 h
  have h0 := Keeps.refl s.kept
  injection h with h
  subst h
  repeat' (first
    | with_reducible assumption
    | with_reducible refine State.modField_keeps ?_ ..
    | with_reducible refine ite_keeps ?_ ?_
    | simp only [State.kept_mk, State.kept_eta]
    | split
    | dsimp only)

theorem State.serveCore_keeps {a : Kept} {s : State} (h : Keeps a s.kept) : ∀ x1 x2 x3, Keeps a (State.serveCore s x1 x2 x3).kept := by
  intro x1 x2 x3
  unfold State.serveCore
  repeat' (first
    | with_reducible assumption
    | with_reducible refine State.modField_keeps ?_ ..
    | with_reducible refine ite_keeps ?_ ?_
    | simp only [State.kept_mk, State.kept_eta]
    | split
    | dsimp only)

theorem State.parkFolio_keeps {a : Kept} {s : State} (h : Keeps a s.kept) : ∀ x1 x2, Keeps a (State.parkFolio s x1 x2).kept := by
  intro x1 x2
  unfold State.parkFolio
  repeat' (first
    | with_reducible assumption
    | with_reducible refine State.countParked_keeps ?_ ..
    | with_reducible refine ite_keeps ?_ ?_
    | simp only [State.kept_mk, State.kept_eta]
    | split
    | dsimp only)

theorem State.deliverLocal_keeps {a : Kept} {s : State} (h : Keeps a s.kept) : ∀ x1 x2 x3 x4, Keeps a (State.deliverLocal s x1 x2 x3 x4).kept := by
  intro x1 x2 x3 x4
  unfold State.deliverLocal
  repeat' (first
    | with_reducible assumption
    | with_reducible refine State.answer_keeps ?_ ..
    | with_reducible refine State.landWrite_keeps ?_ ..
    | with_reducible refine State.landMiss_keeps ?_ ..
    | with_reducible refine State.parkFolio_keeps ?_ ..
    | with_reducible refine State.turnAway_keeps ?_ ..
    | with_reducible refine ite_keeps ?_ ?_
    | simp only [State.kept_mk, State.kept_eta]
    | split
    | dsimp only)

theorem execMulticastLocalDeliver_keeps {s t : State} : ∀ x1 x2 x3, execMulticastLocalDeliver x1 x2 x3 s = .next t → Keeps s.kept t.kept := by
  intro x1 x2 x3 h
  have h0 := Keeps.refl s.kept
  injection h with h
  subst h
  repeat' (first
    | with_reducible assumption
    | with_reducible refine State.serveCore_keeps ?_ ..
    | with_reducible refine State.modField_keeps ?_ ..
    | with_reducible refine State.deliverLocal_keeps ?_ ..
    | with_reducible refine ite_keeps ?_ ?_
    | simp only [State.kept_mk, State.kept_eta]
    | split
    | dsimp only)

theorem State.replayInto_keeps {a : Kept} {s : State} (h : Keeps a s.kept) : ∀ x1 x2 x3, Keeps a (State.replayInto s x1 x2 x3).kept := by
  intro x1 x2 x3
  unfold State.replayInto
  repeat' (first
    | with_reducible assumption
    | with_reducible refine State.modMesh_keeps ?_ ..
    | simp only [State.kept_mk, State.kept_eta]
    | split
    | dsimp only)

theorem execBundleCrcRetry_keeps {s t : State} : ∀ x1 x2 x3, execBundleCrcRetry x1 x2 x3 s = .next t → Keeps s.kept t.kept := by
  intro x1 x2 x3 h
  have h0 := Keeps.refl s.kept
  injection h with h
  subst h
  repeat' (first
    | with_reducible assumption
    | with_reducible refine State.replayInto_keeps ?_ ..
    | with_reducible refine State.modMesh_keeps ?_ ..
    | with_reducible refine ite_keeps ?_ ?_
    | simp only [State.kept_mk, State.kept_eta]
    | split
    | dsimp only)

theorem execBundleFail_keeps {s t : State} : ∀ x1 x2 x3, execBundleFail x1 x2 x3 s = .next t → Keeps s.kept t.kept := by
  intro x1 x2 x3 h
  have h0 := Keeps.refl s.kept
  injection h with h
  subst h
  repeat' (first
    | with_reducible assumption
    | with_reducible refine State.modMesh_keeps ?_ ..
    | with_reducible refine State.logEvent_keeps ?_ ..
    | with_reducible refine ite_keeps ?_ ?_
    | simp only [State.kept_mk, State.kept_eta]
    | split
    | dsimp only)

theorem execBundleSpareResume_keeps {s t : State} : ∀ x1 x2, execBundleSpareResume x1 x2 s = .next t → Keeps s.kept t.kept := by
  intro x1 x2 h
  have h0 := Keeps.refl s.kept
  injection h with h
  subst h
  repeat' (first
    | with_reducible assumption
    | with_reducible refine State.replayInto_keeps ?_ ..
    | with_reducible refine State.modMesh_keeps ?_ ..
    | with_reducible refine ite_keeps ?_ ?_
    | simp only [State.kept_mk, State.kept_eta]
    | split
    | dsimp only)

theorem State.routerService_keeps {a : Kept} {s : State} (h : Keeps a s.kept) : Keeps a (State.routerService s).kept := by
  unfold State.routerService
  repeat' (first
    | with_reducible assumption
    | with_reducible refine State.service_keeps ?_ ..
    | with_reducible refine State.modEvent_keeps ?_ ..
    | with_reducible refine ite_keeps ?_ ?_
    | split)

theorem State.dropAttached_keeps {a : Kept} {s : State} (h : Keeps a s.kept) : ∀ x1, Keeps a (State.dropAttached s x1).kept := by
  intro x1
  unfold State.dropAttached
  repeat' (first
    | with_reducible assumption
    | with_reducible refine State.modSub_keeps ?_ ..
    | with_reducible refine ite_keeps ?_ ?_
    | simp only [State.kept_mk, State.kept_eta]
    | split
    | with_reducible refine foldl_keeps (fun _ _ _ => ?_) ?_
    | dsimp only)

theorem execRouterFailed_keeps {s t : State} : ∀ x1, execRouterFailed x1 s = .next t → Keeps s.kept t.kept := by
  intro x1 h
  have h0 := Keeps.refl s.kept
  injection h with h
  subst h
  repeat' (first
    | with_reducible assumption
    | with_reducible refine State.faultRun_keeps ?_ ..
    | with_reducible refine State.routerService_keeps ?_ ..
    | with_reducible refine State.dropAttached_keeps ?_ ..
    | with_reducible refine State.logEvent_keeps ?_ ..
    | with_reducible refine ite_keeps ?_ ?_
    | simp only [State.kept_mk, State.kept_eta]
    | split)

theorem State.loadBundle_keeps {a : Kept} {s : State} (h : Keeps a s.kept) : ∀ x1, Keeps a (State.loadBundle s x1).kept := by
  intro x1
  unfold State.loadBundle
  repeat' (first
    | with_reducible assumption
    | with_reducible refine State.modMesh_keeps ?_ ..
    | with_reducible refine ite_keeps ?_ ?_
    | simp only [State.kept_mk, State.kept_eta]
    | split
    | dsimp only)

theorem State.moduleReset_keeps {a : Kept} {s : State} (h : Keeps a s.kept) : Keeps a (State.moduleReset s).kept := by
  unfold State.moduleReset
  refine foldl_keeps (fun _ _ k => State.loadBundle_keeps k ..) ?_
  exact ⟨h.1, fun k => ⟨rfl, (h.2 k).2.1, Nat.zero_le _⟩⟩

theorem State.autoReset_keeps {a : Kept} {s : State} (h : Keeps a s.kept) : Keeps a (State.autoReset s).kept := by
  unfold State.autoReset
  repeat' (first
    | with_reducible assumption
    | with_reducible refine State.moduleReset_keeps ?_ ..
    | with_reducible refine ite_keeps ?_ ?_
    | simp only [State.kept_mk, State.kept_eta]
    | split
    | dsimp only)

theorem execModuleReset_keeps {s t : State} : ∀ x1, execModuleReset x1 s = .next t → Keeps s.kept t.kept := by
  intro x1 h
  have h0 := Keeps.refl s.kept
  injection h with h
  subst h
  repeat' (first
    | with_reducible assumption
    | with_reducible refine State.guarded_keeps ?_ (fun _ _ => ?_) ..
    | with_reducible refine State.moduleReset_keeps ?_ ..
    | with_reducible refine State.autoReset_keeps ?_ ..
    | with_reducible refine ite_keeps ?_ ?_
    | simp only [State.kept_mk, State.kept_eta]
    | split)

theorem State.endSessions_keeps {a : Kept} {s : State} (h : Keeps a s.kept) : Keeps a (State.endSessions s).kept := by
  unfold State.endSessions
  repeat' (first
    | with_reducible assumption
    | simp only [State.kept_mk, State.kept_eta])

theorem State.wardenReset_keeps {a : Kept} {s : State} (h : Keeps a s.kept) : Keeps a (State.wardenReset s).kept := by
  unfold State.wardenReset
  repeat' (first
    | with_reducible assumption
    | with_reducible refine State.endSessions_keeps ?_ ..
    | simp only [State.kept_mk, State.kept_eta]
    | dsimp only)

theorem execWardenReset_keeps {s t : State} : ∀ x1, execWardenReset x1 s = .next t → Keeps s.kept t.kept := by
  intro x1 h
  have h0 := Keeps.refl s.kept
  injection h with h
  subst h
  repeat' (first
    | with_reducible assumption
    | with_reducible refine State.guarded_keeps ?_ (fun _ _ => ?_) ..
    | with_reducible refine State.wardenReset_keeps ?_ ..
    | simp only [State.kept_mk, State.kept_eta]
    | split)

theorem execWardenRestartDone_keeps {s t : State} : execWardenRestartDone s = .next t → Keeps s.kept t.kept := by
  intro h
  have h0 := Keeps.refl s.kept
  injection h with h
  subst h
  repeat' (first
    | with_reducible assumption
    | simp only [State.kept_mk, State.kept_eta])

theorem execWardenWatchdog_keeps {s t : State} : execWardenWatchdog s = .next t → Keeps s.kept t.kept := by
  intro h
  have h0 := Keeps.refl s.kept
  injection h with h
  subst h
  repeat' (first
    | with_reducible assumption
    | with_reducible refine State.wardenReset_keeps ?_ ..)

end Sys2Proof.Machine
end

