-- ==== Sys2Proof/Laws/KeepsModule.lean ====
section
/-! SUPPORT. Every operation and command keeps the queue and the invariant: the last third of them, in the order in which they call each other. -/

namespace Sys2Proof.Machine

theorem State.loadFaultTables_keeps {a : Kept} {s : State} (h : Keeps a s.kept) : Keeps a (State.loadFaultTables s).kept := by
  unfold State.loadFaultTables
  repeat' (first
    | with_reducible assumption
    | with_reducible refine State.routerService_keeps ?_ ..
    | with_reducible refine ite_keeps ?_ ?_
    | simp only [State.kept_mk, State.kept_eta]
    | split
    | dsimp only)

theorem State.noteNvm_keeps {a : Kept} {s : State} (h : Keeps a s.kept) : ∀ x1, Keeps a (State.noteNvm s x1).kept := by
  intro x1
  unfold State.noteNvm
  repeat' (first
    | with_reducible assumption
    | with_reducible refine State.configEvent_keeps ?_ ..
    | with_reducible refine ite_keeps ?_ ?_
    | simp only [State.kept_mk, State.kept_eta]
    | split)

theorem State.enterSafe_keeps {a : Kept} {s : State} (h : Keeps a s.kept) : Keeps a (State.enterSafe s).kept := by
  unfold State.enterSafe
  repeat' (first
    | with_reducible assumption
    | simp only [State.kept_mk, State.kept_eta]
    | dsimp only)

theorem State.takeConfig_keeps {a : Kept} {s : State} (h : Keeps a s.kept) : ∀ x1, Keeps a (State.takeConfig s x1).kept := by
  intro x1
  unfold State.takeConfig
  repeat' (first
    | with_reducible assumption
    | simp only [State.kept_mk, State.kept_eta]
    | split
    | dsimp only)

theorem State.startService_keeps {a : Kept} {s : State} (h : Keeps a s.kept) : Keeps a (State.startService s).kept := by
  unfold State.startService
  repeat' (first
    | with_reducible assumption
    | with_reducible refine State.service_keeps ?_ ..
    | with_reducible refine State.logEvent_keeps ?_ ..
    | with_reducible refine ite_keeps ?_ ?_
    | simp only [State.kept_mk, State.kept_eta]
    | split
    | dsimp only)

theorem State.openMesh_keeps {a : Kept} {s : State} (h : Keeps a s.kept) : ∀ x1, Keeps a (State.openMesh s x1).kept := by
  intro x1
  unfold State.openMesh
  repeat' (first
    | with_reducible assumption
    | with_reducible refine State.takeConfig_keeps ?_ ..
    | with_reducible refine State.startService_keeps ?_ ..
    | with_reducible refine State.loadBundle_keeps ?_ ..
    | with_reducible refine State.loadFaultTables_keeps ?_ ..
    | simp only [State.kept_mk, State.kept_eta]
    | with_reducible refine foldl_keeps (fun _ _ _ => ?_) ?_
    | dsimp only)

theorem State.startUp_keeps {a : Kept} {s : State} (h : Keeps a s.kept) : Keeps a (State.startUp s).kept := by
  unfold State.startUp
  repeat' (first
    | with_reducible assumption
    | with_reducible refine State.enterSafe_keeps ?_ ..
    | with_reducible refine State.noteNvm_keeps ?_ ..
    | with_reducible refine State.openMesh_keeps ?_ ..
    | with_reducible refine ite_keeps ?_ ?_
    | simp only [State.kept_mk, State.kept_eta]
    | split
    | dsimp only)

theorem execStartupBegin_keeps {s t : State} : execStartupBegin s = .next t → Keeps s.kept t.kept := by
  intro h
  have h0 := Keeps.refl s.kept
  injection h with h
  subst h
  repeat' (first
    | with_reducible assumption
    | with_reducible refine State.startUp_keeps ?_ ..
    | with_reducible refine ite_keeps ?_ ?_
    | split)

theorem execStartupDomainGroup_keeps {s t : State} : execStartupDomainGroup s = .next t → Keeps s.kept t.kept := by
  intro h
  have h0 := Keeps.refl s.kept
  injection h with h
  subst h
  repeat' (first
    | with_reducible assumption
    | with_reducible refine State.requestOn_keeps ?_ ..
    | with_reducible refine ite_keeps ?_ ?_
    | simp only [State.kept_mk, State.kept_eta]
    | split
    | with_reducible refine foldl_keeps (fun _ _ _ => ?_) ?_
    | dsimp only)

theorem execStartupDomainTimeout_keeps {s t : State} : ∀ x1, execStartupDomainTimeout x1 s = .next t → Keeps s.kept t.kept := by
  intro x1 h
  have h0 := Keeps.refl s.kept
  injection h with h
  subst h
  repeat' (first
    | with_reducible assumption
    | with_reducible refine State.powerLost_keeps ?_ ..
    | with_reducible refine State.modDom_keeps ?_ ..
    | with_reducible refine State.dequeueSeq_keeps ?_ ..
    | with_reducible refine State.service_keeps ?_ ..
    | with_reducible refine State.logEvent_keeps ?_ ..
    | with_reducible refine ite_keeps ?_ ?_
    | simp only [State.kept_mk, State.kept_eta]
    | split
    | dsimp only)

theorem execMrstNAssert_keeps {s t : State} : ∀ x1, execMrstNAssert x1 s = .next t → Keeps s.kept t.kept := by
  intro x1 h
  have h0 := Keeps.refl s.kept
  injection h with h
  subst h
  repeat' (first
    | with_reducible assumption
    | with_reducible refine State.moduleReset_keeps ?_ ..
    | with_reducible refine ite_keeps ?_ ?_
    | simp only [State.kept_mk, State.kept_eta]
    | split
    | dsimp only)

theorem execEjectNLow_keeps {s t : State} : execEjectNLow s = .next t → Keeps s.kept t.kept := by
  intro h
  have h0 := Keeps.refl s.kept
  injection h with h
  subst h
  repeat' (first
    | with_reducible assumption
    | with_reducible refine State.moduleReset_keeps ?_ ..
    | simp only [State.kept_mk, State.kept_eta]
    | dsimp only)

theorem execEjectNHigh_keeps {s t : State} : execEjectNHigh s = .next t → Keeps s.kept t.kept := by
  intro h
  have h0 := Keeps.refl s.kept
  injection h with h
  subst h
  repeat' (first
    | with_reducible assumption
    | simp only [State.kept_mk, State.kept_eta])

theorem State.endPath_keeps {a : Kept} {s : State} (h : Keeps a s.kept) : ∀ x1, Keeps a (State.endPath s x1).kept := by
  intro x1
  unfold State.endPath
  repeat' (first
    | with_reducible assumption
    | simp only [State.kept_mk, State.kept_eta]
    | dsimp only)

theorem execPerstN_keeps {s t : State} : ∀ x1, execPerstN x1 s = .next t → Keeps s.kept t.kept := by
  intro x1 h
  have h0 := Keeps.refl s.kept
  injection h with h
  subst h
  repeat' (first
    | with_reducible assumption
    | with_reducible refine State.endPath_keeps ?_ ..)

theorem State.setRtc_keeps {a : Kept} {s : State} (h : Keeps a s.kept) : ∀ x1, Keeps a (State.setRtc s x1).kept := by
  intro x1
  unfold State.setRtc
  repeat' (first
    | with_reducible assumption
    | with_reducible refine State.modEvent_keeps ?_ ..
    | simp only [State.kept_mk, State.kept_eta])

theorem execRtcSet_keeps {s t : State} : ∀ x1 x2, execRtcSet x1 x2 s = .next t → Keeps s.kept t.kept := by
  intro x1 x2 h
  have h0 := Keeps.refl s.kept
  injection h with h
  subst h
  repeat' (first
    | with_reducible assumption
    | with_reducible refine State.guarded_keeps ?_ (fun _ _ => ?_) ..
    | with_reducible refine State.setRtc_keeps ?_ ..
    | dsimp only)

theorem execRtcHoldupLost_keeps {s t : State} : execRtcHoldupLost s = .next t → Keeps s.kept t.kept := by
  intro h
  have h0 := Keeps.refl s.kept
  injection h with h
  subst h
  repeat' (first
    | with_reducible assumption
    | simp only [State.kept_mk, State.kept_eta])

theorem execArmCheckDone_keeps {s t : State} : ∀ x1, execArmCheckDone x1 s = .next t → Keeps s.kept t.kept := by
  intro x1 h
  have h0 := Keeps.refl s.kept
  injection h with h
  subst h
  repeat' (first
    | with_reducible assumption
    | with_reducible refine State.answerAgain_keeps ?_ ..
    | with_reducible refine State.checkSlot_keeps ?_ ..)

theorem execDisarm_keeps {s t : State} : ∀ x1 x2, execDisarm x1 x2 s = .next t → Keeps s.kept t.kept := by
  intro x1 x2 h
  have h0 := Keeps.refl s.kept
  injection h with h
  subst h
  repeat' (first
    | with_reducible assumption
    | with_reducible refine State.guarded_keeps ?_ (fun _ _ => ?_) ..
    | with_reducible refine State.answerAgain_keeps ?_ ..
    | with_reducible refine State.disarmSlot_keeps ?_ ..
    | dsimp only)

theorem execConfigSwap_keeps {s t : State} : execConfigSwap s = .next t → Keeps s.kept t.kept := by
  intro h
  have h0 := Keeps.refl s.kept
  injection h with h
  subst h
  repeat' (first
    | with_reducible assumption
    | with_reducible refine State.answerAgain_keeps ?_ ..
    | with_reducible refine State.swapIfDue_keeps ?_ ..)

theorem State.propose_keeps {a : Kept} {s : State} (h : Keeps a s.kept) : ∀ x1, Keeps a (State.propose s x1).kept := by
  intro x1
  unfold State.propose
  repeat' (first
    | with_reducible assumption
    | with_reducible refine State.toEach_keeps ?_ ..
    | simp only [State.kept_mk, State.kept_eta])

theorem State.missLaunch_keeps {a : Kept} {s : State} (h : Keeps a s.kept) : Keeps a (State.missLaunch s).kept := by
  unfold State.missLaunch
  repeat' (first
    | with_reducible assumption
    | simp only [State.kept_mk, State.kept_eta])

theorem State.goLaunch_keeps {a : Kept} {s : State} (h : Keeps a s.kept) : ∀ x1, Keeps a (State.goLaunch s x1).kept := by
  intro x1
  unfold State.goLaunch
  repeat' (first
    | with_reducible assumption
    | with_reducible refine State.missLaunch_keeps ?_ ..
    | with_reducible refine State.propose_keeps ?_ ..
    | with_reducible refine ite_keeps ?_ ?_
    | split
    | dsimp only)

theorem State.writeGo_keeps {a : Kept} {s : State} (h : Keeps a s.kept) : ∀ x1 x2, Keeps a (State.writeGo s x1 x2).kept := by
  intro x1 x2
  unfold State.writeGo
  repeat' (first
    | with_reducible assumption
    | with_reducible refine State.goLaunch_keeps ?_ ..
    | with_reducible refine State.refuse_keeps ?_ ..
    | with_reducible refine ite_keeps ?_ ?_
    | simp only [State.kept_mk, State.kept_eta]
    | split
    | dsimp only)

theorem execLaunchGo_keeps {s t : State} : ∀ x1 x2, execLaunchGo x1 x2 s = .next t → Keeps s.kept t.kept := by
  intro x1 x2 h
  have h0 := Keeps.refl s.kept
  injection h with h
  subst h
  repeat' (first
    | with_reducible assumption
    | with_reducible refine State.guarded_keeps ?_ (fun _ _ => ?_) ..
    | with_reducible refine State.writeGo_keeps ?_ ..
    | dsimp only)

theorem State.takeProposal_keeps {a : Kept} {s : State} (h : Keeps a s.kept) : ∀ x1, Keeps a (State.takeProposal s x1).kept := by
  intro x1
  unfold State.takeProposal
  repeat' (first
    | with_reducible assumption
    | with_reducible refine State.sendReply_keeps ?_ ..
    | simp only [State.kept_mk, State.kept_eta]
    | dsimp only)

theorem State.answerProposal_keeps {a : Kept} {s : State} (h : Keeps a s.kept) : ∀ x1, Keeps a (State.answerProposal s x1).kept := by
  intro x1
  unfold State.answerProposal
  repeat' (first
    | with_reducible assumption
    | with_reducible refine State.toTeam_keeps ?_ ..)

theorem execLaunchPropose_keeps {s t : State} : ∀ x1 x2, execLaunchPropose x1 x2 s = .next t → Keeps s.kept t.kept := by
  intro x1 x2 h
  have h0 := Keeps.refl s.kept
  injection h with h
  subst h
  repeat' (first
    | with_reducible assumption
    | with_reducible refine State.teamTakes_keeps ?_ (fun _ _ => ?_) ..
    | with_reducible refine State.answerProposal_keeps ?_ ..
    | with_reducible refine State.takeProposal_keeps ?_ ..
    | with_reducible refine ite_keeps ?_ ?_
    | split
    | dsimp only)

theorem execReply_keeps {s t : State} : ∀ x1 x2, execReply x1 x2 s = .next t → Keeps s.kept t.kept := by
  intro x1 x2 h
  have h0 := Keeps.refl s.kept
  injection h with h
  subst h
  repeat' (first
    | with_reducible assumption
    | with_reducible refine State.teamTakes_keeps ?_ (fun _ _ => ?_) ..
    | with_reducible refine State.modLaunch_keeps ?_ ..
    | with_reducible refine ite_keeps ?_ ?_
    | simp only [State.kept_mk, State.kept_eta]
    | split
    | dsimp only)

theorem State.recordCancel_keeps {a : Kept} {s : State} (h : Keeps a s.kept) : ∀ x1 x2, Keeps a (State.recordCancel s x1 x2).kept := by
  intro x1 x2
  unfold State.recordCancel
  repeat' (first
    | with_reducible assumption
    | with_reducible refine State.fresh_keeps ?_ ..
    | with_reducible refine ite_keeps ?_ ?_
    | simp only [State.kept_mk, State.kept_eta]
    | split
    | dsimp only)

theorem State.retryLaunch_keeps {a : Kept} {s : State} (h : Keeps a s.kept) : ∀ x1, Keeps a (State.retryLaunch s x1).kept := by
  intro x1
  unfold State.retryLaunch
  repeat' (first
    | with_reducible assumption
    | with_reducible refine State.propose_keeps ?_ ..
    | with_reducible refine ite_keeps ?_ ?_
    | simp only [State.kept_mk, State.kept_eta]
    | split)

theorem execLaunchCommitCount_keeps {s t : State} : execLaunchCommitCount s = .next t → Keeps s.kept t.kept := by
  intro h
  have h0 := Keeps.refl s.kept
  injection h with h
  subst h
  repeat' (first
    | with_reducible assumption
    | with_reducible refine State.toEach_keeps ?_ ..
    | with_reducible refine State.modLaunch_keeps ?_ ..
    | with_reducible refine State.retryLaunch_keeps ?_ ..
    | with_reducible refine State.recordCancel_keeps ?_ ..
    | with_reducible refine ite_keeps ?_ ?_
    | simp only [State.kept_mk, State.kept_eta]
    | split
    | dsimp only)

theorem execLaunchCommit_keeps {s t : State} : ∀ x1 x2, execLaunchCommit x1 x2 s = .next t → Keeps s.kept t.kept := by
  intro x1 x2 h
  have h0 := Keeps.refl s.kept
  injection h with h
  subst h
  repeat' (first
    | with_reducible assumption
    | with_reducible refine State.teamTakes_keeps ?_ (fun _ _ => ?_) ..
    | with_reducible refine State.modLaunch_keeps ?_ ..
    | with_reducible refine ite_keeps ?_ ?_
    | simp only [State.kept_mk, State.kept_eta]
    | split
    | dsimp only)

theorem execLaunchCancel_keeps {s t : State} : ∀ x1 x2, execLaunchCancel x1 x2 s = .next t → Keeps s.kept t.kept := by
  intro x1 x2 h
  have h0 := Keeps.refl s.kept
  injection h with h
  subst h
  repeat' (first
    | with_reducible assumption
    | with_reducible refine State.teamTakes_keeps ?_ (fun _ _ => ?_) ..
    | with_reducible refine ite_keeps ?_ ?_
    | simp only [State.kept_mk, State.kept_eta]
    | split
    | dsimp only)

theorem execLaunchDecisionMissing_keeps {s t : State} : execLaunchDecisionMissing s = .next t → Keeps s.kept t.kept := by
  intro h
  have h0 := Keeps.refl s.kept
  injection h with h
  subst h
  repeat' (first
    | with_reducible assumption
    | with_reducible refine State.modEvent_keeps ?_ ..
    | with_reducible refine State.modLaunch_keeps ?_ ..
    | with_reducible refine ite_keeps ?_ ?_
    | simp only [State.kept_mk, State.kept_eta]
    | split
    | dsimp only)

theorem State.atBoundary_keeps {a : Kept} {s : State} (h : Keeps a s.kept) : Keeps a (State.atBoundary s).kept := by
  unfold State.atBoundary
  repeat' (first
    | with_reducible assumption
    | with_reducible refine State.swapIfDue_keeps ?_ ..
    | simp only [State.kept_mk, State.kept_eta]
    | dsimp only)

theorem State.writeData_keeps {a : Kept} {s : State} (h : Keeps a s.kept) : ∀ x1, Keeps a (State.writeData s x1).kept := by
  intro x1
  unfold State.writeData
  repeat' (first
    | with_reducible assumption
    | with_reducible refine State.storeRaw_keeps ?_ ..
    | with_reducible refine foldl_keeps (fun _ _ _ => ?_) ?_
    | dsimp only)

theorem State.grantLanding_keeps {a : Kept} {s : State} (h : Keeps a s.kept) : ∀ x1 x2, Keeps a (State.grantLanding s x1 x2).kept := by
  intro x1 x2
  unfold State.grantLanding
  repeat' (first
    | with_reducible assumption
    | with_reducible refine State.grantSlots_keeps ?_ ..
    | with_reducible refine ite_keeps ?_ ?_
    | split)

theorem State.grantAll_keeps {a : Kept} {s : State} (h : Keeps a s.kept) : ∀ x1, Keeps a (State.grantAll s x1).kept := by
  intro x1
  unfold State.grantAll
  repeat' (first
    | with_reducible assumption
    | with_reducible refine State.grantLanding_keeps ?_ ..
    | with_reducible refine State.owe_keeps ?_ ..
    | with_reducible refine State.grantOwed_keeps ?_ ..
    | with_reducible refine ite_keeps ?_ ?_
    | simp only [State.kept_mk, State.kept_eta]
    | split
    | with_reducible refine foldl_keeps (fun _ _ _ => ?_) ?_
    | dsimp only)

theorem State.loadRun_keeps {a : Kept} {s : State} (h : Keeps a s.kept) : ∀ x1, Keeps a (State.loadRun s x1).kept := by
  intro x1
  unfold State.loadRun
  repeat' (first
    | with_reducible assumption
    | with_reducible refine State.tellTick_keeps ?_ ..
    | with_reducible refine State.grantAll_keeps ?_ ..
    | with_reducible refine State.writeData_keeps ?_ ..
    | with_reducible refine State.loadFaultTables_keeps ?_ ..
    | simp only [State.kept_mk, State.kept_eta]
    | dsimp only)

theorem execLaunchPitchStart_keeps {s t : State} : execLaunchPitchStart s = .next t → Keeps s.kept t.kept := by
  intro h
  have h0 := Keeps.refl s.kept
  injection h with h
  subst h
  repeat' (first
    | with_reducible assumption
    | with_reducible refine State.atBoundary_keeps ?_ ..
    | with_reducible refine State.loadRun_keeps ?_ ..
    | with_reducible refine State.sendReply_keeps ?_ ..
    | with_reducible refine ite_keeps ?_ ?_
    | simp only [State.kept_mk, State.kept_eta]
    | split
    | dsimp only)

theorem State.sendOverrun_keeps {a : Kept} {s : State} (h : Keeps a s.kept) : ∀ x1 x2, Keeps a (State.sendOverrun s x1 x2).kept := by
  intro x1 x2
  unfold State.sendOverrun
  repeat' (first
    | with_reducible assumption
    | with_reducible refine State.toTeam_keeps ?_ ..
    | simp only [State.kept_mk, State.kept_eta])

theorem State.beginRun_keeps {a : Kept} {s : State} (h : Keeps a s.kept) : ∀ x1, Keeps a (State.beginRun s x1).kept := by
  intro x1
  unfold State.beginRun
  repeat' (first
    | with_reducible assumption
    | simp only [State.kept_mk, State.kept_eta]
    | dsimp only)

theorem execLaunchCount_keeps {s t : State} : execLaunchCount s = .next t → Keeps s.kept t.kept := by
  intro h
  have h0 := Keeps.refl s.kept
  injection h with h
  subst h
  repeat' (first
    | with_reducible assumption
    | with_reducible refine State.beginRun_keeps ?_ ..
    | with_reducible refine State.sendOverrun_keeps ?_ ..
    | with_reducible refine ite_keeps ?_ ?_
    | simp only [State.kept_mk, State.kept_eta]
    | split
    | dsimp only)

theorem State.askHold_keeps {a : Kept} {s : State} (h : Keeps a s.kept) : ∀ x1, Keeps a (State.askHold s x1).kept := by
  intro x1
  unfold State.askHold
  repeat' (first
    | with_reducible assumption
    | with_reducible refine State.tell_keeps ?_ ..
    | with_reducible refine State.modCnt_keeps ?_ ..
    | with_reducible refine ite_keeps ?_ ?_
    | simp only [State.kept_mk, State.kept_eta]
    | split
    | dsimp only)

theorem State.sendHoldReq_keeps {a : Kept} {s : State} (h : Keeps a s.kept) : Keeps a (State.sendHoldReq s).kept := by
  unfold State.sendHoldReq
  repeat' (first
    | with_reducible assumption
    | with_reducible refine State.toTeam_keeps ?_ ..
    | with_reducible refine ite_keeps ?_ ?_
    | simp only [State.kept_mk, State.kept_eta]
    | split)

theorem execGuardPoint_keeps {s t : State} : execGuardPoint s = .next t → Keeps s.kept t.kept := by
  intro h
  have h0 := Keeps.refl s.kept
  injection h with h
  subst h
  repeat' (first
    | with_reducible assumption
    | with_reducible refine State.askHold_keeps ?_ ..
    | with_reducible refine State.sendHoldReq_keeps ?_ ..
    | with_reducible refine ite_keeps ?_ ?_
    | simp only [State.kept_mk, State.kept_eta]
    | split
    | with_reducible refine foldl_keeps (fun _ _ _ => ?_) ?_
    | dsimp only)

theorem execHoldReq_keeps {s t : State} : ∀ x1 x2, execHoldReq x1 x2 s = .next t → Keeps s.kept t.kept := by
  intro x1 x2 h
  have h0 := Keeps.refl s.kept
  injection h with h
  subst h
  repeat' (first
    | with_reducible assumption
    | with_reducible refine State.teamTakes_keeps ?_ (fun _ _ => ?_) ..
    | with_reducible refine ite_keeps ?_ ?_
    | simp only [State.kept_mk, State.kept_eta]
    | split
    | dsimp only)

theorem State.decide__keeps {a : Kept} {s : State} (h : Keeps a s.kept) : ∀ x1 x2 x3, Keeps a (State.decide_ s x1 x2 x3).kept := by
  intro x1 x2 x3
  unfold State.decide_
  repeat' (first
    | with_reducible assumption
    | with_reducible refine State.toEach_keeps ?_ ..
    | simp only [State.kept_mk, State.kept_eta])

theorem execHoldDecisionCount_keeps {s t : State} : execHoldDecisionCount s = .next t → Keeps s.kept t.kept := by
  intro h
  have h0 := Keeps.refl s.kept
  injection h with h
  subst h
  repeat' (first
    | with_reducible assumption
    | with_reducible refine State.decide__keeps ?_ ..
    | with_reducible refine State.modEvent_keeps ?_ ..
    | with_reducible refine State.benight_keeps ?_ ..
    | with_reducible refine ite_keeps ?_ ?_
    | split
    | dsimp only)

theorem State.applyHold_keeps {a : Kept} {s : State} (h : Keeps a s.kept) : ∀ x1, Keeps a (State.applyHold s x1).kept := by
  intro x1
  unfold State.applyHold
  repeat' (first
    | with_reducible assumption
    | with_reducible refine State.tellTick_keeps ?_ ..
    | with_reducible refine State.tellHold_keeps ?_ ..
    | simp only [State.kept_mk, State.kept_eta]
    | dsimp only)

theorem State.applyDecision_keeps {a : Kept} {s : State} (h : Keeps a s.kept) : ∀ x1, Keeps a (State.applyDecision s x1).kept := by
  intro x1
  unfold State.applyDecision
  repeat' (first
    | with_reducible assumption
    | with_reducible refine State.tellTick_keeps ?_ ..
    | with_reducible refine State.applyHold_keeps ?_ ..
    | with_reducible refine ite_keeps ?_ ?_
    | simp only [State.kept_mk, State.kept_eta]
    | split
    | dsimp only)

theorem execDecision_keeps {s t : State} : ∀ x1 x2, execDecision x1 x2 s = .next t → Keeps s.kept t.kept := by
  intro x1 x2 h
  have h0 := Keeps.refl s.kept
  injection h with h
  subst h
  repeat' (first
    | with_reducible assumption
    | with_reducible refine State.teamTakes_keeps ?_ (fun _ _ => ?_) ..
    | with_reducible refine State.modEvent_keeps ?_ ..
    | with_reducible refine State.applyDecision_keeps ?_ ..
    | with_reducible refine ite_keeps ?_ ?_
    | split
    | dsimp only)

theorem execDecisionMissing_keeps {s t : State} : execDecisionMissing s = .next t → Keeps s.kept t.kept := by
  intro h
  have h0 := Keeps.refl s.kept
  injection h with h
  subst h
  repeat' (first
    | with_reducible assumption
    | with_reducible refine State.modEvent_keeps ?_ ..
    | with_reducible refine State.tellTick_keeps ?_ ..
    | with_reducible refine ite_keeps ?_ ?_
    | simp only [State.kept_mk, State.kept_eta]
    | split)

theorem execOverrunReceived_keeps {s t : State} : ∀ x1 x2, execOverrunReceived x1 x2 s = .next t → Keeps s.kept t.kept := by
  intro x1 x2 h
  have h0 := Keeps.refl s.kept
  injection h with h
  subst h
  repeat' (first
    | with_reducible assumption
    | with_reducible refine State.teamTakes_keeps ?_ (fun _ _ => ?_) ..
    | with_reducible refine State.benight_keeps ?_ ..)

theorem execAbandonCount_keeps {s t : State} : execAbandonCount s = .next t → Keeps s.kept t.kept := by
  intro h
  have h0 := Keeps.refl s.kept
  injection h with h
  subst h
  repeat' (first
    | with_reducible assumption
    | with_reducible refine State.abandonNow_keeps ?_ ..
    | with_reducible refine ite_keeps ?_ ?_
    | simp only [State.kept_mk, State.kept_eta]
    | split)

theorem State.nextPitch_keeps {a : Kept} {s : State} (h : Keeps a s.kept) : Keeps a (State.nextPitch s).kept := by
  unfold State.nextPitch
  repeat' (first
    | with_reducible assumption
    | simp only [State.kept_mk, State.kept_eta]
    | dsimp only)

theorem State.runBoundary_keeps {a : Kept} {s : State} (h : Keeps a s.kept) : Keeps a (State.runBoundary s).kept := by
  unfold State.runBoundary
  repeat' (first
    | with_reducible assumption
    | with_reducible refine State.sendOverrun_keeps ?_ ..
    | with_reducible refine State.autoReset_keeps ?_ ..
    | with_reducible refine State.answerAgain_keeps ?_ ..
    | with_reducible refine State.endRun_keeps ?_ ..
    | with_reducible refine State.nextPitch_keeps ?_ ..
    | with_reducible refine ite_keeps ?_ ?_
    | split
    | dsimp only)

theorem State.idleBoundary_keeps {a : Kept} {s : State} (h : Keeps a s.kept) : Keeps a (State.idleBoundary s).kept := by
  unfold State.idleBoundary
  repeat' (first
    | with_reducible assumption
    | with_reducible refine State.answerAgain_keeps ?_ ..
    | with_reducible refine State.atBoundary_keeps ?_ ..
    | with_reducible refine ite_keeps ?_ ?_
    | simp only [State.kept_mk, State.kept_eta]
    | split)

theorem execPitchBoundary_keeps {s t : State} : execPitchBoundary s = .next t → Keeps s.kept t.kept := by
  intro h
  have h0 := Keeps.refl s.kept
  injection h with h
  subst h
  repeat' (first
    | with_reducible assumption
    | with_reducible refine State.runBoundary_keeps ?_ ..
    | with_reducible refine State.atBoundary_keeps ?_ ..
    | with_reducible refine State.rollMap_keeps ?_ ..
    | with_reducible refine State.idleBoundary_keeps ?_ ..
    | with_reducible refine ite_keeps ?_ ?_
    | split)

theorem State.writeAbandon_keeps {a : Kept} {s : State} (h : Keeps a s.kept) : ∀ x1, Keeps a (State.writeAbandon s x1).kept := by
  intro x1
  unfold State.writeAbandon
  repeat' (first
    | with_reducible assumption
    | with_reducible refine State.benight_keeps ?_ ..
    | with_reducible refine State.refuse_keeps ?_ ..
    | with_reducible refine ite_keeps ?_ ?_
    | split)

theorem execAbandon_keeps {s t : State} : ∀ x1, execAbandon x1 s = .next t → Keeps s.kept t.kept := by
  intro x1 h
  have h0 := Keeps.refl s.kept
  injection h with h
  subst h
  repeat' (first
    | with_reducible assumption
    | with_reducible refine State.guarded_keeps ?_ (fun _ _ => ?_) ..
    | with_reducible refine State.writeAbandon_keeps ?_ ..
    | dsimp only)

theorem State.clearLog_keeps {a : Kept} {s : State} (h : Keeps a s.kept) : Keeps a (State.clearLog s).kept :=
  ⟨h.1, fun k => ⟨(h.2 k).1, Nat.zero_le _, (h.2 k).2.2⟩⟩

theorem execLogClr_keeps {s t : State} : ∀ x1, execLogClr x1 s = .next t → Keeps s.kept t.kept := by
  intro x1 h
  have h0 := Keeps.refl s.kept
  injection h with h
  subst h
  repeat' (first
    | with_reducible assumption
    | with_reducible refine State.guarded_keeps ?_ (fun _ _ => ?_) ..
    | with_reducible refine State.clearLog_keeps ?_ ..)

theorem execMsixHoldExpire_keeps {s t : State} : ∀ x1, execMsixHoldExpire x1 s = .next t → Keeps s.kept t.kept := by
  intro x1 h
  have h0 := Keeps.refl s.kept
  injection h with h
  subst h
  repeat' (first
    | with_reducible assumption
    | with_reducible refine ite_keeps ?_ ?_
    | simp only [State.kept_mk, State.kept_eta]
    | split
    | dsimp only)

theorem State.setLatch_keeps {a : Kept} {s : State} (h : Keeps a s.kept) : ∀ x1 x2 x3, Keeps a (State.setLatch s x1 x2 x3).kept := by
  intro x1 x2 x3
  unfold State.setLatch
  repeat' (first
    | with_reducible assumption
    | simp only [State.kept_mk, State.kept_eta]
    | dsimp only)

theorem State.readWord_keeps {a : Kept} {s : State} (h : Keeps a s.kept) : ∀ x1 x2, Keeps a (State.readWord s x1 x2).2.kept := by
  intro x1 x2
  unfold State.readWord
  repeat' (first
    | with_reducible assumption
    | with_reducible refine State.setLatch_keeps ?_ ..
    | with_reducible refine ite_keeps ?_ ?_
    | simp only [State.kept_mk, State.kept_eta]
    | split)

theorem State.keepLow_keeps {a : Kept} {s : State} (h : Keeps a s.kept) : ∀ x1 x2 x3, Keeps a (State.keepLow s x1 x2 x3).kept := by
  intro x1 x2 x3
  unfold State.keepLow
  repeat' (first
    | with_reducible assumption
    | simp only [State.kept_mk, State.kept_eta]
    | dsimp only)

theorem State.write64_keeps {a : Kept} {s : State} {f : State → W64 → State} (h : Keeps a s.kept) (hf : ∀ t y0, Keeps a t.kept → Keeps a (f t y0).kept) : ∀ x1 x2 x3 x4 x5, Keeps a (State.write64 s x1 x2 x3 x4 x5 f).kept := by
  intro x1 x2 x3 x4 x5
  unfold State.write64
  repeat' (first
    | with_reducible assumption
    | with_reducible refine hf _ _ ?_
    | with_reducible refine State.refuse_keeps ?_ ..
    | with_reducible refine State.keepLow_keeps ?_ ..
    | with_reducible refine ite_keeps ?_ ?_
    | split)

theorem State.classed_keeps {a : Kept} {s : State} {f : State → State} (h : Keeps a s.kept) (hf : ∀ t, Keeps a t.kept → Keeps a (f t).kept) : ∀ x1 x2 x3, Keeps a (State.classed s x1 x2 x3 f).kept := by
  intro x1 x2 x3
  unfold State.classed
  repeat' (first
    | with_reducible assumption
    | with_reducible refine hf _ ?_
    | with_reducible refine State.refuse_keeps ?_ ..
    | with_reducible refine ite_keeps ?_ ?_
    | split)

theorem State.modMbox_keeps {a : Kept} {s : State} (h : Keeps a s.kept) : ∀ x1 x2, Keeps a (State.modMbox s x1 x2).kept := by
  intro x1 x2
  unfold State.modMbox
  repeat' (first
    | with_reducible assumption
    | simp only [State.kept_mk, State.kept_eta])

theorem State.sendSess_keeps {a : Kept} {s : State} (h : Keeps a s.kept) : ∀ x1 x2, Keeps a (State.sendSess s x1 x2).kept := by
  intro x1 x2
  unfold State.sendSess
  repeat' (first
    | with_reducible assumption
    | with_reducible refine State.modMbox_keeps ?_ ..
    | with_reducible refine State.emit_keeps ?_ ..
    | simp only [State.kept_mk, State.kept_eta]
    | split
    | dsimp only)

theorem State.refuseSess_keeps {a : Kept} {s : State} (h : Keeps a s.kept) : ∀ x1 x2 x3, Keeps a (State.refuseSess s x1 x2 x3).kept := by
  intro x1 x2 x3
  unfold State.refuseSess
  repeat' (first
    | with_reducible assumption
    | with_reducible refine State.sendSess_keeps ?_ ..)

theorem State.postMbox_keeps {a : Kept} {s : State} (h : Keeps a s.kept) : ∀ x1 x2 x3, Keeps a (State.postMbox s x1 x2 x3).kept := by
  intro x1 x2 x3
  unfold State.postMbox
  repeat' (first
    | with_reducible assumption
    | with_reducible refine State.refuse_keeps ?_ ..
    | with_reducible refine State.modMbox_keeps ?_ ..
    | with_reducible refine State.refuseSess_keeps ?_ ..
    | with_reducible refine ite_keeps ?_ ?_
    | simp only [State.kept_mk, State.kept_eta]
    | split
    | dsimp only)

theorem State.ackMbox_keeps {a : Kept} {s : State} (h : Keeps a s.kept) : ∀ x1, Keeps a (State.ackMbox s x1).kept := by
  intro x1
  unfold State.ackMbox
  repeat' (first
    | with_reducible assumption
    | with_reducible refine State.modMbox_keeps ?_ ..
    | simp only [State.kept_mk, State.kept_eta]
    | dsimp only)

theorem State.writeMboxCtl_keeps {a : Kept} {s : State} (h : Keeps a s.kept) : ∀ x1 x2 x3, Keeps a (State.writeMboxCtl s x1 x2 x3).kept := by
  intro x1 x2 x3
  unfold State.writeMboxCtl
  repeat' (first
    | with_reducible assumption
    | with_reducible refine State.ackMbox_keeps ?_ ..
    | with_reducible refine State.postMbox_keeps ?_ ..
    | with_reducible refine State.modMbox_keeps ?_ ..
    | with_reducible refine ite_keeps ?_ ?_
    | simp only [State.kept_mk, State.kept_eta]
    | split
    | dsimp only)

theorem State.writeMboxIn_keeps {a : Kept} {s : State} (h : Keeps a s.kept) : ∀ x1 x2 x3 x4, Keeps a (State.writeMboxIn s x1 x2 x3 x4).kept := by
  intro x1 x2 x3 x4
  unfold State.writeMboxIn
  repeat' (first
    | with_reducible assumption
    | with_reducible refine State.refuse_keeps ?_ ..
    | with_reducible refine State.modMbox_keeps ?_ ..
    | with_reducible refine ite_keeps ?_ ?_
    | simp only [State.kept_mk, State.kept_eta]
    | split
    | dsimp only)

theorem execMboxPost_keeps {s t : State} : ∀ x1 x2, execMboxPost x1 x2 s = .next t → Keeps s.kept t.kept := by
  intro x1 x2 h
  have h0 := Keeps.refl s.kept
  injection h with h
  subst h
  repeat' (first
    | with_reducible assumption
    | with_reducible refine State.postMbox_keeps ?_ ..
    | with_reducible refine ite_keeps ?_ ?_
    | split)

theorem execMboxOutAck_keeps {s t : State} : ∀ x1, execMboxOutAck x1 s = .next t → Keeps s.kept t.kept := by
  intro x1 h
  have h0 := Keeps.refl s.kept
  injection h with h
  subst h
  repeat' (first
    | with_reducible assumption
    | with_reducible refine State.ackMbox_keeps ?_ ..
    | with_reducible refine ite_keeps ?_ ?_
    | split)

theorem execMboxOutReady_keeps {s t : State} : ∀ x1, execMboxOutReady x1 s = .next t → Keeps s.kept t.kept := by
  intro x1 h
  have h0 := Keeps.refl s.kept
  injection h with h
  subst h
  repeat' (first
    | with_reducible assumption
    | with_reducible refine State.modMbox_keeps ?_ ..
    | with_reducible refine State.emit_keeps ?_ ..
    | with_reducible refine ite_keeps ?_ ?_
    | simp only [State.kept_mk, State.kept_eta]
    | split
    | dsimp only)

theorem State.writeGlb_keeps {a : Kept} {s : State} (h : Keeps a s.kept) : ∀ x1 x2 x3, Keeps a (State.writeGlb s x1 x2 x3).kept := by
  intro x1 x2 x3
  unfold State.writeGlb
  repeat' (first
    | with_reducible assumption
    | with_reducible refine State.write64_keeps ?_ (fun _ _ _ => ?_) ..
    | with_reducible refine State.modSlot_keeps ?_ ..
    | with_reducible refine State.classed_keeps ?_ (fun _ _ => ?_) ..
    | with_reducible refine State.moduleReset_keeps ?_ ..
    | with_reducible refine State.wardenReset_keeps ?_ ..
    | with_reducible refine State.answerAgain_keeps ?_ ..
    | with_reducible refine State.disarmSlot_keeps ?_ ..
    | with_reducible refine State.armSlot_keeps ?_ ..
    | with_reducible refine State.refuse_keeps ?_ ..
    | with_reducible refine State.writeMboxCtl_keeps ?_ ..
    | with_reducible refine State.writeMboxIn_keeps ?_ ..
    | with_reducible refine ite_keeps ?_ ?_
    | simp only [State.kept_mk, State.kept_eta]
    | split
    | dsimp only)

theorem State.writeShadow_keeps {a : Kept} {s : State} (h : Keeps a s.kept) : ∀ x1 x2 x3 x4, Keeps a (State.writeShadow s x1 x2 x3 x4).kept := by
  intro x1 x2 x3 x4
  unfold State.writeShadow
  repeat' (first
    | with_reducible assumption
    | with_reducible refine State.classed_keeps ?_ (fun _ _ => ?_) ..
    | simp only [State.kept_mk, State.kept_eta]
    | dsimp only)

theorem State.writePit_keeps {a : Kept} {s : State} (h : Keeps a s.kept) : ∀ x1 x2 x3, Keeps a (State.writePit s x1 x2 x3).kept := by
  intro x1 x2 x3
  unfold State.writePit
  repeat' (first
    | with_reducible assumption
    | with_reducible refine State.write64_keeps ?_ (fun _ _ _ => ?_) ..
    | with_reducible refine State.classed_keeps ?_ (fun _ _ => ?_) ..
    | with_reducible refine State.writeGo_keeps ?_ ..
    | with_reducible refine State.refuse_keeps ?_ ..
    | with_reducible refine ite_keeps ?_ ?_
    | simp only [State.kept_mk, State.kept_eta]
    | split
    | dsimp only)

theorem State.setView_keeps {a : Kept} {s : State} (h : Keeps a s.kept) : ∀ x1 x2, Keeps a (State.setView s x1 x2).kept := by
  intro x1 x2
  unfold State.setView
  repeat' (first
    | with_reducible assumption
    | with_reducible refine ite_keeps ?_ ?_
    | simp only [State.kept_mk, State.kept_eta]
    | split
    | dsimp only)

theorem State.writeCfg_keeps {a : Kept} {s : State} (h : Keeps a s.kept) : ∀ x1 x2 x3, Keeps a (State.writeCfg s x1 x2 x3).kept := by
  intro x1 x2 x3
  unfold State.writeCfg
  repeat' (first
    | with_reducible assumption
    | with_reducible refine State.setView_keeps ?_ ..
    | with_reducible refine State.classed_keeps ?_ (fun _ _ => ?_) ..
    | with_reducible refine State.startLoad_keeps ?_ ..
    | with_reducible refine State.cancelSwap_keeps ?_ ..
    | with_reducible refine State.armSwap_keeps ?_ ..
    | with_reducible refine State.write64_keeps ?_ (fun _ _ _ => ?_) ..
    | with_reducible refine State.refuse_keeps ?_ ..
    | with_reducible refine ite_keeps ?_ ?_
    | simp only [State.kept_mk, State.kept_eta]
    | split
    | dsimp only)

theorem State.writePwr_keeps {a : Kept} {s : State} (h : Keeps a s.kept) : ∀ x1 x2 x3, Keeps a (State.writePwr s x1 x2 x3).kept := by
  intro x1 x2 x3
  unfold State.writePwr
  repeat' (first
    | with_reducible assumption
    | with_reducible refine State.classed_keeps ?_ (fun _ _ => ?_) ..
    | with_reducible refine State.requestDom_keeps ?_ ..
    | with_reducible refine State.refuse_keeps ?_ ..
    | with_reducible refine ite_keeps ?_ ?_
    | split
    | dsimp only)

theorem State.writeLnkCtl_keeps {a : Kept} {s : State} (h : Keeps a s.kept) : ∀ x1 x2, Keeps a (State.writeLnkCtl s x1 x2).kept := by
  intro x1 x2
  unfold State.writeLnkCtl
  repeat' (first
    | with_reducible assumption
    | with_reducible refine State.retrainWarm_keeps ?_ ..
    | with_reducible refine State.wake_keeps ?_ ..
    | with_reducible refine State.writeDis_keeps ?_ ..
    | with_reducible refine State.quarClear_keeps ?_ ..
    | with_reducible refine ite_keeps ?_ ?_
    | split
    | with_reducible refine foldl_keeps (fun _ _ _ => ?_) ?_
    | dsimp only)

theorem State.writeLnk_keeps {a : Kept} {s : State} (h : Keeps a s.kept) : ∀ x1 x2 x3, Keeps a (State.writeLnk s x1 x2 x3).kept := by
  intro x1 x2 x3
  unfold State.writeLnk
  repeat' (first
    | with_reducible assumption
    | with_reducible refine State.refuse_keeps ?_ ..
    | with_reducible refine State.classed_keeps ?_ (fun _ _ => ?_) ..
    | with_reducible refine State.writeLnkCtl_keeps ?_ ..
    | with_reducible refine State.modGroup_keeps ?_ ..
    | with_reducible refine State.setLoop_keeps ?_ ..
    | with_reducible refine ite_keeps ?_ ?_
    | simp only [State.kept_mk, State.kept_eta]
    | split
    | dsimp only)

theorem State.writeFab_keeps {a : Kept} {s : State} (h : Keeps a s.kept) : ∀ x1 x2 x3, Keeps a (State.writeFab s x1 x2 x3).kept := by
  intro x1 x2 x3
  unfold State.writeFab
  repeat' (first
    | with_reducible assumption
    | with_reducible refine State.classed_keeps ?_ (fun _ _ => ?_) ..
    | with_reducible refine State.revoke_keeps ?_ ..
    | with_reducible refine State.refuse_keeps ?_ ..
    | with_reducible refine ite_keeps ?_ ?_
    | simp only [State.kept_mk, State.kept_eta]
    | split
    | dsimp only)

theorem State.writeInt_keeps {a : Kept} {s : State} (h : Keeps a s.kept) : ∀ x1 x2 x3, Keeps a (State.writeInt s x1 x2 x3).kept := by
  intro x1 x2 x3
  unfold State.writeInt
  repeat' (first
    | with_reducible assumption
    | with_reducible refine State.classed_keeps ?_ (fun _ _ => ?_) ..
    | with_reducible refine State.write64_keeps ?_ (fun _ _ _ => ?_) ..
    | with_reducible refine State.answerAgain_keeps ?_ ..
    | with_reducible refine State.refuse_keeps ?_ ..
    | with_reducible refine ite_keeps ?_ ?_
    | simp only [State.kept_mk, State.kept_eta]
    | split
    | dsimp only)

theorem State.setHostBase_keeps {a : Kept} {s : State} (h : Keeps a s.kept) : ∀ x1 x2, Keeps a (State.setHostBase s x1 x2).kept := by
  intro x1 x2
  unfold State.setHostBase
  repeat' (first
    | with_reducible assumption
    | simp only [State.kept_mk, State.kept_eta]
    | dsimp only)

theorem State.setHostSize_keeps {a : Kept} {s : State} (h : Keeps a s.kept) : ∀ x1 x2, Keeps a (State.setHostSize s x1 x2).kept := by
  intro x1 x2
  unfold State.setHostSize
  repeat' (first
    | with_reducible assumption
    | simp only [State.kept_mk, State.kept_eta]
    | dsimp only)

theorem State.writeHostReg_keeps {a : Kept} {s : State} (h : Keeps a s.kept) : ∀ x1 x2 x3 x4, Keeps a (State.writeHostReg s x1 x2 x3 x4).kept := by
  intro x1 x2 x3 x4
  unfold State.writeHostReg
  repeat' (first
    | with_reducible assumption
    | with_reducible refine State.write64_keeps ?_ (fun _ _ _ => ?_) ..
    | with_reducible refine State.setHostBase_keeps ?_ ..
    | with_reducible refine State.setHostSize_keeps ?_ ..
    | with_reducible refine ite_keeps ?_ ?_
    | split
    | dsimp only)

theorem State.writeMem_keeps {a : Kept} {s : State} (h : Keeps a s.kept) : ∀ x1 x2 x3, Keeps a (State.writeMem s x1 x2 x3).kept := by
  intro x1 x2 x3
  unfold State.writeMem
  repeat' (first
    | with_reducible assumption
    | with_reducible refine State.writeHostReg_keeps ?_ ..
    | with_reducible refine State.classed_keeps ?_ (fun _ _ => ?_) ..
    | with_reducible refine State.refuse_keeps ?_ ..
    | with_reducible refine ite_keeps ?_ ?_
    | simp only [State.kept_mk, State.kept_eta]
    | split
    | dsimp only)

theorem State.writeFlt_keeps {a : Kept} {s : State} (h : Keeps a s.kept) : ∀ x1 x2 x3, Keeps a (State.writeFlt s x1 x2 x3).kept := by
  intro x1 x2 x3
  unfold State.writeFlt
  repeat' (first
    | with_reducible assumption
    | with_reducible refine State.classed_keeps ?_ (fun _ _ => ?_) ..
    | with_reducible refine State.clearLog_keeps ?_ ..
    | with_reducible refine State.writeAbandon_keeps ?_ ..
    | with_reducible refine State.refuse_keeps ?_ ..
    | with_reducible refine ite_keeps ?_ ?_
    | simp only [State.kept_mk, State.kept_eta]
    | split
    | dsimp only)

theorem State.writeRtc_keeps {a : Kept} {s : State} (h : Keeps a s.kept) : ∀ x1 x2 x3, Keeps a (State.writeRtc s x1 x2 x3).kept := by
  intro x1 x2 x3
  unfold State.writeRtc
  repeat' (first
    | with_reducible assumption
    | with_reducible refine State.write64_keeps ?_ (fun _ _ _ => ?_) ..
    | with_reducible refine State.setRtc_keeps ?_ ..
    | with_reducible refine State.refuse_keeps ?_ ..
    | with_reducible refine ite_keeps ?_ ?_
    | split)

theorem State.fieldRefuse_keeps {a : Kept} {s : State} (h : Keeps a s.kept) : ∀ x1 x2 x3 x4, Keeps a (State.fieldRefuse s x1 x2 x3 x4).kept := by
  intro x1 x2 x3 x4
  unfold State.fieldRefuse
  repeat' (first
    | with_reducible assumption
    | with_reducible refine State.refuse_keeps ?_ ..
    | with_reducible refine ite_keeps ?_ ?_
    | split)

theorem State.fieldTake_keeps {a : Kept} {s : State} (h : Keeps a s.kept) : ∀ x1 x2 x3, Keeps a (State.fieldTake s x1 x2 x3).kept := by
  intro x1 x2 x3
  unfold State.fieldTake
  repeat' (first
    | with_reducible assumption
    | with_reducible refine State.modField_keeps ?_ ..
    | with_reducible refine State.modCore_keeps ?_ ..
    | with_reducible refine ite_keeps ?_ ?_
    | simp only [State.kept_mk, State.kept_eta]
    | split
    | dsimp only)

theorem State.writeField_keeps {a : Kept} {s : State} (h : Keeps a s.kept) : ∀ x1 x2 x3 x4, Keeps a (State.writeField s x1 x2 x3 x4).kept := by
  intro x1 x2 x3 x4
  unfold State.writeField
  repeat' (first
    | with_reducible assumption
    | with_reducible refine State.fieldTake_keeps ?_ ..
    | with_reducible refine State.fieldRefuse_keeps ?_ ..
    | with_reducible refine ite_keeps ?_ ?_
    | split)

theorem State.writeBlock_keeps {a : Kept} {s : State} (h : Keeps a s.kept) : ∀ x1 x2 x3, Keeps a (State.writeBlock s x1 x2 x3).kept := by
  intro x1 x2 x3
  unfold State.writeBlock
  repeat' (first
    | with_reducible assumption
    | with_reducible refine State.writeShadow_keeps ?_ ..
    | with_reducible refine State.writeGlb_keeps ?_ ..
    | with_reducible refine State.writePit_keeps ?_ ..
    | with_reducible refine State.writeCfg_keeps ?_ ..
    | with_reducible refine State.writeRtc_keeps ?_ ..
    | with_reducible refine State.writePwr_keeps ?_ ..
    | with_reducible refine State.writeLnk_keeps ?_ ..
    | with_reducible refine State.writeFab_keeps ?_ ..
    | with_reducible refine State.writeInt_keeps ?_ ..
    | with_reducible refine State.writeMem_keeps ?_ ..
    | with_reducible refine State.writeFlt_keeps ?_ ..
    | with_reducible refine State.refuse_keeps ?_ ..
    | simp only [State.kept_mk, State.kept_eta]
    | split)

theorem State.sendField_keeps {a : Kept} {s : State} (h : Keeps a s.kept) : ∀ x1 x2 x3, Keeps a (State.sendField s x1 x2 x3).kept := by
  intro x1 x2 x3
  unfold State.sendField
  repeat' (first
    | with_reducible assumption
    | with_reducible refine State.tell_keeps ?_ ..
    | with_reducible refine State.fieldRefuse_keeps ?_ ..
    | with_reducible refine ite_keeps ?_ ?_
    | split
    | dsimp only)

theorem State.writeWord_keeps {a : Kept} {s : State} (h : Keeps a s.kept) : ∀ x1 x2 x3 x4, Keeps a (State.writeWord s x1 x2 x3 x4).kept := by
  intro x1 x2 x3 x4
  unfold State.writeWord
  repeat' (first
    | with_reducible assumption
    | with_reducible refine State.refuse_keeps ?_ ..
    | with_reducible refine State.writeField_keeps ?_ ..
    | with_reducible refine State.sendField_keeps ?_ ..
    | with_reducible refine State.writeBlock_keeps ?_ ..
    | with_reducible refine ite_keeps ?_ ?_
    | split)

theorem execCsrWrite_keeps {s t : State} : ∀ x1 x2 x3, execCsrWrite x1 x2 x3 s = .next t → Keeps s.kept t.kept := by
  intro x1 x2 x3 h
  have h0 := Keeps.refl s.kept
  injection h with h
  subst h
  repeat' (first
    | with_reducible assumption
    | with_reducible refine State.writeWord_keeps ?_ ..
    | with_reducible refine ite_keeps ?_ ?_
    | split)

theorem execCsrReadLowLatch_keeps {s t : State} : ∀ x1 x2, execCsrReadLowLatch x1 x2 s = .next t → Keeps s.kept t.kept := by
  intro x1 x2 h
  have h0 := Keeps.refl s.kept
  injection h with h
  subst h
  repeat' (first
    | with_reducible assumption
    | with_reducible refine State.emit_keeps ?_ ..
    | with_reducible refine State.tell_keeps ?_ ..
    | with_reducible refine State.readWord_keeps ?_ ..
    | with_reducible refine ite_keeps ?_ ?_
    | split
    | dsimp only)

theorem State.setNodeBound_keeps {a : Kept} {s : State} (h : Keeps a s.kept) : ∀ x1 x2, Keeps a (State.setNodeBound s x1 x2).kept := by
  intro x1 x2
  unfold State.setNodeBound
  repeat' (first
    | with_reducible assumption
    | with_reducible refine State.modCore_keeps ?_ ..
    | with_reducible refine State.modField_keeps ?_ ..
    | with_reducible refine ite_keeps ?_ ?_
    | simp only [State.kept_mk, State.kept_eta]
    | split
    | with_reducible refine foldl_keeps (fun _ _ _ => ?_) ?_
    | dsimp only)

theorem State.tickClash_keeps {a : Kept} {s : State} (h : Keeps a s.kept) : ∀ x1, Keeps a (State.tickClash s x1).kept := by
  intro x1
  unfold State.tickClash
  repeat' (first
    | with_reducible assumption
    | with_reducible refine State.logEvent_keeps ?_ ..
    | with_reducible refine State.autoReset_keeps ?_ ..
    | with_reducible refine State.autoCause_keeps ?_ ..
    | with_reducible refine ite_keeps ?_ ?_
    | simp only [State.kept_mk, State.kept_eta]
    | split
    | dsimp only)

theorem execCtlTick_keeps {s t : State} : ∀ x1 x2, execCtlTick x1 x2 s = .next t → Keeps s.kept t.kept := by
  intro x1 x2 h
  have h0 := Keeps.refl s.kept
  injection h with h
  subst h
  repeat' (first
    | with_reducible assumption
    | with_reducible refine State.ctlArrive_keeps ?_ (fun _ _ => ?_) ..
    | with_reducible refine State.setNodeBound_keeps ?_ ..
    | with_reducible refine State.tickClash_keeps ?_ ..
    | with_reducible refine ite_keeps ?_ ?_
    | split
    | dsimp only)

theorem State.syncNode_keeps {a : Kept} {s : State} (h : Keeps a s.kept) : ∀ x1 x2, Keeps a (State.syncNode s x1 x2).kept := by
  intro x1 x2
  unfold State.syncNode
  repeat' (first
    | with_reducible assumption
    | with_reducible refine State.modField_keeps ?_ ..
    | simp only [State.kept_mk, State.kept_eta]
    | split
    | dsimp only)

theorem execCtlGcntSync_keeps {s t : State} : ∀ x1, execCtlGcntSync x1 s = .next t → Keeps s.kept t.kept := by
  intro x1 h
  have h0 := Keeps.refl s.kept
  injection h with h
  subst h
  repeat' (first
    | with_reducible assumption
    | with_reducible refine State.syncNode_keeps ?_ ..
    | with_reducible refine State.ctlFlow_keeps ?_ ..
    | with_reducible refine foldl_keeps (fun _ _ _ => ?_) ?_
    | dsimp only)

theorem execCtlHoldRequest_keeps {s t : State} : ∀ x1, execCtlHoldRequest x1 s = .next t → Keeps s.kept t.kept := by
  intro x1 h
  have h0 := Keeps.refl s.kept
  injection h with h
  subst h
  repeat' (first
    | with_reducible assumption
    | with_reducible refine State.ctlArrive_keeps ?_ (fun _ _ => ?_) ..
    | with_reducible refine State.sendHoldReq_keeps ?_ ..
    | with_reducible refine ite_keeps ?_ ?_
    | split
    | dsimp only)

theorem execCtlHoldGrant_keeps {s t : State} : ∀ x1 x2, execCtlHoldGrant x1 x2 s = .next t → Keeps s.kept t.kept := by
  intro x1 x2 h
  have h0 := Keeps.refl s.kept
  injection h with h
  subst h
  repeat' (first
    | with_reducible assumption
    | with_reducible refine State.ctlArrive_keeps ?_ (fun _ _ => ?_) ..
    | with_reducible refine State.setNodeBound_keeps ?_ ..
    | dsimp only)

theorem execBarrierArrival_keeps {s t : State} : ∀ x1 x2, execBarrierArrival x1 x2 s = .next t → Keeps s.kept t.kept := by
  intro x1 x2 h
  have h0 := Keeps.refl s.kept
  injection h with h
  subst h
  repeat' (first
    | with_reducible assumption
    | with_reducible refine State.ctlArrive_keeps ?_ (fun _ _ => ?_) ..
    | with_reducible refine State.tellAll_keeps ?_ ..
    | with_reducible refine ite_keeps ?_ ?_
    | simp only [State.kept_mk, State.kept_eta]
    | split
    | dsimp only)

theorem execBarrierRelease_keeps {s t : State} : ∀ x1 x2, execBarrierRelease x1 x2 s = .next t → Keeps s.kept t.kept := by
  intro x1 x2 h
  have h0 := Keeps.refl s.kept
  injection h with h
  subst h
  repeat' (first
    | with_reducible assumption
    | with_reducible refine State.ctlArrive_keeps ?_ (fun _ _ => ?_) ..
    | with_reducible refine State.modCore_keeps ?_ ..
    | simp only [State.kept_mk, State.kept_eta]
    | with_reducible refine foldl_keeps (fun _ _ _ => ?_) ?_
    | dsimp only)

theorem execCtlCreditGrant_keeps {s t : State} : ∀ x1 x2 x3, execCtlCreditGrant x1 x2 x3 s = .next t → Keeps s.kept t.kept := by
  intro x1 x2 x3 h
  have h0 := Keeps.refl s.kept
  injection h with h
  subst h
  repeat' (first
    | with_reducible assumption
    | with_reducible refine State.ctlArrive_keeps ?_ (fun _ _ => ?_) ..
    | with_reducible refine State.modCtx_keeps ?_ ..
    | with_reducible refine State.modField_keeps ?_ ..
    | with_reducible refine ite_keeps ?_ ?_
    | simp only [State.kept_mk, State.kept_eta]
    | split
    | dsimp only)

theorem execCtlFaultEvent_keeps {s t : State} : ∀ x1, execCtlFaultEvent x1 s = .next t → Keeps s.kept t.kept := by
  intro x1 h
  have h0 := Keeps.refl s.kept
  injection h with h
  subst h
  repeat' (first
    | with_reducible assumption
    | with_reducible refine State.logCode_keeps ?_ ..
    | with_reducible refine State.service_keeps ?_ ..
    | with_reducible refine State.faultRun_keeps ?_ ..
    | with_reducible refine State.autoReset_keeps ?_ ..
    | with_reducible refine State.autoCause_keeps ?_ ..
    | with_reducible refine ite_keeps ?_ ?_
    | simp only [State.kept_mk, State.kept_eta]
    | split
    | dsimp only)

theorem execCtlConfigWrite_keeps {s t : State} : ∀ x1 x2 x3 x4, execCtlConfigWrite x1 x2 x3 x4 s = .next t → Keeps s.kept t.kept := by
  intro x1 x2 x3 x4 h
  have h0 := Keeps.refl s.kept
  injection h with h
  subst h
  repeat' (first
    | with_reducible assumption
    | with_reducible refine State.ctlArrive_keeps ?_ (fun _ _ => ?_) ..
    | with_reducible refine State.writeField_keeps ?_ ..
    | dsimp only)

theorem execCtlConfigRead_keeps {s t : State} : ∀ x1 x2 x3, execCtlConfigRead x1 x2 x3 s = .next t → Keeps s.kept t.kept := by
  intro x1 x2 x3 h
  have h0 := Keeps.refl s.kept
  injection h with h
  subst h
  repeat' (first
    | with_reducible assumption
    | with_reducible refine State.ctlArrive_keeps ?_ (fun _ _ => ?_) ..
    | with_reducible refine State.readWord_keeps ?_ ..
    | with_reducible refine State.tell_keeps ?_ ..
    | dsimp only)

theorem execCtlReadResponse_keeps {s t : State} : ∀ x1 x2 x3 x4, execCtlReadResponse x1 x2 x3 x4 s = .next t → Keeps s.kept t.kept := by
  intro x1 x2 x3 x4 h
  have h0 := Keeps.refl s.kept
  injection h with h
  subst h
  repeat' (first
    | with_reducible assumption
    | with_reducible refine State.ctlArrive_keeps ?_ (fun _ _ => ?_) ..
    | with_reducible refine State.emit_keeps ?_ ..
    | dsimp only)

theorem execCtlFence_keeps {s t : State} : ∀ x1 x2 x3, execCtlFence x1 x2 x3 s = .next t → Keeps s.kept t.kept := by
  intro x1 x2 x3 h
  have h0 := Keeps.refl s.kept
  injection h with h
  subst h
  repeat' (first
    | with_reducible assumption
    | with_reducible refine State.ctlArrive_keeps ?_ (fun _ _ => ?_) ..
    | with_reducible refine State.modField_keeps ?_ ..
    | with_reducible refine ite_keeps ?_ ?_
    | simp only [State.kept_mk, State.kept_eta]
    | split
    | dsimp only)

theorem State.reroute_keeps {a : Kept} {s : State} (h : Keeps a s.kept) : ∀ x1, Keeps a (State.reroute s x1).kept := by
  intro x1
  unfold State.reroute
  repeat' (first
    | with_reducible assumption
    | with_reducible refine State.ctlUndelivered_keeps ?_ ..
    | with_reducible refine ite_keeps ?_ ?_
    | simp only [State.kept_mk, State.kept_eta]
    | split
    | dsimp only)

theorem execCtlParityFail_keeps {s t : State} : ∀ x1 x2 x3, execCtlParityFail x1 x2 x3 s = .next t → Keeps s.kept t.kept := by
  intro x1 x2 x3 h
  have h0 := Keeps.refl s.kept
  injection h with h
  subst h
  repeat' (first
    | with_reducible assumption
    | with_reducible refine State.modField_keeps ?_ ..
    | with_reducible refine State.logEvent_keeps ?_ ..
    | with_reducible refine State.autoReset_keeps ?_ ..
    | with_reducible refine State.reroute_keeps ?_ ..
    | with_reducible refine ite_keeps ?_ ?_
    | simp only [State.kept_mk, State.kept_eta]
    | split
    | with_reducible refine foldl_keeps (fun _ _ _ => ?_) ?_
    | dsimp only)

theorem State.retireOver_keeps {a : Kept} {s : State} (h : Keeps a s.kept) : ∀ x1 x2, Keeps a (State.retireOver s x1 x2).kept := by
  intro x1 x2
  unfold State.retireOver
  repeat' (first
    | with_reducible assumption
    | with_reducible refine ite_keeps ?_ ?_
    | simp only [State.kept_mk, State.kept_eta]
    | split
    | dsimp only)

theorem State.writePart_keeps {a : Kept} {s : State} (h : Keeps a s.kept) : ∀ x1 x2 x3 x4 x5 x6, Keeps a (State.writePart s x1 x2 x3 x4 x5 x6).kept := by
  intro x1 x2 x3 x4 x5 x6
  unfold State.writePart
  repeat' (first
    | with_reducible assumption
    | with_reducible refine State.landWrite_keeps ?_ ..
    | with_reducible refine State.retireOver_keeps ?_ ..
    | with_reducible refine State.refusedEvent_keeps ?_ ..
    | with_reducible refine State.landMiss_keeps ?_ ..
    | simp only [State.kept_mk, State.kept_eta]
    | split)

theorem State.mcastPart_keeps {a : Kept} {s : State} (h : Keeps a s.kept) : ∀ x1 x2 x3 x4 x5 x6 x7 x8 x9, Keeps a (State.mcastPart s x1 x2 x3 x4 x5 x6 x7 x8 x9).kept := by
  intro x1 x2 x3 x4 x5 x6 x7 x8 x9
  unfold State.mcastPart
  repeat' (first
    | with_reducible assumption
    | with_reducible refine State.mcastOut_keeps ?_ ..
    | with_reducible refine ite_keeps ?_ ?_
    | split
    | with_reducible refine foldl_keeps (fun _ _ _ => ?_) ?_
    | dsimp only)

theorem State.sendPart_keeps {a : Kept} {s : State} (h : Keeps a s.kept) : ∀ x1 x2 x3 x4 x5 x6 x7 x8, Keeps a (State.sendPart s x1 x2 x3 x4 x5 x6 x7 x8).kept := by
  intro x1 x2 x3 x4 x5 x6 x7 x8
  unfold State.sendPart
  repeat' (first
    | with_reducible assumption
    | with_reducible refine State.digestRun_keeps ?_ ..
    | with_reducible refine State.mcastPart_keeps ?_ ..
    | with_reducible refine State.writePart_keeps ?_ ..
    | with_reducible refine ite_keeps ?_ ?_
    | split
    | dsimp only)

theorem State.sendCodec_keeps {a : Kept} {s : State} (h : Keeps a s.kept) : ∀ x1 x2 x3 x4 x5 x6, Keeps a (State.sendCodec s x1 x2 x3 x4 x5 x6).kept := by
  intro x1 x2 x3 x4 x5 x6
  unfold State.sendCodec
  repeat' (first
    | with_reducible assumption
    | with_reducible refine State.countTrans_keeps ?_ ..
    | with_reducible refine State.digestStream_keeps ?_ ..
    | with_reducible refine State.mcastPart_keeps ?_ ..
    | with_reducible refine State.writePart_keeps ?_ ..
    | with_reducible refine ite_keeps ?_ ?_
    | simp only [State.kept_mk, State.kept_eta]
    | split
    | with_reducible refine foldl_keeps (fun _ _ _ => ?_) ?_
    | dsimp only)

theorem State.creditSeg_keeps {a : Kept} {s : State} (h : Keeps a s.kept) : ∀ x1 x2 x3 x4, Keeps a (State.creditSeg s x1 x2 x3 x4).kept := by
  intro x1 x2 x3 x4
  unfold State.creditSeg
  repeat' (first
    | with_reducible assumption
    | with_reducible refine State.modCore_keeps ?_ ..
    | with_reducible refine ite_keeps ?_ ?_
    | simp only [State.kept_mk, State.kept_eta]
    | split
    | dsimp only)

theorem State.keepPart_keeps {a : Kept} {s : State} (h : Keeps a s.kept) : ∀ x1 x2 x3 x4, Keeps a (State.keepPart s x1 x2 x3 x4).kept := by
  intro x1 x2 x3 x4
  unfold State.keepPart
  repeat' (first
    | with_reducible assumption
    | with_reducible refine State.modTask_keeps ?_ ..
    | simp only [State.kept_mk, State.kept_eta]
    | dsimp only)

theorem State.codecPart_keeps {a : Kept} {s : State} (h : Keeps a s.kept) : ∀ x1 x2 x3 x4 x5, Keeps a (State.codecPart s x1 x2 x3 x4 x5).kept := by
  intro x1 x2 x3 x4 x5
  unfold State.codecPart
  repeat' (first
    | with_reducible assumption
    | with_reducible refine State.sendCodec_keeps ?_ ..
    | with_reducible refine ite_keeps ?_ ?_
    | simp only [State.kept_mk, State.kept_eta]
    | split
    | dsimp only)

theorem State.partAgain_keeps {a : Kept} {s : State} (h : Keeps a s.kept) : ∀ x1 x2 x3 x4 x5 x6 x7 x8, Keeps a (State.partAgain s x1 x2 x3 x4 x5 x6 x7 x8).kept := by
  intro x1 x2 x3 x4 x5 x6 x7 x8
  unfold State.partAgain
  repeat' (first
    | with_reducible assumption
    | with_reducible refine State.modTask_keeps ?_ ..
    | with_reducible refine State.sendPart_keeps ?_ ..
    | with_reducible refine State.sendCodec_keeps ?_ ..
    | with_reducible refine ite_keeps ?_ ?_
    | simp only [State.kept_mk, State.kept_eta]
    | split
    | dsimp only)

theorem State.landPart_keeps {a : Kept} {s : State} (h : Keeps a s.kept) : ∀ x1 x2 x3 x4 x5 x6 x7 x8, Keeps a (State.landPart s x1 x2 x3 x4 x5 x6 x7 x8).kept := by
  intro x1 x2 x3 x4 x5 x6 x7 x8
  unfold State.landPart
  repeat' (first
    | with_reducible assumption
    | with_reducible refine State.partAgain_keeps ?_ ..
    | with_reducible refine State.creditSeg_keeps ?_ ..
    | with_reducible refine State.sendPart_keeps ?_ ..
    | with_reducible refine State.codecPart_keeps ?_ ..
    | with_reducible refine State.keepPart_keeps ?_ ..
    | with_reducible refine ite_keeps ?_ ?_
    | split)

theorem State.landParts_keeps {a : Kept} {s : State} (h : Keeps a s.kept) : ∀ x1 x2 x3 x4 x5 x6 x7 x8, Keeps a (State.landParts s x1 x2 x3 x4 x5 x6 x7 x8).kept := by
  intro x1 x2 x3 x4 x5 x6 x7 x8
  unfold State.landParts
  repeat' (first
    | with_reducible assumption
    | with_reducible refine State.countParked_keeps ?_ ..
    | with_reducible refine State.landPart_keeps ?_ ..
    | with_reducible refine ite_keeps ?_ ?_
    | simp only [State.kept_mk, State.kept_eta]
    | split
    | with_reducible refine foldl_keeps (fun _ _ _ => ?_) ?_
    | dsimp only)

theorem State.landFolio_keeps {a : Kept} {s : State} (h : Keeps a s.kept) : ∀ x1 x2 x3 x4 x5 x6, Keeps a (State.landFolio s x1 x2 x3 x4 x5 x6).kept := by
  intro x1 x2 x3 x4 x5 x6
  unfold State.landFolio
  repeat' (first
    | with_reducible assumption
    | with_reducible refine State.landParts_keeps ?_ ..
    | simp only [State.kept_mk, State.kept_eta]
    | split)

theorem State.landKept_keeps {a : Kept} {s : State} (h : Keeps a s.kept) : ∀ x1 x2 x3 x4, Keeps a (State.landKept s x1 x2 x3 x4).kept := by
  intro x1 x2 x3 x4
  unfold State.landKept
  repeat' (first
    | with_reducible assumption
    | with_reducible refine State.modTask_keeps ?_ ..
    | with_reducible refine State.landParts_keeps ?_ ..
    | simp only [State.kept_mk, State.kept_eta]
    | split
    | with_reducible refine foldl_keeps (fun _ _ _ => ?_) ?_
    | dsimp only)

theorem State.issueWant_keeps {a : Kept} {s : State} (h : Keeps a s.kept) : ∀ x1 x2 x3 x4, Keeps a (State.issueWant s x1 x2 x3 x4).kept := by
  intro x1 x2 x3 x4
  unfold State.issueWant
  repeat' (first
    | with_reducible assumption
    | with_reducible refine State.modCtx_keeps ?_ ..
    | with_reducible refine State.sendLink_keeps ?_ ..
    | with_reducible refine ite_keeps ?_ ?_
    | simp only [State.kept_mk, State.kept_eta]
    | split
    | dsimp only)

theorem execArchiveRequestIssue_keeps {s t : State} : ∀ x1 x2, execArchiveRequestIssue x1 x2 s = .next t → Keeps s.kept t.kept := by
  intro x1 x2 h
  have h0 := Keeps.refl s.kept
  injection h with h
  subst h
  repeat' (first
    | with_reducible assumption
    | with_reducible refine State.issueWant_keeps ?_ ..
    | simp only [State.kept_mk, State.kept_eta]
    | split
    | dsimp only)

theorem State.record_keeps {a : Kept} {s : State} {f : State → ArchReq → ShardEntry → State} (h : Keeps a s.kept) (hf : ∀ t y0 y1, Keeps a t.kept → Keeps a (f t y0 y1).kept) : ∀ x1 x2 x3 x4, Keeps a (State.record s x1 x2 x3 x4 f).kept := by
  intro x1 x2 x3 x4
  unfold State.record
  repeat' (first
    | with_reducible assumption
    | with_reducible refine hf _ _ _ ?_
    | with_reducible refine State.received_keeps ?_ (fun _ _ => ?_) ..
    | with_reducible refine State.lateDiscard_keeps ?_ ..
    | with_reducible refine State.rxRefuse_keeps ?_ ..
    | with_reducible refine ite_keeps ?_ ?_
    | simp only [State.kept_mk, State.kept_eta]
    | split
    | dsimp only)

theorem State.modArch_keeps {a : Kept} {s : State} (h : Keeps a s.kept) : ∀ x1 x2, Keeps a (State.modArch s x1 x2).kept := by
  intro x1 x2
  unfold State.modArch
  repeat' (first
    | with_reducible assumption
    | with_reducible refine ite_keeps ?_ ?_
    | simp only [State.kept_mk, State.kept_eta]
    | split
    | dsimp only)

theorem State.dropArch_keeps {a : Kept} {s : State} (h : Keeps a s.kept) : ∀ x1, Keeps a (State.dropArch s x1).kept := by
  intro x1
  unfold State.dropArch
  repeat' (first
    | with_reducible assumption
    | simp only [State.kept_mk, State.kept_eta]
    | dsimp only)

theorem State.intakeEvent_keeps {a : Kept} {s : State} (h : Keeps a s.kept) : ∀ x1 x2 x3 x4, Keeps a (State.intakeEvent s x1 x2 x3 x4).kept := by
  intro x1 x2 x3 x4
  unfold State.intakeEvent
  repeat' (first
    | with_reducible assumption
    | with_reducible refine State.modEvent_keeps ?_ ..)

theorem State.modTracker_keeps {a : Kept} {s : State} (h : Keeps a s.kept) : ∀ x1 x2, Keeps a (State.modTracker s x1 x2).kept := by
  intro x1 x2
  unfold State.modTracker
  repeat' (first
    | with_reducible assumption
    | with_reducible refine ite_keeps ?_ ?_
    | simp only [State.kept_mk, State.kept_eta]
    | split
    | dsimp only)

theorem State.freeRob_keeps {a : Kept} {s : State} (h : Keeps a s.kept) : ∀ x1, Keeps a (State.freeRob s x1).kept := by
  intro x1
  unfold State.freeRob
  repeat' (first
    | with_reducible assumption
    | simp only [State.kept_mk, State.kept_eta])

theorem State.countBody_keeps {a : Kept} {s : State} (h : Keeps a s.kept) : ∀ x1 x2, Keeps a (State.countBody s x1 x2).kept := by
  intro x1 x2
  unfold State.countBody
  repeat' (first
    | with_reducible assumption
    | simp only [State.kept_mk, State.kept_eta]
    | dsimp only)

theorem State.takeFolio_keeps {a : Kept} {s : State} (h : Keeps a s.kept) : ∀ x1 x2 x3 x4, Keeps a (State.takeFolio s x1 x2 x3 x4).kept := by
  intro x1 x2 x3 x4
  unfold State.takeFolio
  repeat' (first
    | with_reducible assumption
    | with_reducible refine State.countBody_keeps ?_ ..
    | with_reducible refine State.intakeEvent_keeps ?_ ..
    | with_reducible refine State.modTracker_keeps ?_ ..
    | with_reducible refine State.freeRob_keeps ?_ ..
    | with_reducible refine State.landFolio_keeps ?_ ..
    | with_reducible refine State.dropArch_keeps ?_ ..
    | with_reducible refine State.modArch_keeps ?_ ..
    | with_reducible refine ite_keeps ?_ ?_
    | simp only [State.kept_mk, State.kept_eta]
    | split
    | dsimp only)

theorem execArchiveRecord_keeps {s t : State} : ∀ x1 x2 x3, execArchiveRecord x1 x2 x3 s = .next t → Keeps s.kept t.kept := by
  intro x1 x2 x3 h
  have h0 := Keeps.refl s.kept
  injection h with h
  subst h
  repeat' (first
    | with_reducible assumption
    | with_reducible refine State.record_keeps ?_ (fun _ _ _ _ => ?_) ..
    | with_reducible refine State.takeFolio_keeps ?_ ..
    | with_reducible refine State.rxRefuse_keeps ?_ ..
    | with_reducible refine ite_keeps ?_ ?_
    | split
    | dsimp only)

theorem State.passMiss_keeps {a : Kept} {s : State} (h : Keeps a s.kept) : ∀ x1, Keeps a (State.passMiss s x1).kept := by
  intro x1
  unfold State.passMiss
  repeat' (first
    | with_reducible assumption
    | with_reducible refine State.intakeEvent_keeps ?_ ..
    | simp only [State.kept_mk, State.kept_eta])

theorem State.dgstSkip_keeps {a : Kept} {s : State} (h : Keeps a s.kept) : Keeps a (State.dgstSkip s).kept := by
  unfold State.dgstSkip
  repeat' (first
    | with_reducible assumption
    | simp only [State.kept_mk, State.kept_eta])

theorem State.reside_keeps {a : Kept} {s : State} (h : Keeps a s.kept) : ∀ x1 x2 x3, Keeps a (State.reside s x1 x2 x3).kept := by
  intro x1 x2 x3
  unfold State.reside
  repeat' (first
    | with_reducible assumption
    | with_reducible refine State.dgstSkip_keeps ?_ ..
    | with_reducible refine ite_keeps ?_ ?_
    | simp only [State.kept_mk, State.kept_eta]
    | split
    | dsimp only)

theorem State.endPass_keeps {a : Kept} {s : State} (h : Keeps a s.kept) : ∀ x1, Keeps a (State.endPass s x1).kept := by
  intro x1
  unfold State.endPass
  repeat' (first
    | with_reducible assumption
    | with_reducible refine State.reside_keeps ?_ ..
    | with_reducible refine State.passMiss_keeps ?_ ..
    | with_reducible refine ite_keeps ?_ ?_
    | simp only [State.kept_mk, State.kept_eta]
    | split
    | dsimp only)

theorem execFolioDigestDone_keeps {s t : State} : ∀ x1 x2, execFolioDigestDone x1 x2 s = .next t → Keeps s.kept t.kept := by
  intro x1 x2 h
  have h0 := Keeps.refl s.kept
  injection h with h
  subst h
  repeat' (first
    | with_reducible assumption
    | with_reducible refine State.freeRob_keeps ?_ ..
    | with_reducible refine State.modTracker_keeps ?_ ..
    | with_reducible refine State.endPass_keeps ?_ ..
    | with_reducible refine ite_keeps ?_ ?_
    | simp only [State.kept_mk, State.kept_eta]
    | split
    | dsimp only)

theorem State.takeDigest_keeps {a : Kept} {s : State} (h : Keeps a s.kept) : ∀ x1 x2 x3, Keeps a (State.takeDigest s x1 x2 x3).kept := by
  intro x1 x2 x3
  unfold State.takeDigest
  repeat' (first
    | with_reducible assumption
    | with_reducible refine State.modArch_keeps ?_ ..
    | with_reducible refine State.modTracker_keeps ?_ ..
    | with_reducible refine State.passMiss_keeps ?_ ..
    | with_reducible refine ite_keeps ?_ ?_
    | simp only [State.kept_mk, State.kept_eta]
    | split
    | dsimp only)

theorem execArchiveDigestRecord_keeps {s t : State} : ∀ x1 x2 x3, execArchiveDigestRecord x1 x2 x3 s = .next t → Keeps s.kept t.kept := by
  intro x1 x2 x3 h
  have h0 := Keeps.refl s.kept
  injection h with h
  subst h
  repeat' (first
    | with_reducible assumption
    | with_reducible refine State.record_keeps ?_ (fun _ _ _ _ => ?_) ..
    | with_reducible refine State.takeDigest_keeps ?_ ..
    | with_reducible refine State.countBody_keeps ?_ ..
    | with_reducible refine State.rxRefuse_keeps ?_ ..
    | with_reducible refine ite_keeps ?_ ?_
    | split
    | dsimp only)

theorem State.failArch_keeps {a : Kept} {s : State} (h : Keeps a s.kept) : ∀ x1 x2, Keeps a (State.failArch s x1 x2).kept := by
  intro x1 x2
  unfold State.failArch
  repeat' (first
    | with_reducible assumption
    | with_reducible refine State.landFolio_keeps ?_ ..
    | with_reducible refine State.dropArch_keeps ?_ ..
    | with_reducible refine State.freeRob_keeps ?_ ..
    | simp only [State.kept_mk, State.kept_eta]
    | with_reducible refine foldl_keeps (fun _ _ _ => ?_) ?_
    | dsimp only)

theorem execArchiveErrorRecord_keeps {s t : State} : ∀ x1 x2 x3, execArchiveErrorRecord x1 x2 x3 s = .next t → Keeps s.kept t.kept := by
  intro x1 x2 x3 h
  have h0 := Keeps.refl s.kept
  injection h with h
  subst h
  repeat' (first
    | with_reducible assumption
    | with_reducible refine State.record_keeps ?_ (fun _ _ _ _ => ?_) ..
    | with_reducible refine State.failArch_keeps ?_ ..
    | with_reducible refine State.intakeEvent_keeps ?_ ..
    | with_reducible refine State.rxRefuse_keeps ?_ ..
    | with_reducible refine ite_keeps ?_ ?_
    | split
    | dsimp only)

theorem execParkedRefetch_keeps {s t : State} : ∀ x1, execParkedRefetch x1 s = .next t → Keeps s.kept t.kept := by
  intro x1 h
  have h0 := Keeps.refl s.kept
  injection h with h
  subst h
  repeat' (first
    | with_reducible assumption
    | simp only [State.kept_mk, State.kept_eta]
    | dsimp only)

theorem State.sendReturn_keeps {a : Kept} {s : State} (h : Keeps a s.kept) : ∀ x1 x2 x3 x4 x5 x6 x7 x8 x9, Keeps a (State.sendReturn s x1 x2 x3 x4 x5 x6 x7 x8 x9).kept := by
  intro x1 x2 x3 x4 x5 x6 x7 x8 x9
  unfold State.sendReturn
  repeat' (first
    | with_reducible assumption
    | with_reducible refine State.sendLink_keeps ?_ ..
    | with_reducible refine State.addAcks_keeps ?_ ..
    | with_reducible refine State.addReq_keeps ?_ ..
    | with_reducible refine State.modCtx_keeps ?_ ..
    | with_reducible refine ite_keeps ?_ ?_
    | simp only [State.kept_mk, State.kept_eta]
    | split
    | dsimp only)

theorem State.returnOut_keeps {a : Kept} {s : State} (h : Keeps a s.kept) : ∀ x1 x2 x3 x4 x5, Keeps a (State.returnOut s x1 x2 x3 x4 x5).kept := by
  intro x1 x2 x3 x4 x5
  unfold State.returnOut
  repeat' (first
    | with_reducible assumption
    | with_reducible refine State.sendReturn_keeps ?_ ..
    | with_reducible refine ite_keeps ?_ ?_
    | simp only [State.kept_mk, State.kept_eta]
    | split
    | with_reducible refine foldl_keeps (fun _ _ _ => ?_) ?_
    | dsimp only)

theorem execArchiveReturnSend_keeps {s t : State} : ∀ x1 x2, execArchiveReturnSend x1 x2 s = .next t → Keeps s.kept t.kept := by
  intro x1 x2 h
  have h0 := Keeps.refl s.kept
  injection h with h
  subst h
  repeat' (first
    | with_reducible assumption
    | with_reducible refine State.modGang_keeps ?_ ..
    | with_reducible refine State.returnOut_keeps ?_ ..
    | with_reducible refine ite_keeps ?_ ?_
    | simp only [State.kept_mk, State.kept_eta]
    | split
    | dsimp only)

theorem State.scrubAll_keeps {a : Kept} {s : State} (h : Keeps a s.kept) : Keeps a (State.scrubAll s).kept := by
  unfold State.scrubAll
  repeat' (first
    | with_reducible assumption
    | simp only [State.kept_mk, State.kept_eta]
    | dsimp only)

theorem execScrubStart_keeps {s t : State} : execScrubStart s = .next t → Keeps s.kept t.kept := by
  intro h
  have h0 := Keeps.refl s.kept
  injection h with h
  subst h
  repeat' (first
    | with_reducible assumption
    | with_reducible refine State.scrubAll_keeps ?_ ..
    | with_reducible refine ite_keeps ?_ ?_
    | simp only [State.kept_mk, State.kept_eta]
    | split
    | dsimp only)

theorem State.scrubEnd_keeps {a : Kept} {s : State} (h : Keeps a s.kept) : Keeps a (State.scrubEnd s).kept := by
  unfold State.scrubEnd
  repeat' (first
    | with_reducible assumption
    | with_reducible refine State.scrubAll_keeps ?_ ..
    | with_reducible refine ite_keeps ?_ ?_
    | simp only [State.kept_mk, State.kept_eta]
    | split
    | dsimp only)

theorem State.scrubBad_keeps {a : Kept} {s : State} (h : Keeps a s.kept) : ∀ x1 x2, Keeps a (State.scrubBad s x1 x2).kept := by
  intro x1 x2
  unfold State.scrubBad
  repeat' (first
    | with_reducible assumption
    | with_reducible refine State.spoilAt_keeps ?_ ..
    | with_reducible refine State.intakeEvent_keeps ?_ ..
    | simp only [State.kept_mk, State.kept_eta])

theorem execScrubEntryDone_keeps {s t : State} : ∀ x1, execScrubEntryDone x1 s = .next t → Keeps s.kept t.kept := by
  intro x1 h
  have h0 := Keeps.refl s.kept
  injection h with h
  subst h
  repeat' (first
    | with_reducible assumption
    | with_reducible refine State.scrubEnd_keeps ?_ ..
    | with_reducible refine State.scrubBad_keeps ?_ ..
    | with_reducible refine ite_keeps ?_ ?_
    | simp only [State.kept_mk, State.kept_eta]
    | split)

theorem State.timedOut_keeps {a : Kept} {s : State} (h : Keeps a s.kept) : ∀ x1 x2, Keeps a (State.timedOut s x1 x2).kept := by
  intro x1 x2
  unfold State.timedOut
  repeat' (first
    | with_reducible assumption
    | with_reducible refine State.modEvent_keeps ?_ ..
    | simp only [State.kept_mk, State.kept_eta])

theorem State.archTimeout_keeps {a : Kept} {s : State} (h : Keeps a s.kept) : ∀ x1, Keeps a (State.archTimeout s x1).kept := by
  intro x1
  unfold State.archTimeout
  repeat' (first
    | with_reducible assumption
    | with_reducible refine State.modEvent_keeps ?_ ..
    | with_reducible refine State.failArch_keeps ?_ ..
    | with_reducible refine State.dropArch_keeps ?_ ..
    | simp only [State.kept_mk, State.kept_eta]
    | split
    | dsimp only)

theorem execRequestTimeout_keeps {s t : State} : ∀ x1, execRequestTimeout x1 s = .next t → Keeps s.kept t.kept := by
  intro x1 h
  have h0 := Keeps.refl s.kept
  injection h with h
  subst h
  repeat' (first
    | with_reducible assumption
    | with_reducible refine State.archTimeout_keeps ?_ ..
    | with_reducible refine State.resumeEvery_keeps ?_ ..
    | with_reducible refine State.failRead_keeps ?_ ..
    | with_reducible refine State.timedOut_keeps ?_ ..
    | with_reducible refine ite_keeps ?_ ?_
    | simp only [State.kept_mk, State.kept_eta]
    | split
    | dsimp only)

theorem execAckTimeout_keeps {s t : State} : ∀ x1, execAckTimeout x1 s = .next t → Keeps s.kept t.kept := by
  intro x1 h
  have h0 := Keeps.refl s.kept
  injection h with h
  subst h
  repeat' (first
    | with_reducible assumption
    | with_reducible refine State.ackReq_keeps ?_ ..
    | with_reducible refine State.timedOut_keeps ?_ ..
    | with_reducible refine ite_keeps ?_ ?_
    | simp only [State.kept_mk, State.kept_eta]
    | split
    | dsimp only)

theorem execLateResponseDiscard_keeps {s t : State} : ∀ x1, execLateResponseDiscard x1 s = .next t → Keeps s.kept t.kept := by
  intro x1 h
  have h0 := Keeps.refl s.kept
  injection h with h
  subst h
  repeat' (first
    | with_reducible assumption
    | with_reducible refine State.lateDiscard_keeps ?_ ..
    | with_reducible refine ite_keeps ?_ ?_
    | split
    | dsimp only)

theorem execHostFlushReadDone_keeps {s t : State} : ∀ x1 x2, execHostFlushReadDone x1 x2 s = .next t → Keeps s.kept t.kept := by
  intro x1 x2 h
  have h0 := Keeps.refl s.kept
  injection h with h
  subst h
  repeat' (first
    | with_reducible assumption
    | with_reducible refine State.ackReq_keeps ?_ ..
    | with_reducible refine State.lateDiscard_keeps ?_ ..
    | with_reducible refine ite_keeps ?_ ?_
    | simp only [State.kept_mk, State.kept_eta]
    | split
    | dsimp only)

theorem execHostReadCompletion_keeps {s t : State} : ∀ x1 x2 x3 x4, execHostReadCompletion x1 x2 x3 x4 s = .next t → Keeps s.kept t.kept := by
  intro x1 x2 x3 x4 h
  have h0 := Keeps.refl s.kept
  injection h with h
  subst h
  repeat' (first
    | with_reducible assumption
    | with_reducible refine State.readData_keeps ?_ ..
    | with_reducible refine State.lateDiscard_keeps ?_ ..
    | with_reducible refine ite_keeps ?_ ?_
    | simp only [State.kept_mk, State.kept_eta]
    | split
    | dsimp only)

theorem execStackRefresh_keeps {s t : State} : ∀ x1 x2, execStackRefresh x1 x2 s = .next t → Keeps s.kept t.kept := by
  intro x1 x2 h
  have h0 := Keeps.refl s.kept
  injection h with h
  subst h
  repeat' (first
    | with_reducible assumption
    | with_reducible refine State.modField_keeps ?_ ..
    | with_reducible refine ite_keeps ?_ ?_
    | simp only [State.kept_mk, State.kept_eta]
    | split
    | dsimp only)

theorem execRefreshRateChange_keeps {s t : State} : ∀ x1, execRefreshRateChange x1 s = .next t → Keeps s.kept t.kept := by
  intro x1 h
  have h0 := Keeps.refl s.kept
  injection h with h
  subst h
  repeat' (first
    | with_reducible assumption
    | with_reducible refine State.modField_keeps ?_ ..
    | with_reducible refine ite_keeps ?_ ?_
    | simp only [State.kept_mk, State.kept_eta]
    | split
    | dsimp only)

theorem execPatrolScrubRead_keeps {s t : State} : ∀ x1 x2, execPatrolScrubRead x1 x2 s = .next t → Keeps s.kept t.kept := by
  intro x1 x2 h
  have h0 := Keeps.refl s.kept
  injection h with h
  subst h
  repeat' (first
    | with_reducible assumption
    | with_reducible refine State.eccCorr_keeps ?_ ..
    | with_reducible refine State.eccUncorr_keeps ?_ ..
    | with_reducible refine ite_keeps ?_ ?_
    | simp only [State.kept_mk, State.kept_eta]
    | split)

theorem State.ledgerDone_keeps {a : Kept} {s : State} (h : Keeps a s.kept) : ∀ x1, Keeps a (State.ledgerDone s x1).kept := by
  intro x1
  unfold State.ledgerDone
  repeat' (first
    | with_reducible assumption
    | with_reducible refine State.modGang_keeps ?_ ..
    | with_reducible refine ite_keeps ?_ ?_
    | simp only [State.kept_mk, State.kept_eta]
    | split
    | dsimp only)

theorem State.ledgerRefused_keeps {a : Kept} {s : State} (h : Keeps a s.kept) : ∀ x1, Keeps a (State.ledgerRefused s x1).kept := by
  intro x1
  unfold State.ledgerRefused
  repeat' (first
    | with_reducible assumption
    | with_reducible refine State.spoilAt_keeps ?_ ..
    | with_reducible refine State.modEvent_keeps ?_ ..
    | simp only [State.kept_mk, State.kept_eta]
    | dsimp only)

theorem State.commit_keeps {a : Kept} {s : State} (h : Keeps a s.kept) : ∀ x1, Keeps a (State.commit s x1).kept := by
  intro x1
  unfold State.commit
  repeat' (first
    | with_reducible assumption
    | with_reducible refine ite_keeps ?_ ?_
    | simp only [State.kept_mk, State.kept_eta]
    | split
    | dsimp only)

theorem State.markSeq_keeps {a : Kept} {s : State} (h : Keeps a s.kept) : ∀ x1, Keeps a (State.markSeq s x1).kept := by
  intro x1
  unfold State.markSeq
  repeat' (first
    | with_reducible assumption
    | with_reducible refine ite_keeps ?_ ?_
    | simp only [State.kept_mk, State.kept_eta]
    | split
    | dsimp only)

theorem State.ledgerWrite_keeps {a : Kept} {s : State} (h : Keeps a s.kept) : ∀ x1, Keeps a (State.ledgerWrite s x1).kept := by
  intro x1
  unfold State.ledgerWrite
  repeat' (first
    | with_reducible assumption
    | with_reducible refine State.markSeq_keeps ?_ ..
    | with_reducible refine State.commit_keeps ?_ ..
    | with_reducible refine State.store_keeps ?_ ..
    | simp only [State.kept_mk, State.kept_eta]
    | dsimp only)

theorem execLedgerRecordWritten_keeps {s t : State} : execLedgerRecordWritten s = .next t → Keeps s.kept t.kept := by
  intro e
  have h := Keeps.refl s.kept
  unfold execLedgerRecordWritten at e
  cases e
  split
  · exact h
  · rename_i r rest he
    refine ite_keeps h ?_
    have h1 : Keeps s.kept (State.kept { s with aud := { s.aud with pend := rest } }) := by
      refine ⟨rfl, fun k => ⟨k.1, k.2.1, ?_⟩⟩
      have h2 : s.aud.pend.length ≤ 64 := k.2.2
      rw [he, List.length_cons] at h2
      show rest.length ≤ 64
      omega
    exact State.ledgerDone_keeps (State.fresh_keeps (ite_keeps (State.ledgerWrite_keeps h1 ..) (State.ledgerRefused_keeps h1 ..)) ..) ..

theorem execStateSkew_keeps {s t : State} : ∀ x1 x2, execStateSkew x1 x2 s = .next t → Keeps s.kept t.kept := by
  intro x1 x2 h
  have h0 := Keeps.refl s.kept
  injection h with h
  subst h
  repeat' (first
    | with_reducible assumption
    | with_reducible refine State.logEvent_keeps ?_ ..
    | with_reducible refine State.service_keeps ?_ ..
    | with_reducible refine ite_keeps ?_ ?_
    | simp only [State.kept_mk, State.kept_eta]
    | split
    | dsimp only)

theorem State.takeSess_keeps {a : Kept} {s t : State} (h : Keeps a s.kept) : ∀ x1 x2, State.takeSess s x1 x2 = some t → Keeps a t.kept := by
  intro x1 x2 e
  unfold State.takeSess at e
  repeat' (first
    | (injection e with e; subst e)
    | contradiction
    | with_reducible assumption
    | with_reducible refine State.modMbox_keeps ?_ ..
    | with_reducible refine ite_keeps ?_ ?_
    | simp only [State.kept_mk, State.kept_eta]
    | dsimp only at e
    | split at e
    | split)

theorem State.greet_keeps {a : Kept} {s : State} (h : Keeps a s.kept) : ∀ x1 x2 x3, Keeps a (State.greet s x1 x2 x3).kept := by
  intro x1 x2 x3
  unfold State.greet
  repeat' (first
    | with_reducible assumption
    | with_reducible refine State.refuseSess_keeps ?_ ..
    | with_reducible refine State.sendSess_keeps ?_ ..
    | with_reducible refine State.fresh_keeps ?_ ..
    | with_reducible refine ite_keeps ?_ ?_
    | simp only [State.kept_mk, State.kept_eta]
    | split
    | dsimp only)

theorem execHello_keeps {s t : State} : ∀ x1 x2 x3, execHello x1 x2 x3 s = .next t → Keeps s.kept t.kept := by
  intro x1 x2 x3 h
  have h0 := Keeps.refl s.kept
  injection h with h
  subst h
  repeat' (first
    | with_reducible assumption
    | with_reducible refine State.takeSess_keeps ?_ _ _ (by assumption)
    | with_reducible refine State.greet_keeps ?_ ..
    | simp only [State.kept_mk, State.kept_eta]
    | split)

theorem State.failProof_keeps {a : Kept} {s : State} (h : Keeps a s.kept) : Keeps a (State.failProof s).kept := by
  unfold State.failProof
  repeat' (first
    | with_reducible assumption
    | with_reducible refine State.logEvent_keeps ?_ ..
    | with_reducible refine ite_keeps ?_ ?_
    | simp only [State.kept_mk, State.kept_eta]
    | split
    | dsimp only)

theorem State.openSession_keeps {a : Kept} {s : State} (h : Keeps a s.kept) : ∀ x1 x2, Keeps a (State.openSession s x1 x2).kept := by
  intro x1 x2
  unfold State.openSession
  repeat' (first
    | with_reducible assumption
    | with_reducible refine State.fresh_keeps ?_ ..
    | with_reducible refine State.sendSess_keeps ?_ ..
    | simp only [State.kept_mk, State.kept_eta]
    | dsimp only)

theorem State.judge_keeps {a : Kept} {s : State} (h : Keeps a s.kept) : ∀ x1 x2, Keeps a (State.judge s x1 x2).kept := by
  intro x1 x2
  unfold State.judge
  repeat' (first
    | with_reducible assumption
    | with_reducible refine State.refuseSess_keeps ?_ ..
    | with_reducible refine State.failProof_keeps ?_ ..
    | with_reducible refine State.openSession_keeps ?_ ..
    | with_reducible refine ite_keeps ?_ ?_
    | simp only [State.kept_mk, State.kept_eta]
    | split
    | dsimp only)

theorem execProof_keeps {s t : State} : ∀ x1 x2, execProof x1 x2 s = .next t → Keeps s.kept t.kept := by
  intro x1 x2 h
  have h0 := Keeps.refl s.kept
  injection h with h
  subst h
  repeat' (first
    | with_reducible assumption
    | with_reducible refine State.takeSess_keeps ?_ _ _ (by assumption)
    | with_reducible refine State.judge_keeps ?_ ..
    | simp only [State.kept_mk, State.kept_eta]
    | split)

theorem execSessionLockEnd_keeps {s t : State} : execSessionLockEnd s = .next t → Keeps s.kept t.kept := by
  intro h
  have h0 := Keeps.refl s.kept
  injection h with h
  subst h
  repeat' (first
    | with_reducible assumption
    | with_reducible refine ite_keeps ?_ ?_
    | simp only [State.kept_mk, State.kept_eta]
    | split)

theorem State.setSession_keeps {a : Kept} {s : State} (h : Keeps a s.kept) : ∀ x1 x2, Keeps a (State.setSession s x1 x2).kept := by
  intro x1 x2
  unfold State.setSession
  repeat' (first
    | with_reducible assumption
    | simp only [State.kept_mk, State.kept_eta])

theorem State.dropMsg_keeps {a : Kept} {s : State} (h : Keeps a s.kept) : ∀ x1 x2, Keeps a (State.dropMsg s x1 x2).kept := by
  intro x1 x2
  unfold State.dropMsg
  repeat' (first
    | with_reducible assumption
    | with_reducible refine State.setSession_keeps ?_ ..
    | with_reducible refine ite_keeps ?_ ?_
    | simp only [State.kept_mk, State.kept_eta]
    | split)

theorem State.heard_keeps {a : Kept} {s : State} {f : State → Fin 4 → Session → State} (h : Keeps a s.kept) (hf : ∀ t y0 y1, Keeps a t.kept → Keeps a (f t y0 y1).kept) : ∀ x1 x2 x3, Keeps a (State.heard s x1 x2 x3 f).kept := by
  intro x1 x2 x3
  unfold State.heard
  repeat' (first
    | with_reducible assumption
    | with_reducible refine hf _ _ _ ?_
    | with_reducible refine State.takeSess_keeps ?_ _ _ (by assumption)
    | with_reducible refine State.setSession_keeps ?_ ..
    | with_reducible refine State.dropMsg_keeps ?_ ..
    | with_reducible refine ite_keeps ?_ ?_
    | simp only [State.kept_mk, State.kept_eta]
    | split
    | dsimp only)

theorem State.result_keeps {a : Kept} {s : State} (h : Keeps a s.kept) : ∀ x1 x2 x3 x4, Keeps a (State.result s x1 x2 x3 x4).kept := by
  intro x1 x2 x3 x4
  unfold State.result
  repeat' (first
    | with_reducible assumption
    | with_reducible refine State.sendSess_keeps ?_ ..
    | with_reducible refine State.setSession_keeps ?_ ..
    | with_reducible refine ite_keeps ?_ ?_
    | simp only [State.kept_mk, State.kept_eta]
    | split
    | dsimp only)

theorem State.readWords_keeps {a : Kept} {s : State} (h : Keeps a s.kept) : ∀ x1 x2 x3, Keeps a (State.readWords s x1 x2 x3).2.kept := by
  intro x1 x2 x3
  induction x3 generalizing s x2 with
  | zero => exact h
  | succ n ih => exact ih (State.readWord_keeps h ..) ..

theorem execSessionRead_keeps {s t : State} : ∀ x1 x2 x3, execSessionRead x1 x2 x3 s = .next t → Keeps s.kept t.kept := by
  intro x1 x2 x3 h
  have h0 := Keeps.refl s.kept
  injection h with h
  subst h
  repeat' (first
    | with_reducible assumption
    | with_reducible refine State.heard_keeps ?_ (fun _ _ _ _ => ?_) ..
    | with_reducible refine State.readWords_keeps ?_ ..
    | with_reducible refine State.result_keeps ?_ ..
    | with_reducible refine State.refuseSess_keeps ?_ ..
    | with_reducible refine ite_keeps ?_ ?_
    | split
    | dsimp only)

theorem State.sessWord1_keeps {a : Kept} {s : State} (h : Keeps a s.kept) : ∀ x1 x2 x3, Keeps a (State.sessWord1 s x1 x2 x3).kept := by
  intro x1 x2 x3
  unfold State.sessWord1
  repeat' (first
    | with_reducible assumption
    | with_reducible refine State.refuse_keeps ?_ ..
    | with_reducible refine State.writeWord_keeps ?_ ..
    | with_reducible refine ite_keeps ?_ ?_
    | split)

theorem State.writeWords_keeps {a : Kept} {s : State} (h : Keeps a s.kept) : ∀ x1 x2 x3, Keeps a (State.writeWords s x1 x2 x3).kept := by
  intro x1 x2 x3
  induction x3 generalizing s x2 with
  | nil => exact h
  | cons v vs ih =>
    unfold State.writeWords
    exact ite_keeps h (ih (State.sessWord1_keeps h ..) ..)

theorem execSessionWrite_keeps {s t : State} : ∀ x1 x2 x3, execSessionWrite x1 x2 x3 s = .next t → Keeps s.kept t.kept := by
  intro x1 x2 x3 h
  have h0 := Keeps.refl s.kept
  injection h with h
  subst h
  repeat' (first
    | with_reducible assumption
    | with_reducible refine State.heard_keeps ?_ (fun _ _ _ _ => ?_) ..
    | with_reducible refine State.writeWords_keeps ?_ ..
    | with_reducible refine State.result_keeps ?_ ..
    | with_reducible refine State.refuseSess_keeps ?_ ..
    | with_reducible refine ite_keeps ?_ ?_
    | split
    | dsimp only)

theorem execStkWrite_keeps {s t : State} : ∀ x1 x2 x3, execStkWrite x1 x2 x3 s = .next t → Keeps s.kept t.kept := by
  intro x1 x2 x3 h
  have h0 := Keeps.refl s.kept
  injection h with h
  subst h
  repeat' (first
    | with_reducible assumption
    | with_reducible refine State.heard_keeps ?_ (fun _ _ _ _ => ?_) ..
    | with_reducible refine State.refuseSess_keeps ?_ ..
    | with_reducible refine State.result_keeps ?_ ..
    | with_reducible refine State.countRefused_keeps ?_ ..
    | with_reducible refine State.storeRaw_keeps ?_ ..
    | with_reducible refine ite_keeps ?_ ?_
    | split
    | dsimp only)

theorem State.modImage_keeps {a : Kept} {s : State} (h : Keeps a s.kept) : ∀ x1 x2, Keeps a (State.modImage s x1 x2).kept := by
  intro x1 x2
  unfold State.modImage
  repeat' (first
    | with_reducible assumption
    | simp only [State.kept_mk, State.kept_eta])

theorem State.program_keeps {a : Kept} {s t : State} (h : Keeps a s.kept) : ∀ x1 x2 x3, State.program s x1 x2 x3 = some t → Keeps a t.kept := by
  intro x1 x2 x3 e
  unfold State.program at e
  repeat' (first
    | (injection e with e; subst e)
    | contradiction
    | with_reducible assumption
    | with_reducible refine State.modImage_keeps ?_ ..
    | with_reducible refine ite_keeps ?_ ?_
    | simp only [State.kept_mk, State.kept_eta]
    | dsimp only at e
    | split at e
    | split)

theorem execNvmProgram_keeps {s t : State} : ∀ x1 x2 x3 x4, execNvmProgram x1 x2 x3 x4 s = .next t → Keeps s.kept t.kept := by
  intro x1 x2 x3 x4 h
  have h0 := Keeps.refl s.kept
  injection h with h
  subst h
  repeat' (first
    | with_reducible assumption
    | with_reducible refine State.heard_keeps ?_ (fun _ _ _ _ => ?_) ..
    | with_reducible refine State.program_keeps ?_ _ _ _ (by assumption)
    | with_reducible refine State.result_keeps ?_ ..
    | simp only [State.kept_mk, State.kept_eta]
    | split
    | dsimp only)

theorem execNvmWriteKeySlot_keeps {s t : State} : ∀ x1 x2 x3, execNvmWriteKeySlot x1 x2 x3 s = .next t → Keeps s.kept t.kept := by
  intro x1 x2 x3 h
  have h0 := Keeps.refl s.kept
  injection h with h
  subst h
  repeat' (first
    | with_reducible assumption
    | with_reducible refine State.heard_keeps ?_ (fun _ _ _ _ => ?_) ..
    | with_reducible refine State.result_keeps ?_ ..
    | with_reducible refine State.refuseSess_keeps ?_ ..
    | with_reducible refine ite_keeps ?_ ?_
    | simp only [State.kept_mk, State.kept_eta]
    | split
    | dsimp only)

theorem execNvmRaiseVfloor_keeps {s t : State} : ∀ x1 x2, execNvmRaiseVfloor x1 x2 s = .next t → Keeps s.kept t.kept := by
  intro x1 x2 h
  have h0 := Keeps.refl s.kept
  injection h with h
  subst h
  repeat' (first
    | with_reducible assumption
    | with_reducible refine State.heard_keeps ?_ (fun _ _ _ _ => ?_) ..
    | with_reducible refine State.result_keeps ?_ ..
    | with_reducible refine ite_keeps ?_ ?_
    | simp only [State.kept_mk, State.kept_eta]
    | split
    | dsimp only)

theorem execClose_keeps {s t : State} : ∀ x1, execClose x1 s = .next t → Keeps s.kept t.kept := by
  intro x1 h
  have h0 := Keeps.refl s.kept
  injection h with h
  subst h
  repeat' (first
    | with_reducible assumption
    | with_reducible refine State.heard_keeps ?_ (fun _ _ _ _ => ?_) ..
    | with_reducible refine State.setSession_keeps ?_ ..
    | dsimp only)

theorem execSessionExpire_keeps {s t : State} : ∀ x1, execSessionExpire x1 s = .next t → Keeps s.kept t.kept := by
  intro x1 h
  have h0 := Keeps.refl s.kept
  injection h with h
  subst h
  repeat' (first
    | with_reducible assumption
    | with_reducible refine State.setSession_keeps ?_ ..
    | with_reducible refine ite_keeps ?_ ?_
    | simp only [State.kept_mk, State.kept_eta]
    | split)

theorem State.occupy_keeps {a : Kept} {s : State} (h : Keeps a s.kept) : ∀ x1 x2 x3 x4 x5 x6, Keeps a (State.occupy s x1 x2 x3 x4 x5 x6).kept := by
  intro x1 x2 x3 x4 x5 x6
  unfold State.occupy
  repeat' (first
    | with_reducible assumption
    | with_reducible refine State.modGang_keeps ?_ ..
    | with_reducible refine State.modCore_keeps ?_ ..
    | with_reducible refine ite_keeps ?_ ?_
    | simp only [State.kept_mk, State.kept_eta]
    | split
    | dsimp only)

theorem State.startIdle_keeps {a : Kept} {s : State} (h : Keeps a s.kept) : ∀ x1 x2, Keeps a (State.startIdle s x1 x2).kept := by
  intro x1 x2
  unfold State.startIdle
  repeat' (first
    | with_reducible assumption
    | with_reducible refine State.modGang_keeps ?_ ..
    | simp only [State.kept_mk, State.kept_eta]
    | dsimp only)

theorem State.startFetch_keeps {a : Kept} {s : State} (h : Keeps a s.kept) : ∀ x1 x2 x3 x4 x5 x6 x7 x8 x9, Keeps a (State.startFetch s x1 x2 x3 x4 x5 x6 x7 x8 x9).kept := by
  intro x1 x2 x3 x4 x5 x6 x7 x8 x9
  unfold State.startFetch
  repeat' (first
    | with_reducible assumption
    | with_reducible refine State.landKept_keeps ?_ ..
    | with_reducible refine State.modGang_keeps ?_ ..
    | with_reducible refine State.modTask_keeps ?_ ..
    | with_reducible refine State.modCtx_keeps ?_ ..
    | with_reducible refine ite_keeps ?_ ?_
    | simp only [State.kept_mk, State.kept_eta]
    | split
    | dsimp only)

theorem State.payNeed_keeps {a : Kept} {s : State} (h : Keeps a s.kept) : ∀ x1 x2, Keeps a (State.payNeed s x1 x2).kept := by
  intro x1 x2
  unfold State.payNeed
  repeat' (first
    | with_reducible assumption
    | with_reducible refine State.spend_keeps ?_ ..
    | with_reducible refine State.modCtx_keeps ?_ ..
    | simp only [State.kept_mk, State.kept_eta]
    | split
    | dsimp only)

theorem State.startStream_keeps {a : Kept} {s : State} (h : Keeps a s.kept) : ∀ x1 x2 x3 x4 x5 x6 x7, Keeps a (State.startStream s x1 x2 x3 x4 x5 x6 x7).kept := by
  intro x1 x2 x3 x4 x5 x6 x7
  unfold State.startStream
  repeat' (first
    | with_reducible assumption
    | with_reducible refine State.startFetch_keeps ?_ ..
    | with_reducible refine State.startReads_keeps ?_ ..
    | with_reducible refine State.occupy_keeps ?_ ..
    | with_reducible refine State.modGang_keeps ?_ ..
    | with_reducible refine ite_keeps ?_ ?_
    | simp only [State.kept_mk, State.kept_eta]
    | split
    | dsimp only)

theorem State.startPlain_keeps {a : Kept} {s : State} (h : Keeps a s.kept) : ∀ x1 x2 x3 x4 x5 x6, Keeps a (State.startPlain s x1 x2 x3 x4 x5 x6).kept := by
  intro x1 x2 x3 x4 x5 x6
  unfold State.startPlain
  repeat' (first
    | with_reducible assumption
    | with_reducible refine State.occupy_keeps ?_ ..
    | with_reducible refine State.startReads_keeps ?_ ..)

theorem State.startLedger_keeps {a : Kept} {s : State} (h : Keeps a s.kept) :
    ∀ x1 x2 x3 x4 x5, Keeps a (State.startLedger s x1 x2 x3 x4 x5).kept := by
  intro x1 x2 x3 x4 x5
  unfold State.startLedger
  split
  · exact h
  · rename_i hn
    refine ⟨h.1, fun k => ⟨(h.2 k).1, (h.2 k).2.1, ?_⟩⟩
    simp only [State.kept_mk, List.length_append, List.length_cons, List.length_nil]
    have hr : s.aud.pend.length < 64 := by simpa [State.ledgerRoom] using (Bool.or_eq_false_iff.mp (Bool.eq_false_iff.mpr hn)).1
    show s.aud.pend.length + _ ≤ 64
    omega

theorem State.startColl_keeps {a : Kept} {s : State} (h : Keeps a s.kept) : ∀ x1 x2 x3 x4 x5 x6, Keeps a (State.startColl s x1 x2 x3 x4 x5 x6).kept := by
  intro x1 x2 x3 x4 x5 x6
  unfold State.startColl
  repeat' (first
    | with_reducible assumption
    | with_reducible refine State.startIdle_keeps ?_ ..
    | with_reducible refine State.collStartReads_keeps ?_ ..
    | with_reducible refine State.sizeRuns_keeps ?_ ..
    | with_reducible refine State.addRun_keeps ?_ ..
    | with_reducible refine State.noteIssue_keeps ?_ ..
    | with_reducible refine ite_keeps ?_ ?_
    | simp only [State.kept_mk, State.kept_eta]
    | split
    | dsimp only)

theorem State.startGang_keeps {a : Kept} {s : State} (h : Keeps a s.kept) : ∀ x1 x2 x3 x4 x5 x6, Keeps a (State.startGang s x1 x2 x3 x4 x5 x6).kept := by
  intro x1 x2 x3 x4 x5 x6
  unfold State.startGang
  repeat' (first
    | with_reducible assumption
    | with_reducible refine State.refuseSeg_keeps ?_ ..
    | with_reducible refine State.payNeed_keeps ?_ ..
    | with_reducible refine State.startStream_keeps ?_ ..
    | with_reducible refine State.startColl_keeps ?_ ..
    | with_reducible refine State.startLedger_keeps ?_ ..
    | with_reducible refine State.startPlain_keeps ?_ ..
    | with_reducible refine ite_keeps ?_ ?_
    | simp only [State.kept_mk, State.kept_eta]
    | split
    | dsimp only)

theorem execSegmentStart_keeps {s t : State} : ∀ x1 x2, execSegmentStart x1 x2 s = .next t → Keeps s.kept t.kept := by
  intro x1 x2 h
  have h0 := Keeps.refl s.kept
  injection h with h
  subst h
  repeat' (first
    | with_reducible assumption
    | with_reducible refine State.startGang_keeps ?_ ..
    | with_reducible refine State.scratchErrors_keeps ?_ ..
    | simp only [State.kept_mk, State.kept_eta]
    | split)

theorem State.countWaits_keeps {a : Kept} {s : State} (h : Keeps a s.kept) : Keeps a (State.countWaits s).kept := by
  unfold State.countWaits
  repeat' (first
    | with_reducible assumption
    | with_reducible refine State.countMap_keeps ?_ ..
    | simp only [State.kept_mk, State.kept_eta]
    | split
    | dsimp only)

theorem State.tick_keeps {a : Kept} {s : State} (h : Keeps a s.kept) : Keeps a (State.tick s).kept := by
  unfold State.tick
  repeat' (first
    | with_reducible assumption
    | with_reducible refine State.advance_keeps ?_ ..
    | with_reducible refine State.settlePhase_keeps ?_ ..
    | with_reducible refine State.countWaits_keeps ?_ ..)

end Sys2Proof.Machine
end

