-- ==== Sys2Proof/Laws/Landing.lean ====
section
/-! SUPPORT. Lemmas about writes that land: the bytes they store and what they leave alone. -/

namespace Sys2Proof.Machine

/-- A store of clean data writes its bytes. -/
theorem State.store_clean (s : State) (a bs) : (s.store a bs []).mem = s.mem.write a bs [] := by
  have : ∀ (bs : List Byte) i, spoil s.freeCtr a [] i bs = bs := by
    intro bs; induction bs with
    | nil => intro i; rfl
    | cons b bs ih => intro i; simp [spoil, ih]
  simp [State.store, badGranules, this, State.storeRaw, State.fresh]

/-- A write that lands stores its body. -/
theorem State.landWrite_mem (s : State) (acc a m ctx bs po la) : (s.landWrite acc a m ctx bs po la).mem = (s.store (addrLocal a) bs (if po then [(0, bs.length)] else [])).mem := by
  unfold State.landWrite
  have : ∀ bad, (s.writeAt acc a bs bad).mem = (s.store (addrLocal a) bs bad).mem := by
    intro bad; rfl
  dsimp only
  split
  · split
    · rw [← this]; rfl
    · rw [← this]
  · rw [← this]

/-- It changes memory, cores and the count of free values only. -/
theorem State.landWrite_only (s : State) (acc a m ctx bs po la) : (s.landWrite acc a m ctx bs po la) = { s with mem := (s.landWrite acc a m ctx bs po la).mem, cores := (s.landWrite acc a m ctx bs po la).cores, freeCtr := (s.landWrite acc a m ctx bs po la).freeCtr } := by
  unfold State.landWrite
  have : ∀ bad, (s.writeAt acc a bs bad) = { s with mem := (s.writeAt acc a bs bad).mem, cores := (s.writeAt acc a bs bad).cores, freeCtr := (s.writeAt acc a bs bad).freeCtr } := by
    intro bad; rfl
  dsimp only
  split
  · split
    · rw [this]; rfl
    · rw [this]
  · rw [this]

/-- It changes its accessor core and the core of its target only. -/
theorem State.landWrite_core (s : State) (c a m ctx bs po la d) (h : d ≠ c) (h2 : (match place a with | .scratch c _ => d ≠ c | _ => True)) : (s.landWrite (some c) a m ctx bs po la).core d = s.core d := by
  have : ∀ bad, (s.writeAt (some c) a bs bad).core d = s.core d := by
    intro bad; simp [State.writeAt, State.storeFor, State.countPoison, State.core, State.modCnt, State.modCore, upd_other _ _ _ _ h]
    rfl
  unfold State.landWrite
  dsimp only
  split
  · rename_i c2 o hp
    simp only [hp] at h2
    split
    · rw [← this]; simp [State.landCount, State.core, State.modTask, State.modCore, upd_other _ _ _ _ h2]; rfl
    · rw [← this]
  · rw [← this]

/-- The granules that a byte range touches. -/
theorem mem_granules (a n g : Nat) (h : 0 < n) : g ∈ granules a n ↔ a < 64 * g + 64 ∧ 64 * g < a + n := by
  unfold granules
  rw [if_neg (by omega)]
  simp only [List.mem_map, List.mem_range]
  constructor
  · rintro ⟨k, hk, rfl⟩; omega
  · rintro ⟨h1, h2⟩; exact ⟨g - a / 64, by omega, by omega⟩

end Sys2Proof.Machine
end

