-- ==== Sys2Proof/WellFormed.lean ====
section
/-! DEFINITION. Which commands are well formed: the operands hold no more than the messages, packets and registers they stand for can
(Tables WAF-3, WAF-8, LNK-2, LNK-3, LNK-4, BOO-5, BOO-6, FLT-2). What a command's operands mean is checked by its meaning; an
ill-formed command spells nothing that could arrive. -/

namespace Sys2Proof

/-- A mesh packet carries at most 4,096 bytes and asks for at most 4,096 (R32, Table WAF-3). -/
def meshFits (p : MeshPacket) : Bool := decide (p.body.length ≤ 4096) && decide (p.rlen ≤ 4096)

/-- A control message carries at most three payload words (Table WAF-8). -/
def ctlFits (m : CtlMsg) : Bool := decide (m.payload.length ≤ 3)

/-- A Morkan packet has an upper header of 64 bytes or none, and a body that its 32-bit LEN can count (Table LNK-3). -/
def linkFits (p : LinkPacket) : Bool := (p.uhdr.length == 0 || p.uhdr.length == 64) && decide (p.body.length < 2 ^ 32)

/-- A frame has 32 flits, each with its VC (Table LNK-2). -/
def frameFits (fr : Frame) : Bool := decide (fr.vcmap.length ≤ 32)

/-- A fault event carries at most 32 bytes of DATA (Table FLT-2). -/
def faultFits (e : FaultEv) : Bool := decide (e.data.length ≤ 32)

/-- A session header's MAC has 16 bytes; a body has at most 4,128 (Table BOO-5). -/
def sessFits (h : SessHdr) : Bool := h.mac.length == 16

/-- A register offset names a word (R7). -/
def wordAligned {n : Nat} (off : BitVec n) : Bool := off.toNat % 4 == 0

/-- A command is well formed. -/
def Instr.wf : Instr → Bool
  | .nop _ _ => true
  | .wait _ _ => true
  | .clr _ _ => true
  | .add _ _ => true
  | .bara _ _ => true
  | .barw _ _ => true
  | .twait _ _ => true
  | .drain _ _ => true
  | .mark _ _ => true
  | .endSlice _ _ => true
  | .mset _ _ => true
  | .mma _ _ => true
  | .smma _ _ => true
  | .vop _ _ => true
  | .vred _ _ => true
  | .vcvt _ _ => true
  | .vtopk _ _ => true
  | .stream _ _ => true
  | .smerge _ _ => true
  | .scomp _ _ => true
  | .sexpd _ _ => true
  | .smask _ _ => true
  | .coll _ _ => true
  | .cairn _ _ => true
  | .cclose _ _ => true
  | .sha _ _ => true
  | .ledger _ _ => true
  | .undefinedOpcode _ _ => true
  | .commandFetch _ _ => true
  | .gangSpawn _ => true
  | .gangRetire _ _ => true
  | .commandComplete _ _ _ => true
  | .descriptorSetup _ _ => true
  | .segmentStart _ _ => true
  | .sliceBoundary _ => true
  | .sliceGuardPoint _ => true
  | .thermalStepDown _ => true
  | .thermalStepUp _ => true
  | .floorEscalation _ => true
  | .clockLevelChange _ => true
  | .clockLevelChangeEnd _ => true
  | .meshReadRequest p _ => meshFits p
  | .meshWrite p => meshFits p
  | .meshReadResponse p => meshFits p
  | .meshReduceAdd p => meshFits p
  | .meshWriteAck p => meshFits p
  | .meshErrorResponse p => meshFits p
  | .multicastReplicate _ p => meshFits p
  | .multicastLocalDeliver _ _ p => meshFits p
  | .bundleCrcRetry _ _ _ => true
  | .bundleFail _ _ _ => true
  | .bundleSpareResume _ _ => true
  | .routerFailed _ => true
  | .ctlTick _ _ => true
  | .ctlGcntSync _ => true
  | .ctlHoldRequest _ => true
  | .ctlHoldGrant _ _ => true
  | .barrierArrival _ _ => true
  | .barrierRelease _ _ => true
  | .ctlCreditGrant _ _ _ => true
  | .ctlFaultEvent e => faultFits e
  | .ctlConfigWrite _ _ off _ => wordAligned off
  | .ctlConfigRead _ _ off => wordAligned off
  | .ctlReadResponse _ _ off _ => wordAligned off
  | .ctlFence _ _ _ => true
  | .ctlParityFail _ _ m => ctlFits m.1
  | .csrWrite _ off _ => wordAligned off
  | .csrReadLowLatch _ off => wordAligned off
  | .arm _ _ => true
  | .armCheckDone _ => true
  | .disarm _ _ => true
  | .wardenReset _ => true
  | .wardenRestartDone => true
  | .wardenWatchdog => true
  | .moduleReset _ => true
  | .load _ => true
  | .loadCheckDone => true
  | .swapGo _ => true
  | .swapCancel _ => true
  | .configSwap => true
  | .domainOnRequest _ _ => true
  | .domainOffRequest _ _ => true
  | .domainSequenceStart => true
  | .domainStage _ => true
  | .domainRegulated _ => true
  | .domainReady _ => true
  | .domainOff _ => true
  | .domainReversal _ => true
  | .fenceRaise _ => true
  | .powerDownStart _ => true
  | .fenceLower _ => true
  | .droopClamp _ _ => true
  | .clampCeilingRaise _ => true
  | .phaseFault _ => true
  | .governorTick _ _ _ => true
  | .sensorRead _ _ => true
  | .shutdown cause _ => cause != 0
  | .inputVoltageFault => true
  | .shutdownIntervalEnd => true
  | .startupBegin => true
  | .startupDomainGroup => true
  | .startupDomainTimeout _ => true
  | .mrstNAssert _ => true
  | .ejectNLow => true
  | .ejectNHigh => true
  | .perstN _ => true
  | .rtcSet _ _ => true
  | .rtcHoldupLost => true
  | .hello _ nc _ => nc.length == 16
  | .proof _ body => decide (body.length ≤ 4128)
  | .sessionRead h _ _ => sessFits h
  | .sessionWrite h _ ws => sessFits h && decide (8 + 4 * ws.length ≤ 4128)
  | .stkWrite h _ bs => sessFits h && decide (8 + bs.length ≤ 4128)
  | .nvmProgram h _ _ _ => sessFits h
  | .nvmWriteKeySlot h _ key => sessFits h && key.length == 96
  | .nvmRaiseVfloor h _ => sessFits h
  | .close h => sessFits h
  | .sessionExpire _ => true
  | .sessionLockEnd => true
  | .mboxPost _ _ => true
  | .mboxOutAck _ => true
  | .mboxOutReady _ => true
  | .launchGo _ _ => true
  | .launchPropose _ _ => true
  | .reply _ _ => true
  | .launchCommitCount => true
  | .launchCommit _ _ => true
  | .launchCancel _ _ => true
  | .launchDecisionMissing => true
  | .launchPitchStart => true
  | .launchCount => true
  | .pitchBoundary => true
  | .congestionMapClose => true
  | .guardPoint => true
  | .holdReq _ _ => true
  | .holdDecisionCount => true
  | .decision _ _ => true
  | .decisionMissing => true
  | .overrunReceived _ _ => true
  | .abandonCount => true
  | .abandon _ => true
  | .logClr _ => true
  | .msixHoldExpire _ => true
  | .timeReqSend => true
  | .timeReq _ _ _ => true
  | .timeResp _ => true
  | .timeRespTimeout => true
  | .syncInterval => true
  | .holdoverAlignmentLost => true
  | .holdoverMemberLost _ => true
  | .referenceFallback => true
  | .timeRootRtcSet => true
  | .syncSublinkReturn => true
  | .memberLost _ => true
  | .leadLost => true
  | .dataFrame _ _ fr => frameFits fr
  | .nullFrame _ _ fr => frameFits fr
  | .frameFail _ _ => true
  | .replyRequest _ _ _ => true
  | .replayTimeout _ _ => true
  | .warmRetrain _ _ => true
  | .retrainDone _ _ => true
  | .trainingDone _ _ => true
  | .caps _ _ _ => true
  | .linkLoss _ _ => true
  | .laneFail _ _ _ => true
  | .laneSwap _ _ _ _ _ => true
  | .laneSwapAck _ _ _ _ _ => true
  | .laneSwapCommit _ _ => true
  | .bivouacTrigger _ _ _ => true
  | .bivReq _ _ _ _ => true
  | .bivAck _ _ _ _ => true
  | .bivNak _ _ _ => true
  | .bivCancel _ _ _ => true
  | .bivouacCommitPoint _ _ _ => true
  | .bivouacWake _ _ => true
  | .wakeComplete _ _ _ => true
  | .echo _ _ body => body.length == 32
  | .dis _ _ _ => true
  | .quarClr _ _ => true
  | .lnkLoopWrite _ _ _ => true
  | .loopClearAtLaunch => true
  | .violationDecay _ => true
  | .linkReadRequest _ _ p => linkFits p.1
  | .linkWrite _ _ p => linkFits p
  | .linkReadResponse _ _ p => linkFits p
  | .linkReduceAdd _ _ p => linkFits p
  | .linkWriteAck _ _ p => linkFits p
  | .linkErrorResponse _ _ p => linkFits p
  | .archiveRecord _ _ p => linkFits p
  | .archiveDigestRecord _ _ p => linkFits p
  | .archiveErrorRecord _ _ p => linkFits p
  | .chainChunkHeader _ _ p => linkFits p
  | .belayGrant _ _ p => linkFits p
  | .nack _ _ p => linkFits p
  | .belayGrantSend _ => true
  | .leaseRenewal _ => true
  | .leaseExpire _ _ => true
  | .fabRevoke _ _ => true
  | .ropeWindowOpen _ _ => true
  | .ropeWindowClose _ _ => true
  | .ordPacketRelease _ _ => true
  | .archiveRequestIssue _ _ => true
  | .archiveReturnSend _ _ => true
  | .parkedRefetch _ => true
  | .folioDigestDone _ _ => true
  | .scrubStart => true
  | .scrubEntryDone _ => true
  | .requestTimeout _ => true
  | .ackTimeout _ => true
  | .lateResponseDiscard _ => true
  | .hostFlushReadDone _ _ => true
  | .stackRefresh _ _ => true
  | .refreshRateChange _ => true
  | .patrolScrubRead _ _ => true
  | .collectiveStart _ _ => true
  | .chainChunkLanded _ _ _ _ => true
  | .chainChunkForward _ _ _ => true
  | .chainChunkRelease _ _ _ => true
  | .reduceScatterAdd _ _ _ => true
  | .expertDispatchSend _ _ => true
  | .expertCombineReturn _ _ => true
  | .ledgerRecordWritten => true
  | .stateSkew kind _ => decide (1 ≤ kind.toNat) && decide (kind.toNat ≤ 5)
  | .hostReadCompletion _ _ _ bs => decide (bs.length ≤ 512)
  | .retrainFailed _ _ => true

end Sys2Proof
end

