-- ==== Sys2Proof/Laws/PerInstr.lean ====
section
/-! SUPPORT. One lemma per constructor: what a well-formed command carries fits the packet it stands for (Tables WAF-3 and LNK-3). -/

namespace Sys2Proof.Laws

/-- The mesh packet a command carries. -/
def meshOf : Instr → Option MeshPacket
  | .meshReadRequest p _ => some p
  | .meshWrite p => some p
  | .meshReadResponse p => some p
  | .meshReduceAdd p => some p
  | .meshWriteAck p => some p
  | .meshErrorResponse p => some p
  | .multicastReplicate _ p => some p
  | .multicastLocalDeliver _ _ p => some p
  | _ => none

/-- The Morkan packet a command carries. -/
def linkOf : Instr → Option LinkPacket
  | .linkReadRequest _ _ p => some p.1
  | .linkWrite _ _ p => some p
  | .linkReadResponse _ _ p => some p
  | .linkReduceAdd _ _ p => some p
  | .linkWriteAck _ _ p => some p
  | .linkErrorResponse _ _ p => some p
  | .archiveRecord _ _ p => some p
  | .archiveDigestRecord _ _ p => some p
  | .archiveErrorRecord _ _ p => some p
  | .chainChunkHeader _ _ p => some p
  | .belayGrant _ _ p => some p
  | .nack _ _ p => some p
  | _ => none

namespace Fits

/-- A well-formed command's mesh packet has at most 4,096 bytes, and its Morkan packet an upper header of 64 bytes or none. -/
def Statement (i : Instr) : Prop :=
  i.wf = true → (∀ p, meshOf i = some p → p.body.length ≤ 4096 ∧ p.rlen ≤ 4096) ∧
    (∀ p, linkOf i = some p → p.uhdr.length = 0 ∨ p.uhdr.length = 64)

/-- A command that carries no packet fits. -/
theorem plain (i : Instr) (hm : meshOf i = none) (hl : linkOf i = none) : Statement i := by
  intro _
  exact ⟨fun p h => by simp [hm] at h, fun p h => by simp [hl] at h⟩

/-- A command that carries a well-formed mesh packet fits. -/
theorem ofMesh (i : Instr) (p : MeshPacket) (hm : meshOf i = some p) (hl : linkOf i = none) (hw : i.wf = meshFits p) : Statement i := by
  intro h
  rw [hw] at h
  simp only [meshFits, Bool.and_eq_true, decide_eq_true_eq] at h
  exact ⟨fun q hq => by rw [hm] at hq; cases hq; exact h, fun q hq => by simp [hl] at hq⟩

/-- A command that carries a well-formed Morkan packet fits. -/
theorem ofLink (i : Instr) (p : LinkPacket) (hm : meshOf i = none) (hl : linkOf i = some p) (hw : i.wf = linkFits p) : Statement i := by
  intro h
  rw [hw] at h
  simp only [linkFits, Bool.and_eq_true, Bool.or_eq_true, beq_iff_eq] at h
  exact ⟨fun q hq => by simp [hm] at hq, fun q hq => by rw [hl] at hq; cases hq; exact h.1⟩

theorem nop (c : CoreIx) (t : TaskIx) : Statement (.nop c t) := plain _ rfl rfl
theorem wait (c : CoreIx) (t : TaskIx) : Statement (.wait c t) := plain _ rfl rfl
theorem clr (c : CoreIx) (t : TaskIx) : Statement (.clr c t) := plain _ rfl rfl
theorem add (c : CoreIx) (t : TaskIx) : Statement (.add c t) := plain _ rfl rfl
theorem bara (c : CoreIx) (t : TaskIx) : Statement (.bara c t) := plain _ rfl rfl
theorem barw (c : CoreIx) (t : TaskIx) : Statement (.barw c t) := plain _ rfl rfl
theorem twait (c : CoreIx) (t : TaskIx) : Statement (.twait c t) := plain _ rfl rfl
theorem drain (c : CoreIx) (t : TaskIx) : Statement (.drain c t) := plain _ rfl rfl
theorem mark (c : CoreIx) (t : TaskIx) : Statement (.mark c t) := plain _ rfl rfl
theorem endSlice (c : CoreIx) (t : TaskIx) : Statement (.endSlice c t) := plain _ rfl rfl
theorem mset (c : CoreIx) (t : TaskIx) : Statement (.mset c t) := plain _ rfl rfl
theorem mma (c : CoreIx) (t : TaskIx) : Statement (.mma c t) := plain _ rfl rfl
theorem smma (c : CoreIx) (t : TaskIx) : Statement (.smma c t) := plain _ rfl rfl
theorem vop (c : CoreIx) (t : TaskIx) : Statement (.vop c t) := plain _ rfl rfl
theorem vred (c : CoreIx) (t : TaskIx) : Statement (.vred c t) := plain _ rfl rfl
theorem vcvt (c : CoreIx) (t : TaskIx) : Statement (.vcvt c t) := plain _ rfl rfl
theorem vtopk (c : CoreIx) (t : TaskIx) : Statement (.vtopk c t) := plain _ rfl rfl
theorem stream (c : CoreIx) (t : TaskIx) : Statement (.stream c t) := plain _ rfl rfl
theorem smerge (c : CoreIx) (t : TaskIx) : Statement (.smerge c t) := plain _ rfl rfl
theorem scomp (c : CoreIx) (t : TaskIx) : Statement (.scomp c t) := plain _ rfl rfl
theorem sexpd (c : CoreIx) (t : TaskIx) : Statement (.sexpd c t) := plain _ rfl rfl
theorem smask (c : CoreIx) (t : TaskIx) : Statement (.smask c t) := plain _ rfl rfl
theorem coll (c : CoreIx) (t : TaskIx) : Statement (.coll c t) := plain _ rfl rfl
theorem cairn (c : CoreIx) (t : TaskIx) : Statement (.cairn c t) := plain _ rfl rfl
theorem cclose (c : CoreIx) (t : TaskIx) : Statement (.cclose c t) := plain _ rfl rfl
theorem sha (c : CoreIx) (t : TaskIx) : Statement (.sha c t) := plain _ rfl rfl
theorem ledger (c : CoreIx) (t : TaskIx) : Statement (.ledger c t) := plain _ rfl rfl
theorem undefinedOpcode (c : CoreIx) (t : TaskIx) : Statement (.undefinedOpcode c t) := plain _ rfl rfl
theorem commandFetch (c : CoreIx) (t : TaskIx × List EccErr) : Statement (.commandFetch c t) := plain _ rfl rfl
theorem gangSpawn (c : CoreIx) : Statement (.gangSpawn c) := plain _ rfl rfl
theorem gangRetire (c : CoreIx) (g : SlotIx × List EccErr) : Statement (.gangRetire c g) := plain _ rfl rfl
theorem commandComplete (c : CoreIx) (t : TaskIx) (q : Queue) : Statement (.commandComplete c t q) := plain _ rfl rfl
theorem descriptorSetup (c : CoreIx) (t : TaskIx × List EccErr) : Statement (.descriptorSetup c t) := plain _ rfl rfl
theorem segmentStart (c : CoreIx) (g : SlotIx × List EccErr) : Statement (.segmentStart c g) := plain _ rfl rfl
theorem sliceBoundary (c : CoreIx) : Statement (.sliceBoundary c) := plain _ rfl rfl
theorem sliceGuardPoint (c : CoreIx) : Statement (.sliceGuardPoint c) := plain _ rfl rfl
theorem thermalStepDown (f : FieldIx) : Statement (.thermalStepDown f) := plain _ rfl rfl
theorem thermalStepUp (c : CoreIx) : Statement (.thermalStepUp c) := plain _ rfl rfl
theorem floorEscalation (c : CoreIx) : Statement (.floorEscalation c) := plain _ rfl rfl
theorem clockLevelChange (c : CoreIx) : Statement (.clockLevelChange c) := plain _ rfl rfl
theorem clockLevelChangeEnd (c : CoreIx) : Statement (.clockLevelChangeEnd c) := plain _ rfl rfl
theorem meshReadRequest (p : MeshPacket) (ecc : List EccErr) : Statement (.meshReadRequest p ecc) := ofMesh _ p rfl rfl rfl
theorem meshWrite (p : MeshPacket) : Statement (.meshWrite p) := ofMesh _ p rfl rfl rfl
theorem meshReadResponse (p : MeshPacket) : Statement (.meshReadResponse p) := ofMesh _ p rfl rfl rfl
theorem meshReduceAdd (p : MeshPacket) : Statement (.meshReduceAdd p) := ofMesh _ p rfl rfl rfl
theorem meshWriteAck (p : MeshPacket) : Statement (.meshWriteAck p) := ofMesh _ p rfl rfl rfl
theorem meshErrorResponse (p : MeshPacket) : Statement (.meshErrorResponse p) := ofMesh _ p rfl rfl rfl
theorem multicastReplicate (f : FieldIx) (p : MeshPacket) : Statement (.multicastReplicate f p) := ofMesh _ p rfl rfl rfl
theorem multicastLocalDeliver (f : FieldIx) (c : Fin 4) (p : MeshPacket) : Statement (.multicastLocalDeliver f c p) := ofMesh _ p rfl rfl rfl
theorem bundleCrcRetry (f : FieldIx) (d : DirIx) (b : Fin 9 × Fin 17) : Statement (.bundleCrcRetry f d b) := plain _ rfl rfl
theorem bundleFail (f : FieldIx) (d : DirIx) (b : Fin 9) : Statement (.bundleFail f d b) := plain _ rfl rfl
theorem bundleSpareResume (f : FieldIx) (d : DirIx) : Statement (.bundleSpareResume f d) := plain _ rfl rfl
theorem routerFailed (f : FieldIx) : Statement (.routerFailed f) := plain _ rfl rfl
theorem ctlTick (f : FieldIx) (bound : W64) : Statement (.ctlTick f bound) := plain _ rfl rfl
theorem ctlGcntSync (count : W64) : Statement (.ctlGcntSync count) := plain _ rfl rfl
theorem ctlHoldRequest (c : CoreIx) : Statement (.ctlHoldRequest c) := plain _ rfl rfl
theorem ctlHoldGrant (f : FieldIx) (bound : W64) : Statement (.ctlHoldGrant f bound) := plain _ rfl rfl
theorem barrierArrival (bar : BitVec 12) (src : FieldIx) : Statement (.barrierArrival bar src) := plain _ rfl rfl
theorem barrierRelease (f : FieldIx) (bar : BitVec 12) : Statement (.barrierRelease f bar) := plain _ rfl rfl
theorem ctlCreditGrant (c : CoreIx) (ctx : BitVec 16) (count : BitVec 12) : Statement (.ctlCreditGrant c ctx count) := plain _ rfl rfl
theorem ctlFaultEvent (e : FaultEv) : Statement (.ctlFaultEvent e) := plain _ rfl rfl
theorem ctlConfigWrite (p : Path) (f : FieldIx) (off : BitVec 18) (v : W32) : Statement (.ctlConfigWrite p f off v) := plain _ rfl rfl
theorem ctlConfigRead (p : Path) (f : FieldIx) (off : BitVec 18) : Statement (.ctlConfigRead p f off) := plain _ rfl rfl
theorem ctlReadResponse (p : Path) (f : FieldIx) (off : BitVec 18) (v : W32) : Statement (.ctlReadResponse p f off v) := plain _ rfl rfl
theorem ctlFence (f : FieldIx) (d : DomIx) (raised : Bool) : Statement (.ctlFence f d raised) := plain _ rfl rfl
theorem ctlParityFail (f : FieldIx) (d : Fin 4) (m : CtlMsg × W32 × BitVec 2) : Statement (.ctlParityFail f d m) := plain _ rfl rfl
theorem csrWrite (p : Path) (off : BitVec 26) (v : W32) : Statement (.csrWrite p off v) := plain _ rfl rfl
theorem csrReadLowLatch (p : Path) (off : BitVec 26) : Statement (.csrReadLowLatch p off) := plain _ rfl rfl
theorem arm (p : Path) (slot : ImgIx) : Statement (.arm p slot) := plain _ rfl rfl
theorem armCheckDone (slot : ImgIx) : Statement (.armCheckDone slot) := plain _ rfl rfl
theorem disarm (p : Path) (slot : ImgIx) : Statement (.disarm p slot) := plain _ rfl rfl
theorem wardenReset (src : ResetSource) : Statement (.wardenReset src) := plain _ rfl rfl
theorem wardenRestartDone : Statement .wardenRestartDone := plain _ rfl rfl
theorem wardenWatchdog : Statement .wardenWatchdog := plain _ rfl rfl
theorem moduleReset (src : ResetSource) : Statement (.moduleReset src) := plain _ rfl rfl
theorem load (p : Path) : Statement (.load p) := plain _ rfl rfl
theorem loadCheckDone : Statement .loadCheckDone := plain _ rfl rfl
theorem swapGo (p : Path) : Statement (.swapGo p) := plain _ rfl rfl
theorem swapCancel (p : Path) : Statement (.swapCancel p) := plain _ rfl rfl
theorem configSwap : Statement .configSwap := plain _ rfl rfl
theorem domainOnRequest (p : Path) (d : BitVec 7) : Statement (.domainOnRequest p d) := plain _ rfl rfl
theorem domainOffRequest (p : Path) (d : BitVec 7) : Statement (.domainOffRequest p d) := plain _ rfl rfl
theorem domainSequenceStart : Statement .domainSequenceStart := plain _ rfl rfl
theorem domainStage (d : DomIx) : Statement (.domainStage d) := plain _ rfl rfl
theorem domainRegulated (d : DomIx) : Statement (.domainRegulated d) := plain _ rfl rfl
theorem domainReady (d : DomIx) : Statement (.domainReady d) := plain _ rfl rfl
theorem domainOff (d : DomIx) : Statement (.domainOff d) := plain _ rfl rfl
theorem domainReversal (d : DomIx) : Statement (.domainReversal d) := plain _ rfl rfl
theorem fenceRaise (d : DomIx) : Statement (.fenceRaise d) := plain _ rfl rfl
theorem powerDownStart (d : DomIx) : Statement (.powerDownStart d) := plain _ rfl rfl
theorem fenceLower (d : DomIx) : Statement (.fenceLower d) := plain _ rfl rfl
theorem droopClamp (f : FieldIx) (ns : Nat) : Statement (.droopClamp f ns) := plain _ rfl rfl
theorem clampCeilingRaise (f : FieldIx) : Statement (.clampCeilingRaise f) := plain _ rfl rfl
theorem phaseFault (z : DomIx) : Statement (.phaseFault z) := plain _ rfl rfl
theorem governorTick (avg10ms : Nat) (avg1s : Nat) (demand : FieldIx) : Statement (.governorTick avg10ms avg1s demand) := plain _ rfl rfl
theorem sensorRead (x : Sensor) (reading : Int) : Statement (.sensorRead x reading) := plain _ rfl rfl
theorem shutdown (cause : BitVec 2) (source : Byte) : Statement (.shutdown cause source) := plain _ rfl rfl
theorem inputVoltageFault : Statement .inputVoltageFault := plain _ rfl rfl
theorem shutdownIntervalEnd : Statement .shutdownIntervalEnd := plain _ rfl rfl
theorem startupBegin : Statement .startupBegin := plain _ rfl rfl
theorem startupDomainGroup : Statement .startupDomainGroup := plain _ rfl rfl
theorem startupDomainTimeout (d : DomIx) : Statement (.startupDomainTimeout d) := plain _ rfl rfl
theorem mrstNAssert (level : Bool) : Statement (.mrstNAssert level) := plain _ rfl rfl
theorem ejectNLow : Statement .ejectNLow := plain _ rfl rfl
theorem ejectNHigh : Statement .ejectNHigh := plain _ rfl rfl
theorem perstN (port : PortIx) : Statement (.perstN port) := plain _ rfl rfl
theorem rtcSet (p : Path) (v : W64) : Statement (.rtcSet p v) := plain _ rfl rfl
theorem rtcHoldupLost : Statement .rtcHoldupLost := plain _ rfl rfl
theorem hello (p : SessPath) (nc : List Byte) (lifetime : W32) : Statement (.hello p nc lifetime) := plain _ rfl rfl
theorem proof (p : SessPath) (body : List Byte) : Statement (.proof p body) := plain _ rfl rfl
theorem sessionRead (h : SessHdr) (off : W32) (n : W32) : Statement (.sessionRead h off n) := plain _ rfl rfl
theorem sessionWrite (h : SessHdr) (off : W32) (ws : List W32) : Statement (.sessionWrite h off ws) := plain _ rfl rfl
theorem stkWrite (h : SessHdr) (off : W64) (bs : List Byte) : Statement (.stkWrite h off bs) := plain _ rfl rfl
theorem nvmProgram (h : SessHdr) (nvmOff : W32) (stkOff : W64) (len : W32) : Statement (.nvmProgram h nvmOff stkOff len) := plain _ rfl rfl
theorem nvmWriteKeySlot (h : SessHdr) (slot : Fin 4) (key : List Byte) : Statement (.nvmWriteKeySlot h slot key) := plain _ rfl rfl
theorem nvmRaiseVfloor (h : SessHdr) (v : W32) : Statement (.nvmRaiseVfloor h v) := plain _ rfl rfl
theorem close (h : SessHdr) : Statement (.close h) := plain _ rfl rfl
theorem sessionExpire (k : Fin 4) : Statement (.sessionExpire k) := plain _ rfl rfl
theorem sessionLockEnd : Statement .sessionLockEnd := plain _ rfl rfl
theorem mboxPost (port : PortIx) (inLen : BitVec 13) : Statement (.mboxPost port inLen) := plain _ rfl rfl
theorem mboxOutAck (port : PortIx) : Statement (.mboxOutAck port) := plain _ rfl rfl
theorem mboxOutReady (port : PortIx) : Statement (.mboxOutReady port) := plain _ rfl rfl
theorem launchGo (p : Path) (slot : ImgIx) : Statement (.launchGo p slot) := plain _ rfl rfl
theorem launchPropose (g : GroupIx) (m : TeamMsg) : Statement (.launchPropose g m) := plain _ rfl rfl
theorem reply (g : GroupIx) (m : TeamMsg) : Statement (.reply g m) := plain _ rfl rfl
theorem launchCommitCount : Statement .launchCommitCount := plain _ rfl rfl
theorem launchCommit (g : GroupIx) (m : TeamMsg) : Statement (.launchCommit g m) := plain _ rfl rfl
theorem launchCancel (g : GroupIx) (m : TeamMsg) : Statement (.launchCancel g m) := plain _ rfl rfl
theorem launchDecisionMissing : Statement .launchDecisionMissing := plain _ rfl rfl
theorem launchPitchStart : Statement .launchPitchStart := plain _ rfl rfl
theorem launchCount : Statement .launchCount := plain _ rfl rfl
theorem pitchBoundary : Statement .pitchBoundary := plain _ rfl rfl
theorem congestionMapClose : Statement .congestionMapClose := plain _ rfl rfl
theorem guardPoint : Statement .guardPoint := plain _ rfl rfl
theorem holdReq (g : GroupIx) (m : TeamMsg) : Statement (.holdReq g m) := plain _ rfl rfl
theorem holdDecisionCount : Statement .holdDecisionCount := plain _ rfl rfl
theorem decision (g : GroupIx) (m : TeamMsg) : Statement (.decision g m) := plain _ rfl rfl
theorem decisionMissing : Statement .decisionMissing := plain _ rfl rfl
theorem overrunReceived (g : GroupIx) (m : TeamMsg) : Statement (.overrunReceived g m) := plain _ rfl rfl
theorem abandonCount : Statement .abandonCount := plain _ rfl rfl
theorem abandon (p : Path) : Statement (.abandon p) := plain _ rfl rfl
theorem logClr (p : Path) : Statement (.logClr p) := plain _ rfl rfl
theorem msixHoldExpire (port : PortIx) : Statement (.msixHoldExpire port) := plain _ rfl rfl
theorem timeReqSend : Statement .timeReqSend := plain _ rfl rfl
theorem timeReq (g : GroupIx) (u : SubIx) (m : TeamMsg) : Statement (.timeReq g u m) := plain _ rfl rfl
theorem timeResp (m : TeamMsg) : Statement (.timeResp m) := plain _ rfl rfl
theorem timeRespTimeout : Statement .timeRespTimeout := plain _ rfl rfl
theorem syncInterval : Statement .syncInterval := plain _ rfl rfl
theorem holdoverAlignmentLost : Statement .holdoverAlignmentLost := plain _ rfl rfl
theorem holdoverMemberLost (m : ModIx) : Statement (.holdoverMemberLost m) := plain _ rfl rfl
theorem referenceFallback : Statement .referenceFallback := plain _ rfl rfl
theorem timeRootRtcSet : Statement .timeRootRtcSet := plain _ rfl rfl
theorem syncSublinkReturn : Statement .syncSublinkReturn := plain _ rfl rfl
theorem memberLost (m : ModIx) : Statement (.memberLost m) := plain _ rfl rfl
theorem leadLost : Statement .leadLost := plain _ rfl rfl
theorem dataFrame (g : GroupIx) (u : SubIx) (fr : Frame) : Statement (.dataFrame g u fr) := plain _ rfl rfl
theorem nullFrame (g : GroupIx) (u : SubIx) (fr : Frame) : Statement (.nullFrame g u fr) := plain _ rfl rfl
theorem frameFail (g : GroupIx) (u : SubIx × Nat × Nat) : Statement (.frameFail g u) := plain _ rfl rfl
theorem replyRequest (g : GroupIx) (u : SubIx) (e : BitVec 12) : Statement (.replyRequest g u e) := plain _ rfl rfl
theorem replayTimeout (g : GroupIx) (u : SubIx) : Statement (.replayTimeout g u) := plain _ rfl rfl
theorem warmRetrain (g : GroupIx) (u : SubIx) : Statement (.warmRetrain g u) := plain _ rfl rfl
theorem retrainDone (g : GroupIx) (u : SubIx) : Statement (.retrainDone g u) := plain _ rfl rfl
theorem trainingDone (g : GroupIx) (u : SubIx) : Statement (.trainingDone g u) := plain _ rfl rfl
theorem caps (g : GroupIx) (u : SubIx) (b : Caps) : Statement (.caps g u b) := plain _ rfl rfl
theorem linkLoss (g : GroupIx) (u : SubIx) : Statement (.linkLoss g u) := plain _ rfl rfl
theorem laneFail (g : GroupIx) (u : SubIx) (lane : Fin 34) : Statement (.laneFail g u lane) := plain _ rfl rfl
theorem laneSwap (g : GroupIx) (u : SubIx) (failed : Fin 34) (spare : Fin 34) (commit : W32) : Statement (.laneSwap g u failed spare commit) := plain _ rfl rfl
theorem laneSwapAck (g : GroupIx) (u : SubIx) (failed : Fin 34) (spare : Fin 34) (commit : W32) : Statement (.laneSwapAck g u failed spare commit) := plain _ rfl rfl
theorem laneSwapCommit (g : GroupIx) (u : SubIx) : Statement (.laneSwapCommit g u) := plain _ rfl rfl
theorem bivouacTrigger (g : GroupIx) (u : SubIx) (full : Bool) : Statement (.bivouacTrigger g u full) := plain _ rfl rfl
theorem bivReq (g : GroupIx) (u : SubIx) (full : Bool) (commit : W32) : Statement (.bivReq g u full commit) := plain _ rfl rfl
theorem bivAck (g : GroupIx) (u : SubIx) (full : Bool) (commit : W32) : Statement (.bivAck g u full commit) := plain _ rfl rfl
theorem bivNak (g : GroupIx) (u : SubIx) (reason : Byte) : Statement (.bivNak g u reason) := plain _ rfl rfl
theorem bivCancel (g : GroupIx) (u : SubIx) (commit : W32) : Statement (.bivCancel g u commit) := plain _ rfl rfl
theorem bivouacCommitPoint (g : GroupIx) (u : SubIx) (rx : Bool) : Statement (.bivouacCommitPoint g u rx) := plain _ rfl rfl
theorem bivouacWake (g : GroupIx) (u : SubIx) : Statement (.bivouacWake g u) := plain _ rfl rfl
theorem wakeComplete (g : GroupIx) (u : SubIx) (rx : Bool) : Statement (.wakeComplete g u rx) := plain _ rfl rfl
theorem echo (g : GroupIx) (u : SubIx) (body : List Byte) : Statement (.echo g u body) := plain _ rfl rfl
theorem dis (p : Path) (g : GroupIx) (d : BitVec 2) : Statement (.dis p g d) := plain _ rfl rfl
theorem quarClr (p : Path) (g : GroupIx) : Statement (.quarClr p g) := plain _ rfl rfl
theorem lnkLoopWrite (p : Path) (g : GroupIx) (v : W32) : Statement (.lnkLoopWrite p g v) := plain _ rfl rfl
theorem loopClearAtLaunch : Statement .loopClearAtLaunch := plain _ rfl rfl
theorem violationDecay (g : GroupIx) : Statement (.violationDecay g) := plain _ rfl rfl
theorem linkReadRequest (g : GroupIx) (u : SubIx) (p : LinkPacket × List EccErr) : Statement (.linkReadRequest g u p) := ofLink _ p.1 rfl rfl rfl
theorem linkWrite (g : GroupIx) (u : SubIx) (p : LinkPacket) : Statement (.linkWrite g u p) := ofLink _ p rfl rfl rfl
theorem linkReadResponse (g : GroupIx) (u : SubIx) (p : LinkPacket) : Statement (.linkReadResponse g u p) := ofLink _ p rfl rfl rfl
theorem linkReduceAdd (g : GroupIx) (u : SubIx) (p : LinkPacket) : Statement (.linkReduceAdd g u p) := ofLink _ p rfl rfl rfl
theorem linkWriteAck (g : GroupIx) (u : SubIx) (p : LinkPacket) : Statement (.linkWriteAck g u p) := ofLink _ p rfl rfl rfl
theorem linkErrorResponse (g : GroupIx) (u : SubIx) (p : LinkPacket) : Statement (.linkErrorResponse g u p) := ofLink _ p rfl rfl rfl
theorem archiveRecord (g : GroupIx) (u : SubIx) (p : LinkPacket) : Statement (.archiveRecord g u p) := ofLink _ p rfl rfl rfl
theorem archiveDigestRecord (g : GroupIx) (u : SubIx) (p : LinkPacket) : Statement (.archiveDigestRecord g u p) := ofLink _ p rfl rfl rfl
theorem archiveErrorRecord (g : GroupIx) (u : SubIx) (p : LinkPacket) : Statement (.archiveErrorRecord g u p) := ofLink _ p rfl rfl rfl
theorem chainChunkHeader (g : GroupIx) (u : SubIx) (p : LinkPacket) : Statement (.chainChunkHeader g u p) := ofLink _ p rfl rfl rfl
theorem belayGrant (g : GroupIx) (u : SubIx) (p : LinkPacket) : Statement (.belayGrant g u p) := ofLink _ p rfl rfl rfl
theorem nack (g : GroupIx) (u : SubIx) (p : LinkPacket) : Statement (.nack g u p) := ofLink _ p rfl rfl rfl
theorem belayGrantSend (ctx : BitVec 16) : Statement (.belayGrantSend ctx) := plain _ rfl rfl
theorem leaseRenewal (ctx : BitVec 16) : Statement (.leaseRenewal ctx) := plain _ rfl rfl
theorem leaseExpire (ctx : BitVec 16) (holder : Bool) : Statement (.leaseExpire ctx holder) := plain _ rfl rfl
theorem fabRevoke (p : Path) (v : W32) : Statement (.fabRevoke p v) := plain _ rfl rfl
theorem ropeWindowOpen (rope : BitVec 12) (entry : Nat) : Statement (.ropeWindowOpen rope entry) := plain _ rfl rfl
theorem ropeWindowClose (rope : BitVec 12) (entry : Nat) : Statement (.ropeWindowClose rope entry) := plain _ rfl rfl
theorem ordPacketRelease (g : GroupIx) (u : SubIx) : Statement (.ordPacketRelease g u) := plain _ rfl rfl
theorem archiveRequestIssue (g : GroupIx) (u : SubIx) : Statement (.archiveRequestIssue g u) := plain _ rfl rfl
theorem archiveReturnSend (c : CoreIx) (g : SlotIx) : Statement (.archiveReturnSend c g) := plain _ rfl rfl
theorem parkedRefetch (ctx : BitVec 16) : Statement (.parkedRefetch ctx) := plain _ rfl rfl
theorem folioDigestDone (accession : BitVec 48) (index : Nat) : Statement (.folioDigestDone accession index) := plain _ rfl rfl
theorem scrubStart : Statement .scrubStart := plain _ rfl rfl
theorem scrubEntryDone (entry : Fin 256) : Statement (.scrubEntryDone entry) := plain _ rfl rfl
theorem requestTimeout (req : Nat) : Statement (.requestTimeout req) := plain _ rfl rfl
theorem ackTimeout (req : Nat) : Statement (.ackTimeout req) := plain _ rfl rfl
theorem lateResponseDiscard (req : Nat) : Statement (.lateResponseDiscard req) := plain _ rfl rfl
theorem hostFlushReadDone (port : PortIx) (req : Nat) : Statement (.hostFlushReadDone port req) := plain _ rfl rfl
theorem stackRefresh (f : FieldIx) (delayed : Nat) : Statement (.stackRefresh f delayed) := plain _ rfl rfl
theorem refreshRateChange (f : FieldIx) : Statement (.refreshRateChange f) := plain _ rfl rfl
theorem patrolScrubRead (addr : W64) (ecc : BitVec 2) : Statement (.patrolScrubRead addr ecc) := plain _ rfl rfl
theorem collectiveStart (c : CoreIx) (g : SlotIx) : Statement (.collectiveStart c g) := plain _ rfl rfl
theorem chainChunkLanded (c : CoreIx) (g : SlotIx) (chunk : Nat) (errs : List AddErr) : Statement (.chainChunkLanded c g chunk errs) := plain _ rfl rfl
theorem chainChunkForward (c : CoreIx) (g : SlotIx) (chunk : Nat) : Statement (.chainChunkForward c g chunk) := plain _ rfl rfl
theorem chainChunkRelease (c : CoreIx) (g : SlotIx) (chunk : Nat) : Statement (.chainChunkRelease c g chunk) := plain _ rfl rfl
theorem reduceScatterAdd (c : CoreIx) (g : SlotIx) (errs : List AddErr) : Statement (.reduceScatterAdd c g errs) := plain _ rfl rfl
theorem expertDispatchSend (c : CoreIx) (g : SlotIx) : Statement (.expertDispatchSend c g) := plain _ rfl rfl
theorem expertCombineReturn (c : CoreIx) (g : SlotIx) : Statement (.expertCombineReturn c g) := plain _ rfl rfl
theorem ledgerRecordWritten : Statement .ledgerRecordWritten := plain _ rfl rfl
theorem stateSkew (kind : Byte) (again : Bool) : Statement (.stateSkew kind again) := plain _ rfl rfl
theorem hostReadCompletion (port : PortIx) (req : Nat) (poison : Bool) (bs : List Byte) : Statement (.hostReadCompletion port req poison bs) := plain _ rfl rfl
theorem retrainFailed (g : GroupIx) (u : SubIx) : Statement (.retrainFailed g u) := plain _ rfl rfl

end Fits

end Sys2Proof.Laws
end

