-- ==== Sys2Proof/Machine/Line.lean ====
section
/-! DEFINITION. What a sublink puts on its lanes (R345, R346): the scrambler, the RS(544,514) code, quads and lanes, and the four levels.
Only the part at the other end of the copper can see any of it, so no command reads it (log entry 59). -/

namespace Sys2Proof.Machine

/-! ## Scrambler -/

/-- The self-synchronous scrambler x⁵⁸ + x³⁹ + 1: each bit leaves with the 39th and the 58th last bits that left; `past` holds those,
newest first. -/
def scramble : List Bool → List Bool → List Bool
  | _, [] => []
  | past, b :: rest =>
    let out := b ^^ past.getD 38 false ^^ past.getD 57 false
    out :: scramble (out :: past.take 57) rest

/-- Its inverse at the receiver. -/
def descramble : List Bool → List Bool → List Bool
  | _, [] => []
  | past, b :: rest => (b ^^ past.getD 38 false ^^ past.getD 57 false) :: descramble (b :: past.take 57) rest

/-- The bits of a byte string, least significant first. -/
def bitStream (bs : List Byte) : List Bool := bs.flatMap fun b => (List.range 8).map b.getLsbD

/-! ## RS(544,514) over GF(2¹⁰) -/

/-- Twice an element of GF(2¹⁰), whose field polynomial is x¹⁰ + x³ + 1 (PRESUMED, the code R346 names; log entry 59). -/
def gfTwice (a : Nat) : Nat := if 512 ≤ a then (2 * a) ^^^ 0x409 else 2 * a

/-- The product of two elements: `n` bits of the second left. -/
def gfMul : Nat → Nat → Nat → Nat
  | 0, _, _ => 0
  | n + 1, a, b => (if b % 2 = 1 then a else 0) ^^^ gfMul n (gfTwice a) (b / 2)

/-- Powers of the primitive element. -/
def gfAlpha : Nat → Nat
  | 0 => 1
  | n + 1 => gfTwice (gfAlpha n)

/-- A polynomial, highest coefficient first, times (x + `r`). -/
def polyTimes (p : List Nat) (r : Nat) : List Nat :=
  List.zipWith (fun a b => a ^^^ b) (p ++ [0]) (0 :: p.map fun c => gfMul 10 c r)

/-- The generator: its roots are the powers 0 to 29 of the primitive element. -/
def rsGenerator : List Nat := (List.range 30).foldl (fun p i => polyTimes p (gfAlpha i)) [1]

/-- A data symbol enters the remainder, highest coefficient first. -/
def rsFeed (rem : List Nat) (x : Nat) : List Nat :=
  let q := x ^^^ rem.headD 0
  List.zipWith (fun a g => a ^^^ gfMul 10 g q) (rem.drop 1 ++ [0]) (rsGenerator.drop 1)

/-- A codeword: 514 data symbols and 30 of parity. -/
def rsEncode (data : List Nat) : List Nat := data ++ data.foldl rsFeed (List.replicate 30 0)

/-- Symbols of 10 bits, filled least significant bit first; `n` bounds them. -/
def symbols10 : Nat → List Bool → List Nat
  | 0, _ => []
  | n + 1, bs =>
    if bs.isEmpty then [] else ((bs.take 10).foldr (fun b a => 2 * a + (if b then 1 else 0)) 0) :: symbols10 n (bs.drop 10)

/-- The codewords of a stream of symbols; `n` bounds them. -/
def codewords : Nat → List Nat → List (List Nat)
  | 0, _ => []
  | n + 1, xs => if xs.isEmpty then [] else rsEncode (xs.take 514) :: codewords n (xs.drop 514)

/-- The 64 codewords of a superframe, which carry five frames. -/
def superframeWords (past : List Bool) (frames : List (List Byte)) : List (List Nat) :=
  codewords 64 (symbols10 32896 (scramble past (bitStream frames.flatten)))

/-! ## Lanes -/

/-- The active position that symbol `i` of codeword `j` goes to, with `n` quads active. -/
def lanePosition (n j i : Nat) : Nat := 4 * (j % n) + i % 4

/-- What each active position carries of a superframe's codewords. -/
def laneSymbols (n : Nat) (words : List (List Nat)) (pos : Nat) : List Nat :=
  (words.zipIdx.flatMap fun w => w.1.zipIdx.filter fun x => lanePosition n w.2 x.2 == pos).map Prod.fst

/-- The level of a pair of bits: 00, 01, 11 and 10 are levels 0 to 3 (R345). -/
def pamLevel (hi lo : Bool) : Nat :=
  match hi, lo with
  | false, false => 0
  | false, true => 1
  | true, true => 2
  | true, false => 3

end Sys2Proof.Machine
end

