-- ==== Sys2Proof/Tests/Slice0.lean ====
section
/-! SUPPORT. Tests: an ill-formed command for each check, a state and operands that meet the hypotheses of each statement, clause by
clause, and single steps against values of the spec. -/

open Sys2Proof Sys2Proof.Machine

section

set_option Elab.async false

/-! ## Small states -/

/-- Every domain is on and a run is active that uses every core. -/
def liveS : State :=
  { State.reset with
    pwr := { State.reset.pwr with dom := Vector.replicate 88 { st := .on } }
    pit := { State.reset.pit with run := .running, image := { mask := 2 ^ 256 - 1 } } }

/-- `f` applied to context 0 of core 0. -/
def taskS (f : Task → Task) (s : State := liveS) : State := s.modTask 0 0 f

/-- Carrels of context 0: data carrel 0 is the matrix group, data carrel 1 the vector group of core 0's scratchpad. -/
def carS (s : State := liveS) : State :=
  s.modTask 0 0 fun k => { k with carrels := (k.carrels.set 1 ⟨0, 0x13FFFFF, 0xE0000000⟩).set 2 ⟨0x1400000, 0x1DFFFFF, 0xE0000000⟩ }

/-- A word of opcode `o` and body `b`. -/
def word (o : Nat) (b : Nat := 0) : W128 := BitVec.ofNat 128 (o * 2 ^ 120 + b)

/-- A word at the head of queue `q` of context 0 of core 0. -/
def headS (q : Queue) (w : W128) (s : State := liveS) : State := s.modTask 0 0 fun k => k.setQueue q [⟨w, 3⟩]

/-- Data carrel 1 in the operand fields of a vector command. -/
def vecBody (o : Nat) : Nat := 2 ^ 93 + 2 ^ 74 + (if o = 0x30 then 2 ^ 55 else 0)

/-- An issued command of context 0. -/
def cmdOf (o : Nat) (q : Queue) : Cmd :=
  { id := 7, queue := q, word := word o, index := 0, time := 0, mp := {}, anch := false, gangs := 1, spawned := 0, retired := 0,
    acks := 0, toSet := 0, descs := [], lost := false }

/-- A gang of command 7. -/
def gangOf (q : Queue) : Gang := { slot := 0, task := 0, queue := q, cmd := 7, index := 0 }

/-- A descriptor of zeros. -/
def descZ : Desc := { bytes := zeros 64, poison := false, first := 0, segs := 1, ready := 0 }

/-- Core 0 with a gang and its command. -/
def gangS (q : Queue) (x : Cmd) (g : Gang := gangOf q) (s : State := liveS) : State :=
  (s.modTask 0 0 fun k => { k with cmds := [x] }).modCore 0 fun k => { k with gangs := [g] }

/-- Declarations of a stream context. -/
def declS (ctx : BitVec 16) : CtxEntry :=
  { ctx := ctx, region := 0, port := 6, peer := 1, dir := 3, window := 65536, rope := 0xFFF, lease := 2 }

/-- The loaded run has context 0x4000. -/
def ctxS (k : Ctx := { decl := declS 0x4000 }) (s : State := liveS) : State := { s with fab := { s.fab with ctxs := [k] } }

/-! ## The whole machine -/

theorem test_witness_StepRunsTheFrontCommand :
    ({ State.reset with pending := [.moduleReset .pin] } : State).pending = .moduleReset .pin :: [] := by decide

theorem test_witness_IdleStepAdvancesTime : State.reset.pending = [] ∧ State.reset.pit.gcntSet = false ∧ State.reset.gcnt + 3 < 2 ^ 64 ∧
    (let s := { State.reset with pit := { State.reset.pit with gcntSet := true } }
     s.pit.gcntSet = true ∧ s.rate = 0 ∧ s.pit.phase = 0 ∧ s.pit.slew = 0 ∧ s.gcnt + 1 < 2 ^ 64) := by decide +kernel

theorem test_witness_CommandsKeepTheQueue : ∃ c s t, exec c s = .next t ∧ s.pending ≠ [] :=
  ⟨.rtcHoldupLost, { State.reset with pending := [.startupBegin] }, _, rfl, by decide⟩

theorem test_witness_StepsKeepInvariant : liveS.Inv ∧ step liveS = .next liveS.tick :=
  ⟨by unfold State.Inv; decide +kernel, rfl⟩

/-! ## Tile commands -/

theorem test_witness_WaitingCommandsIssueOnTheirCondition : ∀ o ∈ [0x00, 0x08, 0x01, 0x05, 0x06, 0x07],
    (headS .ctl (word o)).ready 0 0 .ctl o ⟨word o, 3⟩ := by unfold State.ready; decide +kernel

theorem test_witness_RaiseSaturatesOneCounter :
    (taskS fun k => { k with ctr := k.ctr.set 63 0xFFFFFFFF }).ctr 0 0 63 = 2 ^ 32 - 1 ∧ 0 < 1 := by decide +kernel

theorem test_witness_ImmediateCommandsTakeEffect :
    (∀ o ∈ [0x02, 0x03, 0x0F, 0x04], wRen (word o) = false ∧ (headS .ctl (word o)).ready 0 0 .ctl o ⟨word o, 3⟩ ∧
      (∀ x ∈ ((headS .ctl (word o)).task 0 0).cmds, x.queue ≠ .ctl) ∧ (headS .ctl (word o)).ctlCuts = []) ∧
    wRen (word 0x11) = false ∧ (headS .mat (word 0x11)).ready 0 0 .mat 0x11 ⟨word 0x11, 3⟩ := by
  unfold State.ready; decide +kernel

theorem test_witness_CommandsIssueWithTheirGangs :
    (∀ o ∈ [0x10, 0x20], (headS .mat (word o) (carS)).ready 0 0 .mat o ⟨word o, 3⟩) ∧
    (∀ o ∈ [0x30, 0x31, 0x32, 0x33], (headS .vec (word o (vecBody o)) carS).ready 0 0 .vec o ⟨word o (vecBody o), 3⟩) ∧
    (∀ o ∈ [0x40, 0x50, 0x51, 0x52, 0x53, 0x60, 0x70, 0x71, 0x72, 0x73], (headS .str (word o) carS).ready 0 0 .str o ⟨word o, 3⟩) := by
  unfold State.ready; decide +kernel

theorem test_witness_CommandsWaitAtTheirHead :
    tileRow (.nop 0 0) = some (0, 0, .ctl, 0x00) ∧ liveS.headOf 0 0 .ctl = none ∧
    (let s := headS .ctl (word 0x08)
     s.headOf 0 0 .ctl = some ⟨word 0x08, 3⟩ ∧ wOpc (word 0x08) ≠ 0x00) ∧
    (let s := headS .ctl (word 0x00) State.reset
     s.headOf 0 0 .ctl = some ⟨word 0x00, 3⟩ ∧ s.mayIssue 0 0 = false) ∧
    (let s := taskS (fun k => { k with cmds := [{ cmdOf 0x08 .ctl with word := word 0x08 (2 ^ 119) }] }) (headS .ctl (word 0x00))
     s.illegal? 0 0 (word 0x00) = none ∧ s.serialised 0 0 .ctl = true) ∧
    (let s := headS .ctl (word 0x00 (2 ^ 96))
     s.illegal? 0 0 (word 0x00 (2 ^ 96)) = none ∧ s.waitMet 0 0 (word 0x00 (2 ^ 96)) = false) := by decide +kernel

theorem test_witness_IllegalCommandStopsItsTask :
    (let s := headS .ctl (word 0x00 1)
     s.headOf 0 0 .ctl = some ⟨word 0x00 1, 3⟩ ∧ s.mayIssue 0 0 = true ∧ s.illegal? 0 0 (word 0x00 1) = some { code := 2 } ∧
       tileRow (.nop 0 0) = some (0, 0, .ctl, wOpc (word 0x00 1))) ∧
    (let s := headS .ctl (word 0x0E)
     s.headOf 0 0 .ctl = some ⟨word 0x0E, 3⟩ ∧ s.mayIssue 0 0 = true ∧ opDefined (wOpc (word 0x0E)) = false) := by decide +kernel

theorem test_witness_FetchFillsTheQueue :
    (∀ n ∈ [63, 64], ∀ skip ∈ [0, 5],
      let s := taskS fun k => { k with active := true, sliceLen := 1, skipTo := skip, ctl := List.replicate n ⟨word 0, 0⟩ }
      let s := { s with mem := s.mem.write 0 (zeros 64) [] }
      let k := s.task 0 0
      s.fetches 0 0 = true ∧ k.fetchIx < k.sliceLen ∧ s.mem.anyPoison 0 16 = false ∧ (k.queue (opQueue (wOpc (s.fetchWord k []).1))).length = n ∧
        decide (k.skipTo ≠ 0 ∧ skipEnds (s.fetchWord k []).1 k.skipTo = false) = decide (skip = 5)) ∧
    (let s := taskS fun k => { k with active := true }
     s.fetches 0 0 = true ∧ (s.task 0 0).sliceLen ≤ (s.task 0 0).fetchIx) ∧
    State.reset.fetches 0 0 = false := by decide +kernel

theorem test_witness_SpawnTakesQueuesInOrder :
    (∀ q ∈ [Queue.mat, .vec, .str],
      let x := { cmdOf 0x10 q with word := word (match q with | .mat => 0x10 | .vec => 0x30 | _ => 0x40) }
      let s := taskS (fun k => { k with cmds := [x] })
      s.spawns 0 = true ∧ s.waiting 0 q = some (0, x) ∧ s.slotsFor 0 q x = true ∧ ∀ p ∈ [Queue.mat, .vec, .str], p ≠ q → s.waiting 0 p = none) ∧
    (liveS.spawns 0 = true ∧ ∀ p ∈ [Queue.mat, .vec, .str], liveS.waiting 0 p = none) ∧ State.reset.spawns 0 = false := by
  decide +kernel

theorem test_witness_GangsRetireAndCommandsReport :
    (∀ r ∈ [0, 1],
      let x := { gangOf .mat with engine := some 0, ready := r }
      let s := gangS .mat (cmdOf 0x10 .mat) x
      (s.core 0).gang? 0 = some x ∧ (s.task 0 x.task).cmd? x.cmd = some (cmdOf 0x10 .mat) ∧ x.queue = .mat ∧ x.engine = some 0 ∧
        (x.ready ≤ 17 * s.now ↔ r = 0)) ∧
    (let s := gangS .vec (cmdOf 0x30 .vec)
     (s.core 0).gang? 0 = some (gangOf .vec) ∧ (s.task 0 0).cmd? 7 = some (cmdOf 0x30 .vec) ∧ (gangOf .vec).ready ≤ 17 * s.now) ∧
    (∀ b ∈ [false, true],
      let x := { cmdOf 0x71 .str with descs := [descZ] }
      let g := { gangOf .str with started := b }
      let s := gangS .str x g
      (s.core 0).gang? 0 = some g ∧ (s.task 0 0).cmd? 7 = some x ∧ x.descFor 0 = some (0, descZ) ∧ g.ready ≤ 17 * s.now ∧ g.settled = b ∧
        s.holdsOn 0 g x descZ = false) ∧
    (let x := { cmdOf 0x40 .str with descs := [descZ] }
     let g := { gangOf .str with started := true, toSend := 1 }
     let s := gangS .str x g
     (s.core 0).gang? 0 = some g ∧ (s.task 0 0).cmd? 7 = some x ∧ g.settled = true ∧ s.holdsOn 0 g x descZ = true) ∧
    (∀ n ∈ [0, 1],
      let x := { cmdOf 0x10 .mat with spawned := 1, retired := n }
      let s := gangS .mat x
      (s.task 0 0).cmds.find? (fun y => y.queue == .mat && !y.lost) = some x ∧ x.done s.now = decide (n = 1) ∧ s.named 0 0 = true) ∧
    (let s := (gangS .mat (cmdOf 0x10 .mat)).modCore 0 fun k => { k with slices := k.slices.set 0 (BitVec.ofNat 32 (2 ^ 31 + 2 ^ 29)) }
     s.named 0 0 = false ∧ s.issuing = true ∧ (s.task 0 0).cmds.find? (fun y => y.queue == .mat && !y.lost) = some (cmdOf 0x10 .mat)) ∧
    (liveS.task 0 0).cmds.find? (fun y => y.queue == .mat && !y.lost) = none := by decide +kernel

theorem test_witness_DescriptorsAndSegmentsStart :
    (∀ n ∈ [3, 4],
      let x := { cmdOf 0x40 .str with toSet := 1 }
      let s := (gangS .str x).modCore 0 fun k => { k with setups := List.replicate n 1 }
      (s.task 0 0).cmds.find? (fun y => y.toSet != 0) = some x ∧ s.named 0 0 = true ∧
        ((s.core 0).setups.filter fun e => decide (s.now < e)).length = n) ∧
    (liveS.task 0 0).cmds.find? (fun y => y.toSet != 0) = none ∧
    (∀ o ∈ [0x40, 0x50, 0x60, 0x70, 0x71, 0x72, 0x73], ∀ r ∈ [0, 5],
      let d := { descZ with ready := r }
      let x := { cmdOf o .str with descs := [d] }
      let s := gangS .str x
      (s.core 0).gang? 0 = some (gangOf .str) ∧ (s.readySeg 0 (gangOf .str) = none ↔ r = 5) ∧
        (r = 0 → s.readySeg 0 (gangOf .str) = some (x, 0, d) ∧ (lowest (s.segBad 0 (gangOf .str) x 0 d (gangSeg o d 0))).isSome = true)) ∧
    (∀ o ∈ [0x40, 0x70, 0x71, 0x72],
      let d := { descZ with bytes := zeros 16 ++ leBytes 4 (if o = 0x71 then 0 else 64) ++ leBytes 4 (if o = 0x40 then 1 else 0) ++ zeros 12 ++
        [if o = 0x40 then 0x10 else 0] ++ zeros 27 }
      let x := { cmdOf o .str with descs := [d] }
      let s := gangS .str x (gangOf .str) (ctxS { decl := declS 0 } carS)
      let seg := gangSeg o d 0
      s.readySeg 0 (gangOf .str) = some (x, 0, d) ∧ wOpc x.word = o ∧ lowest (s.segBad 0 (gangOf .str) x 0 d seg) = none ∧
        s.needHeld 0 (s.segNeed 0 (gangOf .str) o d seg x.anch) = true ∧ s.needShaped 0 (s.segNeed 0 (gangOf .str) o d seg x.anch) = true) := by
  decide +kernel

theorem test_witness_SlicesRunByTheirTable :
    (∀ n ∈ ([none, some (0, 0)] : List (Option (Fin 8 × Nat))),
      let s := liveS.modCore 0 fun k => { k with slices := k.slices.set 0 (BitVec.ofNat 32 (2 ^ 31)), sliceNow := n }
      s.running = true ∧ (s.core 0).sliceAt (s.coreCount 0 - s.coreBegin 0) = some (0, 0) ∧ s.coreBegin 0 = 0) ∧
    (liveS.core 0).sliceAt (liveS.coreCount 0 - liveS.coreBegin 0) = none ∧ liveS.inGuard 0 = false ∧ State.reset.running = false := by
  decide +kernel

theorem test_witness_ClockLevels :
    (∀ x ∈ [379, 380],
      let s := liveS.modCore 0 fun k => { k with sensors := k.sensors.set 0 { reading := x } }
      s.hottestCore 0 = some 0 ∧ s.stepPause 0 = none ∧ (380 ≤ (s.core 0).hot ↔ x = 380) ∧ 4 < (s.core 0).therm ∧
        (s.core 0).floor < (s.core 0).therm) ∧
    ({ liveS with glb := { liveS.glb with coreEn := 0 } }.hottestCore 0 = none) ∧
    (∀ t ∈ [19999, 20000],
      let s := { liveS with now := t }.modField 0 fun k => { k with stepped := some (1, 0) }
      s.stepPause 0 = if t = 20000 then none else some 1) ∧
    (∀ t ∈ [999999, 1000000],
      let s := { liveS with now := t }.modCore 0 fun k => { k with coolSince := some 0, therm := 15 }
      (s.core 0).coolSince = some 0 ∧ s.now = t ∧ (s.core 0).therm < 16 ∧ (s.core 0).blind = false ∧ s.stepPause (coreField 0) = none) ∧
    (let s := { liveS with now := 1000000 }.modCore 0 fun k => { k with hotSince := some 0, therm := 4, sensors := k.sensors.set 0 { reading := 380 } }
     (s.core 0).hotSince = some 0 ∧ 0 + 1000000 ≤ s.now ∧ (s.core 0).therm = (s.core 0).floor ∧ 380 ≤ (s.core 0).hot) ∧
    (let k := liveS.core 0
     k.target = none ∧ k.coolSince = none ∧ k.hotSince = none ∧ min k.cap (min (liveS.field 0).zoneCeil k.therm) = k.level) ∧
    (let k := (liveS.modCore 0 fun k => { k with therm := 15 }).core 0
     k.target = none ∧ min k.cap (min (liveS.field 0).zoneCeil k.therm) ≠ k.level) ∧
    (∀ t ∈ [149, 150],
      let s := { liveS with now := t }.modCore 0 fun k => { k with target := some 9, levelAt := some 0 }
      (s.core 0).target = some 9 ∧ s.levelDone 0 = decide (t = 150)) := by decide +kernel

/-! ## The mesh and memory -/

/-- A packet of core 0 to the first bytes of field 0's shared slices. -/
def pktS (n : Nat) : MeshPacket :=
  { addr := BitVec.ofNat 64 (2 ^ 56), srcField := 0, srcCore := 0, region := 0, vc := 1, ord := false, mcast := false
    x0 := 0, x1 := 0, y0 := 0, y1 := 0, cmask := 1, op := 1, status := 0, ctx := 0, rlen := 0, efmt := 0, anchored := false, epw := false
    task := 0, cmd := 7, slot := 0, tag := 0, last := true, body := zeros n }

/-- The same with its target beyond the slices. -/
def pktBad (n : Nat) : MeshPacket := { pktS n with addr := BitVec.ofNat 64 (5 * 2 ^ 56) }

/-- Packet `p` stands in the local input of field 0's router, at the end of its route. -/
def atS (p : MeshPacket) (s : State := liveS) : State := { s with mesh := [{ pkt := p, at_ := 0, inp := some 0 }] }

/-- The field at which a packet stands, and the state in which it has left its input. -/
def stood (s : State) (p : MeshPacket) : Option (FieldIx × State) :=
  (s.flow.standing p).map fun t => (t.at_, { s.flow with mesh := s.flow.mesh.erase t })

theorem stood_stands {s v : State} {p : MeshPacket} {f : FieldIx} (h : stood s p = some (f, v)) : s.stands p p.op f v := by
  obtain ⟨t, ht, e⟩ := Option.map_eq_some_iff.1 h
  cases e
  exact ⟨t, ht, rfl, rfl, rfl⟩

/-- `ok` holds at the field where `p` stands, once it has left its input. -/
def standsSo (s : State) (p : MeshPacket) (ok : FieldIx → State → Bool) : Bool :=
  match stood s p with
  | some x => ok x.1 x.2
  | none => false

theorem test_witness_MeshWriteStoresAndAnswers :
    liveS.mem.wf = true ∧ (pktS 64).op = 1 ∧ (pktS 64).status ≠ stPoison ∧ liveS.flow.standing (pktS 64) = none ∧
    (∀ x ∈ [(pktS 64, Verdict.ok), (pktBad 64, .absent)],
      standsSo (atS x.1) x.1 (fun f v => v.meshVerdict f x.1 64 (v.landOk x.1.addr.toNat 64 v.glb.modIx.val x.1.ctx) == x.2) = true) := by
  decide +kernel

theorem test_witness_WritesSettlePoison :
    (∀ n ∈ [63, 64], ∀ st ∈ [stGood, stPoison],
      let p := { pktS n with status := st }
      standsSo (atS p) p (fun f v => v.meshVerdict f p n (v.landOk p.addr.toNat n v.glb.modIx.val p.ctx) == .ok) = true ∧ 0 < n) ∧
    (let g := 2 ^ 50
     2 ^ 56 ≤ 64 * g ∧ 64 * g + 64 ≤ 2 ^ 56 + 64 ∧ ¬ 64 * g + 64 ≤ 2 ^ 56 + 63 ∧ 64 * g < 2 ^ 56 + 63) := by decide +kernel

theorem test_witness_ReduceAddsAndReads :
    liveS.mem.wf = true ∧
    (∀ x ∈ [(pktS 4, Verdict.ok), (pktBad 4, .absent)],
      let p := { x.1 with op := 3 }
      liveS.flow.standing p = none ∧ standsSo (atS p) p (fun f v =>
        v.meshVerdict f p (redSpan p.efmt.toNat p.anchored p.epw 4) (redTarget p.addr.toNat p.efmt.toNat p.anchored) == x.2) = true) ∧
    (∀ x ∈ [(pktS 0, Verdict.ok), (pktBad 0, .absent)],
      let p := { x.1 with op := 0, vc := 3, rlen := 64 }
      liveS.flow.standing p = none ∧ standsSo (atS p) p (fun f v => v.meshVerdict f p 64 true == x.2) = true) := by decide +kernel

theorem test_witness_MeshAnswersReachTheirIssuer :
    (∀ op ∈ [(2 : BitVec 4), 4, 5], ∀ n ∈ [0, 64],
      let p := { pktS 0 with op := op, vc := 0, rlen := n }
      let s := atS p (gangS .str (cmdOf 0x40 .str) { gangOf .str with data := zeros 64 })
      liveS.flow.standing p = none ∧ p.status ≠ stParked ∧ standsSo s p (fun f v => f == p.srcField && v.waits p) = true ∧
        standsSo (atS p) p (fun f v => f == p.srcField && !v.waits p) = true ∧
        (let far := { p with srcField := 9 }
         let s := (atS far).modField 0 fun k => { k with faultTab := Vector.replicate 8 0xFFFFFFFF }
         standsSo s far (fun f _ => f != far.srcField) = true)) ∧
    (let p := { pktS 0 with op := 5, vc := 0, status := stParked }
     standsSo (atS p) p (fun f _ => f == p.srcField) = true) := by decide +kernel

/-- Field 0 holds `n` packets of 2,048 bytes for multicast, the next one on its way to it. -/
def mcastS (n : Nat) : State :=
  { liveS with mcast := [{ prev := 0, dest := 0, pkt := pktS 2048 }] }.modField 0 fun k =>
    { k with retained := (List.range n).map fun i => { pkt := { pktS 2048 with tag := i + 1 }, cores := 0 } }

theorem test_witness_MulticastCopies :
    (∀ n ∈ [31, 32], ((mcastS n).mcast.find? fun k => k.dest == 0 && k.pkt == pktS 2048) = some { prev := 0, dest := 0, pkt := pktS 2048 } ∧
      (mcastS n).retention 0 (pktS 2048).vc + (pktS 2048).body.length = 2048 * (n + 1)) ∧
    (liveS.mcast.find? fun k => k.dest == 0 && k.pkt == pktS 2048) = none ∧
    (let p := pktS 64
     let k : Retained := { pkt := p, cores := 1 }
     let a := mcastAddr p (coreOf 0 0)
     let held := fun s : State => s.modField 0 fun x => { x with retained := [k] }
     let s := held (taskS fun k => { k with carrels := k.carrels.set 1 ⟨0, 0xFFFF, BitVec.ofNat 32 0xA8000000⟩ })
     (s.field 0).retained.find? (fun k => k.pkt == p && k.cores.getLsbD 0) = some k ∧ s.intakeCtx p.ctx = false ∧ s.mem.wf = true ∧
       s.regionVerdict a 64 p.region (s.landOk a 64 s.glb.modIx.val p.ctx) = .ok ∧ p.status ≠ stPoison ∧
       (held liveS).regionVerdict a 64 p.region ((held liveS).landOk a 64 liveS.glb.modIx.val p.ctx) ≠ .ok ∧
       (liveS.field 0).retained.find? (fun k => k.pkt == p && k.cores.getLsbD 0) = none ∧
       (∀ n ∈ [0, 1],
         let s := (ctxS { decl := { declS 0 with port := 2 } } (held liveS)).modField 0 fun k => k.setLandCredits 0 0 n
         s.intakeCtx p.ctx = true ∧ s.slotBegun (coreOf 0 0) (bits p.addr.toNat 0 26) 64 s.glb.modIx.val p.ctx = false ∧
           (s.field 0).landCredits 0 p.ctx = n)) := by decide +kernel

theorem test_witness_MeshFailures :
    linkExists 0 1 = true ∧ linkExists 0 0 = false ∧ State.reset.deadRouter 0 = false ∧
    { State.reset with nvm := { State.reset.nvm with badRouters := [0] } }.deadRouter 0 = true ∧
    (∀ b ∈ [false, true], ((State.reset.modMesh 0 1 fun l => { l with paused := b }).field 0).links[(1 : DirIx)].paused = b) ∧
    (∀ b ∈ [(0 : Fin 9), 8], ∀ x ∈ [(3, 0), (4, 0), (4, 1)],
      let s := State.reset.modMesh 0 1 fun l => { l with recent := List.replicate x.1 (b, 0), failed := BitVec.ofNat 9 (2 * x.2) }
      let k := (s.field 0).links[(1 : DirIx)]
      k.failed.getLsbD b.val = false ∧ k.errors s.now b = x.1 ∧ k.failures = x.2) := by decide +kernel

/-! ## The control network and registers -/

/-- The running image declares barrier 5 of two arrivals, of which `n` have come. -/
def barS (n : Nat) : State :=
  { liveS with pit := { liveS.pit with image := { liveS.pit.image with barriers := [(5, 2)] }, arrivals := [(5, n)] } }

/-- Message `m` stands at node `f`, in its input from the east. -/
def ctlAt (f : FieldIx) (m : CtlMsg) (s : State := liveS) : State := { s with ctl := [{ msg := m, at_ := f, inp := some 1 }] }

/-- The state in which node `f` has taken a message that `ok` holds of from its input. -/
def served (s : State) (f : FieldIx) (ok : CtlMsg → Bool) : Option State :=
  (s.ctlFlow.ctlServed f ok).map fun t => { s.ctlFlow with ctl := s.ctlFlow.ctl.erase t }

theorem served_serves {s v : State} {f : FieldIx} {ok : CtlMsg → Bool} (h : served s f ok = some v) : s.nodeServes f ok v := by
  obtain ⟨t, ht, e⟩ := Option.map_eq_some_iff.1 h
  exact ⟨t, ht, e.symm⟩

/-- Node `f` serves a message that `ok` holds of, and `then_` holds of the state then. -/
def servesSo (s : State) (f : FieldIx) (ok : CtlMsg → Bool) (then_ : State → Bool) : Bool :=
  match served s f ok with
  | some v => then_ v
  | none => false

theorem test_witness_BoundariesAndBarriers :
    (∀ typ ∈ [(1 : BitVec 4), 3, 0xC],
      let m : CtlMsg := { typ := typ, dest := 0, src := pitField, bcast := true, plane := false, arg := 0, payload := countWords 10 }
      let ok := isCount typ (10 : W64).toNat
      liveS.ctlFlow.ctlServed 0 ok = none ∧
      servesSo (ctlAt 0 m) 0 ok (fun v => decide ((v.field 0).replica = none)) = true ∧
      (∀ n ∈ [9, 10], servesSo (ctlAt 0 m { liveS with pit := { liveS.pit with gcnt := BitVec.ofNat 64 n } } |>.modField 0 fun k => { k with replica := some 0 })
        0 ok (fun v => decide (v.nodeCount 0 = n) && (v.field 0).replica == some 0 && v.pit.tickBad == 0) = true)) ∧
    (let mine := fun m : CtlMsg => m.typ == 4 && m.arg == (5 : BitVec 12) && m.src == (0 : FieldIx)
     let m := { arrivalMsg 0 5 with dest := pitField }
     liveS.ctlFlow.ctlServed pitField mine = none ∧
     (∀ n ∈ [0, 1], servesSo (ctlAt pitField m (barS n)) pitField mine (fun v =>
       v.image.barriers.find? (fun b => b.1 == 5) == some (5, 2) && v.running && v.pit.arrived 5 == n && !v.ctlBlocked { releaseMsg 5 with dest := 9 } false)
         = true) ∧
     servesSo (ctlAt pitField m) pitField mine (fun v => v.image.barriers.find? (fun b => b.1 == 5) == none) = true) ∧
    (let ok := fun m : CtlMsg => m.typ == 5 && m.arg == (5 : BitVec 12)
     liveS.ctlFlow.ctlServed 0 ok = none ∧ servesSo (ctlAt 0 { releaseMsg 5 with dest := 0 }) 0 ok (fun _ => true) = true) := by decide +kernel

theorem test_witness_CreditGrantsAreHeld :
    liveS.ctlFlow.ctlServed (coreField 0) (sameMsg (creditMsg 0 0x4000 1)) = none ∧
    (∀ g ∈ [2, 6],
      let s := ctlAt 0 (creditMsg 0 0x4000 1) (ctxS { decl := { declS 0x4000 with port := g } })
      servesSo s (coreField 0) (sameMsg (creditMsg 0 0x4000 1)) (fun v => (v.ctx? 0x4000).isSome && v.intakeCtx 0x4000 == decide (g = 2)) = true) := by
  decide +kernel

/-- An entry of code 0x2206 of source 0 in the log. -/
def entryS : LogEntry :=
  { gcnt := 0, rtc := 0, code := 0x2206, srcKind := 0, srcId := 0, pnum := 0, data := zeros 32, rep := 0, eseq := 0, at_ := 0 }

theorem test_witness_FaultEventsAreLogged :
    ((0x2206 : BitVec 16).toNat / 4096 ≠ 3 ∧ (0x2206 : BitVec 16).toNat % 4096 ≠ 0xB04 ∧ serviceOf (0x2206 : BitVec 16).toNat = none) ∧
    ((0x3206 : BitVec 16).toNat / 4096 = 3 ∧ (0x3206 : BitVec 16).toNat % 4096 ≠ 0xB04 ∧ State.reset.issuing = false) ∧
    ((0x5B04 : BitVec 16).toNat % 4096 = 0xB04 ∧ (serviceOf (0x5B04 : BitVec 16).toNat).any (fun b => decide (b < 10)) = true) ∧
    (∀ x ∈ [(999, true), (1000, false)],
      ({ State.reset with flt := { State.reset.flt with log := [entryS] } }.flt.log.any fun y => y.same x.1 0x2206 0 0) = x.2) := by decide +kernel

theorem test_witness_ConfigAndFenceMessages :
    (∀ x ∈ [(0x100, true), (0x1000, true), (0x101C, true), (0x20020, true), (0x2C020, true), (0x100, false), (0x104, false)],
      let m := cfgMsg 8 0 (entryField .warden) (BitVec.ofNat 18 x.1) [7]
      let r := cfgMsg 9 0 (entryField .warden) (BitVec.ofNat 18 x.1) []
      servesSo (ctlAt 0 m) 0 (sameMsg m) (fun _ => true) = true ∧ servesSo (ctlAt 0 r) 0 (sameMsg r) (fun v =>
        !v.ctlBlocked (cfgMsg 0xA (entryField .warden) 0 (BitVec.ofNat 18 x.1) [(v.readWord .warden (fldOff 0 (BitVec.ofNat 18 x.1)).toNat).1]) false)
          = true ∧
        liveS.ctlFlow.ctlServed 0 (sameMsg m) = none ∧ liveS.ctlFlow.ctlServed 0 (sameMsg r) = none) ∧
    classS .warden = true ∧ fieldAdmits .hostA (0x1000 : BitVec 18).toNat = false ∧
    (let m := cfgMsg 0xA (entryField .warden) 0 0x100 [7]
     servesSo (ctlAt 56 m) (entryField .warden) (sameMsg m) (fun _ => true) = true ∧ liveS.ctlFlow.ctlServed (entryField .warden) (sameMsg m) = none) ∧
    (∀ b ∈ [false, true],
      let m := { fenceMsg 3 b with dest := 0 }
      servesSo (ctlAt 0 m) 0 (sameMsg m) (fun _ => true) = true ∧ liveS.ctlFlow.ctlServed 0 (sameMsg m) = none) ∧
    (let m : CtlMsg := { typ := 4, dest := 35, src := 0, bcast := false, plane := false, arg := 0, payload := [] }
     neighbour 0 1 ≠ none ∧ neighbour 0 0 = none ∧ ctlParity 1 ≠ ctlParity 0 ∧ State.reset.flt.autoCause = false ∧ ∀ n ∈ [1, 2, 3, 4],
       let s := State.reset.modField 0 fun k => { k with ctlRetry := k.ctlRetry.set 1 (if n = 1 then none else some (m, n - 1)) }
       (s.field 0).ctlFailed[(1 : Fin 4)] = false ∧ parityCount (s.field 0).ctlRetry[(1 : Fin 4)] m = n) := by decide +kernel

/-- BAR 0 of the host ports is ready. -/
def readyS : State := { State.reset with glb := { State.reset.glb with phase := .ready } }

theorem test_witness_CsrWritesObeyTheirClass :
    State.reset.pathOpen .warden = true ∧ classS .warden = true ∧ State.reset.cfg.st ≠ .armed ∧
    readyS.pathOpen .hostA = true ∧ classS .hostA = false ∧ State.reset.pathOpen .hostA = false ∧ (0xB00005 : BitVec 26).toNat % 4 ≠ 0 ∧
    (let off : BitVec 26 := fldOff 9 0x100
     off.toNat % 4 = 0 ∧ inFld off = true ∧ fieldAdmits .warden (fldReg off).toNat = true ∧
       State.reset.ctlBlocked (cfgMsg 8 (fldField off.toNat) (entryField .warden) (fldReg off) [0]) false = false) ∧
    (let off : BitVec 26 := fldOff 9 0x1000
     off.toNat % 4 = 0 ∧ inFld off = true ∧ fieldAdmits .hostA (fldReg off).toNat = false ∧ (fldReg off).toNat ≠ 0x100) := by decide +kernel

theorem test_witness_ReadsLatchTheHighWord :
    State.reset.regAt .warden 0x100000 = some (.wide 0) ∧ State.reset.regAt .warden (0x100000 + 4) = none ∧ 0x100000 + 4 < 2 ^ 26 ∧
    (∀ x ∈ State.reset.latch, x.1 = .warden → x.2.1.toNat ≠ 0x100000) ∧ (0x100000 : BitVec 26).toNat = 0x100000 ∧
    State.reset.pathOpen .warden = true ∧ 0x100000 % 4 = 0 ∧ inFld 0x100000 = false ∧ Path.hostA ≠ .warden := by decide +kernel

/-- Slot 0 in a state. -/
def slotS (st : SlotSt) (up : Bool := true) : State :=
  { State.reset with glb := { State.reset.glb with wardenUp := up, slots := upd State.reset.glb.slots 0 fun x => { x with st := st } } }

theorem test_witness_SlotsArmAndDisarm :
    (∀ st ∈ [SlotSt.empty, .checking, .armed, .running],
      (slotS st).pathOpen .warden = true ∧ (slotS st).wardenTakes .warden = true ∧ ((slotS st).glb.slots[(0 : ImgIx)]).st = st ∧
        (slotS st).glb.wardenUp = true) ∧
    readyS.pathOpen .hostA = true ∧ readyS.wardenTakes .hostA = false ∧ State.reset.pathOpen .hostA = false ∧
    (slotS .checking).checkImage 0 ((slotS .checking).readImage 0) ≠ 0 := by decide +kernel

/-- The CFG unit in a state. -/
def cfgS (st : CfgSt) (now : Nat) : State := { State.reset with now := now, cfg := { State.reset.cfg with st := st } }

theorem test_witness_ConfigurationSwaps :
    (∀ st ∈ [CfgSt.idle, .loading, .armed], (cfgS st 9999).pathOpen .warden = true ∧ classS .warden = true ∧ (cfgS st 9999).cfg.st = st ∧
      (cfgS st 9999).glb.wardenUp = true) ∧
    readyS.pathOpen .hostA = true ∧ classS .hostA = false ∧ State.reset.pathOpen .hostA = false ∧
    (cfgS .loading 0).configCheck (cfgS .loading 0).loadBytes (cfgS .loading 0).cfg.genAct.toNat ≠ 0 ∧
    (cfgS .armed 9999).swapDue = false ∧ (cfgS .armed 10000).swapDue = true := by decide +kernel

/-- Mailbox 0 with a reply waiting. -/
def mboxS (busy : Bool) : State :=
  { readyS with glb := { readyS.glb with mbox := upd readyS.glb.mbox 0 fun k => { k with inBusy := busy, replies := [[5]] } } }

theorem test_witness_MailboxesAndTheLog :
    (∀ b ∈ [false, true], (mboxS b).barReady = true ∧ ((mboxS b).glb.mbox[(0 : PortIx)]).inBusy = b ∧
      ((mboxS b).glb.mbox[(0 : PortIx)]).replies = [5] :: [] ∧ ((mboxS b).glb.mbox[(0 : PortIx)]).outRdy = false) ∧
    State.reset.barReady = false ∧ (readyS.glb.mbox[(0 : PortIx)]).replies = [] ∧
    (32 ≤ (32 : BitVec 13).toNat ∧ (4096 : BitVec 13).toNat ≤ 4096 ∧ (31 : BitVec 13).toNat < 32 ∧ 4096 < (4097 : BitVec 13).toNat) ∧
    (readyS.pathOpen .warden = true ∧ readyS.pathOpen .hostA = true ∧ classS .hostA = false ∧ State.reset.pathOpen .hostA = false) ∧
    readyS.flt.held[(0 : PortIx)] = false ∧
    (∀ x ∈ [(99999, false), (100000, true)],
      let s := { readyS with now := x.1, flt := { readyS.flt with held := readyS.flt.held.set 0 true, lastMsix := readyS.flt.lastMsix.set 0 (some 0) } }
      s.flt.held[(0 : PortIx)] = true ∧ s.msixFree 0 = x.2) := by decide +kernel

/-! ## The pitch clock and the rope team -/

/-- A team message. -/
def msgS (typ arg : Byte) (c1 : Nat) (c2 : Nat := 0) : TeamMsg :=
  { typ := typ, team := 0, src := 1, arg := arg, pnum := 0, c1 := BitVec.ofNat 64 c1, c2 := BitVec.ofNat 64 c2, c3 := 0 }

/-- Sublink 0 of port group 4 is active. -/
def linkS (s : State := liveS) : State := s.modGroup 4 fun g => { g with sub := upd g.sub 0 fun k => { k with st := .active } }

/-- This module leads its team or does not. -/
def leadS (lead : Bool) (s : State := State.reset) : State :=
  { s with cfg := { s.cfg with active := { s.cfg.active with team := if lead then 0x80 else 0x00100080 } } }

/-- A proposal for count 1,000,000 of slot 0. -/
def launchOf (commit : Option Bool := none) (loaded : Bool := false) : Launch :=
  { count := 1000000, slot := 0, digest := 0, archVer := 0, attempts := 1, retry := true, replies := [], said := 0, commit := commit, loaded := loaded }

/-- GCNT is `n`, launch `l` is in preparation, slot 0 is armed with an image of 100 µs pitches. -/
def prepS (n : Nat) (l : Option Launch) (s : State := State.reset) : State :=
  { s with
    pit := { s.pit with gcnt := BitVec.ofNat 64 n, launch := l }
    glb := { s.glb with slots := upd s.glb.slots 0 fun x => { x with st := .armed, image := { pitchUs := 100 } } } }

theorem test_witness_LaunchesAreProposed :
    (∀ x ∈ [(0, 300000), (0, 299999)],
      let s := { prepS 0 none with pit := { (prepS 0 none).pit with reqLaunch := BitVec.ofNat 64 x.2 } }
      s.pathOpen .warden = true ∧ classS .warden = true ∧ s.isLead = true ∧ (s.chooseCount 0).1 = x.2 ∧ s.pit.committed = false ∧
        s.gcnt + 2 * s.slotPitch 0 + 100000 = 300000) ∧
    (leadS false).isLead = false ∧ readyS.pathOpen .hostA = true ∧ classS .hostA = false ∧ State.reset.pathOpen .hostA = false ∧
    State.reset.pit.launch = none ∧ ¬ State.reset.takesTeam 4 (msgS 0x20 0 0) 0x20 ∧
    (prepS 0 (some (launchOf (some true)))).pit.committed = true ∧
    (let s := linkS (leadS false)
     s.takesTeam 4 (msgS 0x20 0 1000000) 0x20 ∧ launchPhase (msgS 0x20 0 1000000) = 0 ∧ s.pit.committed = false) ∧
    (∀ n ∈ [899999, 900000],
      let s := linkS (leadS false (prepS n (some launchOf)))
      s.pit.launch = some launchOf ∧ s.isLead = false ∧ launchOf.commit = none ∧ s.loadCount launchOf = 900000 ∧ s.gcnt = n ∧
        s.takesTeam 4 (msgS 0x20 1 1000000) 0x20 ∧ launchPhase (msgS 0x20 1 1000000) = 1 ∧ launchPhase (msgS 0x20 2 1000000) = 2 ∧
        s.takesTeam 4 (msgS 0x20 2 1000000) 0x20 ∧ (msgS 0x20 1 1000000).c1.toNat = launchOf.count) := by
  unfold State.takesTeam; decide +kernel

theorem test_witness_LeadDecidesTheLaunch :
    (∀ n ∈ [879999, 880000],
      let s := linkS (prepS n (some launchOf))
      s.pit.launch = some launchOf ∧ s.isLead = true ∧ launchOf.commit = none ∧ s.takesTeam 4 (msgS 0x21 0 1000000) 0x21 ∧
        (msgS 0x21 0 1000000).c1.toNat = launchOf.count ∧ s.commitCount launchOf = 880000 ∧ s.gcnt = n) ∧
    (let s := prepS 880000 (some launchOf)
     s.firstFailing launchOf = some 0 ∧ (s.reasonOf launchOf 0).isSome = true) ∧
    (let s := prepS 880000 (some launchOf)
     let s := { s with
       glb := { s.glb with phase := .ready, slots := upd s.glb.slots 0 fun x => { x with image := { pitchUs := 100, teamSize := 1 } } }
       pit := { s.pit with gcntSet := true, lock := .locked } }
     s.firstFailing launchOf = none) ∧
    (let l := launchOf (some true)
     (linkS (prepS 0 (some l))).pit.launch = some l ∧ l.commit ≠ none ∧ (linkS (prepS 0 (some l))).takesTeam 4 (msgS 0x21 0 1000000) 0x21) ∧
    State.reset.pit.launch = none ∧ (linkS State.reset).takesTeam 4 (msgS 0x21 0 1000000) 0x21 ∧
    ¬ State.reset.takesTeam 4 (msgS 0x21 0 1000000) 0x21 := by
  unfold State.takesTeam; decide +kernel

theorem test_witness_LaunchPitchLoadsTheImage :
    let l := launchOf (some true)
    (∀ n ∈ [899999, 900000],
      let s := prepS n (some l)
      s.pit.launch = some l ∧ l.commit = some true ∧ l.loaded = false ∧ s.loadCount l = 900000 ∧ s.gcnt = n ∧ s.glb.wardenUp = true ∧
        (s.glb.slots[l.slot]).st = .armed ∧ s.pit.run = .idle) ∧
    (let s := { prepS 1000000 (some l) with glb := State.reset.glb }
     s.loadCount l ≤ s.gcnt ∧ s.glb.wardenUp = true ∧ (s.glb.slots[l.slot]).st ≠ .armed) ∧
    State.reset.pit.launch = none := by decide +kernel

theorem test_witness_LaunchCountBeginsTheRun :
    (∀ n ∈ [999999, 1000000], ∀ c ∈ [some true, some false, none], ∀ b ∈ [true, false],
      let s := prepS n (some (launchOf c b))
      s.pit.launch = some (launchOf c b) ∧ (launchOf c b).count = 1000000 ∧ s.gcnt = n ∧ (launchOf c b).commit = c ∧ (launchOf c b).loaded = b) ∧
    (let s := liveS.modGroup 6 fun g => { g with sub := upd g.sub 0 fun k => { k with st := .active } }
     s.carriesTeam s.teamGroup 0 = true) ∧ State.reset.pit.launch = none := by decide +kernel

/-- A run of pitches of 100 µs: GCNT `n`, the present pitch ends at 100,000. -/
def pitchS (n : Nat) (s : State := liveS) : State :=
  { s with
    pit := { s.pit with gcnt := BitVec.ofNat 64 n, bound := 100000, captured := true, teamRun := 0x80, image := { s.pit.image with pitchUs := 100 } }
    glb := { s.glb with slots := upd s.glb.slots 0 fun x => { x with st := .running } } }

theorem test_witness_HoldsAreDecided :
    (let s := pitchS 50000
     s.pit.run = .running ∧ s.pit.guardDone = false ∧ s.guardAt = 50000 ∧ s.guardAt ≤ s.gcnt ∧ (∀ d, s.requests d = false) ∧
       (pitchS 49999).guardAt = 50000) ∧
    (let s := taskS (fun k => { k with ctl := [⟨word 0x08 (2 ^ 96), 0⟩] }) (pitchS 50000)
     s.requests 0 = true ∧ s.pit.wantHold = false) ∧
    (∀ b ∈ [true, false],
      let m : CtlMsg := { typ := 2, dest := pitField, src := 0, bcast := false, plane := false, arg := 0, payload := [] }
      let mine := fun m : CtlMsg => m.typ == 2 && m.arg.toNat == (0 : CoreIx).val
      let s := { pitchS 50000 with pit := { (pitchS 50000).pit with guardDone := b } }
      s.ctlFlow.ctlServed pitField mine = none ∧ servesSo (ctlAt pitField m s) pitField mine (fun v => v.pit.run == .running && v.pit.guardDone == b) = true) ∧
    (∀ n ∈ [49999, 50000, 54999, 55000],
      let s := linkS (pitchS n)
      s.steers = true ∧ s.takesTeam 4 (msgS 0x10 0 100000) 0x10 ∧ s.takesTeam 4 (msgS 0x10 0 99999) 0x10 ∧ s.pit.decided = false ∧
        (msgS 0x10 0 100000).c1.toNat = s.pit.bound ∧ (msgS 0x10 0 99999).c1.toNat < s.pit.bound ∧ s.gcnt = n ∧ s.guardAt + 5000 = 55000 ∧
        s.pit.abandonAt = none) ∧
    (let s := linkS (leadS false)
     s.steers = false ∧ s.takesTeam 4 (msgS 0x10 0 0) 0x10) ∧ ¬ State.reset.takesTeam 4 (msgS 0x10 0 0) 0x10 := by
  unfold State.takesTeam; decide +kernel

theorem test_witness_DecisionsApply :
    (∀ n ∈ [74999, 75000], ∀ a ∈ [0, 1, 2, 3], ∀ h ∈ [3, 4], ∀ b ∈ [none, some 80000],
      let s := linkS (pitchS n)
      let s := { s with pit := { s.pit with holds := h, abandonAt := b } }
      let m := msgS 0x11 (BitVec.ofNat 8 a) 0 90000
      s.pit.run = .running ∧ s.takesTeam 4 m 0x11 ∧ m.pnum.toNat = s.pit.pnum ∧ s.gcnt = n ∧ s.guardAt + 25000 = 75000 ∧
        bits m.arg.toNat 0 2 = a ∧ s.pit.abandonAt = b ∧ s.pit.holds = h ∧ s.pit.applied = false) ∧
    ((linkS State.reset).takesTeam 4 (msgS 0x11 0 0) 0x11 ∧ State.reset.pit.run ≠ .running) ∧ ¬ State.reset.takesTeam 4 (msgS 0x11 0 0) 0x11 := by
  unfold State.takesTeam; decide +kernel

theorem test_witness_RunsThatFail :
    (∀ a ∈ [none, some 60000],
      let s := linkS (pitchS 50000)
      let s := { s with pit := { s.pit with abandonAt := a } }
      s.steers = true ∧ s.pit.abandonAt = a ∧ s.takesTeam 4 (msgS 0x12 0 0) 0x12 ∧ s.pathOpen .warden = true ∧ classS .warden = true ∧
        s.leadNow = true ∧ s.me = 0) ∧
    (leadS false).pathOpen .warden = true ∧ (leadS false).leadNow = false ∧ State.reset.pathOpen .hostA = false ∧
    ¬ State.reset.takesTeam 4 (msgS 0x12 0 0) 0x12 ∧
    (∀ n ∈ [69999, 70000],
      let s := { pitchS n with pit := { (pitchS n).pit with abandonAt := some 70000 } }
      s.pit.run = .running ∧ s.pit.abandonAt = some 70000 ∧ s.gcnt = n) ∧
    (let im : TopoImage := { pitchUs := 100, teamSize := 2, groups := [{ group := 1, nmem := 2, role := 1, rect := 0, cap := 0, members := [0, 1] }] }
     ∀ t ∈ [99999, 100000],
      let s := { pitchS 50000 with now := t, pit := { (pitchS 50000).pit with image := im } }
      s.pit.abandonAt = none ∧ s.steers = true ∧ (1 : ModIx).val ∈ s.members ∧ (1 : ModIx).val ≠ s.me ∧ s.heardAt (1 : ModIx).val + 100000 = 100000 ∧
        s.now = t ∧ (0 : ModIx).val ∈ s.members ∧ (0 : ModIx).val = s.me) ∧
    (∀ t ∈ [9999999, 10000000],
      let s := { pitchS 50000 with now := t, pit := { (pitchS 50000).pit with lock := .holdover } }
      s.steers = true ∧ (0 : ModIx).val ∈ s.members ∧ s.pit.lock = .holdover ∧ s.pit.heldSince + 10000000 = 10000000 ∧ s.now = t) ∧
    (let s := { pitchS 50000 with now := 100000, pit := { (pitchS 50000).pit with teamRun := 0x00100080 } }
     s.pit.run = .running ∧ s.leadsRun = false ∧ s.pit.abandonAt = none ∧ s.heardAt (teamLead s.pit.teamRun) + 100000 ≤ s.now) := by
  unfold State.takesTeam; decide +kernel

theorem test_witness_PitchesFollowEachOther :
    (let s := taskS (fun k => { k with ended := false, active := true }) (pitchS 100000)
     s.running = true ∧ s.pit.bound ≤ s.gcnt ∧ s.runOver = false ∧ s.mapDue = true) ∧
    (let s := { pitchS 100000 with pit := { (pitchS 100000).pit with run := .abandoning } }
     s.running = true ∧ s.pit.bound ≤ s.gcnt ∧ s.runOver = true ∧ s.flt.autoCause = false) ∧
    ((pitchS 99999).running = true ∧ (pitchS 99999).gcnt < (pitchS 99999).pit.bound ∧ (pitchS 99999).mapDue = false) ∧
    (∀ n ∈ [999999, 1000000],
      let s := { State.reset with pit := { State.reset.pit with gcnt := BitVec.ofNat 64 n } }
      s.running = false ∧ decide (s.gridNow = s.pit.idleAt) = decide (n = 999999)) ∧
    (∀ n ∈ [999999, 1000000], State.reset.fab.mapTime + State.reset.idleNs ≤ n ↔ n = 1000000) := by decide +kernel

/-- A request to module 1 of count 7, sent on group 4. -/
def askT : TimeReq := { dst := 1, t1 := 7, at_ := 0, grp := 4 }

theorem test_witness_TimeExchanges :
    (∀ l ∈ [Lock.locked, .holdover, .acquire, .free], ∀ q ∈ [true, false],
      let s := (linkS { State.reset with pit := { State.reset.pit with lock := l } }).modGroup 4 fun g => { g with quar := q }
      s.hears 4 0 = true ∧ (msgS 1 0 0).typ = 1 ∧ (s.group 4).quar = q ∧ s.pit.lock = l) ∧
    State.reset.hears 4 0 = false ∧
    (∀ x ∈ [(49999, none), (50000, some askT)],
      let s := { State.reset with now := x.1, pit := { State.reset.pit with pendReq := [askT] } }
      s.pit.pendReq.find? (fun y => decide (y.at_ + 50000 ≤ s.now)) = x.2) := by decide +kernel

theorem test_witness_TimeExchanges_response :
    (∀ t ∈ [50000, 50001], ∀ set ∈ [true, false], ∀ q ∈ [true, false],
      let s := (linkS (leadS false State.reset)).modGroup 4 fun g => { g with quar := q }
      let s := { s with now := t, pit := { s.pit with pendReq := [askT], gcntSet := set }, glb := { s.glb with modIx := 2 } }
      s.pit.pendReq.find? (fun y => y.dst == (msgS 2 0 7).src.toNat && y.t1 == (msgS 2 0 7).c1.toNat) = some askT ∧ s.now = t ∧
        (msgS 2 0 7).typ = 2 ∧ s.hears askT.grp 0 = true ∧ (s.group askT.grp).quar = q ∧ s.pit.probe = false ∧
        s.reference = some (msgS 2 0 7).src.toNat) ∧
    State.reset.pit.pendReq.find? (fun y => y.dst == (msgS 2 0 7).src.toNat && y.t1 == (msgS 2 0 7).c1.toNat) = none := by decide +kernel

/-- Module 2 (or another) with exchanges of a lock state. -/
def lockS (me : ModIx) (l : Lock) (n : Nat) (t : Nat := 0) : State :=
  { State.reset with
    now := t, glb := { State.reset.glb with modIx := me }
    pit := { State.reset.pit with lock := l, exchanges := List.replicate n { offset := 0, trip := 0 } } }

theorem test_witness_LocksAndReferences :
    (lockS 0 .free 0).me = (lockS 0 .free 0).troot ∧
    (∀ n ∈ [7, 8], ∀ l ∈ [Lock.acquire, .locked], (lockS 2 l n).me ≠ (lockS 2 l n).troot ∧ (lockS 2 l n).pit.freeRoot = false ∧
      (lockS 2 l n).pit.exchanges.length = n ∧ (lockS 2 l n).pit.lock = l ∧ (lockS 2 l n).steers = false) ∧
    (∀ t ∈ [1999999, 2000000],
      let s := lockS 2 .holdover 0 t
      s.pit.lock = .holdover ∧ s.pit.lostSaid = false ∧ s.pit.heldSince + 2000000 = 2000000 ∧ s.now = t) ∧
    (∀ t ∈ [999999, 1000000], ∀ set ∈ [true, false],
      let s := lockS 1 .free 0 t
      let s := { s with pit := { s.pit with gcntSet := set }, cfg := { s.cfg with active := { s.cfg.active with team := 0x1080 } } }
      s.pit.lastExch + 1000000 = 1000000 ∧ s.now = t ∧ s.me ≠ s.troot ∧ s.pit.freeRoot = false ∧ s.me = s.trootAlt ∧ s.pit.gcntSet = set) ∧
    (let s := lockS 2 .free 0 1000000
     let s := { s with cfg := { s.cfg with active := { s.cfg.active with team := 0x00200080 } } }
     s.me ≠ s.troot ∧ s.me ≠ s.trootAlt ∧ s.leadNow = true ∧ s.pit.alt = false) ∧
    (∀ t ∈ [999999, 1000000],
      let s := { lockS 0 .free 0 t with pit := { (lockS 0 .free 0 t).pit with rootAskAt := some 0 } }
      s.pit.rootAskAt = some 0 ∧ s.me = s.troot ∧ s.pit.gcntSet = false ∧ s.now = t) ∧
    (∀ t ∈ [999999, 1000000],
      let s := { State.reset with now := t, pit := { State.reset.pit with onGroup8 := true } }.modGroup 6 fun g =>
        { g with sub := upd g.sub 0 fun k => { k with st := .active } }
      s.pit.onGroup8 = true ∧ s.steady 6 = true ∧ (s.sub 6 0).steadyAt + 1000000 = 1000000 ∧ s.now = t) := by decide +kernel

/-! ## The Morkan link and the rack fabric -/

/-- Sublink 0 of port group 6 is active; `f` changes it. -/
def subS (f : Sublink → Sublink := id) (s : State := liveS) : State :=
  s.modGroup 6 fun g => { g with sub := upd g.sub 0 fun k => f { k with st := .active } }

/-- A data frame. -/
def frameS (fseq : BitVec 12) (n : Nat) : Frame :=
  { fseq := fseq, ackv := false, rply := false, ack := 0, vcmap := List.replicate n 0, cred := Vector.replicate 6 0 }

theorem test_witness_FramesInSequence :
    (let k := (subS).sub 6 0
     k.up = true ∧ k.badRack = false ∧ (subS.group 6).loopMode 0 ≠ 2 ∧ k.overrun 6 (frameS 0 32) = false ∧ (frameS 0 32).fseq = k.expect ∧
       (2048 ≤ ((2048 : BitVec 12) - k.expect).toNat ∧ (2048 : BitVec 12) ≠ k.expect) ∧
       ((2047 : BitVec 12) - k.expect).toNat < 2048 ∧ (2047 : BitVec 12) ≠ k.expect) ∧
    (((subS fun k => { k with rxHeld := k.rxHeld.set 0 16383 }).sub 6 0).overrun 6 (frameS 0 2) = true) ∧
    (((subS).modGroup 6 fun g => { g with loop := 2 }).group 6).loopMode 0 = 2 ∧
    ((subS fun k => { k with st := .training }).sub 6 0).st = .training ∧ ((subS fun k => { k with st := .down }).sub 6 0).up = false ∧
    ((subS fun k => { k with badRack := true }).sub 6 0).badRack = true ∧
    (∀ n ∈ [6, 7], ((subS fun k => { k with badRun := n }).sub 6 0).badRun = n) ∧ subS.linkPowered 6 = true ∧ subS.attached 6 0 = true ∧
    (∀ t ∈ [250, 251],
      let s := { subS fun k => { k with txSeq := 64, unacked := 64, replayFrom := some 32 } with now := t }
      let k := s.sub 6 0
      k.up = true ∧ ((0 : BitVec 12) - k.oldest).toNat < k.unacked ∧ ((32 : BitVec 12) - k.oldest).toNat < k.unacked ∧
        k.unacked ≤ ((64 : BitVec 12) - k.oldest).toNat ∧ k.replayFrom = some 32 ∧ k.replayFrom ≠ some 0 ∧ k.replayAt + 250 = 250 ∧ s.now = t) ∧
    (∀ t ∈ [999, 1000], ∀ n ∈ [31, 32],
      let s := { subS fun k => { k with unacked := 1, stale := n } with now := t }
      (s.sub 6 0).up = true ∧ 0 < (s.sub 6 0).unacked ∧ (s.sub 6 0).stale = n ∧ (s.sub 6 0).ackAt + 1000 = 1000 ∧ s.now = t) := by decide +kernel

theorem test_witness_SublinksTrainAndSpareLanes :
    ((subS).linkPowered 6 = true ∧ (subS).attached 6 0 = true ∧ ((subS).sub 6 0).up = true ∧ State.reset.linkPowered 6 = false ∧
      (State.reset.sub 6 0).up = false) ∧
    (let k := (subS).sub 6 0
     k.st = .active ∧ k.rxBiv = false ∧ k.rxNarrow = false) ∧
    (∀ cold ∈ [false, true], ∀ n ∈ [1, 2],
      let s := subS fun k => { k with st := .training, gotCaps := true, cold := cold, warmFail := n, coldFail := n, unacked := 1, badRack := false }
      let k := s.sub 6 0
      k.st = .training ∧ k.cold = cold ∧ k.coldFail = n ∧ k.warmFail = n ∧ 0 < k.unacked ∧ (cold = false → s.capsDone 6 0 = true)) ∧
    (let s := subS fun k => { k with st := .training, gotCaps := true, cold := true }
     s.capsDone 6 0 = true) := by decide +kernel

theorem test_witness_SublinksTrainAndSpareLanes_lanes :
    (let k := (subS fun k => { k with laneAct := laneMask ((List.finRange 34).take 32) }).sub 6 0
     let now := { k with laneBad := k.laneBad ||| laneMask [0] }
     k.laneBad.getLsbD 0 = false ∧ k.up = true ∧ k.laneAct.getLsbD 0 = true ∧ k.half = false ∧ now.freeLane = some 32) ∧
    ((subS fun k => { k with laneBad := laneMask [0] }).sub 6 0).laneBad.getLsbD 0 = true ∧
    (∀ h ∈ [false, true], ∀ n ∈ [17, 18],
      let k := (subS fun k => { k with laneAct := laneMask [0], laneBad := laneMask (((List.finRange 34).drop 1).take n), half := h }).sub 6 0
      let k := { k with laneAct := BitVec.allOnes 34 }
      let now := { k with laneBad := k.laneBad ||| laneMask [0] }
      now.freeLane = none ∧ (healthyLanes now.laneBad).length = 33 - n ∧ k.laneBad.getLsbD 0 = false ∧ k.up = true ∧
        k.laneAct.getLsbD 0 = true ∧ k.half = h) ∧
    (∀ a ∈ [false, true], ∀ o ∈ [false, true],
      let x : Swap := { failed := 0, spare := 32, commit := 64, acked := a, ours := o }
      ((subS fun k => { k with swap := some x }).sub 6 0).swap = some x) ∧ ((subS).sub 6 0).swap = none := by decide +kernel

/-- An entry into bivouac under way. -/
def bivS (full ours acked : Bool) : State := subS fun k => { k with biv := some { full := full, ours := ours, commit := 32, acked := acked } }

theorem test_witness_BivouacAndLinkRegisters :
    (let s := { subS (s := State.reset) with now := 100000 }
     let s := { s with cfg := { s.cfg with active := { s.cfg.active with biv := upd s.cfg.active.biv 6 fun _ => 0xC640A100 } } }
     s.bivAllowed 6 0 false = true ∧ s.bivAllowed 6 0 true = false ∧ (s.sub 6 0).st = .active ∧ (s.sub 6 0).biv = none ∧
       s.mustWake 6 0 false = false ∧ (s.sub 6 0).activeAt + 1000 * bits (s.bivCfg 6) 20 10 ≤ s.now ∧
       s.ropeSoon 6 (1000 * (bits (s.bivCfg 6) 12 8 + 2)) = false) ∧
    (let s := subS fun k => { k with tx := [{ pkt := { typ := 4, vc := 2, ord := false, resv := false, flitVc := 2, dst := 1, src := 0, pkey := 0, ctx := 0, addr := 0, rope := 0, status := 0, tag := 0, rlen := 0, last := true, efmt := 0, anchored := false, epw := false, uhdr := [], body := zeros 4096 }, queued := 0 }] }
     let s := { s with cfg := { s.cfg with active := { s.cfg.active with biv := upd s.cfg.active.biv 6 fun _ => BitVec.ofNat 32 (2 ^ 31) } } }
     s.bivAllowed 6 0 false = true ∧ s.mustWake 6 0 false = true) ∧
    (∀ full ∈ [false, true], ∀ ours ∈ [false, true], ∀ a ∈ [false, true],
      let s := bivS full ours a
      let x : BivEntry := { full := full, ours := ours, commit := 32, acked := a }
      (s.sub 6 0).biv = some x ∧ (s.sub 6 0).asleep = false ∧ (s.sub 6 0).rxBiv = false ∧ (s.sub 6 0).up = true ∧ s.mustWake 6 0 full = false) ∧
    (∀ x ∈ [(0, false), (100000000, true)],
      let s := { bivS true true true with now := x.1 }
      (s.sub 6 0).commitDue s.now 32 = x.2) ∧
    (((subS).sub 6 0).biv = none ∧ (State.reset.sub 6 0).up = false) ∧
    (∀ t ∈ [1999, 2000],
      let s := { subS fun k => { k with st := .txNarrow, waking := true } with now := t }
      (s.sub 6 0).asleep = true ∧ (s.sub 6 0).bivAt + 2000 = 2000 ∧ s.now = t ∧ (s.sub 6 0).waking = true) := by decide +kernel

theorem test_witness_BivouacAndLinkRegisters_registers :
    (readyS.pathOpen .warden = true ∧ classS .warden = true ∧ readyS.running = false ∧ readyS.pathOpen .hostA = true ∧ classS .hostA = false ∧
      State.reset.pathOpen .hostA = false) ∧
    (∀ d ∈ [(0 : BitVec 2), 1], (((subS).modGroup 6 fun g => { g with dis := d }).group 6).dis.getLsbD 0 = decide (d = 1)) ∧
    (liveS.pathOpen .warden = true ∧ liveS.running = true ∧ liveS.linkPowered 6 = true ∧ liveS.attached 6 0 = true) ∧
    (subS.group 6).loopMode 0 ≠ (((subS).modGroup 6 fun g => { g with loop := 2 }).group 6).loopMode 0 ∧
    (let s := prepS 900000 (some (launchOf (some true) true))
     s.inLaunchPitch = true ∧ State.reset.inLaunchPitch = false) ∧
    (bit (readyS.group 6).loop.toNat 15 = false ∧ bit ((readyS.modGroup 6 fun g => { g with loop := 0x8001 }).group 6).loop.toNat 15 = true) := by
  decide +kernel

/-- A packet of module 1 with key 5 on context 0x4000, to the first bytes of field 0's shared slices. -/
def lpktS (typ : Byte) (n : Nat) : LinkPacket :=
  { typ := typ, vc := 2, ord := false, resv := false, flitVc := 2, dst := 0, src := 1, pkey := 5, ctx := 0x4000, addr := BitVec.ofNat 64 (2 ^ 56)
    rope := 0, status := 0, tag := 9, rlen := 64, last := true, efmt := 0, anchored := false, epw := false, uhdr := [], body := zeros n }

/-- Context 0x4000 is loaded on port group 6 and key 5 of region 0 is in its table. -/
def fabS (k : Ctx := { decl := declS 0x4000, granted := 1 }) : State :=
  let s := ctxS k subS
  { s with cfg := { s.cfg with active := { s.cfg.active with pkey := [(4096 * 6, 0xE0000005)] } } }

theorem test_witness_RequestsFromOtherModules :
    (let s1 := fabS.modSub 6 0 fun k => k.freeRx (lpktS 0 0)
     fabS.admits 6 0 (lpktS 0 0) 0 ∧ s1.linkVerdict 6 0 (lpktS 0 0) 64 true = .ok ∧
       s1.linkVerdict 6 0 { lpktS 0 0 with addr := BitVec.ofNat 64 (5 * 2 ^ 56) } 64 true = .absent) ∧
    (∀ n ∈ [1, 0], ∀ st ∈ [(0 : Byte), 1],
      let p := { lpktS 1 64 with status := st }
      let k : Ctx := { decl := declS 0x4000, granted := n }
      let s := fabS k
      let s1 := s.modSub 6 0 fun k => k.freeRx p
      s.admits 6 0 p 1 ∧ p.ord = false ∧ addrRange p.addr.toNat ≠ 8 ∧ s1.writePlace p = p.addr.toNat ∧ s1.ctx? p.ctx = some k ∧ s.mem.wf = true ∧
        (s1.linkVerdict 6 0 p 64 (s1.windowOk p k 64) = .ok ↔ n = 1)) := by
  unfold State.admits; decide +kernel

theorem test_witness_RequestsFromOtherModules_add :
    let p := lpktS 3 4
    fabS.admits 6 0 p 3 ∧ p.ord = false ∧ ∀ n ∈ [1, 0],
      let k : Ctx := { decl := declS 0x4000, granted := n }
      let s1 := (fabS k).modSub 6 0 fun k => k.freeRx p
      let m := redSpan p.efmt.toNat p.anchored p.epw 4
      s1.ctx? p.ctx = some k ∧ (s1.linkVerdict 6 0 p m (s1.windowOk p k 4 && redTarget p.addr.toNat p.efmt.toNat p.anchored) == .ok) = decide (n = 1) := by
  unfold State.admits; decide +kernel

theorem test_witness_RequestsFromOtherModules_ord :
    ∀ n ∈ [63, 64], ∀ typ ∈ [1, 3],
      let p := { lpktS typ 4 with ord := true }
      let s := fabS.modSub 6 0 fun k => { k with ordQ := List.replicate n (p, 0) }
      s.admits 6 0 p typ ∧ (s.sub 6 0).ordQ.length = n ∧ p.ord = true := by
  unfold State.admits; decide +kernel

theorem test_witness_RequestsFromOtherModules_turned :
    State.reset.hears 6 0 = false ∧
    (fabS.hears 6 0 = true ∧ fabS.rxCheck 6 0 (lpktS 1 64) = 0 ∧ (lpktS 1 64).typ ≠ 0 ∧ fabS.rxCheck 6 0 { lpktS 1 64 with pkey := 9 } ≠ 0) := by
  decide +kernel

/-- An outstanding request of command 7's gang. -/
def reqS (kind : ReqKind) : Req :=
  { id := 9, kind := kind, core := 0, slot := 0, task := 0, cmd := 7, ctx := 0x4000, addr := BitVec.ofNat 64 (2 ^ 56), off := 0, len := 128, deadline := 1000 }

/-- A state with that request. -/
def askS (kind : ReqKind) (s : State := fabS) : State :=
  gangS .str (cmdOf 0x40 .str) { gangOf .str with data := zeros 128 } { s with memu := { s.memu with reqs := [reqS kind] } }

theorem test_witness_AnswersToThisModule :
    (∀ n ∈ [127, 128, 129],
      let s := askS .remoteRead
      let p := lpktS 2 n
      s.admits 6 0 p 2 ∧ s.reqOf p.tag (· == .remoteRead) = some (reqS .remoteRead) ∧ (reqS .remoteRead).addr.toNat ≤ p.addr.toNat ∧
        (reqS .remoteRead).len = 128 ∧ (reqS .remoteRead).got + p.body.length = n ∧
        (s.core 0).gang? 0 = some { gangOf .str with data := zeros 128 } ∧ s.admits 6 0 (lpktS 5 0) 5 ∧
        (∀ c y, y ∈ (s.core c).gangs → y.reads = [])) ∧
    (∀ kind ∈ [ReqKind.ack, .collAck],
      let s := askS kind
      s.admits 6 0 (lpktS 4 0) 4 ∧ s.reqOf 9 ReqKind.write = some (reqS kind) ∧ (reqS kind).kind = kind ∧ (s.ctx? (reqS kind).ctx).isSome ∧
        ∀ code ∈ [3, 4], s.admits 6 0 { lpktS 0x21 0 with vc := 0, flitVc := 0, body := [BitVec.ofNat 8 code] ++ zeros 15 } 0x21 ∧
          fieldAt ([BitVec.ofNat 8 code] ++ zeros 15) 0 1 = code) ∧
    (∀ l ∈ [[9], []],
      let s := { fabS with memu := { fabS.memu with ended := l } }
      s.memu.ended.contains (lpktS 2 0).tag.toNat = decide (l = [9]) ∧ s.admits 6 0 (lpktS 2 0) 2 ∧ s.admits 6 0 (lpktS 4 0) 4 ∧
        s.admits 6 0 (lpktS 5 0) 5 ∧ s.reqOf 9 (· == .remoteRead) = none ∧ s.reqOf 9 ReqKind.write = none) := by
  unfold State.admits; decide +kernel

/-- The body of a grant on context 0x4000. -/
def grantBody (n flags : Nat) : List Byte := leBytes 2 0x4000 ++ leBytes 2 n ++ leBytes 2 2 ++ leBytes 1 flags ++ zeros 9

theorem test_witness_GrantsAndLeases :
    (∀ x ∈ [(1, 0), (0, 1), (0, 0)],
      let p := { lpktS 0x20 0 with vc := 0, flitVc := 0, body := grantBody x.1 x.2 }
      fabS.ctx? 0x4000 = some { decl := declS 0x4000, granted := 1 } ∧ fabS.admits 6 0 p 0x20 ∧ BitVec.ofNat 16 (fieldAt p.body 0 2) = 0x4000 ∧
        (∀ r ∈ fabS.grd.colls, r.todo = []) ∧ (bit (fieldAt p.body 6 1) 0 = true ↔ x.2 = 1) ∧ fieldAt p.body 2 2 = x.1) ∧
    liveS.ctx? 0x4000 = none ∧
    (∀ x ∈ [(16, 0), (1, 1000), (15, 999), (0, 5000)],
      let k : Ctx := { decl := declS 0x4000, owed := x.1 }
      let s := { fabS k with now := x.2 }
      s.ctx? 0x4000 = some k ∧ k.owed = x.1 ∧ k.owedAt = 0 ∧ s.now = x.2) ∧
    (∀ t ∈ [99999, 100000, 199999, 200000],
      let k : Ctx := { decl := declS 0x4000, held := 1, lease := 2 }
      let s := { pitchS 0 (fabS k) with now := t }
      s.ctx? 0x4000 = some k ∧ s.leaseUnit = 100000 ∧ k.decl.sends = true ∧ k.unspent = true ∧ k.holdExp = false ∧ s.now = t ∧
        k.holdAt + k.lease * s.leaseUnit / 2 = 100000 ∧ k.holdAt + (k.lease - 1) * s.leaseUnit = 100000 ∧ k.decl.receives = true ∧
        k.lendExp = false ∧ k.lendAt + k.decl.leaseLen * s.leaseUnit = 200000) ∧
    (let k : Ctx := { decl := declS 0x4000, held := 1, lease := 2 }
     (fabS k).pathOpen .warden = true ∧ classS .warden = true ∧ (fabS k).ctx? 0x4000 = some k ∧
       (bit (0x80004000 : W32).toNat 31 = true ∧ k ∈ (fabS k).revoked 0x80004000 ∧ k ∈ (fabS k).revoked 0xC0004000 ∧
         bit (0xC0004000 : W32).toNat 30 = true ∧ bit (0x80004000 : W32).toNat 30 = false) ∧
       bit (0x00004000 : W32).toNat 31 = false ∧ (fabS k).revoked 0x80004001 = []) ∧
    (let k : Ctx := { decl := declS 0x4000, holdExp := true, lendExp := true }
     (fabS k).ctx? 0x4000 = some k) ∧
    readyS.pathOpen .hostA = true ∧ classS .hostA = false ∧ State.reset.pathOpen .hostA = false := by
  unfold State.admits; decide +kernel

/-- A run of an image. -/
def imageS (im : TopoImage) (s : State) : State := { s with pit := { s.pit with image := im } }

/-- The image of a run in the rope regime, with one entry and the chain's group. -/
def ropeS (n : Nat) : State :=
  let e : RopeEntry := { rope := 5, port := 6, rx := false, vc := 2, peer := 1, lease := 2, belay := 0, wstart := 10, wlen := 10, first := 0, last := 9, buf := 0 }
  imageS { pitchUs := 100, hasRopes := true, ropes := [e], groups := [{ group := 1, nmem := 2, role := 1, rect := 0, cap := 0, members := [1, 0] }] } (pitchS n)

theorem test_witness_RopesOrderAndChunks :
    liveS.image.ropes[0]? = none ∧
    (∀ x ∈ [(9, false), (10, true), (19, true), (20, false)],
      let s := ropeS x.1
      (s.image.ropes[0]?.map fun e => (s.windowNow e, e.rope)) = some (x.2, 5) ∧ s.ropeRegime = true ∧ s.fab.open_.contains (5, 0) = false) ∧
    (let s := { ropeS 20 with fab := { (ropeS 20).fab with open_ := [(5, 0)] } }
     s.fab.open_.contains (5, 0) = true ∧ s.image.ropes[0]?.isSome = true) ∧
    (fabS.sub 6 0).ordQ = [] ∧
    (∀ typ ∈ [1, 3],
      let p := { lpktS typ 4 with ord := true }
      let s := fabS.modSub 6 0 fun k => { k with ordQ := [(p, 0)] }
      (s.sub 6 0).ordQ = (p, 0) :: [] ∧ p.typ = typ ∧ s.mem.wf = true ∧ (s.ctx? p.ctx).isSome) := by decide +kernel

theorem test_witness_RopesOrderAndChunks_header :
    let s := State.modGroup (ropeS 0) 4 fun g => { g with sub := upd g.sub 0 fun k => { k with st := .active } }
    let s := { s with
      fab := { s.fab with ctxs := [{ decl := { declS 0x4000 with port := 4 } }] }
      grd := { s.grd with pred := 1 }
      cfg := { s.cfg with active := { s.cfg.active with pkey := [(4096 * 4, 0xE0000005)] } } }
    ∀ n ∈ [(0, 1), (1, 1), (8388608, 1), (8388609, 1), (64, 2)],
      let p := { lpktS 0x12 0 with vc := 3, flitVc := 3, src := BitVec.ofNat 8 n.2, uhdr := leBytes 2 1 ++ [4, 0] ++ leBytes 4 0 ++ leBytes 4 n.1 ++ zeros 52 }
      s.admits 4 0 p 0x12 ∧ s.chunkNow p.ctx = none ∧
        (s.modSub 4 0 fun k => k.freeRx p).chunkExpected 4 p = decide (n = (1, 1) ∨ n = (8388608, 1)) := by
  unfold State.admits; decide +kernel

/-! ## Intake, collectives, the ledger -/

/-- A shard of one folio of 64 bytes. -/
def shardS : ShardEntry := { accession := 3, efmt := 0, pattern := 0, count := 2, w := 64, reside := true, ret := true, digest := zeros 32 }

/-- Context 2 of the intake on port group 0, sublink 0 active, key 5 of region 0, one shard. -/
def intS (f : Intake → Intake := id) : State :=
  let s := liveS.modGroup 0 fun g => { g with sub := upd g.sub 0 fun k => { k with st := .active } }
  { s with
    fab := { s.fab with ctxs := [{ decl := { declS 2 with port := 0, peer := 0x80 } }] }
    cfg := { s.cfg with active := { s.cfg.active with pkey := [(0, 0xE0000005)] } }
    pit := { s.pit with image := { pitchUs := 100, shards := [shardS] } }
    intk := f s.intk }

/-- A request for both folios; `next` is the next one to come. -/
def archS (next : Nat) (want : Bool := false) : ArchReq :=
  { reqId := 0x20000, group := 0, sub := 0, core := 0, task := 0, cmd := 7, desc := 0, shard := 0, accession := 3, first := 0, count := 2
    next := next, want := want, version := 0, gotRec := false, deadline := 1000 }

/-- A record of kind `k`, index `i`, with a body of `n` bytes. -/
def recS (k i n : Nat) : LinkPacket :=
  { lpktS 0x11 n with
    vc := 4, flitVc := 4, src := 0x80, ctx := 2
    uhdr := leBytes 6 3 ++ [BitVec.ofNat 8 k, 0] ++ leBytes 4 i ++ leBytes 4 n ++ leBytes 4 0x20000 ++ zeros 44 }

theorem test_witness_ArchiveRequestsAndRecords :
    (let w : ArchWant := { core := 0, task := 0, cmd := 7, desc := 0, ctx := 2, shard := 0, first := 0, count := 2 }
     let s := intS fun k => { k with want := [w] }
     s.intk.want.find? (fun y => s.wantFirst y && s.wantFits 0 0 y && s.ctxOn y.ctx 0 0) = some w ∧ s.image.shards[w.shard]? = some shardS ∧
       s.ctx? w.ctx = some { decl := { declS 2 with port := 0, peer := 0x80 } }) ∧
    intS.intk.want.find? (fun y => intS.wantFirst y && intS.wantFits 0 0 y && intS.ctxOn y.ctx 0 0) = none ∧
    (let w : ArchWant := { core := 0, task := 0, cmd := 7, desc := 0, ctx := 2, shard := 1, first := 0, count := 2 }
     let s := intS fun k => { k with want := [w] }
     s.intk.want.find? (fun y => s.wantFirst y && s.wantFits 0 0 y && s.ctxOn y.ctx 0 0) = some w ∧ s.image.shards[w.shard]? = none) ∧
    (∀ x ∈ [(0, 64, true), (1, 64, true), (1, 63, false)],
      let s := intS fun k => { k with reqs := [archS x.1] }
      let p := recS 1 x.1 x.2.1
      s.admits 0 0 p 0x11 ∧ fieldAt p.uhdr 6 1 = 1 ∧ s.entryWait 0 0 + p.body.length ≤ 2 ^ 21 ∧ s.recordReq 0 0 p = some (archS x.1) ∧
        s.image.shards[(archS x.1).shard]? = some shardS ∧ (archS x.1).versionOk p = true ∧ (archS x.1).folioOk shardS p = x.2.2 ∧
        ((archS x.1).next + 1 = (archS x.1).first + (archS x.1).count ↔ x.1 = 1)) ∧
    (∀ n ∈ [64, 63],
      let s := intS fun k => { k with reqs := [archS 0 true] }
      let p := recS 2 0 n
      s.admits 0 0 p 0x11 ∧ fieldAt p.uhdr 6 1 = 2 ∧ s.recordReq 0 0 p = some (archS 0 true) ∧ (archS 0 true).versionOk p = true ∧
        (archS 0 true).want = true ∧ fieldAt p.uhdr 8 4 = 0 ∧ (fieldAt p.uhdr 12 4 = 64 ∧ p.body.length = 64 ↔ n = 64)) := by
  unfold State.admits; decide +kernel

theorem test_witness_ArchiveRequestsAndRecords_ended :
    (∀ n ∈ [0, 1],
      let s := intS fun k => { k with reqs := [archS 0] }
      let p := recS 3 0 n
      s.admits 0 0 p 0x11 ∧ fieldAt p.uhdr 6 1 = 3 ∧ s.recordReq 0 0 p = some (archS 0) ∧ (archS 0).versionOk p = true ∧
        fieldAt p.uhdr 8 4 = 0 ∧ (fieldAt p.uhdr 12 4 = 0 ∧ p.body = [] ↔ n = 0) ∧
        ({ archS 0 with gotRec := true, version := 7 } : ArchReq).versionOk p = false) ∧
    (∀ l ∈ [[0x20000], []],
      let s := intS fun k => { k with ended := l }
      s.admits 0 0 (recS 3 0 0) 0x11 ∧ s.recordReq 0 0 (recS 3 0 0) = none ∧
        s.intk.ended.any (fun x => x.toNat == fieldAt (recS 3 0 0).uhdr 16 4) = decide (l = [0x20000])) := by
  unfold State.admits; decide +kernel

theorem test_witness_ArchiveRequestsAndRecords_full :
    ¬ intS.entryWait 0 0 + ({ recS 1 0 0 with body := zeros (2 ^ 21 + 1) } : LinkPacket).body.length ≤ 2 ^ 21 := by
  simp only [zeros, List.length_replicate]; omega

/-- A pass that has absorbed `n` of 3 folios. -/
def trackS (n i : Nat) : Tracker :=
  { accession := 3, shard := 0, count := 3, version := 0, absorbed := n, digs := [], early := [], seen := [], hashing := [(i, [1])]
    expected := none }

/-- A resident shard without folios. -/
def resS (digest : List Byte) : Resident := { accession := 3, version := 0, base := 0, count := 0, w := 64, digest := digest, scrubbing := true }

theorem test_witness_PassesAndScrubs :
    (∀ x ∈ [(0, 1), (1, 1), (2, 2)],
      let t := trackS x.1 x.2
      let s := intS fun k => { k with trackers := [t] }
      s.tracker? t.accession = some t ∧ t.hashing.find? (fun h => h.1 == x.2) = some (x.2, [1]) ∧ t.early = [] ∧ t.absorbed ≠ t.count) ∧
    (∀ n ∈ [999, 1000], ∀ b ∈ [false, true],
      let s := intS fun k => { k with pitchesTo := n, scrubBusy := b }
      s.intk.period = 1000 ∧ s.intk.pitchesTo = n ∧ s.intk.scrubBusy = b) ∧
    intS.tracker? 3 = none ∧ (trackS 0 1).hashing.find? (fun h => h.1 == 2) = none ∧ intS.intk.resident[(0 : Fin 256)] = none ∧
    (intS fun k => { k with scrubEff := 0 }).intk.period = 0 := by decide +kernel

/-- The last folio of a pass whose shard lies whole at base 0, with digest `d` in its digest record. -/
theorem test_witness_PassesAndScrubs_last : ∀ x ∈ [(64, [(0, [(0, 192)])], some 0), (0, [(0, [(0, 192)])], none), (64, [], none)],
    let d := sha256 (sha256 [1])
    let t := { trackS 2 2 with expected := some d, landed := x.2.1 }
    let s := intS fun k => { k with trackers := [t] }
    s.tracker? t.accession = some t ∧ t.early = [] ∧ t.absorbed + 1 = t.count ∧ s.intk.freeEntry = some 0 ∧ t.base x.1 = x.2.2 ∧
      s.expectedOf t = some d ∧ (s.image.shards[t.shard]?).map (fun y => y.reside) = some true := by decide +kernel

theorem test_witness_PassesAndScrubs_resident (d : List Byte) :
    let s := intS fun k => { k with scrubBusy := true, resident := upd k.resident 0 fun _ => some (resS d) }
    s.intk.scrubBusy = true ∧ s.intk.resident[(0 : Fin 256)] = some (resS d) ∧ (resS d).scrubbing = true ∧
      { resS d with scrubbing := false }.scrubbing = false ∧
      (d = sha256 [] → s.residentDigest (resS d) = d) ∧ (d = [] → s.residentDigest (resS d) ≠ d) := by
  refine ⟨rfl, rfl, rfl, rfl, fun h => by rw [h]; rfl, fun h => ?_⟩
  subst h; decide +kernel

/-- A segment gang that returns to the archive. -/
def retS : Desc := { descZ with bytes := zeros 15 ++ [0x20] ++ leBytes 4 64 ++ leBytes 4 1 ++ zeros 8 ++ [2] ++ zeros 31 }

theorem test_witness_LowerTiers :
    (let x := { cmdOf 0x40 .str with descs := [retS] }
     let g := { gangOf .str with started := true, toSend := 1, data := zeros 64 }
     let s := gangS .str x g (intS.modTask 0 0 fun k => { k with carrels := k.carrels.set 2 ⟨BitVec.ofNat 64 (4 * 2 ^ 56), BitVec.ofNat 64 (4 * 2 ^ 56 + 127), 0xA0000000⟩ })
     let body := ((streamD retS.bytes).transform g.data g.poison).flat.1
     (s.core 0).gang? 0 = some g ∧ (s.core 0).gang? 1 = none ∧ (s.task 0 0).cmd? 7 = some x ∧ x.descFor 0 = some (0, retS) ∧
       s.ctx? (streamD retS.bytes).ctx = some { decl := { declS 2 with port := 0, peer := 0x80 } } ∧
       s.image.shards[bits (s.locAddr 0 0 (streamD retS.bytes).dst) 40 16]? = some shardS ∧ g.settled = true ∧ s.holdsOn 0 g x retS = true ∧
       s.holdsOn 0 { g with toSend := 0 } x retS = false ∧
       addrRange (s.locAddr 0 0 (streamD retS.bytes).dst) = 4 ∧ body.length = 64 ∧
       ((streamD retS.bytes).outs (gangSeg 0x40 retS 0) false).head?.map (fun y => y.2.1) = some 0 ∧ 0 + 64 ≤ shardS.count * shardS.w ∧
       { shardS with count := 0 }.count * 64 < 0 + 64) ∧
    (∀ t ∈ [999, 1000],
      let s := { askS .remoteRead with now := t }
      9 < 2 ^ 32 ∧ (s.req? 9).filter (fun y => y.kind.read) = some (reqS .remoteRead) ∧ (reqS .remoteRead).deadline = 1000 ∧ s.now = t ∧
        (let s := { askS .ack with now := t }
         (s.req? 9).filter (fun y => !y.kind.read) = some (reqS .ack) ∧ (reqS .ack).parked = false ∧ s.now = t) ∧
        ((s.core 0).gang? 0).map (fun x => (x.task, x.cmd)) = some (0, 7) ∧ (∀ y ∈ (s.core 0).gangs, y.reads = []) ∧
        (let s := { intS fun k => { k with reqs := [archS 0] } with now := t }
         s.arch? 0x20000 = some (archS 0) ∧ (archS 0).deadline = 1000)) ∧
    (let s := { liveS with memu := { liveS.memu with ended := [9] } }
     s.memu.ended.contains 9 = true) ∧
    ((askS .hostFlush).req? 9).filter (fun y => y.kind == .hostFlush && y.port == (0 : PortIx).val) = some (reqS .hostFlush) ∧
    (((askS .hostRead).req? 9).filter (fun y => y.kind == .hostRead && y.port == (0 : PortIx).val) = some (reqS .hostRead) ∧
      (reqS .hostRead).got + (zeros 127).length < (reqS .hostRead).len ∧ (reqS .hostRead).got + (zeros 128).length = (reqS .hostRead).len ∧
      (reqS .hostRead).len < (reqS .hostRead).got + (zeros 129).length) ∧
    ((liveS.dom (vmif 0)).isOn = true ∧ place (addrLocal (BitVec.ofNat 64 (2 * 2 ^ 56) : W64).toNat) = .stacks 0 ∧
      (liveS.dom (vmif (stacksField 0))).isOn = true ∧ (State.reset.dom (vmif (stacksField 0))).isOn = false ∧
      ∀ o, place (addrLocal (BitVec.ofNat 64 (2 ^ 56) : W64).toNat) ≠ .stacks o) ∧
    (liveS.arch? 9 = none ∧ (liveS.req? 9).filter (fun y => y.kind.read) = none ∧ liveS.memu.ended.contains 9 = false) ∧
    (∀ t ∈ [340, 341], ((liveS.modField 0 fun k => { k with stkTemp := t, stkCool := some 0 }).field 0).stkTemp = t) ∧
    (let s := { liveS with now := 10000000 }.modField 0 fun k => { k with stkTemp := 331, stkCool := some 0 }
     (s.field 0).stkTemp ≤ 340 ∧ (s.field 0).stkCool = some 0 ∧ 0 + 10000000 ≤ s.now ∧ ¬ 1 + 10000000 ≤ s.now) := by
  refine ⟨by decide +kernel, by decide +kernel, by decide +kernel, by decide +kernel, by decide +kernel,
    ⟨by decide +kernel, by decide +kernel, by decide +kernel, by decide +kernel, fun o => ?_⟩, by decide +kernel, by decide +kernel, by decide +kernel⟩
  have e : place (addrLocal (BitVec.ofNat 64 (2 ^ 56) : W64).toNat) = .slice 0 0 := by decide +kernel
  rw [e]; nofun

/-- The group of core 0 alone, in a role (1: the chain). -/
def groupS (role : Nat) : GroupEntry := { group := 1, nmem := 2, role := role, rect := 0, cap := 1, members := [0, 1] }

/-- A descriptor of a collective of kind `k` on group 1, 64 bytes in units of 64 KiB on context 0x4000. -/
def collS (k : Nat) : List Byte := zeros 16 ++ leBytes 4 64 ++ leBytes 2 1 ++ [BitVec.ofNat 8 k, 0] ++ leBytes 2 0 ++ leBytes 2 0x4000 ++ [16] ++ zeros 35

/-- Core 0 has issued such a collective. -/
def runS (k : Nat) (started : Bool) (steps : Nat := 1) (left : Int := 0) : CollRun :=
  { group := 1, core := 0, slot := 0, task := 0, cmd := 7, idx := 0, lead := 0, nth := 1, at_ := 0, desc := collS k, started := started, base := 0, units := 1
    steps := steps, wants := [{ pos := 1, off := 0, len := 64, left := left }] }

/-- Chunk 0 of group 1, all of its 64 bytes landed. -/
def chunkS (added sent : Bool) (acks : Nat) : Chunk :=
  { ctx := 0x4000, group := 1, nth := 1, index := 0, header := zeros 64, got := 64, len := 64, crc := 2 ^ 64 - 1, poison := false, addr := some (2 * 2 ^ 56)
    added := added, sent := sent, acks := acks }

/-- Core 0's gang of that collective, with its 64 bytes. -/
def collG (await : Nat := 1) : Gang := { gangOf .str with await := await, data := zeros 64 }

/-- A run with that collective, its gang and its group; core 0 has issued `n` collectives of it. -/
def gradS (r : CollRun) (n : Nat) (held : Nat := 1) (chunks : List Chunk := []) (first : Bool := false) (g : Gang := collG) : State :=
  let s := gangS .str (cmdOf 0x60 .str) g (fabS { decl := declS 0x4000, held := held })
  { s with
    now := 3000
    pit := { s.pit with image := { s.image with pitchUs := 100, groups := [groupS (if (collD r.desc).kind = 4 then 1 else 0)] } }
    grd := { s.grd with colls := [r], chunks := chunks, first := first
                        issued := [{ group := 1, core := 0, count := n, times := [0], task := 0, cmd := 7, lead := 0 }] } }

theorem test_witness_TheGradientChain_start :
    (∀ x ∈ [(4, 0), (5, 0), (5, 1), (5, 2)],
      let r := { runS x.1 false with phase := x.2 }
      let s := gradS r 1
      s.sizeRuns.runOf 0 0 = some r ∧ (s.sizeRuns.core 0).gang? 0 = some collG ∧ r.started = false ∧
        s.sizeRuns.collGroup r.group = some (groupS (if x.1 = 4 then 1 else 0)) ∧ collG.await = 1 ∧ (collG 2).await ≠ 1 ∧
        ((collD r.desc).expert = true ↔ x.1 = 5) ∧ (r.known = true ↔ x ≠ (5, 0) ∧ x ≠ (5, 1))) ∧
    (gradS (runS 4 true) 1).sizeRuns.runOf 0 0 = some (runS 4 true) ∧ (gradS (runS 4 false) 1).sizeRuns.runOf 0 1 = none ∧
    (gradS { runS 4 false with group := 2 } 1).sizeRuns.collGroup 2 = none := by decide +kernel

theorem test_witness_TheGradientChain_due :
    let s := gradS (runS 4 false) 1
    s.costPaid (runS 4 false) (groupS 1) = true ∧ { s with now := 2999 }.costPaid (runS 4 false) (groupS 1) = false ∧
      s.inListOrder (runS 4 false) collG = true := by decide +kernel

theorem test_witness_TheGradientChain_issued : (gradS (runS 4 false) 1).allIssued (groupS 1) 1 = true ∧
    (gradS (runS 4 false) 0).allIssued (groupS 1) 1 = false := by decide +kernel

theorem test_witness_TheGradientChain_serves : ∀ k ∈ [0, 1], (gradS (runS 4 true) 1).servesChunk (runS 4 true) (groupS 1) k = decide (k = 0) := by
  have e : (gradS (runS 4 true) 1).rankOf (groupS 1) (runS 4 true).core = 0 := by decide +kernel
  intro k hk
  obtain rfl | rfl : k = 0 ∨ k = 1 := by simpa using hk
  · rw [State.servesChunk, State.serves, e, Nat.zero_mod]
    decide
  · rfl

theorem test_witness_TheGradientChain :
    (let r := runS 4 true
     (gradS r 1).runAt 0 0 4 = some (r, groupS 1, collG) ∧ (gradS (runS 4 false) 1).runAt 0 0 4 = none ∧
     (∀ x ∈ [(false, 0, some (2 * 2 ^ 56)), (false, 1, some (2 * 2 ^ 56)), (true, 0, some (2 * 2 ^ 56)), (false, 0, none)],
       let y := { chunkS false false 0 with failed := x.1, crc := (chunkS false false 0).crc - x.2.1, addr := x.2.2 }
       (gradS r 1 1 [y]).chunkOf r 0 = some y ∧ (gradS r 1 1 [y]).grd.first = false ∧ y.partly = false ∧ y.added = false ∧
         (y.failed = true ∨ y.crc ^^^ (2 ^ 64 - 1) = fieldAt y.header 56 8 ↔ x.2.1 = 0) ∧ (gradS r 1 1 [y]).mem.wf = true) ∧
     ({ chunkS false false 0 with got := 63 }.partly = true ∧ (gradS r 1).chunkOf r 0 = none) ∧
     (r.sent.contains 0 = false ∧ { r with sent := [0] }.sent.contains 0 = true ∧ ∀ h ∈ [0, 1],
        (gradS r 1 h [] true).ctx? (chunkCtx (collD r.desc) 0) = some { decl := declS 0x4000, held := h } ∧ (collD r.desc).chunkCredits = 1) ∧
     (let y := chunkS true false 0
      let s := gradS r 1 1 [y]
      s.chunkOf r 0 = some y ∧ y.added = true ∧ y.sent = false ∧ y.addr = some (2 * 2 ^ 56) ∧ s.mem.poisonIn (2 * 2 ^ 56) y.len = [(0, 64)]) ∧
     ∀ n ∈ [0, 1], (gradS r 1 1 [chunkS true true n]).chunkOf r 0 = some (chunkS true true n)) := by decide +kernel

/-- The chunk holds whole elements, so that nothing of its neighbours is awaited. -/
theorem test_witness_TheGradientChain_elements :
    ((gradS (runS 4 true) 1 1 [chunkS false false 0]).landedElems (runS 4 true) collG (chunkS false false 0) (2 * 2 ^ 56)).isSome = true := by
  decide +kernel

/-- A LEDGER request with a block of an empty record. -/
def ledS (err : Byte) (commit : Byte) (shards : Nat := 0) : LedgerReq :=
  { seq := 4, err := err, core := 0, task := 0, cmd := 7, slot := 0
    block := leBytes 4 0x4947444C ++ [commit] ++ zeros 3 ++ leBytes 2 shards ++ zeros 102, bad := [], buf := BitVec.ofNat 64 (2 * 2 ^ 56), size := 512, pnum := 1 }

theorem test_witness_ScattersExpertsAndLedger :
    (∀ k ∈ [3, 5, 6], (gradS (runS k true) 1).runAt 0 0 k = some (runS k true, groupS 0, collG) ∧ (gradS (runS k true 0) 1).runAt 0 0 k = none) ∧
    ((runS 3 true).wants.all (fun w => w.left == 0) = true ∧ (runS 3 true 1 64).wants.all (fun w => w.left == 0) = false ∧
      (gradS (runS 3 true 1 64) 1).runAt 0 0 3 = some (runS 3 true 1 64, groupS 0, collG) ∧ (runS 3 true).todo = []) ∧
    (let s := { liveS with aud := { liveS.aud with pend := [ledS 0 1] } }
     s.aud.pend = ledS 0 1 :: [] ∧ s.glb.wardenUp = true ∧ (ledS 0 1).err = 0 ∧ s.mem.wf = true ∧ bit (fieldAt (ledS 0 1).block 4 1) 0 = true ∧
       s.commits (ledS 0 1) = true ∧ s.commits (ledS 0 1 1) = false ∧ bit (fieldAt (ledS 0 0).block 4 1) 0 = false ∧ (ledS 3 0).err ≠ 0) ∧
    (liveS.aud.pend = [] ∧ (slotS .empty false).glb.wardenUp = false) ∧ ∀ k ∈ [0, 1, 5, 6], (k ≠ (0 : Byte) ∧ k.toNat ≤ 5 ↔ k = 1 ∨ k = 5) := by
  decide +kernel

/-- The gang of a LEDGER command, and the label of a record that commits. -/
theorem test_witness_ScattersExpertsAndLedger_told :
    ((gangS .str (cmdOf 0x71 .str)).core 0).gang? (ledS 0 1).slot = some (gangOf .str) ∧ (gangOf .str).task = (ledS 0 1).task ∧
      (gangOf .str).cmd = (ledS 0 1).cmd ∧ ledgerLabels (ledS 0 1).block = [] := by decide +kernel

/-! ## Power, start-up, sessions -/

/-- Domain `d` in a state; every other domain in state `rest`. -/
def domS (d : DomIx) (k : Domain) (rest : DomSt := .on) : State :=
  { State.reset with pwr := { State.reset.pwr with dom := (Vector.replicate 88 { st := rest }).set d.val k } }

theorem test_witness_DomainSequences :
    (let s := domS 0 {}
     s.pathOpen .warden = true ∧ s.wardenTakes .warden = true ∧ (0 : BitVec 7).toNat = (0 : DomIx).val ∧ s.mayPowerUp 0 = true ∧ (s.dom 0).st = .off ∧
       (s.dom 0).queued = none) ∧
    State.reset.mayPowerUp 0 = false ∧ ((domS 64 { st := .on } .off).mayPowerDown 64 = true ∧ ((domS 64 { st := .on } .off).dom 64).st = .on) ∧
    (domS 64 { st := .on }).mayPowerDown 64 = false ∧ 88 ≤ (88 : BitVec 7).toNat ∧ readyS.wardenTakes .hostA = false ∧ readyS.pathOpen .hostA = true ∧
    (∀ n ∈ [3, 4],
      let s := { State.reset with
        pwr := { State.reset.pwr with wait := [(9, true)], dom := Vector.ofFn fun i => if i.val < n then { st := .switchingOn, counts := true } else {} } }
      s.pwr.wait = (9, true) :: [] ∧ s.sequences = n) ∧
    (∀ st ∈ [DomSt.switchingOn, .switchingOff, .initialising], ∀ n ∈ [0, 7, 8], ∀ b ∈ [false, true],
      let k := (domS 80 { st := st, stage := n, offReq := b, onReq := b }).dom 80
      k.st = st ∧ k.stage = n ∧ k.offReq = b ∧ k.onReq = b) ∧
    isVlnk 79 = false ∧ isVlnk 80 = true ∧ isVlnk 83 = true ∧ isVlnk 84 = false ∧ vlnk 0 = 80 ∧ (liveS.group 0).dis.getLsbD 0 = false := by decide +kernel

theorem test_witness_DomainSequences_times :
    (∀ t ∈ [1999, 2000, 5999, 6000, 1000, 999], { domS 0 { st := .switchingOn, stage := 8 } with now := t }.now = t ∧
      ((domS 0 { st := .switchingOn, stage := 8 }).dom 0).stageAt = 0) ∧
    initTime 0 = 2000 ∧ initTime 64 = 200000 ∧ initTime 84 = 2000000 ∧ domKind 0 = .vlog 0 ∧ domKind 64 = .varr 0 ∧ domKind 84 = .vmif 0 ∧ domKind 80 = .vlnk 0 ∧
    State.reset.pathOpen .hostA = false ∧ State.reset.pwr.wait = [] ∧ State.reset.sequences < 4 ∧
    (∀ q ∈ [none, some true, some false], ((domS 0 { queued := q }).dom 0).queued = q ∧ ((domS 0 { st := .fenced, queued := q }).dom 0).st = .fenced) ∧
    (∀ st ∈ [DomSt.on, .onFenced, .switchingOn, .initialising, .switchingOff], ((domS 64 { st := st } .off).dom 64).st = st ∧
      (domS 64 { st := st } .off).mayPowerDown 64 = true) := by decide +kernel

theorem test_witness_FencesAndCeilings :
    (∀ n ∈ [999999, 1000000], ({ State.reset with pit := { State.reset.pit with gcnt := BitVec.ofNat 64 n } }).gridNow ≠
      ((domS 0 { st := .on, offReq := true }).dom 0).edge ↔ n = 1000000) ∧
    (((domS 0 { st := .on, offReq := true }).dom 0).isOn = true ∧ ((domS 0 { st := .on, offReq := true }).dom 0).offReq = true) ∧
    (∀ b ∈ [false, true], ((domS 0 { st := .fenced, onReq := b }).dom 0).st = .fenced ∧ ((domS 0 { st := .fenced, onReq := b }).dom 0).queued = none ∧
      ((domS 0 { st := .fenced, onReq := b }).dom 0).onReq = b) ∧
    (((domS 0 { st := .onFenced }).dom 0).st = .onFenced ∧ ((domS 0 { st := .onFenced }).dom 0).offReq = false) ∧
    (1000 < clampTotal 0 ((0, 1001) :: (liveS.field 0).clampActs.filter fun x => decide (0 < x.1 + 20000)) ∧
      clampTotal 0 ((0, 1000) :: (liveS.field 0).clampActs.filter fun x => decide (0 < x.1 + 20000)) ≤ 1000) ∧
    (∀ t ∈ [999999, 1000000],
      let s := { liveS with now := t }.modField 0 fun k => { k with clampCeil := 15 }
      (s.field 0).clampCeil < s.zonePhaseCeil (vlog 0) ∧ (s.field 0).clampAt + 1000000 = 1000000 ∧ s.now = t) ∧
    (feeds 0 0 = true ∧ feeds 0 1 = false) ∧
    (let s := liveS.modCore 0 fun k => { k with boundEff := 0xFF }
     s.floorsAbove 0 (max 4 ((s.field 0).zoneCeil - 1)) ≠ [] ∧ sustainW s.cfg.active.budget ≤ 32000) ∧
    (100 * 36100 ≤ 95 * 38000 ∧ 100 * 30400 ≤ 95 * sustainW liveS.cfg.active.budget) ∧
    (∀ n ∈ [48, 49],
      let s := { liveS with pwr := { liveS.pwr with govHold := n } }.modField 0 fun k => { k with govCeil := 8 }
      s.pwr.govHold = n ∧ s.govLowest = some 0) ∧
    (liveS.govLowest = none ∧ liveS.floorsAbove 0 (max 4 ((liveS.field 0).zoneCeil - 1)) = [] ∧ 38000 ≤ 38000 ∧ 37999 < 38000 ∧
      ¬ 100 * 36101 ≤ 95 * 38000 ∧ sustainW liveS.cfg.active.budget ≤ 32000 ∧ 31999 < sustainW liveS.cfg.active.budget) := by decide +kernel

theorem test_witness_SensorsAndShutdown :
    (let z := (liveS.core 0).sensors[(0 : Fin 4)]
     z.failed = false ∧ (∀ x ∈ [-80, 600], senseBad x = false ∧ senseStuck liveS.now z x (liveS.core 0).levelAt = false) ∧
       ∀ x ∈ [-81, 601], senseBad x = true) ∧
    ((liveS.modCore 0 fun k => { k with sensors := k.sensors.set 0 { failed := true } }).core 0).sensors[(0 : Fin 4)].failed = true ∧
    liveS.pwr.railsOff = false ∧
    (∀ x ∈ [439, 440], (liveS.modCore 0 fun k => { k with sensors := k.sensors.set 0 { reading := x } }).mustShut 1 0 = decide (440 ≤ x)) ∧
    (∀ x ∈ [419, 420], (liveS.modField 0 fun k => { k with stkTemp := x }).mustShut 2 0 = decide (420 ≤ x)) ∧
    (∀ t ∈ [9, 10],
      let s := { liveS with now := t, pwr := { liveS.pwr with railsOff := true, shutEnd := some 10 } }
      s.pwr.railsOff = true ∧ s.pwr.shutEnd = some 10 ∧ s.now = t) := by decide +kernel

theorem test_witness_ResetsAndStartUp :
    (readyS.pathOpen .warden = true ∧ classS .warden = true ∧ readyS.pathOpen .hostA = true ∧ classS .hostA = false) ∧
    (∀ b ∈ [false, true], { State.reset with pins := { State.reset.pins with mrstN := b, ejectN := b } }.pins.mrstN = b) ∧
    { State.reset with flt := { State.reset.flt with autoCause := true, cfg := 0x13C } }.autoDue = true ∧
    (State.reset.glb.started = false ∧ State.reset.pins.mrstN = true ∧ State.reset.pins.ejectN = true ∧ State.reset.pwr.shutEnd = none ∧
      State.reset.pins.parityOk = true ∧ { State.reset with pins := { State.reset.pins with slotId := 1 } }.pins.parityOk = false ∧
      bootBase State.reset.nvm = some 0 ∧ bootBase { State.reset.nvm with images := Vector.replicate 2 { baseOk := false } } = none) ∧
    (∀ n ∈ [0, 21],
      let s := { domS 0 {} with glb := { State.reset.glb with started := true, phase := .domains, nextGroup := n } }
      s.glb.started = true ∧ s.glb.phase ≠ .safe ∧ n < 22 ∧ s.groupReady = true) ∧
    (let s := { State.reset with glb := { State.reset.glb with started := true, phase := .mesh, nextGroup := 4 } }
     s.groupReady = false ∧ (0 : DomIx) ∈ domGroup 4 ∧ (0 : DomIx) ∉ domGroup 5 ∧ (domS 0 {}).mayPowerUp 0 = true) ∧
    (let s := { domS 0 { st := .switchingOn } with glb := { State.reset.glb with phase := .links } }
     s.glb.phase = .links ∧ (s.dom 0).st = .switchingOn) := by decide +kernel

theorem test_witness_ResetsAndStartUp_defects :
    (State.reset.nvm.dead = [] ∧ { State.reset.nvm with testDead := [9] }.dead = [9] ∧ 1 < { State.reset.nvm with testDead := [9], badRouters := [1] }.dead.length) ∧
    nextTo 1 9 = true ∧ nextTo 0 9 = false ∧ (∀ j, State.reset.bootConfig j = none) ∧
    (countBits 256 State.reset.nvm.enabled.toNat = 256 ∧ countBits 256 { State.reset.nvm with badCores := 2 ^ 70 - 1 }.enabled.toNat = 186 ∧
      186 < { State.reset.nvm with badCores := 2 ^ 70 - 1 }.guarantee) ∧
    baseError State.reset.nvm (firstBase State.reset.nvm) = 0 ∧ (∀ i, baseError { State.reset.nvm with images := Vector.replicate 2 { baseOk := false } } i = 2) ∧
    (∀ x ∈ [(DomSt.switchingOn, none), (.initialising, none), (.off, some true)],
      let s := { domS 84 { st := x.1, queued := x.2 } with glb := { State.reset.glb with phase := .links } }
      (s.dom 84).st = x.1 ∧ (s.dom 84).queued = x.2 ∧ s.glb.phase = .links) ∧
    domKind 84 = .vmif 0 ∧ (0 : DomIx) ∈ domGroup 4 ∧ { State.reset with pins := { State.reset.pins with ejectN := false } }.pins.ejectN = false := by
  decide +kernel

/-- An open session on the management bus, in place 0. -/
def sessK : Session := { sid := 1, path := .mgmt, keyIn := [], keyOut := [], seqIn := 0, seqOut := 0, ends := 5, drops := 0 }

/-- Start-up is over, a run is active, `n` sessions are open and a HELLO waits for its PROOF. -/
def sessS (n : Nat := 1) (lock : Nat := 0) : State :=
  { liveS with
    glb := { liveS.glb with phase := .ready }
    cfg := { liveS.cfg with
      sessions := Vector.ofFn fun i => if i.val < n then some { sessK with sid := BitVec.ofNat 32 (i.val + 1) } else none
      greeting := [{ path := .mgmt, nc := [], nm := [], lifetime := 0 }] }
    nvm := { liveS.nvm with lockEnd := lock } }

/-- The header of the session's first message. -/
def hdrS (typ : Nat) (body : List Byte) : SessHdr := { path := .mgmt, sid := 1, seq := 1, mac := sessMac [] typ .mgmt 1 1 body }

theorem sessS_takes (n lock : Nat) (body : List Byte) : (sessS n lock).takeSess .mgmt body = some (sessS n lock) := by
  have h : (!(sessS n lock).glb.wardenUp || !(sessS n lock).barReady) = false := by
    simp [sessS, State.barReady]; decide
  rw [State.takeSess, h]; rfl

theorem test_witness_SessionMessages_from (typ : Nat) (body : List Byte) :
    (sessS).fromSession (hdrS typ body) typ body 0 sessK ((sessS).setSession 0 (some { sessK with seqIn := 1 })) := by
  have e : (sessS).sessionOf (hdrS typ body) = (sessS).sessionOf { path := .mgmt, sid := 1, seq := 1, mac := [] } := by
    simp only [State.sessionOf, hdrS]
    rfl
  have f : (sessS).sessionOf { path := .mgmt, sid := 1, seq := 1, mac := [] } = some (0, sessK) := by decide +kernel
  have g : sessK.seqIn.toNat < (hdrS typ body).seq.toNat := by simp only [sessK, hdrS]; decide
  have m : (hdrS typ body).mac = sessMac sessK.keyIn typ (hdrS typ body).path (hdrS typ body).sid (hdrS typ body).seq body := by
    simp only [hdrS, sessK]
  exact ⟨sessS, sessS_takes 1 0 _, e.trans f, g, m, by simp only [hdrS]⟩

theorem test_witness_SessionMessages_hello :
    ((sessS 3).sessLocked = false ∧ (sessS 3).openSessions < 4) ∧ (sessS 1 1).sessLocked = true ∧ ((sessS 4).sessLocked = false ∧ 4 ≤ (sessS 4).openSessions) ∧
    (sessS).cfg.greeting.find? (fun x => x.path == .mgmt) = some { path := .mgmt, nc := [], nm := [], lifetime := 0 } ∧
    ({ sessS with cfg := { (sessS).cfg with greeting := [] } } : State).cfg.greeting.find? (fun x => x.path == .mgmt) = none ∧
    (List.finRange 4).find? (fun j => ((sessS).sessionAt j).isNone) = some 1 ∧
    (∀ n ∈ [1, 2, 3], { sessS with nvm := { (sessS).nvm with fails := n } }.nvm.fails + 1 < 3 ↔ n = 1) := by decide +kernel

/-- No message is taken while the warden is not up. -/
theorem test_witness_SessionMessages_down (p : SessPath) (bs : List Byte) :
    { sessS with glb := { (sessS).glb with wardenUp := false } }.takeSess p bs = none := by
  rw [State.takeSess]; rfl

/-- A session's 15th and 16th dropped message, and a MAC that is not right. -/
theorem test_witness_SessionMessages_dropped :
    (∀ n ∈ [14, 15], 16 ≤ { sessK with drops := n }.drops + 1 ↔ n = 15) ∧ (sessS).sessionOf { path := .mgmt, sid := 9, seq := 1, mac := [] } = none ∧
      [0] ≠ sessMac sessK.keyIn 0x20 .mgmt 1 1 [] := by decide +kernel

theorem test_witness_SessionMessages_proof (g : Greeting) : 0 :: proofOf g ≠ proofOf g := fun h => by simp at h

/-- A boot configuration without records, signed with the scalar 1 (nonce 1) by the owner's key in slot 0. -/
def bootImg : List Byte :=
  leBytes 4 0x47464E43 ++ leBytes 2 1 ++ [0xFF, 0] ++ zeros 8 ++ leBytes 4 0 ++ leBytes 4 160 ++ zeros 40 ++ beBytes 48 (gx384 % n384) ++
    beBytes 48 0x34d5b446bf6ad01de71e0b5adf8a729fffbef22744628b01e88d5fe3e4606bf2e47e374fb4024336ce41c4c7bc6828a1

/-- The image lies at the start of the stacks. -/
def bootS : State :=
  { sessS with
    mem := liveS.mem.write (stacksAddr 0) (bootImg ++ zeros 32) []
    nvm := { liveS.nvm with keySlots := liveS.nvm.keySlots.set 0 (beBytes 48 gx384 ++ beBytes 48 gy384) } }

theorem test_witness_SessionMessages :
    (sessShape 0 1 = true ∧ sessShape 4 64 = true ∧ sessShape 0 0 = false ∧ sessShape 0 65 = false ∧ sessShape 2 1 = false) ∧
    (let t := (sessS).setSession 0 (some { sessK with seqIn := 1 })
     let v := t.writeWords 0 0 [0]
     v.cfg.sessions[(0 : Fin 4)] = t.cfg.sessions[(0 : Fin 4)] ∧ (∀ n ∈ [1, 4096], t.stkLocked 0 n = false ∧ t.stkOn 0 n = true) ∧
       t.stkLocked (stacksSize - 1) 2 = false ∧ t.stkOn (stacksSize - 1) 2 = false ∧ t.nvm.vfloor ≤ (0 : W32).toNat ∧ t.program 4 0 160 = none) ∧
    (let t := { sessS with cfg := { (sessS).cfg with st := .loading } }
     t.stkLocked (2 ^ 20 - 1) 1 = true ∧ t.stkLocked (2 ^ 20) 1 = false) ∧
    (0 : W32).toNat < { (sessS).nvm with vfloor := 1 }.vfloor ∧
    ((bootS.setSession 0 (some { sessK with seqIn := 1 })).program 0x4000000 0 160).isSome = true ∧
    ((sessS).sessionOf { path := .mgmt, sid := 1, seq := 0, mac := [] } = some (0, sessK) ∧ (0 : W64).toNat ≤ sessK.seqIn.toNat) ∧
    ((sessS).cfg.sessions[(0 : Fin 4)] = some sessK ∧ (sessS).cfg.sessions[(1 : Fin 4)] = none ∧ sessK.ends = 5 ∧
      ∀ n ∈ [4, 5], sessK.ends ≤ { sessS with now := n }.now ↔ n = 5) := by decide +kernel

/-! ## Ill-formed commands: one for each check -/

theorem test_wf_mesh : ∀ f ∈ [(fun p => Instr.meshReadRequest p []), .meshWrite, .meshReadResponse, .meshReduceAdd, .meshWriteAck, .meshErrorResponse,
      .multicastReplicate 0, .multicastLocalDeliver 0 0],
    (f { pktS 0 with rlen := 4097 }).wf = false ∧ (f { pktS 0 with rlen := 4096 }).wf = true := by decide +kernel

theorem test_wf_mesh_body (p : MeshPacket) (h : p.body.length = 4097) : (Instr.meshWrite p).wf = false := by
  show meshFits p = false
  simp [meshFits, h]

theorem test_wf_control :
    (Instr.ctlFaultEvent { code := 0, srcKind := 0, srcId := 0, data := zeros 33 }).wf = false ∧
    (Instr.ctlConfigWrite .warden 0 2 0).wf = false ∧ (Instr.ctlConfigRead .warden 0 2).wf = false ∧
    (Instr.ctlReadResponse .warden 0 2 0).wf = false ∧
    (Instr.ctlParityFail 0 0 ({ typ := 0, dest := 0, src := 0, bcast := false, plane := false, arg := 0, payload := [0, 0, 0, 0] }, 0, 0)).wf = false ∧
    (Instr.csrWrite .warden 2 0).wf = false ∧ (Instr.csrReadLowLatch .warden 2).wf = false ∧ (Instr.shutdown 0 0).wf = false := by decide

theorem test_wf_sessions :
    let h : SessHdr := { path := .mgmt, sid := 1, seq := 1, mac := zeros 15 }
    (Instr.hello .mgmt (zeros 15) 0).wf = false ∧ (Instr.close h).wf = false ∧ (Instr.sessionRead h 0 1).wf = false ∧
    (Instr.sessionWrite h 0 [0]).wf = false ∧ (Instr.sessionWrite { h with mac := zeros 16 } 0 (List.replicate 1031 0)).wf = false ∧
    (Instr.stkWrite h 0 [0]).wf = false ∧ (Instr.nvmProgram h 0 0 0).wf = false ∧ (Instr.nvmWriteKeySlot h 0 (zeros 96)).wf = false ∧
    (Instr.nvmWriteKeySlot { h with mac := zeros 16 } 0 (zeros 95)).wf = false ∧ (Instr.nvmRaiseVfloor h 0).wf = false := by decide +kernel

theorem test_wf_session_bodies (h : SessHdr) (bs : List Byte) (e : 4128 < bs.length) :
    (Instr.stkWrite h 0 bs).wf = false ∧ (Instr.proof .mgmt bs).wf = false := by
  have f : ¬ 8 + bs.length ≤ 4128 := by omega
  have g : ¬ bs.length ≤ 4128 := by omega
  simp [Instr.wf, f, g]

theorem test_wf_link : ∀ f ∈ [(fun p => Instr.linkReadRequest 0 0 (p, [])), .linkWrite 0 0, .linkReadResponse 0 0, .linkReduceAdd 0 0, .linkWriteAck 0 0,
      .linkErrorResponse 0 0, .archiveRecord 0 0, .archiveDigestRecord 0 0, .archiveErrorRecord 0 0, .chainChunkHeader 0 0, .belayGrant 0 0, .nack 0 0],
    (f { lpktS 1 0 with uhdr := [0] }).wf = false ∧ (f (lpktS 1 0)).wf = true := by decide +kernel

theorem test_wf_link_body (p : LinkPacket) (bs : List Byte) (h : bs.length = 2 ^ 32) : (Instr.linkWrite 0 0 { p with body := bs }).wf = false := by
  simp [Instr.wf, linkFits, h]

theorem test_wf_rest :
    (Instr.dataFrame 0 0 (frameS 0 33)).wf = false ∧ (Instr.nullFrame 0 0 (frameS 0 33)).wf = false ∧ (Instr.echo 0 0 (zeros 31)).wf = false ∧
    (Instr.stateSkew 0 false).wf = false ∧ (Instr.stateSkew 6 false).wf = false ∧ (Instr.hostReadCompletion 0 0 false (zeros 513)).wf = false := by
  decide +kernel

/-! ## Values the spec gives -/

/-- R254: the CRC of "123456789". -/
theorem test_crc64 : crc64 [0x31, 0x32, 0x33, 0x34, 0x35, 0x36, 0x37, 0x38, 0x39] = 0x995DC9BBDF1939FA := by decide +kernel

/-- R108: 470.0 in E4M3 is 448 under RTZ, and under RNE overflows to NaN, or to 448 under SAT (Table NUM-3). -/
theorem test_e4m3 : fmtE4M3.encode .rtz false (.fin false 470 0) = 0x7E ∧ fmtE4M3.encode .rne false (.fin false 470 0) = 0x7F ∧
    fmtE4M3.encode .rne true (.fin false 470 0) = 0x7E := by decide +kernel

/-- Tables COR-6 and SPR-2: an FP8 folio has 36,864 bytes, its 18:6 block 256 more. -/
theorem test_folio : folioBytes .fp8 false 0 0 = 36864 ∧ folioBytes .fp8 true 2 0 = 37120 := by decide +kernel

/-- R99: a change to level 15 counts 239 cycles. -/
theorem test_clock_stall :
    (match exec (.clockLevelChange 0) (liveS.modCore 0 fun k => { k with therm := 15 }) with
     | .next u => (u.core 0).cnt.clkStall.toNat
     | _ => 0) = 239 := by decide +kernel

/-- Tables WAF-9 and COR-3: reset values read over CSR space. -/
theorem test_reset_registers :
    (State.reset.readWord .warden (fldOff 0 0x200).toNat).1 = 0x000F0F00 ∧ (State.reset.readWord .warden (fldOff 0 0x20010).toNat).1 = 0x04020004 := by
  decide +kernel

/-- The queue is served first in, first out. -/
theorem test_step_order :
    (match step { State.reset with pending := [.mrstNAssert true, .moduleReset .pin] } with
     | .next u => u.pending
     | _ => []) = [.moduleReset .pin] := by decide +kernel

/-- An unknown tile word stops its task with code 0x01 (R171). -/
theorem test_undefined_opcode :
    (match exec (.undefinedOpcode 0 0) (headS .ctl (word 0x0E)) with
     | .next u => (u.task 0 0).fcode
     | _ => 0) = 1 := by decide +kernel

end
end

section
/-! PROOFS. Reads of 64-bit registers: what a latch set holds (R8 to R10), what a read of a word answers and changes, and the three
ways a CSR read goes (R57, R441, R490). -/

namespace Sys2Proof.Machine

/-! ## The latch sets -/

/-- No core register shows a latched word. -/
theorem State.readCore_setLatch (s : State) (q : Path) (low : Nat) (v : W32) (c : CoreIx) (o : Nat) :
    (s.setLatch q low v).readCore c o = s.readCore c o := rfl

/-- No field register shows a latched word. -/
theorem State.readField_setLatch (s : State) (q : Path) (low : Nat) (v : W32) (f : FieldIx) (o : Nat) :
    (s.setLatch q low v).readField f o = s.readField f o := by
  unfold State.readField
  rw [State.readCore_setLatch]
  rfl

/-- No register shows a latched word: what a path sees at an offset does not depend on the latch sets. -/
theorem State.regAt_setLatch (s : State) (p q : Path) (low off : Nat) (v : W32) : (s.setLatch q low v).regAt p off = s.regAt p off := by
  unfold State.regAt
  rw [State.readField_setLatch]
  rfl

/-- A word latched for a low word inside CSR space is what that path's latch holds. -/
theorem State.latched_setLatch_same (s : State) (p : Path) {low : Nat} (v : W32) (h : low < 2 ^ 26) :
    (s.setLatch p low v).latched p low = v := by
  have hlow : (BitVec.ofNat 26 low).toNat = low := by rw [BitVec.toNat_ofNat, Nat.mod_eq_of_lt h]
  simp [State.latched, State.setLatch, hlow]

/-- Latching on a path leaves what the other paths have latched (R9). -/
theorem State.latched_setLatch_of_ne (s : State) {p q : Path} (low b : Nat) (v : W32) (h : q ≠ p) :
    (s.setLatch p low v).latched q b = s.latched q b := by
  have hkeep : ∀ x : Path × BitVec 26 × W32, (x.1 == q && x.2.1.toNat == b) = true → (!(x.1 == p && x.2.1.toNat == low)) = true := by
    intro x hx
    obtain ⟨hq, -⟩ : x.1 = q ∧ x.2.1.toNat = b := by simpa using hx
    simp [hq, h]
  have hfind : (s.setLatch p low v).latch.find? (fun x => x.1 == q && x.2.1.toNat == b) =
      s.latch.find? fun x => x.1 == q && x.2.1.toNat == b := by
    have hnew : (p == q) = false := by simpa using h.symm
    simp only [State.setLatch, List.find?_cons, hnew, Bool.false_and, List.find?_filter]
    congr 1
    funext x
    by_cases hx : (x.1 == q && x.2.1.toNat == b) = true
    · simp [hx, hkeep x hx]
    · simp [hx]
  simp only [State.latched, hfind]

/-- With no entry for a low word on a path, its latch holds zero (R10). -/
theorem State.latched_of_forall_ne (s : State) (p : Path) (low : Nat) (h : ∀ x ∈ s.latch, x.1 = p → x.2.1.toNat ≠ low) :
    s.latched p low = 0 := by
  have hnone : (s.latch.find? fun x => x.1 == p && x.2.1.toNat == low) = none := by
    simpa [List.find?_eq_none] using h
  simp [State.latched, hnone]

/-! ## Reads of a word -/

/-- A read where a 64-bit register starts answers its low word and latches its high word (R8). -/
theorem State.readWord_wide {s : State} {p : Path} {off v : Nat} (h : s.regAt p off = some (.wide v)) :
    s.readWord p off = (BitVec.ofNat 32 v, s.setLatch p off (BitVec.ofNat 32 (v / 2 ^ 32))) := by
  simp only [State.readWord, h]

/-- A read of the high word of a 64-bit register answers what the path has latched and changes nothing. -/
theorem State.readWord_high {s : State} {p : Path} {low v : Nat} (hlow : s.regAt p low = some (.wide v)) (hhigh : s.regAt p (low + 4) = none) :
    s.readWord p (low + 4) = (s.latched p low, s) := by
  simp [State.readWord, hlow, hhigh]

/-- All that a read of a word changes is the path's own latch set. -/
theorem State.readWord_state (s : State) (p : Path) (off : Nat) :
    (s.readWord p off).2 = s ∨ ∃ w, (s.readWord p off).2 = s.setLatch p off w := by
  unfold State.readWord
  split
  · exact .inl rfl
  · exact .inr ⟨_, rfl⟩
  · split <;> exact .inl rfl

/-- What a path sees at an offset is not changed by a read. -/
theorem State.regAt_readWord (s : State) (p q : Path) (a b : Nat) : (s.readWord q b).2.regAt p a = s.regAt p a := by
  obtain h | ⟨w, h⟩ := s.readWord_state q b
  · rw [h]
  · rw [h, State.regAt_setLatch]

/-- A read of another path does not disturb a path's latch (R9). -/
theorem State.latched_readWord_of_ne (s : State) {p q : Path} (a b : Nat) (h : p ≠ q) :
    (s.readWord q b).2.latched p a = s.latched p a := by
  obtain hs | ⟨w, hs⟩ := s.readWord_state q b
  · rw [hs]
  · rw [hs, State.latched_setLatch_of_ne s b a w h]

/-- A read of the high word answers the word latched on its path, after reads of other paths as before them. -/
theorem State.readWord_high_after_other {s : State} {p q : Path} {a v : Nat} (b : Nat) (hlow : s.regAt p a = some (.wide v))
    (hhigh : s.regAt p (a + 4) = none) (h : p ≠ q) : ((s.readWord q b).2.readWord p (a + 4)).1 = s.latched p a := by
  rw [State.readWord_high (v := v) (by rw [State.regAt_readWord, hlow]) (by rw [State.regAt_readWord, hhigh]),
    State.latched_readWord_of_ne s a b h]

/-! ## The latch sets after a module reset -/

/-- Bundles failed by the defect map leave the latch sets. -/
theorem State.loadBundles_latch (l : List (FieldIx × DirIx × Fin 9)) : ∀ s : State, (l.foldl State.loadBundle s).latch = s.latch := by
  induction l with
  | nil => exact fun _ => rfl
  | cons x l ih => exact fun s => ih (s.loadBundle x)

/-- A module reset empties every path's latch set (R10). -/
theorem State.moduleReset_latch (s : State) : s.moduleReset.latch = [] := by
  unfold State.moduleReset
  rw [State.loadBundles_latch]

/-! ## CSR reads -/

/-- A message that its own plane can route waits at its source. -/
theorem State.tell_of_clear {s : State} {m : CtlMsg} (h : s.ctlBlocked m m.plane = false) :
    s.tell m = { s with ctl := s.ctl ++ [{ msg := m, at_ := m.src }] } := by
  simp [State.tell, h]

/-- The command is the read of a CSR word. -/
theorem exec_csrReadLowLatch (p : Path) (off : BitVec 26) (s : State) :
    exec (.csrReadLowLatch p off) s = execCsrReadLowLatch p off s := rfl

section
variable {s : State} {p : Path} {off : BitVec 26}

/-- A path that does not reach CSR space reads nothing (R441). -/
theorem csrRead_of_closed (h : s.pathOpen p = false) : exec (.csrReadLowLatch p off) s = .next s := by
  simp [exec_csrReadLowLatch, execCsrReadLowLatch, h]

/-- An access that is not an aligned word completes as unsupported (R490). -/
theorem csrRead_of_unaligned (hp : s.pathOpen p = true) (h : off.toNat % 4 ≠ 0) :
    exec (.csrReadLowLatch p off) s = .next (s.emit (.unsupported p)) := by
  simp [exec_csrReadLowLatch, execCsrReadLowLatch, hp, h]

/-- A word of a field is asked for over the control network (R57). -/
theorem csrRead_of_field (hp : s.pathOpen p = true) (ha : off.toNat % 4 = 0) (hf : inFld off = true) :
    exec (.csrReadLowLatch p off) s = .next (s.tell (cfgMsg 9 (fldField off.toNat) (entryField p) (fldReg off) [])) := by
  simp [exec_csrReadLowLatch, execCsrReadLowLatch, hp, ha, hf]

/-- A word outside the fields is answered at once with what the read gives. -/
theorem csrRead_of_block (hp : s.pathOpen p = true) (ha : off.toNat % 4 = 0) (hf : inFld off = false) :
    exec (.csrReadLowLatch p off) s = .next ((s.readWord p off.toNat).2.emit (.readData p off (s.readWord p off.toNat).1)) := by
  simp [exec_csrReadLowLatch, execCsrReadLowLatch, hp, ha, hf]

end

/-- GCNT is a 64-bit register at offset 0 of the PIT block (Table PIT-5). -/
theorem State.regAt_gcnt (s : State) (p : Path) : s.regAt p 0x100000 = some (.wide s.pit.gcnt.toNat) := rfl

/-! ## The obligation -/

/-- Settles O30: a low word's read is one `setLatch` on its path, which the rules above read back on that path and see past on the
others; the CSR read goes by whether the path is open, the word aligned and inside the fields. -/
theorem readsLatchTheHighWord : Obligations.ReadsLatchTheHighWord := by
  refine ⟨fun s p a v hlow hhigh ha => ?_, fun s p off => ?_⟩
  · have hread := State.readWord_wide hlow
    have hheld : (s.readWord p a).2.latched p a = BitVec.ofNat 32 (v / 2 ^ 32) := by
      rw [hread]
      exact s.latched_setLatch_same p _ (by omega)
    have hlow' : (s.readWord p a).2.regAt p a = some (.wide v) := by rw [State.regAt_readWord, hlow]
    have hhigh' : (s.readWord p a).2.regAt p (a + 4) = none := by rw [State.regAt_readWord, hhigh]
    refine ⟨by rw [hread], by rw [hread]; rfl, ?_, fun q b hq => ⟨s.latched_readWord_of_ne b a hq, ?_⟩, fun hnone => ?_,
      s.moduleReset_latch, rfl, ?_, s.regAt_gcnt p⟩
    · rw [State.readWord_high hlow' hhigh', hheld]
    · rw [State.readWord_high_after_other b hlow' hhigh' hq.symm, hheld]
    · rw [State.readWord_high hlow hhigh, s.latched_of_forall_ne p a hnone]
    · rintro off rfl hp hal hf
      rw [csrRead_of_block hp hal hf, hread]
  · exact ⟨csrRead_of_block, csrRead_of_unaligned, csrRead_of_field,
      fun hp hal hf hclear => by rw [csrRead_of_field hp hal hf, State.tell_of_clear hclear]; rfl, csrRead_of_closed⟩

end Sys2Proof.Machine
end

section
/-! PROOFS. The raise of a completion counter (R72, R73, R137): the entry that a logged event leaves in the fault log, whether written or
coalesced (R474, R475), and each completion counter after a raise. -/

namespace Sys2Proof.Machine

/-! ## The fault log after an event -/

/-- A log holds an entry of an event: its code and its source. -/
def logHolds (l : List LogEntry) (code : BitVec 16) (kind ident : Byte) : Prop :=
  ∃ x ∈ l, x.code = code ∧ x.srcKind = kind ∧ x.srcId = ident

/-- An entry that an event coalesces into is of that event. -/
theorem LogEntry.of_same {e : LogEntry} {now : Nat} {code : BitVec 16} {kind ident : Byte} (h : e.same now code kind ident = true) :
    e.code = code ∧ e.srcKind = kind ∧ e.srcId = ident := by
  simp only [LogEntry.same, Bool.and_eq_true, beq_iff_eq] at h
  obtain ⟨⟨⟨hcode, hkind⟩, hident⟩, -⟩ := h
  exact ⟨hcode, hkind, hident⟩

/-- Coalescing keeps an entry of the event in the log. -/
theorem logHolds_raiseRepeat {now : Nat} {code : BitVec 16} {kind ident : Byte} {l : List LogEntry}
    (h : ∃ e ∈ l, e.same now code kind ident = true) : logHolds (raiseRepeat now code kind ident l) code kind ident := by
  induction l with
  | nil => simp at h
  | cons e es ih =>
    unfold raiseRepeat
    by_cases he : e.same now code kind ident = true
    · rw [if_pos he]
      exact ⟨_, List.mem_cons_self, LogEntry.of_same he⟩
    · rw [if_neg he]
      obtain ⟨x, hx, hxe⟩ := ih (by simpa [he] using h)
      exact ⟨x, List.mem_cons_of_mem _ hx, hxe⟩

/-- A new entry stands in the log it enters. -/
theorem logHolds_enterLog (e : LogEntry) (l : List LogEntry) : logHolds (enterLog e l) e.code e.srcKind e.srcId := by
  obtain ⟨x, hx, hxe⟩ := enterLog_mem e l
  exact ⟨x, hx, (congrArg LogEntry.code hxe :), (congrArg LogEntry.srcKind hxe :), (congrArg LogEntry.srcId hxe :)⟩

/-- A fault message leaves the log. -/
@[simp] theorem State.faultMsix_log (s : State) (p : PortIx) : (s.faultMsix p).flt.log = s.flt.log := by
  unfold State.faultMsix
  split
  · rfl
  · split <;> rfl

/-- So does the interrupt of a class. -/
@[simp] theorem State.irqClass_log (s : State) (n : Nat) : (s.irqClass n).flt.log = s.flt.log := by
  unfold State.irqClass
  split
  · rw [State.faultMsix_log, State.faultMsix_log]
  · rfl

/-- After an event is logged, written or coalesced, the log holds it (R474, R475). -/
theorem State.logHolds_logCode (s : State) (code : BitVec 16) (kind ident : Byte) (data : List Byte) :
    logHolds (s.logCode code kind ident data).flt.log code kind ident := by
  unfold State.logCode
  split
  next h => exact logHolds_raiseRepeat (List.any_eq_true.1 h)
  next =>
    dsimp only
    rw [State.irqClass_log]
    exact logHolds_enterLog _ _

/-! ## The completion counters after a raise -/

/-- The raised counter holds the sum, up to its top. -/
theorem State.raise_ctr_same (s : State) (c : CoreIx) (t : TaskIx) (i : Fin 64) (v : Nat) :
    (s.raise c t i v).ctr c t i = min (s.ctr c t i + v) (2 ^ 32 - 1) := by
  simp [State.ctr, State.raise_task_ctr, satAdd_nat]

/-- The other counters of its context keep their values. -/
theorem State.raise_ctr_of_ne (s : State) (c : CoreIx) (t : TaskIx) (v : Nat) {i j : Fin 64} (h : j ≠ i) :
    (s.raise c t i v).ctr c t j = s.ctr c t j := by
  simp [State.ctr, State.raise_task_ctr, upd_other _ _ _ _ h]

/-- So do those of every other context. -/
theorem State.raise_ctr_other (s : State) {c d : CoreIx} {t u : TaskIx} (i j : Fin 64) (v : Nat) (h : d ≠ c ∨ u ≠ t) :
    (s.raise c t i v).ctr d u j = s.ctr d u j := by
  have hne : ¬ (d = c ∧ u = t) := fun e => h.elim (fun hd => hd e.1) fun hu => hu e.2
  simp only [State.ctr, State.raise_task_ctr, if_neg hne]

/-- A raise of a counter at its top leaves the event "counter saturated" of its core in the log (R73). -/
theorem State.logHolds_raiseOnly {s : State} {c : CoreIx} {t : TaskIx} {i : Fin 64} {v : Nat} (htop : s.ctr c t i = 2 ^ 32 - 1)
    (hv : 0 < v) : logHolds (s.raiseOnly c t i v).flt.log (faultCode 0 1 0x20) (BitVec.ofNat 8 kCore) (BitVec.ofNat 8 c.val) := by
  have hsat : s.satEvent c ((s.task c t).ctr[i]) v = s.coreEvent c 0 1 0x20 := if_pos ⟨htop, Nat.ne_of_gt hv⟩
  unfold State.raiseOnly
  rw [State.modTask_flt, hsat]
  exact s.logHolds_logCode _ _ _ _

/-! ## The obligation -/

/-- Settles O8: the state before the landing slots are released is that of the raise alone, which touches its core and the fault log;
the releases move no counter. -/
theorem raiseSaturatesOneCounter : Obligations.RaiseSaturatesOneCounter := fun s c t i v =>
  ⟨s.raise_ctr_same c t i v, fun _ => s.raise_ctr_of_ne c t v, fun _ _ j => s.raise_ctr_other i j v,
    s.raiseOnly c t i v, rfl, s.raiseOnly_only c t i v, State.logHolds_raiseOnly⟩

end Sys2Proof.Machine
end

section
/-! PROOFS. The whole machine: every command keeps the queue of waiting commands and the invariant, and so does a step (R164, R474). -/

namespace Sys2Proof.Machine

/-- Every command keeps what the invariant and the queue rest on. -/
theorem exec_keeps {s t : State} (i : Instr) (hx : exec i s = .next t) : Keeps s.kept t.kept := by
  cases i with
  | nop c t => exact execNop_keeps c t hx
  | wait c t => exact execWait_keeps c t hx
  | clr c t => exact execClr_keeps c t hx
  | add c t => exact execAdd_keeps c t hx
  | bara c t => exact execBara_keeps c t hx
  | barw c t => exact execBarw_keeps c t hx
  | twait c t => exact execTwait_keeps c t hx
  | drain c t => exact execDrain_keeps c t hx
  | mark c t => exact execMark_keeps c t hx
  | endSlice c t => exact execEndSlice_keeps c t hx
  | mset c t => exact execMset_keeps c t hx
  | mma c t => exact execMma_keeps c t hx
  | smma c t => exact execSmma_keeps c t hx
  | vop c t => exact execVop_keeps c t hx
  | vred c t => exact execVred_keeps c t hx
  | vcvt c t => exact execVcvt_keeps c t hx
  | vtopk c t => exact execVtopk_keeps c t hx
  | stream c t => exact execStream_keeps c t hx
  | smerge c t => exact execSmerge_keeps c t hx
  | scomp c t => exact execScomp_keeps c t hx
  | sexpd c t => exact execSexpd_keeps c t hx
  | smask c t => exact execSmask_keeps c t hx
  | coll c t => exact execColl_keeps c t hx
  | cairn c t => exact execCairn_keeps c t hx
  | cclose c t => exact execCclose_keeps c t hx
  | sha c t => exact execSha_keeps c t hx
  | ledger c t => exact execLedger_keeps c t hx
  | undefinedOpcode c t => exact execUndefinedOpcode_keeps c t hx
  | commandFetch c t => exact execCommandFetch_keeps c t hx
  | gangSpawn c => exact execGangSpawn_keeps c hx
  | gangRetire c g => exact execGangRetire_keeps c g hx
  | commandComplete c t q => exact execCommandComplete_keeps c t q hx
  | descriptorSetup c t => exact execDescriptorSetup_keeps c t hx
  | segmentStart c g => exact execSegmentStart_keeps c g hx
  | sliceBoundary c => exact execSliceBoundary_keeps c hx
  | sliceGuardPoint c => exact execSliceGuardPoint_keeps c hx
  | thermalStepDown f => exact execThermalStepDown_keeps f hx
  | thermalStepUp c => exact execThermalStepUp_keeps c hx
  | floorEscalation c => exact execFloorEscalation_keeps c hx
  | clockLevelChange c => exact execClockLevelChange_keeps c hx
  | clockLevelChangeEnd c => exact execClockLevelChangeEnd_keeps c hx
  | meshReadRequest p ecc => exact execMeshReadRequest_keeps p ecc hx
  | meshWrite p => exact execMeshWrite_keeps p hx
  | meshReadResponse p => exact execMeshReadResponse_keeps p hx
  | meshReduceAdd p => exact execMeshReduceAdd_keeps p hx
  | meshWriteAck p => exact execMeshWriteAck_keeps p hx
  | meshErrorResponse p => exact execMeshErrorResponse_keeps p hx
  | multicastReplicate f p => exact execMulticastReplicate_keeps f p hx
  | multicastLocalDeliver f c p => exact execMulticastLocalDeliver_keeps f c p hx
  | bundleCrcRetry f d b => exact execBundleCrcRetry_keeps f d b hx
  | bundleFail f d b => exact execBundleFail_keeps f d b hx
  | bundleSpareResume f d => exact execBundleSpareResume_keeps f d hx
  | routerFailed f => exact execRouterFailed_keeps f hx
  | ctlTick f bound => exact execCtlTick_keeps f bound hx
  | ctlGcntSync count => exact execCtlGcntSync_keeps count hx
  | ctlHoldRequest c => exact execCtlHoldRequest_keeps c hx
  | ctlHoldGrant f bound => exact execCtlHoldGrant_keeps f bound hx
  | barrierArrival bar src => exact execBarrierArrival_keeps bar src hx
  | barrierRelease f bar => exact execBarrierRelease_keeps f bar hx
  | ctlCreditGrant c ctx count => exact execCtlCreditGrant_keeps c ctx count hx
  | ctlFaultEvent e => exact execCtlFaultEvent_keeps e hx
  | ctlConfigWrite p f off v => exact execCtlConfigWrite_keeps p f off v hx
  | ctlConfigRead p f off => exact execCtlConfigRead_keeps p f off hx
  | ctlReadResponse p f off v => exact execCtlReadResponse_keeps p f off v hx
  | ctlFence f d raised => exact execCtlFence_keeps f d raised hx
  | ctlParityFail f d m => exact execCtlParityFail_keeps f d m hx
  | csrWrite p off v => exact execCsrWrite_keeps p off v hx
  | csrReadLowLatch p off => exact execCsrReadLowLatch_keeps p off hx
  | arm p slot => exact execArm_keeps p slot hx
  | armCheckDone slot => exact execArmCheckDone_keeps slot hx
  | disarm p slot => exact execDisarm_keeps p slot hx
  | wardenReset src => exact execWardenReset_keeps src hx
  | wardenRestartDone => exact execWardenRestartDone_keeps hx
  | wardenWatchdog => exact execWardenWatchdog_keeps hx
  | moduleReset src => exact execModuleReset_keeps src hx
  | load p => exact execLoad_keeps p hx
  | loadCheckDone => exact execLoadCheckDone_keeps hx
  | swapGo p => exact execSwapGo_keeps p hx
  | swapCancel p => exact execSwapCancel_keeps p hx
  | configSwap => exact execConfigSwap_keeps hx
  | domainOnRequest p d => exact execDomainOnRequest_keeps p d hx
  | domainOffRequest p d => exact execDomainOffRequest_keeps p d hx
  | domainSequenceStart => exact execDomainSequenceStart_keeps hx
  | domainStage d => exact execDomainStage_keeps d hx
  | domainRegulated d => exact execDomainRegulated_keeps d hx
  | domainReady d => exact execDomainReady_keeps d hx
  | domainOff d => exact execDomainOff_keeps d hx
  | domainReversal d => exact execDomainReversal_keeps d hx
  | fenceRaise d => exact execFenceRaise_keeps d hx
  | powerDownStart d => exact execPowerDownStart_keeps d hx
  | fenceLower d => exact execFenceLower_keeps d hx
  | droopClamp f ns => exact execDroopClamp_keeps f ns hx
  | clampCeilingRaise f => exact execClampCeilingRaise_keeps f hx
  | phaseFault z => exact execPhaseFault_keeps z hx
  | governorTick avg10ms avg1s demand => exact execGovernorTick_keeps avg10ms avg1s demand hx
  | sensorRead x reading => exact execSensorRead_keeps x reading hx
  | shutdown cause source => exact execShutdown_keeps cause source hx
  | inputVoltageFault => exact execInputVoltageFault_keeps hx
  | shutdownIntervalEnd => exact execShutdownIntervalEnd_keeps hx
  | startupBegin => exact execStartupBegin_keeps hx
  | startupDomainGroup => exact execStartupDomainGroup_keeps hx
  | startupDomainTimeout d => exact execStartupDomainTimeout_keeps d hx
  | mrstNAssert level => exact execMrstNAssert_keeps level hx
  | ejectNLow => exact execEjectNLow_keeps hx
  | ejectNHigh => exact execEjectNHigh_keeps hx
  | perstN port => exact execPerstN_keeps port hx
  | rtcSet p v => exact execRtcSet_keeps p v hx
  | rtcHoldupLost => exact execRtcHoldupLost_keeps hx
  | hello p nc lifetime => exact execHello_keeps p nc lifetime hx
  | proof p body => exact execProof_keeps p body hx
  | sessionRead h off n => exact execSessionRead_keeps h off n hx
  | sessionWrite h off ws => exact execSessionWrite_keeps h off ws hx
  | stkWrite h off bs => exact execStkWrite_keeps h off bs hx
  | nvmProgram h nvmOff stkOff len => exact execNvmProgram_keeps h nvmOff stkOff len hx
  | nvmWriteKeySlot h slot key => exact execNvmWriteKeySlot_keeps h slot key hx
  | nvmRaiseVfloor h v => exact execNvmRaiseVfloor_keeps h v hx
  | close h => exact execClose_keeps h hx
  | sessionExpire k => exact execSessionExpire_keeps k hx
  | sessionLockEnd => exact execSessionLockEnd_keeps hx
  | mboxPost port inLen => exact execMboxPost_keeps port inLen hx
  | mboxOutAck port => exact execMboxOutAck_keeps port hx
  | mboxOutReady port => exact execMboxOutReady_keeps port hx
  | launchGo p slot => exact execLaunchGo_keeps p slot hx
  | launchPropose g m => exact execLaunchPropose_keeps g m hx
  | reply g m => exact execReply_keeps g m hx
  | launchCommitCount => exact execLaunchCommitCount_keeps hx
  | launchCommit g m => exact execLaunchCommit_keeps g m hx
  | launchCancel g m => exact execLaunchCancel_keeps g m hx
  | launchDecisionMissing => exact execLaunchDecisionMissing_keeps hx
  | launchPitchStart => exact execLaunchPitchStart_keeps hx
  | launchCount => exact execLaunchCount_keeps hx
  | pitchBoundary => exact execPitchBoundary_keeps hx
  | congestionMapClose => exact execCongestionMapClose_keeps hx
  | guardPoint => exact execGuardPoint_keeps hx
  | holdReq g m => exact execHoldReq_keeps g m hx
  | holdDecisionCount => exact execHoldDecisionCount_keeps hx
  | decision g m => exact execDecision_keeps g m hx
  | decisionMissing => exact execDecisionMissing_keeps hx
  | overrunReceived g m => exact execOverrunReceived_keeps g m hx
  | abandonCount => exact execAbandonCount_keeps hx
  | abandon p => exact execAbandon_keeps p hx
  | logClr p => exact execLogClr_keeps p hx
  | msixHoldExpire port => exact execMsixHoldExpire_keeps port hx
  | timeReqSend => exact execTimeReqSend_keeps hx
  | timeReq g u m => exact execTimeReq_keeps g u m hx
  | timeResp m => exact execTimeResp_keeps m hx
  | timeRespTimeout => exact execTimeRespTimeout_keeps hx
  | syncInterval => exact execSyncInterval_keeps hx
  | holdoverAlignmentLost => exact execHoldoverAlignmentLost_keeps hx
  | holdoverMemberLost m => exact execHoldoverMemberLost_keeps m hx
  | referenceFallback => exact execReferenceFallback_keeps hx
  | timeRootRtcSet => exact execTimeRootRtcSet_keeps hx
  | syncSublinkReturn => exact execSyncSublinkReturn_keeps hx
  | memberLost m => exact execMemberLost_keeps m hx
  | leadLost => exact execLeadLost_keeps hx
  | dataFrame g u fr => exact execDataFrame_keeps g u fr hx
  | nullFrame g u fr => exact execNullFrame_keeps g u fr hx
  | frameFail g u => exact execFrameFail_keeps g u hx
  | replyRequest g u e => exact execReplyRequest_keeps g u e hx
  | replayTimeout g u => exact execReplayTimeout_keeps g u hx
  | warmRetrain g u => exact execWarmRetrain_keeps g u hx
  | retrainDone g u => exact execRetrainDone_keeps g u hx
  | trainingDone g u => exact execTrainingDone_keeps g u hx
  | caps g u b => exact execCaps_keeps g u b hx
  | linkLoss g u => exact execLinkLoss_keeps g u hx
  | laneFail g u lane => exact execLaneFail_keeps g u lane hx
  | laneSwap g u failed spare commit => exact execLaneSwap_keeps g u failed spare commit hx
  | laneSwapAck g u failed spare commit => exact execLaneSwapAck_keeps g u failed spare commit hx
  | laneSwapCommit g u => exact execLaneSwapCommit_keeps g u hx
  | bivouacTrigger g u full => exact execBivouacTrigger_keeps g u full hx
  | bivReq g u full commit => exact execBivReq_keeps g u full commit hx
  | bivAck g u full commit => exact execBivAck_keeps g u full commit hx
  | bivNak g u reason => exact execBivNak_keeps g u reason hx
  | bivCancel g u commit => exact execBivCancel_keeps g u commit hx
  | bivouacCommitPoint g u rx => exact execBivouacCommitPoint_keeps g u rx hx
  | bivouacWake g u => exact execBivouacWake_keeps g u hx
  | wakeComplete g u rx => exact execWakeComplete_keeps g u rx hx
  | echo g u body => exact execEcho_keeps g u body hx
  | dis p g d => exact execDis_keeps p g d hx
  | quarClr p g => exact execQuarClr_keeps p g hx
  | lnkLoopWrite p g v => exact execLnkLoopWrite_keeps p g v hx
  | loopClearAtLaunch => exact execLoopClearAtLaunch_keeps hx
  | violationDecay g => exact execViolationDecay_keeps g hx
  | linkReadRequest g u p => exact execLinkReadRequest_keeps g u p hx
  | linkWrite g u p => exact execLinkWrite_keeps g u p hx
  | linkReadResponse g u p => exact execLinkReadResponse_keeps g u p hx
  | linkReduceAdd g u p => exact execLinkReduceAdd_keeps g u p hx
  | linkWriteAck g u p => exact execLinkWriteAck_keeps g u p hx
  | linkErrorResponse g u p => exact execLinkErrorResponse_keeps g u p hx
  | archiveRecord g u p => exact execArchiveRecord_keeps g u p hx
  | archiveDigestRecord g u p => exact execArchiveDigestRecord_keeps g u p hx
  | archiveErrorRecord g u p => exact execArchiveErrorRecord_keeps g u p hx
  | chainChunkHeader g u p => exact execChainChunkHeader_keeps g u p hx
  | belayGrant g u p => exact execBelayGrant_keeps g u p hx
  | nack g u p => exact execNack_keeps g u p hx
  | belayGrantSend ctx => exact execBelayGrantSend_keeps ctx hx
  | leaseRenewal ctx => exact execLeaseRenewal_keeps ctx hx
  | leaseExpire ctx holder => exact execLeaseExpire_keeps ctx holder hx
  | fabRevoke p v => exact execFabRevoke_keeps p v hx
  | ropeWindowOpen rope entry => exact execRopeWindowOpen_keeps rope entry hx
  | ropeWindowClose rope entry => exact execRopeWindowClose_keeps rope entry hx
  | ordPacketRelease g u => exact execOrdPacketRelease_keeps g u hx
  | archiveRequestIssue g u => exact execArchiveRequestIssue_keeps g u hx
  | archiveReturnSend c g => exact execArchiveReturnSend_keeps c g hx
  | parkedRefetch ctx => exact execParkedRefetch_keeps ctx hx
  | folioDigestDone accession index => exact execFolioDigestDone_keeps accession index hx
  | scrubStart => exact execScrubStart_keeps hx
  | scrubEntryDone entry => exact execScrubEntryDone_keeps entry hx
  | requestTimeout req => exact execRequestTimeout_keeps req hx
  | ackTimeout req => exact execAckTimeout_keeps req hx
  | lateResponseDiscard req => exact execLateResponseDiscard_keeps req hx
  | hostFlushReadDone port req => exact execHostFlushReadDone_keeps port req hx
  | stackRefresh f delayed => exact execStackRefresh_keeps f delayed hx
  | refreshRateChange f => exact execRefreshRateChange_keeps f hx
  | patrolScrubRead addr ecc => exact execPatrolScrubRead_keeps addr ecc hx
  | collectiveStart c g => exact execCollectiveStart_keeps c g hx
  | chainChunkLanded c g chunk errs => exact execChainChunkLanded_keeps c g chunk errs hx
  | chainChunkForward c g chunk => exact execChainChunkForward_keeps c g chunk hx
  | chainChunkRelease c g chunk => exact execChainChunkRelease_keeps c g chunk hx
  | reduceScatterAdd c g errs => exact execReduceScatterAdd_keeps c g errs hx
  | expertDispatchSend c g => exact execExpertDispatchSend_keeps c g hx
  | expertCombineReturn c g => exact execExpertCombineReturn_keeps c g hx
  | ledgerRecordWritten => exact execLedgerRecordWritten_keeps hx
  | stateSkew kind again => exact execStateSkew_keeps kind again hx
  | hostReadCompletion port req poison bs => exact execHostReadCompletion_keeps port req poison bs hx
  | retrainFailed g u => exact execRetrainFailed_keeps g u hx

/-- A state meets the invariant when what it keeps does. -/
theorem State.Inv.of_keeps {s t : State} (h : Keeps s.kept t.kept) (hs : s.Inv) : t.Inv := h.2 hs

/-- Taking the front command off the queue leaves the invariant. -/
theorem State.Inv.withPending {s : State} (hs : s.Inv) (rest : List Instr) : State.Inv { s with pending := rest } := hs

/-- Settles O6: a step is a tick or a command, and each keeps what the invariant rests on. -/
theorem stepsKeepInvariant : Obligations.StepsKeepInvariant := by
  intro s t hs h
  unfold step at h
  split at h
  · injection h with h
    subst h
    exact hs.of_keeps (State.tick_keeps (Keeps.refl s.kept))
  · exact (hs.withPending _).of_keeps (exec_keeps _ h)

/-- Settles O4. -/
theorem commandsKeepTheQueue : Obligations.CommandsKeepTheQueue := fun c _ _ h => (exec_keeps c h).1

/-- Settles O5: after reset no memory is written, no event is logged and no request waits for the warden. -/
theorem resetMeetsInvariant : Obligations.ResetMeetsInvariant := by
  refine ⟨rfl, ?_, ?_⟩ <;> decide

/-- Settles O1. -/
theorem stepRunsTheFrontCommand : Obligations.StepRunsTheFrontCommand := by
  intro c s rest h
  simp only [step, h]

end Sys2Proof.Machine
end

section
/-! PROOFS. Tile commands: what issue does in each case (R70, R136, R171), and the commands that only wait or act at issue (Table CMD-13). -/

namespace Sys2Proof.Machine

/-! ## Issue -/

section
variable {s : State} {c : CoreIx} {t : TaskIx} {q : Queue} {e : QEntry} {ops : Nat → Bool} {cond : QEntry → Bool}
  {eff : State → QEntry → State}

/-- Nothing issues from an empty queue. -/
theorem State.issueWith_of_empty (h : s.headOf c t q = none) : s.issueWith c t q ops cond eff = s := by
  simp [State.issueWith, h]

/-- Another opcode at the head, or a context that may not issue, changes nothing. -/
theorem State.issueWith_of_closed (h : s.headOf c t q = some e) (hn : ops (wOpc e.word) = false ∨ s.mayIssue c t = false) :
    s.issueWith c t q ops cond eff = s := by
  simp only [State.issueWith, h]
  obtain hn | hn := hn <;> simp [hn]

/-- A legal command waits at its head behind a SER command and while a wait condition is not met. -/
theorem State.issueWith_of_waits (h : s.headOf c t q = some e) (hl : s.illegal? c t e.word = none)
    (hw : s.serialised c t q = true ∨ s.waitMet c t e.word = false ∨ cond e = false) : s.issueWith c t q ops cond eff = s := by
  simp only [State.issueWith, h, hl]
  obtain hw | hw | hw := hw <;> simp [hw]

/-- An illegal command at the head stops its task context. -/
theorem State.issueWith_of_illegal {b : Bad} (h : s.headOf c t q = some e) (ho : ops (wOpc e.word) = true) (hm : s.mayIssue c t = true)
    (hb : s.illegal? c t e.word = some b) : s.issueWith c t q ops cond eff = s.stopTask c t q e b := by
  simp [State.issueWith, h, ho, hm, hb]

/-- A ready command whose own condition fails stays at its head. -/
theorem State.issueWith_of_not_cond {o : Nat} (h : s.ready c t q o e) (hc : cond e = false) : s.issueWith c t q ops cond eff = s := by
  obtain ⟨hhead, -, -, hlegal, -, -⟩ := h
  exact State.issueWith_of_waits hhead hlegal (.inr (.inr hc))

/-- A CTL command that is ready and whose own condition holds takes its effect and completes. -/
theorem State.issueCtl_ready {o : Nat} (h : s.ready c t .ctl o e) (hc : cond e = true) :
    s.issueCtl c t o cond eff = (eff (s.taken c t .ctl) e).finishNow c t .ctl e :=
  State.issueWith_ready h _ _ _ (beq_self_eq_true o) hc

end

/-- Every tile command is the issue of its opcode from its queue (Table CMD-1). -/
theorem exec_tileRow {i : Instr} {c : CoreIx} {t : TaskIx} {q : Queue} {o : Nat} (s : State) (h : tileRow i = some (c, t, q, o)) :
    ∃ cond eff, exec i s = .next (s.issueWith c t q (isOp o) cond eff) := by
  unfold tileRow at h
  split at h
  all_goals cases h
  all_goals exact ⟨_, _, rfl⟩

/-! ## Every command answers -/

/-- Settles O3: each command's meaning is one next state. -/
theorem everyCommandCompletes : Obligations.EveryCommandCompletes := by
  intro i s
  cases i with
  | nop c t => exact ⟨_, rfl⟩
  | wait c t => exact ⟨_, rfl⟩
  | clr c t => exact ⟨_, rfl⟩
  | add c t => exact ⟨_, rfl⟩
  | bara c t => exact ⟨_, rfl⟩
  | barw c t => exact ⟨_, rfl⟩
  | twait c t => exact ⟨_, rfl⟩
  | drain c t => exact ⟨_, rfl⟩
  | mark c t => exact ⟨_, rfl⟩
  | endSlice c t => exact ⟨_, rfl⟩
  | mset c t => exact ⟨_, rfl⟩
  | mma c t => exact ⟨_, rfl⟩
  | smma c t => exact ⟨_, rfl⟩
  | vop c t => exact ⟨_, rfl⟩
  | vred c t => exact ⟨_, rfl⟩
  | vcvt c t => exact ⟨_, rfl⟩
  | vtopk c t => exact ⟨_, rfl⟩
  | stream c t => exact ⟨_, rfl⟩
  | smerge c t => exact ⟨_, rfl⟩
  | scomp c t => exact ⟨_, rfl⟩
  | sexpd c t => exact ⟨_, rfl⟩
  | smask c t => exact ⟨_, rfl⟩
  | coll c t => exact ⟨_, rfl⟩
  | cairn c t => exact ⟨_, rfl⟩
  | cclose c t => exact ⟨_, rfl⟩
  | sha c t => exact ⟨_, rfl⟩
  | ledger c t => exact ⟨_, rfl⟩
  | undefinedOpcode c t => exact ⟨_, rfl⟩
  | commandFetch c t => exact ⟨_, rfl⟩
  | gangSpawn c => exact ⟨_, rfl⟩
  | gangRetire c g => exact ⟨_, rfl⟩
  | commandComplete c t q => exact ⟨_, rfl⟩
  | descriptorSetup c t => exact ⟨_, rfl⟩
  | segmentStart c g => exact ⟨_, rfl⟩
  | sliceBoundary c => exact ⟨_, rfl⟩
  | sliceGuardPoint c => exact ⟨_, rfl⟩
  | thermalStepDown f => exact ⟨_, rfl⟩
  | thermalStepUp c => exact ⟨_, rfl⟩
  | floorEscalation c => exact ⟨_, rfl⟩
  | clockLevelChange c => exact ⟨_, rfl⟩
  | clockLevelChangeEnd c => exact ⟨_, rfl⟩
  | meshReadRequest p ecc => exact ⟨_, rfl⟩
  | meshWrite p => exact ⟨_, rfl⟩
  | meshReadResponse p => exact ⟨_, rfl⟩
  | meshReduceAdd p => exact ⟨_, rfl⟩
  | meshWriteAck p => exact ⟨_, rfl⟩
  | meshErrorResponse p => exact ⟨_, rfl⟩
  | multicastReplicate f p => exact ⟨_, rfl⟩
  | multicastLocalDeliver f c p => exact ⟨_, rfl⟩
  | bundleCrcRetry f d b => exact ⟨_, rfl⟩
  | bundleFail f d b => exact ⟨_, rfl⟩
  | bundleSpareResume f d => exact ⟨_, rfl⟩
  | routerFailed f => exact ⟨_, rfl⟩
  | ctlTick f bound => exact ⟨_, rfl⟩
  | ctlGcntSync count => exact ⟨_, rfl⟩
  | ctlHoldRequest c => exact ⟨_, rfl⟩
  | ctlHoldGrant f bound => exact ⟨_, rfl⟩
  | barrierArrival bar src => exact ⟨_, rfl⟩
  | barrierRelease f bar => exact ⟨_, rfl⟩
  | ctlCreditGrant c ctx count => exact ⟨_, rfl⟩
  | ctlFaultEvent e => exact ⟨_, rfl⟩
  | ctlConfigWrite p f off v => exact ⟨_, rfl⟩
  | ctlConfigRead p f off => exact ⟨_, rfl⟩
  | ctlReadResponse p f off v => exact ⟨_, rfl⟩
  | ctlFence f d raised => exact ⟨_, rfl⟩
  | ctlParityFail f d m => exact ⟨_, rfl⟩
  | csrWrite p off v => exact ⟨_, rfl⟩
  | csrReadLowLatch p off => exact ⟨_, rfl⟩
  | arm p slot => exact ⟨_, rfl⟩
  | armCheckDone slot => exact ⟨_, rfl⟩
  | disarm p slot => exact ⟨_, rfl⟩
  | wardenReset src => exact ⟨_, rfl⟩
  | wardenRestartDone => exact ⟨_, rfl⟩
  | wardenWatchdog => exact ⟨_, rfl⟩
  | moduleReset src => exact ⟨_, rfl⟩
  | load p => exact ⟨_, rfl⟩
  | loadCheckDone => exact ⟨_, rfl⟩
  | swapGo p => exact ⟨_, rfl⟩
  | swapCancel p => exact ⟨_, rfl⟩
  | configSwap => exact ⟨_, rfl⟩
  | domainOnRequest p d => exact ⟨_, rfl⟩
  | domainOffRequest p d => exact ⟨_, rfl⟩
  | domainSequenceStart => exact ⟨_, rfl⟩
  | domainStage d => exact ⟨_, rfl⟩
  | domainRegulated d => exact ⟨_, rfl⟩
  | domainReady d => exact ⟨_, rfl⟩
  | domainOff d => exact ⟨_, rfl⟩
  | domainReversal d => exact ⟨_, rfl⟩
  | fenceRaise d => exact ⟨_, rfl⟩
  | powerDownStart d => exact ⟨_, rfl⟩
  | fenceLower d => exact ⟨_, rfl⟩
  | droopClamp f ns => exact ⟨_, rfl⟩
  | clampCeilingRaise f => exact ⟨_, rfl⟩
  | phaseFault z => exact ⟨_, rfl⟩
  | governorTick avg10ms avg1s demand => exact ⟨_, rfl⟩
  | sensorRead x reading => exact ⟨_, rfl⟩
  | shutdown cause source => exact ⟨_, rfl⟩
  | inputVoltageFault => exact ⟨_, rfl⟩
  | shutdownIntervalEnd => exact ⟨_, rfl⟩
  | startupBegin => exact ⟨_, rfl⟩
  | startupDomainGroup => exact ⟨_, rfl⟩
  | startupDomainTimeout d => exact ⟨_, rfl⟩
  | mrstNAssert level => exact ⟨_, rfl⟩
  | ejectNLow => exact ⟨_, rfl⟩
  | ejectNHigh => exact ⟨_, rfl⟩
  | perstN port => exact ⟨_, rfl⟩
  | rtcSet p v => exact ⟨_, rfl⟩
  | rtcHoldupLost => exact ⟨_, rfl⟩
  | hello p nc lifetime => exact ⟨_, rfl⟩
  | proof p body => exact ⟨_, rfl⟩
  | sessionRead h off n => exact ⟨_, rfl⟩
  | sessionWrite h off ws => exact ⟨_, rfl⟩
  | stkWrite h off bs => exact ⟨_, rfl⟩
  | nvmProgram h nvmOff stkOff len => exact ⟨_, rfl⟩
  | nvmWriteKeySlot h slot key => exact ⟨_, rfl⟩
  | nvmRaiseVfloor h v => exact ⟨_, rfl⟩
  | close h => exact ⟨_, rfl⟩
  | sessionExpire k => exact ⟨_, rfl⟩
  | sessionLockEnd => exact ⟨_, rfl⟩
  | mboxPost port inLen => exact ⟨_, rfl⟩
  | mboxOutAck port => exact ⟨_, rfl⟩
  | mboxOutReady port => exact ⟨_, rfl⟩
  | launchGo p slot => exact ⟨_, rfl⟩
  | launchPropose g m => exact ⟨_, rfl⟩
  | reply g m => exact ⟨_, rfl⟩
  | launchCommitCount => exact ⟨_, rfl⟩
  | launchCommit g m => exact ⟨_, rfl⟩
  | launchCancel g m => exact ⟨_, rfl⟩
  | launchDecisionMissing => exact ⟨_, rfl⟩
  | launchPitchStart => exact ⟨_, rfl⟩
  | launchCount => exact ⟨_, rfl⟩
  | pitchBoundary => exact ⟨_, rfl⟩
  | congestionMapClose => exact ⟨_, rfl⟩
  | guardPoint => exact ⟨_, rfl⟩
  | holdReq g m => exact ⟨_, rfl⟩
  | holdDecisionCount => exact ⟨_, rfl⟩
  | decision g m => exact ⟨_, rfl⟩
  | decisionMissing => exact ⟨_, rfl⟩
  | overrunReceived g m => exact ⟨_, rfl⟩
  | abandonCount => exact ⟨_, rfl⟩
  | abandon p => exact ⟨_, rfl⟩
  | logClr p => exact ⟨_, rfl⟩
  | msixHoldExpire port => exact ⟨_, rfl⟩
  | timeReqSend => exact ⟨_, rfl⟩
  | timeReq g u m => exact ⟨_, rfl⟩
  | timeResp m => exact ⟨_, rfl⟩
  | timeRespTimeout => exact ⟨_, rfl⟩
  | syncInterval => exact ⟨_, rfl⟩
  | holdoverAlignmentLost => exact ⟨_, rfl⟩
  | holdoverMemberLost m => exact ⟨_, rfl⟩
  | referenceFallback => exact ⟨_, rfl⟩
  | timeRootRtcSet => exact ⟨_, rfl⟩
  | syncSublinkReturn => exact ⟨_, rfl⟩
  | memberLost m => exact ⟨_, rfl⟩
  | leadLost => exact ⟨_, rfl⟩
  | dataFrame g u fr => exact ⟨_, rfl⟩
  | nullFrame g u fr => exact ⟨_, rfl⟩
  | frameFail g u => exact ⟨_, rfl⟩
  | replyRequest g u e => exact ⟨_, rfl⟩
  | replayTimeout g u => exact ⟨_, rfl⟩
  | warmRetrain g u => exact ⟨_, rfl⟩
  | retrainDone g u => exact ⟨_, rfl⟩
  | trainingDone g u => exact ⟨_, rfl⟩
  | caps g u b => exact ⟨_, rfl⟩
  | linkLoss g u => exact ⟨_, rfl⟩
  | laneFail g u lane => exact ⟨_, rfl⟩
  | laneSwap g u failed spare commit => exact ⟨_, rfl⟩
  | laneSwapAck g u failed spare commit => exact ⟨_, rfl⟩
  | laneSwapCommit g u => exact ⟨_, rfl⟩
  | bivouacTrigger g u full => exact ⟨_, rfl⟩
  | bivReq g u full commit => exact ⟨_, rfl⟩
  | bivAck g u full commit => exact ⟨_, rfl⟩
  | bivNak g u reason => exact ⟨_, rfl⟩
  | bivCancel g u commit => exact ⟨_, rfl⟩
  | bivouacCommitPoint g u rx => exact ⟨_, rfl⟩
  | bivouacWake g u => exact ⟨_, rfl⟩
  | wakeComplete g u rx => exact ⟨_, rfl⟩
  | echo g u body => exact ⟨_, rfl⟩
  | dis p g d => exact ⟨_, rfl⟩
  | quarClr p g => exact ⟨_, rfl⟩
  | lnkLoopWrite p g v => exact ⟨_, rfl⟩
  | loopClearAtLaunch => exact ⟨_, rfl⟩
  | violationDecay g => exact ⟨_, rfl⟩
  | linkReadRequest g u p => exact ⟨_, rfl⟩
  | linkWrite g u p => exact ⟨_, rfl⟩
  | linkReadResponse g u p => exact ⟨_, rfl⟩
  | linkReduceAdd g u p => exact ⟨_, rfl⟩
  | linkWriteAck g u p => exact ⟨_, rfl⟩
  | linkErrorResponse g u p => exact ⟨_, rfl⟩
  | archiveRecord g u p => exact ⟨_, rfl⟩
  | archiveDigestRecord g u p => exact ⟨_, rfl⟩
  | archiveErrorRecord g u p => exact ⟨_, rfl⟩
  | chainChunkHeader g u p => exact ⟨_, rfl⟩
  | belayGrant g u p => exact ⟨_, rfl⟩
  | nack g u p => exact ⟨_, rfl⟩
  | belayGrantSend ctx => exact ⟨_, rfl⟩
  | leaseRenewal ctx => exact ⟨_, rfl⟩
  | leaseExpire ctx holder => exact ⟨_, rfl⟩
  | fabRevoke p v => exact ⟨_, rfl⟩
  | ropeWindowOpen rope entry => exact ⟨_, rfl⟩
  | ropeWindowClose rope entry => exact ⟨_, rfl⟩
  | ordPacketRelease g u => exact ⟨_, rfl⟩
  | archiveRequestIssue g u => exact ⟨_, rfl⟩
  | archiveReturnSend c g => exact ⟨_, rfl⟩
  | parkedRefetch ctx => exact ⟨_, rfl⟩
  | folioDigestDone accession index => exact ⟨_, rfl⟩
  | scrubStart => exact ⟨_, rfl⟩
  | scrubEntryDone entry => exact ⟨_, rfl⟩
  | requestTimeout req => exact ⟨_, rfl⟩
  | ackTimeout req => exact ⟨_, rfl⟩
  | lateResponseDiscard req => exact ⟨_, rfl⟩
  | hostFlushReadDone port req => exact ⟨_, rfl⟩
  | stackRefresh f delayed => exact ⟨_, rfl⟩
  | refreshRateChange f => exact ⟨_, rfl⟩
  | patrolScrubRead addr ecc => exact ⟨_, rfl⟩
  | collectiveStart c g => exact ⟨_, rfl⟩
  | chainChunkLanded c g chunk errs => exact ⟨_, rfl⟩
  | chainChunkForward c g chunk => exact ⟨_, rfl⟩
  | chainChunkRelease c g chunk => exact ⟨_, rfl⟩
  | reduceScatterAdd c g errs => exact ⟨_, rfl⟩
  | expertDispatchSend c g => exact ⟨_, rfl⟩
  | expertCombineReturn c g => exact ⟨_, rfl⟩
  | ledgerRecordWritten => exact ⟨_, rfl⟩
  | stateSkew kind again => exact ⟨_, rfl⟩
  | hostReadCompletion port req poison bs => exact ⟨_, rfl⟩
  | retrainFailed g u => exact ⟨_, rfl⟩

/-! ## Commands that wait at their head -/

/-- Settles O11: every tile command is an issue from its queue, and an issue that may not happen changes nothing. -/
theorem commandsWaitAtTheirHead : Obligations.CommandsWaitAtTheirHead := by
  intro i c t q o s hrow
  obtain ⟨cond, eff, hexec⟩ := exec_tileRow s hrow
  rw [hexec]
  refine ⟨fun h => by rw [State.issueWith_of_empty h], fun e h hn => ?_⟩
  obtain hn | hn | ⟨hlegal, hn⟩ := hn
  · rw [State.issueWith_of_closed h (.inl (by simpa [isOp] using hn))]
  · rw [State.issueWith_of_closed h (.inr hn)]
  · rw [State.issueWith_of_waits h hlegal (hn.imp_right .inl)]

/-! ## Commands that only wait -/

/-- What a CTL command that only waits does: it issues when its own condition holds, and completes at once; else it waits (Table CMD-13). -/
theorem State.issueCtl_only_waits {s : State} {c : CoreIx} {t : TaskIx} {o : Nat} {e : QEntry} (h : s.ready c t .ctl o e) {p : Prop}
    {cond : QEntry → Bool} (hp : p ↔ cond e = true) :
    (p → answers (.next (s.issueCtl c t o cond fun s _ => s)) fun u => s.finished u c t .ctl e id ∧
      ∀ k, u.ctr c t k = s.raised c t .ctl e.word k (s.ctr c t k)) ∧
    (¬ p → (.next (s.issueCtl c t o cond fun s _ => s) : Host.Outcome State Fault Refusal) = .next s) := by
  constructor
  · intro hyes
    rw [State.issueCtl_ready h (hp.1 hyes)]
    exact ⟨_, rfl, State.taken_finished s c t .ctl e⟩
  · intro hno
    have hcond : cond e = false := by simpa [hp] using hno
    rw [State.issueCtl, State.issueWith_of_not_cond h hcond]

/-- Settles O7: each row is the one rule for commands that only wait, with its own condition. -/
theorem waitingCommandsIssueOnTheirCondition : Obligations.WaitingCommandsIssueOnTheirCondition := by
  intro s c t e
  refine ⟨fun h => ?nop, fun h => ?mark, fun h => ?wait, fun h => ?barw, fun h => ?twait, fun h => ?drain⟩
  case nop => exact State.issueCtl_only_waits h (by simp)
  case mark => exact State.issueCtl_only_waits h (by simp)
  case wait => exact State.issueCtl_only_waits h (by simp)
  case barw => exact State.issueCtl_only_waits h (by simp)
  case twait => exact State.issueCtl_only_waits h Iff.rfl
  case drain => exact State.issueCtl_only_waits h Iff.rfl

/-! ## Commands with gangs or descriptors -/

/-- A command of gangs that is ready issues with them. -/
theorem State.issueWith_hold {s : State} {c : CoreIx} {t : TaskIx} {q : Queue} {o : Nat} {e : QEntry} (h : s.ready c t q o e)
    {cond : QEntry → Bool} (hc : cond e = true) (gangs descs : State → QEntry → Nat) :
    answers (.next (s.issueWith c t q (isOp o) cond fun s e => s.hold c t q e (gangs s e) (descs s e)))
      fun u => s.issued u c t q e (gangs (s.taken c t q) e) (descs (s.taken c t q) e) := by
  rw [State.issueWith_ready h (isOp o) cond _ (beq_self_eq_true o) hc]
  exact ⟨_, rfl, State.hold_issued s c t q e _ _⟩

/-- A matrix command that is ready issues with one gang for each sub-tile of the matrix parameters of the moment. -/
theorem State.issueMat_issued {s : State} {c : CoreIx} {t : TaskIx} {o : Nat} {e : QEntry} (h : s.ready c t .mat o e) :
    answers (.next (s.issueWith c t .mat (isOp o) (fun _ => true) fun s e => s.hold c t .mat e (matOp e.word (s.task c t).mp).nsub 0))
      fun u => s.issued u c t .mat e (matOp e.word (s.task c t).mp).nsub 0 := by
  have hissue := State.issueWith_hold h (cond := fun _ => true) rfl (fun s e => (matOp e.word (s.task c t).mp).nsub) fun _ _ => 0
  rwa [State.taken_mp] at hissue

/-- A vector command that is ready issues with its gangs. -/
theorem State.issueVec_issued {s : State} {c : CoreIx} {t : TaskIx} {o : Nat} {e : QEntry} (h : s.ready c t .vec o e) :
    answers (.next (s.issueVec c t o)) fun u => s.issued u c t .vec e (vecOp e.word).gangs 0 :=
  State.issueWith_hold h rfl (fun _ e => (vecOp e.word).gangs) fun _ _ => 0

/-- A command with a descriptor list that is ready issues with all of them to set up. -/
theorem State.issueDesc_issued {s : State} {c : CoreIx} {t : TaskIx} {o : Nat} {e : QEntry} (h : s.ready c t .str o e) :
    answers (.next (s.issueDesc c t o)) fun u => s.issued u c t .str e 0 (listLen e.word) :=
  State.issueWith_hold h rfl (fun _ _ => 0) fun _ e => listLen e.word

/-- Settles O10: matrix, vector and descriptor commands each issue by the one rule of their queue. -/
theorem commandsIssueWithTheirGangs : Obligations.CommandsIssueWithTheirGangs :=
  ⟨fun _ _ _ _ => ⟨State.issueMat_issued, State.issueMat_issued, State.issueVec_issued, State.issueVec_issued, State.issueVec_issued,
    State.issueVec_issued⟩,
   fun _ _ _ _ => ⟨State.issueDesc_issued, State.issueDesc_issued, State.issueDesc_issued, State.issueDesc_issued, State.issueDesc_issued,
    State.issueDesc_issued, State.issueDesc_issued, State.issueDesc_issued, State.issueDesc_issued, State.issueDesc_issued⟩⟩

end Sys2Proof.Machine
end

section
/-! PROOFS. Commands that act at issue (R137, R138, R145, R167, R170), and illegal commands (R171). -/

namespace Sys2Proof.Machine

/-! ## What a raise sends -/

/-- A control message is sent behind those that wait. -/
theorem State.tell_ctl_append (s : State) (m : CtlMsg) : ∃ l, (s.tell m).ctl = s.ctl ++ l := by
  unfold State.tell
  split
  · exact ⟨_, rfl⟩
  · split
    · exact ⟨_, rfl⟩
    · exact ⟨[], by rw [State.ctlUndelivered_ctl, List.append_nil]⟩

/-- A landing slot released sends behind what waits. -/
theorem State.releaseOne_ctl_append (s : State) (c : CoreIx) (t : TaskIx) (i : Fin 64) (k : Fin 8) :
    ∃ l, (s.releaseOne c t i k).ctl = s.ctl ++ l := by
  unfold State.releaseOne
  dsimp only
  split
  · unfold State.grantSlots
    split
    · exact State.tell_ctl_append _ _
    · exact ⟨[], (List.append_nil _).symm⟩
  · exact ⟨[], (List.append_nil _).symm⟩

/-- So do several. -/
theorem State.releases_ctl_append (c : CoreIx) (t : TaskIx) (i : Fin 64) (ks : List (Fin 8)) :
    ∀ s : State, ∃ l, (ks.foldl (fun s k => s.releaseOne c t i k) s).ctl = s.ctl ++ l := by
  induction ks with
  | nil => exact fun s => ⟨[], (List.append_nil _).symm⟩
  | cons k ks ih =>
    intro s
    obtain ⟨l, hl⟩ := s.releaseOne_ctl_append c t i k
    obtain ⟨l', hl'⟩ := ih (s.releaseOne c t i k)
    exact ⟨l ++ l', by rw [List.foldl_cons, hl', hl, List.append_assoc]⟩

/-- A raise sends behind what waits. -/
theorem State.raise_ctl_append (s : State) (c : CoreIx) (t : TaskIx) (i : Fin 64) (v : Nat) : ∃ l, (s.raise c t i v).ctl = s.ctl ++ l := by
  obtain ⟨l, hl⟩ := State.releases_ctl_append c t i (List.finRange 8) (s.raiseOnly c t i v)
  exact ⟨l, by rw [State.raise, hl, State.raiseOnly_only]⟩

/-- So does a command that completes at issue. -/
theorem State.finishNow_ctl_append (s : State) (c : CoreIx) (t : TaskIx) (q : Queue) (e : QEntry) :
    ∃ l, (s.finishNow c t q e).ctl = s.ctl ++ l := by
  unfold State.finishNow State.raiseFor
  split
  · exact ⟨[], (List.append_nil _).symm⟩
  · split
    · exact s.raise_ctl_append c t _ 1
    · exact ⟨[], (List.append_nil _).symm⟩

/-- A message is sent on the first plane that can route it. -/
theorem State.tell_ctl_of_plane {s : State} {m : CtlMsg} {b : Bool} (hm : m.plane = false) (hb : s.ctlBlocked m b = false)
    (hfirst : ∀ b', b' < b → s.ctlBlocked m b' = true) : (s.tell m).ctl = s.ctl ++ [{ msg := { m with plane := b }, at_ := m.src }] := by
  cases b with
  | false =>
    rw [State.tell_of_clear (by rw [hm, hb])]
    simp only [← hm]
  | true =>
    have hblocked : s.ctlBlocked m false = true := hfirst false (by decide)
    simp [State.tell, hm, hblocked, hb]

/-! ## Commands that act at issue -/

/-- Taking a head word leaves the counters. -/
theorem State.taken_ctr (s : State) (c : CoreIx) (t : TaskIx) (q : Queue) (i : Fin 64) : (s.taken c t q).ctr c t i = s.ctr c t i := by
  simp only [State.ctr, State.taken_task, Task.setQueue_ctr]

/-- Taking a head word leaves which planes of the control network are blocked. -/
theorem State.taken_ctlBlocked (s : State) (c : CoreIx) (t : TaskIx) (q : Queue) (m : CtlMsg) (b : Bool) :
    (s.taken c t q).ctlBlocked m b = s.ctlBlocked m b := by
  rw [State.taken_v]
  rfl

/-- A ready command whose own condition holds takes its effect. -/
theorem State.issueWith_answers {s : State} {c : CoreIx} {t : TaskIx} {q : Queue} {o : Nat} {e : QEntry} {cond : QEntry → Bool}
    {eff : State → QEntry → State} {p : State → Prop} (h : s.ready c t q o e) (hc : cond e = true) (hp : p (eff (s.taken c t q) e)) :
    answers (.next (s.issueWith c t q (isOp o) cond eff)) p :=
  ⟨_, rfl, by rwa [State.issueWith_ready h (isOp o) cond eff (beq_self_eq_true o) hc]⟩

/-- A ready CTL command takes its effect and completes. -/
theorem State.issueCtl_answers {s : State} {c : CoreIx} {t : TaskIx} {o : Nat} {e : QEntry} {cond : QEntry → Bool}
    {eff : State → QEntry → State} {p : State → Prop} (h : s.ready c t .ctl o e) (hc : cond e = true)
    (hp : p ((eff (s.taken c t .ctl) e).finishNow c t .ctl e)) : answers (.next (s.issueCtl c t o cond eff)) p :=
  State.issueWith_answers h hc hp

/-- Changes that differ in counters, issued commands and landing slots alone finish alike. -/
theorem State.finished.congr {s u : State} {c : CoreIx} {t : TaskIx} {q : Queue} {e : QEntry} {f g : Task → Task}
    (h : s.finished u c t q e f)
    (hfg : ∀ k x y z, ({ f k with cmds := x, ctr := y, landing := z } : Task) = { g k with cmds := x, ctr := y, landing := z }) :
    s.finished u c t q e g :=
  ⟨h.1.trans (hfg _ _ _ _), h.2⟩

section
variable {s : State} {c : CoreIx} {t : TaskIx} {e : QEntry}

/-- CLR clears the counters of its mask (R138). -/
theorem clr_takes_effect (h : s.ready c t .ctl 0x02 e) : answers (exec (.clr c t) s) fun u => s.finished u c t .ctl e id ∧
    ∀ i, u.ctr c t i = s.raised c t .ctl e.word i (if bit (fld e.word 0 64) i.val then 0 else s.ctr c t i) := by
  obtain ⟨hfin, hctr⟩ := State.modTask_finished s c t .ctl e
    (fun k => { k with ctr := Vector.ofFn fun i => if bit (fld e.word 0 64) i.val then 0 else k.ctr[i] }) (by intro k; rfl)
  refine State.issueCtl_answers h rfl ⟨hfin.congr fun _ _ _ _ => rfl, fun i => (hctr i).trans ?_⟩
  simp only [Fin.getElem_fin, Vector.getElem_ofFn, Task.setQueue_ctr]
  split <;> rfl

/-- ADD raises its counter by VAL (R137). -/
theorem add_takes_effect (h : s.ready c t .ctl 0x03 e) : answers (exec (.add c t) s) fun u => s.finished u c t .ctl e id ∧
    ∀ i, u.ctr c t i = s.raised c t .ctl e.word i
      (if i = wCtr e.word then min (s.ctr c t i + fld e.word 0 32) (2 ^ 32 - 1) else s.ctr c t i) := by
  obtain ⟨htask, hcores, hothers, hgangs⟩ := (s.taken c t .ctl).raise_spec c t (wCtr e.word) (fld e.word 0 32)
  obtain ⟨hfin, hctr⟩ := State.finishNow_finished s ((s.taken c t .ctl).raise c t (wCtr e.word) (fld e.word 0 32)) c t .ctl e id
    (by rw [State.raise_only, State.taken_v]) (by rw [htask, State.taken_task]; rfl)
    (by rw [htask, State.taken_task]; exact Task.setQueue_cmds _ _ _)
    (fun w hw => (hothers w hw).trans (s.taken_other c t .ctl w hw)) (fun d hd => (hcores d hd).trans ((s.taken_only c t .ctl).2 d hd))
    (hgangs.trans (s.taken_gangs c t .ctl))
  refine State.issueCtl_answers h rfl ⟨hfin, fun i => (hctr i).trans ?_⟩
  by_cases hi : i = wCtr e.word
  · rw [if_pos hi, hi, State.raise_ctr_same, State.taken_ctr]
  · rw [if_neg hi, State.raise_ctr_of_ne _ _ _ _ hi, State.taken_ctr]

/-- END ends the slice and its fetching (R170). -/
theorem endSlice_takes_effect (h : s.ready c t .ctl 0x0F e) : answers (exec (.endSlice c t) s) fun u =>
    s.finished u c t .ctl e (fun k => { k with ended := true, active := false }) ∧
      ∀ i, u.ctr c t i = s.raised c t .ctl e.word i (s.ctr c t i) := by
  obtain ⟨hfin, hctr⟩ := State.modTask_finished s c t .ctl e (fun k => { k with ended := true, active := false }) fun _ => rfl
  exact State.issueCtl_answers h rfl ⟨hfin, hctr⟩

/-- MSET replaces the whole set of matrix parameters (R145). -/
theorem mset_takes_effect (h : s.ready c t .mat 0x11 e) : answers (exec (.mset c t) s) fun u =>
    s.finished u c t .mat e (fun k => { k with mp := msetOf e.word }) ∧
      ∀ i, u.ctr c t i = s.raised c t .mat e.word i (s.ctr c t i) := by
  obtain ⟨hfin, hctr⟩ := State.modTask_finished s c t .mat e (fun k => { k with mp := msetOf e.word }) fun _ => rfl
  exact State.issueWith_answers h rfl ⟨hfin, hctr⟩

/-- BARA sends an arrival and forgets earlier releases of its barrier (R60, R167). -/
theorem bara_takes_effect (h : s.ready c t .ctl 0x04 e) : answers (exec (.bara c t) s) fun u =>
    s.finished u c t .ctl e (fun k => { k with released := k.released.filter fun b => b != wBar e.word }) ∧
      (∀ i, u.ctr c t i = s.raised c t .ctl e.word i (s.ctr c t i)) ∧
      ∀ b, s.ctlBlocked (arrivalMsg c (wBar e.word)) b = false → (∀ b', b' < b → s.ctlBlocked (arrivalMsg c (wBar e.word)) b' = true) →
        ∃ l, u.ctl = s.ctl ++ { msg := { arrivalMsg c (wBar e.word) with plane := b }, at_ := coreField c } :: l := by
  let forget : Task → Task := fun k => { k with released := k.released.filter fun b => b != wBar e.word }
  let v := ((s.taken c t .ctl).tell (arrivalMsg c (wBar e.word))).modTask c t forget
  have hcores : v.cores = ((s.taken c t .ctl).modTask c t forget).cores := by
    simp only [v, State.modTask, State.modCore, State.tell_cores]
  have htask : ∀ d w, v.task d w = ((s.taken c t .ctl).modTask c t forget).task d w := fun d w => by simp only [State.task, hcores]
  have hcore : ∀ d, v.core d = ((s.taken c t .ctl).modTask c t forget).core d := fun d => by simp only [State.core, hcores]
  have hmod := onlyCore_trans (s.taken_only c t .ctl) ((s.taken c t .ctl).modTask_only c t forget)
  obtain ⟨hfin, hctr⟩ := State.finishNow_finished s v c t .ctl e forget
    (by simp only [v, State.modTask, State.modCore]; rw [State.tell_only, State.taken_v])
    (by rw [htask, State.modTask_task, State.taken_task])
    (by rw [htask, State.modTask_task, State.taken_task]; exact Task.setQueue_cmds _ _ _)
    (fun w hw => by rw [htask, State.modTask_task_other _ _ _ _ _ _ (.inr hw), s.taken_other c t .ctl w hw])
    (fun d hd => (hcore d).trans (hmod.2 d hd))
    (by rw [hcore, ← s.taken_gangs c t .ctl]; simp [State.modTask])
  refine State.issueCtl_answers h rfl ⟨hfin, fun i => (hctr i).trans ?_, fun b hb hfirst => ?_⟩
  · simp only [State.ctr, htask, State.modTask_task, State.taken_task]
    rfl
  · obtain ⟨l, hl⟩ := v.finishNow_ctl_append c t .ctl e
    have hsent : v.ctl = s.ctl ++ [{ msg := { arrivalMsg c (wBar e.word) with plane := b }, at_ := coreField c }] := by
      simp only [v, State.modTask_ctl]
      rw [State.tell_ctl_of_plane rfl (by rw [State.taken_ctlBlocked, hb]) fun b' hb' => by rw [State.taken_ctlBlocked, hfirst b' hb'],
        State.taken_v]
      rfl
    exact ⟨l, by rw [hl, hsent, List.append_assoc]; rfl⟩

end

/-- Settles O9: one rule for each of the five commands. -/
theorem immediateCommandsTakeEffect : Obligations.ImmediateCommandsTakeEffect := fun _ _ _ _ =>
  ⟨clr_takes_effect, add_takes_effect, endSlice_takes_effect, bara_takes_effect, mset_takes_effect⟩

/-! ## Illegal commands -/

/-- A stopped context, before its fault is recorded and reported. -/
theorem State.stopTask_task (s : State) (c : CoreIx) (t : TaskIx) (q : Queue) (e : QEntry) (b : Bad) (d : CoreIx) (v : TaskIx) :
    (s.stopTask c t q e b).task d v = (s.modTask c t fun k =>
      { k with stopped := true, active := false, fcode := BitVec.ofNat 7 b.code, fqueue := queueCode q,
               findex := BitVec.ofNat 22 e.index, fword := e.word }).task d v := by
  rw [State.stopTask, State.coreEvent_task, State.carrelFault_task]

/-- A stop leaves the other cores. -/
theorem State.stopTask_core_other (s : State) (c : CoreIx) (t : TaskIx) (q : Queue) (e : QEntry) (b : Bad) {d : CoreIx} (h : d ≠ c) :
    (s.stopTask c t q e b).core d = s.core d := by
  rw [State.stopTask, State.coreEvent_core, State.carrelFault_core _ _ _ _ _ h, State.modTask_core_other _ _ _ _ _ h]

/-- It leaves memory. -/
theorem State.stopTask_mem (s : State) (c : CoreIx) (t : TaskIx) (q : Queue) (e : QEntry) (b : Bad) : (s.stopTask c t q e b).mem = s.mem := by
  simp [State.stopTask, State.coreEvent, State.carrelFault_mem]

/-- A word whose opcode no command has is illegal with code 0x01. -/
theorem State.illegal?_of_undefined {s : State} {c : CoreIx} {t : TaskIx} {w : W128} (h : opDefined (wOpc w) = false) :
    s.illegal? c t w = some { code := 1 } := by
  simp [State.illegal?, h]

/-- Settles O12: an illegal head is one `stopTask`, whose parts the rules above give. -/
theorem illegalCommandStopsItsTask : Obligations.IllegalCommandStopsItsTask := by
  intro s c t q e stops hhead hmay
  have hstop : ∀ b : Bad, stops b.code (s.stopTask c t q e b) := by
    intro b
    have htask := s.stopTask_task c t q e b c t
    rw [State.modTask_task] at htask
    refine ⟨by rw [htask], by rw [htask], by rw [htask], by rw [htask], by rw [htask], by rw [htask], by rw [htask],
      by rw [htask]; cases q <;> rfl, fun v hv => ?_, fun d hd => s.stopTask_core_other c t q e b hd, s.stopTask_mem c t q e b⟩
    rw [State.stopTask_task, State.modTask_task_other _ _ _ _ _ _ (.inr hv)]
  refine ⟨fun i b hrow hb => ?_, fun hundef hq => ?_⟩
  · obtain ⟨cond, eff, hexec⟩ := exec_tileRow s hrow
    rw [hexec, State.issueWith_of_illegal hhead (by simp [isOp]) hmay hb]
    exact ⟨_, rfl, hstop b⟩
  · subst hq
    refine ⟨_, rfl, ?_⟩
    rw [State.issueWith_of_illegal hhead (by simp [hundef]) hmay (State.illegal?_of_undefined hundef)]
    exact hstop _

end Sys2Proof.Machine
end

section
/-! PROOFS. The core's machinery: gangs and their slots (R74 to R77), completion (R71), slices (R91 to R94) and clock levels (R95 to R99). -/

namespace Sys2Proof.Machine

/-! ## Gangs spawn -/

/-- What a gang is as it spawns: in its slot, of its command, not started, its strands' registers clear. -/
def Gang.spawnedAs (y : Gang) (slot : SlotIx) (t : TaskIx) (q : Queue) (id : Nat) : Prop :=
  y.slot = slot ∧ y.task = t ∧ y.queue = q ∧ y.cmd = id ∧ y.started = false ∧ y.strands = Vector.replicate 64 {}

/-- A new gang is of its slot and its command, whatever its queue. -/
theorem State.newGang_spawnedAs (s : State) (c : CoreIx) (t : TaskIx) (x : Cmd) (slot : SlotIx) (en : Option (Fin 4)) (i n : Nat) :
    (s.newGang c t x slot en i n).spawnedAs slot t x.queue x.id := by
  unfold State.newGang
  dsimp only
  split
  · split <;> exact ⟨rfl, rfl, rfl, rfl, rfl, rfl⟩
  · exact ⟨rfl, rfl, rfl, rfl, rfl, rfl⟩
  · exact ⟨rfl, rfl, rfl, rfl, rfl, rfl⟩

/-- Gangs that spawn one after another stand behind the others, each in its slot. -/
theorem State.spawns_gangs (c : CoreIx) (t : TaskIx) (x : Cmd) (en : Nat → Option (Fin 4)) (ix : Nat → Nat) (n : Nat)
    (ps : List (SlotIx × Nat)) : ∀ s : State, ∃ l : List (Gang × SlotIx × Nat),
      ((ps.foldl (fun s p => s.spawnOne c t x p.1 (en p.2) (ix p.2) n) s).core c).gangs = (s.core c).gangs ++ l.map Prod.fst ∧
        l.map Prod.snd = ps ∧ ∀ y ∈ l, y.1.spawnedAs y.2.1 t x.queue x.id := by
  induction ps with
  | nil => exact fun s => ⟨[], (List.append_nil _).symm, rfl, fun _ h => absurd h List.not_mem_nil⟩
  | cons p ps ih =>
    intro s
    obtain ⟨l, hl, hsnd, hall⟩ := ih (s.spawnOne c t x p.1 (en p.2) (ix p.2) n)
    exact ⟨(s.newGang c t x p.1 (en p.2) (ix p.2) n, p) :: l, by rw [List.foldl_cons, hl, State.spawnOne_gangs, List.append_assoc, List.singleton_append, List.map_cons],
      by rw [List.map_cons, hsnd], List.forall_mem_cons.2 ⟨s.newGang_spawnedAs c t x p.1 _ _ n, hall⟩⟩

/-- Counting the stretch of an SMMA's rows leaves the gangs that a group has spawned. -/
theorem State.spawnGroup_gangs (s : State) (c : CoreIx) (t : TaskIx) (x : Cmd) : ∃ l : List (Gang × SlotIx × Nat),
    ((s.spawnGroup c t x).core c).gangs = (s.core c).gangs ++ l.map Prod.fst ∧
      l.map Prod.snd = (((s.core c).freeSlots x.queue).take x.groupSize).zipIdx ∧ ∀ y ∈ l, y.1.spawnedAs y.2.1 t x.queue x.id := by
  obtain ⟨l, hl, hall⟩ := State.spawns_gangs c t x
    (fun i => if x.queue == .mat then ((s.core c).freeEngines s.now x.accSize)[i]? else none) (fun i => x.spawned + i) x.groupSize
    ((((s.core c).freeSlots x.queue).take x.groupSize).zipIdx) s
  refine ⟨l, ?_, hall⟩
  unfold State.spawnGroup
  dsimp only
  split
  · split
    · rw [State.modCnt, State.modCore_core]
      exact hl
    · exact hl
  · exact hl

/-- The reservation of a queue lies below the shared pool (R75). -/
theorem Core.reservation_le_pool (k : Core) (q : Queue) : (k.reservation q).1 + (k.reservation q).2 ≤ k.pool := by
  cases q <;> simp only [Core.reservation, Core.pool] <;> omega

/-- A queue's slots are free and different. -/
theorem Core.freeSlots_nodup (k : Core) (q : Queue) : (k.freeSlots q).Nodup := by
  have hfree : ((List.finRange 512).filter k.slotFree).Nodup := (List.nodup_finRange 512).filter _
  refine List.nodup_append.2 ⟨hfree.filter _, hfree.filter _, fun i hi j hj hij => ?_⟩
  subst hij
  have hlow : i.val < (k.reservation q).1 + (k.reservation q).2 := by
    have := (List.mem_filter.1 hi).2
    simp only [Bool.and_eq_true, decide_eq_true_eq] at this
    exact this.2
  have hhigh : k.pool ≤ i.val := of_decide_eq_true (List.mem_filter.1 hj).2
  have := k.reservation_le_pool q
  omega

/-- A slot that a queue may take is free. -/
theorem Core.slotFree_of_mem {k : Core} {q : Queue} {i : SlotIx} (h : i ∈ k.freeSlots q) : k.slotFree i = true := by
  simp only [Core.freeSlots, List.mem_append, List.mem_filter] at h
  obtain ⟨⟨-, hfree⟩, -⟩ | ⟨⟨-, hfree⟩, -⟩ := h <;> exact hfree

/-- A queue whose waiting command finds its slots spawns that command's next group. -/
theorem State.spawnGroup_answers {s : State} {c : CoreIx} {q : Queue} {t : TaskIx} {x : Cmd} (hw : s.waiting c q = some (t, x))
    (hs : s.slotsFor c q x = true) :
    let u := s.spawnGroup c t x
    (∃ l, (u.core c).gangs = (s.core c).gangs ++ l ∧ l.length = x.groupSize ∧ (l.map Gang.slot).Nodup ∧ ∀ g ∈ l, g.task = t ∧ g.queue = q ∧
      g.cmd = x.id ∧ g.started = false ∧ g.strands = Vector.replicate 64 {} ∧ (s.core c).slotFree g.slot = true) ∧
    (u.task c t).cmds = (s.task c t).cmds.map (fun y => if y.id == x.id then { y with spawned := y.spawned + x.groupSize } else y) ∧
    onlyCore c s u := by
  have hq : x.queue = q := State.waiting_queue hw
  have hn : x.groupSize ≤ ((s.core c).freeSlots x.queue).length := by rw [hq]; exact of_decide_eq_true hs
  obtain ⟨-, -, hcmds, honly⟩ := s.spawnGroup_spec c t x hn
  obtain ⟨l, hl, hsnd, hall⟩ := s.spawnGroup_gangs c t x
  have hslots : (l.map Prod.fst).map Gang.slot = ((s.core c).freeSlots x.queue).take x.groupSize := by
    rw [← List.zipIdx_map_fst 0 (((s.core c).freeSlots x.queue).take x.groupSize), ← hsnd, List.map_map, List.map_map]
    exact List.map_congr_left fun y hy => (hall y hy).1
  refine ⟨⟨l.map Prod.fst, hl, ?_, ?_, fun y hy => ?_⟩, hcmds, honly⟩
  · rw [← List.length_map (f := Gang.slot), hslots, List.length_take_of_le hn]
  · rw [hslots]
    exact (Core.freeSlots_nodup _ _).sublist (List.take_sublist _ _)
  · obtain ⟨z, hz, rfl⟩ := List.mem_map.1 hy
    obtain ⟨-, htask, hqueue, hcmd, hstarted, hstrands⟩ := hall z hz
    have hmem : z.1.slot ∈ ((s.core c).freeSlots x.queue).take x.groupSize := hslots ▸ List.mem_map_of_mem hy
    exact ⟨htask, hqueue.trans hq, hcmd, hstarted, hstrands, Core.slotFree_of_mem (List.mem_of_mem_take hmem)⟩

/-- A queue with no waiting command that finds its slots leaves the turn to the next. -/
theorem State.spawnFrom_of_idle {s : State} {c : CoreIx} {q : Queue} {qs : List Queue}
    (h : ∀ t x, s.waiting c q = some (t, x) → s.slotsFor c q x = false) : s.spawnFrom c (q :: qs) = s.spawnFrom c qs := by
  rw [State.spawnFrom]
  split
  next t x hw => rw [if_neg (by simp [h t x hw])]
  next => rfl

/-- The first queue whose waiting command finds its slots spawns. -/
theorem State.spawnFrom_of_slots {s : State} {c : CoreIx} {q : Queue} {qs : List Queue} {t : TaskIx} {x : Cmd}
    (hw : s.waiting c q = some (t, x)) (hs : s.slotsFor c q x = true) : s.spawnFrom c (q :: qs) = s.spawnGroup c t x := by
  simp [State.spawnFrom, hw, hs]

/-- Settles O14: the queues are tried in order; the first that spawns does so by the one rule for a group. -/
theorem spawnTakesQueuesInOrder : Obligations.SpawnTakesQueuesInOrder := by
  intro s c idle spawns
  have hexec : s.spawns c = true → exec (.gangSpawn c) s = .next (s.spawnFrom c [.mat, .vec, .str]) := fun h => congrArg _ (if_pos h)
  refine ⟨fun h => ?_, fun h => congrArg _ (if_neg (by simp [h]))⟩
  have hnext : ∀ {u}, s.spawnFrom c [.mat, .vec, .str] = u → exec (.gangSpawn c) s = .next u := fun hu => hu ▸ hexec h
  refine ⟨fun t x hw hs => ?_, fun hmat t x hw hs => ?_, fun hmat hvec t x hw hs => ?_, fun hmat hvec hstr => ?_⟩
  · exact ⟨_, hnext (State.spawnFrom_of_slots hw hs), State.spawnGroup_answers hw hs⟩
  · exact ⟨_, hnext ((State.spawnFrom_of_idle hmat).trans (State.spawnFrom_of_slots hw hs)), State.spawnGroup_answers hw hs⟩
  · exact ⟨_, hnext ((State.spawnFrom_of_idle hmat).trans ((State.spawnFrom_of_idle hvec).trans (State.spawnFrom_of_slots hw hs))),
      State.spawnGroup_answers hw hs⟩
  · exact hnext (by rw [State.spawnFrom_of_idle hmat, State.spawnFrom_of_idle hvec, State.spawnFrom_of_idle hstr, State.spawnFrom])

/-! ## Gangs retire and commands report -/

/-- A freed gang's slot holds none. -/
theorem State.freeGang_gang? (v : State) (c : CoreIx) (x : Gang) : ((v.freeGang c x).core c).gang? x.slot = none := by
  simp [State.freeGang, State.modTask, Core.gang?]

/-- Its command counts one more gang as retired. -/
theorem State.freeGang_cmds (v : State) (c : CoreIx) (x : Gang) : ((v.freeGang c x).task c x.task).cmds =
    (v.task c x.task).cmds.map fun y => if y.id == x.cmd then { y with retired := y.retired + 1 } else y := by
  rw [State.freeGang, State.modTask_task]
  simp [Task.modCmd, State.task_eq]

/-- The gang in a slot stands in that slot. -/
theorem Core.gang?_slot {k : Core} {g : SlotIx} {x : Gang} (h : k.gang? g = some x) : x.slot = g := by
  simpa using List.find?_some h

section
variable {s : State} {c : CoreIx} {g : SlotIx} {x : Gang} {m : Cmd} (ecc : List EccErr) (hg : (s.core c).gang? g = some x)
  (hm : (s.task c x.task).cmd? x.cmd = some m)
include hg hm

/-- Before its time is over a gang does not retire (Table CMD-18). -/
theorem gangRetire_of_early (h : 17 * s.now < x.ready) : exec (.gangRetire c (g, ecc)) s = .next s := by
  show execGangRetire c (g, ecc) s = _
  simp only [execGangRetire, hg, hm, if_pos h]

variable (ht : x.ready ≤ 17 * s.now)
include ht

/-- A matrix gang writes its results and frees its slot. -/
theorem gangRetire_of_mat {e : Fin 4} (hq : x.queue = .mat) (he : x.engine = some e) : exec (.gangRetire c (g, ecc)) s =
    .next (((s.scratchErrors c ecc).matrixDone c x.task m.word m.mp m.anch e g x.index).freeGang c x) := by
  show execGangRetire c (g, ecc) s = _
  simp only [execGangRetire, hg, hm, if_neg (Nat.not_lt.2 ht), hq, he]

/-- So does a vector gang. -/
theorem gangRetire_of_vec (hq : x.queue = .vec) : exec (.gangRetire c (g, ecc)) s =
    .next (((s.scratchErrors c ecc).vectorDone c x.task m.word m.anch x.index).freeGang c x) := by
  show execGangRetire c (g, ecc) s = _
  simp only [execGangRetire, hg, hm, if_neg (Nat.not_lt.2 ht), hq]

/-- A segment gang retires once it waits for nothing. -/
theorem gangRetire_of_str {i : Nat} {d : Desc} (hq : x.queue = .str) (hd : m.descFor x.index = some (i, d)) :
    exec (.gangRetire c (g, ecc)) s =
      .next (if !x.settled || s.holdsOn c x m d then s else (s.segDone c g x m i d).freeGang c x) := by
  show execGangRetire c (g, ecc) s = _
  simp only [execGangRetire, hg, hm, if_neg (Nat.not_lt.2 ht), hq, hd]

end

/-- A command that reports leaves its context and raises its counter. -/
theorem State.report_spec (s : State) (c : CoreIx) (t : TaskIx) (x : Cmd) :
    let u := s.report c t x
    (u.task c t).cmds = (s.task c t).cmds.filter (fun y => y.id != x.id) ∧
    (∀ i, u.ctr c t i = if wRen x.word = true ∧ i = wRctr x.word then min (s.ctr c t i + 1) (2 ^ 32 - 1) else s.ctr c t i) ∧
    u = { s with cores := u.cores, ctl := u.ctl, fab := u.fab, flt := u.flt, out := u.out } ∧ ∀ d, d ≠ c → u.core d = s.core d := by
  let v := s.modTask c t fun k => { k with cmds := k.cmds.filter fun y => y.id != x.id }
  have hv : v.task c t = { s.task c t with cmds := (s.task c t).cmds.filter fun y => y.id != x.id } := State.modTask_task _ _ _ _
  obtain ⟨htask, hcore, -, -⟩ := v.raise_spec c t (wRctr x.word) 1
  refine ⟨?_, fun i => ?_, ?_, fun d hd => ?_⟩
  · have hraise : (v.raiseFor c t x.word).task c t =
        { v.task c t with ctr := ((v.raiseFor c t x.word).task c t).ctr, landing := ((v.raiseFor c t x.word).task c t).landing } := by
      unfold State.raiseFor
      split
      · exact htask
      · rfl
    rw [State.report, hraise, hv]
  · rw [State.report, State.raiseFor_ctr]
    simp only [State.ctr, State.modTask_task]
  · rw [State.report, State.raiseFor_only]
    rfl
  · rw [← s.modTask_core_other c d t (fun k => { k with cmds := k.cmds.filter fun y => y.id != x.id }) hd]
    rw [State.report, State.raiseFor]
    split
    · exact hcore d hd
    · rfl

/-- Settles O15: a gang retires by its queue's rule, and a command completes by `report`. -/
theorem gangsRetireAndCommandsReport : Obligations.GangsRetireAndCommandsReport := by
  refine ⟨fun s c g ecc x m hg hm => ?_, fun s c t q => ⟨fun x hx => ⟨fun hdone hturn => ?_, fun hwait => ?_⟩, fun hnone => ?_⟩⟩
  · have hfreed : ∀ v : State, v.freeGang c x = v.freeGang c x ∧ ((v.freeGang c x).core c).gang? g = none ∧
        ((v.freeGang c x).task c x.task).cmds =
          (v.task c x.task).cmds.map fun y => if y.id == x.cmd then { y with retired := y.retired + 1 } else y :=
      fun v => ⟨rfl, Core.gang?_slot hg ▸ v.freeGang_gang? c x, v.freeGang_cmds c x⟩
    refine ⟨gangRetire_of_early ecc hg hm, fun ht => ⟨fun e hq he => ?_, fun hq => ?_, fun i d hq hd => ⟨fun hset hhold => ?_, fun hwait => ?_⟩⟩⟩
    · exact ⟨_, gangRetire_of_mat ecc hg hm ht hq he, hfreed _⟩
    · exact ⟨_, gangRetire_of_vec ecc hg hm ht hq, hfreed _⟩
    · exact ⟨_, (gangRetire_of_str ecc hg hm ht hq hd).trans (by simp [hset, hhold]), hfreed _⟩
    · rw [gangRetire_of_str ecc hg hm ht hq hd]
      obtain h | h := hwait <;> simp [h]
  · refine ⟨s.report c t x, ?_, s.report_spec c t x⟩
    show execCommandComplete c t q s = _
    simp only [execCommandComplete, hx]
    obtain h | h := hturn <;> simp [hdone, h]
  · show execCommandComplete c t q s = _
    simp only [execCommandComplete, hx]
    obtain h | ⟨h, hi⟩ := hwait
    · simp [h]
    · simp [h, hi]
  · show execCommandComplete c t q s = _
    simp only [execCommandComplete, hnone]

/-! ## Slices -/

section
variable {s : State} {c : CoreIx}

/-- With no slice none is entered. -/
theorem State.enterSlice_of_none (h : s.coreSlice c = none) : s.enterSlice c = s := by simp [State.enterSlice, h]

/-- A slice that runs already is not entered again. -/
theorem State.enterSlice_of_running {x : Fin 8 × Nat} (h : s.coreSlice c = some x) (hr : (s.core c).sliceNow = some x) :
    s.enterSlice c = s := by
  simp [State.enterSlice, h, hr]

/-- Another slice is entered, open to spawning. -/
theorem State.enterSlice_of_new {x : Fin 8 × Nat} (h : s.coreSlice c = some x) (hr : (s.core c).sliceNow ≠ some x) :
    s.enterSlice c = s.modCore c fun k => { k with sliceNow := some x, guarded := false, sliceLate := some x.2 } := by
  simp [State.enterSlice, h, hr]

/-- The slice in force is that of the table. -/
theorem State.coreSlice_of_sliceAt {i : Fin 8} {start : Nat} (h : (s.core c).sliceAt (s.coreCount c - s.coreBegin c) = some (i, start)) :
    s.coreSlice c = some (i, s.coreBegin c + start) := by
  simp [State.coreSlice, h]

/-- After entering a slice it is the one that runs. -/
theorem State.enterSlice_sliceNow {x : Fin 8 × Nat} (h : s.coreSlice c = some x) : ((s.enterSlice c).core c).sliceNow = some x := by
  by_cases hr : (s.core c).sliceNow = some x
  · rw [State.enterSlice_of_running h hr, hr]
  · rw [State.enterSlice_of_new h hr, State.modCore_core]

/-- Entering a slice leaves the core's task contexts and its slice table. -/
theorem State.enterSlice_tasks (s : State) (c : CoreIx) :
    ((s.enterSlice c).core c).tasks = (s.core c).tasks ∧ ((s.enterSlice c).core c).slices = (s.core c).slices := by
  unfold State.enterSlice
  split
  · exact ⟨rfl, rfl⟩
  · split
    · exact ⟨rfl, rfl⟩
    · rw [State.modCore_core]
      exact ⟨rfl, rfl⟩

/-- Entering a slice changes its core alone. -/
theorem State.enterSlice_onlyCore (s : State) (c : CoreIx) : onlyCore c s (s.enterSlice c) :=
  ⟨s.enterSlice_only c, fun d hd => s.enterSlice_core c d hd⟩

/-- A slice boundary of a running module enters the slice (R92). -/
theorem sliceBoundary_of_running (h : s.running = true) : exec (.sliceBoundary c) s = .next (s.enterSlice c) :=
  congrArg Host.Outcome.next (if_pos h)

/-- The guard time of a slice begins GUARD before its end (R92). -/
theorem State.inGuard_of_sliceAt {i : Fin 8} {start : Nat} (h : (s.core c).sliceAt (s.coreCount c - s.coreBegin c) = some (i, start))
    (hg : s.coreBegin c + (s.core c).sliceEnd (s.coreCount c - s.coreBegin c) (s.coreEnd c - s.coreBegin c)
      ≤ s.coreCount c + 1000 * bits ((s.core c).slices[i]).toNat 15 8) : s.inGuard c = true := by
  simp only [State.inGuard, State.coreSlice_of_sliceAt h, Bool.or_eq_true, decide_eq_true_eq]
  exact .inr hg

/-- The guard time depends on a core's slice table and the counts alone. -/
theorem State.inGuard_of_onlyCore {u : State} {i : Fin 8} {start : Nat} (hu : onlyCore c s u)
    (hslices : (u.core c).slices = (s.core c).slices)
    (h : (s.core c).sliceAt (s.coreCount c - s.coreBegin c) = some (i, start))
    (hg : s.coreBegin c + (s.core c).sliceEnd (s.coreCount c - s.coreBegin c) (s.coreEnd c - s.coreBegin c)
      ≤ s.coreCount c + 1000 * bits ((s.core c).slices[i]).toNat 15 8) : u.inGuard c = true := by
  have hcount : u.coreCount c = s.coreCount c := by rw [hu.1]; rfl
  have hbegin : u.coreBegin c = s.coreBegin c := by rw [hu.1]; rfl
  have hend : u.coreEnd c = s.coreEnd c := by rw [hu.1]; rfl
  have hstarts : (u.core c).starts = (s.core c).starts := by simp only [Core.starts, hslices]
  refine State.inGuard_of_sliceAt (i := i) (start := start) ?_ ?_
  · rw [hcount, hbegin, Core.sliceAt, hstarts]
    exact h
  · rw [hcount, hbegin, hend, hslices, Core.sliceEnd, hstarts]
    exact hg

end

/-- Settles O17: SLICE_BOUNDARY enters the slice of the count, and SLICE_GUARD_POINT closes it in guard time. -/
theorem slicesRunByTheirTable : Obligations.SlicesRunByTheirTable := by
  intro s c off
  refine ⟨fun hrun => ⟨fun i start h => ?_, fun h => ?_, fun i start h hg => ?_⟩, fun h => ?_, fun h => ⟨?_, ?_⟩⟩
  · have hslice := State.coreSlice_of_sliceAt h
    refine ⟨_, sliceBoundary_of_running hrun, s.enterSlice_onlyCore c, State.enterSlice_sliceNow hslice, (s.enterSlice_tasks c).1,
      s.enterSlice_gangs c, fun hne => ?_, fun he => State.enterSlice_of_running hslice he⟩
    rw [State.enterSlice_of_new hslice hne, State.modCore_core]
  · rw [sliceBoundary_of_running hrun, State.enterSlice_of_none (by rw [State.coreSlice, h]; rfl)]
  · have honly := onlyCore_trans (s.enterSlice_onlyCore c) ((s.enterSlice c).modCore_only c fun k => { k with guarded := true })
    refine ⟨_, congrArg Host.Outcome.next (if_pos (by simp [hrun, State.inGuard_of_sliceAt h hg])), honly, ?_,
      State.inGuard_of_onlyCore honly ?_ h hg, ?_, ?_⟩
    · rw [State.modCore_core]
    · rw [State.modCore_core]
      exact (s.enterSlice_tasks c).2
    · rw [State.modCore_core]
      exact (s.enterSlice_tasks c).1
    · rw [State.modCore_core]
      exact s.enterSlice_gangs c
  · exact congrArg Host.Outcome.next (if_neg (by simp [h]))
  · exact congrArg Host.Outcome.next (if_neg (by simp [h]))
  · exact congrArg Host.Outcome.next (if_neg (by simp [h]))

end Sys2Proof.Machine
end

section
/-! PROOFS. Clock levels (R95 to R99), and a nanosecond without a command (log entry 5). -/

namespace Sys2Proof.Machine

/-! ## Thermal steps -/

/-- Policy contention touches cores, the fault log and what leaves the module (R98). -/
theorem State.contention_only (s : State) (c : CoreIx) :
    s.contention c = { s with cores := (s.contention c).cores, flt := (s.contention c).flt, out := (s.contention c).out } := by
  unfold State.contention
  dsimp only
  split
  · rfl
  · rw [State.coreEvent, State.logEvent_only]
    rfl

/-- Of cores it counts on its own. -/
theorem State.contention_core (s : State) (c d : CoreIx) :
    (s.contention c).core d = (s.modCnt c fun k => { k with policy := bump k.policy }).core d := by
  unfold State.contention
  dsimp only
  split
  · rfl
  · rw [State.coreEvent_core]
    rfl

/-- The state after a thermal step down, before contention is noted. -/
def State.steppedDown (s : State) (c : CoreIx) : State :=
  (s.modCore c fun x => { x with
      therm := (s.core c).therm - 1, hotSince := if (s.core c).therm - 1 = (s.core c).floor then some s.now else x.hotSince }).modField
    (coreField c) fun f => { f with stepped := some (c, s.now) }

/-- A thermal step down, noted as contention below FLOOR. -/
theorem State.stepDown_of_mayStep {s : State} {c : CoreIx} (h : (s.core c).mayStep = true) :
    s.stepDown c = if (s.core c).therm - 1 < (s.core c).floor then (s.steppedDown c).contention c else s.steppedDown c := by
  simp [State.stepDown, h, State.steppedDown]

/-- What a thermal step down leaves. -/
theorem State.stepDown_spec {s : State} {c : CoreIx} (h : (s.core c).mayStep = true) :
    let u := s.stepDown c
    (u.core c).therm = (s.core c).therm - 1 ∧ (∀ d, d ≠ c → u.core d = s.core d) ∧ (u.core c).tasks = (s.core c).tasks ∧
      (u.field (coreField c)).stepped = some (c, s.now) ∧ u = { s with cores := u.cores, fields := u.fields, flt := u.flt, out := u.out } := by
  have hcore : (s.steppedDown c).core c = { s.core c with
      therm := (s.core c).therm - 1, hotSince := if (s.core c).therm - 1 = (s.core c).floor then some s.now else (s.core c).hotSince } :=
    State.modCore_core s c _
  have hother : ∀ d, d ≠ c → (s.steppedDown c).core d = s.core d := fun d hd => s.modCore_core_other c d _ hd
  have hfield : ((s.steppedDown c).field (coreField c)).stepped = some (c, s.now) := by
    rw [State.steppedDown, State.modField_field]
  rw [State.stepDown_of_mayStep h]
  split
  · refine ⟨?_, fun d hd => ?_, ?_, ?_, by rw [State.contention_only]; rfl⟩
    · rw [State.contention_core, State.modCnt, State.modCore_core, hcore]
    · rw [State.contention_core, State.modCnt_core_other _ _ _ _ hd, hother d hd]
    · rw [State.contention_core, State.modCnt, State.modCore_core, hcore]
    · rw [State.contention_only]
      exact hfield
  · exact ⟨by rw [hcore], hother, by rw [hcore], hfield, rfl⟩

/-- A level may step down above 4, and above FLOOR or once escalated. -/
theorem Core.mayStep_iff (k : Core) : k.mayStep = true ↔ 4 < k.therm ∧ (k.floor < k.therm ∨ k.escalated = true) := by
  simp [Core.mayStep]

section
variable {s : State} {c : CoreIx} {f : FieldIx}

/-- The hottest core of a field steps down at 95.0 °C or more. -/
theorem thermalStepDown_of_hot (hc : s.hottestCore f = some c) (hp : s.stepPause f = none) (hhot : 380 ≤ (s.core c).hot) :
    exec (.thermalStepDown f) s = .next (s.stepDown c) := by
  show execThermalStepDown f s = _
  simp [execThermalStepDown, hc, hp, hotLimit, hhot]

/-- It does not below 95.0 °C, or where its level may not step. -/
theorem thermalStepDown_of_not (hc : s.hottestCore f = some c) (h : (s.core c).hot < 380 ∨ (s.core c).mayStep = false) :
    exec (.thermalStepDown f) s = .next s := by
  show execThermalStepDown f s = _
  simp only [execThermalStepDown, hc]
  split
  next hd _ =>
    cases hd
    obtain h | h := h
    · rw [if_neg (by rw [hotLimit]; omega)]
    · rw [State.stepDown]
      simp [h]
  next => rfl

/-- With no enabled core, or in the 20 µs after a step, no core of the field steps down. -/
theorem thermalStepDown_of_pause (h : s.hottestCore f = none ∨ s.stepPause f ≠ none) : exec (.thermalStepDown f) s = .next s := by
  show execThermalStepDown f s = _
  unfold execThermalStepDown
  split
  next hc hp => simp [hc, hp] at h
  next => rfl

/-- A core steps up after 1,000 µs below 92.0 °C, unless another core of its field has just stepped down. -/
theorem thermalStepUp_of_cool {since : Nat} (hcool : (s.core c).coolSince = some since) (ht : since + 1000000 ≤ s.now)
    (hlow : (s.core c).therm < 16) (hb : (s.core c).blind = false) (hp : ∀ d, s.stepPause (coreField c) = some d → d = c) :
    exec (.thermalStepUp c) s = .next (s.modCore c fun x =>
      { x with therm := x.therm + 1, coolSince := some s.now
               escalated := x.escalated && decide (x.therm + 1 < (s.core c).floor), hotSince := none }) := by
  show execThermalStepUp c s = _
  simp only [execThermalStepUp, hcool]
  rw [if_neg]
  simp only [Bool.or_eq_true, decide_eq_true_eq, not_or]
  refine ⟨⟨⟨by omega, by omega⟩, by simp [hb]⟩, ?_⟩
  split
  next d hd => simp [hp d hd]
  next => simp

/-- Otherwise it does not step up. -/
theorem thermalStepUp_of_not (h : (s.core c).coolSince = none ∨ 16 ≤ (s.core c).therm ∨ (s.core c).blind = true ∨
    (∃ d, d ≠ c ∧ s.stepPause (coreField c) = some d) ∨ (∃ since, (s.core c).coolSince = some since ∧ s.now < since + 1000000)) :
    exec (.thermalStepUp c) s = .next s := by
  show execThermalStepUp c s = _
  unfold execThermalStepUp
  dsimp only
  split
  · rfl
  next t ht =>
    rw [if_pos]
    simp only [Bool.or_eq_true, decide_eq_true_eq]
    obtain h | h | h | ⟨d, hd, hp⟩ | ⟨since, hs, hlt⟩ := h
    · simp [ht] at h
    · exact .inl (.inl (.inr h))
    · exact .inl (.inr h)
    · exact .inr (by simp [hp, hd])
    · cases ht.symm.trans hs
      exact .inl (.inl (.inl hlt))

/-- A core that stayed 1,000 µs at FLOOR goes on below it. -/
theorem floorEscalation_of_hot {since : Nat} (hs : (s.core c).hotSince = some since) (ht : since + 1000000 ≤ s.now)
    (hf : (s.core c).therm = (s.core c).floor) (hhot : 380 ≤ (s.core c).hot) :
    exec (.floorEscalation c) s = .next (s.modCore c fun x => { x with escalated := true }) := by
  show execFloorEscalation c s = _
  simp [execFloorEscalation, hs, ht, hf, hotLimit, hhot]

/-- Another does not. -/
theorem floorEscalation_of_not (h : (s.core c).hotSince = none ∨ (s.core c).therm ≠ (s.core c).floor ∨ (s.core c).hot < 380) :
    exec (.floorEscalation c) s = .next s := by
  show execFloorEscalation c s = _
  unfold execFloorEscalation
  dsimp only
  split
  · rfl
  next t ht =>
    rw [if_neg]
    simp only [Bool.and_eq_true, decide_eq_true_eq, hotLimit]
    obtain h | h | h := h
    · simp [ht] at h
    · exact fun e => h e.1.1
    · exact fun e => Int.not_le.2 h (of_decide_eq_true e.2)

/-- The running level changes to the level of R95 over 150 ns (R99). -/
theorem clockLevelChange_of_new (ht : (s.core c).target = none) (hn : s.levelOf c ≠ (s.core c).level) :
    exec (.clockLevelChange c) s = .next ((s.modCore c fun x =>
      { x with target := some (s.levelOf c), levelAt := some s.now
               cnt := { x.cnt with clkStall := bump x.cnt.clkStall (coreCycles (s.levelOf c) 150) } }).enterThr c (s.levelOf c)) := by
  show execClockLevelChange c s = _
  simp [execClockLevelChange, ht, hn]

/-- A change of the audit block leaves the cores and memory. -/
theorem State.fresh_withAud (s : State) (a : Aud) (d : CoreIx) :
    ({ s with aud := a }.fresh).core d = s.core d ∧ ({ s with aud := a }.fresh).mem = s.mem := ⟨rfl, rfl⟩

/-- A level that enters THR_DIGEST leaves the cores. -/
theorem State.enterThr_core (s : State) (c d : CoreIx) (n : Nat) : (s.enterThr c n).core d = s.core d := (s.fresh_withAud _ d).1

/-- A core that changes its level, or runs at the level of R95, starts no change. -/
theorem clockLevelChange_of_not {s : State} {c : CoreIx} (h : (s.core c).target ≠ none ∨ s.levelOf c = (s.core c).level) :
    exec (.clockLevelChange c) s = .next s := by
  show execClockLevelChange c s = _
  have hstays : ((s.core c).target.isSome || decide (s.levelOf c = (s.core c).level)) = true := by
    simpa [Option.isSome_iff_ne_none] using h
  simp only [execClockLevelChange]
  rw [if_pos (by simpa using hstays)]

/-- After 150 ns the core runs at its new level. -/
theorem clockLevelChangeEnd_of_done {s : State} {c : CoreIx} {m : Nat} (h : (s.core c).target = some m) (hd : s.levelDone c = true) :
    exec (.clockLevelChangeEnd c) s = .next (s.modCore c fun x => { x with level := m, target := none }) := by
  show execClockLevelChangeEnd c s = _
  simp [execClockLevelChangeEnd, h, hd]

/-- Before, or without a change, nothing ends. -/
theorem clockLevelChangeEnd_of_not {s : State} {c : CoreIx} (h : (s.core c).target = none ∨ s.levelDone c = false) :
    exec (.clockLevelChangeEnd c) s = .next s := by
  show execClockLevelChangeEnd c s = _
  unfold execClockLevelChangeEnd
  split
  · rfl
  next n hn =>
    obtain h | h := h
    · simp [hn] at h
    · simp [h]

/-- The place of an event in THR_DIGEST does not depend on the cores. -/
theorem State.thrPos_modCore (s : State) (c d : CoreIx) (f : Core → Core) : (s.modCore d f).thrPos c = s.thrPos c := by
  have hpitch : (s.modCore d f).thrPitch = s.thrPitch := rfl
  simp only [State.thrPos, hpitch]

/-- A context whose core changes its level does not issue (R99). -/
theorem State.mayIssue_of_target {m : Nat} (h : (s.core c).target = some m) (t : TaskIx) : s.mayIssue c t = false := by
  simp [State.mayIssue, h]

end

/-- Settles O18: one rule for each thermal command and each end of a level change. -/
theorem clockLevels : Obligations.ClockLevels := by
  refine ⟨fun s c f => ⟨fun hc hp hhot hsteps => ?_, fun hc hno => ?_, thermalStepDown_of_pause, fun since hcool ht hlow hb hp => ?_,
    thermalStepUp_of_not, fun since hs ht hf hhot => ?_, floorEscalation_of_not⟩, fun s c => ?_⟩
  · exact ⟨_, thermalStepDown_of_hot hc hp hhot, State.stepDown_spec ((Core.mayStep_iff _).2 hsteps)⟩
  · exact thermalStepDown_of_not hc (hno.imp_right fun h => by simpa using mt (Core.mayStep_iff _).1 h)
  · exact ⟨_, thermalStepUp_of_cool hcool ht hlow hb hp, s.modCore_only c _, by rw [State.modCore_core]⟩
  · exact ⟨_, floorEscalation_of_hot hs ht hf hhot, s.modCore_only c _, by rw [State.modCore_core]⟩
  · intro k n
    have hlevel : s.levelOf c = n := rfl
    clear_value n
    subst hlevel
    refine ⟨fun ht hn => ?_, clockLevelChange_of_not, fun m hm hdone => ?_, clockLevelChangeEnd_of_not⟩
    · let v := s.modCore c fun x =>
        { x with target := some (s.levelOf c), levelAt := some s.now
                 cnt := { x.cnt with clkStall := bump x.cnt.clkStall (coreCycles (s.levelOf c) 150) } }
      have hcore : (v.enterThr c (s.levelOf c)).core c = _ := (v.enterThr_core c c _).trans (s.modCore_core c _)
      refine ⟨_, clockLevelChange_of_new ht hn, by rw [hcore], by rw [hcore], State.mayIssue_of_target (by rw [hcore]), fun d hd => ?_,
        by rw [hcore], ?_, (v.fresh_withAud _ c).2⟩
      · rw [State.enterThr_core, State.modCore_core_other _ _ _ _ hd]
      · rw [State.enterThr, State.thrPos_modCore]
        rfl
    · exact ⟨_, clockLevelChangeEnd_of_done hm hdone, s.modCore_only c _, by rw [State.modCore_core]⟩

/-! ## A nanosecond without a command -/

/-- Closing a congestion map changes the fabric's counts. -/
theorem State.rollMap_only (s : State) : s.rollMap = { s with fab := s.rollMap.fab } := by
  unfold State.rollMap
  split <;> rfl

/-- Counting what waits changes counts alone: of cores, fields, links, intake, chain and fabric. -/
theorem State.countWaits_only (s : State) : s.countWaits =
    { s with cores := s.countWaits.cores, fields := s.countWaits.fields, links := s.countWaits.links, intk := s.countWaits.intk,
             grd := s.countWaits.grd, fab := s.countWaits.fab } := by
  unfold State.countWaits State.countMap
  rw [State.rollMap_only]

/-- A core keeps all but its counts. -/
theorem State.countWaits_core (s : State) (c : CoreIx) : s.countWaits.core c = { s.core c with cnt := s.coreWaits c (s.core c).cnt } := by
  simp [State.countWaits, State.core]

/-- PHASE may move, and nothing else. -/
theorem State.settlePhase_only (s : State) : s.settlePhase = { s with glb := { s.glb with phase := s.settlePhase.glb.phase } } := by
  unfold State.settlePhase
  split <;> rfl

/-- Counting what waits leaves the clocks, the queue, memory, and what is on the mesh and the control network. -/
theorem State.countWaits_frame (s : State) : s.countWaits.now = s.now ∧ s.countWaits.rtc = s.rtc ∧ s.countWaits.pit = s.pit ∧
    s.countWaits.rate = s.rate ∧ s.countWaits.pending = s.pending ∧ s.countWaits.mem = s.mem ∧ s.countWaits.mesh = s.mesh ∧
    s.countWaits.ctl = s.ctl := by
  have hglb : s.countWaits.glb = s.glb := by rw [State.countWaits_only]
  have hcfg : s.countWaits.cfg = s.cfg := by rw [State.countWaits_only]
  have hpit : s.countWaits.pit = s.pit := by rw [State.countWaits_only]
  have hrate : s.countWaits.rate = s.rate := by
    unfold State.rate State.me State.troot
    rw [hglb, hcfg, hpit]
  refine ⟨?_, ?_, ?_, hrate, ?_, ?_, ?_, ?_⟩ <;> rw [State.countWaits_only]

/-- PHASE leaves them too, and the cores. -/
theorem State.settlePhase_frame (s : State) : s.settlePhase.now = s.now ∧ s.settlePhase.rtc = s.rtc ∧ s.settlePhase.pit = s.pit ∧
    s.settlePhase.rate = s.rate ∧ s.settlePhase.pending = s.pending ∧ s.settlePhase.mem = s.mem ∧ s.settlePhase.mesh = s.mesh ∧
    s.settlePhase.ctl = s.ctl ∧ s.settlePhase.cores = s.cores := by
  have hmod : s.settlePhase.glb.modIx = s.glb.modIx := by rw [State.settlePhase_only]
  have hcfg : s.settlePhase.cfg = s.cfg := by rw [State.settlePhase_only]
  have hpit : s.settlePhase.pit = s.pit := by rw [State.settlePhase_only]
  have hrate : s.settlePhase.rate = s.rate := by
    unfold State.rate State.me State.troot
    rw [hmod, hcfg, hpit]
  refine ⟨?_, ?_, ?_, hrate, ?_, ?_, ?_, ?_, ?_⟩ <;> rw [State.settlePhase_only]

/-- Without a command the clocks advance, and the queue, memory, the mesh and the control network stay. -/
theorem State.tick_frame (s : State) : s.tick.now = s.now + 1 ∧ s.tick.rtc.ns = s.rtc.ns + 1 ∧
    s.tick.pit = s.pit.advance s.rate (s.now + 1) ∧ s.tick.pending = s.pending ∧ s.tick.mem = s.mem ∧ s.tick.mesh = s.mesh ∧
    s.tick.ctl = s.ctl ∧ s.tick.cores = s.countWaits.cores := by
  obtain ⟨hnow, hrtc, hpit, hrate, hpending, hmem, hmesh, hctl⟩ := s.countWaits_frame
  obtain ⟨hnow', hrtc', hpit', hrate', hpending', hmem', hmesh', hctl', hcores'⟩ := s.countWaits.settlePhase_frame
  simp only [State.tick, State.advance, hnow', hrtc', hpit', hrate', hpending', hmem', hmesh', hctl', hcores', hnow, hrtc, hpit, hrate,
    hpending, hmem, hmesh, hctl, and_self]

/-- A count of the 64-bit counter goes on without wrapping while there is room. -/
theorem bump_toNat_of_lt {g : W64} {n : Nat} (h : g.toNat + n < 2 ^ 64) : (bump g n).toNat = g.toNat + n := by
  rw [bump, BitVec.toNat_add, BitVec.toNat_ofNat, Nat.mod_eq_of_lt (a := n) (by omega), Nat.mod_eq_of_lt h]

/-- One nanosecond of the oscillator is at most two of the disciplined clock. -/
theorem Pit.clock_le (p : Pit) (rate : Int) : (p.clock rate).1 ≤ 2 := by
  unfold Pit.clock
  dsimp only
  split
  · exact Nat.le_refl 2
  · split <;> simp

/-- Slewing adds at most one count. -/
theorem Pit.slewStep_le (p : Pit) (now : Nat) : p.slewStep now ≤ 1 := by
  unfold Pit.slewStep
  split
  · split <;> decide
  · decide

/-- A set count moves on by at most three, and never back (R308). -/
theorem Pit.advance_gcnt_le {p : Pit} {rate : Int} {now : Nat} (h : p.gcnt.toNat + 3 < 2 ^ 64) :
    p.gcnt.toNat ≤ (p.advance rate now).gcnt.toNat := by
  have hclock := p.clock_le rate
  have hslew := p.slewStep_le now
  unfold Pit.advance
  split
  · exact Nat.le_refl _
  · dsimp only
    split
    · exact Nat.le_refl _
    · dsimp only
      rw [bump_toNat_of_lt (by omega)]
      omega

/-- A count that is not set stands still. -/
theorem Pit.advance_of_unset {p : Pit} (rate : Int) (now : Nat) (h : p.gcntSet = false) : p.advance rate now = p := by
  simp [Pit.advance, h]

/-- Without a rate to correct or a slew a set count advances by one. -/
theorem Pit.advance_gcnt_of_steady {p : Pit} {now : Nat} (hset : p.gcntSet = true) (hphase : p.phase = 0) (hslew : p.slew = 0)
    (hroom : p.gcnt.toNat + 1 < 2 ^ 64) : (p.advance 0 now).gcnt.toNat = p.gcnt.toNat + 1 := by
  have hclock : p.clock 0 = (1, 0) := by simp [Pit.clock, hphase, ratePart]
  have hstep : p.slewStep now = 0 := by simp [Pit.slewStep, hslew]
  simp only [Pit.advance, hset, hclock, hstep]
  exact bump_toNat_of_lt hroom

/-- Settles O2: the tick leaves all but counts, PHASE and the clocks, and GCNT follows `Pit.advance`. -/
theorem idleStepAdvancesTime : Obligations.IdleStepAdvancesTime := by
  intro s hidle
  obtain ⟨hnow, hrtc, hpit, hpending, hmem, hmesh, hctl, hcores⟩ := s.tick_frame
  have hcore : ∀ c, s.tick.core c = { s.core c with cnt := s.coreWaits c (s.core c).cnt } := fun c => by
    rw [← State.countWaits_core, State.core, State.core, hcores]
  refine ⟨by simp only [step, hidle], hnow, hrtc, hpending.trans hidle, hmem, hmesh, hctl, fun c t => ?_, fun c => ?_, fun h => ?_,
    fun h => ?_, fun hset hrate hphase hslew hroom => ?_⟩
  · rw [State.task_eq, hcore, State.task_eq]
  · rw [hcore]
  · rw [State.gcnt, hpit, Pit.advance_of_unset _ _ h, State.gcnt]
  · rw [State.gcnt, State.gcnt, hpit]
    exact Pit.advance_gcnt_le h
  · rw [State.gcnt, State.gcnt, hpit, hrate]
    exact Pit.advance_gcnt_of_steady hset hphase hslew hroom

end Sys2Proof.Machine
end

section
/-! PROOFS. Fetching (R68, R69, R134, R170, R486), with what errors found by a read leave alone (R239 to R243). -/

namespace Sys2Proof.Machine

/-! ## Errors that a read finds -/

/-- A row without a spare leaves the cores. -/
@[simp] theorem State.noSpare_cores (s : State) (r : RowId) : (s.noSpare r).cores = s.cores := by simp [State.noSpare]

/-- A row listed for map-out leaves the cores. -/
@[simp] theorem State.listRow_cores (s : State) (r : RowId) : (s.listRow r).cores = s.cores := by
  unfold State.listRow
  split
  · rfl
  · split
    · simp
    · dsimp only
      split <;> simp

/-- Granules poisoned by a read leave the task contexts. -/
theorem State.spoilAt_task (s : State) (acc : Option CoreIx) (gs : List Nat) (d : CoreIx) (v : TaskIx) :
    (s.spoilAt acc gs).task d v = s.task d v := by
  unfold State.spoilAt
  split
  · rfl
  · exact State.modCnt_task _ _ _ _ _

/-- An uncorrectable error leaves them. -/
theorem State.eccUncorr_task (s : State) (g : Nat) (d : CoreIx) (v : TaskIx) : (s.eccUncorr g).task d v = s.task d v := by
  rw [← s.spoilAt_task none [g] d v]
  simp [State.eccUncorr, State.task]

/-- So does a corrected one. -/
theorem State.eccCorr_task (s : State) (g : Nat) (d : CoreIx) (v : TaskIx) : (s.eccCorr g).task d v = s.task d v := by
  unfold State.eccCorr State.task
  dsimp only
  split <;> simp

/-- What a read finds leaves the task contexts. -/
theorem State.readErrors_task (s : State) (a n : Nat) (ecc : List EccErr) (d : CoreIx) (v : TaskIx) :
    (s.readErrors a n ecc).task d v = s.task d v := by
  unfold State.readErrors
  generalize ecc.filter _ = l
  induction l generalizing s with
  | nil => rfl
  | cons e l ih =>
    rw [List.foldl_cons, ih]
    split
    · exact s.eccUncorr_task _ d v
    · exact s.eccCorr_task _ d v

/-- A read that finds no error changes nothing. -/
theorem State.readErrors_nil (s : State) (a n : Nat) : s.readErrors a n [] = s := rfl

/-! ## Bytes of clean memory -/

/-- With no poisoned granule a read finds the bytes as they are. -/
theorem spoil_nil (ctr a : Nat) (bs : List Byte) : ∀ i, spoil ctr a [] i bs = bs := by
  induction bs with
  | nil => exact fun _ => rfl
  | cons b bs ih => exact fun i => by simp [spoil, ih]

/-- What memory shows of a range without poison. -/
theorem State.view_of_clean {s : State} {a n : Nat} (h : s.mem.anyPoison a n = false) : s.view a n = s.mem.read a n := by
  have hnone : (granules a n).filter s.mem.poisoned = [] := by
    simpa [Memory.anyPoison, List.filter_eq_nil_iff] using h
  rw [State.view, hnone, spoil_nil]

/-! ## The fetched word -/

section
variable {s : State} {k : Task} {ecc : List EccErr}

/-- After the last word of the slice the fetcher reads a synthetic END (R170). -/
theorem State.fetchWord_of_end (h : k.sliceLen ≤ k.fetchIx) : s.fetchWord k ecc = (BitVec.ofNat 128 (0x0F * 2 ^ 120), s) := by
  simp [State.fetchWord, h]

/-- Before it reads the slice's next 16 bytes. -/
theorem State.fetchWord_of_lt (h : k.fetchIx < k.sliceLen) :
    let a := addrLocal ((k.carrels[(0 : Fin 9)]).base.toNat + 16 * k.fetchIx)
    s.fetchWord k ecc = (BitVec.ofNat 128 (leNat ((s.readErrors a 16 ecc).view a 16)), (s.readErrors a 16 ecc).fresh 16) := by
  simp [State.fetchWord, Nat.not_le.2 h]

/-- A fetched word leaves the task contexts, and with no error changes nothing but the count of free values. -/
theorem State.fetchWord_frame (s : State) (k : Task) (ecc : List EccErr) :
    (∀ d v, (s.fetchWord k ecc).2.task d v = s.task d v) ∧
      (ecc = [] → (s.fetchWord k ecc).2 = { s with freeCtr := (s.fetchWord k ecc).2.freeCtr }) := by
  by_cases h : k.sliceLen ≤ k.fetchIx
  · rw [State.fetchWord_of_end h]
    exact ⟨fun _ _ => rfl, fun _ => rfl⟩
  · rw [State.fetchWord_of_lt (Nat.not_le.1 h)]
    refine ⟨fun d v => s.readErrors_task _ _ ecc d v, ?_⟩
    rintro rfl
    rfl

end

/-! ## Skipped words -/

/-- What a skipped word does of its own, beside its raise (Table FLT-4). -/
def State.skipEffect (s : State) (c : CoreIx) (t : TaskIx) (w : W128) : State :=
  match wOpc w with
  | 0x02 => s.clearCounters c t (fld w 0 64)
  | 0x03 => s.raise c t (wCtr w) (fld w 0 32)
  | 0x11 => s.modTask c t fun k => { k with mp := msetOf w }
  | 0x0F => s.modTask c t fun k => { k with ended := true, active := false }
  | _ => s

/-- A skipped word does that and raises. -/
theorem State.skip_eq (s : State) (c : CoreIx) (t : TaskIx) (w : W128) : s.skip c t w = (s.skipEffect c t w).raiseFor c t w := by
  unfold State.skip State.skipEffect
  rfl

/-- A raise of a completing command changes counters and landing slots of its context. -/
theorem State.raiseFor_task (s : State) (c : CoreIx) (t : TaskIx) (w : W128) : (s.raiseFor c t w).task c t =
    { s.task c t with ctr := ((s.raiseFor c t w).task c t).ctr, landing := ((s.raiseFor c t w).task c t).landing } := by
  unfold State.raiseFor
  split
  · exact (s.raise_spec c t (wRctr w) 1).1
  · rfl

/-- What a skipped word leaves of its context: only a MSET moves the matrix parameters, only an END stops the fetcher. -/
theorem State.skipEffect_task (s : State) (c : CoreIx) (t : TaskIx) (w : W128) :
    let k := s.task c t
    let x := (s.skipEffect c t w).task c t
    x.fetchIx = k.fetchIx ∧ (∀ p, x.queue p = k.queue p) ∧ x.cmds = k.cmds ∧ x.mp = (if wOpc w = 0x11 then msetOf w else k.mp) ∧
      x.active = (k.active && wOpc w != 0x0F) := by
  unfold State.skipEffect
  split
  next h =>
    obtain ⟨a, hk⟩ : ∃ a, (s.clearCounters c t (fld w 0 64)).task c t = { s.task c t with ctr := a } := ⟨_, State.modTask_task _ _ _ _⟩
    rw [hk]
    exact ⟨rfl, fun p => by cases p <;> rfl, rfl, by simp [h], by simp [h]⟩
  next h =>
    obtain ⟨a, b, hk⟩ : ∃ a b, (s.raise c t (wCtr w) (fld w 0 32)).task c t = { s.task c t with ctr := a, landing := b } :=
      ⟨_, _, (s.raise_spec c t (wCtr w) (fld w 0 32)).1⟩
    rw [hk]
    exact ⟨rfl, fun p => by cases p <;> rfl, rfl, by simp [h], by simp [h]⟩
  next h =>
    rw [State.modTask_task]
    exact ⟨rfl, fun p => by cases p <;> rfl, rfl, by simp [h], by simp [h]⟩
  next h =>
    rw [State.modTask_task]
    exact ⟨rfl, fun p => by cases p <;> rfl, rfl, by simp [h], by simp [h]⟩
  next hclr hadd hmset hend => exact ⟨rfl, fun _ => rfl, rfl, (if_neg hmset).symm,
      by rw [bne_iff_ne.2 hend, Bool.and_true]⟩

/-- What it leaves of the counters: a CLR clears those of its mask, an ADD raises its own. -/
theorem State.skipEffect_ctr (s : State) (c : CoreIx) (t : TaskIx) (w : W128) (i : Fin 64) :
    (s.skipEffect c t w).ctr c t i =
      if wOpc w = 0x02 ∧ bit (fld w 0 64) i.val = true then 0
      else if wOpc w = 0x03 ∧ i = wCtr w then min (s.ctr c t i + fld w 0 32) (2 ^ 32 - 1) else s.ctr c t i := by
  unfold State.skipEffect
  split
  next h =>
    simp only [State.ctr, State.clearCounters, State.modTask_task, Fin.getElem_fin, Vector.getElem_ofFn, h]
    split <;> simp_all
  next h =>
    by_cases hi : i = wCtr w
    · subst hi
      simp [h, State.raise_ctr_same]
    · simp [h, hi, State.raise_ctr_of_ne _ _ _ _ hi]
  next h => simp [h, State.ctr]
  next h => simp [h, State.ctr]
  next hclr hadd hmset hend => rw [if_neg fun e => hclr e.1, if_neg fun e => hadd e.1]

/-! ## The obligation -/

section
variable {s : State} {c : CoreIx} {t : TaskIx} (ecc : List EccErr)

/-- A fetcher that may not run stalls. -/
theorem commandFetch_of_stopped (h : s.fetches c t = false) : exec (.commandFetch c (t, ecc)) s = .next s := by
  show execCommandFetch c (t, ecc) s = _
  simp [execCommandFetch, h]

variable (h : s.fetches c t = true)
include h

/-- A skipped word acts and enters no queue (R486). -/
theorem commandFetch_of_skipped (hs : (s.task c t).skipTo ≠ 0 ∧ skipEnds (s.fetchWord (s.task c t) ecc).1 (s.task c t).skipTo = false) :
    exec (.commandFetch c (t, ecc)) s = .next (((s.fetchWord (s.task c t) ecc).2.modTask c t fun x => { x with fetchIx := x.fetchIx + 1 }).skip
      c t (s.fetchWord (s.task c t) ecc).1) := by
  show execCommandFetch c (t, ecc) s = _
  simp [execCommandFetch, h, hs.1, hs.2]

variable (hs : ¬ ((s.task c t).skipTo ≠ 0 ∧ skipEnds (s.fetchWord (s.task c t) ecc).1 (s.task c t).skipTo = false))
include hs

/-- A full queue stalls the fetcher (R69). -/
theorem commandFetch_of_full (hq : 64 ≤ ((s.task c t).queue (opQueue (wOpc (s.fetchWord (s.task c t) ecc).1))).length) :
    exec (.commandFetch c (t, ecc)) s = .next s := by
  show execCommandFetch c (t, ecc) s = _
  simp only [execCommandFetch, h]
  rw [if_neg (by simp), if_neg (by simpa using hs), if_pos hq]

/-- Another word enters the queue of its opcode (R68, R134). -/
theorem commandFetch_of_room (hq : ((s.task c t).queue (opQueue (wOpc (s.fetchWord (s.task c t) ecc).1))).length < 64) :
    exec (.commandFetch c (t, ecc)) s = .next ((s.fetchWord (s.task c t) ecc).2.modTask c t fun x =>
      { (x.setQueue (opQueue (wOpc (s.fetchWord (s.task c t) ecc).1)) (x.queue (opQueue (wOpc (s.fetchWord (s.task c t) ecc).1)) ++
          [{ word := (s.fetchWord (s.task c t) ecc).1, index := x.fetchIx }])) with
        fetchIx := x.fetchIx + 1, skipTo := 0, active := wOpc (s.fetchWord (s.task c t) ecc).1 != 0x0F }) := by
  show execCommandFetch c (t, ecc) s = _
  simp only [execCommandFetch, h]
  rw [if_neg (by simp), if_neg (by simpa using hs), if_neg (Nat.not_le.2 hq)]

end

/-- Settles O13: what the fetcher reads, then what it does with it: queue it, stall, or skip it. -/
theorem fetchFillsTheQueue : Obligations.FetchFillsTheQueue := by
  intro s c t ecc k at_ w q skipped puts
  obtain ⟨htasks, hstate⟩ := s.fetchWord_frame k ecc
  refine ⟨fun hend => by rw [show w = _ from congrArg Prod.fst (State.fetchWord_of_end hend)], fun hlt hecc hclean => ?_,
    fun hf => ⟨fun hns hq => ?_, fun hns hq => commandFetch_of_full ecc hf hns hq, fun hs => ?_⟩, commandFetch_of_stopped ecc⟩
  · subst hecc
    rw [show w = _ from congrArg Prod.fst (State.fetchWord_of_lt hlt), State.readErrors_nil, State.view_of_clean hclean]
  · refine ⟨_, commandFetch_of_room ecc hf hns hq, ?_, fun v hv => ?_, fun d v hd => ?_, fun hecc => ?_⟩
    · rw [State.modTask_task, htasks]
    · rw [State.modTask_task_other _ _ _ _ _ _ (.inr hv), htasks]
    · rw [State.modTask_task_other _ _ _ _ _ _ (.inl hd), htasks]
    · rw [State.modTask, State.modCore, hstate hecc]
  · refine ⟨_, commandFetch_of_skipped ecc hf hs, ?_⟩
    rw [State.skip_eq]
    let v := (s.fetchWord k ecc).2.modTask c t fun x => { x with fetchIx := x.fetchIx + 1 }
    have hv : v.task c t = { k with fetchIx := k.fetchIx + 1 } := by rw [State.modTask_task, htasks]
    obtain ⟨hix, hqueues, hcmds, hmp, hactive⟩ := v.skipEffect_task c t w
    have hraise := (v.skipEffect c t w).raiseFor_task c t w
    refine ⟨by rw [hraise, hix, hv], fun p => ?_, by rw [hraise, hcmds, hv], by rw [hraise, hmp, hv], by rw [hraise, hactive, hv], fun i => ?_⟩
    · rw [hraise]
      refine Eq.trans ?_ ((hqueues p).trans ?_)
      · cases p <;> rfl
      · rw [hv]
        cases p <;> rfl
    · have hctr : v.ctr c t i = s.ctr c t i := by rw [State.ctr, hv]; rfl
      rw [State.raiseFor_ctr, State.skipEffect_ctr, hctr]

end Sys2Proof.Machine
end

section
/-! PROOFS. The mesh: packets that reach the end of their route, writes with their poison, and answers to their issuers (R30 to R39, R52,
R66, R71, R128 to R131, R223, R414). -/

namespace Sys2Proof.Machine

/-! ## Packets move -/

/-- A link that carries a packet changes its field alone. -/
theorem State.linkCarries_only (s : State) (f : FieldIx) (i : Fin 9) (p : MeshPacket) :
    s.linkCarries f i p = { s with fields := (s.linkCarries f i p).fields } := by
  unfold State.linkCarries
  split
  · rfl
  · split
    · split <;> rfl
    · rfl

/-- A hop changes packets and links. -/
theorem State.hop_only (s : State) (t : Transit) : s.hop t = { s with mesh := (s.hop t).mesh, fields := (s.hop t).fields } := by
  unfold State.hop
  split
  · rfl
  · split
    · rfl
    · split
      · rfl
      · dsimp only
        rw [State.linkCarries_only]

/-- So do hops one after another. -/
theorem State.hopList_only (l : List Transit) : ∀ s : State,
    l.foldl State.hop s = { s with mesh := (l.foldl State.hop s).mesh, fields := (l.foldl State.hop s).fields } := by
  induction l with
  | nil => exact fun _ => rfl
  | cons t l ih =>
    intro s
    rw [List.foldl_cons, ih, State.hop_only]

/-- So do rounds of hops. -/
theorem State.hops_only (n : Nat) : ∀ s : State, s.hops n = { s with mesh := (s.hops n).mesh, fields := (s.hops n).fields } := by
  induction n with
  | zero => exact fun _ => rfl
  | succ n ih =>
    intro s
    rw [State.hops, ih, State.hopAll, State.hopList_only]

/-- The movement of packets touches packets and links alone. -/
theorem State.flow_only (s : State) : s.flow = { s with mesh := s.flow.mesh, fields := s.flow.fields } := by
  unfold State.flow
  exact s.hops_only 32

section
variable {s v : State} {p : MeshPacket} {op : BitVec 4} {f : FieldIx}

/-- A packet that stands at the end of its route takes effect there. -/
theorem State.meshArrive_of_stands (h : s.stands p op f v) (eff : State → FieldIx → State) : s.meshArrive p op eff = eff v f := by
  obtain ⟨t, ht, hop, rfl, rfl⟩ := h
  unfold State.meshArrive
  dsimp only
  rw [ht]
  exact if_pos (beq_iff_eq.2 hop)

/-- One that does not only moves on. -/
theorem State.meshArrive_of_stillUnder (h : s.stillUnder p op) (eff : State → FieldIx → State) : s.meshArrive p op eff = s.flow := by
  unfold State.meshArrive
  dsimp only
  split
  · rfl
  next t ht =>
    obtain h | h := h
    · simp [ht] at h
    · rw [if_neg (by simpa using h)]

/-- At the end of its route a packet has changed packets and links alone. -/
theorem State.stands_only (h : s.stands p op f v) : v = { s with mesh := v.mesh, fields := v.fields } := by
  obtain ⟨t, -, -, -, rfl⟩ := h
  rw [State.flow_only]

/-- Memory is as before. -/
theorem State.stands_mem (h : s.stands p op f v) : v.mem = s.mem := by rw [State.stands_only h]

end

/-! ## Answers at a target -/

/-- An answer waits behind what is on the mesh. -/
theorem State.answer_eq (s : State) (f : FieldIx) (p : MeshPacket) (op status : BitVec 4) :
    s.answer f p op status p.tag [] = { s with mesh := s.mesh ++ [replyAt f p op status] } := rfl

/-- A packet turned away is answered with an error response, and memory, cores and routers stay. -/
theorem State.turnAway_spec (s : State) (f : FieldIx) (p : MeshPacket) (d : Verdict) :
    (s.turnAway f p d).mem = s.mem ∧ (s.turnAway f p d).cores = s.cores ∧ (s.turnAway f p d).fields = s.fields ∧
      (s.turnAway f p d).mesh = s.mesh ++ [replyAt f p 5 d.status] := by
  unfold State.turnAway
  rw [State.answer_eq]
  cases d with
  | refused =>
    dsimp only
    rw [State.refusedEvent, State.modEvent_only]
    exact ⟨rfl, rfl, rfl, rfl⟩
  | parked => exact ⟨rfl, rfl, rfl, rfl⟩
  | ok => exact ⟨rfl, rfl, rfl, rfl⟩
  | absent => exact ⟨rfl, rfl, rfl, rfl⟩

/-- A gap noted in a landing carrel changes cores. -/
theorem State.landMiss_only (s : State) (a n m : Nat) (ctx : BitVec 16) (last : Bool) :
    s.landMiss a n m ctx last = { s with cores := (s.landMiss a n m ctx last).cores } := by
  unfold State.landMiss
  split
  · split <;> rfl
  · rfl

/-- The core whose scratchpad an address names is the only one that a write there may change, beside its issuer's. -/
def targetOther (a : Nat) (c : CoreIx) : Prop :=
  match place a with
  | .scratch k _ => c ≠ k
  | _ => True

/-- Of cores it changes that of its target. -/
theorem State.landMiss_core (s : State) (a n m : Nat) (ctx : BitVec 16) (last : Bool) {c : CoreIx} (h : targetOther a c) :
    (s.landMiss a n m ctx last).core c = s.core c := by
  unfold State.landMiss
  unfold targetOther at h
  split
  next k o hp =>
    simp only [hp] at h
    split
    · exact State.modTask_core_other _ _ _ _ _ h
    · rfl
  · rfl

/-! ## Writes -/

section
variable {s v : State} {p : MeshPacket} {f : FieldIx}

/-- A write that its target admits lands and is acknowledged. -/
theorem meshWrite_of_ok (h : s.stands p 1 f v)
    (hd : v.meshVerdict f p p.body.length (v.landOk p.addr.toNat p.body.length v.glb.modIx.val p.ctx) = .ok) :
    exec (.meshWrite p) s = .next ((v.landWrite (some (pktCore p)) p.addr.toNat v.glb.modIx.val p.ctx p.body (p.status == stPoison) p.last).answer
      f p 4 stGood p.tag []) := by
  show execMeshWrite p s = _
  rw [execMeshWrite, State.meshArrive_of_stands h]
  simp only [hd]

/-- One that its target turns away notes a gap where it would have landed. -/
theorem meshWrite_of_not_ok (h : s.stands p 1 f v)
    (hd : v.meshVerdict f p p.body.length (v.landOk p.addr.toNat p.body.length v.glb.modIx.val p.ctx) ≠ .ok) :
    exec (.meshWrite p) s = .next ((if addrModule p.addr.toNat = v.glb.modIx.val then
        v.landMiss p.addr.toNat p.body.length v.glb.modIx.val p.ctx p.last else v).turnAway f p
      (v.meshVerdict f p p.body.length (v.landOk p.addr.toNat p.body.length v.glb.modIx.val p.ctx))) := by
  show execMeshWrite p s = _
  rw [execMeshWrite, State.meshArrive_of_stands h]
  dsimp only

  split
  next he => exact absurd he hd
  next => rfl

/-- The memory after a write that lands. -/
theorem State.landWrite_clean_mem (v : State) (acc : Option CoreIx) (a m : Nat) (ctx : BitVec 16) (bs : List Byte) (last : Bool) :
    (v.landWrite acc a m ctx bs false last).mem = v.mem.write (addrLocal a) bs [] := by
  rw [State.landWrite_mem]
  exact State.store_clean v (addrLocal a) bs

/-- Settles O19: a write lands by `landWrite`, or is turned away by `turnAway`. -/
theorem meshWriteStoresAndAnswers : Obligations.MeshWriteStoresAndAnswers := by
  intro s v p f a n d others
  refine ⟨s.flow_only, fun h hwf hd hclean => ?_, fun h hd => ?_, fun h => congrArg Host.Outcome.next (State.meshArrive_of_stillUnder h _)⟩
  · have hst : (p.status == stPoison) = false := by simpa using hclean
    have hexec := meshWrite_of_ok h hd
    rw [hst, State.answer_eq] at hexec
    obtain ⟨w, hw⟩ : ∃ w, w = v.landWrite (some (pktCore p)) p.addr.toNat v.glb.modIx.val p.ctx p.body false p.last := ⟨_, rfl⟩
    have hmem : w.mem = s.mem.write a p.body [] := by rw [hw, State.landWrite_clean_mem, State.stands_mem h]
    have honly : w = { v with mem := w.mem, cores := w.cores, freeCtr := w.freeCtr } := by rw [hw]; exact State.landWrite_only _ _ _ _ _ _ _ _
    have hmesh : w.mesh = v.mesh := by rw [honly]
    rw [← hw] at hexec
    refine ⟨_, hexec, fun b hb => ?_, fun i hi => ?_, by rw [← hmesh], fun c hc hk => ?_, ?_⟩
    · show w.mem.byte b = _
      rw [hmem, Memory.byte_write _ _ _ _ _ hwf, dif_neg (by omega)]
    · show w.mem.byte (a + i) = _
      rw [hmem, Memory.byte_write _ _ _ _ _ hwf, dif_pos ⟨by omega, by omega⟩]
      simp only [Nat.add_sub_cancel_left]
    · show w.core c = _
      rw [hw]
      exact v.landWrite_core (pktCore p) p.addr.toNat _ _ _ _ _ c hc hk
    · show ({ w with mesh := _ } : State) = _
      rw [honly]
  · have hexec := meshWrite_of_not_ok h hd
    obtain ⟨hmem, hcores, hfields, hmesh⟩ := State.turnAway_spec (if addrModule p.addr.toNat = v.glb.modIx.val then
      v.landMiss p.addr.toNat n v.glb.modIx.val p.ctx p.last else v) f p d
    refine ⟨_, hexec, hmem.trans ?_, hfields.trans ?_, fun c hc hk => ?_, hmesh.trans ?_⟩
    · rw [← State.stands_mem h]
      split
      · rw [State.landMiss_only]
      · rfl
    · split
      · rw [State.landMiss_only]
      · rfl
    · rw [State.core, hcores]
      split
      · exact v.landMiss_core _ _ _ _ _ hk
      · rfl
    · split
      · rw [State.landMiss_only]
      · rfl

end

/-! ## Poison -/

/-- A granule is clean when it is listed. -/
theorem Memory.poisoned_eq_false_iff (m : Memory) (g : Nat) : m.poisoned g = false ↔ g ∈ m.clean := by
  simp [Memory.poisoned]

/-- The clean granules after a write. -/
theorem Memory.mem_clean_write (m : Memory) (a : Nat) (bs : List Byte) (bad : List Nat) (g : Nat) :
    g ∈ (m.write a bs bad).clean ↔ (g ∈ m.clean ∧ (g ∈ granules a bs.length → bad.contains g = false) ∨
      g ∈ granules a bs.length ∧ bad.contains g = false ∧ a ≤ 64 * g ∧ 64 * g + 64 ≤ a + bs.length) := by
  refine (mem_write_clean bad (fun g => decide (a ≤ 64 * g) && decide (64 * g + 64 ≤ a + bs.length)) (granules a bs.length) m.clean g).trans ?_
  simp only [Bool.and_eq_true, decide_eq_true_eq]

/-- A write of clean data clears the granules that it covers whole and leaves the others as they were. -/
theorem Memory.mem_clean_write_nil (m : Memory) (a : Nat) (bs : List Byte) (g : Nat) (hn : 0 < bs.length) :
    g ∈ (m.write a bs []).clean ↔ g ∈ m.clean ∨ (a ≤ 64 * g ∧ 64 * g + 64 ≤ a + bs.length) := by
  rw [Memory.mem_clean_write, mem_granules a bs.length g hn]
  simp only [List.contains_nil, implies_true, and_true, true_and]
  exact or_congr Iff.rfl ⟨And.right, fun h => ⟨⟨by omega, by omega⟩, h⟩⟩

/-- A poisoned write poisons every granule it touches. -/
theorem State.store_poisoned {s : State} {a g : Nat} {bs : List Byte} (hlo : a < 64 * g + 64) (hhi : 64 * g < a + bs.length) (hn : 0 < bs.length) :
    (s.store a bs [(0, bs.length)]).mem.poisoned g = true := by
  have htouch : g ∈ granules a bs.length := (mem_granules a bs.length g hn).2 ⟨hlo, hhi⟩
  have hbad : (badGranules a [(0, bs.length)]).contains g = true := by simpa [badGranules] using htouch
  rw [← Bool.not_eq_false, Memory.poisoned_eq_false_iff]
  show g ∉ (s.mem.write a bs (badGranules a [(0, bs.length)])).clean
  rw [Memory.mem_clean_write, hbad]
  rintro (⟨-, h⟩ | ⟨-, h, -⟩)
  · exact absurd (h htouch) (by decide)
  · exact absurd h (by decide)

/-- Settles O20: the clean granules after the write that lands. -/
theorem writesSettlePoison : Obligations.WritesSettlePoison := by
  intro s v p f g a n h hd hn
  have hclean : p.status ≠ stPoison → (v.landWrite (some (pktCore p)) p.addr.toNat v.glb.modIx.val p.ctx p.body (p.status == stPoison)
      p.last).mem = s.mem.write a p.body [] := fun hst => by
    rw [show (p.status == stPoison) = false by simpa using hst, State.landWrite_clean_mem, State.stands_mem h]
  refine ⟨_, meshWrite_of_ok h hd, fun hst hlo hhi => ?_, fun hst hpart => ?_, fun hst hlo hhi => ?_⟩
  · show (v.landWrite _ _ _ _ _ _ _).mem.poisoned g = false
    rw [hclean hst, Memory.poisoned_eq_false_iff, Memory.mem_clean_write_nil _ _ _ _ hn]
    exact .inr ⟨hlo, hhi⟩
  · show (v.landWrite _ _ _ _ _ _ _).mem.poisoned g = _
    rw [hclean hst, Bool.eq_iff_iff, ← Decidable.not_iff_not, Bool.not_eq_true, Bool.not_eq_true, Memory.poisoned_eq_false_iff,
      Memory.poisoned_eq_false_iff, Memory.mem_clean_write_nil _ _ _ _ hn]
    exact or_iff_left hpart
  · show (v.landWrite _ _ _ _ _ _ _).mem.poisoned g = true
    rw [State.landWrite_mem, show (p.status == stPoison) = true by simpa using hst, if_pos rfl]
    exact State.store_poisoned hlo hhi hn

/-! ## Answers to their issuers -/

/-- After an event is logged the log holds it. -/
theorem State.logHolds_logEvent (s : State) (cls unit loc kind ident : Nat) (d : List Byte) :
    logHolds (s.logEvent cls unit loc kind ident d).flt.log (faultCode cls unit loc) (BitVec.ofNat 8 kind) (BitVec.ofNat 8 ident) :=
  s.logHolds_logCode _ _ _ _

section
variable {s v : State} {p : MeshPacket} {op : BitVec 4} {f : FieldIx}

/-- An answer at its issuer's field takes effect. -/
theorem State.comeBack_of_home (h : s.stands p op f v) (hf : f = p.srcField) (eff : State → State) : s.comeBack p op eff = eff v := by
  rw [State.comeBack, State.meshArrive_of_stands h, if_pos hf]

/-- At another router it is lost, and logged. -/
theorem State.comeBack_of_lost (h : s.stands p op f v) (hf : f ≠ p.srcField) (eff : State → State) :
    s.comeBack p op eff = v.logEvent 1 0xB 0x05 kField f.val (leBytes 8 p.addr.toNat) := by
  rw [State.comeBack, State.meshArrive_of_stands h, if_neg hf]

/-- Still under way it moves on. -/
theorem State.comeBack_of_stillUnder (h : s.stillUnder p op) (eff : State → State) : s.comeBack p op eff = s.flow :=
  State.meshArrive_of_stillUnder h _

end

/-- An acknowledgement touches one core. -/
theorem State.ackOne_onlyCore (s : State) (c : CoreIx) (t : TaskIx) (cmd : Nat) : onlyCore c s (s.ackOne c t cmd) := s.modTask_only c t _

/-- It counts one write of the command as acknowledged. -/
theorem State.ackOne_cmds (s : State) (c : CoreIx) (t : TaskIx) (cmd : Nat) : ((s.ackOne c t cmd).task c t).cmds =
    (s.task c t).cmds.map fun y => if y.id == cmd then { y with acks := y.acks - 1 } else y := by
  rw [State.ackOne, State.modTask_task]
  rfl

/-- A change of a gang touches its core. -/
theorem State.modGang_onlyCore (s : State) (c : CoreIx) (g : SlotIx) (h : Gang → Gang) : onlyCore c s (s.modGang c g h) := s.modCore_only c _

/-- It rewrites the gang in its slot. -/
theorem State.modGang_gangs (s : State) (c : CoreIx) (g : SlotIx) (h : Gang → Gang) :
    ((s.modGang c g h).core c).gangs = (s.core c).gangs.map fun y => if y.slot == g then h y else y := by
  rw [State.modGang, State.modCore_core]
  rfl

/-- Settles O22: each kind of answer by `comeBack`, then by what its issuer does with it. -/
theorem meshAnswersReachTheirIssuer : Obligations.MeshAnswersReachTheirIssuer := by
  intro s v p f c acked gangs lost
  have hacked : acked (v.ackOne c p.task p.cmd) := ⟨v.ackOne_onlyCore c p.task p.cmd, v.ackOne_cmds c p.task p.cmd⟩
  have hgangs : ∀ h, gangs h (v.modGang c p.slot h) := fun h => ⟨v.modGang_onlyCore c p.slot h, v.modGang_gangs c p.slot h⟩
  have hlost : lost (v.logEvent 1 0xB 0x05 kField f.val (leBytes 8 p.addr.toNat)) := ⟨State.logEvent_only _ _ _ _ _ _ _, v.logHolds_logEvent _ _ _ _ _ _⟩
  refine ⟨fun h => ⟨fun hf hw => ?_, fun hf hw => ?_, fun hf => ?_⟩, fun h => ⟨fun hf => ?_, fun hf => ?_⟩,
    fun h => ⟨fun hf hst => ?_, fun hf hst hn => ?_, fun hf hst hn hw => ?_, fun hf hst hn hw => ?_, fun hf => ?_⟩,
    fun h => congrArg Host.Outcome.next (State.comeBack_of_stillUnder h _), fun h => congrArg Host.Outcome.next (State.comeBack_of_stillUnder h _),
    fun h => congrArg Host.Outcome.next (State.comeBack_of_stillUnder h _)⟩
  · exact ⟨_, congrArg Host.Outcome.next ((State.comeBack_of_home h hf _).trans (if_pos hw)), hgangs _⟩
  · exact congrArg Host.Outcome.next ((State.comeBack_of_home h hf _).trans (if_neg (by simp [hw])))
  · exact ⟨_, congrArg Host.Outcome.next (State.comeBack_of_lost h hf _), hlost⟩
  · exact ⟨_, congrArg Host.Outcome.next (State.comeBack_of_home h hf _), hacked⟩
  · exact ⟨_, congrArg Host.Outcome.next (State.comeBack_of_lost h hf _), hlost⟩
  · exact congrArg Host.Outcome.next ((State.comeBack_of_home h hf _).trans (if_pos (by simp [hst])))
  · exact ⟨_, congrArg Host.Outcome.next ((State.comeBack_of_home h hf _).trans ((if_neg (by simp [hst])).trans (if_pos hn))), hacked⟩
  · exact ⟨_, congrArg Host.Outcome.next ((State.comeBack_of_home h hf _).trans
      ((if_neg (by simp [hst])).trans ((if_neg hn).trans (if_pos hw)))), hgangs _⟩
  · exact congrArg Host.Outcome.next ((State.comeBack_of_home h hf _).trans
      ((if_neg (by simp [hst])).trans ((if_neg hn).trans (if_neg (by simp [hw])))))
  · exact ⟨_, congrArg Host.Outcome.next (State.comeBack_of_lost h hf _), hlost⟩

end Sys2Proof.Machine
end

section
/-! PROOFS. Multicast (R41 to R44, R273), spare bundles (R45 to R47) and a router that fails in service (R53, R54). -/

namespace Sys2Proof.Machine

/-! ## Multicast packets are replicated -/

section
variable {s : State} {f : FieldIx} {p : MeshPacket}

/-- A packet that no copy brings to the router changes nothing. -/
theorem multicastReplicate_of_none (h : s.mcast.find? (fun k => k.dest == f && k.pkt == p) = none) :
    exec (.multicastReplicate f p) s = .next s := by
  show execMulticastReplicate f p s = _
  simp only [execMulticastReplicate, h]

/-- A router without room accepts no packet (R43). -/
theorem multicastReplicate_of_full {k : McastCopy} (h : s.mcast.find? (fun k => k.dest == f && k.pkt == p) = some k)
    (hroom : 65536 < s.retention f p.vc + p.body.length) : exec (.multicastReplicate f p) s = .next s := by
  show execMulticastReplicate f p s = _
  simp only [execMulticastReplicate, h, if_pos hroom]

/-- The state after a router has accepted a copy: copies go on to every branch, and the packet is retained for its local cores. -/
def State.replicated (s : State) (f : FieldIx) (p : MeshPacket) (k : McastCopy) : State :=
  let s1 := { s with mcast := s.mcast.erase k ++ (s.branches f p).map fun g => { prev := f, dest := g, pkt := p : McastCopy } }
  if s.localCores f p = 0 then s1
  else s1.modField f fun x => { x with retained := x.retained ++ [{ pkt := p, cores := s.localCores f p }] }

/-- A router with room accepts the packet (R41, R42). -/
theorem multicastReplicate_of_room {k : McastCopy} (h : s.mcast.find? (fun k => k.dest == f && k.pkt == p) = some k)
    (hroom : s.retention f p.vc + p.body.length ≤ 65536) : exec (.multicastReplicate f p) s = .next (s.replicated f p k) := by
  show execMulticastReplicate f p s = _
  simp only [execMulticastReplicate, h, if_neg (Nat.not_lt.2 hroom)]
  rfl

/-- What it leaves: the copies, and the packet in that router's retention. -/
theorem State.replicated_spec (s : State) (f : FieldIx) (p : MeshPacket) (k : McastCopy) :
    let u := s.replicated f p k
    u = { s with mcast := u.mcast, fields := u.fields } ∧ (∀ d, d ≠ f → u.field d = s.field d) ∧
      u.mcast = s.mcast.erase k ++ (s.branches f p).map (fun g => { prev := f, dest := g, pkt := p }) ∧
      (u.field f).retained = (s.field f).retained ++ (if s.localCores f p = 0 then [] else [{ pkt := p, cores := s.localCores f p }]) := by
  unfold State.replicated
  dsimp only
  split
  next h => exact ⟨rfl, fun _ _ => rfl, rfl, by simp [State.field]⟩
  next h =>
    refine ⟨rfl, fun d hd => State.modField_field_other _ _ _ _ hd, rfl, ?_⟩
    rw [State.modField_field]
    rfl

end

/-! ## Retained packets are delivered -/

/-- Whether an access is allowed depends on the routers' fences, rectangles, owners and interleaves alone. -/
theorem State.regionVerdict_withFields (s : State) (F : Vector Field 64) (h : ∀ g : FieldIx, F[g].fences = (s.fields[g]).fences ∧
    F[g].rect = (s.fields[g]).rect ∧ F[g].owner = (s.fields[g]).owner ∧ F[g].ilv = (s.fields[g]).ilv) (a n : Nat) (r : Byte) (extra : Bool) :
    ({ s with fields := F } : State).regionVerdict a n r extra = s.regionVerdict a n r extra := by
  have hfenced : ∀ g d, ({ s with fields := F } : State).fencedAt g d = s.fencedAt g d := fun g d => by
    have hfence : ({ s with fields := F } : State).fenced d = s.fenced d := rfl
    simp only [State.fencedAt, hfence, (h g).1]
  have hparked : ∀ q, ({ s with fields := F } : State).parkedAt q = s.parkedAt q := fun q => by
    cases q <;> simp only [State.parkedAt, hfenced]
  have hregion : ∀ c, ({ s with fields := F } : State).region c = s.region c := fun c => by
    simp only [State.region, State.rectOf, (h (coreField c)).2.1]
  have hslices : ∀ g o, ({ s with fields := F } : State).slicesOwned g o n r = s.slicesOwned g o n r := fun g o => by
    simp only [State.slicesOwned, (h g).2.2.1, (h g).2.2.2]
  have howned : ∀ q, ({ s with fields := F } : State).ownedBy q n r = s.ownedBy q n r := fun q => by
    unfold State.ownedBy
    split
    · rw [hregion]
    · rw [hslices]
    · rfl
    · rfl
  have habsent : ({ s with fields := F } : State).absentAt a n = s.absentAt a n := rfl
  simp only [State.regionVerdict, State.placeVerdict, hparked, howned, habsent]

/-- The routers once a local branch has served a core, a landing credit spent or not. -/
def State.served (s : State) (f : FieldIx) (c : Fin 4) (p : MeshPacket) (pays : Bool) : State :=
  if pays then (s.serveCore f c p).modField f fun k => k.setLandCredits c p.ctx ((s.field f).landCredits c p.ctx - 1) else s.serveCore f c p

section
variable (s : State) (f : FieldIx) (c : Fin 4) (p : MeshPacket) (pays : Bool)

/-- Serving a core rewrites the routers. -/
theorem State.served_only : s.served f c p pays = { s with fields := (s.served f c p pays).fields } := by
  unfold State.served
  split <;> rfl

/-- It leaves the other routers. -/
theorem State.served_field_other {g : FieldIx} (h : g ≠ f) : (s.served f c p pays).field g = s.field g := by
  unfold State.served
  split
  · rw [State.modField_field_other _ _ _ _ h, State.serveCore, State.modField_field_other _ _ _ _ h]
  · rw [State.serveCore, State.modField_field_other _ _ _ _ h]

/-- At its own it rewrites what is retained, and the landing credits where one is spent. -/
theorem State.served_field : ∃ l, (s.served f c p pays).field f = { s.field f with
    retained := ((s.field f).retained.map fun r =>
      if r.pkt == p then { r with cores := r.cores &&& ~~~(1#4 <<< c.val) } else r).filter fun r => r.cores != 0, landCred := l } := by
  unfold State.served
  split
  · rw [State.modField_field, State.serveCore, State.modField_field]
    exact ⟨_, rfl⟩
  · rw [State.serveCore, State.modField_field]
    exact ⟨_, rfl⟩

/-- The credits left once one is spent. -/
theorem State.served_landCredits : ((s.served f c p pays).field f).landCredits c p.ctx =
    if pays then (s.field f).landCredits c p.ctx - 1 else (s.field f).landCredits c p.ctx := by
  unfold State.served
  split
  · rw [State.modField_field]
    simp [Field.landCredits, Field.setLandCredits]
  · rw [State.serveCore, State.modField_field]
    rfl

/-- A retained copy of the packet no longer names the core. -/
theorem State.served_retained {k : Retained} (h : k ∈ ((s.served f c p pays).field f).retained) (hp : k.pkt = p) :
    k.cores.getLsbD c.val = false := by
  obtain ⟨l, hl⟩ := s.served_field f c p pays
  rw [hl] at h
  obtain ⟨r, -, hr⟩ := List.mem_map.1 (List.mem_filter.1 h).1
  by_cases hrp : r.pkt = p
  · rw [if_pos (by simpa using hrp)] at hr
    subst hr
    simp
  · rw [if_neg (by simpa using hrp)] at hr
    exact absurd (hr ▸ hp) hrp

/-- Serving a core leaves what accesses are allowed. -/
theorem State.served_regionVerdict (a n : Nat) (r : Byte) (extra : Bool) :
    (s.served f c p pays).regionVerdict a n r extra = s.regionVerdict a n r extra := by
  rw [State.served_only]
  refine s.regionVerdict_withFields _ (fun g => ?_) a n r extra
  show ((s.served f c p pays).field g).fences = (s.field g).fences ∧ ((s.served f c p pays).field g).rect = (s.field g).rect ∧
    ((s.served f c p pays).field g).owner = (s.field g).owner ∧ ((s.served f c p pays).field g).ilv = (s.field g).ilv
  by_cases hg : g = f
  · obtain ⟨l, hl⟩ := s.served_field f c p pays
    rw [hg, hl]
    exact ⟨rfl, rfl, rfl, rfl⟩
  · rw [s.served_field_other f c p pays hg]
    exact ⟨rfl, rfl, rfl, rfl⟩

/-- Whether a write may land does not depend on the routers. -/
theorem State.served_landOk (a n m : Nat) (ctx : BitVec 16) : (s.served f c p pays).landOk a n m ctx = s.landOk a n m ctx := by
  rw [State.served_only]
  rfl

end

/-- A packet turned away on a folio's way goes back to the intake unit: memory and routers stay. -/
theorem State.parkFolio_frame (s : State) (p : MeshPacket) (d : CoreIx) :
    (s.parkFolio p d).mem = s.mem ∧ (s.parkFolio p d).fields = s.fields := ⟨rfl, rfl⟩

/-- An answer leaves memory and the routers, and waits on the mesh. -/
theorem State.answer_frame (s : State) (f : FieldIx) (p : MeshPacket) (op status : BitVec 4) {tag : Nat} (h : tag = p.tag) :
    (s.answer f p op status tag []).mem = s.mem ∧ (s.answer f p op status tag []).fields = s.fields ∧
      (s.answer f p op status tag []).mesh = s.mesh ++ [replyAt f p op status] := by
  subst h
  exact ⟨rfl, rfl, rfl⟩

/-- A packet with another issuer and address keeps its tag. -/
theorem readdressed_tag (p : MeshPacket) (f : FieldIx) (c : Fin 4) (a : W64) :
    ({ p with srcField := f, srcCore := c, addr := a, mcast := false } : MeshPacket).tag = p.tag := rfl

/-- The answer of a delivery carries the packet's tag. -/
theorem mcastReply_tag (p : MeshPacket) (d : CoreIx) : (mcastReply p d).tag = p.tag :=
  readdressed_tag p _ _ _

section
variable (s : State) (f : FieldIx) (d : CoreIx) (p : MeshPacket) (a : Nat)

/-- A packet that the core admits lands in its scratchpad and is acknowledged. -/
theorem State.deliverLocal_of_ok (h : s.regionVerdict a p.body.length p.region (s.landOk a p.body.length s.glb.modIx.val p.ctx) = .ok) :
    s.deliverLocal f d p a =
      (s.landWrite (some d) a s.glb.modIx.val p.ctx p.body (p.status == stPoison) p.last).answer f (mcastReply p d) 4 stGood
        p.tag [] := by
  unfold State.deliverLocal
  dsimp only
  split
  · rfl
  next hv => exact absurd h hv

/-- Clean data that lands is stored at its address alone, and acknowledged. -/
theorem State.deliverLocal_clean (h : s.regionVerdict a p.body.length p.region (s.landOk a p.body.length s.glb.modIx.val p.ctx) = .ok)
    (hwf : s.mem.wf = true) (hclean : p.status ≠ stPoison) :
    (∀ b, b < addrLocal a ∨ addrLocal a + p.body.length ≤ b → (s.deliverLocal f d p a).mem.byte b = s.mem.byte b) ∧
      (∀ i (hi : i < p.body.length), (s.deliverLocal f d p a).mem.byte (addrLocal a + i) = p.body[i]) ∧
      (s.deliverLocal f d p a).mesh = s.mesh ++ [replyAt f (mcastReply p d) 4 stGood] := by
  obtain ⟨hmem, -, hmesh⟩ :=
    (s.landWrite (some d) a s.glb.modIx.val p.ctx p.body (p.status == stPoison) p.last).answer_frame f (mcastReply p d) 4 stGood
      (mcastReply_tag p d).symm
  have hst : (p.status == stPoison) = false := by simpa using hclean
  rw [State.deliverLocal_of_ok s f d p a h, hmem, hmesh]
  rw [hst, State.landWrite_clean_mem]
  refine ⟨fun b hb => ?_, fun i hi => ?_, by rw [State.landWrite_only]⟩
  · rw [Memory.byte_write _ _ _ _ _ hwf, dif_neg (by omega)]
  · rw [Memory.byte_write _ _ _ _ _ hwf, dif_pos ⟨by omega, by omega⟩]
    simp only [Nat.add_sub_cancel_left]

/-- One that it turns away leaves memory and the routers. -/
theorem State.deliverLocal_of_not_ok (h : s.regionVerdict a p.body.length p.region (s.landOk a p.body.length s.glb.modIx.val p.ctx) ≠ .ok) :
    (s.deliverLocal f d p a).mem = s.mem ∧ (s.deliverLocal f d p a).fields = s.fields := by
  have hmiss := s.landMiss_only a p.body.length s.glb.modIx.val p.ctx p.last
  have hmem : (s.landMiss a p.body.length s.glb.modIx.val p.ctx p.last).mem = s.mem := by rw [hmiss]
  have hfields : (s.landMiss a p.body.length s.glb.modIx.val p.ctx p.last).fields = s.fields := by rw [hmiss]
  unfold State.deliverLocal
  dsimp only
  split
  next he => exact absurd he h
  next =>
    split
    · obtain ⟨hm, hf⟩ := (s.landMiss a p.body.length s.glb.modIx.val p.ctx p.last).parkFolio_frame p d
      exact ⟨hm.trans hmem, hf.trans hfields⟩
    · obtain ⟨hm, -, hf, -⟩ := (s.landMiss a p.body.length s.glb.modIx.val p.ctx p.last).turnAway_spec f (mcastReply p d)
        (s.regionVerdict a p.body.length p.region (s.landOk a p.body.length s.glb.modIx.val p.ctx))
      exact ⟨hm.trans hmem, hf.trans hfields⟩

/-- A delivery leaves the routers. -/
theorem State.deliverLocal_fields : (s.deliverLocal f d p a).fields = s.fields := by
  by_cases h : s.regionVerdict a p.body.length p.region (s.landOk a p.body.length s.glb.modIx.val p.ctx) = .ok
  · rw [State.deliverLocal_of_ok s f d p a h]
    rw [(State.answer_frame _ _ _ _ _ (mcastReply_tag p d).symm).2.1, State.landWrite_only]
  · exact (State.deliverLocal_of_not_ok s f d p a h).2

end

section
variable {s : State} {f : FieldIx} {c : Fin 4} {p : MeshPacket}

/-- The first packet of an intake segment needs a landing credit (R273). -/
def State.paysLanding (s : State) (f : FieldIx) (c : Fin 4) (p : MeshPacket) : Bool :=
  s.intakeCtx p.ctx && !s.slotBegun (coreOf f c) (bits p.addr.toNat 0 26) p.body.length s.glb.modIx.val p.ctx

/-- A packet that no router retains for the core is not delivered. -/
theorem multicastLocalDeliver_of_none (h : ((s.field f).retained.find? fun k => k.pkt == p && k.cores.getLsbD c.val) = none) :
    exec (.multicastLocalDeliver f c p) s = .next s := by
  show execMulticastLocalDeliver f c p s = _
  simp only [execMulticastLocalDeliver, h]

/-- One that needs a landing credit waits without one. -/
theorem multicastLocalDeliver_of_no_credit (hp : s.paysLanding f c p = true) (h0 : (s.field f).landCredits c p.ctx = 0) :
    exec (.multicastLocalDeliver f c p) s = .next s := by
  show execMulticastLocalDeliver f c p s = _
  unfold execMulticastLocalDeliver
  split
  · rfl
  · dsimp only
    exact congrArg Host.Outcome.next (if_pos (Bool.and_eq_true_iff.2 ⟨hp, beq_iff_eq.2 h0⟩))

/-- Another is delivered. -/
theorem multicastLocalDeliver_of_kept (h : ((s.field f).retained.find? fun k => k.pkt == p && k.cores.getLsbD c.val) ≠ none)
    (hp : s.paysLanding f c p = true → (s.field f).landCredits c p.ctx ≠ 0) : exec (.multicastLocalDeliver f c p) s =
      .next ((s.served f c p (s.paysLanding f c p)).deliverLocal f (coreOf f c) p (mcastAddr p (coreOf f c))) := by
  obtain ⟨k, hk⟩ := Option.ne_none_iff_exists'.1 h
  show execMulticastLocalDeliver f c p s = _
  simp only [execMulticastLocalDeliver, hk]
  refine congrArg Host.Outcome.next (if_neg fun e => ?_)
  obtain ⟨hpay, h0⟩ := Bool.and_eq_true_iff.1 e
  exact hp hpay (beq_iff_eq.1 h0)

end

/-- Settles O23: replication by `replicated`; delivery by `served`, then `deliverLocal`. -/
theorem multicastCopies : Obligations.MulticastCopies := by
  refine ⟨fun s f p => ⟨fun k hk => ⟨fun hroom => ⟨_, multicastReplicate_of_room hk hroom, s.replicated_spec f p k⟩,
    multicastReplicate_of_full hk⟩, multicastReplicate_of_none⟩, fun s f c p => ?_⟩
  intro kept a n pays had v
  have hpays : s.paysLanding f c p = true ↔ pays := by simp [State.paysLanding, pays, n]
  refine ⟨multicastLocalDeliver_of_none, fun _ hp h0 => multicastLocalDeliver_of_no_credit (hpays.2 hp) h0, fun hk hp => ?_⟩
  have hexec := multicastLocalDeliver_of_kept hk fun h => hp (hpays.1 h)
  obtain ⟨w, hw⟩ : ∃ w, w = s.served f c p (s.paysLanding f c p) := ⟨_, rfl⟩
  have honly : w = { s with fields := w.fields } := by rw [hw]; exact s.served_only f c p _
  have hmem : w.mem = s.mem := by rw [honly]
  have hmesh : w.mesh = s.mesh := by rw [honly]
  have hmod : w.glb = s.glb := by rw [honly]
  have hverdict : w.regionVerdict a n p.region (w.landOk a n w.glb.modIx.val p.ctx) = v := by
    rw [hmod, hw, State.served_landOk, State.served_regionVerdict]
  have hfield : ∀ g, (w.deliverLocal f (coreOf f c) p a).field g = w.field g := fun g => by
    rw [State.field, State.deliverLocal_fields]
    rfl
  rw [← hw] at hexec
  refine ⟨_, hexec, fun g hg => ?_, ?_, fun k hk hkp => ?_, fun hwf hok hclean => ?_, fun hno => ?_⟩
  · rw [hfield, hw, State.served_field_other _ _ _ _ _ hg]
  · rw [hfield, hw, State.served_landCredits]
    exact ite_congr (propext hpays) (fun _ => rfl) fun _ => rfl
  · rw [hfield, hw] at hk
    exact s.served_retained f c p _ hk hkp
  · have hclean' := State.deliverLocal_clean w f (coreOf f c) p a (hverdict.trans hok) (by rw [hmem]; exact hwf) hclean
    rwa [hmem, hmesh] at hclean'
  · rw [(State.deliverLocal_of_not_ok w f _ p a (by rw [hverdict]; exact hno)).1, hmem]

/-! ## Spare bundles -/

/-- A step over the mesh leaves its field. -/
theorem stepField_ne (f : FieldIx) (d : DirIx) : stepField f d.val ≠ some f := by
  revert f d
  decide

/-- A rewritten mesh link. -/
theorem State.modMesh_link (s : State) (f : FieldIx) (d : DirIx) (h : MeshLink → MeshLink) :
    ((s.modMesh f d h).field f).links[d] = h ((s.field f).links[d]) := by
  rw [State.modMesh, State.modField_field]
  exact upd_same _ _ _

/-- Every other link. -/
theorem State.modMesh_link_other (s : State) {f g : FieldIx} {d e : DirIx} (h : MeshLink → MeshLink) (hne : g ≠ f ∨ e ≠ d) :
    ((s.modMesh f d h).field g).links[e] = (s.field g).links[e] := by
  by_cases hg : g = f
  · subst hg
    rw [State.modMesh, State.modField_field]
    exact upd_other _ _ _ _ (hne.resolve_left fun hn => hn rfl)
  · rw [State.modMesh, State.modField_field_other _ _ _ _ hg]

/-- A replay changes the transmitter's link alone. -/
theorem State.replayInto_only (s : State) (f : FieldIx) (d : DirIx) (n : Nat) :
    s.replayInto f d n = { s with fields := (s.replayInto f d n).fields } := by
  unfold State.replayInto
  split <;> rfl

/-- The transmitter sends the last flits that it keeps again. -/
theorem State.replayInto_link (s : State) {f g : FieldIx} {d : DirIx} (n : Nat) (hg : stepField f d.val = some g) :
    ((s.replayInto f d n).field g).links[oppDir d.val] = { (s.field g).links[oppDir d.val] with
      replay := (s.field g).links[oppDir d.val].kept.drop ((s.field g).links[oppDir d.val].kept.length - n) } := by
  simp only [State.replayInto, hg]
  exact s.modMesh_link g (oppDir d.val) _

/-- Every other link is as before. -/
theorem State.replayInto_link_other (s : State) {f g : FieldIx} {d e : DirIx} (n : Nat)
    (h : ¬ (stepField f d.val = some g ∧ e = oppDir d.val)) : ((s.replayInto f d n).field g).links[e] = (s.field g).links[e] := by
  unfold State.replayInto
  split
  next x hx =>
    refine s.modMesh_link_other _ ?_
    by_cases hgx : g = x
    · exact .inr fun he => h ⟨hgx ▸ hx, he⟩
    · exact .inl hgx
  · rfl

/-- After its receiver has changed its link, the transmitter has replayed into it. -/
theorem State.replayInto_modMesh (s : State) (f : FieldIx) (d : DirIx) (h : MeshLink → MeshLink) (n : Nat) :
    let u := (s.modMesh f d h).replayInto f d n
    (u = { s with fields := u.fields } ∧ ∀ g e,
      (stepField f d.val = some g ∧ e = oppDir d.val → (u.field g).links[e] =
        { (s.field g).links[e] with replay := (s.field g).links[e].kept.drop ((s.field g).links[e].kept.length - n) }) ∧
      (¬ (stepField f d.val = some g ∧ e = oppDir d.val) → g ≠ f ∨ e ≠ d → (u.field g).links[e] = (s.field g).links[e])) ∧
    (u.field f).links[d] = h ((s.field f).links[d]) := by
  refine ⟨⟨by rw [State.replayInto_only]; rfl, fun g e => ⟨?_, fun hno hne => ?_⟩⟩, ?_⟩
  · rintro ⟨hg, rfl⟩
    have hgf : g ≠ f := fun he => stepField_ne f d (he ▸ hg)
    rw [State.replayInto_link _ n hg, s.modMesh_link_other h (.inl hgf)]
  · rw [State.replayInto_link_other _ n hno, s.modMesh_link_other h hne]
  · rw [State.replayInto_link_other _ n fun hg => stepField_ne f d hg.1, State.modMesh_link]

/-- A failed bundle is marked, and no other link or router changes. -/
theorem State.modMesh_marked (s : State) (f : FieldIx) (d : DirIx) (h : MeshLink → MeshLink) :
    (∀ g, g ≠ f → (s.modMesh f d h).field g = s.field g) ∧
      (∀ e, e ≠ d → ((s.modMesh f d h).field f).links[e] = (s.field f).links[e]) :=
  ⟨fun _ hg => State.modField_field_other _ _ _ _ hg, fun _ he => s.modMesh_link_other h (.inr he)⟩

section
variable {s : State} {f : FieldIx} {d : DirIx} {b : Fin 9}

/-- A CRC error on a bundle of the link is counted, with its retry, and the transmitter replays. -/
theorem bundleCrcRetry_of_link (h : linkExists f d = true) (back : Fin 17) : exec (.bundleCrcRetry f d (b, back)) s =
    .next ((s.modMesh f d fun k =>
      { k with crcErr := k.crcErr + 1, retries := k.retries + 1,
               recent := (b, s.now) :: k.recent.filter fun e => recently s.now e.2 }).replayInto f d back.val) := by
  show execBundleCrcRetry f d (b, back) s = _
  simp [execBundleCrcRetry, h]

/-- No link, no error. -/
theorem bundleCrcRetry_of_none (h : linkExists f d = false) (back : Fin 17) : exec (.bundleCrcRetry f d (b, back)) s = .next s := by
  show execBundleCrcRetry f d (b, back) s = _
  simp [execBundleCrcRetry, h]

/-- A bundle not yet failed, with four errors, fails. -/
theorem bundleFail_guard (h : linkExists f d = true) (hf : ((s.field f).links[d]).failed.getLsbD b.val = false)
    (h4 : 4 ≤ ((s.field f).links[d]).errors s.now b) :
    (!linkExists f d || ((s.field f).links[d]).failed.getLsbD b.val || decide (((s.field f).links[d]).errors s.now b < 4)) ≠ true := by
  rw [h, hf, decide_eq_false (Nat.not_lt.2 h4)]
  decide

/-- The first bundle of a link to fail steers in the spare, unless it is the spare. -/
theorem bundleFail_of_first (h : linkExists f d = true) (hf : ((s.field f).links[d]).failed.getLsbD b.val = false)
    (h4 : 4 ≤ ((s.field f).links[d]).errors s.now b) (h0 : ((s.field f).links[d]).failures = 0) :
    exec (.bundleFail f d b) s = .next ((s.modMesh f d fun k => { k with failed := k.failed ||| BitVec.ofNat 9 (2 ^ b.val) }).modMesh f d
      fun k => if b.val = 8 then k else { k with spare := true, paused := true }) := by
  show execBundleFail f d b s = _
  exact congrArg Host.Outcome.next ((if_neg (bundleFail_guard h hf h4)).trans (if_pos h0))

/-- A bundle that fails on a link already at half width is only marked. -/
theorem bundleFail_of_half (h : linkExists f d = true) (hf : ((s.field f).links[d]).failed.getLsbD b.val = false)
    (h4 : 4 ≤ ((s.field f).links[d]).errors s.now b) (h0 : ((s.field f).links[d]).failures ≠ 0) (hh : ((s.field f).links[d]).half = true) :
    exec (.bundleFail f d b) s = .next (s.modMesh f d fun k => { k with failed := k.failed ||| BitVec.ofNat 9 (2 ^ b.val) }) := by
  show execBundleFail f d b s = _
  exact congrArg Host.Outcome.next ((if_neg (bundleFail_guard h hf h4)).trans ((if_neg h0).trans (if_pos hh)))

/-- The second one leaves the link at half width. -/
theorem bundleFail_of_second (h : linkExists f d = true) (hf : ((s.field f).links[d]).failed.getLsbD b.val = false)
    (h4 : 4 ≤ ((s.field f).links[d]).errors s.now b) (h0 : ((s.field f).links[d]).failures ≠ 0) (hh : ((s.field f).links[d]).half = false) :
    exec (.bundleFail f d b) s = .next (((s.modMesh f d fun k => { k with failed := k.failed ||| BitVec.ofNat 9 (2 ^ b.val) }).modMesh f d
      fun k => { k with half := true }).logEvent 0 0xB 0x01 kField f.val [BitVec.ofNat 8 d.val]) := by
  show execBundleFail f d b s = _
  refine congrArg Host.Outcome.next ((if_neg (bundleFail_guard h hf h4)).trans ((if_neg h0).trans (if_neg ?_)))
  rw [hh]
  decide

/-- A bundle that has failed, or has too few errors, changes nothing. -/
theorem bundleFail_of_not (h : linkExists f d = false ∨ ((s.field f).links[d]).failed.getLsbD b.val = true ∨
    ((s.field f).links[d]).errors s.now b < 4) : exec (.bundleFail f d b) s = .next s := by
  show execBundleFail f d b s = _
  refine congrArg Host.Outcome.next (if_pos ?_)
  simp only [Bool.or_eq_true, Bool.not_eq_true', decide_eq_true_eq]
  exact or_assoc.2 h

/-- A paused link resumes with a replay of the transmitter's retry buffer. -/
theorem bundleSpareResume_of_paused (h : ((s.field f).links[d]).paused = true) : exec (.bundleSpareResume f d) s =
    .next ((s.modMesh f d fun k => { k with paused := false, recent := [], stall := k.stall + 48 }).replayInto f d 16) := by
  show execBundleSpareResume f d s = _
  exact congrArg Host.Outcome.next (if_neg (by rw [h]; decide))

/-- A link that is not paused does not. -/
theorem bundleSpareResume_of_running (h : ((s.field f).links[d]).paused = false) : exec (.bundleSpareResume f d) s = .next s := by
  show execBundleSpareResume f d s = _
  exact congrArg Host.Outcome.next (if_pos (by rw [h]; rfl))

end

/-- A link rewritten twice, with an entry in the log. -/
theorem State.modMesh_twice_marked (s : State) (f : FieldIx) (d : DirIx) (h k : MeshLink → MeshLink) :
    (∀ g, g ≠ f → ((s.modMesh f d h).modMesh f d k).field g = s.field g) ∧
      (∀ e, e ≠ d → (((s.modMesh f d h).modMesh f d k).field f).links[e] = (s.field f).links[e]) ∧
      (((s.modMesh f d h).modMesh f d k).field f).links[d] = k (h ((s.field f).links[d])) := by
  refine ⟨fun g hg => ?_, fun e he => ?_, ?_⟩
  · rw [((s.modMesh f d h).modMesh_marked f d k).1 g hg, (s.modMesh_marked f d h).1 g hg]
  · rw [((s.modMesh f d h).modMesh_marked f d k).2 e he, (s.modMesh_marked f d h).2 e he]
  · rw [State.modMesh_link, State.modMesh_link]

/-- What BUNDLE_FAIL leaves: the link marked, and every other one as before. -/
theorem bundleFail_marks {s : State} {f : FieldIx} {d : DirIx} {b : Fin 9} (h : linkExists f d = true)
    (hf : ((s.field f).links[d]).failed.getLsbD b.val = false) (h4 : 4 ≤ ((s.field f).links[d]).errors s.now b) :
    let k := (s.field f).links[d]
    let failed := k.failed ||| BitVec.ofNat 9 (2 ^ b.val)
    answers (exec (.bundleFail f d b) s) fun u => (u = { s with fields := u.fields, flt := u.flt, out := u.out } ∧
      (∀ g, g ≠ f → u.field g = s.field g) ∧ (∀ e, e ≠ d → (u.field f).links[e] = (s.field f).links[e])) ∧
      (k.failures = 0 → (u.field f).links[d] =
        (if b.val = 8 then { k with failed := failed } else { k with failed := failed, spare := true, paused := true })) ∧
      (k.failures ≠ 0 → (u.field f).links[d] = { k with failed := failed, half := true }) := by
  intro k failed
  by_cases h0 : k.failures = 0
  · obtain ⟨hother, hdir, hlink⟩ := s.modMesh_twice_marked f d (fun k => { k with failed := k.failed ||| BitVec.ofNat 9 (2 ^ b.val) })
      fun k => if b.val = 8 then k else { k with spare := true, paused := true }
    exact ⟨_, bundleFail_of_first h hf h4 h0, ⟨rfl, hother, hdir⟩, fun _ => hlink, fun hn => absurd h0 hn⟩
  by_cases hh : k.half = true
  · obtain ⟨hother, hdir⟩ := s.modMesh_marked f d fun k => { k with failed := k.failed ||| BitVec.ofNat 9 (2 ^ b.val) }
    refine ⟨_, bundleFail_of_half h hf h4 h0 hh, ⟨rfl, hother, hdir⟩, fun he => absurd he h0, fun _ => ?_⟩
    rw [State.modMesh_link, ← hh]
  · obtain ⟨hother, hdir, hlink⟩ := s.modMesh_twice_marked f d (fun k => { k with failed := k.failed ||| BitVec.ofNat 9 (2 ^ b.val) })
      fun k => { k with half := true }
    refine ⟨_, bundleFail_of_second h hf h4 h0 (Bool.eq_false_iff.2 hh), ⟨?_, fun g hg => ?_, fun e he => ?_⟩,
      fun he => absurd he h0, fun _ => ?_⟩
    · rw [State.logEvent_only]
      rfl
    · rw [State.field, State.logEvent_fields]
      exact hother g hg
    · rw [State.field, State.logEvent_fields]
      exact hdir e he
    · rw [State.field, State.logEvent_fields]
      exact hlink

/-! ## A router that fails -/

/-- Every other sublink stays. -/
theorem State.modSub_sub_other (s : State) {g h : GroupIx} {u v : SubIx} (f : Sublink → Sublink) (hne : ¬ (h = g ∧ v = u)) :
    (s.modSub g u f).sub h v = s.sub h v := by
  by_cases hg : h = g
  · subst hg
    exact (congrArg (fun k : LinkGroup => k.sub[v.val]) (upd_same s.links h _)).trans (upd_other _ u v f fun e => hne ⟨rfl, e⟩)
  · exact congrArg (fun k : LinkGroup => k.sub[v.val]) (s.modSub_group_other g h u f hg)

/-- A fold that keeps what it needs and what it reaches, and reaches it at one of its elements, reaches it. -/
theorem foldl_reaches {α β : Type} {F : β → α → β} {R P : β → Prop} {x : α} {l : List α} (hx : x ∈ l)
    (hR : ∀ b a, R b → R (F b a)) (hP : ∀ b a, P b → P (F b a)) (hget : ∀ b, R b → P (F b x)) (b : β) (hb : R b) : P (l.foldl F b) := by
  induction l generalizing b with
  | nil => cases hx
  | cons y ys ih =>
    rcases List.mem_cons.1 hx with rfl | hx
    · exact List.foldlRecOn ys F (hget b hb) fun c hc a _ => hP c a hc
    · exact ih hx _ (hR b y hb)

/-- One sublink, dropped with the router of its port. -/
def State.dropOne (s : State) (f : FieldIx) (g : GroupIx) (u : SubIx) : State :=
  if attachField g u = f.val ∧ (s.sub g u).st ≠ .disabled then s.modSub g u fun k => { k.dropDown with dead := true } else s

/-- The sublinks of a router are dropped one after the other. -/
theorem State.dropAttached_eq (s : State) (f : FieldIx) : s.dropAttached f =
    (List.finRange 14).foldl (fun s g => (List.finRange 2).foldl (fun (s : State) (u : SubIx) => s.dropOne f g u) s) s := rfl

section
variable {s : State} {f : FieldIx} {g h : GroupIx} {u v : SubIx}

/-- A sublink that is dropped is DOWN for good. -/
theorem State.dropOne_sub (ha : attachField g u = f.val) (hst : (s.sub g u).st ≠ .disabled) :
    ((s.dropOne f g u).sub g u).st = .down ∧ ((s.dropOne f g u).sub g u).dead = true := by
  rw [State.dropOne, if_pos ⟨ha, hst⟩, State.modSub_sub]
  exact ⟨rfl, rfl⟩

/-- Dropping one sublink leaves another. -/
theorem State.dropOne_sub_other (hne : ¬ (g = h ∧ u = v)) : (s.dropOne f h v).sub g u = s.sub g u := by
  unfold State.dropOne
  split
  · exact s.modSub_sub_other _ hne
  · rfl

/-- A sublink that is DOWN for good stays so. -/
theorem State.dropOne_keeps_down (ha : attachField g u = f.val) (hd : (s.sub g u).st = .down ∧ (s.sub g u).dead = true) :
    ((s.dropOne f h v).sub g u).st = .down ∧ ((s.dropOne f h v).sub g u).dead = true := by
  by_cases hne : g = h ∧ u = v
  · obtain ⟨rfl, rfl⟩ := hne
    exact State.dropOne_sub ha (by rw [hd.1]; decide)
  · rwa [State.dropOne_sub_other hne]

/-- One that is in use stays in use, or DOWN. -/
theorem State.dropOne_keeps_used (ha : attachField g u = f.val) (hst : (s.sub g u).st ≠ .disabled) :
    ((s.dropOne f h v).sub g u).st ≠ .disabled := by
  by_cases hne : g = h ∧ u = v
  · obtain ⟨rfl, rfl⟩ := hne
    rw [(State.dropOne_sub ha hst).1]
    decide
  · rwa [State.dropOne_sub_other hne]

/-- Every sublink in use of the router's edge port goes DOWN (R54). -/
theorem State.dropAttached_sub (ha : attachField g u = f.val) (hst : (s.sub g u).st ≠ .disabled) :
    ((s.dropAttached f).sub g u).st = .down ∧ ((s.dropAttached f).sub g u).dead = true := by
  rw [State.dropAttached_eq]
  refine foldl_reaches (R := fun t : State => (t.sub g u).st ≠ .disabled) (P := fun t : State => (t.sub g u).st = .down ∧ (t.sub g u).dead = true)
    (List.mem_finRange g) (fun t h ht => ?_) (fun t h ht => ?_) (fun t ht => ?_) s hst
  · exact List.foldlRecOn (motive := fun t : State => (t.sub g u).st ≠ .disabled) _ _ ht fun w hw v _ =>
      State.dropOne_keeps_used ha hw
  · exact List.foldlRecOn (motive := fun t : State => (t.sub g u).st = .down ∧ (t.sub g u).dead = true) _ _ ht fun w hw v _ =>
      State.dropOne_keeps_down ha hw
  · exact foldl_reaches (F := fun (s : State) (u : SubIx) => s.dropOne f g u)
      (R := fun t : State => (t.sub g u).st ≠ .disabled) (P := fun t : State => (t.sub g u).st = .down ∧ (t.sub g u).dead = true)
      (List.mem_finRange u) (fun w v hw => State.dropOne_keeps_used ha hw) (fun w v hw => State.dropOne_keeps_down ha hw)
      (fun w hw => State.dropOne_sub ha hw) t ht

end

/-- Dropping sublinks changes the link groups alone. -/
theorem State.dropAttached_only (s : State) (f : FieldIx) : s.dropAttached f = { s with links := (s.dropAttached f).links } := by
  rw [State.dropAttached_eq]
  refine List.foldlRecOn (motive := fun t : State => t = { s with links := t.links }) _ _ rfl fun t ht g _ => ?_
  refine List.foldlRecOn (motive := fun t : State => t = { s with links := t.links }) _ _ ht fun w hw u _ => ?_
  unfold State.dropOne
  split
  · rw [hw]
    rfl
  · exact hw

/-- The service bit of dead routers changes the fault unit alone. -/
theorem State.routerService_only (s : State) : s.routerService = { s with flt := s.routerService.flt, out := s.routerService.out } := by
  unfold State.routerService
  split
  · rw [State.service_only, State.modEvent_only]
  · rfl

/-- A run that is abandoned is so. -/
theorem State.abandonNow_run (s : State) : s.abandonNow.pit.run = .abandoning := rfl

/-- Abandoning a run changes cores, collectives and the pitch unit. -/
theorem State.abandonNow_only (s : State) :
    s.abandonNow = { s with cores := s.abandonNow.cores, grd := s.abandonNow.grd, pit := s.abandonNow.pit } := rfl

/-- A fault of class 3 leaves no run that issues, and neither memory, the defect map nor the links change. -/
theorem State.faultRun_frame (s : State) :
    s.faultRun.issuing = false ∧ s.faultRun.nvm = s.nvm ∧ s.faultRun.mem = s.mem ∧ s.faultRun.links = s.links := by
  unfold State.faultRun
  split
  · exact ⟨by rw [State.issuing, State.abandonNow_run]; decide, by rw [State.abandonNow_only], by rw [State.abandonNow_only],
      by rw [State.abandonNow_only]⟩
  next h => exact ⟨Bool.eq_false_iff.2 h, rfl, rfl, rfl⟩

/-- A router already dead changes nothing. -/
theorem routerFailed_of_dead {s : State} {f : FieldIx} (h : s.deadRouter f = true) : exec (.routerFailed f) s = .next s := by
  exact congrArg Host.Outcome.next (if_pos h)

/-- One that was alive enters the defect map, its edge port's sublinks go DOWN, and the run ends. -/
theorem routerFailed_of_alive {s : State} {f : FieldIx} (h : s.deadRouter f = false) : exec (.routerFailed f) s =
    .next (((({ s with nvm := { s.nvm with badRouters := s.nvm.badRouters ++ [f] } }).logEvent 3 0xB 0x02 kField
      f.val).dropAttached f).routerService.faultRun) := by
  exact congrArg Host.Outcome.next (if_neg (by rw [h]; decide))

/-- Settles O24: `replayInto_modMesh` for the retries, `bundleFail_marks`, and `dropAttached_sub` for a router that fails. -/
theorem meshFailures : Obligations.MeshFailures := by
  refine ⟨fun s f d b back => ⟨fun h => ?_, fun h => bundleCrcRetry_of_none h back, bundleFail_marks, bundleFail_of_not, fun _ hp => ?_,
    bundleSpareResume_of_running⟩, fun s f => ⟨fun h => ⟨_, routerFailed_of_alive h, ?_⟩, routerFailed_of_dead⟩⟩
  · exact ⟨_, bundleCrcRetry_of_link h back, s.replayInto_modMesh f d _ _⟩
  · exact ⟨_, bundleSpareResume_of_paused hp, s.replayInto_modMesh f d _ _⟩
  generalize hw : ({ s with nvm := { s.nvm with badRouters := s.nvm.badRouters ++ [f] } } : State).logEvent 3 0xB 0x02 kField f.val = w
  have hnvm : w.nvm = { s.nvm with badRouters := s.nvm.badRouters ++ [f] } := by rw [← hw, State.logEvent_nvm]
  have hmem : w.mem = s.mem := by rw [← hw, State.logEvent_mem]
  have hlinks : w.links = s.links := by rw [← hw, State.logEvent_links]
  obtain ⟨hissue, hnvm', hmem', hlinks'⟩ := (w.dropAttached f).routerService.faultRun_frame
  have honly := (w.dropAttached f).routerService_only
  have hdrop := w.dropAttached_only f
  have hrun : (w.dropAttached f).routerService.faultRun.nvm = { s.nvm with badRouters := s.nvm.badRouters ++ [f] } :=
    hnvm'.trans ((congrArg State.nvm honly).trans ((congrArg State.nvm hdrop).trans hnvm))
  refine ⟨hrun, ?_, hissue, hmem'.trans ((congrArg State.mem honly).trans ((congrArg State.mem hdrop).trans hmem)), fun g b ha hst => ?_⟩
  · rw [State.deadRouter, hrun]
    simp
  · have hsub : (w.dropAttached f).routerService.faultRun.sub g b = (w.dropAttached f).sub g b := by
      simp only [State.sub, hlinks'.trans (congrArg State.links honly)]
    rw [hsub]
    refine State.dropAttached_sub ha ?_
    simp only [State.sub, hlinks]
    exact hst

end Sys2Proof.Machine
end

section
/-! PROOFS. The control network: nodes forward and serve, boundaries, barriers and credit grants (R58, R60, R61, R231, R322). -/

namespace Sys2Proof.Machine

/-! ## Folds -/

/-- A fold whose other steps keep what is seen of an element: what is seen at the end is what the element's own step makes of what was
seen at first. -/
theorem foldl_at {α β γ : Type} {F : β → α → β} {view : β → γ} {x : α} (hother : ∀ b y, y ≠ x → view (F b y) = view b) :
    ∀ (l : List α) (b : β), l.Nodup → x ∈ l → ∃ b', view b' = view b ∧ view (l.foldl F b) = view (F b' x)
  | [], _, _, hx => absurd hx List.not_mem_nil
  | y :: ys, b, hnd, hx => by
    obtain ⟨hy, hnd⟩ := List.nodup_cons.1 hnd
    rcases List.mem_cons.1 hx with rfl | hx
    · refine ⟨b, rfl, List.foldlRecOn (motive := fun c => view c = view (F b x)) ys F rfl fun c hc z hz => ?_⟩
      rw [hother c z fun e => hy (e ▸ hz), hc]
    · obtain ⟨b', hb', h⟩ := foldl_at hother ys (F b y) hnd hx
      exact ⟨b', hb'.trans (hother b y fun e => hy (e ▸ hx)), h⟩

/-- A fold none of whose steps changes what is seen. -/
theorem foldl_view {α β γ : Type} {F : β → α → β} {view : β → γ} (l : List α) (b : β) (h : ∀ b, ∀ y ∈ l, view (F b y) = view b) :
    view (l.foldl F b) = view b :=
  List.foldlRecOn (motive := fun c => view c = view b) l F rfl fun c hc y hy => (h c y hy).trans hc

/-- Erasing what a filter drops. -/
theorem filter_erase_of_neg {α : Type} [BEq α] [LawfulBEq α] {q : α → Bool} {t : α} (h : q t = false) :
    ∀ l : List α, (l.erase t).filter q = l.filter q
  | [] => rfl
  | x :: xs => by
    rw [List.erase_cons]
    split
    next hx => rw [beq_iff_eq.1 hx, List.filter_cons_of_neg (by simp [h])]
    next => rw [List.filter_cons, List.filter_cons, filter_erase_of_neg h xs]

/-- Erasing what a search passes over. -/
theorem find?_erase_of_neg {α : Type} [BEq α] [LawfulBEq α] {q : α → Bool} {t : α} (h : q t = false) (l : List α) :
    (l.erase t).find? q = l.find? q := by
  rw [← List.head?_filter, filter_erase_of_neg h, List.head?_filter]

/-! ## Forwarding and serving -/

/-- A message moves on: queues and routers change. -/
theorem State.ctlHop_only (s : State) (t : CtlTransit) : s.ctlHop t = { s with ctl := (s.ctlHop t).ctl, fields := (s.ctlHop t).fields } := by
  unfold State.ctlHop
  split
  · rfl
  · split
    · rfl
    · split
      · rfl
      · unfold State.ctlClear
        split <;> rfl

/-- Two changes of queues and routers are one. -/
theorem ctlOnly_trans {s t u : State} (h : t = { s with ctl := t.ctl, fields := t.fields })
    (h' : u = { t with ctl := u.ctl, fields := u.fields }) : u = { s with ctl := u.ctl, fields := u.fields } :=
  h'.trans (by rw [h])

/-- A round of turns changes no more. -/
theorem State.ctlHopAll_only (s : State) : s.ctlHopAll = { s with ctl := s.ctlHopAll.ctl, fields := s.ctlHopAll.fields } := by
  unfold State.ctlHopAll
  refine List.foldlRecOn (motive := fun t : State => t = { s with ctl := t.ctl, fields := t.fields }) _ _ rfl fun t ht x _ => ?_
  exact ctlOnly_trans ht (t.ctlHop_only x)

/-- Rounds of turns change no more. -/
theorem State.ctlHops_only (n : Nat) (s : State) : s.ctlHops n = { s with ctl := (s.ctlHops n).ctl, fields := (s.ctlHops n).fields } := by
  induction n generalizing s with
  | zero => rfl
  | succ n ih => exact ctlOnly_trans s.ctlHopAll_only (ih s.ctlHopAll)

/-- Forwarding changes queues and routers. -/
theorem State.ctlFlow_only (s : State) : s.ctlFlow = { s with ctl := s.ctlFlow.ctl, fields := s.ctlFlow.fields } :=
  State.ctlHops_only 32 s

section
variable {s v : State} {f : FieldIx} {ok : CtlMsg → Bool}

/-- A message that its node serves takes its effect. -/
theorem State.ctlArrive_of_serves (h : s.nodeServes f ok v) (eff : State → State) : s.ctlArrive f ok eff = eff v := by
  unfold State.nodeServes at h
  unfold State.ctlArrive
  generalize s.ctlFlow = w at *
  obtain ⟨t, ht, rfl⟩ := h
  simp only [ht]

/-- Where no node serves one, the nodes have forwarded. -/
theorem State.ctlArrive_of_none (h : s.ctlFlow.ctlServed f ok = none) (eff : State → State) : s.ctlArrive f ok eff = s.ctlFlow := by
  unfold State.ctlArrive
  generalize s.ctlFlow = w at *
  simp only [h]

/-- What is served stands at the node. -/
theorem State.ctlServed_at {t : CtlTransit} (h : s.ctlServed f ok = some t) : t.at_ = f := by
  have := List.mem_of_find?_eq_some h
  simp only [State.ctlStanding, List.mem_filter, Bool.and_eq_true, beq_iff_eq] at this
  exact this.2.1.1.1

/-- A node serves what stands there, whatever leaves another node. -/
theorem State.ctlServed_erase {t : CtlTransit} (h : t.at_ ≠ f) : ({ s with ctl := s.ctl.erase t } : State).ctlServed f ok = s.ctlServed f ok := by
  have hstand : ({ s with ctl := s.ctl.erase t } : State).ctlStanding f = s.ctlStanding f := by
    unfold State.ctlStanding
    rw [filter_erase_of_neg (by simp [h])]
    refine List.filter_congr fun x _ => ?_
    by_cases hx : x.at_ = f
    · have hlead : ({ s with ctl := s.ctl.erase t } : State).ctlLeads x = s.ctlLeads x := by
        unfold State.ctlLeads
        rw [find?_erase_of_neg]
        exact Bool.and_eq_false_imp.2 fun hq => by simp [hx, Ne.symm h] at hq
      rw [hlead]
    · rw [beq_eq_false_iff_ne.2 hx]
      rfl
  simp only [State.ctlServed, hstand]

/-- What a node serves rests on the queues alone. -/
theorem State.ctlServed_congr {u : State} (h : u.ctl = s.ctl) : u.ctlServed f ok = s.ctlServed f ok := by
  simp only [State.ctlServed, State.ctlStanding, State.ctlLeads, h]

end

/-! ## The cores of a node -/

theorem coreField_coreOf (f : FieldIx) (i : Fin 4) : coreField (coreOf f i) = f := by
  apply Fin.ext
  simp only [coreField, coreOf]
  omega

theorem coreOf_coreLocal (c : CoreIx) : coreOf (coreField c) (coreLocal c) = c := by
  apply Fin.ext
  simp only [coreField, coreOf, coreLocal]
  omega

/-- The cores of a node rewritten. -/
def State.modNode (s : State) (f : FieldIx) (h : Core → Core) : State := (List.finRange 4).foldl (fun s i => s.modCore (coreOf f i) h) s

/-- A node's cores change, and nothing else. -/
theorem State.modNode_only (s : State) (f : FieldIx) (h : Core → Core) : s.modNode f h = { s with cores := (s.modNode f h).cores } := by
  unfold State.modNode
  refine List.foldlRecOn (motive := fun t : State => t = { s with cores := t.cores }) _ _ rfl fun t ht x _ => ?_
  exact (t.modCore_only (coreOf f x) h).1.trans (by rw [ht])

/-- Cores elsewhere stay. -/
theorem State.modNode_core_other (s : State) {f : FieldIx} (h : Core → Core) {c : CoreIx} (hc : coreField c ≠ f) :
    (s.modNode f h).core c = s.core c :=
  foldl_view (view := fun t : State => t.core c) _ s fun _ i _ => State.modCore_core_other _ _ _ _ fun e => hc (e ▸ coreField_coreOf f i)

/-- Each of the node's cores is rewritten once. -/
theorem State.modNode_core (s : State) {f : FieldIx} (h : Core → Core) {c : CoreIx} (hc : coreField c = f) :
    (s.modNode f h).core c = h (s.core c) := by
  subst hc
  have hne : ∀ i, i ≠ coreLocal c → c ≠ coreOf (coreField c) i := fun i hi e => hi (Fin.ext (by
    have := congrArg Fin.val e
    simp only [coreOf, coreField, coreLocal] at this ⊢
    omega))
  obtain ⟨t, ht, hview⟩ := foldl_at (F := fun (s : State) i => s.modCore (coreOf (coreField c) i) h) (view := fun t : State => t.core c)
    (fun _ i hi => State.modCore_core_other _ _ _ _ (hne i hi)) (List.finRange 4) s (List.nodup_finRange 4) (List.mem_finRange _)
  refine hview.trans ?_
  rw [coreOf_coreLocal, State.modCore_core]
  exact congrArg h ht

/-! ## Boundaries -/

section
variable (s : State) (f : FieldIx) (b : W64)

/-- A node's boundary is set in its field, then its cores leave their guard time. -/
theorem State.setNodeBound_eq : s.setNodeBound f b =
    (s.modField f fun k => { k with bound := b, begun := if k.bound.toNat ≤ s.nodeCount f then k.bound else k.begun }).modNode f
      fun k => { k with guarded := false } := rfl

/-- Setting a boundary changes routers and cores. -/
theorem State.setNodeBound_only : s.setNodeBound f b = { s with fields := (s.setNodeBound f b).fields, cores := (s.setNodeBound f b).cores } := by
  rw [State.setNodeBound_eq, State.modNode_only]
  rfl

/-- Routers as the boundary leaves them. -/
theorem State.setNodeBound_fields : (s.setNodeBound f b).fields =
    (s.modField f fun k => { k with bound := b, begun := if k.bound.toNat ≤ s.nodeCount f then k.bound else k.begun }).fields := by
  rw [State.setNodeBound_eq, State.modNode_only]

/-- The node's boundary and its cores' guard time, and no other node's or core's. -/
theorem State.setNodeBound_spec : (∀ g, g ≠ f → (s.setNodeBound f b).field g = s.field g) ∧
    (s.setNodeBound f b).field f = { s.field f with
      bound := b, begun := if (s.field f).bound.toNat ≤ s.nodeCount f then (s.field f).bound else (s.field f).begun } ∧
    (∀ c, coreField c ≠ f → (s.setNodeBound f b).core c = s.core c) ∧
    ∀ c, coreField c = f → (s.setNodeBound f b).core c = { s.core c with guarded := false } := by
  refine ⟨fun g hg => ?_, ?_, fun c hc => ?_, fun c hc => ?_⟩
  · rw [State.field, State.setNodeBound_fields]
    exact State.modField_field_other _ _ _ _ hg
  · rw [State.field, State.setNodeBound_fields]
    exact State.modField_field _ _ _
  · exact State.modNode_core_other _ _ hc
  · exact State.modNode_core _ _ hc

/-- A tick at or behind a replica is logged and counted; short of the third of a run no more happens. -/
theorem State.tickClash_spec (h : s.pit.tickBad ≠ 2) :
    s.tickClash f = { s with flt := (s.tickClash f).flt, out := (s.tickClash f).out, pit := { s.pit with tickBad := s.pit.tickBad + 1 } } ∧
      logHolds (s.tickClash f).flt.log (faultCode 0 5 6) (BitVec.ofNat 8 kField) (BitVec.ofNat 8 f.val) := by
  have hpit : (State.logEvent { s with pit := { s.pit with tickBad := s.pit.tickBad + 1 } } 0 5 6 kField f.val).pit =
      { s.pit with tickBad := s.pit.tickBad + 1 } := State.logEvent_pit _ _ _ _ _ _ _
  have hclash : s.tickClash f = State.logEvent { s with pit := { s.pit with tickBad := s.pit.tickBad + 1 } } 0 5 6 kField f.val :=
    if_neg fun e => h (by rw [hpit] at e; exact Nat.succ.inj e)
  rw [hclash]
  exact ⟨State.logEvent_only _ _ _ _ _ _ _, State.logHolds_logEvent _ _ _ _ _ _ _⟩

end

section
variable {s v : State} {f : FieldIx} {b : W64}

/-- A tick that its node serves sets the boundary; a tick at or behind a set replica is a disagreement. -/
theorem ctlTick_of_serves (h : s.nodeServes f (isCount 1 b.toNat) v) : exec (.ctlTick f b) s =
    .next (if (v.field f).replica = none ∨ v.nodeCount f < b.toNat then v.setNodeBound f b else (v.setNodeBound f b).tickClash f) := by
  show execCtlTick f b s = _
  rw [execCtlTick, State.ctlArrive_of_serves h]
  refine congrArg Host.Outcome.next ?_
  dsimp only
  by_cases hn : (v.field f).replica = none ∨ v.nodeCount f < b.toNat
  · rw [if_pos hn, if_neg fun e => ?_]
    obtain ⟨hset, hle⟩ := Bool.and_eq_true_iff.1 e
    rcases hn with hn | hn
    · rw [hn] at hset
      cases hset
    · exact absurd (of_decide_eq_true hle) (by omega)
  · obtain ⟨hset, hle⟩ := not_or.1 hn
    rw [if_neg hn, if_pos]
    exact Bool.and_eq_true_iff.2 ⟨Option.isSome_iff_ne_none.2 hset, decide_eq_true (by omega)⟩

/-- A hold grant that its node serves sets the boundary. -/
theorem ctlHoldGrant_of_serves (h : s.nodeServes f (isCount 3 b.toNat) v) : exec (.ctlHoldGrant f b) s = .next (v.setNodeBound f b) := by
  show execCtlHoldGrant f b s = _
  rw [execCtlHoldGrant, State.ctlArrive_of_serves h]

end

/-! ## The GCNT broadcast -/

section
variable (s : State) (b : W64) {f g : FieldIx}

/-- Synchronising one node changes queues and routers. -/
theorem State.syncNode_only (f : FieldIx) : s.syncNode b f = { s with ctl := (s.syncNode b f).ctl, fields := (s.syncNode b f).fields } := by
  unfold State.syncNode
  split <;> rfl

/-- A node that serves the broadcast takes its count. -/
theorem State.syncNode_field : (s.syncNode b f).field f = { s.field f with
    replica := if (s.ctlServed f (isCount 0xC b.toNat)).isSome then some ((b.toNat : Int) - s.gcnt) else (s.field f).replica } := by
  unfold State.syncNode
  split
  next t ht => rw [State.modField_field, ht]; rfl
  next ht => rw [ht]; rfl

/-- No other node does, and what it serves stays. -/
theorem State.syncNode_other (h : g ≠ f) :
    ((s.syncNode b f).field g, (s.syncNode b f).ctlServed g (isCount 0xC b.toNat), (s.syncNode b f).gcnt) =
      (s.field g, s.ctlServed g (isCount 0xC b.toNat), s.gcnt) := by
  unfold State.syncNode
  split
  next t ht =>
    rw [State.modField_field_other _ _ _ _ h]
    have hserved := State.ctlServed_erase (s := s) (f := g) (ok := isCount 0xC b.toNat) (t := t) (by rw [State.ctlServed_at ht]; exact h.symm)
    refine Prod.ext rfl (Prod.ext ?_ rfl)
    exact hserved ▸ State.ctlServed_congr rfl
  next => rfl

end

/-- The broadcast at every node. -/
theorem State.syncAll_spec (s : State) (b : W64) : let u := (List.finRange 64).foldl (fun s f => s.syncNode b f) s
    u = { s with fields := u.fields, ctl := u.ctl } ∧ ∀ g, u.field g = { s.field g with
      replica := if (s.ctlServed g (isCount 0xC b.toNat)).isSome then some ((b.toNat : Int) - s.gcnt) else (s.field g).replica } := by
  refine ⟨?_, fun g => ?_⟩
  · refine List.foldlRecOn (motive := fun t : State => t = { s with fields := t.fields, ctl := t.ctl }) _ _ rfl fun t ht f _ => ?_
    exact ctlOnly_trans ht (t.syncNode_only b f)
  · obtain ⟨t, ht, hview⟩ := foldl_at (F := fun (s : State) f => s.syncNode b f)
      (view := fun t : State => (t.field g, t.ctlServed g (isCount 0xC b.toNat), t.gcnt)) (x := g) (fun t f hf => t.syncNode_other b hf.symm)
      (List.finRange 64) s (List.nodup_finRange 64) (List.mem_finRange g)
    obtain ⟨hfield, hrest⟩ := Prod.ext_iff.1 ht
    obtain ⟨hserved, hcount⟩ := Prod.ext_iff.1 hrest
    refine (Prod.ext_iff.1 hview).1.trans ?_
    dsimp only at hfield hserved hcount ⊢
    rw [State.syncNode_field, hfield, hserved, hcount]

/-- Queues and routers leave GCNT. -/
theorem ctlOnly_gcnt {s t : State} (h : t = { s with ctl := t.ctl, fields := t.fields }) : t.gcnt = s.gcnt := by
  rw [h]
  rfl

/-- Forwarding keeps GCNT. -/
theorem State.ctlFlow_gcnt (s : State) : s.ctlFlow.gcnt = s.gcnt := ctlOnly_gcnt s.ctlFlow_only

/-! ## Barriers -/

section
variable (p : Pit) (bar : BitVec 12) (n : Nat)

/-- What is counted at a barrier once it is set. -/
theorem Pit.setArrived_arrived : (p.setArrived bar n).arrived bar = n := by
  unfold Pit.setArrived Pit.arrived
  by_cases hn : n = 0
  · have hnone : (p.arrivals.filter fun x => x.1 != bar).find? (fun x => x.1 == bar) = none := by
      rw [List.find?_eq_none]
      intro x hx
      simpa using (List.mem_filter.1 hx).2
    simp only [hn, if_true, hnone]
  · simp [hn]

/-- Other barriers keep theirs. -/
theorem Pit.setArrived_other {b : BitVec 12} (h : b ≠ bar) : (p.setArrived bar n).arrived b = p.arrived b := by
  have hfind : (p.arrivals.filter fun x => x.1 != bar).find? (fun x => x.1 == b) = p.arrivals.find? fun x => x.1 == b := by
    rw [List.find?_filter]
    congr 1
    funext x
    by_cases hx : x.1 = b
    · simp [hx, h]
    · simp [hx]
  unfold Pit.setArrived Pit.arrived
  by_cases hn : n = 0
  · simp only [hn, if_true, hfind]
  · simp only [hn, if_false, List.find?_cons, beq_eq_false_iff_ne.2 (Ne.symm h), hfind]

end

/-- A broadcast changes queues, the log and what leaves the module. -/
theorem State.tellAll_only (s : State) (m : CtlMsg) :
    s.tellAll m = { s with ctl := (s.tellAll m).ctl, flt := (s.tellAll m).flt, out := (s.tellAll m).out } := by
  unfold State.tellAll
  refine List.foldlRecOn (motive := fun t : State => t = { s with ctl := t.ctl, flt := t.flt, out := t.out }) _ _ rfl fun t ht f _ => ?_
  exact (t.tell_only _).trans (by rw [ht])

/-- A broadcast that no failed link stops waits at its source for every node. -/
theorem State.tellAll_ctl {s : State} {m : CtlMsg} {f : FieldIx} (hm : m.bcast = true)
    (h : s.ctlBlocked { m with dest := f } m.plane = false) : { msg := { m with dest := f }, at_ := m.src } ∈ (s.tellAll m).ctl := by
  have hcuts : ∀ {t : State}, t.fields = s.fields → t.ctlBlocked { m with dest := f } m.plane = false := fun ht => by
    simpa only [State.ctlBlocked, State.ctlCuts, ht] using h
  have hcast : ({ m with dest := f, bcast := true } : CtlMsg) = { m with dest := f } := by rw [← hm]
  refine foldl_reaches (F := fun (s : State) f => s.tell { m with dest := f, bcast := true }) (R := fun t : State => t.fields = s.fields)
    (P := fun t : State => { msg := { m with dest := f }, at_ := m.src } ∈ t.ctl) (List.mem_finRange f)
    (fun t g ht => ?_) (fun t g ht => ?_) (fun t ht => ?_) s rfl
  · exact (State.tell_fields _ _).trans ht
  · obtain ⟨l, hl⟩ := t.tell_ctl_append { m with dest := g, bcast := true }
    exact hl ▸ List.mem_append_left l ht
  · rw [hcast, State.tell_of_clear (m := { m with dest := f }) (hcuts ht)]
    exact List.mem_append_right _ (List.mem_singleton.2 rfl)

section
variable {s v : State} {bar : BitVec 12} {src : FieldIx}

/-- An arrival at a barrier of no image, or while no run is active, is only taken. -/
theorem barrierArrival_of_not (h : s.nodeServes pitField (fun m => m.typ == 4 && m.arg == bar && m.src == src) v)
    (hno : v.image.barriers.find? (fun b => b.1 == bar) = none ∨ v.running = false) : exec (.barrierArrival bar src) s = .next v := by
  show execBarrierArrival bar src s = _
  rw [execBarrierArrival, State.ctlArrive_of_serves h]
  refine congrArg Host.Outcome.next ?_
  dsimp only
  split
  · rfl
  next b hb =>
    rcases hno with hno | hno
    · rw [hno] at hb
      cases hb
    · exact if_pos (by rw [hno]; rfl)

/-- One of the running image below its count is counted. -/
theorem barrierArrival_of_counted {n : Nat} (h : s.nodeServes pitField (fun m => m.typ == 4 && m.arg == bar && m.src == src) v)
    (hb : v.image.barriers.find? (fun b => b.1 == bar) = some (bar, n)) (hrun : v.running = true) (hn : v.pit.arrived bar + 1 < n) :
    exec (.barrierArrival bar src) s = .next { v with pit := v.pit.setArrived bar (v.pit.arrived bar + 1) } := by
  show execBarrierArrival bar src s = _
  rw [execBarrierArrival, State.ctlArrive_of_serves h]
  refine congrArg Host.Outcome.next ?_
  simp only [hb]
  exact (if_neg (by rw [hrun]; decide)).trans (if_pos hn)

/-- The arrival that reaches the count releases the barrier. -/
theorem barrierArrival_of_last {n : Nat} (h : s.nodeServes pitField (fun m => m.typ == 4 && m.arg == bar && m.src == src) v)
    (hb : v.image.barriers.find? (fun b => b.1 == bar) = some (bar, n)) (hrun : v.running = true) (hn : n ≤ v.pit.arrived bar + 1) :
    exec (.barrierArrival bar src) s = .next (State.tellAll { v with pit := v.pit.setArrived bar 0 } (releaseMsg bar)) := by
  show execBarrierArrival bar src s = _
  rw [execBarrierArrival, State.ctlArrive_of_serves h]
  refine congrArg Host.Outcome.next ?_
  simp only [hb]
  exact (if_neg (by rw [hrun]; decide)).trans (if_neg (by omega))

/-- A release that its node serves is noted by every task context of its cores. -/
theorem barrierRelease_of_serves {f : FieldIx} (h : s.nodeServes f (fun m => m.typ == 5 && m.arg == bar) v) :
    exec (.barrierRelease f bar) s = .next (v.modNode f fun k => { k with tasks := k.tasks.map fun t => t.release bar }) := by
  show execBarrierRelease f bar s = _
  rw [execBarrierRelease, State.ctlArrive_of_serves h]
  rfl

end

/-- A release noted. -/
theorem Task.mem_release (k : Task) (bar b : BitVec 12) : b ∈ (k.release bar).released ↔ b = bar ∨ b ∈ k.released := by
  by_cases hb : b = bar
  · simp [Task.release, hb]
  · simp [Task.release, hb]

/-- The task contexts once a release has been noted at their node. -/
theorem State.released_task (s : State) {f : FieldIx} (bar : BitVec 12) {c : CoreIx} (t : TaskIx) (hc : coreField c = f) :
    (s.modNode f fun k => { k with tasks := k.tasks.map fun t => t.release bar }).task c t = (s.task c t).release bar := by
  exact (congrArg (fun k : Core => k.tasks[t]) (s.modNode_core _ hc)).trans (Vector.getElem_map _ _)

/-- Settles O25: boundaries by `setNodeBound_spec`, the broadcast by `syncAll_spec`, barriers by the rules above. -/
theorem boundariesAndBarriers : Obligations.BoundariesAndBarriers := by
  refine ⟨fun s v f b => ?_, fun s v bar src f n => ⟨fun h => ⟨fun hb hrun => ⟨fun hn => ?_, fun hn => ?_⟩, barrierArrival_of_not h⟩,
    fun h => ?_, fun h => ⟨_, barrierRelease_of_serves h, State.modNode_only _ _ _, fun i t => ?_, fun c t x hx => ?_, fun c hc => ?_⟩,
    fun h => ?_⟩⟩
  · obtain ⟨hother, hfield, hcore, hguard⟩ := v.setNodeBound_spec f b
    refine ⟨fun h => ⟨fun ha => ⟨_, (ctlTick_of_serves h).trans (by rw [if_pos ha]), ⟨hother, hfield, hcore, hguard⟩, v.setNodeBound_only f b⟩,
      fun ha hbad => ?_, ctlTick_of_serves h⟩, fun h => ?_, fun h => ⟨_, ctlHoldGrant_of_serves h, ⟨hother, hfield, hcore, hguard⟩,
      v.setNodeBound_only f b⟩, fun h => ?_, ?_⟩
    · have hpit : (v.setNodeBound f b).pit = v.pit := by rw [State.setNodeBound_only]
      obtain ⟨honly, x, hx, hcode, -, hsrc⟩ := (v.setNodeBound f b).tickClash_spec f (by rw [hpit]; exact hbad)
      have hset := v.setNodeBound_only f b
      refine ⟨_, (ctlTick_of_serves h).trans (by rw [if_neg ha]), ?_, ?_, ?_, x, hx, hcode, hsrc⟩
      · rw [honly]
        exact ⟨hother, hfield, hcore, hguard⟩
      · rw [honly, hset]
      · rw [honly, hpit]
    · exact congrArg Host.Outcome.next (State.ctlArrive_of_none h _)
    · exact congrArg Host.Outcome.next (State.ctlArrive_of_none h _)
    · have hsync := s.ctlFlow.syncAll_spec b
      rw [State.ctlFlow_gcnt] at hsync
      exact ⟨_, rfl, hsync⟩
  · exact ⟨_, barrierArrival_of_counted h hb hrun hn, rfl, rfl, Pit.setArrived_arrived _ _ _, fun b hne => Pit.setArrived_other _ _ _ hne⟩
  · refine ⟨_, barrierArrival_of_last h hb hrun hn, ?_, ?_, ?_, fun g hg => ?_⟩
    · rw [State.tellAll_only]
      exact Pit.setArrived_arrived _ _ _
    · rw [State.tellAll_only]
    · rw [State.tellAll_only]
    · exact State.tellAll_ctl rfl hg
  · exact congrArg Host.Outcome.next (State.ctlArrive_of_none h _)
  · rw [State.released_task _ _ _ (coreField_coreOf f i), Task.mem_release]
    exact .inl rfl
  · by_cases hc : coreField c = f
    · rw [State.released_task _ _ _ hc, Task.mem_release]
      exact or_iff_right hx
    · exact iff_of_eq (congrArg (fun k : Core => x ∈ (k.tasks[t]).released) (v.modNode_core_other _ hc))
  · exact State.modNode_core_other _ _ hc
  · exact congrArg Host.Outcome.next (State.ctlArrive_of_none h _)

/-! ## Credit grants -/

/-- A context rewritten, and every other one as before. -/
theorem State.modCtx_ctx (s : State) {h : Ctx → Ctx} (hh : ∀ k, (h k).decl.ctx = k.decl.ctx) (x y : BitVec 16) :
    (s.modCtx x h).ctx? y = (s.ctx? y).map fun k => if k.decl.ctx == x then h k else k := by
  unfold State.modCtx State.ctx?
  rw [List.find?_map]
  congr 2
  funext k
  dsimp only [Function.comp]
  split
  · rw [hh]
  · rfl

/-- A context found by its number has it. -/
theorem State.ctx_ctx {s : State} {x : BitVec 16} {k : Ctx} (h : s.ctx? x = some k) : k.decl.ctx = x :=
  beq_iff_eq.1 (List.find?_some (p := fun k : Ctx => k.decl.ctx == x) h)

section
variable (s : State) (c : CoreIx) (x : BitVec 16) (n : Nat)

/-- What a credit grant adds: credits held on the context, and on an intake context landing credits at the core's router. -/
def State.grantHeld : State :=
  let s2 := s.modCtx x fun k => { k with held := k.held + n }
  if s.intakeCtx x then s2.modField (coreField c) fun k => k.setLandCredits (coreLocal c) x (k.landCredits (coreLocal c) x + n) else s2

/-- A grant changes the fabric's contexts and a router. -/
theorem State.grantHeld_only : s.grantHeld c x n = { s with fab := (s.grantHeld c x n).fab, fields := (s.grantHeld c x n).fields } := by
  unfold State.grantHeld
  split <;> rfl

/-- The contexts are those with the credits added. -/
theorem State.grantHeld_ctx (y : BitVec 16) :
    (s.grantHeld c x n).ctx? y = (s.ctx? y).map fun k => if k.decl.ctx == x then { k with held := k.held + n } else k := by
  refine Eq.trans ?_ (s.modCtx_ctx (h := fun k => { k with held := k.held + n }) (fun _ => rfl) x y)
  unfold State.grantHeld
  split <;> rfl

/-- Routers elsewhere stay. -/
theorem State.grantHeld_field_other {f : FieldIx} (h : f ≠ coreField c) : (s.grantHeld c x n).field f = s.field f := by
  unfold State.grantHeld
  dsimp only
  split
  · exact State.modField_field_other _ _ _ _ h
  · rfl

/-- The landing credits at the core's router. -/
theorem State.grantHeld_landCredits : ((s.grantHeld c x n).field (coreField c)).landCredits (coreLocal c) x =
    (s.field (coreField c)).landCredits (coreLocal c) x + (if s.intakeCtx x then n else 0) := by
  unfold State.grantHeld
  dsimp only
  split
  · rw [State.modField_field]
    simp only [Field.landCredits, Field.setLandCredits, List.find?_cons, beq_self_eq_true, Bool.and_self]
    rfl
  · rfl

end

/-- Settles O26: what a served grant adds is `grantHeld`. -/
theorem creditGrantsAreHeld : Obligations.CreditGrantsAreHeld := by
  intro s v c ctx n mine
  refine ⟨fun h => ⟨v.grantHeld c ctx n.toNat, ?_, fun k hk => ?_, fun x hx => ?_, v.grantHeld_landCredits c ctx _,
    fun f hf => v.grantHeld_field_other c ctx _ hf, v.grantHeld_only c ctx _⟩, fun h => ?_, s.ctlFlow_only⟩
  · exact congrArg Host.Outcome.next (State.ctlArrive_of_serves h _)
  · rw [State.grantHeld_ctx, hk, Option.map_some, if_pos (beq_iff_eq.2 (State.ctx_ctx hk))]
  · rw [State.grantHeld_ctx]
    cases hk : v.ctx? x with
    | none => rfl
    | some k => rw [Option.map_some, if_neg fun e => hx ((State.ctx_ctx hk).symm.trans (beq_iff_eq.1 e))]
  · exact congrArg Host.Outcome.next (State.ctlArrive_of_none h _)

end Sys2Proof.Machine
end

section
/-! PROOFS. Configuration and fence messages, parity retries, and writes of CSR space (R55, R57, R62, R412, R447, R490 to R497). -/

namespace Sys2Proof.Machine

/-! ## What a router keeps -/

/-- A rewritten router is the only thing that changes. -/
theorem State.modField_onlyField (s : State) (f : FieldIx) (h : Field → Field) : onlyField f s (s.modField f h) :=
  ⟨rfl, fun _ hg => State.modField_field_other _ _ _ _ hg⟩

/-- A read of a word changes latches alone. -/
theorem State.readWord_only (s : State) (p : Path) (off : Nat) : (s.readWord p off).2 = { s with latch := (s.readWord p off).2.latch } := by
  unfold State.readWord
  split
  · rfl
  · rfl
  · split <;> rfl

section
variable (s : State) (f : FieldIx) (v : W32)

/-- FLD_XBAR_CFG takes ILV. -/
theorem State.fieldTake_ilv : s.fieldTake f 0x100 v = s.modField f fun k => { k with ilv := bit v.toNat 16 } := if_pos rfl

/-- FLD_RTR_FAULT takes a word. -/
theorem State.fieldTake_fault (i : Fin 8) :
    s.fieldTake f (0x1000 + 4 * i.val) v = s.modField f fun k => { k with faultTab := upd k.faultTab i fun _ => v } := by
  have hi : (⟨(0x1000 + 4 * i.val - 0x1000) / 4 % 8, Nat.mod_lt _ (by decide)⟩ : Fin 8) = i := Fin.ext (by dsimp only; omega)
  rw [State.fieldTake, if_neg (by omega), if_pos (by omega), hi]

/-- FLD_CLK_BOUND of a core takes its bits. -/
theorem State.fieldTake_bound (c : Fin 4) :
    s.fieldTake f (0x20000 + 0x4000 * c.val + 0x20) v = s.modCore (coreOf f c) fun k => { k with bound := v &&& 0xFF } := by
  have hc : (⟨(0x20000 + 0x4000 * c.val + 0x20 - 0x20000) / 0x4000 % 4, Nat.mod_lt _ (by decide)⟩ : Fin 4) = c := Fin.ext (by dsimp only; omega)
  rw [State.fieldTake, if_neg (by omega), if_neg (by omega), hc]

variable (p : Path) {off : BitVec 18}

/-- A write that the register admits. -/
theorem State.writeField_of_admitted (h4 : off.toNat % 4 = 0) (h : fieldAdmits p off.toNat = true) :
    s.writeField p f off v = s.fieldTake f off.toNat v := if_pos ⟨h4, h⟩

/-- One that it does not is refused, unless it leaves ILV as it is. -/
theorem State.writeField_of_refused (h : fieldAdmits p off.toNat = false) (hilv : off.toNat ≠ 0x100 ∨ bit v.toNat 16 ≠ (s.field f).ilv) :
    s.writeField p f off v = s.refuse p (fldOff f off) := by
  have hadm : ¬ (off.toNat % 4 = 0 ∧ fieldAdmits p off.toNat = true) := fun e => by
    rw [h] at e
    cases e.2
  have hsame : ¬ (off.toNat = 0x100 ∧ bit v.toNat 16 = (s.field f).ilv) := fun e => hilv.elim (· e.1) (· e.2)
  rw [State.writeField, if_neg hadm, State.fieldRefuse, if_neg hsame]

end

section
variable {s v : State} {p : Path} {f : FieldIx} {off : BitVec 18} {x : W32}

/-- A configuration write that its field serves. -/
theorem ctlConfigWrite_of_serves (h : s.nodeServes f (sameMsg (cfgMsg 8 f (entryField p) off [x])) v) :
    exec (.ctlConfigWrite p f off x) s = .next (v.writeField p f off x) :=
  congrArg Host.Outcome.next (State.ctlArrive_of_serves h _)

/-- A configuration read that its field serves is answered. -/
theorem ctlConfigRead_of_serves (h : s.nodeServes f (sameMsg (cfgMsg 9 f (entryField p) off [])) v) : exec (.ctlConfigRead p f off) s =
    .next ((v.readWord p (fldOff f off).toNat).2.tell (cfgMsg 0xA (entryField p) f off [(v.readWord p (fldOff f off).toNat).1])) :=
  congrArg Host.Outcome.next (State.ctlArrive_of_serves h _)

end

/-! ## Fences -/

/-- A fence bit set or cleared. -/
theorem fence_bit (b : BitVec 88) (d e : DomIx) (raised : Bool) :
    (if raised then b ||| (1#88 <<< d.val) else b &&& ~~~(1#88 <<< d.val)).getLsbD e.val = if e = d then raised else b.getLsbD e.val := by
  have hshift : (1#88 <<< d.val).getLsbD e.val = decide (e = d) := by
    by_cases he : e = d
    · subst he
      simp [e.isLt]
    · have hne : e.val ≠ d.val := fun h => he (Fin.ext h)
      by_cases hlt : e.val < d.val
      · simp [hlt, he]
      · have : 0 < e.val - d.val := by omega
        simp [hlt, he, Nat.ne_of_gt this]
  cases raised with
  | true =>
    rw [if_pos rfl, BitVec.getLsbD_or, hshift]
    by_cases he : e = d <;> simp [he]
  | false =>
    rw [if_neg Bool.false_ne_true, BitVec.getLsbD_and, BitVec.getLsbD_not, hshift]
    by_cases he : e = d <;> simp [he]

/-! ## Parity -/

section
variable {s : State} {f : FieldIx} {k : Fin 4} {m : CtlMsg} {word : W32} {parity : BitVec 2}

/-- A word with the right parity, and one on no link or on a failed one, is no failure. -/
theorem ctlParityFail_of_not (h : ctlParity word = parity ∨ neighbour f k = none ∨ (s.field f).ctlFailed[k] = true) :
    exec (.ctlParityFail f k (m, word, parity)) s = .next s := by
  refine congrArg Host.Outcome.next (if_pos ?_)
  simp only [Bool.or_eq_true, decide_eq_true_eq, Option.isNone_iff_eq_none]
  exact or_assoc.2 h

section
variable (hp : ctlParity word ≠ parity) (hn : neighbour f k ≠ none) (hf : (s.field f).ctlFailed[k] = false)
include hp hn hf

/-- A failure is one of a live link. -/
theorem ctlParityFail_guard :
    ¬ ((decide (ctlParity word = parity) || (neighbour f k).isNone || (s.field f).ctlFailed[k]) = true) := by
  rw [decide_eq_false hp, hf, Option.isNone_eq_false_iff.2 (Option.isSome_iff_ne_none.2 hn)]
  decide

/-- A failure of a word retried less than 3 times. -/
theorem ctlParityFail_of_retried (h : parityCount (s.field f).ctlRetry[k] m ≤ 3) : exec (.ctlParityFail f k (m, word, parity)) s =
    .next (s.modField f fun x => { x with ctlRetry := upd x.ctlRetry k fun _ => some (m, parityCount (s.field f).ctlRetry[k] m) }) :=
  congrArg Host.Outcome.next ((if_neg (ctlParityFail_guard hp hn hf)).trans (if_pos h))

/-- The failure of the third retry. -/
theorem ctlParityFail_of_failed (h : 3 < parityCount (s.field f).ctlRetry[k] m) {w : State}
    (hw : w = (s.modField f fun x => { x with
      ctlRetry := upd x.ctlRetry k fun _ => none, ctlFailed := upd x.ctlFailed k fun _ => true }).logEvent 0 0xB 3 kField f.val
        [BitVec.ofNat 8 k.val]) :
    exec (.ctlParityFail f k (m, word, parity)) s = .next (w.ctl.foldl State.reroute w).autoReset := by
  subst hw
  exact congrArg Host.Outcome.next ((if_neg (ctlParityFail_guard hp hn hf)).trans (if_neg (Nat.not_le.2 h)))

end

end

/-- Settles O28: field registers by `writeField_of_admitted`, fences by `fence_bit`, parity by the three cases of a bad word. -/
theorem configAndFenceMessages : Obligations.ConfigAndFenceMessages := by
  refine ⟨fun s v p f off x => ?_, fun s v f d raised k m word parity => ?_⟩
  · intro write read response
    refine ⟨fun h => ⟨fun ho hp => ?_, fun i ho hp => ?_, fun c ho => ?_, fun hno hilv => ?_⟩, fun h => ?_,
      fun h => ⟨ctlConfigRead_of_serves h, fun hb => ⟨_, ctlConfigRead_of_serves h, ?_⟩⟩, fun h => ?_, fun h => ?_, fun h => ?_⟩
    · refine ⟨_, ctlConfigWrite_of_serves h, ?_⟩
      rw [State.writeField_of_admitted _ _ _ _ (by omega) (by rw [fieldAdmits, if_pos ho]; exact hp), ho, State.fieldTake_ilv]
      exact ⟨v.modField_onlyField _ _, State.modField_field _ _ _⟩
    · refine ⟨_, ctlConfigWrite_of_serves h, ?_⟩
      rw [State.writeField_of_admitted _ _ _ _ (by omega) (by rw [fieldAdmits, if_neg (by omega), if_pos (by omega), hp]; rfl), ho,
        State.fieldTake_fault]
      refine ⟨v.modField_onlyField _ _, ?_⟩
      rw [State.modField_field]
      exact upd_same _ _ _
    · have hadm : fieldAdmits p off.toNat = true := by
        rw [fieldAdmits, if_neg (by omega), if_neg (by omega), decide_eq_true (by omega), decide_eq_true (by omega)]
        exact beq_iff_eq.2 (by omega)
      refine ⟨_, ctlConfigWrite_of_serves h, ?_⟩
      rw [State.writeField_of_admitted _ _ _ _ (by omega) hadm, ho, State.fieldTake_bound]
      exact ⟨v.modCore_only _ _, State.modCore_core _ _ _⟩
    · rw [ctlConfigWrite_of_serves h, State.writeField_of_refused _ _ _ _ hno hilv]
    · exact congrArg Host.Outcome.next (State.ctlArrive_of_none h _)
    · have honly := v.readWord_only p (fldOff f off).toNat
      generalize v.readWord p (fldOff f off).toNat = r at honly hb
      have hb' : r.2.ctlBlocked (cfgMsg 0xA (entryField p) f off [r.1]) false = false := by
        rw [honly]
        exact hb
      rw [State.tell_of_clear hb', honly]
      rfl
    · exact congrArg Host.Outcome.next (State.ctlArrive_of_none h _)
    · exact congrArg Host.Outcome.next (State.ctlArrive_of_serves h _)
    · exact congrArg Host.Outcome.next (State.ctlArrive_of_none h _)
  · intro fence n
    refine ⟨fun h => ⟨_, congrArg Host.Outcome.next (State.ctlArrive_of_serves h _), v.modField_onlyField _ _, ?_, fun e he => ?_⟩,
      fun h => congrArg Host.Outcome.next (State.ctlArrive_of_none h _),
      fun hp hn hf => ⟨fun h3 => ⟨_, ctlParityFail_of_retried hp hn hf h3, s.modField_onlyField _ _, ?_, ?_⟩, fun h3 => ?_⟩,
      ctlParityFail_of_not⟩
    · rw [State.modField_field]
      exact (fence_bit _ d d raised).trans (if_pos rfl)
    · rw [State.modField_field]
      exact (fence_bit _ d e raised).trans (if_neg he)
    · rw [State.modField_field]
      exact upd_same _ _ _
    · rw [State.modField_field]
    · refine ⟨_, ctlParityFail_of_failed hp hn hf h3 rfl, ?_, ?_, ?_, fun g hg => ?_, ?_, ?_⟩
      · rw [State.field, State.logEvent_fields]
        exact (congrArg (fun x : Field => x.ctlFailed[k]) (State.modField_field s f _)).trans (upd_same _ _ _)
      · rw [State.field, State.logEvent_fields]
        exact (congrArg (fun x : Field => x.ctlRetry[k]) (State.modField_field s f _)).trans (upd_same _ _ _)
      · rw [State.logEvent_ctl]
        rfl
      · rw [State.field, State.logEvent_fields]
        exact State.modField_field_other _ _ _ _ hg
      · rw [State.logEvent_only]
        rfl
      · exact State.logHolds_logEvent _ _ _ _ _ _ _

/-! ## Writes of CSR space -/

section
variable {s : State} {p : Path} {v : W32} {off : BitVec 26}

/-- A path that does not reach CSR space writes nothing. -/
theorem csrWrite_of_closed (h : s.pathOpen p = false) : exec (.csrWrite p off v) s = .next s :=
  congrArg Host.Outcome.next (if_neg (by rw [h]; decide))

/-- A write of no aligned word is refused. -/
theorem csrWrite_of_unaligned (h : s.pathOpen p = true) (h4 : off.toNat % 4 ≠ 0) : exec (.csrWrite p off v) s = .next (s.refuse p off) :=
  congrArg Host.Outcome.next ((if_pos h).trans (if_pos h4))

/-- A word outside the fields. -/
theorem csrWrite_of_block (h : s.pathOpen p = true) (h4 : off.toNat % 4 = 0) (hf : inFld off = false) :
    exec (.csrWrite p off v) s = .next (s.writeBlock p off v) :=
  congrArg Host.Outcome.next ((if_pos h).trans ((if_neg (not_not_intro h4)).trans (if_neg (by rw [hf]; decide))))

/-- A word of a field. -/
theorem csrWrite_of_field (h : s.pathOpen p = true) (h4 : off.toNat % 4 = 0) (hf : inFld off = true) :
    exec (.csrWrite p off v) s = .next (s.sendField p off v) :=
  congrArg Host.Outcome.next ((if_pos h).trans ((if_neg (not_not_intro h4)).trans (if_pos hf)))

end

section
variable (s : State) (p : Path) (v : W32)

/-- FLT_CFG. -/
theorem State.writeBlock_fltCfg : s.writeBlock p 0xB00004 v =
    s.classed p 0xB00004 (classS p) fun s => { s with flt := { s.flt with cfg := v &&& 0x13F } } := rfl

/-- MEM_TIMEOUT. -/
theorem State.writeBlock_memTimeout : s.writeBlock p 0x900200 v =
    s.classed p 0x900200 (classS p) fun s => { s with memu := { s.memu with timeout := v } } := rfl

/-- INT_SCRUB_CFG. -/
theorem State.writeBlock_scrubCfg : s.writeBlock p 0x700000 v =
    s.classed p 0x700000 (classS p) fun s => { s with intk := { s.intk with scrubCfg := v &&& 0xFFFFFF00 } } := rfl

/-- PWR_BUDGET of the shadow set. -/
theorem State.writeBlock_budget : s.writeBlock p 0x400004 v = s.writeShadow p 0x400004 .budget v := rfl

end

section
variable {s : State} {p : Path} {v : W32}

/-- The class of a write that is open to it. -/
theorem State.classed_of_ok {ok : Bool} (h : ok = true) (off : BitVec 26) (eff : State → State) : s.classed p off ok eff = eff s := by
  subst h
  rfl

/-- One that is not is refused. -/
theorem State.classed_of_not {ok : Bool} (h : ok = false) (off : BitVec 26) (eff : State → State) :
    s.classed p off ok eff = s.refuse p off := by
  subst h
  rfl

/-- The shadow set takes a register while no swap is armed. -/
theorem State.writeShadow_of_free (hS : classS p = true) (h : s.cfg.st ≠ .armed) (off : BitVec 26) (r : MirReg) :
    s.writeShadow p off r v = { s with cfg := { s.cfg with shadow := s.cfg.shadow.put r v } } :=
  State.classed_of_ok (by rw [hS, bne_iff_ne.2 h]; rfl) off _

/-- While one is, it refuses it. -/
theorem State.writeShadow_of_armed (h : s.cfg.st = .armed) (off : BitVec 26) (r : MirReg) : s.writeShadow p off r v = s.refuse p off :=
  State.classed_of_not (by rw [h]; exact Bool.and_false _) off _

/-- A path of another class is refused too. -/
theorem State.writeShadow_of_host (h : classS p = false) (off : BitVec 26) (r : MirReg) : s.writeShadow p off r v = s.refuse p off :=
  State.classed_of_not (by rw [h]; rfl) off _

end

/-- Settles O29: each register by its block's equation, then by the class of the path. -/
theorem csrWritesObeyTheirClass : Obligations.CsrWritesObeyTheirClass := by
  intro s p v refused
  refine ⟨fun ho hS => ?_, fun ho hS => ?_, fun off ho h4 => csrWrite_of_unaligned ho h4, fun off ho h4 hf => ?_,
    fun off h => csrWrite_of_closed h, fun off => ⟨?_, rfl, rfl⟩⟩
  · refine ⟨?_, ?_, ?_, fun harm => ?_, fun harm => ?_⟩
    · rw [csrWrite_of_block ho (by decide) (by decide), State.writeBlock_fltCfg, State.classed_of_ok hS]
    · rw [csrWrite_of_block ho (by decide) (by decide), State.writeBlock_memTimeout, State.classed_of_ok hS]
    · rw [csrWrite_of_block ho (by decide) (by decide), State.writeBlock_scrubCfg, State.classed_of_ok hS]
    · rw [csrWrite_of_block ho (by decide) (by decide), State.writeBlock_budget, State.writeShadow_of_free hS harm]
      rfl
    · exact (csrWrite_of_block ho (by decide) (by decide)).trans (by rw [State.writeBlock_budget, State.writeShadow_of_armed harm])
  · refine ⟨?_, ?_, ?_, ?_⟩
    · exact (csrWrite_of_block ho (by decide) (by decide)).trans (by rw [State.writeBlock_fltCfg, State.classed_of_not hS])
    · exact (csrWrite_of_block ho (by decide) (by decide)).trans (by rw [State.writeBlock_memTimeout, State.classed_of_not hS])
    · exact (csrWrite_of_block ho (by decide) (by decide)).trans (by rw [State.writeBlock_scrubCfg, State.classed_of_not hS])
    · exact (csrWrite_of_block ho (by decide) (by decide)).trans (by rw [State.writeBlock_budget, State.writeShadow_of_host hS])
  · refine ⟨fun hadm => ?_, fun hadm h100 => ?_⟩
    · have hsend : exec (.csrWrite p off v) s = .next (s.tell (cfgMsg 8 (fldField off.toNat) (entryField p) (fldReg off) [v])) :=
        (csrWrite_of_field ho h4 hf).trans (congrArg Host.Outcome.next (if_pos hadm))
      exact ⟨hsend, fun hb => hsend.trans (congrArg Host.Outcome.next (State.tell_of_clear hb))⟩
    · refine (csrWrite_of_field ho h4 hf).trans (congrArg Host.Outcome.next ((if_neg (by rw [hadm]; decide)).trans (if_neg ?_)))
      exact fun e => h100 e.1
  · exact upd_same _ _ _

end Sys2Proof.Machine
end

section
/-! PROOFS. Topo slots, configuration sets, mailboxes and the log's rows (R180, R181, R318, R447 to R449, R474, R477, R498). -/

namespace Sys2Proof.Machine

/-! ## Writes by path -/

section
variable {s : State} {p : Path} {ok : Bool} (off : BitVec 26) (eff : State → State)

/-- A path that does not reach CSR space does nothing. -/
theorem State.guarded_of_closed (h : s.pathOpen p = false) : s.guarded p off ok eff = s := if_pos (by rw [h]; rfl)

/-- One that does, and may write. -/
theorem State.guarded_of_ok (h : s.pathOpen p = true) (hok : ok = true) : s.guarded p off ok eff = eff s :=
  (if_neg (by rw [h]; decide)).trans (if_pos hok)

/-- One that does, and may not. -/
theorem State.guarded_of_not (h : s.pathOpen p = true) (hok : ok = false) : s.guarded p off ok eff = s.refuse p off :=
  (if_neg (by rw [h]; decide)).trans (if_neg (by rw [hok]; decide))

end

/-! ## Answers to a proposal -/

/-- A team message leaves, on the group that team messages use now. -/
theorem State.toTeam_only (s : State) (d : Nat) (m : TeamMsg) :
    s.toTeam d m = { s with pit := { s.pit with onGroup8 := (s.toTeam d m).pit.onGroup8 }, out := (s.toTeam d m).out } := by
  unfold State.toTeam State.sendTeam
  dsimp only
  split <;> rfl

/-- A reply notes what was said, and leaves. -/
theorem State.sendReply_only (s : State) (l : Launch) (r : Nat) : s.sendReply l r =
    { s with pit := { s.pit with launch := (s.sendReply l r).pit.launch, onGroup8 := (s.sendReply l r).pit.onGroup8 }
             out := (s.sendReply l r).out } := by
  unfold State.sendReply
  rw [State.toTeam_only]
  rfl

/-- What answering again may change. -/
theorem State.answerAgain_after (s : State) : afterAnswer s s.answerAgain := by
  refine ⟨rfl, fun h => ?_, ?_⟩
  · simp only [State.answerAgain, h]
  · unfold State.answerAgain
    split
    · rfl
    · dsimp only
      split
      · rfl
      · exact State.sendReply_only _ _ _

/-- A change and the answer after it. -/
theorem afterAnswer_of_eq {w t : State} (h : t = w) : afterAnswer w t.answerAgain := h ▸ t.answerAgain_after

/-! ## Slots -/

section
variable {s : State} {p : Path} {i : ImgIx}

/-- A slot that does not run is emptied and unlocked. -/
theorem State.disarmSlot_of_idle (h : (s.glb.slots[i]).st ≠ .running) :
    s.disarmSlot p i = s.modSlot i fun k => { k with st := .empty, lock := false } :=
  if_neg fun e => h (beq_iff_eq.1 e)

/-- One that runs is not. -/
theorem State.disarmSlot_of_running (h : (s.glb.slots[i]).st = .running) : s.disarmSlot p i = s.refuse p topoCtl :=
  if_pos (beq_iff_eq.2 h)

/-- A check of no slot under check, or while the warden is down, ends with nothing. -/
theorem State.checkSlot_of_not (h : (s.glb.slots[i]).st ≠ .checking ∨ s.glb.wardenUp = false) : s.checkSlot i = s :=
  if_pos (by
    rcases h with h | h
    · rw [bne_iff_ne.2 h]
      rfl
    · rw [h]
      exact Bool.or_true _)

/-- A check that ends gives its slot the image, or its code. -/
theorem State.checkSlot_of_checking (h : (s.glb.slots[i]).st = .checking) (hup : s.glb.wardenUp = true) {im : TopoImage} {e : Nat}
    (him : im = s.readImage (s.glb.slots[i]).base.toNat) (he : e = s.checkImage i im) :
    s.checkSlot i = s.modSlot i fun k => if e = 0 then { k with st := .armed, err := 0, runs := 0, image := im, used := false }
      else { k with st := .empty, err := BitVec.ofNat 8 e } := by
  subst him he
  exact if_neg (by rw [h, hup]; decide)

end

/-- Settles O31: ARM and DISARM by the path's rules, the check by `checkSlot_of_checking`, and the answer after by `answerAgain_after`. -/
theorem slotsArmAndDisarm : Obligations.SlotsArmAndDisarm := by
  intro s p i slot im e put
  refine ⟨fun ho hw => ⟨fun h => ?_, fun h => ?_, fun h => ⟨_, rfl, ?_⟩, fun h => ⟨_, rfl, ?_⟩⟩, fun ho hw => ⟨?_, ?_⟩,
    fun ho => ⟨?_, ?_⟩, fun h hup => ⟨fun he => ⟨_, rfl, ?_⟩, fun he => ⟨_, rfl, ?_⟩⟩, fun h => ⟨_, rfl, ?_⟩⟩
  · exact congrArg Host.Outcome.next ((State.guarded_of_ok _ _ ho hw).trans (if_pos (beq_iff_eq.2 h)))
  · exact congrArg Host.Outcome.next ((State.guarded_of_ok _ _ ho hw).trans (if_neg fun e => h (beq_iff_eq.1 e)))
  · rw [State.guarded_of_ok _ _ ho hw]
    exact afterAnswer_of_eq (State.disarmSlot_of_idle h)
  · rw [State.guarded_of_ok _ _ ho hw]
    exact afterAnswer_of_eq (State.disarmSlot_of_running h)
  · exact congrArg Host.Outcome.next (State.guarded_of_not _ _ ho hw)
  · exact congrArg Host.Outcome.next (State.guarded_of_not _ _ ho hw)
  · exact congrArg Host.Outcome.next (State.guarded_of_closed _ _ ho)
  · exact congrArg Host.Outcome.next (State.guarded_of_closed _ _ ho)
  · refine afterAnswer_of_eq ((State.checkSlot_of_checking h hup rfl rfl).trans ?_)
    simp only [State.modSlot]
    rw [upd, if_pos he]
  · refine afterAnswer_of_eq ((State.checkSlot_of_checking h hup rfl rfl).trans ?_)
    simp only [State.modSlot]
    rw [upd, if_neg he]
  · exact afterAnswer_of_eq (State.checkSlot_of_not h)

/-! ## Configuration sets -/

/-- A check of no image that loads, or while the warden is down, ends with nothing. -/
theorem loadCheckDone_of_not {s : State} (h : s.cfg.st ≠ .loading ∨ s.glb.wardenUp = false) : exec .loadCheckDone s = .next s :=
  congrArg Host.Outcome.next (if_pos (by
    rcases h with h | h
    · rw [bne_iff_ne.2 h]
      rfl
    · rw [h]
      exact Bool.or_true _))

section
variable {s : State} {e : Nat} (h : s.cfg.st = .loading) (hup : s.glb.wardenUp = true)
  (he : e = s.configCheck s.loadBytes s.cfg.genAct.toNat)
include h hup he

/-- A good image enters the shadow set. -/
theorem loadCheckDone_of_good (h0 : e = 0) : exec .loadCheckDone s = .next { s with cfg := { s.cfg with
    st := .idle, err := 0, shadow := s.cfg.shadow.load s.loadBytes, gen := BitVec.ofNat 64 (fieldAt s.loadBytes 8 8) } } := by
  subst he
  exact congrArg Host.Outcome.next ((if_neg (by rw [h, hup]; decide)).trans (if_pos h0))

/-- A bad one leaves its code. -/
theorem loadCheckDone_of_bad (h0 : e ≠ 0) : exec .loadCheckDone s =
    .next (State.configEvent { s with cfg := { s.cfg with st := .idle, err := BitVec.ofNat 8 e } } e) := by
  subst he
  exact congrArg Host.Outcome.next ((if_neg (by rw [h, hup]; decide)).trans (if_neg h0))

end

/-- CANCEL disarms nothing that is not armed. -/
theorem State.cancelSwap_of_not_armed {s : State} (h : s.cfg.st ≠ .armed) : s.cancelSwap = s :=
  if_neg (by rw [beq_eq_false_iff_ne.2 h]; exact Bool.false_ne_true)

/-- Two changes of shapers are one. -/
theorem fabOnly_trans {s t u : State} (h : t = { s with fab := t.fab }) (h' : u = { t with fab := u.fab }) : u = { s with fab := u.fab } :=
  h'.trans (by rw [h])

/-- Settling shapers changes the fabric. -/
theorem State.settleShapers_only (s : State) (l : List Nat) : s.settleShapers l = { s with fab := (s.settleShapers l).fab } := by
  unfold State.settleShapers
  refine List.foldlRecOn (motive := fun t : State => t = { s with fab := t.fab }) _ _ rfl fun t ht x _ => ?_
  exact fabOnly_trans ht rfl

/-- A retrained sublink changes the link groups. -/
theorem State.retrainWarm_only (s : State) (g : GroupIx) (u : SubIx) : s.retrainWarm g u = { s with links := (s.retrainWarm g u).links } := by
  unfold State.retrainWarm
  split <;> rfl

/-- Two changes of link groups are one. -/
theorem linksOnly_trans {s t u : State} (h : t = { s with links := t.links }) (h' : u = { t with links := u.links }) :
    u = { s with links := u.links } := h'.trans (by rw [h])

/-- Retraining every sublink changes the link groups. -/
theorem State.retrainAll_only (s : State) : s.retrainAll = { s with links := s.retrainAll.links } := by
  unfold State.retrainAll
  refine List.foldlRecOn (motive := fun t : State => t = { s with links := t.links }) _ _ rfl fun t ht g _ => ?_
  refine List.foldlRecOn (motive := fun t : State => t = { s with links := t.links }) _ _ ht fun w hw u _ => ?_
  split
  · exact linksOnly_trans hw (w.retrainWarm_only g u)
  · exact hw

/-- A lock that a new time root takes changes the pitch unit. -/
theorem State.rootLock_only (s : State) : s.rootLock = { s with pit := s.rootLock.pit } := by
  unfold State.rootLock
  split <;> rfl

/-- A swap makes the shadow set the active one, and leaves memory, cores and the module's block. -/
theorem State.swap_spec (s : State) :
    s.swap.cfg = { s.cfg with active := s.cfg.shadow, genAct := s.cfg.gen, st := .idle, swaps := s.cfg.swaps + 1 } ∧ s.swap.mem = s.mem ∧
      s.swap.cores = s.cores ∧ s.swap.glb = s.glb := by
  have hset := s.settleShapers_only (shapeKeys s.cfg.active s.cfg.shadow)
  unfold State.swap
  generalize s.settleShapers (shapeKeys s.cfg.active s.cfg.shadow) = s1 at hset ⊢
  obtain ⟨s3, hs3⟩ : ∃ s3, s3 = (if bit s.cfg.shadow.fabCfg.toNat 31 then State.forgive { s1 with cfg := { s1.cfg with
      active := s1.cfg.shadow, genAct := s1.cfg.gen, st := .idle, swaps := s1.cfg.swaps + 1 } } else { s1 with cfg := { s1.cfg with
      active := s1.cfg.shadow, genAct := s1.cfg.gen, st := .idle, swaps := s1.cfg.swaps + 1 } }).rootLock := ⟨_, rfl⟩
  have h3 : s3.cfg = { s.cfg with active := s.cfg.shadow, genAct := s.cfg.gen, st := .idle, swaps := s.cfg.swaps + 1 } ∧ s3.mem = s.mem ∧
      s3.cores = s.cores ∧ s3.glb = s.glb := by
    rw [hs3, State.rootLock_only, hset]
    split <;> exact ⟨rfl, rfl, rfl, rfl⟩
  dsimp only
  rw [← hs3]
  split
  · exact h3
  · rw [State.retrainAll_only]
    exact h3

/-- Settles O32: LOAD, GO and CANCEL by the path's rules and the state of the swap, the swap by `swap_spec`. -/
theorem configurationSwaps : Obligations.ConfigurationSwaps := by
  intro s p b e set
  refine ⟨fun ho hS => ⟨fun h => ?_, fun h => ?_, fun h => ?_⟩, fun ho hS => ?_, fun ho => ?_,
    fun h hup => ⟨fun h0 => loadCheckDone_of_good h hup rfl h0, fun h0 => ⟨_, loadCheckDone_of_bad h hup rfl h0, ?_, ?_⟩⟩,
    loadCheckDone_of_not, fun h => ⟨_, rfl, s.swap, ?_, rfl, s.swap_spec⟩, fun h => ⟨_, rfl, ?_⟩⟩
  · refine ⟨congrArg Host.Outcome.next ((State.guarded_of_ok _ _ ho hS).trans ?_), congrArg Host.Outcome.next
      ((State.guarded_of_ok _ _ ho hS).trans (if_pos (beq_iff_eq.2 h))), congrArg Host.Outcome.next ((State.guarded_of_ok _ _ ho hS).trans
      (State.cancelSwap_of_not_armed (by rw [h]; decide)))⟩
    simp only [State.startLoad, h]
    rfl
  · refine ⟨congrArg Host.Outcome.next ((State.guarded_of_ok _ _ ho hS).trans ?_), congrArg Host.Outcome.next
      ((State.guarded_of_ok _ _ ho hS).trans (if_neg (by rw [h]; decide))), congrArg Host.Outcome.next
      ((State.guarded_of_ok _ _ ho hS).trans ?_)⟩
    · simp only [State.startLoad, h]
    · rw [State.cancelSwap, h]
      cases s.swapDue <;> rfl
  · refine ⟨congrArg Host.Outcome.next ((State.guarded_of_ok _ _ ho hS).trans ?_), congrArg Host.Outcome.next
      ((State.guarded_of_ok _ _ ho hS).trans (if_neg (by rw [h]; decide))), congrArg Host.Outcome.next
      ((State.guarded_of_ok _ _ ho hS).trans (State.cancelSwap_of_not_armed (by rw [h]; decide)))⟩
    simp only [State.startLoad, h]
  · exact ⟨congrArg Host.Outcome.next (State.guarded_of_not _ _ ho hS), congrArg Host.Outcome.next (State.guarded_of_not _ _ ho hS),
      congrArg Host.Outcome.next (State.guarded_of_not _ _ ho hS)⟩
  · exact ⟨congrArg Host.Outcome.next (State.guarded_of_closed _ _ ho), congrArg Host.Outcome.next (State.guarded_of_closed _ _ ho),
      congrArg Host.Outcome.next (State.guarded_of_closed _ _ ho)⟩
  · rw [State.configEvent, State.logEvent_only]
  · obtain ⟨x, hx, hcode, hkind, -⟩ := State.logHolds_logEvent
      { s with cfg := { s.cfg with st := .idle, err := BitVec.ofNat 8 e } } 0 9 e kWarden s.glb.modIx.val []
    exact ⟨x, hx, hcode, hkind⟩
  · exact afterAnswer_of_eq (if_pos h)
  · exact afterAnswer_of_eq (if_neg (by rw [h]; decide))

/-! ## Mailboxes -/

section
variable (s : State) (i : PortIx) (p : Path) {n : BitVec 13}

/-- A message in clear leaves for a host port's outbound mailbox. -/
theorem State.sendSess_port (bs : List Byte) : s.sendSess (portSess i) bs = s.modMbox i fun k => { k with replies := k.replies ++ [bs] } := by
  match i with
  | 0 => rfl
  | 1 => rfl

/-- POST to a mailbox that is busy is refused. -/
theorem State.postMbox_of_busy (h : (s.glb.mbox[i]).inBusy = true) : s.postMbox i p n = s.refuse p mboxCtl := if_pos h

/-- POST of a length in range hands the message over. -/
theorem State.postMbox_of_ok (h : (s.glb.mbox[i]).inBusy = false) (h32 : 32 ≤ n.toNat) (h4096 : n.toNat ≤ 4096) :
    s.postMbox i p n = s.modMbox i fun k => { k with inLen := n, inBusy := true } :=
  (if_neg (by rw [h]; decide)).trans (if_pos ⟨h32, h4096⟩)

/-- Another is answered REFUSE. -/
theorem State.postMbox_of_length (h : (s.glb.mbox[i]).inBusy = false) (hn : n.toNat < 32 ∨ 4096 < n.toNat) :
    s.postMbox i p n = (s.modMbox i fun k => { k with inLen := n }).modMbox i
      fun k => { k with replies := k.replies ++ [plainMsg (portSess i) 5 [4]] } :=
  (if_neg (by rw [h]; decide)).trans ((if_neg (by omega)).trans (State.sendSess_port _ _ _))

/-- Two changes of one mailbox. -/
theorem State.modMbox_modMbox (h k : Mbox → Mbox) :
    (s.modMbox i h).modMbox i k = { s with glb := { s.glb with mbox := s.glb.mbox.set i (k (h (s.glb.mbox[i]))) } } := by
  simp [State.modMbox, upd]

/-- A mailbox with nothing to send, or a message that waits, stays. -/
theorem mboxOutReady_of_not (h : (s.glb.mbox[i]).replies = [] ∨ (s.glb.mbox[i]).outRdy = true) : exec (.mboxOutReady i) s = .next s := by
  refine congrArg Host.Outcome.next ?_
  dsimp only
  split
  · rfl
  next r rest hr =>
    rcases h with h | h
    · rw [h] at hr
      cases hr
    · exact if_pos h

/-- The oldest reply enters a free mailbox. -/
theorem mboxOutReady_of_free {r : List Byte} {rest : List (List Byte)} (hr : (s.glb.mbox[i]).replies = r :: rest)
    (hfree : (s.glb.mbox[i]).outRdy = false) : exec (.mboxOutReady i) s =
      .next (let s1 := s.modMbox i fun k => { k with replies := rest, outBytes := r, outLen := BitVec.ofNat 13 r.length, outRdy := true }
        if s.pins.msixEn[i] then s1.emit (.msix i 1) else s1) := by
  refine congrArg Host.Outcome.next ?_
  dsimp only
  rw [hr]
  exact if_neg (by rw [hfree]; decide)

end

/-- Settles O33: POST, OUT_ACK and the outbound mailbox by their cases; the log's rows by the path and the port. -/
theorem mailboxesAndTheLog : Obligations.MailboxesAndTheLog := by
  refine ⟨fun s i n => ?_, fun s p i => ?_⟩
  · intro k put
    refine ⟨fun hbar => ⟨fun hbusy h32 h4096 => ?_, fun hbusy hn => ?_, fun hbusy => ?_, ?_⟩, fun hbar => ⟨?_, ?_⟩,
      fun r rest hr hfree => ⟨_, mboxOutReady_of_free s i hr hfree, ?_⟩, mboxOutReady_of_not s i⟩
    · exact congrArg Host.Outcome.next ((if_pos hbar).trans (State.postMbox_of_ok s i _ hbusy h32 h4096))
    · refine congrArg Host.Outcome.next ((if_pos hbar).trans ((State.postMbox_of_length s i _ hbusy hn).trans ?_))
      exact State.modMbox_modMbox s i _ _
    · exact congrArg Host.Outcome.next ((if_pos hbar).trans (State.postMbox_of_busy s i _ hbusy))
    · exact congrArg Host.Outcome.next (if_pos hbar)
    · exact congrArg Host.Outcome.next (if_neg (by rw [hbar]; decide))
    · exact congrArg Host.Outcome.next (if_neg (by rw [hbar]; decide))
    · dsimp only
      by_cases hen : s.pins.msixEn[i] = true
      · rw [if_pos hen, if_pos hen]
        rfl
      · rw [if_neg hen, if_neg hen, List.append_nil]
        rfl
  · refine ⟨fun ho hS => ?_, fun ho hS => ?_, fun ho => ?_, fun hheld hfree => ⟨_, congrArg Host.Outcome.next (if_pos ?_), ?_⟩, fun h => ?_⟩
    · exact congrArg Host.Outcome.next (State.guarded_of_ok _ _ ho hS)
    · exact congrArg Host.Outcome.next (State.guarded_of_not _ _ ho hS)
    · exact congrArg Host.Outcome.next (State.guarded_of_closed _ _ ho)
    · rw [hheld, hfree]
      rfl
    · dsimp only
      by_cases hen : s.pins.msixEn[i] = true
      · rw [if_pos hen, if_pos hen, if_pos hen]
        exact ⟨rfl, rfl⟩
      · rw [if_neg hen, if_neg hen, if_neg hen, List.append_nil]
        exact ⟨rfl, rfl⟩
    · refine congrArg Host.Outcome.next (if_neg ?_)
      rcases h with h | h
      · rw [h, Bool.false_and]
        decide
      · rw [h, Bool.and_false]
        decide

end Sys2Proof.Machine
end

section
/-! PROOFS. Launches: proposals, replies and the lead's decision (R313, R317, R318, R320, R321). -/

namespace Sys2Proof.Machine

/-! ## Team messages -/

section
variable {s : State} {g : GroupIx} {m : TeamMsg} {typ : Byte} (eff : State → State)

/-- A team message that is taken has its effect. -/
theorem State.teamTakes_of_takes (h : s.takesTeam g m typ) : s.teamTakes g m typ eff = eff s := by
  obtain ⟨hhears, htyp, hquar, hteam⟩ := h
  unfold State.teamTakes
  rw [if_neg (by rw [hhears, htyp, bne_self_eq_false]; decide), if_neg (by rw [hquar]; decide),
    if_neg (by rw [hteam, bne_self_eq_false]; decide)]

/-- Another is turned away as R313 says. -/
theorem State.teamTakes_of_not (h : ¬ s.takesTeam g m typ) : s.shunned g m typ (s.teamTakes g m typ eff) := by
  unfold State.shunned State.teamTakes
  by_cases hheard : s.hears g 0 = true ∧ m.typ = typ
  · rw [if_pos hheard, if_neg (by rw [hheard.1, hheard.2, bne_self_eq_false]; decide)]
    by_cases hquar : (s.group g).quar = true
    · rw [if_pos hquar, if_pos hquar]
    · rw [if_neg hquar, if_neg hquar, if_pos (bne_iff_ne.2 fun e => h ⟨hheard.1, hheard.2, Bool.eq_false_iff.2 hquar, e⟩)]
  · rw [if_neg hheard, if_pos]
    by_cases hh : s.hears g 0 = true
    · rw [hh, bne_iff_ne.2 fun e => hheard ⟨hh, e⟩]
      rfl
    · rw [Bool.eq_false_iff.2 hh]
      rfl

end

/-- Team messages to several modules change what sending one changes. -/
theorem State.toEach_only (s : State) (ds : List Nat) (m : TeamMsg) :
    s.toEach ds m = { s with pit := { s.pit with onGroup8 := (s.toEach ds m).pit.onGroup8 }, out := (s.toEach ds m).out } := by
  refine List.foldlRecOn (motive := fun t : State => t = { s with pit := { s.pit with onGroup8 := t.pit.onGroup8 }, out := t.out }) _ _ rfl
    fun t ht d _ => ?_
  exact (t.toTeam_only d m).trans (by rw [ht])

/-- They leave the launch. -/
theorem State.toEach_launch (s : State) (ds : List Nat) (m : TeamMsg) : (s.toEach ds m).pit.launch = s.pit.launch := by
  rw [State.toEach_only]

/-! ## GO -/

section
variable {s : State} {p : Path} {i : ImgIx}

/-- A GO too early, or while a committed launch waits, is missed. -/
theorem State.goLaunch_of_missed (h : (s.chooseCount i).1 < s.gcnt + 2 * s.slotPitch i + 100000 ∨ s.pit.committed = true) :
    s.goLaunch i = s.missLaunch := by
  refine if_pos ?_
  rcases h with h | h
  · rw [decide_eq_true h]
    rfl
  · rw [h]
    exact Bool.or_true _

/-- Another proposes its count. -/
theorem State.goLaunch_of_ok (h : s.gcnt + 2 * s.slotPitch i + 100000 ≤ (s.chooseCount i).1) (hc : s.pit.committed = false) :
    s.goLaunch i = s.propose { count := (s.chooseCount i).1, slot := i, digest := (s.glb.slots[i]).image.digest8
                               archVer := s.intk.archVer, attempts := 1, retry := (s.chooseCount i).2, replies := [], said := 0, commit := none
                               loaded := false } :=
  if_neg (by rw [hc, decide_eq_false (Nat.not_lt.2 h)]; decide)

/-- GO on a lead. -/
theorem State.writeGo_of_lead (h : s.isLead = true) : s.writeGo p i = State.goLaunch { s with pit := { s.pit with ctlSlot := i } } i := if_pos h

/-- GO on another module. -/
theorem State.writeGo_of_member (h : s.isLead = false) :
    s.writeGo p i = State.refuse { s with pit := { s.pit with ctlSlot := i } } p launchCtl := if_neg (by rw [h]; decide)

/-- A proposal is the launch in preparation. -/
theorem State.propose_launch (s : State) (l : Launch) : (s.propose l).pit.launch = some l := State.toEach_launch _ _ _

/-- Proposing changes no more than the launch and what leaves. -/
theorem State.propose_only (s : State) (l : Launch) : s.propose l =
    { s with pit := { s.pit with launch := (s.propose l).pit.launch, onGroup8 := (s.propose l).pit.onGroup8 }, out := (s.propose l).out } := by
  rw [State.propose_launch]
  exact State.toEach_only _ _ _

end

/-! ## Members -/

section
variable {s : State} {g : GroupIx} {m : TeamMsg}

/-- What a member makes of a proposal that it takes. -/
theorem launchPropose_of_takes (h : s.takesTeam g m 0x20) : exec (.launchPropose g m) s = .next
    (if launchPhase m != 0 || s.isLead then s else if s.pit.committed then s.answerProposal m else s.takeProposal m) :=
  congrArg Host.Outcome.next (State.teamTakes_of_takes _ h)

/-- A reply leaves the launch with what was said. -/
theorem State.sendReply_launch (s : State) (l : Launch) (r : Nat) :
    (s.sendReply l r).pit.launch = s.pit.launch.map fun x => { x with said := BitVec.ofNat 8 r } := by
  unfold State.sendReply
  rw [State.toTeam_only]
  rfl

/-- A proposal taken is the launch, with the member's own reason. -/
theorem State.takeProposal_launch (s : State) (m : TeamMsg) : (s.takeProposal m).pit.launch =
    some { count := m.c1.toNat, slot := launchSlot m, digest := m.c2.toNat, archVer := m.c3, attempts := 0, retry := false, replies := [],
           said := BitVec.ofNat 8 (s.launchReason (launchSlot m) m.c2.toNat m.c3), commit := none, loaded := false } :=
  State.sendReply_launch _ _ _

/-- Taking a proposal changes no more. -/
theorem State.takeProposal_only (s : State) (m : TeamMsg) : s.takeProposal m =
    { s with pit := { s.pit with launch := (s.takeProposal m).pit.launch, onGroup8 := (s.takeProposal m).pit.onGroup8 }
             out := (s.takeProposal m).out } :=
  State.sendReply_only _ _ _

variable {l : Launch} (hl : s.pit.launch = some l)
include hl

/-- A commit that names the proposal of a member in time. -/
theorem launchCommit_of_commits (h : s.takesTeam g m 0x20) (hlead : s.isLead = false) (hopen : l.commit = none) (hphase : launchPhase m = 1)
    (hcount : m.c1.toNat = l.count) (htime : s.gcnt < s.loadCount l) : exec (.launchCommit g m) s =
      .next { s with pit := { s.pit with launch := some { l with commit := some true } } } := by
  refine congrArg Host.Outcome.next ((State.teamTakes_of_takes _ h).trans ?_)
  simp only [hl, State.modLaunch]
  exact if_pos (by simp [hlead, hopen, hphase, hcount, htime])

/-- Another commit changes nothing. -/
theorem launchCommit_of_not (h : s.takesTeam g m 0x20) (hno : ¬ ((s.isLead = false ∧ l.commit = none) ∧ launchPhase m = 1 ∧
    m.c1.toNat = l.count ∧ s.gcnt < s.loadCount l)) : exec (.launchCommit g m) s = .next s := by
  refine congrArg Host.Outcome.next ((State.teamTakes_of_takes _ h).trans ?_)
  simp only [hl]
  refine if_neg fun e => hno ?_
  simp only [Bool.and_eq_true, Bool.not_eq_true', beq_iff_eq, Option.isNone_iff_eq_none, decide_eq_true_eq] at e
  obtain ⟨⟨⟨⟨hphase, hlead⟩, hopen⟩, hcount⟩, htime⟩ := e
  exact ⟨⟨hlead, hopen⟩, hphase, hcount.symm, htime⟩

/-- A cancel that names the proposal of a member. -/
theorem launchCancel_of_cancels (h : s.takesTeam g m 0x20) (hlead : s.isLead = false) (hopen : l.commit = none) (hphase : launchPhase m = 2)
    (hcount : m.c1.toNat = l.count) : exec (.launchCancel g m) s = .next { s with pit := { s.pit with launch := none } } := by
  refine congrArg Host.Outcome.next ((State.teamTakes_of_takes _ h).trans ?_)
  simp only [hl]
  exact if_pos (by simp [hlead, hopen, hphase, hcount])

/-- Another cancel changes nothing. -/
theorem launchCancel_of_not (h : s.takesTeam g m 0x20)
    (hno : ¬ ((s.isLead = false ∧ l.commit = none) ∧ launchPhase m = 2 ∧ m.c1.toNat = l.count)) :
    exec (.launchCancel g m) s = .next s := by
  refine congrArg Host.Outcome.next ((State.teamTakes_of_takes _ h).trans ?_)
  simp only [hl]
  refine if_neg fun e => hno ?_
  simp only [Bool.and_eq_true, Bool.not_eq_true', beq_iff_eq, Option.isNone_iff_eq_none] at e
  obtain ⟨⟨⟨hphase, hlead⟩, hopen⟩, hcount⟩ := e
  exact ⟨⟨hlead, hopen⟩, hphase, hcount.symm⟩

/-- A member without a decision at the launch pitch. -/
theorem launchDecisionMissing_of_open (hlead : s.isLead = false) (hopen : l.commit = none) (htime : s.loadCount l ≤ s.gcnt) :
    exec .launchDecisionMissing s =
      .next (State.modEvent { s with pit := { s.pit with launch := some { l with commit := some false } } } 3 5 4) := by
  refine congrArg Host.Outcome.next ?_
  simp only [hl, State.modLaunch]
  exact if_neg (by rw [hlead, hopen, decide_eq_false (Nat.not_lt.2 htime)]; decide)

/-- Before it, with a decision, and on a lead nothing is missing. -/
theorem launchDecisionMissing_of_not (h : ¬ ((s.isLead = false ∧ l.commit = none) ∧ s.loadCount l ≤ s.gcnt)) :
    exec .launchDecisionMissing s = .next s := by
  refine congrArg Host.Outcome.next ?_
  simp only [hl]
  refine if_pos (Classical.byContradiction fun e => h ?_)
  simp only [Bool.or_eq_true, decide_eq_true_eq, not_or, Bool.not_eq_true, Option.isSome_eq_false_iff, Option.isNone_iff_eq_none,
    Nat.not_lt] at e
  exact e

end

/-- Settles O34: GO by `goLaunch_of_ok`, a member's part by the cases of its launch. -/
theorem launchesAreProposed : Obligations.LaunchesAreProposed := by
  refine ⟨fun s p i g m => ?_, fun s g m l hl => ?_, fun s g m hl => ⟨?_, fun h => ⟨?_, ?_⟩⟩⟩
  · intro n early
    refine ⟨fun ho hS => ⟨fun hlead hn hc => ?_, fun hlead hmiss => ?_, fun hlead => ?_⟩, fun ho hS => ?_, fun ho => ?_, fun h hphase hlead =>
      ⟨_, launchPropose_of_takes h, ?_⟩, fun h hno => ?_, fun h => ⟨⟨_, rfl, State.teamTakes_of_not _ h⟩, ⟨_, rfl, State.teamTakes_of_not _ h⟩,
      ⟨_, rfl, State.teamTakes_of_not _ h⟩⟩⟩
    · exact ⟨_, congrArg Host.Outcome.next ((State.guarded_of_ok _ _ ho hS).trans ((State.writeGo_of_lead hlead).trans
        (State.goLaunch_of_ok hn hc))), State.propose_only _ _, _, State.propose_launch _ _, rfl, rfl, rfl, rfl, rfl, rfl, rfl⟩
    · exact congrArg Host.Outcome.next ((State.guarded_of_ok _ _ ho hS).trans ((State.writeGo_of_lead hlead).trans
        (State.goLaunch_of_missed hmiss)))
    · exact congrArg Host.Outcome.next ((State.guarded_of_ok _ _ ho hS).trans (State.writeGo_of_member hlead))
    · exact congrArg Host.Outcome.next (State.guarded_of_not _ _ ho hS)
    · exact congrArg Host.Outcome.next (State.guarded_of_closed _ _ ho)
    · rw [if_neg (by rw [hphase, hlead]; decide)]
      by_cases hc : s.pit.committed = true
      · rw [if_pos hc]
        refine ⟨?_, fun _ => ?_, fun e => absurd hc (by rw [e]; decide)⟩
        · rw [State.answerProposal, State.toTeam_only]
        · rw [State.answerProposal, State.toTeam_only]
      · rw [if_neg hc]
        exact ⟨s.takeProposal_only m, fun e => absurd e hc, fun _ => ⟨_, s.takeProposal_launch m, rfl, rfl, rfl, rfl, rfl⟩⟩
    · rw [launchPropose_of_takes h]
      refine congrArg Host.Outcome.next (if_pos ?_)
      rcases hno with hno | hno
      · rw [bne_iff_ne.2 hno]
        rfl
      · rw [hno]
        exact Bool.or_true _
  · refine ⟨fun h => ⟨?_, launchCommit_of_not hl h, ?_, launchCancel_of_not hl h⟩, ?_, launchDecisionMissing_of_not hl⟩
    · rintro ⟨⟨hlead, hopen⟩, hphase, hcount, htime⟩
      exact launchCommit_of_commits hl h hlead hopen hphase hcount htime
    · rintro ⟨⟨hlead, hopen⟩, hphase, hcount⟩
      exact launchCancel_of_cancels hl h hlead hopen hphase hcount
    · rintro ⟨⟨hlead, hopen⟩, htime⟩
      refine ⟨_, launchDecisionMissing_of_open hl hlead hopen htime, ?_, ?_⟩
      · rw [State.modEvent_only]
      · obtain ⟨x, hx, hcode, -⟩ := State.logHolds_logEvent
          { s with pit := { s.pit with launch := some { l with commit := some false } } } 3 5 4 kModule s.glb.modIx.val []
        exact ⟨x, hx, hcode⟩
  · refine congrArg Host.Outcome.next ?_
    simp only [hl]
  · refine congrArg Host.Outcome.next ((State.teamTakes_of_takes _ h).trans ?_)
    simp only [hl]
  · refine congrArg Host.Outcome.next ((State.teamTakes_of_takes _ h).trans ?_)
    simp only [hl]

/-! ## The lead's decision -/

section
variable {s : State} {g : GroupIx} {m : TeamMsg} {l : Launch} (hl : s.pit.launch = some l)
include hl

/-- A reply to the lead's open launch before the commit count is kept. -/
theorem reply_of_kept (h : s.takesTeam g m 0x21) (hlead : s.isLead = true) (hopen : l.commit = none) (hcount : m.c1.toNat = l.count)
    (htime : s.gcnt < s.commitCount l) : exec (.reply g m) s = .next { s with pit := { s.pit with launch := some { l with
      replies := (m.src.toNat, m.arg) :: l.replies.filter (fun r => r.1 != m.src.toNat) } } } := by
  refine congrArg Host.Outcome.next ((State.teamTakes_of_takes _ h).trans ?_)
  simp only [hl, State.modLaunch]
  exact if_pos (by simp [hlead, hopen, hcount, htime])

/-- Another reply changes nothing. -/
theorem reply_of_not (h : s.takesTeam g m 0x21)
    (hno : ¬ ((s.isLead = true ∧ l.commit = none) ∧ m.c1.toNat = l.count ∧ s.gcnt < s.commitCount l)) :
    exec (.reply g m) s = .next s := by
  refine congrArg Host.Outcome.next ((State.teamTakes_of_takes _ h).trans ?_)
  simp only [hl]
  refine if_neg fun e => hno ?_
  simp only [Bool.and_eq_true, beq_iff_eq, Option.isNone_iff_eq_none, decide_eq_true_eq] at e
  obtain ⟨⟨⟨hlead, hopen⟩, hcount⟩, htime⟩ := e
  exact ⟨⟨hlead, hopen⟩, hcount.symm, htime⟩

/-- Before its commit count, with a decision, and on a member nothing is decided. -/
theorem launchCommitCount_of_not (h : ¬ ((s.isLead = true ∧ l.commit = none) ∧ s.commitCount l ≤ s.gcnt)) :
    exec .launchCommitCount s = .next s := by
  refine congrArg Host.Outcome.next ?_
  simp only [hl]
  refine if_pos (Classical.byContradiction fun e => h ?_)
  simpa only [Bool.or_eq_true, decide_eq_true_eq, not_or, Bool.not_eq_true, Bool.not_eq_false', Option.isSome_eq_false_iff,
    Option.isNone_iff_eq_none, Nat.not_lt] using e

section
variable (hlead : s.isLead = true) (hopen : l.commit = none) (htime : s.commitCount l ≤ s.gcnt)
include hlead hopen htime

/-- With every present member ready the lead commits. -/
theorem launchCommitCount_of_ready (h : s.firstFailing l = none) : exec .launchCommitCount s =
    .next (State.toEach { s with pit := { s.pit with launch := some { l with commit := some true } } } (s.launchTo l) (s.launchMsg l 1)) := by
  refine congrArg Host.Outcome.next ?_
  simp only [hl, State.modLaunch]
  refine (if_neg (by rw [hlead, hopen, decide_eq_false (Nat.not_lt.2 htime)]; decide)).trans ?_
  simp only [h]
  rfl

/-- Otherwise it cancels, records the member, and may try again. -/
theorem launchCommitCount_of_failing {k : Nat} (h : s.firstFailing l = some k) : exec .launchCommitCount s =
    .next (((s.recordCancel k (s.reasonOf l k)).toEach (s.launchTo l) (s.launchMsg l 2)).retryLaunch l) := by
  refine congrArg Host.Outcome.next ?_
  simp only [hl]
  refine (if_neg (by rw [hlead, hopen, decide_eq_false (Nat.not_lt.2 htime)]; decide)).trans ?_
  simp only [h]

end

end

/-- What a cancel records. -/
theorem State.recordCancel_only (s : State) (k : Nat) (r : Option Byte) : s.recordCancel k r =
    { s with pit := { s.pit with failMod := BitVec.ofNat 4 k, reason := r.getD (Config.freeByte s.freeCtr), launchMiss := bump s.pit.launchMiss }
             freeCtr := (s.recordCancel k r).freeCtr } := by
  unfold State.recordCancel
  dsimp only
  split <;> rfl

/-- What follows a cancel changes the launch and what leaves. -/
theorem State.retryLaunch_only (s : State) (l : Launch) : s.retryLaunch l =
    { s with pit := { s.pit with launch := (s.retryLaunch l).pit.launch, onGroup8 := (s.retryLaunch l).pit.onGroup8 }
             out := (s.retryLaunch l).out } := by
  unfold State.retryLaunch
  split
  · exact State.propose_only _ _
  · rfl

/-- A count of the third case is proposed again, at most 16 times in all (R320). -/
theorem State.retryLaunch_launch (s : State) (l : Launch) : (s.retryLaunch l).pit.launch = if l.retry = true ∧ l.attempts < 16 then
    some { l with count := l.count + s.slotPitch l.slot, attempts := l.attempts + 1, replies := [] } else none := by
  unfold State.retryLaunch
  by_cases h : l.retry = true ∧ l.attempts < 16
  · rw [if_pos h, if_pos (by rw [h.1, decide_eq_true h.2]; rfl)]
    exact State.propose_launch _ _
  · rw [if_neg h, if_neg fun e => h ?_]
    simpa only [Bool.and_eq_true, decide_eq_true_eq] using e

/-- What a cancel leaves: the member and its reason on record, and the launch proposed anew or dropped. -/
theorem State.cancel_spec (s : State) (l : Launch) (k : Nat) (r : Option Byte) (ds : List Nat) (m : TeamMsg) :
    let u := ((s.recordCancel k r).toEach ds m).retryLaunch l
    u = { s with pit := u.pit, out := u.out, freeCtr := u.freeCtr } ∧
      u.pit = { s.pit with failMod := BitVec.ofNat 4 k, launchMiss := bump s.pit.launchMiss, reason := u.pit.reason
                           onGroup8 := u.pit.onGroup8, launch := u.pit.launch } ∧
      (∀ x, r = some x → u.pit.reason = x) ∧
      u.pit.launch = (if l.retry = true ∧ l.attempts < 16 then
        some { l with count := l.count + s.slotPitch l.slot, attempts := l.attempts + 1, replies := [] } else none) := by
  intro u
  have hrec := s.recordCancel_only k r
  have heach := (s.recordCancel k r).toEach_only ds m
  have hretry := ((s.recordCancel k r).toEach ds m).retryLaunch_only l
  have hlaunch := ((s.recordCancel k r).toEach ds m).retryLaunch_launch l
  change u = _ at hretry
  change u.pit.launch = _ at hlaunch
  clear_value u
  generalize (s.recordCancel k r).toEach ds m = w at heach hretry hlaunch
  generalize s.recordCancel k r = v at hrec heach
  rw [hrec] at heach
  have hpitch : w.slotPitch l.slot = s.slotPitch l.slot := by rw [heach]; rfl
  rw [heach] at hretry
  refine ⟨by rw [hretry], by rw [hretry], fun x hx => ?_, by rw [hlaunch, hpitch]⟩
  rw [hretry, hx]
  rfl

/-- Settles O35: replies by `reply_of_kept`, the decision by `cancel_spec` or a commit. -/
theorem leadDecidesTheLaunch : Obligations.LeadDecidesTheLaunch := by
  refine ⟨fun s g m l hl => ⟨?_, fun h hno => reply_of_not hl h hno, ?_, launchCommitCount_of_not hl⟩,
    fun s g m => ⟨fun hl => ⟨?_, fun h => ?_⟩, fun h => ⟨_, rfl, State.teamTakes_of_not _ h⟩⟩⟩
  · rintro h ⟨⟨hlead, hopen⟩, hcount, htime⟩
    exact reply_of_kept hl h hlead hopen hcount htime
  · rintro ⟨⟨hlead, hopen⟩, htime⟩
    refine ⟨fun h => ⟨_, launchCommitCount_of_ready hl hlead hopen htime h, ?_, ?_⟩, fun k h =>
      ⟨_, launchCommitCount_of_failing hl hlead hopen htime h, s.cancel_spec l k _ _ _⟩⟩
    · rw [State.toEach_only]
    · rw [State.toEach_only]
  · refine congrArg Host.Outcome.next ?_
    simp only [hl]
  · refine congrArg Host.Outcome.next ((State.teamTakes_of_takes _ h).trans ?_)
    simp only [hl]

end Sys2Proof.Machine
end

section
/-! PROOFS. Sending on the Morkan link: what a packet that leaves may change (R350, R351, R353, R377). -/

namespace Sys2Proof.Machine

/-! ## The frame of a send -/

section
variable {g : GroupIx} {s t u : State}

/-- Nothing has been sent. -/
theorem sendsOnly.refl (g : GroupIx) (s : State) : sendsOnly g s s := ⟨rfl, fun _ _ => rfl⟩

/-- Two sends are one. -/
theorem sendsOnly.trans (h : sendsOnly g s t) (h' : sendsOnly g t u) : sendsOnly g s u := by
  refine ⟨?_, fun k hk => (h'.2 k hk).trans (h.2 k hk)⟩
  rw [h'.1, h.1]

/-- Either of two sends. -/
theorem sendsOnly.ite (c : Prop) [Decidable c] (ht : sendsOnly g s t) (hu : sendsOnly g s u) : sendsOnly g s (if c then t else u) := by
  split
  · exact ht
  · exact hu

/-- A send logs nothing. -/
theorem sendsOnly.logs (h : sendsOnly g s t) : linkLogsOnly g s t := by
  refine ⟨?_, h.2⟩
  rw [h.1]

/-- Nothing has happened. -/
theorem linkLogsOnly.refl (g : GroupIx) (s : State) : linkLogsOnly g s s := (sendsOnly.refl g s).logs

/-- Two changes with the log are one. -/
theorem linkLogsOnly.trans (h : linkLogsOnly g s t) (h' : linkLogsOnly g t u) : linkLogsOnly g s u := by
  refine ⟨?_, fun k hk => (h'.2 k hk).trans (h.2 k hk)⟩
  rw [h'.1, h.1]

end

section
variable (s : State) (g : GroupIx) (u : SubIx)

/-- A rewritten group. -/
theorem State.modGroup_sendsOnly (f : LinkGroup → LinkGroup) : sendsOnly g s (s.modGroup g f) :=
  ⟨rfl, fun _ hk => State.modGroup_group_other _ _ _ _ hk⟩

/-- A rewritten sublink. -/
theorem State.modSub_sendsOnly (f : Sublink → Sublink) : sendsOnly g s (s.modSub g u f) :=
  ⟨rfl, fun _ hk => State.modSub_group_other _ _ _ _ _ hk⟩

/-- Something leaves the module. -/
theorem State.emit_sendsOnly (o : Out) : sendsOnly g s (s.emit o) := ⟨rfl, fun _ _ => rfl⟩

/-- A rewritten context. -/
theorem State.modCtx_sendsOnly (x : BitVec 16) (f : Ctx → Ctx) : sendsOnly g s (s.modCtx x f) := ⟨rfl, fun _ _ => rfl⟩

/-- Another state of the fabric. -/
theorem State.withFab_sendsOnly (f : Fab) : sendsOnly g s { s with fab := f } := ⟨rfl, fun _ _ => rfl⟩

/-- A logged event. -/
theorem State.logEvent_linkLogsOnly (cls unit loc kind ident : Nat) (d : List Byte) :
    linkLogsOnly g s (s.logEvent cls unit loc kind ident d) := by
  rw [State.logEvent_only]
  exact ⟨rfl, fun _ _ => rfl⟩

/-- Traffic counted on the congestion map. -/
theorem State.countMap_sendsOnly (f : CMapAcc → CMapAcc) : sendsOnly g s (s.countMap f) := by
  unfold State.countMap
  rw [State.rollMap_only]
  exact s.withFab_sendsOnly g _

/-- A charged shaper. -/
theorem State.chargeRope_sendsOnly (p : LinkPacket) : sendsOnly g s (s.chargeRope g p) := by
  unfold State.chargeRope
  split
  · exact sendsOnly.refl g s
  · split
    · exact s.withFab_sendsOnly g _
    · exact sendsOnly.refl g s

/-- One packet leaves. -/
theorem State.sendOne_sendsOnly (p : TxPkt) : sendsOnly g s (s.sendOne g u p) := by
  unfold State.sendOne
  dsimp only
  refine sendsOnly.trans ?_ (State.emit_sendsOnly _ g _)
  have hmap : ∀ f h, sendsOnly g s (if isFabric g && decide (2 ≤ p.pkt.vc.toNat) then
      ((s.chargeRope g p.pkt).modSub g u f).countMap h else (s.chargeRope g p.pkt).modSub g u f) := fun f h =>
    have hsent := (s.chargeRope_sendsOnly g p.pkt).trans (State.modSub_sendsOnly _ g u f)
    sendsOnly.ite _ (hsent.trans (State.countMap_sendsOnly _ g h)) hsent
  exact sendsOnly.ite (3 ≤ p.pkt.vc.toNat) ((hmap _ _).trans (State.modCtx_sendsOnly _ g _ _)) (hmap _ _)

/-- Packets leave while any may. -/
theorem State.pump_sendsOnly (n : Nat) : sendsOnly g s (s.pump g u n) := by
  induction n generalizing s with
  | zero => exact sendsOnly.refl g s
  | succ n ih =>
    unfold State.pump
    split
    · exact sendsOnly.refl g s
    · split
      · exact sendsOnly.refl g s
      · exact (s.sendOne_sendsOnly g u _).trans (ih _)

/-- All that may leave, leaves. -/
theorem State.pumpAll_sendsOnly : sendsOnly g s (s.pumpAll g u) := s.pump_sendsOnly g u _

/-- A packet is sent or queued. -/
theorem State.sendLink_sendsOnly (p : LinkPacket) : sendsOnly g s (s.sendLink g u p) :=
  (s.modSub_sendsOnly g u _).trans (State.pumpAll_sendsOnly _ g u)

end

/-- A grant leaves on its context's group. -/
theorem State.sendGrant_sendsOnly (s : State) (k : Ctx) (dst n lease : Nat) (resume : Bool) :
    sendsOnly k.group s (s.sendGrant k dst n lease resume) :=
  (s.withFab_sendsOnly _ _).trans (State.sendLink_sendsOnly _ _ _ _)

/-- Credits owed leave on their context's group. -/
theorem State.grantOwed_sendsOnly (s : State) (k : Ctx) (resume : Bool) : sendsOnly k.group s (s.grantOwed k resume) :=
  (s.modCtx_sendsOnly _ _ _).trans (State.sendGrant_sendsOnly _ _ _ _ _ _)

end Sys2Proof.Machine
end

section
/-! PROOFS. The launch pitch and the launch count (R183, R184, R231, R310, R321). -/

namespace Sys2Proof.Machine

/-! ## What a boundary and the grants of a launch leave -/

/-- Two states differ in the control network, the links, the fabric, the log and what has left the module. -/
def netOnly (s t : State) : Prop := t = { s with ctl := t.ctl, links := t.links, fab := t.fab, flt := t.flt, out := t.out }

/-- Two such changes are one. -/
theorem netOnly.trans {s t u : State} (h : netOnly s t) (h' : netOnly t u) : netOnly s u := by
  unfold netOnly at *
  rw [h', h]

/-- What a launch reads of a state that such changes leave. -/
theorem netOnly.frame {s t : State} (h : netOnly s t) :
    t.mem = s.mem ∧ t.cores = s.cores ∧ t.pit = s.pit ∧ t.glb = s.glb ∧ t.cfg = s.cfg ∧ t.grd = s.grd ∧ t.aud = s.aud := by
  rw [h]
  exact ⟨rfl, rfl, rfl, rfl, rfl, rfl, rfl⟩

/-- A fold of such changes is one. -/
theorem netOnly.foldl {α : Type} {F : State → α → State} (hF : ∀ s x, netOnly s (F s x)) (s : State) (l : List α) : netOnly s (l.foldl F s) :=
  List.foldlRecOn (motive := fun t => netOnly s t) l F rfl fun t ht x _ => ht.trans (hF t x)

/-- Either of two such changes. -/
theorem netOnly.ite {s t u : State} (c : Prop) [Decidable c] (ht : netOnly s t) (hu : netOnly s u) : netOnly s (if c then t else u) := by
  split
  · exact ht
  · exact hu

/-- A send is one. -/
theorem sendsOnly.net {g : GroupIx} {s t : State} (h : sendsOnly g s t) : netOnly s t := by
  unfold netOnly
  rw [h.1]

/-- So are a carrel's first grants. -/
theorem State.grantLanding_net (s : State) (c : CoreIx) (k : Carrel) : netOnly s (s.grantLanding c k) := by
  refine netOnly.ite _ ?_ rfl
  unfold netOnly
  rw [State.grantSlots_only]

/-- A context's credits owed, granted. -/
theorem State.grantCtx_net (s : State) (x : BitVec 16) :
    netOnly s (match s.ctx? x with
      | some k => if k.owed = 0 then s else s.grantOwed k false
      | none => s) := by
  split
  · exact netOnly.ite _ rfl (s.grantOwed_sendsOnly _ _).net
  · rfl

/-- And every grant of a launch. -/
theorem State.grantAll_net (s : State) (im : TopoImage) : netOnly s (s.grantAll im) := by
  unfold State.grantAll
  refine netOnly.trans ?_ (netOnly.trans (netOnly.foldl (fun t e => ?_) _ _) (netOnly.foldl (fun t (e : CtxEntry) => t.grantCtx_net e.ctx) _ _))
  · exact netOnly.foldl (fun t c => netOnly.foldl (fun t i => netOnly.foldl (fun t k => t.grantLanding_net c _) _ _) _ _) _ _
  · exact netOnly.ite _ rfl rfl

/-- The tick is broadcast. -/
theorem State.tellTick_net (s : State) (n : Nat) : netOnly s (s.tellTick n) := by
  unfold State.tellTick netOnly
  rw [State.tellAll_only]

/-- The fault tables are the routers'. -/
theorem State.loadFaultTables_only (s : State) : s.loadFaultTables =
    { s with fields := s.loadFaultTables.fields, flt := s.loadFaultTables.flt, out := s.loadFaultTables.out } := by
  unfold State.loadFaultTables
  split
  · rfl
  · rfl
  · rw [State.routerService_only]

/-- An image's data is written in memory, byte for byte what the memory was. -/
theorem State.writeData_eq (s : State) (im : TopoImage) :
    s.writeData im = { s with mem := im.data.foldl (fun m d => m.write (addrLocal d.1) d.2 []) s.mem } := by
  unfold State.writeData
  induction im.data generalizing s with
  | nil => rfl
  | cons d ds ih => exact ih _

/-- A swap changes the fabric, the sets, the links, and the pitch unit's lock. -/
theorem State.swap_only (s : State) : s.swap = { s with
    fab := s.swap.fab, cfg := s.swap.cfg, links := s.swap.links
    pit := { s.pit with lock := s.swap.pit.lock, exchanges := s.swap.pit.exchanges } } := by
  have hset := s.settleShapers_only (shapeKeys s.cfg.active s.cfg.shadow)
  have hroot : ∀ w : State, w.rootLock = { w with pit := { w.pit with lock := w.rootLock.pit.lock, exchanges := w.rootLock.pit.exchanges } } :=
    fun w => by
      unfold State.rootLock
      split <;> rfl
  have hback : ∀ (c : Prop) [Decidable c] (w : State), (if c then w else w.retrainAll) = { w with links := (if c then w else w.retrainAll).links } :=
    fun c _ w => by
      split
      · rfl
      · exact w.retrainAll_only
  unfold State.swap
  generalize s.settleShapers (shapeKeys s.cfg.active s.cfg.shadow) = s1 at hset ⊢
  dsimp only
  rw [hback, hroot, hset]
  split <;> rfl

/-- What a boundary leaves of what a launch reads. -/
theorem State.atBoundary_frame (s : State) : s.atBoundary.mem = s.mem ∧ s.atBoundary.glb = s.glb ∧ s.atBoundary.pit.run = s.pit.run ∧
    s.atBoundary.pit.launch = s.pit.launch ∧ (∀ c, (s.atBoundary.core c).tasks = (s.core c).tasks) := by
  have hswap : s.swapIfDue.mem = s.mem ∧ s.swapIfDue.glb = s.glb ∧ s.swapIfDue.pit.run = s.pit.run ∧
      s.swapIfDue.pit.launch = s.pit.launch ∧ s.swapIfDue.cores = s.cores := by
    unfold State.swapIfDue
    split
    · rw [State.swap_only]
      exact ⟨rfl, rfl, rfl, rfl, rfl⟩
    · exact ⟨rfl, rfl, rfl, rfl, rfl⟩
  obtain ⟨hmem, hglb, hrun, hlaunch, hcores⟩ := hswap
  refine ⟨hmem, hglb, hrun, hlaunch, fun c => ?_⟩
  show ((s.swapIfDue.cores.map fun k : Core => { k with boundEff := k.bound })[c]).tasks = (s.cores[c]).tasks
  rw [hcores]
  rw [Fin.getElem_fin, Vector.getElem_map]
  rfl

/-! ## The loaded image -/

/-- A task context of a launched core. -/
theorem Core.launch_task (k : Core) (c : Nat) (im : TopoImage) (entry : Nat) (t : TaskIx) :
    ∃ len, (k.launch c im entry).tasks[t] = freshTask (im.carrelsOf c t.val) len entry :=
  ⟨_, Vector.getElem_ofFn _⟩

/-- A fresh task context has no count, no command and no fault, and the image's carrels. -/
theorem freshTask_spec (cars : List Carrel) (len entry : Nat) :
    (∀ i : Fin 64, ((freshTask cars len entry).ctr[i]).toNat = 0) ∧ (freshTask cars len entry).stopped = false ∧
      (freshTask cars len entry).cmds = [] ∧ ∀ k : Fin 9, (freshTask cars len entry).carrels[k] = cars.getD k.val {} := by
  refine ⟨fun i => ?_, rfl, rfl, fun k => Vector.getElem_ofFn _⟩
  show ((Vector.replicate 64 (0 : W32))[i]).toNat = 0
  rw [Fin.getElem_fin, Vector.getElem_replicate]
  rfl

/-- A loaded core's fresh task contexts. -/
theorem Core.launch_spec (k : Core) (c : Nat) (im : TopoImage) (entry : Nat) (t : TaskIx) :
    (∀ i : Fin 64, (((k.launch c im entry).tasks[t]).ctr[i]).toNat = 0) ∧ ((k.launch c im entry).tasks[t]).stopped = false ∧
      ((k.launch c im entry).tasks[t]).cmds = [] ∧ (k.launch c im entry).gangs = [] ∧
      ∀ j : Fin 9, ((k.launch c im entry).tasks[t]).carrels[j] = (im.carrelsOf c t.val).getD j.val {} := by
  obtain ⟨len, hlen⟩ := k.launch_task c im entry t
  rw [hlen]
  obtain ⟨hctr, hstop, hcmds, hcar⟩ := freshTask_spec (im.carrelsOf c t.val) len entry
  exact ⟨hctr, hstop, hcmds, rfl, hcar⟩

/-- What a loaded image leaves in the state: the launch and the captured team, memory with the data, and every core as launched. -/
theorem State.loadRun_spec (s : State) (l : Launch) :
    let im := (s.glb.slots[l.slot]).image
    let u := s.loadRun l
    (u.pit.launch = some { l with loaded := true } ∧ u.pit.captured = true ∧ u.pit.slot = l.slot ∧ u.pit.image = im ∧
      u.pit.teamRun = u.cfg.active.team ∧ u.grd.absentRun = u.cfg.active.absent ∧ u.aud.thr = 0 ∧ u.glb.entry = 0) ∧
      u.mem = (s.writeData im).mem ∧ ∀ c, u.core c = (s.core c).launch c.val im s.glb.entry.toNat := by
  intro im u
  obtain ⟨w, hu, hw⟩ : ∃ w : State, netOnly w u ∧ w = (State.loadFaultTables { s with
      cores := Vector.ofFn fun c => (s.cores[c]).launch c.val im s.glb.entry.toNat
      fields := Vector.ofFn fun f => (s.fields[f]).launch f im
      mcast := [], held := []
      glb := { s.glb with entry := 0 }
      intk := { s.intk with verRun := s.intk.archVer, passes := [] }
      fab := { s.fab with ctxs := im.ctxs.map fun (e : CtxEntry) => e.launch s.now, open_ := [] }
      grd := s.grd.launch im s.me s.cfg.active.absent
      aud := { s.aud with thr := 0, inexact0 := s.sumCnt CoreCount.inexact, ovf0 := s.sumCnt CoreCount.ovf }
      pit := { s.pit with
        teamRun := s.cfg.active.team, captured := true, slot := l.slot, image := im, entry := s.glb.entry.toNat, holdsRun := 0, arrivals := [],
        probe := s.pit.alt || s.pit.freeRoot, launch := some { l with loaded := true } } }).writeData im :=
    ⟨_, (State.grantAll_net _ im).trans (State.tellTick_net _ l.count), rfl⟩
  obtain ⟨hmem, hcores, hpit, hglb, hcfg, hgrd, haud⟩ := hu.frame
  rw [State.writeData_eq, State.loadFaultTables_only] at hw
  rw [hpit, hcfg, hgrd, haud, hglb, hmem, hw, s.writeData_eq im]
  refine ⟨⟨rfl, rfl, rfl, rfl, rfl, rfl, rfl, rfl⟩, rfl, fun c => ?_⟩
  rw [State.core, hcores, hw]
  exact Vector.getElem_ofFn _

section
variable {s : State} {l : Launch} (hl : s.pit.launch = some l)
include hl

/-- Before the launch pitch, with nothing committed, with the image loaded and while the warden is down nothing is loaded. -/
theorem launchPitchStart_of_not
    (h : ¬ (l.commit = some true ∧ l.loaded = false ∧ s.loadCount l ≤ s.gcnt ∧ s.glb.wardenUp = true)) :
    exec .launchPitchStart s = .next s := by
  refine congrArg Host.Outcome.next ?_
  simp only [hl]
  refine if_pos (Classical.byContradiction fun e => h ?_)
  simp only [Bool.or_eq_true, decide_eq_true_eq, not_or, Bool.not_eq_true, Bool.not_eq_false', bne_eq_false_iff_eq, Nat.not_lt] at e
  obtain ⟨⟨⟨hcommit, hloaded⟩, htime⟩, hup⟩ := e
  exact ⟨hcommit, hloaded, htime, hup⟩

section
variable (hcommit : l.commit = some true) (hloaded : l.loaded = false) (htime : s.loadCount l ≤ s.gcnt) (hup : s.glb.wardenUp = true)
include hcommit hloaded htime hup

omit hl in
/-- The launch pitch of a committed launch has come. -/
theorem launchPitchStart_guard : ¬ ((l.commit != some true || l.loaded || decide (s.gcnt < s.loadCount l) || !s.glb.wardenUp) = true) := by
  rw [hcommit, hloaded, hup, decide_eq_false (Nat.not_lt.2 htime)]
  decide

/-- The image of an armed slot is loaded where no run is active. -/
theorem launchPitchStart_of_fits (hst : (s.glb.slots[l.slot]).st = .armed) (hrun : s.pit.run = .idle) :
    exec .launchPitchStart s = .next (s.atBoundary.loadRun l) := by
  obtain ⟨-, hglb, hrun', -⟩ := s.atBoundary_frame
  refine congrArg Host.Outcome.next ?_
  simp only [hl]
  exact (if_neg (launchPitchStart_guard hcommit hloaded htime hup)).trans (if_pos (by rw [hglb, hrun', hst, hrun]; rfl))

/-- Otherwise the launch is dropped, and the lead told. -/
theorem launchPitchStart_of_unfit (h : ¬ ((s.glb.slots[l.slot]).st = .armed ∧ s.pit.run = .idle)) :
    ∃ r, exec .launchPitchStart s = .next
      (let s2 := if s.atBoundary.isLead then s.atBoundary else s.atBoundary.sendReply l r
       { s2 with pit := { s2.pit with launch := none } }) := by
  obtain ⟨-, hglb, hrun', -⟩ := s.atBoundary_frame
  refine ⟨if (s.atBoundary.glb.slots[l.slot]).st == .armed then 7 else 1, congrArg Host.Outcome.next ?_⟩
  simp only [hl]
  refine (if_neg (launchPitchStart_guard hcommit hloaded htime hup)).trans (if_neg fun e => h ?_)
  rw [hglb, hrun'] at e
  simpa only [Bool.and_eq_true, beq_iff_eq] using e

end

end

/-- A dropped launch leaves memory, slots, the run and every task context. -/
theorem State.dropLaunch_spec (s : State) (l : Launch) (r : Nat) :
    let s2 := if s.isLead then s else s.sendReply l r
    let u : State := { s2 with pit := { s2.pit with launch := none } }
    u.pit.launch = none ∧ u.mem = s.mem ∧ u.glb = s.glb ∧ u.pit.run = s.pit.run ∧ u.cores = s.cores := by
  dsimp only
  split
  · exact ⟨rfl, rfl, rfl, rfl, rfl⟩
  · rw [State.sendReply_only]
    exact ⟨rfl, rfl, rfl, rfl, rfl⟩

/-- Settles O36: the image by `loadRun_spec` from the state at the boundary, a dropped launch by `dropLaunch_spec`. -/
theorem launchPitchLoadsTheImage : Obligations.LaunchPitchLoadsTheImage := by
  refine ⟨fun s l hl => ⟨?_, ?_, launchPitchStart_of_not hl⟩, fun s hl => congrArg Host.Outcome.next (by simp only [hl])⟩
  · rintro ⟨hcommit, hloaded, htime, hup⟩ ⟨hst, hrun⟩
    obtain ⟨hmem, hglb, -⟩ := s.atBoundary_frame
    obtain ⟨⟨hlaunch, hcap, hslot, him, hteam, habs, hthr, hentry⟩, hdata, hcore⟩ := s.atBoundary.loadRun_spec l
    rw [hglb] at him hdata
    refine ⟨_, launchPitchStart_of_fits hl hcommit hloaded htime hup hst hrun, hlaunch, hcap, hslot, him, hteam, habs, hthr, hentry, ?_,
      fun c t => ?_⟩
    · rw [hdata, State.writeData_eq, State.writeData_eq, hmem]
    · rw [hglb] at hcore
      obtain ⟨hctr, hstop, hcmds, hgangs, hcar⟩ := (s.atBoundary.core c).launch_spec c.val (s.glb.slots[l.slot]).image s.glb.entry.toNat t
      rw [← hcore c] at hctr hstop hcmds hgangs hcar
      exact ⟨hctr, hstop, hcmds, hgangs, hcar⟩
  · rintro ⟨hcommit, hloaded, htime, hup⟩ hunfit
    obtain ⟨r, hexec⟩ := launchPitchStart_of_unfit hl hcommit hloaded htime hup hunfit
    obtain ⟨hmem, hglb, hrun, -, htasks⟩ := s.atBoundary_frame
    obtain ⟨hlaunch, hmem', hglb', hrun', hcores⟩ := s.atBoundary.dropLaunch_spec l r
    refine ⟨_, hexec, hlaunch, hmem'.trans hmem, by rw [hglb', hglb], hrun'.trans hrun, fun c => ?_⟩
    rw [State.core, hcores]
    exact htasks c

/-! ## The launch count -/

section
variable {s : State} {l : Launch} (hl : s.pit.launch = some l)
include hl

/-- Before the count, and without a decision, nothing begins. -/
theorem launchCount_of_not (h : ¬ (l.count ≤ s.gcnt ∧ l.commit ≠ none)) : exec .launchCount s = .next s := by
  refine congrArg Host.Outcome.next ?_
  simp only [hl]
  refine if_pos (Classical.byContradiction fun e => h ?_)
  simp only [Bool.or_eq_true, decide_eq_true_eq, not_or, Option.isNone_iff_eq_none, Nat.not_lt] at e
  exact e

variable (htime : l.count ≤ s.gcnt) (hcommit : l.commit ≠ none)
include htime hcommit

omit hl in
/-- The launch count of a decided launch has come. -/
theorem launchCount_guard : ¬ ((decide (s.gcnt < l.count) || l.commit.isNone) = true) := by
  rw [decide_eq_false (Nat.not_lt.2 htime), Option.isNone_eq_false_iff.2 (Option.isSome_iff_ne_none.2 hcommit)]
  decide

/-- A loaded image runs. -/
theorem launchCount_of_loaded (h : l.loaded = true) : exec .launchCount s = .next (s.beginRun l) := by
  refine congrArg Host.Outcome.next ?_
  simp only [hl]
  exact (if_neg (launchCount_guard htime hcommit)).trans (if_pos h)

/-- One not loaded drops the launch; a member that had no decision sends OVERRUN. -/
theorem launchCount_of_dropped (h : l.loaded = false) : exec .launchCount s =
    .next (if l.commit = some false then State.sendOverrun { s with pit := { s.pit with launch := none } } (teamLead s.cfg.active.team) l.count
      else { s with pit := { s.pit with launch := none } }) := by
  refine congrArg Host.Outcome.next ?_
  simp only [hl]
  exact (if_neg (launchCount_guard htime hcommit)).trans (if_neg (by rw [h]; decide))

end

/-- OVERRUN is counted, and leaves where the group carries team messages. -/
theorem State.sendOverrun_spec (s : State) (lead bound : Nat) :
    s.sendOverrun lead bound = { s with pit := { s.pit with overrun := bump s.pit.overrun, onGroup8 := (s.sendOverrun lead bound).pit.onGroup8 }
                                        out := (s.sendOverrun lead bound).out } ∧
      (s.carriesTeam s.teamGroup 0 = true → (s.sendOverrun lead bound).out = s.out ++ [.team s.teamGroup 0 lead (s.teamMsg 0x12 0 bound 0 0)]) := by
  refine ⟨?_, fun h => ?_⟩
  · unfold State.sendOverrun
    rw [State.toTeam_only]
  · exact congrArg State.out (if_pos h)

/-- The fetching of a core's task contexts as the run begins. -/
theorem State.beginRun_active (s : State) (l : Launch) (c : CoreIx) (t : TaskIx) : ((s.beginRun l).task c t).active =
    ((s.task c t).active || (s.task c t).sliceLen != 0 && !(s.task c t).ended) := by
  have hcore : (s.beginRun l).core c = (s.core c).begin := Vector.getElem_map _ _
  have htask : (s.beginRun l).task c t = ((s.core c).begin).tasks[t] := congrArg (fun k : Core => k.tasks[t]) hcore
  rw [htask]
  exact congrArg Task.active (Vector.getElem_map _ _)

/-- Settles O37: a run begun, an OVERRUN, a launch dropped. -/
theorem launchCountBeginsTheRun : Obligations.LaunchCountBeginsTheRun := by
  refine ⟨fun s l hl => ⟨?_, ?_, ?_, launchCount_of_not hl⟩, fun s hl => congrArg Host.Outcome.next (by simp only [hl])⟩
  · rintro ⟨htime, hcommit⟩ hloaded
    refine ⟨_, launchCount_of_loaded hl htime hcommit hloaded, rfl, rfl, rfl, rfl, rfl, rfl, rfl, ?_, ?_, rfl, s.beginRun_active l⟩
    · exact congrArg ImgSlot.st (upd_same s.glb.slots l.slot _)
    · exact congrArg ImgSlot.runs (upd_same s.glb.slots l.slot _)
  · rintro ⟨htime, hcommit⟩ hloaded hfalse
    obtain ⟨honly, hout⟩ := State.sendOverrun_spec { s with pit := { s.pit with launch := none } } (teamLead s.cfg.active.team) l.count
    exact ⟨_, (launchCount_of_dropped hl htime hcommit hloaded).trans (by rw [if_pos hfalse]), honly, fun h => ⟨_, hout h, rfl⟩⟩
  · rintro ⟨htime, hcommit⟩ hloaded htrue
    exact (launchCount_of_dropped hl htime hcommit hloaded).trans (by rw [if_neg (by rw [htrue]; decide)])

end Sys2Proof.Machine
end

section
/-! PROOFS. Holds, decisions and benighting (R169, R303, R315, R322 to R329, R482, R483). -/

namespace Sys2Proof.Machine

/-! ## Requests for a hold -/

section
variable {s t : State} (ht : ∀ c, (t.core c).tasks = (s.core c).tasks) (hp : t.pit = s.pit) (c : CoreIx)
include ht

/-- Unmet MARKs rest on the task contexts alone. -/
theorem State.unmet_congr (p : Nat) : t.unmet c p = s.unmet c p := by
  have htask : ∀ i, t.task c i = s.task c i := fun i => congrArg (fun v => v[i]) (ht c)
  have hunmet : ∀ i, t.markUnmet c i p = s.markUnmet c i p := fun i => funext fun e => by
    unfold State.markUnmet State.waitMet State.ctr
    rw [htask]
  unfold State.unmet
  simp only [htask, hunmet]

include hp

/-- So do the requests for a hold, and on the pitch unit. -/
theorem State.requests_congr : t.requests c = s.requests c := by
  unfold State.requests State.lastPitch State.image Core.unfinished
  rw [State.unmet_congr ht, hp, ht]

end

/-- Unmet MARKs do not rest on the pitch unit. -/
theorem State.unmet_withPit (s : State) (q : Pit) (c : CoreIx) (p : Nat) : State.unmet { s with pit := q } c p = s.unmet c p :=
  State.unmet_congr (fun _ => rfl) c p

/-- The guard point is noted (R322). -/
def State.guardPassed (s : State) : State := { s with pit := { s.pit with guardDone := true } }

/-- The note leaves the unmet MARKs. -/
theorem State.guardPassed_unmet (s : State) (c : CoreIx) (p : Nat) : s.guardPassed.unmet c p = s.unmet c p := s.unmet_withPit _ c p

/-- And the requests. -/
theorem State.guardPassed_requests (s : State) (c : CoreIx) : s.guardPassed.requests c = s.requests c := by
  unfold State.requests
  rw [State.guardPassed_unmet]
  rfl

/-- Counting leaves every task context. -/
theorem State.modCnt_core_tasks (s : State) (c d : CoreIx) (f : CoreCount → CoreCount) :
    ((s.modCnt c f).core d).tasks = (s.core d).tasks := by
  by_cases hd : d = c
  · subst hd
    rw [State.modCnt, State.modCore_core]
  · rw [State.modCnt_core_other _ _ _ _ hd]

/-- What a core's part of a guard point may change: no task context. -/
theorem State.askHold_frame (s : State) (c : CoreIx) :
    s.askHold c = { s with cores := (s.askHold c).cores, ctl := (s.askHold c).ctl, flt := (s.askHold c).flt, out := (s.askHold c).out } ∧
      ∀ d, ((s.askHold c).core d).tasks = (s.core d).tasks := by
  unfold State.askHold
  split
  · refine ⟨by rw [State.tell_only]; rfl, fun d => ?_⟩
    rw [State.core, State.tell_cores]
    exact s.modCnt_core_tasks c d _
  · exact ⟨rfl, fun _ => rfl⟩

/-- A core that requests a hold counts its unmet MARKs. -/
theorem State.askHold_markHold {s : State} {c : CoreIx} (h : s.requests c = true) :
    ((s.askHold c).core c).cnt.markHold = bump (s.core c).cnt.markHold (s.unmet c s.pit.pnum) := by
  rw [State.askHold, if_pos h, State.core, State.tell_cores]
  exact congrArg (fun k : Core => k.cnt.markHold) (State.modCore_core s c _)

/-- Another core's counts stay. -/
theorem State.askHold_core_other (s : State) {c d : CoreIx} (h : d ≠ c) : (s.askHold c).core d = s.core d := by
  unfold State.askHold
  split
  · rw [State.core, State.tell_cores]
    exact s.modCnt_core_other c d _ h
  · rfl

/-- Every core's part of a guard point. -/
def State.askHolds (s : State) : State := (List.finRange 256).foldl State.askHold s

/-- They change counts, what the cores send and the log. -/
theorem State.askHolds_frame (s : State) :
    s.askHolds = { s with cores := s.askHolds.cores, ctl := s.askHolds.ctl, flt := s.askHolds.flt, out := s.askHolds.out } ∧
      ∀ d, (s.askHolds.core d).tasks = (s.core d).tasks := by
  unfold State.askHolds
  refine List.foldlRecOn (motive := fun t : State => t = { s with cores := t.cores, ctl := t.ctl, flt := t.flt, out := t.out } ∧
    ∀ d, (t.core d).tasks = (s.core d).tasks) _ _ ⟨rfl, fun _ => rfl⟩ fun t ht c _ => ?_
  obtain ⟨hstep, htasks⟩ := t.askHold_frame c
  refine ⟨hstep.trans ?_, fun d => (htasks d).trans (ht.2 d)⟩
  rw [ht.1]

/-- A core that requests a hold has counted its unmet MARKs. -/
theorem State.askHolds_markHold {s : State} {c : CoreIx} (h : s.requests c = true) :
    (s.askHolds.core c).cnt.markHold = bump (s.core c).cnt.markHold (s.unmet c s.pit.pnum) := by
  have hother : ∀ (t : State) (d : CoreIx), d ≠ c →
      ((t.askHold d).core c, (t.askHold d).requests c, (t.askHold d).unmet c (t.askHold d).pit.pnum) =
        (t.core c, t.requests c, t.unmet c t.pit.pnum) := fun t d hd => by
    obtain ⟨honly, htasks⟩ := t.askHold_frame d
    have hpit : (t.askHold d).pit = t.pit := by rw [honly]
    rw [State.askHold_core_other t hd.symm, State.requests_congr htasks hpit, State.unmet_congr htasks, hpit]
  obtain ⟨t, ht, hview⟩ := foldl_at (F := State.askHold) (view := fun t : State => (t.core c, t.requests c, t.unmet c t.pit.pnum)) hother
    (List.finRange 256) s (List.nodup_finRange 256) (List.mem_finRange c)
  obtain ⟨hcore, hreq, hunmet⟩ : _ ∧ _ ∧ _ := ⟨congrArg Prod.fst ht, congrArg (fun x => x.2.1) ht, congrArg (fun x => x.2.2) ht⟩
  have hend : s.askHolds.core c = (t.askHold c).core c := by
    unfold State.askHolds
    simp only [Prod.mk.injEq] at hview
    exact hview.1
  have hlast := State.askHold_markHold (hreq.trans h)
  dsimp only at hcore hunmet
  rw [hend, hlast, hcore, hunmet]

/-- Where no core requests a hold, nothing is asked. -/
theorem State.askHolds_of_none {s : State} (h : ∀ c, s.requests c = false) : s.askHolds = s := by
  unfold State.askHolds
  refine List.foldlRecOn (motive := fun t : State => t = s) _ _ rfl fun t ht c _ => ?_
  rw [ht, State.askHold, if_neg (by rw [h c]; decide)]

/-- A change of the pitch unit and of what has left leaves the cores. -/
theorem pitOutOnly_cores {s t : State} (h : t = { s with pit := t.pit, out := t.out }) : t.cores = s.cores := by
  rw [h]

/-- The module's one HOLD_REQ (R322). -/
theorem State.sendHoldReq_spec (s : State) : let u := s.sendHoldReq
    (u.pit.wantHold = true ∧ u.pit.bound = s.pit.bound ∧ u.mem = s.mem ∧
      (s.pit.wantHold = false → u.pit.holdReq = bump s.pit.holdReq ∧ (s.carriesTeam s.teamGroup 0 = true →
        u.out.getLast? = some (.team s.teamGroup 0 (teamLead s.pit.teamRun) (s.teamMsg 0x10 0 s.pit.bound 0 0)))) ∧
      (s.pit.wantHold = true → u.pit.holdReq = s.pit.holdReq)) ∧
    u = { s with pit := u.pit, out := u.out } ∧ u.pit.guardDone = s.pit.guardDone := by
  unfold State.sendHoldReq
  split
  next h => exact ⟨⟨h, rfl, rfl, fun e => absurd h (by rw [e]; decide), fun _ => rfl⟩, rfl, rfl⟩
  next h =>
    have hout : s.carriesTeam s.teamGroup 0 = true →
        (State.toTeam { s with pit := { s.pit with wantHold := true, holdReq := bump s.pit.holdReq } } (teamLead s.pit.teamRun)
          (s.teamMsg 0x10 0 s.pit.bound 0 0)).out =
            s.out ++ [.team s.teamGroup 0 (teamLead s.pit.teamRun) (s.teamMsg 0x10 0 s.pit.bound 0 0)] :=
      fun hc => congrArg State.out (if_pos hc)
    refine ⟨⟨?_, ?_, ?_, fun _ => ⟨?_, fun hc => by rw [hout hc, List.getLast?_concat]⟩, fun e => absurd e h⟩, ?_, ?_⟩ <;>
      rw [State.toTeam_only]

section
variable {s : State}

/-- Before the guard point, after it, and while no run is active, nothing is asked. -/
theorem guardPoint_of_not (h : ¬ (s.pit.run = .running ∧ s.pit.guardDone = false ∧ s.guardAt ≤ s.gcnt)) :
    exec .guardPoint s = .next s := by
  refine congrArg Host.Outcome.next (if_pos (Classical.byContradiction fun e => h ?_))
  simp only [Bool.or_eq_true, decide_eq_true_eq, not_or, Bool.not_eq_true, bne_eq_false_iff_eq, Nat.not_lt] at e
  obtain ⟨⟨hrun, hdone⟩, htime⟩ := e
  exact ⟨hrun, hdone, htime⟩

variable (hrun : s.pit.run = .running) (hdone : s.pit.guardDone = false) (htime : s.guardAt ≤ s.gcnt)
include hrun hdone htime

/-- The guard point has come. -/
theorem guardPoint_of_due : exec .guardPoint s = .next
    (if (List.finRange 256).any s.requests then s.guardPassed.askHolds.sendHoldReq
      else s.guardPassed.askHolds) :=
  congrArg Host.Outcome.next (if_neg (by rw [hrun, hdone, decide_eq_false (Nat.not_lt.2 htime)]; decide))

/-- Without a request nothing more is done. -/
theorem guardPoint_of_none (h : ∀ c, s.requests c = false) :
    exec .guardPoint s = .next { s with pit := { s.pit with guardDone := true } } := by
  have hany : (List.finRange 256).any s.requests = false := by
    rw [List.any_eq_false]
    exact fun c _ => by rw [h c]; decide
  rw [guardPoint_of_due hrun hdone htime, if_neg (by rw [hany]; decide)]
  exact congrArg Host.Outcome.next (State.askHolds_of_none fun c => (s.guardPassed_requests c).trans (h c))

/-- With one the module sends its HOLD_REQ. -/
theorem guardPoint_of_some {c : CoreIx} (h : s.requests c = true) :
    exec .guardPoint s = .next s.guardPassed.askHolds.sendHoldReq := by
  rw [guardPoint_of_due hrun hdone htime, if_pos (List.any_eq_true.2 ⟨c, List.mem_finRange c, h⟩)]

end

section
variable {s t : State} (hlinks : t.links = s.links)

include hlinks in
/-- Whether a sublink carries team messages rests on the links. -/
theorem State.carriesTeam_congr : t.carriesTeam = s.carriesTeam := by
  funext g u
  unfold State.carriesTeam State.sub State.group
  rw [hlinks]

include hlinks in
/-- Which group carries them rests on the links and on the pitch unit's choice. -/
theorem State.teamGroup_congr (hp : t.pit.onGroup8 = s.pit.onGroup8) : t.teamGroup = s.teamGroup := by
  unfold State.teamGroup State.steady State.sub State.group
  rw [hlinks, hp]

/-- A team message rests on who this module is and where its run is. -/
theorem State.teamMsg_congr (hrun : t.pit.run = s.pit.run) (hteam : t.pit.teamRun = s.pit.teamRun) (hn : t.pit.pnum = s.pit.pnum)
    (hcfg : t.cfg = s.cfg) (hglb : t.glb = s.glb) : t.teamMsg = s.teamMsg := by
  funext typ arg c1 c2 c3
  unfold State.teamMsg State.teamNow State.running State.me
  rw [hrun, hteam, hn, hcfg, hglb]

end

/-- What a guard point leaves when core `c` requests a hold: the module has asked, the core's unmet MARKs are counted, no task context
has changed. -/
theorem State.guardPoint_asks (s : State) {c : CoreIx} (h : s.requests c = true) : let u := s.guardPassed.askHolds.sendHoldReq
    u.pit.guardDone = true ∧ (u.pit.wantHold = true ∧ u.pit.bound = s.pit.bound ∧ u.mem = s.mem ∧
      (s.pit.wantHold = false → u.pit.holdReq = bump s.pit.holdReq ∧ (s.carriesTeam s.teamGroup 0 = true →
        u.out.getLast? = some (.team s.teamGroup 0 (teamLead s.pit.teamRun) (s.teamMsg 0x10 0 s.pit.bound 0 0)))) ∧
      (s.pit.wantHold = true → u.pit.holdReq = s.pit.holdReq)) ∧
    (u.core c).cnt.markHold = bump (s.core c).cnt.markHold (s.unmet c s.pit.pnum) ∧ ∀ d, (u.core d).tasks = (s.core d).tasks := by
  obtain ⟨honly, htasks⟩ := s.guardPassed.askHolds_frame
  have hmark := State.askHolds_markHold ((s.guardPassed_requests c).trans h)
  rw [State.guardPassed_unmet] at hmark
  generalize s.guardPassed.askHolds = w at honly htasks hmark ⊢
  obtain ⟨hasked, hreqonly, hguard⟩ := w.sendHoldReq_spec
  have hcores := pitOutOnly_cores hreqonly
  have hpit : w.pit = { s.pit with guardDone := true } := by
    rw [honly]
    rfl
  refine ⟨by rw [hguard, hpit], ?_, ?_, fun d => ?_⟩
  · have hlinks : w.links = s.links := by
      rw [honly]
      rfl
    have hmem : w.mem = s.mem := by
      rw [honly]
      rfl
    have hcfg : w.cfg = s.cfg ∧ w.glb = s.glb := by
      rw [honly]
      exact ⟨rfl, rfl⟩
    rw [State.teamGroup_congr hlinks (by rw [hpit]), State.carriesTeam_congr hlinks,
      State.teamMsg_congr (by rw [hpit]) (by rw [hpit]) (by rw [hpit]) hcfg.1 hcfg.2, hmem, hpit] at hasked
    exact hasked
  · rw [State.core, hcores]
    exact hmark
  · rw [State.core, hcores]
    exact htasks d

/-! ## Benighting and the lead's decision -/

/-- A lead that may benights the pitch: the abandon count lies 20 µs ahead, no request is left. -/
theorem State.benight_spec {s : State} (hs : s.steers = true) (ha : s.pit.abandonAt = none) :
    s.benight = { s with pit := { s.pit with abandonAt := some (s.gcnt + 20000), decided := true, requests := []
                                             onGroup8 := s.benight.pit.onGroup8 }, flt := s.benight.flt, out := s.benight.out } := by
  have heq : s.benight = (State.toEach { s with pit := { s.pit with abandonAt := some (s.gcnt + 20000), decided := true, requests := [] } }
      s.members (s.decisionMsg 2 s.pit.holds s.pit.bound (s.gcnt + 20000) s.quantum)).modEvent 3 5 2 (leBytes 2 (moduleBits s.pit.requests)) :=
    if_neg (by rw [hs, ha]; decide)
  rw [heq, State.modEvent_only, State.toEach_only]

/-- One that may not does nothing. -/
theorem State.benight_of_not {s : State} (h : ¬ (s.steers = true ∧ s.pit.abandonAt = none)) : s.benight = s := by
  refine if_pos (Classical.byContradiction fun e => h ?_)
  simpa only [Bool.or_eq_true, not_or, Bool.not_eq_true, Bool.not_eq_false', Option.isSome_eq_false_iff, Option.isNone_iff_eq_none] using e

/-- A decision sent leaves no request. -/
theorem State.decide_only (s : State) (action holds bound : Nat) : s.decide_ action holds bound =
    { s with pit := { s.pit with decided := true, requests := [], onGroup8 := (s.decide_ action holds bound).pit.onGroup8 }
             out := (s.decide_ action holds bound).out } :=
  State.toEach_only _ _ _

/-- What the lead does with its requests at the decision count (R323, R329). -/
def State.decideHold (s : State) : State :=
  if s.pit.requests.isEmpty then s.decide_ 0 s.pit.holds s.pit.bound
  else if s.pit.holds < 4 then
    (s.decide_ 1 (s.pit.holds + 1) (s.pit.bound + s.quantum)).modEvent 0 5 1 (leBytes 2 (moduleBits s.pit.requests))
  else s.benight

/-- A decision: none without requests, a hold while fewer than 4 are granted, else a benighting. -/
theorem State.decideHold_spec {s : State} (hs : s.steers = true) (ha : s.pit.abandonAt = none) :
    let u := s.decideHold
    u.pit.decided = true ∧ u.pit.requests = [] ∧ u.pit.bound = s.pit.bound ∧
      u.pit.abandonAt = (if s.pit.requests = [] ∨ s.pit.holds < 4 then none else some (s.gcnt + 20000)) ∧
      u = { s with pit := u.pit, flt := u.flt, out := u.out } := by
  have hif : ∀ {b : Prop} [Decidable b] {o : Option Nat}, b → (if b then none else o) = s.pit.abandonAt := fun hb => by rw [if_pos hb, ha]
  unfold State.decideHold
  dsimp only
  split
  next h =>
    rw [hif (.inl (List.isEmpty_iff.1 h)), State.decide_only]
    exact ⟨rfl, rfl, rfl, rfl, rfl⟩
  next h =>
    split
    next h4 =>
      rw [hif (.inr h4), State.modEvent_only, State.decide_only]
      exact ⟨rfl, rfl, rfl, rfl, rfl⟩
    next h4 =>
      rw [if_neg fun e => e.elim (fun he => h (List.isEmpty_iff.2 he)) h4, State.benight_spec hs ha]
      exact ⟨rfl, rfl, rfl, rfl, rfl⟩

/-- Before the decision count, once decided, and on another module nothing is decided. -/
theorem holdDecisionCount_of_not {s : State}
    (h : ¬ (s.steers = true ∧ s.pit.decided = false ∧ s.pit.abandonAt = none ∧ s.guardAt + 5000 ≤ s.gcnt)) :
    exec .holdDecisionCount s = .next s := by
  refine congrArg Host.Outcome.next (if_pos (Classical.byContradiction fun e => h ?_))
  simp only [Bool.or_eq_true, not_or, Bool.not_eq_true, Bool.not_eq_false', Option.isSome_eq_false_iff, Option.isNone_iff_eq_none,
    decide_eq_true_eq, Nat.not_lt] at e
  obtain ⟨⟨⟨hs, hd⟩, ha⟩, ht⟩ := e
  exact ⟨hs, hd, ha, ht⟩

/-- The decision count has come. -/
theorem holdDecisionCount_of_due {s : State} (hs : s.steers = true) (hd : s.pit.decided = false) (ha : s.pit.abandonAt = none)
    (ht : s.guardAt + 5000 ≤ s.gcnt) : exec .holdDecisionCount s = .next s.decideHold :=
  congrArg Host.Outcome.next (if_neg (by rw [hs, hd, ha, decide_eq_false (Nat.not_lt.2 ht)]; decide))

section
variable {s : State} {g : GroupIx} {m : TeamMsg} (h : s.takesTeam g m 0x10) (hs : s.steers = true)
include h

/-- A request to a module that does not lead the run is dropped. -/
theorem holdReq_of_member (hno : s.steers = false) : exec (.holdReq g m) s = .next s :=
  congrArg Host.Outcome.next ((State.teamTakes_of_takes _ h).trans (if_pos (by rw [hno]; rfl)))

include hs

/-- One at the decision count or later, or against an earlier boundary, is counted. -/
theorem holdReq_of_late (hl : m.c1.toNat < s.pit.bound ∨ m.c1.toNat = s.pit.bound ∧ s.guardAt + 5000 ≤ s.gcnt) :
    exec (.holdReq g m) s = .next { s with pit := { s.pit with lateReq := bump s.pit.lateReq } } := by
  refine congrArg Host.Outcome.next ((State.teamTakes_of_takes _ h).trans ((if_neg (by rw [hs]; decide)).trans (if_pos ?_)))
  simpa only [Bool.or_eq_true, Bool.and_eq_true, decide_eq_true_eq, beq_iff_eq] using hl

variable (hl : ¬ (m.c1.toNat < s.pit.bound ∨ m.c1.toNat = s.pit.bound ∧ s.guardAt + 5000 ≤ s.gcnt))
include hl

/-- One in time is not late. -/
theorem holdReq_of_in_time : exec (.holdReq g m) s =
    .next (if m.c1.toNat != s.pit.bound || decide (s.gcnt < s.guardAt) || s.pit.decided then s
      else { s with pit := { s.pit with requests := (m.src.toNat :: s.pit.requests).eraseDups } }) := by
  refine congrArg Host.Outcome.next ((State.teamTakes_of_takes _ h).trans ((if_neg (by rw [hs]; decide)).trans (if_neg ?_)))
  simpa only [Bool.or_eq_true, Bool.and_eq_true, decide_eq_true_eq, beq_iff_eq] using hl

end

/-- Settles O38: the guard point by `askHolds`, the HOLD_REQ by `sendHoldReq_spec`, the decision by `decideHold_spec`. -/
theorem holdsAreDecided : Obligations.HoldsAreDecided := by
  refine ⟨fun s v c => ?_, fun s g m => ?_⟩
  · intro due asked mine
    refine ⟨?_, ?_, guardPoint_of_not, fun h => ⟨fun hrun hdone => ?_, fun hno => ?_⟩, fun h => ?_⟩
    · rintro ⟨hrun, hdone, htime⟩ hnone
      exact guardPoint_of_none hrun hdone htime hnone
    · rintro ⟨hrun, hdone, htime⟩ hreq
      exact ⟨_, guardPoint_of_some hrun hdone htime hreq, s.guardPoint_asks hreq⟩
    · obtain ⟨hasked, hreqonly, -⟩ := v.sendHoldReq_spec
      refine ⟨_, congrArg Host.Outcome.next ((State.ctlArrive_of_serves h _).trans (if_pos ?_)), hasked, hreqonly⟩
      rw [hrun, hdone]
      rfl
    · refine congrArg Host.Outcome.next ((State.ctlArrive_of_serves h _).trans (if_neg fun e => ?_))
      obtain ⟨hrun, hdone⟩ := Bool.and_eq_true_iff.1 e
      exact hno.elim (· (beq_iff_eq.1 hrun)) fun hd => absurd hdone (by rw [hd]; decide)
    · exact congrArg Host.Outcome.next (State.ctlArrive_of_none h _)
  · intro late taken due
    refine ⟨fun h => ⟨?_, fun hs hl => holdReq_of_late h hs hl, fun hno => ?_⟩, fun h => ⟨_, rfl, State.teamTakes_of_not _ h⟩, ?_,
      holdDecisionCount_of_not⟩
    · rintro hs ⟨hbound, hguard, htime, hdec⟩
      rw [holdReq_of_in_time h hs (by omega), if_neg]
      rw [hbound, hdec, decide_eq_false (Nat.not_lt.2 hguard), bne_self_eq_false]
      decide
    · by_cases hs : s.steers = true
      · obtain ⟨hl, ht⟩ := hno.resolve_left (by rw [hs]; decide)
        rw [holdReq_of_in_time h hs hl]
        refine congrArg Host.Outcome.next (if_pos (Classical.byContradiction fun e => ht ?_))
        simp only [Bool.or_eq_true, not_or, Bool.not_eq_true, bne_eq_false_iff_eq, decide_eq_true_eq, Nat.not_lt] at e
        obtain ⟨⟨hbound, hguard⟩, hdec⟩ := e
        exact ⟨hbound, hguard, Classical.byContradiction fun hlt => hl (.inr ⟨hbound, Nat.not_lt.1 hlt⟩), hdec⟩
      · exact holdReq_of_member h (Bool.eq_false_iff.2 hs)
    · rintro ⟨hs, hd, ha, ht⟩
      exact ⟨_, holdDecisionCount_of_due hs hd ha ht, State.decideHold_spec hs ha⟩

end Sys2Proof.Machine
end

section
/-! PROOFS. Decisions, abandoned runs and lost partners (R303, R315, R322 to R329, R482, R483). -/

namespace Sys2Proof.Machine

/-! ## What an event logged leaves -/

/-- Two states differ in the log, its counts, the held fault messages and what has left the module. -/
def logOnly (s t : State) : Prop := t = { s with
  flt := { s.flt with log := t.flt.log, wr := t.flt.wr, coalesced := t.flt.coalesced, lastMsix := t.flt.lastMsix, held := t.flt.held }
  out := t.out }

/-- Two such changes are one. -/
theorem logOnly.trans {s t u : State} (h : logOnly s t) (h' : logOnly t u) : logOnly s u := by
  unfold logOnly at *
  rw [h', h]

/-- A fault message, sent or held. -/
theorem State.faultMsix_logOnly (s : State) (p : PortIx) : logOnly s (s.faultMsix p) := by
  unfold logOnly State.faultMsix
  split
  · rfl
  · split <;> rfl

/-- An event written in the log or coalesced. -/
theorem State.logCode_logOnly (s : State) (code : BitVec 16) (kind ident : Byte) (data : List Byte) :
    logOnly s (s.logCode code kind ident data) := by
  have hirq : ∀ (w : State) (cls : Nat), logOnly w (w.irqClass cls) := fun w cls => by
    unfold State.irqClass
    split
    · exact (w.faultMsix_logOnly 0).trans (State.faultMsix_logOnly _ 1)
    · rfl
  unfold State.logCode
  split
  · rfl
  · exact logOnly.trans (t := { s with flt := { s.flt with log := _, wr := _ } }) rfl (hirq _ _)

/-- A module's event leaves every other count of faults. -/
theorem State.modEvent_logOnly (s : State) (cls unit loc : Nat) (d : List Byte) : logOnly s (s.modEvent cls unit loc d) :=
  s.logCode_logOnly _ _ _ _

/-- The count of members declared lost stays. -/
theorem logOnly.member {s t : State} (h : logOnly s t) : t.flt.member = s.flt.member := by
  rw [h]

/-! ## Decisions applied -/

/-- A state that differs from another in the pitch unit, what it broadcasts, the log and what has left. -/
def pitTold (s u : State) : Prop := u = { s with pit := u.pit, ctl := u.ctl, flt := u.flt, out := u.out }

section
variable {s w t : State} (hw : pitTold s w)
include hw

/-- Such a change after such a change, where the second leaves the pitch unit. -/
theorem pitTold.after (h : t = { w with ctl := t.ctl, flt := t.flt, out := t.out }) : pitTold s t ∧ t.pit = w.pit := by
  refine ⟨?_, by rw [h]⟩
  unfold pitTold at *
  rw [h, hw]

/-- A broadcast is one. -/
theorem pitTold.tellAll (m : CtlMsg) : pitTold s (w.tellAll m) ∧ (w.tellAll m).pit = w.pit := hw.after (w.tellAll_only m)

/-- So is an event logged. -/
theorem pitTold.modEvent (cls unit loc : Nat) (d : List Byte) :
    pitTold s (w.modEvent cls unit loc d) ∧ (w.modEvent cls unit loc d).pit = w.pit := by
  have h := w.modEvent_only cls unit loc d
  generalize w.modEvent cls unit loc d = t at h ⊢
  exact hw.after (by rw [h])

end

/-- The pitch unit may have changed before. -/
theorem pitTold.of_withPit {s u : State} {q : Pit} (h : pitTold { s with pit := q } u) : pitTold s u := h

/-- A broadcast of a state whose pitch unit has changed. -/
theorem State.tellAll_told (s : State) (q : Pit) (m : CtlMsg) :
    pitTold s (State.tellAll { s with pit := q } m) ∧ (State.tellAll { s with pit := q } m).pit = q :=
  pitTold.tellAll (w := { s with pit := q }) rfl m

/-- A module's event is in its log. -/
theorem State.modEvent_logged (s : State) (cls unit loc : Nat) (d : List Byte) :
    ∃ x ∈ (s.modEvent cls unit loc d).flt.log, x.code = faultCode cls unit loc := by
  obtain ⟨x, hx, hcode, -⟩ := s.logHolds_logEvent cls unit loc kModule s.glb.modIx.val d
  exact ⟨x, hx, hcode⟩

/-- A hold applied moves the boundary by the quantum and counts. -/
theorem State.applyHold_spec (s : State) (quantum : Nat) : let u := s.applyHold quantum
    pitTold s u ∧ u.pit.bound = s.pit.bound + quantum ∧ u.pit.holds = s.pit.holds + 1 ∧ u.pit.guardDone = false ∧
      u.pit.holdGrant = bump s.pit.holdGrant ∧ u.pit.pnum = s.pit.pnum ∧ u.pit.abandonAt = s.pit.abandonAt := by
  obtain ⟨htold, hpit⟩ := s.tellAll_told { s.pit with
    bound := s.pit.bound + quantum, holds := s.pit.holds + 1, holdsRun := s.pit.holdsRun + 1, holdGrant := bump s.pit.holdGrant
    guardDone := false, wantHold := false, decided := false, requests := [], applied := false } (countMsg 3 (s.pit.bound + quantum))
  obtain ⟨htold', hpit'⟩ := htold.tellAll (countMsg 1 (s.pit.bound + quantum))
  unfold State.applyHold State.tellTick State.tellHold
  dsimp only
  rw [hpit', hpit]
  exact ⟨htold', rfl, rfl, rfl, rfl, rfl, rfl⟩

section
variable {s : State} {m : TeamMsg}

/-- A DECISION of none keeps the boundary. -/
theorem State.applyDecision_none (h : bits m.arg.toNat 0 2 = 0) :
    s.applyDecision m = State.tellTick { s with pit := { s.pit with applied := true } } s.pit.bound := by
  unfold State.applyDecision
  rw [h]
  rfl

/-- A hold is applied where the pitch has fewer than four and is not benighted. -/
theorem State.applyDecision_hold (h : bits m.arg.toNat 0 2 = 1) (ha : s.pit.abandonAt = none) (h4 : s.pit.holds < 4) :
    s.applyDecision m = State.applyHold { s with pit := { s.pit with applied := true } } m.c3.toNat := by
  unfold State.applyDecision
  rw [h]
  exact if_neg (by rw [ha, decide_eq_false (Nat.not_le.2 h4)]; decide)

/-- A benighting sets the abandon count. -/
theorem State.applyDecision_benight (h : bits m.arg.toNat 0 2 = 2) (ha : s.pit.abandonAt = none) : s.applyDecision m =
    State.tellTick { s with pit := { s.pit with applied := true, abandonAt := some m.c2.toNat } } s.pit.bound := by
  unfold State.applyDecision
  rw [h]
  exact if_neg (by rw [ha]; decide)

/-- A fifth hold, and one that follows a benighting, is only noted. -/
theorem State.applyDecision_noted (h : bits m.arg.toNat 0 2 = 1 ∧ 4 ≤ s.pit.holds ∨ bits m.arg.toNat 0 2 ≠ 0 ∧ s.pit.abandonAt ≠ none ∨
    bits m.arg.toNat 0 2 = 3) : s.applyDecision m = { s with pit := { s.pit with applied := true } } := by
  have hbenighted : s.pit.abandonAt ≠ none → s.pit.abandonAt.isSome = true := Option.isSome_iff_ne_none.2
  unfold State.applyDecision
  generalize bits m.arg.toNat 0 2 = action at h
  match action with
  | 0 => exact absurd h (by simp)
  | 1 =>
    refine if_pos (Bool.or_eq_true_iff.2 ?_)
    obtain ⟨-, h4⟩ | ⟨-, ha⟩ | h3 := h
    · exact .inr (decide_eq_true h4)
    · exact .inl (hbenighted ha)
    · exact absurd h3 (by decide)
  | 2 =>
    obtain ⟨h1, -⟩ | ⟨-, ha⟩ | h3 := h
    · exact absurd h1 (by decide)
    · exact if_pos (hbenighted ha)
    · exact absurd h3 (by decide)
  | _ + 3 => rfl

variable {g : GroupIx} (h : s.takesTeam g m 0x11)
include h

/-- A DECISION while no run is active is dropped. -/
theorem decision_of_idle (hrun : s.pit.run ≠ .running) : exec (.decision g m) s = .next s :=
  congrArg Host.Outcome.next ((State.teamTakes_of_takes _ h).trans (if_pos (bne_iff_ne.2 hrun)))

variable (hrun : s.pit.run = .running)
include hrun

/-- One of another pitch, or after its time, is discarded and logged. -/
theorem decision_of_late (ht : ¬ (m.pnum.toNat = s.pit.pnum ∧ s.gcnt < s.guardAt + 25000)) :
    exec (.decision g m) s = .next (s.modEvent 0 5 3) := by
  refine congrArg Host.Outcome.next ((State.teamTakes_of_takes _ h).trans ((if_neg (by rw [hrun]; decide)).trans
    (if_pos (Classical.byContradiction fun e => ht ?_))))
  simpa only [Bool.or_eq_true, not_or, Bool.not_eq_true, bne_eq_false_iff_eq, decide_eq_true_eq, Nat.not_le] using e

/-- One in time is applied. -/
theorem decision_of_timely (ht : m.pnum.toNat = s.pit.pnum ∧ s.gcnt < s.guardAt + 25000) :
    exec (.decision g m) s = .next (s.applyDecision m) :=
  congrArg Host.Outcome.next ((State.teamTakes_of_takes _ h).trans ((if_neg (by rw [hrun]; decide)).trans
    (if_neg (by rw [ht.1, bne_self_eq_false, decide_eq_false (Nat.not_le.2 ht.2)]; decide))))

end

/-- Settles O39: each action by its `applyDecision` lemma, the hold by `applyHold_spec`. -/
theorem decisionsApply : Obligations.DecisionsApply := by
  intro s g m running timely action told noted
  refine ⟨fun h hrun ht => ⟨fun hact => ?_, fun hact ha h4 => ?_, fun hact ha => ?_, fun hno => ?_⟩, fun h hrun ht => ?_,
    decision_of_idle, fun h => ⟨_, rfl, State.teamTakes_of_not _ h⟩, fun hrun hap htime => ?_, fun h => ?_⟩
  · exact ⟨_, (decision_of_timely h hrun ht).trans (congrArg _ (State.applyDecision_none hact)), s.tellAll_told _ _⟩
  · obtain ⟨htold, hbound, hholds, hguard, hgrant, hpnum, hab⟩ :=
      State.applyHold_spec { s with pit := { s.pit with applied := true } } m.c3.toNat
    have hexec := (decision_of_timely h hrun ht).trans (congrArg _ (State.applyDecision_hold hact ha h4))
    generalize State.applyHold { s with pit := { s.pit with applied := true } } m.c3.toNat = u at *
    exact ⟨u, hexec, htold.of_withPit, hbound, hholds, hguard, hgrant, hpnum, hab.trans ha⟩
  · exact ⟨_, (decision_of_timely h hrun ht).trans (congrArg _ (State.applyDecision_benight hact ha)), s.tellAll_told _ _⟩
  · exact (decision_of_timely h hrun ht).trans (congrArg _ (State.applyDecision_noted hno))
  · exact ⟨_, decision_of_late h hrun ht, s.modEvent_only _ _ _ _, s.modEvent_logged _ _ _ _⟩
  · obtain ⟨htold, hpit⟩ := s.tellAll_told { s.pit with applied := true } (countMsg 1 s.pit.bound)
    obtain ⟨htold', hpit'⟩ := htold.modEvent 0 5 3 []
    refine ⟨_, congrArg Host.Outcome.next (if_neg ?_), htold', hpit'.trans hpit, State.modEvent_logged _ _ _ _ _⟩
    rw [hrun, hap, decide_eq_false (Nat.not_lt.2 htime)]
    decide
  · refine congrArg Host.Outcome.next (if_pos (Classical.byContradiction fun e => ?_))
    simp only [Bool.or_eq_true, not_or, Bool.not_eq_true, bne_eq_false_iff_eq, decide_eq_true_eq] at e
    obtain ⟨⟨hrun, hap⟩, ht⟩ := e
    exact h.elim (· hrun) fun h => h.elim (fun e => absurd e (by rw [hap]; decide)) ht

/-! ## Runs abandoned -/

/-- What a benighting leaves. -/
theorem State.benight_leaves {s : State} (h : s.steers = true ∧ s.pit.abandonAt = none) :
    s.benight.pit.abandonAt = some (s.gcnt + 20000) ∧
      s.benight = { s with pit := s.benight.pit, flt := s.benight.flt, out := s.benight.out } := by
  have hb := State.benight_spec h.1 h.2
  generalize s.benight = u at hb ⊢
  rw [hb]
  exact ⟨rfl, rfl⟩

/-- The abandon count has not come, or the run is not running. -/
theorem abandonCount_of_not {s : State} (h : ¬ (s.pit.run = .running ∧ ∃ a, s.pit.abandonAt = some a ∧ a ≤ s.gcnt)) :
    exec .abandonCount s = .next s := by
  refine congrArg Host.Outcome.next ?_
  split
  · rfl
  next a ha =>
    refine if_neg fun e => h ?_
    rw [Bool.and_eq_true, beq_iff_eq, decide_eq_true_eq] at e
    exact ⟨e.1, a, ha, e.2⟩

/-- It has come. -/
theorem abandonCount_of_due {s : State} {a : Nat} (hrun : s.pit.run = .running) (ha : s.pit.abandonAt = some a) (ht : a ≤ s.gcnt) :
    exec .abandonCount s = .next s.abandonNow := by
  refine congrArg Host.Outcome.next ?_
  simp only [ha]
  exact if_pos (by rw [hrun, decide_eq_true ht]; rfl)

/-- A gang that is not discarded and carries a segment has started it, or was refused. -/
theorem State.started_of_not_cut {s : State} {c : CoreIx} {x : Gang} (h : s.cutGang c x = false) (hq : x.queue = .str) :
    x.started = true ∨ x.refused = true := by
  unfold State.cutGang at h
  rw [hq] at h
  cases hs : x.started
  · cases hr : x.refused
    · rw [hs, hr] at h
      exact absurd h (by simp)
    · exact .inr rfl
  · exact .inl rfl

/-- What an abandoned run leaves in each core: nothing waits, every counter stays, and only gangs that have started live. -/
theorem State.abandonNow_core (s : State) (c : CoreIx) : (s.abandonNow).core c = s.cutCore c (s.core c) := by
  exact Vector.getElem_ofFn _

/-- Its task contexts. -/
theorem State.abandonNow_task (s : State) (c : CoreIx) (t : TaskIx) :
    s.abandonNow.task c t = (s.task c t).cut t ((s.core c).gangs.filter (s.cutGang c)) := by
  refine (congrArg (fun k : Core => k.tasks[t]) (s.abandonNow_core c)).trans ?_
  exact Vector.getElem_ofFn _

/-- A task context cut short has no waiting command and its counters. -/
theorem Task.cut_spec (k : Task) (t : TaskIx) (gone : List Gang) (q : Queue) :
    (k.cut t gone).queue q = [] ∧ (k.cut t gone).active = false ∧ (k.cut t gone).ctr = k.ctr := by
  refine ⟨?_, rfl, rfl⟩
  cases q <;> rfl

/-- Chunks that landed whole are those not landed in part. -/
theorem Chunk.not_partly (x : Chunk) : (!x.partly) = decide (x.len ≤ x.got) := by
  rw [Chunk.partly, ← decide_not, decide_eq_decide, Nat.not_lt]

/-! ## Lost partners -/

/-- A benighting declares no member lost. -/
theorem State.benight_member (s : State) : s.benight.flt.member = s.flt.member := by
  unfold State.benight
  split
  · rfl
  · rw [(State.modEvent_logOnly _ _ _ _ _).member, State.toEach_only]

/-- An event logged after a change of the fault unit, and then a change of the pitch unit. -/
theorem pitFltOut_trans {s v w u : State} (hv : v = { s with flt := v.flt }) (hw : w = { v with flt := w.flt, out := w.out })
    (hu : u = { w with pit := u.pit, flt := u.flt, out := u.out }) : u = { s with pit := u.pit, flt := u.flt, out := u.out } := by
  rw [hu, hw, hv]

/-- Where the lead steers rests on the pitch unit and on who it is. -/
theorem State.steers_congr {s t : State} (hp : t.pit = s.pit) (hg : t.glb = s.glb) : t.steers = s.steers := by
  unfold State.steers State.leadsRun
  rw [hp, hg]

/-- A benighting after a loss is counted and logged. -/
theorem State.benight_lost {s w : State} (hs : s.steers = true) (hw : w = { s.countLost with flt := w.flt, out := w.out })
    (hmember : w.flt.member = bump s.flt.member) :
    w.benight.flt.member = bump s.flt.member ∧
      w.benight = { s with pit := w.benight.pit, flt := w.benight.flt, out := w.benight.out } ∧
      w.benight.pit.abandonAt = some (s.pit.abandonAt.getD (s.gcnt + 20000)) := by
  have hpit : w.pit = s.pit := by
    rw [hw]
    rfl
  have hglb : w.glb = s.glb := by
    rw [hw]
    rfl
  refine ⟨w.benight_member.trans hmember, ?_⟩
  cases ha : s.pit.abandonAt with
  | none =>
    obtain ⟨hab, hb⟩ := State.benight_leaves (s := w) ⟨(State.steers_congr hpit hglb).trans hs, by rw [hpit, ha]⟩
    have hgcnt : w.gcnt = s.gcnt := congrArg (fun p : Pit => p.gcnt.toNat) hpit
    rw [hgcnt] at hab
    exact ⟨pitFltOut_trans rfl hw hb, by rw [hab, Option.getD_none]⟩
  | some a =>
    rw [State.benight_of_not fun h => absurd h.2 (by rw [hpit, ha]; exact Option.some_ne_none a)]
    exact ⟨pitFltOut_trans rfl hw rfl, by rw [hpit, ha]; rfl⟩

/-- A present member of the team is lost. -/
theorem State.loseMember_of_here {s : State} {m : Nat} (hs : s.steers = true) (hm : m ∈ s.members) :
    s.loseMember m = (s.countLost.modEvent 3 5 7 [BitVec.ofNat 8 m]).benight :=
  if_pos (by rw [hs, List.contains_iff_mem.2 hm]; rfl)

/-- A lost member is counted and logged, and benights the pitch unless it has. -/
theorem State.loseMember_spec {s : State} {m : Nat} (hs : s.steers = true) (hm : m ∈ s.members) :
    (s.loseMember m).flt.member = bump s.flt.member ∧
      s.loseMember m = { s with pit := (s.loseMember m).pit, flt := (s.loseMember m).flt, out := (s.loseMember m).out } ∧
      (s.loseMember m).pit.abandonAt = some (s.pit.abandonAt.getD (s.gcnt + 20000)) := by
  rw [State.loseMember_of_here hs hm]
  exact State.benight_lost hs (State.modEvent_only _ _ _ _ _) (s.countLost.modEvent_logOnly 3 5 7 _).member

/-- What is no present member of a team that this module leads is not lost. -/
theorem State.loseMember_of_not {s : State} {m : Nat} (h : ¬ (s.steers = true ∧ m ∈ s.members)) : s.loseMember m = s := by
  refine if_neg fun e => h ?_
  rw [Bool.and_eq_true, List.contains_iff_mem] at e
  exact e

section
variable {s : State} (m : ModIx)

/-- A present member that has been silent for 100 µs. -/
theorem memberLost_of_silent {s : State} {m : ModIx} (hne : m.val ≠ s.me) (ht : s.heardAt m.val + 100000 ≤ s.now) :
    exec (.memberLost m) s = .next (s.loseMember m.val) :=
  congrArg Host.Outcome.next (if_pos (by rw [bne_iff_ne.2 hne, decide_eq_true ht]; rfl))

/-- A module that is not lost, or not one of the team's. -/
theorem memberLost_of_not (h : ¬ ((s.steers = true ∧ m.val ∈ s.members) ∧ m.val ≠ s.me ∧ s.heardAt m.val + 100000 ≤ s.now)) :
    exec (.memberLost m) s = .next s := by
  by_cases hl : m.val ≠ s.me ∧ s.heardAt m.val + 100000 ≤ s.now
  · exact (memberLost_of_silent hl.1 hl.2).trans (congrArg _ (State.loseMember_of_not fun e => h ⟨e, hl⟩))
  · refine congrArg Host.Outcome.next (if_neg fun e => hl ?_)
    simpa only [Bool.and_eq_true, bne_iff_ne, decide_eq_true_eq] using e

/-- A member in HOLDOVER for 10 ms. -/
theorem holdoverMemberLost_of_held (h : m.val = s.me → s.pit.lock = .holdover ∧ s.pit.heldSince + 10000000 ≤ s.now) :
    exec (.holdoverMemberLost m) s = .next (s.loseMember m.val) := by
  refine congrArg Host.Outcome.next (if_neg fun e => ?_)
  rw [Bool.and_eq_true, beq_iff_eq] at e
  obtain ⟨hlock, ht⟩ := h e.1
  exact absurd e.2 (by rw [hlock, decide_eq_true ht]; decide)

/-- One that is not lost, or not one of the team's. -/
theorem holdoverMemberLost_of_not (h : ¬ (s.steers = true ∧ m.val ∈ s.members) ∨
    ¬ (m.val = s.me → s.pit.lock = .holdover ∧ s.pit.heldSince + 10000000 ≤ s.now)) : exec (.holdoverMemberLost m) s = .next s := by
  by_cases hl : m.val = s.me → s.pit.lock = .holdover ∧ s.pit.heldSince + 10000000 ≤ s.now
  · exact (holdoverMemberLost_of_held m hl).trans (congrArg _ (State.loseMember_of_not (h.resolve_right (not_not_intro hl))))
  · refine congrArg Host.Outcome.next (if_pos (Classical.byContradiction fun e => hl fun hme => ?_))
    simpa only [hme, beq_self_eq_true, Bool.true_and, Bool.not_eq_true, Bool.not_eq_false', Bool.and_eq_true, beq_iff_eq,
      decide_eq_true_eq] using e

/-- A member whose lead has been silent for 100 µs sets the abandon count itself. -/
theorem leadLost_of_silent (hrun : s.pit.run = .running) (hl : s.leadsRun = false) (ha : s.pit.abandonAt = none)
    (ht : s.heardAt (teamLead s.pit.teamRun) + 100000 ≤ s.now) : exec .leadLost s =
      .next ((State.countLost { s with pit := { s.pit with abandonAt := some (s.gcnt + 20000) } }).modEvent 3 5 8
        [BitVec.ofNat 8 (teamLead s.pit.teamRun)]) :=
  congrArg Host.Outcome.next (if_pos (by rw [hrun, hl, ha, decide_eq_true ht]; rfl))

/-- Where no lead is lost nothing changes. -/
theorem leadLost_of_not (h : ¬ (s.pit.run = .running ∧ s.leadsRun = false ∧ s.pit.abandonAt = none ∧
    s.heardAt (teamLead s.pit.teamRun) + 100000 ≤ s.now)) : exec .leadLost s = .next s := by
  refine congrArg Host.Outcome.next (if_neg fun e => h ?_)
  simpa only [Bool.and_eq_true, beq_iff_eq, Bool.not_eq_true', Option.isNone_iff_eq_none, decide_eq_true_eq, and_assoc] using e

end

/-- Settles O40: a benighting by `benight_leaves`, the abandon count by `abandonNow_core`, lost members by `loseMember_spec`. -/
theorem runsThatFail : Obligations.RunsThatFail := by
  refine ⟨fun s g m p => ?_, fun s m => ?_⟩
  · intro may benighted due
    refine ⟨fun h hmay => ⟨_, congrArg Host.Outcome.next (State.teamTakes_of_takes _ h), State.benight_leaves hmay⟩,
      fun h hno => congrArg Host.Outcome.next ((State.teamTakes_of_takes _ h).trans (State.benight_of_not hno)),
      fun h => ⟨_, rfl, State.teamTakes_of_not _ h⟩,
      fun ho hc hl hmay => ⟨_, congrArg Host.Outcome.next ((State.guarded_of_ok _ _ ho hc).trans (if_pos hl)), State.benight_leaves hmay⟩,
      fun ho hc hl hno => congrArg Host.Outcome.next ((State.guarded_of_ok _ _ ho hc).trans ((if_pos hl).trans (State.benight_of_not hno))),
      fun ho hno => ?_, fun hclosed => congrArg Host.Outcome.next (State.guarded_of_closed _ _ hclosed), ?_, abandonCount_of_not⟩
    · refine congrArg Host.Outcome.next ?_
      by_cases hc : classS p = true
      · exact (State.guarded_of_ok _ _ ho hc).trans (if_neg (by rw [hno.resolve_left (by rw [hc]; decide)]; decide))
      · exact State.guarded_of_not _ _ ho (Bool.eq_false_iff.2 hc)
    · rintro ⟨hrun, a, ha, ht⟩
      refine ⟨_, abandonCount_of_due hrun ha ht, rfl, rfl, ?_, rfl, fun c t q => ?_, fun c => ?_⟩
      · exact List.filter_congr fun x _ => x.not_partly
      · rw [State.abandonNow_task]
        exact Task.cut_spec _ _ _ _
      · rw [State.abandonNow_core]
        refine ⟨rfl, fun x hx hq => State.started_of_not_cut (s := s) (c := c) ?_ hq⟩
        exact Bool.not_eq_true' _ ▸ (List.mem_filter.1 hx).2
  · intro lost silent here held lead leadless
    refine ⟨fun hh hne ht => ⟨_, memberLost_of_silent hne ht, State.loseMember_spec hh.1 hh.2⟩, memberLost_of_not m,
      fun hh hheld => ⟨_, holdoverMemberLost_of_held m hheld, State.loseMember_spec hh.1 hh.2⟩, holdoverMemberLost_of_not m, ?_,
      leadLost_of_not⟩
    rintro ⟨hrun, hl, ha, ht⟩
    have honly := State.modEvent_only (State.countLost { s with pit := { s.pit with abandonAt := some (s.gcnt + 20000) } }) 3 5 8
      [BitVec.ofNat 8 (teamLead s.pit.teamRun)]
    refine ⟨_, leadLost_of_silent hrun hl ha ht, (State.modEvent_logOnly _ _ _ _ _).member, ?_, ?_⟩
    · rw [honly]
      rfl
    · rw [ha, honly]
      rfl

end Sys2Proof.Machine
end

section
/-! PROOFS. Pitch boundaries and congestion maps (R185, R310, R402, R495). -/

namespace Sys2Proof.Machine

/-! ## What a boundary leaves -/

/-- What a boundary does to a state beside its run: the waiting values take effect, and a swap may change the sets, the links and the lock. -/
def boundaryOnly (s w : State) : Prop := w = { s with
  memu := { s.memu with timeEff := s.memu.timeout }
  intk := { s.intk with scrubEff := s.intk.scrubCfg }
  cores := s.cores.map fun k : Core => { k with boundEff := k.bound }
  fab := w.fab, cfg := w.cfg, links := w.links, pit := { s.pit with lock := w.pit.lock, exchanges := w.pit.exchanges } }

/-- Every boundary does it. -/
theorem State.atBoundary_only (s : State) : boundaryOnly s s.atBoundary := by
  have hswap : s.swapIfDue = { s with fab := s.swapIfDue.fab, cfg := s.swapIfDue.cfg, links := s.swapIfDue.links,
                                      pit := { s.pit with lock := s.swapIfDue.pit.lock, exchanges := s.swapIfDue.pit.exchanges } } := by
    unfold State.swapIfDue
    split
    · exact s.swap_only
    · rfl
  unfold boundaryOnly State.atBoundary
  generalize s.swapIfDue = v at hswap ⊢
  dsimp only
  rw [hswap]

section
variable {s w : State} (h : boundaryOnly s w)
include h

/-- A core at a boundary. -/
theorem boundaryOnly.core (c : CoreIx) : w.core c = { s.core c with boundEff := (s.core c).bound } := by
  have hcores : w.cores = s.cores.map fun k : Core => { k with boundEff := k.bound } := by rw [h]
  rw [State.core, hcores]
  exact Vector.getElem_map _ _

/-- Its task contexts. -/
theorem boundaryOnly.task (c : CoreIx) (t : TaskIx) : w.task c t = s.task c t :=
  (congrArg (fun k : Core => k.tasks[t]) (h.core c)).trans rfl

/-- The rest of what a run's boundary reads. -/
theorem boundaryOnly.frame : w.mem = s.mem ∧ w.glb = s.glb ∧ w.memu.timeEff = s.memu.timeout ∧ w.intk.scrubEff = s.intk.scrubCfg ∧
    w.pit = { s.pit with lock := w.pit.lock, exchanges := w.pit.exchanges } ∧ ∀ c, w.inRun c = s.inRun c := by
  rw [h]
  exact ⟨rfl, rfl, rfl, rfl, rfl, fun _ => rfl⟩

/-- Where the run stands. -/
theorem boundaryOnly.run : w.pit.pnum = s.pit.pnum ∧ w.pit.bound = s.pit.bound ∧ w.pit.run = s.pit.run ∧ w.pit.slot = s.pit.slot ∧
    w.pitchNs = s.pitchNs := by
  rw [h]
  exact ⟨rfl, rfl, rfl, rfl, rfl⟩

/-- Whether the run is over. -/
theorem boundaryOnly.runOver : w.runOver = s.runOver := by
  obtain ⟨-, -, -, -, hpit, hin⟩ := h.frame
  have hrun : w.pit.run = s.pit.run := by rw [hpit]
  have htasks : ∀ c, (w.core c).tasks = (s.core c).tasks := fun c => (congrArg Core.tasks (h.core c)).trans rfl
  have hgangs : w.noGangs = s.noGangs := by
    have hcores : w.cores = s.cores.map fun k : Core => { k with boundEff := k.bound } := by rw [h]
    unfold State.noGangs
    rw [hcores, Vector.all_map]
    rfl
  unfold State.runOver
  rw [hrun, hgangs]
  simp only [hin, htasks]

end

/-! ## Maps -/

/-- A closed map. -/
theorem State.closeMap_spec (s : State) (gcnt pnum : Nat) : let u := s.closeMap gcnt pnum
    u = { s with fab := u.fab } ∧ u.fab.acc = {} ∧ u.fab.maps = s.fab.maps + 1 ∧ u.fab.ctxs = s.fab.ctxs ∧ u.fab.mapTime = s.now ∧
      (s.fab.maps.getLsbD 0 = true → u.fab.cmap1 = s.fab.acc.bytes gcnt pnum ∧ u.fab.cmap0 = s.fab.cmap0) ∧
      (s.fab.maps.getLsbD 0 = false → u.fab.cmap0 = s.fab.acc.bytes gcnt pnum ∧ u.fab.cmap1 = s.fab.cmap1) :=
  ⟨rfl, rfl, rfl, rfl, rfl, fun h => ⟨if_pos h, if_pos h⟩,
    fun h => ⟨if_neg (by rw [h]; decide), if_neg (by rw [h]; decide)⟩⟩

/-- A map that is due is that of the pitch that has ended. -/
theorem State.rollMap_of_due {s : State} (h : s.mapDue = true) : s.rollMap =
    { s.closeMap s.pit.bound s.pit.pnum with fab := { (s.closeMap s.pit.bound s.pit.pnum).fab with mapAt := s.pit.bound } } :=
  if_pos h

/-- One is due while a run is active. -/
theorem State.running_of_mapDue {s : State} (h : s.mapDue = true) : s.running = true := by
  simp only [State.mapDue, Bool.and_eq_true] at h
  exact h.1.1.1

/-- A map closed or not, the boundary is the same. -/
theorem State.rollMap_boundaryOnly (s : State) : boundaryOnly s s.rollMap.atBoundary := by
  have h := s.rollMap.atBoundary_only
  have hroll := s.rollMap_only
  generalize s.rollMap = v at h hroll ⊢
  generalize v.atBoundary = w at h ⊢
  unfold boundaryOnly at *
  rw [h, hroll]

/-! ## The boundary of a run -/

/-- The run's boundary once its OVERRUN, where one is due, has left. -/
def State.tellLate (s : State) : State := if s.overrunDue then s.sendOverrun (teamLead s.pit.teamRun) s.pit.bound else s

/-- An OVERRUN is counted, and nothing else of the run changes. -/
theorem State.tellLate_only (s : State) : s.tellLate =
    { s with pit := { s.pit with overrun := s.tellLate.pit.overrun, onGroup8 := s.tellLate.pit.onGroup8 }, out := s.tellLate.out } := by
  unfold State.tellLate
  split
  · have h := (s.sendOverrun_spec (teamLead s.pit.teamRun) s.pit.bound).1
    generalize s.sendOverrun (teamLead s.pit.teamRun) s.pit.bound = u at h ⊢
    rw [h]
  · rfl

section
variable {s w u : State} (hw : w = { s with pit := { s.pit with overrun := w.pit.overrun, onGroup8 := w.pit.onGroup8 }, out := w.out })
include hw

/-- The next pitch begins where the last one ended. -/
theorem State.nextPitch_spec (hu : afterAnswer w.nextPitch u) :
    (u.pit.pnum = s.pit.pnum + 1 ∧ u.pit.beginAt = s.pit.bound ∧ u.pit.bound = s.pit.bound + s.pitchNs ∧ u.pit.holds = 0 ∧
      u.pit.run = s.pit.run ∧ u.pit.guardDone = false ∧ u.mem = s.mem) ∧ u.cores = s.cores := by
  obtain ⟨-, -, hu⟩ := hu
  rw [hu, hw]
  exact ⟨⟨rfl, rfl, rfl, rfl, rfl, rfl, rfl⟩, rfl⟩

/-- A run that has ended is idle, its slot is armed, and nothing of it lives. -/
theorem State.endRun_spec (hu : afterAnswer w.endRun u) :
    u.pit.run = .idle ∧ (∀ i, i = s.pit.slot → (u.glb.slots[i]).st = .armed) ∧ u.intk.reqs = [] ∧ u.mem = s.mem ∧
      ∀ c, (u.core c).gangs = [] := by
  obtain ⟨-, -, hu⟩ := hu
  have hslots : u.glb.slots = upd s.glb.slots s.pit.slot fun k => { k with st := .armed } := by
    rw [hu, hw]
    rfl
  have hcores : u.cores = s.cores.map Core.clearWork := by
    rw [hu, hw]
    rfl
  refine ⟨by rw [hu]; rfl, fun i hi => ?_, by rw [hu]; rfl, by rw [hu, hw]; rfl, fun c => ?_⟩
  · rw [hslots, hi]
    exact congrArg ImgSlot.st (upd_same _ _ _)
  · rw [State.core, hcores, Fin.getElem_fin, Vector.getElem_map]
    rfl

end

section
variable {s : State} (hrun : s.running = true)
include hrun

/-- Before the boundary of a run nothing changes. -/
theorem pitchBoundary_of_early (h : s.gcnt < s.pit.bound) : exec .pitchBoundary s = .next s :=
  congrArg Host.Outcome.next ((if_pos hrun).trans (if_pos h))

variable (htime : s.pit.bound ≤ s.gcnt)
include htime

/-- The boundary of a run. -/
theorem pitchBoundary_of_due : exec .pitchBoundary s = .next s.rollMap.atBoundary.runBoundary :=
  congrArg Host.Outcome.next ((if_pos hrun).trans (if_neg (Nat.not_lt.2 htime)))

/-- A run that is not over goes on. -/
theorem pitchBoundary_of_next (h : s.runOver = false) :
    exec .pitchBoundary s = .next s.rollMap.atBoundary.tellLate.nextPitch.answerAgain :=
  (pitchBoundary_of_due hrun htime).trans
    (congrArg Host.Outcome.next (if_neg (by rw [s.rollMap_boundaryOnly.runOver, h]; decide)))

/-- One that is over ends. -/
theorem pitchBoundary_of_over (h : s.runOver = true) :
    exec .pitchBoundary s = .next s.rollMap.atBoundary.tellLate.endRun.answerAgain.autoReset :=
  (pitchBoundary_of_due hrun htime).trans (congrArg Host.Outcome.next (if_pos (s.rollMap_boundaryOnly.runOver.trans h)))

end

/-- The warden resets the module only where R481 has it do so. -/
theorem State.autoReset_of_not {s : State} (h : s.autoDue = false) : s.autoReset = s := if_neg (by rw [h]; decide)

/-- A boundary of the grid while no run is active. -/
def State.onGrid (s : State) : State := { s with pit := { s.pit with idleAt := s.gridNow }, flt := { s.flt with clkLog := [] } }

section
variable {s : State} (hrun : s.running = false)
include hrun

/-- A boundary of the grid that has not passed. -/
theorem pitchBoundary_of_grid (h : s.gridNow ≠ s.pit.idleAt) : exec .pitchBoundary s = .next s.onGrid.atBoundary.answerAgain :=
  congrArg Host.Outcome.next ((if_neg (by rw [hrun]; decide)).trans (if_neg h))

/-- One that has. -/
theorem pitchBoundary_of_passed (h : s.gridNow = s.pit.idleAt) : exec .pitchBoundary s = .next s :=
  congrArg Host.Outcome.next ((if_neg (by rw [hrun]; decide)).trans (if_pos h))

/-- The map of an idle period. -/
theorem congestionMapClose_of_idle (h : s.fab.mapTime + s.idleNs ≤ s.now) :
    exec .congestionMapClose s = .next (s.closeMap s.gcnt (2 ^ 32 - 1)) :=
  congrArg Host.Outcome.next ((if_neg (by rw [hrun]; decide)).trans (if_neg (Nat.not_lt.2 h)))

/-- An idle period that goes on. -/
theorem congestionMapClose_of_early (h : s.now < s.fab.mapTime + s.idleNs) : exec .congestionMapClose s = .next s :=
  congrArg Host.Outcome.next ((if_neg (by rw [hrun]; decide)).trans (if_pos h))

end

/-- Settles O41: what each boundary leaves by `boundaryOnly`, the next pitch by `nextPitch_spec`, the end of a run by `endRun_spec`. -/
theorem pitchesFollowEachOther : Obligations.PitchesFollowEachOther := by
  intro s due closed
  refine ⟨?_, ?_, pitchBoundary_of_early, fun hrun hne => ?_, pitchBoundary_of_passed, fun hdue => ?_, fun hrun hno => ?_,
    fun hrun ht => ⟨_, congestionMapClose_of_idle hrun ht, s.closeMap_spec _ _⟩, congestionMapClose_of_early⟩
  · rintro ⟨hrun, htime⟩ hover
    have hb := s.rollMap_boundaryOnly
    obtain ⟨hpnum, hbound, hrun', -, hns⟩ := hb.run
    refine ⟨_, pitchBoundary_of_next hrun htime hover, ?_⟩
    obtain ⟨hnext, hcores⟩ := State.nextPitch_spec (State.tellLate_only _) (State.answerAgain_after s.rollMap.atBoundary.tellLate.nextPitch)
    rw [hb.frame.1, hns, hpnum, hbound, hrun'] at hnext
    obtain ⟨hpnum', hbegin, hbound', hholds, hrun', hguard, hmem⟩ := hnext
    refine ⟨hpnum', hbegin, hbound', hholds, hrun', hguard, hmem, fun c t => ?_, fun c => ?_⟩
    · rw [State.task, hcores]
      exact hb.task c t
    · rw [State.core, hcores]
      exact (congrArg Core.boundEff (hb.core c)).trans rfl
  · rintro ⟨hrun, htime⟩ hover
    have hb := s.rollMap_boundaryOnly
    obtain ⟨-, -, -, hslot, -⟩ := hb.run
    obtain ⟨hidle, harmed, hreqs, hmem, hgangs⟩ :=
      State.endRun_spec (State.tellLate_only _) (State.answerAgain_after s.rollMap.atBoundary.tellLate.endRun)
    exact ⟨_, pitchBoundary_of_over hrun htime hover, State.autoReset_of_not, hidle, harmed _ hslot.symm, hreqs,
      hmem.trans hb.frame.1, hgangs⟩
  · have hb := s.onGrid.atBoundary_only
    obtain ⟨hmem, -, htimeout, hscrub, hpit, -⟩ := hb.frame
    exact ⟨_, pitchBoundary_of_grid hrun hne, _, State.answerAgain_after _, by rw [hpit]; rfl, hmem, hb.task, htimeout, hscrub,
      fun c => congrArg Core.boundEff (hb.core c)⟩
  · refine ⟨_, congrArg Host.Outcome.next ((if_pos (State.running_of_mapDue hdue)).trans (State.rollMap_of_due hdue)), ?_, rfl⟩
    obtain ⟨-, hclosed⟩ := s.closeMap_spec s.pit.bound s.pit.pnum
    exact ⟨rfl, hclosed⟩
  · exact congrArg Host.Outcome.next ((if_pos hrun).trans (if_neg (by rw [hno]; decide)))

end Sys2Proof.Machine
end

section
/-! PROOFS. Time exchanges, intervals and references (R312 to R315, R443, R444, R482). -/

namespace Sys2Proof.Machine

/-! ## Requests -/

/-- A team message leaves where the sublink carries team messages. -/
theorem State.sendTeam_eq (s : State) (g : GroupIx) (u : SubIx) (d : Nat) (m : TeamMsg) :
    s.sendTeam g u d m = { s with out := s.out ++ (if s.carriesTeam g u then [.team g u d m] else []) } := by
  unfold State.sendTeam
  split
  · rfl
  · rw [List.append_nil]

/-- One to a module leaves on the group that team messages use now. -/
theorem State.toTeam_eq (s : State) (d : Nat) (m : TeamMsg) : s.toTeam d m =
    { s with pit := { s.pit with onGroup8 := s.teamGroup == 8 }
             out := s.out ++ (if s.carriesTeam s.teamGroup 0 then [.team s.teamGroup 0 d m] else []) } :=
  State.sendTeam_eq _ _ _ _ _

/-- Two states that ask for time alike: they differ in what is asked, when it was first asked, and what has left; the group is the same. -/
def asksAlike (s t : State) : Prop :=
  t = { s with
    pit := { s.pit with lastExch := t.pit.lastExch, rootAskAt := t.pit.rootAskAt, pendReq := t.pit.pendReq, onGroup8 := t.pit.onGroup8 }
    out := t.out } ∧ t.teamGroup = s.teamGroup

/-- The group that a team message leaves on is the group of the next one. -/
theorem State.teamGroup_of_onGroup {s t : State} (hp : t.pit.onGroup8 = (s.teamGroup == 8)) (hl : t.links = s.links) :
    t.teamGroup = s.teamGroup := by
  have hsteady : t.steady 6 = s.steady 6 := by
    unfold State.steady State.sub State.group
    rw [hl]
  rw [State.teamGroup, hp, hsteady]
  unfold State.teamGroup
  split
  next h => exact if_pos rfl
  next h => exact if_neg fun e => h (by simpa using Or.inr (by simpa using e))

section
variable {s t : State} (h : asksAlike s t)
include h

/-- What a request reads of a state that asks alike. -/
theorem asksAlike.frame : t.gcnt = s.gcnt ∧ t.now = s.now ∧ t.teamMsg = s.teamMsg ∧ t.carriesTeam = s.carriesTeam := by
  obtain ⟨honly, -⟩ := h
  refine ⟨by rw [honly]; rfl, by rw [honly], ?_, State.carriesTeam_congr (by rw [honly])⟩
  exact State.teamMsg_congr (by rw [honly]) (by rw [honly]) (by rw [honly]) (by rw [honly]) (by rw [honly])

/-- One request is remembered with its count, and leaves where the group carries team messages. -/
theorem State.askTime_spec (d : Nat) : asksAlike s (t.askTime d) ∧
    (t.askTime d).pit.pendReq = t.pit.pendReq ++ [{ dst := d, t1 := s.gcnt, at_ := s.now, grp := s.teamGroup }] ∧
    (t.askTime d).out = t.out ++ (if s.carriesTeam s.teamGroup 0 then [.team s.teamGroup 0 d (s.teamMsg 1 0 s.gcnt 0 0)] else []) := by
  obtain ⟨hgcnt, hnow, hmsg, hcar⟩ := h.frame
  obtain ⟨honly, hgroup⟩ := h
  have heq : t.askTime d = { t with
      pit := { t.pit with pendReq := t.pit.pendReq ++ [{ dst := d, t1 := s.gcnt, at_ := s.now, grp := s.teamGroup }]
                          onGroup8 := t.teamGroup == 8 }
      out := t.out ++ (if s.carriesTeam s.teamGroup 0 then [.team s.teamGroup 0 d (s.teamMsg 1 0 s.gcnt 0 0)] else []) } := by
    rw [← hgcnt, ← hnow, ← hmsg, ← hcar, ← hgroup]
    exact State.toTeam_eq _ _ _
  rw [heq]
  refine ⟨⟨?_, ?_⟩, rfl, rfl⟩
  · rw [honly]
  · refine (State.teamGroup_of_onGroup (s := t) ?_ ?_).trans hgroup <;> rfl

/-- So do several. -/
theorem State.askTimes_spec (ds : List Nat) : asksAlike s (ds.foldl State.askTime t) ∧
    (ds.foldl State.askTime t).pit.pendReq =
      t.pit.pendReq ++ ds.map (fun d => { dst := d, t1 := s.gcnt, at_ := s.now, grp := s.teamGroup }) ∧
    (ds.foldl State.askTime t).out =
      t.out ++ (if s.carriesTeam s.teamGroup 0 then ds.map (fun d => .team s.teamGroup 0 d (s.teamMsg 1 0 s.gcnt 0 0)) else []) := by
  induction ds generalizing t with
  | nil => exact ⟨h, (List.append_nil _).symm, by simp⟩
  | cons d ds ih =>
    obtain ⟨hstep, hpend, hout⟩ := State.askTime_spec h d
    obtain ⟨hall, hpend', hout'⟩ := ih hstep
    refine ⟨hall, ?_, ?_⟩
    · rw [List.foldl_cons, hpend', hpend, List.append_assoc]
      rfl
    · rw [List.foldl_cons, hout', hout, List.append_assoc]
      split <;> rfl

end

/-- A module that asks notes when it first asked. -/
def State.noteAsk (s : State) : State := { s with pit := { s.pit with
  lastExch := if s.pit.lastExch = 0 then s.now else s.pit.lastExch
  rootAskAt := if s.me == s.troot && !s.pit.gcntSet && s.pit.rootAskAt.isNone then some s.now else s.pit.rootAskAt } }

/-- Requests leave for the modules asked, and nothing else changes. -/
theorem State.timeReqSend_spec {s v : State} (hv : v = s.asks.foldl State.askTime s.noteAsk) :
    v = { s with pit := v.pit, out := v.out } ∧ v.pit.gcnt = s.pit.gcnt ∧
      v.pit.pendReq = s.pit.pendReq ++ s.asks.map (fun k => { dst := k, t1 := s.gcnt, at_ := s.now, grp := s.teamGroup }) ∧
      v.out = s.out ++ (if s.carriesTeam s.teamGroup 0 then s.asks.map fun k => .team s.teamGroup 0 k (s.teamMsg 1 0 s.gcnt 0 0) else []) := by
  obtain ⟨⟨honly, -⟩, hpend, hout⟩ := State.askTimes_spec (s := s) (t := s.noteAsk) ⟨rfl, rfl⟩ s.asks
  rw [← hv] at honly hpend hout
  exact ⟨by rw [honly], by rw [honly], hpend, hout⟩

section
variable {s : State} {g : GroupIx} {u : SubIx} {m : TeamMsg}

/-- What is no request, or came on a sublink that hears nothing, is dropped. -/
theorem timeReq_of_not (h : s.hears g u = false ∨ m.typ ≠ 1) : exec (.timeReq g u m) s = .next s := by
  refine congrArg Host.Outcome.next (if_pos ?_)
  rw [Bool.or_eq_true, Bool.not_eq_true', bne_iff_ne]
  exact h

variable (hh : s.hears g u = true) (ht : m.typ = 1)
include hh ht

/-- A quarantined group counts what it drops. -/
theorem timeReq_of_quar (hq : (s.group g).quar = true) :
    exec (.timeReq g u m) s = .next (s.modGroup g fun k => { k with quarDrop := bump k.quarDrop }) :=
  congrArg Host.Outcome.next ((if_neg (by rw [hh, ht, bne_self_eq_false]; decide)).trans (if_pos hq))

/-- A request is heard of, and answered by a module whose lock lets it. -/
theorem timeReq_of_heard (hq : (s.group g).quar = false) : exec (.timeReq g u m) s = .next
    (if s.pit.lock.answers then (s.hear m.src.toNat).sendTeam g u m.src.toNat (s.teamMsg 2 0 m.c1.toNat s.gcnt s.gcnt)
      else s.hear m.src.toNat) :=
  congrArg Host.Outcome.next ((if_neg (by rw [hh, ht, bne_self_eq_false]; decide)).trans (if_neg (by rw [hq]; decide)))

end

/-- A module heard of now. -/
theorem State.hear_heardAt (s : State) (m : Nat) : (s.hear m).heardAt m = s.now := by
  unfold State.heardAt State.hear
  simp

/-- The answer to a request. -/
theorem State.answerTime_spec (s : State) (g : GroupIx) (u : SubIx) (n : Nat) (m : TeamMsg) :
    let v : State := if s.pit.lock.answers then (s.hear n).sendTeam g u n m else s.hear n
    v = { s with pit := { s.pit with heard := v.pit.heard }, out := v.out } ∧ v.heardAt n = s.now ∧
      (s.pit.lock = .locked ∨ s.pit.lock = .holdover → v.out = s.out ++ (if s.carriesTeam g u then [.team g u n m] else [])) ∧
      (s.pit.lock = .free ∨ s.pit.lock = .acquire → v.out = s.out) := by
  dsimp only
  have hsend : (s.hear n).sendTeam g u n m = { s.hear n with out := s.out ++ (if s.carriesTeam g u then [.team g u n m] else []) } :=
    State.sendTeam_eq _ _ _ _ _
  split
  next h =>
    rw [hsend]
    refine ⟨rfl, s.hear_heardAt n, fun _ => rfl, fun hno => ?_⟩
    obtain hno | hno := hno <;> exact absurd h (by rw [hno]; decide)
  next h =>
    refine ⟨rfl, s.hear_heardAt n, fun hno => ?_, fun _ => rfl⟩
    obtain hno | hno := hno <;> exact absurd (show s.pit.lock.answers = true by rw [hno]; rfl) h

/-! ## Responses -/

/-- A set count, and what it leaves. -/
theorem State.setGcnt_spec {s w : State} {n : Nat} (hw : w = s.setGcnt n) : w.pit.gcntSet = true ∧
    w.pit.lock = (if s.me = s.troot then .locked else .acquire) ∧ w.pit.syncExch = s.pit.syncExch ∧
    w.pit.gcnt = BitVec.ofNat 64 n ∧ w.mem = s.mem := by
  rw [hw]
  unfold State.setGcnt State.tellSync
  dsimp only
  generalize countMsg 0xC _ = m
  obtain ⟨htold, hpit⟩ := s.tellAll_told { s.pit with
    gcnt := BitVec.ofNat 64 n, gcntSet := true, good := 0, exchanges := [], slew := 0
    lock := if s.me == s.troot then .locked else .acquire } m
  refine ⟨by rw [hpit], ?_, by rw [hpit], by rw [hpit], by rw [htold]⟩
  rw [hpit]
  exact ite_congr (propext beq_iff_eq) (fun _ => rfl) fun _ => rfl

section
variable {s : State} {m : TeamMsg} {x : TimeReq}
  (hx : s.pit.pendReq.find? (fun y => y.dst == m.src.toNat && y.t1 == m.c1.toNat) = some x)
include hx

/-- What is no response, or came where nothing is heard, is dropped. -/
theorem timeResp_of_not (h : m.typ ≠ 2 ∨ s.hears x.grp 0 = false) : exec (.timeResp m) s = .next s := by
  refine congrArg Host.Outcome.next ?_
  simp only [hx]
  refine if_pos ?_
  rw [Bool.or_eq_true, Bool.not_eq_true', bne_iff_ne]
  exact h

variable (ht : m.typ = 2) (hh : s.hears x.grp 0 = true)
include ht hh

/-- One on a quarantined group is counted. -/
theorem timeResp_of_quar (hq : (s.group x.grp).quar = true) :
    exec (.timeResp m) s = .next (s.modGroup x.grp fun k => { k with quarDrop := bump k.quarDrop }) := by
  refine congrArg Host.Outcome.next ?_
  simp only [hx]
  exact (if_neg (by rw [hh, ht, bne_self_eq_false]; decide)).trans (if_pos hq)

variable (hq : (s.group x.grp).quar = false)
include hq

/-- One that comes after 50 µs is discarded and counted. -/
theorem timeResp_of_late (hl : x.at_ + 50000 < s.now) : exec (.timeResp m) s =
    .next { s with pit := { s.pit with pendReq := s.pit.pendReq.erase x, syncDrop := bump s.pit.syncDrop } } := by
  refine congrArg Host.Outcome.next ?_
  simp only [hx]
  exact (if_neg (by rw [hh, ht, bne_self_eq_false]; decide)).trans ((if_neg (by rw [hq]; decide)).trans (if_pos hl))

/-- One in time is an exchange. -/
theorem timeResp_of_timely (hl : s.now ≤ x.at_ + 50000) : exec (.timeResp m) s =
    .next (State.exchange { s with pit := { s.pit with pendReq := s.pit.pendReq.erase x } } m x.at_).answerAgain := by
  refine congrArg Host.Outcome.next ?_
  simp only [hx]
  exact (if_neg (by rw [hh, ht, bne_self_eq_false]; decide)).trans ((if_neg (by rw [hq]; decide)).trans (if_neg (Nat.not_lt.2 hl)))

end

/-- The state in which an exchange is judged: it counts, and its module is heard of. -/
def State.exchanged (s : State) (m : TeamMsg) : State :=
  State.hear { s with pit := { s.pit with syncExch := bump s.pit.syncExch } } m.src.toNat

section
variable {s : State} (m : TeamMsg) (sent : Nat)

/-- The first exchange sets the count. -/
theorem State.exchange_first (hset : s.pit.gcntSet = false) : s.exchange m sent =
    State.setGcnt { s.exchanged m with pit := { (s.exchanged m).pit with lastExch := s.now } }
      ((m.c3.toNat : Int) + (((s.now - sent : Nat) : Int) - ((m.c3.toNat : Int) - m.c2.toNat)) / 2).toNat :=
  if_pos (show (!s.pit.gcntSet) = true by rw [hset]; rfl)

/-- What it leaves. -/
theorem State.exchange_first_spec (hset : s.pit.gcntSet = false) : let w := s.exchange m sent
    w.pit.gcntSet = true ∧ w.pit.lock = (if s.me = s.troot then .locked else .acquire) ∧ w.pit.syncExch = bump s.pit.syncExch ∧
      w.pit.gcnt = BitVec.ofNat 64 ((m.c3.toNat : Int) +
        (((s.now - sent : Nat) : Int) - ((m.c3.toNat : Int) - m.c2.toNat)) / 2).toNat ∧ w.mem = s.mem :=
  State.setGcnt_spec (s.exchange_first m sent hset)

/-- A later one, while the reference may not return, enters the interval where the module is the reference. -/
theorem State.exchange_later (hset : s.pit.gcntSet = true) (hprobe : s.pit.probe = false) : let w := s.exchange m sent
    w = { s with pit := { s.pit with syncExch := bump s.pit.syncExch, heard := w.pit.heard, lastExch := w.pit.lastExch
                                     exchanges := w.pit.exchanges } } ∧
      (s.reference = some m.src.toNat → w.pit.lastExch = s.now ∧ w.pit.exchanges = s.pit.exchanges ++
        [{ offset := ((m.c2.toNat : Int) - m.c1.toNat) - ((s.gcnt : Int) - m.c3.toNat)
           trip := ((s.gcnt : Int) - m.c1.toNat) - ((m.c3.toNat : Int) - m.c2.toNat) }]) ∧
      (s.reference ≠ some m.src.toNat → w.pit.lastExch = s.pit.lastExch ∧ w.pit.exchanges = s.pit.exchanges) := by
  have hback : (s.exchanged m).returnRoot m.src.toNat = s.exchanged m :=
    if_neg (show ¬ (s.pit.probe && _) = true by rw [hprobe, Bool.false_and]; decide)
  have heq : s.exchange m sent = if s.reference = some m.src.toNat then
      { s.exchanged m with pit := { (s.exchanged m).pit with
        lastExch := s.now
        exchanges := s.pit.exchanges ++
          [{ offset := offset2 m.c1.toNat m.c2.toNat m.c3.toNat s.gcnt, trip := roundTrip m.c1.toNat m.c2.toNat m.c3.toNat s.gcnt }] } }
      else s.exchanged m := by
    refine (if_neg (show ¬ (!s.pit.gcntSet) = true by rw [hset]; decide)).trans ?_
    dsimp only
    rw [show State.hear { s with pit := { s.pit with syncExch := bump s.pit.syncExch } } m.src.toNat = s.exchanged m from rfl, hback]
    rfl
  rw [heq]
  split
  next h => exact ⟨rfl, fun _ => ⟨rfl, rfl⟩, fun hno => absurd h hno⟩
  next h => exact ⟨rfl, fun hyes => absurd hyes h, fun _ => ⟨rfl, rfl⟩⟩

end

/-- Settles O42: requests by `timeReqSend_spec`, answers by `answerTime_spec`, responses by the lemmas about `exchange`. -/
theorem timeExchanges : Obligations.TimeExchanges := by
  intro s g u m x quarantined sent
  refine ⟨⟨_, rfl, State.timeReqSend_spec rfl⟩, fun hh ht hq => ⟨_, timeReq_of_heard hh ht hq, s.answerTime_spec g u _ _⟩,
    timeReq_of_quar, timeReq_of_not, fun hx => ⟨?_, ?_, ?_, timeResp_of_quar hx, timeResp_of_not hx⟩,
    fun hx => congrArg Host.Outcome.next (by simp only [hx]), fun hx => congrArg Host.Outcome.next (by simp only [hx]),
    fun hx => congrArg Host.Outcome.next (by simp only [hx])⟩
  · rintro ⟨ht, hh, hq⟩
    exact timeResp_of_late hx ht hh hq
  · rintro ⟨ht, hh, hq⟩ hl hset hprobe
    exact ⟨_, timeResp_of_timely hx ht hh hq hl, _, State.answerAgain_after _,
      State.exchange_later (s := { s with pit := { s.pit with pendReq := s.pit.pendReq.erase x } }) m x.at_ hset hprobe⟩
  · rintro ⟨ht, hh, hq⟩ hl hset
    exact ⟨_, timeResp_of_timely hx ht hh hq hl, _, State.answerAgain_after _,
      State.exchange_first_spec (s := { s with pit := { s.pit with pendReq := s.pit.pendReq.erase x } }) m x.at_ hset⟩

/-! ## Intervals -/

/-- A benighting, where there is one, changes no clock. -/
theorem State.benight_clock (s : State) : s.benight = { s with
    pit := { s.pit with abandonAt := s.benight.pit.abandonAt, decided := s.benight.pit.decided, requests := s.benight.pit.requests
                        onGroup8 := s.benight.pit.onGroup8 }
    flt := s.benight.flt, out := s.benight.out } := by
  by_cases h : s.steers = true ∧ s.pit.abandonAt = none
  · have hb := State.benight_spec h.1 h.2
    generalize s.benight = u at hb ⊢
    rw [hb]
  · rw [State.benight_of_not h]

/-- What an interval reads and leaves of the pitch unit's clock is the same in two states, which differ in the pitch unit, the log and what
has left. -/
def sameClock (s t : State) : Prop := t = { s with pit := t.pit, flt := t.flt, out := t.out } ∧ t.pit.lock = s.pit.lock ∧
  t.pit.rate = s.pit.rate ∧ t.pit.slew = s.pit.slew ∧ t.pit.exchanges = s.pit.exchanges ∧ t.pit.gcnt = s.pit.gcnt

/-- Two such changes are one. -/
theorem sameClock.trans {s t u : State} (h : sameClock s t) (h' : sameClock t u) : sameClock s u := by
  obtain ⟨hst, hlock, hrate, hslew, hex, hgcnt⟩ := h
  obtain ⟨htu, hlock', hrate', hslew', hex', hgcnt'⟩ := h'
  exact ⟨by rw [htu, hst], hlock'.trans hlock, hrate'.trans hrate, hslew'.trans hslew, hex'.trans hex, hgcnt'.trans hgcnt⟩

/-- An event logged is one. -/
theorem State.modEvent_clock (s : State) (cls unit loc : Nat) (d : List Byte) : sameClock s (s.modEvent cls unit loc d) := by
  have h := s.modEvent_only cls unit loc d
  generalize s.modEvent cls unit loc d = u at h ⊢
  rw [h]
  exact ⟨rfl, rfl, rfl, rfl, rfl, rfl⟩

/-- So is a lost member. -/
theorem State.loseMember_clock (s : State) (m : Nat) : sameClock s (s.loseMember m) := by
  unfold State.loseMember
  split
  · refine sameClock.trans (t := s.countLost) ⟨rfl, rfl, rfl, rfl, rfl, rfl⟩ ((s.countLost.modEvent_clock 3 5 7 [BitVec.ofNat 8 m]).trans ?_)
    generalize s.countLost.modEvent 3 5 7 [BitVec.ofNat 8 m] = w
    have h := w.benight_clock
    generalize w.benight = u at h ⊢
    rw [h]
    exact ⟨rfl, rfl, rfl, rfl, rfl, rfl⟩
  · exact ⟨rfl, rfl, rfl, rfl, rfl, rfl⟩

section
variable (p : Pit)

/-- An interval judged moves the lock and the count of good intervals. -/
theorem Pit.judge_only (a : Int) : p.judge a = { p with lock := (p.judge a).lock, good := (p.judge a).good } := by
  unfold Pit.judge
  dsimp only
  split
  · split
    · rfl
    · split <;> rfl
  · split <;> rfl
  · split <;> rfl
  · rfl

/-- An interval leaves where the run stands and the count. -/
theorem Pit.interval_frame (now : Nat) : (p.interval now).exchanges = [] ∧ (p.interval now).gcnt = p.gcnt ∧
    (p.interval now).run = p.run ∧ (p.interval now).captured = p.captured ∧ (p.interval now).teamRun = p.teamRun := by
  unfold Pit.interval
  split
  · refine ⟨rfl, ?_⟩
    unfold Pit.starve
    cases p.lock <;> exact ⟨rfl, rfl, rfl, rfl⟩
  · dsimp only
    rw [p.judge_only]
    exact ⟨rfl, rfl, rfl, rfl, rfl⟩

/-- With fewer than 8 exchanges a LOCKED module enters HOLDOVER; it keeps its rate. -/
theorem Pit.interval_of_few {now : Nat} (h : p.exchanges.length < 8) :
    (p.interval now).lock = (if p.lock = .locked then .holdover else p.lock) ∧ (p.interval now).rate = p.rate ∧
      (p.interval now).slew = p.slew := by
  rw [Pit.interval, if_pos h]
  unfold Pit.starve
  cases hl : p.lock <;> exact ⟨by simp [hl], rfl, rfl⟩

/-- With 8 or more it slews toward their average and trims its rate by it. -/
theorem Pit.interval_of_enough {now : Nat} (h : 8 ≤ p.exchanges.length) : let a := bestSum p.exchanges
    (p.interval now).slew = a.tdiv 16 ∧ (p.interval now).rate = Config.trimRate p.rate a ∧ (p.interval now).lock = (p.judge a).lock := by
  rw [Pit.interval, if_neg (Nat.not_lt.2 h)]
  exact ⟨rfl, rfl, rfl⟩

/-- The lock that an average gives to a module that is not LOCKED. -/
theorem Pit.judge_of_unlocked {a : Int} (h : p.lock ≠ .locked) : (p.judge a).lock =
    (if -64 ≤ a ∧ a ≤ 64 ∧ (p.lock = .holdover ∨ p.lock = .acquire ∧ 2 ≤ p.good) then .locked else p.lock) := by
  unfold Pit.judge
  simp only [← Bool.decide_and, ← and_assoc]
  by_cases hg : -64 ≤ a ∧ a ≤ 64
  · simp only [hg, true_and, decide_true, Bool.not_true, Bool.false_eq_true, if_false, if_true, and_self]
    cases hl : p.lock with
    | free => simp [hl]
    | acquire => by_cases h2 : 2 ≤ p.good <;> simp [h2]
    | locked => exact absurd hl h
    | holdover => simp
  · simp only [hg, false_and, decide_false, Bool.not_false, Bool.false_eq_true, if_false, if_true]
    cases hl : p.lock with
    | free => exact hl
    | acquire => rfl
    | locked => exact absurd hl h
    | holdover => exact hl

/-- And to one that is. -/
theorem Pit.judge_of_locked {a : Int} (h : p.lock = .locked) :
    (p.judge a).lock = if -320 ≤ a ∧ a ≤ 320 then .locked else .acquire := by
  unfold Pit.judge
  simp only [h]
  by_cases ha : -320 ≤ a ∧ a ≤ 320
  · rw [if_pos ha, if_neg (by omega)]
    exact h
  · rw [if_neg ha, if_pos (by omega)]

end

/-- A module without a root's part at the end of an interval: a LOCKED one that enters ACQUIRE raises an event and is lost to its team. -/
def State.judgeLock (s : State) : State :=
  let s1 := { s with pit := s.pit.interval s.now }
  if s.pit.lock == .locked && s1.pit.lock == .acquire then (s1.modEvent 0 5 5).loseMember s.me else s1

/-- Its clock is the interval's. -/
theorem State.judgeLock_clock (s : State) : sameClock { s with pit := s.pit.interval s.now } s.judgeLock := by
  unfold State.judgeLock
  dsimp only
  split
  · exact (State.modEvent_clock _ _ _ _ _).trans (State.loseMember_clock _ _)
  · exact ⟨rfl, rfl, rfl, rfl, rfl, rfl⟩

/-- A LOCKED module that enters ACQUIRE and does not steer a run has logged it. -/
theorem State.judgeLock_logged {s : State} (hl : s.pit.lock = .locked) (ha : (s.pit.interval s.now).lock = .acquire)
    (hs : s.steers = false) : ∃ x ∈ s.judgeLock.flt.log, x.code = faultCode 0 5 5 := by
  have hsteers : (State.modEvent { s with pit := s.pit.interval s.now } 0 5 5).steers = false := by
    obtain ⟨-, -, hrun, hcap, hteam⟩ := s.pit.interval_frame s.now
    have h := State.modEvent_only { s with pit := s.pit.interval s.now } 0 5 5 []
    rw [h, ← hs]
    unfold State.steers State.leadsRun
    dsimp only
    rw [hrun, hcap, hteam]
  have heq : s.judgeLock = State.modEvent { s with pit := s.pit.interval s.now } 0 5 5 :=
    (if_pos (by rw [hl]; simpa using ha)).trans (State.loseMember_of_not fun e => absurd e.1 (by rw [hsteers]; decide))
  rw [heq]
  exact State.modEvent_logged _ _ _ _ _

/-- The phase of start-up changes no clock. -/
theorem State.settlePhase_glb (s : State) : s.settlePhase = { s with glb := s.settlePhase.glb } := by
  have h := s.settlePhase_only
  generalize s.settlePhase = u at h ⊢
  rw [h]

/-- What the end of an interval leaves, but for an answer to a launch. -/
theorem State.judgeLock_settled {s w : State} (hw : w = s.judgeLock.settlePhase) :
    (w.pit.lock = (s.pit.interval s.now).lock ∧ w.pit.rate = (s.pit.interval s.now).rate ∧ w.pit.slew = (s.pit.interval s.now).slew) ∧
      w.flt = s.judgeLock.flt ∧ w.pit.exchanges = [] ∧ w.pit.gcnt = s.pit.gcnt ∧
      w = { s with pit := w.pit, glb := w.glb, flt := w.flt, out := w.out } := by
  obtain ⟨honly, hlock, hrate, hslew, hex, hgcnt⟩ := s.judgeLock_clock
  obtain ⟨hex', hgcnt', -⟩ := s.pit.interval_frame s.now
  rw [State.settlePhase_glb] at hw
  generalize s.judgeLock.settlePhase.glb = g at hw
  generalize s.judgeLock = v at *
  have hpit : w.pit = v.pit := by rw [hw]
  rw [hpit]
  exact ⟨⟨hlock, hrate, hslew⟩, by rw [hw], hex.trans hex', hgcnt.trans hgcnt', by rw [hw, honly]⟩

section
variable {s : State}

/-- The end of an interval at a root. -/
theorem syncInterval_of_root (h : s.me = s.troot ∨ s.pit.freeRoot = true) : exec .syncInterval s = .next (State.settlePhase
    { s with pit := { s.pit with exchanges := [], lock := if s.pit.gcntSet then .locked else .free } }).answerAgain :=
  congrArg Host.Outcome.next (if_pos (by rwa [Bool.or_eq_true, beq_iff_eq]))

/-- At another module. -/
theorem syncInterval_of_not (h : ¬ (s.me = s.troot ∨ s.pit.freeRoot = true)) :
    exec .syncInterval s = .next s.judgeLock.settlePhase.answerAgain :=
  congrArg Host.Outcome.next (if_neg (by rwa [Bool.or_eq_true, beq_iff_eq]))

/-- 2 ms in HOLDOVER are logged. -/
theorem holdoverAlignmentLost_of_strayed (hl : s.pit.lock = .holdover) (hsaid : s.pit.lostSaid = false)
    (ht : s.pit.heldSince + 2000000 ≤ s.now) :
    exec .holdoverAlignmentLost s = .next (State.modEvent { s with pit := { s.pit with lostSaid := true } } 0 5 5) :=
  congrArg Host.Outcome.next (if_pos (by rw [hl, hsaid, decide_eq_true ht]; rfl))

/-- Once, and not before. -/
theorem holdoverAlignmentLost_of_not (h : ¬ (s.pit.lock = .holdover ∧ s.pit.lostSaid = false ∧ s.pit.heldSince + 2000000 ≤ s.now)) :
    exec .holdoverAlignmentLost s = .next s := by
  refine congrArg Host.Outcome.next (if_neg fun e => h ?_)
  simpa only [Bool.and_eq_true, beq_iff_eq, Bool.not_eq_true', decide_eq_true_eq, and_assoc] using e

/-! ## References -/

/-- A reference not lost keeps its module. -/
theorem referenceFallback_of_heard (h : ¬ (s.pit.lastExch + 1000000 ≤ s.now ∧ s.me ≠ s.troot ∧ s.pit.freeRoot = false)) :
    exec .referenceFallback s = .next s := by
  refine congrArg Host.Outcome.next (if_pos (Classical.byContradiction fun e => h ?_))
  simpa only [Bool.or_eq_true, not_or, Bool.not_eq_true, beq_eq_false_iff_ne, decide_eq_true_eq, Nat.not_lt, and_assoc] using e

/-- One lost for 1 ms: TROOT_ALT takes over, another lead turns to TROOT_ALT. -/
theorem referenceFallback_of_silent (h : s.pit.lastExch + 1000000 ≤ s.now ∧ s.me ≠ s.troot ∧ s.pit.freeRoot = false) :
    exec .referenceFallback s = .next (if s.me == s.trootAlt then
      (if s.pit.gcntSet then State.answerAgain { s with pit := { s.pit with freeRoot := true, lock := .locked, exchanges := [] } } else s)
    else if s.leadNow && !s.pit.alt then { s with pit := { s.pit with alt := true, exchanges := [] } }
    else s) := by
  obtain ⟨ht, hme, hfree⟩ := h
  exact congrArg Host.Outcome.next (if_neg (by rw [hfree, beq_eq_false_iff_ne.2 hme, decide_eq_false (Nat.not_lt.2 ht)]; decide))

/-- A time root that has no count and has waited 1 ms takes one. -/
theorem timeRootRtcSet_of_alone {t : Nat} (hme : s.me = s.troot) (hset : s.pit.gcntSet = false) (ha : s.pit.rootAskAt = some t)
    (ht : t + 1000000 ≤ s.now) :
    exec .timeRootRtcSet s = .next (s.setGcnt (if s.rtc.valid then s.rtcUs * 1000 else 0)).answerAgain := by
  refine congrArg Host.Outcome.next ?_
  simp only [ha]
  exact if_pos (by rw [hme, hset, decide_eq_true ht, beq_self_eq_true]; rfl)

/-- Another does not. -/
theorem timeRootRtcSet_of_not
    (h : ¬ (s.me = s.troot ∧ s.pit.gcntSet = false ∧ ∃ t, s.pit.rootAskAt = some t ∧ t + 1000000 ≤ s.now)) :
    exec .timeRootRtcSet s = .next s := by
  refine congrArg Host.Outcome.next ?_
  split
  · rfl
  next t ha =>
    refine if_neg fun e => h ?_
    simp only [Bool.and_eq_true, beq_iff_eq, Bool.not_eq_true', decide_eq_true_eq] at e
    obtain ⟨⟨hme, hset⟩, ht⟩ := e
    exact ⟨hme, hset, t, ha, ht⟩

/-- Exchanges return to group 6 once its sublink 0 has been active for 1 ms. -/
theorem syncSublinkReturn_of_back (h8 : s.pit.onGroup8 = true) (h6 : s.steady 6 = true) (ht : (s.sub 6 0).steadyAt + 1000000 ≤ s.now) :
    exec .syncSublinkReturn s = .next { s with pit := { s.pit with onGroup8 := false } } :=
  congrArg Host.Outcome.next (if_pos (by rw [h8, h6, decide_eq_true ht]; rfl))

/-- Not before. -/
theorem syncSublinkReturn_of_not (h : ¬ (s.pit.onGroup8 = true ∧ s.steady 6 = true ∧ (s.sub 6 0).steadyAt + 1000000 ≤ s.now)) :
    exec .syncSublinkReturn s = .next s := by
  refine congrArg Host.Outcome.next (if_neg fun e => h ?_)
  simpa only [Bool.and_eq_true, decide_eq_true_eq, and_assoc] using e

end

/-- Settles O43: intervals by `interval_of_few`, `interval_of_enough` and `judgeLock_settled`, references by their lemmas. -/
theorem locksAndReferences : Obligations.LocksAndReferences := by
  refine ⟨fun s => ?_, fun s => ?_⟩
  · intro root a judged strays
    refine ⟨fun h => ?_, fun h hn => ?_, fun h hn => ?_, ?_, holdoverAlignmentLost_of_not⟩
    · exact ⟨_, syncInterval_of_root h, _, State.answerAgain_after _, by rw [State.settlePhase_glb], by rw [State.settlePhase_glb],
        by rw [State.settlePhase_glb], by rw [State.settlePhase_glb]⟩
    · obtain ⟨⟨hlock, hrate, hslew⟩, -, hrest⟩ := State.judgeLock_settled (s := s) rfl
      obtain ⟨hlock', hrate', hslew'⟩ := s.pit.interval_of_few (now := s.now) hn
      exact ⟨_, syncInterval_of_not h, _, State.answerAgain_after _,
        ⟨hlock.trans hlock', hrate.trans hrate', hslew.trans hslew'⟩, hrest⟩
    · obtain ⟨⟨hlock, hrate, hslew⟩, hflt, hrest⟩ := State.judgeLock_settled (s := s) rfl
      obtain ⟨hslew', hrate', hlock'⟩ := s.pit.interval_of_enough (now := s.now) hn
      refine ⟨_, syncInterval_of_not h, _, State.answerAgain_after _, ⟨hslew.trans hslew', hrate.trans hrate', fun hu => ?_, fun hl => ?_,
        fun hl ha hs => ?_⟩, hrest⟩
      · exact (hlock.trans hlock').trans (s.pit.judge_of_unlocked hu)
      · exact (hlock.trans hlock').trans (s.pit.judge_of_locked hl)
      · rw [hflt]
        refine State.judgeLock_logged hl ((hlock'.trans (s.pit.judge_of_locked hl)).trans (if_neg ?_)) hs
        change ¬ (-320 ≤ a ∧ a ≤ 320)
        omega
    · rintro ⟨hl, hsaid, ht⟩
      exact ⟨_, holdoverAlignmentLost_of_strayed hl hsaid ht, State.modEvent_only _ _ _ _ _, State.modEvent_logged _ _ _ _ _⟩
  · intro silent takesOver turns alone back
    refine ⟨?_, ?_, fun hno hno' => ?_, ?_, timeRootRtcSet_of_not, ?_, syncSublinkReturn_of_not⟩
    · rintro ⟨h, hme, hset⟩
      exact ⟨_, (referenceFallback_of_silent h).trans (congrArg Host.Outcome.next ((if_pos (beq_iff_eq.2 hme)).trans (if_pos hset))),
        State.answerAgain_after _⟩
    · rintro ⟨h, hme, hlead, halt⟩
      refine (referenceFallback_of_silent h).trans (congrArg Host.Outcome.next ((if_neg (by simpa using hme)).trans (if_pos ?_)))
      rw [hlead, halt]
      rfl
    · by_cases h : silent
      · refine (referenceFallback_of_silent h).trans (congrArg Host.Outcome.next ?_)
        by_cases hme : s.me = s.trootAlt
        · exact (if_pos (beq_iff_eq.2 hme)).trans (if_neg fun e => hno ⟨h, hme, e⟩)
        · refine (if_neg (by simpa using hme)).trans (if_neg fun e => hno' ⟨h, hme, ?_⟩)
          simpa only [Bool.and_eq_true, Bool.not_eq_true'] using e
      · exact referenceFallback_of_heard h
    · rintro ⟨hme, hset, t, ha, ht⟩
      obtain ⟨hgset, hlock, -, hgcnt, hmem⟩ := State.setGcnt_spec (s := s) rfl
      exact ⟨_, timeRootRtcSet_of_alone hme hset ha ht, _, State.answerAgain_after _, hgset, hlock.trans (if_pos hme), hmem, hgcnt⟩
    · rintro ⟨h8, h6, ht⟩
      exact syncSublinkReturn_of_back h8 h6 ht

end Sys2Proof.Machine
end

section
/-! PROOFS. What packets that leave a sublink change of it, of the fabric and of what has left the module (R350, R351, R353, R374, R384,
R387). -/

namespace Sys2Proof.Machine

/-! ## The frame of what leaves -/

/-- What packets that leave a sublink may change of it: its queue, what is kept for replay, credits, turns and the count of flits. -/
def Sublink.sentAs (k x : Sublink) : Prop := x = { k with
  tx := x.tx, cred := x.cred, rr := x.rr, guard := x.guard, kept := x.kept, txSeq := x.txSeq, unacked := x.unacked, ackAt := x.ackAt
  activeAt := x.activeAt, cnt := { k.cnt with flitsTx := x.cnt.flitsTx } }

/-- And of the fabric: the congestion map, the shapers, and when each context last held its credits. -/
def Fab.sentAs (k x : Fab) : Prop := x = { k with
    ctxs := x.ctxs, shapers := x.shapers, acc := x.acc, mapAt := x.mapAt, mapTime := x.mapTime, bank := x.bank, maps := x.maps
    cmap0 := x.cmap0, cmap1 := x.cmap1 } ∧ ∃ h : Ctx → Nat, x.ctxs = k.ctxs.map fun c => { c with holdAt := h c }

/-- What packets that leave sublink `b` of group `g` may change. -/
structure pumps (g : GroupIx) (b : SubIx) (s t : State) : Prop where
  /-- nothing outside the group, the fabric and what has left -/
  sends : sendsOnly g s t
  /-- of the group, its sublinks -/
  group : t.group g = { s.group g with sub := (t.group g).sub }
  /-- of the sublinks, this one -/
  other : ∀ c, c ≠ b → t.sub g c = s.sub g c
  /-- of this one, what a packet that leaves takes -/
  sub : (s.sub g b).sentAs (t.sub g b)
  /-- of the fabric, what a packet that leaves counts -/
  fab : s.fab.sentAs t.fab
  /-- what had left is still out -/
  out : ∃ l, t.out = s.out ++ l

/-- Two changes of a sublink are one. -/
theorem Sublink.sentAs_trans {k x y : Sublink} (h : k.sentAs x) (h' : x.sentAs y) : k.sentAs y := by
  unfold Sublink.sentAs at *
  rw [h', h]

/-- And of the fabric. -/
theorem Fab.sentAs_trans {k x y : Fab} (h : k.sentAs x) (h' : x.sentAs y) : k.sentAs y := by
  obtain ⟨hx, f, hf⟩ := h
  obtain ⟨hy, f', hf'⟩ := h'
  refine ⟨by rw [hy, hx], fun c => f' { c with holdAt := f c }, ?_⟩
  rw [hf', hf, List.map_map]
  rfl

/-- The fabric as it was. -/
theorem Fab.sentAs_refl (k : Fab) : k.sentAs k := ⟨rfl, fun c => c.holdAt, (List.map_id k.ctxs).symm⟩

section
variable {g : GroupIx} {b : SubIx} {s t v : State}

/-- Nothing has left. -/
theorem pumps.refl (g : GroupIx) (b : SubIx) (s : State) : pumps g b s s :=
  ⟨sendsOnly.refl g s, rfl, fun _ _ => rfl, rfl, s.fab.sentAs_refl, [], (List.append_nil _).symm⟩

/-- Packets after packets. -/
theorem pumps.trans (h : pumps g b s t) (h' : pumps g b t v) : pumps g b s v := by
  obtain ⟨l, hl⟩ := h.out
  obtain ⟨l', hl'⟩ := h'.out
  refine ⟨h.sends.trans h'.sends, ?_, fun c hc => (h'.other c hc).trans (h.other c hc), Sublink.sentAs_trans h.sub h'.sub,
    Fab.sentAs_trans h.fab h'.fab, l ++ l', by rw [hl', hl, List.append_assoc]⟩
  rw [h'.group, h.group]

/-- Either of two. -/
theorem pumps.ite (c : Prop) [Decidable c] (ht : pumps g b s t) (hv : pumps g b s v) : pumps g b s (if c then t else v) := by
  split
  · exact ht
  · exact hv

end

section
variable (s : State) (g : GroupIx) (b : SubIx)

/-- A change of the fabric. -/
theorem State.withFab_pumps {f : Fab} (h : s.fab.sentAs f) : pumps g b s { s with fab := f } :=
  ⟨s.withFab_sendsOnly g f, rfl, fun _ _ => rfl, rfl, h, [], (List.append_nil _).symm⟩

/-- A change of the sublink. -/
theorem State.modSub_pumps {f : Sublink → Sublink} (h : (s.sub g b).sentAs (f (s.sub g b))) : pumps g b s (s.modSub g b f) := by
  refine ⟨s.modSub_sendsOnly g b f, ?_, fun c hc => s.modSub_sub_other f fun e => hc e.2, ?_, s.fab.sentAs_refl, [],
    (List.append_nil _).symm⟩
  · unfold State.modSub
    rw [State.modGroup_group]
  · rwa [State.modSub_sub]

/-- Something leaves. -/
theorem State.emit_pumps (o : Out) : pumps g b s (s.emit o) :=
  ⟨s.emit_sendsOnly g o, rfl, fun _ _ => rfl, rfl, s.fab.sentAs_refl, [o], rfl⟩

/-- Traffic is counted on the congestion map. -/
theorem State.countMap_pumps (f : CMapAcc → CMapAcc) : pumps g b s (s.countMap f) := by
  have hfab : s.fab.sentAs (s.countMap f).fab := by
    unfold State.countMap State.rollMap
    split
    · exact ⟨rfl, fun c => c.holdAt, (List.map_id _).symm⟩
    · exact ⟨rfl, fun c => c.holdAt, (List.map_id _).symm⟩
  have heq : s.countMap f = { s with fab := (s.countMap f).fab } := by
    unfold State.countMap
    rw [State.rollMap_only]
  rw [heq]
  exact s.withFab_pumps g b hfab

/-- A context held its credits at a time. -/
theorem State.modCtx_pumps (x : BitVec 16) (n : Nat) : pumps g b s (s.modCtx x fun k => { k with holdAt := n }) := by
  refine s.withFab_pumps g b ⟨rfl, fun c => if c.decl.ctx == x then n else c.holdAt, List.map_congr_left fun c _ => ?_⟩
  by_cases hc : (c.decl.ctx == x) = true
  · simp only [if_pos hc]
  · simp only [if_neg hc]

/-- A shaper is charged. -/
theorem State.chargeRope_pumps (p : LinkPacket) : pumps g b s (s.chargeRope g p) := by
  unfold State.chargeRope
  split
  · exact pumps.refl g b s
  · split
    · exact s.withFab_pumps g b ⟨rfl, fun c => c.holdAt, (List.map_id _).symm⟩
    · exact pumps.refl g b s

/-- One packet leaves. -/
theorem State.sendOne_pumps (p : TxPkt) : pumps g b s (s.sendOne g b p) := by
  unfold State.sendOne
  dsimp only
  refine pumps.trans ?_ (State.emit_pumps _ g b _)
  have hmap : ∀ f h, (∀ k : Sublink, k.sentAs (f k)) → pumps g b s (if isFabric g && decide (2 ≤ p.pkt.vc.toNat) then
      ((s.chargeRope g p.pkt).modSub g b f).countMap h else (s.chargeRope g p.pkt).modSub g b f) := fun f h hf =>
    have hsent := (s.chargeRope_pumps g b p.pkt).trans (State.modSub_pumps _ g b (hf _))
    pumps.ite _ (hsent.trans (State.countMap_pumps _ g b h)) hsent
  refine pumps.ite (3 ≤ p.pkt.vc.toNat) ((hmap _ _ ?_).trans (State.modCtx_pumps _ g b _ _)) (hmap _ _ ?_) <;> exact fun _ => rfl

/-- Packets leave while any may. -/
theorem State.pump_pumps (n : Nat) : pumps g b s (s.pump g b n) := by
  induction n generalizing s with
  | zero => exact pumps.refl g b s
  | succ n ih =>
    unfold State.pump
    split
    · exact pumps.refl g b s
    · split
      · exact pumps.refl g b s
      · exact (s.sendOne_pumps g b _).trans (ih _)

/-- All that may leave, leaves. -/
theorem State.pumpAll_pumps : pumps g b s (s.pumpAll g b) := s.pump_pumps g b _

/-- A packet is sent or queued. -/
theorem State.sendLink_pumps (p : LinkPacket) : pumps g b s (s.sendLink g b p) :=
  (s.modSub_pumps (f := fun k => { k with tx := k.tx ++ [{ pkt := p, queued := s.now }] }) g b rfl).trans (State.pumpAll_pumps _ g b)

end

/-! ## What becomes of a queued packet -/

section
variable {g : GroupIx} {b : SubIx} {s t v : State} (h : pumps g b s t)
include h

/-- Contexts keep all but when they last held credits. -/
theorem pumps.ctx : ∃ f : Ctx → Nat, ∀ x, t.ctx? x = (s.ctx? x).map fun k => { k with holdAt := f k } := by
  obtain ⟨f, hf⟩ := h.fab.2
  refine ⟨f, fun x => ?_⟩
  unfold State.ctx?
  rw [hf, List.find?_map]
  rfl

/-- The key that a packet's region sends with is the same after packets have left. -/
theorem pumps.keyOf {p : LinkPacket} {w : BitVec 16} :
    (∃ k, t.ctx? p.ctx = some k ∧ t.sendKey g k.decl.region = some w) ↔ ∃ k, s.ctx? p.ctx = some k ∧ s.sendKey g k.decl.region = some w := by
  obtain ⟨f, hf⟩ := h.ctx
  have hkey : t.sendKey g = s.sendKey g := by
    have hcfg : t.cfg = s.cfg := by rw [h.sends.1]
    funext r
    unfold State.sendKey State.keys
    rw [hcfg]
  rw [hf, hkey]
  cases s.ctx? p.ctx with
  | none => simp
  | some k => simp

/-- What had left is still out. -/
theorem pumps.mem_out {o : Out} (ho : o ∈ s.out) : o ∈ t.out := by
  obtain ⟨l, hl⟩ := h.out
  rw [hl]
  exact List.mem_append_left l ho

end

/-- A packet has left on a sublink, with the key of its region stamped on it or not. -/
def State.sentStamped (s : State) (g : GroupIx) (b : SubIx) (p : LinkPacket) : Prop :=
  ∃ w r, Out.link g b { p with pkey := w, rope := r } ∈ s.out ∧ (r = p.rope ∨ r = 0) ∧
    (w = p.pkey ∨ (p.pkey ≠ 0xFFFF ∧ ∃ k, s.ctx? p.ctx = some k ∧ s.sendKey g k.decl.region = some w))

/-- Packets that leave keep it sent. -/
theorem pumps.sentStamped {g : GroupIx} {b : SubIx} {s t : State} (h : pumps g b s t) {p : LinkPacket} (hp : s.sentStamped g b p) :
    t.sentStamped g b p := by
  obtain ⟨w, r, hout, hr, hw⟩ := hp
  exact ⟨w, r, h.mem_out hout, hr, hw.imp_right fun ⟨hne, hk⟩ => ⟨hne, h.keyOf.2 hk⟩⟩

/-- A packet that leaves has left stamped. -/
theorem State.sendOne_sent (s : State) (g : GroupIx) (b : SubIx) (x : TxPkt) : (s.sendOne g b x).sentStamped g b x.pkt := by
  have hpumps := s.sendOne_pumps g b x
  refine ⟨(s.stamp g b x.pkt).pkey, (s.stamp g b x.pkt).rope, List.mem_append_right _ (List.mem_singleton.2 rfl), ?_, ?_⟩
  · unfold State.stamp
    dsimp only
    split
    · exact .inl rfl
    · exact .inr rfl
  · rw [hpumps.keyOf]
    unfold State.stamp
    dsimp only
    split
    next => exact .inl rfl
    next hne =>
      split
      next w hw =>
        obtain ⟨k, hk, hkey⟩ := Option.bind_eq_some_iff.1 hw
        exact .inr ⟨fun e => hne (beq_iff_eq.2 e), k, hk, hkey⟩
      next => exact .inl rfl

/-- The queue once a packet has left. -/
theorem State.sendOne_tx (s : State) (g : GroupIx) (b : SubIx) (x : TxPkt) :
    ((s.sendOne g b x).sub g b).tx = (s.sub g b).tx.erase x := by
  have hcharge : (s.chargeRope g x.pkt).sub g b = s.sub g b := by
    unfold State.chargeRope
    split
    · rfl
    · split <;> rfl
  have hmap : ∀ (w : State) (c : Prop) [Decidable c] (f : CMapAcc → CMapAcc), (if c then w.countMap f else w).sub g b = w.sub g b :=
    fun w c _ f => by
      split
      · unfold State.countMap
        rw [State.rollMap_only]
        rfl
      · rfl
  have hctx : ∀ (w : State) (c : Prop) [Decidable c] (f : Ctx → Ctx), (if c then w.modCtx x.pkt.ctx f else w).sub g b = w.sub g b :=
    fun w c _ f => by split <;> rfl
  unfold State.sendOne
  dsimp only
  refine (congrArg Sublink.tx ((hctx _ _ _).trans ((hmap _ _ _).trans (State.modSub_sub _ _ _ _)))).trans ?_
  dsimp only
  rw [hcharge]

section
variable {s : State} {g : GroupIx} {b : SubIx}

/-- A packet that is queued stays so or leaves while packets leave. -/
theorem State.pump_queued (n : Nat) {x : TxPkt} (hx : x ∈ (s.sub g b).tx) :
    x ∈ ((s.pump g b n).sub g b).tx ∨ (s.pump g b n).sentStamped g b x.pkt := by
  induction n generalizing s with
  | zero => exact .inl hx
  | succ n ih =>
    unfold State.pump
    split
    · exact .inl hx
    · split
      · exact .inl hx
      next y _ =>
        by_cases hxy : x = y
        · subst hxy
          exact .inr ((State.pump_pumps _ g b n).sentStamped (s.sendOne_sent g b x))
        · exact ih (by rw [State.sendOne_tx]; exact (List.mem_erase_of_ne hxy).2 hx)

/-- A packet sent or queued stays so while packets leave. -/
theorem State.pump_sentOrQueued (n : Nat) {p : LinkPacket} (h : s.sentOrQueued g b p) : (s.pump g b n).sentOrQueued g b p := by
  obtain ⟨x, hx, rfl⟩ | hsent := h
  · exact (State.pump_queued n hx).imp (fun hq => ⟨x, hq, rfl⟩) id
  · exact .inr ((State.pump_pumps s g b n).sentStamped hsent)

/-- A packet handed to the link is sent or queued. -/
theorem State.sendLink_sentOrQueued (s : State) (g : GroupIx) (b : SubIx) (p : LinkPacket) : (s.sendLink g b p).sentOrQueued g b p := by
  refine State.pump_sentOrQueued _ (.inl ⟨{ pkt := p, queued := s.now }, ?_, rfl⟩)
  rw [State.modSub_sub]
  exact List.mem_append_right _ (List.mem_singleton.2 rfl)

/-- One sent or queued before stays so. -/
theorem State.sendLink_keeps_sentOrQueued {p q : LinkPacket} (h : s.sentOrQueued g b q) : (s.sendLink g b p).sentOrQueued g b q := by
  refine State.pump_sentOrQueued _ ?_
  obtain ⟨x, hx, rfl⟩ | hsent := h
  · refine .inl ⟨x, ?_, rfl⟩
    rw [State.modSub_sub]
    exact List.mem_append_left _ hx
  · exact .inr hsent

end

end Sys2Proof.Machine
end

section
/-! PROOFS. Frames, acknowledgements and replay on the Morkan link (R348, R351, R355, R356, R471). -/

namespace Sys2Proof.Machine

/-! ## What a trailer leaves of the receiver -/

/-- Two states in which a sublink's receiver stands alike: only packets, acknowledgements and replays of its group have moved. -/
structure rxAlike (g : GroupIx) (b : SubIx) (s t : State) : Prop where
  /-- nothing outside the group, the fabric and what has left -/
  sends : sendsOnly g s t
  /-- the violation score -/
  score : (t.group g).score = (s.group g).score
  /-- the expected number -/
  expect : (t.sub g b).expect = (s.sub g b).expect
  /-- RPLY -/
  rplyOut : (t.sub g b).rplyOut = (s.sub g b).rplyOut
  /-- failed frames in a row -/
  badRun : (t.sub g b).badRun = (s.sub g b).badRun
  /-- the credit counts seen -/
  credSeen : (t.sub g b).credSeen = (s.sub g b).credSeen
  /-- corrected codewords -/
  fecCorr : (t.sub g b).cnt.fecCorr = (s.sub g b).cnt.fecCorr

/-- A rewritten sublink leaves the score. -/
theorem State.modSub_score (s : State) (g : GroupIx) (b : SubIx) (f : Sublink → Sublink) :
    ((s.modSub g b f).group g).score = (s.group g).score := by
  unfold State.modSub
  rw [State.modGroup_group]

section
variable {g : GroupIx} {b : SubIx} {s t v : State}

/-- Nothing has moved. -/
theorem rxAlike.refl (g : GroupIx) (b : SubIx) (s : State) : rxAlike g b s s := ⟨sendsOnly.refl g s, rfl, rfl, rfl, rfl, rfl, rfl⟩

/-- Two such changes are one. -/
theorem rxAlike.trans (h : rxAlike g b s t) (h' : rxAlike g b t v) : rxAlike g b s v :=
  ⟨h.sends.trans h'.sends, h'.score.trans h.score, h'.expect.trans h.expect, h'.rplyOut.trans h.rplyOut, h'.badRun.trans h.badRun,
    h'.credSeen.trans h.credSeen, h'.fecCorr.trans h.fecCorr⟩

/-- Either of two. -/
theorem rxAlike.ite (c : Prop) [Decidable c] (ht : rxAlike g b s t) (hv : rxAlike g b s v) : rxAlike g b s (if c then t else v) := by
  split
  · exact ht
  · exact hv

/-- Packets that leave are such a change. -/
theorem pumps.rxAlike (h : pumps g b s t) : rxAlike g b s t := by
  have hsub := h.sub
  unfold Sublink.sentAs at hsub
  refine ⟨h.sends, by rw [h.group], ?_, ?_, ?_, ?_, ?_⟩ <;> rw [hsub]

end

section
variable (s : State) (g : GroupIx) (b : SubIx)

/-- A rewritten sublink whose receiver stands alike. -/
theorem State.modSub_rxAlike {f : Sublink → Sublink} (h : ∀ k, (f k).expect = k.expect ∧ (f k).rplyOut = k.rplyOut ∧
    (f k).badRun = k.badRun ∧ (f k).credSeen = k.credSeen ∧ (f k).cnt.fecCorr = k.cnt.fecCorr) : rxAlike g b s (s.modSub g b f) := by
  obtain ⟨he, hr, hb, hc, hf⟩ := h (s.sub g b)
  refine ⟨s.modSub_sendsOnly g b f, s.modSub_score g b f, ?_, ?_, ?_, ?_, ?_⟩ <;> rw [State.modSub_sub] <;> assumption

/-- An acknowledgement moves the replay buffer alone. -/
theorem Sublink.ackTo_only (k : Sublink) (now : Nat) (e : BitVec 12) : k.ackTo now e =
    { k with unacked := (k.ackTo now e).unacked, ackAt := (k.ackTo now e).ackAt, stale := (k.ackTo now e).stale
             kept := (k.ackTo now e).kept } := by
  unfold Sublink.ackTo
  dsimp only
  split <;> rfl

/-- So the receiver stands alike. -/
theorem State.ackTo_rxAlike (n : Nat) (e : BitVec 12) : rxAlike g b s (s.modSub g b fun k => k.ackTo n e) := by
  refine s.modSub_rxAlike g b fun k => ?_
  rw [k.ackTo_only n e]
  exact ⟨rfl, rfl, rfl, rfl, rfl⟩

/-- A replay is no matter of the receiver's. -/
theorem State.replay_rxAlike (e : BitVec 12) : rxAlike g b s (s.replay g b e) := by
  unfold State.replay
  dsimp only
  refine rxAlike.trans ?_ (State.emit_pumps _ g b _).rxAlike
  refine rxAlike.ite _ (rxAlike.trans ?_ (State.countMap_pumps _ g b _).rxAlike) ?_ <;>
    exact s.modSub_rxAlike g b fun k => ⟨rfl, rfl, rfl, rfl, rfl⟩

/-- Nor is a RPLY. -/
theorem State.rply_rxAlike (e : BitVec 12) : rxAlike g b s (s.rply g b e) := by
  unfold State.rply
  dsimp only
  split
  · exact s.ackTo_rxAlike g b _ e
  · exact (s.ackTo_rxAlike g b _ e).trans (State.replay_rxAlike _ g b e)

/-- The codewords of a frame are counted. -/
theorem State.countFec_sub (corr bad : Nat) : (s.countFec g b corr bad).sub g b =
    { s.sub g b with cnt := { (s.sub g b).cnt with fecCorr := bump (s.sub g b).cnt.fecCorr corr, fecBad := bump (s.sub g b).cnt.fecBad bad } } :=
  State.modSub_sub s g b _

/-- A trailer keeps its credit counts, and else leaves the receiver as it was. -/
theorem State.trailer_spec (fr : Frame) : ∃ w, rxAlike g b w (s.trailer g b fr) ∧
    w = s.modSub g b fun k => k.credit_ fr.cred := by
  refine ⟨_, ?_, rfl⟩
  unfold State.trailer
  dsimp only
  refine rxAlike.trans ?_ (State.pumpAll_pumps _ g b).rxAlike
  split
  · exact (rxAlike.ite _ (State.ackTo_rxAlike _ g b _ _) (rxAlike.refl g b _)).trans (State.rply_rxAlike _ g b _)
  · exact rxAlike.ite _ (State.ackTo_rxAlike _ g b _ _) (rxAlike.refl g b _)

/-- A frame whose trailer has acted: its codewords and credit counts are kept, and the receiver's numbers are what they were. -/
theorem State.trailed_spec (fr : Frame) : let v := (s.countFec g b fr.corr 0).trailer g b fr
    sendsOnly g s v ∧ (v.group g).score = (s.group g).score ∧ (v.sub g b).expect = (s.sub g b).expect ∧
      (v.sub g b).rplyOut = (s.sub g b).rplyOut ∧ (v.sub g b).credSeen = fr.cred ∧
      (v.sub g b).cnt.fecCorr = bump (s.sub g b).cnt.fecCorr fr.corr := by
  obtain ⟨w, hw, rfl⟩ := State.trailer_spec (s.countFec g b fr.corr 0) g b fr
  have hcount := s.countFec_sub g b fr.corr 0
  refine ⟨((s.modSub_sendsOnly g b _).trans (State.modSub_sendsOnly _ g b _)).trans hw.sends, ?_, ?_, ?_, ?_, ?_⟩
  · rw [hw.score, State.modSub_score]
    exact s.modSub_score g b _
  · rw [hw.expect, State.modSub_sub, hcount]
    rfl
  · rw [hw.rplyOut, State.modSub_sub, hcount]
    rfl
  · rw [hw.credSeen, State.modSub_sub]
    rfl
  · rw [hw.fecCorr, State.modSub_sub, hcount]
    rfl

end

/-! ## Frames that arrive -/

/-- A violation scores one point against the group. -/
theorem State.violation_spec (s : State) (g : GroupIx) (b : SubIx) (code : Nat) : let u := s.violation g b code
    linkLogsOnly g s u ∧ (u.group g).score = (s.group g).score + 1 ∧ ∀ c, u.sub g c = s.sub g c := by
  have hmod : ∀ (w : State) (f : LinkGroup → LinkGroup) (cls loc : Nat), (∀ k, (f k).sub = k.sub) →
      linkLogsOnly g w ((w.modGroup g f).linkEvent g b cls loc) ∧ ((w.modGroup g f).linkEvent g b cls loc).group g = f (w.group g) ∧
        ∀ c, ((w.modGroup g f).linkEvent g b cls loc).sub g c = w.sub g c := fun w f cls loc hf => by
    have hgroup : ((w.modGroup g f).linkEvent g b cls loc).group g = f (w.group g) := by
      refine Eq.trans ?_ (w.modGroup_group g f)
      unfold State.linkEvent
      rw [State.logEvent_only]
      rfl
    refine ⟨(w.modGroup_sendsOnly g f).logs.trans (State.logEvent_linkLogsOnly _ g _ _ _ _ _ _), hgroup, fun c => ?_⟩
    refine (congrArg (fun k : LinkGroup => k.sub[c]) hgroup).trans ?_
    rw [hf]
    rfl
  unfold State.violation
  dsimp only
  obtain ⟨honly, hgroup, hsub⟩ := hmod s (fun k => { k with score := k.score + 1, viol := bump k.viol, lastCode := BitVec.ofNat 7 code }) 0 code
    fun _ => rfl
  generalize (s.modGroup g _).linkEvent g b 0 code = w at honly hgroup hsub ⊢
  split
  · obtain ⟨honly', hgroup', hsub'⟩ := hmod w (fun k => { k with quar := true }) 4 0x43 fun _ => rfl
    refine ⟨honly.trans honly', ?_, fun c => (hsub' c).trans (hsub c)⟩
    rw [hgroup', hgroup]
  · exact ⟨honly, by rw [hgroup], hsub⟩

section
variable {s : State} {g : GroupIx} {b : SubIx} {fr : Frame}

/-- A sublink that carries no frames takes none. -/
theorem dataFrame_of_down (h : (s.sub g b).up = false ∨ (s.sub g b).badRack = true) : exec (.dataFrame g b fr) s = .next s :=
  congrArg Host.Outcome.next (if_pos (by rwa [Bool.or_eq_true, Bool.not_eq_true']))

section
variable (hup : (s.sub g b).up = true) (hrack : (s.sub g b).badRack = false)
include hup hrack

omit hup hrack in
/-- The guard of a sublink that takes frames. -/
theorem dataFrame_guard (hup : (s.sub g b).up = true) (hrack : (s.sub g b).badRack = false) :
    ¬ ((!(s.sub g b).up || (s.sub g b).badRack) = true) := by
  rw [hup, hrack]
  decide

/-- In far loop only codewords count. -/
theorem dataFrame_of_far (hfar : (s.group g).loopMode b = 2) : exec (.dataFrame g b fr) s = .next (s.countFec g b fr.corr 0) :=
  congrArg Host.Outcome.next ((if_neg (dataFrame_guard hup hrack)).trans (if_pos hfar))

variable (hfar : ¬ (s.group g).loopMode b = 2)
include hfar

/-- A frame in sequence. -/
theorem dataFrame_of_expected (hseq : fr.fseq = (s.sub g b).expect) : ∃ n, exec (.dataFrame g b fr) s = .next
    (let s2 := ((s.countFec g b fr.corr 0).trailer g b fr).modSub g b fun k =>
      { (k.takeFlits g fr) with expect := k.expect + 32, rplyOut := false, badRun := 0
                                cnt := { k.cnt with flitsRx := bump k.cnt.flitsRx n } }
     if (s.sub g b).overrun g fr then s2.violation g b 0x16 else s2) :=
  ⟨_, congrArg Host.Outcome.next ((if_neg (dataFrame_guard hup hrack)).trans ((if_neg hfar).trans (if_pos hseq)))⟩

variable (hseq : fr.fseq ≠ (s.sub g b).expect)
include hseq

/-- A duplicate. -/
theorem dataFrame_of_duplicate (h : 2048 ≤ (fr.fseq - (s.sub g b).expect).toNat) : exec (.dataFrame g b fr) s =
    .next (((s.countFec g b fr.corr 0).trailer g b fr).modSub g b fun k => { k with badRun := 0 }) :=
  congrArg Host.Outcome.next ((if_neg (dataFrame_guard hup hrack)).trans ((if_neg hfar).trans ((if_neg hseq).trans (if_pos h))))

/-- Any other. -/
theorem dataFrame_of_gap (h : (fr.fseq - (s.sub g b).expect).toNat < 2048) : exec (.dataFrame g b fr) s =
    .next (((s.countFec g b fr.corr 0).trailer g b fr).modSub g b fun k => { k with rplyOut := true, badRun := 0 }) :=
  congrArg Host.Outcome.next ((if_neg (dataFrame_guard hup hrack)).trans ((if_neg hfar).trans ((if_neg hseq).trans (if_neg (Nat.not_le.2 h)))))

end

/-- A null frame in far loop. -/
theorem nullFrame_of_far (hfar : (s.group g).loopMode b = 2) : exec (.nullFrame g b fr) s = .next (s.countFec g b fr.corr 0) :=
  congrArg Host.Outcome.next (if_pos hfar)

/-- One on a sublink that is up or trains. -/
theorem nullFrame_of_up (hfar : ¬ (s.group g).loopMode b = 2) (h : (s.sub g b).up = true ∨ (s.sub g b).st = .training) :
    exec (.nullFrame g b fr) s =
      .next (((s.countFec g b fr.corr 0).trailer g b fr).modSub g b fun k => { k with badRun := 0 }) :=
  congrArg Host.Outcome.next ((if_neg hfar).trans (if_pos (by rwa [Bool.or_eq_true, beq_iff_eq])))

/-- One on another. -/
theorem nullFrame_of_down (hfar : ¬ (s.group g).loopMode b = 2) (hup : (s.sub g b).up = false) (h : (s.sub g b).st ≠ .training) :
    exec (.nullFrame g b fr) s = .next s := by
  refine congrArg Host.Outcome.next ((if_neg hfar).trans (if_neg ?_))
  rw [hup, Bool.false_or, beq_iff_eq]
  exact h

end

/-! ## Frames that fail -/

/-- A frame that failed is counted, and RPLY goes out. -/
def State.failFrame (s : State) (g : GroupIx) (b : SubIx) (corr bad : Nat) : State :=
  (s.countFec g b corr bad).modSub g b fun k =>
    { k with rplyOut := true, badRun := k.badRun + 1, cnt := { k.cnt with bad := bump k.cnt.bad } }

/-- Rewrites of one sublink change its group alone. -/
theorem State.modSub_onlyGroup (s : State) (g : GroupIx) (b : SubIx) (f : Sublink → Sublink) : onlyGroup g s (s.modSub g b f) :=
  ⟨rfl, fun _ hk => State.modSub_group_other _ _ _ _ _ hk⟩

/-- Two changes of a group are one. -/
theorem onlyGroup.trans {g : GroupIx} {s t v : State} (h : onlyGroup g s t) (h' : onlyGroup g t v) : onlyGroup g s v := by
  refine ⟨?_, fun k hk => (h'.2 k hk).trans (h.2 k hk)⟩
  rw [h'.1, h.1]

/-- A failed frame changes its group alone. -/
theorem State.failFrame_onlyGroup (s : State) (g : GroupIx) (b : SubIx) (corr bad : Nat) : onlyGroup g s (s.failFrame g b corr bad) :=
  (s.modSub_onlyGroup g b _).trans (State.modSub_onlyGroup _ g b _)

/-- The sublink once its frame has failed. -/
theorem State.failFrame_sub (s : State) (g : GroupIx) (b : SubIx) (corr bad : Nat) : (s.failFrame g b corr bad).sub g b =
    { s.sub g b with rplyOut := true, badRun := (s.sub g b).badRun + 1, cnt := { (s.sub g b).cnt with
      fecCorr := bump (s.sub g b).cnt.fecCorr corr, fecBad := bump (s.sub g b).cnt.fecBad bad, bad := bump (s.sub g b).cnt.bad } } := by
  unfold State.failFrame
  rw [State.modSub_sub, State.countFec_sub]

section
variable {s : State} {g : GroupIx} {b : SubIx}

/-- A powered sublink that is not disabled trains again, and keeps its replay buffer. -/
theorem State.retrainWarm_spec (hdis : (s.sub g b).st ≠ .disabled) (hpow : s.linkPowered g = true) (hatt : s.attached g b = true) :
    let u := s.retrainWarm g b
    onlyGroup g s u ∧ (u.sub g b).st = .training ∧ (u.sub g b).cold = false ∧ (u.sub g b).unacked = (s.sub g b).unacked ∧
      (u.sub g b).kept = (s.sub g b).kept := by
  have heq : s.retrainWarm g b = s.modSub g b fun k => k.train false :=
    if_neg (by rw [hpow, hatt, beq_eq_false_iff_ne.2 hdis]; decide)
  intro u
  have hsub : u.sub g b = (s.sub g b).train false := by
    show (s.retrainWarm g b).sub g b = _
    rw [heq, State.modSub_sub]
  refine ⟨?_, ?_, ?_, ?_, ?_⟩
  · show onlyGroup g s (s.retrainWarm g b)
    rw [heq]
    exact s.modSub_onlyGroup g b _
  all_goals rw [hsub]; rfl

/-- A sublink that carries frames is not disabled. -/
theorem Sublink.not_disabled_of_up {k : Sublink} (h : k.up = true) : k.st ≠ .disabled := fun e => by
  rw [Sublink.up, e] at h
  exact absurd h (by decide)

variable {corr bad : Nat}

/-- A failed frame in far loop. -/
theorem frameFail_of_far (hfar : (s.group g).loopMode b = 2) : exec (.frameFail g (b, corr, bad)) s = .next (s.countFec g b corr bad) :=
  congrArg Host.Outcome.next (if_pos hfar)

variable (hfar : ¬ (s.group g).loopMode b = 2)
include hfar

/-- One on a sublink that carries no frames. -/
theorem frameFail_of_down (hup : (s.sub g b).up = false) : exec (.frameFail g (b, corr, bad)) s = .next s :=
  congrArg Host.Outcome.next ((if_neg hfar).trans (if_neg (by show ¬ (s.sub g b).up = true; rw [hup]; decide)))

variable (hup : (s.sub g b).up = true)
include hup

/-- One of few. -/
theorem frameFail_of_few (h : (s.sub g b).badRun < 7) : exec (.frameFail g (b, corr, bad)) s = .next (s.failFrame g b corr bad) :=
  congrArg Host.Outcome.next ((if_neg hfar).trans ((if_pos hup).trans (if_neg (Nat.not_le.2 h))))

/-- The eighth in a row. -/
theorem frameFail_of_eighth (h : 7 ≤ (s.sub g b).badRun) :
    exec (.frameFail g (b, corr, bad)) s = .next ((s.failFrame g b corr bad).retrainWarm g b) :=
  congrArg Host.Outcome.next ((if_neg hfar).trans ((if_pos hup).trans (if_pos h)))

end

/-! ## Replays -/

/-- A difference of sequence numbers that does not reach below zero. -/
theorem ofNat_sub_toNat {u : Nat} {d : BitVec 12} (h : d.toNat ≤ u) : BitVec.ofNat 12 (u - d.toNat) = BitVec.ofNat 12 u - d := by
  rw [BitVec.eq_sub_iff_add_eq]
  calc BitVec.ofNat 12 (u - d.toNat) + d = BitVec.ofNat 12 (u - d.toNat) + BitVec.ofNat 12 d.toNat := by
        rw [BitVec.ofNat_toNat, BitVec.setWidth_eq]
    _ = BitVec.ofNat 12 (u - d.toNat + d.toNat) := (BitVec.ofNat_add _ _).symm
    _ = BitVec.ofNat 12 u := by rw [Nat.sub_add_cancel h]

section
variable (k : Sublink) (now : Nat) {e : BitVec 12}

/-- An acknowledgement that leaves something unacknowledged names the oldest frame from then on. -/
theorem Sublink.ackTo_of_within (h : (e - k.oldest).toNat < k.unacked) : (k.ackTo now e).oldest = e ∧ (k.ackTo now e).unacked ≠ 0 := by
  unfold Sublink.ackTo
  dsimp only
  split
  next h0 =>
    have hzero : (e - k.oldest).toNat = 0 := h0.resolve_right (by omega)
    exact ⟨(by bv_omega : k.oldest = e), by omega⟩
  next h0 =>
    refine ⟨?_, by dsimp only; omega⟩
    show k.txSeq - BitVec.ofNat 12 (k.unacked - (e - k.oldest).toNat) = e
    rw [ofNat_sub_toNat (Nat.le_of_lt h), Sublink.oldest]
    bv_omega

/-- One beyond what is unacknowledged leaves no frame that it names. -/
theorem Sublink.ackTo_of_beyond (h : k.unacked ≤ (e - k.oldest).toNat) : (k.ackTo now e).unacked = 0 ∨ (k.ackTo now e).oldest ≠ e := by
  unfold Sublink.ackTo
  dsimp only
  split
  next h0 =>
    by_cases hz : (e - k.oldest).toNat = 0
    · exact .inl (by omega)
    · exact .inr fun he => hz (by rw [he, BitVec.sub_self]; rfl)
  next h0 =>
    refine .inl ?_
    dsimp only
    omega

end

/-- What a replay from a frame leaves of its sublink, and what it sends. -/
theorem State.replay_spec (s : State) (g : GroupIx) (b : SubIx) (e : BitVec 12) :
    (s.replay g b e).sub g b = { s.sub g b with
      replayFrom := some e, replayAt := s.now, ackAt := s.now, stale := (s.sub g b).stale + 1
      cnt := { (s.sub g b).cnt with replay := bump (s.sub g b).cnt.replay
                                    retryNs := bump (s.sub g b).cnt.retryNs (s.sub g b).replayCost } } ∧
      (s.replay g b e).out = s.out ++ [.replay g b e ((s.sub g b).kept.map fun x => x.2.2)] := by
  have hmap : ∀ (w : State) (c : Prop) [Decidable c] (f : CMapAcc → CMapAcc),
      (if c then w.countMap f else w).links = w.links ∧ (if c then w.countMap f else w).out = w.out := fun w c _ f => by
    split
    · unfold State.countMap
      rw [State.rollMap_only]
      exact ⟨rfl, rfl⟩
    · exact ⟨rfl, rfl⟩
  unfold State.replay
  dsimp only
  refine ⟨?_, ?_⟩
  · refine Eq.trans (congrArg (fun l : Vector LinkGroup 14 => l[g].sub[b]) (hmap _ _ _).1) ?_
    exact s.modSub_sub g b _
  · exact congrArg (· ++ _) (hmap _ _ _).2

section
variable {s : State} {g : GroupIx} {b : SubIx} {e : BitVec 12}

/-- The state in which a RPLY has acknowledged what it names. -/
def State.acked (s : State) (g : GroupIx) (b : SubIx) (e : BitVec 12) : State := s.modSub g b fun k => k.ackTo s.now e

/-- Its sublink. -/
theorem State.acked_sub (s : State) (g : GroupIx) (b : SubIx) (e : BitVec 12) : (s.acked g b e).sub g b = (s.sub g b).ackTo s.now e :=
  s.modSub_sub g b _

/-- An acknowledgement is no replay. -/
theorem State.acked_replay (s : State) (g : GroupIx) (b : SubIx) (e : BitVec 12) :
    ((s.acked g b e).sub g b).replayFrom = (s.sub g b).replayFrom ∧ ((s.acked g b e).sub g b).replayAt = (s.sub g b).replayAt ∧
      ((s.acked g b e).sub g b).cnt = (s.sub g b).cnt := by
  rw [State.acked_sub, Sublink.ackTo_only]
  exact ⟨rfl, rfl, rfl⟩

/-- A RPLY that starts a replay. -/
theorem State.rply_of_due (h : (e - (s.sub g b).oldest).toNat < (s.sub g b).unacked)
    (hd : (s.sub g b).replayFrom ≠ some e ∨ (s.sub g b).replayAt + 250 < s.now) : s.rply g b e = (s.acked g b e).replay g b e := by
  obtain ⟨hold, hun⟩ := (s.sub g b).ackTo_of_within s.now h
  obtain ⟨hfrom, hat, -⟩ := s.acked_replay g b e
  refine if_neg fun hc => ?_
  change (decide (((s.acked g b e).sub g b).unacked = 0) || ((s.acked g b e).sub g b).oldest != e ||
    (((s.acked g b e).sub g b).replayFrom == some e && decide (s.now ≤ ((s.acked g b e).sub g b).replayAt + 250))) = true at hc
  rw [hfrom, hat, State.acked_sub, hold, decide_eq_false hun, bne_self_eq_false, Bool.false_or, Bool.false_or, Bool.and_eq_true,
    beq_iff_eq, decide_eq_true_eq] at hc
  exact hd.elim (· hc.1) (fun hlt => absurd hc.2 (Nat.not_le.2 hlt))

/-- One that comes too soon after, or names no frame that is kept. -/
theorem State.rply_of_not (hd : (s.sub g b).unacked ≤ (e - (s.sub g b).oldest).toNat ∨
    (s.sub g b).replayFrom = some e ∧ s.now ≤ (s.sub g b).replayAt + 250) : s.rply g b e = s.acked g b e := by
  obtain ⟨hfrom, hat, -⟩ := s.acked_replay g b e
  refine if_pos ?_
  change (decide (((s.acked g b e).sub g b).unacked = 0) || ((s.acked g b e).sub g b).oldest != e ||
    (((s.acked g b e).sub g b).replayFrom == some e && decide (s.now ≤ ((s.acked g b e).sub g b).replayAt + 250))) = true
  rw [hfrom, hat, State.acked_sub, Bool.or_eq_true, Bool.or_eq_true, Bool.and_eq_true, decide_eq_true_eq, bne_iff_ne, beq_iff_eq,
    decide_eq_true_eq]
  exact hd.imp_left (Sublink.ackTo_of_beyond _ _)

/-- Packets that leave start no replay. -/
theorem pumps.replay {t : State} (h : pumps g b s t) : (t.sub g b).replayFrom = (s.sub g b).replayFrom ∧
    (t.sub g b).replayAt = (s.sub g b).replayAt ∧ (t.sub g b).cnt.replay = (s.sub g b).cnt.replay := by
  have hsub := h.sub
  unfold Sublink.sentAs at hsub
  rw [hsub]
  exact ⟨rfl, rfl, rfl⟩

/-- A RPLY on a sublink that carries none. -/
theorem replyRequest_of_not (h : (s.sub g b).up = false ∨ (s.group g).loopMode b = 2) : exec (.replyRequest g b e) s = .next s := by
  refine congrArg Host.Outcome.next (if_neg fun he => ?_)
  rw [Bool.and_eq_true, bne_iff_ne] at he
  exact h.elim (fun hup => absurd he.1 (by rw [hup]; decide)) he.2

/-- One that is heard. -/
theorem replyRequest_of_heard (hup : (s.sub g b).up = true) (hfar : ¬ (s.group g).loopMode b = 2) :
    exec (.replyRequest g b e) s = .next ((s.rply g b e).pumpAll g b) :=
  congrArg Host.Outcome.next (if_pos (by rw [hup, bne_iff_ne.2 hfar]; rfl))

/-- It sends and keeps nothing but packets. -/
theorem State.rply_sendsOnly (s : State) (g : GroupIx) (b : SubIx) (e : BitVec 12) : sendsOnly g s ((s.rply g b e).pumpAll g b) :=
  (s.rply_rxAlike g b e).sends.trans (State.pumpAll_sendsOnly _ g b)

/-- A replay that a RPLY starts. -/
theorem State.rply_resent (h : (e - (s.sub g b).oldest).toNat < (s.sub g b).unacked)
    (hd : (s.sub g b).replayFrom ≠ some e ∨ (s.sub g b).replayAt + 250 < s.now) : let u := (s.rply g b e).pumpAll g b
    (u.sub g b).replayFrom = some e ∧ (u.sub g b).replayAt = s.now ∧
      .replay g b e (((s.sub g b).ackTo s.now e).kept.map fun x => x.2.2) ∈ u.out ∧
      (u.sub g b).cnt.replay = bump (s.sub g b).cnt.replay := by
  rw [State.rply_of_due h hd]
  have hp := ((s.acked g b e).replay g b e).pumpAll_pumps g b
  obtain ⟨hfrom, hat, hcnt⟩ := hp.replay
  obtain ⟨hsub, hout⟩ := (s.acked g b e).replay_spec g b e
  have hnow : (s.acked g b e).now = s.now := rfl
  refine ⟨by rw [hfrom, hsub], by rw [hat, hsub, hnow], hp.mem_out ?_, ?_⟩
  · rw [hout, State.acked_sub]
    exact List.mem_append_right _ (List.mem_singleton.2 rfl)
  · rw [hcnt, hsub, (s.acked_replay g b e).2.2]

/-- A RPLY that starts none. -/
theorem State.rply_kept (hd : (s.sub g b).unacked ≤ (e - (s.sub g b).oldest).toNat ∨
    (s.sub g b).replayFrom = some e ∧ s.now ≤ (s.sub g b).replayAt + 250) : let u := (s.rply g b e).pumpAll g b
    (u.sub g b).replayFrom = (s.sub g b).replayFrom ∧ (u.sub g b).replayAt = (s.sub g b).replayAt ∧
      (u.sub g b).cnt.replay = (s.sub g b).cnt.replay := by
  rw [State.rply_of_not hd]
  obtain ⟨hfrom, hat, hcnt⟩ := ((s.acked g b e).pumpAll_pumps g b).replay
  obtain ⟨hfrom', hat', hcnt'⟩ := s.acked_replay g b e
  exact ⟨hfrom.trans hfrom', hat.trans hat', hcnt.trans (by rw [hcnt'])⟩

/-- No replay is due. -/
theorem replayTimeout_of_not (h : (s.sub g b).up = false ∨ (s.sub g b).unacked = 0 ∨ s.now < (s.sub g b).ackAt + 1000) :
    exec (.replayTimeout g b) s = .next s := by
  refine congrArg Host.Outcome.next (if_neg fun e => ?_)
  simp only [Bool.and_eq_true, decide_eq_true_eq] at e
  obtain ⟨⟨hup, hun⟩, ht⟩ := e
  obtain h | h | h := h
  · exact absurd hup (by rw [h]; decide)
  · omega
  · omega

section
variable (hup : (s.sub g b).up = true) (hun : 0 < (s.sub g b).unacked) (ht : (s.sub g b).ackAt + 1000 ≤ s.now)
include hup hun ht

/-- 1 µs without an acknowledgement. -/
theorem replayTimeout_of_due : exec (.replayTimeout g b) s =
    .next (if 32 ≤ (s.sub g b).stale then s.retrainWarm g b else s.replay g b (s.sub g b).oldest) :=
  congrArg Host.Outcome.next (if_pos (by rw [hup, decide_eq_true hun, decide_eq_true ht]; rfl))

end

end

/-- Settles O44: frames by `trailed_spec` and `violation_spec`, failed ones by `failFrame_sub` and `retrainWarm_spec`, replays by
`rply_resent`, `rply_kept` and `replay_spec`. -/
theorem framesInSequence : Obligations.FramesInSequence := by
  intro s g b fr e corr bad k far words counts resent retrains mayTrain
  have hcounts : ∀ n m, onlyGroup g s (s.countFec g b n m) ∧ (s.countFec g b n m).sub g b = { k with cnt := words n m } := fun n m =>
    ⟨s.modSub_onlyGroup g b _, s.countFec_sub g b n m⟩
  have hone : ∀ f : Sublink → Sublink, sendsOnly g s (((s.countFec g b fr.corr 0).trailer g b fr).modSub g b f) := fun f =>
    (s.trailed_spec g b fr).1.trans (State.modSub_sendsOnly _ g b f)
  obtain ⟨hsends, hscore, hexpect, hrply, hcred, hfec⟩ := s.trailed_spec g b fr
  generalize hw : (s.countFec g b fr.corr 0).trailer g b fr = w at hsends hscore hexpect hrply hcred hfec hone
  refine ⟨fun hup hrack hfar => ⟨fun hseq hov => ?_, fun hseq hov => ?_, fun hseq h => ?_, fun hseq h => ?_⟩,
    fun hup hrack hfar => ⟨_, dataFrame_of_far hup hrack hfar, hcounts _ _⟩, dataFrame_of_down, fun hu hfar => ?_,
    fun hfar => ⟨⟨_, nullFrame_of_far hfar, hcounts _ _⟩, ⟨_, frameFail_of_far hfar, hcounts _ _⟩, replyRequest_of_not (.inr hfar)⟩,
    fun hup hfar => ⟨fun h => ?_, fun h hm => ?_, fun h hd => ?_, fun h hf ht => ?_, fun h => ?_⟩,
    fun hup hfar => ⟨frameFail_of_down hfar hup, replyRequest_of_not (.inl hup), nullFrame_of_down hfar hup⟩,
    fun hup hun ht => ⟨fun h => ?_, fun h hm => ?_⟩, replayTimeout_of_not⟩
  · obtain ⟨n, hn⟩ := dataFrame_of_expected hup hrack hfar hseq
    rw [hw] at hn
    dsimp only at hn
    rw [if_neg (by rw [hov]; decide)] at hn
    refine ⟨_, hn, hone _, ?_⟩
    rw [State.modSub_sub]
    exact ⟨congrArg (· + 32) hexpect, rfl, rfl, hcred, hfec⟩
  · obtain ⟨n, hn⟩ := dataFrame_of_expected hup hrack hfar hseq
    rw [hw] at hn
    dsimp only at hn
    rw [if_pos hov] at hn
    refine ⟨_, hn, ?_⟩
    obtain ⟨honly, hsc, hsub⟩ := State.violation_spec (w.modSub g b fun k =>
      { (k.takeFlits g fr) with expect := k.expect + 32, rplyOut := false, badRun := 0
                                cnt := { k.cnt with flitsRx := bump k.cnt.flitsRx n } }) g b 0x16
    refine ⟨(hone _).logs.trans honly, ?_, ?_⟩
    · rw [hsub, State.modSub_sub]
      exact congrArg (· + 32) hexpect
    · rw [hsc, State.modSub_score, hscore]
  · refine ⟨_, dataFrame_of_duplicate hup hrack hfar hseq h, ?_⟩
    rw [hw]
    refine ⟨hone _, ?_⟩
    rw [State.modSub_sub]
    exact ⟨hexpect, hrply, hcred⟩
  · refine ⟨_, dataFrame_of_gap hup hrack hfar hseq h, ?_⟩
    rw [hw]
    refine ⟨hone _, ?_⟩
    rw [State.modSub_sub]
    exact ⟨hexpect, rfl, hcred⟩
  · refine ⟨_, nullFrame_of_up hfar hu, ?_⟩
    rw [hw]
    refine ⟨hone _, ?_⟩
    rw [State.modSub_sub]
    exact ⟨hexpect, hcred, rfl⟩
  · exact ⟨_, frameFail_of_few hfar hup h, s.failFrame_onlyGroup g b corr bad, s.failFrame_sub g b corr bad⟩
  · have hsub := s.failFrame_sub g b corr bad
    obtain ⟨honly, hst, hcold, hun, hkept⟩ := State.retrainWarm_spec (s := s.failFrame g b corr bad)
      (by rw [hsub]; exact Sublink.not_disabled_of_up hup) hm.1 hm.2
    rw [hsub] at hun hkept
    exact ⟨_, frameFail_of_eighth hfar hup h, (s.failFrame_onlyGroup g b corr bad).trans honly, hst, hcold, hun, hkept⟩
  · exact ⟨_, replyRequest_of_heard hup hfar, s.rply_sendsOnly g b e, State.rply_resent h hd⟩
  · obtain ⟨-, hat, hcnt⟩ := State.rply_kept (s := s) (g := g) (b := b) (e := e) (.inr ⟨hf, ht⟩)
    exact ⟨_, replyRequest_of_heard hup hfar, s.rply_sendsOnly g b e, hat, hcnt⟩
  · obtain ⟨hfrom, -, hcnt⟩ := State.rply_kept (s := s) (g := g) (b := b) (e := e) (.inl h)
    exact ⟨_, replyRequest_of_heard hup hfar, s.rply_sendsOnly g b e, hfrom, hcnt⟩
  · obtain ⟨hsub, hout⟩ := s.replay_spec g b k.oldest
    refine ⟨_, (replayTimeout_of_due hup hun ht).trans (congrArg _ (if_neg (Nat.not_le.2 h))), (s.replay_rxAlike g b _).sends, ?_⟩
    rw [hsub]
    exact ⟨rfl, rfl, rfl, hout⟩
  · exact ⟨_, (replayTimeout_of_due hup hun ht).trans (congrArg _ (if_pos h)),
      State.retrainWarm_spec (Sublink.not_disabled_of_up hup) hm.1 hm.2⟩

end Sys2Proof.Machine
end

section
/-! PROOFS. Training and loss of sublinks, and spared lanes (R356 to R360, R442, R480). -/

namespace Sys2Proof.Machine

/-! ## Events of a sublink -/

/-- Fault messages that leave follow what had left. -/
theorem State.logEvent_out (s : State) (cls unit loc kind ident : Nat) (d : List Byte) :
    ∃ l, (s.logEvent cls unit loc kind ident d).out = s.out ++ l := by
  have hmsix : ∀ (w : State) (p : PortIx), ∃ l, (w.faultMsix p).out = w.out ++ l := fun w p => by
    unfold State.faultMsix
    split
    · exact ⟨[], (List.append_nil _).symm⟩
    · split
      · exact ⟨_, rfl⟩
      · exact ⟨[], (List.append_nil _).symm⟩
  have hirq : ∀ (w : State) (n : Nat), ∃ l, (w.irqClass n).out = w.out ++ l := fun w n => by
    unfold State.irqClass
    split
    · obtain ⟨l, hl⟩ := hmsix w 0
      obtain ⟨l', hl'⟩ := hmsix (w.faultMsix 0) 1
      exact ⟨l ++ l', by rw [hl', hl, List.append_assoc]⟩
    · exact ⟨[], (List.append_nil _).symm⟩
  unfold State.logEvent State.logCode
  split
  · exact ⟨[], (List.append_nil _).symm⟩
  · exact hirq _ _

section
variable (s : State) (g : GroupIx) (b : SubIx) (cls loc : Nat) (d : List Byte)

/-- An event of a sublink changes the log and what leaves alone. -/
theorem State.linkEvent_only : s.linkEvent g b cls loc d =
    { s with flt := (s.linkEvent g b cls loc d).flt, out := (s.linkEvent g b cls loc d).out } := s.logEvent_only _ _ _ _ _ _

/-- Its frame. -/
theorem State.linkEvent_linkLogsOnly : linkLogsOnly g s (s.linkEvent g b cls loc d) := s.logEvent_linkLogsOnly g _ _ _ _ _ _

/-- No sublink changes. -/
theorem State.linkEvent_sub (h : GroupIx) (c : SubIx) : (s.linkEvent g b cls loc d).sub h c = s.sub h c := by
  rw [State.linkEvent_only]
  rfl

/-- It is in the log. -/
theorem State.linkEvent_logged : ∃ x ∈ (s.linkEvent g b cls loc d).flt.log, x.code = faultCode cls 6 loc ∧ x.srcKind = BitVec.ofNat 8 kSublink := by
  obtain ⟨x, hx, hcode, hkind, -⟩ := s.logHolds_logEvent cls 6 loc kSublink (subId g b) d
  exact ⟨x, hx, hcode, hkind⟩

/-- What had left is still out. -/
theorem State.linkEvent_out {o : Out} (h : o ∈ s.out) : o ∈ (s.linkEvent g b cls loc d).out := by
  obtain ⟨l, hl⟩ := s.logEvent_out cls 6 loc kSublink (subId g b) d
  unfold State.linkEvent
  rw [hl]
  exact List.mem_append_left l h

end

/-- A management packet leaves, and nothing else changes. -/
theorem State.sendMgmt_sendsOnly (s : State) (g : GroupIx) (b : SubIx) (body : List Byte) : sendsOnly g s (s.sendMgmt g b body) :=
  s.emit_sendsOnly g _

/-! ## Training -/

section
variable {s : State} {g : GroupIx} {b : SubIx} (hdis : (s.sub g b).st ≠ .disabled)

/-- A sublink that is not powered, or whose router is dead, does not train. -/
theorem State.retrainWarm_of_not (h : ¬ (s.linkPowered g = true ∧ s.attached g b = true)) : s.retrainWarm g b = s := by
  refine if_pos (Classical.byContradiction fun e => h ?_)
  simp only [Bool.or_eq_true, not_or, Bool.not_eq_true, Bool.not_eq_false'] at e
  exact ⟨e.1.2, e.2⟩

include hdis in
/-- A powered one begins its training, and keeps what it holds. -/
theorem State.retrainWarm_of_powered (hm : s.linkPowered g = true ∧ s.attached g b = true) :
    s.retrainWarm g b = s.modSub g b fun k => k.train false :=
  if_neg (by rw [hm.1, hm.2, beq_eq_false_iff_ne.2 hdis]; decide)

/-- What the sublink holds once it is active. -/
def Sublink.activated (k : Sublink) (now : Nat) : Sublink :=
  { k.pickLanes with st := .active, rplyOut := false, warmFail := 0, coldFail := 0, dead := false, upAt := now, sfBase := 0, sfAt := now
                     activeAt := now, ackAt := now, steadyAt := now }

/-- A sublink that becomes active: what it holds is replayed, but not to another rack. -/
theorem State.becomeActive_eq (s : State) (g : GroupIx) (b : SubIx) : let s1 := s.modSub g b fun k => k.activated s.now
    s.becomeActive g b = if (s.sub g b).badRack then s1 else if (s.sub g b).unacked = 0 then s1.pumpAll g b
      else (s1.replay g b (s.sub g b).oldest).pumpAll g b := by
  have hsub := s.modSub_sub g b fun k => k.activated s.now
  unfold State.becomeActive
  dsimp only
  change (if ((s.modSub g b fun k => k.activated s.now).sub g b).badRack then _ else
    if ((s.modSub g b fun k => k.activated s.now).sub g b).unacked = 0 then _ else
      ((s.modSub g b fun k => k.activated s.now).replay g b ((s.modSub g b fun k => k.activated s.now).sub g b).oldest).pumpAll g b) = _
  rw [hsub]
  rfl

/-- Packets that leave keep a sublink's state and its failed trainings. -/
theorem pumps.training {t : State} (h : pumps g b s t) : (t.sub g b).st = (s.sub g b).st ∧ (t.sub g b).warmFail = (s.sub g b).warmFail ∧
    (t.sub g b).coldFail = (s.sub g b).coldFail := by
  have hsub := h.sub
  unfold Sublink.sentAs at hsub
  rw [hsub]
  exact ⟨rfl, rfl, rfl⟩

/-- What a sublink that becomes active shows. -/
theorem State.becomeActive_spec (s : State) (g : GroupIx) (b : SubIx) : let k := s.sub g b; let u := s.becomeActive g b
    sendsOnly g s u ∧ (u.sub g b).st = .active ∧ (u.sub g b).warmFail = 0 ∧ (u.sub g b).coldFail = 0 ∧
      (k.badRack = true → (u.sub g b).tx = k.tx ∧ u.out = s.out) ∧
      (k.badRack = false → 0 < k.unacked → (u.sub g b).replayFrom = some k.oldest ∧
        .replay g b k.oldest (k.kept.map fun x => x.2.2) ∈ u.out) := by
  have hsub := s.modSub_sub g b fun k => k.activated s.now
  have honly := s.modSub_sendsOnly g b fun k => k.activated s.now
  have hout : (s.modSub g b fun k => k.activated s.now).out = s.out := rfl
  rw [State.becomeActive_eq]
  generalize (s.modSub g b fun k => k.activated s.now) = v at hsub honly hout ⊢
  dsimp only
  split
  next h =>
    rw [hsub]
    exact ⟨honly, rfl, rfl, rfl, fun _ => ⟨rfl, hout⟩, fun hno => absurd h (by rw [hno]; decide)⟩
  next h =>
    split
    next h0 =>
      obtain ⟨hst, hwarm, hcold⟩ := (v.pumpAll_pumps g b).training
      rw [hsub] at hst hwarm hcold
      exact ⟨honly.trans (v.pumpAll_sendsOnly g b), hst, hwarm, hcold, fun hyes => absurd hyes h, fun _ hlt => absurd h0 (by omega)⟩
    next h0 =>
      obtain ⟨hrep, hrepout⟩ := v.replay_spec g b (s.sub g b).oldest
      have hp := (v.replay g b (s.sub g b).oldest).pumpAll_pumps g b
      obtain ⟨hst, hwarm, hcold⟩ := hp.training
      obtain ⟨hfrom, -, -⟩ := hp.replay
      rw [hrep, hsub] at hst hwarm hcold
      rw [hrep] at hfrom
      refine ⟨(honly.trans (v.replay_rxAlike g b _).sends).trans hp.sends, hst, hwarm, hcold, fun hyes => absurd hyes h,
        fun _ _ => ⟨hfrom, hp.mem_out ?_⟩⟩
      rw [hrepout, hsub]
      exact List.mem_append_right _ (List.mem_singleton.2 rfl)

/-- A warm retrain ends. -/
theorem retrainDone_of_trained (ht : (s.sub g b).st = .training) (hc : s.capsDone g b = true) (hk : (s.sub g b).cold = false) :
    exec (.retrainDone g b) s = .next (s.becomeActive g b) :=
  congrArg Host.Outcome.next (if_pos (by rw [ht, hc, hk]; rfl))

/-- One that has not. -/
theorem retrainDone_of_not (h : ¬ ((s.sub g b).st = .training ∧ s.capsDone g b = true ∧ (s.sub g b).cold = false)) :
    exec (.retrainDone g b) s = .next s := by
  refine congrArg Host.Outcome.next (if_neg fun e => h ?_)
  simpa only [Bool.and_eq_true, beq_iff_eq, Bool.not_eq_true', and_assoc] using e

/-- Cold training ends. -/
theorem trainingDone_of_trained (ht : (s.sub g b).st = .training) (hc : s.capsDone g b = true) (hk : (s.sub g b).cold = true) :
    exec (.trainingDone g b) s = .next (s.becomeActive g b) :=
  congrArg Host.Outcome.next (if_pos (by rw [ht, hc, hk]; rfl))

/-- Or has not. -/
theorem trainingDone_of_not (h : ¬ ((s.sub g b).st = .training ∧ s.capsDone g b = true ∧ (s.sub g b).cold = true)) :
    exec (.trainingDone g b) s = .next s := by
  refine congrArg Host.Outcome.next (if_neg fun e => h ?_)
  simpa only [Bool.and_eq_true, beq_iff_eq, and_assoc] using e

/-- CAPS of the peer while the sublink does not train. -/
theorem caps_of_not (c : Caps) (h : (s.sub g b).st ≠ .training) : exec (.caps g b c) s = .next s :=
  congrArg Host.Outcome.next (if_pos (bne_iff_ne.2 h))

/-- The state in which the peer's CAPS have been answered and taken. -/
def State.takenCaps (s : State) (g : GroupIx) (b : SubIx) (c : Caps) : State :=
  (s.sendMgmt g b (s.capsBody g b)).modSub g b fun k => k.takeCaps c s.cfg.active.rackId

/-- Its sublink, and what left. -/
theorem State.takenCaps_spec (s : State) (g : GroupIx) (b : SubIx) (c : Caps) : let v := s.takenCaps g b c
    sendsOnly g s v ∧ Out.management g b (s.capsBody g b ++ zeros (32 - (s.capsBody g b).length)) ∈ v.out ∧
      (v.sub g b).gotCaps = true ∧ (v.sub g b).peerEpoch = c.epoch ∧ (v.sub g b).badRack = (c.rackId != s.cfg.active.rackId) ∧
      (v.sub g b).cred = c.credits.map BitVec.toNat ∧ v.flt = s.flt := by
  have hsub := (s.sendMgmt g b (s.capsBody g b)).modSub_sub g b fun k => k.takeCaps c s.cfg.active.rackId
  refine ⟨(s.sendMgmt_sendsOnly g b _).trans (State.modSub_sendsOnly _ g b _), List.mem_append_right _ (List.mem_singleton.2 rfl), ?_⟩
  show (_ ∧ _)
  unfold State.takenCaps
  rw [hsub]
  exact ⟨rfl, rfl, rfl, rfl, rfl⟩

/-- CAPS while it trains. -/
theorem caps_of_training (c : Caps) (h : (s.sub g b).st = .training) : exec (.caps g b c) s =
    .next (if c.rackId != s.cfg.active.rackId then (s.takenCaps g b c).linkEvent g b 4 0x44 else s.takenCaps g b c) :=
  congrArg Host.Outcome.next (if_neg (by rw [h]; decide))

/-- What CAPS leave. -/
theorem State.caps_spec (s : State) (g : GroupIx) (b : SubIx) (c : Caps) :
    let u := if c.rackId != s.cfg.active.rackId then (s.takenCaps g b c).linkEvent g b 4 0x44 else s.takenCaps g b c
    linkLogsOnly g s u ∧ Out.management g b (s.capsBody g b ++ zeros (32 - (s.capsBody g b).length)) ∈ u.out ∧
      (u.sub g b).gotCaps = true ∧ (u.sub g b).peerEpoch = c.epoch ∧ (u.sub g b).badRack = (c.rackId != s.cfg.active.rackId) ∧
      (u.sub g b).cred = c.credits.map BitVec.toNat ∧
      (c.rackId = s.cfg.active.rackId → u.flt = s.flt) ∧
      (c.rackId ≠ s.cfg.active.rackId → ∃ x ∈ u.flt.log, x.code = faultCode 4 6 0x44 ∧ x.srcKind = BitVec.ofNat 8 kSublink) := by
  obtain ⟨honly, hout, hgot, hepoch, hrack, hcred, hflt⟩ := s.takenCaps_spec g b c
  generalize s.takenCaps g b c = v at honly hout hgot hepoch hrack hcred hflt
  dsimp only
  split
  next h =>
    rw [State.linkEvent_sub]
    exact ⟨honly.logs.trans (v.linkEvent_linkLogsOnly g b _ _ _), v.linkEvent_out g b _ _ _ hout, hgot, hepoch, hrack, hcred,
      fun e => absurd e (bne_iff_ne.1 h), fun _ => v.linkEvent_logged g b _ _ _⟩
  next h => exact ⟨honly.logs, hout, hgot, hepoch, hrack, hcred, fun _ => hflt, fun e => absurd (bne_iff_ne.2 e) h⟩

/-! ## Loss and failed training -/

/-- A lost signal. -/
theorem linkLoss_of_lost (h : ((s.sub g b).st = .active ∨ (s.sub g b).st = .txNarrow) ∧ (s.sub g b).rxBiv = false ∧ (s.sub g b).rxNarrow = false) :
    exec (.linkLoss g b) s = .next (s.loseLink g b) := by
  obtain ⟨hst, hbiv, hnar⟩ := h
  refine congrArg Host.Outcome.next (if_pos ?_)
  rw [hbiv, hnar]
  simpa using hst

/-- No signal is lost. -/
theorem linkLoss_of_not
    (h : ¬ (((s.sub g b).st = .active ∨ (s.sub g b).st = .txNarrow) ∧ (s.sub g b).rxBiv = false ∧ (s.sub g b).rxNarrow = false)) :
    exec (.linkLoss g b) s = .next s := by
  refine congrArg Host.Outcome.next (if_neg fun e => h ?_)
  simpa only [Bool.and_eq_true, Bool.or_eq_true, beq_iff_eq, Bool.not_eq_true', and_assoc] using e

/-- A sublink that has lost its signal trains, or goes down. -/
theorem State.loseLink_sub (s : State) (g : GroupIx) (b : SubIx) : (s.loseLink g b).sub g b =
    if s.linkPowered g && s.attached g b then (s.sub g b).train false else (s.sub g b).dropDown := s.modSub_sub g b _

section
variable (ht : (s.sub g b).st = .training)
include ht

/-- A failed warm retrain. -/
theorem retrainFailed_of_warm (hk : (s.sub g b).cold = false) : exec (.retrainFailed g b) s = .next
    (if 3 ≤ (s.sub g b).warmFail + 1 then s.modSub g b fun k => { (k.train true) with warmFail := 0, coldFail := 0 }
      else s.modSub g b fun k => { (k.train false) with warmFail := k.warmFail + 1 }) :=
  congrArg Host.Outcome.next ((if_neg (by rw [ht]; decide)).trans (if_neg (by rw [hk]; decide)))

/-- A failed cold one. -/
theorem retrainFailed_of_cold (hk : (s.sub g b).cold = true) : exec (.retrainFailed g b) s = .next
    (if 3 ≤ (s.sub g b).coldFail + 1 then
        ((s.modSub g b fun k => { k.dropDown with coldFail := 3, dead := true }).linkEvent g b 4 0x42).service svLinkDead
      else s.modSub g b fun k => { (k.train true) with coldFail := k.coldFail + 1 }) :=
  congrArg Host.Outcome.next ((if_neg (by rw [ht]; decide)).trans (if_pos hk))

end

end

/-- A failed warm retrain: the third leads to a cold one. -/
theorem State.warmFailed_spec (s : State) (g : GroupIx) (b : SubIx) : let k := s.sub g b
    let u := if 3 ≤ k.warmFail + 1 then s.modSub g b fun k => { (k.train true) with warmFail := 0, coldFail := 0 }
      else s.modSub g b fun k => { (k.train false) with warmFail := k.warmFail + 1 }
    onlyGroup g s u ∧ (u.sub g b).st = .training ∧ (u.sub g b).cold = decide (2 ≤ k.warmFail) ∧
      (u.sub g b).warmFail = if 2 ≤ k.warmFail then 0 else k.warmFail + 1 := by
  dsimp only
  split
  next h =>
    have h2 : 2 ≤ (s.sub g b).warmFail := by omega
    rw [State.modSub_sub, decide_eq_true h2, if_pos h2]
    exact ⟨s.modSub_onlyGroup g b _, rfl, rfl, rfl⟩
  next h =>
    have h2 : ¬ 2 ≤ (s.sub g b).warmFail := by omega
    rw [State.modSub_sub, decide_eq_false h2, if_neg h2]
    exact ⟨s.modSub_onlyGroup g b _, rfl, rfl, rfl⟩

/-- The bit of a service cause, once raised. -/
theorem State.service_bit (s : State) : (s.service svLinkDead).flt.service.getLsbD 0 = true := by
  unfold State.service
  rw [BitVec.getLsbD_or, show (BitVec.ofNat 10 (2 ^ svLinkDead)).getLsbD 0 = true by decide, Bool.or_true]

/-- The third failed cold retrain: the sublink is dead, logged, and the module calls for service. -/
theorem State.deadLink_spec (s : State) (g : GroupIx) (b : SubIx) :
    let u := ((s.modSub g b fun k => { k.dropDown with coldFail := 3, dead := true }).linkEvent g b 4 0x42).service svLinkDead
    linkLogsOnly g s u ∧ (u.sub g b).st = .down ∧ (u.sub g b).dead = true ∧ u.flt.service.getLsbD 0 = true ∧
      ∃ x ∈ u.flt.log, x.code = faultCode 4 6 0x42 := by
  have hsub := s.modSub_sub g b fun k => { k.dropDown with coldFail := 3, dead := true }
  have honly := s.modSub_sendsOnly g b fun k => { k.dropDown with coldFail := 3, dead := true }
  generalize (s.modSub g b fun k => { k.dropDown with coldFail := 3, dead := true }) = v at hsub honly
  have hev := v.linkEvent_sub g b 4 0x42 [] g b
  obtain ⟨x, hx, hcode, -⟩ := v.linkEvent_logged g b 4 0x42 []
  rw [hsub] at hev
  refine ⟨(honly.logs.trans (v.linkEvent_linkLogsOnly g b 4 0x42 [])).trans ⟨rfl, fun _ _ => rfl⟩, ?_, ?_, State.service_bit _, x, hx, hcode⟩
  · exact (congrArg Sublink.st hev).trans rfl
  · exact (congrArg Sublink.dead hev).trans rfl

/-! ## Lanes -/

/-- A sublink whose receive lane has failed. -/
def Sublink.failLane (k : Sublink) (lane : Fin 34) : Sublink := { k with laneBad := k.laneBad ||| laneMask [lane] }

/-- The state in which a failed lane is marked and logged. -/
def State.markLane (s : State) (g : GroupIx) (b : SubIx) (lane : Fin 34) : State :=
  (s.modSub g b fun k => k.failLane lane).linkEvent g b 0 0x40 [BitVec.ofNat 8 lane.val]

section
variable (s : State) (g : GroupIx) (b : SubIx) (lane : Fin 34)

/-- The mark and the log. -/
theorem State.markLane_spec : linkLogsOnly g s (s.markLane g b lane) ∧ (s.markLane g b lane).sub g b = (s.sub g b).failLane lane ∧
    (s.markLane g b lane).now = s.now ∧ ∃ y ∈ (s.markLane g b lane).flt.log, y.code = faultCode 0 6 0x40 := by
  unfold State.markLane
  obtain ⟨x, hx, hcode, -⟩ := (s.modSub g b fun k => k.failLane lane).linkEvent_logged g b 0 0x40 [BitVec.ofNat 8 lane.val]
  refine ⟨(s.modSub_sendsOnly g b _).logs.trans (State.linkEvent_linkLogsOnly _ g b _ _ _), ?_, ?_, x, hx, hcode⟩
  · rw [State.linkEvent_sub, State.modSub_sub]
  · rw [State.linkEvent_only]
    rfl

/-- A receiver without a spare narrows, or goes down. -/
theorem State.narrowOrDown_spec : let k := s.sub g b; let ok := healthyLanes k.laneBad; let u := s.narrowOrDown g b
    linkLogsOnly g s u ∧
      (16 ≤ ok.length → (u.sub g b).half = true ∧ (u.sub g b).st = k.st ∧ (u.sub g b).laneAct = laneMask (ok.take 16)) ∧
      (ok.length < 16 → (u.sub g b).st = .down) := by
  unfold State.narrowOrDown
  dsimp only
  split
  next h =>
    refine ⟨(s.modSub_sendsOnly g b _).logs.trans (State.linkEvent_linkLogsOnly _ g b _ _ _), fun hno => absurd h (Nat.not_lt.2 hno), fun _ => ?_⟩
    rw [State.linkEvent_sub, State.modSub_sub]
    rfl
  next h =>
    have hsub := s.modSub_sub g b fun k => { k with half := true, laneAct := laneMask ((healthyLanes (s.sub g b).laneBad).take 16) }
    have honly := (s.modSub_sendsOnly g b fun k =>
      { k with half := true, laneAct := laneMask ((healthyLanes (s.sub g b).laneBad).take 16) }).logs
    split
    · rw [hsub]
      exact ⟨honly, fun _ => ⟨rfl, rfl, rfl⟩, fun hno => absurd hno h⟩
    · rw [State.linkEvent_sub, hsub]
      exact ⟨honly.trans (State.linkEvent_linkLogsOnly _ g b _ _ _), fun _ => ⟨rfl, rfl, rfl⟩, fun hno => absurd hno h⟩

/-- A management packet of eight bytes leaves with 24 zeros. -/
theorem State.sendMgmt_out (a0 a1 a2 a3 : Byte) (w : W32) :
    (s.sendMgmt g b ([a0, a1, a2, a3] ++ commitBytes w)).out = s.out ++ [.management g b ([a0, a1, a2, a3] ++ commitBytes w ++ zeros 24)] := rfl

/-- A receiver that has a spare asks for it. -/
theorem State.askSwap_spec (spare : Fin 34) : let commit := BitVec.ofNat 32 ((s.sub g b).superframe s.now + 64)
    let u := s.askSwap g b lane spare
    sendsOnly g s u ∧ u.sub g b = { s.sub g b with swap := some ⟨lane, spare, commit, false, true⟩ } ∧
      .management g b ([2, BitVec.ofNat 8 lane.val, BitVec.ofNat 8 spare.val, 0] ++ commitBytes commit ++ zeros 24) ∈ u.out := by
  refine ⟨(s.modSub_sendsOnly g b _).trans (State.sendMgmt_sendsOnly _ g b _), s.modSub_sub g b _, ?_⟩
  unfold State.askSwap
  dsimp only
  rw [State.sendMgmt_out]
  exact List.mem_append_right _ (List.mem_singleton.2 rfl)

end

section
variable {s : State} {g : GroupIx} {b : SubIx} {lane : Fin 34}

/-- A lane that had failed before. -/
theorem laneFail_of_marked (h : (s.sub g b).laneBad.getLsbD lane.val = true) : exec (.laneFail g b lane) s = .next s :=
  congrArg Host.Outcome.next (if_pos h)

variable (h : (s.sub g b).laneBad.getLsbD lane.val = false)
include h

/-- One not in use is marked. -/
theorem laneFail_of_idle (hi : (s.sub g b).up = false ∨ (s.sub g b).laneAct.getLsbD lane.val = false) :
    exec (.laneFail g b lane) s = .next (s.markLane g b lane) :=
  congrArg Host.Outcome.next ((if_neg (by rw [h]; decide)).trans
    (if_pos (by rwa [Bool.or_eq_true, Bool.not_eq_true', Bool.not_eq_true'])))

variable (hup : (s.sub g b).up = true) (hact : (s.sub g b).laneAct.getLsbD lane.val = true)
include hup hact

/-- One in use on a sublink of half width. -/
theorem laneFail_of_half (hh : (s.sub g b).half = true) :
    exec (.laneFail g b lane) s = .next ((s.markLane g b lane).narrowOrDown g b) :=
  congrArg Host.Outcome.next ((if_neg (by rw [h]; decide)).trans ((if_neg (by rw [hup, hact]; decide)).trans (if_pos hh)))

/-- One in use on a sublink of full width. -/
theorem laneFail_of_full (hh : (s.sub g b).half = false) : exec (.laneFail g b lane) s =
    .next (match ((s.sub g b).failLane lane).freeLane with
      | some l => (s.markLane g b lane).askSwap g b lane l
      | none => (s.markLane g b lane).narrowOrDown g b) := by
  obtain ⟨-, hsub, -⟩ := s.markLane_spec g b lane
  refine congrArg Host.Outcome.next ((if_neg (by rw [h]; decide)).trans ((if_neg (by rw [hup, hact]; decide)).trans
    ((if_neg (by rw [hh]; decide)).trans ?_)))
  rw [← hsub]
  rfl

end

section
variable {s : State} {g : GroupIx} {b : SubIx} {x : Swap}

/-- A swap agreed takes place at its superframe. -/
theorem laneSwapCommit_of_acked (hx : (s.sub g b).swap = some x) (ha : x.acked = true) : exec (.laneSwapCommit g b) s =
    .next (s.modSub g b fun k =>
          { k with
            swap := none
            spares := max k.spares (sparesIn (steer (if x.ours then k.laneAct else k.txAct) x.failed x.spare))
            laneAct := if x.ours then steer k.laneAct x.failed x.spare else k.laneAct
            txAct := if x.ours then k.txAct else steer k.txAct x.failed x.spare
            txBad := if x.ours then k.txBad else k.txBad ||| laneMask [x.failed]
            cnt := { k.cnt with lane := bump k.cnt.lane, retryNs := bump k.cnt.retryNs (16 * k.flitTime / 10) } }) := by
  refine congrArg Host.Outcome.next ?_
  simp only [hx]
  exact if_pos ha

/-- One not agreed does not. -/
theorem laneSwapCommit_of_not (hx : (s.sub g b).swap = some x) (ha : x.acked = false) : exec (.laneSwapCommit g b) s = .next s := by
  refine congrArg Host.Outcome.next ?_
  simp only [hx]
  exact if_neg (by rw [ha]; decide)

/-- A swap that an acknowledgement names is agreed, and no other. -/
theorem laneSwapAck_sub (failed spare : Fin 34) (w : W32) : answers (exec (.laneSwapAck g b failed spare w) s) fun u => onlyGroup g s u ∧
    u.sub g b = { s.sub g b with swap := (s.sub g b).swap.map fun x =>
      if x.ours && x.failed == failed && x.spare == spare && x.commit == w then { x with acked := true } else x } :=
  ⟨_, rfl, s.modSub_onlyGroup g b _, s.modSub_sub g b _⟩

end

/-- Settles O45: training by `becomeActive_spec`, `caps_spec` and `retrainWarm_of_powered`, lanes by `markLane_spec`, `narrowOrDown_spec`
and `askSwap_spec`. -/
theorem sublinksTrainAndSpareLanes : Obligations.SublinksTrainAndSpareLanes := by
  refine ⟨fun s g b c => ?_, fun s g b lane spare w x => ?_⟩
  · intro k mayTrain trained active lost
    refine ⟨fun hup hm => ?_, fun h => ?_, fun ht => ⟨_, caps_of_training c ht, s.caps_spec g b c⟩,
      fun ht => ⟨caps_of_not c ht, congrArg Host.Outcome.next (if_pos (bne_iff_ne.2 ht))⟩, ?_, retrainDone_of_not, ?_, trainingDone_of_not,
      fun hl => ?_, linkLoss_of_not, fun ht => ⟨fun hk => ⟨_, retrainFailed_of_warm ht hk, s.warmFailed_spec g b⟩, fun hk h => ?_, fun hk h => ?_⟩⟩
    · have heq := State.retrainWarm_of_powered (Sublink.not_disabled_of_up hup) hm
      refine ⟨_, congrArg Host.Outcome.next ((if_pos hup).trans heq), s.modSub_onlyGroup g b _, ?_⟩
      rw [State.modSub_sub]
      exact ⟨rfl, rfl, rfl, rfl, rfl, rfl, rfl⟩
    · by_cases hup : k.up = true
      · exact congrArg Host.Outcome.next ((if_pos hup).trans (State.retrainWarm_of_not (h.resolve_left (by rw [hup]; decide))))
      · exact congrArg Host.Outcome.next (if_neg hup)
    · rintro ⟨ht, hc, hk⟩
      exact ⟨_, retrainDone_of_trained ht hc hk, s.becomeActive_spec g b⟩
    · rintro ⟨ht, hc, hk⟩
      exact ⟨_, trainingDone_of_trained ht hc hk, s.becomeActive_spec g b⟩
    · refine ⟨_, linkLoss_of_lost hl, s.modSub_onlyGroup g b _, ?_⟩
      rw [State.loseLink_sub]
      refine ⟨fun hm => ?_, fun hm => ?_⟩
      · rw [if_pos (by rw [hm.1, hm.2]; rfl)]
        exact ⟨rfl, rfl⟩
      · rw [if_neg fun e => hm (by simpa only [Bool.and_eq_true] using e)]
        rfl
    · refine ⟨_, (retrainFailed_of_cold ht hk).trans (congrArg _ (if_neg ?_)), s.modSub_onlyGroup g b _, ?_⟩
      · change ¬ 3 ≤ k.coldFail + 1
        omega
      · rw [State.modSub_sub]
        exact ⟨rfl, rfl, rfl⟩
    · exact ⟨_, (retrainFailed_of_cold ht hk).trans (congrArg _ (if_pos (Nat.succ_le_succ h))), s.deadLink_spec g b⟩
  · intro k now ok narrows named
    refine ⟨laneFail_of_marked, fun h => ?_, fun hup => ?_,
      fun hup => congrArg Host.Outcome.next (if_neg (by change ¬ k.up = true; rw [hup]; decide)), fun hx => ⟨?_, fun hn => ?_, fun ha => ?_, laneSwapCommit_of_not hx⟩, fun hx => ⟨?_, ?_⟩⟩
    · obtain ⟨honly, hsub, hnow, hlog⟩ := s.markLane_spec g b lane
      by_cases hi : k.up = false ∨ k.laneAct.getLsbD lane.val = false
      · refine ⟨_, laneFail_of_idle h hi, honly, fun _ => ⟨hsub, hlog⟩, fun hup hact => ?_⟩
        obtain hi | hi := hi
        · exact absurd hup (by rw [hi]; decide)
        · exact absurd hact (by rw [hi]; decide)
      · obtain ⟨hup, hact⟩ : k.up = true ∧ k.laneAct.getLsbD lane.val = true := by
          simpa only [not_or, Bool.not_eq_false] using hi
        have hnarrow := (s.markLane g b lane).narrowOrDown_spec g b
        rw [hsub] at hnarrow
        obtain ⟨honly', hwide, hnone⟩ := hnarrow
        cases hh : k.half with
        | true =>
          exact ⟨_, laneFail_of_half h hup hact hh, honly.trans honly', fun hno => absurd hno hi,
            fun _ _ => ⟨fun _ => ⟨hwide, hnone⟩, fun hno => absurd hno (by decide), fun hno => absurd hno (by decide)⟩⟩
        | false =>
          have hfull := laneFail_of_full h hup hact hh
          cases hl : now.freeLane with
          | none =>
            rw [show (k.failLane lane).freeLane = none from hl] at hfull
            exact ⟨_, hfull, honly.trans honly', fun hno => absurd hno hi,
              fun _ _ => ⟨fun hno => absurd hno (by decide), fun _ _ => ⟨hwide, hnone⟩, fun _ hno => absurd hno (by simp)⟩⟩
          | some l =>
            rw [show (k.failLane lane).freeLane = some l from hl] at hfull
            obtain ⟨hask, hsub', hout⟩ := (s.markLane g b lane).askSwap_spec g b lane l
            rw [hsub, hnow] at hsub' hout
            refine ⟨_, hfull, honly.trans hask.logs, fun hno => absurd hno hi,
              fun _ _ => ⟨fun hno => absurd hno (by decide), fun _ hno => absurd hno (by simp), fun _ he => ?_⟩⟩
            obtain rfl := Option.some.inj he
            rw [hsub']
            exact ⟨rfl, rfl, hout⟩
    · refine ⟨_, congrArg Host.Outcome.next (if_pos hup), (s.modSub_sendsOnly g b _).trans (State.sendMgmt_sendsOnly _ g b _),
        s.modSub_sub g b _, ?_⟩
      exact State.sendMgmt_out _ g b _ _ _ _ w
    · rintro ⟨hours, hfail, hspare, hcommit⟩
      obtain ⟨u, hu, honly, hsub⟩ := laneSwapAck_sub (s := s) (g := g) (b := b) lane spare w
      refine ⟨u, hu, honly, ?_⟩
      rw [hsub, hx, Option.map_some, if_pos (by rw [hours, hfail, hspare, hcommit]; simp)]
    · obtain ⟨u, hu, honly, hsub⟩ := laneSwapAck_sub (s := s) (g := g) (b := b) lane spare w
      refine ⟨u, hu, honly, ?_⟩
      rw [hsub, hx, Option.map_some, if_neg fun e => hn ?_, ← hx]
      simpa only [Bool.and_eq_true, beq_iff_eq, and_assoc] using e
    · refine ⟨_, laneSwapCommit_of_acked hx ha, s.modSub_onlyGroup g b _, ?_⟩
      rw [State.modSub_sub]
      exact ⟨rfl, rfl, rfl, Nat.le_max_left _ _, rfl⟩
    · exact congrArg Host.Outcome.next (by simp only [show (s.sub g b).swap = none from hx])
    · obtain ⟨u, hu, honly, hsub⟩ := laneSwapAck_sub (s := s) (g := g) (b := b) lane spare w
      refine ⟨u, hu, honly, ?_⟩
      rw [hsub, hx, Option.map_none, ← hx]

end Sys2Proof.Machine
end

section
/-! PROOFS. Bivouac and the link's registers (R346, R362 to R365, R369, R370, R467, R472). -/

namespace Sys2Proof.Machine

/-! ## Entries into bivouac -/

section
variable {s : State} {g : GroupIx} {b : SubIx} {full : Bool}

/-- A rewritten sublink, and a management packet of it. -/
theorem State.modSub_sendMgmt (s : State) (g : GroupIx) (b : SubIx) (f : Sublink → Sublink) (body : List Byte) :
    sendsOnly g s ((s.modSub g b f).sendMgmt g b body) ∧ ((s.modSub g b f).sendMgmt g b body).sub g b = f (s.sub g b) ∧
      ((s.modSub g b f).sendMgmt g b body).out = s.out ++ [.management g b (body ++ zeros (32 - body.length))] :=
  ⟨(s.modSub_sendsOnly g b f).trans (State.sendMgmt_sendsOnly _ g b body), s.modSub_sub g b f, rfl⟩

/-- What a sublink that asks for bivouac meets (R362, R363). -/
def State.mayAsk (s : State) (g : GroupIx) (b : SubIx) (full : Bool) : Prop :=
  s.bivAllowed g b full = true ∧ ((s.sub g b).st = .active ∨ (full = true ∧ (s.sub g b).st = .txNarrow)) ∧ (s.sub g b).biv = none ∧
    s.mustWake g b full = false ∧ (s.sub g b).activeAt + 1000 * bits (s.bivCfg g) 20 10 ≤ s.now ∧
    s.ropeSoon g (1000 * (bits (s.bivCfg g) 12 8 + 2)) = false

/-- Its guard. -/
theorem State.mayAsk_iff : s.mayAsk g b full ↔ (s.bivAllowed g b full &&
    ((s.sub g b).st == .active || (full && (s.sub g b).st == .txNarrow)) && (s.sub g b).biv.isNone && !s.mustWake g b full
      && decide ((s.sub g b).activeAt + 1000 * bits (s.bivCfg g) 20 10 ≤ s.now) &&
      !s.ropeSoon g (1000 * (bits (s.bivCfg g) 12 8 + 2))) = true := by
  simp only [State.mayAsk, Bool.and_eq_true, Bool.or_eq_true, beq_iff_eq, Option.isNone_iff_eq_none, Bool.not_eq_true', decide_eq_true_eq,
    and_assoc]

/-- The superframe 32 ahead. -/
def State.ahead (s : State) (g : GroupIx) (b : SubIx) : W32 := BitVec.ofNat 32 ((s.sub g b).superframe s.now + 32)

/-- An idle sublink asks. -/
theorem bivouacTrigger_of_idle (h : s.mayAsk g b full) : exec (.bivouacTrigger g b full) s =
    .next ((s.modSub g b fun k => { k with biv := some { full := full, ours := true, commit := s.ahead g b, acked := false } }).sendMgmt
      g b ([4, modeByte full, 0, 0] ++ commitBytes (s.ahead g b))) :=
  congrArg Host.Outcome.next (if_pos (State.mayAsk_iff.1 h))

/-- Another does not. -/
theorem bivouacTrigger_of_not (h : ¬ s.mayAsk g b full) : exec (.bivouacTrigger g b full) s = .next s :=
  congrArg Host.Outcome.next (if_neg fun e => h (State.mayAsk_iff.2 e))

section
variable (hup : (s.sub g b).up = true) (w : W32)
include hup

/-- A request where bivouac is not allowed. -/
theorem bivReq_of_barred (ha : s.bivAllowed g b full = false) : exec (.bivReq g b full w) s = .next (s.sendMgmt g b [6, 0]) :=
  congrArg Host.Outcome.next ((if_neg (by rw [hup]; decide)).trans (if_pos (by rw [ha]; rfl)))

variable (ha : s.bivAllowed g b full = true)
include ha

/-- One under a wake condition. -/
theorem bivReq_of_wake (hw : s.mustWake g b full = true) : exec (.bivReq g b full w) s = .next (s.sendMgmt g b [6, 1]) :=
  congrArg Host.Outcome.next ((if_neg (by rw [hup]; decide)).trans ((if_neg (by rw [ha]; decide)).trans (if_pos hw)))

/-- One that is agreed. -/
theorem bivReq_of_agreed (hw : s.mustWake g b full = false) : exec (.bivReq g b full w) s =
    .next ((s.modSub g b fun k => { k with biv := some { full := full, ours := false, commit := w, acked := true } }).sendMgmt
      g b ([5, modeByte full, 0, 0] ++ (if full then commitBytes (s.ahead g b) else zeros 4))) :=
  congrArg Host.Outcome.next ((if_neg (by rw [hup]; decide)).trans ((if_neg (by rw [ha]; decide)).trans (if_neg (by rw [hw]; decide))))

end

/-- When a commit point goes ahead: it is this direction's, and of the module's own direction its superframe has begun. -/
theorem commitPoint_guard : ∀ full ours rx due : Bool,
    ((!full && rx == ours) || (!rx && !due)) = true ↔ ¬ ((full = true ∨ ours = !rx) ∧ (rx = true ∨ due = true)) := by
  decide

/-- An entry aborted and cancelled. -/
def State.cancelBiv (s : State) (g : GroupIx) (b : SubIx) (x : BivEntry) : State :=
  (s.bivAbort g b).sendMgmt g b ([7, 0, 0, 0] ++ commitBytes x.commit)

section
variable {x : BivEntry}

/-- A sublink awake with an entry under way cancels it when woken. -/
theorem State.wake_of_entry (ha : (s.sub g b).asleep = false) (hx : (s.sub g b).biv = some x) : s.wake g b = s.cancelBiv g b x := by
  refine (if_neg (by rw [ha]; decide)).trans ?_
  simp only [hx]
  rfl

/-- The commit point has not come, or is the other direction's. -/
theorem bivouacCommitPoint_of_not {rx : Bool} (hx : (s.sub g b).biv = some x)
    (h : ¬ ((x.full = true ∨ x.ours = !rx) ∧ (rx = true ∨ (s.sub g b).commitDue s.now x.commit = true))) :
    exec (.bivouacCommitPoint g b rx) s = .next s := by
  refine congrArg Host.Outcome.next ?_
  simp only [hx]
  exact if_pos ((commitPoint_guard _ _ _ _).2 h)

/-- It has come. -/
theorem bivouacCommitPoint_of_due {rx : Bool} (hx : (s.sub g b).biv = some x)
    (h : (x.full = true ∨ x.ours = !rx) ∧ (rx = true ∨ (s.sub g b).commitDue s.now x.commit = true)) :
    exec (.bivouacCommitPoint g b rx) s = .next
      (if (!x.acked || s.mustWake g b x.full) && !(s.sub g b).asleep && !(s.sub g b).rxBiv then s.cancelBiv g b x
        else s.modSub g b fun k => k.sleep s.now x rx) := by
  refine congrArg Host.Outcome.next ?_
  simp only [hx]
  exact if_neg fun e => (commitPoint_guard _ _ _ _).1 e h

end

end

/-! ## Sleep and waking -/

section
variable (k : Sublink) (now : Nat)

/-- The superframes counted so far are the count once they are settled. -/
theorem Sublink.settleSf_superframe (st : LinkSt) (wk : Bool) (at_ : Nat) :
    ({ k.settleSf now with st := st, waking := wk, activeAt := at_ } : Sublink).superframe now = k.superframe now := by
  unfold Sublink.superframe
  dsimp only [Sublink.settleSf]
  rw [Nat.sub_self, Nat.zero_mul, Nat.zero_div, Nat.add_zero, ite_self]
  rfl

/-- The first direction of a sublink to enter bivouac. -/
theorem Sublink.first_iff : (!k.asleep && !k.rxBiv) = true ↔ k.asleep = false ∧ k.rxBiv = false := by
  rw [Bool.and_eq_true, Bool.not_eq_true', Bool.not_eq_true']

/-- The superframe count goes on without a jump as a direction enters bivouac. -/
theorem Sublink.sleep_superframe (x : BivEntry) (rx : Bool) : (k.sleep now x rx).superframe now = k.superframe now := by
  have hset : ∀ st : LinkSt, ({ k.settleSf now with st := st } : Sublink).superframe now = k.superframe now := fun st =>
    k.settleSf_superframe now st _ _
  have hframe : ∀ (y : Sublink) (v : Option BivEntry) (n : Nat) (c : SubCount),
      ({ y with biv := v, bivAt := n, cnt := c } : Sublink).superframe now = y.superframe now := fun _ _ _ _ => rfl
  unfold Sublink.sleep
  refine (hframe _ _ _ _).trans ?_
  split
  · split
    · rfl
    · exact hset _
  · split
    · exact hset _
    · rfl

/-- What a direction that enters bivouac shows. -/
theorem Sublink.sleep_spec {x : BivEntry} {rx : Bool} (h : x.full = true ∨ x.ours = !rx) :
    (rx = false → (k.sleep now x rx).st = if x.full = true then .fullBiv else .txNarrow) ∧
      (rx = true → (k.sleep now x rx).st = k.st ∧
        if x.full = true then (k.sleep now x rx).rxBiv = true else (k.sleep now x rx).rxNarrow = true) := by
  unfold Sublink.sleep
  dsimp only
  cases hf : x.full with
  | true => cases rx <;> simp
  | false =>
    have ho : x.ours = !rx := h.resolve_left (by rw [hf]; decide)
    cases rx <;> simp [ho]

end

/-- A rewritten sublink that is what it was. -/
theorem State.modSub_same {s : State} {g : GroupIx} {b : SubIx} {f : Sublink → Sublink} (h : f (s.sub g b) = s.sub g b) :
    answers (.next (s.modSub g b f)) fun u => onlyGroup g s u ∧ u.sub g b = s.sub g b :=
  ⟨_, rfl, s.modSub_onlyGroup g b f, (s.modSub_sub g b f).trans h⟩

section
variable {s : State} {g : GroupIx} {b : SubIx}

/-- Cancelling a direction in bivouac wakes it. -/
theorem bivCancel_of_asleep (w : W32) (h : (s.sub g b).asleep = true) :
    exec (.bivCancel g b w) s = .next (s.modSub g b fun k => { k with biv := none, waking := true }) :=
  congrArg Host.Outcome.next ((if_neg (by rw [h, Bool.not_true, Bool.and_false]; decide)).trans (if_pos h))

/-- Before the commit point it aborts the entry. -/
theorem bivCancel_of_entry (w : W32) {x : BivEntry} (h : (s.sub g b).asleep = false) (hx : (s.sub g b).biv = some x) :
    exec (.bivCancel g b w) s = .next (s.bivAbort g b) :=
  congrArg Host.Outcome.next (if_pos (by rw [h, hx]; rfl))

/-- Without an entry it does nothing. -/
theorem bivCancel_of_none (w : W32) (h : (s.sub g b).asleep = false) (hx : (s.sub g b).biv = none) : exec (.bivCancel g b w) s = .next s :=
  congrArg Host.Outcome.next ((if_neg (by rw [hx, h]; decide)).trans (if_neg (by rw [h]; decide)))

/-- A direction in bivouac is woken. -/
theorem State.wake_of_asleep (h : (s.sub g b).asleep = true) : s.wake g b = s.modSub g b fun k => { k with waking := true } := if_pos h

/-- A sublink that neither sleeps nor is about to stays. -/
theorem State.wake_of_none (h : (s.sub g b).asleep = false) (hx : (s.sub g b).biv = none) : s.wake g b = s := by
  refine (if_neg (by rw [h]; decide)).trans ?_
  simp only [hx]

/-- A direction that has dwelt and wakes. -/
theorem wakeComplete_of_dwelt (h : (s.sub g b).asleep = true) (hw : (s.sub g b).waking = true) (ht : (s.sub g b).bivAt + 2000 ≤ s.now) :
    exec (.wakeComplete g b false) s =
      .next ((s.modSub g b fun k => { k.settleSf s.now with st := .active, waking := false, activeAt := s.now }).pumpAll g b) :=
  congrArg Host.Outcome.next ((if_neg (by decide)).trans (if_pos (by rw [h, hw, decide_eq_true ht]; rfl)))

/-- One that has not, or does not. -/
theorem wakeComplete_of_not (h : (s.sub g b).asleep = false ∨ (s.sub g b).waking = false ∨ s.now < (s.sub g b).bivAt + 2000) :
    exec (.wakeComplete g b false) s = .next s := by
  refine congrArg Host.Outcome.next ((if_neg (by decide)).trans (if_neg fun e => ?_))
  simp only [Bool.and_eq_true, decide_eq_true_eq] at e
  obtain ⟨⟨hs, hw⟩, ht⟩ := e
  obtain h | h | h := h
  · exact absurd hs (by rw [h]; decide)
  · exact absurd hw (by rw [h]; decide)
  · omega

/-- Packets that leave keep what the superframe count rests on. -/
theorem pumps.awake {t : State} (h : pumps g b s t) : (t.sub g b).st = (s.sub g b).st ∧ (t.sub g b).waking = (s.sub g b).waking ∧
    (t.sub g b).superframe = (s.sub g b).superframe ∧ (t.sub g b).steadyAt = (s.sub g b).steadyAt := by
  have hsub := h.sub
  unfold Sublink.sentAs at hsub
  rw [hsub]
  exact ⟨rfl, rfl, rfl, rfl⟩

/-- A woken direction is ACTIVE again. -/
theorem State.woken_spec (s : State) (g : GroupIx) (b : SubIx) :
    let u := (s.modSub g b fun k => { k.settleSf s.now with st := .active, waking := false, activeAt := s.now }).pumpAll g b
    sendsOnly g s u ∧ (u.sub g b).st = .active ∧ (u.sub g b).waking = false ∧
      (u.sub g b).superframe s.now = (s.sub g b).superframe s.now := by
  have hsub := s.modSub_sub g b fun k => { k.settleSf s.now with st := .active, waking := false, activeAt := s.now }
  have honly := s.modSub_sendsOnly g b fun k => { k.settleSf s.now with st := .active, waking := false, activeAt := s.now }
  generalize (s.modSub g b fun k => { k.settleSf s.now with st := .active, waking := false, activeAt := s.now }) = v at hsub honly
  have hp := v.pumpAll_pumps g b
  obtain ⟨hst, hwaking, hsf, -⟩ := hp.awake
  rw [hsub] at hst hwaking hsf
  exact ⟨honly.trans hp.sends, hst, hwaking, by rw [hsf]; exact (s.sub g b).settleSf_superframe s.now _ _ _⟩

end

/-! ## Registers of a group -/

section
variable {s : State} {g : GroupIx}

/-- What a new DIS bit does to a sublink (R370). -/
def State.disSub (s : State) (g : GroupIx) (b : SubIx) (on : Bool) (k : Sublink) : Sublink :=
  if on == (s.group g).dis.getLsbD b.val then k
  else if on then k.unpower
  else if s.linkPowered g && s.attached g b then { (k.train true) with coldFail := 0, dead := false } else k.dropDown

/-- An entry rewritten to itself leaves the vector. -/
theorem upd_id {α : Type} {n : Nat} {v : Vector α n} {i : Fin n} {f : α → α} (h : f v[i] = v[i]) : upd v i f = v := by
  unfold upd
  rw [h]
  exact Vector.set_getElem_self _

/-- A sublink rewritten to itself leaves the state. -/
theorem State.modSub_id (s : State) (g : GroupIx) (b : SubIx) : (s.modSub g b fun k => k) = s := by
  unfold State.modSub State.modGroup
  rw [upd_id]
  rw [upd_id rfl]

/-- A DIS bit that changes rewrites its sublink. -/
theorem State.setDis_eq (s : State) (g : GroupIx) (b : SubIx) (on : Bool) : s.setDis g b on = s.modSub g b (s.disSub g b on) := by
  unfold State.setDis State.disSub
  split
  · exact (s.modSub_id g b).symm
  · split <;> rfl

/-- The sublinks once DIS has a value. -/
theorem State.writeDis_spec (s : State) (g : GroupIx) (d : BitVec 2) : onlyGroup g s (s.writeDis g d) ∧ ((s.writeDis g d).group g).dis = d ∧
    ∀ b : SubIx, (s.writeDis g d).sub g b = s.disSub g b (d.getLsbD b.val) (s.sub g b) := by
  have hdis : ∀ (w : State) (b : SubIx) (f : Sublink → Sublink) (c : SubIx) (on : Bool), (w.modSub g b f).disSub g c on = w.disSub g c on :=
    fun w b f c on => by
      have hg : ((w.modSub g b f).group g).dis = (w.group g).dis := by
        unfold State.modSub
        rw [State.modGroup_group]
      unfold State.disSub
      rw [hg]
      rfl
  have heq : s.writeDis g d = State.modGroup ((s.modSub g 0 (s.disSub g 0 (d.getLsbD 0))).modSub g 1 (s.disSub g 1 (d.getLsbD 1))) g
      fun k => { k with dis := d } := by
    unfold State.writeDis
    rw [State.setDis_eq, State.setDis_eq, hdis]
  have hsub : ∀ (w : State) (c : SubIx), (w.modGroup g fun k => { k with dis := d }).sub g c = w.sub g c := fun w c => by
    show ((w.modGroup g fun k => { k with dis := d }).group g).sub[c] = _
    rw [State.modGroup_group]
    rfl
  rw [heq]
  refine ⟨((s.modSub_onlyGroup g 0 _).trans (State.modSub_onlyGroup _ g 1 _)).trans ⟨rfl, fun _ hk => State.modGroup_group_other _ _ _ _ hk⟩,
    by rw [State.modGroup_group], fun b => ?_⟩
  rw [hsub]
  match b with
  | 0 =>
    rw [State.modSub_sub_other _ _ fun e => absurd e.2 (by decide), State.modSub_sub]
    rfl
  | 1 =>
    rw [State.modSub_sub, State.modSub_sub_other _ _ fun e => absurd e.2 (by decide)]
    rfl

/-- A DIS bit newly set idles the sublink, with nothing kept. -/
theorem State.disSub_of_set {b : SubIx} (k : Sublink) (hwas : (s.group g).dis.getLsbD b.val = false) : s.disSub g b true k = k.unpower :=
  (if_neg (by rw [hwas]; decide)).trans (if_pos rfl)

/-- One released trains it cold, or leaves it down. -/
theorem State.disSub_of_released {b : SubIx} (k : Sublink) (hwas : (s.group g).dis.getLsbD b.val = true) : s.disSub g b false k =
    if s.linkPowered g && s.attached g b then { (k.train true) with coldFail := 0, dead := false } else k.dropDown :=
  (if_neg (by rw [hwas]; decide)).trans (if_neg (by decide))

/-- One unchanged leaves it. -/
theorem State.disSub_of_same {b : SubIx} {on : Bool} (k : Sublink) (h : on = (s.group g).dis.getLsbD b.val) : s.disSub g b on k = k :=
  if_pos (beq_iff_eq.2 h)

/-- Quarantine ended: the score is zero and the waiting traffic leaves. -/
theorem State.quarClear_spec (s : State) (g : GroupIx) : sendsOnly g s (s.quarClear g) ∧ ((s.quarClear g).group g).quar = false ∧
    ((s.quarClear g).group g).score = 0 ∧ ∀ b, ((s.quarClear g).sub g b).steadyAt = s.now := by
  have hgroup := s.modGroup_group g fun k => { k with quar := false, score := 0, sub := k.sub.map fun u => { u with steadyAt := s.now } }
  have honly := s.modGroup_sendsOnly g fun k => { k with quar := false, score := 0, sub := k.sub.map fun u => { u with steadyAt := s.now } }
  unfold State.quarClear
  generalize (s.modGroup g fun k => { k with quar := false, score := 0, sub := k.sub.map fun u => { u with steadyAt := s.now } }) = v
    at hgroup honly ⊢
  have h0 := v.pumpAll_pumps g 0
  have h1 := (v.pumpAll g 0).pumpAll_pumps g 1
  have hsteady : ∀ b, (v.sub g b).steadyAt = s.now := fun b => by
    show ((v.group g).sub[b]).steadyAt = s.now
    rw [hgroup]
    rw [Fin.getElem_fin, Vector.getElem_map]
  refine ⟨(honly.trans h0.sends).trans h1.sends, ?_, ?_, fun b => ?_⟩
  · rw [h1.group, h0.group, hgroup]
  · rw [h1.group, h0.group, hgroup]
  · match b with
    | 0 => exact ((congrArg Sublink.steadyAt (h1.other 0 (by decide))).trans h0.awake.2.2.2).trans (hsteady 0)
    | 1 => exact (h1.awake.2.2.2.trans (congrArg Sublink.steadyAt (h0.other 1 (by decide)))).trans (hsteady 1)

/-! ## Loops -/

/-- What a new value of the loop register does to a sublink (R467, N19). -/
def State.loopSub (s : State) (g : GroupIx) (b : SubIx) (v : W32) (k : Sublink) : Sublink :=
  if (s.group g).loopMode b == ({ s.group g with loop := loopBits v } : LinkGroup).loopMode b then k
  else if k.st == .disabled || !s.linkPowered g || !s.attached g b then k else k.train false

/-- What a step of a loop's change may do: retrain the sublink whose mode changes. -/
def State.loopStep (w : State) (g : GroupIx) (old new : LinkGroup) (u : SubIx) : State :=
  if old.loopMode u == new.loopMode u then w else w.retrainWarm g u

/-- Its frame, and its sublinks. -/
theorem State.loopStep_spec (w : State) (g : GroupIx) (old new : LinkGroup) (u : SubIx) :
    onlyGroup g w (w.loopStep g old new u) ∧ ((w.loopStep g old new u).group g).loop = (w.group g).loop ∧
      (∀ c, c ≠ u → (w.loopStep g old new u).sub g c = w.sub g c) ∧ (w.loopStep g old new u).sub g u =
        if old.loopMode u == new.loopMode u then w.sub g u
        else if (w.sub g u).st == .disabled || !w.linkPowered g || !w.attached g u then w.sub g u else (w.sub g u).train false := by
  unfold State.loopStep
  split
  · exact ⟨⟨rfl, fun _ _ => rfl⟩, rfl, fun _ _ => rfl, rfl⟩
  · unfold State.retrainWarm
    split
    · exact ⟨⟨rfl, fun _ _ => rfl⟩, rfl, fun _ _ => rfl, rfl⟩
    · refine ⟨w.modSub_onlyGroup g u _, ?_, fun c hc => State.modSub_sub_other _ _ fun e => hc e.2, w.modSub_sub g u _⟩
      unfold State.modSub
      rw [State.modGroup_group]

/-- The loop register once it has a value, and the sublinks of its group. -/
theorem State.setLoop_spec (s : State) (g : GroupIx) (v : W32) : onlyGroup g s (s.setLoop g v) ∧
    ((s.setLoop g v).group g).loop = loopBits v ∧ ∀ b : SubIx, (s.setLoop g v).sub g b = s.loopSub g b v (s.sub g b) := by
  have hgroup := s.modGroup_group g fun k => { k with loop := loopBits v }
  have honly : onlyGroup g s (s.modGroup g fun k => { k with loop := loopBits v }) := ⟨rfl, fun _ hk => State.modGroup_group_other _ _ _ _ hk⟩
  have heq : s.setLoop g v = (((s.modGroup g fun k => { k with loop := loopBits v }).loopStep g (s.group g)
      { s.group g with loop := loopBits v } 0).loopStep g (s.group g) { s.group g with loop := loopBits v } 1) := rfl
  rw [heq]
  generalize (s.modGroup g fun k => { k with loop := loopBits v }) = s1 at hgroup honly ⊢
  have hsub : ∀ b, s1.sub g b = s.sub g b := fun b => by
    show (s1.group g).sub[b] = _
    rw [hgroup]
    rfl
  obtain ⟨honly0, hloop0, hother0, hsub0⟩ := s1.loopStep_spec g (s.group g) { s.group g with loop := loopBits v } 0
  generalize s1.loopStep g (s.group g) { s.group g with loop := loopBits v } 0 = s2 at honly0 hloop0 hother0 hsub0 ⊢
  obtain ⟨honly1, hloop1, hother1, hsub1⟩ := s2.loopStep_spec g (s.group g) { s.group g with loop := loopBits v } 1
  have hpow : ∀ {w : State}, onlyGroup g s w → w.linkPowered g = s.linkPowered g ∧ ∀ b, w.attached g b = s.attached g b := fun {w} hw => by
    rw [hw.1]
    exact ⟨rfl, fun _ => rfl⟩
  refine ⟨(honly.trans honly0).trans honly1, ?_, fun b => ?_⟩
  · rw [hloop1, hloop0, hgroup]
  · match b with
    | 0 =>
      obtain ⟨hp, ha⟩ := hpow honly
      rw [hother1 0 (by decide), hsub0, hsub, hp, ha]
      rfl
    | 1 =>
      obtain ⟨hp, ha⟩ := hpow (honly.trans honly0)
      rw [hsub1, hother0 1 (by decide), hsub, hp, ha]
      rfl

/-- What a change of the loop register leaves of a sublink: as it was where its mode stays, else training where it may. -/
theorem State.setLoop_looped (s : State) (g : GroupIx) (b : SubIx) (v : W32) : let u := s.setLoop g v
    ((u.group g).loopMode b = (s.group g).loopMode b → u.sub g b = s.sub g b) ∧
      ((u.group g).loopMode b ≠ (s.group g).loopMode b → s.linkPowered g = true ∧ s.attached g b = true → (s.sub g b).st ≠ .disabled →
        (u.sub g b).st = .training ∧ (u.sub g b).cold = false) := by
  obtain ⟨-, hloop, hsub⟩ := s.setLoop_spec g v
  have hmode : ((s.setLoop g v).group g).loopMode b = ({ s.group g with loop := loopBits v } : LinkGroup).loopMode b := by
    unfold LinkGroup.loopMode
    rw [hloop]
  dsimp only
  rw [hmode, hsub]
  refine ⟨fun h => if_pos (beq_iff_eq.2 h.symm), fun h hm hdis => ?_⟩
  have htrain : s.loopSub g b v (s.sub g b) = (s.sub g b).train false :=
    (if_neg fun e => h (beq_iff_eq.1 e).symm).trans (if_neg (by rw [hm.1, hm.2, beq_eq_false_iff_ne.2 hdis]; decide))
  rw [htrain]
  exact ⟨rfl, rfl⟩

end

/-- A launch pitch ends the loop of one group, unless it is kept. -/
def State.clearLoop (s : State) (g : GroupIx) : State := if bit (s.group g).loop.toNat 15 then s else s.setLoop g 0

/-- It changes its group alone. -/
theorem State.clearLoop_onlyGroup (s : State) (g : GroupIx) : onlyGroup g s (s.clearLoop g) := by
  unfold State.clearLoop
  split
  · exact ⟨rfl, fun _ _ => rfl⟩
  · exact (s.setLoop_spec g 0).1

/-- The loops that a launch pitch ends. -/
def State.clearLoops (s : State) : State := (List.finRange 14).foldl State.clearLoop s

/-- They change link groups alone. -/
theorem State.clearLoops_only (s : State) : s.clearLoops = { s with links := s.clearLoops.links } := by
  unfold State.clearLoops
  exact List.foldlRecOn (motive := fun t : State => t = { s with links := t.links }) _ _ rfl fun t ht g _ =>
    linksOnly_trans ht (t.clearLoop_onlyGroup g).1

/-- The looping of one group, judged in the state in which its turn comes. -/
theorem State.clearLoops_group (s : State) (g : GroupIx) : ∃ t : State, (t.group g = s.group g ∧ t = { s with links := t.links }) ∧
    s.clearLoops.group g = (t.clearLoop g).group g := by
  have hview : ∀ (l : List GroupIx) (w : State), l.Nodup → g ∈ l → w = { s with links := w.links } → w.group g = s.group g →
      ∃ t : State, (t.group g = s.group g ∧ t = { s with links := t.links }) ∧ (l.foldl State.clearLoop w).group g = (t.clearLoop g).group g := by
    intro l
    induction l with
    | nil => exact fun w _ h => absurd h List.not_mem_nil
    | cons x xs ih =>
      intro w hnd hg hw hgroup
      obtain ⟨hx, hnd⟩ := List.nodup_cons.1 hnd
      by_cases hgx : g = x
      · subst hgx
        refine ⟨w, ⟨hgroup, hw⟩, ?_⟩
        exact List.foldlRecOn (motive := fun t : State => t.group g = (w.clearLoop g).group g) xs _ rfl fun t ht y hy =>
          ((t.clearLoop_onlyGroup y).2 g fun e => hx (e ▸ hy)).trans ht
      · exact ih _ hnd ((List.mem_cons.1 hg).resolve_left hgx) (linksOnly_trans hw (w.clearLoop_onlyGroup x).1)
          (((w.clearLoop_onlyGroup x).2 g hgx).trans hgroup)
  exact hview _ s (List.nodup_finRange 14) (List.mem_finRange g) rfl rfl

/-- What a launch pitch leaves of one group. -/
theorem State.clearLoops_spec (s : State) (g : GroupIx) (b : SubIx) : let u := s.clearLoops
    (bit (s.group g).loop.toNat 15 = true → u.group g = s.group g) ∧
      (bit (s.group g).loop.toNat 15 = false → (u.group g).loop = 0 ∧
        ((u.group g).loopMode b = (s.group g).loopMode b → u.sub g b = s.sub g b) ∧
        ((u.group g).loopMode b ≠ (s.group g).loopMode b → s.linkPowered g = true ∧ s.attached g b = true → (s.sub g b).st ≠ .disabled →
          (u.sub g b).st = .training ∧ (u.sub g b).cold = false)) := by
  obtain ⟨t, ⟨hgroup, honly⟩, hview⟩ := s.clearLoops_group g
  have hsub : ∀ {v w : State}, v.group g = w.group g → v.sub g b = w.sub g b := fun h => congrArg (fun k : LinkGroup => k.sub[b]) h
  have hpow : t.linkPowered g = s.linkPowered g ∧ t.attached g b = s.attached g b := by
    rw [honly]
    exact ⟨rfl, rfl⟩
  refine ⟨fun hkeep => ?_, fun hend => ?_⟩
  · rw [hview, State.clearLoop, if_pos (by rw [hgroup]; exact hkeep), hgroup]
  · have heq : t.clearLoop g = t.setLoop g 0 := if_neg (by rw [hgroup, hend]; decide)
    rw [heq] at hview
    have hlooped := t.setLoop_looped g b 0
    dsimp only at hlooped
    rw [← hview, ← hsub hview, hsub hgroup, hgroup, hpow.1, hpow.2] at hlooped
    exact ⟨(congrArg LinkGroup.loop hview).trans (t.setLoop_spec g 0).2.1, hlooped⟩

/-- Settles O46: entries by their `of` lemmas and `sleep_spec`, waking by `woken_spec`, registers by `writeDis_spec`, `quarClear_spec`,
`setLoop_looped` and `clearLoops_spec`. -/
theorem bivouacAndLinkRegisters : Obligations.BivouacAndLinkRegisters := by
  refine ⟨fun s g b full rx w r bs x => ?_, fun s p g b d v => ?_⟩
  · intro k aborted cancels same ahead asks goes awake hindered
    have hcancels : cancels (s.cancelBiv g b x) := s.modSub_sendMgmt g b _ _
    refine ⟨fun h => ⟨_, bivouacTrigger_of_idle h, s.modSub_sendMgmt g b _ _⟩, bivouacTrigger_of_not, fun hup => ?_, fun hup => ?_,
      fun hup => ⟨congrArg Host.Outcome.next (if_pos (by change (!k.up) = true; rw [hup]; rfl)),
        congrArg Host.Outcome.next (if_neg (by change ¬ k.up = true; rw [hup]; decide))⟩,
      fun hx => ⟨fun ho hf => ?_, fun hn => ?_, fun ho => ?_, fun ho => ?_, fun ha => ?_, fun ha => ?_, bivouacCommitPoint_of_not hx,
        fun hg haw hh => ?_, fun hg hn => ?_⟩,
      fun hx => ⟨?_, ?_, congrArg Host.Outcome.next (by simp only [show (s.sub g b).biv = none from hx]),
        fun ha => ⟨bivCancel_of_none w ha hx, congrArg Host.Outcome.next (State.wake_of_none ha hx)⟩⟩,
      fun ha => ⟨⟨_, bivCancel_of_asleep w ha, s.modSub_onlyGroup g b _, s.modSub_sub g b _⟩,
        ⟨_, congrArg Host.Outcome.next (State.wake_of_asleep ha), s.modSub_onlyGroup g b _, s.modSub_sub g b _⟩,
        fun hw ht => ⟨_, wakeComplete_of_dwelt ha hw ht, s.woken_spec g b⟩⟩,
      wakeComplete_of_not, ⟨_, rfl, s.modSub_onlyGroup g b _, s.modSub_sub g b _⟩⟩
    · cases hal : s.bivAllowed g b full with
      | false => exact ⟨_, bivReq_of_barred hup w hal, s.sendMgmt_sendsOnly g b _, fun _ => ⟨rfl, rfl⟩, fun h => absurd h (by decide),
          fun h => absurd h (by decide)⟩
      | true =>
        cases hw : s.mustWake g b full with
        | true => exact ⟨_, bivReq_of_wake hup w hal hw, s.sendMgmt_sendsOnly g b _, fun h => absurd h (by decide), fun _ _ => ⟨rfl, rfl⟩,
            fun _ h => absurd h (by decide)⟩
        | false =>
          obtain ⟨honly, hsub, hout⟩ := s.modSub_sendMgmt g b
            (fun k => { k with biv := some { full := full, ours := false, commit := w, acked := true } })
            ([5, modeByte full, 0, 0] ++ (if full then commitBytes (s.ahead g b) else zeros 4))
          refine ⟨_, bivReq_of_agreed hup w hal hw, honly, fun h => absurd h (by decide), fun _ h => absurd h (by decide),
            fun _ _ => ⟨hsub, hout.trans ?_⟩⟩
          cases full <;> rfl
    · refine congrArg Host.Outcome.next ((if_pos hup).trans ?_)
      have hlen : 32 - (8 :: (bs.drop 1).take 31).length = 31 - (bs.length - 1) := by
        rw [List.length_cons, List.length_take, List.length_drop]
        omega
      unfold State.sendMgmt
      rw [hlen]
    · refine ⟨_, rfl, s.modSub_onlyGroup g b _, (s.modSub_sub g b _).trans ?_⟩
      rw [hx, Option.map_some, if_pos (by rw [ho, hf]; simp)]
    · refine State.modSub_same ?_
      rw [hx, Option.map_some, if_neg fun e => ?_, ← hx]
      rw [Bool.and_eq_true, beq_iff_eq] at e
      exact hn.elim (fun ho => absurd e.1 (by rw [ho]; decide)) fun hf => hf e.2
    · refine ⟨_, rfl, s.modSub_onlyGroup g b _, (s.modSub_sub g b _).trans ?_⟩
      simp only [show (s.sub g b).biv = some x from hx, ho, if_true]
      rfl
    · refine State.modSub_same ?_
      have hx' : (s.sub g b).biv = some x := hx
      simp only [hx', ho, Bool.false_eq_true, if_false]
      rw [← hx']
    · exact ⟨_, bivCancel_of_entry w ha hx, s.modSub_onlyGroup g b _, s.modSub_sub g b _⟩
    · exact ⟨_, congrArg Host.Outcome.next (State.wake_of_entry ha hx), hcancels⟩
    · refine ⟨_, (bivouacCommitPoint_of_due hx hg).trans (congrArg _ (if_pos ?_)), hcancels⟩
      rw [Bool.and_eq_true, Bool.and_eq_true, Bool.or_eq_true, Bool.not_eq_true', Bool.not_eq_true', Bool.not_eq_true']
      exact ⟨⟨hh, haw.1⟩, haw.2⟩
    · refine ⟨_, (bivouacCommitPoint_of_due hx hg).trans (congrArg _ (if_neg fun e => hn ?_)), s.modSub_onlyGroup g b _, ?_⟩
      · rw [Bool.and_eq_true, Bool.and_eq_true, Bool.or_eq_true, Bool.not_eq_true', Bool.not_eq_true', Bool.not_eq_true'] at e
        exact ⟨⟨e.1.2, e.2⟩, e.1.1⟩
      · rw [State.modSub_sub]
        obtain ⟨htx, hrx⟩ := k.sleep_spec s.now hg.1
        refine ⟨k.sleep_superframe s.now x rx, htx, hrx, ?_, ?_⟩
        · by_cases haw : awake
          · rw [if_pos haw]
            exact if_pos ((Sublink.first_iff k).2 haw)
          · rw [if_neg haw]
            exact if_neg fun e => haw ((Sublink.first_iff k).1 e)
        · by_cases haw : awake
          · rw [if_pos haw]
            exact congrArg SubCount.bivIn (if_pos ((Sublink.first_iff k).2 haw))
          · rw [if_neg haw]
            exact congrArg SubCount.bivIn (if_neg fun e => haw ((Sublink.first_iff k).1 e))
    · refine State.modSub_same ?_
      rw [hx, Option.map_none, ← hx]
    · refine State.modSub_same ?_
      have hx' : (s.sub g b).biv = none := hx
      simp only [hx']
      rw [← hx']
  · intro k mayTrain was looped
    refine ⟨fun ho => ⟨fun hc => ?_, fun hc => ?_, fun hc hr => ?_, fun hc => ⟨?_, ?_, ?_⟩, fun hr => ?_⟩, fun hno => ⟨?_, ?_, ?_⟩,
      fun hl => ?_, fun hl => congrArg Host.Outcome.next (if_pos (by rw [hl]; rfl)), ?_⟩
    · obtain ⟨honly, hdis, hsub⟩ := s.writeDis_spec g d
      refine ⟨_, congrArg Host.Outcome.next (State.guarded_of_ok _ _ ho hc), honly, hdis, ?_⟩
      rw [hsub]
      refine ⟨fun hd hw => ?_, fun hd hw hm => ?_, fun hd hw hm => ?_, fun hd => State.disSub_of_same _ hd⟩
      · rw [hd, State.disSub_of_set _ hw]
        exact ⟨rfl, rfl⟩
      · rw [hd, State.disSub_of_released _ hw, if_pos (by rw [hm.1, hm.2]; rfl)]
        exact ⟨rfl, rfl, rfl⟩
      · rw [hd, State.disSub_of_released _ hw, if_neg fun e => hm (by simpa only [Bool.and_eq_true] using e)]
        rfl
    · obtain ⟨honly, hquar, hscore, hsteady⟩ := s.quarClear_spec g
      exact ⟨_, congrArg Host.Outcome.next (State.guarded_of_ok _ _ ho hc), honly, hquar, hscore, hsteady b⟩
    · obtain ⟨honly, hloop, -⟩ := s.setLoop_spec g v
      exact ⟨_, congrArg Host.Outcome.next (State.guarded_of_ok _ _ ho (by rw [hc, hr]; rfl)), honly, hloop, s.setLoop_looped g b v⟩
    · exact congrArg Host.Outcome.next (State.guarded_of_not _ _ ho hc)
    · exact congrArg Host.Outcome.next (State.guarded_of_not _ _ ho hc)
    · exact congrArg Host.Outcome.next (State.guarded_of_not _ _ ho (by rw [hc]; rfl))
    · exact congrArg Host.Outcome.next (State.guarded_of_not _ _ ho (by rw [hr, Bool.not_true, Bool.and_false]))
    · exact congrArg Host.Outcome.next (State.guarded_of_closed _ _ hno)
    · exact congrArg Host.Outcome.next (State.guarded_of_closed _ _ hno)
    · exact congrArg Host.Outcome.next (State.guarded_of_closed _ _ hno)
    · exact ⟨_, congrArg Host.Outcome.next (if_neg (by rw [hl]; decide)), s.clearLoops_only, s.clearLoops_spec g b⟩
    · exact ⟨_, rfl, ⟨rfl, fun _ hk => State.modGroup_group_other _ _ _ _ hk⟩, s.modGroup_group g _⟩

end Sys2Proof.Machine
end

section
/-! PROOFS. Power domains (Sequence PWR-1): requests, sequences, their stages and their reversal. -/

namespace Sys2Proof.Machine

/-! ## Domains of a state -/

/-- What changes one domain alone. -/
theorem State.modDom_onlyDom (s : State) (d : DomIx) (f : Domain → Domain) : onlyDom d s (s.modDom d f) :=
  ⟨rfl, fun _ he => State.modDom_dom_other s d _ f he⟩

theorem State.modDom_core (s : State) (d : DomIx) (f : Domain → Domain) (c : CoreIx) : (s.modDom d f).core c = s.core c := rfl

/-- A domain of a state whose domains alone are another's. -/
theorem State.dom_congr {s t : State} (h : t.pwr.dom = s.pwr.dom) (d : DomIx) : t.dom d = s.dom d := congrArg (fun x => x[d]) h

/-- A sequence accepted waits behind the others. -/
theorem State.enqueueSeq_spec (s : State) (d : DomIx) (on : Bool) :
    onlyDom d s (s.enqueueSeq d on) ∧ (s.enqueueSeq d on).dom d = { s.dom d with queued := some on } ∧
      (s.enqueueSeq d on).pwr.wait = s.pwr.wait ++ [(d, on)] :=
  ⟨⟨rfl, fun _ he => State.modDom_dom_other s d _ _ he⟩, State.modDom_dom s d _, rfl⟩

/-- A sequence taken back waits no longer. -/
theorem State.dequeueSeq_spec (s : State) (d : DomIx) :
    onlyDom d s (s.dequeueSeq d) ∧ (s.dequeueSeq d).dom d = { s.dom d with queued := none } ∧
      (s.dequeueSeq d).pwr.wait = s.pwr.wait.filter (fun x => x.1 != d) :=
  ⟨⟨rfl, fun _ he => State.modDom_dom_other s d _ _ he⟩, State.modDom_dom s d _, rfl⟩

/-- What changes one domain after what changed the same. -/
theorem onlyDom.trans {d : DomIx} {s t u : State} (h : onlyDom d s t) (k : onlyDom d t u) : onlyDom d s u := by
  obtain ⟨hf, hd⟩ := h
  obtain ⟨kf, kd⟩ := k
  exact ⟨by rw [kf, hf], fun e he => (kd e he).trans (hd e he)⟩

/-! ## Requests (R406, R409, R411, R413) -/

/-- A request for a domain number that no domain has. -/
theorem State.requestDom_of_ge (s : State) {n : BitVec 7} (h : 88 ≤ n.toNat) (on : Bool) : s.requestDom n on = s.domRefused :=
  dif_neg (Nat.not_lt.2 h)

section
variable {s : State} {n : BitVec 7} {d : DomIx} (hn : n.toNat = d.val)
include hn

/-- The domain that a number names. -/
theorem domIx_of_toNat (h : n.toNat < 88) : (⟨n.toNat, h⟩ : DomIx) = d := Fin.ext hn

theorem State.requestDom_on : s.requestDom n true = s.requestOn d := by
  have hlt : n.toNat < 88 := hn ▸ d.isLt
  exact (dif_pos hlt).trans ((if_pos rfl).trans (congrArg s.requestOn (domIx_of_toNat hn hlt)))

theorem State.requestDom_off : s.requestDom n false = s.requestOff d := by
  have hlt : n.toNat < 88 := hn ▸ d.isLt
  exact (dif_pos hlt).trans ((if_neg (by decide)).trans (congrArg s.requestOff (domIx_of_toNat hn hlt)))

end

section
variable {s : State} {d : DomIx}

/-- R406 forbids the request. -/
theorem State.requestOn_of_not (h : s.mayPowerUp d = false) : s.requestOn d = s.domRefused := if_pos (by rw [h]; rfl)

theorem State.requestOff_of_not (h : s.mayPowerDown d = false) : s.requestOff d = s.domRefused := if_pos (by rw [h]; rfl)

section
variable (h : s.mayPowerUp d = true)
include h

theorem State.requestOn_of_off (hst : (s.dom d).st = .off) :
    s.requestOn d = if (s.dom d).queued.isSome then s else s.enqueueSeq d true :=
  (if_neg (by rw [h]; decide)).trans (by rw [hst])

theorem State.requestOn_of_fenced (hst : (s.dom d).st = .fenced) :
    s.requestOn d = if (s.dom d).queued.isSome then
      (s.dequeueSeq d).modDom d fun k => { k with st := .onFenced, onReq := false, edge := s.gridNow }
      else s.modDom d fun k => { k with onReq := true } :=
  (if_neg (by rw [h]; decide)).trans (by rw [hst])

theorem State.requestOn_of_switchingOff (hst : (s.dom d).st = .switchingOff) :
    s.requestOn d = s.modDom d fun k => { k with onReq := true } :=
  (if_neg (by rw [h]; decide)).trans (by rw [hst])

theorem State.requestOn_of_up (hst : (s.dom d).st = .on ∨ (s.dom d).st = .onFenced ∨ (s.dom d).st = .switchingOn ∨
    (s.dom d).st = .initialising) : s.requestOn d = s.modDom d fun k => { k with offReq := false } := by
  refine (if_neg (by rw [h]; decide)).trans ?_
  rcases hst with hst | hst | hst | hst <;> rw [hst]

end

section
variable (h : s.mayPowerDown d = true)
include h

theorem State.requestOff_of_off (hst : (s.dom d).st = .off) :
    s.requestOff d = if (s.dom d).queued.isSome then s.dequeueSeq d else s :=
  (if_neg (by rw [h]; decide)).trans (by rw [hst])

theorem State.requestOff_of_down (hst : (s.dom d).st = .switchingOff ∨ (s.dom d).st = .fenced) :
    s.requestOff d = s.modDom d fun k => { k with onReq := false } := by
  refine (if_neg (by rw [h]; decide)).trans ?_
  rcases hst with hst | hst <;> rw [hst]

theorem State.requestOff_of_up (hst : (s.dom d).st = .on ∨ (s.dom d).st = .onFenced ∨ (s.dom d).st = .switchingOn ∨
    (s.dom d).st = .initialising) :
    s.requestOff d = s.modDom d fun k => { k with offReq := true, edge := if k.offReq then k.edge else s.gridNow } := by
  refine (if_neg (by rw [h]; decide)).trans ?_
  rcases hst with hst | hst | hst | hst <;> rw [hst]

end

/-- One domain changed, and nothing waits more or less. -/
theorem State.modDom_becomes (s : State) (d : DomIx) (f : Domain → Domain) :
    onlyDom d s (s.modDom d f) ∧ (s.modDom d f).dom d = f (s.dom d) ∧ (s.modDom d f).pwr.wait = s.pwr.wait :=
  ⟨s.modDom_onlyDom d f, State.modDom_dom s d f, rfl⟩

/-- A power-down that waited its turn is taken back, and the domain is on behind its fence. -/
theorem State.refence_becomes (s : State) (d : DomIx) {f : Domain → Domain} {x : Domain} (hx : f { s.dom d with queued := none } = x) :
    onlyDom d s ((s.dequeueSeq d).modDom d f) ∧ ((s.dequeueSeq d).modDom d f).dom d = x ∧
      ((s.dequeueSeq d).modDom d f).pwr.wait = s.pwr.wait.filter (fun x => x.1 != d) := by
  obtain ⟨honly, hdom, hwait⟩ := s.dequeueSeq_spec d
  exact ⟨honly.trans (State.modDom_onlyDom _ d f), (State.modDom_dom _ d f).trans ((congrArg f hdom).trans hx), hwait⟩

end

section
variable {s : State} {p : Path} {n : BitVec 7} (hp : s.pathOpen p = true)
include hp

theorem domainOnRequest_of_takes (hw : s.wardenTakes p = true) : exec (.domainOnRequest p n) s = .next (s.requestDom n true) :=
  congrArg Host.Outcome.next (State.guarded_of_ok _ _ hp hw)

theorem domainOffRequest_of_takes (hw : s.wardenTakes p = true) : exec (.domainOffRequest p n) s = .next (s.requestDom n false) :=
  congrArg Host.Outcome.next (State.guarded_of_ok _ _ hp hw)

theorem domainOnRequest_of_refused (hw : s.wardenTakes p = false) : exec (.domainOnRequest p n) s = .next (s.refuse p domReq) :=
  congrArg Host.Outcome.next (State.guarded_of_not _ _ hp hw)

theorem domainOffRequest_of_refused (hw : s.wardenTakes p = false) : exec (.domainOffRequest p n) s = .next (s.refuse p domReq) :=
  congrArg Host.Outcome.next (State.guarded_of_not _ _ hp hw)

end

theorem domainOnRequest_of_closed {s : State} {p : Path} {n : BitVec 7} (hp : s.pathOpen p = false) :
    exec (.domainOnRequest p n) s = .next s := congrArg Host.Outcome.next (State.guarded_of_closed _ _ hp)

theorem domainOffRequest_of_closed {s : State} {p : Path} {n : BitVec 7} (hp : s.pathOpen p = false) :
    exec (.domainOffRequest p n) s = .next s := congrArg Host.Outcome.next (State.guarded_of_closed _ _ hp)

/-! ## What a domain loses with its power (Table PWR-2) -/

/-- The cores of the field reset, no other core. -/
theorem State.resetField_core (s : State) (f : FieldIx) (c : CoreIx) :
    (s.resetField f).core c = if coreField c = f then (s.core c).powerReset else s.core c := by
  refine (Vector.getElem_ofFn c.isLt).trans ?_
  by_cases h : coreField c = f
  · rw [if_pos h]; exact if_pos (beq_iff_eq.2 h)
  · rw [if_neg h]; exact if_neg (fun e => h (beq_iff_eq.1 e))

theorem State.resetField_frame (s : State) (f : FieldIx) :
    s.resetField f = { s with cores := (s.resetField f).cores, grd := (s.resetField f).grd } := by rw [State.resetField]

/-- An edge's port groups. -/
theorem mem_edgeGroups {e : Nat} {g : GroupIx} : g ∈ edgeGroups e ↔ groupEdge g = e := by simp [edgeGroups]

/-- The edges are four. -/
theorem groupEdge_lt (g : GroupIx) : groupEdge g < 4 := by revert g; decide

theorem groupEdge_mod (g : GroupIx) : groupEdge g % 4 = groupEdge g := Nat.mod_eq_of_lt (groupEdge_lt g)

theorem edgeGroups_nodup (e : Nat) : (edgeGroups e).Nodup := (List.nodup_finRange 14).filter _

/-- Both sublinks of a group lose power. -/
theorem State.unpowerGroup_sub (s : State) (g : GroupIx) (b : SubIx) :
    ((s.modSub g 0 Sublink.unpower).modSub g 1 Sublink.unpower).sub g b = (s.sub g b).unpower := by
  match b with
  | 0 => rw [State.modSub_sub_other _ _ fun e => absurd e.2 (by decide), State.modSub_sub]
  | 1 => rw [State.modSub_sub, State.modSub_sub_other _ _ fun e => absurd e.2 (by decide)]

theorem State.unpowerGroup_sub_other (s : State) {g h : GroupIx} (b : SubIx) (hne : h ≠ g) :
    ((s.modSub g 0 Sublink.unpower).modSub g 1 Sublink.unpower).sub h b = s.sub h b := by
  rw [State.modSub_sub_other _ _ fun e => hne e.1, State.modSub_sub_other _ _ fun e => hne e.1]

theorem State.unpowerEdge_frame (s : State) (e : Nat) : s.unpowerEdge e = { s with links := (s.unpowerEdge e).links } :=
  List.foldlRecOn (motive := fun t : State => t = { s with links := t.links }) (edgeGroups e) _ rfl fun t ht g _ => by
    generalize hu : (t.modSub g 0 Sublink.unpower).modSub g 1 Sublink.unpower = u
    have hf : u = { t with links := u.links } := hu ▸ rfl
    rw [hf, ht]

theorem State.unpowerEdge_sub (s : State) (e : Nat) (g : GroupIx) (b : SubIx) :
    (s.unpowerEdge e).sub g b = if groupEdge g = e then (s.sub g b).unpower else s.sub g b := by
  by_cases h : groupEdge g = e
  · obtain ⟨t, ht, hfold⟩ := foldl_at (view := fun t : State => t.sub g b)
      (F := fun s g => (s.modSub g 0 Sublink.unpower).modSub g 1 Sublink.unpower)
      (fun t _ hne => t.unpowerGroup_sub_other b (Ne.symm hne)) (edgeGroups e) s (edgeGroups_nodup e) (mem_edgeGroups.2 h)
    rw [if_pos h]
    exact hfold.trans ((t.unpowerGroup_sub g b).trans (congrArg _ ht))
  · rw [if_neg h]
    exact foldl_view (view := fun t : State => t.sub g b) (edgeGroups e) s fun t y hy =>
      t.unpowerGroup_sub_other b fun hne => h (hne ▸ mem_edgeGroups.1 hy)

/-- A group trains up: the sublinks in use train, or are DOWN at a dead router. -/
theorem LinkGroup.trainUp_st (k : LinkGroup) (alive : SubIx → Bool) (b : SubIx) (h : k.dis.getLsbD b.val = false) :
    (k.trainUp alive).sub[b].st = if alive b = true then .training else .down := by
  have hb : (if k.dis.getLsbD b.val = true then k.sub[b] else
      if alive b = true then { k.sub[b] with st := .training, cold := true, warmFail := 0, coldFail := 0, dead := false }
      else { k.sub[b] with st := .down, dead := true }) = if alive b = true then
        { k.sub[b] with st := .training, cold := true, warmFail := 0, coldFail := 0, dead := false } else { k.sub[b] with st := .down, dead := true } :=
    if_neg (Bool.eq_false_iff.1 h)
  refine (congrArg Sublink.st ((Vector.getElem_ofFn b.isLt).trans hb)).trans ?_
  split <;> rfl

theorem State.trainEdge_frame (s : State) (e : Nat) : s.trainEdge e = { s with links := (s.trainEdge e).links } :=
  List.foldlRecOn (motive := fun t : State => t = { s with links := t.links }) (edgeGroups e) _ rfl fun t ht g _ => by
    generalize hu : (t.modGroup g fun k => k.trainUp (t.attached g)) = u
    have hf : u = { t with links := u.links } := hu ▸ rfl
    rw [hf, ht]

theorem State.trainEdge_st (s : State) (g : GroupIx) (b : SubIx) (h : (s.group g).dis.getLsbD b.val = false) :
    ((s.trainEdge (groupEdge g)).sub g b).st = if s.attached g b = true then .training else .down := by
  obtain ⟨t, ht, hfold⟩ := foldl_at (view := fun t : State => (t.group g, t.attached g))
    (F := fun s g => s.modGroup g fun k => k.trainUp (s.attached g))
    (fun t y hne => by rw [State.modGroup_group_other _ _ _ _ (Ne.symm hne)]; rfl)
    (edgeGroups (groupEdge g)) s (edgeGroups_nodup _) (mem_edgeGroups.2 rfl)
  obtain ⟨htg, hta⟩ := Prod.mk.inj ht
  have hgroup : (s.trainEdge (groupEdge g)).group g = (t.group g).trainUp (t.attached g) :=
    (congrArg Prod.fst hfold).trans (State.modGroup_group t g _)
  have hsub : (s.trainEdge (groupEdge g)).sub g b = ((t.group g).trainUp (t.attached g)).sub[b] := congrArg (fun k => k.sub[b]) hgroup
  rw [hsub, htg, hta]
  exact LinkGroup.trainUp_st _ _ b h

/-! ## The kinds of the domains (Table PWR-1) -/

/-- The VLNK domains are those of an edge. -/
theorem isVlnk_iff (d : DomIx) : isVlnk d = true ↔ ∃ e, domKind d = .vlnk e := by
  unfold isVlnk domKind
  split
  · simp; omega
  · split
    · simp; omega
    · split
      · simp; omega
      · simp; omega

theorem domKind_vlnk (g : GroupIx) : domKind (vlnk g) = .vlnk (groupEdge g) := by
  have h := groupEdge_lt g
  have hv : (vlnk g).val = 80 + groupEdge g := congrArg (80 + ·) (groupEdge_mod g)
  refine (dif_neg (by omega)).trans ((if_neg (by omega)).trans ((if_pos (by omega)).trans (congrArg DomKind.vlnk ?_)))
  omega

/-! ## Sequences (R407 to R410) -/

section
variable {s t : State} {d : DomIx} (ht : t = { s with pwr := t.pwr }) (g : Domain → Domain)
include ht

/-- The cores of a field reset beside a change of the domain. -/
theorem State.resetField_modDom (f : FieldIx) {u : State} (hu : u = (t.resetField f).modDom d g) :
    u = { s with pwr := u.pwr, cores := u.cores, grd := u.grd } ∧
      ∀ c : CoreIx, u.core c = if coreField c = f then (s.core c).powerReset else s.core c := by
  have hframe := (State.modDom_onlyDom (t.resetField f) d g).1
  rw [← hu] at hframe
  have hcore (c : CoreIx) : u.core c = (t.resetField f).core c := by rw [hu]; exact State.modDom_core _ d g c
  refine ⟨by rw [hframe, State.resetField_frame, ht], fun c => (hcore c).trans ((t.resetField_core f c).trans ?_)⟩
  have hc : t.core c = s.core c := (congrArg (fun x : State => x.core c) ht).trans rfl
  rw [hc]

/-- Memory lost beside a change of the domain. -/
theorem State.lose_modDom (m : Memory → Memory) {u : State} (hu : u = ({ t with mem := m t.mem } : State).modDom d g) :
    u = { s with pwr := u.pwr, mem := u.mem } ∧ u.mem = m s.mem := by
  have hframe : u = { t with pwr := u.pwr, mem := u.mem } := hu ▸ rfl
  have hmem : u.mem = m t.mem := hu ▸ rfl
  exact ⟨by rw [hframe, ht], hmem.trans (by rw [ht])⟩

/-- An edge's sublinks without power beside a change of the domain. -/
theorem State.unpowerEdge_modDom (e : Nat) {u : State} (hu : u = (t.unpowerEdge e).modDom d g) :
    u = { s with pwr := u.pwr, links := u.links } ∧
      ∀ (g : GroupIx) (b : SubIx), u.sub g b = if groupEdge g = e then (s.sub g b).unpower else s.sub g b := by
  have hframe : u = { t.unpowerEdge e with pwr := u.pwr } := hu ▸ rfl
  have hsub (g : GroupIx) (b : SubIx) : u.sub g b = (t.unpowerEdge e).sub g b := hu ▸ rfl
  refine ⟨by rw [hframe, State.unpowerEdge_frame, ht], fun g b => (hsub g b).trans ((t.unpowerEdge_sub e g b).trans ?_)⟩
  have hb : t.sub g b = s.sub g b := (congrArg (fun x : State => x.sub g b) ht).trans rfl
  rw [hb]

end

section
variable {s : State} {d : DomIx}

theorem State.powerLost_of_vlog {f : FieldIx} (h : domKind d = .vlog f) : s.powerLost d = s.resetField f := by rw [State.powerLost, h]
theorem State.powerLost_of_varr {b : Nat} (h : domKind d = .varr b) : s.powerLost d = { s with mem := s.mem.loseArrays d } := by
  rw [State.powerLost, h]
theorem State.powerLost_of_vmif {b : Nat} (h : domKind d = .vmif b) : s.powerLost d = { s with mem := s.mem.loseStacks d } := by
  rw [State.powerLost, h]
theorem State.powerLost_of_vlnk {e : Nat} (h : domKind d = .vlnk e) : s.powerLost d = s.unpowerEdge e := by rw [State.powerLost, h]

/-- No switch of power is thrown by what a domain loses. -/
theorem State.powerLost_pwr : (s.powerLost d).pwr = s.pwr := by
  cases h : domKind d with
  | vlog f => rw [State.powerLost_of_vlog h, State.resetField]
  | varr b => rw [State.powerLost_of_varr h]
  | vmif b => rw [State.powerLost_of_vmif h]
  | vlnk e => exact (congrArg State.pwr ((State.powerLost_of_vlnk h).trans (s.unpowerEdge_frame e))).trans rfl

/-- One domain changed in a state whose power is another's. -/
theorem State.modDom_others {t : State} (h : ∀ e, e ≠ d → t.dom e = s.dom e) (f : Domain → Domain) :
    ∀ e, e ≠ d → (t.modDom d f).dom e = s.dom e := fun e he => (State.modDom_dom_other t d e f he).trans (h e he)

theorem State.startSeq_on (s : State) (d : DomIx) :
    s.startSeq d true = (s.dequeueSeq d).modDom d fun k => { k with st := .switchingOn, stage := 1, counts := true, stageAt := s.now } :=
  rfl

theorem State.startSeq_off (s : State) (d : DomIx) : s.startSeq d false =
    ((s.dequeueSeq d).powerLost d).modDom d
      fun k => { k with st := .switchingOff, stage := 7, counts := true, onReq := false, stageAt := s.now } := rfl

theorem domainSequenceStart_idle (h : s.pwr.wait = [] ∨ ¬ s.sequences < 4) : exec .domainSequenceStart s = .next s := by
  refine congrArg Host.Outcome.next ?_
  cases hw : s.pwr.wait with
  | nil => rfl
  | cons x rest => exact if_pos (Nat.not_lt.1 (h.resolve_left (hw ▸ List.cons_ne_nil x rest)))

theorem domainSequenceStart_of_waits {on : Bool} {rest : List (DomIx × Bool)} (h : s.sequences < 4) (hw : s.pwr.wait = (d, on) :: rest) :
    exec .domainSequenceStart s = .next (s.startSeq d on) := by
  refine congrArg Host.Outcome.next ?_
  rw [hw]
  exact if_neg (Nat.not_le.2 h)

end

section
variable {s : State} {d : DomIx}

/-- A waiting power-up begins. -/
theorem domainSequenceStart_on {rest : List (DomIx × Bool)} (h : s.sequences < 4) (hw : s.pwr.wait = (d, true) :: rest) :
    answers (exec .domainSequenceStart s) fun u => u = { s with pwr := u.pwr } ∧ (∀ e, e ≠ d → u.dom e = s.dom e) ∧
      u.dom d = { s.dom d with queued := none, st := .switchingOn, stage := 1, counts := true, stageAt := s.now } ∧
      u.pwr.wait = s.pwr.wait.filter (fun x => x.1 != d) := by
  refine ⟨_, domainSequenceStart_of_waits h hw, ?_⟩
  rw [State.startSeq_on]
  obtain ⟨⟨hframe, hothers⟩, hdom, hwait⟩ := s.dequeueSeq_spec d
  exact ⟨by rw [(State.modDom_onlyDom _ d _).1, hframe], State.modDom_others hothers _, (State.modDom_dom _ d _).trans (by rw [hdom]), hwait⟩

/-- A waiting power-down begins, and what the domain supplied is lost. -/
theorem domainSequenceStart_off {rest : List (DomIx × Bool)} (h : s.sequences < 4) (hw : s.pwr.wait = (d, false) :: rest) :
    answers (exec .domainSequenceStart s) fun u => (∀ e, e ≠ d → u.dom e = s.dom e) ∧
      u.dom d = { s.dom d with queued := none, st := .switchingOff, stage := 7, counts := true, onReq := false, stageAt := s.now } ∧
      u.pwr.wait = s.pwr.wait.filter (fun x => x.1 != d) ∧
      (∀ f, domKind d = .vlog f → u = { s with pwr := u.pwr, cores := u.cores, grd := u.grd } ∧
        ∀ c : CoreIx, u.core c = if coreField c = f then (s.core c).powerReset else s.core c) ∧
      (∀ b, domKind d = .varr b → u = { s with pwr := u.pwr, mem := u.mem } ∧ u.mem = s.mem.loseArrays d) ∧
      (∀ b, domKind d = .vmif b → u = { s with pwr := u.pwr, mem := u.mem } ∧ u.mem = s.mem.loseStacks d) ∧
      (∀ e, domKind d = .vlnk e → u = { s with pwr := u.pwr, links := u.links } ∧
        ∀ (g : GroupIx) (b : SubIx), u.sub g b = if groupEdge g = e then (s.sub g b).unpower else s.sub g b) := by
  refine ⟨_, domainSequenceStart_of_waits h hw, ?_⟩
  obtain ⟨⟨hframe, hothers⟩, hdom, hwait⟩ := s.dequeueSeq_spec d
  rw [State.startSeq_off]
  generalize s.dequeueSeq d = t at *
  have hpwr : (t.powerLost d).pwr = t.pwr := State.powerLost_pwr
  have hdoms (e : DomIx) : (t.powerLost d).dom e = t.dom e := State.dom_congr (congrArg Pwr.dom hpwr) e
  refine ⟨State.modDom_others (fun e he => (hdoms e).trans (hothers e he)) _,
    (State.modDom_dom _ d _).trans (by rw [hdoms, hdom]), (congrArg Pwr.wait hpwr).trans hwait, fun f hf => ?_, fun b hb => ?_,
    fun b hb => ?_, fun e he => ?_⟩
  · exact State.resetField_modDom hframe _ f (by rw [State.powerLost_of_vlog hf])
  · exact State.lose_modDom hframe _ (fun m => m.loseArrays d) (by rw [State.powerLost_of_varr hb])
  · exact State.lose_modDom hframe _ (fun m => m.loseStacks d) (by rw [State.powerLost_of_vmif hb])
  · exact State.unpowerEdge_modDom hframe _ e (by rw [State.powerLost_of_vlnk he])

/-! ## The steps of a sequence -/

theorem Domain.aged_iff {k : Domain} {now ns : Nat} : k.aged now ns = true ↔ k.stageAt + ns ≤ now := decide_eq_true_iff

theorem domainStage_up (h : (s.dom d).st = .switchingOn ∧ (s.dom d).offReq = false ∧ (s.dom d).stage < 8 ∧ (s.dom d).stageAt + 2000 ≤ s.now) :
    exec (.domainStage d) s = .next (s.modDom d fun k => { k with stage := k.stage + 1, stageAt := s.now }) := by
  obtain ⟨hst, hoff, hstage, hat⟩ := h
  refine congrArg Host.Outcome.next ?_
  simp only [hst]
  refine if_neg ?_
  simp [hoff, Domain.aged_iff.2 hat, hstage]

theorem domainStage_down (h : (s.dom d).st = .switchingOff ∧ (s.dom d).onReq = false ∧ (s.dom d).stage ≠ 0 ∧ (s.dom d).stageAt + 2000 ≤ s.now) :
    exec (.domainStage d) s = .next (s.modDom d fun k => { k with stage := k.stage - 1, stageAt := s.now }) := by
  obtain ⟨hst, hon, hstage, hat⟩ := h
  refine congrArg Host.Outcome.next ?_
  simp only [hst]
  refine if_neg ?_
  simp [hon, Domain.aged_iff.2 hat, hstage]

theorem domainStage_idle
    (hup : ¬ ((s.dom d).st = .switchingOn ∧ (s.dom d).offReq = false ∧ (s.dom d).stage < 8 ∧ (s.dom d).stageAt + 2000 ≤ s.now))
    (hdown : ¬ ((s.dom d).st = .switchingOff ∧ (s.dom d).onReq = false ∧ (s.dom d).stage ≠ 0 ∧ (s.dom d).stageAt + 2000 ≤ s.now)) :
    exec (.domainStage d) s = .next s := by
  refine congrArg Host.Outcome.next ?_
  cases hst : (s.dom d).st with
  | switchingOn =>
    simp only [hst]
    refine if_pos (Classical.byContradiction fun e => hup ⟨hst, ?_⟩)
    simpa [Domain.aged, and_assoc] using e
  | switchingOff =>
    simp only [hst]
    refine if_pos (Classical.byContradiction fun e => hdown ⟨hst, ?_⟩)
    simpa [Domain.aged, and_assoc] using e
  | off => simp only [hst]
  | initialising => simp only [hst]
  | on => simp only [hst]
  | onFenced => simp only [hst]
  | fenced => simp only [hst]

/-- A rail regulated: the domain initialises, or trains its sublinks. -/
theorem domainRegulated_due (h : (s.dom d).st = .switchingOn ∧ (s.dom d).stage = 8 ∧ (s.dom d).offReq = false ∧
    (s.dom d).stageAt + 6000 ≤ s.now) :
    exec (.domainRegulated d) s = .next (match domKind d with
      | .vlnk e => (s.modDom d fun k => { k with st := .onFenced, counts := false, seq := k.seq + 1, edge := s.gridNow }).trainEdge e
      | _ => s.modDom d fun k => { k with st := .initialising, counts := false, stageAt := s.now }) := by
  obtain ⟨hst, hstage, hoff, hat⟩ := h
  refine congrArg Host.Outcome.next (if_neg ?_)
  simp [hst, hstage, hoff, Domain.aged_iff.2 hat]

theorem domainRegulated_idle (h : ¬ ((s.dom d).st = .switchingOn ∧ (s.dom d).stage = 8 ∧ (s.dom d).offReq = false ∧
    (s.dom d).stageAt + 6000 ≤ s.now)) : exec (.domainRegulated d) s = .next s := by
  refine congrArg Host.Outcome.next (if_pos (Classical.byContradiction fun e => h ?_))
  simpa [Domain.aged, and_assoc] using e

/-- A rail that feeds no sublinks: its domain initialises. -/
theorem domainRegulated_initialises (h : (s.dom d).st = .switchingOn ∧ (s.dom d).stage = 8 ∧ (s.dom d).offReq = false ∧
    (s.dom d).stageAt + 6000 ≤ s.now) (hv : isVlnk d = false) :
    exec (.domainRegulated d) s = .next (s.modDom d fun k => { k with st := .initialising, counts := false, stageAt := s.now }) := by
  refine (domainRegulated_due h).trans (congrArg Host.Outcome.next ?_)
  cases hk : domKind d with
  | vlnk e => exact absurd ((isVlnk_iff d).2 ⟨e, hk⟩) (Bool.eq_false_iff.1 hv)
  | vlog f => rfl
  | varr b => rfl
  | vmif b => rfl

/-- One that feeds an edge's sublinks: the domain is on behind its fence, and they train. -/
theorem domainRegulated_trains (h : (s.dom d).st = .switchingOn ∧ (s.dom d).stage = 8 ∧ (s.dom d).offReq = false ∧
    (s.dom d).stageAt + 6000 ≤ s.now) (hv : isVlnk d = true) :
    answers (exec (.domainRegulated d) s) fun u => u = { s with pwr := u.pwr, links := u.links } ∧ (∀ e, e ≠ d → u.dom e = s.dom e) ∧
      u.dom d = { s.dom d with st := .onFenced, counts := false, seq := (s.dom d).seq + 1, edge := s.gridNow } ∧
      ∀ (g : GroupIx) (b : SubIx), vlnk g = d → (s.group g).dis.getLsbD b.val = false →
        (u.sub g b).st = if s.attached g b = true then .training else .down := by
  obtain ⟨e, hk⟩ := (isVlnk_iff d).1 hv
  refine ⟨_, domainRegulated_due h, ?_⟩
  simp only [hk]
  have hdom := State.modDom_dom s d fun k => { k with st := .onFenced, counts := false, seq := k.seq + 1, edge := s.gridNow }
  obtain ⟨hframe, hothers⟩ := s.modDom_onlyDom d fun k => { k with st := .onFenced, counts := false, seq := k.seq + 1, edge := s.gridNow }
  have hlinks : (s.modDom d fun k => { k with st := .onFenced, counts := false, seq := k.seq + 1, edge := s.gridNow }).links = s.links := rfl
  have hnvm : (s.modDom d fun k => { k with st := .onFenced, counts := false, seq := k.seq + 1, edge := s.gridNow }).nvm = s.nvm := rfl
  generalize (s.modDom d fun k => { k with st := .onFenced, counts := false, seq := k.seq + 1, edge := s.gridNow }) = t at *
  have hpwr : (t.trainEdge e).pwr = t.pwr := (congrArg State.pwr (t.trainEdge_frame e)).trans rfl
  have hdoms (x : DomIx) : (t.trainEdge e).dom x = t.dom x := State.dom_congr (congrArg Pwr.dom hpwr) x
  refine ⟨by rw [t.trainEdge_frame e, hframe], fun x hx => (hdoms x).trans (hothers x hx), (hdoms d).trans hdom, fun g b hg hdis => ?_⟩
  have hedge : groupEdge g = e := DomKind.vlnk.inj ((domKind_vlnk g).symm.trans ((congrArg domKind hg).trans hk))
  have hgroup : t.group g = s.group g := congrArg (fun x => x[g]) hlinks
  have hatt : t.attached g b = s.attached g b := congrArg (fun x : Nvm => !(x.testDead.contains _ || x.badRouters.contains _)) hnvm
  rw [← hedge, ← hatt]
  exact t.trainEdge_st g b ((congrArg (fun x : LinkGroup => x.dis.getLsbD b.val) hgroup).trans hdis)

theorem domainReady_due (h : (s.dom d).st = .initialising ∧ (s.dom d).offReq = false ∧ (s.dom d).stageAt + initTime d ≤ s.now) :
    exec (.domainReady d) s = .next ((match domKind d with
        | .vlog f => s.resetField f
        | .varr _ => { s with mem := s.mem.loseArrays d }
        | .vmif _ => { s with mem := s.mem.loseStacks d }
        | .vlnk _ => s).modDom d fun k => { k with st := .onFenced, seq := k.seq + 1, edge := s.gridNow }) := by
  obtain ⟨hst, hoff, hat⟩ := h
  refine congrArg Host.Outcome.next (if_neg ?_)
  simp [hst, hoff, Domain.aged_iff.2 hat]

theorem domainReady_idle (h : ¬ ((s.dom d).st = .initialising ∧ (s.dom d).offReq = false ∧ (s.dom d).stageAt + initTime d ≤ s.now)) :
    exec (.domainReady d) s = .next s := by
  refine congrArg Host.Outcome.next (if_pos (Classical.byContradiction fun e => h ?_))
  simpa [Domain.aged, and_assoc] using e

/-- One domain changed beside what leaves the domains alone. -/
theorem State.modDom_of_pwr {t u : State} {f : Domain → Domain} (hu : u = t.modDom d f) (h : t.pwr = s.pwr) :
    (∀ e, e ≠ d → u.dom e = s.dom e) ∧ u.dom d = f (s.dom d) := by
  have hdoms (e : DomIx) : t.dom e = s.dom e := State.dom_congr (congrArg Pwr.dom h) e
  rw [hu]
  exact ⟨State.modDom_others (fun e _ => hdoms e) f, (State.modDom_dom t d f).trans (congrArg f (hdoms d))⟩

/-- A domain ready: on behind its fence, with its cores reset or its content lost. -/
theorem domainReady_spec (h : (s.dom d).st = .initialising ∧ (s.dom d).offReq = false ∧ (s.dom d).stageAt + initTime d ≤ s.now) :
    answers (exec (.domainReady d) s) fun u => (∀ e, e ≠ d → u.dom e = s.dom e) ∧
      u.dom d = { s.dom d with st := .onFenced, seq := (s.dom d).seq + 1, edge := s.gridNow } ∧
      (∀ f, domKind d = .vlog f → u = { s with pwr := u.pwr, cores := u.cores, grd := u.grd } ∧
        ∀ c : CoreIx, u.core c = if coreField c = f then (s.core c).powerReset else s.core c) ∧
      (∀ b, domKind d = .varr b → u = { s with pwr := u.pwr, mem := u.mem } ∧ u.mem = s.mem.loseArrays d) ∧
      (∀ b, domKind d = .vmif b → u = { s with pwr := u.pwr, mem := u.mem } ∧ u.mem = s.mem.loseStacks d) := by
  refine ⟨_, domainReady_due h, ?_⟩
  cases hk : domKind d with
  | vlog f =>
    obtain ⟨hothers, hdom⟩ := State.modDom_of_pwr (s := s) (t := s.resetField f) (d := d) rfl (by rw [State.resetField])
    exact ⟨hothers, hdom, fun g hg => DomKind.vlog.inj hg ▸ State.resetField_modDom rfl _ f rfl, nofun, nofun⟩
  | varr b =>
    obtain ⟨hothers, hdom⟩ := State.modDom_of_pwr (s := s) (t := { s with mem := s.mem.loseArrays d }) (d := d) rfl rfl
    exact ⟨hothers, hdom, nofun, fun _ _ => State.lose_modDom rfl _ (fun m => m.loseArrays d) rfl, nofun⟩
  | vmif b =>
    obtain ⟨hothers, hdom⟩ := State.modDom_of_pwr (s := s) (t := { s with mem := s.mem.loseStacks d }) (d := d) rfl rfl
    exact ⟨hothers, hdom, nofun, nofun, fun _ _ => State.lose_modDom rfl _ (fun m => m.loseStacks d) rfl⟩
  | vlnk e =>
    obtain ⟨hothers, hdom⟩ := State.modDom_of_pwr (s := s) (t := s) (d := d) rfl rfl
    exact ⟨hothers, hdom, nofun, nofun, nofun⟩

theorem domainOff_due (h : (s.dom d).st = .switchingOff ∧ (s.dom d).stage = 0 ∧ (s.dom d).onReq = false ∧ (s.dom d).stageAt + 1000 ≤ s.now) :
    exec (.domainOff d) s = .next (s.modDom d fun k => { k with st := .off, counts := false, seq := k.seq + 1 }) := by
  obtain ⟨hst, hstage, hon, hat⟩ := h
  refine congrArg Host.Outcome.next (if_neg ?_)
  simp [hst, hstage, hon, Domain.aged_iff.2 hat]

theorem domainOff_idle (h : ¬ ((s.dom d).st = .switchingOff ∧ (s.dom d).stage = 0 ∧ (s.dom d).onReq = false ∧
    (s.dom d).stageAt + 1000 ≤ s.now)) : exec (.domainOff d) s = .next s := by
  refine congrArg Host.Outcome.next (if_pos (Classical.byContradiction fun e => h ?_))
  simpa [Domain.aged, and_assoc] using e

/-! ## Reversal (R409) -/

/-- A reversal is counted beside the change of its domain. -/
theorem State.reversed_spec (s : State) (d : DomIx) (f : Domain → Domain) :
    onlyDom d s (s.modDom d f).reversed ∧ (s.modDom d f).reversed.dom d = f (s.dom d) ∧
      (s.modDom d f).reversed.pwr.reverse = bump s.pwr.reverse :=
  ⟨⟨rfl, fun _ he => State.modDom_dom_other s d _ f he⟩, State.modDom_dom s d f, rfl⟩

section
variable (hat : (s.dom d).stageAt + 2000 ≤ s.now)
include hat

theorem domainReversal_on (hst : (s.dom d).st = .switchingOn) (hoff : (s.dom d).offReq = true) :
    exec (.domainReversal d) s = .next
      (s.modDom d fun k => { k with st := .switchingOff, stage := k.stage - 1, offReq := false, stageAt := s.now }).reversed := by
  refine congrArg Host.Outcome.next ((if_neg ?_).trans ?_)
  · simp [Domain.aged_iff.2 hat]
  · simp only [hst, hoff, if_true]

theorem domainReversal_init (hst : (s.dom d).st = .initialising) (hoff : (s.dom d).offReq = true) (hseq : s.sequences < 4) :
    exec (.domainReversal d) s = .next
      (s.modDom d fun k => { k with st := .switchingOff, stage := 7, offReq := false, counts := true, stageAt := s.now }).reversed := by
  refine congrArg Host.Outcome.next ((if_neg ?_).trans ?_)
  · simp [Domain.aged_iff.2 hat]
  · simp only [hst, hoff, hseq, decide_true, Bool.and_self, if_true]

theorem domainReversal_off (hst : (s.dom d).st = .switchingOff) (hon : (s.dom d).onReq = true) :
    exec (.domainReversal d) s = .next
      (s.modDom d fun k => { k with st := .switchingOn, stage := k.stage + 1, onReq := false, stageAt := s.now }).reversed := by
  refine congrArg Host.Outcome.next ((if_neg ?_).trans ?_)
  · simp [Domain.aged_iff.2 hat]
  · simp only [hst, hon, if_true]

end

/-- Without the opposite request, or before its time, nothing is taken back. -/
theorem domainReversal_idle
    (hon : ¬ ((s.dom d).stageAt + 2000 ≤ s.now ∧ (s.dom d).st = .switchingOn ∧ (s.dom d).offReq = true))
    (hinit : ¬ ((s.dom d).stageAt + 2000 ≤ s.now ∧ (s.dom d).st = .initialising ∧ (s.dom d).offReq = true ∧ s.sequences < 4))
    (hoff : ¬ ((s.dom d).stageAt + 2000 ≤ s.now ∧ (s.dom d).st = .switchingOff ∧ (s.dom d).onReq = true)) :
    exec (.domainReversal d) s = .next s := by
  refine congrArg Host.Outcome.next ?_
  by_cases hat : (s.dom d).aged s.now 2000 = true
  · have hle := Domain.aged_iff.1 hat
    refine (if_neg (by rw [hat]; decide)).trans ?_
    cases hst : (s.dom d).st with
    | switchingOn => exact if_neg fun e => hon ⟨hle, hst, e⟩
    | initialising =>
      refine if_neg fun e => hinit ⟨hle, hst, ?_⟩
      simpa only [Bool.and_eq_true, decide_eq_true_eq] using e
    | switchingOff => exact if_neg fun e => hoff ⟨hle, hst, e⟩
    | off => rfl
    | on => rfl
    | onFenced => rfl
    | fenced => rfl
  · exact if_pos (by rw [Bool.eq_false_iff.2 hat]; rfl)

end

/-- The requests of a path for a domain that exists. -/
theorem domainRequest_spec {s : State} {p : Path} {n : BitVec 7} {d : DomIx} (hp : s.pathOpen p = true) (hw : s.wardenTakes p = true)
    (hn : n.toNat = d.val) :
    exec (.domainOnRequest p n) s = .next (s.requestOn d) ∧ exec (.domainOffRequest p n) s = .next (s.requestOff d) :=
  ⟨(domainOnRequest_of_takes hp hw).trans (congrArg _ (State.requestDom_on hn)),
    (domainOffRequest_of_takes hp hw).trans (congrArg _ (State.requestDom_off hn))⟩

/-- Settles O56: requests by the domain's state, sequences by their kind, and each step of a sequence by its time. -/
theorem domainSequences : Obligations.DomainSequences := by
  unfold Obligations.DomainSequences
  refine ⟨fun s p n => ⟨fun hp hw hn => ?_, fun hp hw => ⟨domainOnRequest_of_refused hp hw, domainOffRequest_of_refused hp hw⟩,
    fun hp => ⟨domainOnRequest_of_closed hp, domainOffRequest_of_closed hp⟩, fun d hp hw hn => ?_⟩, fun s d => ?_⟩
  · exact ⟨(domainOnRequest_of_takes hp hw).trans (congrArg _ (s.requestDom_of_ge hn true)),
      (domainOffRequest_of_takes hp hw).trans (congrArg _ (s.requestDom_of_ge hn false))⟩
  · obtain ⟨hon, hoff⟩ := domainRequest_spec hp hw hn
    have isSome {o : Option Bool} (h : o ≠ none) : o.isSome = true := Option.isSome_iff_ne_none.2 h
    have notSome {o : Option Bool} (h : o = none) : ¬ o.isSome = true := by rw [h]; decide
    refine ⟨fun h => hon.trans (congrArg _ (State.requestOn_of_not h)), fun h => ⟨fun hst hq => ?_, fun hst hq => ?_, fun hst => ?_,
      fun hst hq => ?_, fun hst => ?_⟩, fun h => hoff.trans (congrArg _ (State.requestOff_of_not h)), fun h => ⟨fun hst hq => ?_,
      fun hst hq => ?_, fun hst => ?_, fun hst => ?_⟩⟩
    · exact ⟨_, hon.trans (congrArg _ ((State.requestOn_of_off h hst).trans (if_neg (notSome hq)))), s.enqueueSeq_spec d true⟩
    · exact hon.trans (congrArg _ ((State.requestOn_of_off h hst).trans (if_pos (isSome hq))))
    · rcases hst with hst | ⟨hst, hq⟩
      · exact ⟨_, hon.trans (congrArg _ (State.requestOn_of_switchingOff h hst)), s.modDom_becomes d _⟩
      · exact ⟨_, hon.trans (congrArg _ ((State.requestOn_of_fenced h hst).trans (if_neg (notSome hq)))), s.modDom_becomes d _⟩
    · exact ⟨_, hon.trans (congrArg _ ((State.requestOn_of_fenced h hst).trans (if_pos (isSome hq)))), s.refence_becomes d rfl⟩
    · exact ⟨_, hon.trans (congrArg _ (State.requestOn_of_up h hst)), s.modDom_becomes d _⟩
    · exact ⟨_, hoff.trans (congrArg _ ((State.requestOff_of_off h hst).trans (if_pos (isSome hq)))), s.dequeueSeq_spec d⟩
    · exact hoff.trans (congrArg _ ((State.requestOff_of_off h hst).trans (if_neg (notSome hq))))
    · exact ⟨_, hoff.trans (congrArg _ (State.requestOff_of_down h hst)), s.modDom_becomes d _⟩
    · exact ⟨_, hoff.trans (congrArg _ (State.requestOff_of_up h hst)), s.modDom_becomes d _⟩
  · have changed (f : Domain → Domain) : onlyDom d s (s.modDom d f) ∧ (s.modDom d f).dom d = f (s.dom d) :=
      ⟨s.modDom_onlyDom d f, State.modDom_dom s d f⟩
    exact ⟨domainSequenceStart_idle, fun _ => domainSequenceStart_on, fun _ => domainSequenceStart_off,
      ⟨fun h => ⟨_, domainStage_up h, changed _⟩, fun h => ⟨_, domainStage_down h, changed _⟩, domainStage_idle⟩,
      ⟨fun h hv => ⟨_, domainRegulated_initialises h hv, changed _⟩, domainRegulated_trains, domainRegulated_idle⟩,
      ⟨domainReady_spec, domainReady_idle⟩, ⟨fun h => ⟨_, domainOff_due h, changed _⟩, domainOff_idle⟩,
      fun ⟨hat, hst, hoff⟩ => ⟨_, domainReversal_on hat hst hoff, s.reversed_spec d _⟩,
      fun ⟨hat, hst, hoff, hseq⟩ => ⟨_, domainReversal_init hat hst hoff hseq, s.reversed_spec d _⟩,
      fun ⟨hat, hst, hon⟩ => ⟨_, domainReversal_off hat hst hon, s.reversed_spec d _⟩, domainReversal_idle⟩

end Sys2Proof.Machine
end

section
/-! PROOFS. Fences, and the ceilings of the fields. -/

namespace Sys2Proof.Machine

/-! ## What leaves with RESUME (R368, R414) -/

section
variable {s : State}

/-- No context numbered `j` has a refused segment parked. -/
def noneParked (j : BitVec 16) (s : State) : Prop := ∀ x, s.ctx? j = some x → x.refusedParked = false

/-- What a grant makes of the contexts it is for. -/
def Ctx.grantsAll (k : Ctx) (now : Nat) (resume : Bool) : Ctx :=
  { k with owed := 0, granted := k.granted + k.owed, lendAt := now, refusedParked := k.refusedParked && !resume }

/-- A grant of all that is owed changes the contexts of its number, and as it leaves when contexts last held their credits. -/
theorem State.grantOwed_ctx (s : State) (k : Ctx) (resume : Bool) : ∃ f : Ctx → Nat, ∀ j, (s.grantOwed k resume).ctx? j =
    (s.ctx? j).map fun z =>
      let y := if z.decl.ctx == k.decl.ctx then z.grantsAll s.now resume else z
      { y with holdAt := f y } := by
  unfold State.grantOwed State.sendGrant
  obtain ⟨f, hf⟩ := (State.sendLink_pumps { (s.modCtx k.decl.ctx fun x => x.grantsAll s.now resume) with
    fab := { (s.modCtx k.decl.ctx fun x => x.grantsAll s.now resume).fab with
      grantTx := bump (s.modCtx k.decl.ctx fun x => x.grantsAll s.now resume).fab.grantTx } }
    k.group (ctxSub k.decl.ctx) _).ctx
  refine ⟨f, fun j => (hf j).trans ?_⟩
  have hmod := State.modCtx_ctx s (h := fun x => x.grantsAll s.now resume) (fun _ => rfl) k.decl.ctx j
  refine (congrArg (Option.map _) hmod).trans ?_
  rw [Option.map_map]
  rfl

/-- The credits a context is owed leave, and its parked segment resumes. -/
theorem State.grantOwed_resumes (s : State) (k : Ctx) : noneParked k.decl.ctx (s.grantOwed k true) := by
  intro x hx
  obtain ⟨f, hf⟩ := s.grantOwed_ctx k true
  obtain ⟨z, hz, rfl⟩ := Option.map_eq_some_iff.1 ((hf _).symm.trans hx)
  have hkey : (z.decl.ctx == k.decl.ctx) = true := beq_iff_eq.2 (State.ctx_ctx hz)
  rw [if_pos hkey]
  exact Bool.and_false _

/-- And no other context's is parked by it. -/
theorem State.grantOwed_keeps_noneParked {j : BitVec 16} (h : noneParked j s) (k : Ctx) : noneParked j (s.grantOwed k true) := by
  intro x hx
  obtain ⟨f, hf⟩ := s.grantOwed_ctx k true
  obtain ⟨z, hz, rfl⟩ := Option.map_eq_some_iff.1 ((hf _).symm.trans hx)
  by_cases hkey : (z.decl.ctx == k.decl.ctx) = true
  · rw [if_pos hkey]
    exact Bool.and_false _
  · rw [if_neg hkey]
    exact h z hz

/-- Every context refused resumes. -/
theorem State.resumeAll_noneParked (s : State) (j : BitVec 16) : noneParked j s.resumeAll := by
  by_cases hp : ∃ y, s.ctx? j = some y ∧ y.refusedParked = true
  · obtain ⟨y, hy, hpark⟩ := hp
    refine foldl_reaches (R := fun _ => True) (P := noneParked j) (x := y) (F := fun s k => State.grantOwed s k true)
      (List.mem_filter.2 ⟨List.mem_of_find?_eq_some hy, hpark⟩) (fun _ _ _ => trivial)
      (fun _ k ht => State.grantOwed_keeps_noneParked ht k) (fun t _ => ?_) s trivial
    exact State.ctx_ctx hy ▸ t.grantOwed_resumes y
  · refine List.foldlRecOn (motive := noneParked j) _ _ (fun x hx => ?_) fun _ ht k _ => State.grantOwed_keeps_noneParked ht k
    exact Bool.eq_false_iff.2 fun e => hp ⟨x, hx, e⟩

theorem State.resumeAll_frame (s : State) :
    s.resumeAll = { s with links := s.resumeAll.links, fab := s.resumeAll.fab, out := s.resumeAll.out } :=
  List.foldlRecOn (motive := fun t : State => t = { s with links := t.links, fab := t.fab, out := t.out })
    (s.fab.ctxs.filter Ctx.refusedParked) (fun s k => State.grantOwed s k true) rfl fun t ht k _ => by
      have hgrant := (t.grantOwed_sendsOnly k true).1
      generalize State.grantOwed t k true = u at hgrant ⊢
      rw [hgrant, ht]

end

/-! ## Fences (R412 to R414) -/

/-- The fence of a domain has been lowered between two states: it is on, and what waited on the mesh and on the rack goes on. -/
structure fenceLowered (d : DomIx) (s u : State) : Prop where
  dom : u.dom d = { s.dom d with st := .on, onReq := false }
  others : ∀ e, e ≠ d → u.dom e = s.dom e
  mesh : u.mesh = s.mesh ++ s.held.map (fun p => { pkt := p, at_ := p.srcField })
  held : u.held = []
  resumed : ∀ j x, u.ctx? j = some x → (∃ y, s.ctx? j = some y) → x.refusedParked = false
  frame : u = { s with pwr := u.pwr, ctl := u.ctl, mesh := u.mesh, held := u.held, fab := u.fab, links := u.links, flt := u.flt, out := u.out }

section
variable (s : State) (d : DomIx)

/-- A change of one domain told to the nodes. -/
theorem State.modDom_tellAll (f : Domain → Domain) (m : CtlMsg) {u : State} (hu : u = (s.modDom d f).tellAll m) :
    u.dom d = f (s.dom d) ∧ (∀ e, e ≠ d → u.dom e = s.dom e) ∧ u = { s with pwr := u.pwr, ctl := u.ctl, flt := u.flt, out := u.out } := by
  have hframe := (s.modDom d f).tellAll_only m
  rw [← hu] at hframe
  have hpwr : u.pwr = (s.modDom d f).pwr := (congrArg State.pwr hframe).trans rfl
  have hdoms (e : DomIx) : u.dom e = (s.modDom d f).dom e := State.dom_congr (congrArg Pwr.dom hpwr) e
  refine ⟨(hdoms d).trans (State.modDom_dom s d f), fun e he => (hdoms e).trans (State.modDom_dom_other s d e f he), ?_⟩
  rw [hframe]; rfl

theorem State.lowerFence_spec : fenceLowered d s (s.lowerFence d) := by
  obtain ⟨hdom, hothers, hframe⟩ := s.modDom_tellAll d (fun k => { k with st := .on, onReq := false }) (fenceMsg d false) rfl
  unfold State.lowerFence
  generalize (s.modDom d fun k => { k with st := .on, onReq := false }).tellAll (fenceMsg d false) = t at *
  have hres := t.resumeAll_frame
  have hnone := t.resumeAll_noneParked
  generalize t.resumeAll = w at *
  have hpwr : w.pwr = t.pwr := (congrArg State.pwr hres).trans rfl
  have hmesh : w.mesh = s.mesh := (congrArg State.mesh hres).trans ((congrArg State.mesh hframe).trans rfl)
  have hheld : w.held = s.held := (congrArg State.held hres).trans ((congrArg State.held hframe).trans rfl)
  have hdoms (e : DomIx) : w.dom e = t.dom e := State.dom_congr (congrArg Pwr.dom hpwr) e
  refine ⟨(hdoms d).trans hdom, fun e he => (hdoms e).trans (hothers e he), ?_, rfl, fun j x hx _ => hnone j x hx, ?_⟩
  · rw [← hmesh, ← hheld]
  · rw [hres, hframe]

theorem State.pastEdge_iff (s : State) (k : Domain) : s.pastEdge k = true ↔ s.gridNow ≠ k.edge := bne_iff_ne

section
variable {s : State} {d : DomIx}

theorem fenceRaise_due (h : (s.dom d).isOn = true ∧ (s.dom d).offReq = true ∧ s.gridNow ≠ (s.dom d).edge) :
    exec (.fenceRaise d) s =
      .next ((s.modDom d fun k => { k with st := .fenced, offReq := false, edge := s.gridNow }).tellAll (fenceMsg d true)) := by
  obtain ⟨hon, hoff, hedge⟩ := h
  refine congrArg Host.Outcome.next (if_pos ?_)
  rw [hon, hoff, (s.pastEdge_iff _).2 hedge]
  rfl

theorem fenceRaise_idle (h : ¬ ((s.dom d).isOn = true ∧ (s.dom d).offReq = true ∧ s.gridNow ≠ (s.dom d).edge)) :
    exec (.fenceRaise d) s = .next s := by
  refine congrArg Host.Outcome.next (if_neg fun e => h ?_)
  simpa only [Bool.and_eq_true, and_assoc, State.pastEdge_iff] using e

section
variable (h : (s.dom d).st = .fenced ∧ (s.dom d).queued = none ∧ s.gridNow ≠ (s.dom d).edge)
include h

/-- Nothing holds the end of a fence back. -/
theorem powerDownStart_open : ¬ ((s.dom d).st != .fenced || (s.dom d).queued.isSome || !s.pastEdge (s.dom d)) = true := by
  obtain ⟨hst, hq, hedge⟩ := h
  rw [hst, hq, (s.pastEdge_iff _).2 hedge]
  decide

theorem powerDownStart_lowers (hon : (s.dom d).onReq = true) : exec (.powerDownStart d) s = .next (s.lowerFence d) :=
  congrArg Host.Outcome.next ((if_neg (powerDownStart_open h)).trans (if_pos hon))

theorem powerDownStart_cuts (hon : (s.dom d).onReq = false) :
    exec (.powerDownStart d) s = .next (match domKind d with
      | .vlnk e => (s.unpowerEdge e).enqueueSeq d false
      | _ => s.enqueueSeq d false) :=
  congrArg Host.Outcome.next ((if_neg (powerDownStart_open h)).trans (if_neg (Bool.eq_false_iff.1 hon)))

/-- Power-down waits its turn; an edge's sublinks go down with it. -/
theorem powerDownStart_spec (hon : (s.dom d).onReq = false) :
    answers (exec (.powerDownStart d) s) fun u => u.dom d = { s.dom d with queued := some false } ∧ (∀ e, e ≠ d → u.dom e = s.dom e) ∧
      u.pwr.wait = s.pwr.wait ++ [(d, false)] ∧ u = { s with pwr := u.pwr, links := u.links } ∧
      (isVlnk d = false → u.links = s.links) ∧ (isVlnk d = true → ∀ g b, vlnk g = d → u.sub g b = (s.sub g b).unpower) := by
  refine ⟨_, powerDownStart_cuts h hon, ?_⟩
  have plain (hv : isVlnk d = false) : (s.enqueueSeq d false).dom d = { s.dom d with queued := some false } ∧
      (∀ e, e ≠ d → (s.enqueueSeq d false).dom e = s.dom e) ∧ (s.enqueueSeq d false).pwr.wait = s.pwr.wait ++ [(d, false)] ∧
      s.enqueueSeq d false = { s with pwr := (s.enqueueSeq d false).pwr, links := (s.enqueueSeq d false).links } ∧
      (isVlnk d = false → (s.enqueueSeq d false).links = s.links) ∧
      (isVlnk d = true → ∀ g b, vlnk g = d → (s.enqueueSeq d false).sub g b = (s.sub g b).unpower) := by
    obtain ⟨⟨_, hothers⟩, hdom, hwait⟩ := s.enqueueSeq_spec d false
    exact ⟨hdom, hothers, hwait, rfl, fun _ => rfl, fun e => absurd e (Bool.eq_false_iff.1 hv)⟩
  have notVlnk (hk : ∀ e, domKind d ≠ .vlnk e) : isVlnk d = false := Bool.eq_false_iff.2 fun e => ((isVlnk_iff d).1 e).elim hk
  cases hk : domKind d with
  | vlog f => exact plain (notVlnk fun e => by rw [hk]; nofun)
  | varr b => exact plain (notVlnk fun e => by rw [hk]; nofun)
  | vmif b => exact plain (notVlnk fun e => by rw [hk]; nofun)
  | vlnk e =>
    dsimp only
    have hframe := s.unpowerEdge_frame e
    have hsub := s.unpowerEdge_sub e
    generalize s.unpowerEdge e = t at *
    obtain ⟨⟨hqframe, hothers⟩, hdom, hwait⟩ := t.enqueueSeq_spec d false
    have hpwr : t.pwr = s.pwr := (congrArg State.pwr hframe).trans rfl
    have hdoms (x : DomIx) : t.dom x = s.dom x := State.dom_congr (congrArg Pwr.dom hpwr) x
    refine ⟨hdom.trans (by rw [hdoms]), fun x hx => (hothers x hx).trans (hdoms x), hwait.trans (by rw [hpwr]), ?_, fun hv => ?_,
      fun _ g b hg => ?_⟩
    · rw [hqframe, hframe]
    · exact absurd ((isVlnk_iff d).2 ⟨e, hk⟩) (Bool.eq_false_iff.1 hv)
    · have hedge : groupEdge g = e := DomKind.vlnk.inj ((domKind_vlnk g).symm.trans ((congrArg domKind hg).trans hk))
      exact (hsub g b).trans (if_pos hedge)

end

theorem powerDownStart_idle (h : ¬ ((s.dom d).st = .fenced ∧ (s.dom d).queued = none ∧ s.gridNow ≠ (s.dom d).edge)) :
    exec (.powerDownStart d) s = .next s := by
  refine congrArg Host.Outcome.next (if_pos (Classical.byContradiction fun e => h ?_))
  simpa [State.pastEdge, and_assoc] using e

theorem fenceLower_due (h : (s.dom d).st = .onFenced ∧ (s.dom d).offReq = false ∧ s.gridNow ≠ (s.dom d).edge) :
    exec (.fenceLower d) s = .next (s.lowerFence d) := by
  obtain ⟨hst, hoff, hedge⟩ := h
  refine congrArg Host.Outcome.next (if_pos ?_)
  rw [hst, hoff, (s.pastEdge_iff _).2 hedge]
  rfl

theorem fenceLower_idle (h : ¬ ((s.dom d).st = .onFenced ∧ (s.dom d).offReq = false ∧ s.gridNow ≠ (s.dom d).edge)) :
    exec (.fenceLower d) s = .next s := by
  refine congrArg Host.Outcome.next (if_neg fun e => h ?_)
  simpa only [Bool.and_eq_true, beq_iff_eq, Bool.not_eq_true', and_assoc, State.pastEdge_iff] using e

end

end

/-! ## Zone ceilings (R417 to R422) -/

section
variable (s : State) (f : FieldIx)

/-- The ceiling imposed on a field does not depend on the one it has. -/
theorem State.zoneCeilOf_congr {s t : State} {f : FieldIx} (hdom : t.pwr.dom = s.pwr.dom) (hclamp : (t.field f).clampCeil = (s.field f).clampCeil)
    (hgov : (t.field f).govCeil = (s.field f).govCeil) : t.zoneCeilOf f = s.zoneCeilOf f := by
  have hphase : t.zonePhaseCeil = s.zonePhaseCeil := funext fun d => by
    unfold State.zonePhaseCeil; rw [State.dom_congr hdom]
  unfold State.zoneCeilOf State.fieldPhaseCeil
  rw [hphase, hclamp, hgov]

/-- A field's ceiling taken anew: the field has the one imposed on it, and nothing else of it changes. -/
theorem State.refreshCeil_spec : s.refreshCeil f = { s with fields := (s.refreshCeil f).fields, flt := (s.refreshCeil f).flt, out := (s.refreshCeil f).out } ∧
    (∀ h, h ≠ f → (s.refreshCeil f).field h = s.field h) ∧ (s.refreshCeil f).field f = { s.field f with zoneCeil := s.zoneCeilOf f } := by
  unfold State.refreshCeil
  by_cases h : s.zoneCeilOf f = (s.field f).zoneCeil
  · dsimp only
    rw [if_pos h]
    exact ⟨rfl, fun _ _ => rfl, by rw [h]⟩
  · dsimp only
    rw [if_neg h, State.logEvent_only]
    exact ⟨rfl, fun _ hne => State.modField_field_other s f _ _ hne, State.modField_field s f _⟩

/-- A field's ceiling taken anew after a change of the field. -/
theorem State.refreshCeil_modField (g : Field → Field) {u : State} (hu : u = (s.modField f g).refreshCeil f) :
    u = { s with fields := u.fields, flt := u.flt, out := u.out } ∧ (∀ h, h ≠ f → u.field h = s.field h) ∧
      (u.field f).zoneCeil = u.zoneCeilOf f ∧ u.field f = { g (s.field f) with zoneCeil := u.zoneCeilOf f } := by
  obtain ⟨hframe, hothers, hfield⟩ := (s.modField f g).refreshCeil_spec f
  rw [← hu] at hframe hothers hfield
  rw [State.modField_field] at hfield
  have hpwr : u.pwr = s.pwr := (congrArg State.pwr hframe).trans rfl
  have hceil : u.zoneCeilOf f = (s.modField f g).zoneCeilOf f :=
    State.zoneCeilOf_congr (congrArg Pwr.dom hpwr) (by rw [hfield, State.modField_field]) (by rw [hfield, State.modField_field])
  rw [hceil, hfield]
  exact ⟨hframe.trans rfl, fun h hne => (hothers h hne).trans (State.modField_field_other s f h g hne), rfl, rfl⟩

end

section
variable {s : State} {f : FieldIx} {ns : Nat}

theorem droopClamp_lowers (h : 1000 < clampTotal s.now ((s.now, ns) :: (s.field f).clampActs.filter fun x => decide (s.now < x.1 + 20000))) :
    exec (.droopClamp f ns) s = .next ((s.modField f fun k =>
      { k with clampAt := s.now, clampActs := [], clampCeil := max 4 (min k.clampCeil (s.zonePhaseCeil (vlog f)) - 1) }).refreshCeil f) :=
  congrArg Host.Outcome.next (if_pos h)

theorem droopClamp_notes (h : clampTotal s.now ((s.now, ns) :: (s.field f).clampActs.filter fun x => decide (s.now < x.1 + 20000)) ≤ 1000) :
    exec (.droopClamp f ns) s = .next (s.modField f fun k =>
      { k with clampAt := s.now, clampActs := (s.now, ns) :: (s.field f).clampActs.filter fun x => decide (s.now < x.1 + 20000) }) :=
  congrArg Host.Outcome.next (if_neg (Nat.not_lt.2 h))

theorem clampCeilingRaise_due (h : (s.field f).clampCeil < s.zonePhaseCeil (vlog f) ∧ (s.field f).clampAt + 1000000 ≤ s.now) :
    exec (.clampCeilingRaise f) s =
      .next ((s.modField f fun k => { k with clampCeil := k.clampCeil + 1, clampAt := s.now }).refreshCeil f) := by
  refine congrArg Host.Outcome.next (if_neg ?_)
  rw [Bool.or_eq_true, decide_eq_true_eq, decide_eq_true_eq]
  omega

theorem clampCeilingRaise_idle (h : ¬ ((s.field f).clampCeil < s.zonePhaseCeil (vlog f) ∧ (s.field f).clampAt + 1000000 ≤ s.now)) :
    exec (.clampCeilingRaise f) s = .next s := by
  refine congrArg Host.Outcome.next (if_pos ?_)
  rw [Bool.or_eq_true, decide_eq_true_eq, decide_eq_true_eq]
  omega

end

/-! ## A lost phase (R418) -/

section
variable (s : State) (fs : List FieldIx)

/-- The ceilings of fields taken anew. -/
def State.refreshAll : State := fs.foldl (fun s f => s.refreshCeil f) s

theorem State.refreshAll_frame :
    s.refreshAll fs = { s with fields := (s.refreshAll fs).fields, flt := (s.refreshAll fs).flt, out := (s.refreshAll fs).out } :=
  List.foldlRecOn (motive := fun t : State => t = { s with fields := t.fields, flt := t.flt, out := t.out }) fs
    (fun s f => State.refreshCeil s f) rfl fun t ht f _ => by
      have hframe := (t.refreshCeil_spec f).1
      generalize t.refreshCeil f = u at hframe ⊢
      rw [hframe, ht]

/-- A field that is not among them stays. -/
theorem State.refreshAll_field_of_not_mem {f : FieldIx} (h : f ∉ fs) : (s.refreshAll fs).field f = s.field f :=
  foldl_view (view := fun t : State => t.field f) fs s fun t g hg => (t.refreshCeil_spec g).2.1 f fun e => h (e ▸ hg)

/-- A field's ceiling is the one imposed on it. -/
def State.ceilSettled (t : State) (f : FieldIx) : Prop := (t.field f).zoneCeil = t.zoneCeilOf f

theorem State.refreshCeil_zoneCeilOf (t : State) (g f : FieldIx) : (t.refreshCeil g).zoneCeilOf f = t.zoneCeilOf f := by
  obtain ⟨hframe, hothers, hfield⟩ := t.refreshCeil_spec g
  have hpwr : (t.refreshCeil g).pwr = t.pwr := (congrArg State.pwr hframe).trans rfl
  by_cases hfg : f = g
  · rw [hfg]
    exact State.zoneCeilOf_congr (congrArg Pwr.dom hpwr) (by rw [hfield]) (by rw [hfield])
  · exact State.zoneCeilOf_congr (congrArg Pwr.dom hpwr) (congrArg Field.clampCeil (hothers f hfg)) (congrArg Field.govCeil (hothers f hfg))

theorem State.refreshCeil_settles (t : State) (f : FieldIx) : (t.refreshCeil f).ceilSettled f :=
  (congrArg Field.zoneCeil (t.refreshCeil_spec f).2.2).trans (t.refreshCeil_zoneCeilOf f f).symm

theorem State.refreshCeil_keeps_settled {t : State} {f : FieldIx} (h : t.ceilSettled f) (g : FieldIx) : (t.refreshCeil g).ceilSettled f := by
  by_cases hfg : f = g
  · exact hfg ▸ t.refreshCeil_settles f
  · exact (congrArg Field.zoneCeil ((t.refreshCeil_spec g).2.1 f hfg)).trans (h.trans (t.refreshCeil_zoneCeilOf g f).symm)

theorem State.refreshAll_settles {f : FieldIx} (h : f ∈ fs) : (s.refreshAll fs).ceilSettled f :=
  foldl_reaches (R := fun _ => True) (P := fun t : State => t.ceilSettled f) h (fun _ _ _ => trivial)
    (fun _ g ht => State.refreshCeil_keeps_settled ht g) (fun t _ => t.refreshCeil_settles f) s trivial

end

/-- A phase lost: the ceilings of the fields that its zone feeds follow. -/
theorem phaseFault_spec (s : State) (d : DomIx) (f : FieldIx) :
    answers (exec (.phaseFault d) s) fun u => (∀ e, e ≠ d → u.dom e = s.dom e) ∧
      u.dom d = { s.dom d with lostPh := min (zonePhases d) ((s.dom d).lostPh + 1) } ∧
      (feeds d f = true → (u.field f).zoneCeil = u.zoneCeilOf f) ∧ (feeds d f = false → u.field f = s.field f) ∧
      u = { s with pwr := u.pwr, fields := u.fields, flt := u.flt, out := u.out } := by
  refine ⟨(s.modDom d fun k => { k with lostPh := min (zonePhases d) (k.lostPh + 1) }).refreshAll
    ((List.finRange 64).filter fun f => feeds d f), rfl, ?_⟩
  obtain ⟨hdframe, hothers⟩ := s.modDom_onlyDom d fun k => { k with lostPh := min (zonePhases d) (k.lostPh + 1) }
  have hdom := State.modDom_dom s d fun k => { k with lostPh := min (zonePhases d) (k.lostPh + 1) }
  have hfield : (s.modDom d fun k => { k with lostPh := min (zonePhases d) (k.lostPh + 1) }).field f = s.field f := rfl
  generalize (s.modDom d fun k => { k with lostPh := min (zonePhases d) (k.lostPh + 1) }) = t at *
  have hframe := t.refreshAll_frame ((List.finRange 64).filter fun f => feeds d f)
  have hpwr : (t.refreshAll ((List.finRange 64).filter fun f => feeds d f)).pwr = t.pwr := (congrArg State.pwr hframe).trans rfl
  have hdoms (e : DomIx) : (t.refreshAll ((List.finRange 64).filter fun f => feeds d f)).dom e = t.dom e :=
    State.dom_congr (congrArg Pwr.dom hpwr) e
  refine ⟨fun e he => (hdoms e).trans (hothers e he), (hdoms d).trans hdom, fun h => ?_, fun h => ?_, ?_⟩
  · exact t.refreshAll_settles _ (List.mem_filter.2 ⟨List.mem_finRange f, h⟩)
  · exact (t.refreshAll_field_of_not_mem _ fun e => absurd (List.mem_filter.1 e).2 (Bool.eq_false_iff.1 h)).trans hfield
  · rw [hframe, hdframe]

/-! ## The governor (R419, R420) -/

/-- The limit that SUSTAIN_KW sets is above 0. -/
theorem sustainW_pos (w : W32) : 0 < sustainW w := by unfold sustainW; omega

theorem State.logContention_frame (s : State) (c : CoreIx) :
    s.logContention c = { s with flt := (s.logContention c).flt, out := (s.logContention c).out } := by
  unfold State.logContention
  split
  · rfl
  · rw [State.coreEvent_only]

theorem State.logContentions_frame (s : State) (cs : List CoreIx) :
    cs.foldl (fun s c => State.logContention s c) s =
      { s with flt := (cs.foldl (fun s c => State.logContention s c) s).flt, out := (cs.foldl (fun s c => State.logContention s c) s).out } :=
  List.foldlRecOn (motive := fun t : State => t = { s with flt := t.flt, out := t.out }) cs _ rfl fun t ht c _ => by
    have hframe := t.logContention_frame c
    generalize t.logContention c = u at hframe ⊢
    rw [hframe, ht]

/-- A governor's ceiling lowered: the field's ceiling follows, and a contention with a floor is counted. -/
theorem State.govLower_spec (s : State) (f : FieldIx) (n : Nat) {u : State} (hu : u = s.govLower f n) :
    (∀ h, h ≠ f → u.field h = s.field h) ∧ (u.field f).zoneCeil = u.zoneCeilOf f ∧ (u.field f).govCeil = n ∧ u.cores = s.cores ∧
      u.pwr = { s.pwr with policy := if s.floorsAbove f n = [] then s.pwr.policy else bump s.pwr.policy } := by
  unfold State.govLower at hu
  obtain ⟨hframe, hothers, hceil, hfield⟩ := s.refreshCeil_modField f (fun k => { k with govCeil := n }) rfl
  generalize (s.modField f fun k => { k with govCeil := n }).refreshCeil f = t at *
  have hlogs := State.logContentions_frame
    (if (s.floorsAbove f n).isEmpty then t else { t with pwr := { t.pwr with policy := bump t.pwr.policy } }) (s.floorsAbove f n)
  rw [← hu] at hlogs
  have htp : t.pwr = s.pwr := (congrArg State.pwr hframe).trans rfl
  have htc : t.cores = s.cores := (congrArg State.cores hframe).trans rfl
  by_cases hnil : s.floorsAbove f n = []
  · rw [if_pos (List.isEmpty_iff.2 hnil)] at hlogs
    have hpwr : u.pwr = t.pwr := (congrArg State.pwr hlogs).trans rfl
    have hf (h : FieldIx) : u.field h = t.field h := (congrArg (fun x : State => x.field h) hlogs).trans rfl
    rw [if_pos hnil]
    exact ⟨fun h hne => (hf h).trans (hothers h hne), by
      rw [State.zoneCeilOf_congr (congrArg Pwr.dom hpwr) (congrArg Field.clampCeil (hf f)) (congrArg Field.govCeil (hf f)), hf, hceil],
      by rw [hf, hfield], ((congrArg State.cores hlogs).trans rfl).trans htc, hpwr.trans htp⟩
  · rw [if_neg (fun e => hnil (List.isEmpty_iff.1 e))] at hlogs
    have hpwr : u.pwr = { t.pwr with policy := bump t.pwr.policy } := (congrArg State.pwr hlogs).trans rfl
    have hf (h : FieldIx) : u.field h = t.field h := (congrArg (fun x : State => x.field h) hlogs).trans rfl
    rw [if_neg hnil]
    exact ⟨fun h hne => (hf h).trans (hothers h hne), by
      rw [State.zoneCeilOf_congr (t := u) (s := t) ((congrArg Pwr.dom hpwr).trans rfl) (congrArg Field.clampCeil (hf f))
        (congrArg Field.govCeil (hf f)), hf, hceil],
      by rw [hf, hfield], ((congrArg State.cores hlogs).trans rfl).trans htc, hpwr.trans (by rw [htp])⟩

/-- The governor's count of ticks to spare restarts. -/
def State.unheld (s : State) : State := { s with pwr := { s.pwr with govHold := 0 } }

section
variable {s : State} {f : FieldIx} {w10 w1 : Nat}

theorem governorTick_fast (h : 38000 ≤ w10) :
    exec (.governorTick w10 w1 f) s = .next (s.unheld.govLower f (max 4 ((s.field f).zoneCeil - 1))) :=
  congrArg Host.Outcome.next (if_pos (decide_eq_true h))

section
variable (h : w10 < 38000)
include h

theorem governorTick_fast_not : ¬ decide (38000 ≤ w10) = true := by rw [decide_eq_true_eq]; omega

theorem governorTick_slow (hlim : sustainW s.cfg.active.budget ≤ w1) :
    exec (.governorTick w10 w1 f) s = .next (if (s.floorsAbove f (max 4 ((s.field f).zoneCeil - 1))).isEmpty then
      s.unheld.govLower f (max 4 ((s.field f).zoneCeil - 1)) else s.unheld) :=
  congrArg Host.Outcome.next ((if_neg (governorTick_fast_not h)).trans (if_pos (decide_eq_true hlim)))

theorem governorTick_between (hlim : w1 < sustainW s.cfg.active.budget)
    (hspare : ¬ (100 * w10 ≤ 95 * 38000 ∧ 100 * w1 ≤ 95 * sustainW s.cfg.active.budget)) :
    exec (.governorTick w10 w1 f) s = .next s.unheld := by
  refine congrArg Host.Outcome.next ((if_neg (governorTick_fast_not h)).trans ((if_neg ?_).trans (if_neg fun e => hspare ?_)))
  · rw [decide_eq_true_eq]; omega
  · simpa only [Bool.and_eq_true, decide_eq_true_eq] using e

end

/-- With power to spare the ticks are counted, and at 50 a ceiling rises. -/
theorem governorTick_spare (h : 100 * w10 ≤ 95 * 38000 ∧ 100 * w1 ≤ 95 * sustainW s.cfg.active.budget) :
    exec (.governorTick w10 w1 f) s = .next (if 50 ≤ s.pwr.govHold + 1 then s.unheld.govRaise else
      { s with pwr := { s.pwr with govHold := s.pwr.govHold + 1 } }) := by
  obtain ⟨h10, h1⟩ := h
  have hpos := sustainW_pos s.cfg.active.budget
  refine congrArg Host.Outcome.next ((if_neg ?_).trans ((if_neg ?_).trans (if_pos ?_)))
  · rw [decide_eq_true_eq]; omega
  · rw [decide_eq_true_eq]; omega
  · rw [Bool.and_eq_true, decide_eq_true_eq, decide_eq_true_eq]; exact ⟨h10, h1⟩

theorem State.govRaise_of_none (h : s.govLowest = none) : s.govRaise = s := by rw [State.govRaise, h]

theorem State.govRaise_of_some {g : FieldIx} (h : s.govLowest = some g) :
    s.govRaise = (s.modField g fun k => { k with govCeil := k.govCeil + 1 }).refreshCeil g := by rw [State.govRaise, h]

/-- The governor's ceiling lowered as a tick lowers it. -/
theorem State.unheld_govLower_spec (s : State) (f : FieldIx) (n : Nat) {u : State} (hu : u = s.unheld.govLower f n) :
    ((∀ i, i ≠ f → u.field i = s.field i) ∧ (u.field f).zoneCeil = u.zoneCeilOf f) ∧ (u.field f).govCeil = n ∧ u.cores = s.cores ∧
      u.pwr = { s.pwr with govHold := 0, policy := if s.floorsAbove f n = [] then s.pwr.policy else bump s.pwr.policy } := by
  obtain ⟨hothers, hceil, hgov, hcores, hpwr⟩ := s.unheld.govLower_spec f n hu
  exact ⟨⟨hothers, hceil⟩, hgov, hcores, hpwr⟩

/-- A ceiling raised as a tick raises it. -/
theorem State.unheld_govRaise_spec {g : FieldIx} (h : s.govLowest = some g) {u : State} (hu : u = s.unheld.govRaise) :
    ((∀ i, i ≠ g → u.field i = s.field i) ∧ (u.field g).zoneCeil = u.zoneCeilOf g) ∧ (u.field g).govCeil = (s.field g).govCeil + 1 ∧
      u.pwr = { s.pwr with govHold := 0 } := by
  obtain ⟨hframe, hothers, hceil, hfield⟩ := s.unheld.refreshCeil_modField g _ (hu.trans (State.govRaise_of_some h))
  exact ⟨⟨hothers, hceil⟩, congrArg Field.govCeil hfield, (congrArg State.pwr hframe).trans rfl⟩

end

/-- Settles O57: fences by the boundary after their request, ceilings by what imposes them. -/
theorem fencesAndCeilings : Obligations.FencesAndCeilings := by
  unfold Obligations.FencesAndCeilings
  refine ⟨fun s d => ?_, fun s d f ns w10 w1 => ?_⟩
  · have lowered {o : Host.Outcome State Fault Refusal} (ho : o = .next (s.lowerFence d)) : answers o fun u =>
        u.dom d = { s.dom d with st := .on, onReq := false } ∧ (∀ e, e ≠ d → u.dom e = s.dom e) ∧
        u.mesh = s.mesh ++ s.held.map (fun p => { pkt := p, at_ := p.srcField }) ∧ u.held = [] ∧
        (∀ j x, u.ctx? j = some x → (∃ y, s.ctx? j = some y) → x.refusedParked = false) ∧
        u = { s with pwr := u.pwr, ctl := u.ctl, mesh := u.mesh, held := u.held, fab := u.fab, links := u.links, flt := u.flt, out := u.out } := by
      obtain ⟨hdom, hothers, hmesh, hheld, hres, hframe⟩ := s.lowerFence_spec d
      exact ⟨_, ho, hdom, hothers, hmesh, hheld, hres, hframe⟩
    exact ⟨fun h => ⟨_, fenceRaise_due h, s.modDom_tellAll d _ _ rfl⟩, fenceRaise_idle, powerDownStart_spec,
      fun h hon => lowered (powerDownStart_lowers h hon), powerDownStart_idle, fun h => lowered (fenceLower_due h), fenceLower_idle⟩
  · refine ⟨fun h => ?_, fun h => ?_, fun h => ?_, clampCeilingRaise_idle, phaseFault_spec s d f, fun h => ?_, fun h hlim hnil => ?_,
      fun h hlim hcons => ?_, fun h hlt => ?_, fun h hle hnone => ?_, fun g h hle hsome => ?_, governorTick_between⟩
    · refine ⟨_, droopClamp_lowers h, ?_⟩
      obtain ⟨hframe, hothers, hceil, hfield⟩ := s.refreshCeil_modField f _ rfl
      exact ⟨hframe, ⟨hothers, hceil⟩, congrArg Field.clampCeil hfield, congrArg Field.clampAt hfield, congrArg Field.clampActs hfield⟩
    · exact ⟨_, droopClamp_notes h, s.modField_onlyField f _, State.modField_field s f _⟩
    · refine ⟨_, clampCeilingRaise_due h, ?_⟩
      obtain ⟨hframe, hothers, hceil, hfield⟩ := s.refreshCeil_modField f _ rfl
      exact ⟨hframe, ⟨hothers, hceil⟩, congrArg Field.clampCeil hfield, congrArg Field.clampAt hfield⟩
    · exact ⟨_, governorTick_fast h, s.unheld_govLower_spec f _ rfl⟩
    · exact ⟨_, (governorTick_slow h hlim).trans (congrArg _ (if_pos (List.isEmpty_iff.2 hnil))), s.unheld_govLower_spec f _ rfl⟩
    · exact (governorTick_slow h hlim).trans (congrArg _ (if_neg fun e => hcons (List.isEmpty_iff.1 e)))
    · exact (governorTick_spare h).trans (congrArg _ (if_neg (Nat.not_le.2 hlt)))
    · exact (governorTick_spare h).trans (congrArg _ ((if_pos hle).trans (State.govRaise_of_none (s := s.unheld) hnone)))
    · exact ⟨_, (governorTick_spare h).trans (congrArg _ (if_pos hle)), State.unheld_govRaise_spec hsome rfl⟩

end Sys2Proof.Machine
end

section
/-! PROOFS. Sensors and shutdown. -/

namespace Sys2Proof.Machine

/-- A bit of FLT_SERVICE that an event sets is set. -/
theorem State.service_getLsbD (s : State) {b : Nat} (hb : b < 10) : (s.service b).flt.service.getLsbD b = true := by
  unfold State.service
  rw [BitVec.getLsbD_or, BitVec.getLsbD_ofNat, Nat.testBit_two_pow_self, decide_eq_true hb]
  simp

/-- A core's event is in the log. -/
theorem State.coreEvent_logged (s : State) (c : CoreIx) (cls unit loc : Nat) (d : List Byte) :
    ∃ x ∈ (s.coreEvent c cls unit loc d).flt.log, x.code = faultCode cls unit loc := by
  obtain ⟨x, hx, hcode, -⟩ := s.logHolds_logEvent cls unit loc kCore c.val d
  exact ⟨x, hx, hcode⟩

/-- What changes one core alone. -/
theorem State.modCore_onlyCore (s : State) (c : CoreIx) (f : Core → Core) : onlyCore c s (s.modCore c f) :=
  ⟨rfl, fun d hd => State.modCore_core_other s c d f hd⟩

/-! ## A core's sensors (R423, R424) -/

/-- The timers of a core run while its readings say so. -/
theorem Core.heat_timers (k : Core) (now : Nat) :
    ((k.heat now).coolSince.isSome = true ↔ (k.heat now).hot < coolLimit) ∧
      ((k.heat now).hotSince.isSome = true ↔ hotLimit ≤ (k.heat now).hot ∧ (k.heat now).therm = (k.heat now).floor) := by
  have hhot : (k.heat now).hot = k.hot := rfl
  rw [hhot]
  unfold Core.heat
  dsimp only
  constructor
  · by_cases h : k.hot < coolLimit
    · simp [h]
    · simp [h]
  · by_cases h : hotLimit ≤ k.hot ∧ k.therm = k.floor
    · simp only [if_pos h, Option.isSome_some, true_iff]
      exact h
    · simp only [if_neg h, Option.isSome_none, Bool.false_eq_true, false_iff]
      exact h

/-- A reading taken. -/
def Sense.taken (z : Sense) (x : Int) (now : Nat) : Sense := { z with reading := x, changed := if z.reading = x then z.changed else now }

section
variable {s : State} {c : CoreIx} {i : Fin 4} {x : Int}

theorem sensorRead_of_failed (h : (s.core c).sensors[i].failed = true) : exec (.sensorRead (.core c i) x) s = .next s :=
  congrArg Host.Outcome.next (if_pos h)

section
variable (h : (s.core c).sensors[i].failed = false)
include h

theorem sensorRead_of_broken (hb : senseBad x = true ∨ senseStuck s.now (s.core c).sensors[i] x (s.core c).levelAt = true) :
    exec (.sensorRead (.core c i) x) s = .next ((s.failSensor c i).modCore c fun y => y.heat s.now) :=
  congrArg Host.Outcome.next ((if_neg (Bool.eq_false_iff.1 h)).trans (if_pos (by rw [Bool.or_eq_true]; exact hb)))

theorem sensorRead_of_sound (hb : ¬ (senseBad x = true ∨ senseStuck s.now (s.core c).sensors[i] x (s.core c).levelAt = true)) :
    exec (.sensorRead (.core c i) x) s = .next (s.modCore c fun y =>
      ({ y with sensors := y.sensors.set i ((s.core c).sensors[i].taken x s.now) }).heat s.now) :=
  congrArg Host.Outcome.next ((if_neg (Bool.eq_false_iff.1 h)).trans (if_neg (by rw [Bool.or_eq_true]; exact hb)))

end

/-- A change of a core with its event. -/
theorem State.modCore_coreEvent (s : State) (c : CoreIx) (f : Core → Core) (cls unit loc : Nat) (l : List Byte) {t : State}
    (ht : t = (s.modCore c f).coreEvent c cls unit loc l) :
    t.core c = f (s.core c) ∧ (∀ d, d ≠ c → t.core d = s.core d) ∧ t = { s with cores := t.cores, flt := t.flt, out := t.out } ∧
      ∃ e ∈ t.flt.log, e.code = faultCode cls unit loc := by
  have hframe := State.coreEvent_only (s.modCore c f) c cls unit loc l
  have hlog := (s.modCore c f).coreEvent_logged c cls unit loc l
  rw [← ht] at hframe hlog
  have hcores : t.cores = (s.modCore c f).cores := (congrArg State.cores hframe).trans rfl
  have hcore (d : CoreIx) : t.core d = (s.modCore c f).core d := congrArg (fun v : Vector Core 256 => v[d]) hcores
  refine ⟨(hcore c).trans (State.modCore_core s c f), fun d hd => (hcore d).trans (State.modCore_core_other s c d f hd), ?_, hlog⟩
  rw [hcores]
  exact hframe

/-- A sensor marked failed and logged; a core left with too few is held at level 4, and the module calls for service. -/
theorem State.failSensor_spec (s : State) (c : CoreIx) (i : Fin 4) {u : State} (hu : u = s.failSensor c i) :
    (u.core c).sensors = upd (s.core c).sensors i (fun y => { y with failed := true }) ∧ (∀ d, d ≠ c → u.core d = s.core d) ∧
      u = { s with cores := u.cores, flt := u.flt, out := u.out } ∧ (∃ e ∈ u.flt.log, e.code = faultCode 0 8 5) ∧
      ((u.core c).blind = true → (u.core c).therm = 4 ∧ u.flt.service.getLsbD 6 = true) ∧
      ((u.core c).blind = false → (u.core c).therm = (s.core c).therm) := by
  unfold State.failSensor at hu
  dsimp only at hu
  obtain ⟨hcore, hother, hframe, hlog⟩ :=
    s.modCore_coreEvent c (fun x => { x with sensors := upd x.sensors i fun y => { y with failed := true } }) 0 8 5 [BitVec.ofNat 8 i.val] rfl
  generalize (s.modCore c fun x => { x with sensors := upd x.sensors i fun y => { y with failed := true } }).coreEvent c 0 8 5
    [BitVec.ofNat 8 i.val] = t at *
  by_cases hb : (t.core c).blind = true
  · rw [if_pos hb] at hu
    have hu' : u.core c = { t.core c with therm := 4 } := by rw [hu]; exact State.modCore_core t c _
    have hsv := (t.modCore c fun x => { x with therm := 4 }).service_getLsbD (b := svSensor) (by decide)
    rw [← hu] at hsv
    have hblind : (u.core c).blind = true := by rw [hu']; exact hb
    refine ⟨by rw [hu', hcore], fun d hd => ?_, ?_, by rw [hu]; exact hlog, fun _ => ⟨by rw [hu'], hsv⟩, fun e => ?_⟩
    · rw [hu]; exact (State.modCore_core_other t c d _ hd).trans (hother d hd)
    · rw [hu, hframe]; rfl
    · rw [hblind] at e; cases e
  · rw [if_neg hb] at hu
    rw [hu]
    exact ⟨by rw [hcore], hother, hframe, hlog, fun e => absurd e hb, fun _ => by rw [hcore]⟩

/-- A broken sensor is marked, beside the timers of its core. -/
theorem State.failSensor_heat (s : State) (c : CoreIx) (i : Fin 4) {u : State} (hu : u = (s.failSensor c i).modCore c fun y => y.heat s.now) :
    ((u.core c).sensors[i]).failed = true ∧ (∀ d, d ≠ c → u.core d = s.core d) ∧
      u = { s with cores := u.cores, flt := u.flt, out := u.out } ∧ (∃ e ∈ u.flt.log, e.code = faultCode 0 8 5) ∧
      ((u.core c).blind = true → (u.core c).therm = 4 ∧ u.flt.service.getLsbD 6 = true) ∧
      ((u.core c).blind = false → (u.core c).therm = (s.core c).therm) := by
  obtain ⟨hsens, hother, hframe, hlog, hblind, hsound⟩ := s.failSensor_spec c i rfl
  generalize s.failSensor c i = t at *
  have hcore : u.core c = (t.core c).heat s.now := by rw [hu]; exact State.modCore_core t c _
  have hflt : u.flt = t.flt := by rw [hu]; rfl
  have hb : (u.core c).blind = (t.core c).blind := by rw [hcore]; rfl
  have htherm : (u.core c).therm = (t.core c).therm := by rw [hcore]; rfl
  refine ⟨?_, fun d hd => ?_, ?_, by rw [hflt]; exact hlog, fun h => ?_, fun h => htherm.trans (hsound (hb.symm.trans h))⟩
  · have hs : (u.core c).sensors = (t.core c).sensors := by rw [hcore]; rfl
    rw [hs, hsens]
    exact congrArg Sense.failed (upd_same _ i _)
  · rw [hu]; exact (State.modCore_core_other t c d _ hd).trans (hother d hd)
  · rw [hu, hframe]; rfl
  · rw [htherm, hflt]; exact hblind (hb.symm.trans h)

end

/-! ## A stack's sensor (R238, R424) -/

/-- A stack's reading is taken, and one outside its range is logged once. -/
theorem State.readStackSensor_spec (s : State) (f : FieldIx) (x : Int) {u : State} (hu : u = s.readStackSensor f x) :
    u = { s with fields := u.fields, flt := u.flt, out := u.out } ∧ (∀ h, h ≠ f → u.field h = s.field h) ∧ (u.field f).stkTemp = x ∧
      ((u.field f).stkCool = none ↔ 332 ≤ x) ∧ (senseBad x = true → (u.field f).stkFailed = true) ∧
      (senseBad x = true → (s.field f).stkFailed = false → ∃ e ∈ u.flt.log, e.code = faultCode 0 8 5) := by
  unfold State.readStackSensor at hu
  dsimp only at hu
  have hfield := State.modField_field s f fun k =>
    { k with stkTemp := x, stkCool := if x < 332 then some (k.stkCool.getD s.now) else none, stkFailed := k.stkFailed || senseBad x }
  have hother := fun h hne => State.modField_field_other s f h (fun k =>
    { k with stkTemp := x, stkCool := if x < 332 then some (k.stkCool.getD s.now) else none, stkFailed := k.stkFailed || senseBad x }) hne
  obtain ⟨hframe, -⟩ := s.modField_onlyField f fun k =>
    { k with stkTemp := x, stkCool := if x < 332 then some (k.stkCool.getD s.now) else none, stkFailed := k.stkFailed || senseBad x }
  generalize (s.modField f fun k =>
    { k with stkTemp := x, stkCool := if x < 332 then some (k.stkCool.getD s.now) else none, stkFailed := k.stkFailed || senseBad x }) = t at *
  have hcool : (t.field f).stkCool = none ↔ 332 ≤ x := by
    rw [hfield]
    dsimp only
    split
    · simp; omega
    · simp; omega
  have hbad (h : senseBad x = true) : (t.field f).stkFailed = true := by rw [hfield, h]; exact Bool.or_true _
  by_cases hlogs : (senseBad x && !(s.field f).stkFailed) = true
  · rw [if_pos hlogs] at hu
    have honly := t.logEvent_only 0 8 5 kField f.val []
    rw [← hu] at honly
    have hfields (h : FieldIx) : u.field h = t.field h := (congrArg (fun w : State => w.field h) honly).trans rfl
    obtain ⟨e, he, hcode, -⟩ := t.logHolds_logEvent 0 8 5 kField f.val []
    rw [hfields f]
    exact ⟨by rw [honly, hframe], fun h hne => (hfields h).trans (hother h hne), by rw [hfield], hcool, hbad,
      fun _ _ => ⟨e, by rw [hu]; exact he, hcode⟩⟩
  · rw [if_neg hlogs] at hu
    rw [hu]
    refine ⟨by rw [hframe], hother, by rw [hfield], hcool, hbad, fun h hf => absurd ?_ hlogs⟩
    rw [h, hf]
    rfl

/-! ## Shutdown (R426 to R428) -/

/-- What is lost is poisoned, and what was poisoned stays so. -/
theorem Memory.lose_poisoned (m : Memory) {lo hi g : Nat} (h : (lo ≤ 64 * g ∧ 64 * g < hi) ∨ m.poisoned g = true) :
    (m.lose lo hi).poisoned g = true := by
  unfold Memory.poisoned Memory.lose at *
  rw [Bool.not_eq_true', Bool.eq_false_iff] at *
  intro e
  obtain ⟨hmem, hout⟩ := List.mem_filter.1 (List.contains_iff_mem.1 e)
  rw [Bool.or_eq_true, decide_eq_true_eq, decide_eq_true_eq] at hout
  rcases h with h | h
  · omega
  · exact h (List.contains_iff_mem.2 hmem)

/-- With every switch open every granule of the tiers that need power is poisoned. -/
theorem State.openAll_poisoned (s : State) {g : Nat} (h : 64 * g < 3 * 2 ^ 56) : s.openAll.mem.poisoned g = true := by
  refine Memory.lose_poisoned _ ?_
  by_cases h2 : 2 * 2 ^ 56 ≤ 64 * g
  · exact Or.inl ⟨h2, h⟩
  · refine Or.inr (Memory.lose_poisoned _ ?_)
    by_cases h1 : 2 ^ 56 ≤ 64 * g
    · exact Or.inl ⟨h1, Nat.not_le.1 h2⟩
    · exact Or.inr (Memory.lose_poisoned _ (Or.inl ⟨Nat.zero_le _, Nat.not_le.1 h1⟩))

/-- The module is shut down between two states: its rails open, its run over, its sublinks down, the cause recorded. -/
def shutDown (s : State) (cause : BitVec 2) (source : Byte) (u : State) : Prop :=
  u.pwr.railsOff = true ∧ u.pwr.shutEnd = some (s.now + if cause = 3 then 1000000000 else 60000000000) ∧ u.pwr.wait = [] ∧
    (∀ d, (u.dom d).st = .off ∧ (u.dom d).lostPh = (s.dom d).lostPh) ∧ (∀ g b, (u.sub g b).st = .down) ∧
    u.nvm.shutCause = cause ∧ u.nvm.shutSrc = (if cause = 3 then 0 else source) ∧ u.pins.thermtripN = false ∧ u.glb.started = false ∧
    u.pit.run = .idle ∧ u.mesh = [] ∧ u.ctl = [] ∧ u.flt.service.getLsbD 1 = true ∧ (∀ g, 64 * g < 3 * 2 ^ 56 → u.mem.poisoned g = true) ∧
    ∀ c, (u.core c).gangs = []

/-- The shutdown after its event. -/
def State.shutAll (s1 : State) (cause : BitVec 2) (source : Byte) : State :=
  { s1.endRun.openAll.quiet with
    links := s1.endRun.openAll.quiet.links.map fun g => { g with sub := g.sub.map Sublink.dropDown }
    nvm := { s1.endRun.openAll.quiet.nvm with shutCause := cause, shutSrc := if cause = 3 then 0 else source }
    pwr := { s1.endRun.openAll.quiet.pwr with
      railsOff := true, shutEnd := some (s1.endRun.openAll.quiet.now + if cause = 3 then 1000000000 else 60000000000) }
    pins := { s1.endRun.openAll.quiet.pins with thermtripN := false }
    glb := { s1.endRun.openAll.quiet.glb with started := false, phase := .warden } }

theorem State.shutAll_spec (s1 : State) (cause : BitVec 2) (source : Byte) (h : s1.flt.service.getLsbD 1 = true) :
    shutDown s1 cause source (s1.shutAll cause source) := by
  refine ⟨rfl, rfl, rfl, fun d => ?_, fun g b => ?_, rfl, rfl, rfl, rfl, rfl, rfl, rfl, h, fun g hg => ?_, fun c => ?_⟩
  · have hdom : (s1.shutAll cause source).dom d = (s1.dom d).open_ := Vector.getElem_map ..
    rw [hdom]
    exact ⟨rfl, rfl⟩
  · have hsub : (s1.shutAll cause source).sub g b = (s1.sub g b).dropDown := by
      refine (congrArg (fun k : LinkGroup => k.sub[b]) (Vector.getElem_map ..)).trans ?_
      exact Vector.getElem_map ..
    rw [hsub]
    rfl
  · exact s1.endRun.openAll_poisoned hg
  · have hcore : (s1.shutAll cause source).core c = (s1.core c).clearWork := Vector.getElem_map ..
    rw [hcore]
    rfl

/-- What the shutdown's event leaves unchanged, the shutdown does not tell apart. -/
theorem shutDown_congr {s t u : State} {cause : BitVec 2} {source : Byte} (hnow : t.now = s.now) (hdom : ∀ d, t.dom d = s.dom d)
    (h : shutDown t cause source u) : shutDown s cause source u := by
  obtain ⟨hoff, hend, hwait, hdoms, hrest⟩ := h
  exact ⟨hoff, by rw [← hnow]; exact hend, hwait, fun d => hdom d ▸ hdoms d, hrest⟩

theorem State.shutNow_spec (s : State) (cause : BitVec 2) (source : Byte) : shutDown s cause source (s.shutNow cause source) := by
  have hframe := s.logEvent_only 5 8 3 (shutKind cause) source.toNat []
  have hnow : (s.logEvent 5 8 3 (shutKind cause) source.toNat).now = s.now := (congrArg State.now hframe).trans rfl
  have hpwr : (s.logEvent 5 8 3 (shutKind cause) source.toNat).pwr = s.pwr := (congrArg State.pwr hframe).trans rfl
  refine shutDown_congr (t := (s.logEvent 5 8 3 (shutKind cause) source.toNat).service svShutdown) hnow
    (fun d => State.dom_congr (congrArg Pwr.dom hpwr) d) ?_
  exact State.shutAll_spec _ cause source (State.service_getLsbD _ (b := svShutdown) (by decide))

/-- A shutdown does not say whether the input is good. -/
theorem State.shutNow_inputOk (s : State) (cause : BitVec 2) (source : Byte) : (s.shutNow cause source).pins.inputOk = s.pins.inputOk :=
  (congrArg (fun p : Pins => ({ p with thermtripN := false } : Pins).inputOk) (State.logEvent_pins s 5 8 3 (shutKind cause) source.toNat []) :)

section
variable {s : State} {cause : BitVec 2} {source : Byte}

theorem shutdown_due (hoff : s.pwr.railsOff = false) (h : s.mustShut cause source = true) :
    exec (.shutdown cause source) s = .next (s.shutNow cause source) :=
  congrArg Host.Outcome.next (if_neg (by rw [hoff, h]; decide))

theorem shutdown_idle (h : s.pwr.railsOff = true ∨ s.mustShut cause source = false) : exec (.shutdown cause source) s = .next s := by
  refine congrArg Host.Outcome.next (if_pos ?_)
  rcases h with h | h
  · rw [h]; rfl
  · rw [h]; exact Bool.or_true _

theorem inputVoltageFault_shuts (h : s.pwr.railsOff = false) :
    exec .inputVoltageFault s = .next (State.shutNow { s with pins := { s.pins with inputOk := false } } 3 0) :=
  congrArg Host.Outcome.next (if_neg (Bool.eq_false_iff.1 h))

theorem inputVoltageFault_noted (h : s.pwr.railsOff = true) :
    exec .inputVoltageFault s = .next { s with pins := { s.pins with inputOk := false } } := congrArg Host.Outcome.next (if_pos h)

end

/-- Settles O58: readings by what they say of their sensor, the shutdown by its limits. -/
theorem sensorsAndShutdown : Obligations.SensorsAndShutdown := by
  unfold Obligations.SensorsAndShutdown
  refine ⟨fun s c i f x => ⟨sensorRead_of_failed, fun h hb => ?_, fun h hb => ⟨_, sensorRead_of_broken h hb, s.failSensor_heat c i rfl⟩,
    ⟨_, rfl, s.readStackSensor_spec f x rfl⟩⟩, fun s cause source => ⟨fun h hm => ⟨_, shutdown_due h hm, s.shutNow_spec cause source⟩,
    shutdown_idle, fun h => ⟨_, inputVoltageFault_shuts h, ?_, State.shutNow_inputOk _ 3 0⟩, inputVoltageFault_noted, fun h => ?_, fun t ht => ⟨fun h => ?_, fun h => ?_⟩⟩⟩
  · refine ⟨_, sensorRead_of_sound h hb, s.modCore_onlyCore c _, State.modCore_core s c _, ?_⟩
    rw [State.modCore_core]
    exact Core.heat_timers _ _
  · exact shutDown_congr (t := { s with pins := { s.pins with inputOk := false } }) rfl (fun _ => rfl) (State.shutNow_spec _ 3 0)
  · exact congrArg Host.Outcome.next (by rw [h])
  · refine congrArg Host.Outcome.next ?_
    rw [ht]
    exact if_neg (Nat.not_lt.2 h)
  · refine congrArg Host.Outcome.next ?_
    rw [ht]
    exact if_pos h

end Sys2Proof.Machine
end

section
/-! PROOFS. Start-up (R433): where a full log of one clock period loses the event of the base that failed first. -/

namespace Sys2Proof.Machine

/-! ## The place of an entry among those of its stamp (R475) -/

/-- What an entry keeps of its place in the log whatever number its place has. -/
def LogEntry.sig (e : LogEntry) : BitVec 16 × Byte × Byte × Nat := (e.code, e.srcKind, e.srcId, e.at_)

/-- Entries of one stamp stand in the order of their codes. -/
theorem LogEntry.rank_lt {e x : LogEntry} (h : e.code.toNat < x.code.toNat) : e.rank < x.rank := by
  have hkind := e.srcKind.isLt
  have hid := e.srcId.isLt
  unfold LogEntry.rank
  omega

/-- An entry enters behind the entries of its stamp with higher codes. -/
theorem enterLog_last {e : LogEntry} {l : List LogEntry} (h : ∀ x ∈ l, x.at_ = e.at_ ∧ e.code.toNat < x.code.toNat) :
    (enterLog e l).map LogEntry.sig = l.map LogEntry.sig ++ [e.sig] := by
  induction l generalizing e with
  | nil => rfl
  | cons x xs ih =>
    obtain ⟨hat, hcode⟩ := h x List.mem_cons_self
    have hdeep : x.stamp = e.stamp ∧ e.rank < x.rank := ⟨by unfold LogEntry.stamp; rw [hat], LogEntry.rank_lt hcode⟩
    rw [enterLog, if_pos hdeep, List.map_cons, ih (e := { e with eseq := x.eseq }) fun y hy => h y (List.mem_cons_of_mem _ hy)]
    rfl

/-- A note of a failed check enters behind the entries of its stamp with higher codes, of which the newest 8,191 stay. -/
theorem State.noteNvm_last {t : State} {n : Nat} (hn : n ≠ 0) (hnew : ∀ x ∈ t.flt.log, x.code ≠ faultCode 0 9 n)
    (hdeep : ∀ x ∈ t.flt.log.take 8191, x.at_ = t.now ∧ (faultCode 0 9 n).toNat < x.code.toNat) :
    (t.noteNvm n).flt.log.map LogEntry.sig = (t.flt.log.take 8191).map LogEntry.sig ++
      [(faultCode 0 9 n, BitVec.ofNat 8 kWarden, BitVec.ofNat 8 t.glb.modIx.val, t.now)] := by
  have hsame : t.flt.log.any (fun e => e.same t.now (faultCode 0 9 n) (BitVec.ofNat 8 kWarden) (BitVec.ofNat 8 t.glb.modIx.val)) ≠ true := by
    intro e
    obtain ⟨x, hx, hs⟩ := List.any_eq_true.1 e
    exact hnew x hx (LogEntry.of_same hs).1
  unfold State.noteNvm State.configEvent State.logEvent State.logCode
  rw [if_neg hn, if_neg hsame, State.irqClass_log]
  exact enterLog_last hdeep

/-- A note changes the error code, the log and what is sent. -/
theorem State.noteNvm_only (t : State) (n : Nat) : t.noteNvm n = { t with
    glb := { t.glb with nvmErr := (t.noteNvm n).glb.nvmErr }, flt := (t.noteNvm n).flt, out := (t.noteNvm n).out } := by
  unfold State.noteNvm
  split
  · rfl
  · rw [State.configEvent, State.logEvent_only]

/-! ## The counterexample -/

/-- An entry of the highest code. -/
def topEntry : LogEntry :=
  { gcnt := 0, rtc := 0, code := 0xFFFF, srcKind := 0, srcId := 0, pnum := 0, data := [], rep := 0, eseq := 0, at_ := 0 }

/-- Image A without its magic, image B with a base that fails its check. -/
def badImages : Nvm := { images := #v[{ magic := 0 }, { baseOk := false }] }

/-- A module about to start, with `n` events of the present clock period in its log. -/
def crowded (n : Nat) : State := { nvm := badImages, flt := { log := List.replicate n topEntry } }

/-- The state in which start-up looks for its base. -/
def State.begun (s : State) : State :=
  { s with pwr := { s.pwr with railsOff := false }
           pins := { s.pins with thermtripN := true, inputOk := true }
           glb := { s.glb with wardenUp := true, modIx := s.pins.slotId.toFin, coreEn := s.nvm.enabled } }

/-- A note leaves the NVM. -/
theorem State.noteNvm_nvm (t : State) (n : Nat) : (t.noteNvm n).nvm = t.nvm := (congrArg State.nvm (t.noteNvm_only n)).trans rfl

theorem State.noteNvm_now (t : State) (n : Nat) : (t.noteNvm n).now = t.now := (congrArg State.now (t.noteNvm_only n)).trans rfl

/-- A start whose bases both fail their checks. -/
theorem State.startUp_of_none {s : State} (hp : s.begun.pins.parityOk = true) (hb : bootBase s.begun.nvm = none) :
    s.startUp = ((s.begun.noteNvm (baseError s.begun.nvm (firstBase s.begun.nvm))).noteNvm
      (baseError s.begun.nvm (otherImg (firstBase s.begun.nvm)))).enterSafe := by
  have hnvm := s.begun.noteNvm_nvm (baseError s.begun.nvm (firstBase s.begun.nvm))
  refine (if_neg (by rw [Bool.not_eq_true', Bool.not_eq_false]; exact hp)).trans ?_
  change (match bootBase (s.begun.noteNvm (baseError s.begun.nvm (firstBase s.begun.nvm))).nvm with
    | none => _
    | some b => _) = _
  rw [hnvm, hb]
  exact congrArg (fun v => ((s.begun.noteNvm (baseError s.begun.nvm (firstBase s.begun.nvm))).noteNvm
    (baseError v (otherImg (firstBase s.begun.nvm)))).enterSafe) hnvm

/-- The first note of the counterexample enters behind every other event, and the second puts it out. -/
theorem noteNvm_noteNvm_forgets {t : State} {n : Nat} (hn : n = 8191) (hlog : t.flt.log = List.replicate n topEntry) (hnow : t.now = 0) :
    ∀ x ∈ ((t.noteNvm 1).noteNvm 2).flt.log, x.code ≠ faultCode 0 9 1 := by
  have htop : ∀ x ∈ t.flt.log, x = topEntry := fun x hx => List.eq_of_mem_replicate (hlog ▸ hx)
  have hlen : t.flt.log.length = 8191 := by rw [hlog, List.length_replicate, hn]
  have htake : t.flt.log.take 8191 = t.flt.log := List.take_of_length_le (Nat.le_of_eq hlen)
  have hfirst := t.noteNvm_last (n := 1) (by decide) (fun x hx => htop x hx ▸ by decide)
    (fun x hx => htop x (htake ▸ hx) ▸ ⟨hnow.symm, by decide⟩)
  rw [htake] at hfirst
  have hkeep : ((t.noteNvm 1).flt.log.take 8191).map LogEntry.sig = t.flt.log.map LogEntry.sig := by
    rw [List.map_take, hfirst, List.take_left' (by rw [List.length_map, hlen])]
  have hsig {x : LogEntry} (hx : x.sig ∈ t.flt.log.map LogEntry.sig) : x.sig = topEntry.sig := by
    obtain ⟨y, hy, hxy⟩ := List.mem_map.1 hx
    rw [← hxy, htop y hy]
  have hsecond := (t.noteNvm 1).noteNvm_last (n := 2) (by decide)
    (fun x hx => by
      have hx' := hfirst ▸ List.mem_map_of_mem (f := LogEntry.sig) hx
      rcases List.mem_append.1 hx' with hx' | hx'
      · rw [show x.code = topEntry.code from congrArg Prod.fst (hsig hx')]; decide
      · rw [show x.code = faultCode 0 9 1 from congrArg Prod.fst (List.mem_singleton.1 hx')]; decide)
    (fun x hx => by
      have hx' := hsig (hkeep ▸ List.mem_map_of_mem (f := LogEntry.sig) hx)
      rw [show x.code = topEntry.code from congrArg Prod.fst hx',
        show x.at_ = topEntry.at_ from congrArg (fun y => y.2.2.2) hx', State.noteNvm_now, hnow]
      exact ⟨rfl, by decide⟩)
  intro x hx
  have hx' := hsecond ▸ List.mem_map_of_mem (f := LogEntry.sig) hx
  rcases List.mem_append.1 hx' with hx' | hx'
  · rw [show x.code = topEntry.code from congrArg Prod.fst (hsig (hkeep ▸ hx'))]; decide
  · rw [show x.code = faultCode 0 9 2 from congrArg Prod.fst (List.mem_singleton.1 hx')]; decide

theorem crowded_begun_log (n : Nat) : (crowded n).begun.flt.log = List.replicate n topEntry := rfl

theorem startupBegin_crowded (n : Nat) : exec .startupBegin (crowded n) = .next (crowded n).startUp := rfl

/-- The start of the counterexample is two notes, and safe state. -/
theorem crowded_startUp_log (n : Nat) : (crowded n).startUp.flt.log = (((crowded n).begun.noteNvm 1).noteNvm 2).flt.log := by
  have hfirst : baseError (crowded n).begun.nvm (firstBase (crowded n).begun.nvm) = 1 :=
    (by decide : baseError badImages (firstBase badImages) = 1)
  have hother : baseError (crowded n).begun.nvm (otherImg (firstBase (crowded n).begun.nvm)) = 2 :=
    (by decide : baseError badImages (otherImg (firstBase badImages)) = 2)
  have hnone : bootBase (crowded n).begun.nvm = none := (by decide : bootBase badImages = none)
  have hstart := State.startUp_of_none (s := crowded n) (by decide : Pins.parityOk {} = true) hnone
  rw [hfirst, hother] at hstart
  rw [hstart]
  rfl

/-- Refutes O59: with 8,191 events of higher codes in the present clock period the event of the base that failed first stands last in the
log, and the event of the second base puts it out. -/
theorem not_resetsAndStartUp : ¬ Obligations.ResetsAndStartUp := by
  unfold Obligations.ResetsAndStartUp
  intro h
  obtain ⟨-, hstart⟩ := h
  obtain ⟨hbegin, -⟩ := hstart (crowded 8191) 0 0 0
  obtain ⟨-, hnone, -⟩ := hbegin rfl rfl rfl rfl
  obtain ⟨u, hu, -, -, hnoted⟩ := hnone (by decide) (by decide)
  obtain ⟨-, x, hx, hcode⟩ := hnoted rfl (by decide)
  refine noteNvm_noteNvm_forgets rfl (crowded_begun_log 8191) rfl x ?_ hcode
  rw [← crowded_startUp_log, Host.Outcome.next.inj ((startupBegin_crowded 8191).symm.trans hu)]
  exact hx

end Sys2Proof.Machine
end

section
/-! PROOFS. Session messages (Tables BOO-5 and BOO-6): the handshake, what a session's message does, and how a session ends. -/

namespace Sys2Proof.Machine

/-! ## The handshake (R454, R455, R457) -/

section
variable {s s1 : State} {p : SessPath} {nc body : List Byte} {life : W32}

theorem hello_of_none (h : s.takeSess p (plainMsg p 1 (nc ++ leBytes 4 life.toNat)) = none) : exec (.hello p nc life) s = .next s := by
  refine congrArg Host.Outcome.next ?_
  rw [h]

theorem hello_of_some (h : s.takeSess p (plainMsg p 1 (nc ++ leBytes 4 life.toNat)) = some s1) :
    exec (.hello p nc life) s = .next (s1.greet p nc life) := by
  refine congrArg Host.Outcome.next ?_
  rw [h]

theorem proof_of_none (h : s.takeSess p (plainMsg p 3 body) = none) : exec (.proof p body) s = .next s := by
  refine congrArg Host.Outcome.next ?_
  rw [h]

theorem proof_of_some (h : s.takeSess p (plainMsg p 3 body) = some s1) : exec (.proof p body) s = .next (s1.judge p body) := by
  refine congrArg Host.Outcome.next ?_
  rw [h]

end

section
variable {s : State} {p : SessPath} {nc : List Byte} {life : W32}

theorem State.greet_of_locked (h : s.sessLocked = true) : s.greet p nc life = s.refuseSess p 2 (leBytes 4 s.lockLeft) := if_pos h

theorem State.greet_of_full (h : s.sessLocked = false) (hn : 4 ≤ s.openSessions) : s.greet p nc life = s.refuseSess p 1 :=
  (if_neg (Bool.eq_false_iff.1 h)).trans (if_pos hn)

theorem State.greet_of_room (h : s.sessLocked = false) (hn : s.openSessions < 4) : s.greet p nc life = State.sendSess
    { s with
      cfg := { s.cfg with
        greeting := { path := p, nc := nc, nm := s.nonce, lifetime := life } :: s.cfg.greeting.filter (fun x => x.path != p) }
      freeCtr := s.freeCtr + 16 } p (plainMsg p 2 (s.nonce ++ Config.serial ++ leBytes 8 s.rtcUs)) :=
  (if_neg (Bool.eq_false_iff.1 h)).trans (if_neg (Nat.not_le.2 hn))

end

section
variable {s : State} {p : SessPath} {body : List Byte} {g : Greeting}

/-- The greeting of a path is gone once its proof has been judged. -/
def State.ungreeted (s : State) (p : SessPath) : State :=
  { s with cfg := { s.cfg with greeting := s.cfg.greeting.filter fun x => x.path != p } }

theorem State.judge_of_locked (h : s.sessLocked = true) : s.judge p body = s := if_pos h

section
variable (h : s.sessLocked = false)
include h

theorem State.judge_of_ungreeted (hg : s.cfg.greeting.find? (fun x => x.path == p) = none) : s.judge p body = s.refuseSess p 4 :=
  (if_neg (Bool.eq_false_iff.1 h)).trans (by rw [hg])

variable (hg : s.cfg.greeting.find? (fun x => x.path == p) = some g)
include hg

theorem State.judge_of_wrong (hb : body ≠ proofOf g) : s.judge p body = (s.ungreeted p).failProof.refuseSess p 3 := by
  refine (if_neg (Bool.eq_false_iff.1 h)).trans ?_
  rw [hg]
  exact if_pos hb

theorem State.judge_of_right (hb : body = proofOf g) : s.judge p body =
    match (List.finRange 4).find? fun i => (s.sessionAt i).isNone with
    | none => State.refuseSess { s.ungreeted p with nvm := { s.nvm with fails := 0, lockLen := 0 } } p 1
    | some i => (s.ungreeted p).openSession g i := by
  refine (if_neg (Bool.eq_false_iff.1 h)).trans ?_
  rw [hg]
  exact if_neg (not_not_intro hb)

/-- The right proof opens a session in the first free place. -/
theorem State.judge_opens (hb : body = proofOf g) {i : Fin 4} (hfree : (List.finRange 4).find? (fun i => (s.sessionAt i).isNone) = some i) :
    s.judge p body = (s.ungreeted p).openSession g i := by
  rw [State.judge_of_right h hg hb, hfree]

theorem State.judge_of_full (hb : body = proofOf g) (hfull : (List.finRange 4).find? (fun i => (s.sessionAt i).isNone) = none) :
    s.judge p body = State.refuseSess { s.ungreeted p with nvm := { s.nvm with fails := 0, lockLen := 0 } } p 1 := by
  rw [State.judge_of_right h hg hb, hfull]

end

/-- With 4 sessions open no place is free. -/
theorem State.noPlace_of_full (h : 4 ≤ s.openSessions) : (List.finRange 4).find? (fun i => (s.sessionAt i).isNone) = none := by
  have hlen : ((List.finRange 4).filter fun i => (s.sessionAt i).isSome).length = (List.finRange 4).length :=
    Nat.le_antisymm (List.length_filter_le _ _) (by rw [List.length_finRange]; exact h)
  refine List.find?_eq_none.2 fun i hi => ?_
  have hsome : (s.sessionAt i).isSome = true := List.length_filter_eq_length_iff.1 hlen i hi
  rw [Option.isNone_iff_eq_none]
  exact Option.isSome_iff_ne_none.1 hsome

/-- A wrong proof counts, and below the third nothing else. -/
theorem State.failProof_of_lt (h : s.nvm.fails + 1 < 3) : s.failProof = { s with nvm := { s.nvm with fails := s.nvm.fails + 1 } } := if_pos h

/-- From the third on the interface is locked, and the event logged. -/
theorem State.failProof_locks (h : 3 ≤ s.nvm.fails + 1) {w : State} (hw : w = s.failProof) :
    w = { s with
      flt := w.flt, out := w.out
      nvm := { s.nvm with
        fails := s.nvm.fails + 1, lockLen := if s.nvm.fails + 1 = 3 then 60 else min 86400 (2 * s.nvm.lockLen)
        lockEnd := s.rtc.ns + (if s.nvm.fails + 1 = 3 then 60 else min 86400 (2 * s.nvm.lockLen)) * 1000000000 } } ∧
      ∃ e ∈ w.flt.log, e.code = faultCode 0 9 0x21 := by
  have hlocks : s.failProof = State.logEvent { s with nvm := { s.nvm with
      fails := s.nvm.fails + 1, lockLen := if s.nvm.fails + 1 = 3 then 60 else min 86400 (2 * s.nvm.lockLen)
      lockEnd := s.rtc.ns + (if s.nvm.fails + 1 = 3 then 60 else min 86400 (2 * s.nvm.lockLen)) * 1000000000 } } 0 9 0x21 kWarden
      s.glb.modIx.val := if_neg (Nat.not_lt.2 h)
  rw [hlocks] at hw
  generalize hv : ({ s with nvm := { s.nvm with
      fails := s.nvm.fails + 1, lockLen := if s.nvm.fails + 1 = 3 then 60 else min 86400 (2 * s.nvm.lockLen)
      lockEnd := s.rtc.ns + (if s.nvm.fails + 1 = 3 then 60 else min 86400 (2 * s.nvm.lockLen)) * 1000000000 } } : State) = v at hw
  have honly := v.logEvent_only 0 9 0x21 kWarden s.glb.modIx.val []
  obtain ⟨e, he, hcode, -⟩ := v.logHolds_logEvent 0 9 0x21 kWarden s.glb.modIx.val []
  rw [← hw] at honly he
  exact ⟨by rw [honly, ← hv], e, he, hcode⟩

/-- The session that a greeting opens in a place, with its keys. -/
def State.newSession (s : State) (g : Greeting) (i : Fin 4) (okm : List Byte) : Session :=
  { sid := s.newSid i, path := g.path, keyIn := okm.take 32, keyOut := okm.drop 32, seqIn := 0, seqOut := 1
    ends := s.now + grantedLife g.lifetime * 1000000000, drops := 0 }

/-- A session in its place, where nothing of an earlier one stays. -/
def State.seated (s : State) (i : Fin 4) (k : Session) : State :=
  { s.fresh with
    cfg := { s.cfg with sessions := s.cfg.sessions.set i (some k), view := s.cfg.view.filter fun x => x != .session i }
    latch := s.latch.filter fun x => x.1 != .session i
    low := s.low.filter fun x => x.1 != .session i
    nvm := { s.nvm with fails := 0, lockLen := 0 } }

/-- The key material of a session (R455). -/
def State.keyMaterial (s : State) (g : Greeting) (i : Fin 4) : List Byte :=
  hkdfSha256 Config.rootKey (g.nc ++ g.nm) (sessTag ++ leBytes 4 (s.newSid i).toNat ++ leBytes 1 (sessPathCode g.path)) 64

/-- A session that opens: its keys, its lifetime, and ACCEPT. -/
theorem State.openSession_eq (s : State) (g : Greeting) (i : Fin 4) :
    s.openSession g i = (s.seated i (s.newSession g i (s.keyMaterial g i))).sendSess g.path (sessBytes 4 g.path (s.newSid i) 1
      (sessMac ((s.keyMaterial g i).drop 32) 4 g.path (s.newSid i) 1 (leBytes 4 (s.newSid i).toNat ++ leBytes 4 (grantedLife g.lifetime)))
      (leBytes 4 (s.newSid i).toNat ++ leBytes 4 (grantedLife g.lifetime))) := by
  unfold State.openSession State.keyMaterial
  dsimp only
  generalize hkdfSha256 _ _ _ _ = okm
  generalize sessBytes _ _ _ _ _ _ = msg
  rfl

/-- A session's seat is its place alone. -/
theorem State.seated_spec (s : State) (i : Fin 4) (k : Session) {w : State} (hw : w = s.seated i k) :
    w = { s with cfg := w.cfg, nvm := { s.nvm with fails := 0, lockLen := 0 }, freeCtr := s.freeCtr + 1, latch := w.latch, low := w.low } ∧
      w.cfg = { s.cfg with sessions := w.cfg.sessions, view := w.cfg.view } ∧ (∀ j, j ≠ i → w.cfg.sessions[j] = s.cfg.sessions[j]) ∧
      w.cfg.sessions[i] = some k := by
  subst hw
  refine ⟨rfl, rfl, fun j hj => ?_, ?_⟩
  · exact Vector.getElem_set_ne i.isLt j.isLt fun e => hj (Fin.ext e.symm)
  · exact Vector.getElem_set_self _

end

/-! ## What a message of a session does (R455) -/

/-- The session a header names is of its path and number. -/
theorem State.sessionOf_spec {s : State} {h : SessHdr} {i : Fin 4} {k : Session} (hs : s.sessionOf h = some (i, k)) :
    k.sid = h.sid ∧ k.path = h.path := by
  obtain ⟨j, -, hj⟩ := List.exists_of_findSome?_eq_some hs
  cases hk : s.sessionAt j with
  | none => rw [hk] at hj; cases hj
  | some l =>
    rw [hk] at hj
    dsimp only at hj
    split at hj
    next hl =>
      obtain ⟨-, rfl⟩ := Prod.mk.inj (Option.some.inj hj)
      simpa only [Bool.and_eq_true, beq_iff_eq] using hl
    next => cases hj

section
variable {s s1 t v : State} {h : SessHdr} {typ : Nat} {body : List Byte} {eff : State → Fin 4 → Session → State} {i : Fin 4} {k : Session}

theorem State.heard_of_none (ht : s.takeSess h.path (sessBytes typ h.path h.sid h.seq h.mac body) = none) : s.heard h typ body eff = s := by
  unfold State.heard
  rw [ht]

section
variable (ht : s.takeSess h.path (sessBytes typ h.path h.sid h.seq h.mac body) = some s1)
include ht

theorem State.heard_of_unknown (hs : s1.sessionOf h = none) : s.heard h typ body eff = s1 := by
  unfold State.heard
  rw [ht]
  dsimp only
  rw [hs]

theorem State.heard_of_some (hs : s1.sessionOf h = some (i, k)) : s.heard h typ body eff =
    if k.seqIn.toNat < h.seq.toNat ∧ h.mac = sessMac k.keyIn typ h.path h.sid h.seq body then
      eff (s1.setSession i (some { k with seqIn := h.seq })) i { k with seqIn := h.seq }
    else s1.dropMsg i k := by
  unfold State.heard
  rw [ht]
  dsimp only
  rw [hs]

/-- A message that fails its SEQ or MAC test is dropped and counted. -/
theorem State.heard_of_bad (hs : s1.sessionOf h = some (i, k))
    (hbad : h.seq.toNat ≤ k.seqIn.toNat ∨ h.mac ≠ sessMac k.keyIn typ h.path h.sid h.seq body) :
    s.heard h typ body eff = s1.setSession i (if 16 ≤ k.drops + 1 then none else some { k with drops := k.drops + 1 }) :=
  (State.heard_of_some ht hs).trans (if_neg fun e => hbad.elim (Nat.not_le.2 e.1) fun hne => hne e.2)

end

/-- A message of an open session has its effect. -/
theorem State.heard_of_session (ht : s.fromSession h typ body i k t) : s.heard h typ body eff = eff t i { k with seqIn := h.seq } := by
  obtain ⟨s1, htake, hs, hseq, hmac, rfl⟩ := ht
  exact (State.heard_of_some htake hs).trans (if_pos ⟨hseq, hmac⟩)

/-- The session that a message came from stands in its place. -/
theorem State.fromSession_session (ht : s.fromSession h typ body i k t) : t.cfg.sessions[i] = some { k with seqIn := h.seq } := by
  obtain ⟨s1, -, -, -, -, rfl⟩ := ht
  exact Vector.getElem_set_self _

/-- While its session stands a message is answered. -/
theorem State.result_of_session (ht : s.fromSession h typ body i k t) (hv : v.cfg.sessions[i] = t.cfg.sessions[i]) (st : Nat) (data : List Byte) :
    v.result i { k with seqIn := h.seq } st data = v.replied h i k st data := by
  have hstands := hv.trans (State.fromSession_session ht)
  obtain ⟨s1, -, hs, -⟩ := ht
  obtain ⟨hsid, hpath⟩ := State.sessionOf_spec hs
  unfold State.result State.replied
  rw [hstands]
  dsimp only
  rw [if_neg (not_not_intro rfl), hsid, hpath]

/-- A session gone is not answered. -/
theorem State.result_of_gone (hv : v.cfg.sessions[i] = none) (st : Nat) (data : List Byte) : v.result i k st data = v := by
  unfold State.result
  rw [hv]

end

/-- Reading words changes no session. -/
theorem State.readWords_cfg (s : State) (p : Path) (off n : Nat) : (s.readWords p off n).2.cfg = s.cfg := by
  induction n generalizing s off with
  | zero => rfl
  | succ n ih => exact (ih (s.readWord p off).2 (off + 4)).trans ((congrArg State.cfg (s.readWord_only p off)).trans rfl)

/-! ## The configuration memory (R432, R434, R436) -/

section
variable (t : State) (f : NvmImage → NvmImage)

/-- The unbooted image rewritten. -/
theorem State.modImage_spec (j : ImgIx) {x : State} (hx : x = t.modImage j f) :
    x = { t with nvm := { t.nvm with images := x.nvm.images } } ∧ (∀ i, i ≠ j → x.nvm.images[i] = t.nvm.images[i]) ∧
      x.nvm.images[j] = f (t.nvm.images[j]) := by
  subst hx
  exact ⟨rfl, fun i hi => upd_other _ _ _ _ hi, upd_same _ _ _⟩

end

/-- What an NVM operation that passes its checks writes. -/
theorem State.program_spec {t x : State} {off so len : Nat} (h : t.program off so len = some x) :
    x = { t with nvm := { t.nvm with images := x.nvm.images } } ∧ (∀ j, j ≠ t.unbooted → x.nvm.images[j] = t.nvm.images[j]) ∧
      (off = 0 → t.baseValid (t.mem.read (stacksAddr so) len) = true ∧
        (x.nvm.images[t.unbooted]).version = fieldAt (t.mem.read (stacksAddr so) len) 16 4 ∧
        (x.nvm.images[t.unbooted]).gen = fieldAt (t.mem.read (stacksAddr so) len) 8 8 ∧ (x.nvm.images[t.unbooted]).baseOk = true) ∧
      (off ≠ 0 → off = 0x4000000 ∧ t.configCheck (t.mem.read (stacksAddr so) len) t.nvm.cfgGen = 0 ∧
        (x.nvm.images[t.unbooted]).config = t.mem.read (stacksAddr so) len) := by
  unfold State.program at h
  dsimp only at h
  generalize t.mem.read (stacksAddr so) len = b at h ⊢
  split at h
  next => cases h
  next =>
    split at h
    next hoff =>
      split at h
      next hb =>
        obtain ⟨hframe, hother, himage⟩ := t.modImage_spec _ t.unbooted (Option.some.inj h).symm
        exact ⟨hframe, hother, fun _ => ⟨hb, by rw [himage], by rw [himage], by rw [himage]⟩, fun e => absurd hoff e⟩
      next => cases h
    next hoff =>
      split at h
      next hat =>
        split at h
        next hc =>
          obtain ⟨hframe, hother, himage⟩ := t.modImage_spec _ t.unbooted (Option.some.inj h).symm
          exact ⟨hframe, hother, fun e => absurd e hoff, fun _ => ⟨hat, hc.2, by rw [himage]⟩⟩
        next => cases h
      next => cases h

/-! ## Session messages -/

section
variable (s : State) (h : SessHdr) (off len w : W32) (so : W64) (ws : List W32) (bs key : List Byte) (slot : Fin 4)

theorem sessionRead_heard : ∃ eff, exec (.sessionRead h off len) s =
    .next (s.heard h 0x10 (leBytes 4 off.toNat ++ leBytes 4 len.toNat) eff) := ⟨_, rfl⟩

theorem sessionWrite_heard : ∃ eff, exec (.sessionWrite h off ws) s =
    .next (s.heard h 0x11 (leBytes 4 off.toNat ++ leBytes 4 ws.length ++ ws.flatMap fun x => leBytes 4 x.toNat) eff) := ⟨_, rfl⟩

theorem stkWrite_heard : ∃ eff, exec (.stkWrite h so bs) s = .next (s.heard h 0x12 (leBytes 8 so.toNat ++ bs) eff) := ⟨_, rfl⟩

theorem nvmProgram_heard : ∃ eff, exec (.nvmProgram h off so len) s =
    .next (s.heard h 0x13 ([0] ++ leBytes 4 off.toNat ++ leBytes 8 so.toNat ++ leBytes 4 len.toNat) eff) := ⟨_, rfl⟩

theorem nvmWriteKeySlot_heard : ∃ eff, exec (.nvmWriteKeySlot h slot key) s =
    .next (s.heard h 0x13 ([1] ++ leBytes 1 slot.val ++ key) eff) := ⟨_, rfl⟩

theorem nvmRaiseVfloor_heard : ∃ eff, exec (.nvmRaiseVfloor h w) s = .next (s.heard h 0x13 ([2] ++ leBytes 4 w.toNat) eff) := ⟨_, rfl⟩

theorem close_heard : ∃ eff, exec (.close h) s = .next (s.heard h 0x20 [] eff) := ⟨_, rfl⟩

end

/-- What becomes of a message that is not from an open session, or fails its tests. -/
theorem message_of_heard {e : Instr} {s s1 : State} {h : SessHdr} {typ : Nat} {body : List Byte}
    {i : Fin 4} {k : Session} (he : ∃ eff, exec e s = .next (s.heard h typ body eff)) {m : Instr × Nat × List Byte} (hm : m = (e, typ, body)) :
    (s.takeSess h.path (sessBytes m.2.1 h.path h.sid h.seq h.mac m.2.2) = none → exec m.1 s = .next s) ∧
      (s.takeSess h.path (sessBytes m.2.1 h.path h.sid h.seq h.mac m.2.2) = some s1 →
        (s1.sessionOf h = none → exec m.1 s = .next s1) ∧
        (s1.sessionOf h = some (i, k) → h.seq.toNat ≤ k.seqIn.toNat ∨ h.mac ≠ sessMac k.keyIn m.2.1 h.path h.sid h.seq m.2.2 →
          exec m.1 s = .next (s1.setSession i (if 16 ≤ k.drops + 1 then none else some { k with drops := k.drops + 1 })))) := by
  subst hm
  obtain ⟨eff, he⟩ := he
  exact ⟨fun ht => he.trans (congrArg _ (State.heard_of_none ht)), fun ht => ⟨fun hs => he.trans (congrArg _ (State.heard_of_unknown ht hs)),
    fun hs hbad => he.trans (congrArg _ (State.heard_of_bad ht hs hbad))⟩⟩

section
variable {s t v : State} {h : SessHdr} {i : Fin 4} {k : Session}

theorem sessionRead_spec {off len : W32} (ht : s.fromSession h 0x10 (leBytes 4 off.toNat ++ leBytes 4 len.toNat) i k t) :
    (sessShape off.toNat len.toNat = true → exec (.sessionRead h off len) s =
      .next ((t.readWords (.session i) off.toNat len.toNat).2.replied h i k 0 (t.readWords (.session i) off.toNat len.toNat).1)) ∧
    (sessShape off.toNat len.toNat = false → exec (.sessionRead h off len) s = .next (t.refuseSess h.path 4)) := by
  refine ⟨fun hs => congrArg Host.Outcome.next ((State.heard_of_session ht).trans ((if_pos hs).trans ?_)),
    fun hs => congrArg Host.Outcome.next ((State.heard_of_session ht).trans (if_neg (Bool.eq_false_iff.1 hs)))⟩
  exact State.result_of_session ht (congrArg (fun c : Cfg => c.sessions[i]) (t.readWords_cfg _ _ _)) _ _

theorem sessionWrite_spec {off : W32} {ws : List W32}
    (ht : s.fromSession h 0x11 (leBytes 4 off.toNat ++ leBytes 4 ws.length ++ ws.flatMap fun x => leBytes 4 x.toNat) i k t) :
    (sessShape off.toNat ws.length = true → v = t.writeWords i off.toNat ws →
      (v.cfg.sessions[i] = t.cfg.sessions[i] → exec (.sessionWrite h off ws) s =
        .next (v.replied h i k (if v.sessRefused = t.sessRefused then 0 else 1) [])) ∧
      (v.cfg.sessions[i] = none → exec (.sessionWrite h off ws) s = .next v)) ∧
    (sessShape off.toNat ws.length = false → exec (.sessionWrite h off ws) s = .next (t.refuseSess h.path 4)) := by
  refine ⟨fun hs hv => ?_, fun hs => congrArg Host.Outcome.next ((State.heard_of_session ht).trans (if_neg (Bool.eq_false_iff.1 hs)))⟩
  subst hv
  exact ⟨fun hv => congrArg Host.Outcome.next ((State.heard_of_session ht).trans ((if_pos hs).trans (State.result_of_session ht hv _ _))),
    fun hv => congrArg Host.Outcome.next ((State.heard_of_session ht).trans ((if_pos hs).trans (State.result_of_gone hv _ _)))⟩

theorem stkWrite_spec {so : W64} {bs : List Byte} (ht : s.fromSession h 0x12 (leBytes 8 so.toNat ++ bs) i k t) :
    (bs.length = 0 ∨ 4096 < bs.length → exec (.stkWrite h so bs) s = .next (t.refuseSess h.path 4)) ∧
    (0 < bs.length → bs.length ≤ 4096 →
      (t.stkLocked so.toNat bs.length = true → exec (.stkWrite h so bs) s = .next ((t.countRefused (.session i)).replied h i k 1 [])) ∧
      (t.stkLocked so.toNat bs.length = false → t.stkOn so.toNat bs.length = false → exec (.stkWrite h so bs) s = .next (t.replied h i k 1 [])) ∧
      (t.stkLocked so.toNat bs.length = false → t.stkOn so.toNat bs.length = true → exec (.stkWrite h so bs) s =
        .next (({ t with mem := t.mem.write (stacksAddr so.toNat) bs [] }).replied h i k 0 []))) := by
  refine ⟨fun hn => congrArg Host.Outcome.next ((State.heard_of_session ht).trans (if_pos hn)), fun hpos hle => ?_⟩
  have hn : ¬ (bs.length = 0 ∨ 4096 < bs.length) := by omega
  refine ⟨fun hl => ?_, fun hl hon => ?_, fun hl hon => ?_⟩
  · exact congrArg Host.Outcome.next ((State.heard_of_session ht).trans ((if_neg hn).trans ((if_pos hl).trans
      (State.result_of_session ht (by rfl) _ _))))
  · exact congrArg Host.Outcome.next ((State.heard_of_session ht).trans ((if_neg hn).trans ((if_neg (Bool.eq_false_iff.1 hl)).trans
      ((if_neg (Bool.eq_false_iff.1 hon)).trans (State.result_of_session ht rfl _ _)))))
  · exact congrArg Host.Outcome.next ((State.heard_of_session ht).trans ((if_neg hn).trans ((if_neg (Bool.eq_false_iff.1 hl)).trans
      ((if_pos hon).trans (State.result_of_session ht (by rfl) _ _)))))

theorem nvmProgram_of_some {off len : W32} {so : W64} {x : State}
    (ht : s.fromSession h 0x13 ([0] ++ leBytes 4 off.toNat ++ leBytes 8 so.toNat ++ leBytes 4 len.toNat) i k t)
    (hx : t.program off.toNat so.toNat len.toNat = some x) : exec (.nvmProgram h off so len) s = .next (x.replied h i k 0 []) := by
  refine congrArg Host.Outcome.next ((State.heard_of_session ht).trans ?_)
  rw [hx]
  exact State.result_of_session ht (by rw [(State.program_spec hx).1]) _ _

theorem nvmProgram_of_none {off len : W32} {so : W64}
    (ht : s.fromSession h 0x13 ([0] ++ leBytes 4 off.toNat ++ leBytes 8 so.toNat ++ leBytes 4 len.toNat) i k t)
    (hx : t.program off.toNat so.toNat len.toNat = none) : exec (.nvmProgram h off so len) s = .next (t.replied h i k 1 []) := by
  refine congrArg Host.Outcome.next ((State.heard_of_session ht).trans ?_)
  rw [hx]
  exact State.result_of_session ht rfl _ _

theorem nvmWriteKeySlot_spec {slot : Fin 4} {key : List Byte} (ht : s.fromSession h 0x13 ([1] ++ leBytes 1 slot.val ++ key) i k t) :
    (key.length = 96 → exec (.nvmWriteKeySlot h slot key) s =
      .next (({ t with nvm := { t.nvm with keySlots := t.nvm.keySlots.set slot key } }).replied h i k 0 [])) ∧
    (key.length ≠ 96 → exec (.nvmWriteKeySlot h slot key) s = .next (t.refuseSess h.path 4)) :=
  ⟨fun hn => congrArg Host.Outcome.next ((State.heard_of_session ht).trans ((if_pos hn).trans (State.result_of_session ht (by rfl) _ _))),
    fun hn => congrArg Host.Outcome.next ((State.heard_of_session ht).trans (if_neg hn))⟩

theorem nvmRaiseVfloor_spec {w : W32} (ht : s.fromSession h 0x13 ([2] ++ leBytes 4 w.toNat) i k t) :
    (t.nvm.vfloor ≤ w.toNat → exec (.nvmRaiseVfloor h w) s = .next (({ t with nvm := { t.nvm with vfloor := w.toNat } }).replied h i k 0 [])) ∧
    (w.toNat < t.nvm.vfloor → exec (.nvmRaiseVfloor h w) s = .next (t.replied h i k 1 [])) :=
  ⟨fun hn => congrArg Host.Outcome.next ((State.heard_of_session ht).trans ((if_pos hn).trans (State.result_of_session ht (by rfl) _ _))),
    fun hn => congrArg Host.Outcome.next ((State.heard_of_session ht).trans ((if_neg (Nat.not_le.2 hn)).trans
      (State.result_of_session ht rfl _ _)))⟩

end

/-- What the end of a lifetime does, and of a lockout. -/
theorem sessionEnds_spec (s : State) (i : Fin 4) (k : Session) :
    (s.cfg.sessions[i] = some k →
      (k.ends ≤ s.now → exec (.sessionExpire i) s = .next (s.setSession i none)) ∧ (s.now < k.ends → exec (.sessionExpire i) s = .next s)) ∧
    (s.cfg.sessions[i] = none → exec (.sessionExpire i) s = .next s) ∧
    (s.sessLocked = false → exec .sessionLockEnd s = .next { s with nvm := { s.nvm with lockEnd := 0 } }) ∧
    (s.sessLocked = true → exec .sessionLockEnd s = .next s) := by
  refine ⟨fun hk => ⟨fun h => congrArg Host.Outcome.next ?_, fun h => congrArg Host.Outcome.next ?_⟩,
    fun hk => congrArg Host.Outcome.next ?_, fun h => congrArg Host.Outcome.next (if_neg (Bool.eq_false_iff.1 h)),
    fun h => congrArg Host.Outcome.next (if_pos h)⟩
  · rw [hk]; exact if_pos h
  · rw [hk]; exact if_neg (Nat.not_le.2 h)
  · rw [hk]

/-- Settles O60: the handshake by what the greeting and the proof say, a session's message by its tests and its meaning. -/
theorem sessionMessages : Obligations.SessionMessages := by
  unfold Obligations.SessionMessages
  refine ⟨fun s s1 p nc body life g i => ⟨hello_of_none, fun ht => ?_, proof_of_none, fun ht => ?_⟩,
    fun s s1 t v h off len w so ws bs key i slot k => ?_, sessionEnds_spec⟩
  · have hgreet := hello_of_some ht
    exact ⟨fun hl hn => hgreet.trans (congrArg _ (State.greet_of_room hl hn)), fun hl => hgreet.trans (congrArg _ (State.greet_of_locked hl)),
      fun hl hn => hgreet.trans (congrArg _ (State.greet_of_full hl hn))⟩
  · have hjudge := proof_of_some ht
    refine ⟨fun hl => hjudge.trans (congrArg _ (State.judge_of_locked hl)),
      fun hl hg => hjudge.trans (congrArg _ (State.judge_of_ungreeted hl hg)), fun hl hg => ⟨fun hb hfree => ?_, fun hb hfull => ?_,
      fun hb hn => ?_, fun hb hn => ?_⟩⟩
    · have hp : g.path = p := beq_iff_eq.1 (List.find?_some (p := fun x : Greeting => x.path == p) hg)
      obtain ⟨hframe, hcfg, hothers, hplace⟩ :=
        (s1.ungreeted p).seated_spec i ((s1.ungreeted p).newSession g i ((s1.ungreeted p).keyMaterial g i)) rfl
      refine ⟨_, hjudge.trans (congrArg _ ((State.judge_opens hl hg hb hfree).trans (State.openSession_eq _ _ _))), _, hframe, hcfg, hothers, ?_, ?_⟩
      · rw [hplace, ← hp]; rfl
      · rw [← hp]; rfl
    · exact hjudge.trans (congrArg _ (State.judge_of_full hl hg hb (State.noPlace_of_full hfull)))
    · exact hjudge.trans (congrArg _ ((State.judge_of_wrong hl hg hb).trans (by
        rw [State.failProof_of_lt (s := s1.ungreeted p) hn]; rfl)))
    · obtain ⟨hframe, hlog⟩ := (s1.ungreeted p).failProof_locks hn rfl
      exact ⟨_, hjudge.trans (congrArg _ (State.judge_of_wrong hl hg hb)), _, hframe, hlog, rfl⟩
  · refine ⟨?_, sessionRead_spec, sessionWrite_spec, stkWrite_spec, fun ht => ⟨fun x hx => ⟨nvmProgram_of_some ht hx, State.program_spec hx⟩,
      nvmProgram_of_none ht⟩, nvmWriteKeySlot_spec, nvmRaiseVfloor_spec, fun ht => congrArg Host.Outcome.next (State.heard_of_session ht)⟩
    exact List.forall_mem_cons.2 ⟨message_of_heard (sessionRead_heard s h off len) rfl,
      List.forall_mem_cons.2 ⟨message_of_heard (sessionWrite_heard s h off ws) rfl,
      List.forall_mem_cons.2 ⟨message_of_heard (stkWrite_heard s h so bs) rfl,
      List.forall_mem_cons.2 ⟨message_of_heard (nvmProgram_heard s h off len so) rfl,
      List.forall_mem_cons.2 ⟨message_of_heard (nvmWriteKeySlot_heard s h key slot) rfl,
      List.forall_mem_cons.2 ⟨message_of_heard (nvmRaiseVfloor_heard s h w) rfl,
      List.forall_mem_cons.2 ⟨message_of_heard (close_heard s h) rfl, fun _ hm => absurd hm List.not_mem_nil⟩⟩⟩⟩⟩⟩⟩

end Sys2Proof.Machine
end

section
/-! PROOFS. Packets received on the Morkan link: those that their row turns down (Table LNK-9). -/

namespace Sys2Proof.Machine

/-! ## What the fabric counts of a packet (R389) -/

section
variable (s : State) (p : LinkPacket)

theorem State.countMap_frame (f : CMapAcc → CMapAcc) : s.countMap f = { s with fab := (s.countMap f).fab } := by
  unfold State.countMap State.rollMap
  split <;> rfl

theorem State.countReceived_frame (n : Nat) (w : Bool) : s.countReceived p n w = { s with fab := (s.countReceived p n w).fab } := by
  unfold State.countReceived
  dsimp only
  split
  · rw [State.countMap_frame]; rfl
  · rfl

theorem State.countApplied_frame (x : BitVec 16) (a n : Nat) : s.countApplied x a n = { s with fab := (s.countApplied x a n).fab } := by
  unfold State.countApplied
  split
  · rfl
  · dsimp only
    split
    · rfl
    · split <;> rfl

theorem State.countTurned_frame : s.countTurned p = { s with fab := (s.countTurned p).fab } := by
  unfold State.countTurned
  dsimp only
  split
  · split
    · rw [State.countApplied_frame, State.countReceived_frame]
    · rfl
  · rfl

end

/-! ## Answers of the receiver (R366, R367) -/

section
variable {g : GroupIx} {b : SubIx}

/-- What an answer to a packet looks at is the same in two states. -/
structure answersAlike (g : GroupIx) (b : SubIx) (s t : State) : Prop where
  glb : t.glb = s.glb
  now : t.now = s.now
  last : (t.sub g b).lastNack = (s.sub g b).lastNack
  tx : (t.group g).nackTx = (s.group g).nackTx
  supp : (t.group g).nackSupp = (s.group g).nackSupp

theorem answersAlike.trans {s t v : State} (h : answersAlike g b s t) (k : answersAlike g b t v) : answersAlike g b s v :=
  ⟨k.glb.trans h.glb, k.now.trans h.now, k.last.trans h.last, k.tx.trans h.tx, k.supp.trans h.supp⟩

/-- A NACK is the same NACK to a state that looks alike. -/
theorem State.nacked_of_alike {s t u : State} {p : LinkPacket} {code credits : Nat} (h : answersAlike g b s t)
    (hn : t.nacked u g b p code credits) : s.nacked u g b p code credits := by
  have hbase (typ : Byte) (vc : BitVec 3) (dst : Byte) (key ctx : BitVec 16) : t.linkBase typ vc dst key ctx = s.linkBase typ vc dst key ctx := by
    unfold State.linkBase
    rw [h.glb]
  unfold State.nacked at hn ⊢
  rw [h.last, h.now, h.tx, h.supp, hbase] at hn
  exact hn

/-- A NACK leaves, or is held back as the second of its code within 1 µs. -/
theorem State.sendNack_spec (s : State) (g : GroupIx) (b : SubIx) (p : LinkPacket) (code credits : Nat) {u : State}
    (hu : u = s.sendNack g b p code credits) : sendsOnly g s u ∧ (u.group g).score = (s.group g).score ∧
      (u.group g).quarDrop = (s.group g).quarDrop ∧ s.nacked u g b p code credits := by
  unfold State.sendNack at hu
  unfold State.nacked
  dsimp only at hu
  by_cases h : ((s.sub g b).lastNack.any fun x => x.1 == BitVec.ofNat 8 code && decide (s.now < x.2 + 1000)) = true
  · rw [if_pos h] at hu ⊢
    have hg : u.group g = { s.group g with nackSupp := bump (s.group g).nackSupp } := by rw [hu]; exact State.modGroup_group s g _
    exact ⟨hu ▸ s.modGroup_sendsOnly g _, by rw [hg], by rw [hg], by rw [hg], by rw [hg]⟩
  · rw [if_neg h] at hu ⊢
    have hsends := (s.modGroup_sendsOnly g fun k => { k with nackTx := bump k.nackTx }).trans (State.modSub_sendsOnly _ g b fun k =>
      { k with lastNack := (BitVec.ofNat 8 code, s.now) :: k.lastNack.filter fun x => x.1 != BitVec.ofNat 8 code })
    have hg : ∃ l, (((s.modGroup g fun k => { k with nackTx := bump k.nackTx }).modSub g b fun k =>
        { k with lastNack := (BitVec.ofNat 8 code, s.now) :: k.lastNack.filter fun x => x.1 != BitVec.ofNat 8 code }).group g) =
        { s.group g with nackTx := bump (s.group g).nackTx, sub := l } :=
      ⟨_, (State.modGroup_group _ g _).trans (by rw [State.modGroup_group])⟩
    generalize ((s.modGroup g fun k => { k with nackTx := bump k.nackTx }).modSub g b fun k =>
      { k with lastNack := (BitVec.ofNat 8 code, s.now) :: k.lastNack.filter fun x => x.1 != BitVec.ofNat 8 code }) = t at *
    obtain ⟨l, hg⟩ := hg
    have hp := t.sendLink_pumps g b { s.linkBase 0x21 0 (if validSrc p.src then p.src else 0xFF) 0xFFFF p.ctx with
      tag := p.tag, body := [BitVec.ofNat 8 code, p.typ] ++ leBytes 2 p.ctx.toNat ++ leBytes 2 credits ++ zeros 2 ++ leBytes 8 p.addr.toNat }
    have hsent := t.sendLink_sentOrQueued g b { s.linkBase 0x21 0 (if validSrc p.src then p.src else 0xFF) 0xFFFF p.ctx with
      tag := p.tag, body := [BitVec.ofNat 8 code, p.typ] ++ leBytes 2 p.ctx.toNat ++ leBytes 2 credits ++ zeros 2 ++ leBytes 8 p.addr.toNat }
    rw [← hu] at hp hsent
    have hug : u.group g = { s.group g with nackTx := bump (s.group g).nackTx, sub := (u.group g).sub } := by
      rw [hp.group, hg]
    exact ⟨hsends.trans hp.sends, by rw [hug], by rw [hug], by rw [hug], by rw [hug], hsent⟩

/-- The answer to a packet that a check refuses. -/
theorem State.rxAnswer_spec (s : State) (g : GroupIx) (b : SubIx) (p : LinkPacket) (code credits : Nat) {u : State}
    (hu : u = s.rxAnswer g b p code credits) : sendsOnly g s u ∧ (u.group g).score = (s.group g).score ∧
      (u.group g).quarDrop = (s.group g).quarDrop ∧
      (code ≠ 0x16 → p.typ = 0 → u.sentOrQueued g b { s.linkBase 5 2 p.src p.pkey p.ctx with status := BitVec.ofNat 8 code, tag := p.tag }) ∧
      (code ≠ 0x16 → p.typ ≠ 0 → p.typ ≠ 0x20 → p.typ ≠ 0x21 → p.typ ≠ 0x22 → s.nacked u g b p code credits) := by
  unfold State.rxAnswer at hu
  by_cases hno : (code = 0x16 || p.typ == 0x20 || p.typ == 0x21 || p.typ == 0x22) = true
  · rw [if_pos hno] at hu
    subst hu
    refine ⟨sendsOnly.refl g u, rfl, rfl, fun hc ht => ?_, fun hc h0 h20 h21 h22 => ?_⟩
    · rw [ht] at hno
      simp [hc] at hno
    · simp only [Bool.or_eq_true, decide_eq_true_eq, beq_iff_eq, hc, h20, h21, h22, or_self] at hno
  · rw [if_neg hno] at hu
    by_cases h0 : p.typ = 0
    · rw [if_pos h0] at hu
      have hp := s.sendLink_pumps g b { s.linkBase 5 2 p.src p.pkey p.ctx with status := BitVec.ofNat 8 code, tag := p.tag }
      have hsent := s.sendLink_sentOrQueued g b { s.linkBase 5 2 p.src p.pkey p.ctx with status := BitVec.ofNat 8 code, tag := p.tag }
      have hu' : u = s.sendLink g b { s.linkBase 5 2 p.src p.pkey p.ctx with status := BitVec.ofNat 8 code, tag := p.tag } := hu
      rw [← hu'] at hp hsent
      exact ⟨hp.sends, by rw [hp.group], by rw [hp.group], fun _ _ => hsent, fun _ h => absurd h0 h⟩
    · rw [if_neg h0] at hu
      obtain ⟨hsends, hscore, hdrop, hnack⟩ := s.sendNack_spec g b p code credits hu
      exact ⟨hsends, hscore, hdrop, fun _ h => absurd h h0, fun _ _ _ _ _ => hnack⟩

/-! ## Refusals (R366, R470) -/

/-- What a violation changes of the group beside its score. -/
theorem State.violation_group (s : State) (g : GroupIx) (b : SubIx) (code : Nat) : ∃ q, (s.violation g b code).group g =
    { s.group g with score := (s.group g).score + 1, viol := bump (s.group g).viol, lastCode := BitVec.ofNat 7 code, quar := q } := by
  have hmod (w : State) (f : LinkGroup → LinkGroup) (cls loc : Nat) : ((w.modGroup g f).linkEvent g b cls loc).group g = f (w.group g) := by
    rw [State.linkEvent_only]
    exact State.modGroup_group w g f
  unfold State.violation
  dsimp only
  split
  · exact ⟨true, (hmod _ _ 4 0x43).trans (by rw [hmod])⟩
  · exact ⟨(s.group g).quar, hmod _ _ 0 code⟩

/-- What a refusal does before its answer. -/
def State.rxCounted (s : State) (g : GroupIx) (b : SubIx) (p : LinkPacket) (code : Nat) : State :=
  (if code = 0x17 then s.modGroup g fun k => { k with quarDrop := bump k.quarDrop }
    else if codeViolates code && !(code == 0x18 && ((s.group g).loopMode b == 1 || (s.group g).loopMode b == 3)) then s.violation g b code
    else s).countTurned p

/-- The loop whose misrouted packets are no violation. -/
theorem looped_iff (s : State) (g : GroupIx) (b : SubIx) (code : Nat) :
    (code == 0x18 && ((s.group g).loopMode b == 1 || (s.group g).loopMode b == 3)) = true ↔
      code = 0x18 ∧ ((s.group g).loopMode b = 1 ∨ (s.group g).loopMode b = 3) := by
  simp only [Bool.and_eq_true, Bool.or_eq_true, beq_iff_eq]

/-- A violation or a drop of the quarantine is counted, and what the context counts of it. -/
theorem State.rxCounted_spec (s : State) (g : GroupIx) (b : SubIx) (p : LinkPacket) (code : Nat) {t : State} (ht : t = s.rxCounted g b p code) :
    linkLogsOnly g s t ∧ answersAlike g b s t ∧ (code = 0x17 → (t.group g).quarDrop = bump (s.group g).quarDrop) ∧
      (t.group g).score = if codeViolates code = true ∧ ¬ (code = 0x18 ∧ ((s.group g).loopMode b = 1 ∨ (s.group g).loopMode b = 3)) then
        (s.group g).score + 1 else (s.group g).score := by
  have counted {w : State} (hw : linkLogsOnly g s w) (ha : answersAlike g b s w) : linkLogsOnly g s (w.countTurned p) ∧
      answersAlike g b s (w.countTurned p) ∧ (w.countTurned p).group g = w.group g := by
    rw [State.countTurned_frame]
    exact ⟨hw.trans (w.withFab_sendsOnly g _).logs, ha.trans ⟨rfl, rfl, rfl, rfl, rfl⟩, rfl⟩
  unfold State.rxCounted at ht
  by_cases h17 : code = 0x17
  · rw [if_pos h17] at ht
    have hsub : (s.modGroup g fun k => { k with quarDrop := bump k.quarDrop }).group g =
        { s.group g with quarDrop := bump (s.group g).quarDrop } := State.modGroup_group s g _
    have halike : answersAlike g b s (s.modGroup g fun k => { k with quarDrop := bump k.quarDrop }) :=
      ⟨rfl, rfl, (congrArg (fun k : LinkGroup => k.sub[b].lastNack) hsub).trans rfl, by rw [hsub], by rw [hsub]⟩
    obtain ⟨hl, ha, hg⟩ := counted (s.modGroup_sendsOnly g _).logs halike
    rw [← ht, hsub] at hg
    rw [← ht] at hl ha
    have hquiet : codeViolates code = false := by rw [h17]; rfl
    exact ⟨hl, ha, fun _ => by rw [hg], by rw [hg, if_neg fun e => Bool.eq_false_iff.1 hquiet e.1]⟩
  · rw [if_neg h17] at ht
    by_cases hv : (codeViolates code && !(code == 0x18 && ((s.group g).loopMode b == 1 || (s.group g).loopMode b == 3))) = true
    · rw [if_pos hv] at ht
      obtain ⟨honly, -, hsubs⟩ := s.violation_spec g b code
      obtain ⟨q, hgroup⟩ := s.violation_group g b code
      obtain ⟨hl, ha, hg⟩ := counted honly ⟨(congrArg State.glb honly.1).trans rfl, (congrArg State.now honly.1).trans rfl,
        congrArg Sublink.lastNack (hsubs b), by rw [hgroup], by rw [hgroup]⟩
      rw [← ht, hgroup] at hg
      rw [← ht] at hl ha
      rw [Bool.and_eq_true, Bool.not_eq_true', Bool.eq_false_iff, Ne, looped_iff] at hv
      exact ⟨hl, ha, fun e => absurd e h17, by rw [hg, if_pos hv]⟩
    · rw [if_neg hv] at ht
      obtain ⟨hl, ha, hg⟩ := counted (linkLogsOnly.refl g s) ⟨rfl, rfl, rfl, rfl, rfl⟩
      rw [← ht] at hl ha hg
      rw [Bool.and_eq_true, Bool.not_eq_true', Bool.eq_false_iff, Ne, looped_iff] at hv
      exact ⟨hl, ha, fun e => absurd e h17, by rw [hg, if_neg hv]⟩

/-- A packet refused with a code is refused as Table LNK-9 says. -/
theorem State.rxRefuse_spec (s : State) (g : GroupIx) (b : SubIx) (p : LinkPacket) (code : Nat) {u : State}
    (hu : u = s.rxRefuse g b p code) : s.refusedBy u g b p code := by
  obtain ⟨hl, ha, hdrop, hscore⟩ := s.rxCounted_spec g b p code rfl
  have hu' : u = (s.rxCounted g b p code).rxAnswer g b p code 0 := hu
  generalize s.rxCounted g b p code = t at *
  obtain ⟨hsends, hscore', hdrop', herr, hnack⟩ := t.rxAnswer_spec g b p code 0 hu'
  refine ⟨(hl.trans hsends.logs).1, fun h => hdrop'.trans (hdrop h), hscore'.trans hscore, fun hc h0 => ?_,
    fun hc h0 h20 h21 h22 => State.nacked_of_alike ha (hnack hc h0 h20 h21 h22)⟩
  have hbase : t.linkBase 5 2 p.src p.pkey p.ctx = s.linkBase 5 2 p.src p.pkey p.ctx := by
    unfold State.linkBase; rw [ha.glb]
  rw [← hbase]
  exact herr hc h0

/-- A refusal after the packet has left the receive buffer. -/
theorem State.refusedBy_of_alike {s t u : State} {p : LinkPacket} {code : Nat} (ht : t = { s with links := t.links })
    (ha : answersAlike g b s t) (hscore : (t.group g).score = (s.group g).score) (hdrop : (t.group g).quarDrop = (s.group g).quarDrop)
    (hloop : (t.group g).loopMode b = (s.group g).loopMode b) (h : t.refusedBy u g b p code) : s.refusedBy u g b p code := by
  have hbase (typ : Byte) (vc : BitVec 3) (dst : Byte) (key ctx : BitVec 16) : t.linkBase typ vc dst key ctx = s.linkBase typ vc dst key ctx := by
    unfold State.linkBase
    rw [ha.glb]
  obtain ⟨hframe, hquar, hs, herr, hnack⟩ := h
  rw [hscore, hloop] at hs
  rw [hbase] at herr
  exact ⟨by rw [hframe, ht], fun h => (hquar h).trans (by rw [hdrop]), hs, herr,
    fun hc h0 h20 h21 h22 => State.nacked_of_alike ha (hnack hc h0 h20 h21 h22)⟩

/-- The receive buffer says nothing to an answer. -/
theorem Sublink.freeRx_lastNack (k : Sublink) (p : LinkPacket) : (k.freeRx p).lastNack = k.lastNack := by
  unfold Sublink.freeRx
  dsimp only
  split <;> rfl

theorem State.freed_alike (s : State) (g : GroupIx) (b : SubIx) (p : LinkPacket) :
    answersAlike g b s (s.modSub g b fun k => k.freeRx p) := by
  have hgroup : (s.modSub g b fun k => k.freeRx p).group g = { s.group g with sub := upd (s.group g).sub b fun k => k.freeRx p } :=
    State.modGroup_group s g _
  exact ⟨rfl, rfl, by rw [State.modSub_sub, Sublink.freeRx_lastNack], by rw [hgroup], by rw [hgroup]⟩

/-- A packet that is refused once it has left the receive buffer. -/
theorem State.refusedBy_of_freed {s u : State} {p : LinkPacket} {code : Nat}
    (h : (s.modSub g b fun k => k.freeRx p).refusedBy u g b p code) : s.refusedBy u g b p code := by
  have hgroup : (s.modSub g b fun k => k.freeRx p).group g = { s.group g with sub := upd (s.group g).sub b fun k => k.freeRx p } :=
    State.modGroup_group s g _
  exact State.refusedBy_of_alike rfl (s.freed_alike g b p) (by rw [hgroup]) (by rw [hgroup]) (by rw [hgroup]; rfl) h

/-! ## A packet row (R351, R366) -/

section
variable {s : State} {p : LinkPacket} {typ : Byte} {eff : State → State}

theorem State.received_of_deaf (h : s.hears g b = false) : s.received g b p typ eff = s := if_pos (by rw [h]; rfl)

theorem State.received_of_admits (h : s.admits g b p typ) : s.received g b p typ eff = eff (s.modSub g b fun k => k.freeRx p) := by
  obtain ⟨hh, hc, ht⟩ := h
  refine (if_neg (by rw [hh]; decide)).trans ?_
  dsimp only
  rw [hc]
  exact if_pos (beq_iff_eq.2 ht)

theorem State.received_of_other (hh : s.hears g b = true) (hc : s.rxCheck g b p = 0) (ht : p.typ ≠ typ) :
    s.received g b p typ eff = s.modSub g b fun k => k.freeRx p := by
  refine (if_neg (by rw [hh]; decide)).trans ?_
  dsimp only
  rw [hc]
  exact if_neg fun e => ht (beq_iff_eq.1 e)

theorem State.received_of_bad (hh : s.hears g b = true) (hc : s.rxCheck g b p ≠ 0) :
    s.received g b p typ eff = (s.modSub g b fun k => k.freeRx p).rxRefuse g b p (s.rxCheck g b p) := by
  refine (if_neg (by rw [hh]; decide)).trans ?_
  dsimp only
  split
  next h => exact absurd h hc
  next => rfl

/-- A packet row turns down what it does not take. -/
theorem turnsDown_of_received {o : Host.Outcome State Fault Refusal} (ho : o = .next (s.received g b p typ eff)) : s.turnsDown g b p typ o :=
  ⟨fun h => ho.trans (congrArg _ (State.received_of_deaf h)), fun hh hc ht => ho.trans (congrArg _ (State.received_of_other hh hc ht)),
    fun hh hc => ⟨_, ho.trans (congrArg _ (State.received_of_bad hh hc)), State.refusedBy_of_freed (State.rxRefuse_spec _ g b p _ rfl)⟩⟩

end

end

end Sys2Proof.Machine
end

section
/-! PROOFS. Belay grants, leases and revocation. -/

namespace Sys2Proof.Machine

/-! ## Grants received (R368, R389, R394) -/

/-- With no descriptor's data waiting none tries again. -/
theorem State.pumpRuns_of_idle {s : State} (h : ∀ r ∈ s.grd.colls, r.todo = []) : s.pumpRuns = s := by
  have hnil : (s.grd.colls.filter fun r => !r.todo.isEmpty) = [] := by
    refine List.filter_eq_nil_iff.2 fun r hr => ?_
    rw [h r hr]
    decide
  unfold State.pumpRuns
  rw [hnil]
  rfl

/-- Every request of a context goes on. -/
def goesOn (ctx : BitVec 16) (id : Nat) (s : State) : Prop := ∀ y ∈ s.memu.reqs, y.id = id → y.ctx = ctx → y.parked = false

section
variable {s : State} {ctx : BitVec 16}

/-- What is done for one parked write as its context resumes. -/
def State.resendOne (s : State) (ctx : BitVec 16) (r : Req) : State :=
  let s1 := s.modReq r.id fun x => { x with parked := false, deadline := s.now + s.timeoutOf x.kind }
  match r.pkt, s.ctx? ctx with
  | some p, some k => s1.sendLink k.group (ctxSub ctx) p
  | _, _ => s1

/-- Its request goes on, and every other stays as it is. -/
theorem State.resendOne_reqs (s : State) (ctx : BitVec 16) (r : Req) : (s.resendOne ctx r).memu.reqs =
    s.memu.reqs.map fun x => if x.id == r.id then { x with parked := false, deadline := s.now + s.timeoutOf x.kind } else x := by
  unfold State.resendOne
  dsimp only
  split
  · next p k _ _ =>
    have hmemu := congrArg State.memu ((s.modReq r.id fun x => { x with parked := false, deadline := s.now + s.timeoutOf x.kind }).sendLink_pumps
      k.group (ctxSub ctx) p).sends.1
    exact (congrArg MemUnit.reqs hmemu).trans rfl
  · rfl

theorem State.resendOne_goesOn (s : State) (r : Req) : goesOn ctx r.id (s.resendOne ctx r) := by
  intro y hy hid _
  rw [State.resendOne_reqs] at hy
  obtain ⟨x, -, rfl⟩ := List.mem_map.1 hy
  by_cases hx : (x.id == r.id) = true
  · rw [if_pos hx]
  · rw [if_neg hx] at hid
    exact absurd (beq_iff_eq.2 hid) hx

theorem State.resendOne_keeps_goesOn {id : Nat} (h : goesOn ctx id s) (r : Req) : goesOn ctx id (s.resendOne ctx r) := by
  intro y hy hid hctx
  rw [State.resendOne_reqs] at hy
  obtain ⟨x, hx, rfl⟩ := List.mem_map.1 hy
  by_cases hr : (x.id == r.id) = true
  · rw [if_pos hr]
  · rw [if_neg hr] at hid hctx ⊢
    exact h x hx hid hctx

/-- No request is parked that was not, and none is of another context or number. -/
theorem State.resendOne_reqs_from (r : Req) {y : Req} (hy : y ∈ (s.resendOne ctx r).memu.reqs) :
    ∃ x ∈ s.memu.reqs, x.id = y.id ∧ x.ctx = y.ctx ∧ (y.parked = true → x.parked = true) := by
  rw [State.resendOne_reqs] at hy
  obtain ⟨x, hx, rfl⟩ := List.mem_map.1 hy
  by_cases hr : (x.id == r.id) = true
  · rw [if_pos hr]
    exact ⟨x, hx, rfl, rfl, nofun⟩
  · rw [if_neg hr]
    exact ⟨x, hx, rfl, rfl, id⟩

theorem State.resendParked_eq (s : State) (ctx : BitVec 16) :
    s.resendParked ctx = (s.memu.reqs.filter fun r => r.parked && r.ctx == ctx).foldl (fun s r => s.resendOne ctx r) s := rfl

/-- No write of a context stays parked once it has resumed. -/
theorem State.resendParked_unparks (s : State) (ctx : BitVec 16) {y : Req} (hy : y ∈ (s.resendParked ctx).memu.reqs) (hctx : y.ctx = ctx) :
    y.parked = false := by
  rw [State.resendParked_eq] at hy
  have hfrom : ∃ x ∈ s.memu.reqs, x.id = y.id ∧ x.ctx = y.ctx ∧ (y.parked = true → x.parked = true) := by
    refine List.foldlRecOn (motive := fun t : State => ∀ y ∈ t.memu.reqs, ∃ x ∈ s.memu.reqs, x.id = y.id ∧ x.ctx = y.ctx ∧
      (y.parked = true → x.parked = true)) (s.memu.reqs.filter fun r => r.parked && r.ctx == ctx) (fun s r => State.resendOne s ctx r)
      (fun x hx => ⟨x, hx, rfl, rfl, id⟩) (fun t ht r _ z hz => ?_) y hy
    obtain ⟨x, hx, hid, hc, hp⟩ := State.resendOne_reqs_from r hz
    obtain ⟨w, hw, hid', hc', hp'⟩ := ht x hx
    exact ⟨w, hw, hid'.trans hid, hc'.trans hc, fun e => hp' (hp e)⟩
  obtain ⟨x, hx, hid, hc, hp⟩ := hfrom
  refine Bool.eq_false_iff.2 fun hpark => ?_
  have hmem : x ∈ s.memu.reqs.filter fun r => r.parked && r.ctx == ctx :=
    List.mem_filter.2 ⟨hx, by rw [hp hpark, hc.trans hctx]; exact beq_self_eq_true ctx⟩
  have hgoes :=
    foldl_reaches (R := fun _ => True) (P := goesOn ctx x.id) (F := fun s r => State.resendOne s ctx r) hmem (fun _ _ _ => trivial)
      (fun _ r ht => State.resendOne_keeps_goesOn ht r) (fun t _ => t.resendOne_goesOn x) s trivial
  exact absurd hpark (Bool.eq_false_iff.1 (hgoes y hy hid.symm hctx))

end

/-- What a grant makes of a context, written out. -/
theorem Ctx.takeGrant_eq (k : Ctx) (n lease : Nat) (resume : Bool) (now : Nat) : k.takeGrant n lease resume now = { k with
    held := if k.holdExp = true then k.held else k.held + n
    lease := if n = 0 ∧ resume = false then k.lease else max 2 lease
    lendAt := if n = 0 ∧ resume = false then now else k.lendAt
    parked := k.parked && !resume } := by
  unfold Ctx.takeGrant
  simp only [Bool.not_eq_true']

/-- A grant changes its own context. -/
theorem State.modCtx_takeGrant (s : State) (ctx : BitVec 16) (n lease : Nat) (resume : Bool) (now : Nat) :
    (∀ k, s.ctx? ctx = some k → (s.modCtx ctx fun k => k.takeGrant n lease resume now).ctx? ctx = some (k.takeGrant n lease resume now)) ∧
      ∀ j, j ≠ ctx → (s.modCtx ctx fun k => k.takeGrant n lease resume now).ctx? j = s.ctx? j := by
  have hmod := State.modCtx_ctx s (h := fun k => k.takeGrant n lease resume now) (fun _ => rfl) ctx
  refine ⟨fun k hk => ?_, fun j hj => ?_⟩
  · rw [hmod, hk]
    exact congrArg some (if_pos (beq_iff_eq.2 (State.ctx_ctx hk)))
  · rw [hmod]
    cases hk : s.ctx? j with
    | none => rfl
    | some k => exact congrArg some (if_neg fun e => hj ((State.ctx_ctx hk).symm.trans (beq_iff_eq.1 e)))

/-- The row of a belay grant: its context, then the data and the writes that waited for it. -/
theorem belayGrant_of_admits {s : State} {g : GroupIx} {b : SubIx} {p : LinkPacket} (h : s.admits g b p 0x20) :
    let ctx := BitVec.ofNat 16 (fieldAt p.body 0 2)
    let n := fieldAt p.body 2 2
    let resume := bit (fieldAt p.body 6 1) 0
    answers (exec (.belayGrant g b p) s) fun u => ∃ v : State, v = { s with fab := v.fab, links := v.links } ∧
      (∀ k, s.ctx? ctx = some k → v.ctx? ctx = some { k with
        held := if k.holdExp = true then k.held else k.held + n
        lease := if n = 0 ∧ resume = false then k.lease else max 2 (fieldAt p.body 4 2)
        lendAt := if n = 0 ∧ resume = false then s.now else k.lendAt
        parked := k.parked && !resume }) ∧
      (∀ j, j ≠ ctx → v.ctx? j = s.ctx? j) ∧
      ((∀ r ∈ s.grd.colls, r.todo = []) → v.pumpRuns = v) ∧
      (resume = false → u = v.pumpRuns) ∧
      (resume = true → u = v.pumpRuns.resendParked ctx ∧ ∀ y ∈ u.memu.reqs, y.ctx = ctx → y.parked = false) := by
  intro ctx n resume
  have hmod := State.modCtx_takeGrant (s.modSub g b fun k => k.freeRx p) ctx n (fieldAt p.body 4 2) resume s.now
  have hframe : ((s.modSub g b fun k => k.freeRx p).modCtx ctx fun k => k.takeGrant n (fieldAt p.body 4 2) resume s.now) =
    { s with fab := _, links := _ } := rfl
  have hexec : exec (.belayGrant g b p) s = .next (
      if resume = true then ((s.modSub g b fun k => k.freeRx p).modCtx ctx fun k =>
        k.takeGrant n (fieldAt p.body 4 2) resume s.now).pumpRuns.resendParked ctx
      else ((s.modSub g b fun k => k.freeRx p).modCtx ctx fun k => k.takeGrant n (fieldAt p.body 4 2) resume s.now).pumpRuns) :=
    congrArg Host.Outcome.next (State.received_of_admits h)
  have hcolls : ((s.modSub g b fun k => k.freeRx p).modCtx ctx fun k => k.takeGrant n (fieldAt p.body 4 2) resume s.now).grd = s.grd := rfl
  generalize ((s.modSub g b fun k => k.freeRx p).modCtx ctx fun k => k.takeGrant n (fieldAt p.body 4 2) resume s.now) = v at *
  refine ⟨_, hexec, v, ?_, fun k hk => ?_, hmod.2, fun hr => State.pumpRuns_of_idle (by rw [hcolls]; exact hr),
    fun hr => if_neg (Bool.eq_false_iff.1 hr), fun hr => ?_⟩
  · rw [hframe]
  · rw [hmod.1 k hk, Ctx.takeGrant_eq]
  · rw [if_pos hr]
    exact ⟨rfl, fun y hy hctx => v.pumpRuns.resendParked_unparks ctx hy hctx⟩

/-! ## Grants sent (R390, R394) -/

/-- A context last held its credits now. -/
def heldNow (ctx : BitVec 16) (s : State) : Prop := ∀ k, s.ctx? ctx = some k → k.holdAt = s.now

section
variable {s : State} {ctx : BitVec 16}

theorem State.chargeRope_ctxs (s : State) (g : GroupIx) (p : LinkPacket) : (s.chargeRope g p).fab.ctxs = s.fab.ctxs := by
  unfold State.chargeRope
  split
  · rfl
  · split <;> rfl

theorem State.countMap_ctxs (s : State) (f : CMapAcc → CMapAcc) : (s.countMap f).fab.ctxs = s.fab.ctxs := by
  unfold State.countMap State.rollMap
  split <;> rfl

/-- The contexts after a packet has left: one that spent credits held them now. -/
theorem State.sendOne_ctxs (s : State) (g : GroupIx) (b : SubIx) (p : TxPkt) : (s.sendOne g b p).fab.ctxs =
    if 3 ≤ p.pkt.vc.toNat then s.fab.ctxs.map fun k => if k.decl.ctx == p.pkt.ctx then { k with holdAt := s.now } else k else s.fab.ctxs := by
  have hmap (w : State) (hw : w.fab.ctxs = s.fab.ctxs) (f : CMapAcc → CMapAcc) (c : Bool) :
      (if c then w.countMap f else w).fab.ctxs = s.fab.ctxs := by
    split
    · exact (w.countMap_ctxs f).trans hw
    · exact hw
  unfold State.sendOne
  dsimp only
  split
  · refine congrArg (List.map fun k : Ctx => if k.decl.ctx == p.pkt.ctx then { k with holdAt := s.now } else k) ?_
    exact hmap _ (by exact s.chargeRope_ctxs g p.pkt) _ _
  · exact hmap _ (by exact s.chargeRope_ctxs g p.pkt) _ _

/-- A packet that leaves keeps it. -/
theorem State.sendOne_heldNow {g : GroupIx} {b : SubIx} {p : TxPkt} (h : heldNow ctx s) : heldNow ctx (s.sendOne g b p) := by
  have hnow : (s.sendOne g b p).now = s.now := (congrArg State.now (s.sendOne_pumps g b p).sends.1).trans rfl
  intro k hk
  rw [hnow]
  unfold State.ctx? at hk
  rw [State.sendOne_ctxs] at hk
  split at hk
  · have hkey (k : Ctx) : (if k.decl.ctx == p.pkt.ctx then ({ k with holdAt := s.now } : Ctx) else k).decl.ctx = k.decl.ctx := by
      split <;> rfl
    rw [List.find?_map, Option.map_eq_some_iff] at hk
    obtain ⟨x, hx, rfl⟩ := hk
    split
    · rfl
    · refine h x ((congrArg (fun q => s.fab.ctxs.find? q) (funext fun k => ?_)).trans hx)
      exact congrArg (fun y : BitVec 16 => y == ctx) (hkey k).symm
  · exact h k hk

theorem State.pump_heldNow {g : GroupIx} {b : SubIx} (n : Nat) (h : heldNow ctx s) : heldNow ctx (s.pump g b n) := by
  induction n generalizing s with
  | zero => exact h
  | succ n ih =>
    unfold State.pump
    split
    · exact h
    · split
      · exact h
      · exact ih (State.sendOne_heldNow h)

theorem State.sendLink_heldNow {g : GroupIx} {b : SubIx} {p : LinkPacket} (h : heldNow ctx s) : heldNow ctx (s.sendLink g b p) :=
  State.pump_heldNow _ h

/-- A grant leaves, and its group counts it. -/
theorem State.sendGrant_spec (s : State) (k : Ctx) (dst n lease : Nat) (resume : Bool) {u : State} (hu : u = s.sendGrant k dst n lease resume) :
    sendsOnly k.group s u ∧ u.sentOrQueued k.group (ctxSub k.decl.ctx) { s.linkBase 0x20 0 (BitVec.ofNat 8 dst) 0xFFFF k.decl.ctx with
      body := leBytes 2 k.decl.ctx.toNat ++ leBytes 2 n ++ leBytes 2 lease ++ leBytes 1 (ofFlag resume) ++ zeros 9 } ∧
      u.fab.grantTx = bump s.fab.grantTx ∧ (∃ f : Ctx → Nat, ∀ x, u.ctx? x = (s.ctx? x).map fun k => { k with holdAt := f k }) ∧
      (∀ x, heldNow x s → heldNow x u) := by
  subst hu
  have hp := ({ s with fab := { s.fab with grantTx := bump s.fab.grantTx } } : State).sendLink_pumps k.group (ctxSub k.decl.ctx)
    { s.linkBase 0x20 0 (BitVec.ofNat 8 dst) 0xFFFF k.decl.ctx with
      body := leBytes 2 k.decl.ctx.toNat ++ leBytes 2 n ++ leBytes 2 lease ++ leBytes 1 (ofFlag resume) ++ zeros 9 }
  refine ⟨s.sendGrant_sendsOnly k dst n lease resume, State.sendLink_sentOrQueued _ _ _ _, (congrArg Fab.grantTx hp.fab.1).trans rfl, hp.ctx,
    fun x hx => State.sendLink_heldNow ?_⟩
  exact hx

end

section
variable {s : State} {ctx : BitVec 16} {k : Ctx} (hk : s.ctx? ctx = some k)
include hk

theorem belayGrantSend_due (h : 16 ≤ k.owed ∨ (0 < k.owed ∧ k.owedAt + 1000 ≤ s.now)) :
    exec (.belayGrantSend ctx) s = .next (s.grantOwed k false) := by
  refine congrArg Host.Outcome.next ?_
  rw [hk]
  exact if_pos h

theorem belayGrantSend_idle (h : ¬ (16 ≤ k.owed ∨ (0 < k.owed ∧ k.owedAt + 1000 ≤ s.now))) : exec (.belayGrantSend ctx) s = .next s := by
  refine congrArg Host.Outcome.next ?_
  rw [hk]
  exact if_neg h

/-- What is owed leaves in one grant. -/
theorem State.grantOwed_spec {u : State} (hu : u = s.grantOwed k false) : sendsOnly k.group s u ∧
    u.sentOrQueued k.group (ctxSub ctx) { s.linkBase 0x20 0 (BitVec.ofNat 8 (s.sourceOf k)) 0xFFFF k.decl.ctx with
      body := leBytes 2 k.decl.ctx.toNat ++ leBytes 2 k.owed ++ leBytes 2 k.decl.leaseLen ++ leBytes 1 0 ++ zeros 9 } ∧
    u.fab.grantTx = bump s.fab.grantTx ∧
    ∃ k', u.ctx? ctx = some k' ∧ k'.owed = 0 ∧ k'.granted = k.granted + k.owed ∧ k'.lendAt = s.now := by
  have hkey := State.ctx_ctx hk
  obtain ⟨f, hf⟩ := s.grantOwed_ctx k false
  have hctx := hf ctx
  rw [← hu, hk] at hctx
  obtain ⟨hsends, hsent, htx, -, -⟩ := State.sendGrant_spec _ k (s.sourceOf k) k.owed k.decl.leaseLen false hu
  rw [hkey] at hsent
  refine ⟨(s.modCtx_sendsOnly _ _ _).trans hsends, by rw [hkey]; exact hsent, htx, _, hctx, ?_⟩
  simp only [if_pos (beq_self_eq_true k.decl.ctx)]
  exact ⟨rfl, rfl, rfl⟩

/-- The conditions of a renewal (R394). -/
theorem leaseRenewal_due (h : k.decl.sends = true ∧ k.unspent = true ∧ k.holdExp = false ∧ k.holdAt + k.lease * s.leaseUnit / 2 ≤ s.now) :
    exec (.leaseRenewal ctx) s = .next ((s.modCtx ctx fun x => { x with holdAt := s.now }).sendGrant k (s.sinkOf k) 0 k.lease false) := by
  obtain ⟨hsends, hun, hexp, hat⟩ := h
  refine congrArg Host.Outcome.next ?_
  rw [hk]
  refine if_pos ?_
  rw [hsends, hun, hexp, decide_eq_true hat]
  rfl

theorem leaseRenewal_idle (h : ¬ (k.decl.sends = true ∧ k.unspent = true ∧ k.holdExp = false ∧ k.holdAt + k.lease * s.leaseUnit / 2 ≤ s.now)) :
    exec (.leaseRenewal ctx) s = .next s := by
  refine congrArg Host.Outcome.next ?_
  rw [hk]
  refine if_neg fun e => h ?_
  simpa only [Bool.and_eq_true, Bool.not_eq_true', decide_eq_true_eq, and_assoc] using e

/-- A renewal sends a grant without credits and restarts the holder's timer. -/
theorem State.renew_spec {u : State} (hu : u = (s.modCtx ctx fun x => { x with holdAt := s.now }).sendGrant k (s.sinkOf k) 0 k.lease false) :
    sendsOnly k.group s u ∧ u.sentOrQueued k.group (ctxSub ctx) { s.linkBase 0x20 0 (BitVec.ofNat 8 (s.sinkOf k)) 0xFFFF k.decl.ctx with
      body := leBytes 2 k.decl.ctx.toNat ++ leBytes 2 0 ++ leBytes 2 k.lease ++ leBytes 1 0 ++ zeros 9 } ∧
    ∃ k', u.ctx? ctx = some k' ∧ k'.holdAt = s.now ∧ k'.held = k.held := by
  have hkey := State.ctx_ctx hk
  obtain ⟨hsends, hsent, -, ⟨f, hf⟩, hheld⟩ := State.sendGrant_spec _ k (s.sinkOf k) 0 k.lease false hu
  have hmod := State.modCtx_ctx s (h := fun x => { x with holdAt := s.now }) (fun _ => rfl) ctx ctx
  rw [hk, Option.map_some, if_pos (beq_iff_eq.2 hkey)] at hmod
  have hnow : heldNow ctx u := hheld ctx fun x hx => by
    rw [hmod] at hx
    rw [← Option.some.inj hx]
    rfl
  have hctx := hf ctx
  rw [hmod] at hctx
  rw [hkey] at hsent
  have hsame : u.now = s.now := (congrArg State.now hsends.1).trans rfl
  exact ⟨(s.modCtx_sendsOnly _ _ _).trans hsends, by rw [hkey]; exact hsent, _, hctx, (hnow _ hctx).trans hsame, rfl⟩

/-! ## Leases that run out (R393, R395) -/

theorem leaseExpire_holder (h : k.decl.sends = true ∧ k.holdExp = false ∧ k.holdAt + (k.lease - 1) * s.leaseUnit ≤ s.now) :
    exec (.leaseExpire ctx true) s = .next ((State.expire { s with fab := { s.fab with leaseExp := bump s.fab.leaseExp } } ctx true).modEvent
      0 7 1 (leBytes 2 ctx.toNat)) := by
  obtain ⟨hsends, hexp, hat⟩ := h
  refine congrArg Host.Outcome.next ?_
  rw [hk]
  refine if_pos ((if_pos rfl).trans ?_)
  rw [hsends, hexp, decide_eq_true hat]
  rfl

theorem leaseExpire_holder_idle (h : ¬ (k.decl.sends = true ∧ k.holdExp = false ∧ k.holdAt + (k.lease - 1) * s.leaseUnit ≤ s.now)) :
    exec (.leaseExpire ctx true) s = .next s := by
  refine congrArg Host.Outcome.next ?_
  rw [hk]
  refine if_neg fun e => h ?_
  simpa only [if_true, Bool.and_eq_true, Bool.not_eq_true', decide_eq_true_eq, and_assoc] using e

theorem leaseExpire_lessor (h : k.decl.receives = true ∧ k.lendExp = false ∧ k.lendAt + k.decl.leaseLen * s.leaseUnit ≤ s.now) :
    exec (.leaseExpire ctx false) s = .next ((State.expire { s with fab := { s.fab with leaseExp := bump s.fab.leaseExp } } ctx false).modEvent
      0 7 1 (leBytes 2 ctx.toNat)) := by
  obtain ⟨hrec, hexp, hat⟩ := h
  refine congrArg Host.Outcome.next ?_
  rw [hk]
  refine if_pos ((if_neg (by decide)).trans ?_)
  rw [hrec, hexp, decide_eq_true hat]
  rfl

theorem leaseExpire_lessor_idle (h : ¬ (k.decl.receives = true ∧ k.lendExp = false ∧ k.lendAt + k.decl.leaseLen * s.leaseUnit ≤ s.now)) :
    exec (.leaseExpire ctx false) s = .next s := by
  refine congrArg Host.Outcome.next ?_
  rw [hk]
  refine if_neg fun e => h ?_
  simpa only [Bool.false_eq_true, if_false, Bool.and_eq_true, Bool.not_eq_true', decide_eq_true_eq, and_assoc] using e

end

/-! ## One end of a context expires (R392, R395, R396) -/

/-- What a lost lease leaves of a context, at the holder or at the lessor. -/
def Ctx.lapse (k : Ctx) (holder : Bool) : Ctx := if holder then k.dropHeld else k.reclaim

theorem Ctx.lapse_lapse (k : Ctx) (holder : Bool) : (k.lapse holder).lapse holder = k.lapse holder := by
  cases holder with
  | true => rfl
  | false => rfl

theorem Ctx.lapse_decl (k : Ctx) (holder : Bool) : (k.lapse holder).decl = k.decl := by
  cases holder with
  | true => rfl
  | false => rfl

/-- An expired end of a context in the fabric of a state that counts it, with its event. -/
theorem State.expire_spec (s : State) (f : Fab) (hf : f.ctxs = s.fab.ctxs) (ctx : BitVec 16) (holder : Bool) (loc : Nat) (l : List Byte)
    {u : State} (hu : u = (State.expire { s with fab := f } ctx holder).modEvent 0 7 loc l) :
    u = { s with fab := u.fab, flt := u.flt, out := u.out } ∧ u.fab = { f with ctxs := u.fab.ctxs } ∧
      (∀ j, u.ctx? j = (s.ctx? j).map fun k => if k.decl.ctx == ctx then k.lapse holder else k) ∧
      ∃ y ∈ u.flt.log, y.code = faultCode 0 7 loc := by
  have honly := (State.expire { s with fab := f } ctx holder).modEvent_only 0 7 loc l
  have hlog := (State.expire { s with fab := f } ctx holder).modEvent_logged 0 7 loc l
  rw [← hu] at honly hlog
  have hfab : u.fab = (State.expire { s with fab := f } ctx holder).fab := (congrArg State.fab honly).trans rfl
  refine ⟨?_, ?_, fun j => ?_, hlog⟩
  · rw [hfab]
    exact honly
  · rw [hfab]
    rfl
  · have hctx : u.ctx? j = (State.expire { s with fab := f } ctx holder).ctx? j :=
      congrArg (fun f : Fab => f.ctxs.find? fun k : Ctx => k.decl.ctx == j) hfab
    have hmod := State.modCtx_ctx { s with fab := f } (h := fun k => k.lapse holder) (fun k => by rw [Ctx.lapse_decl]) ctx j
    have hs : ({ s with fab := f } : State).ctx? j = s.ctx? j := congrArg (List.find? fun k : Ctx => k.decl.ctx == j) hf
    rw [hs] at hmod
    exact hctx.trans hmod

/-- One context revoked. -/
def State.revokeOne (s : State) (holder : Bool) (k : Ctx) : State :=
  (State.expire { s with fab := { s.fab with leaseRev := bump s.fab.leaseRev } } k.decl.ctx holder).modEvent 0 7 2 (leBytes 2 k.decl.ctx.toNat)

theorem bump_bump (c : W64) (n : Nat) : bump (bump c) n = bump c (n + 1) := by
  unfold bump
  rw [BitVec.add_assoc, ← BitVec.ofNat_add, Nat.add_comm]

/-- Contexts revoked one after the other: each is counted, and each is left as a lost lease leaves it. -/
theorem State.revokeAll_spec (holder : Bool) (ks : List Ctx) (s : State) {u : State} (hu : u = ks.foldl (fun s k => s.revokeOne holder k) s) :
    u = { s with fab := u.fab, flt := u.flt, out := u.out } ∧ u.fab.leaseRev = bump s.fab.leaseRev ks.length ∧
      ∀ j, u.ctx? j = (s.ctx? j).map fun k => if ks.any (fun y => y.decl.ctx == j) then k.lapse holder else k := by
  induction ks generalizing s u with
  | nil =>
    subst hu
    refine ⟨rfl, ?_, fun j => ?_⟩
    · exact (BitVec.add_zero _).symm
    · exact (Option.map_id' (x := State.ctx? u j)).symm
  | cons x ks ih =>
    obtain ⟨hframe, hfab, hctx, -⟩ := s.expire_spec { s.fab with leaseRev := bump s.fab.leaseRev } rfl x.decl.ctx holder 2
      (leBytes 2 x.decl.ctx.toNat) rfl
    obtain ⟨hframe', hrev, hctx'⟩ := ih (s.revokeOne holder x) hu
    have hone : s.revokeOne holder x = (State.expire { s with fab := { s.fab with leaseRev := bump s.fab.leaseRev } } x.decl.ctx holder).modEvent
      0 7 2 (leBytes 2 x.decl.ctx.toNat) := rfl
    rw [← hone] at hframe hfab hctx
    generalize s.revokeOne holder x = t at *
    refine ⟨by rw [hframe', hframe], ?_, fun j => ?_⟩
    · rw [hrev, hfab]
      exact bump_bump _ _
    · rw [hctx' j, hctx j, Option.map_map]
      cases hj : s.ctx? j with
      | none => rfl
      | some k =>
        rw [Option.map_some, Option.map_some, List.any_cons]
        dsimp only [Function.comp]
        rw [State.ctx_ctx hj, BEq.comm (a := j)]
        by_cases hx : (x.decl.ctx == j) = true
        · simp only [hx, if_true, Bool.true_or, Ctx.lapse_lapse, ite_self]
        · simp only [hx, Bool.false_or, Bool.false_eq_true, if_false]

section
variable {s : State} {path : Path} {v : W32}

theorem fabRevoke_of_closed (h : s.pathOpen path = false) : exec (.fabRevoke path v) s = .next s :=
  congrArg Host.Outcome.next (State.guarded_of_closed _ _ h)

section
variable (h : s.pathOpen path = true)
include h

theorem fabRevoke_of_refused (hc : classS path = false) : exec (.fabRevoke path v) s = .next (s.refuse path fabRevokeOff) :=
  congrArg Host.Outcome.next (State.guarded_of_not _ _ h hc)

theorem fabRevoke_of_session (hc : classS path = true) : exec (.fabRevoke path v) s = .next (s.revoke v) :=
  congrArg Host.Outcome.next (State.guarded_of_ok _ _ h hc)

end

theorem State.revoke_of_not (h : bit v.toNat 31 = false) : s.revoke v = s := if_pos (by rw [h]; rfl)

theorem State.revoke_of_go (h : bit v.toNat 31 = true) :
    s.revoke v = (s.revoked v).foldl (fun s k => s.revokeOne (bit v.toNat 30) k) s := if_neg (by rw [h]; decide)

/-- A revocation takes the contexts that it names, and no other. -/
theorem State.revoke_spec {ctx : BitVec 16} {k : Ctx} (hk : s.ctx? ctx = some k) (h : bit v.toNat 31 = true) {u : State} (hu : u = s.revoke v) :
    u = { s with fab := u.fab, flt := u.flt, out := u.out } ∧ u.fab.leaseRev = bump s.fab.leaseRev (s.revoked v).length ∧
      (k ∈ s.revoked v → u.ctx? ctx = some (k.lapse (bit v.toNat 30))) ∧
      ((∀ y ∈ s.revoked v, y.decl.ctx ≠ ctx) → u.ctx? ctx = some k) := by
  obtain ⟨hframe, hrev, hctx⟩ := State.revokeAll_spec (bit v.toNat 30) (s.revoked v) s (hu.trans (State.revoke_of_go h))
  have hat := hctx ctx
  rw [hk, Option.map_some] at hat
  refine ⟨hframe, hrev, fun hm => ?_, fun hn => ?_⟩
  · have hany : ((s.revoked v).any fun y => y.decl.ctx == ctx) = true := List.any_eq_true.2 ⟨k, hm, beq_iff_eq.2 (State.ctx_ctx hk)⟩
    rw [hat, if_pos hany]
  · rw [hat, if_neg]
    rw [List.any_eq_true]
    exact fun ⟨y, hy, he⟩ => hn y hy (beq_iff_eq.1 he)

end

/-- The end of a lease at either side. -/
theorem State.leaseEnds_spec {s : State} {ctx : BitVec 16} {k : Ctx} (hk : s.ctx? ctx = some k) (holder : Bool) {u : State}
    (hu : u = (State.expire { s with fab := { s.fab with leaseExp := bump s.fab.leaseExp } } ctx holder).modEvent 0 7 1 (leBytes 2 ctx.toNat)) :
    u = { s with fab := u.fab, flt := u.flt, out := u.out } ∧ u.fab.leaseExp = bump s.fab.leaseExp ∧
      u.ctx? ctx = some (k.lapse holder) ∧ (∀ j, j ≠ ctx → u.ctx? j = s.ctx? j) ∧ ∃ y ∈ u.flt.log, y.code = faultCode 0 7 1 := by
  obtain ⟨hframe, hfab, hctx, hlog⟩ := s.expire_spec { s.fab with leaseExp := bump s.fab.leaseExp } rfl ctx holder 1 _ hu
  refine ⟨hframe, by rw [hfab], ?_, fun j hj => ?_, hlog⟩
  · rw [hctx ctx, hk]
    exact congrArg some (if_pos (beq_iff_eq.2 (State.ctx_ctx hk)))
  · rw [hctx j]
    cases hx : s.ctx? j with
    | none => rfl
    | some x => exact congrArg some (if_neg fun e => hj ((State.ctx_ctx hx).symm.trans (beq_iff_eq.1 e)))

/-- A context that does not exist has no grants and no lease. -/
theorem lease_of_none {s : State} {ctx : BitVec 16} (h : s.ctx? ctx = none) (holder : Bool) : exec (.belayGrantSend ctx) s = .next s ∧
    exec (.leaseRenewal ctx) s = .next s ∧ exec (.leaseExpire ctx holder) s = .next s := by
  refine ⟨congrArg Host.Outcome.next ?_, congrArg Host.Outcome.next ?_, congrArg Host.Outcome.next ?_⟩
  · rw [h]
  · rw [h]
  · rw [h]

/-- Settles O49: grants by what they carry, leases by their conditions, a revocation by the contexts it names. -/
theorem grantsAndLeases : Obligations.GrantsAndLeases := by
  unfold Obligations.GrantsAndLeases
  refine ⟨fun s g b p => ⟨turnsDown_of_received rfl, belayGrant_of_admits⟩, fun s ctx h holder => lease_of_none h holder,
    fun s ctx k path v hk => ?_, fun s path v => ⟨fun hp hc h => ?_, fun hp hc h hnil => ?_, fun hp hc => fabRevoke_of_refused hp hc,
      fabRevoke_of_closed⟩⟩
  · refine ⟨fun h => ⟨_, belayGrantSend_due hk h, State.grantOwed_spec hk rfl⟩, belayGrantSend_idle hk,
      fun h => ⟨_, leaseRenewal_due hk h, State.renew_spec hk rfl⟩, leaseRenewal_idle hk,
      fun h => ⟨_, leaseExpire_holder hk h, State.leaseEnds_spec hk true rfl⟩, leaseExpire_holder_idle hk,
      fun h => ⟨_, leaseExpire_lessor hk h, State.leaseEnds_spec hk false rfl⟩, leaseExpire_lessor_idle hk,
      fun hp hc h => ⟨_, fabRevoke_of_session hp hc, State.revoke_spec hk h rfl⟩⟩
  · exact (fabRevoke_of_session hp hc).trans (congrArg _ (State.revoke_of_not h))
  · refine (fabRevoke_of_session hp hc).trans (congrArg _ ((State.revoke_of_go h).trans ?_))
    rw [hnil]
    rfl

end Sys2Proof.Machine
end

section
/-! PROOFS. Answers of other modules: they end this module's requests (R71, R129, R246, R291, R368). -/

namespace Sys2Proof.Machine

/-! ## Requests -/

section
variable {s : State} (r : Req)

/-- Reads that waited go on, where some did. -/
theorem State.resumeEvery_of_idle (h : ∀ c, ∀ y ∈ (s.core c).gangs, y.reads = []) : s.resumeEvery = s := by
  have hnone (c : CoreIx) : ((s.core c).gangs.filter fun x => !x.reads.isEmpty) = [] :=
    List.filter_eq_nil_iff.2 fun y hy => by rw [h c y hy]; decide
  refine List.foldlRecOn (motive := fun t : State => t = s) (List.finRange 256) _ rfl fun t ht c _ => ?_
  subst ht
  rw [hnone c]
  rfl

/-- A request of a kind is the request of its TAG. -/
theorem State.reqOf_freed (g : GroupIx) (b : SubIx) (p : LinkPacket) (tag : W32) (ok : ReqKind → Bool) :
    (s.modSub g b fun k => k.freeRx p).reqOf tag ok = s.reqOf tag ok := rfl

/-- Ending a request forgets whatever was noted of it. -/
theorem filter_map_id (l : List Req) (f : Req → Req) (hf : ∀ y, (f y).id = y.id) :
    (l.map fun y => if y.id == r.id then f y else y).filter (fun y => y.id != r.id) = l.filter fun y => y.id != r.id := by
  induction l with
  | nil => rfl
  | cons y ys ih =>
    rw [List.map_cons, List.filter_cons, List.filter_cons, ih]
    by_cases hy : (y.id == r.id) = true
    · rw [if_pos hy, hf]
      simp only [bne, hy, Bool.not_true, Bool.false_eq_true, if_false]
    · rw [if_neg hy]

/-- The gang that awaits a request's data. -/
def State.awaits (s : State) (r : Req) : Prop := ∃ x, (s.core r.core).gang? r.slot = some x ∧ x.task = r.task ∧ x.cmd = r.cmd

/-- The gang is rewritten if it still waits, and no other core is. -/
theorem State.modReqGang_spec (s : State) (r : Req) (f : Gang → Gang) {v : State} (hv : v = s.modReqGang r f) :
    v = { s with cores := v.cores } ∧
      (s.awaits r → (v.core r.core).gangs = (s.core r.core).gangs.map fun y => if y.slot == r.slot then f y else y) ∧
      (¬ s.awaits r → v.cores = s.cores) ∧ ∀ d, d ≠ r.core → v.core d = s.core d := by
  unfold State.modReqGang at hv
  split at hv
  next x hx =>
    split at hv
    next hw =>
      rw [Bool.and_eq_true, beq_iff_eq, beq_iff_eq] at hw
      subst hv
      obtain ⟨hframe, hother⟩ := s.modGang_onlyCore r.core r.slot f
      exact ⟨hframe, fun _ => s.modGang_gangs r.core r.slot f, fun h => absurd ⟨x, hx, hw⟩ h, hother⟩
    next hw =>
      subst hv
      refine ⟨rfl, fun ⟨y, hy, h⟩ => absurd ?_ hw, fun _ => rfl, fun _ _ => rfl⟩
      rw [← Option.some.inj (hx.symm.trans hy)] at h
      rw [Bool.and_eq_true, beq_iff_eq, beq_iff_eq]
      exact h
  next hx =>
    subst hv
    exact ⟨rfl, fun ⟨y, hy, _⟩ => absurd (hx.symm.trans hy) (by nofun), fun _ => rfl, fun _ _ => rfl⟩

end

/-- Between two states a request's gang has been fed. -/
def fedBy (s v : State) (r : Req) (f : Gang → Gang) : Prop :=
  v = { s with cores := v.cores, memu := v.memu, links := v.links } ∧
    ((∃ x, (s.core r.core).gang? r.slot = some x ∧ x.task = r.task ∧ x.cmd = r.cmd) →
      (v.core r.core).gangs = (s.core r.core).gangs.map fun y => if y.slot == r.slot then f y else y) ∧
    ((¬ ∃ x, (s.core r.core).gang? r.slot = some x ∧ x.task = r.task ∧ x.cmd = r.cmd) → v.cores = s.cores) ∧ ∀ d, d ≠ r.core → v.core d = s.core d

/-- Between two states a request has ended. -/
def endedReq (s u : State) (r : Req) : Prop :=
  u.memu = { s.memu with reqs := s.memu.reqs.filter (fun y => y.id != r.id), ended := r.id :: s.memu.ended }

/-- Reads that waited have gone on, if any did. -/
def resumedFrom (u v : State) : Prop := u = v.resumeEvery ∧ ((∀ c, ∀ y ∈ (v.core c).gangs, y.reads = []) → u = v)

theorem resumedFrom_resumeEvery (v : State) : resumedFrom v.resumeEvery v := ⟨rfl, State.resumeEvery_of_idle⟩

section
variable {s s1 : State} (h1 : s1 = { s with links := s1.links }) (r : Req)
include h1

/-- The gang of a request fed, and the requests rewritten, after the packet has left the receive buffer. -/
theorem State.modReqGang_fed (f : Gang → Gang) (m : MemUnit) {v : State} (hv : v = { s1.modReqGang r f with memu := m }) :
    fedBy s v r f ∧ v.memu = m := by
  obtain ⟨hframe, hwaits, hidle, hother⟩ := s1.modReqGang_spec r f rfl
  generalize s1.modReqGang r f = w at *
  have hcore (d : CoreIx) : s1.core d = s.core d := (congrArg (fun t : State => t.core d) h1).trans rfl
  have hvc (d : CoreIx) : v.core d = w.core d := by rw [hv]; rfl
  have hcores : v.cores = w.cores := by rw [hv]
  have hs : s1.cores = s.cores := (congrArg State.cores h1).trans rfl
  rw [hcore] at hwaits
  refine ⟨⟨by rw [hv, hframe, h1], fun hw => ?_, fun hw => ?_, fun d hd => (hvc d).trans ((hother d hd).trans (hcore d))⟩, by rw [hv]⟩
  · rw [hvc]
    exact hwaits (by unfold State.awaits; rw [hcore]; exact hw)
  · rw [hcores, hidle (by unfold State.awaits; rw [hcore]; exact hw), hs]

/-- Data that does not end its request. -/
theorem State.readData_of_more {off : Nat} {bs : List Byte} {poison : Bool} (hlt : r.got + bs.length < r.len) {u : State}
    (hu : u = s1.readData r off bs poison) : fedBy s u r (fun y => y.arrive (r.off + off) bs poison) ∧
      u.memu = { s.memu with reqs := s.memu.reqs.map fun y => if y.id == r.id then { y with got := y.got + bs.length } else y } := by
  have hm : (s1.modReqGang r fun x => x.arrive (r.off + off) bs poison).memu = s.memu :=
    (congrArg State.memu (s1.modReqGang_spec r (fun x => x.arrive (r.off + off) bs poison) rfl).1).trans ((congrArg State.memu h1).trans rfl)
  refine State.modReqGang_fed h1 r _ _ (hu.trans ((if_neg (Nat.not_le.2 hlt)).trans ?_))
  unfold State.modReq
  rw [hm]

/-- Data with a request's last byte. -/
theorem State.readData_of_last {off : Nat} {bs : List Byte} {poison : Bool} (hle : r.len ≤ r.got + bs.length) {u : State}
    (hu : u = s1.readData r off bs poison) : ∃ v, resumedFrom u v ∧ fedBy s v r (fun y => y.arrive (r.off + off) bs poison) ∧ endedReq s v r := by
  have hm : (s1.modReqGang r fun x => x.arrive (r.off + off) bs poison).memu = s.memu :=
    (congrArg State.memu (s1.modReqGang_spec r (fun x => x.arrive (r.off + off) bs poison) rfl).1).trans ((congrArg State.memu h1).trans rfl)
  have hu' : u = (((s1.modReqGang r fun x => x.arrive (r.off + off) bs poison).modReq r.id fun y =>
    { y with got := y.got + bs.length }).endReq r.id).resumeEvery := hu.trans (if_pos hle)
  refine ⟨_, hu' ▸ resumedFrom_resumeEvery _, State.modReqGang_fed h1 r _ _ ?_⟩
  unfold State.endReq State.modReq
  dsimp only
  rw [hm, filter_map_id r _ (fun y => { y with got := y.got + bs.length }) fun _ => rfl]

/-- A read that ends without its data. -/
theorem State.failRead_fed {v : State} (hv : v = s1.failRead r) : fedBy s v r (fun y => y.lose (r.off + r.got) (r.len - r.got)) ∧ endedReq s v r := by
  have hm : (s1.modReqGang r fun x => x.lose (r.off + r.got) (r.len - r.got)).memu = s.memu :=
    (congrArg State.memu (s1.modReqGang_spec r (fun x => x.lose (r.off + r.got) (r.len - r.got)) rfl).1).trans ((congrArg State.memu h1).trans rfl)
  refine State.modReqGang_fed h1 r _ _ (hv.trans ?_)
  unfold State.failRead State.endReq
  rw [hm]

end

/-! ## Writes acknowledged (R71, R291) -/

/-- Between two states a write has been acknowledged: its request has ended, and it counts for its command or its chunk. -/
def ackedReq (s u : State) (r : Req) : Prop :=
  endedReq s u r ∧
    (r.kind ≠ .collAck → u.grd = s.grd ∧ (∀ d, d ≠ r.core → u.core d = s.core d) ∧
      (u.task r.core r.task).cmds = (s.task r.core r.task).cmds.map (fun y => if y.id == r.cmd then { y with acks := y.acks - 1 } else y)) ∧
    (r.kind = .collAck → u.cores = s.cores ∧ u.grd = { s.grd with chunks := s.grd.chunks.map fun x =>
      if x.ctx == r.ctx && x.nth == r.nth && x.index == r.off then { x with acks := x.acks - 1 } else x }) ∧
    u = { s with cores := u.cores, memu := u.memu, links := u.links, grd := u.grd, fab := u.fab }

section
variable {s t u : State} (ht : t = { s with links := t.links, fab := t.fab }) (r : Req)
include ht

theorem State.ackReq_spec (hu : u = t.ackReq r) : ackedReq s u r ∧ u.links = t.links := by
  have hmemu : t.memu = s.memu := (congrArg State.memu ht).trans rfl
  have hgrd : t.grd = s.grd := (congrArg State.grd ht).trans rfl
  have hcores : t.cores = s.cores := (congrArg State.cores ht).trans rfl
  unfold State.ackReq at hu
  dsimp only at hu
  by_cases hk : (r.kind == .collAck) = true
  · rw [if_pos hk] at hu
    have hkind := beq_iff_eq.1 hk
    refine ⟨⟨?_, fun h => absurd hkind h, fun _ => ⟨?_, ?_⟩, ?_⟩, by rw [hu]; rfl⟩
    · rw [endedReq, hu]
      unfold State.chunkAck State.endReq
      dsimp only
      rw [hmemu]
    · rw [hu]; exact hcores
    · rw [hu]
      unfold State.chunkAck State.endReq
      dsimp only
      rw [hgrd]
    · rw [hu]
      unfold State.chunkAck State.endReq
      dsimp only
      rw [ht]
  · rw [if_neg hk] at hu
    obtain ⟨hframe, hother⟩ := (t.endReq r.id).ackOne_onlyCore r.core r.task r.cmd
    have hcmds := (t.endReq r.id).ackOne_cmds r.core r.task r.cmd
    rw [← hu] at hframe hother hcmds
    have htask : (t.endReq r.id).task r.core r.task = s.task r.core r.task := (congrArg (fun w : State => w.task r.core r.task) ht).trans rfl
    have hcore (d : CoreIx) : (t.endReq r.id).core d = s.core d := (congrArg (fun w : State => w.core d) ht).trans rfl
    refine ⟨⟨?_, fun _ => ⟨?_, fun d hd => (hother d hd).trans (hcore d), by rw [hcmds, htask]⟩, fun h => absurd (beq_iff_eq.2 h) hk, ?_⟩, ?_⟩
    · rw [endedReq, hframe]
      unfold State.endReq
      dsimp only
      rw [hmemu]
    · rw [hframe]; exact hgrd
    · rw [hframe]
      unfold State.endReq
      dsimp only
      rw [ht]
    · rw [hframe]; rfl

/-- A write kept for a RESUME (R368). -/
theorem State.park_spec (n : Nat) (hu : u = t.park r n) :
    u.memu = { s.memu with reqs := s.memu.reqs.map fun y => if y.id == r.id then { y with parked := true } else y } ∧
      (∀ k, t.ctx? r.ctx = some k → u.ctx? r.ctx = some { k with parked := true, held := k.held + n }) ∧
      u = { s with memu := u.memu, links := u.links, fab := u.fab } ∧ u.links = t.links := by
  have hmemu : t.memu = s.memu := (congrArg State.memu ht).trans rfl
  unfold State.park State.modReq at hu
  refine ⟨?_, fun k hk => ?_, ?_, by rw [hu]; rfl⟩
  · rw [hu]
    unfold State.modCtx
    dsimp only
    rw [hmemu]
  · have hmod := State.modCtx_ctx ({ t with memu := { t.memu with reqs := t.memu.reqs.map fun x =>
      if x.id == r.id then { x with parked := true } else x } } : State) (h := fun k => { k with parked := true, held := k.held + n })
      (fun _ => rfl) r.ctx r.ctx
    rw [hu]
    refine hmod.trans ?_
    have hk' : ({ t with memu := { t.memu with reqs := t.memu.reqs.map fun x =>
      if x.id == r.id then { x with parked := true } else x } } : State).ctx? r.ctx = some k := hk
    rw [hk']
    exact congrArg some (if_pos (beq_iff_eq.2 (State.ctx_ctx hk)))
  · rw [hu]
    unfold State.modCtx
    dsimp only
    rw [ht]

end

/-! ## Strays (R246) -/

/-- An answer that matches nothing outstanding, seen from before its packet was taken. -/
def strayed (s : State) (g : GroupIx) (b : SubIx) (p : LinkPacket) (u : State) : Prop :=
  (s.memu.ended.contains p.tag.toNat = true → u = { s with memu := u.memu, links := u.links, fab := u.fab } ∧
    u.memu = { s.memu with late := bump s.memu.late }) ∧
  (s.memu.ended.contains p.tag.toNat = false → s.refusedBy u g b p 0x14)

theorem State.strayResponse_spec {s t u : State} {g : GroupIx} {b : SubIx} {p : LinkPacket} (ht : t = { s with links := t.links, fab := t.fab })
    (hbad : ∀ v, t.refusedBy v g b p 0x14 → s.refusedBy v g b p 0x14) (hu : u = t.strayResponse g b p) : strayed s g b p u := by
  have hmemu : t.memu = s.memu := (congrArg State.memu ht).trans rfl
  unfold State.strayResponse at hu
  rw [hmemu] at hu
  refine ⟨fun h => ?_, fun h => ?_⟩
  · rw [if_pos h] at hu
    refine ⟨?_, ?_⟩
    · rw [hu]
      unfold State.lateDiscard
      dsimp only
      rw [ht]
    · rw [hu]
      unfold State.lateDiscard
      dsimp only
      rw [hmemu]
  · rw [if_neg (Bool.eq_false_iff.1 h)] at hu
    exact hbad u (State.rxRefuse_spec t g b p 0x14 hu)

/-- A NACK counted as it is taken. -/
def State.nackHeard (s : State) (g : GroupIx) (b : SubIx) : State :=
  if isFabric g then
    (s.modGroup g fun k => { k with nackRx := bump k.nackRx }).countMap fun k => { k with nacks := upd k.nacks (planeIx g b) fun x => x + 1 }
  else s.modGroup g fun k => { k with nackRx := bump k.nackRx }

/-- It changes the group's count, the fabric's map, and no context. -/
theorem State.nackHeard_spec (s : State) (g : GroupIx) (b : SubIx) {t : State} (ht : t = s.nackHeard g b) :
    t = { s with links := t.links, fab := t.fab } ∧ t.group g = { s.group g with nackRx := bump (s.group g).nackRx } ∧
      t.fab.ctxs = s.fab.ctxs := by
  have hgroup := State.modGroup_group s g fun k => { k with nackRx := bump k.nackRx }
  unfold State.nackHeard at ht
  split at ht
  · have hframe := (s.modGroup g fun k => { k with nackRx := bump k.nackRx }).countMap_frame fun k =>
      { k with nacks := upd k.nacks (planeIx g b) fun x => x + 1 }
    rw [← ht] at hframe
    refine ⟨by rw [hframe]; rfl, ((congrArg (fun w : State => w.group g) hframe).trans rfl).trans hgroup, ?_⟩
    rw [ht]
    exact State.countMap_ctxs _ _
  · rw [ht]
    exact ⟨rfl, hgroup, rfl⟩

/-- A NACK refused as a stray is refused as if it had not been counted. -/
theorem State.refusedBy_of_nackHeard {s u : State} {g : GroupIx} {b : SubIx} {p : LinkPacket} {code : Nat}
    (h : ((s.modSub g b fun k => k.freeRx p).nackHeard g b).refusedBy u g b p code) (h21 : p.typ = 0x21) : s.refusedBy u g b p code := by
  obtain ⟨hframe, hgroup, -⟩ := (s.modSub g b fun k => k.freeRx p).nackHeard_spec g b rfl
  refine State.refusedBy_of_freed ?_
  generalize (s.modSub g b fun k => k.freeRx p) = t at *
  generalize t.nackHeard g b = v at *
  obtain ⟨hf, hquar, hs, -, -⟩ := h
  rw [hgroup] at hquar hs
  refine ⟨by rw [hf, hframe], hquar, hs, fun _ h0 => absurd (h21.symm.trans h0) (by decide), fun _ _ _ hn => absurd h21 hn⟩

/-! ## The four rows -/

section
variable {s : State} {g : GroupIx} {b : SubIx} {p : LinkPacket}

/-- A packet that its row takes does what the row says, once it has left the receive buffer. -/
theorem answers_of_admits {o : Host.Outcome State Fault Refusal} {typ : Byte} {eff : State → State} {P : State → Prop}
    (ho : o = .next (s.received g b p typ eff)) (h : s.admits g b p typ) (hP : P (eff (s.modSub g b fun k => k.freeRx p))) : answers o P :=
  ⟨_, ho.trans (congrArg _ (State.received_of_admits h)), hP⟩

/-- What the packet leaves behind in the receive buffer is the link's alone. -/
theorem State.freed_frame (s : State) (g : GroupIx) (b : SubIx) (p : LinkPacket) : (s.modSub g b fun k => k.freeRx p) =
    { s with links := (s.modSub g b fun k => k.freeRx p).links } := rfl

/-- The data of a request lies in it. -/
def fitsReq (r : Req) (p : LinkPacket) : Prop :=
  r.addr.toNat ≤ p.addr.toNat ∧ p.addr.toNat - r.addr.toNat + p.body.length ≤ r.len ∧ r.got + p.body.length ≤ r.len

section
variable {r : Req} (h : s.admits g b p 2) (hr : s.reqOf p.tag (· == .remoteRead) = some r)
include h hr

/-- A read response to an outstanding read. -/
theorem linkReadResponse_of_req {P : State → Prop}
    (hfit : fitsReq r p → P ((s.modSub g b fun k => k.freeRx p).readData r (p.addr.toNat - r.addr.toNat) p.body (p.status == 1)))
    (hbad : ¬ fitsReq r p → P ((s.modSub g b fun k => k.freeRx p).rxRefuse g b p 0x14)) : answers (exec (.linkReadResponse g b p) s) P := by
  refine answers_of_admits (rfl : exec (.linkReadResponse g b p) s = .next (s.received g b p 2 _)) h ?_
  dsimp only
  rw [State.reqOf_freed, hr]
  by_cases hf : fitsReq r p
  · exact (congrArg P (if_pos hf)).mpr (hfit hf)
  · exact (congrArg P (if_neg hf)).mpr (hbad hf)

theorem linkReadResponse_of_more (hf : fitsReq r p) (hlt : r.got + p.body.length < r.len) : answers (exec (.linkReadResponse g b p) s) fun u =>
    fedBy s u r (fun y => y.arrive (r.off + (p.addr.toNat - r.addr.toNat)) p.body (p.status == 1)) ∧
      u.memu = { s.memu with reqs := s.memu.reqs.map fun y => if y.id == r.id then { y with got := y.got + p.body.length } else y } :=
  linkReadResponse_of_req h hr (fun _ => State.readData_of_more (s.freed_frame g b p) r hlt rfl) fun hn => absurd hf hn

theorem linkReadResponse_of_last (hf : fitsReq r p) (hle : r.len ≤ r.got + p.body.length) : answers (exec (.linkReadResponse g b p) s) fun u =>
    ∃ v, resumedFrom u v ∧ fedBy s v r (fun y => y.arrive (r.off + (p.addr.toNat - r.addr.toNat)) p.body (p.status == 1)) ∧ endedReq s v r :=
  linkReadResponse_of_req h hr (fun _ => State.readData_of_last (s.freed_frame g b p) r hle rfl) fun hn => absurd hf hn

theorem linkReadResponse_of_misfit (hn : ¬ fitsReq r p) : answers (exec (.linkReadResponse g b p) s) fun u => s.refusedBy u g b p 0x14 :=
  linkReadResponse_of_req h hr (fun hf => absurd hf hn) fun _ => State.refusedBy_of_freed (State.rxRefuse_spec _ g b p 0x14 rfl)

end

theorem linkErrorResponse_of_req {r : Req} (h : s.admits g b p 5) (hr : s.reqOf p.tag (· == .remoteRead) = some r) :
    answers (exec (.linkErrorResponse g b p) s) fun u =>
      ∃ v, resumedFrom u v ∧ fedBy s v r (fun y => y.lose (r.off + r.got) (r.len - r.got)) ∧ endedReq s v r := by
  refine answers_of_admits (rfl : exec (.linkErrorResponse g b p) s = .next (s.received g b p 5 _)) h ?_
  rw [State.reqOf_freed, hr]
  exact ⟨_, resumedFrom_resumeEvery _, State.failRead_fed (s.freed_frame g b p) r rfl⟩

theorem linkWriteAck_of_req {r : Req} (h : s.admits g b p 4) (hr : s.reqOf p.tag ReqKind.write = some r) :
    answers (exec (.linkWriteAck g b p) s) fun u => ackedReq s u r := by
  refine answers_of_admits (rfl : exec (.linkWriteAck g b p) s = .next (s.received g b p 4 _)) h ?_
  rw [State.reqOf_freed, hr]
  exact (State.ackReq_spec rfl r rfl).1

/-! ### NACKs -/

/-- A group is the link's own. -/
theorem State.group_of_links {t u : State} (h : u.links = t.links) (g : GroupIx) : u.group g = t.group g := by
  unfold State.group
  rw [h]

/-- A context is the fabric's own. -/
theorem State.ctx?_of_ctxs {t u : State} (h : u.fab.ctxs = t.fab.ctxs) (x : BitVec 16) : u.ctx? x = t.ctx? x := by
  unfold State.ctx?
  rw [h]

/-- A NACK taken: counted, then it acts on the request of its TAG or has none. -/
theorem nack_of_admits (h : s.admits g b p 0x21) {P : State → Prop}
    (hsome : ∀ r, s.reqOf p.tag ReqKind.write = some r → P (if fieldAt p.body 0 1 = 4 then
      ((s.modSub g b fun k => k.freeRx p).nackHeard g b).park r (fieldAt p.body 4 2)
      else ((s.modSub g b fun k => k.freeRx p).nackHeard g b).ackReq r))
    (hnone : s.reqOf p.tag ReqKind.write = none → P (((s.modSub g b fun k => k.freeRx p).nackHeard g b).strayResponse g b p)) :
    answers (exec (.nack g b p) s) P := by
  have hreq : ((s.modSub g b fun k => k.freeRx p).nackHeard g b).reqOf p.tag ReqKind.write = s.reqOf p.tag ReqKind.write :=
    (congrArg (fun w : State => w.reqOf p.tag ReqKind.write) (State.nackHeard_spec _ g b rfl).1).trans rfl
  refine ⟨_, congrArg Host.Outcome.next ((State.received_of_admits h).trans
    (rfl : _ = match ((s.modSub g b fun k => k.freeRx p).nackHeard g b).reqOf p.tag ReqKind.write with
      | some r => if fieldAt p.body 0 1 = 4 then ((s.modSub g b fun k => k.freeRx p).nackHeard g b).park r (fieldAt p.body 4 2)
        else ((s.modSub g b fun k => k.freeRx p).nackHeard g b).ackReq r
      | none => ((s.modSub g b fun k => k.freeRx p).nackHeard g b).strayResponse g b p)), ?_⟩
  rw [hreq]
  cases hr : s.reqOf p.tag ReqKind.write with
  | some r => exact hsome r hr
  | none => exact hnone hr

/-- The state after the count differs from the first in the link and the fabric's map alone. -/
theorem State.heard_spec (s : State) (g : GroupIx) (b : SubIx) (p : LinkPacket) {t : State}
    (ht : t = (s.modSub g b fun k => k.freeRx p).nackHeard g b) : t = { s with links := t.links, fab := t.fab } ∧
      (t.group g).nackRx = bump (s.group g).nackRx ∧ t.fab.ctxs = s.fab.ctxs := by
  obtain ⟨hframe, hgroup, hctxs⟩ := State.nackHeard_spec _ g b ht
  refine ⟨hframe.trans rfl, ?_, hctxs⟩
  rw [hgroup]
  exact congrArg bump ((congrArg LinkGroup.nackRx (State.modGroup_group s g fun k => { k with sub := upd k.sub b fun x => x.freeRx p })).trans rfl)

section
variable {r : Req} (h : s.admits g b p 0x21) (hr : s.reqOf p.tag ReqKind.write = some r)
include h hr

theorem nack_of_other (hc : fieldAt p.body 0 1 ≠ 4) : answers (exec (.nack g b p) s) fun u =>
    ackedReq s u r ∧ (u.group g).nackRx = bump (s.group g).nackRx := by
  refine nack_of_admits h (fun r' hr' => ?_) fun hn => absurd (hr.symm.trans hn) (by nofun)
  rw [if_neg hc, ← Option.some.inj (hr.symm.trans hr')]
  obtain ⟨hframe, hrx, -⟩ := s.heard_spec g b p rfl
  generalize (s.modSub g b fun k => k.freeRx p).nackHeard g b = t at *
  obtain ⟨hacked, hlinks⟩ := State.ackReq_spec hframe r rfl
  refine ⟨hacked, ?_⟩
  have hgroup : (t.ackReq r).group g = t.group g := State.group_of_links hlinks g
  rw [hgroup, hrx]

theorem nack_of_park (hc : fieldAt p.body 0 1 = 4) : answers (exec (.nack g b p) s) fun u => (u.group g).nackRx = bump (s.group g).nackRx ∧
    u.memu = { s.memu with reqs := s.memu.reqs.map fun y => if y.id == r.id then { y with parked := true } else y } ∧
    (∀ k, s.ctx? r.ctx = some k → u.ctx? r.ctx = some { k with parked := true, held := k.held + fieldAt p.body 4 2 }) ∧
    u = { s with memu := u.memu, links := u.links, fab := u.fab } := by
  refine nack_of_admits h (fun r' hr' => ?_) fun hn => absurd (hr.symm.trans hn) (by nofun)
  rw [if_pos hc, ← Option.some.inj (hr.symm.trans hr')]
  obtain ⟨hframe, hrx, hctxs⟩ := s.heard_spec g b p rfl
  generalize (s.modSub g b fun k => k.freeRx p).nackHeard g b = t at *
  obtain ⟨hmemu, hctx, hall, hlinks⟩ := State.park_spec hframe r (fieldAt p.body 4 2) rfl
  have hctx? : t.ctx? r.ctx = s.ctx? r.ctx := State.ctx?_of_ctxs hctxs r.ctx
  have hgroup : (t.park r (fieldAt p.body 4 2)).group g = t.group g := State.group_of_links hlinks g
  exact ⟨by rw [hgroup, hrx], hmemu, fun k hk => hctx k (hctx?.trans hk), hall⟩

end

/-! ### Strays -/

/-- An answer to nothing outstanding is late, or a violation. -/
def strays (s : State) (g : GroupIx) (b : SubIx) (p : LinkPacket) (o : Host.Outcome State Fault Refusal) : Prop :=
  (s.memu.ended.contains p.tag.toNat = true → answers o fun u => u = { s with memu := u.memu, links := u.links, fab := u.fab } ∧
    u.memu = { s.memu with late := bump s.memu.late }) ∧
  (s.memu.ended.contains p.tag.toNat = false → answers o fun u => s.refusedBy u g b p 0x14)

theorem strays_of_strayed {o : Host.Outcome State Fault Refusal} (h : answers o fun u => strayed s g b p u) : strays s g b p o := by
  obtain ⟨u, ho, hlate, hbad⟩ := h
  exact ⟨fun e => ⟨u, ho, hlate e⟩, fun e => ⟨u, ho, hbad e⟩⟩

theorem State.freed_strayed (s : State) (g : GroupIx) (b : SubIx) (p : LinkPacket) :
    strayed s g b p ((s.modSub g b fun k => k.freeRx p).strayResponse g b p) :=
  State.strayResponse_spec rfl (fun _ => State.refusedBy_of_freed) rfl

theorem linkReadResponse_of_stray (h : s.admits g b p 2) (hr : s.reqOf p.tag (· == .remoteRead) = none) :
    strays s g b p (exec (.linkReadResponse g b p) s) := by
  refine strays_of_strayed (answers_of_admits (rfl : exec (.linkReadResponse g b p) s = .next (s.received g b p 2 _)) h ?_)
  dsimp only
  rw [State.reqOf_freed, hr]
  exact s.freed_strayed g b p

theorem linkErrorResponse_of_stray (h : s.admits g b p 5) (hr : s.reqOf p.tag (· == .remoteRead) = none) :
    strays s g b p (exec (.linkErrorResponse g b p) s) := by
  refine strays_of_strayed (answers_of_admits (rfl : exec (.linkErrorResponse g b p) s = .next (s.received g b p 5 _)) h ?_)
  rw [State.reqOf_freed, hr]
  exact s.freed_strayed g b p

theorem linkWriteAck_of_stray (h : s.admits g b p 4) (hr : s.reqOf p.tag ReqKind.write = none) :
    strays s g b p (exec (.linkWriteAck g b p) s) := by
  refine strays_of_strayed (answers_of_admits (rfl : exec (.linkWriteAck g b p) s = .next (s.received g b p 4 _)) h ?_)
  rw [State.reqOf_freed, hr]
  exact s.freed_strayed g b p

theorem nack_of_stray (h : s.admits g b p 0x21) (hr : s.reqOf p.tag ReqKind.write = none) : strays s g b p (exec (.nack g b p) s) := by
  obtain ⟨-, -, h21⟩ := id h
  refine strays_of_strayed (nack_of_admits h (fun r hr' => absurd (hr.symm.trans hr') (by nofun)) fun _ => ?_)
  exact State.strayResponse_spec (s.heard_spec g b p rfl).1 (fun _ hbad => State.refusedBy_of_nackHeard hbad h21) rfl

end

/-- Settles O48: per row of Table LNK-9, from what the request's gang, its command and the requests become. -/
theorem answersToThisModule : Obligations.AnswersToThisModule := by
  intro s g b p
  refine ⟨⟨turnsDown_of_received rfl, turnsDown_of_received rfl, turnsDown_of_received rfl, turnsDown_of_received rfl⟩,
    fun r => ⟨fun h hr => ⟨linkReadResponse_of_more h hr, linkReadResponse_of_last h hr, linkReadResponse_of_misfit h hr⟩,
      linkWriteAck_of_req, fun h hr => ⟨nack_of_other h hr, nack_of_park h hr⟩, linkErrorResponse_of_req⟩,
    linkReadResponse_of_stray, linkWriteAck_of_stray, linkErrorResponse_of_stray, nack_of_stray⟩

end Sys2Proof.Machine
end

section
/-! PROOFS. Writes and reduce-adds of other modules: what they store and what they leave alone (R122, R128 to R131, R223, R229). -/

namespace Sys2Proof.Machine

/-! ## Places of an address and of its local key -/

theorem bits_addrLocal (a lo len : Nat) (h : lo + len ≤ 60) : bits (addrLocal a) lo len = bits a lo len := by
  refine Nat.eq_of_testBit_eq fun i => ?_
  unfold bits addrLocal
  rw [Nat.testBit_mod_two_pow, Nat.testBit_mod_two_pow, Nat.testBit_shiftRight, Nat.testBit_shiftRight, Nat.testBit_mod_two_pow]
  by_cases hi : i < len
  · rw [decide_eq_true (show lo + i < 60 by omega), Bool.true_and]
  · rw [decide_eq_false hi, Bool.false_and, Bool.false_and]

/-- The place of an address is that of its local key. -/
theorem place_addrLocal (a : Nat) : place (addrLocal a) = place a := by
  have hb (lo len : Nat) (h : lo + len ≤ 60) := bits_addrLocal a lo len h
  simp only [place, addrRange, hb 56 4 (by decide), hb 34 22 (by decide), hb 0 26 (by decide), hb 26 8 (by decide), hb 32 24 (by decide),
    hb 26 6 (by decide), hb 41 15 (by decide), hb 0 41 (by decide), hb 49 7 (by decide), hb 48 1 (by decide), hb 0 48 (by decide),
    hb 40 16 (by decide), hb 0 40 (by decide), hb 26 30 (by decide)]

theorem homeCore_addrLocal (a : Nat) : homeCore (addrLocal a) = homeCore a := by
  unfold homeCore
  rw [place_addrLocal]

/-- A scratchpad's home is its core. -/
theorem homeCore_of_scratch {a o : Nat} {c : CoreIx} (h : place a = .scratch c o) : homeCore a = c := by
  unfold homeCore
  rw [h]

/-- Scratchpads lie in range 0. -/
theorem addrRange_of_scratch {a o : Nat} {c : CoreIx} (h : place a = .scratch c o) : addrRange a = 0 := by
  unfold place at h
  split at h
  next h0 => exact h0
  all_goals first | (split at h <;> exact absurd h (by nofun)) | exact absurd h (by nofun)

/-! ## Stores -/

theorem spoil_length (ctr a : Nat) (bad : List Nat) (bs : List Byte) (i : Nat) : (spoil ctr a bad i bs).length = bs.length := by
  induction bs generalizing i with
  | nil => rfl
  | cons b bs ih => exact congrArg (· + 1) (ih (i + 1))

/-- A store leaves the bytes outside its range. -/
theorem State.store_byte_outside (s : State) (a y : Nat) (bs : List Byte) (rs : List (Nat × Nat)) (hwf : s.mem.wf = true)
    (hy : y < a ∨ a + bs.length ≤ y) : (s.store a bs rs).mem.byte y = s.mem.byte y := by
  have hlen := spoil_length s.freeCtr a (badGranules a rs) bs 0
  exact (Memory.byte_write s.mem a y _ _ hwf).trans (dif_neg fun h => by omega)

/-- A store of clean data puts each byte in its place. -/
theorem State.store_byte_inside (s : State) (a i : Nat) (bs : List Byte) (hwf : s.mem.wf = true) (hi : i < bs.length) :
    (s.store a bs []).mem.byte (a + i) = bs[i] := by
  rw [State.store_clean, Memory.byte_write _ _ _ _ _ hwf, dif_pos ⟨by omega, by omega⟩]
  simp only [Nat.add_sub_cancel_left]

/-! ## What a write does (R223, R290, R298) -/

/-- A block of a reduce-scatter is kept for its sum. -/
def State.keepsBlock (s : State) (p : LinkPacket) : Prop :=
  addrRange p.addr.toNat = 8 ∧ ∃ r e i, s.collFor p.addr.toNat p.src.toNat = some (r, e, i) ∧ (collD r.desc).kind = 3

theorem State.settleRun_only (s : State) (c : CoreIx) (g : SlotIx) {u : State} (hu : u = s.settleRun c g) :
    u = { s with cores := u.cores, grd := u.grd } := by
  unfold State.settleRun at hu
  split at hu
  · rw [hu]
  · split at hu
    · rw [hu]
    next r _ _ =>
      have h := (s.modGang_onlyCore c g fun x => { x with await := x.await - 1 }).1
      generalize (s.modGang c g fun x => { x with await := x.await - 1 }) = v at *
      rw [hu, h]

theorem State.collLanded_only (s : State) (r : CollRun) (e : GroupEntry) (p rel : Nat) (bs : List Byte) (poison : Bool) {u : State}
    (hu : u = s.collLanded r e p rel bs poison) : u = { s with cores := u.cores, grd := u.grd } :=
  (State.settleRun_only _ r.core r.slot hu).trans rfl

/-- A write that lands leaves every core but its home as it was. -/
theorem State.landWrite_home (s : State) (a m : Nat) (ctx : BitVec 16) (bs : List Byte) (poison last : Bool) (d : CoreIx) (hd : d ≠ homeCore a) :
    (s.landWrite none a m ctx bs poison last).core d = s.core d := by
  have hwrite (bad : List (Nat × Nat)) : (s.writeAt none a bs bad).core d = s.core d :=
    State.modCnt_core_other _ (homeCore (addrLocal a)) d _ (by rwa [homeCore_addrLocal])
  unfold State.landWrite
  dsimp only
  split
  next c o hp =>
    split
    · exact (State.modTask_core_other _ _ _ _ _ (by rwa [← homeCore_of_scratch hp])).trans (hwrite _)
    · exact hwrite _
  · exact hwrite _

/-- The memory after a write's effect, and what else it changes. -/
theorem State.writeEffect_spec (s : State) (p : LinkPacket) (a : Nat) {u : State} (hu : u = s.writeEffect p a) :
    u = { s with mem := u.mem, cores := u.cores, grd := u.grd, freeCtr := u.freeCtr } ∧
      (s.keepsBlock p → u.mem = s.mem) ∧
      (¬ s.keepsBlock p → u.mem = (s.store (addrLocal a) p.body (if p.status = 1 then [(0, p.body.length)] else [])).mem) ∧
      (addrRange p.addr.toNat ≠ 8 → (∀ d, d ≠ homeCore a → u.core d = s.core d) ∧ u.grd.colls = s.grd.colls) := by
  have hland := s.landWrite_only none a p.src.toNat p.ctx p.body (p.status == 1) p.last
  have hmem := s.landWrite_mem none a p.src.toNat p.ctx p.body (p.status == 1) p.last
  have hhome := s.landWrite_home a p.src.toNat p.ctx p.body (p.status == 1) p.last
  simp only [beq_iff_eq] at hmem
  unfold State.writeEffect at hu
  dsimp only at hu
  generalize s.landWrite none a p.src.toNat p.ctx p.body (p.status == 1) p.last = t at *
  by_cases h8 : addrRange p.addr.toNat = 8
  · rw [if_pos h8] at hu
    cases hc : s.collFor p.addr.toNat p.src.toNat with
    | none =>
      simp only [hc, Bool.false_eq_true, if_false] at hu
      have hnot : ¬ s.keepsBlock p := fun ⟨_, _, _, _, h, _⟩ => absurd (hc.symm.trans h) (by nofun)
      exact ⟨by rw [hu, hland]; rfl, fun h => absurd h hnot, fun _ => by rw [hu]; exact hmem, fun h => absurd h8 h⟩
    | some x =>
      obtain ⟨r, e, i⟩ := x
      simp only [hc] at hu
      by_cases hk : (collD r.desc).kind = 3
      · rw [if_pos (beq_iff_eq.2 hk)] at hu
        have honly := State.collLanded_only s r e i _ _ _ hu
        exact ⟨by rw [honly], fun _ => by rw [honly], fun h => absurd ⟨h8, r, e, i, hc, hk⟩ h, fun h => absurd h8 h⟩
      · rw [if_neg fun h => hk (beq_iff_eq.1 h)] at hu
        have honly := State.collLanded_only t r e i _ _ _ hu
        have hnot : ¬ s.keepsBlock p := fun ⟨_, r', _, _, h, hk'⟩ => by
          rw [hc] at h
          exact hk (by rw [(Prod.mk.inj (Option.some.inj h)).1]; exact hk')
        exact ⟨by rw [honly, hland], fun h => absurd h hnot, fun _ => by rw [honly]; exact hmem, fun h => absurd h8 h⟩
  · simp only [if_neg h8, Bool.false_eq_true, if_false] at hu
    refine ⟨by rw [hu, hland]; rfl, fun h => absurd h.1 h8, fun _ => by rw [hu]; exact hmem, fun _ => ⟨fun d hd => ?_, ?_⟩⟩
    · rw [hu]; exact hhome d hd
    · rw [hu, hland]; rfl

/-! ## What a reduce-add does (R122) -/

theorem leBytes_length (n w : Nat) : (leBytes n w).length = n := by
  induction n generalizing w with
  | zero => rfl
  | succ n ih => exact congrArg (· + 1) (ih _)

theorem EP.lay_length (wide : Bool) (e : EP) : (EP.lay wide e).length = if wide then 80 else 24 := by
  unfold EP.lay
  cases wide
  · simp only [Bool.false_eq_true, if_false, List.length_append, leBytes_length]
  · simp only [if_true, List.length_append, leBytes_length, zeros, List.length_replicate]

/-- An element's sum has the width of its target, where mode and format are allowed (R121, R122). -/
theorem redElem_length {efmt : Nat} {anch : Bool} (epw : Bool) (t o : List Byte) (h : redOk efmt anch = true) :
    (redElem efmt anch epw t o).bytes.length = (redSizes efmt anch epw).2 := by
  have hle : efmt ≤ 8 := of_decide_eq_true (Bool.and_eq_true _ _ |>.mp h).1
  by_cases h7 : efmt = 7 ∨ efmt = 8
  · refine (congrArg (fun x : RedElem => x.bytes.length) (if_pos h7)).trans ((EP.lay_length _ _).trans ?_)
    obtain rfl | rfl := h7 <;> cases anch <;> rfl
  · refine (congrArg (fun x : RedElem => x.bytes.length) (if_neg h7)).trans ?_
    cases anch with
    | true =>
      have hallow : efmt = 0 ∨ efmt = 7 ∨ efmt = 8 := by
        have := (Bool.and_eq_true _ _ |>.mp h).2
        simpa only [Bool.not_true, Bool.false_or, Bool.or_eq_true, beq_iff_eq, or_assoc] using this
      obtain rfl := hallow.resolve_right h7
      show (redEnter epw t o).bytes.length = if epw then 80 else 24
      unfold redEnter
      dsimp only
      split <;> exact EP.lay_length _ _
    | false =>
      have hlt : efmt < 7 := by omega
      obtain rfl | rfl | rfl | rfl | rfl | rfl | rfl : efmt = 0 ∨ efmt = 1 ∨ efmt = 2 ∨ efmt = 3 ∨ efmt = 4 ∨ efmt = 5 ∨ efmt = 6 := by omega
      all_goals exact leBytes_length _ _

theorem State.redElems_length (s : State) (a efmt : Nat) (anch epw : Bool) (bs : List Byte) (h : redOk efmt anch = true) :
    ((s.redElems a efmt anch epw bs).flatMap RedElem.bytes).length = redSpan efmt anch epw bs.length := by
  unfold State.redElems redSpan
  dsimp only
  rw [List.length_flatMap, List.map_map]
  refine (congrArg List.sum (List.map_congr_left fun i _ => redElem_length epw _ _ h)).trans ?_
  rw [List.map_const', List.sum_replicate_nat, List.length_range]

/-- The memory after a reduce-add, and what else it changes. -/
theorem State.reduceAt_spec (s : State) (a efmt : Nat) (anch epw : Bool) (bs : List Byte) (poison : Bool) {u : State}
    (hu : u = s.reduceAt none a efmt anch epw bs poison) :
    u = { s with mem := u.mem, cores := u.cores, freeCtr := u.freeCtr, flt := u.flt, out := u.out } ∧
      (∃ bad, u.mem = (s.store (addrLocal a) ((s.redElems a efmt anch epw bs).flatMap RedElem.bytes) bad).mem) ∧
      ∀ d, d ≠ homeCore a → u.core d = s.core d := by
  obtain ⟨bad, f, n, m, he⟩ : ∃ bad f n m, u = if n = 0 then
      (s.writeAt none a ((s.redElems a efmt anch epw bs).flatMap RedElem.bytes) bad).modCnt (homeCore a) f
      else ((s.writeAt none a ((s.redElems a efmt anch epw bs).flatMap RedElem.bytes) bad).modCnt (homeCore a) f).logEvent 1 1 0x23 kField m :=
    ⟨_, _, _, _, hu.trans rfl⟩
  have hcore (d : CoreIx) (hd : d ≠ homeCore a) :
      ((s.writeAt none a ((s.redElems a efmt anch epw bs).flatMap RedElem.bytes) bad).modCnt (homeCore a) f).core d = s.core d :=
    (State.modCnt_core_other _ _ d _ hd).trans (State.modCnt_core_other _ (homeCore (addrLocal a)) d _ (by rwa [homeCore_addrLocal]))
  by_cases hn : n = 0
  · rw [if_pos hn] at he
    exact ⟨by rw [he]; rfl, ⟨bad, by rw [he]; rfl⟩, by rw [he]; exact hcore⟩
  · rw [if_neg hn, State.logEvent_only] at he
    exact ⟨by rw [he]; rfl, ⟨bad, by rw [he]; rfl⟩, by rw [he]; exact hcore⟩

/-! ## Answers (R366, R368, R373) -/

section
variable {g : GroupIx} {b : SubIx}

/-- Packets that leave keep the order queue. -/
theorem pumps.ordQ {s t : State} (h : pumps g b s t) : (t.sub g b).ordQ = (s.sub g b).ordQ := by
  rw [h.sub]

/-- A response leaves or waits. -/
theorem State.respond_spec (s : State) (p : LinkPacket) (typ : Byte) (st : BitVec 8) (addr : W64) (body : List Byte) {u : State}
    (hu : u = s.respond g b p typ st addr body) : pumps g b s u ∧
      u.sentOrQueued g b { s.linkBase typ 2 p.src p.pkey p.ctx with status := st, tag := p.tag, addr := addr, body := body } :=
  hu ▸ ⟨s.sendLink_pumps g b _, s.sendLink_sentOrQueued g b _⟩

/-- A count of the group keeps the order queue. -/
theorem State.modGroup_ordQ (s : State) (f : LinkGroup → LinkGroup) (hf : ∀ k, (f k).sub = k.sub) :
    ((s.modGroup g f).sub g b).ordQ = (s.sub g b).ordQ := by
  refine (congrArg (fun k : LinkGroup => k.sub[b].ordQ) (State.modGroup_group s g f)).trans ?_
  rw [hf]
  rfl

/-- The answer to a refused packet keeps the order queue. -/
theorem State.rxAnswer_ordQ (s : State) (p : LinkPacket) (code credits : Nat) :
    ((s.rxAnswer g b p code credits).sub g b).ordQ = (s.sub g b).ordQ := by
  unfold State.rxAnswer
  split
  · rfl
  · split
    · exact (s.sendLink_pumps g b _).ordQ
    · unfold State.sendNack
      dsimp only
      split
      · exact State.modGroup_ordQ s _ fun _ => rfl
      · refine (State.sendLink_pumps _ g b _).ordQ.trans ?_
        rw [State.modSub_sub]
        exact State.modGroup_ordQ s _ fun _ => rfl

/-- What a write or reduce-add that has taken effect counts, and its acknowledgement. -/
theorem State.acknowledge_spec (s : State) (p q : LinkPacket) (x : BitVec 16) (a n : Nat) {u : State}
    (hu : u = ((s.countReceived q n).countApplied x a n).respond g b p 4 0 0 []) : sendsOnly g s u ∧ (u.sub g b).ordQ = (s.sub g b).ordQ ∧
      u.sentOrQueued g b { s.linkBase 4 2 p.src p.pkey p.ctx with tag := p.tag } := by
  have hframe : ((s.countReceived q n).countApplied x a n) = { s with fab := ((s.countReceived q n).countApplied x a n).fab } := by
    rw [State.countApplied_frame, State.countReceived_frame]
  generalize (s.countReceived q n).countApplied x a n = t at *
  obtain ⟨hp, hsent⟩ := t.respond_spec p 4 0 0 [] hu
  have hst : sendsOnly g s t := by rw [hframe]; exact s.withFab_sendsOnly g _
  have hsub : t.sub g b = s.sub g b := by rw [hframe]; rfl
  have hbase : t.linkBase 4 2 p.src p.pkey p.ctx = s.linkBase 4 2 p.src p.pkey p.ctx := by rw [hframe]; rfl
  rw [hbase] at hsent
  exact ⟨hst.trans hp.sends, hp.ordQ.trans (by rw [hsub]), hsent⟩

/-! ## Requests turned away (R229, R232, R233, R368) -/

/-- The NACK of a verdict. -/
def Verdict.nackCode : Verdict → Nat
  | .refused => 3
  | .parked => 4
  | _ => 2

/-- In `u` a write or a reduce-add has been turned away. -/
structure turnedAway (g : GroupIx) (b : SubIx) (s u : State) (q : LinkPacket) (v : Verdict) : Prop where
  frame : u = { s with cores := u.cores, links := u.links, fab := u.fab, pwr := u.pwr, flt := u.flt, out := u.out }
  home : ∀ d, d ≠ homeCore q.addr.toNat → u.core d = s.core d
  cores : addrRange q.addr.toNat ≠ 0 → u.cores = s.cores
  ordQ : (u.sub g b).ordQ = (s.sub g b).ordQ
  nacked : q.typ = 1 ∨ q.typ = 3 → ∃ c, s.nacked u g b q v.nackCode c ∧ (v ≠ .parked → c = 0)

/-- A landing carrel notes the gap at its own core alone. -/
theorem State.landMiss_home (s : State) (a n m : Nat) (ctx : BitVec 16) (last : Bool) {t : State}
    (ht : t = if addrModule a = s.glb.modIx.val then s.landMiss a n m ctx last else s) :
    t = { s with cores := t.cores } ∧ (∀ d, d ≠ homeCore a → t.core d = s.core d) ∧ (addrRange a ≠ 0 → t.cores = s.cores) := by
  split at ht
  · refine ⟨by rw [ht, State.landMiss_only], fun d hd => ?_, fun h0 => ?_⟩
    · rw [ht]
      refine s.landMiss_core a n m ctx last ?_
      unfold targetOther
      split
      next k o hp => rwa [← homeCore_of_scratch hp]
      next => trivial
    · rw [ht]
      unfold State.landMiss
      split
      next c o hp => exact absurd (addrRange_of_scratch hp) h0
      next => rfl
  · exact ⟨by rw [ht], fun d _ => by rw [ht], fun _ => by rw [ht]⟩

/-- A request that has noted its gap and what it counts is answered with a NACK. -/
theorem turnedAway_of_answered {s t w u : State} {q : LinkPacket} {v : Verdict} {c : Nat}
    (ht : t = { s with cores := t.cores } ∧ (∀ d, d ≠ homeCore q.addr.toNat → t.core d = s.core d) ∧
      (addrRange q.addr.toNat ≠ 0 → t.cores = s.cores))
    (hw : w = { t with fab := w.fab, pwr := w.pwr }) (hu : u = w.rxAnswer g b q v.nackCode c)
    (hc : v ≠ .parked → c = 0) : turnedAway g b s u q v := by
  obtain ⟨ht, hhome, hcores⟩ := ht
  obtain ⟨hsends, -, -, -, hnack⟩ := w.rxAnswer_spec g b q v.nackCode c hu
  have hord : (u.sub g b).ordQ = (w.sub g b).ordQ := hu ▸ w.rxAnswer_ordQ q v.nackCode c
  have hws : w = { s with cores := t.cores, fab := w.fab, pwr := w.pwr } := by rw [hw, ht]
  have hwc : w.cores = t.cores := by rw [hw]
  have huc : u.cores = w.cores := by rw [hsends.1]
  have halike : answersAlike g b s w := by rw [hws]; exact ⟨rfl, rfl, rfl, rfl, rfl⟩
  have hsub : w.sub g b = s.sub g b := by rw [hws]; rfl
  have hcode : v.nackCode ≠ 0x16 := by cases v <;> decide
  have hne (htyp : q.typ = 1 ∨ q.typ = 3) (x : Byte) (h1 : (1 : Byte) ≠ x) (h3 : (3 : Byte) ≠ x) : q.typ ≠ x := by
    obtain h | h := htyp
    · rwa [h]
    · rwa [h]
  refine ⟨by rw [hsends.1, hws], fun d hd => ?_, fun h0 => ?_, by rw [hord, hsub], fun ht => ⟨c, State.nacked_of_alike halike ?_, hc⟩⟩
  · exact (congrArg (fun k => k[d]) (huc.trans hwc)).trans (hhome d hd)
  · rw [huc, hwc, hcores h0]
  · exact hnack hcode (hne ht 0 (by decide) (by decide)) (hne ht 0x20 (by decide) (by decide)) (hne ht 0x21 (by decide) (by decide))
      (hne ht 0x22 (by decide) (by decide))

/-- An event logged keeps a packet sent or queued. -/
theorem State.modEvent_sentOrQueued {s : State} {p : LinkPacket} (h : s.sentOrQueued g b p) (cls unit loc : Nat) (l : List Byte) :
    (s.modEvent cls unit loc l).sentOrQueued g b p := by
  have honly := s.modEvent_logOnly cls unit loc l
  obtain ⟨o, ho⟩ := s.logEvent_out cls unit loc kModule s.glb.modIx.val l
  have hout : (s.modEvent cls unit loc l).out = s.out ++ o := ho
  generalize s.modEvent cls unit loc l = t at *
  unfold State.sentOrQueued at h ⊢
  rw [hout]
  refine h.imp (fun ⟨x, hx, hp⟩ => ⟨x, by rw [honly]; exact hx, hp⟩) fun ⟨w, r, hmem, hr, hw⟩ =>
    ⟨w, r, List.mem_append_left _ hmem, hr, hw.imp_right fun ⟨hne, k, hk, hkey⟩ => ⟨hne, k, by rw [honly]; exact hk, by rw [honly]; exact hkey⟩⟩

/-- A refusal is logged beside its answer. -/
theorem turnedAway.logged {s u : State} {q : LinkPacket} {v : Verdict} (h : turnedAway g b s u q v) (cls unit loc : Nat) (l : List Byte) :
    turnedAway g b s (u.modEvent cls unit loc l) q v := by
  obtain ⟨hframe, hhome, hcores, hord, hnacked⟩ := h
  have honly := u.modEvent_logOnly cls unit loc l
  have hkeep {p : LinkPacket} (hp : u.sentOrQueued g b p) := State.modEvent_sentOrQueued hp cls unit loc l
  generalize u.modEvent cls unit loc l = t at *
  have hgroup : t.group g = u.group g := by rw [honly]; rfl
  refine ⟨by rw [honly, hframe], fun d hd => by rw [honly]; exact hhome d hd, fun h0 => by rw [honly]; exact hcores h0,
    by rw [honly]; exact hord, fun htyp => ?_⟩
  obtain ⟨c, hn, hc⟩ := hnacked htyp
  refine ⟨c, ?_, hc⟩
  unfold State.nacked at hn ⊢
  rw [hgroup]
  split
  · rwa [if_pos (by assumption)] at hn
  · rw [if_neg (by assumption)] at hn
    obtain ⟨htx, hsupp, hsent⟩ := hn
    exact ⟨htx, hsupp, hkeep hsent⟩

/-- A write or a reduce-add turned away stores nothing, and is answered with the NACK of its verdict. -/
theorem State.linkTurnAway_spec (s : State) (q : LinkPacket) (window : Bool) (v : Verdict) (hv : v ≠ .ok)
    {u : State} (hu : u = s.linkTurnAway g b q window v) : turnedAway g b s u q v := by
  have ht := s.landMiss_home q.addr.toNat q.body.length q.src.toNat q.ctx q.last rfl
  have happlied (w : State) (n : Nat) (x : Bool) : ((w.countReceived q n x).countApplied q.ctx q.addr.toNat n) =
      { w with fab := ((w.countReceived q n x).countApplied q.ctx q.addr.toNat n).fab } := by
    rw [State.countApplied_frame, State.countReceived_frame]
  have hreceived (w : State) (n : Nat) (x : Bool) : ((w.countApplied q.ctx q.addr.toNat n).countReceived q n x) =
      { w with fab := ((w.countApplied q.ctx q.addr.toNat n).countReceived q n x).fab } := by
    rw [State.countReceived_frame, State.countApplied_frame]
  unfold State.linkTurnAway at hu
  dsimp only at hu
  generalize (if addrModule q.addr.toNat = s.glb.modIx.val then s.landMiss q.addr.toNat q.body.length q.src.toNat q.ctx q.last else s) = t at *
  cases v with
  | ok => exact absurd rfl hv
  | absent => exact turnedAway_of_answered ht (by rw [happlied]) hu fun _ => rfl
  | parked =>
    refine turnedAway_of_answered ht ?_ hu fun h => absurd rfl h
    unfold State.countParked State.modCtx
    rw [happlied]
  | refused =>
    dsimp only at hu
    rw [hu]
    unfold State.refusedEvent
    refine turnedAway.logged (v := .refused) (turnedAway_of_answered (c := 0) ht ?_ rfl fun _ => rfl) 0 2 0x06 _
    split <;> rw [hreceived]

/-! ## Writes and reduce-adds by their verdict -/

/-- A verdict that admits has found a context, and a window. -/
theorem State.linkVerdict_ok {s : State} {p : LinkPacket} {n : Nat} {window : Bool} (h : s.linkVerdict g b p n window = .ok) : window = true := by
  unfold State.linkVerdict at h
  dsimp only at h
  split at h
  · exact absurd h (by decide)
  · split at h
    · exact absurd h (by decide)
    · split at h
      · split at h <;> exact absurd h (by decide)
      · unfold State.regionVerdict at h
        have hand {x y z : Bool} (h' : (x && (y && z)) = true) : z = true := by
          cases z
          · rw [Bool.and_false, Bool.and_false] at h'; exact h'
          · rfl
        split at h
        · split at h
          · exact hand (by assumption)
          · exact absurd h (by decide)
        · split at h <;> exact absurd h (by decide)
        next hne _ => exact absurd h hne

/-- What the window of a write of `n` bytes says (R389, R392). -/
def State.windowFor (s : State) (p q : LinkPacket) : Bool :=
  match s.ctx? p.ctx with
  | some k => s.windowOk q k p.body.length
  | none => true

/-- A write bound for where it lands. -/
def State.directed (s : State) (p : LinkPacket) : LinkPacket := { p with addr := BitVec.ofNat 64 (s.writePlace p) }

/-- The verdict on a write. -/
def State.writeVerdict (s : State) (g : GroupIx) (b : SubIx) (p : LinkPacket) : Verdict :=
  s.linkVerdict g b (s.directed p) p.body.length (s.windowFor p (s.directed p))

/-- The verdict on a reduce-add. -/
def State.reduceVerdict (s : State) (g : GroupIx) (b : SubIx) (p : LinkPacket) : Verdict :=
  s.linkVerdict g b p (redSpan p.efmt.toNat p.anchored p.epw p.body.length)
    (s.windowFor p p && redTarget p.addr.toNat p.efmt.toNat p.anchored)

section
variable {s : State} {p : LinkPacket} {u : State}

theorem State.linkWriteNow_eq : s.linkWriteNow g b p = match s.writeVerdict g b p with
    | .ok => (((s.writeEffect p (s.writePlace p)).countReceived (s.directed p) p.body.length).countApplied p.ctx (s.writePlace p)
      p.body.length).respond g b p 4 0 0 []
    | v => s.linkTurnAway g b (s.directed p) (s.windowFor p (s.directed p)) v := rfl

theorem State.linkReduceNow_eq : s.linkReduceNow g b p = match s.reduceVerdict g b p with
    | .ok => (((s.reduceAt none p.addr.toNat p.efmt.toNat p.anchored p.epw p.body (p.status == 1)).countReceived p
      p.body.length).countApplied p.ctx p.addr.toNat p.body.length).respond g b p 4 0 0 []
    | v => s.linkTurnAway g b p (s.windowFor p p) v := rfl

/-- A write that is admitted takes its effect and is acknowledged. -/
theorem State.linkWriteNow_of_ok (h : s.writeVerdict g b p = .ok) (hu : u = s.linkWriteNow g b p) :
    sendsOnly g (s.writeEffect p (s.writePlace p)) u ∧ (u.sub g b).ordQ = (s.sub g b).ordQ ∧
      u.sentOrQueued g b { s.linkBase 4 2 p.src p.pkey p.ctx with tag := p.tag } := by
  obtain ⟨hframe, -⟩ := s.writeEffect_spec p (s.writePlace p) rfl
  have hnow : s.linkWriteNow g b p = (((s.writeEffect p (s.writePlace p)).countReceived (s.directed p) p.body.length).countApplied p.ctx
      (s.writePlace p) p.body.length).respond g b p 4 0 0 [] := by
    rw [State.linkWriteNow_eq, h]
  obtain ⟨hsends, hord, hsent⟩ := State.acknowledge_spec _ p (s.directed p) p.ctx (s.writePlace p) p.body.length (hu.trans hnow)
  generalize s.writeEffect p (s.writePlace p) = t at *
  have hbase : t.linkBase 4 2 p.src p.pkey p.ctx = s.linkBase 4 2 p.src p.pkey p.ctx := by rw [hframe]; rfl
  have hsub : t.sub g b = s.sub g b := by rw [hframe]; rfl
  rw [hbase] at hsent
  exact ⟨hsends, by rw [hord, hsub], hsent⟩

theorem State.linkWriteNow_of_not_ok (h : s.writeVerdict g b p ≠ .ok) (hu : u = s.linkWriteNow g b p) :
    turnedAway g b s u (s.directed p) (s.writeVerdict g b p) := by
  refine s.linkTurnAway_spec (s.directed p) (s.windowFor p (s.directed p)) _ h (hu.trans ?_)
  rw [State.linkWriteNow_eq]
  split
  next he => exact absurd he h
  next => rfl

/-- A reduce-add that is admitted takes its effect and is acknowledged. -/
theorem State.linkReduceNow_of_ok (h : s.reduceVerdict g b p = .ok) (hu : u = s.linkReduceNow g b p) :
    sendsOnly g (s.reduceAt none p.addr.toNat p.efmt.toNat p.anchored p.epw p.body (p.status == 1)) u ∧
      (u.sub g b).ordQ = (s.sub g b).ordQ ∧ u.sentOrQueued g b { s.linkBase 4 2 p.src p.pkey p.ctx with tag := p.tag } := by
  obtain ⟨hframe, -⟩ := s.reduceAt_spec p.addr.toNat p.efmt.toNat p.anchored p.epw p.body (p.status == 1) rfl
  have hnow : s.linkReduceNow g b p = (((s.reduceAt none p.addr.toNat p.efmt.toNat p.anchored p.epw p.body (p.status == 1)).countReceived p
      p.body.length).countApplied p.ctx p.addr.toNat p.body.length).respond g b p 4 0 0 [] := by
    rw [State.linkReduceNow_eq, h]
  obtain ⟨hsends, hord, hsent⟩ := State.acknowledge_spec _ p p p.ctx p.addr.toNat p.body.length (hu.trans hnow)
  generalize s.reduceAt none p.addr.toNat p.efmt.toNat p.anchored p.epw p.body (p.status == 1) = t at *
  have hbase : t.linkBase 4 2 p.src p.pkey p.ctx = s.linkBase 4 2 p.src p.pkey p.ctx := by rw [hframe]; rfl
  have hsub : t.sub g b = s.sub g b := by rw [hframe]; rfl
  rw [hbase] at hsent
  exact ⟨hsends, by rw [hord, hsub], hsent⟩

theorem State.linkReduceNow_of_not_ok (h : s.reduceVerdict g b p ≠ .ok) (hu : u = s.linkReduceNow g b p) :
    turnedAway g b s u p (s.reduceVerdict g b p) := by
  refine s.linkTurnAway_spec p (s.windowFor p p) _ h (hu.trans ?_)
  rw [State.linkReduceNow_eq]
  split
  next he => exact absurd he h
  next => rfl

/-! ## What a write or reduce-add leaves alone -/

/-- Either way the order queue stays. -/
theorem State.linkWriteNow_ordQ (hu : u = s.linkWriteNow g b p) : (u.sub g b).ordQ = (s.sub g b).ordQ := by
  by_cases h : s.writeVerdict g b p = .ok
  · exact (State.linkWriteNow_of_ok h hu).2.1
  · exact (State.linkWriteNow_of_not_ok h hu).ordQ

theorem State.linkReduceNow_ordQ (hu : u = s.linkReduceNow g b p) : (u.sub g b).ordQ = (s.sub g b).ordQ := by
  by_cases h : s.reduceVerdict g b p = .ok
  · exact (State.linkReduceNow_of_ok h hu).2.1
  · exact (State.linkReduceNow_of_not_ok h hu).ordQ

/-- A write leaves every byte outside its target. -/
theorem State.linkWriteNow_outside (hwf : s.mem.wf = true) (hu : u = s.linkWriteNow g b p) (y : Nat)
    (hy : y < addrLocal (s.writePlace p) ∨ addrLocal (s.writePlace p) + p.body.length ≤ y) : u.mem.byte y = s.mem.byte y := by
  by_cases h : s.writeVerdict g b p = .ok
  · obtain ⟨hsends, -⟩ := State.linkWriteNow_of_ok h hu
    obtain ⟨-, hkept, hstored, -⟩ := s.writeEffect_spec p (s.writePlace p) rfl
    have hmem : u.mem = (s.writeEffect p (s.writePlace p)).mem := by rw [hsends.1]
    rw [hmem]
    by_cases hk : s.keepsBlock p
    · rw [hkept hk]
    · rw [hstored hk]
      exact s.store_byte_outside _ y _ _ hwf hy
  · have hframe := (State.linkWriteNow_of_not_ok h hu).frame
    rw [hframe]

/-- A reduce-add leaves every byte outside its elements. -/
theorem State.linkReduceNow_outside (hwf : s.mem.wf = true) (hu : u = s.linkReduceNow g b p) (y : Nat)
    (hy : y < addrLocal p.addr.toNat ∨ addrLocal p.addr.toNat + redSpan p.efmt.toNat p.anchored p.epw p.body.length ≤ y) :
    u.mem.byte y = s.mem.byte y := by
  by_cases h : s.reduceVerdict g b p = .ok
  · obtain ⟨hsends, -⟩ := State.linkReduceNow_of_ok h hu
    obtain ⟨-, ⟨bad, hstored⟩, -⟩ := s.reduceAt_spec p.addr.toNat p.efmt.toNat p.anchored p.epw p.body (p.status == 1) rfl
    have hmem : u.mem = (s.reduceAt none p.addr.toNat p.efmt.toNat p.anchored p.epw p.body (p.status == 1)).mem := by rw [hsends.1]
    have htarget := (Bool.and_eq_true _ _ |>.mp (State.linkVerdict_ok h)).2
    have hok : redOk p.efmt.toNat p.anchored = true := by
      unfold redTarget at htarget
      split at htarget
      · exact htarget
      · exact absurd htarget (by decide)
    rw [hmem, hstored]
    exact s.store_byte_outside _ y _ _ hwf (by rwa [s.redElems_length _ _ _ _ _ hok])
  · have hframe := (State.linkReduceNow_of_not_ok h hu).frame
    rw [hframe]

end

end

end Sys2Proof.Machine
end

section
/-! PROOFS. Requests of other modules served (R129, R131, R229, R240, R366, R391, R397). -/

namespace Sys2Proof.Machine

/-! ## Errors found by a read (R239, R240) -/

/-- Errors found by a read change memory, cores' counts, rows and the log alone. -/
def eccOnly (s t : State) : Prop :=
  t = { s with mem := t.mem, cores := t.cores, memu := t.memu, nvm := t.nvm, flt := t.flt, out := t.out }

theorem eccOnly.trans {s t v : State} (h : eccOnly s t) (h' : eccOnly t v) : eccOnly s v := by
  unfold eccOnly at *
  rw [h', h]

section
variable (s : State)

theorem eccOnly.modEvent {s t : State} (h : eccOnly s t) (cls unit loc : Nat) (l : List Byte) : eccOnly s (t.modEvent cls unit loc l) :=
  h.trans (by rw [t.modEvent_logOnly cls unit loc l]; rfl)

theorem eccOnly.service {s t : State} (h : eccOnly s t) (b : Nat) : eccOnly s (t.service b) := h.trans rfl

theorem State.listRow_eccOnly (r : RowId) : eccOnly s (s.listRow r) := by
  have hspare (w : State) : eccOnly w (w.noSpare r) := by
    unfold State.noSpare
    exact (eccOnly.modEvent (by exact rfl) _ _ _ _).service _
  unfold State.listRow
  split
  · rfl
  · split
    · exact (eccOnly.modEvent (by exact rfl) _ _ _ _).service _
    · have hlisted : eccOnly s (State.modEvent { s with
          nvm := { s.nvm with mapOut := s.nvm.mapOut ++ [(r.row, r.bank)] }
          memu := { s.memu with mapPend := bump s.memu.mapPend } } 0 2 0x04 (leBytes 8 r.row)) :=
        eccOnly.modEvent (by exact rfl) _ _ _ _
      dsimp only
      split
      · exact hlisted.trans (hspare _)
      · exact hlisted

theorem State.spoilAt_eccOnly (acc : Option CoreIx) (gs : List Nat) : eccOnly s (s.spoilAt acc gs) := by
  unfold State.spoilAt
  split <;> rfl

theorem State.eccUncorr_eccOnly (x : Nat) : eccOnly s (s.eccUncorr x) := by
  unfold State.eccUncorr
  have hspoil := s.spoilAt_eccOnly none [x]
  generalize s.spoilAt none [x] = t at *
  exact hspoil.trans (eccOnly.trans (eccOnly.modEvent (by exact rfl) _ _ _ _) (State.listRow_eccOnly _ _))

theorem State.eccCorr_eccOnly (x : Nat) : eccOnly s (s.eccCorr x) := by
  unfold State.eccCorr
  dsimp only
  split
  · exact eccOnly.trans (t := { s with memu := _ }) rfl (State.listRow_eccOnly _ _)
  · rfl

theorem State.readErrors_eccOnly (a n : Nat) (ecc : List EccErr) : eccOnly s (s.readErrors a n ecc) := by
  refine List.foldlRecOn (motive := fun t : State => eccOnly s t) _ _ rfl fun t ht e _ => ht.trans ?_
  split
  · exact t.eccUncorr_eccOnly _
  · exact t.eccCorr_eccOnly _

end

/-! ## Pieces of one poison state (R131) -/

/-- Consecutive cuts have no cut between them. -/
theorem mem_spans {x n : Nat} {l : List Nat} (hl : rising l = true) (h : (x, n) ∈ spans l) : x ∈ l ∧ x + n ∈ l ∧ ∀ z ∈ l, z ≤ x ∨ x + n ≤ z := by
  induction l with
  | nil => exact absurd h List.not_mem_nil
  | cons a l ih =>
    cases l with
    | nil => exact absurd h List.not_mem_nil
    | cons c l =>
      have hlt : ∀ z ∈ c :: l, a < z := rising_lt hl
      rw [spans, List.mem_cons] at h
      obtain h | h := h
      · obtain ⟨rfl, rfl⟩ := Prod.mk.inj h
        have hac := hlt c List.mem_cons_self
        have hc : x + (c - x) = c := by omega
        rw [hc]
        refine ⟨List.mem_cons_self, List.mem_cons_of_mem _ List.mem_cons_self, fun z hz => ?_⟩
        obtain rfl | hz := List.mem_cons.1 hz
        · exact .inl (Nat.le_refl _)
        · obtain rfl | hz := List.mem_cons.1 hz
          · exact .inr (Nat.le_refl _)
          · exact .inr (Nat.le_of_lt (rising_lt (rising_tail hl) z hz))
      · obtain ⟨hx, hn, hno⟩ := ih (rising_tail hl) h
        refine ⟨List.mem_cons_of_mem _ hx, List.mem_cons_of_mem _ hn, fun z hz => ?_⟩
        obtain rfl | hz := List.mem_cons.1 hz
        · exact .inl (Nat.le_of_lt (hlt x hx))
        · exact hno z hz

/-- The cuts of a range are in order, within it, and at the edges of its poisoned ranges. -/
theorem edges_spec (a n : Nat) (bad : List (Nat × Nat)) : rising (edges a n bad) = true ∧ (∀ z ∈ edges a n bad, z ≤ n) ∧
    ∀ r ∈ bad, (r.1 ≤ n → r.1 ∈ edges a n bad) ∧ (r.1 + r.2 ≤ n → r.1 + r.2 ∈ edges a n bad) := by
  have hstep (l : List Nat) (x : Nat) (h : rising l = true ∧ ∀ z ∈ l, z ≤ n) :
      rising (if x ≤ n then insertNat x l else l) = true ∧ ∀ z ∈ (if x ≤ n then insertNat x l else l), z ≤ n := by
    split
    next hx => exact ⟨rising_insertNat x l h.1, fun z hz => ((mem_insertNat x z l).1 hz).elim (fun e => e ▸ hx) (h.2 z)⟩
    next => exact h
  have hkeep (z : Nat) (l : List Nat) (x : Nat) (h : z ∈ l) : z ∈ (if x ≤ n then insertNat x l else l) := by
    split
    · exact (mem_insertNat x z l).2 (.inr h)
    · exact h
  have hall : rising (edges a n bad) = true ∧ ∀ z ∈ edges a n bad, z ≤ n :=
    List.foldlRecOn (motive := fun l : List Nat => rising l = true ∧ ∀ z ∈ l, z ≤ n) _ _ ⟨rfl, fun _ h => absurd h List.not_mem_nil⟩
      fun l h x _ => hstep l x h
  have hin (z : Nat) (hz : z ∈ bad.flatMap fun r => [r.1, r.1 + r.2]) (hn : z ≤ n) : z ∈ edges a n bad := by
    refine foldl_reaches (R := fun _ => True) (P := fun l => z ∈ l) (x := z) ?_ (fun _ _ _ => trivial) (hkeep z) (fun l _ => ?_) _ trivial
    · exact List.mem_cons_of_mem _ (List.mem_cons_of_mem _ (List.mem_append_right _ hz))
    · exact (congrArg (z ∈ ·) (if_pos hn)).mpr ((mem_insertNat z z l).2 (.inl rfl))
  exact ⟨hall.1, hall.2, fun r hr => ⟨hin _ (List.mem_flatMap.2 ⟨r, hr, List.mem_cons_self⟩),
    hin _ (List.mem_flatMap.2 ⟨r, hr, List.mem_cons_of_mem _ List.mem_cons_self⟩)⟩⟩

/-- A clean piece touches no poisoned granule. -/
theorem pieces_clean {m : Memory} {a k n : Nat} {x : Nat × Nat × Bool} (hx : x ∈ pieces a n (m.poisonIn k n)) (hc : x.2.2 = false) :
    m.anyPoison (k + x.1) x.2.1 = false := by
  obtain ⟨y, hy, rfl⟩ := List.mem_map.1 hx
  obtain ⟨o, l⟩ := y
  dsimp only at hc ⊢
  obtain ⟨hrise, hle, hbad⟩ := edges_spec a n (m.poisonIn k n)
  obtain ⟨ho, hol, hno⟩ := mem_spans hrise hy
  refine List.any_eq_false.2 fun g hg hpois => ?_
  have hl : 0 < l := Nat.pos_of_ne_zero fun e => by rw [e] at hg; exact absurd hg List.not_mem_nil
  have hn := hle _ hol
  obtain ⟨h1, h2⟩ := (mem_granules _ _ _ hl).1 hg
  have hr : (64 * g - k, min (64 * g + 64) (k + n) - max (64 * g) k) ∈ m.poisonIn k n :=
    List.mem_map.2 ⟨g, List.mem_filter.2 ⟨(mem_granules _ _ _ (by omega)).2 ⟨by omega, by omega⟩, hpois⟩, rfl⟩
  obtain ⟨hlow, hhigh⟩ := hbad _ hr
  dsimp only at hlow hhigh
  have h3 := hno _ (hlow (by omega))
  have h4 := hno _ (hhigh (by omega))
  refine absurd (List.any_eq_true.2 ⟨_, hr, ?_⟩) (Bool.eq_false_iff.1 hc)
  rw [Bool.and_eq_true, decide_eq_true_eq, decide_eq_true_eq]
  constructor <;> dsimp only <;> omega

theorem Memory.read_length (m : Memory) (a n : Nat) : (m.read a n).length = n := by
  induction n generalizing a with
  | zero => rfl
  | succ n ih => exact congrArg (· + 1) (ih (a + 1))

theorem State.view_length (s : State) (a n : Nat) : (s.view a n).length = n :=
  (spoil_length _ _ _ _ 0).trans (Memory.read_length _ _ _)

/-! ## Read data (R129, R391) -/

section
variable {g : GroupIx} {b : SubIx}

/-- The piece of an answer that starts at an offset. -/
def State.readPiece (s : State) (p : LinkPacket) (x : Nat × Nat × Bool) (bs : List Byte) : LinkPacket :=
  { s.linkBase 2 2 p.src p.pkey p.ctx with
    status := if x.2.2 then 1 else 0, tag := p.tag, addr := BitVec.ofNat 64 (p.addr.toNat + x.1), body := bs }

/-- A read is answered piece by piece. -/
theorem State.linkReadParts_spec (s : State) (p : LinkPacket) {u : State} (hu : u = s.linkReadParts g b p) :
    u = { s with links := u.links, fab := u.fab, out := u.out, freeCtr := u.freeCtr } ∧
      ∀ x ∈ pieces p.addr.toNat p.rlen.toNat (s.mem.poisonIn (addrLocal p.addr.toNat) p.rlen.toNat), ∃ bs, bs.length = x.2.1 ∧
        (x.2.2 = false → bs = s.mem.read (addrLocal p.addr.toNat + x.1) x.2.1) ∧ u.sentOrQueued g b (s.readPiece p x bs) := by
  have hstep (t : State) (x : Nat × Nat × Bool) (v : State) (hv : v = (t.respond g b p 2 (if x.2.2 then 1 else 0)
      (BitVec.ofNat 64 (p.addr.toNat + x.1)) (t.view (addrLocal p.addr.toNat + x.1) x.2.1)).fresh x.2.1) :
      v = { t with links := v.links, fab := v.fab, out := v.out, freeCtr := v.freeCtr } ∧
        v.sentOrQueued g b (t.readPiece p x (t.view (addrLocal p.addr.toNat + x.1) x.2.1)) ∧
        ∀ q, t.sentOrQueued g b q → v.sentOrQueued g b q := by
    have hkeep (q : LinkPacket) (hq : t.sentOrQueued g b q) : (t.respond g b p 2 (if x.2.2 then 1 else 0)
        (BitVec.ofNat 64 (p.addr.toNat + x.1)) (t.view (addrLocal p.addr.toNat + x.1) x.2.1)).sentOrQueued g b q :=
      State.sendLink_keeps_sentOrQueued hq
    obtain ⟨hp, hsent⟩ := t.respond_spec (g := g) (b := b) p 2 (if x.2.2 then 1 else 0) (BitVec.ofNat 64 (p.addr.toNat + x.1))
      (t.view (addrLocal p.addr.toNat + x.1) x.2.1) rfl
    have hframe := hp.sends.1
    generalize t.respond g b p 2 (if x.2.2 then 1 else 0) (BitVec.ofNat 64 (p.addr.toNat + x.1))
      (t.view (addrLocal p.addr.toNat + x.1) x.2.1) = w at *
    subst hv
    exact ⟨by unfold State.fresh; rw [hframe], hsent, hkeep⟩
  have hframe := List.foldlRecOn (motive := fun t : State => t = { s with links := t.links, fab := t.fab, out := t.out, freeCtr := t.freeCtr })
    (pieces p.addr.toNat p.rlen.toNat (s.mem.poisonIn (addrLocal p.addr.toNat) p.rlen.toNat)) (fun t x =>
      (t.respond g b p 2 (if x.2.2 then 1 else 0) (BitVec.ofNat 64 (p.addr.toNat + x.1)) (t.view (addrLocal p.addr.toNat + x.1) x.2.1)).fresh
        x.2.1) (b := s) rfl fun t ht x _ => by
      obtain ⟨hv, -⟩ := hstep t x _ rfl
      rw [hv, ht]
  refine ⟨hu ▸ hframe, fun x hx => ?_⟩
  rw [hu]
  refine foldl_reaches (R := fun t : State => t = { s with links := t.links, fab := t.fab, out := t.out, freeCtr := t.freeCtr })
    (P := fun t : State => ∃ bs, bs.length = x.2.1 ∧ (x.2.2 = false → bs = s.mem.read (addrLocal p.addr.toNat + x.1) x.2.1) ∧
      t.sentOrQueued g b (s.readPiece p x bs)) hx (fun t y ht => ?_) (fun t y ht => ?_) (fun t ht => ?_) s rfl
  · obtain ⟨hv, -⟩ := hstep t y _ rfl
    rw [hv, ht]
  · obtain ⟨bs, hlen, hread, hsent⟩ := ht
    exact ⟨bs, hlen, hread, (hstep t y _ rfl).2.2 _ hsent⟩
  · have hmem : t.mem = s.mem := by rw [ht]
    have hpiece (bs : List Byte) : t.readPiece p x bs = s.readPiece p x bs := by
      unfold State.readPiece State.linkBase
      rw [ht]
    refine ⟨t.view (addrLocal p.addr.toNat + x.1) x.2.1, t.view_length _ _, fun hc => ?_, ?_⟩
    · have hclean : t.mem.anyPoison (addrLocal p.addr.toNat + x.1) x.2.1 = false := by rw [hmem]; exact pieces_clean hx hc
      rw [State.view_of_clean hclean, hmem]
    · rw [← hpiece]
      exact (hstep t x _ rfl).2.1

/-! ## Read requests -/

section
variable {s : State} {p : LinkPacket} {ecc : List EccErr}

/-- The error response to a read that is turned away. -/
def State.readBack (s : State) (p : LinkPacket) (v : Verdict) : LinkPacket :=
  { s.linkBase 5 2 p.src p.pkey p.ctx with status := BitVec.ofNat 8 v.nackCode, tag := p.tag }

theorem State.rxAnswer_of_read {t w u : State} {v : Verdict} (hp : p.typ = 0) (hw : w = { t with pwr := w.pwr })
    (hu : u = w.rxAnswer g b p v.nackCode 0) : u.mem = t.mem ∧ u.cores = t.cores ∧ u.fields = t.fields ∧ u.sentOrQueued g b (t.readBack p v) := by
  obtain ⟨hsends, -, -, hsent, -⟩ := w.rxAnswer_spec g b p v.nackCode 0 hu
  have hcode : v.nackCode ≠ 0x16 := by cases v <;> decide
  have hback := hsent hcode hp
  have hbase : w.linkBase 5 2 p.src p.pkey p.ctx = t.linkBase 5 2 p.src p.pkey p.ctx := by rw [hw]; rfl
  rw [hbase] at hback
  exact ⟨by rw [hsends.1, hw], by rw [hsends.1, hw], by rw [hsends.1, hw], hback⟩

variable (h : s.admits g b p 0)
include h

/-- A read request that is admitted is answered with the bytes of memory. -/
theorem linkReadRequest_of_ok
    (hv : (s.modSub g b fun k => k.freeRx p).linkVerdict g b p p.rlen.toNat true = .ok) {w : State}
    (hw : w = ((s.modSub g b fun k => k.freeRx p).countReceived p 0).readErrors (addrLocal p.addr.toNat) p.rlen.toNat ecc) :
    answers (exec (.linkReadRequest g b (p, ecc)) s) fun u => u.mem = w.mem ∧ u.cores = w.cores ∧ u.fields = s.fields ∧
      (ecc = [] → u = { s with links := u.links, fab := u.fab, out := u.out, freeCtr := u.freeCtr }) ∧
      ∀ x ∈ pieces p.addr.toNat p.rlen.toNat (w.mem.poisonIn (addrLocal p.addr.toNat) p.rlen.toNat), ∃ bs, bs.length = x.2.1 ∧
        (x.2.2 = false → bs = w.mem.read (addrLocal p.addr.toNat + x.1) x.2.1) ∧ u.sentOrQueued g b (s.readPiece p x bs) := by
  refine answers_of_admits (rfl : exec (.linkReadRequest g b (p, ecc)) s = .next (s.received g b p 0 _)) h ?_
  dsimp only
  rw [hv]
  dsimp only
  rw [← hw]
  have hcounted : ((s.modSub g b fun k => k.freeRx p).countReceived p 0) = { s with
      links := ((s.modSub g b fun k => k.freeRx p).countReceived p 0).links, fab := ((s.modSub g b fun k => k.freeRx p).countReceived p 0).fab } := by
    rw [State.countReceived_frame]; rfl
  have hnone : ecc = [] → w = ((s.modSub g b fun k => k.freeRx p).countReceived p 0) := fun e => by rw [hw, e]; rfl
  have hecc := ((s.modSub g b fun k => k.freeRx p).countReceived p 0).readErrors_eccOnly (addrLocal p.addr.toNat) p.rlen.toNat ecc
  rw [← hw] at hecc
  generalize (s.modSub g b fun k => k.freeRx p).countReceived p 0 = t at *
  obtain ⟨hframe, hparts⟩ := State.linkReadParts_spec (g := g) (b := b) w p rfl
  have hfields : w.fields = s.fields := by rw [hecc, hcounted]
  have hpiece (x : Nat × Nat × Bool) (bs : List Byte) : w.readPiece p x bs = s.readPiece p x bs := by
    unfold State.readPiece State.linkBase
    rw [hecc, hcounted]
  generalize w.linkReadParts g b p = u at *
  refine ⟨by rw [hframe], by rw [hframe], by rw [hframe]; exact hfields, fun e => by rw [hframe, hnone e, hcounted], fun x hx => ?_⟩
  obtain ⟨bs, hlen, hread, hsent⟩ := hparts x hx
  exact ⟨bs, hlen, hread, by rwa [hpiece] at hsent⟩

/-- One turned away gets an error response. -/
theorem linkReadRequest_of_not_ok {v : Verdict}
    (hv : (s.modSub g b fun k => k.freeRx p).linkVerdict g b p p.rlen.toNat true = v) (hne : v ≠ .ok) :
    answers (exec (.linkReadRequest g b (p, ecc)) s) fun u => u.mem = s.mem ∧ u.cores = s.cores ∧ u.fields = s.fields ∧
      u.sentOrQueued g b (s.readBack p v) := by
  obtain ⟨-, -, h0⟩ := id h
  refine answers_of_admits (rfl : exec (.linkReadRequest g b (p, ecc)) s = .next (s.received g b p 0 _)) h ?_
  dsimp only
  rw [hv]
  have hback : (s.modSub g b fun k => k.freeRx p).readBack p v = s.readBack p v := rfl
  rw [← hback]
  have hmem : (s.modSub g b fun k => k.freeRx p).mem = s.mem := rfl
  have hcores : (s.modSub g b fun k => k.freeRx p).cores = s.cores := rfl
  have hfields : (s.modSub g b fun k => k.freeRx p).fields = s.fields := rfl
  rw [← hmem, ← hcores, ← hfields]
  generalize (s.modSub g b fun k => k.freeRx p) = t at *
  cases v with
  | ok => exact absurd rfl hne
  | absent => exact State.rxAnswer_of_read (w := t) (v := .absent) h0 rfl rfl
  | parked => exact State.rxAnswer_of_read (v := .parked) (w := t.countParked) h0 rfl rfl
  | refused =>
    obtain ⟨hm, hc, hf, hsent⟩ := State.rxAnswer_of_read (g := g) (b := b) (t := t) (w := t) (v := .refused) h0 rfl rfl
    have honly := (t.rxAnswer g b p (Verdict.nackCode .refused) 0).modEvent_logOnly 0 2 0x06
      (leBytes 8 p.addr.toNat ++ leBytes 2 p.ctx.toNat ++ leBytes 2 p.src.toNat)
    have hkeep := State.modEvent_sentOrQueued hsent 0 2 0x06 (leBytes 8 p.addr.toNat ++ leBytes 2 p.ctx.toNat ++ leBytes 2 p.src.toNat)
    exact ⟨((congrArg State.mem honly).trans rfl).trans hm, ((congrArg State.cores honly).trans rfl).trans hc,
      ((congrArg State.fields honly).trans rfl).trans hf, hkeep⟩

end

/-! ## Writes and reduce-adds -/

/-- A reduce-add asks nothing of the links. -/
theorem State.reduceAt_mem_links {s t : State} {a efmt : Nat} {anch epw poison : Bool} {bs : List Byte} (ht : t = { s with links := t.links }) :
    (t.reduceAt none a efmt anch epw bs poison).mem = (s.reduceAt none a efmt anch epw bs poison).mem := by
  have hmem (w : State) : (w.reduceAt none a efmt anch epw bs poison).mem = (w.writeAt none a ((w.redElems a efmt anch epw bs).flatMap
      RedElem.bytes) ((if poison then [(0, redSpan efmt anch epw bs.length)] else []) ++ w.mem.poisonIn (addrLocal a)
      (redSpan efmt anch epw bs.length) ++ ((w.redElems a efmt anch epw bs).zipIdx.filter fun e => e.1.foul).map fun e =>
        (e.2 * (redSizes efmt anch epw).2, (redSizes efmt anch epw).2))).mem := by
    unfold State.reduceAt
    dsimp only
    split
    · rfl
    · exact (congrArg State.mem (State.logEvent_only _ _ _ _ _ _ _)).trans rfl
  rw [hmem, hmem, ht]
  rfl

section
variable {s : State} {p : LinkPacket}

/-- With room in the order queue, or without ORD, the row takes the packet. -/
theorem State.ordFull_of_room (h : (s.sub g b).ordQ.length < 64 ∨ p.ord = false) : s.ordFull g b p = false := by
  unfold State.ordFull
  obtain h | h := h
  · rw [decide_eq_false (by omega), Bool.and_false]
  · rw [h, Bool.false_and]

theorem linkWrite_of_room (h : (s.sub g b).ordQ.length < 64 ∨ p.ord = false) :
    exec (.linkWrite g b p) s = .next (s.received g b p 1 fun t => t.orderly g b p) :=
  congrArg Host.Outcome.next (if_neg (Bool.eq_false_iff.1 (State.ordFull_of_room h)))

theorem linkReduceAdd_of_room (h : (s.sub g b).ordQ.length < 64 ∨ p.ord = false) :
    exec (.linkReduceAdd g b p) s = .next (s.received g b p 3 fun t => t.orderly g b p) :=
  congrArg Host.Outcome.next (if_neg (Bool.eq_false_iff.1 (State.ordFull_of_room h)))

/-- A packet without ORD takes effect at once. -/
theorem State.orderly_of_free (t : State) (h : p.ord = false) : t.orderly g b p = t.linkApply g b p := if_neg (Bool.eq_false_iff.1 h)

theorem linkWrite_of_now (h : s.admits g b p 1) (hord : p.ord = false) {P : State → Prop}
    (hP : P ((s.modSub g b fun k => k.freeRx p).linkWriteNow g b p)) : answers (exec (.linkWrite g b p) s) P := by
  obtain ⟨-, -, h1⟩ := id h
  refine answers_of_admits (linkWrite_of_room (.inr hord)) h ?_
  rw [State.orderly_of_free _ hord]
  exact (congrArg P (if_neg (by rw [h1]; decide))).mpr hP

theorem linkReduceAdd_of_now (h : s.admits g b p 3) (hord : p.ord = false) {P : State → Prop}
    (hP : P ((s.modSub g b fun k => k.freeRx p).linkReduceNow g b p)) : answers (exec (.linkReduceAdd g b p) s) P := by
  obtain ⟨-, -, h3⟩ := id h
  refine answers_of_admits (linkReduceAdd_of_room (.inr hord)) h ?_
  rw [State.orderly_of_free _ hord]
  exact (congrArg P (if_pos h3)).mpr hP

/-- A request turned away, seen from before its packet was taken. -/
def State.turned (s : State) (g : GroupIx) (b : SubIx) (u : State) (p q : LinkPacket) (v : Verdict) : Prop :=
  u.mem = s.mem ∧ (∀ d, d ≠ homeCore q.addr.toNat → u.core d = s.core d) ∧ (addrRange q.addr.toNat ≠ 0 → u.cores = s.cores) ∧
    u.fields = s.fields ∧ u.grd = s.grd ∧ u.glb = s.glb ∧ u.pit = s.pit ∧
    ∃ c, (s.modSub g b fun k => k.freeRx p).nacked u g b q v.nackCode c ∧ (v ≠ .parked → c = 0)

theorem State.turned_of_turnedAway {u : State} {q : LinkPacket} {v : Verdict} (htyp : q.typ = 1 ∨ q.typ = 3)
    (h : turnedAway g b (s.modSub g b fun k => k.freeRx p) u q v) : s.turned g b u p q v := by
  obtain ⟨hframe, hhome, hcores, -, hnack⟩ := h
  exact ⟨by rw [hframe]; rfl, hhome, hcores, by rw [hframe]; rfl, by rw [hframe]; rfl, by rw [hframe]; rfl, by rw [hframe]; rfl, hnack htyp⟩

section
variable (h : s.admits g b p 1) (hord : p.ord = false) {t : State} (ht : t = s.modSub g b fun k => k.freeRx p)
include h hord ht

theorem linkWrite_of_ok (hv : t.writeVerdict g b p = .ok) (hwf : s.mem.wf = true) : answers (exec (.linkWrite g b p) s) fun u =>
    u.fields = s.fields ∧ u.glb = s.glb ∧ u.pit = s.pit ∧ u.sentOrQueued g b { s.linkBase 4 2 p.src p.pkey p.ctx with tag := p.tag } ∧
    (t.keepsBlock p → u.mem = s.mem) ∧
    (¬ t.keepsBlock p →
      (∀ x, x < addrLocal (t.writePlace p) ∨ addrLocal (t.writePlace p) + p.body.length ≤ x → u.mem.byte x = s.mem.byte x) ∧
      (p.status ≠ 1 → ∀ i (h : i < p.body.length), u.mem.byte (addrLocal (t.writePlace p) + i) = p.body[i]) ∧
      (p.status = 1 → 0 < p.body.length → ∀ x, addrLocal (t.writePlace p) < 64 * x + 64 →
        64 * x < addrLocal (t.writePlace p) + p.body.length → u.mem.poisoned x = true)) ∧
    (addrRange p.addr.toNat ≠ 8 → (∀ d, d ≠ homeCore (t.writePlace p) → u.core d = s.core d) ∧ u.grd.colls = s.grd.colls) := by
  refine linkWrite_of_now h hord ?_
  rw [← ht]
  have htf : t = { s with links := t.links } := by rw [ht]; rfl
  obtain ⟨hsends, -, hsent⟩ := State.linkWriteNow_of_ok hv rfl
  obtain ⟨heff, hkept, hstored, hfree⟩ := t.writeEffect_spec p (t.writePlace p) rfl
  have hframe := hsends.1
  generalize t.linkWriteNow g b p = u at *
  generalize t.writeEffect p (t.writePlace p) = v at *
  have hmem : u.mem = v.mem := by rw [hframe]
  have hwft : t.mem.wf = true := by rw [htf]; exact hwf
  have htm : t.mem = s.mem := by rw [htf]
  have hbase : t.linkBase 4 2 p.src p.pkey p.ctx = s.linkBase 4 2 p.src p.pkey p.ctx := by rw [htf]; rfl
  rw [hbase] at hsent
  refine ⟨by rw [hframe, heff, htf], by rw [hframe, heff, htf], by rw [hframe, heff, htf], hsent, fun hk => by rw [hmem, hkept hk, htm],
    fun hk => ?_, fun h8 => ?_⟩
  · rw [hmem, hstored hk, ← htm]
    refine ⟨fun x hx => t.store_byte_outside _ x _ _ hwft hx, fun hst i hi => ?_, fun hst hn x hlo hhi => ?_⟩
    · rw [if_neg hst]
      exact t.store_byte_inside _ i _ hwft hi
    · rw [if_pos hst]
      exact State.store_poisoned hlo hhi hn
  · obtain ⟨hhome, hcolls⟩ := hfree h8
    refine ⟨fun d hd => ?_, by rw [hframe]; exact hcolls.trans (by rw [htf])⟩
    have h1 : u.core d = v.core d := by rw [hframe]; rfl
    rw [h1, hhome d hd, htf]
    rfl

theorem linkWrite_of_not_ok (hv : t.writeVerdict g b p ≠ .ok) : answers (exec (.linkWrite g b p) s) fun u =>
    s.turned g b u p (t.directed p) (t.writeVerdict g b p) := by
  obtain ⟨-, -, h1⟩ := id h
  refine linkWrite_of_now h hord (State.turned_of_turnedAway (.inl h1) ?_)
  rw [← ht]
  exact State.linkWriteNow_of_not_ok hv rfl

end

section
variable (h : s.admits g b p 3) (hord : p.ord = false) {t : State} (ht : t = s.modSub g b fun k => k.freeRx p)
include h hord ht

theorem linkReduceAdd_of_ok (hv : t.reduceVerdict g b p = .ok) (hwf : s.mem.wf = true) : answers (exec (.linkReduceAdd g b p) s) fun u =>
    (∀ d, d ≠ homeCore p.addr.toNat → u.core d = s.core d) ∧ u.fields = s.fields ∧
    (∀ x, x < addrLocal p.addr.toNat ∨ addrLocal p.addr.toNat + redSpan p.efmt.toNat p.anchored p.epw p.body.length ≤ x →
      u.mem.byte x = s.mem.byte x) ∧
    u.mem = (s.reduceAt none p.addr.toNat p.efmt.toNat p.anchored p.epw p.body (p.status == 1)).mem ∧
    u.sentOrQueued g b { s.linkBase 4 2 p.src p.pkey p.ctx with tag := p.tag } := by
  refine linkReduceAdd_of_now h hord ?_
  rw [← ht]
  have htf : t = { s with links := t.links } := by rw [ht]; rfl
  obtain ⟨hsends, -, hsent⟩ := State.linkReduceNow_of_ok hv rfl
  obtain ⟨heff, -, hhome⟩ := t.reduceAt_spec p.addr.toNat p.efmt.toNat p.anchored p.epw p.body (p.status == 1) rfl
  have hwft : t.mem.wf = true := by rw [htf]; exact hwf
  have hout := State.linkReduceNow_outside (g := g) (b := b) (p := p) hwft rfl
  have hsame : (t.reduceAt none p.addr.toNat p.efmt.toNat p.anchored p.epw p.body (p.status == 1)).mem =
      (s.reduceAt none p.addr.toNat p.efmt.toNat p.anchored p.epw p.body (p.status == 1)).mem := State.reduceAt_mem_links htf
  have hframe := hsends.1
  rw [← hsame]
  generalize t.linkReduceNow g b p = u at *
  generalize t.reduceAt none p.addr.toNat p.efmt.toNat p.anchored p.epw p.body (p.status == 1) = v at *
  have htm : t.mem = s.mem := by rw [htf]
  have hbase : t.linkBase 4 2 p.src p.pkey p.ctx = s.linkBase 4 2 p.src p.pkey p.ctx := by rw [htf]; rfl
  rw [hbase] at hsent
  refine ⟨fun d hd => ?_, by rw [hframe, heff, htf], fun x hx => (hout x hx).trans (by rw [htm]), by rw [hframe], hsent⟩
  have h1 : u.core d = v.core d := by rw [hframe]; rfl
  rw [h1, hhome d hd, htf]
  rfl

theorem linkReduceAdd_of_not_ok (hv : t.reduceVerdict g b p ≠ .ok) : answers (exec (.linkReduceAdd g b p) s) fun u =>
    s.turned g b u p p (t.reduceVerdict g b p) := by
  obtain ⟨-, -, h3⟩ := id h
  refine linkReduceAdd_of_now h hord (State.turned_of_turnedAway (.inr h3) ?_)
  rw [← ht]
  exact State.linkReduceNow_of_not_ok hv rfl

end

/-! ## The order queue (R397) -/

/-- A packet with ORD joins the order queue. -/
theorem State.orderly_of_ord (hord : p.ord = true) {u : State} (hu : u = (s.modSub g b fun k => k.freeRx p).orderly g b p) :
    onlyGroup g s u ∧ (u.sub g b).ordQ = (s.sub g b).ordQ ++ [(p, s.now)] := by
  have hu' := hu.trans (if_pos hord)
  have hfree : ((s.sub g b).freeRx p).ordQ = (s.sub g b).ordQ := by
    unfold Sublink.freeRx
    dsimp only
    split <;> rfl
  rw [hu']
  refine ⟨⟨rfl, fun c hc => (State.modSub_group_other _ _ _ _ _ hc).trans (State.modSub_group_other _ _ _ _ _ hc)⟩, ?_⟩
  rw [State.modSub_sub, State.modSub_sub]
  exact congrArg (· ++ _) hfree

theorem linkWrite_of_ord (hord : p.ord = true) (hroom : (s.sub g b).ordQ.length < 64) (h : s.admits g b p 1) :
    answers (exec (.linkWrite g b p) s) fun u => onlyGroup g s u ∧ (u.sub g b).ordQ = (s.sub g b).ordQ ++ [(p, s.now)] :=
  answers_of_admits (linkWrite_of_room (.inl hroom)) h (State.orderly_of_ord hord rfl)

theorem linkReduceAdd_of_ord (hord : p.ord = true) (hroom : (s.sub g b).ordQ.length < 64) (h : s.admits g b p 3) :
    answers (exec (.linkReduceAdd g b p) s) fun u => onlyGroup g s u ∧ (u.sub g b).ordQ = (s.sub g b).ordQ ++ [(p, s.now)] :=
  answers_of_admits (linkReduceAdd_of_room (.inl hroom)) h (State.orderly_of_ord hord rfl)

/-- A full order queue leaves it in the receive buffer. -/
theorem linkWrite_of_full (hord : p.ord = true) (hfull : 64 ≤ (s.sub g b).ordQ.length) :
    exec (.linkWrite g b p) s = .next s ∧ exec (.linkReduceAdd g b p) s = .next s := by
  have h : s.ordFull g b p = true := by
    unfold State.ordFull
    rw [hord, decide_eq_true hfull]
    rfl
  exact ⟨congrArg Host.Outcome.next (if_pos h), congrArg Host.Outcome.next (if_pos h)⟩

end

end

/-- Settles O47: from what an admitted request does (`readParts`, `writeEffect`, `reduceAt`), and how it is turned away. -/
theorem requestsFromOtherModules : Obligations.RequestsFromOtherModules := by
  intro s g b p ecc
  refine ⟨turnsDown_of_received rfl, fun h => ⟨fun hv => linkReadRequest_of_ok h hv rfl, fun hv => linkReadRequest_of_not_ok h rfl hv⟩,
    fun h => ⟨turnsDown_of_received (linkWrite_of_room h), turnsDown_of_received (linkReduceAdd_of_room h)⟩,
    fun h hord => ⟨linkWrite_of_ok h hord rfl, linkWrite_of_not_ok h hord rfl⟩,
    fun h hord => ⟨linkReduceAdd_of_ok h hord rfl, linkReduceAdd_of_not_ok h hord rfl⟩,
    fun hord => ⟨linkWrite_of_ord hord, linkReduceAdd_of_ord hord, linkWrite_of_full hord⟩⟩

end Sys2Proof.Machine
end

section
/-! PROOFS. Rope windows, order queues and chunk headers (R279, R293, R379, R380, R397). -/

namespace Sys2Proof.Machine

/-! ## Rope windows (R379, R380) -/

section
variable {g : GroupIx} {b : SubIx}

/-- What leaves was queued. -/
theorem State.pump_tx (s : State) (g : GroupIx) (b : SubIx) (n : Nat) {y : TxPkt} (h : y ∈ ((s.pump g b n).sub g b).tx) :
    y ∈ (s.sub g b).tx := by
  induction n generalizing s with
  | zero => exact h
  | succ n ih =>
    unfold State.pump at h
    split at h
    · exact h
    · split at h
      · exact h
      next x _ =>
        have hx := ih _ h
        rw [State.sendOne_tx] at hx
        exact List.mem_of_mem_erase hx

/-- Windows and what they deferred stand while packets leave. -/
theorem pumps.windows {s t : State} (h : pumps g b s t) : t.fab.open_ = s.fab.open_ ∧ t.fab.ropeDefer = s.fab.ropeDefer := by
  obtain ⟨hfab, -⟩ := h.fab
  exact ⟨by rw [hfab], by rw [hfab]⟩

/-- The packets of a rope still queued count as deferred, each once. -/
theorem State.deferRope_spec (s : State) (g : GroupIx) (b : SubIx) (rope : BitVec 12) {u : State} (hu : u = s.deferRope g b rope) :
    sendsOnly g s u ∧ u.fab.open_ = s.fab.open_ ∧
      u.fab.ropeDefer = bump s.fab.ropeDefer ((s.sub g b).tx.filter fun y => y.pkt.rope == rope && !y.deferred).length ∧
      ∀ y ∈ (u.sub g b).tx, y.pkt.rope = rope → y.deferred = true := by
  unfold State.deferRope at hu
  dsimp only at hu
  have hsub := s.modSub_sub g b fun k => { k with tx := k.tx.map fun p => if p.pkt.rope == rope then { p with deferred := true } else p }
  have hsends := s.modSub_sendsOnly g b fun k => { k with tx := k.tx.map fun p => if p.pkt.rope == rope then { p with deferred := true } else p }
  have hfab : (s.modSub g b fun k => { k with tx := k.tx.map fun p => if p.pkt.rope == rope then { p with deferred := true } else p }).fab =
    s.fab := rfl
  have hmarked : ∀ y ∈ (s.sub g b).tx.map (fun p => if p.pkt.rope == rope then { p with deferred := true } else p),
      y.pkt.rope = rope → y.deferred = true := fun y hy hr => by
    obtain ⟨z, -, rfl⟩ := List.mem_map.1 hy
    by_cases hz : (z.pkt.rope == rope) = true
    · rw [if_pos hz]
    · rw [if_neg hz] at hr ⊢
      exact absurd (beq_iff_eq.2 hr) hz
  generalize (s.modSub g b fun k => { k with tx := k.tx.map fun p => if p.pkt.rope == rope then { p with deferred := true } else p }) = t at *
  have hcounted := hsends.trans (t.withFab_sendsOnly g { t.fab with
    ropeDefer := bump t.fab.ropeDefer ((s.sub g b).tx.filter fun y => y.pkt.rope == rope && !y.deferred).length })
  split at hu
  · have hp := State.countMap_pumps { t with fab := { t.fab with
      ropeDefer := bump t.fab.ropeDefer ((s.sub g b).tx.filter fun y => y.pkt.rope == rope && !y.deferred).length } } g b fun k =>
        { k with defer := upd k.defer (planeIx g b) fun x => x + ((s.sub g b).tx.filter fun y => y.pkt.rope == rope && !y.deferred).length }
    rw [← hu] at hp
    obtain ⟨hopen, hdefer⟩ := hp.windows
    have htx : (u.sub g b).tx = (t.sub g b).tx := by
      rw [hu, State.countMap_frame]; rfl
    refine ⟨hcounted.trans hp.sends, by rw [hopen, hfab], by rw [hdefer, hfab], ?_⟩
    rw [htx, hsub]
    exact hmarked
  · subst hu
    refine ⟨hcounted, by rw [hfab], by rw [hfab], ?_⟩
    show ∀ y ∈ (t.sub g b).tx, _
    rw [hsub]
    exact hmarked

end

section
variable {s : State} {rope : BitVec 12} {i : Nat}

theorem ropeWindow_of_none (h : s.image.ropes[i]? = none) : exec (.ropeWindowOpen rope i) s = .next s ∧ exec (.ropeWindowClose rope i) s = .next s := by
  constructor <;> refine congrArg Host.Outcome.next ?_ <;> rw [h]

variable {e : RopeEntry} (he : s.image.ropes[i]? = some e)
include he

theorem ropeWindowOpen_of_opens (h : e.rope = rope ∧ s.ropeRegime = true ∧ s.windowNow e = true ∧ s.fab.open_.contains (rope, i) = false) :
    answers (exec (.ropeWindowOpen rope i) s) fun u => sendsOnly (s.ropeSub e).1 s u ∧ u.fab.open_ = s.fab.open_ ++ [(rope, i)] := by
  have hp := State.pumpAll_pumps { s with fab := { s.fab with open_ := s.fab.open_ ++ [(rope, i)] } } (s.ropeSub e).1 (s.ropeSub e).2
  refine ⟨_, congrArg Host.Outcome.next ?_, (s.withFab_sendsOnly _ _).trans hp.sends, hp.windows.1⟩
  rw [he]
  obtain ⟨h1, h2, h3, h4⟩ := h
  exact if_pos (by rw [h2, h3, h4, beq_iff_eq.2 h1]; rfl)

theorem ropeWindowOpen_of_stays (h : ¬ (e.rope = rope ∧ s.ropeRegime = true ∧ s.windowNow e = true ∧ s.fab.open_.contains (rope, i) = false)) :
    exec (.ropeWindowOpen rope i) s = .next s := by
  refine congrArg Host.Outcome.next ?_
  rw [he]
  exact if_neg fun hc => h (by simpa only [Bool.and_eq_true, Bool.not_eq_true', beq_iff_eq, and_assoc] using hc)

theorem ropeWindowClose_of_open (h : s.fab.open_.contains (rope, i) = true) :
    answers (exec (.ropeWindowClose rope i) s) fun u => sendsOnly (s.ropeSub e).1 s u ∧
      u.fab.open_ = s.fab.open_.filter (fun y => y != (rope, i)) ∧
      u.fab.ropeDefer = bump s.fab.ropeDefer ((s.sub (s.ropeSub e).1 (s.ropeSub e).2).tx.filter fun y => y.pkt.rope == rope && !y.deferred).length ∧
      ∀ y ∈ (u.sub (s.ropeSub e).1 (s.ropeSub e).2).tx, y.pkt.rope = rope → y.deferred = true := by
  obtain ⟨hsends, hopen, hdefer, hmarked⟩ := State.deferRope_spec { s with fab := { s.fab with open_ := s.fab.open_.filter fun y => y != (rope, i) } }
    (s.ropeSub e).1 (s.ropeSub e).2 rope rfl
  have hexec : exec (.ropeWindowClose rope i) s = .next (State.pumpAll (State.deferRope { s with fab := { s.fab with
      open_ := s.fab.open_.filter fun y => y != (rope, i) } } (s.ropeSub e).1 (s.ropeSub e).2 rope) (s.ropeSub e).1 (s.ropeSub e).2) := by
    refine congrArg Host.Outcome.next ?_
    rw [he]
    exact if_pos h
  generalize State.deferRope { s with fab := { s.fab with open_ := s.fab.open_.filter fun y => y != (rope, i) } }
    (s.ropeSub e).1 (s.ropeSub e).2 rope = t at *
  have hp := t.pumpAll_pumps (s.ropeSub e).1 (s.ropeSub e).2
  obtain ⟨hopen', hdefer'⟩ := hp.windows
  exact ⟨_, hexec, ((s.withFab_sendsOnly _ _).trans hsends).trans hp.sends, hopen'.trans hopen, hdefer'.trans hdefer,
    fun y hy => hmarked y (State.pump_tx t _ _ _ hy)⟩

theorem ropeWindowClose_of_closed (h : s.fab.open_.contains (rope, i) = false) : exec (.ropeWindowClose rope i) s = .next s := by
  refine congrArg Host.Outcome.next ?_
  rw [he]
  exact if_neg (Bool.eq_false_iff.1 h)

end

/-! ## Order queues (R397) -/

section
variable {s : State} {g : GroupIx} {b : SubIx} {p : LinkPacket} {since : Nat} {rest : List (LinkPacket × Nat)}

/-- The head of an order queue taken out, its wait counted and its context one ordered position further. -/
def State.ordTaken (s : State) (g : GroupIx) (b : SubIx) (p : LinkPacket) (since : Nat) (rest : List (LinkPacket × Nat)) : State :=
  ({ s with fab := { s.fab with ordHold := bump s.fab.ordHold ((s.now - since) * 17 / 10) } }.modSub g b fun k =>
    { k with ordQ := rest }).modCtx p.ctx fun k => { k with lastOrd := k.lastOrd + 1 }

theorem State.ordTaken_spec {v : State} (hv : v = s.ordTaken g b p since rest) :
    v = { s with links := v.links, fab := v.fab } ∧ (∀ h, h ≠ g → v.group h = s.group h) ∧ v.sub g b = { s.sub g b with ordQ := rest } ∧
      v.fab.ordHold = bump s.fab.ordHold ((s.now - since) * 17 / 10) ∧
      (∀ k, s.ctx? p.ctx = some k → v.ctx? p.ctx = some { k with lastOrd := k.lastOrd + 1 }) := by
  subst hv
  refine ⟨rfl, fun h hne => State.modSub_group_other _ _ _ _ _ hne, State.modSub_sub _ _ _ _, rfl, fun k hk => ?_⟩
  have hmod := State.modCtx_ctx (State.modSub { s with fab := { s.fab with ordHold := bump s.fab.ordHold ((s.now - since) * 17 / 10) } } g b
    fun k => { k with ordQ := rest }) (h := fun k : Ctx => { k with lastOrd := k.lastOrd + 1 }) (fun _ => rfl) p.ctx p.ctx
  refine hmod.trans ?_
  have hk' : (State.modSub { s with fab := { s.fab with ordHold := bump s.fab.ordHold ((s.now - since) * 17 / 10) } } g b
    fun k => { k with ordQ := rest }).ctx? p.ctx = some k := hk
  rw [hk']
  exact congrArg some (if_pos (beq_iff_eq.2 (State.ctx_ctx hk)))

theorem ordPacketRelease_of_empty (h : (s.sub g b).ordQ = []) : exec (.ordPacketRelease g b) s = .next s := by
  refine congrArg Host.Outcome.next ?_
  rw [h]

/-- The head of an order queue takes effect as a write or a reduce-add. -/
theorem ordPacketRelease_of_head (h : (s.sub g b).ordQ = (p, since) :: rest) : answers (exec (.ordPacketRelease g b) s) fun u => ∃ v : State,
    v = { s with links := v.links, fab := v.fab } ∧ (∀ h, h ≠ g → v.group h = s.group h) ∧ v.sub g b = { s.sub g b with ordQ := rest } ∧
    v.fab.ordHold = bump s.fab.ordHold ((s.now - since) * 17 / 10) ∧
    (∀ k, s.ctx? p.ctx = some k → v.ctx? p.ctx = some { k with lastOrd := k.lastOrd + 1 }) ∧ (u.sub g b).ordQ = rest ∧
    (p.typ = 3 → u = v.linkReduceNow g b p) ∧ (p.typ ≠ 3 → u = v.linkWriteNow g b p) ∧
    (s.mem.wf = true →
      (p.typ = 3 → ∀ y, y < addrLocal p.addr.toNat ∨ addrLocal p.addr.toNat + redSpan p.efmt.toNat p.anchored p.epw p.body.length ≤ y →
        u.mem.byte y = s.mem.byte y) ∧
      (p.typ ≠ 3 → ∀ y, y < addrLocal (v.writePlace p) ∨ addrLocal (v.writePlace p) + p.body.length ≤ y → u.mem.byte y = s.mem.byte y)) := by
  have hexec : exec (.ordPacketRelease g b) s = .next ((s.ordTaken g b p since rest).linkApply g b p) := by
    refine congrArg Host.Outcome.next ?_
    rw [h]
    rfl
  refine ⟨_, hexec, s.ordTaken g b p since rest, ?_⟩
  obtain ⟨hframe, hother, hsub, hhold, hctx⟩ := State.ordTaken_spec (rfl : s.ordTaken g b p since rest = _)
  generalize s.ordTaken g b p since rest = v at *
  have hmem : v.mem = s.mem := by rw [hframe]
  have hord : (v.sub g b).ordQ = rest := by rw [hsub]
  refine ⟨hframe, hother, hsub, hhold, hctx, ?_, fun h3 => if_pos h3, fun h3 => if_neg h3, fun hwf => ⟨fun h3 y hy => ?_, fun h3 y hy => ?_⟩⟩
  · by_cases h3 : p.typ = 3
    · exact (State.linkReduceNow_ordQ (u := v.linkApply g b p) (if_pos h3)).trans hord
    · exact (State.linkWriteNow_ordQ (u := v.linkApply g b p) (if_neg h3)).trans hord
  · exact (State.linkReduceNow_outside (u := v.linkApply g b p) (by rwa [hmem]) (if_pos h3) y hy).trans (by rw [hmem])
  · exact (State.linkWriteNow_outside (u := v.linkApply g b p) (by rwa [hmem]) (if_neg h3) y hy).trans (by rw [hmem])

end

/-! ## Chunk headers (R293) -/

/-- Chunks of a context cut short: what they change, and how many are counted. -/
theorem State.cutShort_spec (s : State) (ctx : BitVec 16) {u : State} (hu : u = s.cutShort ctx) :
    u = { s with mem := u.mem, cores := u.cores, grd := u.grd, flt := u.flt, out := u.out } ∧
      (s.chunkNow ctx = none → u = s) ∧
      u.grd.chunkCrc = bump s.grd.chunkCrc (s.grd.chunks.filter fun x => x.ctx == ctx && x.partly).length := by
  have hbad (t : State) (x : Chunk) : t.chunkBad x = { t with
      mem := (t.chunkBad x).mem, cores := (t.chunkBad x).cores, grd := (t.chunkBad x).grd, flt := (t.chunkBad x).flt, out := (t.chunkBad x).out } ∧
      (t.chunkBad x).grd.chunkCrc = bump t.grd.chunkCrc := by
    obtain ⟨v, hv, hcrc, he⟩ : ∃ v : State, v = { t with mem := v.mem, cores := v.cores, grd := v.grd } ∧ v.grd.chunkCrc = bump t.grd.chunkCrc ∧
        t.chunkBad x = v.modEvent 1 4 1 (leBytes 2 x.group.toNat ++ leBytes 4 x.index) := by
      unfold State.chunkBad
      cases x.addr with
      | none => exact ⟨_, rfl, rfl, rfl⟩
      | some a =>
        have hspoil : t.spoilAt none (granules a x.got) = { t with
            mem := (t.spoilAt none (granules a x.got)).mem, cores := (t.spoilAt none (granules a x.got)).cores } := by
          unfold State.spoilAt
          split <;> rfl
        dsimp only
        generalize t.spoilAt none (granules a x.got) = w at *
        exact ⟨_, by rw [hspoil], by rw [hspoil], rfl⟩
    have honly := v.modEvent_logOnly 1 4 1 (leBytes 2 x.group.toNat ++ leBytes 4 x.index)
    rw [← he] at honly
    generalize t.chunkBad x = w at *
    exact ⟨by rw [honly, hv], by rw [honly]; exact hcrc⟩
  have hfold (l : List Chunk) (t : State) : l.foldl (fun s x => s.chunkBad x) t = { t with
      mem := (l.foldl (fun s x => s.chunkBad x) t).mem, cores := (l.foldl (fun s x => s.chunkBad x) t).cores
      grd := (l.foldl (fun s x => s.chunkBad x) t).grd, flt := (l.foldl (fun s x => s.chunkBad x) t).flt
      out := (l.foldl (fun s x => s.chunkBad x) t).out } ∧
      (l.foldl (fun s x => s.chunkBad x) t).grd.chunkCrc = bump t.grd.chunkCrc l.length := by
    induction l generalizing t with
    | nil => exact ⟨rfl, (BitVec.add_zero _).symm⟩
    | cons x l ih =>
      obtain ⟨hframe, hcrc⟩ := hbad t x
      obtain ⟨hframe', hcrc'⟩ := ih (t.chunkBad x)
      rw [List.foldl_cons]
      generalize t.chunkBad x = v at *
      generalize l.foldl (fun s x => s.chunkBad x) v = w at *
      exact ⟨by rw [hframe', hframe], by rw [hcrc', hcrc, bump_bump]; rfl⟩
  obtain ⟨hframe, hcrc⟩ := hfold (s.grd.chunks.filter fun x => x.ctx == ctx && x.partly) s
  refine ⟨hu ▸ hframe, fun hnone => ?_, hu ▸ hcrc⟩
  have hnil : (s.grd.chunks.filter fun x => x.ctx == ctx && x.partly) = [] :=
    List.filter_eq_nil_iff.2 fun x hx => List.find?_eq_none.1 hnone x hx
  rw [hu]
  unfold State.cutShort
  rw [hnil]
  rfl

/-- Numbering the descriptors of a chain changes cores and collectives alone. -/
theorem State.sizeRuns_spec (s : State) {u : State} (hu : u = s.sizeRuns) :
    u = { s with cores := u.cores, grd := u.grd } ∧ u.grd.chunkCrc = s.grd.chunkCrc ∧ u.grd.chunks = s.grd.chunks := by
  have hrun (t : State) (r : CollRun) (e : GroupEntry) (x : Gang) : t.sizeRun r e x = { t with
      cores := (t.sizeRun r e x).cores, grd := (t.sizeRun r e x).grd } ∧ (t.sizeRun r e x).grd.chunkCrc = t.grd.chunkCrc ∧
      (t.sizeRun r e x).grd.chunks = t.grd.chunks := by
    unfold State.sizeRun
    dsimp only
    split <;> exact ⟨rfl, rfl, rfl⟩
  subst hu
  refine List.foldlRecOn (motive := fun u : State => u = { s with cores := u.cores, grd := u.grd } ∧ u.grd.chunkCrc = s.grd.chunkCrc ∧
    u.grd.chunks = s.grd.chunks) s.grd.colls _ ⟨rfl, rfl, rfl⟩ fun t ht r _ => ?_
  split
  next e x _ _ =>
    obtain ⟨hframe, hcrc, hchunks⟩ := hrun t r e x
    obtain ⟨hframe', hcrc', hchunks'⟩ := ht
    generalize t.sizeRun r e x = v at *
    exact ⟨by rw [hframe, hframe'], hcrc.trans hcrc', hchunks.trans hchunks'⟩
  next => exact ht

/-- A chunk announced stands last. -/
theorem State.announce_spec (s : State) (p : LinkPacket) {u : State} (hu : u = s.announce p) :
    u = { s with grd := u.grd } ∧ u.grd.chunkCrc = s.grd.chunkCrc ∧
      ∃ c, u.grd.chunks.getLast? = some c ∧ c.ctx = p.ctx ∧ c.group = BitVec.ofNat 12 (fieldAt p.uhdr 0 2) ∧ c.index = fieldAt p.uhdr 4 4 ∧
        c.len = fieldAt p.uhdr 8 4 ∧ c.got = 0 ∧ c.header = p.uhdr ∧ c.added = false ∧ c.sent = false ∧
        c.poison = bit (fieldAt p.uhdr 13 1) 0 := by
  unfold State.announce at hu
  cases hr : s.headerRun p with
  | none =>
    simp only [hr] at hu
    exact ⟨by rw [hu], by rw [hu], _, by rw [hu]; exact List.getLast?_concat .., rfl, rfl, rfl, rfl, rfl, rfl, rfl, rfl, rfl⟩
  | some x =>
    simp only [hr] at hu
    exact ⟨by rw [hu]; rfl, by rw [hu]; rfl, _, by rw [hu]; exact List.getLast?_concat .., rfl, rfl, rfl, rfl, rfl, rfl, rfl, rfl, rfl⟩

section
variable {s : State} {g : GroupIx} {b : SubIx} {p : LinkPacket} (h : s.admits g b p 0x12)
include h

theorem chainChunkHeader_of_expected (he : (s.modSub g b fun k => k.freeRx p).chunkExpected g p = true) :
    answers (exec (.chainChunkHeader g b p) s) fun u =>
      u = { s with mem := u.mem, cores := u.cores, links := u.links, grd := u.grd, flt := u.flt, out := u.out, freeCtr := u.freeCtr } ∧
      (s.chunkNow p.ctx = none → u.mem = s.mem ∧ u.flt = s.flt) ∧
      u.grd.chunkCrc = bump s.grd.chunkCrc (s.grd.chunks.filter fun x => x.ctx == p.ctx && x.partly).length ∧
      ∃ c, u.grd.chunks.getLast? = some c ∧ c.ctx = p.ctx ∧ c.group = BitVec.ofNat 12 (fieldAt p.uhdr 0 2) ∧ c.index = fieldAt p.uhdr 4 4 ∧
        c.len = fieldAt p.uhdr 8 4 ∧ c.got = 0 ∧ c.header = p.uhdr ∧ c.added = false ∧ c.sent = false ∧
        c.poison = bit (fieldAt p.uhdr 13 1) 0 := by
  refine answers_of_admits (rfl : exec (.chainChunkHeader g b p) s = .next (s.received g b p 0x12 _)) h ?_
  rw [he, if_neg (by decide)]
  have hlinks := s.freed_frame g b p
  generalize (s.modSub g b fun k => k.freeRx p) = t at *
  obtain ⟨hcut, hnone, hcrc⟩ := t.cutShort_spec p.ctx rfl
  generalize t.cutShort p.ctx = v at *
  obtain ⟨hsize, hcrc', hchunks⟩ := v.sizeRuns_spec rfl
  generalize v.sizeRuns = w at *
  obtain ⟨hann, hcrc'', hlast⟩ := w.announce_spec p rfl
  generalize w.announce p = u at *
  have hgrd : t.grd = s.grd := by rw [hlinks]
  refine ⟨by rw [hann, hsize, hcut, hlinks], fun hn => ?_, by rw [hcrc'', hcrc', hcrc, hgrd], hlast⟩
  have hv := hnone (by unfold State.chunkNow at hn ⊢; rw [hgrd]; exact hn)
  exact ⟨by rw [hann, hsize, hv, hlinks], by rw [hann, hsize, hv, hlinks]⟩

theorem chainChunkHeader_of_stray (he : (s.modSub g b fun k => k.freeRx p).chunkExpected g p = false) :
    answers (exec (.chainChunkHeader g b p) s) fun u => s.refusedBy u g b p 0x14 := by
  refine answers_of_admits (rfl : exec (.chainChunkHeader g b p) s = .next (s.received g b p 0x12 _)) h ?_
  rw [he]
  exact State.refusedBy_of_freed (State.rxRefuse_spec _ g b p 0x14 rfl)

end

/-- Settles O50: windows by what leaves and what is deferred, order queues by their head, chunk headers by what they announce. -/
theorem ropesOrderAndChunks : Obligations.RopesOrderAndChunks := by
  refine ⟨fun s rope i => ⟨ropeWindow_of_none, fun e he => ⟨ropeWindowOpen_of_opens he, ropeWindowOpen_of_stays he, ropeWindowClose_of_open he,
    ropeWindowClose_of_closed he⟩⟩, fun s g b => ⟨ordPacketRelease_of_empty, fun p since rest => ordPacketRelease_of_head⟩,
    fun s g b p => ⟨turnsDown_of_received rfl, fun h => ⟨chainChunkHeader_of_expected h, chainChunkHeader_of_stray h⟩⟩⟩

end Sys2Proof.Machine
end

section
/-! PROOFS. Archive requests and their records (R246, R255, R258 to R262, R264, R265, R270, R271, R274). -/

namespace Sys2Proof.Machine

/-! ## What a folio that lands may change -/

/-- Bytes that land change memory, cores, multicast on its way, the log, and of the intake unit what is parked and what resident. -/
def landsOnly (s t : State) : Prop :=
  t = { s with
    mem := t.mem, cores := t.cores, mcast := t.mcast, pwr := t.pwr, flt := t.flt, out := t.out, freeCtr := t.freeCtr
    intk := { s.intk with parked := t.intk.parked, resident := t.intk.resident } }

theorem landsOnly.refl (s : State) : landsOnly s s := rfl

theorem landsOnly.trans {s t v : State} (h : landsOnly s t) (h' : landsOnly t v) : landsOnly s v := by
  unfold landsOnly at *
  rw [h', h]

theorem landsOnly.ite {s t v : State} (c : Prop) [Decidable c] (ht : landsOnly s t) (hv : landsOnly s v) : landsOnly s (if c then t else v) := by
  split
  · exact ht
  · exact hv

/-- Steps that each may change so much. -/
theorem landsOnly.foldl {α : Type} {F : State → α → State} (h : ∀ t x, landsOnly t (F t x)) (l : List α) (s : State) : landsOnly s (l.foldl F s) :=
  List.foldlRecOn (motive := fun t : State => landsOnly s t) l F (landsOnly.refl s) fun t ht x _ => ht.trans (h t x)

section
variable (s : State)

theorem State.modEvent_landsOnly (cls unit loc : Nat) (l : List Byte) : landsOnly s (s.modEvent cls unit loc l) := by
  rw [s.modEvent_logOnly cls unit loc l]; rfl

theorem State.coreEvents_landsOnly (c : CoreIx) (loc n : Nat) : landsOnly s (s.coreEvents c loc n) := by
  induction n generalizing s with
  | zero => rfl
  | succ n ih =>
    have hone : landsOnly s (s.coreEvent c 1 1 loc) := by
      unfold State.coreEvent
      rw [State.logEvent_only]
      rfl
    exact hone.trans (ih _)

theorem State.digestRun_landsOnly (c : CoreIx) (t : TaskIx) (acc : Fin 16) (pos code : Nat) (bs : List Byte) (bad : List (Nat × Nat)) :
    landsOnly s (s.digestRun c t acc pos code bs bad) := landsOnly.foldl (fun _ _ => by exact rfl) _ s

theorem State.digestFolio_landsOnly (c : CoreIx) (t : TaskIx) (d : StreamD) (pat f : Nat) (fb : Array Byte) (foul : Bool) :
    landsOnly s (s.digestFolio c t d pat f fb foul) :=
  landsOnly.foldl (fun v i => by
    split <;> rfl) _ s

theorem State.digestStream_landsOnly (c : CoreIx) (t : TaskIx) (d : StreamD) (seg : Seg) (anch : Bool) (data : List Byte) (bad : List (Nat × Nat))
    (r : TransOut) : landsOnly s (s.digestStream c t d seg anch data bad r) := by
  unfold State.digestStream
  dsimp only
  exact landsOnly.ite _ (landsOnly.foldl (fun v _ => v.digestRun_landsOnly ..) _ s) (landsOnly.ite _ (s.digestRun_landsOnly ..)
    (landsOnly.ite _ (landsOnly.foldl (fun v _ => v.digestFolio_landsOnly ..) _ s) (landsOnly.foldl (fun v _ => v.digestFolio_landsOnly ..) _ s)))

theorem State.countTrans_landsOnly (c : CoreIx) (r : TransOut) : landsOnly s (s.countTrans c r) :=
  landsOnly.trans (t := s.modCnt c _) (by exact rfl) (State.coreEvents_landsOnly _ c 0x23 r.mism)

theorem State.mcastOut_landsOnly (src : FieldIx) (c : CoreIx) (g : SlotIx) (t : TaskIx) (cmd : Nat) (vc : Fin 4) (ctx : BitVec 16)
    (r cmask off : Nat) (bs : List Byte) (bad : List (Nat × Nat)) (last ord : Bool) (mark : Nat) :
    landsOnly s (s.mcastOut src c g t cmd vc ctx r cmask off bs bad last ord mark) :=
  landsOnly.trans (t := s.addAcks c t cmd _) (by exact rfl) (landsOnly.foldl (fun _ _ => by exact rfl) _ _)

theorem State.mcastPart_landsOnly (r : Fetcher) (d : Desc) (fd : StreamD) (seg f inSlot : Nat) (bs : List Byte) (bad : List (Nat × Nat))
    (last : Bool) : landsOnly s (s.mcastPart r d fd seg f inSlot bs bad last) :=
  landsOnly.ite _ (s.mcastOut_landsOnly ..) (landsOnly.foldl (fun v _ => v.mcastOut_landsOnly ..) _ s)

theorem State.retireOver_landsOnly (a n : Nat) : landsOnly s (s.retireOver a n) := by
  unfold State.retireOver
  split <;> rfl

theorem State.landWrite_landsOnly (acc : Option CoreIx) (a m : Nat) (ctx : BitVec 16) (bs : List Byte) (poison last : Bool) :
    landsOnly s (s.landWrite acc a m ctx bs poison last) := by
  rw [State.landWrite_only]
  rfl

theorem State.writePart_landsOnly (k : Ctx) (c : CoreIx) (a : Nat) (bs : List Byte) (bad last : Bool) :
    landsOnly s (s.writePart k c a bs bad last) := by
  unfold State.writePart
  split
  · exact (s.retireOver_landsOnly _ _).trans (State.landWrite_landsOnly _ ..)
  · have hmiss : landsOnly s (s.landMiss a bs.length s.glb.modIx.val k.decl.ctx last) := by
      rw [State.landMiss_only]
      rfl
    exact hmiss.trans (State.modEvent_landsOnly ..)
  · rfl

theorem State.sendPart_landsOnly (k : Ctx) (r : Fetcher) (d : Desc) (fd : StreamD) (f : Nat) (x : FolioPart) (bs : List Byte) (bad : Bool) :
    landsOnly s (s.sendPart k r d fd f x bs bad) := by
  unfold State.sendPart
  dsimp only
  have hdig := landsOnly.ite (fd.dig && r.only.isEmpty) (s.digestRun_landsOnly r.core r.task fd.cacc
    (fd.posbase + x.off / max 1 (elemBytes fd.efmt)) fd.efmt (slice bs x.folio x.n) (if bad then [(0, x.n)] else [])) (landsOnly.refl s)
  exact landsOnly.ite _ (hdig.trans (State.mcastPart_landsOnly ..)) (hdig.trans (State.writePart_landsOnly ..))

theorem State.sendCodec_landsOnly (k : Ctx) (r : Fetcher) (d : Desc) (fd : StreamD) (f i : Nat) :
    landsOnly s (s.sendCodec k r d fd f i) := by
  unfold State.sendCodec
  dsimp only
  refine landsOnly.trans ?_ (landsOnly.foldl (fun v y => ?_) _ _)
  · exact (landsOnly.ite _ (s.digestStream_landsOnly ..) (landsOnly.refl s)).trans (State.countTrans_landsOnly ..)
  · exact landsOnly.ite _ (v.mcastPart_landsOnly ..) (landsOnly.foldl (fun w _ => w.writePart_landsOnly ..) _ v)

theorem State.codecPart_landsOnly (k : Ctx) (r : Fetcher) (fd : StreamD) (f : Nat) (x : FolioPart) : landsOnly s (s.codecPart k r fd f x) := by
  unfold State.codecPart
  split
  · rfl
  · exact landsOnly.ite _ (s.sendCodec_landsOnly ..) (landsOnly.refl s)

theorem State.partAgain_landsOnly (k : Ctx) (r : Fetcher) (d : Desc) (fd : StreamD) (f : Nat) (bs : List Byte) (bad : Bool) (x : FolioPart) :
    landsOnly s (s.partAgain k r d fd f bs bad x) :=
  (landsOnly.ite (fd.codec = 0) (s.sendPart_landsOnly k r d fd f x bs bad) (s.sendCodec_landsOnly k r d fd f x.seg)).trans rfl

theorem State.landPart_landsOnly (k : Ctx) (r : Fetcher) (d : Desc) (fd : StreamD) (f : Nat) (bs : List Byte) (bad : Bool) (x : FolioPart) :
    landsOnly s (s.landPart k r d fd f bs bad x) := by
  have hkeep : landsOnly s (s.keepPart r x bs bad) := rfl
  have hsend := landsOnly.ite (fd.codec = 0) (s.sendPart_landsOnly k r d fd f x bs bad) (hkeep.trans (State.codecPart_landsOnly _ k r fd f x))
  exact landsOnly.ite _ (s.partAgain_landsOnly ..) (landsOnly.ite _ (hsend.trans rfl) (landsOnly.ite _ hkeep (landsOnly.refl s)))

theorem State.landParts_landsOnly (r : Fetcher) (d : Desc) (shard f : Nat) (bs : List Byte) (bad : Bool) (xs : List FolioPart)
    (seg : Option Nat) : landsOnly s (s.landParts r d shard f bs bad xs seg) := by
  unfold State.landParts
  dsimp only
  split
  · rfl
  · exact landsOnly.ite _ (by exact rfl) (landsOnly.foldl (fun v _ => v.landPart_landsOnly ..) _ s)

/-- A folio lands. -/
theorem State.landFolio_landsOnly (r : Fetcher) (shard w f : Nat) (bs : List Byte) (bad : Bool) : landsOnly s (s.landFolio r shard w f bs bad) := by
  unfold State.landFolio
  split
  · rfl
  · exact s.landParts_landsOnly ..

end

/-! ## Archive requests (R258 to R260, R271) -/

section
variable {s : State} {g : GroupIx} {b : SubIx}

/-- The want that a sublink asks for next. -/
def State.nextWant (s : State) (g : GroupIx) (b : SubIx) : Option ArchWant :=
  s.intk.want.find? fun y => s.wantFirst y && s.wantFits g b y && s.ctxOn y.ctx g b

theorem archiveRequestIssue_of_none (h : s.nextWant g b = none) : exec (.archiveRequestIssue g b) s = .next s := by
  refine congrArg Host.Outcome.next ?_
  unfold State.nextWant at h
  rw [h]

/-- The request for a want's next folios. -/
def State.wantReq (s : State) (g : GroupIx) (b : SubIx) (w : ArchWant) (sh : ShardEntry) (k : Ctx) : ArchReq :=
  { reqId := BitVec.ofNat 32 (w.ctx.toNat * 65536 + k.seq.toNat), group := g, sub := b, core := w.core, task := w.task, cmd := w.cmd
    desc := w.desc, shard := w.shard, accession := sh.accession, first := w.first, count := reqFolios sh.w w.count, next := w.first
    want := (s.tracker? sh.accession).isNone, version := s.intk.verRun, gotRec := false, deadline := s.now + s.timeoutOf .archAck
    only := w.only, seg := w.seg }

/-- What is left of a want. -/
def ArchWant.rest (w : ArchWant) (n : Nat) : List ArchWant := if w.count ≤ n then [] else [{ w with first := w.first + n, count := w.count - n }]

/-- The state in which the request leaves. -/
def State.asked (s : State) (g : GroupIx) (b : SubIx) (w : ArchWant) (sh : ShardEntry) (k : Ctx) : State :=
  { s.modCtx w.ctx fun k => { k with seq := k.seq + 1 } with intk := { s.intk with
      want := s.intk.want.flatMap fun x => if x == w then w.rest (reqFolios sh.w w.count) else [x]
      reqs := s.intk.reqs ++ [s.wantReq g b w sh k], rob := s.intk.rob + reqFolios sh.w w.count, req := bump s.intk.req
      trackers := if (s.tracker? sh.accession).isNone then s.intk.trackers ++ [newTracker sh w.shard s.intk.verRun] else s.intk.trackers } }

/-- Its packet. -/
def State.requestPacket (s : State) (g : GroupIx) (w : ArchWant) (sh : ShardEntry) (k : Ctx) : LinkPacket :=
  { s.linkBase 0x10 5 (BitVec.ofNat 8 k.decl.peer) ((s.sendKey g k.decl.region).getD 0) w.ctx with
    uhdr := s.requestHeader sh w.first (reqFolios sh.w w.count) (s.tracker? sh.accession).isNone (w.ctx.toNat * 65536 + k.seq.toNat) g }

variable {w : ArchWant} (h : s.nextWant g b = some w)
include h

theorem archiveRequestIssue_of_noShard (hs : s.image.shards[w.shard]? = none) : exec (.archiveRequestIssue g b) s = .next s := by
  refine congrArg Host.Outcome.next ?_
  unfold State.nextWant at h
  rw [h]
  dsimp only
  rw [hs]

theorem archiveRequestIssue_of_shard {sh : ShardEntry} {k : Ctx} (hs : s.image.shards[w.shard]? = some sh) (hk : s.ctx? w.ctx = some k) :
    answers (exec (.archiveRequestIssue g b) s) fun u => u = { s with intk := u.intk, links := u.links, fab := u.fab, out := u.out } ∧
      (∀ h, h ≠ g → u.group h = s.group h) ∧ u.intk.req = bump s.intk.req ∧ u.intk.rob = s.intk.rob + reqFolios sh.w w.count ∧
      reqFolios sh.w w.count ≤ 256 ∧
      (∃ y, u.intk.reqs = s.intk.reqs ++ [y] ∧ y.first = w.first ∧ y.next = w.first ∧ y.count = reqFolios sh.w w.count ∧
        y.accession = sh.accession ∧ y.want = (s.tracker? sh.accession).isNone ∧
        y.reqId = BitVec.ofNat 32 (w.ctx.toNat * 65536 + k.seq.toNat)) ∧
      u.intk.want = s.intk.want.flatMap (fun x => if x == w then (if w.count ≤ reqFolios sh.w w.count then [] else
        [{ w with first := w.first + reqFolios sh.w w.count, count := w.count - reqFolios sh.w w.count }]) else [x]) ∧
      u.sentOrQueued g b (s.requestPacket g w sh k) := by
  have he : exec (.archiveRequestIssue g b) s = .next ((s.asked g b w sh k).sendLink g b (s.requestPacket g w sh k)) := by
    refine congrArg Host.Outcome.next ?_
    unfold State.nextWant at h
    rw [h]
    dsimp only
    rw [hs]
    dsimp only
    unfold State.issueWant
    rw [hk]
    rfl
  obtain ⟨hframe, hother⟩ := ((s.asked g b w sh k).sendLink_pumps g b (s.requestPacket g w sh k)).sends
  have hsent := (s.asked g b w sh k).sendLink_sentOrQueued g b (s.requestPacket g w sh k)
  have hintk : ((s.asked g b w sh k).sendLink g b (s.requestPacket g w sh k)).intk = (s.asked g b w sh k).intk :=
    (congrArg State.intk hframe).trans rfl
  refine ⟨_, he, hframe.trans (by rw [hintk]; rfl), hother, by rw [hintk]; rfl, by rw [hintk]; rfl, Nat.le_trans (Nat.min_le_right _ _) (Nat.min_le_left _ _),
    ⟨s.wantReq g b w sh k, by rw [hintk]; rfl, rfl, rfl, rfl, rfl, rfl, rfl⟩, by rw [hintk]; rfl, hsent⟩

end

/-! ## Records (R246, R261, R262) -/

section
variable {s : State} {g : GroupIx} {b : SubIx} {p : LinkPacket}

/-- A record that matches no request, or has not its shape or version. -/
def lostRecord (s : State) (g : GroupIx) (b : SubIx) (p : LinkPacket) (o : Host.Outcome State Fault Refusal) : Prop :=
  (s.recordReq g b p = none → s.intk.ended.any (fun x => x.toNat == fieldAt p.uhdr 16 4) = true →
    answers o fun u => u = { s with memu := u.memu, links := u.links } ∧ u.memu = { s.memu with late := bump s.memu.late }) ∧
  (s.recordReq g b p = none → s.intk.ended.any (fun x => x.toNat == fieldAt p.uhdr 16 4) = false →
    answers o fun u => s.refusedBy u g b p 0x14) ∧
  (∀ r, s.recordReq g b p = some r → s.image.shards[r.shard]? = none ∨ r.versionOk p = false → answers o fun u => s.refusedBy u g b p 0x14)

section
variable {mine : Nat → Bool} {eff : State → ArchReq → ShardEntry → State} {o : Host.Outcome State Fault Refusal}
  (ho : o = .next (s.record g b p mine eff))
include ho

theorem record_turnsDown : s.turnsDown g b p 0x11 o := turnsDown_of_received ho

variable (h : s.admits g b p 0x11)
include h

/-- A record of another kind only leaves the receive buffer. -/
theorem record_of_other (hm : mine (fieldAt p.uhdr 6 1) = false) : o = .next (s.modSub g b fun k => k.freeRx p) :=
  ho.trans (congrArg Host.Outcome.next ((State.received_of_admits h).trans (if_pos (by rw [hm]; rfl))))

variable (hm : mine (fieldAt p.uhdr 6 1) = true)
include hm

/-- A record of the row's kind acts on the request that it matches. -/
theorem record_of_mine {P : State → Prop}
    (hP : P (match (s.modSub g b fun k => k.freeRx p).recordReq g b p with
      | none => if (s.modSub g b fun k => k.freeRx p).intk.ended.any fun x => x.toNat == fieldAt p.uhdr 16 4 then
          (s.modSub g b fun k => k.freeRx p).lateDiscard else (s.modSub g b fun k => k.freeRx p).rxRefuse g b p 0x14
      | some r =>
        match (s.modSub g b fun k => k.freeRx p).image.shards[r.shard]? with
        | some sh => if r.versionOk p then eff (s.modSub g b fun k => k.freeRx p) r sh else (s.modSub g b fun k => k.freeRx p).rxRefuse g b p 0x14
        | none => (s.modSub g b fun k => k.freeRx p).rxRefuse g b p 0x14)) : answers o P := by
  refine answers_of_admits ho h ?_
  have hnot : ¬ (!mine (fieldAt p.uhdr 6 1)) = true := by rw [hm]; decide
  exact (congrArg P (if_neg hnot)).mpr hP

theorem record_lost : lostRecord s g b p o := by
  have hreq : (s.modSub g b fun k => k.freeRx p).recordReq g b p = s.recordReq g b p := rfl
  have hshard (i : Nat) : (s.modSub g b fun k => k.freeRx p).image.shards[i]? = s.image.shards[i]? := rfl
  have hended : (s.modSub g b fun k => k.freeRx p).intk.ended = s.intk.ended := rfl
  have hrefused : s.refusedBy ((s.modSub g b fun k => k.freeRx p).rxRefuse g b p 0x14) g b p 0x14 :=
    State.refusedBy_of_freed (State.rxRefuse_spec _ g b p 0x14 rfl)
  refine ⟨fun hn he => record_of_mine ho h hm ?_, fun hn he => record_of_mine ho h hm ?_, fun r hr hbad => record_of_mine ho h hm ?_⟩
  · rw [hreq, hn]
    dsimp only
    rw [hended, if_pos he]
    exact ⟨rfl, rfl⟩
  · rw [hreq, hn]
    dsimp only
    rw [hended, if_neg (Bool.eq_false_iff.1 he)]
    exact hrefused
  · rw [hreq, hr]
    dsimp only
    rw [hshard]
    split
    next sh hs =>
      rw [if_neg (Bool.eq_false_iff.1 (hbad.resolve_left fun e => absurd (hs.symm.trans e) (by nofun)))]
      exact hrefused
    next => exact hrefused

/-- One that matches its request takes its effect. -/
theorem record_matched {r : ArchReq} {sh : ShardEntry} (hr : s.recordReq g b p = some r) (hs : s.image.shards[r.shard]? = some sh)
    (hv : r.versionOk p = true) {P : State → Prop} (hP : P (eff (s.modSub g b fun k => k.freeRx p) r sh)) : answers o P := by
  refine record_of_mine ho h hm ?_
  have hreq : (s.modSub g b fun k => k.freeRx p).recordReq g b p = some r := hr
  have hshard : (s.modSub g b fun k => k.freeRx p).image.shards[r.shard]? = some sh := hs
  rw [hreq]
  dsimp only
  rw [hshard]
  dsimp only
  rw [if_pos hv]
  exact hP

end

/-! ## Folio records (R252, R264, R267) -/

/-- What a group has received of bodies. -/
def State.bodies (s : State) (g : GroupIx) (n : Nat) : Vector W64 4 :=
  upd s.intk.bytes (⟨g.val % 4, Nat.mod_lt _ (by decide)⟩ : Fin 4) fun x => bump x n

/-- What is counted of records, and the requests, stay. -/
def keptCounts (a c : Intake) : Prop := c.bytes = a.bytes ∧ c.folioBad = a.folioBad ∧ c.recPois = a.recPois ∧ c.reqs = a.reqs

theorem keptCounts.trans {a c d : Intake} (h : keptCounts a c) (h' : keptCounts c d) : keptCounts a d := by
  obtain ⟨h1, h2, h3, h4⟩ := h
  obtain ⟨h1', h2', h3', h4'⟩ := h'
  exact ⟨h1'.trans h1, h2'.trans h2, h3'.trans h3, h4'.trans h4⟩

theorem keptCounts.ite {a : Intake} {t v : State} (c : Prop) [Decidable c] (ht : keptCounts a t.intk) (hv : keptCounts a v.intk) :
    keptCounts a (if c then t else v).intk := by
  split
  · exact ht
  · exact hv

theorem landsOnly.kept {s t : State} (h : landsOnly s t) : keptCounts s.intk t.intk := by
  have hi : t.intk = { s.intk with parked := t.intk.parked, resident := t.intk.resident } := (congrArg State.intk h).trans rfl
  exact ⟨by rw [hi], by rw [hi], by rw [hi], by rw [hi]⟩

theorem State.intakeEvent_kept {s : State} {a : Intake} (h : keptCounts a s.intk) {loc : Nat} {acc : BitVec 48} {version index : Nat} :
    keptCounts a (s.intakeEvent loc acc version index).intk := by
  unfold State.intakeEvent
  rw [State.modEvent_intk]
  exact h

/-- A folio taken is counted and moves its request on. -/
theorem State.takeFolio_spec (s : State) (g : GroupIx) (r : ArchReq) (sh : ShardEntry) (p : LinkPacket) {u : State}
    (hu : u = s.takeFolio g r sh p) : u.intk.bytes = s.bodies g p.body.length ∧
      u.intk.folioBad = (if recordCrc p = true then s.intk.folioBad else bump s.intk.folioBad) ∧
      u.intk.recPois = (if recordCrc p = true ∧ fieldAt p.uhdr 7 1 = 1 then bump s.intk.recPois else s.intk.recPois) ∧
      u.intk.reqs = (if r.next + 1 = r.first + r.count then s.intk.reqs.filter fun y => y.reqId != r.reqId else
        s.intk.reqs.map fun y => if y.reqId == r.reqId then
          { y with next := y.next + 1, gotRec := true, version := BitVec.ofNat 64 (fieldAt p.uhdr 24 8) } else y) := by
  obtain ⟨v, hkept, he⟩ : ∃ v : State, keptCounts { s.intk with
        bytes := s.bodies g p.body.length
        folioBad := if recordCrc p then s.intk.folioBad else bump s.intk.folioBad
        recPois := if recordCrc p && fieldAt p.uhdr 7 1 == 1 then bump s.intk.recPois else s.intk.recPois } v.intk ∧
      u = (fun w : State => if r.next + 1 = r.first + r.count then w.dropArch r.reqId else w.modArch r.reqId fun x =>
        { x with next := x.next + 1, gotRec := true, version := BitVec.ofNat 64 (fieldAt p.uhdr 24 8) })
        (v.landFolio r.fetcher r.shard sh.w r.next (p.body ++ zeros (sh.w - p.body.length)) (!recordCrc p || fieldAt p.uhdr 7 1 == 1)) := by
    refine ⟨_, ?_, hu⟩
    refine keptCounts.trans (keptCounts.ite _ ?_ ?_) ⟨rfl, rfl, rfl, rfl⟩
    all_goals
      refine keptCounts.trans (keptCounts.ite _ ?_ (State.intakeEvent_kept ?_)) ⟨rfl, rfl, rfl, rfl⟩
      all_goals exact ⟨rfl, rfl, rfl, rfl⟩
  have hland := v.landFolio_landsOnly r.fetcher r.shard sh.w r.next (p.body ++ zeros (sh.w - p.body.length))
    (!recordCrc p || fieldAt p.uhdr 7 1 == 1)
  generalize v.landFolio r.fetcher r.shard sh.w r.next (p.body ++ zeros (sh.w - p.body.length)) (!recordCrc p || fieldAt p.uhdr 7 1 == 1) = w at *
  obtain ⟨hbytes, hbad, hpois, hreqs⟩ := hkept.trans (landsOnly.kept hland)
  have hcond : (recordCrc p && fieldAt p.uhdr 7 1 == 1) = true ↔ recordCrc p = true ∧ fieldAt p.uhdr 7 1 = 1 := by
    rw [Bool.and_eq_true, beq_iff_eq]
  replace hpois := hpois.trans (ite_congr (propext hcond) (fun _ => rfl) fun _ => rfl)
  dsimp only at he
  split at he
  next hlast =>
    rw [he, if_pos hlast]
    exact ⟨hbytes, hbad, hpois, congrArg (List.filter fun y : ArchReq => y.reqId != r.reqId) hreqs⟩
  next hlast =>
    rw [he, if_neg hlast]
    refine ⟨hbytes, hbad, hpois, ?_⟩
    unfold State.modArch
    exact congrArg (List.map _) hreqs

/-- Room at the entry router. -/
def State.entryRoom (s : State) (g : GroupIx) (b : SubIx) (p : LinkPacket) : Prop := s.entryWait g b + p.body.length ≤ 2 ^ 21

theorem archiveRecord_of_room (h : s.entryRoom g b p) : exec (.archiveRecord g b p) s = .next (s.record g b p (fun k => k != 2 && k != 3)
    fun t r sh => if r.folioOk sh p then t.takeFolio g r sh p else t.rxRefuse g b p 0x14) :=
  congrArg Host.Outcome.next (if_neg (Nat.not_lt.2 h))

theorem archiveRecord_of_full (h : ¬ s.entryRoom g b p) : exec (.archiveRecord g b p) s = .next s :=
  congrArg Host.Outcome.next (if_pos (Nat.lt_of_not_le h))

/-- The kinds of a folio record. -/
theorem folioKind_iff {k : Nat} : (k != 2 && k != 3) = true ↔ k ≠ 2 ∧ k ≠ 3 := by
  rw [Bool.and_eq_true, bne_iff_ne, bne_iff_ne]

section
variable (hroom : s.entryRoom g b p) (h : s.admits g b p 0x11)
include hroom h

theorem archiveRecord_of_other (hk : fieldAt p.uhdr 6 1 = 2 ∨ fieldAt p.uhdr 6 1 = 3) :
    exec (.archiveRecord g b p) s = .next (s.modSub g b fun k => k.freeRx p) := by
  refine record_of_other (archiveRecord_of_room hroom) h (Bool.eq_false_iff.2 fun e => ?_)
  obtain ⟨h2, h3⟩ := folioKind_iff.1 e
  exact hk.elim h2 h3

variable (h2 : fieldAt p.uhdr 6 1 ≠ 2) (h3 : fieldAt p.uhdr 6 1 ≠ 3)
include h2 h3

theorem archiveRecord_lost : lostRecord s g b p (exec (.archiveRecord g b p) s) :=
  record_lost (archiveRecord_of_room hroom) h (folioKind_iff.2 ⟨h2, h3⟩)

variable {r : ArchReq} {sh : ShardEntry} (hr : s.recordReq g b p = some r) (hs : s.image.shards[r.shard]? = some sh) (hv : r.versionOk p = true)
include hr hs hv

theorem archiveRecord_of_folio (hok : r.folioOk sh p = true) : answers (exec (.archiveRecord g b p) s) fun u =>
    u.intk.bytes = s.bodies g p.body.length ∧
    u.intk.folioBad = (if recordCrc p = true then s.intk.folioBad else bump s.intk.folioBad) ∧
    u.intk.recPois = (if recordCrc p = true ∧ fieldAt p.uhdr 7 1 = 1 then bump s.intk.recPois else s.intk.recPois) ∧
    u.intk.reqs = (if r.next + 1 = r.first + r.count then s.intk.reqs.filter fun y => y.reqId != r.reqId else
      s.intk.reqs.map fun y => if y.reqId == r.reqId then
        { y with next := y.next + 1, gotRec := true, version := BitVec.ofNat 64 (fieldAt p.uhdr 24 8) } else y) := by
  refine record_matched (archiveRecord_of_room hroom) h (folioKind_iff.2 ⟨h2, h3⟩) hr hs hv ?_
  rw [if_pos hok]
  exact State.takeFolio_spec (s.modSub g b fun k => k.freeRx p) g r sh p rfl

theorem archiveRecord_of_misfit (hok : r.folioOk sh p = false) : answers (exec (.archiveRecord g b p) s) fun u => s.refusedBy u g b p 0x14 := by
  refine record_matched (archiveRecord_of_room hroom) h (folioKind_iff.2 ⟨h2, h3⟩) hr hs hv ?_
  rw [if_neg (Bool.eq_false_iff.1 hok)]
  exact State.refusedBy_of_freed (State.rxRefuse_spec _ g b p 0x14 rfl)

end

/-! ## Digest records (R261, R270) -/

/-- The tracker of a shard after every tracker of it has been rewritten. -/
theorem State.modTracker_tracker (s : State) (acc : BitVec 48) (f : Tracker → Tracker) (hf : ∀ t, t.accession = acc → (f t).accession = acc) :
    (s.modTracker acc f).tracker? acc = (s.tracker? acc).map f := by
  have hacc : (fun t : Tracker => t.accession == acc) ∘ (fun t => if t.accession == acc then f t else t) = fun t => t.accession == acc :=
    funext fun t => by
      dsimp only [Function.comp]
      split
      next h => rw [hf t (beq_iff_eq.1 h), h, beq_self_eq_true]
      next => rfl
  unfold State.modTracker State.tracker?
  dsimp only
  rw [List.find?_map, hacc]
  cases hfind : s.intk.trackers.find? fun t => t.accession == acc with
  | none => rfl
  | some t => exact congrArg some (if_pos (List.find?_some hfind))

/-- A digest record taken. -/
theorem State.takeDigest_spec (s : State) (r : ArchReq) (sh : ShardEntry) (p : LinkPacket) {u : State} (hu : u = s.takeDigest r sh p) :
    u = { s with intk := u.intk, flt := u.flt, out := u.out } ∧ u.intk.bytes = s.intk.bytes ∧
      u.intk.reqs = s.intk.reqs.map (fun y => if y.reqId == r.reqId then
        { y with want := false, gotRec := true, version := BitVec.ofNat 64 (fieldAt p.uhdr 24 8) } else y) ∧
      (recordCrc p = true → ∀ t, u.tracker? sh.accession = some t → t.expected = some (p.body.take 32) ∧
        ((sh.digest.all (· == 0)) = false → p.body.take 32 ≠ sh.digest → t.failed = true)) := by
  unfold State.takeDigest at hu
  dsimp only at hu
  obtain ⟨v, hv⟩ : ∃ v, v = s.modArch r.reqId fun x => { x with want := false, gotRec := true, version := BitVec.ofNat 64 (fieldAt p.uhdr 24 8) } :=
    ⟨_, rfl⟩
  rw [← hv] at hu
  have hvframe : v = { s with intk := v.intk } := by rw [hv]; rfl
  have hvbytes : v.intk.bytes = s.intk.bytes := by rw [hv]; rfl
  have hvreqs : v.intk.reqs = s.intk.reqs.map (fun y => if y.reqId == r.reqId then
      { y with want := false, gotRec := true, version := BitVec.ofNat 64 (fieldAt p.uhdr 24 8) } else y) := by rw [hv]; rfl
  clear hv
  split at hu
  next hnone =>
    subst hu
    exact ⟨by rw [hvframe], hvbytes, hvreqs, fun _ t ht => absurd (hnone.symm.trans ht) (by nofun)⟩
  next t0 hsome =>
    have htold := v.modTracker_tracker sh.accession (fun t => { t with
      expected := if recordCrc p then some (p.body.take 32) else t.expected, version := BitVec.ofNat 64 (fieldAt p.uhdr 24 8)
      failed := t.failed || (recordCrc p && (!sh.digest.all (· == 0) && p.body.take 32 != sh.digest)) }) fun _ h => h
    obtain ⟨w, hw⟩ : ∃ w, w = v.modTracker sh.accession fun t => { t with
      expected := if recordCrc p then some (p.body.take 32) else t.expected, version := BitVec.ofNat 64 (fieldAt p.uhdr 24 8)
      failed := t.failed || (recordCrc p && (!sh.digest.all (· == 0) && p.body.take 32 != sh.digest)) } := ⟨_, rfl⟩
    rw [← hw] at hu htold
    have hwframe : w = { s with intk := w.intk } := by rw [hw, hvframe]; rfl
    have hwbytes : w.intk.bytes = s.intk.bytes := by rw [← hvbytes, hw]; rfl
    have hwreqs : w.intk.reqs = v.intk.reqs := by rw [hw]; rfl
    clear hw
    have htracker : u.tracker? sh.accession = w.tracker? sh.accession ∧ u = { w with intk := u.intk, flt := u.flt, out := u.out } ∧
        u.intk.bytes = w.intk.bytes ∧ u.intk.reqs = w.intk.reqs := by
      split at hu
      · unfold State.passMiss State.intakeEvent at hu
        have honly := State.modEvent_logOnly { w with intk := { w.intk with dgstMiss := bump w.intk.dgstMiss } } 1 3 3
          (leBytes 6 t0.accession.toNat ++ leBytes 8 (BitVec.ofNat 64 (fieldAt p.uhdr 24 8)).toNat ++ leBytes 4 0)
        rw [← hu] at honly
        exact ⟨by rw [honly]; rfl, by rw [honly], by rw [honly], by rw [honly]⟩
      · subst hu
        exact ⟨rfl, rfl, rfl, rfl⟩
    obtain ⟨hsame, hframe, hbytes, hreqs⟩ := htracker
    refine ⟨by rw [hframe, hwframe], hbytes.trans hwbytes, hreqs.trans (hwreqs.trans hvreqs), fun hcrc t ht => ?_⟩
    rw [hsame, htold, hsome] at ht
    obtain rfl := Option.some.inj ht
    refine ⟨if_pos hcrc, fun hset hne => ?_⟩
    have hclash : (recordCrc p && (!sh.digest.all (· == 0) && p.body.take 32 != sh.digest)) = true := by
      rw [hcrc, hset, bne_iff_ne.2 hne]
      rfl
    dsimp only
    rw [hclash, Bool.or_true]

/-! ## Error records (R265) -/

/-- A request that fails: its folios not yet written land poisoned, and it ends. -/
theorem State.failArch_spec (s : State) (r : ArchReq) (sh : ShardEntry) {u : State} (hu : u = s.failArch r sh) :
    u.intk.reqs = s.intk.reqs.filter (fun y => y.reqId != r.reqId) ∧ u.intk.recPois = bump s.intk.recPois (r.first + r.count - r.next) ∧
      u.intk.rob = s.intk.rob - (r.first + r.count - r.next) ∧ u.intk.ended = s.intk.ended ∧ u.memu = s.memu := by
  have hland := landsOnly.foldl (F := fun t f => t.landFolio r.fetcher r.shard sh.w f (zeros sh.w) true) (fun t f => t.landFolio_landsOnly ..)
    ((List.range (r.first + r.count - r.next)).map fun i => r.next + i) s
  have hlen : ((List.range (r.first + r.count - r.next)).map fun i => r.next + i).length = r.first + r.count - r.next := by
    rw [List.length_map, List.length_range]
  unfold State.failArch at hu
  dsimp only at hu
  rw [hlen] at hu
  generalize ((List.range (r.first + r.count - r.next)).map fun i => r.next + i).foldl
    (fun t f => t.landFolio r.fetcher r.shard sh.w f (zeros sh.w) true) s = v at *
  have hi : v.intk = { s.intk with parked := v.intk.parked, resident := v.intk.resident } := (congrArg State.intk hland).trans rfl
  have hm : v.memu = s.memu := (congrArg State.memu hland).trans rfl
  rw [hu]
  unfold State.dropArch State.freeRob
  dsimp only
  rw [hi]
  exact ⟨rfl, rfl, rfl, rfl, hm⟩

section
variable (h : s.admits g b p 0x11)
include h

theorem archiveDigestRecord_of_other (hk : fieldAt p.uhdr 6 1 ≠ 2) :
    exec (.archiveDigestRecord g b p) s = .next (s.modSub g b fun k => k.freeRx p) :=
  record_of_other rfl h (beq_eq_false_iff_ne.2 hk)

theorem archiveErrorRecord_of_other (hk : fieldAt p.uhdr 6 1 ≠ 3) :
    exec (.archiveErrorRecord g b p) s = .next (s.modSub g b fun k => k.freeRx p) :=
  record_of_other rfl h (beq_eq_false_iff_ne.2 hk)

variable {r : ArchReq} {sh : ShardEntry} (hr : s.recordReq g b p = some r) (hs : s.image.shards[r.shard]? = some sh) (hv : r.versionOk p = true)
include hr hs hv

/-- A digest record that its request waits for. -/
def toldDigest (r : ArchReq) (p : LinkPacket) : Prop :=
  r.want = true ∧ fieldAt p.uhdr 8 4 = r.first ∧ fieldAt p.uhdr 12 4 = 64 ∧ p.body.length = 64

theorem archiveDigestRecord_of_told (hk : fieldAt p.uhdr 6 1 = 2) (ht : toldDigest r p) : answers (exec (.archiveDigestRecord g b p) s) fun u =>
    u = { s with intk := u.intk, links := u.links, flt := u.flt, out := u.out } ∧ u.intk.bytes = s.bodies g 64 ∧
    u.intk.reqs = s.intk.reqs.map (fun y => if y.reqId == r.reqId then
      { y with want := false, gotRec := true, version := BitVec.ofNat 64 (fieldAt p.uhdr 24 8) } else y) ∧
    (recordCrc p = true → ∀ t, u.tracker? sh.accession = some t → t.expected = some (p.body.take 32) ∧
      ((sh.digest.all (· == 0)) = false → p.body.take 32 ≠ sh.digest → t.failed = true)) := by
  refine record_matched (rfl : exec (.archiveDigestRecord g b p) s = .next (s.record g b p _ _)) h (beq_iff_eq.2 hk) hr hs hv ?_
  obtain ⟨h1, h2, h3, h4⟩ := ht
  rw [if_pos (by rw [h1, h2, h3, h4, beq_self_eq_true]; rfl)]
  obtain ⟨hframe, hbytes, hreqs, hpass⟩ := State.takeDigest_spec ((s.modSub g b fun k => k.freeRx p).countBody g 64) r sh p rfl
  refine ⟨?_, hbytes, hreqs, hpass⟩
  generalize ((s.modSub g b fun k => k.freeRx p).countBody g 64).takeDigest r sh p = u at *
  rw [hframe]
  rfl

theorem archiveDigestRecord_of_misfit (hk : fieldAt p.uhdr 6 1 = 2) (ht : ¬ toldDigest r p) :
    answers (exec (.archiveDigestRecord g b p) s) fun u => s.refusedBy u g b p 0x14 := by
  refine record_matched (rfl : exec (.archiveDigestRecord g b p) s = .next (s.record g b p _ _)) h (beq_iff_eq.2 hk) hr hs hv ?_
  rw [if_neg fun e => ht (by unfold toldDigest; simpa only [Bool.and_eq_true, beq_iff_eq, and_assoc] using e)]
  exact State.refusedBy_of_freed (State.rxRefuse_spec _ g b p 0x14 rfl)

/-- An error record that ends its request. -/
def endsRequest (r : ArchReq) (p : LinkPacket) : Prop := fieldAt p.uhdr 8 4 = r.first ∧ fieldAt p.uhdr 12 4 = 0 ∧ p.body = []

theorem archiveErrorRecord_of_ends (hk : fieldAt p.uhdr 6 1 = 3) (he : endsRequest r p) : answers (exec (.archiveErrorRecord g b p) s) fun u =>
    u.intk.reqs = s.intk.reqs.filter (fun y => y.reqId != r.reqId) ∧ u.intk.recPois = bump s.intk.recPois (r.first + r.count - r.next) ∧
      u.intk.rob = s.intk.rob - (r.first + r.count - r.next) := by
  refine record_matched (rfl : exec (.archiveErrorRecord g b p) s = .next (s.record g b p _ _)) h (beq_iff_eq.2 hk) hr hs hv ?_
  obtain ⟨h1, h2, h3⟩ := he
  rw [if_pos (by rw [h1, h2, h3, beq_self_eq_true, beq_self_eq_true]; rfl)]
  obtain ⟨hreqs, hpois, hrob, -⟩ := State.failArch_spec ((s.modSub g b fun k => k.freeRx p).intakeEvent 2 sh.accession
    (fieldAt p.uhdr 24 8) r.next) r sh rfl
  have hi : ((s.modSub g b fun k => k.freeRx p).intakeEvent 2 sh.accession (fieldAt p.uhdr 24 8) r.next).intk = s.intk :=
    State.modEvent_intk _ _ _ _ _
  rw [hi] at hreqs hpois hrob
  exact ⟨hreqs, hpois, hrob⟩

theorem archiveErrorRecord_of_misfit (hk : fieldAt p.uhdr 6 1 = 3) (he : ¬ endsRequest r p) :
    answers (exec (.archiveErrorRecord g b p) s) fun u => s.refusedBy u g b p 0x14 := by
  refine record_matched (rfl : exec (.archiveErrorRecord g b p) s = .next (s.record g b p _ _)) h (beq_iff_eq.2 hk) hr hs hv ?_
  rw [if_neg fun e => he (by unfold endsRequest; simpa only [Bool.and_eq_true, beq_iff_eq, and_assoc, List.isEmpty_iff] using e)]
  exact State.refusedBy_of_freed (State.rxRefuse_spec _ g b p 0x14 rfl)

end

end

/-- Settles O51: requests by the want that is next, records by the request that they match. -/
theorem archiveRequestsAndRecords : Obligations.ArchiveRequestsAndRecords := by
  refine ⟨fun s g b => ⟨archiveRequestIssue_of_none, fun w h => ⟨archiveRequestIssue_of_noShard h, fun sh k => archiveRequestIssue_of_shard h⟩⟩,
    fun s g b p => ⟨fun hroom => record_turnsDown (archiveRecord_of_room hroom), record_turnsDown rfl, record_turnsDown rfl,
      archiveRecord_of_full, fun h => ⟨fun hroom => archiveRecord_lost hroom h, fun hk => record_lost rfl h (beq_iff_eq.2 hk),
        fun hk => record_lost rfl h (beq_iff_eq.2 hk), fun hroom => archiveRecord_of_other hroom h, archiveDigestRecord_of_other h,
        archiveErrorRecord_of_other h, fun r sh hr hs hv => ⟨fun hroom h2 h3 => ⟨archiveRecord_of_folio hroom h h2 h3 hr hs hv,
          archiveRecord_of_misfit hroom h h2 h3 hr hs hv⟩, archiveDigestRecord_of_told h hr hs hv, archiveDigestRecord_of_misfit h hr hs hv,
          archiveErrorRecord_of_ends h hr hs hv, archiveErrorRecord_of_misfit h hr hs hv⟩⟩⟩⟩

end Sys2Proof.Machine
end

section
/-! PROOFS. Passes, scrubs and parked folios (R266 to R270, R276, R278). -/

namespace Sys2Proof.Machine

/-! ## Absorbed digests (R268) -/

/-- What absorbing leaves of a tracker. -/
def Tracker.absorbedAs (t x : Tracker) : Prop :=
  x = { t with digs := x.digs, absorbed := x.absorbed, early := x.early } ∧ t.absorbed ≤ x.absorbed

/-- Absorbing moves on in index order. -/
theorem Tracker.absorb_absorbedAs (n : Nat) (t : Tracker) : t.absorbedAs (t.absorb n) := by
  induction n generalizing t with
  | zero => exact ⟨rfl, Nat.le_refl _⟩
  | succ n ih =>
    unfold Tracker.absorb
    split
    next e _ =>
      obtain ⟨hframe, hle⟩ := ih { t with digs := t.digs ++ e.2, absorbed := t.absorbed + 1, early := t.early.filter fun x => x.1 != e.1 }
      exact ⟨hframe.trans rfl, Nat.le_trans (Nat.le_succ _) hle⟩
    next => exact ⟨rfl, Nat.le_refl _⟩

/-- It goes on as far as the digests have come. -/
theorem Tracker.absorb_done (n : Nat) (t : Tracker) (h : t.early.length ≤ n) : ∀ e ∈ (t.absorb n).early, e.1 ≠ (t.absorb n).absorbed := by
  induction n generalizing t with
  | zero =>
    intro e he
    have hnil : t.early = [] := List.length_eq_zero_iff.1 (Nat.le_zero.1 h)
    rw [Tracker.absorb, hnil] at he
    exact absurd he List.not_mem_nil
  | succ n ih =>
    unfold Tracker.absorb
    split
    next e he =>
      refine ih _ ?_
      dsimp only
      have hlt : (t.early.filter fun x => x.1 != e.1).length < t.early.length := by
        refine List.length_filter_lt_length_iff_exists.2 ⟨e, List.mem_of_find?_eq_some he, ?_⟩
        rw [bne_self_eq_false]
        decide
      omega
    next hnone =>
      intro e he heq
      exact absurd (beq_iff_eq.2 heq) (List.find?_eq_none.1 hnone e he)

/-- With one digest waiting it is absorbed if it is the next. -/
theorem Tracker.absorb_one_next {t : Tracker} {i : Nat} {d : List Byte} (h : t.early = [(i, d)]) (hi : i = t.absorbed) :
    (t.absorb 1).absorbed = i + 1 ∧ (t.absorb 1).digs = t.digs ++ d := by
  have hfind : t.early.find? (fun e => e.1 == t.absorbed) = some (i, d) := by
    rw [h]
    exact List.find?_cons_of_pos (p := fun e : Nat × List Byte => e.1 == t.absorbed) (beq_iff_eq.2 hi)
  unfold Tracker.absorb
  rw [hfind]
  exact ⟨by rw [hi]; rfl, rfl⟩

theorem Tracker.absorb_one_early {t : Tracker} {i : Nat} {d : List Byte} (h : t.early = [(i, d)]) (hi : i ≠ t.absorbed) : t.absorb 1 = t := by
  have hfind : t.early.find? (fun e => e.1 == t.absorbed) = none := by
    rw [h]
    exact List.find?_cons_of_neg (p := fun e : Nat × List Byte => e.1 == t.absorbed) fun e => hi (beq_iff_eq.1 e)
  unfold Tracker.absorb
  rw [hfind]

/-! ## The end of a pass (R269, R270, R276) -/

section
variable (s : State) (t : Tracker)

/-- The digest of a pass is the expected one. -/
def State.passOk (s : State) (t : Tracker) : Bool := !t.failed && s.expectedOf t == some (sha256 t.digs)

/-- A shard enters the residency table, or is counted as not entered. -/
theorem State.reside_spec (ok : Bool) (d : List Byte) {u : State} (hu : u = s.reside t ok d) :
    u = { s with intk := { s.intk with resident := u.intk.resident, dgstSkip := u.intk.dgstSkip } } ∧
      ∀ sh, s.image.shards[t.shard]? = some sh →
        (sh.reside = false → u.intk.resident = s.intk.resident ∧ u.intk.dgstSkip = s.intk.dgstSkip) ∧
        (sh.reside = true →
          (∀ j base, s.intk.freeEntry = some j → t.base sh.w = some base → ok = true → u.intk.resident = s.intk.resident.set j
            (some { accession := t.accession, version := t.version, base := base, count := t.count, w := sh.w, digest := d, scrubbing := false }) ∧
            u.intk.dgstSkip = s.intk.dgstSkip) ∧
          (s.intk.freeEntry = none ∨ t.base sh.w = none ∨ ok = false → u.intk.resident = s.intk.resident ∧
            u.intk.dgstSkip = bump s.intk.dgstSkip)) := by
  unfold State.reside at hu
  split at hu
  next hnone => exact ⟨by rw [hu], fun sh hsh => absurd (hnone.symm.trans hsh) (by nofun)⟩
  next sh hsome =>
    refine ⟨?_, fun sh' hsh => ?_⟩
    · split at hu
      · rw [hu]
      · split at hu
        · split at hu
          · rw [hu]; rfl
          · rw [hu]
        · rw [hu]; rfl
    · obtain rfl := Option.some.inj (hsome.symm.trans hsh)
      refine ⟨fun hno => ?_, fun hyes => ⟨fun j base hj hb hok => ?_, fun hbad => ?_⟩⟩
      · rw [if_pos (by rw [hno]; rfl)] at hu
        rw [hu]
        exact ⟨rfl, rfl⟩
      · rw [if_neg (by rw [hyes]; decide), hj, hb] at hu
        dsimp only at hu
        rw [if_neg (by rw [hok]; decide)] at hu
        rw [hu]
        exact ⟨rfl, rfl⟩
      · have hskip : u = s.dgstSkip := by
          rw [if_neg (by rw [hyes]; decide)] at hu
          split at hu
          next i b hi hb =>
            obtain hf | hbase | hok := hbad
            · exact absurd (hf.symm.trans hi) (by nofun)
            · exact absurd (hbase.symm.trans hb) (by nofun)
            · rw [if_pos (by rw [hok]; rfl)] at hu
              exact hu
          next => exact hu
        rw [hskip]
        exact ⟨rfl, rfl⟩

/-- A pass that missed is counted and logged. -/
theorem State.passMiss_spec {u : State} (hu : u = s.passMiss t) :
    u = { s with intk := { s.intk with dgstMiss := bump s.intk.dgstMiss }, flt := u.flt, out := u.out } := by
  subst hu
  exact (State.modEvent_only _ _ _ _ _).trans rfl

/-- A pass no longer tracked, and remembered. -/
def State.passEnded (s : State) (t : Tracker) (ok : Bool) : State :=
  { s with intk := { s.intk with
    trackers := s.intk.trackers.filter fun x => x.accession != t.accession
    passes := ⟨t.accession, ok, t.version, sha256 t.digs⟩ :: s.intk.passes.filter fun x => x.accession != t.accession } }

/-- A pass ended is remembered, counted as a miss where its digest is not the expected one. -/
theorem State.endPass_spec {u : State} (hu : u = s.endPass t) :
    u = { s with intk := u.intk, flt := u.flt, out := u.out } ∧ u.intk.rob = s.intk.rob ∧
      u.intk.trackers = s.intk.trackers.filter (fun x => x.accession != t.accession) ∧
      u.intk.passes = ⟨t.accession, s.passOk t, t.version, sha256 t.digs⟩ :: s.intk.passes.filter (fun x => x.accession != t.accession) ∧
      u.intk.dgstMiss = (if s.passOk t = true ∨ t.failed = true then s.intk.dgstMiss else bump s.intk.dgstMiss) ∧
      ∀ sh, s.image.shards[t.shard]? = some sh →
        (sh.reside = false → u.intk.resident = s.intk.resident ∧ u.intk.dgstSkip = s.intk.dgstSkip) ∧
        (sh.reside = true →
          (∀ j base, s.intk.freeEntry = some j → t.base sh.w = some base → s.passOk t = true → u.intk.resident = s.intk.resident.set j
            (some { accession := t.accession, version := t.version, base := base, count := t.count, w := sh.w
                    digest := sha256 t.digs, scrubbing := false }) ∧ u.intk.dgstSkip = s.intk.dgstSkip) ∧
          (s.intk.freeEntry = none ∨ t.base sh.w = none ∨ s.passOk t = false → u.intk.resident = s.intk.resident ∧
            u.intk.dgstSkip = bump s.intk.dgstSkip)) := by
  obtain ⟨v, hv, hframe, hintk⟩ : ∃ v : State, u = v.reside t (s.passOk t) (sha256 t.digs) ∧
      v = { s with intk := v.intk, flt := v.flt, out := v.out } ∧ v.intk = { s.intk with
        trackers := s.intk.trackers.filter fun x => x.accession != t.accession
        passes := ⟨t.accession, s.passOk t, t.version, sha256 t.digs⟩ :: s.intk.passes.filter fun x => x.accession != t.accession
        dgstMiss := if s.passOk t = true ∨ t.failed = true then s.intk.dgstMiss else bump s.intk.dgstMiss } := by
    refine ⟨_, hu, ?_⟩
    generalize he : (!t.failed && s.expectedOf t == some (sha256 t.digs)) = ok
    have hok : s.passOk t = ok := he
    rw [hok]
    split
    next h =>
      rw [if_pos (by simpa only [Bool.or_eq_true] using h)]
      exact ⟨rfl, rfl⟩
    next h =>
      rw [if_neg (by simpa only [Bool.or_eq_true] using h)]
      have hmiss := State.passMiss_spec (s.passEnded t ok) t rfl
      refine ⟨?_, (congrArg State.intk hmiss).trans rfl⟩
      show (s.passEnded t ok).passMiss t = { s with
        intk := ((s.passEnded t ok).passMiss t).intk, flt := ((s.passEnded t ok).passMiss t).flt, out := ((s.passEnded t ok).passMiss t).out }
      generalize (s.passEnded t ok).passMiss t = v at *
      rw [hmiss]
      rfl
  obtain ⟨hreside, hshard⟩ := v.reside_spec t (s.passOk t) (sha256 t.digs) hv
  have himage : v.image = s.image := by rw [hframe]; rfl
  rw [himage, hintk] at hshard
  have hui : u.intk = { v.intk with resident := u.intk.resident, dgstSkip := u.intk.dgstSkip } := (congrArg State.intk hreside).trans rfl
  rw [hintk] at hui
  refine ⟨?_, by rw [hui], by rw [hui], by rw [hui], by rw [hui], hshard⟩
  rw [hreside, hframe]

end

/-! ## A folio's digest -/

/-- The trackers other than a pass's own. -/
theorem State.modTracker_others (s : State) (acc : BitVec 48) (f : Tracker → Tracker) (hf : ∀ t, t.accession = acc → (f t).accession = acc) :
    (s.modTracker acc f).intk.trackers.filter (fun x => x.accession != acc) = s.intk.trackers.filter (fun x => x.accession != acc) := by
  unfold State.modTracker
  dsimp only
  induction s.intk.trackers with
  | nil => rfl
  | cons y ys ih =>
    rw [List.map_cons, List.filter_cons, List.filter_cons, ih]
    by_cases hy : (y.accession == acc) = true
    · have hacc := beq_iff_eq.1 hy
      rw [if_pos hy, hf y hacc, hacc, bne_self_eq_false]
      rfl
    · rw [if_neg hy]

/-- A tracker with one more digest at hand. -/
def Tracker.hashed (t : Tracker) (i : Nat) (bs : List Byte) : Tracker :=
  { t with hashing := t.hashing.filter fun x => x.1 != i, early := t.early ++ [(i, sha256 bs)] }

/-- A tracker that has absorbed what has come. -/
def Tracker.takeHash (t : Tracker) (i : Nat) (bs : List Byte) : Tracker := (t.hashed i bs).absorb (t.hashed i bs).early.length

/-- A digest absorbed in index order. -/
theorem Tracker.takeHash_spec (t : Tracker) (i : Nat) (bs : List Byte) {x : Tracker} (hx : x = t.takeHash i bs) :
    x = { t with hashing := t.hashing.filter (fun x => x.1 != i), digs := x.digs, absorbed := x.absorbed, early := x.early } ∧
      t.absorbed ≤ x.absorbed ∧ (∀ e ∈ x.early, e.1 ≠ x.absorbed) ∧
      (t.early = [] → i = t.absorbed → x.absorbed = i + 1 ∧ x.digs = t.digs ++ sha256 bs) ∧
      (t.early = [] → i ≠ t.absorbed → x.absorbed = t.absorbed ∧ x.digs = t.digs ∧ x.early = [(i, sha256 bs)]) := by
  obtain ⟨hframe, hle⟩ := (t.hashed i bs).absorb_absorbedAs (t.hashed i bs).early.length
  have hdone := (t.hashed i bs).absorb_done _ (Nat.le_refl _)
  have hone (h : t.early = []) : (t.hashed i bs).early = [(i, sha256 bs)] := by
    show t.early ++ _ = _
    rw [h]
    rfl
  have hlen (h : t.early = []) : t.takeHash i bs = (t.hashed i bs).absorb 1 := by
    unfold Tracker.takeHash
    rw [hone h]
    rfl
  subst hx
  refine ⟨hframe.trans rfl, hle, hdone, fun h hi => ?_, fun h hi => ?_⟩
  · rw [hlen h]
    exact Tracker.absorb_one_next (hone h) hi
  · rw [hlen h, Tracker.absorb_one_early (hone h) hi]
    exact ⟨rfl, rfl, hone h⟩

section
variable {s : State} {acc : BitVec 48} {i : Nat}

theorem folioDigestDone_of_noTracker (h : s.tracker? acc = none) : exec (.folioDigestDone acc i) s = .next s := by
  refine congrArg Host.Outcome.next ?_
  rw [h]

variable {t : Tracker} (ht : s.tracker? acc = some t)
include ht

theorem folioDigestDone_of_noFolio (h : t.hashing.find? (fun h => h.1 == i) = none) : exec (.folioDigestDone acc i) s = .next s := by
  refine congrArg Host.Outcome.next ?_
  rw [ht]
  dsimp only
  rw [h]

/-- The state in which a folio's digest has been absorbed. -/
def State.absorbedOne (s : State) (acc : BitVec 48) (t : Tracker) (i : Nat) (bs : List Byte) : State :=
  (s.modTracker acc fun _ => t.takeHash i bs).freeRob ((t.takeHash i bs).absorbed - t.absorbed)

theorem folioDigestDone_of_folio {bs : List Byte} (h : t.hashing.find? (fun h => h.1 == i) = some (i, bs)) :
    exec (.folioDigestDone acc i) s = .next (if (t.takeHash i bs).absorbed = (t.takeHash i bs).count then
      (s.absorbedOne acc t i bs).endPass (t.takeHash i bs) else s.absorbedOne acc t i bs) := by
  refine congrArg Host.Outcome.next ?_
  rw [ht]
  dsimp only
  rw [h]
  rfl

theorem folioDigestDone_spec {bs : List Byte} (h : t.hashing.find? (fun h => h.1 == i) = some (i, bs)) :
    answers (exec (.folioDigestDone acc i) s) fun u => u = { s with intk := u.intk, flt := u.flt, out := u.out } ∧
      ∃ t' : Tracker, t'.hashing = t.hashing.filter (fun x => x.1 != i) ∧ t.absorbed ≤ t'.absorbed ∧
        u.intk.rob = s.intk.rob - (t'.absorbed - t.absorbed) ∧ (∀ e ∈ t'.early, e.1 ≠ t'.absorbed) ∧
        (t.early = [] → i = t.absorbed → t'.absorbed = i + 1 ∧ t'.digs = t.digs ++ sha256 bs) ∧
        (t.early = [] → i ≠ t.absorbed → t'.absorbed = t.absorbed ∧ t'.digs = t.digs ∧ t'.early = [(i, sha256 bs)]) ∧
        (t'.absorbed ≠ t.count → u.tracker? acc = some t') ∧
        (t'.absorbed = t.count →
          let ok := !t.failed && s.expectedOf t == some (sha256 t'.digs)
          u.intk.trackers = s.intk.trackers.filter (fun x => x.accession != t.accession) ∧
          u.intk.passes = ⟨t.accession, ok, t.version, sha256 t'.digs⟩ :: s.intk.passes.filter (fun x => x.accession != t.accession) ∧
          u.intk.dgstMiss = (if ok = true ∨ t.failed = true then s.intk.dgstMiss else bump s.intk.dgstMiss) ∧
          ∀ sh, s.image.shards[t.shard]? = some sh →
            (sh.reside = false → u.intk.resident = s.intk.resident ∧ u.intk.dgstSkip = s.intk.dgstSkip) ∧
            (sh.reside = true →
              (∀ j base, s.intk.freeEntry = some j → t.base sh.w = some base → ok = true → u.intk.resident = s.intk.resident.set j
                (some { accession := t.accession, version := t.version, base := base, count := t.count, w := sh.w
                        digest := sha256 t'.digs, scrubbing := false }) ∧ u.intk.dgstSkip = s.intk.dgstSkip) ∧
              (s.intk.freeEntry = none ∨ t.base sh.w = none ∨ ok = false → u.intk.resident = s.intk.resident ∧
                u.intk.dgstSkip = bump s.intk.dgstSkip))) := by
  have hacc : t.accession = acc := by
    have := List.find?_some ht
    exact beq_iff_eq.1 this
  obtain ⟨hx, hle, hdone, hnext, hearly⟩ := t.takeHash_spec i bs rfl
  have hexec := folioDigestDone_of_folio ht h
  have htrackers := s.modTracker_others acc (fun _ => t.takeHash i bs) fun _ _ => (congrArg Tracker.accession hx).trans hacc
  have hfound : (s.absorbedOne acc t i bs).tracker? acc = some (t.takeHash i bs) := by
    refine (s.modTracker_tracker acc (fun _ => t.takeHash i bs) fun _ _ => (congrArg Tracker.accession hx).trans hacc).trans ?_
    rw [ht]
    rfl
  have hframe : s.absorbedOne acc t i bs = { s with intk := { s.intk with
      trackers := (s.absorbedOne acc t i bs).intk.trackers, rob := s.intk.rob - ((t.takeHash i bs).absorbed - t.absorbed) } } := rfl
  have hothers : (s.absorbedOne acc t i bs).intk.trackers.filter (fun x => x.accession != acc) =
    s.intk.trackers.filter (fun x => x.accession != acc) := htrackers
  generalize s.absorbedOne acc t i bs = v at *
  generalize t.takeHash i bs = x at *
  have hcount : x.count = t.count := by rw [hx]
  rw [hcount] at hexec
  by_cases hend : x.absorbed = t.count
  · rw [if_pos hend] at hexec
    obtain ⟨hu, hrob, htr, hpass, hmiss, hshard⟩ := v.endPass_spec x rfl
    have hok : v.passOk x = (!t.failed && s.expectedOf t == some (sha256 x.digs)) := by
      unfold State.passOk State.expectedOf
      rw [hframe, hx]
      rfl
    have hxa : x.accession = t.accession := by rw [hx]
    have hxv : x.version = t.version := by rw [hx]
    have hxf : x.failed = t.failed := by rw [hx]
    have hxs : x.shard = t.shard := by rw [hx]
    have hxb (w : Nat) : x.base w = t.base w := by rw [hx]; rfl
    have himage : v.image = s.image := by rw [hframe]; rfl
    refine ⟨_, hexec, by rw [hu, hframe], x, by rw [hx], hle, by rw [hrob, hframe], hdone, hnext, hearly, fun hn => absurd hend hn, fun _ => ?_⟩
    have hfree : v.intk.freeEntry = s.intk.freeEntry := by rw [hframe]; rfl
    have hres : v.intk.resident = s.intk.resident := by rw [hframe]
    have hskip : v.intk.dgstSkip = s.intk.dgstSkip := by rw [hframe]
    have hpasses : v.intk.passes = s.intk.passes := by rw [hframe]
    have hmissed : v.intk.dgstMiss = s.intk.dgstMiss := by rw [hframe]
    rw [hok, hxa, hxv, hpasses] at hpass
    rw [hok, hxf, hmissed] at hmiss
    rw [hok, hxa, hxv, hxs, himage, hcount, hres, hskip, hfree] at hshard
    rw [hxa, hacc, hothers] at htr
    exact ⟨htr.trans (by rw [hacc]), hpass, hmiss, fun sh hsh => by simpa only [hxb] using hshard sh hsh⟩
  · rw [if_neg hend] at hexec
    exact ⟨v, hexec, by rw [hframe], x, by rw [hx], hle, by rw [hframe], hdone, hnext, hearly, fun _ => hfound, fun h => absurd h hend⟩

end

/-! ## Scrubs (R278) -/

section
variable {s : State}

theorem scrubStart_of_due (h0 : s.intk.period ≠ 0) (hle : s.intk.period ≤ s.intk.pitchesTo) :
    (s.intk.scrubBusy = false → exec .scrubStart s = .next { s with intk := { s.intk with
      pitchesTo := 0, scrubNext := false, scrubBusy := s.intk.resident.any (fun x => x.isSome)
      resident := s.intk.resident.map fun x => x.map fun y => { y with scrubbing := true } } }) ∧
    (s.intk.scrubBusy = true → exec .scrubStart s = .next { s with intk := { s.intk with
      pitchesTo := 0, scrubNext := true, scrubOvr := bump s.intk.scrubOvr } }) := by
  have hdue : ¬ (s.intk.period = 0 ∨ s.intk.pitchesTo < s.intk.period) := by omega
  exact ⟨fun h => congrArg Host.Outcome.next ((if_neg hdue).trans (if_neg (Bool.eq_false_iff.1 h))),
    fun h => congrArg Host.Outcome.next ((if_neg hdue).trans (if_pos h))⟩

theorem scrubStart_of_early (h : s.intk.period = 0 ∨ s.intk.pitchesTo < s.intk.period) : exec .scrubStart s = .next s :=
  congrArg Host.Outcome.next (if_pos h)

/-- The end of a pass over the entries, and the start of one that was due. -/
theorem State.scrubEnd_spec (s : State) {u : State} (hu : u = s.scrubEnd) : u = { s with intk := u.intk } ∧ u.intk.scrubMiss = s.intk.scrubMiss ∧
    (∀ e : Fin 256, (u.intk.resident[e]).isSome = (s.intk.resident[e]).isSome) ∧
    (s.intk.scrubNext = false → u.intk.resident = s.intk.resident) := by
  unfold State.scrubEnd at hu
  split at hu
  · rw [hu]
    exact ⟨rfl, rfl, fun _ => rfl, fun _ => rfl⟩
  · split at hu
    next hn =>
      rw [hu]
      refine ⟨rfl, rfl, fun e => ?_, fun h => absurd hn (Bool.eq_false_iff.1 h)⟩
      unfold State.scrubAll
      simp only [Fin.getElem_fin, Vector.getElem_map, Option.isSome_map]
    · rw [hu]
      exact ⟨rfl, rfl, fun _ => rfl, fun _ => rfl⟩

/-- Nothing poisoned. -/
theorem Memory.poison_nil (m : Memory) : m.poison [] = m :=
  congrArg (fun c => { m with clean := c }) (List.filter_eq_self.2 fun _ _ => rfl)

/-- An entry whose digest no longer matches: counted, poisoned, retired. -/
theorem State.scrubBad_spec (s : State) (i : Fin 256) (e : Resident) {u : State} (hu : u = s.scrubBad i e) :
    u.mem = s.mem.poison (granules (stacksAddr e.base) (e.count * e.w)) ∧ u.intk.scrubMiss = bump s.intk.scrubMiss ∧
      u.intk.resident[i] = none ∧ u = { s with mem := u.mem, cores := u.cores, intk := u.intk, flt := u.flt, out := u.out } := by
  unfold State.scrubBad State.intakeEvent at hu
  have honly := State.modEvent_only { s with intk := { s.intk with
    scrubMiss := bump s.intk.scrubMiss, resident := s.intk.resident.set i none } } 1 3 4
    (leBytes 6 e.accession.toNat ++ leBytes 8 e.version.toNat ++ leBytes 4 0)
  generalize State.modEvent { s with intk := { s.intk with scrubMiss := bump s.intk.scrubMiss, resident := s.intk.resident.set i none } } 1 3 4
    (leBytes 6 e.accession.toNat ++ leBytes 8 e.version.toNat ++ leBytes 4 0) = v at *
  have hmem : v.mem = s.mem := by rw [honly]
  have hspoil : u = { v with mem := v.mem.poison (granules (stacksAddr e.base) (e.count * e.w)), cores := u.cores } := by
    unfold State.spoilAt at hu
    split at hu
    next hnil =>
      rw [hu, hnil, Memory.poison_nil]
    next g gs hcons =>
      rw [hu, hcons]
      rfl
  have hintk : u.intk = v.intk := by rw [hspoil]
  have hv : v.intk = { s.intk with scrubMiss := bump s.intk.scrubMiss, resident := s.intk.resident.set i none } := by rw [honly]
  refine ⟨by rw [hspoil, hmem], by rw [hintk, hv], ?_, by rw [hspoil, honly]⟩
  rw [hintk, hv]
  simp only [Fin.getElem_fin, Vector.getElem_set_self]

variable {entry : Fin 256}

theorem scrubEntryDone_of_idle (h : s.intk.scrubBusy = false) : exec (.scrubEntryDone entry) s = .next s :=
  congrArg Host.Outcome.next (if_pos (by rw [h]; rfl))

variable (hb : s.intk.scrubBusy = true)
include hb

theorem scrubEntryDone_of_free (h : s.intk.resident[entry] = none) : answers (exec (.scrubEntryDone entry) s) fun u =>
    u = { s with intk := u.intk } ∧ u.intk.scrubMiss = s.intk.scrubMiss := by
  obtain ⟨hframe, hmiss, -⟩ := s.scrubEnd_spec rfl
  refine ⟨s.scrubEnd, congrArg Host.Outcome.next ((if_neg (by rw [hb]; decide)).trans ?_), hframe, hmiss⟩
  rw [h]

section
variable {e : Resident} (he : s.intk.resident[entry] = some e)
include he

theorem scrubEntryDone_of_done (h : e.scrubbing = false) : exec (.scrubEntryDone entry) s = .next s := by
  refine congrArg Host.Outcome.next ((if_neg (by rw [hb]; decide)).trans ?_)
  rw [he]
  exact if_pos (by rw [h]; rfl)

/-- An entry whose digest still matches. -/
theorem scrubEntryDone_of_match (hs : e.scrubbing = true) (hd : s.residentDigest e = e.digest) : answers (exec (.scrubEntryDone entry) s) fun u =>
    u = { s with intk := u.intk } ∧ u.intk.scrubMiss = s.intk.scrubMiss ∧ (u.intk.resident[entry]).isSome = true ∧
    (s.intk.scrubNext = false → u.intk.resident = s.intk.resident.set entry (some { e with scrubbing := false })) := by
  obtain ⟨hframe, hmiss, hsome, hres⟩ := State.scrubEnd_spec
    { s with intk := { s.intk with resident := s.intk.resident.set entry (some { e with scrubbing := false }) } } rfl
  refine ⟨_, congrArg Host.Outcome.next ((if_neg (by rw [hb]; decide)).trans ?_), hframe, hmiss, (hsome entry).trans ?_, hres⟩
  · rw [he]
    exact (if_neg (by rw [hs]; decide)).trans (if_pos hd)
  · simp only [Fin.getElem_fin, Vector.getElem_set_self, Option.isSome_some]

theorem scrubEntryDone_of_clash (hs : e.scrubbing = true) (hd : s.residentDigest e ≠ e.digest) : answers (exec (.scrubEntryDone entry) s) fun u =>
    u.mem = s.mem.poison (granules (stacksAddr e.base) (e.count * e.w)) ∧ u.intk.scrubMiss = bump s.intk.scrubMiss ∧
    u.intk.resident[entry] = none ∧ u = { s with mem := u.mem, cores := u.cores, intk := u.intk, flt := u.flt, out := u.out } := by
  obtain ⟨hmem, hmiss, hnone, hall⟩ := s.scrubBad_spec entry e rfl
  have hexec : exec (.scrubEntryDone entry) s = .next (s.scrubBad entry e).scrubEnd := by
    refine congrArg Host.Outcome.next ((if_neg (by rw [hb]; decide)).trans ?_)
    rw [he]
    exact (if_neg (by rw [hs]; decide)).trans (if_neg hd)
  generalize s.scrubBad entry e = v at *
  obtain ⟨hframe, hmiss', hsome, -⟩ := v.scrubEnd_spec rfl
  have hgone := (hsome entry).trans (by rw [hnone])
  refine ⟨_, hexec, ?_, hmiss'.trans hmiss, Option.isSome_eq_false_iff.1 hgone |> Option.isNone_iff_eq_none.1, ?_⟩
  · rw [hframe]; exact hmem
  · rw [hframe, hall]

end

end

/-- Settles O52: a folio's digest by what its tracker has absorbed, scrubs by the entry's digest. -/
theorem passesAndScrubs : Obligations.PassesAndScrubs := by
  refine ⟨fun s acc i => ⟨folioDigestDone_of_noTracker, fun t ht => ⟨folioDigestDone_of_noFolio ht, fun bs => folioDigestDone_spec ht⟩⟩,
    fun s entry ctx => ⟨scrubStart_of_due, scrubStart_of_early, scrubEntryDone_of_idle, scrubEntryDone_of_free,
      fun e hb he => ⟨scrubEntryDone_of_done hb he, scrubEntryDone_of_match hb he, scrubEntryDone_of_clash hb he⟩, rfl⟩⟩

end Sys2Proof.Machine
end

section
/-! PROOFS. The lower tiers: returns to the archive, timeouts, host reads, refresh and patrol (R129, R221, R238 to R241, R246, R247,
R256, R263). -/

namespace Sys2Proof.Machine

/-! ## Packets sent or queued, and what leaves them so -/

/-- A packet sent or queued stays so where its sublink, what has left, the keys and the declarations of contexts stay. -/
theorem State.sentOrQueued_of_same {s t : State} {g : GroupIx} {b : SubIx} {p : LinkPacket} (hsub : t.sub g b = s.sub g b) (hout : t.out = s.out)
    (hcfg : t.cfg = s.cfg) (hctx : ∀ x k, s.ctx? x = some k → ∃ k', t.ctx? x = some k' ∧ k'.decl = k.decl) (h : s.sentOrQueued g b p) :
    t.sentOrQueued g b p := by
  have hkey : t.sendKey g = s.sendKey g := by
    funext r
    unfold State.sendKey State.keys
    rw [hcfg]
  unfold State.sentOrQueued at h ⊢
  rw [hsub, hout, hkey]
  refine h.imp_right fun ⟨w, r, hmem, hr, hw⟩ => ⟨w, r, hmem, hr, hw.imp_right fun ⟨hne, k, hk, hw⟩ => ⟨hne, ?_⟩⟩
  obtain ⟨k', hk', hdecl⟩ := hctx p.ctx k hk
  exact ⟨k', hk', by rw [hdecl]; exact hw⟩

/-- A context rewritten keeps the declaration of every context. -/
theorem State.modCtx_decl (s : State) (c : BitVec 16) (f : Ctx → Ctx) (hf : ∀ k, (f k).decl = k.decl) (x : BitVec 16) (k : Ctx)
    (hk : s.ctx? x = some k) : ∃ k', (s.modCtx c f).ctx? x = some k' ∧ k'.decl = k.decl := by
  have hmod := State.modCtx_ctx s (h := f) (fun k => by rw [hf]) c x
  rw [hk] at hmod
  refine ⟨_, hmod, ?_⟩
  dsimp only
  split
  · exact hf k
  · rfl

/-! ## Returns (R256, R263) -/

/-- After `n` packets of a return segment. -/
structure returned (c : CoreIx) (x : Gang) (g : GroupIx) (b : SubIx) (ctx : BitVec 16) (data : List Byte) (s t : State) (n : Nat) : Prop where
  frame : t = { s with cores := t.cores, memu := t.memu, links := t.links, fab := t.fab, out := t.out }
  other : ∀ d, d ≠ c → t.core d = s.core d
  gangs : (t.core c).gangs = (s.core c).gangs
  next : t.memu.nextReq = s.memu.nextReq + n
  acks : (t.task c x.task).cmds = (s.task c x.task).cmds.map fun y => if y.id == x.cmd then { y with acks := y.acks + n } else y
  sent : ∀ j, j < n → ∃ p, t.sentOrQueued g b p ∧ p.typ = 0x14 ∧ p.vc = 5 ∧ p.ctx = ctx ∧ p.body = slice data (4096 * j) 4096

/-- Two runs of acknowledgements awaited are one run of both. -/
theorem Cmd.acks_add (y : Cmd) (id m n : Nat) :
    (if (if y.id == id then { y with acks := y.acks + m } else y).id == id then
      { (if y.id == id then { y with acks := y.acks + m } else y) with acks := (if y.id == id then { y with acks := y.acks + m } else y).acks + n }
      else (if y.id == id then { y with acks := y.acks + m } else y)) = if y.id == id then { y with acks := y.acks + (m + n) } else y := by
  by_cases hy : (y.id == id) = true
  · simp only [if_pos hy, Nat.add_assoc]
  · simp only [if_neg hy]

section
variable {c : CoreIx} {x : Gang} {ctx : BitVec 16} {data : List Byte} {sh : ShardEntry} {k : Ctx} {off : Nat} {foul : List (Nat × Nat)}

/-- None has left. -/
theorem returned.zero (s : State) (g : GroupIx) (b : SubIx) : returned c x g b ctx data s s 0 := by
  refine ⟨rfl, fun _ _ => rfl, rfl, rfl, ?_, fun j hj => absurd hj (Nat.not_lt_zero j)⟩
  refine ((List.map_congr_left fun y _ => ?_).trans (List.map_id _)).symm
  split <;> rfl

/-- One more leaves. -/
theorem returned.succ {s t : State} {n : Nat} (h : returned c x k.group (ctxSub ctx) ctx data s t n) :
    returned c x k.group (ctxSub ctx) ctx data s (t.sendReturn c x sh ctx k off data foul n) (n + 1) := by
  obtain ⟨w, p, hv, hw, hp, hother, hgangs, hnext, hacks, hkeep⟩ : ∃ (w : State) (p : LinkPacket),
      t.sendReturn c x sh ctx k off data foul n = w.sendLink k.group (ctxSub ctx) p ∧
      w = { t with cores := w.cores, memu := w.memu, fab := w.fab } ∧
      (p.typ = 0x14 ∧ p.vc = 5 ∧ p.ctx = ctx ∧ p.body = slice data (4096 * n) 4096) ∧ (∀ d, d ≠ c → w.core d = t.core d) ∧
      (w.core c).gangs = (t.core c).gangs ∧ w.memu.nextReq = t.memu.nextReq + 1 ∧
      (w.task c x.task).cmds = (t.task c x.task).cmds.map (fun y => if y.id == x.cmd then { y with acks := y.acks + 1 } else y) ∧
      ∀ q, t.sentOrQueued k.group (ctxSub ctx) q → w.sentOrQueued k.group (ctxSub ctx) q := by
    refine ⟨_, _, rfl, rfl, ⟨rfl, rfl, rfl, rfl⟩, fun d hd => State.modCore_core_other _ _ _ _ hd, ?_, rfl, ?_, fun q hq => ?_⟩
    · unfold State.addAcks State.modTask
      rw [State.modCore_core]
      rfl
    · unfold State.addAcks
      rw [State.modTask_task]
      rfl
    · exact State.sentOrQueued_of_same (s := t) rfl rfl rfl
        (fun y k hk => t.modCtx_decl ctx (fun y => { y with seq := y.seq + 1 }) (fun _ => rfl) y k hk) hq
  obtain ⟨hframe, -⟩ := (w.sendLink_pumps k.group (ctxSub ctx) p).sends
  have hsent := w.sendLink_sentOrQueued k.group (ctxSub ctx) p
  have hstill {q : LinkPacket} (hq : w.sentOrQueued k.group (ctxSub ctx) q) : (w.sendLink k.group (ctxSub ctx) p).sentOrQueued k.group (ctxSub ctx) q :=
    State.sendLink_keeps_sentOrQueued hq
  rw [hv]
  generalize w.sendLink k.group (ctxSub ctx) p = v at *
  have hcore (d : CoreIx) : v.core d = w.core d := (congrArg (fun u : State => u.core d) hframe).trans rfl
  have htask : v.task c x.task = w.task c x.task := (congrArg (fun u : State => u.task c x.task) hframe).trans rfl
  have hmemu : v.memu = w.memu := (congrArg State.memu hframe).trans rfl
  refine ⟨by rw [hframe, hw, h.frame], fun d hd => (hcore d).trans ((hother d hd).trans (h.other d hd)), by rw [hcore, hgangs, h.gangs],
    by rw [hmemu, hnext, h.next, Nat.add_assoc], ?_, fun j hj => ?_⟩
  · rw [htask, hacks, h.acks, List.map_map]
    exact List.map_congr_left fun y _ => y.acks_add x.cmd n 1
  · obtain hj | rfl := Nat.lt_succ_iff_lt_or_eq.1 hj
    · obtain ⟨q, hq, hshape⟩ := h.sent j hj
      exact ⟨q, hstill (hkeep q hq), hshape⟩
    · exact ⟨p, hsent, hp⟩

/-- All that a segment returns leaves. -/
theorem returned.all (s : State) (n : Nat) : returned c x k.group (ctxSub ctx) ctx data s
    ((List.range n).foldl (fun s i => s.sendReturn c x sh ctx k off data foul i) s) n := by
  induction n with
  | zero => exact returned.zero s _ _
  | succ n ih =>
    rw [List.range_succ, List.foldl_append]
    exact ih.succ

end

/-- The bytes of a return segment. -/
def returnBody (x : Gang) (i : Nat × Desc) : List Byte := ((streamD i.2.bytes).transform x.data x.poison).flat.1

/-- Where they go in their shard. -/
def State.returnOff (s : State) (c : CoreIx) (x : Gang) (i : Nat × Desc) : Nat :=
  bits (s.locAddr c x.task (streamD i.2.bytes).dst) 0 40 + (match ((streamD i.2.bytes).outs (gangSeg 0x40 i.2 x.index) false).head? with
    | some y => y.2.1
    | none => 0)

/-- What a return segment sends, by its bytes and their place. -/
theorem State.returnOut_eq (s : State) (c : CoreIx) (x : Gang) (i : Nat × Desc) (sh : ShardEntry) (k : Ctx) :
    s.returnOut c x i.2 sh k = let off := s.returnOff c x i
      if sh.count * sh.w < off + (returnBody x i).length then s else (List.range (ceilDiv (returnBody x i).length 4096)).foldl (fun s j => s.sendReturn c x sh (streamD i.2.bytes).ctx k
        off (returnBody x i) ((streamD i.2.bytes).transform x.data x.poison).flat.2 j) s := rfl

/-- A segment within its shard sends all its packets. -/
theorem State.returnOut_returned {s : State} {c : CoreIx} {x : Gang} {i : Nat × Desc} {sh : ShardEntry} {k : Ctx}
    (hfit : s.returnOff c x i + (returnBody x i).length ≤ sh.count * sh.w) :
    returned c x k.group (ctxSub (streamD i.2.bytes).ctx) (streamD i.2.bytes).ctx (returnBody x i) s (s.returnOut c x i.2 sh k)
      (ceilDiv (returnBody x i).length 4096) := by
  rw [State.returnOut_eq, if_neg (Nat.not_lt.2 hfit)]
  exact returned.all s _

/-- A gang rewritten leaves every task as it was. -/
theorem State.modGang_task (s : State) (c : CoreIx) (slot : SlotIx) (f : Gang → Gang) (d : CoreIx) (v : TaskIx) :
    (s.modGang c slot f).task d v = s.task d v := by
  by_cases h : d = c
  · subst h
    exact (congrArg (fun k : Core => k.tasks[v.val]) (s.modCore_core d _)).trans rfl
  · exact congrArg (fun k : Core => k.tasks[v.val]) (State.modCore_core_other _ _ _ _ h)

/-- A gang that has nothing left to send. -/
theorem State.emptied_spec (s : State) (c : CoreIx) (slot : SlotIx) {x : Gang} (hx : (s.core c).gang? slot = some x) :
    ∀ y, ((s.modGang c slot fun y => { y with toSend := 0 }).core c).gang? slot = some y → y = { x with toSend := 0 } := by
  intro y hy
  have hg := s.modGang_gangs c slot fun y => { y with toSend := 0 }
  generalize s.modGang c slot (fun y => { y with toSend := 0 }) = t at *
  have hslot : (fun y : Gang => y.slot == slot) ∘ (fun y : Gang => if y.slot == slot then { y with toSend := 0 } else y) = fun y => y.slot == slot :=
    funext fun y => by
      dsimp only [Function.comp]
      split <;> rfl
  unfold Core.gang? at hx hy
  rw [hg, List.find?_map, hslot, hx] at hy
  exact (Option.some.inj hy).symm.trans (if_pos (List.find?_some hx))

section
variable {s : State} {c : CoreIx} {slot : SlotIx} {x : Gang} {m : Cmd} {i : Nat × Desc} {k : Ctx} {sh : ShardEntry}

theorem archiveReturnSend_of_noGang (h : (s.core c).gang? slot = none) : exec (.archiveReturnSend c slot) s = .next s := by
  refine congrArg Host.Outcome.next ?_
  rw [h]

/-- The data of a return segment is in hand. -/
def State.returnReady (s : State) (c : CoreIx) (x : Gang) (m : Cmd) (i : Nat × Desc) : Prop :=
  x.settled = true ∧ s.holdsOn c x m i.2 = true ∧ addrRange (s.locAddr c x.task (streamD i.2.bytes).dst) = 4

variable (hx : (s.core c).gang? slot = some x) (hm : (s.task c x.task).cmd? x.cmd = some m) (hi : m.descFor x.index = some i)
  (hk : s.ctx? (streamD i.2.bytes).ctx = some k) (hs : s.image.shards[bits (s.locAddr c x.task (streamD i.2.bytes).dst) 40 16]? = some sh)
include hx hm hi hk hs

theorem archiveReturnSend_of_gang : exec (.archiveReturnSend c slot) s = .next (
    if x.settled && s.holdsOn c x m i.2 && addrRange (s.locAddr c x.task (streamD i.2.bytes).dst) == 4 then
      (s.returnOut c x i.2 sh k).modGang c slot fun y => { y with toSend := 0 } else s) := by
  refine congrArg Host.Outcome.next ?_
  rw [hx]
  dsimp only
  rw [hm]
  dsimp only
  rw [hi]
  dsimp only
  rw [hk, hs]

theorem archiveReturnSend_of_unready (h : ¬ s.returnReady c x m i) : exec (.archiveReturnSend c slot) s = .next s :=
  (archiveReturnSend_of_gang hx hm hi hk hs).trans (congrArg Host.Outcome.next (if_neg fun e => h (by
    unfold State.returnReady
    simpa only [Bool.and_eq_true, beq_iff_eq, and_assoc] using e)))

theorem archiveReturnSend_of_ready (h : s.returnReady c x m i) :
    exec (.archiveReturnSend c slot) s = .next ((s.returnOut c x i.2 sh k).modGang c slot fun y => { y with toSend := 0 }) := by
  obtain ⟨h1, h2, h3⟩ := h
  refine (archiveReturnSend_of_gang hx hm hi hk hs).trans (congrArg Host.Outcome.next (if_pos ?_))
  rw [h1, h2, h3]
  rfl

/-- A return segment leaves as packets of at most 4,096 bytes. -/
theorem archiveReturnSend_of_fit (h : s.returnReady c x m i) (hfit : s.returnOff c x i + (returnBody x i).length ≤ sh.count * sh.w) :
    answers (exec (.archiveReturnSend c slot) s) fun u => u.mem = s.mem ∧
      u = { s with cores := u.cores, memu := u.memu, links := u.links, fab := u.fab, out := u.out } ∧ (∀ d, d ≠ c → u.core d = s.core d) ∧
      u.memu.nextReq = s.memu.nextReq + ceilDiv (returnBody x i).length 4096 ∧
      (∀ y, (u.core c).gang? slot = some y → y = { x with toSend := 0 }) ∧
      (∀ j, j < ceilDiv (returnBody x i).length 4096 → ∃ p, u.sentOrQueued k.group (ctxSub (streamD i.2.bytes).ctx) p ∧ p.typ = 0x14 ∧
        p.vc = 5 ∧ p.ctx = (streamD i.2.bytes).ctx ∧ p.body = slice (returnBody x i) (4096 * j) 4096) ∧
      (u.task c x.task).cmds = (s.task c x.task).cmds.map (fun y => if y.id == x.cmd then
        { y with acks := y.acks + ceilDiv (returnBody x i).length 4096 } else y) := by
  have hall := State.returnOut_returned (s := s) (c := c) (x := x) (k := k) hfit
  have hexec := archiveReturnSend_of_ready hx hm hi hk hs h
  generalize s.returnOut c x i.2 sh k = t at *
  obtain ⟨hframe, hother, hgangs, hnext, hacks, hsent⟩ := hall
  obtain ⟨hmod, hmodOther⟩ := t.modGang_onlyCore c slot fun y => { y with toSend := 0 }
  have hempty := t.emptied_spec c slot (x := x) (by unfold Core.gang? at hx ⊢; rw [hgangs]; exact hx)
  have htask := t.modGang_task c slot (fun y => { y with toSend := 0 }) c x.task
  generalize t.modGang c slot (fun y => { y with toSend := 0 }) = u at *
  have hlinks : ∀ p, t.sentOrQueued k.group (ctxSub (streamD i.2.bytes).ctx) p → u.sentOrQueued k.group (ctxSub (streamD i.2.bytes).ctx) p :=
    fun p hp => by rw [hmod]; exact hp
  refine ⟨u, hexec, by rw [hmod, hframe], by rw [hmod, hframe], fun d hd => (hmodOther d hd).trans (hother d hd), by rw [hmod]; exact hnext, hempty,
    fun j hj => ?_, by rw [htask, hacks]⟩
  obtain ⟨p, hp, hshape⟩ := hsent j hj
  exact ⟨p, hlinks p hp, hshape⟩

/-- One that runs past its shard's end is answered absent. -/
theorem archiveReturnSend_of_past (h : s.returnReady c x m i) (hpast : sh.count * sh.w < s.returnOff c x i + (returnBody x i).length) :
    answers (exec (.archiveReturnSend c slot) s) fun u => onlyCore c s u ∧ ∀ y, (u.core c).gang? slot = some y → y = { x with toSend := 0 } := by
  have hout : s.returnOut c x i.2 sh k = s := if_pos hpast
  have hexec := archiveReturnSend_of_ready hx hm hi hk hs h
  rw [hout] at hexec
  exact ⟨_, hexec, s.modGang_onlyCore c slot _, s.emptied_spec c slot hx⟩

end

/-! ## Requests past their deadline (R246, R247) -/

section
variable {s : State} {id : Nat}

/-- A request ended by its timeout is counted and logged. -/
theorem State.timedOut_spec (s : State) (loc : Nat) (r : Req) {t : State} (ht : t = s.timedOut loc r) :
    t = { s with memu := { s.memu with timeouts := bump s.memu.timeouts }, flt := t.flt, out := t.out } ∧
      ∃ e ∈ t.flt.log, e.code = faultCode 1 2 loc := by
  subst ht
  exact ⟨(State.modEvent_only _ _ _ _ _).trans rfl, State.modEvent_logged _ _ _ _ _⟩

/-- Between two states the gang that waits for a request is fed, the log and what has left aside. -/
def fedGang (s v : State) (r : Req) (f : Gang → Gang) : Prop :=
  v = { s with cores := v.cores, memu := v.memu, flt := v.flt, out := v.out } ∧
    ((∃ x, (s.core r.core).gang? r.slot = some x ∧ x.task = r.task ∧ x.cmd = r.cmd) →
      (v.core r.core).gangs = (s.core r.core).gangs.map fun y => if y.slot == r.slot then f y else y) ∧
    ((¬ ∃ x, (s.core r.core).gang? r.slot = some x ∧ x.task = r.task ∧ x.cmd = r.cmd) → v.cores = s.cores) ∧ ∀ d, d ≠ r.core → v.core d = s.core d

/-- The gang of a request fed, and the requests rewritten. -/
theorem State.modReqGang_fedGang (t : State) (r : Req) (f : Gang → Gang) {m : MemUnit} {v : State} (hv : v = { t.modReqGang r f with memu := m }) :
    fedGang t v r f ∧ v.memu = m ∧ v.flt = t.flt := by
  obtain ⟨⟨-, hwaits, hidle, hother⟩, hmemu⟩ := State.modReqGang_fed (s := t) rfl r f m hv
  obtain ⟨hframe, -⟩ := t.modReqGang_spec r f rfl
  generalize t.modReqGang r f = w at *
  exact ⟨⟨by rw [hv, hframe], hwaits, hidle, hother⟩, hmemu, by rw [hv, hframe]⟩

/-- What a timeout counts and logs leaves what fedGang a gang. -/
theorem fedGang.of_logged {s t v : State} {r : Req} {f : Gang → Gang} (h : fedGang t v r f) (ht : t = { s with memu := t.memu, flt := t.flt, out := t.out }) :
    fedGang s v r f := by
  obtain ⟨hv, hwaits, hidle, hother⟩ := h
  have hcore (d : CoreIx) : t.core d = s.core d := (congrArg (fun w : State => w.core d) ht).trans rfl
  have hcores : t.cores = s.cores := (congrArg State.cores ht).trans rfl
  rw [hcore] at hwaits hidle
  exact ⟨by rw [hv, ht], hwaits, fun hn => (hidle hn).trans hcores, fun d hd => (hother d hd).trans (hcore d)⟩

/-- The requests as they are once a gang has been fed. -/
theorem State.modReqGang_memu (t : State) (r : Req) (f : Gang → Gang) : (t.modReqGang r f).memu = t.memu :=
  (congrArg State.memu (t.modReqGang_spec r f rfl).1).trans rfl

/-- A read that ends without its data. -/
theorem State.failRead_fedGang (t : State) (r : Req) {v : State} (hv : v = t.failRead r) :
    fedGang t v r (fun y => y.lose (r.off + r.got) (r.len - r.got)) ∧ endedReq t v r ∧ v.flt = t.flt := by
  refine t.modReqGang_fedGang r _ (hv.trans ?_)
  unfold State.failRead State.endReq
  rw [State.modReqGang_memu]

/-- Data that does not end its request. -/
theorem State.readData_fedGang_of_more (t : State) (r : Req) {off : Nat} {bs : List Byte} {poison : Bool} (hlt : r.got + bs.length < r.len) {v : State}
    (hv : v = t.readData r off bs poison) : fedGang t v r (fun y => y.arrive (r.off + off) bs poison) ∧
      v.memu = { t.memu with reqs := t.memu.reqs.map fun y => if y.id == r.id then { y with got := y.got + bs.length } else y } := by
  obtain ⟨hfed, hmemu, -⟩ := t.modReqGang_fedGang r (fun y => y.arrive (r.off + off) bs poison) (v := v)
    (m := { t.memu with reqs := t.memu.reqs.map fun y => if y.id == r.id then { y with got := y.got + bs.length } else y })
    (hv.trans ((if_neg (Nat.not_le.2 hlt)).trans (by unfold State.modReq; rw [State.modReqGang_memu])))
  exact ⟨hfed, hmemu⟩

/-- Data with a request's last byte. -/
theorem State.readData_fedGang_of_last (t : State) (r : Req) {off : Nat} {bs : List Byte} {poison : Bool} (hle : r.len ≤ r.got + bs.length) {u : State}
    (hu : u = t.readData r off bs poison) :
    ∃ v, resumedFrom u v ∧ fedGang t v r (fun y => y.arrive (r.off + off) bs poison) ∧ endedReq t v r := by
  have hu' : u = (((t.modReqGang r fun x => x.arrive (r.off + off) bs poison).modReq r.id fun y =>
    { y with got := y.got + bs.length }).endReq r.id).resumeEvery := hu.trans (if_pos hle)
  obtain ⟨hfed, hmemu, -⟩ := t.modReqGang_fedGang r (fun y => y.arrive (r.off + off) bs poison) (m := { t.memu with
      reqs := t.memu.reqs.filter fun y => y.id != r.id, ended := r.id :: t.memu.ended })
    (v := ((t.modReqGang r fun x => x.arrive (r.off + off) bs poison).modReq r.id fun y => { y with got := y.got + bs.length }).endReq r.id) (by
      unfold State.endReq State.modReq
      dsimp only
      rw [State.modReqGang_memu, filter_map_id r _ (fun y => { y with got := y.got + bs.length }) fun _ => rfl])
  exact ⟨_, hu' ▸ resumedFrom_resumeEvery _, hfed, hmemu⟩

variable {r : Req}

theorem requestTimeout_of_req (hid : id < 2 ^ 32) (hr : (s.req? id).filter (fun y => y.kind.read) = some r) :
    exec (.requestTimeout id) s = .next (if s.now < r.deadline then s else ((s.timedOut 2 r).failRead r).resumeEvery) := by
  refine congrArg Host.Outcome.next ((if_neg (Nat.not_le.2 hid)).trans ?_)
  rw [hr]

/-- A read past its deadline ends with its data lost. -/
theorem requestTimeout_of_due (hid : id < 2 ^ 32) (hr : (s.req? id).filter (fun y => y.kind.read) = some r) (hdue : r.deadline ≤ s.now) :
    answers (exec (.requestTimeout id) s) fun u => ∃ v, resumedFrom u v ∧ v.memu.timeouts = bump s.memu.timeouts ∧
      (v.memu.ended = r.id :: s.memu.ended ∧ v.memu.reqs = s.memu.reqs.filter fun y => y.id != r.id) ∧
      fedGang s v r (fun y => y.lose (r.off + r.got) (r.len - r.got)) ∧
      ∃ e ∈ v.flt.log, e.code = faultCode 1 2 2 := by
  refine ⟨_, (requestTimeout_of_req hid hr).trans (congrArg Host.Outcome.next (if_neg (Nat.not_lt.2 hdue))), (s.timedOut 2 r).failRead r,
    resumedFrom_resumeEvery _, ?_⟩
  obtain ⟨hframe, hlog⟩ := s.timedOut_spec 2 r rfl
  generalize s.timedOut 2 r = t at *
  obtain ⟨hfed, hended, hflt⟩ := t.failRead_fedGang r rfl
  generalize t.failRead r = v at *
  have hmemu : t.memu = { s.memu with timeouts := bump s.memu.timeouts } := (congrArg State.memu hframe).trans rfl
  unfold endedReq at hended
  rw [hmemu] at hended
  refine ⟨by rw [hended], ⟨by rw [hended], by rw [hended]⟩, hfed.of_logged (by rw [hframe]), ?_⟩
  rw [hflt]
  exact hlog

theorem requestTimeout_of_early (hid : id < 2 ^ 32) (hr : (s.req? id).filter (fun y => y.kind.read) = some r) (h : s.now < r.deadline) :
    exec (.requestTimeout id) s = .next s := (requestTimeout_of_req hid hr).trans (congrArg Host.Outcome.next (if_pos h))

theorem requestTimeout_of_none (hid : id < 2 ^ 32) (hr : (s.req? id).filter (fun y => y.kind.read) = none) : exec (.requestTimeout id) s = .next s := by
  refine congrArg Host.Outcome.next ((if_neg (Nat.not_le.2 hid)).trans ?_)
  rw [hr]

/-- Archive requests have their TAGs above 2^32. -/
theorem requestTimeout_of_arch {a : ArchReq} (h : s.arch? id = some a) :
    exec (.requestTimeout (2 ^ 32 + id)) s = .next (if s.now < a.deadline then s else s.archTimeout a) := by
  refine congrArg Host.Outcome.next ((if_pos (Nat.le_add_right _ _)).trans ?_)
  rw [Nat.add_sub_cancel_left, h]

theorem requestTimeout_of_arch_due {a : ArchReq} (h : s.arch? id = some a) (hdue : a.deadline ≤ s.now) :
    answers (exec (.requestTimeout (2 ^ 32 + id)) s) fun u => u.memu.timeouts = bump s.memu.timeouts ∧
      u.intk.ended = a.reqId :: s.intk.ended ∧ u.intk.reqs = s.intk.reqs.filter fun y => y.reqId != a.reqId := by
  refine ⟨_, (requestTimeout_of_arch h).trans (congrArg Host.Outcome.next (if_neg (Nat.not_lt.2 hdue))), ?_⟩
  obtain ⟨t, ht, hframe⟩ : ∃ t : State, s.archTimeout a = (match s.image.shards[a.shard]? with
      | some sh => t.failArch a sh
      | none => t.dropArch a.reqId) ∧ t = { s with
        memu := { s.memu with timeouts := bump s.memu.timeouts }, intk := { s.intk with ended := a.reqId :: s.intk.ended }
        flt := t.flt, out := t.out } := ⟨_, rfl, (State.modEvent_only _ _ _ _ _).trans rfl⟩
  have hmemu : t.memu.timeouts = bump s.memu.timeouts := by rw [hframe]
  have hended : t.intk.ended = a.reqId :: s.intk.ended := by rw [hframe]
  have hreqs : t.intk.reqs = s.intk.reqs := by rw [hframe]
  rw [ht]
  split
  next sh _ =>
    obtain ⟨hr, -, -, he, hm⟩ := t.failArch_spec a sh rfl
    exact ⟨by rw [hm, hmemu], by rw [he, hended], by rw [hr, hreqs]⟩
  next =>
    unfold State.dropArch
    exact ⟨hmemu, hended, congrArg (List.filter _) hreqs⟩

theorem requestTimeout_of_arch_early {a : ArchReq} (h : s.arch? id = some a) (he : s.now < a.deadline) :
    exec (.requestTimeout (2 ^ 32 + id)) s = .next s := (requestTimeout_of_arch h).trans (congrArg Host.Outcome.next (if_pos he))

theorem requestTimeout_of_arch_none (h : s.arch? id = none) : exec (.requestTimeout (2 ^ 32 + id)) s = .next s := by
  refine congrArg Host.Outcome.next ((if_pos (Nat.le_add_right _ _)).trans ?_)
  rw [Nat.add_sub_cancel_left, h]

/-! ## Acknowledgements (R221, R247) -/

/-- A write acknowledged, the log and what has left aside. -/
def settledAck (s u : State) (r : Req) : Prop :=
  (u.memu.ended = r.id :: s.memu.ended ∧ u.memu.reqs = s.memu.reqs.filter fun y => y.id != r.id) ∧
  u = { s with cores := u.cores, grd := u.grd, memu := u.memu, flt := u.flt, out := u.out } ∧
  (r.kind ≠ .collAck → u.grd = s.grd ∧ (∀ d, d ≠ r.core → u.core d = s.core d) ∧
    (u.task r.core r.task).cmds = (s.task r.core r.task).cmds.map (fun y => if y.id == r.cmd then { y with acks := y.acks - 1 } else y)) ∧
  (r.kind = .collAck → u.cores = s.cores ∧ u.grd = { s.grd with chunks := s.grd.chunks.map fun x =>
    if x.ctx == r.ctx && x.nth == r.nth && x.index == r.off then { x with acks := x.acks - 1 } else x })

/-- A write acknowledged touches the cores, the chunks and the requests only. -/
theorem State.ackReq_frame (t : State) (r : Req) : t.ackReq r = { t with
    cores := (t.ackReq r).cores, grd := (t.ackReq r).grd, memu := (t.ackReq r).memu } := by
  unfold State.ackReq
  dsimp only
  split
  · rfl
  · rw [((t.endReq r.id).ackOne_onlyCore r.core r.task r.cmd).1]
    rfl

theorem State.ackReq_settled (t : State) (r : Req) {u : State} (hu : u = t.ackReq r) :
    settledAck t u r ∧ u.memu.timeouts = t.memu.timeouts ∧ u.flt = t.flt := by
  have hframe := t.ackReq_frame r
  obtain ⟨⟨hend, hother, hcoll, -⟩, -⟩ := State.ackReq_spec (s := t) rfl r hu
  rw [← hu] at hframe
  unfold endedReq at hend
  exact ⟨⟨⟨by rw [hend], by rw [hend]⟩, by rw [hframe], hother, hcoll⟩, by rw [hend], by rw [hframe]⟩

/-- What a timeout counts and logs leaves what an acknowledgement settles. -/
theorem settledAck.of_logged {s t u : State} (h : settledAck t u r)
    (ht : t = { s with memu := { s.memu with timeouts := t.memu.timeouts }, flt := t.flt, out := t.out }) : settledAck s u r := by
  obtain ⟨hend, hu, hother, hcoll⟩ := h
  rw [ht] at hend hother hcoll
  exact ⟨hend, by rw [hu, ht], hother, hcoll⟩

theorem ackTimeout_of_req (hr : (s.req? id).filter (fun y => !y.kind.read) = some r) :
    exec (.ackTimeout id) s = .next (if decide (s.now < r.deadline) || r.parked then s else (s.timedOut 3 r).ackReq r) := by
  refine congrArg Host.Outcome.next ?_
  rw [hr]

/-- A write past its deadline counts as acknowledged. -/
theorem ackTimeout_of_due (hr : (s.req? id).filter (fun y => !y.kind.read) = some r) (hdue : r.deadline ≤ s.now) (hp : r.parked = false) :
    answers (exec (.ackTimeout id) s) fun u => settledAck s u r ∧ u.memu.timeouts = bump s.memu.timeouts ∧
      ∃ e ∈ u.flt.log, e.code = faultCode 1 2 3 := by
  refine ⟨_, (ackTimeout_of_req hr).trans (congrArg Host.Outcome.next (if_neg ?_)), ?_⟩
  · simp [Nat.not_lt.2 hdue, hp]
  obtain ⟨hframe, hlog⟩ := s.timedOut_spec 3 r rfl
  generalize s.timedOut 3 r = t at *
  obtain ⟨hack, htime, hflt⟩ := t.ackReq_settled r rfl
  generalize t.ackReq r = u at *
  refine ⟨hack.of_logged (by rw [hframe]), by rw [htime, hframe], ?_⟩
  rw [hflt]
  exact hlog

theorem ackTimeout_of_early (hr : (s.req? id).filter (fun y => !y.kind.read) = some r) (h : s.now < r.deadline ∨ r.parked = true) :
    exec (.ackTimeout id) s = .next s :=
  (ackTimeout_of_req hr).trans (congrArg Host.Outcome.next (if_pos (by rwa [Bool.or_eq_true, decide_eq_true_iff])))

theorem ackTimeout_of_none (hr : (s.req? id).filter (fun y => !y.kind.read) = none) : exec (.ackTimeout id) s = .next s := by
  refine congrArg Host.Outcome.next ?_
  rw [hr]

/-! ## The tray host (R221) and late responses (R246) -/

variable {port : PortIx} {bs : List Byte} {poison : Bool}

theorem hostFlushReadDone_of_req (h : (s.req? id).filter (fun y => y.kind == .hostFlush && y.port == port.val) = some r) :
    answers (exec (.hostFlushReadDone port id) s) fun u => settledAck s u r := by
  refine ⟨s.ackReq r, congrArg Host.Outcome.next ?_, (s.ackReq_settled r rfl).1⟩
  rw [h]

theorem hostFlushReadDone_of_none (h : (s.req? id).filter (fun y => y.kind == .hostFlush && y.port == port.val) = none) :
    exec (.hostFlushReadDone port id) s = .next (if s.memu.ended.contains id = true then s.lateDiscard else s) := by
  refine congrArg Host.Outcome.next ?_
  rw [h]

theorem hostReadCompletion_of_req (h : (s.req? id).filter (fun y => y.kind == .hostRead && y.port == port.val) = some r) :
    exec (.hostReadCompletion port id poison bs) s = .next (if r.got + bs.length ≤ r.len then s.readData r r.got bs poison else s) := by
  refine congrArg Host.Outcome.next ?_
  rw [h]

theorem hostReadCompletion_of_none (h : (s.req? id).filter (fun y => y.kind == .hostRead && y.port == port.val) = none) :
    exec (.hostReadCompletion port id poison bs) s = .next (if s.memu.ended.contains id = true then s.lateDiscard else s) := by
  refine congrArg Host.Outcome.next ?_
  rw [h]

theorem hostReadCompletion_of_more (h : (s.req? id).filter (fun y => y.kind == .hostRead && y.port == port.val) = some r)
    (hlt : r.got + bs.length < r.len) :
    answers (exec (.hostReadCompletion port id poison bs) s) fun u => fedGang s u r (fun y => y.arrive (r.off + r.got) bs poison) ∧
      u.memu = { s.memu with reqs := s.memu.reqs.map fun y => if y.id == r.id then { y with got := y.got + bs.length } else y } :=
  ⟨_, (hostReadCompletion_of_req h).trans (congrArg Host.Outcome.next (if_pos (Nat.le_of_lt hlt))), s.readData_fedGang_of_more r hlt rfl⟩

theorem hostReadCompletion_of_last (h : (s.req? id).filter (fun y => y.kind == .hostRead && y.port == port.val) = some r)
    (hlast : r.got + bs.length = r.len) :
    answers (exec (.hostReadCompletion port id poison bs) s) fun u => ∃ v, resumedFrom u v ∧
      fedGang s v r (fun y => y.arrive (r.off + r.got) bs poison) ∧ v.memu.ended = r.id :: s.memu.ended ∧
      v.memu.reqs = s.memu.reqs.filter fun y => y.id != r.id := by
  refine ⟨_, (hostReadCompletion_of_req h).trans (congrArg Host.Outcome.next (if_pos (Nat.le_of_eq hlast))), ?_⟩
  obtain ⟨v, hres, hfed, hend⟩ := s.readData_fedGang_of_last r (off := r.got) (bs := bs) (poison := poison) (Nat.le_of_eq hlast.symm) rfl
  unfold endedReq at hend
  exact ⟨v, hres, hfed, by rw [hend], by rw [hend]⟩

theorem hostReadCompletion_of_over (h : (s.req? id).filter (fun y => y.kind == .hostRead && y.port == port.val) = some r)
    (hover : r.len < r.got + bs.length) : exec (.hostReadCompletion port id poison bs) s = .next s :=
  (hostReadCompletion_of_req h).trans (congrArg Host.Outcome.next (if_neg (Nat.not_le.2 hover)))

theorem lateResponseDiscard_eq : exec (.lateResponseDiscard id) s = .next (if s.memu.ended.contains id = true ∨
    s.intk.ended.any (fun x => x.toNat + 2 ^ 32 == id) = true then s.lateDiscard else s) := by
  refine congrArg Host.Outcome.next ?_
  simp only [Bool.or_eq_true]

end

/-! ## The stacks (R238 to R241) -/

section
variable {s : State} {f : FieldIx} {n : Nat} {addr : W64} {ecc : BitVec 2}

/-- A field rewritten. -/
theorem State.modField_as (s : State) (f : FieldIx) (h : Field → Field) : onlyField f s (s.modField f h) ∧ (s.modField f h).field f = h (s.field f) :=
  ⟨s.modField_onlyField f h, State.modField_field _ _ _⟩

theorem stackRefresh_of_on (h : (s.dom (vmif f)).isOn = true) : answers (exec (.stackRefresh f n) s) fun u => onlyField f s u ∧
    u.field f = { s.field f with refreshes := (s.field f).refreshes + 1, refDelay := bump (s.field f).refDelay n } :=
  ⟨_, congrArg Host.Outcome.next (if_neg (by simp [h])), s.modField_as f _⟩

theorem stackRefresh_of_off (h : (s.dom (vmif f)).isOn = false) : exec (.stackRefresh f n) s = .next s :=
  congrArg Host.Outcome.next (if_pos (by simp [h]))

theorem refreshRateChange_of_hot (h : 340 < (s.field f).stkTemp) :
    answers (exec (.refreshRateChange f) s) fun u => onlyField f s u ∧ u.field f = { s.field f with double := true } :=
  ⟨_, congrArg Host.Outcome.next (if_pos h), s.modField_as f _⟩

theorem refreshRateChange_of_mild (h : (s.field f).stkTemp ≤ 340) : exec (.refreshRateChange f) s = .next (match (s.field f).stkCool with
    | some t => if t + 10000000 ≤ s.now then s.modField f fun k => { k with double := false } else s
    | none => s) := congrArg Host.Outcome.next ((if_neg (Int.not_lt.2 h)).trans rfl)

theorem refreshRateChange_of_cool (h : (s.field f).stkTemp ≤ 340) (hc : ∃ t, (s.field f).stkCool = some t ∧ t + 10000000 ≤ s.now) :
    answers (exec (.refreshRateChange f) s) fun u => onlyField f s u ∧ u.field f = { s.field f with double := false } := by
  obtain ⟨t, ht, hle⟩ := hc
  rw [refreshRateChange_of_mild h, ht]
  exact ⟨_, congrArg Host.Outcome.next (if_pos hle), s.modField_as f _⟩

theorem refreshRateChange_of_wait (h : (s.field f).stkTemp ≤ 340) (hc : ¬ ∃ t, (s.field f).stkCool = some t ∧ t + 10000000 ≤ s.now) :
    exec (.refreshRateChange f) s = .next s := by
  rw [refreshRateChange_of_mild h]
  split
  next t ht => exact congrArg Host.Outcome.next (if_neg fun hle => hc ⟨t, ht, hle⟩)
  next => rfl

/-- Two states differ in the rows listed, the log, and what has left the module. -/
def listsOnly (s t : State) : Prop :=
  t = { s with memu := { s.memu with mapPend := t.memu.mapPend }, nvm := t.nvm, flt := t.flt, out := t.out }

theorem listsOnly.trans {s t v : State} (h : listsOnly s t) (h' : listsOnly t v) : listsOnly s v := by
  unfold listsOnly at *
  rw [h', h]

/-- An event of the module logged. -/
theorem listsOnly.modEvent {s t : State} (h : listsOnly s t) (cls unit loc : Nat) (l : List Byte) : listsOnly s (t.modEvent cls unit loc l) :=
  h.trans (by rw [listsOnly, t.modEvent_logOnly cls unit loc l])

/-- Service called for. -/
theorem listsOnly.service {s t : State} (h : listsOnly s t) (b : Nat) : listsOnly s (t.service b) := h.trans rfl

/-- A row whose bank has no spare left. -/
theorem State.noSpare_listsOnly (s : State) (r : RowId) : listsOnly s (s.noSpare r) := by
  unfold State.noSpare
  exact (listsOnly.modEvent (by exact rfl) _ _ _ _).service _

/-- A row listed. -/
theorem State.listRow_listsOnly (s : State) (r : RowId) : listsOnly s (s.listRow r) := by
  unfold State.listRow
  split
  · rfl
  · split
    · exact (listsOnly.modEvent (by exact rfl) _ _ _ _).service _
    · have hlisted : listsOnly s (State.modEvent { s with
          nvm := { s.nvm with mapOut := s.nvm.mapOut ++ [(r.row, r.bank)] }
          memu := { s.memu with mapPend := bump s.memu.mapPend } } 0 2 0x04 (leBytes 8 r.row)) :=
        listsOnly.modEvent (by exact rfl) _ _ _ _
      dsimp only
      split
      · exact hlisted.trans (State.noSpare_listsOnly _ _)
      · exact hlisted

/-- A corrected error is counted. -/
theorem State.eccCorr_spec (s : State) (g : Nat) {u : State} (hu : u = s.eccCorr g) :
    u = { s with memu := u.memu, nvm := u.nvm, flt := u.flt, out := u.out } ∧ u.memu.eccCorr = bump s.memu.eccCorr ∧
      u.memu.eccUncorr = s.memu.eccUncorr := by
  unfold State.eccCorr at hu
  dsimp only at hu
  split at hu
  · have hlist := State.listRow_listsOnly { s with memu := { s.memu with
      eccCorr := bump s.memu.eccCorr
      rowCorr := ((s.rowOf (64 * g)).row, s.rowErrors (s.rowOf (64 * g)).row + 1) :: s.memu.rowCorr.filter fun x => x.1 != (s.rowOf (64 * g)).row } }
      (s.rowOf (64 * g))
    rw [← hu] at hlist
    unfold listsOnly at hlist
    exact ⟨by rw [hlist], by rw [hlist], by rw [hlist]⟩
  · rw [hu]
    exact ⟨rfl, rfl, rfl⟩

/-- An uncorrectable error is counted, and its granule poisoned. -/
theorem State.eccUncorr_spec (s : State) (g : Nat) {u : State} (hu : u = s.eccUncorr g) :
    u.mem = s.mem.poison [g] ∧ (∀ c, c ≠ homeCore (64 * g) → u.core c = s.core c) ∧
      u = { s with mem := u.mem, cores := u.cores, memu := u.memu, nvm := u.nvm, flt := u.flt, out := u.out } ∧
      u.memu.eccUncorr = bump s.memu.eccUncorr := by
  have hother : ∀ c, c ≠ homeCore (64 * g) → (s.spoilAt none [g]).core c = s.core c := fun c hc => State.modCore_core_other _ _ _ _ hc
  have hspoil : s.spoilAt none [g] = { s with mem := s.mem.poison [g], cores := (s.spoilAt none [g]).cores } := rfl
  unfold State.eccUncorr at hu
  generalize s.spoilAt none [g] = t at *
  have hlists : listsOnly { t with memu := { t.memu with eccUncorr := bump t.memu.eccUncorr } } u := by
    rw [hu]
    exact (listsOnly.modEvent (by exact rfl) _ _ _ _).trans (State.listRow_listsOnly _ _)
  unfold listsOnly at hlists
  have hcore (c : CoreIx) : u.core c = t.core c := (congrArg (fun w : State => w.core c) hlists).trans rfl
  refine ⟨by rw [hlists, hspoil], fun c hc => (hcore c).trans (hother c hc), by rw [hlists, hspoil], by rw [hlists, hspoil]⟩

theorem patrolScrubRead_of_on (hp : place (addrLocal addr.toNat) = .stacks n) (hon : (s.dom (vmif (stacksField n))).isOn = true) :
    exec (.patrolScrubRead addr ecc) s = .next (if ecc = 0 then s else if ecc = 1 then s.eccCorr (addrLocal addr.toNat / 64)
      else s.eccUncorr (addrLocal addr.toNat / 64)) := by
  refine congrArg Host.Outcome.next ?_
  rw [hp]
  exact if_neg (by simp [hon])

/-- A corrected error of the patrol. -/
theorem patrolScrubRead_of_corrected (hp : place (addrLocal addr.toNat) = .stacks n) (hon : (s.dom (vmif (stacksField n))).isOn = true) (h : ecc = 1) :
    answers (exec (.patrolScrubRead addr ecc) s) fun u => u = { s with memu := u.memu, nvm := u.nvm, flt := u.flt, out := u.out } ∧
      u.memu.eccCorr = bump s.memu.eccCorr ∧ u.memu.eccUncorr = s.memu.eccUncorr :=
  ⟨_, (patrolScrubRead_of_on hp hon).trans (congrArg Host.Outcome.next ((if_neg (by rw [h]; decide)).trans (if_pos h))), s.eccCorr_spec _ rfl⟩

/-- An uncorrectable error of the patrol. -/
theorem patrolScrubRead_of_uncorrected (hp : place (addrLocal addr.toNat) = .stacks n) (hon : (s.dom (vmif (stacksField n))).isOn = true)
    (h : 1 < ecc.toNat) :
    answers (exec (.patrolScrubRead addr ecc) s) fun u => u.mem = s.mem.poison [addrLocal addr.toNat / 64] ∧
      (∀ c, c ≠ homeCore (64 * (addrLocal addr.toNat / 64)) → u.core c = s.core c) ∧
      u = { s with mem := u.mem, cores := u.cores, memu := u.memu, nvm := u.nvm, flt := u.flt, out := u.out } ∧
      u.memu.eccUncorr = bump s.memu.eccUncorr := by
  have h0 : ecc ≠ 0 := fun e => by rw [e] at h; exact absurd h (by decide)
  have h1 : ecc ≠ 1 := fun e => by rw [e] at h; exact absurd h (by decide)
  exact ⟨_, (patrolScrubRead_of_on hp hon).trans (congrArg Host.Outcome.next ((if_neg h0).trans (if_neg h1))), s.eccUncorr_spec _ rfl⟩

theorem patrolScrubRead_of_off (hp : place (addrLocal addr.toNat) = .stacks n) (hon : (s.dom (vmif (stacksField n))).isOn = false) :
    exec (.patrolScrubRead addr ecc) s = .next s := by
  refine congrArg Host.Outcome.next ?_
  rw [hp]
  exact if_pos (by simp [hon])

theorem patrolScrubRead_of_elsewhere (hp : ∀ o, place (addrLocal addr.toNat) ≠ .stacks o) : exec (.patrolScrubRead addr ecc) s = .next s := by
  refine congrArg Host.Outcome.next ?_
  split
  next o ho => exact absurd ho (hp o)
  next => rfl

end

/-- Settles O53: the returns by the packets they send one after another, the requests by how they end, the stacks command by command. -/
theorem lowerTiers : Obligations.LowerTiers := by
  unfold Obligations.LowerTiers
  refine ⟨fun s c slot x m i k sh => ?_, fun s c slot => archiveReturnSend_of_noGang, fun s id port bs poison => ?_, fun s f n addr ecc => ?_⟩
  · intro fd dst body off emptied hx hm hi hk hs ready
    exact ⟨archiveReturnSend_of_fit hx hm hi hk hs, archiveReturnSend_of_past hx hm hi hk hs, archiveReturnSend_of_unready hx hm hi hk hs⟩
  · intro hostRead flush late lateNow stray
    refine ⟨fun r => ⟨fun hid hr => ⟨requestTimeout_of_due hid hr, requestTimeout_of_early hid hr⟩,
      fun hr => ⟨ackTimeout_of_due hr, ackTimeout_of_early hr⟩, hostFlushReadDone_of_req,
      fun hr => ⟨hostReadCompletion_of_more hr, hostReadCompletion_of_last hr, hostReadCompletion_of_over hr⟩⟩,
      fun a ha => ⟨requestTimeout_of_arch_due ha, requestTimeout_of_arch_early ha⟩, requestTimeout_of_arch_none, requestTimeout_of_none,
      ackTimeout_of_none, hostFlushReadDone_of_none, hostReadCompletion_of_none, lateResponseDiscard_eq⟩
  · intro g cool patrol
    exact ⟨stackRefresh_of_on, stackRefresh_of_off, refreshRateChange_of_hot, refreshRateChange_of_cool, refreshRateChange_of_wait,
      fun hp hon => ⟨fun h => (patrolScrubRead_of_on hp hon).trans (congrArg Host.Outcome.next (if_pos h)),
        patrolScrubRead_of_corrected hp hon, patrolScrubRead_of_uncorrected hp hon⟩, patrolScrubRead_of_off, patrolScrubRead_of_elsewhere⟩

end Sys2Proof.Machine
end

section
/-! PROOFS. The gradient chain (R291 to R293): where the chunk behind has not landed, a chunk whose CRC fails is not yet judged. -/

namespace Sys2Proof.Machine

/-! ## A chunk whose elements run on into the next -/

/-- The descriptor of a chain: 5,000 exact partials of 24 bytes (WFMT 7) in chunks of 64 KiB, on group 1. -/
def straddlingDesc : List Byte :=
  zeros 16 ++ leBytes 4 120000 ++ leBytes 2 1 ++ [4, 7] ++ zeros 4 ++ [16] ++ zeros 35

/-- The chain as core 0 carries it: its 2 chunks still have their work. -/
def straddlingRun : CollRun :=
  { group := 1, core := 0, slot := 0, task := 0, cmd := 0, idx := 0, lead := 0, nth := 1, at_ := 0, desc := straddlingDesc,
    started := true, units := 2, steps := 2 }

/-- Its group, whose only reduction core is core 0. -/
def straddlingGroup : GroupEntry := { group := 1, nmem := 2, role := 0, rect := 0, cap := 0, members := [1, 0] }

/-- Its gang, which awaits the collective. -/
def straddlingGang : Gang := { slot := 0, task := 0, queue := .str, cmd := 0, index := 0, started := true, await := 1 }

/-- Its chunk 0, landed whole, with a CRC that differs from its header's. -/
def straddlingChunk : Chunk :=
  { ctx := 0, group := 1, nth := 1, index := 0, header := zeros 64, got := 65536, len := 65536, crc := 0, poison := false, addr := some 0,
    added := false, sent := false, acks := 0 }

/-- Chunk 0 has landed and chunk 1, which holds the last 8 bytes of its last element, has not. -/
def straddling : State :=
  { ({} : State).modCore 0 (fun k => { k with gangs := [straddlingGang] }) with
    pit := { image := { groups := [straddlingGroup] } }, grd := { colls := [straddlingRun], chunks := [straddlingChunk] } }

/-- A core at the corner of a group's rectangle comes first among its reduction cores. -/
theorem State.redCores_corner {s : State} {e : GroupEntry} (hen : s.enabled 0 = true) (hin : inRect e.rectWord 0 = true) :
    ∃ l, s.redCores e = 0 :: l := by
  have hfind : (List.finRange 256).find? (fun c => coreX c.val == 0 && coreY c.val == 0 && s.enabled c.val && inRect e.rectWord c.val) = some 0 := by
    rw [List.finRange_succ, List.find?_cons_of_pos]
    simp [hen, hin]
    decide
  have hrange : List.range 16 = 0 :: List.range' 1 15 := rfl
  unfold State.redCores
  rw [hrange, List.flatMap_cons, List.filterMap_cons]
  rw [hfind]
  exact ⟨_, rfl⟩

/-- That core serves chunk 0. -/
theorem State.serves_corner {s : State} {e : GroupEntry} (hen : s.enabled 0 = true) (hin : inRect e.rectWord 0 = true) :
    s.serves e (s.rankOf e 0) 0 = true := by
  obtain ⟨l, hl⟩ := State.redCores_corner hen hin
  unfold State.serves State.rankOf
  rw [hl, List.findIdx_cons, Nat.zero_mod]
  rfl

/-- Landed values are not known while an element runs on into a chunk that has not landed. -/
theorem State.landedElems_none {s : State} {r : CollRun} {x : Gang} {y : Chunk} {a total : Nat}
    (htotal : (x.contribution (collD r.desc)).length * (collD r.desc).width = total)
    (hafter : ((chunkElems (collD r.desc).width (chunkSpan r total y.index)).1 + (chunkElems (collD r.desc).width (chunkSpan r total y.index)).2.1) *
      (collD r.desc).width - ((chunkSpan r total y.index).1 + (chunkSpan r total y.index).2) ≠ 0)
    (hends : s.chunkEnds r (y.index + 1) ((collD r.desc).width - 1) = none) : s.landedElems r x y a = none := by
  subst htotal
  unfold State.landedElems
  dsimp only
  rw [if_neg hafter, hends]
  split
  next b f hb hf => exact absurd hf (by nofun)
  next => rfl

/-- A chunk whose CRC fails is noted so in what the module holds of collectives. -/
theorem State.chunkBad_grd (s : State) (x : Chunk) : (s.chunkBad x).grd = { s.grd with
    chunkCrc := bump s.grd.chunkCrc
    chunks := s.grd.chunks.map fun y => if y == x then { y with failed := true, poison := true, len := y.got } else y } := by
  have hspoil (a : Nat) : (s.spoilAt none (granules a x.got)).grd = s.grd := (congrArg State.grd (s.spoilAt_eccOnly none _)).trans rfl
  unfold State.chunkBad
  rw [State.modEvent_only]
  dsimp only
  split
  next a _ => rw [hspoil a]
  next => rfl

/-- A landed chunk whose landed values are not yet known changes nothing. -/
theorem chainChunkLanded_of_unknown {s : State} {c : CoreIx} {slot : SlotIx} {n a : Nat} {errs : List AddErr} {r : CollRun} {e : GroupEntry}
    {x : Gang} {y z : Chunk} (hr : s.runAt c slot 4 = some (r, e, x)) (hrun : s.runOf c slot = some r) (hy : s.chunkOf r n = some y)
    (hz : (s.judgeSums y).chunkOf r n = some z) (ha : y.addr = some a) (hl : (s.judgeSums y).landedElems r x z a = none) :
    exec (.chainChunkLanded c slot n errs) s = .next s := by
  refine congrArg Host.Outcome.next ?_
  rw [hr, hrun]
  dsimp only [Option.bind_some]
  rw [hy]
  dsimp only
  split
  · rfl
  · rw [hz, ha]
    dsimp only
    rw [hl]

/-! ## The counterexample -/

theorem straddling_gang : (straddling.core 0).gang? 0 = some straddlingGang :=
  (congrArg (fun k : Core => k.gang? 0) (State.modCore_core {} 0 fun k => { k with gangs := [straddlingGang] })).trans rfl

theorem straddling_runOf : straddling.runOf 0 0 = some straddlingRun := rfl

theorem straddling_chunkOf : straddling.chunkOf straddlingRun 0 = some straddlingChunk := rfl

theorem straddling_kind : (collD straddlingDesc).kind = 4 := by decide

theorem straddling_width : (collD straddlingDesc).width = 24 := by decide

theorem straddling_runAt : straddling.runAt 0 0 4 = some (straddlingRun, straddlingGroup, straddlingGang) := by
  unfold State.runAt
  rw [straddling_gang, straddling_runOf]
  dsimp only
  rw [if_pos (by decide)]
  rfl

theorem straddling_serves : straddling.servesChunk straddlingRun straddlingGroup 0 = true := by
  unfold State.servesChunk
  rw [show straddlingRun.core = 0 from rfl, State.serves_corner (by decide) (by decide)]
  rfl

/-- Chunk 0 holds 65,536 bytes, the first 16 of its element 2,730 among them. -/
theorem straddling_span : chunkSpan straddlingRun 120000 0 = (0, 65536) := by
  have hunit : (collD straddlingDesc).unit = 65536 := by
    unfold CollD.unit
    rw [if_neg (by rw [straddling_kind]; decide)]
    exact congrArg (2 ^ ·) (by decide : (collD straddlingDesc).chunk = 16)
  unfold chunkSpan
  rw [show straddlingRun.desc = straddlingDesc from rfl, show straddlingRun.base = 0 from rfl, hunit]
  simp

/-- Its contribution has 5,000 elements. -/
theorem straddling_total : (straddlingGang.contribution (collD straddlingRun.desc)).length * (collD straddlingRun.desc).width = 120000 := by
  rw [show straddlingRun.desc = straddlingDesc from rfl]
  have hmask : (collD straddlingDesc).mask = false := by decide
  have hlen : (collD straddlingDesc).len = 120000 := by decide
  unfold Gang.contribution CollD.elemOffs
  dsimp only
  rw [if_pos (by rw [hmask]; rfl), straddling_width, hlen, List.length_map, List.length_map, List.length_range]

/-- Its CRC fails. -/
theorem straddling_judgeSums : straddling.judgeSums straddlingChunk = straddling.chunkBad straddlingChunk := if_neg (by decide)

/-- What the module holds of collectives once chunk 0 is judged: chunk 1 is still missing. -/
theorem straddling_judged_grd : (straddling.judgeSums straddlingChunk).grd = { straddling.grd with
    chunkCrc := bump straddling.grd.chunkCrc, chunks := [{ straddlingChunk with failed := true, poison := true }] } := by
  rw [straddling_judgeSums, State.chunkBad_grd]
  rfl

theorem straddling_judged_chunkOf (n : Nat) : (straddling.judgeSums straddlingChunk).chunkOf straddlingRun n =
    [{ straddlingChunk with failed := true, poison := true }].find? fun x => x.group == straddlingRun.group && x.nth == straddlingRun.nth && x.index == n := by
  unfold State.chunkOf
  rw [straddling_judged_grd]

/-- Its landed values are not known while chunk 1 has not landed. -/
theorem straddling_landedElems : (straddling.judgeSums straddlingChunk).landedElems straddlingRun straddlingGang
    { straddlingChunk with failed := true, poison := true } 0 = none := by
  have hends : (straddling.judgeSums straddlingChunk).chunkEnds straddlingRun 1 23 = none := by
    unfold State.chunkEnds
    rw [straddling_judged_chunkOf, straddling_judged_grd]
    rfl
  have hwidth : (collD straddlingRun.desc).width = 24 := straddling_width
  refine State.landedElems_none (total := 120000) straddling_total ?_ (by rw [hwidth]; exact hends)
  have hindex : ({ straddlingChunk with failed := true, poison := true } : Chunk).index = 0 := rfl
  rw [hindex, straddling_span, hwidth]
  decide

theorem chainChunkLanded_straddling : exec (.chainChunkLanded 0 0 0 []) straddling = .next straddling :=
  chainChunkLanded_of_unknown straddling_runAt straddling_runOf straddling_chunkOf ((straddling_judged_chunkOf 0).trans rfl) rfl straddling_landedElems

/-- Refutes O54: chunk 0 has landed with a CRC that fails, but its last element runs on into chunk 1, which has not landed; nothing changes
then, and no failed chunk is counted. -/
theorem not_theGradientChain : ¬ Obligations.TheGradientChain := by
  unfold Obligations.TheGradientChain
  intro h
  obtain ⟨-, hchain⟩ := h
  obtain ⟨-, hrun⟩ := hchain straddling 0 0 0 []
  obtain ⟨-, -, hlanded, -⟩ := hrun straddlingRun straddlingGroup straddlingGang straddling_runAt
  obtain ⟨-, -, -, hbad⟩ := hlanded straddlingChunk straddling_chunkOf straddling_serves
  obtain ⟨u, hu, hcrc, -⟩ := hbad 0 (by decide) rfl (by decide)
  rw [← Host.Outcome.next.inj (chainChunkLanded_straddling.symm.trans hu)] at hcrc
  exact absurd hcrc (by decide)

end Sys2Proof.Machine
end

section
/-! PROOFS. Reduce-scatters, the expert exchange, the ledger and state skew (R164, R298, R301, R302, R337 to R342, R430, R478). -/

namespace Sys2Proof.Machine

/-! ## What a collective's own work may change -/

/-- Elements added, digested and written change memory, the cores, what travels on the mesh and the links, requests, the log and what has left. -/
def worksOnly (s t : State) : Prop :=
  t = { s with mem := t.mem, cores := t.cores, mesh := t.mesh, links := t.links, fab := t.fab, memu := t.memu, flt := t.flt, out := t.out }

theorem worksOnly.refl (s : State) : worksOnly s s := rfl

theorem worksOnly.trans {s t v : State} (h : worksOnly s t) (h' : worksOnly t v) : worksOnly s v := by
  unfold worksOnly at *
  rw [h', h]

/-- Steps that each may change so much. -/
theorem worksOnly.foldl {α : Type} {F : State → α → State} (h : ∀ t x, worksOnly t (F t x)) (l : List α) (s : State) : worksOnly s (l.foldl F s) :=
  List.foldlRecOn (motive := fun t : State => worksOnly s t) l F (worksOnly.refl s) fun t ht x _ => ht.trans (h t x)

/-- It leaves the collectives as they were. -/
theorem worksOnly.grd {s t : State} (h : worksOnly s t) : t.grd = s.grd := (congrArg State.grd h).trans rfl

section
variable (s : State)

theorem State.sendLink_worksOnly (g : GroupIx) (b : SubIx) (p : LinkPacket) : worksOnly s (s.sendLink g b p) := by
  obtain ⟨hframe, -⟩ := (s.sendLink_pumps g b p).sends
  generalize s.sendLink g b p = t at *
  rw [worksOnly, hframe]

theorem State.coreEvent_worksOnly (c : CoreIx) (cls unit loc : Nat) : worksOnly s (s.coreEvent c cls unit loc) := by
  unfold State.coreEvent
  rw [worksOnly, State.logEvent_only]

theorem State.coreEvents_worksOnly (c : CoreIx) (loc n : Nat) : worksOnly s (s.coreEvents c loc n) := by
  induction n generalizing s with
  | zero => rfl
  | succ n ih => exact (s.coreEvent_worksOnly c 1 1 loc).trans (ih _)

theorem State.noteAdds_worksOnly (c : CoreIx) (u : UnitSum) : worksOnly s (s.noteAdds c u) := by
  have hcount (f : CoreCount → CoreCount) (n : Nat) : worksOnly s ((s.modCnt c f).coreEvents c 0x23 n) :=
    worksOnly.trans (t := s.modCnt c f) rfl (State.coreEvents_worksOnly _ c 0x23 n)
  unfold State.noteAdds
  dsimp only
  split
  · exact (hcount _ _).trans (State.coreEvent_worksOnly _ c 1 1 0x22)
  · exact hcount _ _

theorem State.digestRun_worksOnly (c : CoreIx) (t : TaskIx) (acc : Fin 16) (pos code : Nat) (bs : List Byte) (bad : List (Nat × Nat)) :
    worksOnly s (s.digestRun c t acc pos code bs bad) := worksOnly.foldl (fun _ _ => by exact rfl) _ s

theorem State.writeOut_worksOnly (c : CoreIx) (g : SlotIx) (t : TaskIx) (cmd : Nat) (k : Carry) (a : Nat) (bs : List Byte)
    (bad : List (Nat × Nat)) : worksOnly s (s.writeOut c g t cmd k a bs bad) := by
  unfold State.writeOut
  split
  · rfl
  · exact worksOnly.trans (t := s.addAcks c t cmd _) rfl (worksOnly.foldl (fun _ _ => by exact rfl) _ _)
  · split
    · rfl
    · exact worksOnly.trans (t := s.addAcks c t cmd _) rfl (worksOnly.foldl (fun v y =>
        worksOnly.trans (t := v.addReq .ack c g t cmd k.ctx _ _ _ _) rfl (State.sendLink_worksOnly _ _ _ _)) _ _)
  · split
    · rfl
    · exact worksOnly.foldl (fun _ _ => by exact rfl) _ s
  · rfl

theorem State.writeLast_worksOnly (c : CoreIx) (g : SlotIx) (t : TaskIx) (cmd : Nat) (k : Carry) (a : Nat) (bs : List Byte)
    (bad : List (Nat × Nat)) : worksOnly s (s.writeLast c g t cmd k a bs bad) := by
  have hout := s.writeOut_worksOnly c g t cmd k a bs bad
  have hflush (v : State) (b : Nat) : worksOnly v (v.hostFlush c g t cmd k.ctx b) := by
    unfold State.hostFlush
    split
    · split <;> rfl
    · rfl
  unfold State.writeLast
  dsimp only
  split
  · exact hout
  · exact hout.trans (hflush _ _)

theorem State.spend_worksOnly (c : CoreIx) (a n : Nat) (ctx : BitVec 16) (vc : Nat) (reduce : Bool) (rope : BitVec 12) :
    worksOnly s (s.spend c a n ctx vc reduce rope) := by
  unfold State.spend
  split
  · rfl
  · dsimp only
    split
    · split <;> rfl
    · split <;> rfl
    · rfl
    · rfl

theorem State.sendTodo_worksOnly (c : CoreIx) (g : SlotIx) (t : TaskIx) (cmd : Nat) (ord : Bool) (os : List CollOut) (shut : List (BitVec 16)) :
    worksOnly s (s.sendTodo c g t cmd ord os shut).1 := by
  induction os generalizing s shut with
  | nil => rfl
  | cons o rest ih =>
    unfold State.sendTodo
    split
    · exact ((s.spend_worksOnly ..).trans (State.writeLast_worksOnly ..)).trans (ih _ _)
    · exact ih s _

theorem State.digestOuts_worksOnly (r : CollRun) (outs : List (Nat × CollOut)) : worksOnly s (s.digestOuts r outs) := by
  unfold State.digestOuts
  dsimp only
  split
  · rfl
  · exact worksOnly.foldl (fun v _ => v.digestRun_worksOnly ..) _ s

theorem State.scatterUnit_worksOnly (r : CollRun) (e : GroupEntry) (errs : List AddErr) (u : Nat × Nat) : worksOnly s (s.scatterUnit r e errs u) := by
  unfold State.scatterUnit
  dsimp only
  split
  · exact ((s.noteAdds_worksOnly ..).trans (State.writeLast_worksOnly ..)).trans (State.digestRun_worksOnly ..)
  · exact (s.noteAdds_worksOnly ..).trans (State.writeLast_worksOnly ..)

end

/-! ## The run of a descriptor -/

/-- The run found is its gang's. -/
theorem State.runOf_key {s : State} {c : CoreIx} {slot : SlotIx} {r : CollRun} (h : s.runOf c slot = some r) : r.core = c ∧ r.slot = slot := by
  have hkey := List.find?_some h
  rwa [Bool.and_eq_true, beq_iff_eq, beq_iff_eq] at hkey

/-- A run at its work has started, and is its gang's. -/
theorem State.runAt_some {s : State} {c : CoreIx} {slot : SlotIx} {kind : Nat} {r : CollRun} {e : GroupEntry} {x : Gang}
    (h : s.runAt c slot kind = some (r, e, x)) : s.runOf c slot = some r ∧ r.started = true := by
  unfold State.runAt at h
  split at h
  next r' x' hr hx =>
    split at h
    next hw =>
      obtain ⟨e', -, he⟩ := Option.map_eq_some_iff.1 h
      simp only [Prod.mk.injEq] at he
      obtain ⟨rfl, rfl, rfl⟩ := he
      rw [Bool.and_eq_true, Bool.and_eq_true] at hw
      exact ⟨hr, hw.1.1⟩
    next => exact absurd h (by nofun)
  next => exact absurd h (by nofun)

/-- A run rewritten. -/
theorem State.modRun_runOf (s : State) (c : CoreIx) (slot : SlotIx) {f : CollRun → CollRun} (hf : ∀ r, (f r).core = r.core ∧ (f r).slot = r.slot) :
    (s.modRun c slot f).runOf c slot = (s.runOf c slot).map f := by
  have hkey : (fun r : CollRun => r.core == c && r.slot == slot) ∘ (fun r => if r.core == c && r.slot == slot then f r else r) =
      fun r => r.core == c && r.slot == slot := funext fun r => by
    dsimp only [Function.comp]
    split
    · rw [(hf r).1, (hf r).2]
    · rfl
  unfold State.modRun State.runOf
  dsimp only
  rw [List.find?_map, hkey]
  cases hr : s.grd.colls.find? fun r => r.core == c && r.slot == slot with
  | none => rfl
  | some r => exact congrArg some (if_pos (List.find?_some hr))

/-- A run settled is as it was, or gone: the latter when nothing of it is left to do. -/
theorem State.settleRun_spec (s : State) (c : CoreIx) (slot : SlotIx) {u : State} (hu : u = s.settleRun c slot) :
    u = { s with cores := u.cores, grd := { s.grd with colls := u.grd.colls } } ∧ (∀ z, u.runOf c slot = some z → s.runOf c slot = some z) ∧
      ((∀ z, s.runOf c slot = some z → z.over = true) → u.runOf c slot = none) := by
  unfold State.settleRun at hu
  split at hu
  next hn => rw [hu]; exact ⟨rfl, fun _ h => h, fun _ => hn⟩
  next r hr =>
    split at hu
    next ho =>
      rw [hu]
      exact ⟨rfl, fun _ h => h, fun h => absurd (h r hr) (by simpa using ho)⟩
    next ho =>
      have hgone : u.runOf c slot = none := by
        rw [hu]
        refine List.find?_eq_none.2 fun y hy => ?_
        exact (by simpa only [Bool.not_eq_true', Bool.not_eq_true] using (List.mem_filter.1 hy).2)
      exact ⟨by rw [hu]; rfl, fun z h => absurd (hgone.symm.trans h) (by nofun), fun _ => hgone⟩

/-- A descriptor's data sent and its run rewritten change what its work may change, and the runs. -/
def sendsRunsOnly (s t : State) : Prop :=
  t = { s with
    mem := t.mem, cores := t.cores, mesh := t.mesh, links := t.links, fab := t.fab, memu := t.memu, flt := t.flt, out := t.out
    grd := { s.grd with colls := t.grd.colls } }

theorem sendsRunsOnly.trans {s t v : State} (h : sendsRunsOnly s t) (h' : sendsRunsOnly t v) : sendsRunsOnly s v := by
  unfold sendsRunsOnly at *
  rw [h', h]

theorem worksOnly.sendsRunsOnly {s t : State} (h : worksOnly s t) : sendsRunsOnly s t := by
  unfold worksOnly at h
  rw [Machine.sendsRunsOnly, h]

/-- A run keeps its steps, if it is still there. -/
def stepsKept (c : CoreIx) (slot : SlotIx) (s u : State) : Prop := ∀ z, u.runOf c slot = some z → ∃ y, s.runOf c slot = some y ∧ z.steps = y.steps

theorem stepsKept.trans {c : CoreIx} {slot : SlotIx} {s t u : State} (h : stepsKept c slot s t) (h' : stepsKept c slot t u) : stepsKept c slot s u :=
  fun z hz => by
    obtain ⟨y, hy, hzy⟩ := h' z hz
    obtain ⟨x, hx, hyx⟩ := h y hy
    exact ⟨x, hx, hzy.trans hyx⟩

theorem worksOnly.runOf {s t : State} (h : worksOnly s t) (c : CoreIx) (slot : SlotIx) : t.runOf c slot = s.runOf c slot := by
  unfold State.runOf
  rw [h.grd]

theorem worksOnly.stepsKept {s t : State} (h : worksOnly s t) (c : CoreIx) (slot : SlotIx) : stepsKept c slot s t :=
  fun z hz => ⟨z, (h.runOf c slot).symm.trans hz, rfl⟩

/-- The data of a run rewritten. -/
theorem State.modTodo_stepsKept (s : State) (c : CoreIx) (slot : SlotIx) (f : List CollOut → List CollOut) :
    stepsKept c slot s (s.modRun c slot fun y => { y with todo := f y.todo }) := fun z hz => by
  rw [s.modRun_runOf c slot (f := fun y => { y with todo := f y.todo }) fun _ => ⟨rfl, rfl⟩, Option.map_eq_some_iff] at hz
  obtain ⟨y, hy, rfl⟩ := hz
  exact ⟨y, hy, rfl⟩

/-- A descriptor sends what it may. -/
theorem State.pumpRun_spec (s : State) (c : CoreIx) (slot : SlotIx) {u : State} (hu : u = s.pumpRun c slot) :
    sendsRunsOnly s u ∧ stepsKept c slot s u := by
  unfold State.pumpRun at hu
  split at hu
  next hn => rw [hu]; exact ⟨rfl, fun z hz => ⟨z, hz, rfl⟩⟩
  next r hr =>
    dsimp only at hu
    have hsent := s.sendTodo_worksOnly c slot r.task r.cmd (collD r.desc).ord r.todo []
    generalize s.sendTodo c slot r.task r.cmd (collD r.desc).ord r.todo [] = x at *
    have hmod := x.1.modTodo_stepsKept c slot fun _ => x.2
    obtain ⟨hframe, hruns, -⟩ := State.settleRun_spec _ c slot hu
    have hmodFrame : sendsRunsOnly x.1 (x.1.modRun c slot fun y => { y with todo := x.2 }) := rfl
    generalize x.1.modRun c slot (fun y => { y with todo := x.2 }) = w at *
    refine ⟨(hsent.sendsRunsOnly.trans hmodFrame).trans ?_, (hsent.stepsKept c slot).trans (hmod.trans fun z hz => ⟨z, hruns z hz, rfl⟩)⟩
    unfold sendsRunsOnly
    rw [hframe]

/-- Data of a descriptor is digested and sent. -/
theorem State.sendOuts_spec (s : State) (r : CollRun) (outs : List (Nat × CollOut)) (more : List CollOut) {u : State}
    (hu : u = s.sendOuts r outs more) : sendsRunsOnly s u ∧ stepsKept r.core r.slot s u := by
  have hdig := s.digestOuts_worksOnly r outs
  unfold State.sendOuts State.queueOut at hu
  generalize s.digestOuts r outs = t at *
  have hmod := t.modTodo_stepsKept r.core r.slot fun y => y ++ ((outs.map fun o => o.2) ++ more)
  have hmodFrame : sendsRunsOnly t (t.modRun r.core r.slot fun y => { y with todo := y.todo ++ ((outs.map fun o => o.2) ++ more) }) := rfl
  obtain ⟨hframe, hkept⟩ := State.pumpRun_spec _ r.core r.slot hu
  generalize t.modRun r.core r.slot (fun y => { y with todo := y.todo ++ ((outs.map fun o => o.2) ++ more) }) = w at *
  exact ⟨(hdig.sendsRunsOnly.trans hmodFrame).trans hframe, (hdig.stepsKept _ _).trans (hmod.trans hkept)⟩

/-! ## Reduce-scatters and experts (R298 to R302) -/

section
variable {s : State} {c : CoreIx} {slot : SlotIx} {errs : List AddErr} {r : CollRun} {e : GroupEntry} {x : Gang}

theorem reduceScatterAdd_of_none (h : s.runAt c slot 3 = none) : exec (.reduceScatterAdd c slot errs) s = .next s := by
  refine congrArg Host.Outcome.next ?_
  rw [h]

/-- The units of a reduce-scatter summed and written. -/
def State.scattered (s : State) (c : CoreIx) (r : CollRun) (e : GroupEntry) (errs : List AddErr) : State :=
  (s.unitsOf (collD r.desc) e (s.rankOf e c) r.base).foldl (fun v i => v.scatterUnit r e errs i) s

theorem reduceScatterAdd_of_run (h : s.runAt c slot 3 = some (r, e, x)) : exec (.reduceScatterAdd c slot errs) s =
    .next (if (r.wants.all fun w => w.left == 0) = true then
      ((s.scattered c r e errs).modRun c slot fun y => { y with steps := 0, parts := [] }).settleRun c slot else s) := by
  refine congrArg Host.Outcome.next ?_
  rw [h]
  rfl

/-- An owner that holds every block adds them. -/
theorem reduceScatterAdd_of_whole (h : s.runAt c slot 3 = some (r, e, x)) (hw : (r.wants.all fun w => w.left == 0) = true) :
    answers (exec (.reduceScatterAdd c slot errs) s) fun u => u.mem = (s.scattered c r e errs).mem ∧
      (∀ z, u.runOf c slot = some z → z.steps = 0) ∧ (r.todo = [] → u.runOf c slot = none) ∧ u.fields = s.fields ∧ u.glb = s.glb ∧
      u.pit = s.pit := by
  refine ⟨_, (reduceScatterAdd_of_run h).trans (congrArg Host.Outcome.next (if_pos hw)), ?_⟩
  obtain ⟨hr, hstarted⟩ := State.runAt_some h
  have hworks : worksOnly s (s.scattered c r e errs) := worksOnly.foldl (fun v i => v.scatterUnit_worksOnly r e errs i) _ s
  generalize s.scattered c r e errs = t at *
  have hmod := t.modRun_runOf c slot (f := fun y => { y with steps := 0, parts := [] }) fun _ => ⟨rfl, rfl⟩
  rw [hworks.runOf, hr] at hmod
  have hmodFrame : sendsRunsOnly t (t.modRun c slot fun y => { y with steps := 0, parts := [] }) := rfl
  have hmodMem : (t.modRun c slot fun y => { y with steps := 0, parts := [] }).mem = t.mem := rfl
  have hframes := hworks.sendsRunsOnly.trans hmodFrame
  generalize t.modRun c slot (fun y => { y with steps := 0, parts := [] }) = w at *
  obtain ⟨hframe, hruns, hgone⟩ := w.settleRun_spec c slot rfl
  generalize w.settleRun c slot = u at *
  unfold sendsRunsOnly at hframes
  refine ⟨by rw [hframe, ← hmodMem], fun z hz => ?_, fun htodo => hgone fun z hz => ?_, by rw [hframe, hframes], by rw [hframe, hframes],
    by rw [hframe, hframes]⟩
  · exact congrArg CollRun.steps (Option.some.inj ((hruns z hz).symm.trans hmod))
  · rw [Option.some.inj (hz.symm.trans hmod)]
    unfold CollRun.over
    dsimp only
    rw [hstarted, htodo, hw]
    rfl

theorem reduceScatterAdd_of_missing (h : s.runAt c slot 3 = some (r, e, x)) (hw : (r.wants.all fun w => w.left == 0) = false) :
    exec (.reduceScatterAdd c slot errs) s = .next s :=
  (reduceScatterAdd_of_run h).trans (congrArg Host.Outcome.next (if_neg (by rw [hw]; decide)))

/-- The one step of an expert exchange taken, and its data sent. -/
theorem State.oneStep_spec (t : State) (hr : t.runOf c slot = some r) (outs : List (Nat × CollOut)) (more : List CollOut) {u : State}
    (hu : u = (t.modRun c slot fun y => { y with steps := 0 }).sendOuts r outs more) :
    sendsRunsOnly t u ∧ ∀ z, u.runOf c slot = some z → z.steps = 0 := by
  obtain ⟨hcore, hslot⟩ := State.runOf_key hr
  obtain ⟨hframe, hkept⟩ := State.sendOuts_spec _ r outs more hu
  rw [hcore, hslot] at hkept
  refine ⟨sendsRunsOnly.trans (by exact rfl) hframe, fun z hz => ?_⟩
  obtain ⟨y, hy, hzy⟩ := hkept z hz
  rw [t.modRun_runOf c slot (f := fun y => { y with steps := 0 }) fun _ => ⟨rfl, rfl⟩, hr] at hy
  rw [hzy, ← Option.some.inj hy]

theorem expertDispatchSend_of_none (h : s.runAt c slot 5 = none) : exec (.expertDispatchSend c slot) s = .next s := by
  refine congrArg Host.Outcome.next ?_
  rw [h]

/-- A dispatch sends its rows, and counts those dropped. -/
theorem expertDispatchSend_of_run (h : s.runAt c slot 5 = some (r, e, x)) : answers (exec (.expertDispatchSend c slot) s) fun u =>
    (∀ z, u.runOf c slot = some z → z.steps = 0) ∧ u.grd.drop = bump s.grd.drop (s.droppedEntries e (s.rankOf e c) r.counts).length ∧
      u.grd.combZero = s.grd.combZero ∧ u.fields = s.fields ∧ u.glb = s.glb ∧ u.pit = s.pit := by
  have hexec : exec (.expertDispatchSend c slot) s = .next (({ s with grd := { s.grd with
      drop := bump s.grd.drop (s.droppedEntries e (s.rankOf e c) r.counts).length } }.modRun c slot fun y => { y with steps := 0 }).sendOuts r
      (s.dispatchRows r e x) (s.dispatchCounts r e)) := by
    refine congrArg Host.Outcome.next ?_
    rw [h]
  refine ⟨_, hexec, ?_⟩
  obtain ⟨hr, -⟩ := State.runAt_some h
  obtain ⟨hframe, hsteps⟩ := State.oneStep_spec { s with grd := { s.grd with
    drop := bump s.grd.drop (s.droppedEntries e (s.rankOf e c) r.counts).length } } hr (s.dispatchRows r e x) (s.dispatchCounts r e) rfl
  generalize State.sendOuts _ r (s.dispatchRows r e x) (s.dispatchCounts r e) = u at *
  unfold sendsRunsOnly at hframe
  exact ⟨hsteps, by rw [hframe], by rw [hframe], by rw [hframe], by rw [hframe], by rw [hframe]⟩

theorem expertCombineReturn_of_none (h : s.runAt c slot 6 = none) : exec (.expertCombineReturn c slot) s = .next s := by
  refine congrArg Host.Outcome.next ?_
  rw [h]

/-- The rows of a combine that no member returns, written as zero. -/
def State.zeroRows (s : State) (c : CoreIx) (r : CollRun) (e : GroupEntry) : List (Nat × CollOut) :=
  (s.droppedEntries e (s.rankOf e c) r.counts).map fun n =>
    (n * (collD r.desc).len, s.outTo r e (s.myPos e) (n * (collD r.desc).len) (zeros (collD r.desc).len) [])

/-- A combine returns its results, and counts the rows written as zero. -/
theorem expertCombineReturn_of_run (h : s.runAt c slot 6 = some (r, e, x)) : answers (exec (.expertCombineReturn c slot) s) fun u =>
    (∀ z, u.runOf c slot = some z → z.steps = 0) ∧ u.grd.combZero = bump s.grd.combZero (s.droppedEntries e (s.rankOf e c) r.counts).length ∧
      u.grd.drop = s.grd.drop ∧ u.fields = s.fields ∧ u.glb = s.glb ∧ u.pit = s.pit := by
  have hexec : exec (.expertCombineReturn c slot) s = .next (({ s with grd := { s.grd with
      combZero := bump s.grd.combZero (s.droppedEntries e (s.rankOf e c) r.counts).length } }.modRun c slot fun y => { y with steps := 0 }).sendOuts r
      (s.zeroRows c r e ++ s.combineOuts r e x) []) := by
    refine congrArg Host.Outcome.next ?_
    rw [h]
    rfl
  refine ⟨_, hexec, ?_⟩
  obtain ⟨hr, -⟩ := State.runAt_some h
  obtain ⟨hframe, hsteps⟩ := State.oneStep_spec { s with grd := { s.grd with
    combZero := bump s.grd.combZero (s.droppedEntries e (s.rankOf e c) r.counts).length } } hr (s.zeroRows c r e ++ s.combineOuts r e x) [] rfl
  generalize State.sendOuts _ r (s.zeroRows c r e ++ s.combineOuts r e x) [] = u at *
  unfold sendsRunsOnly at hframe
  exact ⟨hsteps, by rw [hframe], by rw [hframe], by rw [hframe], by rw [hframe], by rw [hframe]⟩

end

/-! ## The ledger (R164, R337 to R342) -/

section
variable {s : State} {l : LedgerReq} {rest : List LedgerReq}

theorem ledgerRecordWritten_of_none (h : s.aud.pend = [] ∨ s.glb.wardenUp = false) : exec .ledgerRecordWritten s = .next s := by
  refine congrArg Host.Outcome.next ?_
  split
  · rfl
  next r rest hp => exact if_pos (by rw [h.resolve_left (by rw [hp]; nofun)]; rfl)

/-- The oldest request taken from those that wait. -/
def State.ledgerTaken (s : State) (rest : List LedgerReq) : State := { s with aud := { s.aud with pend := rest } }

theorem ledgerRecordWritten_of_some (hp : s.aud.pend = l :: rest) (hup : s.glb.wardenUp = true) : exec .ledgerRecordWritten s =
    .next (((if l.err = 0 then (s.ledgerTaken rest).ledgerWrite l else (s.ledgerTaken rest).ledgerRefused l).fresh 20).ledgerDone l) := by
  refine congrArg Host.Outcome.next ?_
  rw [hp]
  exact if_neg (by rw [hup]; decide)

/-- The gang of a request has what it waited for. -/
theorem State.ledgerDone_spec (s : State) (l : LedgerReq) {u : State} (hu : u = s.ledgerDone l) : u = { s with cores := u.cores } ∧
    ∀ x, (s.core l.core).gang? l.slot = some x → x.task = l.task → x.cmd = l.cmd →
      (u.core l.core).gangs = (s.core l.core).gangs.map fun y => if y.slot == l.slot then { y with await := 0 } else y := by
  unfold State.ledgerDone at hu
  split at hu
  next x hx =>
    split at hu
    next hw => rw [hu]; exact ⟨(s.modGang_onlyCore l.core l.slot _).1, fun _ _ _ _ => s.modGang_gangs l.core l.slot _⟩
    next hw =>
      refine ⟨by rw [hu], fun y hy htask hcmd => absurd ?_ hw⟩
      rw [Option.some.inj (hx.symm.trans hy), htask, hcmd, Bool.and_eq_true, beq_self_eq_true, beq_self_eq_true]
      exact ⟨rfl, rfl⟩
  next hx => exact ⟨by rw [hu], fun y hy => absurd (hx.symm.trans hy) (by nofun)⟩

/-- A commit, or its refusal. -/
structure committed (s : State) (l : LedgerReq) (u : State) : Prop where
  frame : u = { s with aud := u.aud }
  signed : u.aud.signed = s.aud.signed
  pend : u.aud.pend = s.aud.pend
  ok : u.aud.ok = s.aud.ok
  done : bit (fieldAt l.block 4 1) 0 = true → s.commits l = true → u.aud.cseq = l.seq ∧ u.aud.pnum = BitVec.ofNat 32 l.pnum ∧
    u.aud.refused = s.aud.refused ∧ ∀ k, (ledgerLabels l.block).getLast? = some k →
      u.aud.label = BitVec.ofNat 32 k ∧ u.aud.cairn = BitVec.ofNat 128 (cairnSum l.cairns k)
  refused : bit (fieldAt l.block 4 1) 0 = true → s.commits l = false → u.aud.cseq = s.aud.cseq ∧ u.aud.refused = bump s.aud.refused
  none : bit (fieldAt l.block 4 1) 0 = false → u.aud.cseq = s.aud.cseq ∧ u.aud.refused = s.aud.refused

theorem State.commit_spec (s : State) (l : LedgerReq) : committed s l (s.commit l) := by
  unfold State.commit
  cases hask : bit (fieldAt l.block 4 1) 0 with
  | false => exact ⟨rfl, rfl, rfl, rfl, fun h => absurd (hask.symm.trans h) (by decide), fun h => absurd (hask.symm.trans h) (by decide), fun _ => ⟨rfl, rfl⟩⟩
  | true =>
    rw [if_neg (by decide)]
    cases hc : s.commits l with
    | true =>
      rw [if_pos rfl]
      refine ⟨rfl, rfl, rfl, rfl, fun _ _ => ⟨rfl, rfl, rfl, fun k hk => ?_⟩, fun _ h => absurd (hc.symm.trans h) (by decide),
        fun h => absurd (hask.symm.trans h) (by decide)⟩
      have hlast : s.lastCairn l = (k, cairnSum l.cairns k) := by
        unfold State.lastCairn
        rw [hk]
      exact ⟨congrArg (fun p : Nat × Nat => BitVec.ofNat 32 p.1) hlast, congrArg (fun p : Nat × Nat => BitVec.ofNat 128 p.2) hlast⟩
    | false =>
      rw [if_neg (by decide)]
      exact ⟨rfl, rfl, rfl, rfl, fun _ h => absurd (hc.symm.trans h) (by decide), fun _ _ => ⟨rfl, rfl⟩,
        fun h => absurd (hask.symm.trans h) (by decide)⟩

/-- A record written, with its commit. -/
theorem State.ledgerWrite_spec (s : State) (l : LedgerReq) (hwf : s.mem.wf = true) {u : State} (hu : u = s.ledgerWrite l) :
    u = { s with mem := u.mem, aud := u.aud, nvm := u.nvm } ∧ u.aud.pend = s.aud.pend ∧ u.aud.ok = bump s.aud.ok ∧
      (∀ b, b < addrLocal l.buf.toNat ∨ addrLocal l.buf.toNat + (s.signedRecord l).length ≤ b → u.mem.byte b = s.mem.byte b) ∧
      (∀ i (h : i < (s.signedRecord l).length), u.mem.byte (addrLocal l.buf.toNat + i) = (s.signedRecord l)[i]) ∧
      (bit (fieldAt l.block 4 1) 0 = true → s.commits l = true → u.aud.cseq = l.seq ∧ u.aud.pnum = BitVec.ofNat 32 l.pnum ∧
        u.aud.refused = s.aud.refused ∧ ∀ k, (ledgerLabels l.block).getLast? = some k →
          u.aud.label = BitVec.ofNat 32 k ∧ u.aud.cairn = BitVec.ofNat 128 (cairnSum l.cairns k)) ∧
      (bit (fieldAt l.block 4 1) 0 = true → s.commits l = false → u.aud.cseq = s.aud.cseq ∧ u.aud.refused = bump s.aud.refused) ∧
      (bit (fieldAt l.block 4 1) 0 = false → u.aud.cseq = s.aud.cseq ∧ u.aud.refused = s.aud.refused) := by
  unfold State.ledgerWrite at hu
  generalize s.signedRecord l = rec at *
  have hout := fun b => s.store_byte_outside (addrLocal l.buf.toNat) b rec [] hwf
  have hin := fun i => s.store_byte_inside (addrLocal l.buf.toNat) i rec hwf
  have hcommits : (s.store (addrLocal l.buf.toNat) rec []).commits l = s.commits l := rfl
  have hstore : s.store (addrLocal l.buf.toNat) rec [] = { s with mem := (s.store (addrLocal l.buf.toNat) rec []).mem } := rfl
  generalize s.store (addrLocal l.buf.toNat) rec [] = t at *
  obtain ⟨hframe, -, hpend, hok, hdone, hrefused, hnone⟩ := t.commit_spec l
  generalize t.commit l = v at *
  rw [hcommits] at hdone hrefused
  have haud : t.aud = s.aud := (congrArg State.aud hstore).trans rfl
  have hmem : u.mem = t.mem := by rw [hu]; exact (congrArg State.mem hframe).trans rfl
  rw [haud] at hpend hok hdone hrefused hnone
  refine ⟨?_, by rw [hu]; exact hpend, by rw [hu]; exact congrArg (bump ·) hok, fun b hb => by rw [hmem]; exact hout b hb,
    fun i hi => by rw [hmem]; exact hin i hi, by rw [hu]; exact hdone, by rw [hu]; exact hrefused, by rw [hu]; exact hnone⟩
  rw [hu, hframe, hstore]
  rfl

/-- Poison counted leaves every gang. -/
theorem State.countPoison_gangs (s : State) (c d : CoreIx) (n : Nat) : ((s.countPoison c n).core d).gangs = (s.core d).gangs := by
  by_cases h : d = c
  · subst h
    exact (congrArg Core.gangs (s.modCore_core d _)).trans rfl
  · exact congrArg Core.gangs (State.modCore_core_other _ _ _ _ h)

/-- A request refused. -/
theorem State.ledgerRefused_spec (s : State) (l : LedgerReq) {u : State} (hu : u = s.ledgerRefused l) :
    u = { s with mem := u.mem, cores := u.cores, aud := u.aud, flt := u.flt, out := u.out } ∧ (∀ c, (u.core c).gangs = (s.core c).gangs) ∧
      u.aud.pend = s.aud.pend ∧ u.mem = s.mem.poison [addrLocal l.buf.toNat / 64] ∧ u.aud.lastErr = l.err ∧ u.aud.bad = bump s.aud.bad ∧
      ∃ x ∈ u.flt.log, x.code = faultCode 0 0xA l.err.toNat := by
  obtain ⟨t, ht, hframe, hgangs⟩ : ∃ t : State, u = t.modEvent 0 0xA l.err.toNat ∧ t = { s with
      mem := s.mem.poison [addrLocal l.buf.toNat / 64], cores := t.cores, aud := { s.aud with lastErr := l.err, bad := bump s.aud.bad } } ∧
      ∀ c, (t.core c).gangs = (s.core c).gangs := by
    exact ⟨_, hu, rfl, fun c => State.countPoison_gangs _ _ _ _⟩
  have hlog := t.modEvent_logged 0 0xA l.err.toNat []
  have hevent := t.modEvent_only 0 0xA l.err.toNat []
  rw [← ht] at hlog hevent
  have hcore (c : CoreIx) : u.core c = t.core c := (congrArg (fun w : State => w.core c) hevent).trans rfl
  exact ⟨by rw [hevent, hframe], fun c => by rw [hcore, hgangs], by rw [hevent, hframe], by rw [hevent, hframe], by rw [hevent, hframe],
    by rw [hevent, hframe], hlog⟩

/-- The warden's oldest request gets its record. -/
theorem ledgerRecordWritten_of_ok (hp : s.aud.pend = l :: rest) (hup : s.glb.wardenUp = true) (he : l.err = 0) (hwf : s.mem.wf = true) :
    answers (exec .ledgerRecordWritten s) fun u => u.aud.pend = rest ∧ u.aud.ok = bump s.aud.ok ∧
      (∀ b, b < addrLocal l.buf.toNat ∨ addrLocal l.buf.toNat + (s.signedRecord l).length ≤ b → u.mem.byte b = s.mem.byte b) ∧
      (∀ i (h : i < (s.signedRecord l).length), u.mem.byte (addrLocal l.buf.toNat + i) = (s.signedRecord l)[i]) ∧
      (bit (fieldAt l.block 4 1) 0 = true → s.commits l = true → u.aud.cseq = l.seq ∧ u.aud.pnum = BitVec.ofNat 32 l.pnum ∧
        u.aud.refused = s.aud.refused ∧ ∀ k, (ledgerLabels l.block).getLast? = some k →
          u.aud.label = BitVec.ofNat 32 k ∧ u.aud.cairn = BitVec.ofNat 128 (cairnSum l.cairns k)) ∧
      (bit (fieldAt l.block 4 1) 0 = true → s.commits l = false → u.aud.cseq = s.aud.cseq ∧ u.aud.refused = bump s.aud.refused) ∧
      (bit (fieldAt l.block 4 1) 0 = false → u.aud.cseq = s.aud.cseq ∧ u.aud.refused = s.aud.refused) ∧
      (∀ x, (s.core l.core).gang? l.slot = some x → x.task = l.task → x.cmd = l.cmd →
        (u.core l.core).gangs = (s.core l.core).gangs.map fun y => if y.slot == l.slot then { y with await := 0 } else y) ∧
      u = { s with mem := u.mem, cores := u.cores, aud := u.aud, nvm := u.nvm, freeCtr := u.freeCtr } := by
  refine ⟨_, (ledgerRecordWritten_of_some hp hup).trans (by rw [if_pos he]), ?_⟩
  obtain ⟨hframe, hpend, hok, hout, hin, hdone, hrefused, hnone⟩ := (s.ledgerTaken rest).ledgerWrite_spec l hwf rfl
  have hrec : (s.ledgerTaken rest).signedRecord l = s.signedRecord l := rfl
  rw [hrec] at hout hin
  generalize (s.ledgerTaken rest).ledgerWrite l = v at *
  obtain ⟨hdoneFrame, htold⟩ := (v.fresh 20).ledgerDone_spec l rfl
  have hcore : (v.fresh 20).core l.core = s.core l.core := (congrArg (fun w : State => w.core l.core) hframe).trans rfl
  generalize (v.fresh 20).ledgerDone l = u at *
  have haud : u.aud = v.aud := (congrArg State.aud hdoneFrame).trans rfl
  have hmem : u.mem = v.mem := (congrArg State.mem hdoneFrame).trans rfl
  rw [hcore] at htold
  rw [haud, hmem]
  refine ⟨hpend, hok, hout, hin, hdone, hrefused, hnone, htold, ?_⟩
  rw [hdoneFrame, hframe]
  rfl

/-- It is refused, and its buffer poisoned. -/
theorem ledgerRecordWritten_of_err (hp : s.aud.pend = l :: rest) (hup : s.glb.wardenUp = true) (he : l.err ≠ 0) :
    answers (exec .ledgerRecordWritten s) fun u => u.aud.pend = rest ∧ u.mem = s.mem.poison [addrLocal l.buf.toNat / 64] ∧
      u.aud.lastErr = l.err ∧ u.aud.bad = bump s.aud.bad ∧
      (∀ x, (s.core l.core).gang? l.slot = some x → x.task = l.task → x.cmd = l.cmd →
        (u.core l.core).gangs = (s.core l.core).gangs.map fun y => if y.slot == l.slot then { y with await := 0 } else y) ∧
      (∃ x ∈ u.flt.log, x.code = faultCode 0 0xA l.err.toNat) ∧
      u = { s with mem := u.mem, cores := u.cores, aud := u.aud, flt := u.flt, out := u.out, freeCtr := u.freeCtr } := by
  refine ⟨_, (ledgerRecordWritten_of_some hp hup).trans (by rw [if_neg he]), ?_⟩
  obtain ⟨hframe, hgangs, hpend, hpoison, herr, hbad, hlog⟩ := (s.ledgerTaken rest).ledgerRefused_spec l rfl
  generalize (s.ledgerTaken rest).ledgerRefused l = v at *
  obtain ⟨hdoneFrame, htold⟩ := (v.fresh 20).ledgerDone_spec l rfl
  have hsame : ((v.fresh 20).core l.core).gangs = (s.core l.core).gangs := hgangs l.core
  generalize (v.fresh 20).ledgerDone l = u at *
  have haud : u.aud = v.aud := (congrArg State.aud hdoneFrame).trans rfl
  have hmem : u.mem = v.mem := (congrArg State.mem hdoneFrame).trans rfl
  have hflt : u.flt = v.flt := (congrArg State.flt hdoneFrame).trans rfl
  unfold Core.gang? at htold ⊢
  rw [hsame] at htold
  rw [haud, hmem, hflt]
  refine ⟨hpend, hpoison, herr, hbad, htold, hlog, ?_⟩
  rw [hdoneFrame, hframe]
  rfl

end

/-! ## State skew (R430, R462, R478) -/

section
variable {s : State} {kind : Byte} {again : Bool}

theorem stateSkew_of_idle (h : s.glb.wardenUp = false ∨ kind = 0 ∨ 5 < kind.toNat) : exec (.stateSkew kind again) s = .next s :=
  congrArg Host.Outcome.next (if_pos (by
    simp only [Bool.or_eq_true, Bool.not_eq_true', beq_iff_eq, decide_eq_true_iff, or_assoc]
    exact h))

/-- A skew counted, by its kind. -/
def State.skewed (s : State) (kind : Byte) : State :=
  { s with flt := { s.flt with skew := bump s.flt.skew }, pwr := { s.pwr with skew := if kind = 1 then bump s.pwr.skew else s.pwr.skew } }

theorem stateSkew_of_kind (hup : s.glb.wardenUp = true) (h0 : kind ≠ 0) (h5 : kind.toNat ≤ 5) : exec (.stateSkew kind again) s = .next (
    if again then (((s.skewed kind).logEvent 0 0xC kind.toNat kWarden 0).logEvent 5 0xC 6 kWarden 0).service svSkew
    else (s.skewed kind).logEvent 0 0xC kind.toNat kWarden 0) :=
  congrArg Host.Outcome.next (if_neg (by
    simp only [Bool.or_eq_true, Bool.not_eq_true', beq_iff_eq, decide_eq_true_iff, hup]
    rintro ((h | h) | h)
    · exact absurd h (by decide)
    · exact h0 h
    · exact absurd h (Nat.not_lt.2 h5)))

/-- An event logged leaves the count of skews. -/
theorem State.logEvent_logOnly (s : State) (cls unit loc kind ident : Nat) (d : List Byte) : logOnly s (s.logEvent cls unit loc kind ident d) :=
  s.logCode_logOnly _ _ _ _

/-- A state skew is counted and logged, and one found again calls for service. -/
theorem stateSkew_of_found (hup : s.glb.wardenUp = true) (h0 : kind ≠ 0) (h5 : kind.toNat ≤ 5) :
    answers (exec (.stateSkew kind again) s) fun u => u = { s with flt := u.flt, pwr := u.pwr, out := u.out } ∧ u.flt.skew = bump s.flt.skew ∧
      u.pwr = { s.pwr with skew := if kind = 1 then bump s.pwr.skew else s.pwr.skew } ∧
      (again = false → ∃ x ∈ u.flt.log, x.code = faultCode 0 0xC kind.toNat) ∧
      (again = true → u.flt.service.getLsbD 7 = true ∧ ∃ x ∈ u.flt.log, x.code = faultCode 5 0xC 6) := by
  refine ⟨_, stateSkew_of_kind hup h0 h5, ?_⟩
  have hone := (s.skewed kind).logEvent_logOnly 0 0xC kind.toNat kWarden 0 []
  obtain ⟨x, hx, hcode, -⟩ := (s.skewed kind).logHolds_logEvent 0 0xC kind.toNat kWarden 0 []
  generalize (s.skewed kind).logEvent 0 0xC kind.toNat kWarden 0 = t at *
  cases again with
  | false =>
    unfold logOnly at hone
    exact ⟨by rw [hone]; rfl, by rw [hone]; rfl, by rw [hone]; rfl, fun _ => ⟨x, hx, hcode⟩, fun h => absurd h (by decide)⟩
  | true =>
    have htwo := hone.trans (t.logEvent_logOnly 5 0xC 6 kWarden 0 [])
    obtain ⟨y, hy, hycode, -⟩ := t.logHolds_logEvent 5 0xC 6 kWarden 0 []
    generalize t.logEvent 5 0xC 6 kWarden 0 = v at *
    unfold logOnly at htwo
    rw [if_pos rfl]
    have hservice := v.service_getLsbD (b := svSkew) (by decide)
    exact ⟨by rw [htwo]; rfl, by rw [htwo]; rfl, by rw [htwo]; rfl, fun h => absurd h (by decide), fun _ => ⟨hservice, y, hy, hycode⟩⟩

end

/-- Settles O55: the collectives by what their own work leaves, the ledger by its record or its refusal, state skew by the events it logs. -/
theorem scattersExpertsAndLedger : Obligations.ScattersExpertsAndLedger := by
  unfold Obligations.ScattersExpertsAndLedger
  refine ⟨fun s c slot errs => ?_, fun s l rest => ?_, fun s kind again => ⟨stateSkew_of_found, stateSkew_of_idle⟩⟩
  · intro stepped
    exact ⟨reduceScatterAdd_of_none, expertDispatchSend_of_none, expertCombineReturn_of_none, fun r e x =>
      ⟨fun h => ⟨reduceScatterAdd_of_whole h, reduceScatterAdd_of_missing h⟩, expertDispatchSend_of_run, expertCombineReturn_of_run⟩⟩
  · intro record a asked told
    exact ⟨ledgerRecordWritten_of_none, fun hp hup => ⟨ledgerRecordWritten_of_ok hp hup, ledgerRecordWritten_of_err hp hup⟩⟩

end Sys2Proof.Machine
end
